-- ==== Sys2Proof/Word.lean ====
section
/-! DEFINITION. Words and their plainest arithmetic (spec/00 R1: bit 0 is the least significant bit, little-endian memory). -/

namespace Sys2Proof

/-- A general register's contents (spec/05 R88). -/
abbrev Word := BitVec 64

/-- One byte of memory. -/
abbrev Byte := BitVec 8

/-- A virtual or device physical address (spec/01 R21, spec/08 R175). -/
abbrev Addr := BitVec 52

end Sys2Proof
end

