-- ==== Sys2Proof/Config.lean ====
section
/-! DEFINITION. What an implementation or the outside world fixes, and the free values: opaque constants, so that
nothing can be proved of a value of theirs (log 14). -/

namespace Sys2Proof.Config

/-- A fresh free natural for each index: every choice the spec leaves open (logs 1, 14, 18, 20). -/
opaque free : Nat → Nat

/-- A core's pseudo-random sequence of victims: its term at a place (spec/01 R15; log 18). -/
opaque victim : Nat → Nat → Nat

/-- What a byte of host memory (region 0x2) or of a peer's window (region 0x3) holds before it is written (log 7). -/
opaque outsideByte : Nat → BitVec 8

/-- The 128-bit secret the security root draws at each package reset, by the count of resets (spec/14 R376). -/
opaque secret : Nat → BitVec 128

/-- What the cores of a command-processor pair fetch at an address: vendor firmware (spec/13 R345). -/
opaque firmware : Nat → Nat → BitVec 32

/-- Whether the ECDSA P-384 signature of an image with this digest verifies (spec/16 R425; log 10). -/
opaque imageVerifies : Nat → Bool

/-- The response to an SPDM request by its kind and argument (spec/16 R423; log 10). -/
opaque spdmResponse : Nat → Nat → Nat

/-- The response to a PLDM Type 0 request whose answer the spec does not give, by its command and argument (spec/16 R423; log 10). -/
opaque pldmResponse : Nat → Nat → Nat

/-- The device identification in BAR2, a byte for each offset (spec/16 R414; log 13). -/
opaque deviceId : Nat → BitVec 8

/-- The set of a line in a cache whose set function the spec does not give (spec/08 R181, R182; log 41). -/
opaque cacheSet : Nat → Nat

/-- The router reached from a router by an output port, and the input port there, if there is one (spec/08 R185; the topology
is not given). -/
opaque neighbour : Nat → Nat → Option (Nat × Nat)

/-- The links of a die, each with the die at its other end (spec/08 R185, R188). -/
opaque dieLinks : Nat → List (Nat × Nat)

/-- Whether an output port of a router shortens the path to a die's router (spec/08 R186). -/
opaque shortens : Nat → Nat → Nat → Nat → Bool

/-- The output ports of a router, its ejection port left out (spec/08 R185). -/
opaque ports : Nat → List Nat

/-- The link that an output port of a router crosses, if it crosses a UCIe link (spec/08 R188). -/
opaque linkOf : Nat → Nat → Option Nat

/-- The place, die and router, of a router number. -/
opaque routerPlace : Nat → Nat × Nat

end Sys2Proof.Config
end

