-- ==== Sys2Proof/Machine/Codes.lean ====
section
/-! DEFINITION. Fault-code numbers (spec/14 R388), status words (spec/11 R284) and bit fields. -/

namespace Sys2Proof.Machine

abbrev Code := BitVec 8

def ILL_OP : Code := 0x01
def ILL_RSV : Code := 0x02
def PORT_MISUSE : Code := 0x03
def REG_LIMIT : Code := 0x04
def PC_ALIGN : Code := 0x05
def ILL_CSR : Code := 0x06
def PRIV : Code := 0x07
def TRAP : Code := 0x08
def BREAK : Code := 0x09
def BAD_POINTER : Code := 0x10
def BAD_FORMAT : Code := 0x11
def MISALIGN : Code := 0x12
def WIN_DENIED : Code := 0x13
def SP_RANGE : Code := 0x14
def PAGE_ABSENT : Code := 0x15
def PAGE_PERM : Code := 0x16
def PAGE_LOST : Code := 0x17
def DATA_POISON : Code := 0x18
def LOCK_STATE : Code := 0x19
def TLB_ARG : Code := 0x1A
def VEC_NOCLAIM : Code := 0x20
def VEC_BLOCK : Code := 0x21
def TILE_BUSY : Code := 0x22
def MX_DESC : Code := 0x23
def MX_TILE : Code := 0x24
def MX_QUOTA : Code := 0x25
def SCALE_SEQ : Code := 0x26
def CAP_DENIED : Code := 0x27
def CAP_ARG : Code := 0x28
def SWAP_MISMATCH : Code := 0x29
def XF_DESC : Code := 0x2A
def FUT_FULL : Code := 0x30
def FUT_HANDLE : Code := 0x31
def FUT_DENIED : Code := 0x32
def FUT_ARG : Code := 0x33
def FUT_POISON : Code := 0x34
def FUT_CANCEL : Code := 0x35
def FUT_STALE : Code := 0x36
def HANDLER_OP : Code := 0x37
def HANDLER_PARK : Code := 0x38
def HANDLER_TIME : Code := 0x39
def NOT_HANDLER : Code := 0x3A
def BAR_OVER : Code := 0x3B
def BAR_ARG : Code := 0x3C
def MSG_DEST : Code := 0x3D
def MSG_HANDLER : Code := 0x3E
def MSG_NOSLOT : Code := 0x3F
def STRM_STATE : Code := 0x40
def STRM_SLOT : Code := 0x41
def STRM_CLOSED : Code := 0x42
def LAUNCH_ABORT : Code := 0x43
def DEAD : Code := 0x50
def ECC_UNCORR : Code := 0x51
def PAIR_DIVERGE : Code := 0x52
def PAIR_STATE : Code := 0x53
def REPLAY_DIV : Code := 0x54
def DIE_LOST : Code := 0x55
def UB_EVICT : Code := 0x58

/-- Bits [hi:lo] of a word, as a natural (spec/00 R1). -/
def bits (x : Word) (hi lo : Nat) : Nat := x.toNat / 2^lo % 2^(hi + 1 - lo)

/-- Bit n of a word. -/
def bit (x : Word) (n : Nat) : Bool := x.toNat / 2^n % 2 == 1

/-- A natural as a word, modulo 2^64. -/
def w64 (n : Nat) : Word := BitVec.ofNat 64 n

/-- A status word: KIND 0xE, ST, CODE (spec/11 R284). -/
def statusWord (st : Nat) (code : Code) : Word := w64 (0xE * 2^60 + st * 2^56 + code.toNat * 2^48)

/-- The FUT_FULL status word (spec/11 R284, R291). -/
def futFullStatus : Word := statusWord 5 FUT_FULL

/-- SignExt(x, n) of spec/00: x extended to 64 bits from its bit n − 1. -/
def sext (n : Nat) (x : Nat) : Word := (BitVec.ofNat n x).signExtend 64

/-- The general registers a task of a class sees (spec/01 R10). -/
def classRegs : Nat → Nat
  | 0 => 8
  | 1 => 16
  | 2 => 32
  | 3 => 64
  | _ => 120

/-- A virtual address's region, bits [51:48] (spec/01 R21). -/
def region (a : Nat) : Nat := a / 2^48 % 16

/-- AADD's address arithmetic: bits [51:0] change modulo 2^52, bits [63:52] stay (spec/01 R24, spec/05 R101). -/
def addrAdd (p o : Word) : Word := w64 (p.toNat / 2^52 * 2^52 + (p.toNat + o.toNat) % 2^52)

/-- Little-endian bytes as a number (spec/00 R1). -/
def leVal : List Byte → Nat
  | [] => 0
  | b :: r => b.toNat + 256 * leVal r

/-- The n little-endian bytes of a number. -/
def toBytes : Nat → Nat → List Byte
  | 0, _ => []
  | n + 1, w => BitVec.ofNat 8 w :: toBytes n (w / 256)

end Sys2Proof.Machine
end

