-- ==== Sys2Proof/Machine/Map.lean ====
section
/-! DEFINITION. Sparse data by key: a list of keys and values in rising key order. With a default value (what an
unlisted key reads as) no entry equals it, so that equal maps are equal lists. -/

namespace Sys2Proof.Machine

/-- A map from naturals, as a list in rising key order. -/
abbrev FMap (V : Type) := List (Nat × V)

variable {V : Type}

/-- The entry at a key. -/
def mfind : FMap V → Nat → Option V
  | [], _ => none
  | (k', v) :: r, k => if k = k' then some v else if k < k' then none else mfind r k

/-- The map with the entry at a key set. -/
def mset : FMap V → Nat → V → FMap V
  | [], k, v => [(k, v)]
  | (k', v') :: r, k, v =>
    if k = k' then (k, v) :: r else if k < k' then (k, v) :: (k', v') :: r else (k', v') :: mset r k v

/-- The map with no entry at a key. -/
def merase : FMap V → Nat → FMap V
  | [], _ => []
  | (k', v') :: r, k => if k = k' then r else if k < k' then (k', v') :: r else (k', v') :: merase r k

/-- The value at a key, the default where none is listed. -/
def mget (d : V) (m : FMap V) (k : Nat) : V := (mfind m k).getD d

/-- The map with a value written; writing the default removes the entry. -/
def mput [DecidableEq V] (d : V) (m : FMap V) (k : Nat) (v : V) : FMap V :=
  if v = d then merase m k else mset m k v

/-- Keys strictly rising. -/
def mrising : FMap V → Bool
  | [] => true
  | [_] => true
  | (a, _) :: (b, v) :: r => a < b && mrising ((b, v) :: r)

/-- The canonical form of a map whose unlisted keys read as `d k`. -/
def mcanon [DecidableEq V] (d : Nat → V) (m : FMap V) : Bool := mrising m && m.all fun e => decide (e.2 ≠ d e.1)

/-- The smallest key from `k` on that the map does not list (with enough fuel, the length of the map plus one). -/
def mfresh (m : FMap V) (k : Nat) : Nat → Nat
  | 0 => k
  | n + 1 => match mfind m k with
    | none => k
    | some _ => mfresh m (k + 1) n

/-- The list with the element at a position removed. -/
def ldel {A : Type} : List A → Nat → List A
  | [], _ => []
  | _ :: r, 0 => r
  | a :: r, n + 1 => a :: ldel r n

/-- The list with the element at a position replaced. -/
def lset {A : Type} : List A → Nat → A → List A
  | [], _, _ => []
  | _ :: r, 0, b => b :: r
  | a :: r, n + 1, b => a :: lset r n b

/-- The least of some naturals by a measure, the earliest among equals. -/
def leastBy {A : Type} (f : A → Nat) : List A → Option A
  | [] => none
  | a :: r => match leastBy f r with
    | none => some a
    | some b => if f a ≤ f b then some a else some b

end Sys2Proof.Machine
end

