-- ==== Sys2Proof/Syntax.lean ====
section
/-! DEFINITION. The abstract syntax: one constructor per row of spec/opcode_table.json. The first 289 are the
instructions (spec/02, R27-R46) with the raw fields of their encodings as operands, named as the table names them;
the other 155 are the part's other steps (spec/95), whose operands name the item each acts on (log 26). -/

namespace Sys2Proof

/-- One step of the part: an instruction of a thread, or an event of spec/95. -/
inductive Instr where
  /-- ADD (R93): Writes the 64-bit sum of two registers, modulo 2^64. -/
  | add (d a b : BitVec 7)
  /-- SUB (R93): Writes the 64-bit difference of two registers. -/
  | sub (d a b : BitVec 7)
  /-- SLT (R93): Writes 1 if rs1 is less than rs2 as signed, otherwise 0. -/
  | slt (d a b : BitVec 7)
  /-- SLTU (R93): Writes 1 if rs1 is less than rs2 as unsigned, otherwise 0. -/
  | sltu (d a b : BitVec 7)
  /-- AND (R93): Writes the bitwise AND of two registers. -/
  | and (d a b : BitVec 7)
  /-- OR (R93): Writes the bitwise OR of two registers. -/
  | or (d a b : BitVec 7)
  /-- XOR (R93): Writes the bitwise XOR of two registers. -/
  | xor (d a b : BitVec 7)
  /-- SEL (R95): Reads rd, then writes rs1 into rd if rd was non-zero and rs2 otherwise. -/
  | sel (d a b : BitVec 7)
  /-- SLL (R93): Shifts left by the count in rs2[5:0]. -/
  | sll (d a b : BitVec 7)
  /-- SRL (R93): Shifts right logically by the count in rs2[5:0]. -/
  | srl (d a b : BitVec 7)
  /-- SRA (R93): Shifts right arithmetically by the count in rs2[5:0]. -/
  | sra (d a b : BitVec 7)
  /-- CLZ (R94): Counts the leading zero bits; zero gives 64. -/
  | clz (d a : BitVec 7)
  /-- CTZ (R94): Counts the trailing zero bits; zero gives 64. -/
  | ctz (d a : BitVec 7)
  /-- POPC (R94): Counts the one bits. -/
  | popc (d a : BitVec 7)
  /-- MUL (R96): Writes the low 64 bits of the 128-bit product. -/
  | mul (d a b : BitVec 7)
  /-- MULH (R96): Writes the high 64 bits of the signed product. -/
  | mulh (d a b : BitVec 7)
  /-- MULHU (R96): Writes the high 64 bits of the unsigned product. -/
  | mulhu (d a b : BitVec 7)
  /-- DIV (R97): Signed division that truncates towards zero, with a defined result and IDZ for a zero divisor. -/
  | div (d a b : BitVec 7)
  /-- DIVU (R97): Unsigned division with a defined result and IDZ for a zero divisor. -/
  | divu (d a b : BitVec 7)
  /-- REM (R97): Signed remainder that takes the sign of the dividend. -/
  | rem (d a b : BitVec 7)
  /-- REMU (R97): Unsigned remainder. -/
  | remu (d a b : BitVec 7)
  /-- MIN (R93): Writes the signed minimum. -/
  | min (d a b : BitVec 7)
  /-- MAX (R93): Writes the signed maximum. -/
  | max (d a b : BitVec 7)
  /-- MINU (R93): Writes the unsigned minimum. -/
  | minu (d a b : BitVec 7)
  /-- MAXU (R93): Writes the unsigned maximum. -/
  | maxu (d a b : BitVec 7)
  /-- LIH (R99): Shifts rd left by 16 and ORs in imm16. -/
  | lih (d : BitVec 7) (i : BitVec 16)
  /-- ADDI (R98): Adds a sign-extended 9-bit immediate. -/
  | addi (d a : BitVec 7) (i : BitVec 9)
  /-- AADD (R101): Adds rs2[51:0] to the address field of a fat pointer, modulo 2^52. -/
  | aadd (d a b : BitVec 7)
  /-- PGET (R103): Extracts the FMT, L or ADDR field of a fat pointer. -/
  | pget (d a s : BitVec 7)
  /-- BFX (R100): Extracts a bit field, zero- or sign-extended. -/
  | bfx (d a b : BitVec 7)
  /-- BFI (R100): Inserts a bit field into rd. -/
  | bfi (d a b : BitVec 7)
  /-- AADDI (R101): Adds a 9-bit immediate to the address field of a fat pointer. -/
  | aaddi (d a : BitVec 7) (i : BitVec 9)
  /-- PFMT (R102): Sets FMT and L of a pointer and clears bits [54:52]. -/
  | pfmt (d a : BitVec 7) (f : BitVec 6) (l : BitVec 3)
  /-- SLLI (R98): Shifts left by an immediate count. -/
  | slli (d a : BitVec 7) (i : BitVec 6)
  /-- SRLI (R98): Shifts right logically by an immediate count. -/
  | srli (d a : BitVec 7) (i : BitVec 6)
  /-- SRAI (R98): Shifts right arithmetically by an immediate count. -/
  | srai (d a : BitVec 7) (i : BitVec 6)
  /-- ANDI (R98): ANDs with a sign-extended 6-bit immediate. -/
  | andi (d a : BitVec 7) (i : BitVec 6)
  /-- ORI (R98): ORs with a sign-extended 6-bit immediate. -/
  | ori (d a : BitVec 7) (i : BitVec 6)
  /-- XORI (R98): XORs with a sign-extended 6-bit immediate. -/
  | xori (d a : BitVec 7) (i : BitVec 6)
  /-- SLTI (R98): Compares as signed with a 6-bit immediate. -/
  | slti (d a : BitVec 7) (i : BitVec 6)
  /-- XADD (R105): Adds packed lanes without carry between lanes. -/
  | xadd (d a : BitVec 7) (x : BitVec 2) (b : BitVec 5)
  /-- XSUB (R105): Subtracts packed lanes. -/
  | xsub (d a : BitVec 7) (x : BitVec 2) (b : BitVec 5)
  /-- XMUL (R105): Multiplies packed lanes, keeping the low half of each product. -/
  | xmul (d a : BitVec 7) (x : BitVec 2) (b : BitVec 5)
  /-- XMAX (R105): Writes the signed maximum of each lane. -/
  | xmax (d a : BitVec 7) (x : BitVec 2) (b : BitVec 5)
  /-- XMIN (R105): Writes the signed minimum of each lane. -/
  | xmin (d a : BitVec 7) (x : BitVec 2) (b : BitVec 5)
  /-- XDOT_B (R106): Forms INT8 four-product dot products and accumulates them into the two 32-bit lanes of rd. -/
  | xdotB (d a : BitVec 7) (b : BitVec 5)
  /-- FADD (R108): Floating-point addition rounded once under FRM. -/
  | fadd (d a : BitVec 7) (p : BitVec 2) (b : BitVec 5)
  /-- FSUB (R108): Floating-point subtraction. -/
  | fsub (d a : BitVec 7) (p : BitVec 2) (b : BitVec 5)
  /-- FMUL (R108): Floating-point multiplication. -/
  | fmul (d a : BitVec 7) (p : BitVec 2) (b : BitVec 5)
  /-- FFMA (R108): Fused multiply-add into rd with one rounding. -/
  | ffma (d a : BitVec 7) (p : BitVec 2) (b : BitVec 5)
  /-- FDIV (R108): Floating-point division. -/
  | fdiv (d a : BitVec 7) (p : BitVec 2) (b : BitVec 5)
  /-- FSQRT (R108): Floating-point square root. -/
  | fsqrt (d a : BitVec 7) (p : BitVec 2)
  /-- FMIN (R109): Returns the smaller operand unchanged, with the NaN rules. -/
  | fmin (d a : BitVec 7) (p : BitVec 2) (b : BitVec 5)
  /-- FMAX (R109): Returns the larger operand unchanged, with the NaN rules. -/
  | fmax (d a : BitVec 7) (p : BitVec 2) (b : BitVec 5)
  /-- FCMP_EQ (R110): Writes 1 when the operands are equal. -/
  | fcmpEq (d a : BitVec 7) (p : BitVec 2) (b : BitVec 5)
  /-- FCMP_LT (R110): Writes 1 when rs1 is less than rs2. -/
  | fcmpLt (d a : BitVec 7) (p : BitVec 2) (b : BitVec 5)
  /-- FCMP_LE (R110): Writes 1 when rs1 is less than or equal to rs2. -/
  | fcmpLe (d a : BitVec 7) (p : BitVec 2) (b : BitVec 5)
  /-- FCMP_UN (R110): Writes 1 when either operand is a NaN. -/
  | fcmpUn (d a : BitVec 7) (p : BitVec 2) (b : BitVec 5)
  /-- FCLASS (R111): Writes a one-hot class of the operand. -/
  | fclass (d a : BitVec 7) (p : BitVec 2)
  /-- FCVT (R113): Converts between floating and integer types under FRM. -/
  | fcvt (d a : BitVec 7) (t u : BitVec 3) (w : BitVec 1)
  /-- FCVT_RTZ (R113): Converts with rounding towards zero. -/
  | fcvtRtz (d a : BitVec 7) (t u : BitVec 3) (w : BitVec 1)
  /-- FCVT_SR (R113): Converts with stochastic rounding, taking one draw. -/
  | fcvtSr (d a : BitVec 7) (t u : BitVec 3) (w : BitVec 1)
  /-- BEQ (R114): Branches when the registers are equal. -/
  | beq (a : BitVec 7) (b : BitVec 4) (o : BitVec 9)
  /-- BNE (R114): Branches when the registers differ. -/
  | bne (a : BitVec 7) (b : BitVec 4) (o : BitVec 9)
  /-- BLT (R114): Branches when rs1 is less than rs2 as signed. -/
  | blt (a : BitVec 7) (b : BitVec 4) (o : BitVec 9)
  /-- BGE (R114): Branches when rs1 is greater than or equal to rs2 as signed. -/
  | bge (a : BitVec 7) (b : BitVec 4) (o : BitVec 9)
  /-- BLTU (R114): Branches when rs1 is less than rs2 as unsigned. -/
  | bltu (a : BitVec 7) (b : BitVec 4) (o : BitVec 9)
  /-- BGEU (R114): Branches when rs1 is greater than or equal to rs2 as unsigned. -/
  | bgeu (a : BitVec 7) (b : BitVec 4) (o : BitVec 9)
  /-- JALR (R115): Jumps to base plus a halfword offset and writes the link. -/
  | jalr (d : BitVec 7) (b : BitVec 4) (o : BitVec 9)
  /-- BEQZ (R114): Branches when the register is zero. -/
  | beqz (a : BitVec 7) (o : BitVec 16)
  /-- BNEZ (R114): Branches when the register is non-zero. -/
  | bnez (a : BitVec 7) (o : BitVec 16)
  /-- JAL (R115): Jumps by a halfword offset and writes the link. -/
  | jal (d : BitVec 7) (o : BitVec 16)
  /-- LDB (R245): Loads a byte and sign-extends it. -/
  | ldb (d a : BitVec 7) (o : BitVec 6)
  /-- LDBU (R245): Loads a byte and zero-extends it. -/
  | ldbu (d a : BitVec 7) (o : BitVec 6)
  /-- LDH (R245): Loads a halfword and sign-extends it. -/
  | ldh (d a : BitVec 7) (o : BitVec 6)
  /-- LDHU (R245): Loads a halfword and zero-extends it. -/
  | ldhu (d a : BitVec 7) (o : BitVec 6)
  /-- LDW (R245): Loads a word and sign-extends it. -/
  | ldw (d a : BitVec 7) (o : BitVec 6)
  /-- LDWU (R245): Loads a word and zero-extends it. -/
  | ldwu (d a : BitVec 7) (o : BitVec 6)
  /-- LDD (R245): Loads a doubleword. -/
  | ldd (d a : BitVec 7) (o : BitVec 6)
  /-- STB (R245): Stores a byte into the store FIFO. -/
  | stb (s a o : BitVec 7)
  /-- STH (R245): Stores a halfword. -/
  | sth (s a o : BitVec 7)
  /-- STW (R245): Stores a word. -/
  | stw (s a o : BitVec 7)
  /-- STD (R245): Stores a doubleword. -/
  | std (s a o : BitVec 7)
  /-- LDT (R247): Loads a typed element exactly, as FP64 or an integer. -/
  | ldt (d a b : BitVec 7)
  /-- STT (R248): Stores a typed element, rounding or saturating it. -/
  | stt (s a b : BitVec 7)
  /-- LDA (R246): Acquire load of an aligned doubleword at a scope. -/
  | lda (d a : BitVec 7) (c : BitVec 3)
  /-- STREL (R246): Release store of an aligned doubleword at a scope. -/
  | strel (s a : BitVec 7) (c : BitVec 3)
  /-- FENCE (R249): A release followed by an acquire at a scope. -/
  | fence (c : BitVec 3)
  /-- IFENCE (R250): Drains the FIFO, discards the fetch buffer and invalidates changed instruction blocks. -/
  | ifence
  /-- PREF (R251): Prefetches a line to a cache level, with no architectural effect. -/
  | pref (a : BitVec 7) (l : BitVec 2) (x : BitVec 1)
  /-- SPAMO (R254): Atomic operation on a scratchpad word, performed at the target port. -/
  | spamo (d a : BitVec 7) (o : BitVec 3)
  /-- STASH (R257): Maps a scratchpad range onto a virtual range and returns a status. -/
  | stash (d a b : BitVec 7)
  /-- UNSTASH (R258): Writes back and removes a stash mapping. -/
  | unstash (d a : BitVec 7)
  /-- WBK (R259): Writes dirty stash and first-level lines of a range back to the second-level cache. -/
  | wbk (a b : BitVec 7)
  /-- DISC (R260): Discards the lines of a range. -/
  | disc (a b : BitVec 7)
  /-- UBRESV (R261): Sets the context's unbacked reservation on a die and returns a status word. -/
  | ubresv (d a b : BitVec 7)
  /-- UBMIGR (R262): Moves an unbacked page to another home die. -/
  | ubmigr (d a b : BitVec 7)
  /-- LDLK (R255): Takes a word's lock bit and loads the word, or is refused and retried. -/
  | ldlk (d a : BitVec 7)
  /-- STUL (R255): Stores the word and clears its lock bit at one arrival. -/
  | stul (s a : BitVec 7)
  /-- AMO (R252): Atomic operation on a translated doubleword, performed in the requester's second-level cache. -/
  | amo (d a : BitVec 7) (o : BitVec 4) (r : BitVec 2) (c : BitVec 3)
  /-- AMOF (R252): Atomic operation performed at the home's atomic unit. -/
  | amof (d a : BitVec 7) (o : BitVec 4) (r : BitVec 2) (c : BitVec 3)
  /-- GET (R264): Submits a bulk transfer into a scratchpad from a descriptor in memory. -/
  | get (d a : BitVec 7)
  /-- PUT (R264): Submits a bulk transfer out of a scratchpad. -/
  | put (d a : BitVec 7)
  /-- XCPY (R264): Submits a bulk copy between any regions. -/
  | xcpy (d a : BitVec 7)
  /-- XCPY2 (R264): Submits a strided two-dimensional copy. -/
  | xcpy2 (d a : BitVec 7)
  /-- SWINIT (R272): Initialises a sync word's target and count and cancels any bound future. -/
  | swinit (d a b : BitVec 7)
  /-- SWFUT (R273): Returns a future bound to the next generation of a sync word. -/
  | swfut (d a b : BitVec 7)
  /-- SPAWN (R296): Pushes a child task and writes its future, or the FUT_FULL status. -/
  | spawn (d : BitVec 7) (o : BitVec 16)
  /-- SPAWN_T (R296): Spawns a child task, and traps with FUT_FULL when no entry can be had. -/
  | spawnT (d : BitVec 7) (o : BitVec 16)
  /-- SPAWNR (R296): Pushes a range entry of children and writes the range future. -/
  | spawnr (d a b : BitVec 7)
  /-- TOUCH (R299): Reads a future; parks while it is PENDING and returns the value or a status word. -/
  | touch (d a : BitVec 7)
  /-- TOUCH_T (R299): Touch that faults on a poisoned, cancelled or stale future. -/
  | touchT (d a : BitVec 7)
  /-- TOUCHP (R299): Touch that never parks and returns PENDING instead. -/
  | touchp (d a : BitVec 7)
  /-- WANY (R300): Waits on up to eight futures and returns the index of one that is terminal. -/
  | wany (d a n : BitVec 7)
  /-- FNEW (R301): Allocates an empty PENDING future. -/
  | fnew (d a : BitVec 7)
  /-- RESOLVE (R303): Resolves an empty future with a value, as a release at .s. -/
  | resolve (d a b : BitVec 7)
  /-- FPOIS (R303): Poisons an empty future with a code. -/
  | fpois (d a b : BitVec 7)
  /-- CANCEL (R304): Cancels a future's producer according to its position. -/
  | cancel (d a : BitVec 7)
  /-- FREL (R305): Releases a future entry. -/
  | frel (a : BitVec 7)
  /-- FSTAT (R306): Reads a future entry's state without waiting on it. -/
  | fstat (d a : BitVec 7)
  /-- YIELD (R307): Parks the task and re-enters it at the top of its deque. -/
  | yield
  /-- TEND (R308): Ends the task and resolves its future with a value. -/
  | tend (a : BitVec 7)
  /-- WID (R309): Reads the work identifier. -/
  | wid (d : BitVec 7)
  /-- WFLD (R309): Extracts one field of the work identifier. -/
  | wfld (d n : BitVec 7)
  /-- BARI (R325): Initialises a barrier record's expected count. -/
  | bari (d a b : BitVec 7)
  /-- BARA (R325): Arrives at a barrier with a release at the arrival scope. -/
  | bara (d a b : BitVec 7)
  /-- BARAD (R325): Arrives at a barrier and drops out of later phases. -/
  | barad (d a b : BitVec 7)
  /-- BARW (R326): Waits for a barrier phase to complete, parking on a bound future. -/
  | barw (d a b : BitVec 7)
  /-- MSEND (R329): Sends the outgoing message buffer to a core as an active message. -/
  | msend (a b : BitVec 7)
  /-- MDONE (R332): Ends a message handler and frees its slot. -/
  | mdone
  /-- WAITT (R340): Waits until armature time reaches a value. -/
  | waitt (d a : BitVec 7)
  /-- ATSET (R341): Sets the pending launch time for the next submission. -/
  | atset (a : BitVec 7)
  /-- STREAM (R333): Creates a linked partner task with two stream queues. -/
  | stream (d a b : BitVec 7)
  /-- VCLAIM (R342): Claims vector lane groups and a claim frame. -/
  | vclaim (d a : BitVec 7)
  /-- VREL (R343): Releases the vector claim. -/
  | vrel
  /-- VSETVL (R129): Sets VL to min(n, 256) and returns it. -/
  | vsetvl (d a : BitVec 7)
  /-- VLD (R132): Loads and converts a vector from a fat pointer. -/
  | vld (d : BitVec 4) (a : BitVec 7) (m : BitVec 1) (k : BitVec 2)
  /-- VST (R132): Converts and stores a vector. -/
  | vst (s : BitVec 4) (a : BitVec 7) (m : BitVec 1) (k : BitVec 2)
  /-- VLDS (R133): Strided vector load. -/
  | vlds (d : BitVec 4) (a b : BitVec 7) (m : BitVec 1) (k : BitVec 2)
  /-- VGATH (R133): Gathers elements through an index vector. -/
  | vgath (d : BitVec 4) (a : BitVec 7) (i : BitVec 4) (m : BitVec 1) (k : BitVec 2)
  /-- VSCAT (R133): Scatters elements through an index vector. -/
  | vscat (s : BitVec 4) (a : BitVec 7) (i : BitVec 4) (m : BitVec 1) (k : BitVec 2)
  /-- VBCAST (R130): Broadcasts a register's low 32 bits to the active elements. -/
  | vbcast (d : BitVec 4) (a : BitVec 7) (m : BitVec 1) (k : BitVec 2)
  /-- VEXT (R130): Extracts one element into a general register. -/
  | vext (d : BitVec 7) (t : BitVec 3) (a : BitVec 4) (b : BitVec 7)
  /-- VADD (R135): Elementwise addition. -/
  | vadd (d : BitVec 4) (t : BitVec 3) (a : BitVec 4) (x : BitVec 3) (b : BitVec 4) (m : BitVec 1) (k : BitVec 2)
  /-- VSUB (R135): Elementwise subtraction. -/
  | vsub (d : BitVec 4) (t : BitVec 3) (a : BitVec 4) (x : BitVec 3) (b : BitVec 4) (m : BitVec 1) (k : BitVec 2)
  /-- VMUL (R135): Elementwise multiplication. -/
  | vmul (d : BitVec 4) (t : BitVec 3) (a : BitVec 4) (x : BitVec 3) (b : BitVec 4) (m : BitVec 1) (k : BitVec 2)
  /-- VFMA (R135): Elementwise fused multiply-add into vd. -/
  | vfma (d : BitVec 4) (t : BitVec 3) (a : BitVec 4) (x : BitVec 3) (b : BitVec 4) (m : BitVec 1) (k : BitVec 2)
  /-- VMIN (R135): Elementwise minimum. -/
  | vmin (d : BitVec 4) (t : BitVec 3) (a b : BitVec 4) (m : BitVec 1) (k : BitVec 2)
  /-- VMAX (R135): Elementwise maximum. -/
  | vmax (d : BitVec 4) (t : BitVec 3) (a b : BitVec 4) (m : BitVec 1) (k : BitVec 2)
  /-- VDIV (R137): Elementwise division. -/
  | vdiv (d : BitVec 4) (t : BitVec 3) (a : BitVec 4) (x : BitVec 3) (b : BitVec 4) (m : BitVec 1) (k : BitVec 2)
  /-- VSQRT (R143): Elementwise square root, correctly rounded. -/
  | vsqrt (d : BitVec 4) (t : BitVec 3) (a : BitVec 4) (x : BitVec 3) (m : BitVec 1) (k : BitVec 2)
  /-- VRSQRT (R143): Elementwise reciprocal square root. -/
  | vrsqrt (d : BitVec 4) (t : BitVec 3) (a : BitVec 4) (x : BitVec 3) (m : BitVec 1) (k : BitVec 2)
  /-- VRCP (R143): Elementwise reciprocal. -/
  | vrcp (d : BitVec 4) (t : BitVec 3) (a : BitVec 4) (x : BitVec 3) (m : BitVec 1) (k : BitVec 2)
  /-- VEXP2 (R143): Elementwise 2^a. -/
  | vexp2 (d : BitVec 4) (t : BitVec 3) (a : BitVec 4) (x : BitVec 3) (m : BitVec 1) (k : BitVec 2)
  /-- VLOG2 (R143): Elementwise log2. -/
  | vlog2 (d : BitVec 4) (t : BitVec 3) (a : BitVec 4) (x : BitVec 3) (m : BitVec 1) (k : BitVec 2)
  /-- VSIN (R143): Elementwise sine. -/
  | vsin (d : BitVec 4) (t : BitVec 3) (a : BitVec 4) (x : BitVec 3) (m : BitVec 1) (k : BitVec 2)
  /-- VTANH (R143): Elementwise hyperbolic tangent. -/
  | vtanh (d : BitVec 4) (t : BitVec 3) (a : BitVec 4) (x : BitVec 3) (m : BitVec 1) (k : BitVec 2)
  /-- VAND (R138): Elementwise AND. -/
  | vand (d : BitVec 4) (t : BitVec 3) (a b : BitVec 4) (m : BitVec 1) (k : BitVec 2)
  /-- VOR (R138): Elementwise OR. -/
  | vor (d : BitVec 4) (t : BitVec 3) (a b : BitVec 4) (m : BitVec 1) (k : BitVec 2)
  /-- VXOR (R138): Elementwise XOR. -/
  | vxor (d : BitVec 4) (t : BitVec 3) (a b : BitVec 4) (m : BitVec 1) (k : BitVec 2)
  /-- VSHL (R137): Elementwise left shift, wrapping or saturating. -/
  | vshl (d : BitVec 4) (t : BitVec 3) (a : BitVec 4) (x : BitVec 3) (b : BitVec 4) (m : BitVec 1) (k : BitVec 2)
  /-- VSHR (R137): Elementwise logical or arithmetic right shift. -/
  | vshr (d : BitVec 4) (t : BitVec 3) (a : BitVec 4) (x : BitVec 3) (b : BitVec 4) (m : BitVec 1) (k : BitVec 2)
  /-- VCMP (R139): Compares elements under a predicate into a mask. -/
  | vcmp (v : BitVec 2) (t : BitVec 3) (a : BitVec 4) (p : BitVec 3) (b : BitVec 4) (m : BitVec 1) (k : BitVec 2)
  /-- VSEL (R140): Selects elements of two vectors by a mask. -/
  | vsel (d : BitVec 4) (t : BitVec 3) (a b : BitVec 4) (k : BitVec 2)
  /-- VCVT (R142): Converts elements between types. -/
  | vcvt (d : BitVec 4) (t : BitVec 3) (a : BitVec 4) (x : BitVec 3) (s : BitVec 1) (y : BitVec 3) (m : BitVec 1) (k : BitVec 2)
  /-- VRED (R144): Reduces the active elements by a fixed tree into vd[0]. -/
  | vred (d : BitVec 4) (t : BitVec 3) (a : BitVec 4) (x : BitVec 3) (o : BitVec 4) (m : BitVec 1) (k : BitVec 2)
  /-- VSCAN (R144): Forms the prefix combination of the active elements. -/
  | vscan (d : BitVec 4) (t : BitVec 3) (a : BitVec 4) (x : BitVec 3) (o : BitVec 4) (m : BitVec 1) (k : BitVec 2)
  /-- VPERM (R141): Permutes elements through an index vector. -/
  | vperm (d : BitVec 4) (t : BitVec 3) (a b : BitVec 4) (m : BitVec 1) (k : BitVec 2)
  /-- VQUANT (R145): Quantises 32-element blocks into MX or BFP codes. -/
  | vquant (d : BitVec 4) (t : BitVec 3) (a : BitVec 4) (x : BitVec 3) (q : BitVec 4) (m : BitVec 1) (k : BitVec 2)
  /-- VDEQ (R145): Dequantises block codes into element values. -/
  | vdeq (d : BitVec 4) (t : BitVec 3) (a : BitVec 4) (x : BitVec 3) (q : BitVec 4) (m : BitVec 1) (k : BitVec 2)
  /-- MXCFG (R168): Claims or reconfigures one accumulator tile. -/
  | mxcfg (d a b : BitVec 7)
  /-- TREL (R169): Frees and clears an owned idle tile. -/
  | trel (d a : BitVec 7)
  /-- MXSTAT (R170): Reads a tile state word, the engine word or an MXE stall counter. -/
  | mxstat (d a s : BitVec 7)
  /-- MXSUB (R164): Submits an MXE job whose descriptor lies in memory and writes its future. -/
  | mxsub (d a : BitVec 7)
  /-- MXSUBC (R165): Sends an MXE job with a capability to another cluster. -/
  | mxsubc (d a b : BitVec 7)
  /-- TLDT (R171): Loads an 8x8 byte block and writes its transpose into eight registers. -/
  | tldt (d a b : BitVec 7)
  /-- TSWAP (R173): Requests an exchange of a scratchpad block with the mirror core. -/
  | tswap (d a b : BitVec 7)
  /-- CSRR (R386): Reads a CSR. -/
  | csrr (d : BitVec 7) (c : BitVec 12)
  /-- CSRW (R386): Writes a CSR. -/
  | csrw (s : BitVec 7) (c : BitVec 12)
  /-- CSRS (R386): Sets bits of a CSR. -/
  | csrs (s : BitVec 7) (c : BitVec 12)
  /-- CSRC (R386): Clears bits of a CSR. -/
  | csrc (s : BitVec 7) (c : BitVec 12)
  /-- TRAP (R385): Vectors to TVEC in firmware, and otherwise faults with TRAP. -/
  | trap (c : BitVec 7)
  /-- ERET (R385): Returns to EPC. -/
  | eret
  /-- BRK (R385): Faults with BREAK. -/
  | brk (c : BitVec 7)
  /-- NOP (R385): Does nothing. -/
  | nop
  /-- TLBW (R374): Writes a translation into the cluster TLB. -/
  | tlbw (d a b : BitVec 7)
  /-- TLBINV (R375): Invalidates translations within a scope and waits for accesses through them to complete. -/
  | tlbinv (d a b : BitVec 7)
  /-- SLOTW (R379): Issues a slot-table operation to a core of the cluster. -/
  | slotw (d a b : BitVec 7)
  /-- MAPCL (R383): Remaps a logical cluster or core to a spare. -/
  | mapcl (d a b : BitVec 7)
  /-- CAPMK (R377): Makes a keyed capability for MXE jobs. -/
  | capmk (d a b : BitVec 7)
  /-- PAIR (R401): Pairs the task with a shadow on the partner core. -/
  | pair (d : BitVec 7)
  /-- UNPAIR (R405): Closes the interval, releases the held stores and frees the shadow. -/
  | unpair (d : BitVec 7)
  /-- CKPT (R405): Closes the pair interval and returns the pair status word. -/
  | ckpt (d : BitVec 7)
  /-- PCHK (R391): Reports the poison bits of a range without faulting on them. -/
  | pchk (d a b : BitVec 7)
  /-- MOV_COMPACT (R39): Compact alias of ADDI a, b, 0. -/
  | movCompact (a b : BitVec 5)
  /-- ADD_COMPACT (R39): Compact alias of ADD a, a, b. -/
  | addCompact (a b : BitVec 5)
  /-- SUB_COMPACT (R39): Compact alias of SUB a, a, b. -/
  | subCompact (a b : BitVec 5)
  /-- AND_COMPACT (R39): Compact alias of AND. -/
  | andCompact (a b : BitVec 5)
  /-- OR_COMPACT (R39): Compact alias of OR. -/
  | orCompact (a b : BitVec 5)
  /-- XOR_COMPACT (R39): Compact alias of XOR. -/
  | xorCompact (a b : BitVec 5)
  /-- SLL_COMPACT (R39): Compact alias of SLL. -/
  | sllCompact (a b : BitVec 5)
  /-- SRL_COMPACT (R39): Compact alias of SRL. -/
  | srlCompact (a b : BitVec 5)
  /-- SRA_COMPACT (R39): Compact alias of SRA. -/
  | sraCompact (a b : BitVec 5)
  /-- MUL_COMPACT (R39): Compact alias of MUL. -/
  | mulCompact (a b : BitVec 5)
  /-- AADD_COMPACT (R39): Compact alias of AADD. -/
  | aaddCompact (a b : BitVec 5)
  /-- SLT_COMPACT (R39): Compact alias of SLT. -/
  | sltCompact (a b : BitVec 5)
  /-- LDD_COMPACT (R39): Compact alias of LDD a, [b + 0]. -/
  | lddCompact (a b : BitVec 5)
  /-- STD_COMPACT (R39): Compact alias of STD a, [b + 0]. -/
  | stdCompact (a b : BitVec 5)
  /-- LDW_COMPACT (R39): Compact alias of LDW a, [b + 0]. -/
  | ldwCompact (a b : BitVec 5)
  /-- JALR_COMPACT (R39): Compact alias of JALR a, b + 0. -/
  | jalrCompact (a : BitVec 5) (b : BitVec 4)
  /-- LI_COMPACT (R39): Compact alias of ADDI a, zr, s5. -/
  | liCompact (a i : BitVec 5)
  /-- ADDI_COMPACT (R39): Compact alias of ADDI a, a, s5. -/
  | addiCompact (a i : BitVec 5)
  /-- AADDI_COMPACT (R39): Compact alias of AADDI a, a, s5. -/
  | aaddiCompact (a i : BitVec 5)
  /-- SLLI_COMPACT (R39): Compact alias of SLLI. -/
  | slliCompact (a i : BitVec 5)
  /-- SRLI_COMPACT (R39): Compact alias of SRLI. -/
  | srliCompact (a i : BitVec 5)
  /-- SRAI_COMPACT (R39): Compact alias of SRAI. -/
  | sraiCompact (a i : BitVec 5)
  /-- ANDI_COMPACT (R39): Compact alias of ANDI. -/
  | andiCompact (a i : BitVec 5)
  /-- ORI_COMPACT (R39): Compact alias of ORI. -/
  | oriCompact (a i : BitVec 5)
  /-- XORI_COMPACT (R39): Compact alias of XORI. -/
  | xoriCompact (a i : BitVec 5)
  /-- SLTI_COMPACT (R39): Compact alias of SLTI. -/
  | sltiCompact (a i : BitVec 5)
  /-- LDD_G2_COMPACT (R39): Compact alias of LDD a, [g2 + u5*8]. -/
  | lddG2Compact (a i : BitVec 5)
  /-- STD_G2_COMPACT (R39): Compact alias of STD a, [g2 + u5*8]. -/
  | stdG2Compact (a i : BitVec 5)
  /-- LDW_G2_COMPACT (R39): Compact alias of LDW a, [g2 + u5*4]. -/
  | ldwG2Compact (a i : BitVec 5)
  /-- STW_G2_COMPACT (R39): Compact alias of STW a, [g2 + u5*4]. -/
  | stwG2Compact (a i : BitVec 5)
  /-- BEQZ_COMPACT (R39): Compact alias of BEQZ with a 5-bit halfword offset. -/
  | beqzCompact (a o : BitVec 5)
  /-- BNEZ_COMPACT (R39): Compact alias of BNEZ with a 5-bit halfword offset. -/
  | bnezCompact (a o : BitVec 5)
  /-- TOUCH_COMPACT (R39): Compact alias of TOUCH. -/
  | touchCompact (a b : BitVec 5)
  /-- TOUCH_T_COMPACT (R39): Compact alias of TOUCH.T. -/
  | touchTCompact (a b : BitVec 5)
  /-- TOUCHP_COMPACT (R39): Compact alias of TOUCHP. -/
  | touchpCompact (a b : BitVec 5)
  /-- FSTAT_COMPACT (R39): Compact alias of FSTAT. -/
  | fstatCompact (a b : BitVec 5)
  /-- FREL_COMPACT (R39): Compact alias of FREL. -/
  | frelCompact (b : BitVec 5)
  /-- TEND_COMPACT (R39): Compact alias of TEND. -/
  | tendCompact (b : BitVec 5)
  /-- YIELD_COMPACT (R39): Compact alias of YIELD. -/
  | yieldCompact
  /-- WID_COMPACT (R39): Compact alias of WID. -/
  | widCompact (a : BitVec 5)
  /-- MOV_FROM_EP_COMPACT (R39): Compact alias of ADDI a, ep, 0, which pops an engine element. -/
  | movFromEpCompact (a : BitVec 5)
  /-- MOV_TO_EP_COMPACT (R39): Compact alias of ADDI ep, b, 0, which pushes an engine command word. -/
  | movToEpCompact (b : BitVec 5)
  /-- MOV_FROM_MP_COMPACT (R39): Compact alias of ADDI a, mp, 0, which reads the next message word. -/
  | movFromMpCompact (a : BitVec 5)
  /-- MOV_TO_MP_COMPACT (R39): Compact alias of ADDI mp, b, 0, which appends an outgoing message word. -/
  | movToMpCompact (b : BitVec 5)
  /-- FADD_S_COMPACT (R39): Compact alias of FADD.s a, a, b. -/
  | faddSCompact (a b : BitVec 5)
  /-- FMUL_S_COMPACT (R39): Compact alias of FMUL.s a, a, b. -/
  | fmulSCompact (a b : BitVec 5)
  /-- NOP_COMPACT (R39): Compact alias of NOP. -/
  | nopCompact
  /-- BRK_COMPACT (R39): Compact alias of BRK u5. -/
  | brkCompact (i : BitVec 5)
  /-- LI64 (R99): Loads a sign-extended 32-bit immediate. -/
  | li64 (d : BitVec 7) (i : BitVec 32)
  /-- LI64_U (R99): Loads a zero-extended 32-bit immediate. -/
  | li64U (d : BitVec 7) (i : BitVec 32)
  /-- LI64_HI (R99): Sets bits [63:32] of rd and keeps bits [31:0]. -/
  | li64Hi (d : BitVec 7) (i : BitVec 32)
  /-- ADDI_LONG (R98): Adds a 32-bit immediate. -/
  | addiLong (d a : BitVec 7) (i : BitVec 32)
  /-- ANDI_LONG (R98): ANDs with a 32-bit immediate. -/
  | andiLong (d a : BitVec 7) (i : BitVec 32)
  /-- ORI_LONG (R98): ORs with a 32-bit immediate. -/
  | oriLong (d a : BitVec 7) (i : BitVec 32)
  /-- XORI_LONG (R98): XORs with a 32-bit immediate. -/
  | xoriLong (d a : BitVec 7) (i : BitVec 32)
  /-- AADDI_LONG (R101): Adds a 32-bit immediate to a pointer's address field. -/
  | aaddiLong (d a : BitVec 7) (i : BitVec 32)
  /-- SLTI_LONG (R98): Compares as signed with a 32-bit immediate. -/
  | sltiLong (d a : BitVec 7) (i : BitVec 32)
  /-- LDB_LONG (R244): LDB with an unscaled 32-bit offset. -/
  | ldbLong (d a : BitVec 7) (i : BitVec 32)
  /-- LDBU_LONG (R244): LDBU with an unscaled 32-bit offset. -/
  | ldbuLong (d a : BitVec 7) (i : BitVec 32)
  /-- LDH_LONG (R244): LDH with an unscaled 32-bit offset. -/
  | ldhLong (d a : BitVec 7) (i : BitVec 32)
  /-- LDHU_LONG (R244): LDHU with an unscaled 32-bit offset. -/
  | ldhuLong (d a : BitVec 7) (i : BitVec 32)
  /-- LDW_LONG (R244): LDW with an unscaled 32-bit offset. -/
  | ldwLong (d a : BitVec 7) (i : BitVec 32)
  /-- LDWU_LONG (R244): LDWU with an unscaled 32-bit offset. -/
  | ldwuLong (d a : BitVec 7) (i : BitVec 32)
  /-- LDD_LONG (R244): LDD with an unscaled 32-bit offset. -/
  | lddLong (d a : BitVec 7) (i : BitVec 32)
  /-- STB_LONG (R244): STB with an unscaled 32-bit offset. -/
  | stbLong (s a : BitVec 7) (i : BitVec 32)
  /-- STH_LONG (R244): STH with an unscaled 32-bit offset. -/
  | sthLong (s a : BitVec 7) (i : BitVec 32)
  /-- STW_LONG (R244): STW with an unscaled 32-bit offset. -/
  | stwLong (s a : BitVec 7) (i : BitVec 32)
  /-- STD_LONG (R244): STD with an unscaled 32-bit offset. -/
  | stdLong (s a : BitVec 7) (i : BitVec 32)
  /-- PREF_LONG (R251): PREF with a 32-bit offset. -/
  | prefLong (a : BitVec 7) (l : BitVec 2) (x : BitVec 1) (i : BitVec 32)
  /-- JAL_LONG (R115): JAL with a 32-bit halfword offset. -/
  | jalLong (d : BitVec 7) (o : BitVec 32)
  /-- JALR_LONG (R115): JALR with a 32-bit byte offset and a full base field. -/
  | jalrLong (d a : BitVec 7) (o : BitVec 32)
  /-- BEQZ_LONG (R114): BEQZ with a 32-bit offset. -/
  | beqzLong (a : BitVec 7) (o : BitVec 32)
  /-- BNEZ_LONG (R114): BNEZ with a 32-bit offset. -/
  | bnezLong (a : BitVec 7) (o : BitVec 32)
  /-- BEQ_LONG (R114): BEQ with full register fields and a 32-bit offset. -/
  | beqLong (a b : BitVec 7) (o : BitVec 32)
  /-- BNE_LONG (R114): BNE with full register fields and a 32-bit offset. -/
  | bneLong (a b : BitVec 7) (o : BitVec 32)
  /-- BLT_LONG (R114): BLT with full register fields and a 32-bit offset. -/
  | bltLong (a b : BitVec 7) (o : BitVec 32)
  /-- BGE_LONG (R114): BGE with full register fields and a 32-bit offset. -/
  | bgeLong (a b : BitVec 7) (o : BitVec 32)
  /-- BLTU_LONG (R114): BLTU with full register fields and a 32-bit offset. -/
  | bltuLong (a b : BitVec 7) (o : BitVec 32)
  /-- BGEU_LONG (R114): BGEU with full register fields and a 32-bit offset. -/
  | bgeuLong (a b : BitVec 7) (o : BitVec 32)
  /-- MXSUB_LONG (R164): Submits an MXE job whose descriptor is in four registers. -/
  | mxsubLong (d a b e f : BitVec 7)
  /-- MXSUBC_LONG (R165): Sends a register-described MXE job with a capability. -/
  | mxsubcLong (d a b e f g : BitVec 7)
  /-- MXCFG_LONG (R168): Claims or reconfigures every tile of a mask, all or none. -/
  | mxcfgLong (d b : BitVec 7) (m : BitVec 16)
  /-- TLDT_LONG (R171): Transposing load with an element width and an offset. -/
  | tldtLong (d a b : BitVec 7) (w : BitVec 2) (o : BitVec 16)
  /-- GET_LONG (R264): GET whose descriptor is in registers. -/
  | getLong (d a b e f : BitVec 7)
  /-- PUT_LONG (R264): PUT whose descriptor is in registers. -/
  | putLong (d a b e f : BitVec 7)
  /-- XCPY_LONG (R264): XCPY whose descriptor is in registers. -/
  | xcpyLong (d a b e f : BitVec 7)
  /-- XCPY2_LONG (R264): XCPY2 whose descriptor is in registers. -/
  | xcpy2Long (d a b e f : BitVec 7)
  /-- SPAWN_LONG (R296): Spawns with an entry register, a tile list, a class and arguments. -/
  | spawnLong (d a b e : BitVec 7) (c n : BitVec 3)
  /-- SPAWN_T_LONG (R296): Trapping register form of SPAWN. -/
  | spawnTLong (d a b e : BitVec 7) (c n : BitVec 3)
  /-- SPAWNR_LONG (R296): Range spawn with a tile list, a class and arguments. -/
  | spawnrLong (d a b e f : BitVec 7) (c n : BitVec 3)
  /-- SPAWNR_T_LONG (R296): Trapping range spawn. -/
  | spawnrTLong (d a b e f : BitVec 7) (c n : BitVec 3)
  /-- VLD_LONG (R132): VLD with a 32-bit offset. -/
  | vldLong (d : BitVec 4) (a : BitVec 7) (m : BitVec 1) (k : BitVec 2) (i : BitVec 32)
  /-- VST_LONG (R132): VST with a 32-bit offset. -/
  | vstLong (s : BitVec 4) (a : BitVec 7) (m : BitVec 1) (k : BitVec 2) (i : BitVec 32)
  /-- VBCAST_LONG (R130): Broadcasts a 32-bit immediate. -/
  | vbcastLong (d : BitVec 4) (m : BitVec 1) (k : BitVec 2) (i : BitVec 32)
  /-- VFMA_LONG (R136): Four-operand fused multiply-add with a separate addend vector. -/
  | vfmaLong (d : BitVec 4) (t : BitVec 3) (a : BitVec 4) (x : BitVec 3) (b : BitVec 4) (m : BitVec 1) (k : BitVec 2) (e : BitVec 4)
  /-- ILLEGAL_ENCODING (R47): An encoding that is not an instruction faults with its code and halts the thread. -/
  | illegalEncoding (code : BitVec 8) (detail : BitVec 64)
  /-- INSTRUCTION_FETCH_FAULT (R29): A fetch of any parcel faults, reported against the first parcel, and no part of the instruction takes effect. -/
  | instructionFetchFault (code : BitVec 8) (detail : BitVec 64)
  /-- FAULT_MESSAGE (R50): The CSC receives a four-word fault message for a halted thread and its firmware handles it. -/
  | faultMessage (cl i : Nat)
  /-- CSC_WINDOW_ACCESS (R51): The CSC reads or writes a halted thread's state or ports through the register window. -/
  | cscWindowAccess (tid sel idx : Nat) (wr : Bool) (v : BitVec 64)
  /-- CSC_RESUME (R51): The CSC ends a halt by resuming the thread at a chosen PC. -/
  | cscResume (tid : Nat) (pc : BitVec 52)
  /-- CSC_KILL (R51): The CSC ends a halt by killing the thread with a code. -/
  | cscKill (tid : Nat) (code : BitVec 8)
  /-- FUT_FULL_REPORT (R291): The CSCH reports a freed or spilled future entry to the CSC, which resumes held threads. -/
  | futFullReport (cl : Nat)
  /-- STRM_SLOT_REPORT (R333): The CSCH reports a free slot with a free run, and the CSC resumes a held STREAM. -/
  | strmSlotReport (core : Nat)
  /-- WAITLIM_EXPIRY (R364): WAITLIM passes for a held thread, and firmware kills it with FUT_FULL or STRM_SLOT. -/
  | waitlimExpiry (tid : Nat)
  /-- TASK_DISPATCH (R277): Each cycle a free ordinary slot takes the eligible deque entry nearest the bottom and fills its register run. -/
  | taskDispatch (core : Nat)
  /-- FRAME_MOVE (R10): The CSCH moves a parked task's frame to relieve fragmentation of the register partition. -/
  | frameMove (tid base : Nat)
  /-- WAITING_LARGE_TASK (R317): A task passed over for 8,192 cycles becomes the core's waiting large task. -/
  | waitingLargeTask (core tid : Nat)
  /-- PREFETCH_START (R280): The CSCH starts the tile-list prefetch of a CREATED entry near the bottom of a deque. -/
  | prefetchStart (cl core pos : Nat)
  /-- STEAL_SWEEP (R323): An idle core begins a sweep of victims after its backoff. -/
  | stealSweep (core : Nat)
  /-- STEAL_REQUEST (R16): A victim serves a steal request, handing over the topmost stealable entry or nothing. -/
  | stealRequest (i : Nat)
  /-- STEAL_ANSWER (R19): A steal answer arrives at the thief, carrying an entry or nothing. -/
  | stealAnswer (i : Nat)
  /-- TERMINATION_SWEEP (R20): A level of the termination tree sweeps its children and reports idleness upward. -/
  | terminationSweep (l : Nat)
  /-- LAUNCH_RETIREMENT (R20): The package reports completion, and the command processor retires the launch with a release at .s. -/
  | launchRetirement (l : Nat)
  /-- FUTURE_SPILL (R290): The CSCH spills entries until the cluster holds 3,840 resident entries. -/
  | futureSpill (cl : Nat)
  /-- FUTURE_REQUEST (R288): An operation on a future arrives at its entry and is performed in order of arrival. -/
  | futureRequest (i : Nat)
  /-- FUTURE_REPLY (R299): An entry's reply reaches the waiting thread, which completes or parks. -/
  | futureReply (i : Nat)
  /-- WAKE_MESSAGE (R289): A wake message reaches a cluster that has recorded waiters. -/
  | wakeMessage (i : Nat)
  /-- WAITER_WAKE (R289): The CSCH makes one local waiter READY per cycle after a terminal transition. -/
  | waiterWake (cl : Nat)
  /-- MXE_MMA (R155): An MMA job starts, is checked and computes exact run sums into its tile. -/
  | mxeMma (cl j : Nat)
  /-- MXE_LOAD (R156): A LOAD job starts and converts scratchpad data into its tile. -/
  | mxeLoad (cl j : Nat)
  /-- MXE_STORE (R156): A STORE job starts and writes its tile region to a scratchpad. -/
  | mxeStore (cl j : Nat)
  /-- MXE_ZERO (R156): A ZERO job clears its tile region. -/
  | mxeZero (cl j : Nat)
  /-- MXE_JOB_COMPLETE (R161): A job ends and posts its completion element or settles its future. -/
  | mxeJobComplete (cl j : Nat)
  /-- MXSUBC_COMMAND (R165): A capability-carrying job arrives at the target MXE, which checks and accepts it or poisons its future. -/
  | mxsubcCommand (i : Nat)
  /-- TSWAP_MATCH (R173): A TSWAP request meets the mirror's request with the same tag. -/
  | tswapMatch (core i : Nat)
  /-- TSWAP_COMPLETE (R173): Both blocks have landed, and the TSWAP futures resolve. -/
  | tswapComplete (i : Nat)
  /-- XFE_PIECE (R266): The XFE reads one piece of a transfer and writes it to its destination. -/
  | xfePiece (cl x : Nat)
  /-- TRANSFER_COMPLETE (R267): A transfer ends and resolves or poisons its future, or queues its completion value. -/
  | transferComplete (cl x : Nat)
  /-- LDLK_RETRY (R256): A refused LDLK that found the bank queue full is retried after 64 cycles. -/
  | ldlkRetry (tid : Nat)
  /-- TRANSIENT_REQUEST (R192): A GETS, GETX or GETXF reaches the line's home, which forwards it and answers for itself. -/
  | transientRequest (i : Nat)
  /-- REQUEST_FORWARD (R193): A forwarded request reaches an agent, which responds with tokens under the response table. -/
  | requestForward (i : Nat)
  /-- TOKEN_MESSAGE (R194): Tokens and data arrive at an agent and are kept, forwarded or sent home. -/
  | tokenMessage (i : Nat)
  /-- ATTEMPT_TIMEOUT (R196): A transient attempt is not complete within 1,024 ns, and the next attempt or a persistent request is sent. -/
  | attemptTimeout (i : Nat)
  /-- PERSISTENT_REQUEST (R198): A persistent request enters the home's table and is activated by age. -/
  | persistentRequest (i : Nat)
  /-- ACT_MESSAGE (R199): An ACT reaches an agent, which sends its tokens to the named requester. -/
  | actMessage (i : Nat)
  /-- DEACT_MESSAGE (R199): A DEACT ends an agent's forwarding for a persistent request. -/
  | deactMessage (i : Nat)
  /-- DONE_MESSAGE (R198): DONE frees a persistent entry, and the home activates the next entry of the line. -/
  | doneMessage (i : Nat)
  /-- EVICTION (R194): An agent evicts a line and sends all its tokens home or to the resting store. -/
  | eviction (agent line : Nat)
  /-- PAGE_BIND (R205): Firmware binds a frame from the backing pool to an unbacked page and writes the binding record. -/
  | pageBind (name : Nat)
  /-- LINK_REPLAY (R188): A UCIe crossing fails its CRC and replays the flit. -/
  | linkReplay (link : Nat)
  /-- LINK_FAILED (R188): A fifth replay marks the link failed, and routers deflect around it. -/
  | linkFailed (link : Nat)
  /-- DIE_CENSUS (R210): 2.5 µs after delivery to a lost die stops, each home takes a census of tokens. -/
  | dieCensus (die : Nat)
  /-- THERMAL_READING (R320): Every 10 µs a core reads its temperature and clears or sets one EN bit. -/
  | thermalReading (core temp : Nat)
  /-- MESSAGE_ARRIVAL (R330): An active message reaches a core and is queued, refused or returned. -/
  | messageArrival (i : Nat)
  /-- MESSAGE_RESEND (R330): A refused message is resent after 256 cycles. -/
  | messageResend (i : Nat)
  /-- MESSAGE_RETURN (R330): A returned message reaches its sender and poisons its carried future or counts in MSGRET. -/
  | messageReturn (i : Nat)
  /-- SEND_ACK (R329): The receiver acknowledges delivery, and the send buffer frees. -/
  | sendAck (i : Nat)
  /-- HANDLER_START (R331): The oldest queued message starts in the lowest free handler slot. -/
  | handlerStart (core : Nat)
  /-- HANDLER_TIMEOUT (R331): A handler that has not executed MDONE within 2^20 cycles is killed with HANDLER_TIME. -/
  | handlerTimeout (tid : Nat)
  /-- TIME_EXCHANGE (R338): Every 65,536 ticks a die exchanges time with the hub and slews its count. -/
  | timeExchange (die : Nat) (offset : Int) (delay : Nat)
  /-- WAITT_EXPIRY (R340): Armature time reaches a WAITT's target, and the thread becomes ready. -/
  | waittExpiry (tid : Nat)
  /-- SLOTW_WRITE (R379): Writes one slot-table entry, effective at the next period start. -/
  | slotwWrite (core idx : Nat) (v : BitVec 16)
  /-- SLOTW_LENGTH (R379): Sets the table length P, effective at the next period start. -/
  | slotwLength (core len : Nat)
  /-- SLOTW_FREEZE (R381): Freezes a context's threads on a core at instruction boundaries. -/
  | slotwFreeze (core ctx : Nat)
  /-- SLOTW_THAW (R379): Ends a freeze or a save of a context on a core. -/
  | slotwThaw (core ctx : Nat)
  /-- SLOTW_SAVE (R382): Spills a frozen context's threads to their task frames and frees their slots. -/
  | slotwSave (core ctx : Nat)
  /-- SLOT_TABLE_CHANGE (R379): A pending table write takes effect at a period boundary. -/
  | slotTableChange (core : Nat)
  /-- TLB_FILL_REQUEST (R368): A cluster TLB miss sends a fill to the CSC, which walks the tables. -/
  | tlbFillRequest (cl i : Nat)
  /-- TLB_FILL_REPLY (R368): The CSC replies FILLED or with a fault code, and the access retries or faults. -/
  | tlbFillReply (cl i : Nat)
  /-- HUB_TLB_FILL (R443): A hub TLB miss is filled by a CSC and the hub access is repeated. -/
  | hubTlbFill (i : Nat)
  /-- REMAP_COMPLETE (R383): A quiesced unit's state moves to the spare, and the map changes. -/
  | remapComplete (i : Nat)
  /-- RETRY_REISSUE (R384): A request returned with RETRY is reissued against the new map. -/
  | retryReissue (i : Nat)
  /-- CORRECTED_ERROR (R389): A correctable error is corrected or replayed, and the counters change. -/
  | correctedError (n : Nat)
  /-- WORD_ERROR (R389): An uncorrectable error in a stored word sets its poison bit. -/
  | wordError (place addr : Nat)
  /-- THREAD_ERROR (R389): An uncorrectable error in a thread's own state kills it with ECC_UNCORR. -/
  | threadError (tid : Nat)
  /-- CORE_ERROR (R389): An uncorrectable error in shared core state stops the core. -/
  | coreError (core : Nat)
  /-- CLUSTER_ERROR (R397): A cluster-class error remaps the cluster to a spare with copy and retire. -/
  | clusterError (cl : Nat) (lost : List Nat)
  /-- DIE_ERROR (R389): A die loses every path or its second-level agent, and is reset. -/
  | dieError (die : Nat)
  /-- HEARTBEAT (R393): A core or CSC sends its heartbeat every 4,096 cycles. -/
  | heartbeat (core : Nat)
  /-- HEARTBEAT_MISSING (R393): No heartbeat within 3 x 4,096 + 512 cycles, and the unit is declared missing. -/
  | heartbeatMissing (core : Nat)
  /-- CORE_RETIREMENT (R394): The CSC marks the core dead, reclaims its lines, ends its tasks and remaps it. -/
  | coreRetirement (core : Nat)
  /-- DIE_RESET (R399): Resets a compute die after evacuation or census. -/
  | dieReset (die : Nat) (planned : Bool)
  /-- PAIR_INTERVAL_CLOSE (R402): A pair interval closes after 256 instructions or 64 held stores. -/
  | pairIntervalClose (tid : Nat)
  /-- PAIR_COMPARE (R404): The fingerprint comparison completes, releasing the held stores or rolling back. -/
  | pairCompare (tid : Nat)
  /-- REPLAY_STALL_TIMEOUT (R412): A recorded event eligible for 10 ms without occurring is a divergence. -/
  | replayStallTimeout (l : Nat)
  /-- LOCKSTEP_MISMATCH (R407): A command-processor pair's outputs disagree. -/
  | lockstepMismatch (cp : Nat)
  /-- FIRMWARE_RESTART (R407): Stops dispatch, restarts firmware and resumes queues at CRP. -/
  | firmwareRestart
  /-- KICK (R351): A write to KICK advances the announced slots, never backwards. -/
  | kick (q : Nat) (v : BitVec 64)
  /-- RESERVE (R349): A FetchAdd to RESV reserves consecutive slots, linking a new segment if needed. -/
  | reserve (q : Nat) (n : BitVec 64)
  /-- QCTL_RESUME (R355): Returns a STOPPED queue to RUN. -/
  | qctlResume (q : Nat)
  /-- QCTL_ABANDON (R361): Abandons the live launches with the given TAG. -/
  | qctlAbandon (q : Nat) (tag : BitVec 32)
  /-- QUEUE_MAP (R346): A queue with work takes a command-processor thread, unmapping an idle or blocked queue if needed. -/
  | queueMap (q : Nat)
  /-- PACKET_READ (R352): The queue thread reads the header of slot RP and executes the packet if SEQ matches. -/
  | packetRead (q : Nat)
  /-- NOP_PACKET (R356): A NOP packet does nothing. -/
  | nopPacket (q : Nat)
  /-- LAUNCH_PACKET (R358): A LAUNCH packet is checked and enters PLACING. -/
  | launchPacket (q : Nat)
  /-- LAUNCH_PLACEMENT (R359): The command processor places the root on a qualifying core. -/
  | launchPlacement (l : Nat)
  /-- LAUNCH_TIMEOUT (R361): A launch's TIMEOUT expires, and the launch is abandoned. -/
  | launchTimeout (l : Nat)
  /-- WAIT_PACKET (R356): Blocks the queue until a future is terminal. -/
  | waitPacket (q : Nat)
  /-- WAIT_END (R356): The awaited future becomes terminal, and the queue goes on or stops. -/
  | waitEnd (q : Nat)
  /-- SIGNAL_PACKET (R356): Resolves a future, stores a value and raises an interrupt. -/
  | signalPacket (q : Nat)
  /-- COPY_PACKET (R356): Starts a copy by the hub's copy unit. -/
  | copyPacket (q : Nat)
  /-- COPY_COMPLETE (R356): A hub copy finishes, or records a fault. -/
  | copyComplete (i : Nat)
  /-- LINK_PACKET (R356): Moves RP to the next segment and returns the drained segment to the pool. -/
  | linkPacket (q : Nat)
  /-- TIMED_PACKET (R356): The queue enters TIMED until armature time T. -/
  | timedPacket (q : Nat)
  /-- TIMED_EXPIRY (R356): The hub's armature time reaches T, and the next packet may take effect. -/
  | timedExpiry (q : Nat)
  /-- FENCE_PACKET (R356): Waits for earlier copies or launches, then releases at .s. -/
  | fencePacket (q : Nat)
  /-- CTX_CREATE (R415): Creates a context from the given record fields. -/
  | ctxCreate
  /-- CTX_END (R366): Ends a context and frees everything it holds. -/
  | ctxEnd
  /-- QUEUE_CREATE (R415): Creates a queue with its first segment. -/
  | queueCreate
  /-- QUEUE_DESTROY (R415): Destroys a queue with no live launch. -/
  | queueDestroy
  /-- POOL_ADD (R415): Adds a range or segment to one of a context's pools. -/
  | poolAdd
  /-- PEER_BIND (R415): Binds a context to a peer binding tag. -/
  | peerBind
  /-- CHIP_SET (R421): Sets the chip number and the peer-table base. -/
  | chipSet
  /-- PREEMPT (R382): Pre-empts a victim context on a set of cores for a launch. -/
  | preempt
  /-- SRSEED_WRITE (R79): A write to SRSEED that would leave the state zero stores 0x6A3B_91C5. -/
  | srseedWrite (tid : Nat) (v : BitVec 64)
  /-- FRM_WRITE (R82): A write to FRM that would leave RM invalid leaves it unchanged. -/
  | frmWrite (tid : Nat) (v : BitVec 64)
  /-- ESEL_WRITE (R166): A write to ESEL discards any partial engine descriptor. -/
  | eselWrite (tid : Nat) (v : BitVec 64)
  /-- EVRD_WRITE (R387): A write to EVRD above EVIDX stores EVIDX. -/
  | evrdWrite (tid : Nat) (v : BitVec 64)
  /-- EVFUT_WRITE (R378): A write to EVFUT arms a future for the next context event. -/
  | evfutWrite (tid : Nat) (v : BitVec 64)
  /-- TRT_WRITE (R321): A write to TRT sets the shed-target ranks for the whole cluster. -/
  | trtWrite (tid : Nat) (v : BitVec 64)
  /-- CSR_WRITE (R386): A write to any other CSR follows the field map's access codes. -/
  | csrWrite (tid : Nat) (num : BitVec 12) (v : BitVec 64)
  /-- HOST_SNOOP (R416): A host H2D snoop enters the home's persistent-request table. -/
  | hostSnoop (line : Nat)
  /-- HOST_MEM_ACCESS (R417): A host CXL.mem access performs at the line's home. -/
  | hostMemAccess (addr size : Nat) (wr : Bool) (v : BitVec 64)
  /-- HOST_RESPONSE (R416): The host answers a bridge request or back-invalidation, and tokens move. -/
  | hostResponse (i : Nat)
  /-- HOST_LOST (R418): The host fails to answer within 50 ms and is treated as lost. -/
  | hostLost
  /-- LINK_RETRAIN (R418): The CXL link retrains, and queues resume reading packets. -/
  | linkRetrain
  /-- PEER_DATA (R420): A data datagram arrives and is delivered once per sequence number. -/
  | peerData (chip session seq kind : Nat) (ws : List (BitVec 64))
  /-- PEER_ACK (R420): An acknowledgement datagram retires unacknowledged sends. -/
  | peerAck (chip seq : Nat)
  /-- SESSION_OPEN (R419): A session-open datagram starts a session with a peer. -/
  | sessionOpen (chip session : Nat)
  /-- SESSION_CLOSE (R419): A session-close datagram ends a session. -/
  | sessionClose (chip : Nat)
  /-- PEER_RESEND (R420): An unacknowledged data datagram is resent after 20 µs. -/
  | peerResend (i : Nat)
  /-- SESSION_TIMEOUT (R420): No acknowledgement for 1 s ends the session, and pending messages are settled by kind. -/
  | sessionTimeout (chip : Nat)
  /-- POWER_LIMIT_WRITE (R424): Writes the power-limit effecter, refusing out-of-range values. -/
  | powerLimitWrite (v : Nat)
  /-- SHED_THRESHOLD_WRITE (R424): Writes the shed-threshold effecter. -/
  | shedThresholdWrite (v : Nat)
  /-- POWER_LIMIT_SHED (R424): Power above the limit for 10 ms makes every core shed. -/
  | powerLimitShed
  /-- OVERTEMP_POWER_OFF (R424): A die at 115 °C makes Pyelle remove package power. -/
  | overtempPowerOff (die temp : Nat)
  /-- TELEMETRY_UPDATE (R424): A sensor's update period expires and its value is refreshed. -/
  | telemetryUpdate (id v : Nat)
  /-- GET_VERSION (R423): SPDM GET_VERSION request. -/
  | getVersion
  /-- GET_CAPABILITIES (R423): SPDM GET_CAPABILITIES request. -/
  | getCapabilities
  /-- NEGOTIATE_ALGORITHMS (R423): SPDM NEGOTIATE_ALGORITHMS request. -/
  | negotiateAlgorithms
  /-- GET_DIGESTS (R423): SPDM GET_DIGESTS request. -/
  | getDigests
  /-- GET_CERTIFICATE (R423): SPDM GET_CERTIFICATE request. -/
  | getCertificate (slot : Nat)
  /-- CHALLENGE (R423): SPDM CHALLENGE request. -/
  | challenge (nonce : Nat)
  /-- GET_MEASUREMENTS (R423): SPDM GET_MEASUREMENTS request. -/
  | getMeasurements (nonce : Nat)
  /-- REQUEST_UPDATE (R427): Starts a PLDM firmware update, refusing a lower security version. -/
  | requestUpdate (ver image : Nat)
  /-- VERIFY_COMPLETE (R427): The security root verifies the written slot. -/
  | verifyComplete
  /-- APPLY_COMPLETE (R427): Pyelle overwrites the older marker copy with the new slot. -/
  | applyComplete
  /-- ACTIVATE_FIRMWARE (R427): Starts a planned firmware restart on the new image. -/
  | activateFirmware
  /-- PACKAGE_RESET (R428): A conventional reset, power cycle or Pyelle command resets the whole package. -/
  | packageReset
  /-- POWER_LOSS (R428): Package power is lost, stopping everything including Pyelle. -/
  | powerLoss
  /-- CORE_CYCLE (R314): At every core cycle the slot table picks an entry, issues or donates the cycle, advances vector beats and pending results, and charges the stall counters. -/
  | coreCycle (core : Nat)
  /-- ROUTER_CYCLE (R186): In each 2.0 GHz fabric cycle every router assigns its outputs to the flits present, oldest first, deflecting where needed and granting injection. -/
  | routerCycle (router : Nat)
  /-- STORE_FIFO_DRAIN (R214): The store at the head of a thread's store FIFO is accepted into die order, or sent to its target port, and leaves the FIFO. -/
  | storeFifoDrain (tid : Nat)
  /-- PORT_ACCESS_ARRIVAL (R228): A window load or store, port operation or engine write arrives at a core's memory port, performs there in arrival order and is logged in the port trace ring. -/
  | portAccessArrival (i : Nat)
  /-- PORT_REPLY (R219): A memory port's acknowledgement or load value reaches the issuing thread, which then sends its next window store or completes the waiting instruction. -/
  | portReply (i : Nat)
  /-- PORT_TRACE_COPY (R229): In record mode the CSC copies port trace entries into the maquette record, and a port that has been refusing external writes accepts them again. -/
  | portTraceCopy (core : Nat)
  /-- PAGE_FUTURE_SETTLE (R372): Firmware makes an absent page present and resolves its page future, or poisons the future, waking the parked accesses. -/
  | pageFutureSettle (cl i : Nat) (code : BitVec 8) (word : BitVec 64)
  /-- ETHERNET_PORT_CHANGE (R420): An Ethernet port goes down or comes up at 800 Gb/s or 1.6 Tb/s, changing which working ports resends may use. -/
  | ethernetPortChange (port st : Nat)
  /-- POWER_ON (R426): Package power returns, the security root chooses and verifies a firmware slot, and the package starts as after a level-7 reset. -/
  | powerOn
  /-- DIE_RESET_COMPLETE (R399): A reset compute die rejoins the package with its clusters, cores, spares and map, and it takes up its time exchanges again. -/
  | dieResetComplete (die : Nat)
  deriving DecidableEq, Repr

end Sys2Proof
end

