-- ==== Sys2Proof/Machine/State.lean ====
section
/-! DEFINITION. The machine's state: every piece of state that spec/ names, as plain data (INVENTORY.md lists it with
its rules and reset values). A logical core is numbered (die * 112 + cluster) * 8 + core, a cluster die * 112 + cluster. -/

namespace Sys2Proof.Machine

/-- The states of a task (spec/01 R13). -/
inductive Phase where
  | created | prefetching | ready | running | parked | done | killed | cancelled
  deriving DecidableEq, Repr

/-- The causes a cycle of a thread's own entry is charged to, highest first (spec/12 R318). -/
inductive Cause where
  | therm | empty | tlb | pers | token | port | opnd
  deriving DecidableEq, Repr

/-- The stall counters of a task (spec/12 R318). -/
structure Stalls where
  therm : Word := 0
  empty : Word := 0
  tlb : Word := 0
  pers : Word := 0
  token : Word := 0
  port : Word := 0
  opnd : Word := 0
  deriving DecidableEq, Repr

/-- The registers of a thread: what a task frame, a register window and a pair's checkpoint hold (R276, R51, R401).
TVEC, EPC and ECODE (R385) are held here with no reset value given by the spec (DESIGN CHOICE 0, log 5). -/
structure Regs where
  pc : Addr := 0
  g : FMap Word := []
  wid : Word := 0
  fflags : BitVec 6 := 0
  frm : BitVec 3 := 1
  srseed : BitVec 32 := 0x6A3B91C5
  orhint : BitVec 32 := 0
  esel : BitVec 2 := 0
  fstsCode : BitVec 8 := 0
  fstsOut : BitVec 3 := 0
  atset : Word := 0
  tvec : Word := 0
  epc : Word := 0
  ecode : BitVec 7 := 0
  deriving DecidableEq, Repr

/-- Where a store goes: device memory at a DPA, a scratchpad offset of a core, or a doorbell register (R214, R219, R354). -/
inductive Dest where
  | mem (dpa : Nat)
  | win (core off : Nat)
  | door (dpa : Nat)
  deriving DecidableEq, Repr

/-- A store in a thread's FIFO (spec/09 R214). `rel` is the scope of a release store (R246); `line` says that an UNCACHED
page is written (R183). -/
structure Store where
  dest : Dest
  bytes : List Byte
  rel : Option Nat := none
  uncached : Bool := false
  /-- The core and scratchpad offset of a mapping by whose window name it was made (R180, R258). -/
  via : Option (Nat × Nat) := none
  deriving DecidableEq, Repr

/-- A vector claim: its frame (none while saved), groups, length, registers (key 256 * register + element) and masks
(spec/06 R117-R123). -/
structure Claim where
  frame : Option Nat
  req : Nat
  g : Nat
  vl : Nat := 256
  v : FMap (BitVec 32) := []
  vm : FMap (BitVec 256) := []
  deriving DecidableEq, Repr

/-- A fault that halts a thread: what the fault message carries (spec/02 R50). -/
structure Halt where
  code : BitVec 8
  detail : Word
  len : Nat
  insn : Nat
  /-- The message has been handled and the thread is held for a report (R291, R333). -/
  held : Bool := false
  deriving DecidableEq, Repr

/-- A translation entry: its tag and entry words (spec/14 R369). -/
structure Tlb where
  tag : Word
  word : Word
  deriving DecidableEq, Repr

/-- What a parked or asking instruction does when it completes (spec/11 R299-R306, spec/12 R326, spec/14 R372). -/
inductive Pend where
  | touch (rd : BitVec 7) (trap : Bool)
  | touchp (rd : BitVec 7)
  | wany (rd : BitVec 7) (hs : List Word)
  | barw (rd : BitVec 7) (d : Word)
  | waitt (rd : BitVec 7)
  | page (va : Nat)
  | fstat (rd : BitVec 7)
  | outcome (rd : BitVec 7)
  deriving DecidableEq, Repr

/-- What a touch finds: 0 RESOLVED, 1 POISONED, 2 CANCELLED, 3 STALE, 4 PENDING, with value, code and flags (R284, R285). -/
structure View where
  out : BitVec 3
  value : Word := 0
  code : BitVec 8 := 0
  flags : BitVec 6 := 0
  deriving DecidableEq, Repr

/-- A parked task's waiters: the instruction, its length and word, and the futures it waits on (spec/11 R289). -/
structure Park where
  what : Pend
  hs : List Word
  len : Nat
  insn : Nat
  /-- The port sources whose elements are taken when the instruction completes (R44), and the cycle in which it issued. -/
  pops : List Nat := []
  since : Nat := 0
  deriving DecidableEq, Repr

/-- What a pair's leader forwards to the shadow of an instruction that it has retired (R403): the instruction and the values that it
took from outside, for the shadow to execute; or, of a synchronising one and of one that firmware completed, its registers after it
and the fingerprint. -/
structure Fwd where
  insn : Nat := 0
  len : Nat := 0
  took : List Word := []
  r : Option Regs := none
  crc : Word := 0
  sync : Bool := false
  deriving DecidableEq, Repr

/-- One member's part of a redundant pair (spec/15 R400-R406). -/
structure Pair where
  leader : Bool
  other : Nat
  ckpt : Regs
  held : List Store := []
  retired : Nat := 0
  crc : Word := 0
  /-- What the leader has retired and the shadow has not yet (R403). -/
  fwd : List Fwd := []
  closed : Bool := false
  /-- The open interval begins with what the two have just agreed on: nothing has been retired since (R402). -/
  agreed : Bool := false
  /-- The shadow has met something that its leader did not. -/
  bad : Bool := false
  /-- Elements that the leader took from ports in the open interval: port and ESEL, and value (R404). -/
  popped : List (Nat × Nat × Word) := []
  rollbacks : Nat := 0
  intervals : Nat := 0
  fails : Nat := 0
  deriving DecidableEq, Repr

/-- What a task's end settles: its own future, a range's count, or nothing (R286, R297, R310). -/
inductive Ends where
  | fut (h : Word)
  | range (h : Word)
  | none
  deriving DecidableEq, Repr

/-- The bytes that a plain load may have read early, and whether a store to them has become die-visible since (spec/09 R216). -/
structure Early where
  dpa : Nat
  bytes : List Byte
  hit : Bool := false
  deriving DecidableEq, Repr

/-- What the last beat of a vector instruction gives: the registers whose result is ready that many cycles later, and the
element stores that leave the thread (R126, R127, R134). -/
structure Late where
  keys : List Nat
  lat : Nat
  stores : List Store := []
  deriving DecidableEq, Repr

/-- A task or handler: its registers whether in a slot or in its frame, and everything that belongs to it. -/
structure Task where
  phase : Phase := .created
  ctx : Nat := 0
  launch : Option Nat := none
  handler : Bool := false
  cls : Nat := 0
  core : Nat := 0
  slot : Option Nat := none
  rfbase : Nat := 0
  started : Bool := false
  ends : Ends := .none
  r : Regs := {}
  chg : BitVec 8 := 0
  stalls : Stalls := {}
  cancel : Bool := false
  fifo : List Store := []
  /-- Window stores sent and not acknowledged: target core and 128-byte block (R219). -/
  unacked : List (Nat × Nat) := []
  fbuf : FMap (List Byte) := []
  epWords : List Word := []
  mxDone : List Word := []
  xfDone : List Word := []
  mxOut : Nat := 0
  xfOut : Nat := 0
  mpIn : List Word := []
  mpOut : List Word := []
  claim : Option Claim := none
  /-- Scratchpad extents held, offset and length (R281), and the tile list's address. -/
  extents : List (Nat × Nat) := []
  tiles : Option Nat := none
  frame : Bool := false
  park : Option Park := none
  ask : Option Park := none
  /-- What the replies to a WANY of other packages' futures have found so far (R300). -/
  found : List (Word × View) := []
  /-- The task is cancelled and ends once its release at .s holds (R304, R308). -/
  ending : Bool := false
  halt : Option Halt := none
  /-- A fault taken when the task next runs (R299, R372). -/
  pend : Option Halt := none
  /-- Saved by SLOTW and unscheduled until the thaw (R382). -/
  saved : Bool := false
  /-- A TLBINV under way: the entries counted, and those whose accesses it waits for (R375). -/
  inv : Option (Nat × List Tlb) := none
  /-- The stream link on its core and whether this task is its creator (R333). -/
  link : Option (Nat × Bool) := none
  pair : Option Pair := none
  /-- The poison code that the thread's last touch of another package's future found (R298). -/
  peerCode : BitVec 8 := 0
  ident : Word := 0
  ordinal : Nat := 0
  startedAt : Nat := 0
  stall : Option (Nat × Cause) := none
  /-- The cycle in which a pending result is ready, by register: general registers by number, vector registers from 128,
  masks from 144 (R89, R126). -/
  due : FMap Nat := []
  /-- The cycle in which the next instruction is ready after a taken branch (R116). -/
  nextAt : Nat := 0
  /-- Results for ports that are pending: the cycle in which each is pushed, the port, ESEL and the value (R44, R89, R90). -/
  pushes : List (Nat × Nat × BitVec 2 × Word) := []
  /-- The instruction that waits has begun and completes before a freeze (R381). -/
  busy : Bool := false
  /-- Beats of a vector instruction outstanding, and what the last one gives (R125). -/
  beats : Nat := 0
  after : Option Late := none
  /-- Loads that performed early (R216), and the bytes that an unaligned access has read so far, by address (R212). -/
  early : List Early := []
  part : FMap Byte := []
  /-- How many stores of its die's order are ahead of the release that the thread, or the head of its FIFO, waits for (R220). -/
  mark : Option Nat := none
  headMark : Option Nat := none
  /-- When a refused LDLK that its bank's full queue did not take is made again (R256). -/
  lockRetry : Option Nat := none
  /-- The armature time that a WAITT waits for, and what it completes with (R340). -/
  waitUntil : Option (Word × Park) := none
  /-- The cycle of the first fault of an unbroken FUT_FULL or STRM_SLOT series (R364). -/
  series : Option Nat := none
  /-- A shed has left its slot without an enabled entry, and it is to move (R322). -/
  evicting : Bool := false
  /-- A paired task's window onto the shadow's forwarded values is in `pair`; `shadow` marks a shadow (R401). -/
  shadow : Bool := false
  deriving DecidableEq, Repr

/-- A range entry: the untaken indices and what every child starts from (spec/11 R277, R297). -/
structure Range where
  lo : Nat
  hi : Nat
  field : Nat
  ctx : Nat
  launch : Nat
  cls : Nat
  r : Regs
  p : BitVec 32
  tiles : Option Nat
  fut : Word
  ident : Word
  deriving DecidableEq, Repr

/-- A deque entry; the head of a deque is its bottom (spec/01 R14). -/
inductive Entry where
  | task (tid : Nat)
  | range (r : Range)
  deriving DecidableEq, Repr

/-- An overflow segment: the context whose frame pool holds it, and its entries from the bottom (spec/01 R17). -/
structure Segment where
  ctx : Nat
  es : List Entry
  deriving DecidableEq, Repr

/-- The state of a stash line (spec/08 R180). -/
inductive StashLine where
  | empty | clean | dirty
  deriving DecidableEq, Repr

/-- A stash mapping: offset, virtual address, length, and its lines' states and physical lines by index (spec/08 R180). -/
structure Stash where
  off : Nat
  va : Nat
  len : Nat
  lines : FMap StashLine := []
  phys : FMap Nat := []
  deriving DecidableEq, Repr

/-- A scratchpad partition (spec/08 R178-R179). -/
structure Part where
  ctx : Nat
  units : List Nat
  launches : List Nat
  stash : List Stash := []
  deriving DecidableEq, Repr

/-- An entry of a port's trace ring (spec/09 R229). -/
structure TraceEntry where
  time : Word
  w1 : Word
  deriving DecidableEq, Repr

/-- An active message: destination core, sender core, sender's context and task, words, carried future (spec/12 R327-R331). -/
structure Msg where
  dst : Nat
  src : Nat
  ctx : Nat
  tid : Nat
  words : List Word
  fut : Word
  /-- 0 on its way, 1 refused and waiting to be resent, otherwise returned with this code. -/
  code : Nat := 0
  since : Nat := 0
  /-- The sender's descriptor (R327), and whether it is of another package. -/
  desc : Word := 0
  peer : Bool := false
  /-- The slot that it was sent from (R378). -/
  slot : Nat := 0
  deriving DecidableEq, Repr

/-- An unmatched TSWAP request (spec/07 R173). -/
structure Swap where
  id : Nat
  core : Nat
  off : Nat
  d : Word
  ctx : Nat
  fut : Word
  deriving DecidableEq, Repr

/-- A stream link: the creator's and the partner's task, DIR, the queues qa and qb, and who has ended (R334, R335). -/
structure Link where
  a : Nat
  b : Nat
  dir : Bool
  qa : List Word := []
  qb : List Word := []
  aEnded : Bool := false
  bEnded : Bool := false
  deriving DecidableEq, Repr

/-- A pending slot-table write (spec/14 R379). -/
inductive TableWrite where
  | entry (idx : Nat) (v : BitVec 16)
  | length (p : Nat)
  deriving DecidableEq, Repr

/-- A refused lock request in a bank's queue: the lock bit, the task, and whether a freed bit has gone to it (spec/10 R256). -/
structure LockReq where
  bit : Nat
  tid : Nat
  granted : Bool := false
  deriving DecidableEq, Repr

/-- A logical compute core (spec/01 R8). -/
structure Core where
  table : FMap (BitVec 16) := []
  len : Nat := 64
  base : Nat := 0
  /-- SLOTW's writes not yet in effect, each with the cycle of its issue (R379). -/
  pending : List (Nat × TableWrite) := []
  /-- Contexts that SLOTW has frozen here (R381). -/
  frozen : List Nat := []
  shedOrder : List Nat := []
  slots : FMap Nat := []
  deque : List Entry := []
  overflow : List Segment := []
  /-- Slots whose run is being spilled or scrubbed: its base and length, and the cycle in which slot and run are free (R311,
  R392). -/
  leaving : FMap (Nat × Nat × Nat) := []
  /-- Tasks and range entries (by `Entry.key`) that a slot would take but for a register run, with the cycle since which, and
  the one that has become the waiting large task (R317). -/
  passed : FMap Nat := []
  large : Option Nat := none
  /-- The cycle after the last in which a slot took a task (R277). -/
  handed : Nat := 0
  ua : FMap Byte := []
  uaPoison : FMap Bool := []
  parts : List Part := []
  /-- The first-level cache: by 256 * unit + set, a 64-byte line number of a DPA and whether it is dirty (R177). -/
  l1 : FMap (Nat × Bool) := []
  /-- The lines that miss registers hold, of accesses whose requests are out (R184). -/
  misses : List Nat := []
  /-- 64-byte lines that prefetches will fill the first-level cache with (R251). -/
  l1Wait : List Nat := []
  icache : FMap (List Byte) := []
  locks : FMap Nat := []
  lockQ : FMap (List LockReq) := []
  trace : FMap TraceEntry := []
  traceIdx : Nat := 0
  lcnt : Nat := 0
  traceCopied : Nat := 0
  inQ : List Msg := []
  sendBufs : Nat := 0
  swaps : List Swap := []
  tlb : List Tlb := []
  scinval : Word := 0
  /-- The last core cycle that is over, and the thread tried in the one under way (R314). -/
  lastCycle : Nat := 0
  trying : Option Nat := none
  temp : Nat := 0
  shedding : Bool := false
  /-- It sheds for its temperature (R320), not for the package's power alone (R424). -/
  hot : Bool := false
  stealOut : Bool := false
  stealAt : Nat := 0
  backoff : Nat := 512
  /-- The place in the core's sequence of victims (R15). -/
  victimPos : Nat := 0
  spawnCount : FMap Nat := []
  stealCount : Nat := 0
  startCount : Nat := 0
  links : FMap Link := []
  beatAt : Nat := 0
  stopped : Bool := false
  missing : Bool := false
  /-- Its internal checks have failed since its last heartbeat (R393). -/
  failing : Bool := false
  /-- The contexts to be told of the core's retirement, or of its cluster's, counted when it stopped (R383). -/
  atStop : Option (List (Nat × Nat) × List (Nat × Nat)) := none
  dead : Bool := false
  phys : Nat := 0
  deriving DecidableEq, Repr

/-- What settles a future (spec/11 R286). -/
inductive Prod where
  | task (tid : Nat)
  | range
  | job (cl j : Nat)
  | xfer (cl x : Nat)
  | sync (core off : Nat)
  | page
  | empty
  | swap
  deriving DecidableEq, Repr

/-- The logical states of a future entry (spec/11 R287). -/
inductive FState where
  | pending | resolved | poisoned | cancelled
  deriving DecidableEq, Repr

/-- A future entry or spilled record (spec/11 R286-R294). Waiters are tasks of its own cluster, `remote` other clusters
with waiters. A range counts the children that still run and the indices not yet taken. -/
structure Fut where
  idx : Nat
  gen : Nat
  prod : Prod
  ctx : Nat
  launch : Option Nat
  openBit : Bool := false
  st : FState := .pending
  value : Word := 0
  code : BitVec 8 := 0
  flags : BitVec 6 := 0
  rel : Bool := false
  waiters : List Nat := []
  remote : List Nat := []
  order : Nat := 0
  left : Nat := 0
  doneN : Nat := 0
  killedN : Nat := 0
  cancelling : Bool := false
  deriving DecidableEq, Repr

/-- A wake in progress: the task, the future and what it found (spec/11 R289). -/
structure Wake where
  tid : Nat
  h : Word
  view : View
  deriving DecidableEq, Repr

/-- Where an engine job's or transfer's result goes: a future, a thread's ep queue, or a task's prefetch (R161, R280). -/
inductive Sink where
  | fut (h : Word)
  | ep (tid : Nat)
  | prefetch (tid : Nat)
  | copy (q : Nat)
  deriving DecidableEq, Repr

/-- An accepted MXE job (spec/07 R149-R163). -/
structure Job where
  id : Nat
  ctx : Nat
  launch : Option Nat
  w0 : Word
  w1 : Word
  w2 : Word
  w3 : Word
  sink : Sink
  rm : BitVec 3
  rng : BitVec 32
  time : Word
  running : Bool := false
  /-- A timed job began late (R163), and the writes of a STORE that have performed. -/
  late : Bool := false
  wrote : Nat := 0
  /-- When it was accepted, and what its reads wait for now (R163, R170). -/
  acc : Nat := 0
  why : Option Cause := none
  /-- The completion element once the job's work is done. -/
  result : Option Word := none
  deriving DecidableEq, Repr

/-- An accumulator tile: owner, TYPE, elements by 128 * row + column, poisoned elements (spec/07 R148, R167). -/
structure Tile where
  owner : Option Nat := none
  ty : Bool := false
  e : FMap (BitVec 32) := []
  bad : FMap Bool := []
  deriving DecidableEq, Repr

/-- An accepted bulk transfer: descriptor, where its next piece starts, its status so far (spec/10 R263-R269). -/
structure Xfer where
  id : Nat
  ctx : Nat
  launch : Option Nat
  w0 : Word
  w1 : Word
  w2 : Word
  w3 : Word
  sink : Sink
  time : Word
  row : Nat := 0
  pos : Nat := 0
  begun : Bool := false
  late : Bool := false
  status : Nat := 0
  /-- Bytes that have landed, and what the transfer waits for now (R319). -/
  landed : Nat := 0
  why : Option Cause := none
  /-- What a prefetch has read of a tile's source line and not yet written (R230). -/
  line : List (BitVec 8) × List Bool := ([], [])
  deriving DecidableEq, Repr

/-- A translation fill at the CSC: ASID, virtual page of 64 KiB, whether it is walked, the reply's code, and the threads
(with the fault a code would give them) and transfers whose accesses wait on it (spec/14 R368). -/
structure Fill where
  asid : Nat
  vpn : Nat
  walked : Bool := false
  reply : Nat := 0
  threads : List (Nat × Halt) := []
  xfers : List Nat := []
  /-- log2 of the size of the page that a page future's end answers for (R443). -/
  bits : Nat := 16
  deriving DecidableEq, Repr

/-- A page future of a cluster (spec/14 R372): none while no entry can be had; the threads that wait in their slots, with
the fault that poison gives them, and the transfers it holds. -/
structure PageFut where
  ctx : Nat
  vpn : Nat
  h : Option Word
  threads : List (Nat × Halt) := []
  xfers : List Nat := []
  /-- The hub waits on it too, and log2 of the page's size (R443). -/
  hub : Bool := false
  bits : Nat := 16
  deriving DecidableEq, Repr

/-- A fault message at the CSC (spec/02 R50): the task and the four words. -/
structure FaultMsg where
  tid : Nat
  w0 : Word
  w1 : Word
  w2 : Word
  w3 : Word
  deriving DecidableEq, Repr

/-- Per-context counters of an XFE and CSCH (spec/12 R319). -/
structure XStalls where
  tag : Word := 0
  tlb : Word := 0
  tok : Word := 0
  pers : Word := 0
  therm : Word := 0
  wait : Word := 0
  deriving DecidableEq, Repr

/-- Per-context counters of an MXE (spec/07 R170). -/
structure MStalls where
  opnd : Word := 0
  scale : Word := 0
  therm : Word := 0
  deriving DecidableEq, Repr

/-- A logical cluster (spec/01 R7). -/
structure Cluster where
  tlb : List Tlb := []
  fills : List Fill := []
  pageFuts : List PageFut := []
  futs : FMap Fut := []
  spilled : List Fut := []
  nextGen : FMap Nat := []
  /-- LOST indices and the code they answer with (R397). -/
  lost : FMap (BitVec 8) := []
  /-- The launches, live when an index was lost, that keep it so (R397). -/
  lostUntil : FMap (List Nat) := []
  remoteWaits : List (Word × Nat) := []
  wakes : List Wake := []
  /-- The earliest cycle of its next wake (R289). -/
  wakeAt : Nat := 0
  /-- Futures settled here, by launch (R20). -/
  settled : FMap Nat := []
  /-- The cycle after the last in which a prefetch was started (R280). -/
  prefetched : Nat := 0
  tiles : FMap Tile := []
  jobs : List Job := []
  mxCount : Nat := 0
  /-- The cycle in which the array last became free (R163). -/
  mxFree : Nat := 0
  mxStall : FMap MStalls := []
  xfers : List Xfer := []
  xfStall : FMap XStalls := []
  trt : FMap Word := []
  groups : Nat := 16
  /-- The task whose claim holds the group marked for shedding (R120). -/
  marked : Option Nat := none
  faults : List FaultMsg := []
  phys : Nat := 0
  failedCores : List Nat := []
  beatAt : Nat := 0
  missing : Bool := false
  failing : Bool := false
  /-- A future entry was freed or spilled since the last report (R291). -/
  freed : Bool := false
  deriving DecidableEq, Repr

/-- A store accepted into a die's order and not yet performed globally (spec/09 R214). -/
structure DieStore where
  seq : Nat := 0
  dpa : Nat
  bytes : List Byte
  uncached : Bool := false
  /-- The storing core and its context, and the thread. -/
  by' : Option (Nat × Nat) := none
  tid : Option Nat := none
  /-- Of a store that a bridge acknowledges: 0 not sent, 1 sent, 2 acknowledged (R214). -/
  sent : Nat := 0
  /-- The engine's job or transfer that makes it, and the words it carries poisoned (R214, R227, R243). -/
  eng : Option Nat := none
  bad : List Nat := []
  /-- The context that makes it (R422), and whether it is die-visible only as it performs globally (R220). -/
  ctx : Nat := 64
  hidden : Bool := false
  deriving DecidableEq, Repr

/-- A compute die: its order, its armature clock against the hub's, and its failed clusters (R214, R338, R383, R399). -/
structure Die where
  order : List DieStore := []
  /-- Stores accepted so far: the place of the next one in the order. -/
  accepted : Nat := 0
  offset : Int := 0
  /-- Ticks still to be slewed, and whether the last measured offset was out of bound (R338, R339). -/
  slew : Int := 0
  /-- The cycle in which the count last slewed, and by how much. -/
  slewed : Nat × Int := (0, 0)
  far : Bool := false
  exchanges : Nat := 0
  /-- The cycle of its last time exchange (R338). -/
  exchangedAt : Nat := 0
  /-- A planned reset has begun: nothing new starts on the die, and what its threads have stored drains (R399). -/
  resetting : Bool := false
  down : Bool := false
  lostAt : Option Nat := none
  failed : List Nat := []
  /-- The failed cores of physical clusters that no logical cluster stands on now (R383). -/
  failedCores : FMap (List Nat) := []
  deriving DecidableEq, Repr

/-- The tokens an agent holds for a line, or a message carries, and whether valid data is with them (spec/08 R190, R191). -/
structure Tok where
  plain : Nat := 0
  owner : Bool := false
  data : Bool := false
  deriving DecidableEq, Repr

/-- A 128-byte line: its holders by agent and the home's serial (spec/08 R190). An unlisted line rests at its home. -/
structure Line where
  held : FMap Tok
  tser : BitVec 16 := 0
  deriving DecidableEq, Repr

/-- The kinds of request (spec/08 R192). -/
inductive Req where
  | gets | getx | getxf
  deriving DecidableEq, Repr

/-- Coherence messages in flight (spec/08 R192-R199). -/
inductive Coh where
  | request (kind : Req) (line agent attempt : Nat)
  | forward (kind : Req) (line agent target : Nat)
  /-- `src` is the agent that sends them unasked, if one does (R189). -/
  | tokens (line dst : Nat) (t : Tok) (tser : BitVec 16) (src : Option Nat)
  | persist (kind : Req) (line agent age : Nat)
  | act (ident line agent target : Nat)
  | deact (ident target : Nat)
  | doneMsg (kind : Req) (line agent : Nat)
  deriving DecidableEq, Repr

/-- A transient request outstanding at its agent (spec/08 R196). -/
structure Out where
  kind : Req
  line : Nat
  agent : Nat
  attempt : Nat
  sentAt : Nat
  age : Nat
  persistent : Bool := false
  /-- Waits at its slice for a tracker: nothing has been sent (R184). -/
  queued : Bool := false
  deriving DecidableEq, Repr

/-- An entry of a home's persistent-request table (spec/08 R198). -/
structure Persist where
  kind : Req
  line : Nat
  agent : Nat
  age : Nat
  ident : Nat
  active : Bool := false
  deriving DecidableEq, Repr

/-- An unbacked page (spec/08 R201-R207): log2 of its size, home die, owner context, live lines, the die where each resting
line rests, the age and die of each pinned line, binding record. -/
structure Unbacked where
  size : Nat := 16
  home : Nat
  ctx : Nat
  late : Bool := false
  live : FMap Bool := []
  resting : FMap Nat := []
  pinned : FMap (Nat × Nat) := []
  bound : Option Nat := none
  written : FMap Bool := []
  deriving DecidableEq, Repr

/-- What home memory holds of a line that an agent has written since: its bytes and poisoned words (spec/08 R194, R206). -/
structure Stale where
  bytes : List Byte
  bad : List Nat
  deriving DecidableEq, Repr

/-- The token protocol's state (spec/08). -/
structure Coherence where
  lines : FMap Line := []
  msgs : List Coh := []
  outs : List Out := []
  persist : List Persist := []
  nextIdent : Nat := 0
  /-- ACTs in force at each agent: agent, identifier, line, requester (R199). -/
  acts : List (Nat × Nat × Nat × Nat) := []
  /-- Identifiers whose DEACT came before their ACT, by agent (R199). -/
  early : List (Nat × Nat) := []
  ub : FMap Unbacked := []
  /-- Reservations, key 16 * context + die, in lines (R202). -/
  res : FMap Nat := []
  lostAgents : List Nat := []
  stale : FMap Stale := []
  /-- Cache attributes other than NORMAL of lines by their latest access (R183), and the age of the next pin (R204). -/
  attrs : FMap Nat := []
  pins : Nat := 0
  deriving DecidableEq, Repr

/-- A context record and its event counters (spec/14 R362-R364, R378, R387). -/
structure Ctx where
  asid : Nat
  priv : Bool := false
  /-- The ranges of the frame pool and the spill area, first address and length. -/
  fpool : List (Nat × Nat) := []
  spill : List (Nat × Nat) := []
  segpool : List (Nat × Nat) := []
  bkpool : List (Nat × Nat) := []
  ubceil : FMap Nat := []
  tlbfloor : Nat := 0
  hwin : Word := 0
  evbase : Nat := 0
  evlen : Nat := 0
  capep : BitVec 4 := 0
  waitlim : Nat := 0
  traptab : Nat := 0
  evidx : Word := 0
  evrd : Word := 0
  evfut : Word := 0
  ovf : Bool := false
  msgret : Word := 0
  capden : Word := 0
  /-- PTROOT, and leaves that firmware has written over those of its tables (log 8). -/
  ptroot : Nat := 0
  pages : List Tlb := []
  deriving DecidableEq, Repr

/-- The states of a launch (spec/13 R359-R361). -/
inductive LState where
  | placing | running | retired
  deriving DecidableEq, Repr

/-- How a root ended (spec/13 R360). -/
structure RootEnd where
  status : Nat
  code : BitVec 8 := 0
  value : Word := 0
  flags : BitVec 6 := 0
  deriving DecidableEq, Repr

/-- What a node of the termination tree saw at its last sweep: the count of its children's steals, spawns and settled
futures, and how many sweeps in a row have found them idle with that count, up to two (R20). -/
structure Sweep where
  count : Nat := 0
  runs : Nat := 0
  deriving DecidableEq, Repr

/-- A launch: header words (R357), root, abandonment, sweeps of the termination tree (0 the package, 1 to 8 the dies, 9 on
the clusters), record state (R408-R412). -/
structure Launch where
  ctx : Nat
  queue : Nat
  hdr : List Word
  /-- Stores each die had accepted when the launch was found complete: its retirement releases them (R20). -/
  marks : FMap Nat := []
  st : LState := .placing
  root : Option Nat := none
  rootEnd : Option RootEnd := none
  abandon : Option Nat := none
  readAt : Nat := 0
  arrival : Nat := 0
  tree : FMap Sweep := []
  complete : Bool := false
  entries : List (Nat × Nat) := []
  recState : Nat := 0
  recUsed : Nat := 0
  /-- In replay: when the launch was accepted or last thawed; how many recorded events of each order have happened, and when the
  last did; and the first that the record lacks: its kind, place, task identifier and ordinal (R411-R413). -/
  recAt : Nat := 0
  turns : FMap Nat := []
  turnAt : FMap Nat := []
  strayed : Option (Nat × Nat × Word × Nat) := none
  /-- Its place among those reported complete while the command processors restarted (R407). -/
  late : Option Nat := none
  /-- 16-byte units that its transfers have read from regions 0x2 and 0x3 (R410). -/
  hostData : Nat := 0
  /-- Atomic operations performed so far on each line, by line number (R410). -/
  amo : FMap Nat := []
  deriving DecidableEq, Repr

/-- The states of a queue (spec/13 R355). -/
inductive QState where
  | run | waiting | timed | stopped | placing
  deriving DecidableEq, Repr

/-- A queue (spec/13 R346-R355). Segments are (first sequence number, address, log2 size). -/
structure Queue where
  ctx : Nat
  prio : Nat
  vec : Option Nat
  segs : List (Nat × Nat × Nat)
  next : Nat := 0
  kick : Nat := 0
  kickAt : Nat := 0
  rp : Nat := 0
  crp : Nat := 0
  st : QState := .run
  err : Nat := 0
  reclost : Bool := false
  mapped : Bool := false
  /-- When its last packet ended or was read, by which the idle and the waiting are chosen (R346). -/
  since : Nat := 0
  /-- What a future of another package that a WAIT names was found to be. -/
  answer : Option View := none
  timed : Word := 0
  copyFault : Bool := false
  live : List Nat := []
  /-- A packet whose header matched and whose action is due: its type and words 1 to 15 (R352). -/
  pkt : Option (Nat × List Word) := none
  deriving DecidableEq, Repr

/-- A copy of the hub's copy unit (spec/13 R356). -/
structure Copy where
  q : Nat
  ctx : Nat
  dst : Word
  src : Word
  len : Nat
  pos : Nat := 0
  fault : Bool := false
  deriving DecidableEq, Repr

/-- A window store, engine write or lock request on its way to a memory port (spec/09 R219, R228). -/
structure PortMsg where
  core : Nat
  off : Nat
  bytes : List Byte
  kind : Nat
  src : Nat
  ctx : Nat
  tid : Option Nat
  retry : Bool := false
  deriving DecidableEq, Repr

/-- A steal request or its answer (spec/01 R14-R16, R19). -/
structure Steal where
  thief : Nat
  victim : Nat
  ctx : Nat
  answered : Bool := false
  got : Option Entry := none
  retry : Bool := false
  /-- The stores its die had accepted when the victim gave an entry to another die: the release that goes before it (R225). -/
  mark : Option Nat := none
  deriving DecidableEq, Repr

/-- The operations that reach a future entry (spec/11 R288). -/
inductive FOp where
  | touch | touchp | fstat | resolve (v : Word) | fpois (c : BitVec 8) | cancel | frel
  deriving DecidableEq, Repr

/-- A future operation on its way to another cluster, or its reply (spec/11 R288, R299). -/
structure FutMsg where
  tid : Nat
  ctx : Nat
  cl : Nat
  h : Word
  op : FOp
  view : View := { out := 0 }
  ret : Word := 0
  retry : Bool := false
  deriving DecidableEq, Repr

/-- A job sent with a capability (spec/07 R165). -/
structure CapMsg where
  src : Nat
  job : Job
  cap : Word
  retry : Bool := false
  deriving DecidableEq, Repr

/-- A block on its way to a swap partner's scratchpad, and the future it settles (spec/07 R173). -/
structure Landing where
  id : Nat
  ctx : Nat
  core : Nat
  src : Nat
  off : Nat
  pitch : Nat
  rowLen : Nat
  ew : Nat
  fut : Word
  bytes : List Byte
  bad : List Bool
  /-- Pieces that have landed, and the code with which the block's landing ended. -/
  done : Nat := 0
  code : BitVec 8 := 0
  deriving DecidableEq, Repr

/-- A unit being remapped: a core or a cluster, its logical number, the new physical unit, and the task that asked with
its destination register (spec/14 R383). -/
structure Remap where
  isCore : Bool
  unit : Nat
  copy : Bool
  retire : Bool
  phys : Nat
  asker : Option (Nat × BitVec 7) := none
  pops : List Nat := []
  /-- Contexts that held a thread or a valid entry on the unit when it began, with their lowest slot (R378). -/
  ctxs : List (Nat × Nat) := []
  deriving DecidableEq, Repr

/-- What the firmware of a CSC, or the command processor, is to write: an event of a context (its first word, time and address),
an entry of a launch's record, or words of a record's header by offset (spec/14 R378, spec/15 R408, R410). -/
inductive CscWork where
  | event (ctx w0 : Nat) (time : Word) (addr : Nat)
  | entry (l w0 : Nat) (time w2 w3 : Word)
  | header (l : Nat) (ws : List (Nat × Word))
  deriving DecidableEq, Repr

/-- Such a write under way: the cluster whose CSC makes it, 896 for the command processor, and whether its stores have entered
the die's order. -/
structure CscWrite where
  id : Nat
  cl : Nat
  work : CscWork
  sent : Bool := false
  deriving DecidableEq, Repr

/-- A wake message to a cluster that has waiters (spec/11 R289). -/
structure WakeMsg where
  cl : Nat
  h : Word
  view : View
  deriving DecidableEq, Repr

/-- Messages in flight between cores, clusters and ports. -/
structure Net where
  ports : List PortMsg := []
  acks : List (Nat × Nat × Nat) := []
  steals : List Steal := []
  futReqs : List FutMsg := []
  futReps : List FutMsg := []
  wakeMsgs : List WakeMsg := []
  msgs : List Msg := []
  acked : List Nat := []
  caps : List CapMsg := []
  /-- The blocks of each matched swap. -/
  landings : List (List Landing) := []
  remaps : List Remap := []
  /-- Writes of the CSCs and the command processor that wait for their translation, page or tokens (R368, R443). -/
  csc : List CscWrite := []
  deriving DecidableEq, Repr

/-- A flit in the fabric (spec/08 R185): its header's fields, the router it is at and the port it came in by. -/
structure Flit where
  age : BitVec 16
  ddie : Nat
  drt : Nat
  sdie : Nat
  srt : Nat
  cls : Nat
  msgid : Nat
  seq : Nat
  /-- How many flits its message has. -/
  of' : Nat := 1
  router : Nat
  inPort : Nat
  /-- When it came to its router, in fabric cycles. -/
  hopAt : Nat := 0
  /-- When it was injected, in fabric cycles. -/
  born : Nat := 0
  deriving DecidableEq, Repr

/-- The fabric: flits at routers, flits ejected whose messages are not whole, flits offered, failed links, replays of each
link's crossing under way and the output it leaves by, each source's message number, messages reassembled, and the fabric
cycle in which each router last granted its injection port or had nothing offered (spec/08 R185-R188). -/
structure Fabric where
  flits : List Flit := []
  delivered : List Flit := []
  offered : List Flit := []
  failedLinks : List Nat := []
  replays : FMap Nat := []
  crossing : FMap (Nat × Nat) := []
  nextMsg : FMap Nat := []
  messages : Nat := 0
  granted : FMap Nat := []
  cycled : FMap Nat := []
  deriving DecidableEq, Repr

/-- A core of a command-processor pair: RV64IMAC in machine mode (spec/13 R345; its reset values, log 42). -/
structure RvCore where
  pc : Word := 0
  x : FMap Word := []
  /-- MIE and MPIE of mstatus. -/
  on : Bool := false
  was : Bool := false
  mie : Word := 0
  mtvec : Word := 0
  mscratch : Word := 0
  mepc : Word := 0
  mcause : Word := 0
  mtval : Word := 0
  mcycle : Word := 0
  minstret : Word := 0
  resv : Option Nat := none
  deriving DecidableEq, Repr

/-- An instruction that the main core has executed and the checker has not: when, its word and length, the value it read, the
interrupts pending, and what it put out: addresses, lengths and values. -/
structure RvDone where
  at' : Nat
  word : Nat
  len : Nat
  read : Word
  /-- The interrupts pending then (mip). -/
  mip : Word := 0
  out : List (Nat × Nat × Word)
  deriving DecidableEq, Repr

/-- A command-processor pair: its main core, its checker two cycles behind, what is between them, how many outputs have left
the pair, and the bytes its main core has stored (spec/13 R345). -/
structure CpPair where
  main : RvCore := {}
  checker : RvCore := {}
  flight : List RvDone := []
  left : Nat := 0
  mem : FMap (BitVec 8) := []
  deriving DecidableEq, Repr

/-- A pre-emption on a core (spec/14 R382): its queue, the contexts frozen for it, and the slot-table entries rewritten for it
with their former values. -/
structure Preempt where
  core : Nat
  queue : Nat
  frozen : List Nat
  entries : List (Nat × BitVec 16)
  deriving DecidableEq, Repr

/-- The hub: mailbox, hub TLB, copies, command-processor pairs (spec/13, spec/14 R443, spec/15 R407, spec/16 R415). -/
structure Hub where
  mailbox : FMap Word := []
  bell : Bool := false
  tlb : List Tlb := []
  fills : List Fill := []
  copies : List Copy := []
  preempts : List Preempt := []
  restart : Bool := false
  mismatches : List (Nat × Nat) := []
  outOfService : List Nat := []
  pairs : FMap CpPair := []
  /-- Interrupts raised, vectors that the MSI-X table masks, and those pending meanwhile (R414). -/
  interrupts : List Nat := []
  /-- The address and data of each vector of the MSI-X table (R414). -/
  vectors : FMap (Word × BitVec 32) := []
  masked : FMap Bool := []
  pending : List Nat := []
  arrivals : Nat := 0
  deriving DecidableEq, Repr

/-- The host bridge and the host's side of the link (spec/16 R414-R418). -/
structure HostSide where
  /-- Device lines the host holds: true where Exclusive or Modified, false where Shared (R416). -/
  held : FMap Bool := []
  /-- Snoops and requests to the host: kind 0 BISnpData, 1 BISnpInv, 2 RdShared, 3 RdOwn, 4 RdOwnNoData, 5 a store (R214), 6
  CleanEvict, 7 DirtyEvict; line; agent; sent at. -/
  asked : List (Nat × Nat × Nat × Nat) := []
  /-- Region 0x2 lines that the bridge has from the host: true where owned, false where shared. -/
  got : FMap Bool := []
  /-- The host and the link are lost, and since when, while the census is to come (R418). -/
  lost : Bool := false
  lostAt : Option Nat := none
  /-- What the host's reads and atomic operations of doorbell registers have returned: queue, offset, value; and its reads of
  BAR2, as of queue 4,096 (R349, R353, R414). -/
  replies : List (Nat × Nat × Word) := []
  deriving DecidableEq, Repr

/-- A peer session (spec/16 R419-R420). -/
structure Session where
  number : Nat
  nextSeq : Nat := 0
  acked : Nat := 0
  seen : List Nat := []
  /-- Sent and unacknowledged: sequence, kind, words, time sent. -/
  unacked : List (Nat × Nat × List Word × Nat) := []
  /-- When each of those that have been sent again was last sent, by sequence number. -/
  resent : FMap Nat := []
  lastAck : Nat := 0
  deriving DecidableEq, Repr

/-- An access of a peer's memory that the peer bridge has sent: who asks (0 a thread, 1 an engine's job, transfer or prefetch,
2 a store of a die's order) and its number, the kind of request, the place, and the answer once it is there (spec/16 R422). -/
structure PeerAcc where
  who : Nat × Nat
  kind : Nat
  dpa : Nat
  len : Nat
  answer : Option (Bool × List Word) := none
  deriving DecidableEq, Repr

/-- A datagram between packages: the fields of its header, and its payload's words (spec/16 R419). -/
structure Datagram where
  ty : Nat
  bind : Nat := 0
  schip : Nat
  dchip : Nat
  seq : Nat := 0
  ack : Nat := 0
  session : Nat
  cls : Nat := 0
  payload : List Word := []
  /-- The IPv6 address it is sent to: ADDR of the chip's entry in the peer table (R421). -/
  dest : List Byte := []
  deriving DecidableEq, Repr

/-- Peers: chip number, peer table, bindings, sessions, datagrams given to the ports (spec/16 R419-R422). -/
structure Peers where
  chip : BitVec 20 := 0
  table : Option Nat := none
  /-- The exported window: its first address and length (R422). -/
  window : Nat := 0
  windowLen : Nat := 0
  binds : FMap Nat := []
  sessions : FMap Session := []
  downAt : FMap Nat := []
  sent : List Datagram := []
  /-- Messages waiting for a session: chip, kind, words. -/
  waiting : List (Nat × Nat × List Word) := []
  /-- Accesses of peer memory, by number (R422). -/
  accs : FMap PeerAcc := []
  deriving DecidableEq, Repr

/-- An image of the flash: a digest standing for its contents and its security version (spec/16 R425). -/
structure Image where
  digest : Nat := 0
  version : Nat := 0
  /-- Written whole: a partly written slot never verifies (R427). -/
  whole : Bool := true
  deriving DecidableEq, Repr

/-- A marker copy's twelve bytes as fields (spec/16 R425). -/
structure Marker where
  seq : BitVec 32 := 0
  slot : BitVec 8 := 0
  crc : BitVec 32 := 0
  deriving DecidableEq, Repr

/-- Pyelle, the flash and the sensors (spec/16 R423-R427). -/
structure Mgmt where
  powerLimit : Nat := 4800
  shedAt : Nat := 95
  power : Nat := 0
  overSince : Option Nat := none
  forceShed : Bool := false
  powered : Bool := true
  sensors : FMap Nat := []
  corrected : Nat := 0
  poisoned : Nat := 0
  retiredCores : Nat := 0
  syncLost : Nat := 0
  ethPorts : FMap Nat := []
  cxlLink : Nat := 0
  slot0 : Image := {}
  slot1 : Image := {}
  markA : Marker := {}
  markB : Marker := {}
  booted : Option Nat := some 0
  update : Option Image := none
  verified : Bool := false
  staged : Bool := false
  /-- Telemetry pauses until this cycle, while Pyelle restarts (R427). -/
  pause : Nat := 0
  /-- The terminus number of PLDM discovery (R423). -/
  tid : Nat := 0
  replies : List (Nat × Nat) := []
  sync : Bool := false
  peak : BitVec 16 := 0xFFFF
  skew : BitVec 16 := 0xFFFF
  /-- A skew has been published since the package reset (R339). -/
  published : Bool := false
  bootCount : Nat := 0
  /-- A package reset waits for a die's reset to end (R428). -/
  resetDue : Bool := false
  deriving DecidableEq, Repr

/-- Something outside the part: an event, or an access or a condition that no row of the table names (log 13). -/
inductive Input where
  | event (i : Instr)
  /-- The host writes a command word of the mailbox, or its doorbell, word 32 (R415). -/
  | mailWrite (n : Nat) (w : Word)
  /-- The host reads eight bytes of BAR2 (R414). -/
  | barRead (off : Nat)
  /-- The host reads a register of a queue's doorbell page (R353). -/
  | doorRead (q off : Nat)
  /-- The bytes of a datagram after its UDP header, CRC and all (R419). -/
  | datagram (bs : List Byte)
  /-- The host masks a vector of the MSI-X table, or unmasks it (R414). -/
  | msix (vec : Nat) (mask : Bool)
  /-- The host writes a vector's address and data (R414). -/
  | vector (vec : Nat) (addr : Word) (data : BitVec 32)
  /-- The link to the host is lost (R414, R418). -/
  | linkLost
  /-- A unit's internal checks fail, or pass again: a core, or 7,168 plus a cluster for its CSC (R393). -/
  | checks (unit : Nat) (fail : Bool)
  /-- A silent error changes bits of a register of a paired thread (R400-R404; log 21). -/
  | upset (tid n : Nat) (bits : Word)
  /-- A PLDM Type 0 request (R423). -/
  | pldm (cmd arg : Nat)
  deriving DecidableEq, Repr

/-- The thread whose instruction is being executed: its task, and the fetched word and length once decoded; the values
it has written and the stores it has made, in order (R402). -/
structure Turn where
  tid : Nat
  insn : Nat := 0
  len : Nat := 0
  wrote : List Word := []
  stored : List (Word × Word) := []
  /-- Values that it has taken from outside the thread, and those that a shadow's leader has forwarded (R403). -/
  took : List Word := []
  feed : List Word := []
  deriving DecidableEq, Repr

/-- The whole package. `turn`, `cycle`, `freeIdx`, `nextId` and `inputs` are the model's own (logs 1, 9, 13, 14). -/
structure State where
  turn : Option Turn := none
  cycle : Nat := 0
  freeIdx : Nat := 0
  nextId : Nat := 0
  inputs : List Input := []
  tasks : FMap Task := []
  cores : FMap Core := []
  clusters : FMap Cluster := []
  dies : FMap Die := []
  ctxs : FMap Ctx := []
  launches : FMap Launch := []
  queues : FMap Queue := []
  mem : List Host.Cell := []
  poison : FMap Bool := []
  coh : Coherence := {}
  net : Net := {}
  fabric : Fabric := {}
  hub : Hub := {}
  host : HostSide := {}
  peers : Peers := {}
  mgmt : Mgmt := {}
  deriving DecidableEq, Repr

/-- The machine right after a package reset (spec/16 R428 level 7): no context, launch, queue, task or page exists; every
core, cluster and die reads as its unlisted value; armature time is 0; HBM and the second tier are zero. Fields the spec
gives no value are named in logs 5, 7, 9, 13 and 14. -/
def State.reset : State := {}

/-- Why a step stops the machine. -/
inductive Fault where
  /-- An instruction is executed while no thread has the turn: raised by every instruction's meaning, and by no step of a
  run, because a step executes an instruction only for the thread that has the turn. Safe. -/
  | noThread
  deriving DecidableEq, Repr

/-- Why a meaning is refused. -/
inductive Refusal where
  /-- An instruction whose meaning is not written: raised only by Machine/Dispatch.lean's arms. Safe. -/
  | notModelled (mnemonic : String)
  deriving DecidableEq, Repr

end Sys2Proof.Machine
end

