-- ==== Sys2Proof/Machine/Ops.lean ====
section
/-! DEFINITION. Named operations on the state: places, registers, stalls, taking an exception (a fault's halt and the
TRAP entry) and returning from one, free choices, memory bytes and poison. -/

namespace Sys2Proof.Machine

/-- Why an instruction does not complete: it faults with a code and detail word (R5, R50); it is not ready, charged to a
cause, after a change to the state it began in (requests it has sent); or its task leaves, parked or ended, by a change
to that state. -/
inductive Stop where
  | trap (code : Code) (detail : Word)
  | wait (c : Cause) (f : State → State)
  | gone (f : State → State)

/-- What an instruction computes. -/
abbrev M := Except Stop

def fault {A : Type} (c : Code) : M A := .error (.trap c 0)

def faultAt {A : Type} (c : Code) (d : Nat) : M A := .error (.trap c (w64 d))

/-- Fault with `c` unless the condition holds. -/
def need (b : Bool) (c : Code) (d : Word := 0) : M Unit := if b then .ok () else .error (.trap c d)

/-- Not ready, the state as it was. -/
def hold {A : Type} (c : Cause) : M A := .error (.wait c id)

/-! ## Places -/

def dieOfCore (k : Nat) : Nat := k / 896

def clOfCore (k : Nat) : Nat := k / 8

def dieOfCl (c : Nat) : Nat := c / 112

/-- Die, logical cluster and core as bits [13:0] of THID [43:31]: die 3, cluster 7, core 3 bits (R363). -/
def corePlace (k : Nat) : Nat := k / 896 * 2^10 + k / 8 % 112 * 2^3 + k % 8

/-- A core nothing has touched (R313: every entry EN, P 64): its empty table's entries have been counted up to the cycle under way
(R318), the first with it. -/
def coreAtRest (s : State) (k : Nat) : Core :=
  { phys := k % 8, scinval := w64 (max 1 s.cycle), lastCycle := s.cycle - 1, beatAt := s.cycle }

def State.core (s : State) (k : Nat) : Core := (mfind s.cores k).getD (coreAtRest s k)

def State.setCore (s : State) (k : Nat) (c : Core) : State := { s with cores := mset s.cores k c }

def State.modCore (s : State) (k : Nat) (f : Core → Core) : State := s.setCore k (f (s.core k))

def State.cluster (s : State) (k : Nat) : Cluster := (mfind s.clusters k).getD { phys := k % 112, beatAt := s.cycle }

def State.setCluster (s : State) (k : Nat) (c : Cluster) : State := { s with clusters := mset s.clusters k c }

def State.modCluster (s : State) (k : Nat) (f : Cluster → Cluster) : State := s.setCluster k (f (s.cluster k))

def State.task (s : State) (t : Nat) : Task := (mfind s.tasks t).getD {}

def State.setTask (s : State) (t : Nat) (x : Task) : State := { s with tasks := mset s.tasks t x }

def State.modTask (s : State) (t : Nat) (f : Task → Task) : State := s.setTask t (f (s.task t))

def State.die (s : State) (d : Nat) : Die := (mfind s.dies d).getD {}

def State.modDie (s : State) (d : Nat) (f : Die → Die) : State := { s with dies := mset s.dies d (f (s.die d)) }

def State.ctx (s : State) (c : Nat) : Ctx := (mfind s.ctxs c).getD { asid := 0 }

def State.modCtx (s : State) (c : Nat) (f : Ctx → Ctx) : State :=
  match mfind s.ctxs c with
  | some x => { s with ctxs := mset s.ctxs c (f x) }
  | none => s

def State.modLaunch (s : State) (l : Nat) (f : Launch → Launch) : State :=
  match mfind s.launches l with
  | some x => { s with launches := mset s.launches l (f x) }
  | none => s

def State.modQueue (s : State) (q : Nat) (f : Queue → Queue) : State :=
  match mfind s.queues q with
  | some x => { s with queues := mset s.queues q (f x) }
  | none => s

def State.modCoh (s : State) (f : Coherence → Coherence) : State := { s with coh := f s.coh }

def State.modNet (s : State) (f : Net → Net) : State := { s with net := f s.net }

def State.modHub (s : State) (f : Hub → Hub) : State := { s with hub := f s.hub }

def State.modMgmt (s : State) (f : Mgmt → Mgmt) : State := { s with mgmt := f s.mgmt }

/-- A name no task, job or transfer has had (the model's own, log 9). -/
def State.fresh (s : State) : Nat × State := (s.nextId, { s with nextId := s.nextId + 1 })

/-- A free natural and the state that has used it (log 14). -/
def State.free (s : State) : Nat × State := (Config.free s.freeIdx, { s with freeIdx := s.freeIdx + 1 })

/-- Armature time of a die: ticks since the package reset, three cycles to four ticks (R4), with the die's offset (R338). -/
def State.time (s : State) (die : Nat) : Word := BitVec.ofInt 64 ((s.cycle * 4 / 3 : Nat) + (s.die die).offset)

/-- A die's armature time in the cycle before this one. -/
def State.timeBefore (s : State) (die : Nat) : Word :=
  let d := s.die die
  BitVec.ofInt 64 (((s.cycle - 1) * 4 / 3 : Nat) + (d.offset - if d.slewed.1 = s.cycle then d.slewed.2 else 0))

/-- The hub's armature time (R338). -/
def State.hubTime (s : State) : Word := w64 (s.cycle * 4 / 3)

/-- Core cycles in a time given in nanoseconds (R4). -/
def nsCycles (n : Nat) : Nat := n * 3

/-! ## Registers of a thread -/

/-- The highest general register a task may name (R42; handlers R331). -/
def Task.limit (t : Task) : Nat := if t.handler then 63 else classRegs t.cls - 1

def Task.modR (t : Task) (f : Regs → Regs) : Task := { t with r := f t.r }

def State.modR (s : State) (tid : Nat) (f : Regs → Regs) : State := s.modTask tid (·.modR f)

def Regs.get (r : Regs) (n : Nat) : Word := mget 0 r.g n

def Regs.put (r : Regs) (n : Nat) (v : Word) : Regs := { r with g := mput 0 r.g n v }

/-- G[n] of a thread. -/
def State.g (s : State) (tid n : Nat) : Word := (s.task tid).r.get n

def State.setG (s : State) (tid n : Nat) (v : Word) : State := s.modR tid (·.put n v)

/-- The program counter moves past an instruction of `len` bytes (R27). -/
def State.advance (s : State) (tid len : Nat) : State := s.modR tid fun r => { r with pc := r.pc + BitVec.ofNat 52 len }

/-- A value the executing thread writes or stores, for a pair's fingerprint (R402). -/
def State.wrote (s : State) (v : Word) : State :=
  { s with turn := s.turn.map fun t => { t with wrote := t.wrote ++ [v] } }

/-! ## Taking an exception and returning from one -/

/-- The fault message of four words (R50). -/
def faultMsg (s : State) (tid : Nat) (h : Halt) : FaultMsg :=
  let t := s.task tid
  { tid := tid
    w0 := w64 (h.code.toNat * 2^56 + h.len * 2^52 + (s.ctx t.ctx).asid * 2^32 + corePlace t.core * 2^11 + t.slot.getD 0)
    w1 := w64 t.r.pc.toNat
    w2 := w64 h.insn
    w3 := h.detail }

/-- An access of a peer's memory that was answered with nothing is over once its thread has faulted with DEAD (R420). -/
def deadTaken (s : State) (tid : Nat) : State :=
  let l := s.peers.accs.filter fun e => !(e.2.who == (0, tid) && e.2.answer == some (true, []))
  { s with peers := { s.peers with accs := l } }

/-- A fault: the thread halts alone with its state as it was, and its cluster's CSC is sent the message (R5, R49, R50). -/
def haltTask (s : State) (tid : Nat) (h : Halt) : State :=
  let m := faultMsg s tid h
  ((deadTaken s tid).modTask tid fun t => { t with halt := some h, part := [] }).modCluster (clOfCore (s.task tid).core) fun c =>
    { c with faults := c.faults ++ [m] }

/-- TRAP taken by a firmware context with TVEC ≠ 0: EPC := PC + LEN, ECODE := code, PC := TVEC (R385). -/
def trapEntry (s : State) (tid len : Nat) (code : BitVec 7) : State :=
  s.modR tid fun r =>
    { r with epc := w64 (r.pc + BitVec.ofNat 52 len).toNat, ecode := code, pc := BitVec.ofNat 52 r.tvec.toNat }

/-- ERET: PC := EPC (R385). -/
def trapReturn (s : State) (tid : Nat) : State :=
  s.modR tid fun r => { r with pc := BitVec.ofNat 52 r.epc.toNat }

/-- The turn ends. -/
def State.endTurn (s : State) : State := { s with turn := none }

/-- The thread is found not ready in this cycle, for a cause (R314, R318). -/
def State.noteStall (s : State) (tid : Nat) (c : Cause) : State :=
  s.modTask tid fun t => { t with stall := some (s.cycle, c) }

/-- One more cycle under a cause (R318). -/
def Stalls.add (x : Stalls) : Cause → Stalls
  | .therm => { x with therm := x.therm + 1 }
  | .empty => { x with empty := x.empty + 1 }
  | .tlb => { x with tlb := x.tlb + 1 }
  | .pers => { x with pers := x.pers + 1 }
  | .token => { x with token := x.token + 1 }
  | .port => { x with port := x.port + 1 }
  | .opnd => { x with opnd := x.opnd + 1 }

/-! ## Memory bytes -/

/-- What an unlisted byte of device physical memory reads as: zero in regions 0x0, 0x1 (R428) and 0x8 (R201), and the
outside world's byte in regions 0x2 and 0x3 (log 7). -/
def memDefault (a : Nat) : Byte := if region a = 2 ∨ region a = 3 then Config.outsideByte a else 0

def memByte (m : List Host.Cell) (a : Nat) : Byte := mget (memDefault a) m a

def memPut (m : List Host.Cell) (a : Nat) (b : Byte) : List Host.Cell := mput (memDefault a) m a b

/-- Bytes at ascending addresses. -/
def memPutAll (m : List Host.Cell) (a : Nat) : List Byte → List Host.Cell
  | [] => m
  | b :: r => memPutAll (memPut m a b) (a + 1) r

def memBytes (m : List Host.Cell) (a : Nat) : Nat → List Byte
  | 0 => []
  | n + 1 => memByte m a :: memBytes m (a + 1) n

/-- The canonical form of memory: addresses strictly rising, no entry equal to what an unlisted address reads as. -/
def memWf (m : List Host.Cell) : Bool := mcanon memDefault m

/-- The 64-bit words that `n` bytes from `a` lie in. -/
def wordsOf (a n : Nat) : List Nat := (List.range ((a % 8 + n + 7) / 8)).map (a / 8 + ·)

/-- The 64-bit words that `n` bytes from `a` fill. -/
def wholeWords (a n : Nat) : List Nat := (wordsOf a n).filter fun w => a ≤ 8 * w && 8 * w + 8 ≤ a + n

def poisonGet (p : FMap Bool) (w : Nat) : Bool := mget false p w

/-- The poison bits after `n` bytes are written at `a`: clear in each word written whole (R243). -/
def poisonClear (p : FMap Bool) (a n : Nat) : FMap Bool := (wholeWords a n).foldl (fun p w => merase p w) p

def poisonSet (p : FMap Bool) (ws : List Nat) : FMap Bool := ws.foldl (fun p w => mset p w true) p

/-- The words of some bytes at `a` that a poisoned one falls in. -/
def badWords (a : Nat) (bad : List Bool) : List Nat :=
  ((bad.zipIdx.filter fun e => e.1).map fun e => (a + e.2) / 8).eraseDups

/-- The lowest poisoned word of a range, as its address (R243). -/
def poisonIn (p : FMap Bool) (a n : Nat) : Option Nat := ((wordsOf a n).find? (poisonGet p)).map (8 * ·)

def DieStore.at (x : DieStore) (a : Nat) : Option Byte := if x.dpa ≤ a then x.bytes[a - x.dpa]? else none

def dieByte (l : List DieStore) (a : Nat) : Option Byte := l.foldl (fun r x => match x.at a with | some b => some b | none => r) none

/-- The stores of a die's order that are die-visible, and those that a thread sees as its own (R214, R220). -/
def State.orderFor (s : State) (die : Nat) (tid : Option Nat) : List DieStore :=
  (s.die die).order.filter fun x => !x.hidden || (tid.isSome && x.tid == tid)

/-- The bytes that the threads, engines and CSCs of a die see (R215). -/
def visBytes (s : State) (die a n : Nat) : List Byte :=
  (List.range n).map fun i => (dieByte (s.orderFor die none) (a + i)).getD (memByte s.mem (a + i))

/-- The capacity of a pool of ranges (R415). -/
def poolSize (l : List (Nat × Nat)) : Nat := (l.map (·.2)).sum

/-- The leaves that the CSC firmware's walk of a context's tables finds: those it has written, then the tables at PTROOT, a
word that counts pairs of tag and entry words (that firmware owns the layout; log 8), as its die sees them (R215). -/
def State.leaves (s : State) (die ctx : Nat) : List Tlb :=
  let word (a : Nat) : Word := w64 (leVal (visBytes s die a 8))
  let root := (s.ctx ctx).ptroot
  (s.ctx ctx).pages ++
    (if root = 0 then [] else (List.range ((word root).toNat % 2^16)).map fun i =>
      { tag := word (root + 8 + 16 * i), word := word (root + 16 + 16 * i) })

/-- A reflected CRC of 32 bits over some bytes, from all ones and inverted at the end. -/
def crcReflected (poly : BitVec 32) (bs : List Byte) : BitVec 32 :=
  let step (c : BitVec 32) : BitVec 32 := if c.getLsbD 0 then (c >>> 1) ^^^ poly else c >>> 1
  ~~~(bs.foldl (fun c b => (List.range 8).foldl (fun c _ => step c) (c ^^^ b.setWidth 32)) 0xFFFFFFFF)

/-- An interrupt of a vector: pending while the MSI-X table masks it (R414). -/
def raiseVector (s : State) (v : Nat) : State :=
  s.modHub fun h =>
    if mget false h.masked v then { h with pending := if h.pending.contains v then h.pending else h.pending ++ [v] }
    else { h with interrupts := h.interrupts ++ [v] }

/-- A vector is masked, or unmasked: what was pending is raised. -/
def maskVector (s : State) (v : Nat) (mask : Bool) : State :=
  let s := s.modHub fun h => { h with masked := mput false h.masked v mask }
  if !mask && s.hub.pending.contains v then raiseVector (s.modHub fun h => { h with pending := h.pending.filter (· ≠ v) }) v else s

/-- Bytes become memory's current value (R214: performed globally). -/
def State.memWrite (s : State) (a : Nat) (bs : List Byte) : State :=
  { s with mem := memPutAll s.mem a bs, poison := poisonClear s.poison a bs.length }

end Sys2Proof.Machine
end

