-- ==== Sys2Proof/Machine/Tokens.lean ====
section
/-! DEFINITION. Lines, homes and tokens (spec/08 R175-R206): who holds what, what an agent gives, requests, and the
stores of a die's order that may perform. Data has one current value (log 6); tokens carry permission. -/

namespace Sys2Proof.Machine

/-- The 128-byte line of a device physical address. -/
def lineOf (a : Nat) : Nat := a / 128

/-- H(a) (R176). -/
def homeHash (a : Nat) : Nat := (List.range 15).foldl (fun x i => x ^^^ (a / 2^(7 + 3 * i) % 8)) 0

/-- The name of an unbacked page (R175). -/
def ubName (a : Nat) : Nat := a / 2^16 % 2^32

/-- The unbacked page that holds a name: its first name and its record. A page has one of R369's three sizes. -/
def State.ubPage (s : State) (name : Nat) : Option (Nat × Unbacked) :=
  [16, 21, 30].findSome? fun b =>
    let key := name / 2^(b - 16) * 2^(b - 16)
    (mfind s.coh.ub key).bind fun u => if u.size = b then some (key, u) else none

def State.ub (s : State) (name : Nat) : Option Unbacked := (s.ubPage name).map (·.2)

def State.modUb (s : State) (name : Nat) (f : Unbacked → Unbacked) : State :=
  match s.ubPage name with
  | some (k, u) => s.modCoh fun c => { c with ub := mset c.ub k (f u) }
  | none => s

/-- The coherence home of a line: an agent number (R175, R190, R201). -/
def homeAgent (s : State) (line : Nat) : Nat :=
  let a := 128 * line
  match region a with
  | 2 => 24
  | 3 => 25
  | 8 => match s.ub (ubName a) with
    | some u => 16 + u.home % 8
    | none => 16
  | _ => 16 + homeHash a

/-- A line's tokens; an unlisted line rests at its home. -/
def State.line (s : State) (l : Nat) : Line :=
  (mfind s.coh.lines l).getD { held := [(homeAgent s l, { plain := 32, owner := true, data := true })] }

def State.tok (s : State) (l agent : Nat) : Tok := mget {} (s.line l).held agent

def State.setTok (s : State) (l agent : Nat) (t : Tok) : State :=
  let x := s.line l
  s.modCoh fun c => { c with lines := mset c.lines l { x with held := mput {} x.held agent t } }

/-- R191: an agent may read with a plain token and valid data, and write with every token; the owner brings the data. -/
def Tok.mayRead (t : Tok) : Bool := decide (t.plain ≥ 1) && t.data

def Tok.mayWrite (t : Tok) : Bool := t.plain == 32 && t.owner

def Tok.add (t u : Tok) : Tok := { plain := t.plain + u.plain, owner := t.owner || u.owner, data := t.data || u.data }

/-- What is left: data is invalid without a plain token (R191). -/
def Tok.sub (t u : Tok) : Tok :=
  if t.plain ≤ u.plain then { owner := t.owner && !u.owner }
  else { plain := t.plain - u.plain, owner := t.owner && !u.owner, data := t.data }

/-- All of an agent's tokens: data travels with the owner alone (R191, R193). -/
def Tok.all (t : Tok) : Tok := { t with data := t.owner }

/-- What an agent holding `t` gives to a request (R193). An owner that answers a GETXF sends the line's valid data with it, as R191
asks of every owner token (DESIGN CHOICE, log 41: R193's column names no data). -/
def tokAnswer (t : Tok) (k : Req) (persistent : Bool) : Tok :=
  if t.plain == 0 then {} else
  if persistent then t.all else
  match k, t.owner with
  | .gets, true => if t.plain ≥ 2 then { plain := 1, data := true } else t.all
  | .gets, false => {}
  | _, _ => t.all

/-! ## First-level copies and stash lines (R177, R180, R195) -/

/-- Cores of a die, changed. -/
def State.mapCores (s : State) (die : Nat) (f : Core → Core) : State :=
  { s with cores := s.cores.map fun (k, c) => if dieOfCore k = die then (k, f c) else (k, c) }

def Stash.onLine (f : StashLine → StashLine) (l : Nat) (x : Stash) : Stash :=
  { x with lines := x.lines.map fun (i, st) => if mfind x.phys i = some l then (i, f st) else (i, st) }

def Core.onStash (f : Stash → Stash) (c : Core) : Core :=
  { c with parts := c.parts.map fun p => { p with stash := p.stash.map f } }

/-- A die loses its last token of a line: first-level and stash copies go (R195, R180). -/
def dropCopies (s : State) (die l : Nat) : State :=
  s.mapCores die fun c =>
    ({ c with l1 := c.l1.filter fun e => e.2.1 / 2 ≠ l }).onStash (Stash.onLine (fun _ => .empty) l)

/-- A die answers for a line or gives up its owner: dirty copies become clean (R195, R180). -/
def cleanCopies (s : State) (die l : Nat) : State :=
  s.mapCores die fun c =>
    ({ c with l1 := c.l1.map fun (e : Nat × Nat × Bool) => if e.2.1 / 2 = l then (e.1, e.2.1, false) else e }).onStash
      (Stash.onLine (fun x => if x = StashLine.dirty then .clean else x) l)

/-- The die's agent takes back every first-level copy of a line, and the stash copies of cores but one (R214, R180). -/
def takeBack (s : State) (die l : Nat) (but : Option Nat) : State :=
  { s with cores := s.cores.map fun e =>
      if dieOfCore e.1 ≠ die then e
      else
        let c : Core := { e.2 with l1 := e.2.l1.filter fun x => x.2.1 / 2 ≠ l }
        (e.1, if but = some e.1 then c else c.onStash (Stash.onLine (fun _ => .empty) l)) }

/-- The units of a core that are ways of its first-level cache (R177). -/
def Core.ways (c : Core) : List Nat := (List.range 20).filter fun u => !c.parts.any fun p => p.units.contains u

/-- A first-level cache with a 64-byte line in it: where it is, in a free way of its set, or in the place of the line in some
way (R177; the set is the line number's low bits, log 41). -/
def Core.l1Put (c : Core) (i : Nat) (dirty : Bool) (free : Nat) : Core :=
  match c.l1.find? fun e => e.2.1 = i with
  | some e => { c with l1 := mset c.l1 e.1 (i, e.2.2 || dirty) }
  | none =>
    let key (u : Nat) : Nat := 256 * u + i % 256
    match c.ways.find? fun u => (mfind c.l1 (key u)).isNone with
    | some u => { c with l1 := mset c.l1 (key u) (i, dirty) }
    | none => match c.ways[free % max c.ways.length 1]? with
      | some u => { c with l1 := mset c.l1 (key u) (i, dirty) }
      | none => c

/-- A core's store has performed in its die's caches: the line of its stash mapping is dirty, or its own first-level line
(R177, R180; that a store allocates is the model's, log 41). -/
def storeKept (s : State) (k ctx dpa : Nat) : State :=
  let (f, s) := s.free
  let l := lineOf dpa
  let held := (s.core k).parts.any fun p => p.ctx = ctx && p.stash.any fun m => m.phys.any fun e => e.2 == l
  let mark (m : Stash) : Stash :=
    { m with lines := (m.phys.filter fun e => e.2 = l).foldl (fun q e => mset q e.1 StashLine.dirty) m.lines }
  s.modCore k fun c =>
    let c := if held then c else c.l1Put (dpa / 64) true f
    { c with parts := c.parts.map fun p => if p.ctx = ctx then { p with stash := p.stash.map mark } else p }

/-! ## Holdings -/

/-- An agent's holding of a line falls by `t`. -/
def State.takeTok (s : State) (l agent : Nat) (t : Tok) : State :=
  if t = {} then s else
  let left := (s.tok l agent).sub t
  let s := s.setTok l agent left
  if agent < 8 then (if left.plain = 0 then dropCopies s agent l else cleanCopies s agent l) else s

/-- An agent's holding of a line grows by `t`; the owner brings the line's data with it, so home memory is current again
once its home holds it (R194), unless the home has asked for no data (R192, R260). -/
def State.putTok (s : State) (l agent : Nat) (t : Tok) : State :=
  if t = {} then s else
  let s' := s.setTok l agent ((s.tok l agent).add t)
  let dropped := s.coh.outs.any fun o => o.line == l && o.agent == agent && decide (o.kind = .getxf)
  if t.owner && agent == homeAgent s l && !dropped then s'.modCoh fun c => { c with stale := merase c.stale l } else s'

/-! ## Unbacked lines (R201-R207) -/

/-- Lines of a context counted at a home die (R203): live lines of its unbound pages homed there. -/
def liveAt (s : State) (ctx die : Nat) : Nat :=
  (s.coh.ub.map fun (_, u) => if u.ctx = ctx && u.home = die && u.bound = none then u.live.length else 0).sum

/-- Lines of a context's unbound pages resting at a die (R204, R205, R207). -/
def restingAt (s : State) (ctx die : Nat) : Nat :=
  (s.coh.ub.map fun (_, u) => if u.ctx = ctx && u.bound = none then (u.resting.filter fun e => e.2 = die).length else 0).sum

def pinnedAt (s : State) (ctx die : Nat) : Nat :=
  (s.coh.ub.map fun (_, u) => if u.ctx = ctx && u.bound = none then (u.pinned.filter fun e => e.2.2 = die).length else 0).sum

/-- A context's reservation on a die, in lines (R202). -/
def resOf (s : State) (ctx die : Nat) : Nat := mget 0 s.coh.res (16 * ctx + die)

/-- The line's index in its unbacked page. -/
def Unbacked.index (u : Unbacked) (l : Nat) : Nat := l % 2^(u.size - 7)

def ubLive (u : Unbacked) (l : Nat) : Bool := (mfind u.live (u.index l)).isSome

/-- A line neither rests nor is pinned at a die any more. -/
def Unbacked.leaves (u : Unbacked) (die l : Nat) : Unbacked :=
  { u with resting := if mfind u.resting (u.index l) = some die then merase u.resting (u.index l) else u.resting
           pinned := if (mfind u.pinned (u.index l)).any (·.2 = die) then merase u.pinned (u.index l) else u.pinned }

/-- The oldest line of a context pinned at a die: its age, page and index. -/
def oldestPin (s : State) (ctx die : Nat) : Option (Nat × Nat × Nat) :=
  leastBy (·.1) (s.coh.ub.flatMap fun e =>
    if e.2.ctx = ctx && e.2.bound = none then (e.2.pinned.filter fun p => p.2.2 = die).map fun p => (p.2.1, e.1, p.1) else [])

/-- At most `n` of a context's pinned lines at a die move into its reservation, oldest first, while it has room. -/
def unpinSome (ctx die : Nat) : Nat → State → State
  | 0, s => s
  | n + 1, s =>
    match oldestPin s ctx die with
    | none => s
    | some (_, k, i) =>
      if restingAt s ctx die < resOf s ctx die then
        unpinSome ctx die n (s.modUb k fun u => { u with resting := mset u.resting i die, pinned := merase u.pinned i })
      else s

/-- Pinned lines move into a reservation that has room (R202, R204). -/
def unpin (s : State) (ctx die : Nat) : State := unpinSome ctx die (pinnedAt s ctx die) s

/-- A line that is not live yet of an unbound unbacked page: its owner counts against R203. -/
def ubNew (s : State) (l : Nat) : Bool :=
  region (128 * l) == 8 && match s.ub (ubName (128 * l)) with
    | some u => !ubLive u l && u.bound.isNone
    | none => false

/-- Whether the home may give the owner token of an unbacked line (R203); every other line's it may. -/
def ownerFree (s : State) (l : Nat) : Bool :=
  if region (128 * l) = 8 then
    match s.ub (ubName (128 * l)) with
    | some u => ubLive u l || u.bound.isSome || decide (liveAt s u.ctx u.home < resOf s u.ctx u.home + 1024)
    | none => true
  else true

/-- The owner token of an unbacked line leaves the at-rest-as-zero state, or its resting store, where a pinned line may have
room then (R203, R204, R207). -/
def ubOwned (s : State) (l : Nat) : State :=
  match (if region (128 * l) = 8 then s.ub (ubName (128 * l)) else none) with
  | none => s
  | some u =>
    let i := u.index l
    let s := s.modUb (ubName (128 * l)) fun u =>
      { u with live := mset u.live i true, resting := merase u.resting i, pinned := merase u.pinned i }
    match mfind u.resting i with
    | some d => unpin s u.ctx d
    | none => s

/-- Whether an unbacked line rests, or is pinned, with an agent (R204). -/
def restsWith (s : State) (agent l : Nat) : Bool :=
  region (128 * l) == 8 && match s.ub (ubName (128 * l)) with
    | some u => mfind u.resting (u.index l) == some agent || (mfind u.pinned (u.index l)).any fun p => p.2 == agent
    | none => false

/-! ## The second-level cache and the memory-side cache (R181-R183) -/

/-- The slice of a line in a compute die's second-level cache. -/
def l2Slice (l : Nat) : Nat := (l % 2^16 ^^^ (l / 2^16 % 2^16) ^^^ (l / 2^32 % 2^13)) % 192

/-- The set of a line in an agent's cache: of 512 in each 1 MiB slice of 16 ways, of 65,536 in a 128 MiB memory-side cache
(the set's function is open, log 41). -/
def cacheSet (agent l : Nat) : Nat := if agent < 8 then l2Slice l * 512 + Config.cacheSet l % 512 else Config.cacheSet l % 65536

/-- The lines that an agent holds tokens of. -/
def State.linesAt (s : State) (agent : Nat) : List Nat :=
  (s.coh.lines.filter fun e => (mfind e.2.held agent).isSome).map (·.1)

/-- The cache attribute of a line's latest access; unbacked lines are NORMAL (R183). -/
def lineAttr (s : State) (l : Nat) : Nat := if region (128 * l) = 8 then 0 else mget 0 s.coh.attrs l

/-- Whether an agent is still collecting tokens of a line (R193): it has sent a request that is not met. -/
def collecting (s : State) (l agent : Nat) : Bool :=
  s.coh.outs.any fun o => o.line == l && o.agent == agent && !o.queued

/-- The lines that take ways of an agent's cache. One that is still being asked for is in its tracker (R184), an UNCACHED one in
no cache (R183), and one that rests or is pinned in the store that R202 reserves, which its own counts bound (log 41). -/
def wayLines (s : State) (agent : Nat) : List Nat :=
  (s.linesAt agent).filter fun l => !collecting s l agent && lineAttr s l != 3 && !restsWith s agent l

/-- Whether a line needs no way in an agent's cache, or one of its set's 16 is its own or free (R181, R182). The home and bridge
agents have no cache. -/
def hasWay (s : State) (agent l : Nat) : Bool :=
  decide (agent ≥ 16) || lineAttr s l == 3 || restsWith s agent l ||
  decide (((wayLines s agent).filter fun x => x != l && cacheSet agent x == cacheSet agent l).length < 16)

/-! ## Requests -/

/-- Every tracker of a line's slice is in use (R184). -/
def sliceFull (s : State) (agent l : Nat) : Bool :=
  decide (agent < 8) &&
  decide ((s.coh.outs.filter fun o => o.agent == agent && !o.queued && l2Slice o.line == l2Slice l).length ≥ 256)
/-- An agent asks a line's home for tokens, unless it is already asking (R192, R196); with no tracker free the request waits
at its slice (R184). The age is the hub's armature time for every agent (DESIGN CHOICE, log 41). -/
def State.ask (s : State) (k : Req) (l agent : Nat) : State :=
  if s.coh.outs.any fun o => o.line == l && o.agent == agent && (decide (o.kind = k) || decide (o.kind = .getx)) then s
  else
    let q := sliceFull s agent l
    s.modCoh fun c =>
      { c with
        outs := c.outs ++ [{ kind := k, line := l, agent := agent, attempt := 1, sentAt := s.cycle,
                             age := s.hubTime.toNat, queued := q }]
        msgs := if q then c.msgs else c.msgs ++ [.request k l agent 1] }

/-- The request that has waited longest at a slice is sent (R184). -/
def sendQueued (agent slice : Nat) (s : State) : State :=
  match s.coh.outs.find? fun o => o.queued && o.agent == agent && l2Slice o.line == slice with
  | none => s
  | some o =>
    s.modCoh fun c =>
      { c with
        outs := c.outs.map fun x => if x = o then { x with queued := false, sentAt := s.cycle, age := s.hubTime.toNat } else x
        msgs := c.msgs ++ [.request o.kind o.line agent 1] }

/-- The cause a wait on a line is charged to (R318). -/
def tokenCause (s : State) (l agent : Nat) : Cause :=
  if s.coh.outs.any fun o => o.line == l && o.agent == agent && o.persistent then .pers else .token

/-- The lines that a core's miss registers hold: those whose requests are still out (R184). -/
def missesOf (s : State) (k : Nat) : List Nat :=
  (s.core k).misses.filter fun l => s.coh.outs.any fun o => o.line == l && o.agent == dieOfCore k

/-- No miss register of a core is free for a line. -/
def missFull (s : State) (k l : Nat) : Bool := decide ((missesOf s k).length ≥ 128) && !(missesOf s k).contains l

/-- A core's access misses: its die's agent asks, and a miss register holds the line. -/
def missAsk (s : State) (r : Req) (l k : Nat) : State :=
  let s := s.ask r l (dieOfCore k)
  s.modCore k fun c => { c with misses := if (missesOf s k).contains l then missesOf s k else missesOf s k ++ [l] }

/-- A core's access waits for tokens of a line, sending the request, or for a miss register (R184). -/
def waitTok {A : Type} (s : State) (r : Req) (l k : Nat) : M A :=
  if missFull s k l then hold .port else .error (.wait (tokenCause s l (dieOfCore k)) (missAsk · r l k))

/-- A home asks for every token of its own line: no transient attempts, and at most 16 requests (R197, R253); a host's snoop
enters the table at once (R416). -/
def State.askHome (s : State) (k : Req) (l : Nat) (snoop : Bool := false) : State :=
  let agent := homeAgent s l
  let mine := s.coh.outs.filter fun o => o.agent == agent && o.persistent && homeAgent s o.line == agent
  if (s.coh.outs.any fun o => o.line == l && o.agent == agent) || (!snoop && decide (mine.length ≥ 16)) then s
  else
    s.modCoh fun c =>
      { c with
        outs := c.outs ++ [{ kind := k, line := l, agent := agent, attempt := 5, sentAt := s.cycle,
                             age := s.hubTime.toNat, persistent := true }]
        msgs := c.msgs ++ [.persist k l agent s.hubTime.toNat] }

def pushCoh (s : State) (ms : List Coh) : State := s.modCoh fun c => { c with msgs := c.msgs ++ ms }

/-- An ACT in force at an agent for a line, for another requester (R199) whose die the fabric still delivers to (R210). -/
def actFor (s : State) (l agent : Nat) : Option Nat :=
  (s.coh.acts.find? fun e =>
    e.1 == agent && e.2.2.1 == l && e.2.2.2 != agent && !s.coh.lostAgents.contains e.2.2.2).map (·.2.2.2)

/-- Tokens come to an agent: under an ACT in force there they go on to the named requester (R194, R199). -/
def landTok (s : State) (l agent : Nat) (t : Tok) : State :=
  if t = {} then s else
  match actFor s l agent with
  | some r => pushCoh s [.tokens l r t (s.line l).tser none]
  | none => s.putTok l agent t

/-- A snoop or request to the host, unless it is already on its way. -/
def askHost (s : State) (kind line agent : Nat) : State :=
  if s.host.asked.any fun e => e.1 == kind && e.2.1 == line then s
  else { s with host := { s.host with asked := s.host.asked ++ [(kind, line, agent, s.cycle)] } }

/-- A home that holds a line of region 0x2 whole gives it back to the host: DirtyEvict where it owned it, else CleanEvict
(R416). -/
def giveHost (s : State) (l : Nat) : State :=
  if region (128 * l) = 2 && (s.tok l 24).mayWrite && !collecting s l 24 then
    match mfind s.host.got l with
    | none => s
    | some own => askHost { s with host := { s.host with got := merase s.host.got l } } (if own then 7 else 6) l 24
  else s

/-- A line's tokens at an agent go back to its home (R183: an UNCACHED access is done), and on to the host (R416). -/
def returnHome (s : State) (l agent : Nat) : State :=
  let t := s.tok l agent
  giveHost (landTok (s.takeTok l agent t) l (homeAgent s l) t.all) l

/-- A write performs at an agent that holds the line whole: what home memory held of it is kept until the line's data
comes home (R194, R206). -/
def commit (s : State) (agent a : Nat) (bs : List Byte) : State :=
  let l := lineOf a
  let s :=
    if agent == homeAgent s l || (mfind s.coh.stale l).isSome then s
    else
      let old : Stale := { bytes := memBytes s.mem (128 * l) 128
                           bad := (wordsOf (128 * l) 128).filter (poisonGet s.poison) }
      s.modCoh fun c => { c with stale := mset c.stale l old }
  ubOwned (s.memWrite a bs) l

/-- A write that the hub, the CSC's firmware or the command processor makes at a line's home: home memory holds it. -/
def homeWrite (s : State) (a : Nat) (bs : List Byte) : State :=
  let l := lineOf a
  let s := ubOwned (s.memWrite a bs) l
  match mfind s.coh.stale l with
  | none => s
  | some x =>
    let put := (List.range 128).map fun i =>
      if a ≤ 128 * l + i && 128 * l + i < a + bs.length then bs.getD (128 * l + i - a) 0 else x.bytes.getD i 0
    s.modCoh fun c => { c with stale := mset c.stale l { x with bytes := put } }

/-! ## Peer packages (R419-R422) -/

/-- The BIND tag of a context; 0 for a context without one (R419, R422, log 24). -/
def bindTag (s : State) (ctx : Nat) : Nat := ((s.peers.binds.find? fun e => e.2 == ctx).map (·.1)).getD 0

/-- The first address of a chip's entry in the peer table; none where no table has been named (R421). -/
def peerEntry (s : State) (chip : Nat) : Option Nat := s.peers.table.map (· + 32 * chip)

/-- ADDR of a chip's entry (R421). -/
def peerAddr (s : State) (chip : Nat) : List Byte := ((peerEntry s chip).map fun a => memBytes s.mem a 16).getD []

/-- The datagram of a message, which is its kind and 256 times the sending context's BIND tag, in a session (R419; log 24). -/
def dataGram (s : State) (x : Session) (chip seq kind : Nat) (ws : List Word) : Datagram :=
  { ty := 0, bind := kind / 256 % 2^16, schip := s.peers.chip.toNat, dchip := chip, seq := seq, ack := x.acked, session := x.number
    cls := kind % 256, payload := ws, dest := peerAddr s chip }

/-- A data message to a chip: sent in its session with the next sequence number, or waiting for a session (R420). -/
def peerSend (s : State) (chip kind : Nat) (ws : List Word) : State :=
  match mfind s.peers.sessions chip with
  | some x =>
    let d := dataGram s x chip x.nextSeq kind ws
    let x := { x with nextSeq := x.nextSeq + 1, unacked := x.unacked ++ [(x.nextSeq, kind, ws, s.cycle)] }
    { s with peers := { s.peers with sessions := mset s.peers.sessions chip x, sent := s.peers.sent ++ [d] } }
  | none => { s with peers := { s.peers with waiting := s.peers.waiting ++ [(chip, kind, ws)] } }

/-- MEMBER of a chip's entry in the peer table (R421). -/
def peerMember (s : State) (chip : Nat) : Nat := ((peerEntry s chip).map fun a => leVal (memBytes s.mem (a + 16) 2)).getD 0

/-- V of a chip's entry (R421). -/
def peerValid (s : State) (chip : Nat) : Bool := peerMember s chip / 2^15 % 2 == 1

/-- A chip cannot be reached when its entry is not valid or its session has been down for more than 1 s (R421). -/
def peerReach (s : State) (chip : Nat) : Bool :=
  peerValid s chip &&
  ((mfind s.peers.sessions chip).isSome || decide (s.cycle ≤ (mget s.cycle s.peers.downAt chip) + nsCycles 1000000000))

/-- The chip of the load-store domain that can be reached and has a member index, if there is one (R421, R422). -/
def memberChip (s : State) (m : Nat) : Option Nat :=
  (List.range (2^20)).find? fun chip =>
    let e := peerMember s chip
    e / 2^14 == 3 && e % 2^12 == m && peerReach s chip

def putAccs (s : State) (l : FMap PeerAcc) : State := { s with peers := { s.peers with accs := l } }

/-- The number of an access of a peer's memory that has been sent. -/
def peerFind (s : State) (who : Nat × Nat) (kind dpa len : Nat) : Option (Nat × PeerAcc) :=
  s.peers.accs.find? fun e => e.2.who == who && e.2.kind == kind && e.2.dpa == dpa && e.2.len == len

/-- The peer bridge sends a request of a context to the member that a region 0x3 address names, unless it is out: kind 12 a load,
13 a store, 14 an AMO, with its words after the offset, the length and the number (R422, log 24). -/
def peerAsk (s : State) (ctx : Nat) (who : Nat × Nat) (kind dpa len : Nat) (ws : List Word) : State :=
  match peerFind s who kind dpa len, memberChip s (dpa / 2^36 % 2^12) with
  | none, some chip =>
    let (id, s) := s.fresh
    let s := peerSend s chip (kind + 256 * bindTag s ctx) ([w64 (dpa % 2^36), w64 len, w64 id] ++ ws)
    putAccs s (mset s.peers.accs id { who := who, kind := kind, dpa := dpa, len := len })
  | _, _ => s

/-- The words of some bytes. -/
def bytesWords (bs : List Byte) : List Word :=
  (List.range ((bs.length + 7) / 8)).map fun i => w64 (leVal ((bs.drop (8 * i)).take 8))

/-- What a store to a peer carries: a bit for each word that is poisoned, and the bytes (R390, log 24). -/
def storeWords (dpa : Nat) (bs : List Byte) (bad : List Nat) : List Word :=
  w64 (((wordsOf dpa bs.length).zipIdx.map fun e => if bad.contains e.1 then 2^e.2 else 0).sum) :: bytesWords bs

/-- An access of a peer's memory has been answered with nothing: it fails with DEAD (R420). -/
def peerDead (s : State) (who : Nat × Nat) (kind dpa len : Nat) : Bool :=
  match peerFind s who kind dpa len with
  | some (_, { answer := some (true, []), .. }) => true
  | _ => false

/-- The answer to an access of a peer's memory is taken: the bytes there are now these, poisoned or not. -/
def peerTaken (s : State) (who : Nat × Nat) (kind dpa len : Nat) : Option State :=
  match peerFind s who kind dpa len with
  | some (id, { answer := some (bad, ws), .. }) =>
    let s := putAccs s (merase s.peers.accs id)
    some (if kind = 13 then s else
      let s := s.memWrite dpa ((ws.flatMap fun w => toBytes 8 w.toNat).take len)
      { s with poison := (wordsOf dpa len).foldl (fun p w => if bad then mset p w true else merase p w) s.poison })
  | _ => none

/-! ## The die's order (R214) -/

/-- A store to some bytes becomes die-visible: an early load of them that is not confirmed is made again (R216). -/
def noteVisible (s : State) (die dpa n : Nat) : State :=
  let on (e : Early) : Early := if e.dpa < dpa + n && dpa < e.dpa + e.bytes.length then { e with hit := true } else e
  { s with tasks := s.tasks.map fun e =>
      if e.2.early.isEmpty || dieOfCore e.2.core ≠ die then e else (e.1, { e.2 with early := e.2.early.map on }) }

/-- A store performs globally (R214). -/
def performStore (s : State) (die : Nat) (x : DieStore) : State :=
  let l := lineOf x.dpa
  let s := if x.hidden then noteVisible s die x.dpa x.bytes.length else s
  let s := commit s die x.dpa x.bytes
  let s : State := { s with poison := poisonSet s.poison x.bad }
  if x.uncached then returnHome s l die
  else match x.by' with
    | some (k, ctx) => storeKept s k ctx x.dpa
    | none => s

/-- A store that a bridge acknowledges is sent: to the host (kind 5, log 24) or to the peer (R214, R422). -/
def bridgeStore (s : State) (die : Nat) (x : DieStore) : State :=
  if region x.dpa = 2 then askHost s 5 (lineOf x.dpa) die
  else peerAsk s x.ctx (2, die * 2^64 + x.seq) 13 x.dpa x.bytes.length (storeWords x.dpa x.bytes x.bad)

/-- The stores of a die's order, oldest first: those whose line is held whole and that follow no older store to their
line perform, or go to the bridge that acknowledges them; the others stay (R214). -/
def performFrom (die : Nat) : List DieStore → List DieStore → State → State
  | [], kept, s => s.modDie die fun d => { d with order := kept }
  | x :: r, kept, s =>
    let l := lineOf x.dpa
    if kept.any fun y => lineOf y.dpa == l then performFrom die r (kept ++ [x]) (s.ask .getx l die)
    else if !(s.tok l die).mayWrite then performFrom die r (kept ++ [x]) (s.ask .getx l die)
    else if (region x.dpa = 2 || region x.dpa = 3) && x.sent ≠ 2 then
      performFrom die r (kept ++ [{ x with sent := 1 }]) (if x.sent = 1 then s else bridgeStore s die x)
    else performFrom die r kept (performStore s die x)

def performDie (s : State) (die : Nat) : State := performFrom die (s.die die).order [] s

/-- A bridge has acknowledged the store of a die's order with a place in it: it performs (R214). -/
def performSent (s : State) (die seq : Nat) : State :=
  performDie (s.modDie die fun d =>
    { d with order := d.order.map fun x => if x.seq = seq && x.sent = 1 then { x with sent := 2 } else x }) die

/-- A store accepted into a die's order (R214), performed at once where it may. -/
def acceptStore (s : State) (die : Nat) (x : DieStore) : State :=
  let s := takeBack (if x.hidden then s else noteVisible s die x.dpa x.bytes.length) die (lineOf x.dpa) (x.by'.map (·.1))
  performDie (s.modDie die fun d =>
    { d with order := d.order ++ [{ x with seq := d.accepted }], accepted := d.accepted + 1 }) die

/-! ## Requests that are met (R192, R199) -/

/-- The requester's condition of R192 is met. -/
def Out.met (s : State) (o : Out) : Bool :=
  let t := s.tok o.line o.agent
  match o.kind with
  | .gets => t.mayRead
  | k => t.mayWrite && (o.agent != homeAgent s o.line || decide (k = .getxf) || ownerFree s o.line)

/-- Met requests are over once the line has a way in the agent's cache; each persistent one sends DONE (R199), and the die's
stores that may perform do (R214). -/
def settleOuts (s : State) (l agent : Nat) : State :=
  let mine := s.coh.outs.filter fun o => o.line == l && o.agent == agent && o.met s && hasWay s agent l
  if mine.isEmpty then s
  else
    let s := s.modCoh fun c => { c with outs := c.outs.filter fun o => !mine.contains o }
    let s := mine.foldl (fun s _ => sendQueued agent (l2Slice l) s) s
    let s := pushCoh s ((mine.filter (·.persistent)).map fun o => .doneMsg o.kind l agent)
    if agent < 8 then performDie s agent else s

/-! ## The outside (R416, R422) -/

/-- Bytes that a party outside the package may have written since: free values (log 34). -/
def freshFrom (s : State) (a : Nat) : Nat → State
  | 0 => s
  | n + 1 =>
    let (v, s) := s.free
    freshFrom { s with mem := memPut s.mem a (BitVec.ofNat 8 v) } (a + 1) n

def freshLine (s : State) (l : Nat) : State := freshFrom s (128 * l) 128

/-! ## Release conditions (R220) -/

/-- Whether the stores of a die's order before place `m` that a scope counts have performed: .p regions 0x0, 0x1, 0x8,
.s every region. -/
def orderClear (s : State) (die scope m : Nat) : Bool :=
  (s.die die).order.all fun x =>
    x.seq ≥ m || (scope == 4 && (region x.dpa == 2 || region x.dpa == 3))

/-- The release conditions of R220 at a scope for a thread's own operation. -/
def relReady (s : State) (tid scope : Nat) : Bool :=
  let t := s.task tid
  let d := dieOfCore t.core
  scope == 0 ||
    (t.fifo.isEmpty && t.unacked.isEmpty && (scope ≤ 3 || orderClear s d scope (t.mark.getD (s.die d).accepted)))

/-- A thread that waits for a release keeps the place its release has in its die's order (R220). -/
def markRel (s : State) (tid : Nat) : State :=
  let t := s.task tid
  if t.fifo.isEmpty && t.unacked.isEmpty && t.mark.isNone then
    s.modTask tid fun t => { t with mark := some (s.die (dieOfCore t.core)).accepted }
  else s

/-- The store at the head of a FIFO waits for the owner of an unbacked line (R203). -/
def headWithheld (s : State) (tid : Nat) : Bool :=
  match (s.task tid).fifo with
  | { dest := .mem a, .. } :: _ => ubNew s (lineOf a) && !(s.tok (lineOf a) (dieOfCore (s.task tid).core)).mayWrite
  | _ => false

/-- Wait until the release conditions hold (charged as a fence's conditions, R318, or to the owner that a store waits for,
R203). -/
def needRel (s : State) (tid scope : Nat) : M Unit :=
  if relReady s tid scope then .ok () else .error (.wait (if headWithheld s tid then .token else .opnd) fun s => markRel s tid)

/-- Wait until the thread's store FIFO is empty (R203, R223, R249, R257). -/
def needFifo (s : State) (tid : Nat) : M Unit :=
  if (s.task tid).fifo.isEmpty then .ok () else hold (if headWithheld s tid then .token else .opnd)

end Sys2Proof.Machine
end

