-- ==== Sys2Proof/Machine/Addr.lean ====
section
/-! DEFINITION. Addresses: fat pointers, the on-chip window and translation (spec/01 R21-R26, spec/10 R240-R242,
spec/14 R368-R373). -/

namespace Sys2Proof.Machine

/-- The 52-bit address of a pointer. -/
def vaOf (p : Word) : Nat := bits p 51 0

/-- EA (R240): the pointer's address field plus an offset, modulo 2^52. -/
def eaOf (p off : Word) : Nat := (vaOf p + off.toNat) % 2^52

/-- Bits [54:52] are not zero (R23). -/
def ptrBad (p : Word) : Bool := bits p 54 52 != 0

def ptrFmt (p : Word) : Nat := bits p 63 58

def ptrL (p : Word) : Nat := bits p 57 55

def isWin (va : Nat) : Bool := region va == 15

/-! ## The on-chip window -/

/-- The logical core that a window address names, from a cluster (R25, R26). -/
def winCore (cl va : Nat) : Except Code Nat :=
  let c := va / 2^41 % 128
  let j := va / 2^38 % 8
  if c ≥ 112 && c ≠ 127 || va / 2^19 % 2^16 ≠ 0 then .error BAD_POINTER
  else if c = 127 then .ok (cl * 8 + j)
  else .ok ((va / 2^35 % 8 * 112 + c) * 8 + j)

/-- The window address of a core's scratchpad offset (R25). -/
def winVa (k o : Nat) : Nat := 15 * 2^48 + clOfCore k % 112 * 2^41 + k % 8 * 2^38 + dieOfCore k * 2^35 + o

/-- A context's partition on a core (R178). -/
def partOf (c : Core) (ctx : Nat) : Option Part := c.parts.find? (·.ctx == ctx)

def Part.size (p : Part) : Nat := 16384 * p.units.length

/-- The unified array's byte behind a partition's offset (R178). -/
def Part.ua (p : Part) (o : Nat) : Nat := p.units.getD (o / 16384) 0 * 16384 + o % 16384

/-- The stash mapping over an offset (R180). -/
def Part.mapping (p : Part) (o : Nat) : Option Stash := p.stash.find? fun m => m.off ≤ o && o < m.off + m.len

/-- The place of a window access: its core and offset, or R26's fault. -/
def winPlace (s : State) (cl ctx va n : Nat) : Except Code (Nat × Nat) :=
  match winCore cl va with
  | .error c => .error c
  | .ok k =>
    match partOf (s.core k) ctx with
    | none => .error WIN_DENIED
    | some p => let o := va % 2^19; if o + n > p.size then .error SP_RANGE else .ok (k, o)

/-- A byte of a partition's plain scratchpad. -/
def uaByte (s : State) (k ctx o : Nat) : Byte :=
  match partOf (s.core k) ctx with
  | some p => mget 0 (s.core k).ua (p.ua o)
  | none => 0

def uaBytes (s : State) (k ctx o n : Nat) : List Byte := (List.range n).map fun i => uaByte s k ctx (o + i)

/-- Bytes written to a core's unified array through a partition, poison bits of whole words cleared (R243). -/
def uaWriteList (c : Core) (p : Part) (o : Nat) : List Byte → Core
  | [] => c
  | b :: r => uaWriteList { c with ua := mput 0 c.ua (p.ua o) b } p (o + 1) r

def uaWrite (s : State) (k ctx o : Nat) (bs : List Byte) : State :=
  s.modCore k fun c =>
    match partOf c ctx with
    | some p =>
      let c := uaWriteList c p o bs
      { c with uaPoison := (wholeWords o bs.length).foldl (fun q w => merase q (p.ua (8 * w) / 8)) c.uaPoison }
    | none => c

def uaWord (s : State) (k ctx o : Nat) : Word := w64 (leVal (uaBytes s k ctx o 8))

def uaPutWord (s : State) (k ctx o : Nat) (v : Word) : State := uaWrite s k ctx o (toBytes 8 v.toNat)

/-- The lowest poisoned scratchpad word of a range, as an offset. -/
def uaPoisonIn (s : State) (k ctx o n : Nat) : Option Nat :=
  match partOf (s.core k) ctx with
  | some p => ((wordsOf o n).find? fun w => mget false (s.core k).uaPoison (p.ua (8 * w) / 8)).map (8 * ·)
  | none => none

def uaSetPoison (s : State) (k ctx : Nat) (ws : List Nat) : State :=
  s.modCore k fun c =>
    match partOf c ctx with
    | some p => { c with uaPoison := ws.foldl (fun q w => mset q (p.ua (8 * w) / 8) true) c.uaPoison }
    | none => c

/-! ## Translation -/

/-- What an access does to a page. -/
inductive Acc where
  | rd | wr | rw | ex
  deriving DecidableEq, Repr

/-- The outcome of a lookup: a place, a V = 0 policy (R371), a fault code, or a miss. -/
inductive Xl where
  | hit (dpa : Nat) (e : Word)
  | zero
  | poison
  | park
  | bad (c : Code)
  | miss
  deriving DecidableEq, Repr

/-- log2 of an entry's page size (R369). -/
def pageBits (e : Word) : Nat :=
  match bits e 62 61 with
  | 0 => 16
  | 1 => 21
  | _ => 30

def Tlb.asid (t : Tlb) : Nat := bits t.tag 63 48

/-- First virtual address and length of an entry's page. -/
def Tlb.base (t : Tlb) : Nat := bits t.tag 47 12 * 2^16

/-- Whether an entry's page holds an address. -/
def Tlb.holds (t : Tlb) (asid va : Nat) : Bool := t.asid == asid && t.base / 2^pageBits t.word == va / 2^pageBits t.word

/-- Whether an entry's page overlaps [va, va + n). -/
def Tlb.overlaps (t : Tlb) (asid va n : Nat) : Bool :=
  t.asid == asid && decide (t.base < va + n) && decide (va < t.base + 2^pageBits t.word)

/-- What an entry permits (R370, R371). An offset that R175 does not call valid is memory like any other (DESIGN CHOICE, log
41). -/
def xlEntry (e : Word) (va : Nat) (a : Acc) (paired : Bool) : Xl :=
  if bit e 63 then
    let ok := match a with
      | .rd => bit e 60
      | .wr => bit e 59
      | .rw => bit e 60 && bit e 59
      | .ex => bit e 58
    if !ok then .bad PAGE_PERM
    else if bit e 47 && !paired then .bad PAIR_STATE
    else .hit (bits e 35 0 * 2^16 + va % 2^pageBits e) e
  else
    match bits e 55 54, a with
    | 0, _ => .park
    | 1, .rd => .zero
    | 2, .rd => .poison
    | 2, .ex => .bad DATA_POISON
    | _, _ => .bad PAGE_ABSENT

/-- A page whose lines are cached nowhere: attribute UNCACHED, and every page of region 0x3 (R183, R422). -/
def isUncached (e : Word) (dpa : Nat) : Bool := bits e 49 48 == 3 || region dpa == 3

/-- A list of entries with one moved to its front: the most recently used (R373). -/
def tlbFront (l : List Tlb) (t : Tlb) : List Tlb := t :: l.filter (· ≠ t)

/-- A first-level TLB with an entry copied in; a full one loses an entry of any place (R368, R373, log 20). -/
def tlbCopy (l : List Tlb) (t : Tlb) (free : Nat) : List Tlb :=
  if l.length < 64 then t :: l else t :: ldel l (free % 64)

/-- The entry for a core's access, with the state after its lookup (R368). -/
def lookupCore (s : State) (k ctx va : Nat) : Option Word × State :=
  let asid := (s.ctx ctx).asid
  match (s.core k).tlb.find? (·.holds asid va) with
  | some t => (some t.word, s)
  | none =>
    match (s.cluster (clOfCore k)).tlb.find? (·.holds asid va) with
    | none => (none, s)
    | some t =>
      let s := s.modCluster (clOfCore k) fun c => { c with tlb := tlbFront c.tlb t }
      let (f, s) := s.free
      (some t.word, s.modCore k fun c => { c with tlb := tlbCopy c.tlb t f })

/-- The entry for an engine's access through its cluster's TLB (R368). -/
def lookupCluster (s : State) (cl ctx va : Nat) : Option Word × State :=
  match (s.cluster cl).tlb.find? (·.holds (s.ctx ctx).asid va) with
  | none => (none, s)
  | some t => (some t.word, s.modCluster cl fun c => { c with tlb := tlbFront c.tlb t })

/-- A place that answers no access: region 0x2 while the host is lost (R418), and the memory of a member that cannot be
reached (R420, DEDUCED, log 24). -/
def deadPlace (s : State) (dpa : Nat) : Bool :=
  match region dpa with
  | 2 => s.host.lost
  | 3 => (memberChip s (dpa / 2^36 % 2^12)).isNone
  | _ => false

/-- What an access through a leaf leaves: an unbacked page's record exists from the first one on (R201), and the line keeps
the leaf's cache attribute (R183). -/
def noteLeaf (s : State) (ctx : Nat) : Xl → State
  | .hit dpa e =>
    if bit e 57 then
      (if (s.ub (ubName dpa)).isSome then s
       else
        let b := pageBits e
        s.modCoh fun c =>
          { c with ub := mset c.ub (ubName dpa / 2^(b - 16) * 2^(b - 16))
                           { size := b, home := bits e 53 50, ctx := ctx, late := bit e 56, live := [], bound := none } })
    else if mget 0 s.coh.attrs (lineOf dpa) = bits e 49 48 then s
    else s.modCoh fun c => { c with attrs := mput 0 c.attrs (lineOf dpa) (bits e 49 48) }
  | _ => s

/-- Translation for a thread's access (R368-R371). -/
def xlThread (s : State) (tid va : Nat) (a : Acc) : Xl × State :=
  let t := s.task tid
  match lookupCore s t.core t.ctx va with
  | (none, s) => (.miss, s)
  | (some e, s) => let x := xlEntry e va a t.pair.isSome; (x, noteLeaf s t.ctx x)

/-- Translation for an engine's access, whose context may not pair (R368-R371). -/
def xlEngine (s : State) (cl ctx va : Nat) (a : Acc) : Xl × State :=
  match lookupCluster s cl ctx va with
  | (none, s) => (.miss, s)
  | (some e, s) => let x := xlEntry e va a false; (x, noteLeaf s ctx x)

/-- The fault that the executing instruction would take with a code, at an address. -/
def turnHalt (s : State) (c : Code) (va : Nat) : Halt :=
  match s.turn with
  | some t => { code := c, detail := w64 va, len := t.len, insn := t.insn }
  | none => { code := c, detail := w64 va, len := 0, insn := 0 }

def addThread (l : List (Nat × Halt)) (tid : Nat) (h : Halt) : List (Nat × Halt) :=
  if l.any (·.1 == tid) then l else l ++ [(tid, h)]

/-- A miss: the cluster's fill for the page, shared, gains the thread (R368). -/
def askFill (s : State) (cl ctx va : Nat) (who : Option (Nat × Halt)) (x : Option Nat) : State :=
  let asid := (s.ctx ctx).asid
  let vpn := va / 2^16
  s.modCluster cl fun c =>
    let f := (c.fills.find? fun f => f.asid == asid && f.vpn == vpn).getD { asid := asid, vpn := vpn }
    let f := match who with
      | some (t, h) => { f with threads := addThread f.threads t h }
      | none => f
    let f := match x with
      | some x => { f with xfers := if f.xfers.contains x then f.xfers else f.xfers ++ [x] }
      | none => f
    { c with fills := c.fills.filter (fun g => !(g.asid == asid && g.vpn == vpn)) ++ [f] }

end Sys2Proof.Machine
end

