-- ==== Sys2Proof/Machine/Futures.lean ====
section
/-! DEFINITION. Future handles and the future table: allocation, lookup, settling, views and spilling (spec/11
R282-R294). -/

namespace Sys2Proof.Machine

/-! ## Handles (R282, R283) -/

/-- The place bits [39:30] of a handle, descriptor or capability for a cluster: DIE and CLUSTER. -/
def clPlace (cl : Nat) : Nat := cl / 112 * 2^7 + cl % 112

def mkHandle (chip : Nat) (cl idx gen : Nat) : Word :=
  w64 (0x9 * 2^60 + chip * 2^40 + clPlace cl * 2^30 + idx * 2^18 + gen)

def hChip (h : Word) : Nat := bits h 59 40

def hCl (h : Word) : Nat := bits h 39 37 * 112 + bits h 36 30

def hIdx (h : Word) : Nat := bits h 29 18

def hGen (h : Word) : Nat := bits h 17 0

/-- The first check of every instruction that takes a handle (R283). -/
def isHandle (h : Word) : Bool := bits h 63 60 == 9 && decide (bits h 36 30 < 112)

def checkHandle (h : Word) : M Unit := need (isHandle h) FUT_HANDLE

/-- The handle names an entry of this package (R282; its own number is the chip's, R419). -/
def isLocal (s : State) (h : Word) : Bool := hChip h == s.peers.chip.toNat

def futHandle (s : State) (cl : Nat) (f : Fut) : Word := mkHandle s.peers.chip.toNat cl f.idx f.gen

/-! ## The table (R287, R292) -/

/-- The resident entry or spilled record that an index and generation name (R292). -/
def futFind (c : Cluster) (idx gen : Nat) : Option Fut :=
  match mfind c.futs idx with
  | some f => if f.gen = gen then some f else c.spilled.find? fun f => f.idx == idx && f.gen == gen
  | none => c.spilled.find? fun f => f.idx == idx && f.gen == gen

def isSpilled (c : Cluster) (f : Fut) : Bool := c.spilled.any fun g => g.idx == f.idx && g.gen == f.gen

/-- An entry written back where it is, resident or spilled. -/
def futPut (c : Cluster) (f : Fut) : Cluster :=
  if isSpilled c f then
    { c with spilled := c.spilled.map fun g => if g.idx == f.idx && g.gen == f.gen then f else g }
  else { c with futs := mset c.futs f.idx f }

/-- An entry becomes FREE: an index slot may have become free (R291). -/
def futDrop (c : Cluster) (f : Fut) : Cluster :=
  if isSpilled c f then { c with spilled := c.spilled.filter fun g => !(g.idx == f.idx && g.gen == f.gen) }
  else { c with futs := merase c.futs f.idx, freed := true }

/-- What a touch finds at an entry (R285, R299). -/
def viewOf (f : Fut) : View :=
  match f.st with
  | .pending => { out := 4 }
  | .resolved => { out := 0, value := f.value, flags := f.flags }
  | .poisoned => { out := 1, code := f.code }
  | .cancelled => { out := 2 }

def staleView : View := { out := 3 }

def poisonView (c : Code) : View := { out := 1, code := c }

/-- Operation not permitted (R283): the reply that faults with FUT_DENIED. -/
def deniedView : View := { out := 5 }

/-- Waiters to be woken, one in a cycle, from the next (R289). -/
def Cluster.addWakes (c : Cluster) (cycle : Nat) (ws : List Wake) : Cluster :=
  { c with wakes := c.wakes ++ ws, wakeAt := if ws.isEmpty then c.wakeAt else max c.wakeAt (cycle + 1) }

/-- An entry settles: VALUE, CODE and FLAGS are stored, local waiters are to be woken in the order recorded, each recorded
cluster is sent one wake message, and a released entry goes to FREE (R287, R289). -/
def settle (s : State) (cl : Nat) (f : Fut) (st : FState) (v : Word := 0) (code : Code := 0) (flags : BitVec 6 := 0) :
    State :=
  let (n, s) := s.fresh
  let f' := { f with st := st, value := v, code := code, flags := flags, waiters := [], remote := [], order := n }
  let h := futHandle s cl f
  let s := s.modCluster cl fun c =>
    let c := if f.rel then futDrop c f else futPut c f'
    let c : Cluster := match f.launch with
      | some l => { c with settled := mput 0 c.settled l (mget 0 c.settled l + 1) }
      | none => c
    c.addWakes s.cycle (f.waiters.map fun t => { tid := t, h := h, view := viewOf f' })
  s.modNet fun n => { n with wakeMsgs := n.wakeMsgs ++ f.remote.map fun k => { cl := k, h := h, view := viewOf f' } }

/-- Settle the entry a local handle names if it is PENDING; otherwise nothing (R287, R293). -/
def settleH (s : State) (h : Word) (st : FState) (v : Word := 0) (code : Code := 0) (flags : BitVec 6 := 0) : State :=
  match futFind (s.cluster (hCl h)) (hIdx h) (hGen h) with
  | some f => if f.st = .pending then settle s (hCl h) f st v code flags else s
  | none => s

def resolveH (s : State) (h v : Word) (flags : BitVec 6 := 0) : State := settleH s h .resolved v 0 flags

def poisonH (s : State) (h : Word) (c : Code) : State := settleH s h .poisoned 0 c

def cancelH (s : State) (h : Word) : State := settleH s h .cancelled

/-! ## Spilling (R290) -/

/-- Records of a context in its spill area (R290: 64 bytes each), over the package. -/
def spillUsed (s : State) (ctx : Nat) : Nat :=
  (s.clusters.map fun (_, c) => (c.spilled.filter fun f => f.ctx = ctx).length).sum

def spillRoom (s : State) (ctx : Nat) : Bool := decide (64 * (spillUsed s ctx + 1) ≤ poolSize (s.ctx ctx).spill)

def noWaiter (f : Fut) : Bool := f.waiters.isEmpty && f.remote.isEmpty

/-- The entry a context would give up: terminal ones first, oldest transition first, then PENDING ones with no waiter,
oldest creation first (R290). -/
def spillOf (c : Cluster) (ctx : Nat) : Option Fut :=
  let own := (c.futs.map (·.2)).filter fun f => f.ctx == ctx
  match leastBy Fut.order (own.filter fun f => f.st ≠ .pending) with
  | some f => some f
  | none => leastBy Fut.order (own.filter fun f => f.st = .pending && noWaiter f)

/-- The entry a cluster spills next: of the context with the most resident entries that can give one up, equal counts to
the lower index (R290). -/
def spillChoice (s : State) (cl : Nat) : Option Fut :=
  let c := s.cluster cl
  let cands := (List.range 64).filter fun x => spillRoom s x && (spillOf c x).isSome
  match leastBy (fun x => 4096 - (c.futs.filter fun e => e.2.ctx = x).length) cands with
  | some x => spillOf c x
  | none => none

/-- An entry is moved to its context's spill area (R287, R290). -/
def spillFut (s : State) (cl : Nat) (f : Fut) : State :=
  s.modCluster cl fun c => { c with futs := merase c.futs f.idx, spilled := c.spilled ++ [f], freed := true }

/-- A touched record comes back while its index slot is free and fewer than 3,840 entries are resident (R287). -/
def unspill (c : Cluster) (f : Fut) : Cluster :=
  if isSpilled c f && (mfind c.futs f.idx).isNone && decide (c.futs.length < 3840) && (mfind c.lost f.idx).isNone then
    let c := { c with spilled := c.spilled.filter fun g => !(g.idx == f.idx && g.gen == f.gen) }
    { c with futs := mset c.futs f.idx f }
  else c

/-! ## Allocation (R291, R292) -/

def idxFree (c : Cluster) (i : Nat) : Bool := (mfind c.futs i).isNone && (mfind c.lost i).isNone

/-- The first free index from `i` on, cyclically. -/
def freeIdxFrom (c : Cluster) (i : Nat) : Nat → Option Nat
  | 0 => none
  | n + 1 => if idxFree c (i % 4096) then some (i % 4096) else freeIdxFrom c (i + 1) n

/-- NEXTGEN, past every generation that a spilled record of the index holds (R292). -/
def skipGen (c : Cluster) (i g : Nat) : Nat → Nat
  | 0 => g
  | n + 1 => if c.spilled.any fun f => f.idx == i && f.gen == g then skipGen c i ((g + 1) % 2^18) n else g

/-- An allocation's outcome: a handle and entry, a wait for a spill, or failure. -/
inductive Alloc where
  | got (h : Word) (s : State)
  | later
  | full

/-- Allocate a PENDING entry in a cluster at any free index (R282, R291; which one is free, log 14). -/
def allocFut (s : State) (cl ctx : Nat) (launch : Option Nat) (prod : Prod) (op : Bool := false) (rel : Bool := false)
    (left : Nat := 0) : Alloc :=
  let c := s.cluster cl
  let (start, s) := s.free
  match freeIdxFrom c start 4096 with
  | none => if (spillChoice s cl).isSome then .later else .full
  | some i =>
    let g := skipGen c i (mget 0 c.nextGen i) (c.spilled.length + 1)
    let (n, s) := s.fresh
    let f : Fut := { idx := i, gen := g, prod := prod, ctx := ctx, launch := launch, openBit := op, rel := rel,
                     order := n, left := left }
    .got (futHandle s cl f)
      (s.modCluster cl fun c => { c with futs := mset c.futs i f, nextGen := mput 0 c.nextGen i ((g + 1) % 2^18) })

/-- Allocation for an instruction: a wait for a spill is charged as a wait for a future entry (R291, R318); failure is
answered by none. -/
def allocM (a : Alloc) : M (Option (Word × State)) :=
  match a with
  | .got h s => .ok (some (h, s))
  | .later => hold .opnd
  | .full => .ok none

/-! ## Page futures (R372) -/

/-- The future of a context's page in a cluster: the one listed while it is PENDING, else a new one, if it can be had. -/
def pageFuture (s : State) (cl ctx vpn : Nat) (launch : Option Nat) : Option Word × State :=
  let c := s.cluster cl
  let fresh : Option Word × State := match allocFut s cl ctx launch .page with
    | .got w s => (some w, s)
    | _ => (none, s)
  match (c.pageFuts.find? fun p => p.ctx == ctx && p.vpn == vpn).bind (·.h) with
  | none => fresh
  | some w => if (futFind c (hIdx w) (hGen w)).any fun f => f.st = .pending then (some w, s) else fresh

/-- A page's record with its future, and what waits on it added. -/
def notePage (s : State) (cl ctx vpn : Nat) (w : Option Word) (add : PageFut → PageFut) : State :=
  s.modCluster cl fun c =>
    let p := (c.pageFuts.find? fun p => p.ctx == ctx && p.vpn == vpn).getD { ctx := ctx, vpn := vpn, h := w }
    { c with pageFuts := c.pageFuts.filter (fun q => !(q.ctx == ctx && q.vpn == vpn)) ++ [add { p with h := w }] }

/-- The series of attempts that WAITLIM counts from begins while no entry can be had (R364). -/
def State.noteSeries (s : State) (tid : Nat) (w : Option Word) : State :=
  s.modTask tid fun t => { t with series := if w.isNone && t.series.isNone then some s.cycle else t.series }

/-! ## Permission (R283) -/

/-- Whether a context may touch, resolve or poison an entry, and whether it may cancel or release it. -/
def mayUse (f : Fut) (ctx : Nat) : Bool := f.ctx == ctx || f.openBit

def mayOwn (f : Fut) (ctx : Nat) : Bool := f.ctx == ctx

end Sys2Proof.Machine
end

