-- ==== Sys2Proof/Machine/Tasks.lean ====
section
/-! DEFINITION. Deques, slots, register runs and frames, and how a task parks, wakes and ends (spec/01 R9-R17, spec/11
R277-R281, R289, R297, R308, spec/15 R392). -/

namespace Sys2Proof.Machine

/-! ## Deques (R14, R17) -/

/-- Every entry of a core's deque from the bottom, overflow segments last. -/
def Core.entries (c : Core) : List Entry := c.deque ++ c.overflow.flatMap (·.es)

/-- Entries changed or removed throughout a deque; empty segments go. -/
def Core.filterEntries (c : Core) (f : Entry → Option Entry) : Core :=
  { c with
    deque := c.deque.filterMap f
    overflow := (c.overflow.map fun g => { g with es := g.es.filterMap f }).filter fun g => !g.es.isEmpty }

def Entry.isTask (tid : Nat) : Entry → Bool
  | .task t => t == tid
  | .range _ => false

/-- What an entry is known by: its task, or past every task's number its range's future. -/
def Entry.key : Entry → Nat
  | .task t => t
  | .range r => 2^64 + r.fut.toNat

/-- The waiting large task of a core: one that is still in its deque (R317). -/
def Core.waiting (c : Core) : Option Nat := c.large.filter fun x => c.entries.any (·.key == x)

/-- A task's entry leaves its core's deque, or the steal that carries it. -/
def dropEntry (s : State) (tid : Nat) : State :=
  (s.modCore (s.task tid).core fun c => c.filterEntries fun e => if e.isTask tid then none else some e).modNet fun n =>
    { n with steals := n.steals.map fun x => { x with got := x.got.filter fun e => !e.isTask tid } }

/-! ## The frame pool (R17, R278) -/

/-- Bytes of a context's frame pool in use: task frames, claims, overflow segments of 4,096 bytes (log 23). -/
def poolUsed (s : State) (ctx : Nat) : Nat :=
  (s.tasks.map fun (_, t) =>
    if t.ctx = ctx then (if t.frame then 1280 else 0) + (if t.claim.isSome then 17408 else 0) else 0).sum +
  (s.cores.map fun (_, c) => 4096 * (c.overflow.filter (·.ctx == ctx)).length).sum

def poolRoom (s : State) (ctx n : Nat) : Bool := decide (poolUsed s ctx + n ≤ poolSize (s.ctx ctx).fpool)

/-- Room for a push into a core's deque: with all 256 entries in use the 64 oldest go to an overflow segment, charged to the
frame pool of the context whose entry is pushed, whichever contexts' entries move (log 41); none when that pool has no room
for it (R17). -/
def makeRoom (s : State) (k ctx : Nat) : Option State :=
  let c := s.core k
  if c.deque.length < 256 then some s
  else if poolRoom s ctx 4096 then
    some (s.setCore k { c with deque := c.deque.take (c.deque.length - 64)
                               overflow := { ctx := ctx, es := c.deque.drop (c.deque.length - 64) } :: c.overflow })
  else none

/-- A push at the bottom of a core's deque (R17, R277). -/
def pushBottom (s : State) (k ctx : Nat) (e : Entry) : Option State :=
  (makeRoom s k ctx).map fun s => s.modCore k fun c => { c with deque := e :: c.deque }

/-- An entry at the top of a core that holds overflow segments, or has room in its deque. -/
def Core.addTop (c : Core) (e : Entry) : Core :=
  match c.overflow.reverse with
  | [] => { c with deque := c.deque ++ [e] }
  | g :: r => { c with overflow := ({ g with es := g.es ++ [e] } :: r).reverse }

/-- A push at the top of a core's deque (R17, R307). -/
def pushTop (s : State) (k ctx : Nat) (e : Entry) : Option State :=
  (if (s.core k).overflow.isEmpty then makeRoom s k ctx else some s).map fun s => s.modCore k (·.addTop e)

/-! ## Slots and register runs (R9, R10) -/

/-- First entry and end of the partition a slot draws from. -/
def partition (slot : Nat) : Nat × Nat :=
  if slot < 56 then (0, 1536) else if slot < 60 then (1792, 2048) else (1536 + 64 * (slot - 60), 1600 + 64 * (slot - 60))

/-- The runs in use on a core: first entry and length. -/
def runsOf (s : State) (k : Nat) : List (Nat × Nat) :=
  ((s.core k).slots.map fun (_, t) => ((s.task t).rfbase, classRegs (s.task t).cls)) ++
  (s.core k).leaving.map fun (_, b, n, _) => (b, n)

/-- The places where a free run of n entries may begin in a slot's partition: its start, or the end of a run in use. -/
def freeRuns (s : State) (k slot n : Nat) : List Nat :=
  let (lo, hi) := partition slot
  let runs := runsOf s k
  (lo :: runs.map fun (b, m) => b + m).filter fun b =>
    decide (lo ≤ b) && decide (b + n ≤ hi) && runs.all fun (b', m) => decide (b + n ≤ b') || decide (b' + m ≤ b)

/-- Whether an entry of the table in force names a slot for a context (R313, R314). -/
def slotNamed (c : Core) (ctx slot : Nat) : Bool :=
  c.table.any fun (i, e) => decide (i < c.len) && e.toNat / 2^15 == 1 && e.toNat / 2^6 % 64 == ctx && e.toNat % 64 == slot

/-- A slot that holds no thread and no run being spilled or scrubbed (R311). -/
def slotFree (c : Core) (i : Nat) : Bool := (mfind c.slots i).isNone && (mfind c.leaving i).isNone

/-- The free slots from `lo` to `hi` that a context's entries name. -/
def freeSlots (c : Core) (ctx lo hi : Nat) : List Nat :=
  (List.range 60).filter fun i => decide (lo ≤ i) && decide (i < hi) && (mfind c.slots i).isNone && (mfind c.leaving i).isNone && slotNamed c ctx i

/-- The cycles in which a register run is filled, spilled or scrubbed (R276, R311, R392). -/
def fillCycles (cls : Nat) : Nat := 24 + (classRegs cls + 3) / 4

/-- A slot takes a task with a register run of its class (R9, R10), and issues its first instruction once the run is
filled (R276, R311). -/
def placeTask (s : State) (tid k slot base : Nat) : State :=
  let s := s.modCore k fun c => { c with slots := mset c.slots slot tid, passed := merase c.passed tid,
                                         large := if c.large = some tid then none else c.large }
  s.modTask tid fun t => { t with phase := .running, core := k, slot := some slot, rfbase := base, started := true,
                                  fbuf := [], stall := none, evicting := false, due := [], early := [], part := [],
                                  nextAt := s.cycle + fillCycles (s.task tid).cls }

/-- A claim outside its frame: saved with its registers, holding no group (R120). -/
def Claim.saved (c : Claim) : Claim := { c with frame := none, g := 0 }

/-- A task's slot and run are free; a claim goes to the task's frame (R120). -/
def freeSlot (s : State) (tid : Nat) : State :=
  match (s.task tid).slot with
  | none => s
  | some i =>
    let s := s.modCore (s.task tid).core fun c => { c with slots := merase c.slots i }
    s.modTask tid fun t => { t with slot := none, fbuf := [], claim := t.claim.map Claim.saved, due := [], beats := 0, after := none }

/-- A task's slot and run stay taken until a cycle, while the run is spilled or scrubbed (R311, R392). -/
def holdSlot (s : State) (tid till : Nat) : State :=
  match (s.task tid).slot with
  | none => s
  | some i =>
    if till ≤ s.cycle then s
    else s.modCore (s.task tid).core fun c =>
      { c with leaving := mset c.leaving i ((s.task tid).rfbase, classRegs (s.task tid).cls, till) }

/-- A task leaves its slot for its frame, by an instruction issued in a cycle (R311). -/
def spillSlot (s : State) (tid since : Nat) : State := freeSlot (holdSlot s tid (since + fillCycles (s.task tid).cls)) tid

/-- Slots and runs that are free again. -/
def endLeaving (s : State) (k : Nat) : State :=
  s.modCore k fun c => { c with leaving := c.leaving.filter fun e => decide (s.cycle < e.2.2.2) }

/-- A task whose context is frozen on its core, or one member of a pair so frozen (R381, R406). -/
def isFrozen (s : State) (tid : Nat) : Bool :=
  let t := s.task tid
  (s.core t.core).frozen.contains t.ctx ||
  match t.pair with
  | some p => (s.core (s.task p.other).core).frozen.contains t.ctx
  | none => false

/-! ## Lock bits (R255, R256) -/

/-- A freed bit goes to the oldest queued request for it. -/
def grantLock (c : Core) (bank b : Nat) : Core :=
  let q := mget [] c.lockQ bank
  match q.find? fun r => r.bit == b && !r.granted with
  | none => { c with locks := merase c.locks (16 * bank + b) }
  | some r =>
    { c with
      locks := mset c.locks (16 * bank + b) r.tid
      lockQ := mset c.lockQ bank (q.map fun x => if x = r then { x with granted := true } else x) }

/-- A task's requests leave every queue; bits granted to it and not yet taken are freed. -/
def dropLockReqs (s : State) (tid : Nat) : State :=
  { s with cores := s.cores.map fun (k, c) =>
      let mine := c.lockQ.flatMap fun (bank, q) => (q.filter fun r => r.tid == tid && r.granted).map fun r => (bank, r.bit)
      let c := { c with lockQ := c.lockQ.map fun (bank, q) => (bank, q.filter fun r => r.tid != tid) }
      (k, mine.foldl (fun c (bank, b) => grantLock c bank b) c) }

/-- Every bit a task holds is cleared (R256, R392). -/
def clearLocks (s : State) (tid : Nat) : State :=
  let s := dropLockReqs s tid
  { s with cores := s.cores.map fun (k, c) =>
      (k, ((c.locks.filter fun e => e.2 = tid).map (·.1)).foldl (fun c i => grantLock c (i / 16) (i % 16)) c) }

/-- The lock bits a task holds, those granted and not yet taken left out. -/
def locksHeld (s : State) (tid : Nat) : Nat :=
  (s.cores.map fun (_, c) => (c.locks.filter fun e => e.2 = tid).length).sum -
  (s.cores.map fun (_, c) => (c.lockQ.map fun (_, q) => (q.filter fun r => r.tid == tid && r.granted).length).sum).sum

/-! ## Waiters, parks and wakes (R289, R299) -/

/-- A cluster's table with some change to every entry and record. -/
def Cluster.mapFuts (c : Cluster) (g : Fut → Fut) : Cluster :=
  { c with futs := c.futs.map fun (i, f) => (i, g f), spilled := c.spilled.map g }

/-- A task's waiter records in its cluster go. -/
def Cluster.forget (c : Cluster) (tid : Nat) : Cluster :=
  { c with remoteWaits := c.remoteWaits.filter (·.2 != tid)
           wakes := c.wakes.filter (·.tid != tid)
           pageFuts := c.pageFuts.map fun p => { p with threads := p.threads.filter (·.1 != tid) } }

/-- An entry of another cluster of the package no longer records a cluster that has no waiter of it left, and no reply that
links one on its way (R289, R300). -/
def unrecord (s : State) (cl : Nat) (h : Word) : State :=
  if (s.cluster cl).remoteWaits.any (·.1 == h) || s.net.futReps.any (fun r => r.cl == cl && r.h == h && r.view.out == 4) then s
  else s.modCluster (hCl h) (·.mapFuts fun f =>
    if f.idx = hIdx h && f.gen = hGen h then { f with remote := f.remote.filter (· != cl) } else f)

/-- A task's waiter records are withdrawn everywhere (R289, R300). -/
def withdraw (s : State) (tid : Nat) : State :=
  let cl := clOfCore (s.task tid).core
  let hs := (((s.cluster cl).remoteWaits.filter (·.2 == tid)).map (·.1)).filter (isLocal s)
  let s : State := { s with clusters := s.clusters.map fun (k, c) =>
      let c := c.mapFuts fun f => { f with waiters := f.waiters.filter (· != tid) }
      (k, if k = cl then c.forget tid else c) }
  hs.foldl (unrecord · cl) s

/-- The slots of a task and, while it is paired, of its shadow are left (R406). -/
def freeBoth (s : State) (tid since : Nat) : State :=
  match (s.task tid).pair with
  | some p => if p.leader then spillSlot (spillSlot s tid since) p.other since else spillSlot s tid since
  | none => spillSlot s tid since

/-- A park is complete once its release at .p holds: the slot is free (R225, R299). A parking task whose wake came first
goes on in its slot; a halted one keeps it (R312). -/
def tryPark (s : State) (tid : Nat) : State :=
  let t := s.task tid
  match t.phase, t.park with
  | .running, some p =>
    if t.halt.isSome then s
    else if relReady s tid 4 then (freeBoth s tid p.since).modTask tid fun t => { t with phase := .parked, mark := none }
    else markRel s tid
  | _, _ => s

/-- A task begins to park (R299). -/
def parkTask (s : State) (tid : Nat) (p : Park) : State := tryPark (s.modTask tid fun t => { t with park := some p, early := [], part := [] }) tid

/-- A task that is READY goes to the bottom of its core's deque; none while no room can be had there (R17, R277). -/
def pushReady (s : State) (tid : Nat) : Option State :=
  pushBottom (s.modTask tid fun t => { t with phase := .ready }) (s.task tid).core (s.task tid).ctx (.task tid)

/-- A saved handler is in the lowest free handler slot again, as soon as there is one (DESIGN CHOICE, log 43). -/
def backInHandlerSlot (s : State) (t : Nat) : Option State :=
  let c := s.core (s.task t).core
  ([60, 61, 62, 63].find? fun i => (mfind c.slots i).isNone && (mfind c.leaving i).isNone).map fun i =>
    placeTask (s.modTask t fun x => { x with saved := false }) t (s.task t).core i (1536 + 64 * (i - 60))

/-- Saved tasks of contexts that a core no longer freezes are READY at the bottom of its deque, as there is room (R382). -/
def pushSaved (s : State) (k : Nat) : State :=
  let back := (s.tasks.filter fun e => e.2.saved && e.2.core == k && !(s.core k).frozen.contains e.2.ctx).map (·.1)
  back.foldl (fun s t => ((if (s.task t).handler then backInHandlerSlot s t
    else pushReady (s.modTask t fun x => { x with saved := false }) t)).getD s) s

/-- A parked task becomes READY; one still in its slot goes on there (R277). -/
def makeReady (s : State) (tid : Nat) : Option State :=
  if (s.task tid).phase = .parked then pushReady s tid else some s

/-! ## How a task ends (R297, R308, R392) -/

/-- The ways a task ends, with what its future is given. -/
inductive End where
  | done (v : Word)
  | killed (c : Code)
  | cancelled
  deriving DecidableEq, Repr

/-- A range's future after a change of its counts: it settles once no child is left (R297). -/
def rangePut (s : State) (h : Word) (f : Fut) : State :=
  if f.left = 0 then
    if f.cancelling then settle s (hCl h) f .cancelled
    else settle s (hCl h) f .resolved (w64 (f.killedN % 2^32 * 2^32 + f.doneN % 2^32)) 0 f.flags
  else s.modCluster (hCl h) fun c => futPut c f

/-- The PENDING entry of a range's future, changed. -/
def onRange (s : State) (h : Word) (g : Fut → Fut) : State :=
  match futFind (s.cluster (hCl h)) (hIdx h) (hGen h) with
  | none => s
  | some f => if f.st ≠ .pending then s else rangePut s h (g f)

/-- A range's child has ended (R297). -/
def rangeCount (s : State) (h : Word) (e : End) (flags : BitVec 6) : State :=
  onRange s h fun f => match e with
    | .done _ => { f with left := f.left - 1, doneN := f.doneN + 1, flags := f.flags ||| flags }
    | .killed _ => { f with left := f.left - 1, killedN := f.killedN + 1 }
    | .cancelled => { f with left := f.left - 1 }

/-- The untaken indices of a range are counted as KILLED (R395). -/
def rangeLost (s : State) (r : Range) : State :=
  onRange s r.fut fun f => { f with left := f.left - (r.hi - r.lo), killedN := f.killedN + (r.hi - r.lo) }

/-- The launch's record of its root's end (R360). -/
def rootEndOf (e : End) (flags : BitVec 6) : RootEnd :=
  match e with
  | .done v => { status := 0, value := v, flags := flags }
  | .killed c => { status := 1, code := c }
  | .cancelled => { status := 2 }

def settleEnd (s : State) (tid : Nat) (e : End) : State :=
  let t := s.task tid
  let s := match t.ends with
    | .none => s
    | .range h => rangeCount s h e t.r.fflags
    | .fut h => match e with
      | .done v => resolveH s h v t.r.fflags
      | .killed c => poisonH s h c
      | .cancelled => cancelH s h
  match t.launch with
  | some l => s.modLaunch l fun x => if x.root = some tid && x.rootEnd.isNone then { x with rootEnd := some (rootEndOf e t.r.fflags) } else x
  | none => s

/-- A link whose task has ended is half-closed; the queue it reads is discarded (R335). -/
def closeLink (s : State) (tid : Nat) : State :=
  match (s.task tid).link with
  | none => s
  | some (l, isA) =>
    s.modCore (s.task tid).core fun c =>
      { c with links := c.links.map fun (i, x) =>
          if i = l then
            let readsB := x.dir != isA
            let x := if readsB then { x with qb := [] } else { x with qa := [] }
            (i, if isA then { x with aEnded := true } else { x with bEnded := true })
          else (i, x) }

/-- Finish (R308): claim, extents, frame, partial descriptor, unpopped elements and slot go. -/
def finishTask (s : State) (tid : Nat) (p : Phase) : State :=
  let s := freeSlot (closeLink s tid) tid
  let s := s.modCluster (clOfCore (s.task tid).core) fun c =>
    { c with faults := c.faults.filter (·.tid != tid)
             xfers := c.xfers.filter fun x => x.sink ≠ .prefetch tid }
  s.modTask tid fun t =>
    { t with phase := p, claim := none, extents := [], frame := false, epWords := [], mxDone := [], xfDone := [],
             mpIn := [], mpOut := [], park := none, ask := none, found := [], ending := false, halt := none, pend := none, inv := none,
             saved := false, link := none, pair := none, series := none }

def ended (t : Task) : Bool := t.phase = .done || t.phase = .killed || t.phase = .cancelled

def endPhase : End → Phase
  | .done _ => .done
  | .killed _ => .killed
  | .cancelled => .cancelled

/-- A task ends, wherever it is: its waiters and entry go, its future settles, and what it held is freed. -/
def endTask (s : State) (tid : Nat) (e : End) : State :=
  if ended (s.task tid) then s else
  finishTask (settleEnd (dropEntry (withdraw s tid) tid) tid e) tid (endPhase e)

/-- A killed thread's slot takes no task while its run is scrubbed (R392). -/
def scrubSlot (s : State) (tid : Nat) : State := holdSlot s tid (s.cycle + fillCycles (s.task tid).cls)

/-- A pair ends with its task: the shadow's slot is free (R405, R406). -/
def endShadow (s : State) (tid : Nat) : State :=
  match (s.task tid).pair with
  | some p => if p.leader then finishTask s p.other .done else s
  | none => s

/-- A task ends, with its shadow and its lock bits (R308, R256). -/
def endNow (s : State) (tid : Nat) (e : End) : State := endTask (endShadow (clearLocks s tid) tid) tid e

/-- A cancelled task that is parked or halted ends once its release at .s holds (R304, R308). -/
def tryEnd (s : State) (tid : Nat) : State :=
  if !(s.task tid).ending || ended (s.task tid) then s
  else if relReady s tid 5 then endNow s tid .cancelled else markRel s tid

/-- A task is cancelled where it stands: its waiters are withdrawn, and it ends as its release allows (R304, R308). -/
def cancelHere (s : State) (tid : Nat) : State :=
  tryEnd ((withdraw s tid).modTask tid fun t => { t with ending := true, park := none }) tid

/-- A kill of a task with a code (R392). -/
def killTask (s : State) (tid : Nat) (c : Code) : State :=
  if ended (s.task tid) then s else
  let s := match (s.task tid).pair with
    | some p => if p.leader then scrubSlot s p.other else s
    | none => s
  let s := scrubSlot s tid
  let s := endShadow (clearLocks s tid) tid
  endTask (s.modTask tid fun t => { t with r := { t.r with atset := 0 } }) tid (.killed c)

/-- A task is back at a checkpoint: what its thread had begun since is gone (R404, R406). -/
def Task.toCkpt (t : Task) (r : Regs) : Task :=
  { t with r := r, fbuf := [], due := [], early := [], part := [], mark := none, stall := none, lockRetry := none, waitUntil := none }

/-- The task of a pair goes on unpaired from its last checkpoint: the instruction it waited at is executed again (R406). -/
def unpairAt (s : State) (tid : Nat) : State :=
  match (s.task tid).pair with
  | none => s
  | some p =>
    let s := dropLockReqs (withdraw s tid) tid
    let s := s.modCluster (clOfCore (s.task tid).core) fun c => { c with faults := c.faults.filter (·.tid != tid) }
    s.modTask tid fun t => { t.toCkpt p.ckpt with pair := none, halt := none, pend := none, park := none, ask := none, found := [] }

/-- What a lost leader's thread held on its core goes (R392 step 2). -/
def dropHeld (s : State) (tid : Nat) : State :=
  (closeLink (clearLocks s tid) tid).modTask tid fun t =>
    { t with extents := [], epWords := [], mxDone := [], xfDone := [], mpOut := [], link := none }

/-- The surviving member goes on unpaired from the last checkpoint (R406): the leader where it is, or the task on the
shadow's core. Stores in the leader's FIFO drain (R392). A leader out of its slot goes on from there. -/
def breakPair (s : State) (lost : Nat) : State :=
  match (s.task lost).pair with
  | none => s
  | some p =>
    if p.leader then
      let sh := s.task p.other
      let s := finishTask (freeSlot (scrubSlot (dropHeld (unpairAt s lost) lost) lost) lost) p.other .done
      let s := s.modTask lost fun t => { t with core := sh.core, slot := sh.slot, rfbase := sh.rfbase }
      match sh.slot with
      | some i => s.modCore sh.core fun c => { c with slots := mset c.slots i lost }
      | none => s
    else
      let s := finishTask (scrubSlot s lost) lost .done
      if (s.task p.other).slot.isSome then unpairAt s p.other
      else s.modTask p.other fun t => { t with pair := none, r := (t.pair.map (·.ckpt)).getD t.r }

/-- A kill of one member of a pair in its slot, or of a task that is not paired (R392, R406). -/
def killThread (s : State) (tid : Nat) (c : Code) : State :=
  if (s.task tid).pair.isSome && ((s.task tid).slot.isSome || (s.task tid).shadow) then breakPair s tid else killTask s tid c

end Sys2Proof.Machine
end

