-- ==== Sys2Proof/Machine/FutOps.lean ====
section
/-! DEFINITION. What an operation does at a future's entry (spec/11 R283, R287, R288, R302-R306). -/

namespace Sys2Proof.Machine

/-- A piece of a transfer has been read, or it has ended (R269). -/
def Xfer.touched (x : Xfer) : Bool := x.landed != 0 || !x.line.1.isEmpty || x.status != 0

/-- BOUND, IDX and FGEN of a sync word or barrier record are cleared (R271, R286). -/
def clearBound (s : State) (k ctx off : Nat) : State :=
  uaPutWord s k ctx (off + 8) (uaWord s k ctx (off + 8) &&& 0xFFFF000000000000)

def Entry.notRange (h : Word) (e : Entry) : Option Entry :=
  match e with
  | .range r => if r.fut = h then none else some e
  | .task _ => some e

/-- The untaken part of a range goes (R304). -/
def dropRange (s : State) (h : Word) : State :=
  let s : State := { s with cores := s.cores.map fun e => (e.1, e.2.filterEntries (Entry.notRange h)) }
  s.modNet fun n => { n with steals := n.steals.map fun x => { x with got := x.got.bind (Entry.notRange h) } }

/-- Tasks that are children of a range and have not ended. -/
def childrenOf (s : State) (h : Word) : List Nat :=
  (s.tasks.filter fun e => decide (e.2.ends = .range h) && !ended e.2).map (·.1)

/-- A task in a slot, or one halted, also while a pre-emption has saved it: CANCEL only sets its flag (R52, R304). -/
def onlyFlagged (s : State) (t : Nat) : Bool := decide ((s.task t).phase = .running) || (s.task t).halt.isSome

/-- CANCEL of a task that is in no slot: a parked one ends as R308 says, any other is removed (R304). -/
def removeTask (s : State) (t : Nat) : State :=
  if (s.task t).phase = .parked then cancelHere s t else endTask s t .cancelled

/-- CANCEL of a range (R304): outcome and state. The future is CANCELLED at once when no child is in a slot. -/
def cancelRange (s : State) (cl : Nat) (f : Fut) : Nat × State :=
  let h := futHandle s cl f
  let s := dropRange s h
  let kids := childrenOf s h
  let inSlot := kids.filter (onlyFlagged s)
  let s := s.modCluster cl fun c => futPut c { f with left := kids.length, cancelling := true }
  let s := inSlot.foldl (fun s t => s.modTask t fun x => { x with cancel := true }) s
  let s := (kids.filter fun t => !inSlot.contains t).foldl removeTask s
  if inSlot.isEmpty then (0, cancelH s h) else (4, s)

/-- CANCEL of a PENDING entry by its producer's position (R304): outcome and state. -/
def cancelFut (s : State) (cl : Nat) (f : Fut) : Nat × State :=
  match f.prod with
  | .task t =>
    if onlyFlagged s t then (4, s.modTask t fun x => { x with cancel := true })
    else (0, removeTask s t)
  | .range => cancelRange s cl f
  | .job k j =>
    if (s.cluster k).jobs.any fun x => x.id == j && x.running then (5, s)
    else
      let s := s.modCluster k fun c => { c with jobs := c.jobs.filter (·.id != j) }
      (0, settle (s.modNet fun n => { n with caps := n.caps.filter (·.job.id != j) }) cl f .cancelled)
  | .xfer k x =>
    if (s.cluster k).xfers.any fun y => y.id == x && y.touched then (5, s)
    else (0, settle (s.modCluster k fun c => { c with xfers := c.xfers.filter (·.id != x) }) cl f .cancelled)
  | .sync k off => (0, settle (clearBound s k f.ctx off) cl f .cancelled)
  | .empty => (0, settle s cl f .cancelled)
  | .page => (5, s)
  | .swap => (5, s)

/-- PROD's code (R286); the spec gives a TSWAP's future none (log 14). -/
def prodCode (p : Prod) (free : Nat) : Nat :=
  match p with
  | .task _ => 0
  | .range => 1
  | .job _ _ => 2
  | .xfer _ _ => 3
  | .sync _ _ => 4
  | .page => 5
  | .empty => 6
  | .swap => free % 8

def stCode : FState → Nat
  | .resolved => 0
  | .poisoned => 1
  | .cancelled => 2
  | .pending => 4

/-- FSTAT's word (R306). -/
def fstatWord (c : Cluster) (f : Fut) (free : Nat) : Word :=
  w64 (min (f.waiters.length + f.remote.length) 0xFFFF * 2^24 +
       (if f.st = .poisoned then f.code.toNat else 0) * 2^16 +
       (if f.st = .resolved then f.flags.toNat else 0) * 2^10 +
       (if f.rel && f.st = .pending then 1 else 0) * 2^9 + (if f.openBit then 1 else 0) * 2^8 +
       (if isSpilled c f then 1 else 0) * 2^7 + prodCode f.prod free * 2^4 + stCode f.st)

def deadWord (c : Code) : Word := w64 (c.toNat * 2^16 + 1)

/-- A touch at an entry, recording its waiter when PENDING (R287, R288, R289). -/
def touchAt (s : State) (cl : Nat) (f : Fut) (origin : Nat) (waiter : Option Nat) : View × State :=
  let s := s.modCluster cl fun c => unspill c f
  match waiter, f.st with
  | some t, .pending =>
    (viewOf f, s.modCluster cl fun c => futPut c
      (if origin = cl then { f with waiters := f.waiters ++ [t] }
       else { f with remote := if f.remote.contains origin then f.remote else f.remote ++ [origin] }))
  | _, _ => (viewOf f, s)

/-- An operation performed at its entry: the reply's view and value (R288). -/
def fopAt (s : State) (cl : Nat) (m : FutMsg) : FutMsg × State :=
  let c := s.cluster cl
  let reply (v : View) (r : Word) (s : State) : FutMsg × State := ({ m with view := v, ret := r }, s)
  match mfind c.lost (hIdx m.h) with
  | some code => reply (poisonView code) (match m.op with | .fstat => deadWord code | _ => 1) s
  | none =>
    match futFind c (hIdx m.h) (hGen m.h) with
    | none => reply staleView (match m.op with | .fstat => 3 | _ => 2) s
    | some f =>
      match m.op with
      | .touch => if mayUse f m.ctx then let (v, s) := touchAt s cl f m.cl (some m.tid); reply v 0 s else reply deniedView 0 s
      | .touchp => if mayUse f m.ctx then let (v, s) := touchAt s cl f m.cl none; reply v 0 s else reply deniedView 0 s
      | .fstat =>
        if mayUse f m.ctx then let (n, s) := s.free; reply (viewOf f) (fstatWord c f n) s else reply deniedView 0 s
      | .resolve v =>
        if !mayUse f m.ctx then reply deniedView 0 s
        else if f.st ≠ .pending then reply (viewOf f) 1 s
        else if f.prod ≠ .empty then reply (viewOf f) 3 s
        else reply (viewOf f) 0 (settle s cl f .resolved v)
      | .fpois code =>
        if !mayUse f m.ctx then reply deniedView 0 s
        else if f.st ≠ .pending then reply (viewOf f) 1 s
        else if f.prod ≠ .empty then reply (viewOf f) 3 s
        else reply (viewOf f) 0 (settle s cl f .poisoned 0 code)
      | .cancel =>
        if !mayOwn f m.ctx then reply deniedView 0 s
        else if f.st ≠ .pending then reply (viewOf f) 1 s
        else let (n, s) := cancelFut s cl f; reply (viewOf f) (w64 n) s
      | .frel =>
        if !mayOwn f m.ctx then reply (viewOf f) 0 s
        else if f.st = .pending then reply (viewOf f) 0 (s.modCluster cl fun c => futPut c { f with rel := true })
        else reply (viewOf f) 0 (s.modCluster cl fun c => futDrop c f)

/-- A handle whose chip cannot be reached: DEAD for touches and FSTAT, STALE for the rest (R283). -/
def unreachable (m : FutMsg) : FutMsg :=
  { m with view := poisonView DEAD, ret := match m.op with | .fstat => deadWord DEAD | _ => 2 }

end Sys2Proof.Machine
end

