-- ==== Sys2Proof/Machine/Record.lean ====
section
/-! DEFINITION. The maquette record and replay (spec/15 R408-R413; enforcement's reading, log 22). -/

namespace Sys2Proof.Machine

/-- Word n, 1 to 15, of a launch's packet (spec/13 R357). -/
def Launch.w (l : Launch) (n : Nat) : Word := l.hdr.getD (n - 1) 0

/-- WFMT (R18): NF and the widths of the fields that exist, those of the others zero. -/
def Launch.wfmt (l : Launch) : Word :=
  let nf := bits (l.w 8) 38 36
  w64 (nf * 2^36 + (l.w 8).toNat % 2^(6 * nf))

/-- The place of an address that the CSC of a die's first cluster, or the command processor, reads in a context: by its TLB, else by
its own walk (R364, R368, R443; log 8). -/
def walkPlace (s : State) (die ctx va : Nat) (a : Acc) : Xl :=
  if isWin va then .bad BAD_POINTER else
  let tlb := if die < 8 then (s.cluster (112 * die)).tlb else s.hub.tlb
  match (tlb ++ s.leaves die ctx).find? (·.holds (s.ctx ctx).asid va) with
  | none => .bad PAGE_ABSENT
  | some t => xlEntry t.word va a true

def launchOf (s : State) (l : Nat) : Option Launch := mfind s.launches l

/-- RECORD of a launch: 0 off, 1 record, 2 replay (R357), 0 once recording or enforcement has stopped. -/
def recMode (s : State) (l : Option Nat) : Nat :=
  match l.bind (launchOf s) with
  | some x => if x.recState = 0 then bits (x.w 9) 59 58 else 0
  | none => 0

/-- A word of a launch's record area, as a die sees it. -/
def recRead (s : State) (die : Nat) (x : Launch) (off : Nat) : Word :=
  match walkPlace s die x.ctx (vaOf (x.w 13) + off) .rd with
  | .hit a _ => w64 (leVal (visBytes s die a 8))
  | _ => 0

/-- A CSC, or the command processor as cluster 896, has something to write (R378, R408). -/
def cscPush (s : State) (cl : Nat) (w : CscWork) : State :=
  let (id, s) := s.fresh
  s.modNet fun n => { n with csc := n.csc ++ [{ id := id, cl := cl, work := w }] }

/-- The header's STATE becomes `st`, and recording or enforcement stops (R408, R412). -/
def recStop (s : State) (cl l st : Nat) : State :=
  cscPush (s.modLaunch l fun x => { x with recState := st }) cl (.header l [(0, w64 (2^48 + st * 2^40))])

/-- One entry of four words, with the armature time of its event (R410): the CSC of a cluster of the die writes it. -/
def recordAt (s : State) (l : Option Nat) (die : Nat) (time : Word) (kind ord : Nat) (w2 w3 : Word) : State :=
  match l with
  | none => s
  | some i => if recMode s l ≠ 1 then s else cscPush s (112 * die) (.entry i (kind * 2^56 + ord % 2^40) time w2 w3)

/-- An entry of an event on a die now. -/
def recordEv (s : State) (l : Option Nat) (die kind ord : Nat) (w2 w3 : Word) : State :=
  recordAt s l die (s.time die) kind ord w2 w3

/-- A port or receiving place as R410 writes it: die [63:61], cluster [60:54], core [53:51]. -/
def recCore (k : Nat) : Word := w64 (corePlace k * 2^51)

/-- The entries of a complete record, in order: KIND, ORD, word 2 and word 3. -/
def recEntries (s : State) (die : Nat) (x : Launch) : List (Nat × Nat × Word × Word) :=
  (List.range ((recRead s die x 16).toNat / 32)).map fun i =>
    let w0 := recRead s die x (64 + 32 * i)
    (bits w0 63 56, bits w0 39 0, recRead s die x (80 + 32 * i), recRead s die x (88 + 32 * i))

/-- Whether a record can be read: none of its pages waits for its page future (R368, R372). -/
def recOpen (s : State) (die : Nat) (x : Launch) : Bool :=
  let shut (o : Nat) : Bool := match walkPlace s die x.ctx ((vaOf (x.w 13) + o) % 2^52) .rd with
    | .park => true
    | _ => false
  let used := (recRead s die x 16).toNat
  !shut 0 && !(List.range (used / 2^16 + 2)).any fun i => shut (min (2^16 * i) (used + 63))

/-- The order that an entry belongs to: of a port, an MXE or a core, or of a stolen task, by the word that names it (R410). -/
def turnKey (kind : Nat) (w : Word) : Nat := kind * 2^64 + w.toNat

def turnOf (e : Nat × Nat × Word × Word) : Nat := turnKey e.1 (if e.1 = 7 || e.1 = 8 then e.2.2.2 else e.2.2.1)

/-- The entry of an order that comes next: the record's numbers count from before its launch, so places are taken in their order
(R410, R411; log 22). -/
def nextTurn (s : State) (die l key : Nat) : Option (Nat × Nat × Word × Word) :=
  match launchOf s l with
  | none => none
  | some x => ((recEntries s die x).filter fun e => turnOf e == key)[mget 0 x.turns key]?

/-- An event of an order happens in replay; one that the record lacks is a divergence (R412), of a task's identifier. -/
def takeTurn (s : State) (l : Option Nat) (die kind : Nat) (w ident : Word) (place : Nat) : State :=
  match l with
  | none => s
  | some i =>
    if recMode s l ≠ 2 then s else
    let key := turnKey kind w
    let lacks := (nextTurn s die i key).isNone
    s.modLaunch i fun x =>
      { x with turns := mput 0 x.turns key (mget 0 x.turns key + 1), turnAt := mset x.turnAt key s.cycle
               strayed := if lacks && x.strayed.isNone then some (kind, place, ident, mget 0 x.turns key) else x.strayed }

/-- Whether replay lets an event of an order happen now: the next entry fits it; where none is left, `last` says (R411). -/
def mayTurn (s : State) (l : Option Nat) (die kind : Nat) (w : Word) (last : Bool) (fits : Nat × Nat × Word × Word → Bool) : Bool :=
  match l with
  | none => true
  | some i => recMode s l != 2 || ((launchOf s i).all (recOpen s die) && match nextTurn s die i (turnKey kind w) with
      | some e => fits e
      | none => last)

/-- What a complete record holds at a kind, ordinal and word 2, as a die sees it (R411). -/
def replayAt (s : State) (die : Nat) (l : Option Nat) (kind ord : Nat) (w2 : Word) : Option Word :=
  match l.bind (launchOf s) with
  | none => none
  | some x => ((recEntries s die x).find? fun e => e.1 == kind && e.2.1 == ord && e.2.2.1 == w2).map fun e => e.2.2.2

/-- The first divergence: words 4 to 7 of the header, STATE 3, and the thread killed with REPLAY_DIV (R412). -/
def diverge (s : State) (l kind tid ord : Nat) : State :=
  match launchOf s l with
  | none => s
  | some _ =>
    let t := s.task tid
    let cl := clOfCore t.core
    let ws : List (Nat × Word) :=
      [(32, w64 (kind * 2^56 + corePlace t.core * 2^43)), (40, t.ident), (48, w64 ord), (56, w64 t.r.pc.toNat)]
    killTask (recStop (cscPush s cl (.header l ws)) cl l 3) tid REPLAY_DIV

/-- A task's recorded event happens in replay. -/
def noteReplay (s : State) (tid l : Nat) : State :=
  let key := turnKey 3 (s.task tid).ident
  (s.modTask tid fun t => { t with ordinal := t.ordinal + 1 }).modLaunch l fun x => { x with turnAt := mset x.turnAt key s.cycle }

/-- Whether a launch's record cannot be read now; then what it orders waits. -/
def recShut (s : State) (die l : Nat) : Bool := !(launchOf s l).all (recOpen s die)

/-- A task's recorded event: numbered and recorded, or in replay compared with the record (R409-R412). `wait` says that a
different value is waited out (a future operation, R411) and not a divergence. -/
def noteTask (s : State) (tid kind : Nat) (v : Word) (wait : Bool) : M State :=
  let t := s.task tid
  match t.launch with
  | none => .ok s
  | some l =>
    match recMode s (some l) with
    | 1 => .ok ((recordEv s (some l) (dieOfCore t.core) kind t.ordinal t.ident v).modTask tid fun t =>
        { t with ordinal := t.ordinal + 1 })
    | 2 =>
      if recShut s (dieOfCore t.core) l then hold .opnd else
      match replayAt s (dieOfCore t.core) (some l) kind t.ordinal t.ident with
      | none => .error (.gone fun s => diverge s l kind tid t.ordinal)
      | some w =>
        if w = v then .ok (noteReplay s tid l)
        else if wait then hold .opnd
        else .error (.gone fun s => diverge s l kind tid t.ordinal)
    | _ => .ok s

/-- A value that replay takes from the record: ct and loads of regions 0x2 and 0x3 (R411). -/
def takeTask (s : State) (tid kind : Nat) (v : Word) : M (Word × State) :=
  let t := s.task tid
  match t.launch with
  | none => .ok (v, s)
  | some l =>
    match recMode s (some l) with
    | 1 => .ok (v, (recordEv s (some l) (dieOfCore t.core) kind t.ordinal t.ident v).modTask tid fun t =>
        { t with ordinal := t.ordinal + 1 })
    | 2 =>
      if recShut s (dieOfCore t.core) l then hold .opnd else
      match replayAt s (dieOfCore t.core) (some l) kind t.ordinal t.ident with
      | none => .error (.gone fun s => diverge s l kind tid t.ordinal)
      | some w => .ok (w, noteReplay s tid l)
    | _ => .ok (v, s)

/-- An atomic operation's place on its line: recorded, or in replay waited for (R410, R411). -/
def noteAmo (s : State) (tid va : Nat) : M State :=
  let t := s.task tid
  match t.launch with
  | none => .ok s
  | some l =>
    if recMode s (some l) = 0 then .ok s else
    let line := va / 2^7
    let n := ((launchOf s l).map fun x => mget 0 x.amo line).getD 0
    match noteTask s tid 6 (w64 (line * 2^19 + n % 2^19)) true with
    | .error e => .error e
    | .ok s => .ok (s.modLaunch l fun x => { x with amo := mset x.amo line (n + 1) })

/-! ## Data from the host and peers (R410, R411; one sequence per launch, log 32) -/

def hostUnit (bs : List Byte) (i : Nat) : Word × Word :=
  (w64 (leVal ((bs.drop (16 * i)).take 8)), w64 (leVal ((bs.drop (16 * i + 8)).take 8)))

/-- Units from `n` on of a record's host data. -/
def replayUnits (s : State) (die : Nat) (l : Launch) (n k : Nat) : List Byte :=
  let es := recEntries s die l
  (List.range k).flatMap fun i =>
    match es.find? fun e => e.1 == 9 && e.2.1 == n + i with
    | some e => toBytes 8 e.2.2.1.toNat ++ toBytes 8 e.2.2.2.toNat
    | none => List.replicate 16 0

/-- Data read from the host: recorded, or in replay taken from the record. -/
def hostData (s : State) (launch : Option Nat) (die : Nat) (bs : List Byte) : List Byte × State :=
  match launch with
  | none => (bs, s)
  | some l =>
    match launchOf s l with
    | none => (bs, s)
    | some y =>
      let k := (bs.length + 15) / 16
      match recMode s (some l) with
      | 1 =>
        let put (s : State) (i : Nat) : State :=
          recordEv s (some l) die 9 (y.hostData + i) (hostUnit bs i).1 (hostUnit bs i).2
        (bs, ((List.range k).foldl put s).modLaunch l fun y => { y with hostData := y.hostData + k })
      | 2 =>
        ((replayUnits s die y y.hostData k).take bs.length, s.modLaunch l fun y => { y with hostData := y.hostData + k })
      | _ => (bs, s)

end Sys2Proof.Machine
end

