-- ==== Sys2Proof/Machine/Access.lean ====
section
/-! DEFINITION. How a thread reads and stores memory: places, page waits, forwarding, tokens, poison, the store FIFO and
the atomics' one step (spec/08 R180, R183, R195, spec/09 R214-R223, spec/10 R240-R245, spec/14 R368-R372). -/

namespace Sys2Proof.Machine

/-! ## Places -/

/-- Where an access lands. -/
inductive Place where
  | mem (dpa : Nat) (e : Word)
  | win (k off : Nat)
  | zero
  | poison
  deriving DecidableEq, Repr

/-- The executing thread parks on, or in its slot waits for, the page future of an absent page (R372). -/
def pageWait (s : State) (tid va pb : Nat) (h : Halt) : State :=
  let t := s.task tid
  let cl := clOfCore t.core
  let vpn := va / 2^pb * 2^pb / 2^16
  let (w, s) := pageFuture s cl t.ctx vpn t.launch
  let stays := t.handler || locksHeld s tid ≠ 0 || w.isNone
  let s := notePage s cl t.ctx vpn w fun p => { p with threads := if stays then addThread p.threads tid h else p.threads }
  match stays, w with
  | false, some w =>
    let s := s.modCluster cl fun c => match futFind c (hIdx w) (hGen w) with
      | some f => futPut c { f with waiters := f.waiters ++ [tid] }
      | none => c
    parkTask s tid { what := .page h.detail.toNat, hs := [w], len := h.len, insn := h.insn, since := s.cycle }
  | _, _ => (s.noteSeries tid w).noteStall tid .tlb

/-- log2 of the size of the page that an absent leaf names at an address. -/
def absentBits (s : State) (tid va : Nat) : Nat :=
  match (lookupCore s (s.task tid).core (s.task tid).ctx va).1 with
  | some e => pageBits e
  | none => 16

/-- Translation of the executing thread's access (R368-R372), whose faults are reported against an address `det`. -/
def xlPlaceAt (s : State) (tid va det : Nat) (a : Acc) : M (Place × State) :=
  let t := s.task tid
  match xlThread s tid va a with
  | (.hit dpa e, s) => .ok (.mem dpa e, s)
  | (.zero, s) => .ok (.zero, s)
  | (.poison, s) => .ok (.poison, s)
  | (.bad c, _) => faultAt c det
  | (.miss, s) =>
    let h := turnHalt s PAGE_ABSENT det
    .error (.wait .tlb fun s => askFill s (clOfCore t.core) t.ctx va (some (tid, h)) none)
  | (.park, s) =>
    let h := turnHalt s PAGE_LOST det
    let pb := absentBits s tid va
    .error (.gone fun s => pageWait s tid va pb h)

def xlPlace (s : State) (tid va : Nat) (a : Acc) : M (Place × State) := xlPlaceAt s tid va va a

/-- A stash mapping of the executing core reached by its virtual or its window name: the mapping and its line at an address
(R180). -/
def stashLine (s : State) (tid va : Nat) : Option (Nat × Nat × Nat) :=
  let k := (s.task tid).core
  if isWin va then
    match winCore (clOfCore k) va with
    | .ok j => ((partOf (s.core j) (s.task tid).ctx).bind fun p => p.mapping (va % 2^19)).map fun m => (j, m.off, (va % 2^19 - m.off) / 128)
    | .error _ => none
  else ((partOf (s.core k) (s.task tid).ctx).bind fun p => p.stash.find? fun m => m.va ≤ va && va < m.va + m.len).map fun m =>
    (k, m.off, (va - m.va) / 128)

/-- A load fills an EMPTY line of the executing core's mapping, with a token held; a store's line is known for its drain (R180). -/
def noteStash (s : State) (tid va dpa : Nat) (load : Bool) : State :=
  match stashLine s tid va with
  | none => s
  | some (j, off, i) =>
    let ctx := (s.task tid).ctx
    let fill := load && j == (s.task tid).core && (s.tok (lineOf dpa) (dieOfCore j)).mayRead
    s.modCore j fun c =>
      { c with parts := c.parts.map fun p =>
          if p.ctx = ctx then
            { p with stash := p.stash.map fun m =>
                if m.off = off then
                  { m with phys := mset m.phys i (lineOf dpa)
                           lines := if fill && mget StashLine.empty m.lines i = .empty then mset m.lines i .clean else m.lines }
                else m }
          else p }

/-- A window address that a dead core holds faults with DEAD; one that has stopped answers nothing yet (R394). -/
def coreAnswers (s : State) (k va : Nat) : M Unit :=
  if (s.core k).dead then faultAt DEAD va
  else if (s.core k).stopped || (s.core k).missing || s.net.remaps.any (fun r => r.isCore && r.unit == k || !r.isCore && r.unit == clOfCore k)
  then hold .port else .ok ()

/-- The place of an n-byte access at a virtual address (R240, R242 step 4): the window, a mapping's virtual line, or
translated memory. `door` allows region 0x4 (R354). -/
def placeOf (s : State) (tid va n : Nat) (a : Acc) (door : Bool := false) : M (Place × State) := do
  let t := s.task tid
  let cl := clOfCore t.core
  let (p, s) ←
    if isWin va then
      match winPlace s cl t.ctx va n with
      | .error c =>
        match winCore cl va with
        | .ok k => do coreAnswers s k va; faultAt c va
        | .error _ => faultAt c va
      | .ok (k, o) => do
        coreAnswers s k va
        match (partOf (s.core k) t.ctx).bind (·.mapping o) with
        | some m => xlPlace s tid ((m.va + (o - m.off)) % 2^52) a
        | none => .ok (.win k o, s)
    else xlPlace s tid va a
  match p with
  | .mem dpa _ =>
    if region dpa == 4 && !door then faultAt BAD_POINTER va
    else if deadPlace s dpa then faultAt DEAD va
    else .ok (p, s)
  | _ => .ok (p, s)

/-! ## Loads (R215, R219, R243) -/

/-- The byte a store puts at a destination byte. -/
def Store.at (x : Store) (d : Dest) : Option Byte :=
  match x.dest, d with
  | .mem b, .mem a => if b ≤ a then x.bytes[a - b]? else none
  | .win k b, .win j a => if k = j ∧ b ≤ a then x.bytes[a - b]? else none
  | _, _ => none

/-- The newest byte of a list of stores at a destination byte, oldest first. -/
def newest (l : List Store) (d : Dest) : Option Byte := l.foldl (fun r x => match x.at d with | some b => some b | none => r) none

/-- The stores a thread's own loads may forward from: its FIFO, and a pair's held stores after them (R215, R404). -/
def ownStores (t : Task) : List Store := t.fifo ++ (t.pair.map (·.held)).getD []

/-- Whether `n` bytes from `a` fill a 64-bit word. -/
def fillsWord (w a n : Nat) : Bool := a ≤ 8 * w && 8 * w + 8 ≤ a + n

/-- Whether a word is poisoned once some stores of a die's order have been made: one that fills it leaves it as it brings it, and
another clears no poison (R243, R390). -/
def poisonAfter (s : State) (order : List DieStore) (w : Nat) : Bool :=
  order.foldl (fun b x => if fillsWord w x.dpa x.bytes.length then x.bad.contains w else b || x.bad.contains w) (poisonGet s.poison w)

/-- A whole 64-bit word that a queued store of the thread's own will clear of poison (R243). -/
def wordPending (s : State) (tid w : Nat) : Bool :=
  (ownStores (s.task tid)).any fun x => match x.dest with | .mem a => fillsWord w a x.bytes.length | _ => false

/-- A word that a thread reads as poisoned (R243). -/
def wordPoisoned (s : State) (tid w : Nat) : Bool :=
  !wordPending s tid w && poisonAfter s (s.orderFor (dieOfCore (s.task tid).core) (some tid)) w

/-- A whole scratchpad word of a core that the thread's own queued store fills (R243). -/
def winPending (s : State) (tid k w : Nat) : Bool :=
  (ownStores (s.task tid)).any fun x => match x.dest with
    | .win j a => j == k && fillsWord w a x.bytes.length
    | _ => false

/-- The lowest poisoned word of [dpa, dpa + n) that the thread would read (R243). -/
def poisonedWord (s : State) (tid dpa n : Nat) : Option Nat :=
  ((wordsOf dpa n).find? (wordPoisoned s tid)).map (8 * ·)

/-- A 64-byte line enters the executing core's first-level cache; a dirty copy in another of the die's caches becomes clean
(R177, R195; the line replaced is free, log 20). -/
def l1Fill (s : State) (k dpa : Nat) (e : Word) : State :=
  if isUncached e dpa || ((s.core k).l1.any fun x => x.2.1 == dpa / 64) then s
  else
    let (f, s) := s.free
    (cleanCopies s (dieOfCore k) (lineOf dpa)).modCore k fun c => c.l1Put (dpa / 64) false f

/-! ## Loads that perform early (R216) -/

/-- Whether an early value and some bytes have one in common. -/
def Early.meets (e : Early) (dpa n : Nat) : Bool := decide (e.dpa < dpa + n) && decide (dpa < e.dpa + e.bytes.length)

/-- The value that a plain load of these bytes read early. -/
def earlyAt (t : Task) (dpa n : Nat) : Option (List Byte) :=
  (t.early.find? fun e => e.dpa == dpa && e.bytes.length == n).map (·.bytes)

/-- While a plain load waits, a later one may perform early: which, if any, is free (R216, log 41). It reads what the die sees
of a line it may read, that none of the thread's own stores meets; a pair's loads never do. -/
def performEarly (s : State) (tid : Nat) : State :=
  let (f, s) := s.free
  let t := s.task tid
  let die := dieOfCore t.core
  let n := 2 ^ (f / 2 % 4)
  let dpa := f / 8 % 2^49 * n
  let own := (ownStores t).any fun x => match x.dest with
    | .mem a => decide (a < dpa + n) && decide (dpa < a + x.bytes.length)
    | _ => false
  let fit := region dpa == 0 || region dpa == 1 || region dpa == 8
  if f % 2 = 0 || t.pair.isSome || own || !fit || !(s.tok (lineOf dpa) die).mayRead || (poisonIn s.poison dpa n).isSome then s
  else
    let bs := (List.range n).map fun i => (dieByte (s.orderFor die (some tid)) (dpa + i)).getD (memByte s.mem (dpa + i))
    s.modTask tid fun t => { t with early := t.early ++ [{ dpa := dpa, bytes := bs }] }

/-- A load performs in order: early values of its own location are over, and so are those that a store has made stale. -/
def loadedNow (s : State) (tid dpa n : Nat) : State :=
  if (s.task tid).early.isEmpty then s
  else s.modTask tid fun t => { t with early := t.early.filter fun e => !e.hit && !e.meets dpa n }

/-- Nothing has been read early beyond here: an acquire, a fence, a load from a port, or a store of the thread's own. -/
def dropEarly (s : State) (tid : Nat) : State :=
  if (s.task tid).early.isEmpty then s else s.modTask tid fun t => { t with early := [] }

/-- A pair's open interval closes (R402). -/
def closeInterval (s : State) (tid : Nat) : State :=
  s.modTask tid fun t => { t with pair := t.pair.map fun p => { p with closed := true } }

/-- A load partly covered by the thread's own stores waits until they have left; a pair's interval closes (R215, R404). -/
def waitOwn {A : Type} (tid : Nat) (c : Cause) : M A := .error (.wait c fun s => closeInterval s tid)

/-- A load of translated bytes: its own FIFO, its die's order, then memory with a token (R215, R191). A plain one may have
performed early, or let another do so while it waits (R216). Region 0x3 is read at the peer (R422). -/
def loadMem (s : State) (tid dpa n : Nat) (e : Word) (plain : Bool := false) : M (List Byte × State) :=
  let t := s.task tid
  let die := dieOfCore t.core
  let own := (List.range n).map fun i => newest (ownStores t) (.mem (dpa + i))
  if own.all Option.isSome then .ok (own.filterMap id, s)
  else if own.any Option.isSome then waitOwn tid .opnd
  else match (if plain then earlyAt t dpa n else none) with
  | some bs => .ok (bs, s.modTask tid fun t => { t with early := t.early.filter fun e => !e.meets dpa n })
  | none =>
    let ord := (List.range n).map fun i => dieByte (s.orderFor die (some tid)) (dpa + i)
    if ord.all Option.isSome then .ok (ord.filterMap id, loadedNow s tid dpa n)
    else
      let l := lineOf dpa
      if !(s.tok l die).mayRead then
        match (waitTok s .gets l t.core : M (List Byte × State)) with
        | .error (.wait c f) => .error (.wait c fun s => if plain then performEarly (f s) tid else f s)
        | r => r
      else match (if region dpa = 3 then peerTaken s (0, tid) 12 dpa n else some s) with
      | none => .error (.wait .token fun s => peerAsk s t.ctx (0, tid) 12 dpa n [])
      | some s =>
        let v := (List.range n).map fun i => (ord.getD i none).getD (memByte s.mem (dpa + i))
        .ok (v, loadedNow (if isUncached e dpa then returnHome s l die else l1Fill s t.core dpa e) tid dpa n)

/-- A window load at the target port; one that meets the thread's own queued or unacknowledged stores waits for them or
takes its value from them (R217, R219). -/
def loadWin (s : State) (tid k o n : Nat) : M (List Byte × State) :=
  let t := s.task tid
  let own := (List.range n).map fun i => newest (ownStores t) (.win k (o + i))
  if own.all Option.isSome then .ok (own.filterMap id, s)
  else if own.any Option.isSome || t.unacked.contains (k, o / 128) then waitOwn tid .port
  else .ok (uaBytes s k t.ctx o n, dropEarly s tid)

/-- The bytes at a place, DATA_POISON for a poisoned word (R243). `poisonOk` leaves poison unreported (PCHK). -/
def loadPlace (s : State) (tid : Nat) (p : Place) (va n : Nat) (poisonOk : Bool := false) (plain : Bool := false) :
    M (List Byte × State) :=
  match p with
  | .zero => .ok (List.replicate n 0, s)
  | .poison => if poisonOk then .ok (List.replicate n 0, s) else faultAt DATA_POISON (va / 8 * 8)
  | .mem dpa e =>
    if region dpa = 3 && peerDead s (0, tid) 12 dpa n then faultAt DEAD va
    else match loadMem (noteStash s tid va dpa true) tid dpa n e plain with
    | .error x => .error x
    | .ok (v, s) =>
      match poisonedWord s tid dpa n with
      | some w => if poisonOk then .ok (v, s) else faultAt DATA_POISON ((va + (w - dpa / 8 * 8)) / 8 * 8)
      | none => .ok (v, s)
  | .win k o =>
    match loadWin s tid k o n with
    | .error x => .error x
    | .ok (v, s') =>
      match (wordsOf o n).find? fun w => (uaPoisonIn s k (s.task tid).ctx (8 * w) 1).isSome && !winPending s tid k w with
      | some w => if poisonOk then .ok (v, s') else faultAt DATA_POISON ((va + (8 * w - o / 8 * 8)) / 8 * 8)
      | none => .ok (v, s')

/-- A load of n bytes at a virtual address (R245), its value little-endian; `plain` says that it may perform early (R216). -/
def loadOnce (s : State) (tid va n : Nat) (plain : Bool := false) : M (Nat × State) := do
  let (p, s) ← placeOf s tid va n .rd
  let (bs, s) ← loadPlace s tid p va n (plain := plain)
  match p with
  | .mem dpa _ =>
    if region dpa == 2 || region dpa == 3 then
      let (v, s) ← takeTask s tid 5 (w64 (leVal bs))
      .ok (v.toNat, s)
    else .ok (leVal bs, s)
  | _ => .ok (leVal bs, s)

/-! ## What a pair's members take from outside (R403) -/

/-- A value that the leader has taken is forwarded. -/
def State.took (s : State) (v : Word) : State := { s with turn := s.turn.map fun u => { u with took := u.took ++ [v] } }

/-- The next value that the leader has forwarded to its shadow. -/
def fed (s : State) : Word × State :=
  let v := (s.turn.bind fun u => u.feed.head?).getD 0
  (v, { s with turn := s.turn.map fun u => { u with feed := u.feed.tail } })

/-- A value from outside the thread: a shadow takes its leader's, without an access of its own. -/
def outside (s : State) (tid : Nat) (m : M (Word × State)) : M (Word × State) :=
  match (s.task tid).pair with
  | none => m
  | some p =>
    if p.leader then do
      let (v, s) ← m
      .ok (v, s.took v)
    else .ok (fed s)

/-- A value from outside the thread, as a number (R403). -/
def outsideNat (s : State) (tid : Nat) (m : M (Nat × State)) : M (Nat × State) :=
  match outside s tid (m.map fun x => (w64 x.1, x.2)) with
  | .ok (v, s') => if (s.task tid).pair.isNone then m else .ok (v.toNat, s')
  | .error e => .error e

/-- A load of n bytes, which a pair's shadow takes from its leader (R403). -/
def loadVa (s : State) (tid va n : Nat) (plain : Bool := false) : M (Nat × State) :=
  if (s.task tid).pair.isNone then loadOnce s tid va n plain else outsideNat s tid (loadOnce s tid va n plain)

/-! ## Stores (R214, R245) -/

/-- A value the executing thread stores, for a pair's fingerprint (R402). -/
def State.storedAt (s : State) (va : Nat) (bs : List Byte) : State :=
  { s with turn := s.turn.map fun t => { t with stored := t.stored ++ [(w64 va, w64 (leVal bs))] } }

/-- Values read early that a store of the thread's own meets are over. -/
def dropMet (s : State) (tid : Nat) (x : Store) : State :=
  match x.dest with
  | .mem dpa => if (s.task tid).early.isEmpty then s
    else s.modTask tid fun t => { t with early := t.early.filter fun e => !e.meets dpa x.bytes.length }
  | _ => s

/-- The core and offset of a mapping by whose window name an address names a line (R180). -/
def viaOf (s : State) (tid va : Nat) : Option (Nat × Nat) :=
  if isWin va then (stashLine s tid va).map fun l => (l.1, va % 2^19) else none

/-- A store enters its thread's FIFO, or a pair's held stores (R245, R404). -/
def pushStore (s : State) (tid va : Nat) (x : Store) : M State :=
  let t := s.task tid
  let s' := dropMet (s.storedAt va x.bytes) tid x
  match t.pair with
  | some p => .ok (s'.modTask tid fun t => { t with pair := some { p with held := p.held ++ [x] } })
  | none =>
    if t.fifo.length ≥ 16 then hold (if headWithheld s tid then .token else .port)
    else .ok (s'.modTask tid fun t => { t with fifo := t.fifo ++ [x] })

/-- The store of bytes at a place (a V = 0 page never reaches here: R371 faults or parks). -/
def storePlace (s : State) (tid : Nat) (p : Place) (va : Nat) (bs : List Byte) (rel : Option Nat := none) : M State :=
  match p with
  | .mem dpa e =>
    pushStore (noteStash s tid va dpa false) tid va
      { dest := if region dpa = 4 then .door dpa else .mem dpa, bytes := bs, rel := rel,
        uncached := isUncached e dpa, via := viaOf s tid va }
  | .win k o => pushStore s tid va { dest := .win k o, bytes := bs, rel := rel }
  | _ => faultAt PAGE_ABSENT va

/-- A plain store at a virtual address (R245), which a pair's leader alone makes (R403, R404). -/
def storeVa (s : State) (tid va : Nat) (bs : List Byte) : M State := do
  if (s.task tid).shadow then .ok (s.storedAt va bs) else
  let (p, s) ← placeOf s tid va bs.length .wr
  storePlace s tid p va bs

/-! ## Port operations and atomics (R219, R223, R228, R229) -/

/-- log2 of a size in bytes, for a trace entry. -/
def sizeLog (n : Nat) : Nat := n.log2

/-- Bits [39:0] of a trace entry's word 1 (R229). -/
def traceBits (kind size src off : Nat) : Nat :=
  let sc := if kind = 2 || kind = 3 then corePlace src / 8 * 8 else corePlace src
  kind * 2^37 + sizeLog size * 2^34 + sc * 2^21 + off

/-- The launch in replay whose record orders a core's port. -/
def replayOn (s : State) (k : Nat) : Option Nat :=
  ((s.core k).parts.flatMap (·.launches)).find? fun l => recMode s (some l) == 2

/-- An entry of a port's trace ring (R229), which in replay takes its turn (R411). -/
def traceWrite (s : State) (k kind size src off : Nat) : State :=
  let s := takeTurn s (replayOn s k) (dieOfCore k) 1 (recCore k) 0 k
  let c := s.core k
  let e : TraceEntry := { time := s.time (dieOfCore k), w1 := w64 (c.lcnt * 2^40 + traceBits kind size src off) }
  s.setCore k { c with trace := mset c.trace (c.traceIdx % 4096) e, traceIdx := c.traceIdx + 1, lcnt := 0 }

/-- A write that a port counts and does not trace: by its own core's threads. An engine's source is core 0 of its cluster. -/
def ownWrite (k kind src : Nat) : Bool := src == k && (decide (kind ≤ 1) || kind == 5)

/-- A write by one of the core's own threads is counted; a filler entry keeps LCNT from wrapping (R229);
its SDIE, SCL and SIZE are zero too (DESIGN CHOICE, log 41). -/
def countLocal (s : State) (k : Nat) : State :=
  let s := if (s.core k).lcnt + 1 = 2^24 then takeTurn s (replayOn s k) (dieOfCore k) 1 (recCore k) 0 k else s
  let c := s.core k
  if c.lcnt + 1 = 2^24 then
    s.setCore k { c with trace := mset c.trace (c.traceIdx % 4096) { time := s.time (dieOfCore k), w1 := w64 (c.lcnt * 2^40 + 7 * 2^37) },
                         traceIdx := c.traceIdx + 1, lcnt := 1 }
  else s.setCore k { c with lcnt := c.lcnt + 1 }

/-- A write that performs at a port, traced when it comes from outside the core's own threads (R229). -/
def portWrote (s : State) (k kind size src off : Nat) : State :=
  if ownWrite k kind src then countLocal s k else traceWrite s k kind size src off

/-- The sizes of the port's writes that carry `n` bytes: powers of two, at most 128 (R229). -/
def portSizes : Nat → Nat → List Nat
  | 0, _ => []
  | f + 1, n => if n = 0 then [] else let m := min 128 (2 ^ n.log2); m :: portSizes f (n - m)

/-- An engine's bytes perform at a port as so many writes. -/
def portWroteAll (s : State) (k kind n src off : Nat) : State :=
  ((portSizes n n).foldl (fun (x : State × Nat) m => (portWrote x.1 k kind m src x.2, x.2 + m)) (s, off)).1

/-- Whether replay lets a write perform at a port now: the next recorded entry of the port is this write, or counts it
among the writes of the core's own threads before it (R411). The count before a port's first entry began before the launch and
is not compared (log 22). -/
def portTurn (s : State) (k kind size src off : Nat) : Bool :=
  let c := s.core k
  let l := replayOn s k
  let first := ((l.bind (launchOf s)).map fun x => mget 0 x.turns (turnKey 1 (recCore k))).getD 0 == 0
  mayTurn s l (dieOfCore k) 1 (recCore k) true fun e =>
    let w := e.2.2.2
    if ownWrite k kind src then first || decide (c.lcnt < bits w 63 40) || (bits w 39 37 == 7 && c.lcnt == bits w 63 40)
    else (first || bits w 63 40 == c.lcnt) && bits w 39 0 == traceBits kind size src off

/-- Whether a port refuses a write: in record mode the copy is 3,584 entries behind (R229); in replay it is not its turn. -/
def portRefuses (s : State) (k kind size src off : Nat) : Bool :=
  let c := s.core k
  let recorded := c.parts.any fun p => p.launches.any fun l => recMode s (some l) == 1
  (recorded && !ownWrite k kind src && decide (c.traceIdx - c.traceCopied ≥ 3584)) || !portTurn s k kind size src off

/-- A plain scratchpad place for an operation at the port: a window address, its faults, and no earlier store of the
thread to it on its way (R219). -/
def portPlace (s : State) (tid va n kind : Nat) : M (Nat × Nat) := do
  let t := s.task tid
  let cl := clOfCore t.core
  match winPlace s cl t.ctx va n with
  | .error c =>
    match winCore cl va with
    | .ok k => do coreAnswers s k va; faultAt c va
    | .error _ => faultAt c va
  | .ok (k, o) => do
    coreAnswers s k va
    if portRefuses s k kind n t.core o then hold .port
    else if t.unacked.contains (k, o / 128) ||
        (t.fifo.any fun x => match x.dest with | .win j b => j == k && b / 128 == o / 128 | _ => false)
    then hold .port
    else .ok (k, o)

/-- Wait until a core's die holds every token of a line (R191, R223). -/
def needWrite (s : State) (l k : Nat) : M Unit :=
  if (s.tok l (dieOfCore k)).mayWrite then .ok () else waitTok s .getx l k

/-- Wait until the home has gathered every token of its line (R197, R253); the host bridge owns it at the host too (R416). -/
def needHome (s : State) (l : Nat) : M Unit :=
  let agent := homeAgent s l
  if (s.tok l agent).mayWrite && ownerFree s l then
    if region (128 * l) = 2 && mfind s.host.got l ≠ some true then .error (.wait .token (askHost · 3 l 24)) else .ok ()
  else .error (.wait (tokenCause s l agent) (·.askHome .getx l))

end Sys2Proof.Machine
end

