-- ==== Sys2Proof/Machine/Float.lean ====
section
/-! DEFINITION. Number formats, exact values and rounding, bit by bit (spec/04). An exact value is a sign, a natural
and a power of two. A value that is no binary fraction (a quotient, a root) is carried as one that lies strictly between
the same two neighbours at more than 100 bits below the format's last place, which rounds alike in every mode (R72). -/

namespace Sys2Proof.Machine

/-- Flags in the bit order of FFLAGS (R81). -/
abbrev Flags := BitVec 6

def NX : Flags := 1
def UF : Flags := 2
def OF : Flags := 4
def DZ : Flags := 8
def NV : Flags := 16
def IDZ : Flags := 32

/-- A floating-point element format (R65): widths, bias, the largest finite encoding, whether it has infinities, whether
finite overflow always saturates (R73), its canonical NaN. -/
structure Fmt where
  width : Nat
  eb : Nat
  fb : Nat
  bias : Nat
  maxBits : Nat
  hasInf : Bool
  sat : Bool
  nan : Nat
  deriving DecidableEq, Repr

def FP64 : Fmt := ⟨64, 11, 52, 1023, 0x7FEFFFFFFFFFFFFF, true, false, 0x7FF8000000000000⟩
def FP32 : Fmt := ⟨32, 8, 23, 127, 0x7F7FFFFF, true, false, 0x7FC00000⟩
def FP16 : Fmt := ⟨16, 5, 10, 15, 0x7BFF, true, false, 0x7E00⟩
def BF16 : Fmt := ⟨16, 8, 7, 127, 0x7F7F, true, false, 0x7FC0⟩
def E5M2 : Fmt := ⟨8, 5, 2, 15, 0x7B, true, true, 0x7E⟩
def E4M3 : Fmt := ⟨8, 4, 3, 7, 0x7E, false, true, 0x7F⟩
def E2M1 : Fmt := ⟨4, 2, 1, 1, 7, false, true, 0⟩

/-- An exact value: a NaN (signalling or not), an infinity, or (−1)^neg · m · 2^e. -/
inductive FVal where
  | nan (signalling : Bool)
  | inf (neg : Bool)
  | num (neg : Bool) (m : Nat) (e : Int)
  deriving DecidableEq, Repr

/-- Val(F, bits): the value of an encoding (R66, R67). -/
def fval (f : Fmt) (b : Nat) : FVal :=
  let s := b / 2^(f.width - 1) % 2 == 1
  let e := b / 2^f.fb % 2^f.eb
  let x := b % 2^f.fb
  if f.hasInf && e == 2^f.eb - 1 then
    (if x == 0 then .inf s else .nan (x / 2^(f.fb - 1) % 2 == 0))
  else if !f.hasInf && f.nan != 0 && e == 2^f.eb - 1 && x == 2^f.fb - 1 then .nan false
  else if e == 0 then .num s x (1 - f.bias - f.fb)
  else .num s (2^f.fb + x) ((e : Int) - f.bias - f.fb)

/-- An integer as an exact value. -/
def ival (x : Int) : FVal := .num (x < 0) x.natAbs 0

def FVal.isNan : FVal → Bool
  | .nan _ => true
  | _ => false

def FVal.isSNan : FVal → Bool
  | .nan s => s
  | _ => false

def FVal.isZero : FVal → Bool
  | .num _ m _ => m == 0
  | _ => false

def FVal.neg : FVal → FVal
  | .nan s => .nan s
  | .inf n => .inf !n
  | .num n m e => .num (!n) m e

/-- The sign bit of an encoding. -/
def signBit (f : Fmt) (neg : Bool) : Nat := if neg then 2^(f.width - 1) else 0

/-- Whether the magnitude k + rem / den, 0 ≤ rem < den, goes up to k + 1 under mode rm with the draw r (R72). -/
def roundsUp (rm : Nat) (neg : Bool) (k rem den : Nat) (r : BitVec 32) : Bool :=
  match rm with
  | 1 => 2 * rem > den || (2 * rem == den && k % 2 == 1)
  | 2 => false
  | 3 => neg && rem != 0
  | 4 => !neg && rem != 0
  | _ => r.toNat < rem * 2^32 / den

/-- A magnitude m · 2^e over the grid of spacing 2^q: the whole part, the remainder and the denominator. -/
def onGrid (m : Nat) (e q : Int) : Nat × Nat × Nat :=
  if e ≥ q then (m * 2^(e - q).toNat, 0, 1)
  else
    let d := min (q - e).toNat (m.log2 + 64)
    (m / 2^d, m % 2^d, 2^d)

/-- Overflow of a finite value (R73). -/
def overflow (f : Fmt) (neg : Bool) (rm : Nat) : Nat :=
  let toMax := f.sat || rm == 2 || (rm == 3 && !neg) || (rm == 4 && neg)
  signBit f neg + (if toMax then f.maxBits else f.maxBits + 1)

/-- Round(x, F, rm) with the draw r for SR: the encoding and the flags (R72-R75). -/
def fround (f : Fmt) (x : FVal) (rm : Nat) (r : BitVec 32) : Nat × Flags :=
  match x with
  | .nan s => (f.nan, if s then NV else 0)
  | .inf n => if f.hasInf then (signBit f n + (2^f.eb - 1) * 2^f.fb, 0) else (f.nan, NV)
  | .num n m e =>
    if m == 0 then (signBit f n, 0) else
    let top : Int := m.log2 + e
    let q : Int := max (top - f.fb) (1 - f.bias - f.fb)
    let (k, rem, den) := onGrid m e q
    let k' := if rem != 0 && roundsUp rm n k rem den r then k + 1 else k
    let enc := (q + f.bias + f.fb - 1).toNat * 2^f.fb + k'
    if enc > f.maxBits then (overflow f n rm, OF ||| NX)
    else
      let nx : Flags := if rem != 0 then NX else 0
      let uf : Flags := if rem != 0 && top < 1 - f.bias then UF else 0
      (signBit f n + enc, nx ||| uf)

/-- RoundInt of R87: the integer and whether it is inexact. -/
def roundInt (n : Bool) (m : Nat) (e : Int) (rm : Nat) (r : BitVec 32) : Int × Bool :=
  let (k, rem, den) := onGrid m e 0
  let k' := if rem != 0 && roundsUp rm n k rem den r then k + 1 else k
  (if n then -(k' : Int) else k', rem != 0)

def intLo (n : Nat) (signed : Bool) : Int := if signed then -(2^(n - 1) : Nat) else 0

def intHi (n : Nat) (signed : Bool) : Int := if signed then (2^(n - 1) : Nat) - 1 else (2^n : Nat) - 1

/-- Sat(x, lo, hi) of spec/00. -/
def sat (x lo hi : Int) : Int := if x < lo then lo else if x > hi then hi else x

/-- CvtInt(x, n, signed, rm) (R76). -/
def cvtInt (x : FVal) (n : Nat) (signed : Bool) (rm : Nat) (r : BitVec 32) : Int × Flags :=
  match x with
  | .nan _ => (0, NV)
  | .inf neg => (if neg then intLo n signed else intHi n signed, NV)
  | .num neg m e =>
    let (k, nx) := roundInt neg m e rm r
    let c := sat k (intLo n signed) (intHi n signed)
    if c ≠ k then (c, NV) else (k, if nx then NX else 0)

/-- The exact integer of a value over the unit 2^u, for u at most its exponent. -/
def scaled (n : Bool) (m : Nat) (e u : Int) : Int :=
  let v : Int := m * 2^(e - u).toNat
  if n then -v else v

/-- The sum of two finite values; `rdn` decides the sign of an exact zero (R74). -/
def exactAdd (n1 : Bool) (m1 : Nat) (e1 : Int) (n2 : Bool) (m2 : Nat) (e2 : Int) (rm : Nat) : FVal :=
  if m1 == 0 && m2 == 0 then .num (if n1 == n2 then n1 else rm == 3) 0 0
  else if m1 == 0 then .num n2 m2 e2
  else if m2 == 0 then .num n1 m1 e1
  else
    let u := min e1 e2
    let x := scaled n1 m1 e1 u + scaled n2 m2 e2 u
    if x = 0 then .num (rm == 3) 0 0 else .num (x < 0) x.natAbs u

/-- The exact result of an operation, and the flags its special cases set before any rounding (R75). -/
abbrev Exact := FVal × Flags

def sNanFlag (l : List FVal) : Flags := if l.any FVal.isSNan then NV else 0

def xadd (a b : FVal) (rm : Nat) : Exact :=
  if a.isNan || b.isNan then (.nan false, sNanFlag [a, b]) else
  match a, b with
  | .inf n, .inf k => if n == k then (.inf n, 0) else (.nan false, NV)
  | .inf n, _ => (.inf n, 0)
  | _, .inf n => (.inf n, 0)
  | .num n1 m1 e1, .num n2 m2 e2 => (exactAdd n1 m1 e1 n2 m2 e2 rm, 0)
  | _, _ => (.nan false, 0)

def xmul (a b : FVal) : Exact :=
  if a.isNan || b.isNan then (.nan false, sNanFlag [a, b]) else
  match a, b with
  | .inf n, .inf k => (.inf (n != k), 0)
  | .inf n, .num k m _ => if m == 0 then (.nan false, NV) else (.inf (n != k), 0)
  | .num k m _, .inf n => if m == 0 then (.nan false, NV) else (.inf (n != k), 0)
  | .num n1 m1 e1, .num n2 m2 e2 => (.num (n1 != n2) (m1 * m2) (e1 + e2), 0)
  | _, _ => (.nan false, 0)

/-- a · b + c with no rounding between (R108). -/
def xfma (a b c : FVal) (rm : Nat) : Exact :=
  let (p, fp) := xmul a b
  if p.isNan || c.isNan then (.nan false, fp ||| sNanFlag [c]) else
  let (s, fs) := xadd p c rm
  (s, fs)

/-- Extra bits carried below the quotient's or root's leading bit. -/
def guardBits : Nat := 200

/-- A magnitude whose true value lies strictly between x and x + 1 units, or is x (R72). -/
def sticky (x : Nat) (exact : Bool) (e : Int) : Nat × Int := if exact then (x, e) else (2 * x + 1, e - 1)

def xdiv (a b : FVal) : Exact :=
  if a.isNan || b.isNan then (.nan false, sNanFlag [a, b]) else
  match a, b with
  | .inf _, .inf _ => (.nan false, NV)
  | .inf n, .num k _ _ => (.inf (n != k), 0)
  | .num n _ _, .inf k => (.num (n != k) 0 0, 0)
  | .num n1 m1 e1, .num n2 m2 e2 =>
    if m2 == 0 then (if m1 == 0 then (.nan false, NV) else (.inf (n1 != n2), DZ))
    else if m1 == 0 then (.num (n1 != n2) 0 0, 0)
    else
      let sh := guardBits + m2.log2
      let x := m1 * 2^sh
      let (m, e) := sticky (x / m2) (x % m2 == 0) (e1 - e2 - sh)
      (.num (n1 != n2) m e, 0)
  | _, _ => (.nan false, 0)

/-- The integer square root, bit by bit from bit `n` down. -/
def isqrtFrom (x : Nat) : Nat → Nat → Nat
  | 0, r => r
  | n + 1, r =>
    let t := r + 2^n
    isqrtFrom x n (if t * t ≤ x then t else r)

def isqrt (x : Nat) : Nat := isqrtFrom x (x.log2 / 2 + 1) 0

def xsqrt (a : FVal) : Exact :=
  match a with
  | .nan s => (.nan false, if s then NV else 0)
  | .inf n => if n then (.nan false, NV) else (.inf false, 0)
  | .num n m e =>
    if m == 0 then (.num n 0 0, 0)
    else if n then (.nan false, NV)
    else
      let odd := e % 2 == 1
      let x := m * 2^(2 * guardBits + (if odd then 1 else 0))
      let e' : Int := (if odd then e - 1 else e) / 2 - guardBits
      let q := isqrt x
      let (m', e'') := sticky q (q * q == x) e'
      (.num false m' e'', 0)

/-- 1/√a (spec/06 R143). -/
def xrsqrt (a : FVal) : Exact :=
  match a with
  | .nan s => (.nan false, if s then NV else 0)
  | .inf n => if n then (.nan false, NV) else (.num false 0 0, 0)
  | .num n m e =>
    if m == 0 then (.inf n, DZ)
    else if n then (.nan false, NV)
    else
      let odd := e % 2 == 1
      let m2 := if odd then m * 2 else m
      let e2 : Int := if odd then e - 1 else e
      let sh := guardBits + m2.log2
      let x := 2^(2 * sh) / m2
      let q := isqrt x
      let (m', e') := sticky q (q * q * m2 == 2^(2 * sh)) (-(e2 / 2) - sh)
      (.num false m' e', 0)

/-- 1/a (spec/06 R143). -/
def xrcp (a : FVal) : Exact := xdiv (.num false 1 0) a

/-- Compare two values that are not NaN: less, equal (+0 equals −0). -/
def flt (a b : FVal) : Bool :=
  match a, b with
  | .inf n, .inf k => n && !k
  | .inf n, .num _ _ _ => n
  | .num _ _ _, .inf k => !k
  | .num n1 m1 e1, .num n2 m2 e2 => let u := min e1 e2; scaled n1 m1 e1 u < scaled n2 m2 e2 u
  | _, _ => false

def feq (a b : FVal) : Bool :=
  match a, b with
  | .inf n, .inf k => n == k
  | .num n1 m1 e1, .num n2 m2 e2 => let u := min e1 e2; scaled n1 m1 e1 u == scaled n2 m2 e2 u
  | _, _ => false

/-- FMIN or FMAX on encodings: one operand unchanged, −0 below +0, the canonical NaN when both are NaN (R109). -/
def fminmax (f : Fmt) (isMax : Bool) (a b : Nat) : Nat × Flags :=
  let x := fval f a
  let y := fval f b
  let fl := sNanFlag [x, y]
  match x.isNan, y.isNan with
  | true, true => (f.nan, fl)
  | true, false => (b, fl)
  | false, true => (a, fl)
  | false, false =>
    let neg (v : Nat) : Bool := v / 2^(f.width - 1) % 2 == 1
    let less := flt x y || (feq x y && neg a && !neg b)
    let more := flt y x || (feq x y && neg b && !neg a)
    (if isMax then (if less then b else a) else (if more then b else a), fl)

/-- FCLASS's one-hot class (R111). -/
def fclassOf (f : Fmt) (b : Nat) : Nat :=
  match fval f b with
  | .nan s => if s then 2^8 else 2^9
  | .inf n => if n then 2^0 else 2^7
  | .num n m _ =>
    if m == 0 then (if n then 2^3 else 2^4)
    else if m < 2^f.fb then (if n then 2^2 else 2^5)
    else if n then 2^1 else 2^6

/-- Rounding to an integral value of the same format, with the sign of the source (R113). -/
def fintegral (f : Fmt) (b : Nat) (rm : Nat) (r : BitVec 32) : Nat × Flags :=
  match fval f b with
  | .nan s => (f.nan, if s then NV else 0)
  | .inf _ => (b, 0)
  | .num n m e =>
    if m == 0 then (b, 0) else
    let (k, nx) := roundInt n m e rm r
    ((fround f (.num n k.natAbs 0) 2 0).1, if nx then NX else 0)

/-- SRStep's recurrence on the generator's state (R77). -/
def srNext (x : BitVec 32) : BitVec 32 :=
  let x := x ^^^ (x <<< 13)
  let x := x ^^^ (x >>> 17)
  x ^^^ (x <<< 5)

/-- NZ(v) (R80). -/
def srNZ (v : BitVec 32) : BitVec 32 := if v = 0 then 0x6A3B91C5 else v

/-- A generator state and one draw from it: under a mode other than SR nothing is drawn (R78). -/
def srDraw (rm : Nat) (seed : BitVec 32) : BitVec 32 × BitVec 32 :=
  if rm = 5 then (srNext seed, srNext seed) else (seed, 0)

/-! ## Element formats of fat pointers and scaled blocks -/

/-- The format codes of R22 that name one (R23: an MX code needs L = 3). -/
def fmtOk (code l : Nat) : Bool :=
  code ≤ 8 || (18 ≤ code && code ≤ 24) || (32 ≤ code && code ≤ 35 && l == 3)

def isScaled (code : Nat) : Bool := code ≥ 18

/-- Elements of a block (R69). -/
def blockLen (code l : Nat) : Nat := if code ≥ 32 then 32 else 4 * 2^l

/-- Bits of an element (R68-R70). -/
def elemBits (code : Nat) : Nat :=
  match code with
  | 1 => 8 | 2 => 4 | 3 => 8 | 4 => 8 | 5 => 16 | 6 => 16 | 7 => 32 | 8 => 64
  | 32 => 4 | 33 => 8 | 34 => 8 | 35 => 8
  | 0 => 32
  | _ => code - 16

/-- Bytes of a block record, scale included (R69). -/
def recordSize (code l : Nat) : Nat := 1 + (blockLen code l * elemBits code + 7) / 8

/-- The floating format of an unscaled code 3 to 8. -/
def codeFmt (code : Nat) : Fmt :=
  match code with
  | 3 => E4M3 | 4 => E5M2 | 5 => FP16 | 6 => BF16 | 7 => FP32 | _ => FP64

/-- The two's complement value of the low n bits. -/
def toSigned (n x : Nat) : Int := (BitVec.ofNat n x).toInt

/-- The exact value of a scaled element from its scale and its code bits (R69, R86). E5M2 codes of an infinity keep the value R66
gives them, though R86 calls every element finite (DESIGN CHOICE, log 44). -/
def deqElem (code scale x : Nat) : FVal :=
  if scale == 255 then .nan false else
  let shift (v : FVal) (d : Int) : FVal := match v with
    | .num n m e => .num n m (e + d)
    | v => v
  let d : Int := (scale : Int) - 127
  match code with
  | 32 => shift (fval E2M1 x) d
  | 33 => shift (fval E4M3 x) d
  | 34 => match fval E5M2 x with
    | .num n m e => .num n m (e + d)
    | .inf n => .inf n
    | .nan s => .nan s
  | 35 => shift (ival (toSigned 8 x)) (d - 6)
  | _ => let k := code - 16; shift (ival (toSigned k x)) (d - (k - 2 : Nat))

/-- floor(log2 |v|) of a nonzero finite value. -/
def log2Of (m : Nat) (e : Int) : Int := m.log2 + e

/-- The largest magnitude's floor(log2), over finite values. -/
def maxLog : List FVal → Option Int
  | [] => none
  | .num _ m e :: r => match maxLog r with
    | none => if m == 0 then none else some (log2Of m e)
    | some x => if m == 0 then some x else some (max x (log2Of m e))
  | _ :: r => maxLog r

/-- The state of a quantisation: element codes so far, flags, generator (R84, R85). -/
structure Quant where
  codes : List Nat
  flags : Flags
  seed : BitVec 32
  deriving DecidableEq, Repr

/-- One integer element: v · 2^d rounded and clamped to k bits, with the flags of R84 and R85. -/
def quantInt (k : Nat) (v : FVal) (d : Int) (rm : Nat) (q : Quant) : Quant :=
  let (seed, r) := srDraw rm q.seed
  match v with
  | .num n m e =>
    let (x, nx) := roundInt n m (e + d) rm r
    let c := sat x (intLo k true) (intHi k true)
    let fl : Flags := (if nx || c ≠ x then NX else 0) ||| (if c ≠ x then OF else 0) ||| (if m != 0 && c == 0 then UF else 0)
    { codes := q.codes ++ [(BitVec.ofInt k c).toNat], flags := q.flags ||| fl, seed := seed }
  | _ => { q with codes := q.codes ++ [0], seed := seed }

/-- MXINT8's element: as `quantInt`, where saturation alone sets OF only (R84). -/
def quantInt8 (v : FVal) (d : Int) (rm : Nat) (q : Quant) : Quant :=
  let (seed, r) := srDraw rm q.seed
  match v with
  | .num n m e =>
    let (x, nx) := roundInt n m (e + d) rm r
    let c := sat x (-128) 127
    let fl : Flags := (if nx then NX else 0) ||| (if c ≠ x then OF else 0) ||| (if m != 0 && x == 0 then UF else 0)
    { codes := q.codes ++ [(BitVec.ofInt 8 c).toNat], flags := q.flags ||| fl, seed := seed }
  | _ => { q with codes := q.codes ++ [0], seed := seed }

/-- One floating element of an MX block. -/
def quantF (f : Fmt) (v : FVal) (d : Int) (rm : Nat) (q : Quant) : Quant :=
  let (seed, r) := srDraw rm q.seed
  match v with
  | .num n m e =>
    let (x, fl) := fround f (.num n m (e + d)) rm r
    { codes := q.codes ++ [x], flags := q.flags ||| fl, seed := seed }
  | _ => { q with codes := q.codes ++ [0], seed := seed }

/-- The generator after n draws under SR (R77). -/
def srSkip (rm : Nat) : Nat → BitVec 32 → BitVec 32
  | 0, seed => seed
  | n + 1, seed => srSkip rm n (srDraw rm seed).1

/-- QuantMX or QuantBFP of one block: the scale, and the codes, flags and generator (R84, R85). A NaN block and an
all-zero block take a draw an element too, since draws never depend on operand values (R78, R157; log 27). -/
def quantBlock (code : Nat) (vs : List FVal) (rm : Nat) (seed : BitVec 32) : Nat × Quant :=
  let zero (fl : Flags) : Quant := { codes := vs.map fun _ => 0, flags := fl, seed := srSkip rm vs.length seed }
  if vs.any (fun v => match v with | .num _ _ _ => false | _ => true) then (255, zero NV) else
  match maxLog vs with
  | none => (0, zero 0)
  | some a =>
    let emax : Int := match code with | 32 => 2 | 33 => 8 | 34 => 15 | _ => 0
    let e := sat (a - emax + 127) 0 254
    let d : Int := 127 - e
    let q0 : Quant := { codes := [], flags := 0, seed := seed }
    let q := match code with
      | 32 => vs.foldl (fun q v => quantF E2M1 v d rm q) q0
      | 33 => vs.foldl (fun q v => quantF E4M3 v d rm q) q0
      | 34 => vs.foldl (fun q v => quantF E5M2 v d rm q) q0
      | 35 => vs.foldl (fun q v => quantInt8 v (d + 6) rm q) q0
      | _ => let k := code - 16; vs.foldl (fun q v => quantInt k v (d + (k - 2 : Nat)) rm q) q0
    (e.toNat, q)

/-- Elements of k bits packed into a little-endian bit string, as a number (R68). -/
def packBits (k : Nat) : List Nat → Nat
  | [] => 0
  | x :: r => x % 2^k + 2^k * packBits k r

end Sys2Proof.Machine
end

