-- ==== Sys2Proof/Machine/Engines.lean ====
section
/-! DEFINITION. Descriptors, their checks at submission, and the acceptance of MXE jobs and bulk transfers (spec/07
R148-R167, spec/10 R263-R269, R274). -/

namespace Sys2Proof.Machine

/-! ## MXE descriptors (R150) -/

def mxOp (w0 : Word) : Nat := bits w0 63 60
def mxTile (w0 : Word) : Nat := bits w0 59 56
def mxRm (w0 : Word) : Nat := bits w0 55 53
def mxZacc (w0 : Word) : Bool := bit w0 52
def mxSplitA (w0 : Word) : Bool := bit w0 51
def mxSplitB (w0 : Word) : Bool := bit w0 50
def mxK (w0 : Word) : Nat := bits w0 47 32
def mxRow0 (w0 : Word) : Nat := bits w0 31 26
def mxCol0 (w0 : Word) : Nat := bits w0 25 19
def mxM (w0 : Word) : Nat := bits w0 18 13 + 1
def mxN (w0 : Word) : Nat := bits w0 12 6 + 1

/-- A tile of a cluster's MXE (R148). -/
def State.tile (s : State) (cl t : Nat) : Tile := (mfind (s.cluster cl).tiles t).getD {}

def State.setTile (s : State) (cl t : Nat) (x : Tile) : State := s.modCluster cl fun c => { c with tiles := mset c.tiles t x }

/-- R23's format check on a pointer. -/
def fmtBad (p : Word) : Bool := !fmtOk (ptrFmt p) (ptrL p)

/-- Bytes of a row of `n` elements: packed elements, or records, of which the last may be used in part (R68-R70, R87, R151); a
split operand has no scale bytes. -/
def rowBytes (code l n : Nat) (split : Bool) : Nat :=
  if isScaled code && !split then (n + blockLen code l - 1) / blockLen code l * recordSize code l else (n * elemBits code + 7) / 8

/-- Operand codes of a pairing with a tile's TYPE (R152). -/
def mmaCode (int : Bool) (c : Nat) : Bool :=
  if int then c == 1 || c == 2 else (1 ≤ c && c ≤ 6) || (18 ≤ c && c ≤ 24) || (32 ≤ c && c ≤ 35)

def lsCode (int : Bool) (c : Nat) : Bool :=
  if int then c ≤ 2 else c ≤ 8 || (18 ≤ c && c ≤ 24) || (32 ≤ c && c ≤ 35)

/-- R151 and R152 for one MMA operand: window, code, pitch, split. -/
def operandOk (int : Bool) (p : Word) (k rows pitch : Nat) (split : Bool) : Bool :=
  let c := ptrFmt p
  isWin (vaOf p) && mmaCode int c && (!split || isScaled c) &&
  (rows ≤ 1 || pitch ≥ rowBytes c (ptrL p) k split)

/-- R153 step 2: the descriptor is well formed for its tile's TYPE. -/
def mxDescOk (int : Bool) (w0 w1 w2 w3 : Word) : Bool :=
  let op := mxOp w0
  let rm := mxRm w0
  let base := bits w0 49 48 == 0 && bits w0 5 0 == 0 && rm ≤ 5 && mxRow0 w0 + mxM w0 ≤ 64 && mxCol0 w0 + mxN w0 ≤ 128
  let plain := bits w0 52 50 == 0 && mxK w0 == 0
  let move :=
    let c := ptrFmt w1
    plain && w2 == 0 && bits w3 47 32 == 0 && isWin (vaOf w1) && lsCode int c &&
    (!isScaled c || mxN w0 % blockLen c (ptrL w1) == 0) &&
    (mxM w0 ≤ 1 || bits w3 63 48 ≥ rowBytes c (ptrL w1) (mxN w0) false)
  base && match op with
    | 0 => rm == 0 && 32 ≤ mxK w0 && mxK w0 ≤ 8192 && mxK w0 % 32 == 0 &&
        operandOk int w1 (mxK w0) (mxM w0) (bits w3 63 48) (mxSplitA w0) &&
        operandOk int w2 (mxK w0) (mxN w0) (bits w3 47 32) (mxSplitB w0)
    | 1 => move
    | 2 => move && (!int || rm ≤ 1)
    | 3 => plain && rm == 0 && w1 == 0 && w2 == 0 && bits w3 63 32 == 0
    | _ => false

/-- R153 steps 1 and 2. -/
def mxCheckDesc (int : Bool) (w0 w1 w2 w3 : Word) : M Unit := do
  if ptrBad w1 then faultAt BAD_POINTER (vaOf w1)
  if ptrBad w2 then faultAt BAD_POINTER (vaOf w2)
  if fmtBad w1 then faultAt BAD_FORMAT (vaOf w1)
  if fmtBad w2 then faultAt BAD_FORMAT (vaOf w2)
  need (mxDescOk int w0 w1 w2 w3) MX_DESC

/-- R153: every check at submission to a thread's own MXE. -/
def mxCheck (s : State) (cl ctx : Nat) (w0 w1 w2 w3 : Word) : M Unit := do
  let t := s.tile cl (mxTile w0)
  mxCheckDesc t.ty w0 w1 w2 w3
  need (t.owner == some ctx) MX_TILE

/-- Tiles a context owns on a cluster's MXE, as a mask. -/
def ownMask (s : State) (cl ctx : Nat) : Nat :=
  ((List.range 16).filter fun t => (s.tile cl t).owner == some ctx).foldl (fun m t => m + 2^t) 0

def tilesOwned (s : State) (cl ctx : Nat) : Nat := ((List.range 16).filter fun t => (s.tile cl t).owner == some ctx).length

def jobsOf (s : State) (cl ctx : Nat) : Nat := ((s.cluster cl).jobs.filter (·.ctx == ctx)).length

/-- R149: room in the queue and in the context's quota. -/
def mxRoom (s : State) (cl ctx : Nat) : Bool :=
  decide ((s.cluster cl).jobs.length < 64) && decide (jobsOf s cl ctx < 4 * tilesOwned s cl ctx)

/-- The rounding a LOAD or STORE of an FP32 tile resolves at submission: FRM for 0 (R150). -/
def mxRounding (int : Bool) (w0 : Word) (frm : BitVec 3) : BitVec 3 :=
  if (mxOp w0 = 1 || mxOp w0 = 2) && !int && mxRm w0 = 0 then frm else BitVec.ofNat 3 (mxRm w0)

/-- Whether a job rounds under SR, and so takes a draw from its submitter (R157). -/
def mxDraws (int : Bool) (w0 : Word) (frm : BitVec 3) : Bool :=
  (mxOp w0 == 1 || mxOp w0 == 2) && !int && mxRounding int w0 frm == 5

/-- The thread's pending launch time is taken by the submission (R341). -/
def takeAtset (s : State) (tid : Nat) : Word × State := ((s.task tid).r.atset, s.modR tid fun r => { r with atset := 0 })

/-- One SRStep of a thread (R77). -/
def srStep (s : State) (tid : Nat) : BitVec 32 × State :=
  let x := srNext (s.task tid).r.srseed
  (x, s.modR tid fun r => { r with srseed := x })

/-- An MXE accepts a job (R149), which the record numbers (R410). In replay it accepts only in the recorded order (R411). -/
def mxAccept (s : State) (cl : Nat) (j : Job) (ident : Word) : State :=
  let n := (s.cluster cl).mxCount
  let s := recordEv s j.launch (dieOfCl cl) 7 n ident (w64 (clPlace cl * 2^54))
  let s := takeTurn s j.launch (dieOfCl cl) 7 (w64 (clPlace cl * 2^54)) ident (8 * cl)
  s.modCluster cl fun c => { c with jobs := c.jobs ++ [{ j with acc := s.cycle }], mxCount := n + 1 }

/-- Whether replay lets an MXE accept a submitter's job now (R411). -/
def mxTurn (s : State) (cl : Nat) (l : Option Nat) (ident : Word) : Bool :=
  mayTurn s l (dieOfCl cl) 7 (w64 (clPlace cl * 2^54)) true fun e => e.2.2.1 == ident

/-- The job a thread submits: its rounding, its generator's start and its launch time (R157, R163). -/
def mxSubmit (s : State) (tid : Nat) (id : Nat) (sink : Sink) (w0 w1 w2 w3 : Word) : State :=
  let t := s.task tid
  let cl := clOfCore t.core
  let int := (s.tile cl (mxTile w0)).ty
  let rm := mxRounding int w0 t.r.frm
  let (seed, s) := if mxDraws int w0 t.r.frm then srStep s tid else (0, s)
  let (tm, s) := takeAtset s tid
  mxAccept s cl { id := id, ctx := t.ctx, launch := t.launch, w0 := w0, w1 := w1, w2 := w2, w3 := w3, sink := sink,
                  rm := rm, rng := srNZ seed, time := tm } t.ident

/-! ## Transfer descriptors (R263, R265) -/

def xfOp (w0 : Word) : Nat := bits w0 63 60
def xfSw (w0 : Word) : Bool := bit w0 59
def xfSwoff (w0 : Word) : Nat := bits w0 58 40
def xfLen (w0 : Word) : Nat := bits w0 31 0
def xfRows (w3 : Word) : Nat := bits w3 63 48 + 1

/-- R265 step 2, for the OP that the instruction or the engine's command gives. -/
def xfDescOk (op : Nat) (w0 w1 w2 w3 : Word) : Bool :=
  let dw := isWin (vaOf w1)
  let sw := isWin (vaOf w2)
  xfOp w0 == op && op ≤ 3 && xfLen w0 != 0 && (xfSw w0 || xfSwoff w0 == 0) && (op == 3 || bits w3 63 0 == 0) &&
  (!xfSw w0 || dw) && xfSwoff w0 % 16 == 0 &&
  (op != 0 || (dw && !sw)) && (op != 1 || (sw && !dw)) &&
  (op != 3 || xfRows w3 == 1 || (bits w3 47 24 ≥ xfLen w0 && bits w3 23 0 ≥ xfLen w0))

def xfCheck (op : Nat) (w0 w1 w2 w3 : Word) : M Unit := do
  if ptrBad w1 then faultAt BAD_POINTER (vaOf w1)
  if ptrBad w2 then faultAt BAD_POINTER (vaOf w2)
  need (xfDescOk op w0 w1 w2 w3) XF_DESC

/-- Transfers of prefetches hold prefetch slots and do not count against the XFE's bounds (R280). -/
def Xfer.prefetches (x : Xfer) : Bool := match x.sink with
  | .prefetch _ => true
  | _ => false

/-- R266: room in the XFE and in the context's share. -/
def xfRoom (s : State) (cl ctx : Nat) : Bool :=
  let xs := (s.cluster cl).xfers.filter fun x => !x.prefetches
  decide (xs.length < 512) && decide ((xs.filter (·.ctx == ctx)).length < 128)

def xfSubmit (s : State) (tid id : Nat) (sink : Sink) (w0 w1 w2 w3 : Word) : State :=
  let t := s.task tid
  let (tm, s) := takeAtset s tid
  s.modCluster (clOfCore t.core) fun c =>
    { c with xfers := c.xfers ++ [{ id := id, ctx := t.ctx, launch := t.launch, w0 := w0, w1 := w1, w2 := w2, w3 := w3,
                                    sink := sink, time := tm }] }

/-! ## The engine behind ep (R166, R274) -/

/-- A fourth push to ep: the descriptor's checks, the engine's bounds, the release at .k, and acceptance. -/
def epSubmit (s : State) (tid : Nat) (w3 : Word) : M State := do
  let t := s.task tid
  let cl := clOfCore t.core
  let w0 := t.epWords.getD 0 0
  let w1 := t.epWords.getD 1 0
  let w2 := t.epWords.getD 2 0
  if t.r.esel = 1 then
    mxCheck s cl t.ctx w0 w1 w2 w3
    if t.mxOut ≥ 16 || !mxRoom s cl t.ctx || !mxTurn s cl t.launch t.ident then hold .port
    needRel s tid 2
    let (id, s) := s.fresh
    .ok ((mxSubmit s tid id (.ep tid) w0 w1 w2 w3).modTask tid fun t => { t with epWords := [], mxOut := t.mxOut + 1 })
  else
    xfCheck (xfOp w0) w0 w1 w2 w3
    if t.xfOut ≥ 32 || !xfRoom s cl t.ctx then hold .port
    needRel s tid 2
    let (id, s) := s.fresh
    .ok ((xfSubmit s tid id (.ep tid) w0 w1 w2 w3).modTask tid fun t => { t with epWords := [], xfOut := t.xfOut + 1 })

/-- A push to ep (R166, R274): three words are held, the fourth submits. -/
def epPush (s : State) (tid : Nat) (v : Word) : M State :=
  if (s.task tid).epWords.length < 3 then .ok (s.modTask tid fun t => { t with epWords := t.epWords ++ [v] })
  else epSubmit s tid v

/-- The FLAGS of a completion element (R161, R267). -/
def elemFlags (v : Word) : BitVec 6 := BitVec.ofNat 6 (bits v 55 50)

/-- A pop from ep merges the element's flags (R81, R161, R166). -/
def epPop (s : State) (tid : Nat) : Word × State :=
  let t := s.task tid
  if t.r.esel = 1 then
    let v := t.mxDone.headD 0
    (v, s.modTask tid fun t => { t with mxDone := t.mxDone.tail, mxOut := t.mxOut - 1,
                                        r := { t.r with fflags := t.r.fflags ||| elemFlags v } })
  else
    let v := t.xfDone.headD 0
    (v, s.modTask tid fun t => { t with xfDone := t.xfDone.tail, xfOut := t.xfOut - 1 })

end Sys2Proof.Machine
end

