-- ==== Sys2Proof/Machine/Operands.lean ====
section
/-! DEFINITION. Operand forms, ports and the issue of an instruction (spec/02 R41-R49, spec/15 R402-R404): the checks of
R48 after decoding, port readiness (R44), reads and writes of the registers a field may name, and what every instruction
does when it completes, faults or waits. -/

namespace Sys2Proof.Machine

/-- The outcome of executing an instruction. -/
abbrev Res := Host.Outcome State Fault Refusal

/-- Register numbers of the ports (R41). -/
def QA : Nat := 120
def QB : Nat := 121
def MP : Nat := 122
def EP : Nat := 123
def CT : Nat := 124
def ZR : Nat := 125

/-- An operand field in the order rd, rs1, rs2, rs3, rs4, rs5: a source, a destination, a field both read and written (R43),
one that takes no number from 120 up (R34, R254), the two registers of a compare and swap (R34, R254), a spawn's
arguments (R295), WANY's handles (R300), TLDT's destinations (R171), and a vector register or mask, which is waited for
only, by its key in `Task.due` (R126). -/
inductive Opd where
  | src (n : Nat)
  | dst (n : Nat)
  | rw (n : Nat)
  | strict (n : Nat)
  | casPair (n : Nat)
  | args (b n : Nat)
  | handles (b n : Nat)
  | rows (d n : Nat)
  | late (key : Nat)

/-! ## Links (R334, R335) -/

/-- The link a task belongs to. -/
def linkOf (s : State) (tid : Nat) : Option (Link × Bool) :=
  match (s.task tid).link with
  | none => none
  | some (l, isA) => (mfind (s.core (s.task tid).core).links l).map fun x => (x, isA)

/-- Whether a task reads the queue a port names: with DIR = 0 the creator writes qa and reads qb (R334). -/
def readsQueue (x : Link) (isA : Bool) (port : Nat) : Bool := (port == QB) == (x.dir != isA)

def Link.q (x : Link) (port : Nat) : List Word := if port = QA then x.qa else x.qb

def Link.setQ (x : Link) (port : Nat) (q : List Word) : Link := if port = QA then { x with qa := q } else { x with qb := q }

/-- Whether the other task of the link has ended (R335). -/
def Link.otherEnded (x : Link) (isA : Bool) : Bool := if isA then x.bEnded else x.aEnded

def setLinkQ (s : State) (tid port : Nat) (f : List Word → List Word) : State :=
  match (s.task tid).link with
  | none => s
  | some (l, _) => s.modCore (s.task tid).core fun c =>
      { c with links := c.links.map fun (i, x) => if i = l then (i, x.setQ port (f (x.q port))) else (i, x) }

/-! ## The checks of R48 (R41-R43) -/

/-- R41: whether a port may stand as a source, or as a destination, of this thread now. -/
def portAllowed (s : State) (tid n : Nat) (dest : Bool) : Bool :=
  let t := s.task tid
  if n = QA || n = QB then
    match linkOf s tid with
    | some (x, isA) => readsQueue x isA n != dest
    | none => false
  else if n = MP then (if dest then decide (t.mpOut.length < 8) else t.handler && !t.mpIn.isEmpty)
  else if n = EP then t.r.esel == 1 || t.r.esel == 2
  else if n = CT then !dest
  else n == ZR

def isPort (n : Nat) : Bool := n ≥ 120 && n != ZR

/-- The register a field misuses (R41, R43), given the ports named before it and whether one was a source. Every number from 120
on is a port in a spawn's argument run, zr among them (R295; DESIGN CHOICE, log 41: R43 leaves zr out of its own rules). -/
def misuses (s : State) (tid : Nat) (seen : List Nat) (srcPort : Bool) : Opd → Option Nat
  | .src n => if n ≥ 120 && (!portAllowed s tid n false || (isPort n && (seen.contains n || srcPort))) then some n else none
  | .dst n => if n ≥ 120 && (!portAllowed s tid n true || seen.contains n) then some n else none
  | .rw n => if n ≥ 120 && n ≠ ZR then some n else none
  | .strict n => if n ≥ 120 then some n else none
  | .casPair n => if n ≥ 120 then some n else none
  | .args b n => ((List.range n).map (b + ·)).find? (· ≥ 120)
  | .handles b _ => if b ≥ 120 then some b else none
  | .rows d _ => if d ≥ 120 && d ≠ ZR then some d else none
  | .late _ => none

def portNamed : Opd → List Nat
  | .src n => if isPort n then [n] else []
  | .dst n => if isPort n then [n] else []
  | _ => []

def isSrcPort : Opd → Bool
  | .src n => isPort n
  | _ => false

/-- The first misused port in field order (R48 step 4). -/
def firstMisuse (s : State) (tid : Nat) (seen : List Nat) (srcPort : Bool) : List Opd → Option Nat
  | [] => none
  | o :: r =>
    match misuses s tid seen srcPort o with
    | some n => some n
    | none => firstMisuse s tid (portNamed o ++ seen) (srcPort || isSrcPort o) r

/-- The register above the limit that a field names (R42). -/
def overLimit (lim : Nat) : Opd → Option Nat
  | .src n => if n < 120 && n > lim then some n else none
  | .dst n => if n < 120 && n > lim then some n else none
  | .rw n => if n < 120 && n > lim then some n else none
  | .strict n => if n > lim then some n else none
  | .casPair n => if n > lim then some n else if n + 1 > lim then some (n + 1) else none
  | .args b n => ((List.range n).map (b + ·)).find? (· > lim)
  | .handles b n => ((List.range n).map (b + ·)).find? (· > lim)
  | .rows d n => if d + n - 1 > lim then some (d + n - 1) else none
  | .late _ => none

/-- R48 steps 4 and 5. -/
def checkOperands (s : State) (tid : Nat) (ops : List Opd) : M Unit :=
  match firstMisuse s tid [] false ops with
  | some n => faultAt PORT_MISUSE (n % 128)
  | none =>
    match ops.findSome? (overLimit (s.task tid).limit) with
    | some n => faultAt REG_LIMIT (n % 128)
    | none => .ok ()

/-! ## Readiness (R44, R335) -/

def sourceReady (s : State) (tid n : Nat) : M Unit :=
  let t := s.task tid
  if n = QA || n = QB then
    match linkOf s tid with
    | some (x, isA) => if !(x.q n).isEmpty then .ok () else if x.otherEnded isA then fault STRM_CLOSED else hold .port
    | none => .ok ()
  else if n = EP then
    (if t.r.esel = 1 then (if t.mxDone.isEmpty then hold .port else .ok ())
     else if t.xfDone.isEmpty then hold .port else .ok ())
  else .ok ()

def destReady (s : State) (tid n : Nat) : M Unit :=
  if n = QA || n = QB then
    match linkOf s tid with
    | some (x, isA) =>
      if x.otherEnded isA then fault STRM_CLOSED
      else if (s.task tid).pushes.any fun x => x.2.1 == n then hold .opnd
      else if (x.q n).length < 8 then .ok () else hold .port
    | none => .ok ()
  else if n = MP then (if (s.task tid).pushes.any fun x => x.2.1 == MP then hold .opnd else .ok ())
  else if n = EP then
    let t := s.task tid
    if t.pushes.any fun x => x.2.1 == EP then hold .opnd
    else if t.epWords.length < 3 then .ok ()
    else if (t.r.esel = 1 && decide (t.mxOut ≥ 16)) || (t.r.esel = 2 && decide (t.xfOut ≥ 32)) then hold .port else .ok ()
  else .ok ()

/-- The registers a field reads or writes, by their keys in `Task.due`. -/
def Opd.keys : Opd → List Nat
  | .src n | .dst n | .rw n | .strict n | .late n => [n]
  | .casPair n => [n, n + 1]
  | .args b n | .handles b n | .rows b n => (List.range n).map (b + ·)

/-- A result is pending in a register; ports and zr hold none (R89, R126). -/
def pending (s : State) (tid n : Nat) : Bool := (n < 120 || n ≥ 128) && decide (s.cycle < mget 0 (s.task tid).due n)

/-- An instruction that reads or writes a register whose result is pending is not ready (R89, R126). -/
def resultsReady (s : State) (tid : Nat) (ops : List Opd) : M Unit :=
  if (ops.flatMap Opd.keys).any (pending s tid) then hold .opnd else .ok ()

def opdReady (s : State) (tid : Nat) : Opd → M Unit
  | .src n => sourceReady s tid n
  | .dst n => destReady s tid n
  | _ => .ok ()

def opdsReady (s : State) (tid : Nat) : List Opd → M Unit
  | [] => .ok ()
  | o :: r => do opdReady s tid o; opdsReady s tid r

/-! ## Elements of ports (R41, R403, R404) -/

/-- A leader keeps the elements of its open interval, which a rollback puts back (R404). -/
def notePopped (s : State) (tid n : Nat) (v : Word) : State :=
  s.modTask tid fun t => { t with pair := t.pair.map fun p => { p with popped := (n, t.r.esel.toNat, v) :: p.popped } }

/-- An element of a port. -/
def popPort (s : State) (tid n : Nat) : Word × State :=
  if n = MP then ((s.task tid).mpIn.headD 0, s.modTask tid fun t => { t with mpIn := t.mpIn.tail })
  else match linkOf s tid with
    | some (x, _) => ((x.q n).headD 0, setLinkQ s tid n List.tail)
    | none => (0, s)

/-- A source field's element from a port, as each member of a pair has it: the flags of an ep element are the thread's own. -/
def readPort (s : State) (tid n : Nat) : M (Word × State) :=
  match (s.task tid).pair with
  | none => .ok (if n = EP then epPop s tid else popPort s tid n)
  | some p =>
    if p.leader then
      let (v, s) := if n = EP then epPop s tid else popPort s tid n
      .ok (v, (notePopped s tid n v).took v)
    else
      let (v, s) := fed s
      .ok (v, if n = EP && (s.task tid).r.esel = 1 then s.modR tid fun r => { r with fflags := r.fflags ||| elemFlags v } else s)

/-- A wait for ports outranks one for a pending result (R318). -/
def readyNow (s : State) (tid : Nat) (ops : List Opd) : M Unit :=
  match resultsReady s tid ops, opdsReady s tid ops with
  | .ok (), r => r
  | .error _, .error (.wait .port f) => .error (.wait .port f)
  | .error e, _ => .error e

/-! ## Reading and writing what a field names (R41) -/

/-- A source field's value, an element taken from a port. -/
def readReg (s : State) (tid n : Nat) : M (Word × State) :=
  if n < 120 then .ok (s.g tid n, s)
  else if n = QA || n = QB || n = MP || n = EP then readPort s tid n
  else if n = CT then outside s tid (takeTask s tid 4 (s.time (dieOfCore (s.task tid).core)))
  else .ok (0, s)

/-- A destination field's write: a register, a push onto a port, or a discard. -/
def writeReg (s : State) (tid n : Nat) (v : Word) : M State :=
  if n < 120 then .ok ((s.setG tid n v).wrote v)
  else if n = QA || n = QB then .ok (setLinkQ s tid n (· ++ [v]))
  else if n = MP then .ok (s.modTask tid fun t => { t with mpOut := t.mpOut ++ [v] })
  else if n = EP then epPush s tid v
  else .ok s

/-- The result in a general register is ready `n` cycles after the instruction's issue (R89). -/
def State.later (s : State) (tid d n : Nat) : State :=
  if d < 120 then s.modTask tid fun t => { t with due := mset t.due d (s.cycle + n) } else s

/-- The last beat of a vector instruction (R125-R127). -/
def Task.lastBeat (t : Task) (now : Nat) (l : Late) : Task :=
  { t with beats := 0, after := none, due := l.keys.foldl (fun m x => mset m x (now + l.lat)) t.due, fifo := t.fifo ++ l.stores }

/-- A taken branch or jump: the thread's next instruction is ready two cycles after it (R89, R116). -/
def State.bubble (s : State) (tid : Nat) : State := s.modTask tid fun t => { t with nextAt := s.cycle + 2 }

/-- A write of a result that is ready `n` cycles after issue; a port takes it then (R44, R90). What a push to it would meet it meets
now. -/
def writeLate (s : State) (tid d n : Nat) (v : Word) : M State := do
  let s' ← writeReg s tid d v
  if isPort d then .ok (s.modTask tid fun t => { t with pushes := t.pushes ++ [(s.cycle + n, d, t.r.esel, v)] })
  else .ok (s'.later tid d n)

/-- A pending result goes to its port. -/
def pushNow (tid : Nat) (s : State) (x : Nat × Nat × BitVec 2 × Word) : State :=
  let esel := (s.task tid).r.esel
  match writeReg (s.modR tid fun r => { r with esel := x.2.2.1 }) tid x.2.1 x.2.2.2 with
  | .ok s' => s'.modR tid fun r => { r with esel := esel }
  | .error _ => s

/-- The results of a task that are ready go to their ports, in order. -/
def pushDue (s : State) (tid : Nat) : State :=
  let xs := (s.task tid).pushes
  let s := s.modTask tid fun t => { t with pushes := xs.filter fun x => decide (s.cycle < x.1) }
  (xs.filter fun x => decide (x.1 ≤ s.cycle)).foldl (pushNow tid) s

/-- An instruction that ends the thread, or takes the words of mp, waits for the results that go to ports (R89, R90). -/
def needPushed (s : State) (tid : Nat) : M Unit := if (s.task tid).pushes.isEmpty then .ok () else hold .opnd

/-! ## Issue -/

/-- What kind of instruction it is to a pair (R403) and to privilege (R367; every privileged one is a sync point); a `.point` is a
sync point that loads may perform early past (R216). -/
inductive Kind where
  | plain
  | sync
  | point
  | priv
  deriving DecidableEq, Repr

def pushes : Opd → Bool
  | .dst n => isPort n
  | _ => false

/-- CRC-64 of ECMA-182, most significant bit first, one byte at a time (R402; orientation, log 25). -/
def crcBits : Nat → BitVec 64 → BitVec 64
  | 0, c => c
  | n + 1, c => crcBits n (if c.msb then (c <<< 1) ^^^ 0x42F0E1EBA9EA3693 else c <<< 1)

def crcByte (c : BitVec 64) (b : Byte) : BitVec 64 := crcBits 8 (c ^^^ (b.zeroExtend 64 <<< 56))

def crcWords (c : BitVec 64) (ws : List Word) : BitVec 64 :=
  ws.foldl (fun c w => (toBytes 8 w.toNat).foldl crcByte c) c

/-- Whether a paired thread must close its interval and wait before this instruction (R402, R403). -/
def pairWaits (s : State) (tid : Nat) (k : Kind) (ops : List Opd) : Bool :=
  match (s.task tid).pair with
  | none => false
  | some p => p.leader && (p.closed || p.retired ≥ 256 || p.held.length ≥ 64 || ((k ≠ .plain || ops.any pushes) && !p.agreed))

/-- The fingerprint goes on over an instruction: its PC, the values it wrote, and its stores (R402). -/
def fingerprint (c : Word) (pc : Addr) (u : Turn) : Word :=
  crcWords c (w64 pc.toNat :: u.wrote ++ u.stored.flatMap fun (a, v) => [a, v])

/-- A pair's bookkeeping when its leader retires an instruction: the fingerprint, what is forwarded to the shadow, and
after a sync point a new checkpoint (R402-R404). `own` says that the shadow executes it too. -/
def pairRetire (s : State) (tid : Nat) (k : Kind) (ops : List Opd) (pc : Addr) (own : Bool := true) : State :=
  match (s.task tid).pair, s.turn with
  | some p, some u =>
    let r := (s.task tid).r
    if k ≠ .plain || ops.any pushes then
      s.modTask tid fun t => { t with fifo := t.fifo ++ p.held
                                      pair := some { p with held := [], ckpt := r, agreed := false, popped := []
                                                            fwd := p.fwd ++ [{ r := some r, sync := true }] } }
    else
      let c := fingerprint p.crc pc u
      let n := p.retired + 1
      let f : Fwd := { insn := u.insn, len := u.len, took := u.took, r := if own then none else some r, crc := c }
      s.modTask tid fun t => { t with pair := some { p with retired := n, crc := c, fwd := p.fwd ++ [f], agreed := false
                                                            closed := n ≥ 256 || p.held.length ≥ 64 } }
  | _, _ => s

/-- The instruction that a leader has retired first and its shadow not yet is over for the shadow, which has these registers, this
fingerprint and this difference from it. -/
def shadowDone (s : State) (tid : Nat) (r : Regs) (c : Word) (bad : Bool) : State :=
  match (s.task tid).pair with
  | none => s
  | some p =>
    (s.modTask tid fun t => { t with r := r, pair := some { p with crc := c, bad := p.bad || bad } }).modTask p.other fun t =>
      { t with pair := t.pair.map fun q => { q with fwd := q.fwd.tail } }

/-- A shadow executes its leader's instruction on its own registers, and nothing else of what it does happens (R403); a fault or a
wait is a difference from its leader. -/
def shadowRun (s : State) (tid : Nat) (body : M State) : State :=
  let t := s.task tid
  match body with
  | .ok s' => (shadowDone s tid (s'.task tid).r
      (fingerprint ((t.pair.map (·.crc)).getD 0) t.r.pc (s'.turn.getD { tid := tid })) false).endTurn
  | .error _ => (shadowDone s tid t.r 0 true).endTurn

/-- An instruction has completed: what it waited on before is over, and so are values read early where it is more than a plain
one, or takes an element from a port (R216). -/
def retire (s : State) (tid : Nat) (k : Kind) (ops : List Opd) (pc : Addr) : State :=
  let ends := (k ≠ .plain && k ≠ .point) || ops.any isSrcPort
  ((pairRetire s tid k ops pc).modTask tid fun t =>
    { t with series := none, mark := none, stall := none, part := [], busy := false, early := if ends then [] else t.early }).endTurn

/-- A wait of an instruction that has begun and completes before a freeze (R381). -/
def finishesFirst (body : Nat → State → M State) (tid : Nat) (s : State) : M State :=
  match body tid s with
  | .error (.wait c f) => .error (.wait c fun s => (f s).modTask tid fun t => { t with busy := true })
  | r => r

/-- A paired thread's interval agrees before it parks (R402). -/
def mustAgree (s : State) (tid : Nat) : Bool := (s.task tid).pair.any fun p => p.leader && !p.agreed

/-- The executing context's privilege (R362). -/
def isFirmware (s : State) (tid : Nat) : Bool := (s.ctx (s.task tid).ctx).priv

/-- Issue an instruction of `len` bytes whose body sets the program counter: operand checks, privilege, port readiness,
the body; a fault halts the thread with its state as it was (R5, R49), a wait leaves it not ready (R44, R318). -/
def issueRaw (len : Nat) (k : Kind) (ops : List Opd) (body : Nat → State → M State) (s : State) : Res :=
  match s.turn with
  | none => .fault .noThread
  | some u =>
    let tid := u.tid
    let run : M State := do
      checkOperands s tid ops
      if k = .priv && !isFirmware s tid then fault PRIV
      if pairWaits s tid k ops then .error (.wait .opnd fun s => closeInterval s tid)
      readyNow s tid ops
      body tid s
    if (s.task tid).shadow then .next (shadowRun s tid (body tid s))
    else match run with
    | .ok s' => .next (retire s' tid k ops (s.task tid).r.pc)
    | .error (.trap c d) => .next (haltTask s tid { code := c, detail := d, len := len, insn := u.insn }).endTurn
    | .error (.wait c f) => .next ((f s).noteStall tid c).endTurn
    | .error (.gone f) => .next (if mustAgree s tid then (closeInterval s tid).noteStall tid .opnd else f s).endTurn

/-- Issue an instruction that goes on at the next one. -/
def issue (len : Nat) (k : Kind) (ops : List Opd) (body : Nat → State → M State) (s : State) : Res :=
  issueRaw len k ops (fun tid s => do
    let s ← body tid s
    .ok (s.advance tid len)) s

end Sys2Proof.Machine
end

