-- ==== Sys2Proof/Machine/Flags.lean ====
section
/-! DEFINITION. Flags and rounding modes of a thread (spec/04 R72-R82): the sticky flags, the mode an X code names, the
draw of a rounding, and the scalar operations' rounded results. -/

namespace Sys2Proof.Machine

/-- Flag(name), for a union of flags: bits are set and never cleared (R81). -/
def State.flag (s : State) (tid : Nat) (f : Flags) : State := s.modR tid fun r => { r with fflags := r.fflags ||| f }

/-- RM(xcode): the mode an X code names, FRM for 0 (R82, R87). -/
def rmOf (s : State) (tid x : Nat) : Nat := if x = 0 then (s.task tid).r.frm.toNat else x

/-- The draw of one rounding: taken under SR, and only then (R77, R78). -/
def drawFor (s : State) (tid rm : Nat) : BitVec 32 × State := if rm = 5 then srStep s tid else (0, s)

/-- A scalar result: the exact value rounded once in the mode FRM names, with one draw under SR (R107, R108). -/
def roundScalar (f : Fmt) (x : Exact) (s : State) (tid : Nat) : Word × State :=
  let rm := rmOf s tid 0
  let (r, s) := drawFor s tid rm
  let (v, fl) := fround f x.1 rm r
  (w64 v, s.flag tid (x.2 ||| fl))

end Sys2Proof.Machine
end

