-- ==== Sys2Proof/Machine/Notices.lean ====
section
/-! DEFINITION. Event records of a context (spec/14 R378) and lines coming to rest (spec/08 R204). -/

namespace Sys2Proof.Machine

/-- A context event (R378): the CSC of logical cluster 0 of the die writes it (log 8). -/
def postEvent (s : State) (ctx ty detail place addr die : Nat) : State :=
  if (mfind s.ctxs ctx).isNone then s
  else cscPush s (112 * die) (.event ctx (ty * 2^56 + detail * 2^48 + place % 2^38) (s.time die) addr)

/-- THID [43:31]:[5:0] of a thread (R378's PLACE). -/
def threadPlace (s : State) (tid : Nat) : Nat := corePlace (s.task tid).core * 2^6 + (s.task tid).slot.getD 0

/-- The virtual address at which a context's tables map a line of an unbacked page, or zero. -/
def ubAddr (s : State) (ctx l : Nat) : Nat :=
  match (s.leaves 0 ctx).find? fun t => bit t.word 57 && bits t.word 35 0 * 2^16 / 2^pageBits t.word == 128 * l / 2^pageBits t.word with
  | some t => t.base + 128 * l % 2^pageBits t.word
  | none => 0

/-- UB_EVICT (R203, R204): detail 1 FULL, 2 PIN, 3 POOL_EMPTY. -/
def postEvict (s : State) (ctx detail die l : Nat) : State :=
  postEvent s ctx 1 detail die (ubAddr s ctx l) (die % 8)

/-- The pin area of a die (R202). -/
def pinArea (die : Nat) : Nat := if die < 8 then 98304 else 65536

/-- Lines pinned at a die, of every context. -/
def pinsAt (s : State) (die : Nat) : Nat := (s.coh.ub.map fun e => (e.2.pinned.filter fun p => p.2.2 = die).length).sum

/-- Every 64-bit word of a line is poisoned. -/
def poisonLine (s : State) (l : Nat) : State := { s with poison := poisonSet s.poison (wordsOf (128 * l) 128) }

/-- The bytes of a line and their poison bits are those of another. -/
def copyLine (s : State) (src dst : Nat) : State :=
  let bad := (wordsOf (128 * src) 128).filter (poisonGet s.poison)
  let s := homeWrite s (128 * dst) (memBytes s.mem (128 * src) 128)
  { s with poison := poisonSet s.poison (bad.map fun w => w - 16 * src + 16 * dst) }

/-- A line of a bound page, at rest, is written to its frame through the frame's own home once that has gathered the frame's
line, and its bit is set; its tokens are its coherence home's (R205). -/
def bindLine (s : State) (l : Nat) : State :=
  match s.ub (ubName (128 * l)) with
  | none => s
  | some u => match u.bound with
    | none => s
    | some f =>
      let lf := lineOf f + u.index l
      if !(s.tok lf (homeAgent s lf)).mayWrite then s.askHome .getx lf
      else
        let s := (copyLine s l lf).modUb (ubName (128 * l)) fun u =>
          { u with written := mset u.written (u.index l) true, resting := merase u.resting (u.index l),
                   pinned := merase u.pinned (u.index l) }
        let d := (mfind u.resting (u.index l)).getD (((mfind u.pinned (u.index l)).map (·.2)).getD u.home)
        let t := s.tok l d
        if d = homeAgent s l then s else landTok (s.takeTok l d t) l (homeAgent s l) t

/-- A line of a bound page waits at rest to be written to its frame (R205). -/
def toFrame (s : State) (l : Nat) : Bool :=
  region (128 * l) == 8 && (s.ub (ubName (128 * l))).any fun u =>
    u.bound.isSome && ((mfind u.resting (u.index l)).isSome || (mfind u.pinned (u.index l)).isSome)

/-- The frame's line that a line at rest of a bound page is read from: its bit is set, and no agent has taken its owner (R205). -/
def frameOf (s : State) (l : Nat) : Option Nat :=
  match (if region (128 * l) = 8 && !toFrame s l then s.ub (ubName (128 * l)) else none) with
  | none => none
  | some u => match u.bound with
    | some f => if (mget false u.written (u.index l)) && (s.tok l (homeAgent s l)).owner then some (lineOf f + u.index l) else none
    | none => none

/-- A home about to answer for a line must first read its frame's, of which it has no token yet (R191, R205). -/
def frameWaits (s : State) (l : Nat) : Option Nat :=
  (frameOf s l).bind fun lf => if (s.tok lf (homeAgent s lf)).mayRead then none else some lf

/-- A line at rest in a frame has the frame's data (R205). -/
def readFrame (s : State) (l : Nat) : State :=
  match frameOf s l with
  | some lf => copyLine s lf l
  | none => s

/-- An access at a home reads what rests in a frame first (R205). -/
def needFrame (s : State) (l : Nat) : M State :=
  match frameWaits s l with
  | some lf => .error (.wait .token fun s => s.askHome .gets lf)
  | none => .ok (readFrame s l)

/-- The page's frame, of its size, from its context's backing pool. -/
def frameFor (s : State) (u : Unbacked) : Option (Nat × Nat) := (s.ctx u.ctx).bkpool.find? fun e => e.2 = u.size

/-- A page takes a frame: its lines leave L and the resting count, and what they leave has room for other pinned lines (R205). -/
def bindPage (s : State) (key : Nat) (u : Unbacked) (f : Nat × Nat) : State :=
  let s := s.modCtx u.ctx fun c => { c with bkpool := c.bkpool.erase f }
  let s := s.modUb key fun u => { u with bound := some f.1, written := [] }
  ((u.pinned.map (·.2.2) ++ u.resting.map (·.2)).eraseDups).foldl (fun s d => unpin s u.ctx d) s

/-- A line that finds no room in an evacuation goes to a frame if its page is LATE; else it is poisoned, and stays live with its
coherence home (R209, R211). -/
def noRoom (s : State) (l : Nat) (u : Unbacked) : State :=
  let key := ((s.ubPage (ubName (128 * l))).map (·.1)).getD 0
  match (if u.late then frameFor s u else none) with
  | some f => (bindPage s key u f).modUb key fun u => { u with resting := mset u.resting (u.index l) u.home }
  | none =>
    let t := s.tok l u.home
    let s := poisonLine s l
    if u.home = homeAgent s l then s else landTok (s.takeTok l u.home t) l (homeAgent s l) t

/-- A live line comes to rest in its page's resting store, from where one of a bound page goes to its frame (R204, R205). A pin
area without room is met in an evacuation only (R209). -/
def comeToRest (s : State) (l : Nat) : State :=
  match s.ub (ubName (128 * l)) with
  | none => s
  | some u =>
    let i := u.index l
    if !ubLive u l then s
    else if u.bound.isSome || restingAt s u.ctx u.home < resOf s u.ctx u.home then
      s.modUb (ubName (128 * l)) fun u => { u with resting := mset u.resting i u.home }
    else if pinsAt s u.home ≥ pinArea u.home && (mfind u.pinned i).isNone then noRoom s l u
    else
      let first := pinnedAt s u.ctx u.home == 0
      let n := s.coh.pins
      let s := s.modCoh fun c => { c with pins := n + 1 }
      let s := s.modUb (ubName (128 * l)) fun u =>
        { u with pinned := if (mfind u.pinned i).isSome then u.pinned else mset u.pinned i (n, u.home) }
      if first && (!u.late || (s.ctx u.ctx).bkpool.isEmpty) then postEvict s u.ctx (if u.late then 3 else 2) u.home l else s

/-- A line that its home has written comes to rest at once, as if an agent had just given up its owner (R203): its tokens go
to its resting store, or on to the requester that an ACT names there (R199). One whose resting store is lost stays with its
home. -/
def restHome (s : State) (l : Nat) : State :=
  let h := homeAgent s l
  match (if region (128 * l) = 8 then s.ub (ubName (128 * l)) else none) with
  | none => s
  | some u =>
    if !(s.tok l h).owner || !ubLive u l || s.coh.lostAgents.contains u.home then s
    else
      let t := s.tok l h
      let s := landTok (s.takeTok l h t) l u.home t
      if (s.tok l u.home).owner then comeToRest s l else s

end Sys2Proof.Machine
end

