-- ==== Sys2Proof/Machine/Queues.lean ====
section
/-! DEFINITION. Queues as their doorbell pages show them: reservation, kicks, status, resumption and abandonment (spec/13
R347-R355, R361). -/

namespace Sys2Proof.Machine

/-- Slots of a segment of 2^lg bytes (R347). -/
def segSlots (lg : Nat) : Nat := 2^lg / 128

/-- The device address of the slot with a sequence number, in the segment that holds it. -/
def slotAddr (q : Queue) (seq : Nat) : Option Nat :=
  (q.segs.find? fun (f, _, lg) => f ≤ seq && seq < f + segSlots lg).map fun (f, a, _) => a + 128 * (seq - f)

/-- A packet of sixteen words for a slot: its header and its words from 1 on (R356). -/
def packetBytes (seq ty : Nat) (ws : List Word) : List Byte :=
  toBytes 8 (seq % 2^32 * 2^32 + ty * 2^24) ++ ((List.range 15).flatMap fun i => toBytes 8 (ws.getD i 0).toNat)

/-- NOP packets into the slots from `seq` on. -/
def nopSlots (s : State) (q : Queue) (seq : Nat) : Nat → State
  | 0 => s
  | n + 1 =>
    nopSlots (match slotAddr q seq with
      | some a => homeWrite s a (packetBytes seq 0 [])
      | none => s) q (seq + 1) n

/-- Reserve(n) (R349): the reply and the state. -/
def reserveSlots (s : State) (qi : Nat) (n : Word) : Word × State :=
  if n = 0 || decide (n.toNat > 16) then (0xFFFFFFFFFFFFFFFE, s) else
  match mfind s.queues qi with
  | none => (0, s)
  | some q =>
    let take (q : Queue) (s : State) : Word × State :=
      (w64 (q.next % 2^32 * 2^32 + (slotAddr q q.next).getD 0 / 2^7 % 2^32),
       s.modQueue qi fun _ => { q with next := q.next + n.toNat })
    let u := match q.segs.getLast? with
      | some (f, _, lg) => f + segSlots lg - 1 - q.next
      | none => 0
    if u ≥ n.toNat then take q s
    else
      match (s.ctx q.ctx).segpool with
      | [] => (0xFFFFFFFFFFFFFFFF, s)
      | (a, lg) :: r =>
        let s := s.modCtx q.ctx fun c => { c with segpool := r }
        let s := nopSlots s q q.next u
        let s := match slotAddr q (q.next + u) with
          | some b => homeWrite s b (packetBytes (q.next + u) 5 [w64 a, w64 lg])
          | none => s
        take { q with next := q.next + u + 1, segs := q.segs ++ [(q.next + u + 1, a, lg)] } s

/-- Kick(k) (R351). A queue that waits for a thread keeps the place of its first kick (R346). -/
def kickQueue (s : State) (qi k : Nat) : State :=
  s.modQueue qi fun q =>
    let d := (k + 2^32 - q.rp % 2^32) % 2^32
    if d ≥ 2^31 then q
    else
      let c := min (q.rp + d) q.next
      if c > q.kick then { q with kick := c, kickAt := if q.kick > q.rp then q.kickAt else s.cycle } else q

/-- RESUME (R355): a failed WAIT is passed over. -/
def resumeQueue (s : State) (qi : Nat) : State :=
  s.modQueue qi fun q =>
    if q.st ≠ .stopped then q
    else if q.err = 2 then { q with st := .run, rp := q.rp + 1, crp := q.crp + 1, pkt := none, since := s.cycle }
    else { q with st := .run, pkt := none }

def Entry.ofLaunch (s : State) (l : Nat) : Entry → Bool
  | .task t => (s.task t).launch == some l
  | .range r => r.launch == l

def Entry.rangeOf (l : Nat) : Entry → Option Range
  | .range r => if r.launch = l then some r else none
  | .task _ => none

/-- The untaken part of a launch's ranges goes, and its indices are no longer awaited (R361 step 2, R297). -/
def dropLaunchRanges (s : State) (l : Nat) : State :=
  let keep (e : Entry) : Option Entry := match e with
    | .range r => if r.launch = l then none else some e
    | .task _ => some e
  let gone := s.cores.flatMap (fun e => e.2.entries.filterMap (Entry.rangeOf l)) ++
    s.net.steals.filterMap fun x => x.got.bind (Entry.rangeOf l)
  let s : State := { s with cores := s.cores.map fun e => (e.1, e.2.filterEntries keep) }
  let s := s.modNet fun n => { n with steals := n.steals.map fun x => { x with got := x.got.bind keep } }
  gone.foldl (fun s r => onRange s r.fut fun f => { f with left := f.left - (r.hi - r.lo) }) s

/-- A job or transfer that has not begun is cancelled: its future settles, its element is posted as cancelled by its
task's end. -/
def cancelSink (s : State) : Sink → State
  | .fut h => cancelH s h
  | _ => s

def abandonCluster (s : State) (l cl : Nat) : State :=
  let c := s.cluster cl
  let goneJobs := c.jobs.filter fun j => j.launch == some l && !j.running
  let goneXf := c.xfers.filter fun x => x.launch == some l && !x.touched
  let s := s.modCluster cl fun c =>
    { c with jobs := c.jobs.filter fun j => !(j.launch == some l && !j.running)
             xfers := c.xfers.filter fun x => !(x.launch == some l && !x.touched) }
  let s := goneXf.foldl (fun s x => cancelSink s x.sink) (goneJobs.foldl (fun s j => cancelSink s j.sink) s)
  let c := s.cluster cl
  let left := ((c.futs.map (·.2)) ++ c.spilled).filter fun f => f.launch == some l && f.st = .pending
  left.foldl (fun s f => poisonH s (futHandle s cl f) LAUNCH_ABORT) s

/-- A launch is abandoned with its STATUS (R361): tasks that have held a slot are killed, the rest is cancelled, and its
PENDING futures are poisoned. One that is being placed has no task; its retirement writes the record. -/
def abandonLaunch (s : State) (l status : Nat) : State :=
  match mfind s.launches l with
  | none => s
  | some x =>
    if x.abandon.isSome || x.st = .retired then s else
    let s := s.modLaunch l fun x => { x with abandon := some status }
    let mine := (s.tasks.filter fun e => e.2.launch == some l && !ended e.2).map (·.1)
    let s := mine.foldl (fun s t => if (s.task t).started then killTask s t LAUNCH_ABORT else s) s
    let s := mine.foldl (fun s t => if ended (s.task t) then s else endTask s t .cancelled) s
    let s := dropLaunchRanges s l
    let caps := s.net.caps.filter fun m => m.job.launch == some l
    let s := s.modNet fun n => { n with caps := n.caps.filter fun m => m.job.launch != some l }
    let s := caps.foldl (fun s m => cancelSink s m.job.sink) s
    s.clusters.foldl (fun s e => abandonCluster s l e.1) s

/-- ABANDON of a TAG: every live launch of the queue that holds it (R361). -/
def abandonTag (s : State) (qi tag : Nat) : State :=
  let hit := (s.launches.filter fun e => e.2.queue == qi && decide (e.2.st ≠ .retired) && bits (e.2.w 12) 31 0 == tag).map (·.1)
  hit.foldl (fun s l => abandonLaunch s l 4) s

/-- A write of QCTL (R353); with another bit set it has no effect. -/
def writeQctl (s : State) (qi : Nat) (v : Word) : State :=
  if bits v 31 2 ≠ 0 then s else
  let s := if bit v 0 then resumeQueue s qi else s
  if bit v 1 then abandonTag s qi (bits v 63 32) else s

def qstCode : QState → Nat
  | .run => 0
  | .waiting => 1
  | .timed => 2
  | .stopped => 3
  | .placing => 4

/-- QSTAT (R355). -/
def qstat (q : Queue) : Word :=
  w64 (q.err * 2^40 + min q.live.length 255 * 2^32 + (if q.reclost then 16 else 0) + (if q.mapped then 8 else 0) + qstCode q.st)

/-- A read of a doorbell register (R353). -/
def readDoor (s : State) (qi off : Nat) : Word :=
  match mfind s.queues qi with
  | none => 0
  | some q =>
    match off with
    | 0 => w64 (q.kick % 2^32)
    | 8 => w64 (q.next % 2^32)
    | 16 => w64 (q.crp % 2^32)
    | 24 => qstat q
    | _ => 0

/-- The queue and register offset that a region 0x4 address names, if its other offset bits are zero (R354). -/
def doorPlace (dpa : Nat) : Option (Nat × Nat) :=
  let o := dpa % 2^48
  if o / 2^28 = 0 && o / 2^12 % 16 = 0 then some (o / 2^16 % 2^12, o % 2^12) else none

/-- A device thread's store to region 0x4 performs at the hub (R354). -/
def doorStore (s : State) (dpa : Nat) (v : Word) : State :=
  match doorPlace dpa with
  | some (q, 0) => if bits v 63 32 = 0 then kickQueue s q (bits v 31 0) else s
  | some (q, 32) => writeQctl s q v
  | _ => s

end Sys2Proof.Machine
end

