-- ==== Sys2Proof/Machine/Memory.lean ====
section
/-! DEFINITION. Plain, typed, acquiring and releasing loads and stores, fences and prefetches (spec/10 R240-R251). -/

namespace Sys2Proof.Machine

/-- R242 steps 1 and 3 for an n-byte access: the pointer's zero bits and the address's alignment. -/
def checkPtr (p : Word) (va n : Nat) : M Unit := do
  if ptrBad p then faultAt BAD_POINTER va
  if va % n ≠ 0 then faultAt MISALIGN va

/-- The address of a plain access: its base register's pointer plus the offset, checked (R240-R242). -/
def plainAddr (s : State) (tid a : Nat) (off : Word) (n : Nat) : M (Nat × State) := do
  let (p, s) ← readReg s tid a
  checkPtr p (eaOf p off) n
  .ok (eaOf p off, s)

/-- LDD of region 0x4 (R354): after the thread's own stores to it, a doorbell register. -/
def loadDoor (s : State) (tid va dpa : Nat) : M (Nat × State) :=
  let t := s.task tid
  match doorPlace dpa with
  | some (q, off) =>
    if off = 0 || off = 8 || off = 16 || off = 24 then
      (if (ownStores t).any fun x => match x.dest with | .door _ => true | _ => false then waitOwn tid .opnd
       else .ok ((readDoor s q off).toNat, s))
    else faultAt BAD_POINTER va
  | none => faultAt BAD_POINTER va

/-- Mem[a, n] for a plain load, which may perform early (R216): LDD alone reaches region 0x4 (R245, R354). -/
def loadAny (s : State) (tid va n : Nat) : M (Nat × State) :=
  if n ≠ 8 || isWin va || (s.task tid).shadow then loadVa s tid va n true else
  match xlPlace s tid va .rd with
  | .ok (.mem dpa _, s') => if region dpa = 4 then outsideNat s tid (loadDoor s' tid va dpa) else loadVa s tid va n true
  | .ok _ => loadVa s tid va n true
  | .error e => .error e

/-- A plain store: STD alone reaches region 0x4 (R245, R354). -/
def storeAny (s : State) (tid va : Nat) (bs : List Byte) : M State :=
  if bs.length ≠ 8 || isWin va || (s.task tid).shadow then storeVa s tid va bs else
  match xlPlace s tid va .wr with
  | .ok (.mem dpa e, s') =>
    if region dpa = 4 then
      match doorPlace dpa with
      | some (_, 0) => storePlace s' tid (.mem dpa e) va bs
      | some (_, 32) => storePlace s' tid (.mem dpa e) va bs
      | _ => faultAt BAD_POINTER va
    else storeVa s tid va bs
  | .ok _ => storeVa s tid va bs
  | .error e => .error e

/-- A plain load (R244, R245): `ext` makes the register's value of the bytes. -/
def loadOp (len d a : Nat) (off : Word) (n : Nat) (ext : Nat → Word) : State → Res :=
  issue len .plain [.dst d, .src a] fun tid s => do
    let (va, s) ← plainAddr s tid a off n
    let (v, s) ← loadAny s tid va n
    writeReg s tid d (ext v)

/-- A plain store (R244, R245): the data in the rd field, read first (R43). -/
def storeOp (len d a : Nat) (off : Word) (n : Nat) : State → Res :=
  issue len .plain [.src d, .src a] fun tid s => do
    let (v, s) ← readReg s tid d
    let (va, s) ← plainAddr s tid a off n
    storeAny s tid va (toBytes n v.toNat)

/-- An offset field counted in units of n bytes, sign-extended. -/
def scaledOff {w : Nat} (o : BitVec w) (n : Nat) : Word := BitVec.ofInt 64 (o.toInt * n)

def execLdb (d a : BitVec 7) (o : BitVec 6) (s : State) : Res := loadOp 4 d.toNat a.toNat (scaledOff o 1) 1 (sext 8) s
def execLdbu (d a : BitVec 7) (o : BitVec 6) (s : State) : Res := loadOp 4 d.toNat a.toNat (scaledOff o 1) 1 w64 s
def execLdh (d a : BitVec 7) (o : BitVec 6) (s : State) : Res := loadOp 4 d.toNat a.toNat (scaledOff o 2) 2 (sext 16) s
def execLdhu (d a : BitVec 7) (o : BitVec 6) (s : State) : Res := loadOp 4 d.toNat a.toNat (scaledOff o 2) 2 w64 s
def execLdw (d a : BitVec 7) (o : BitVec 6) (s : State) : Res := loadOp 4 d.toNat a.toNat (scaledOff o 4) 4 (sext 32) s
def execLdwu (d a : BitVec 7) (o : BitVec 6) (s : State) : Res := loadOp 4 d.toNat a.toNat (scaledOff o 4) 4 w64 s
def execLdd (d a : BitVec 7) (o : BitVec 6) (s : State) : Res := loadOp 4 d.toNat a.toNat (scaledOff o 8) 8 w64 s
def execStb (d a o : BitVec 7) (s : State) : Res := storeOp 4 d.toNat a.toNat (scaledOff o 1) 1 s
def execSth (d a o : BitVec 7) (s : State) : Res := storeOp 4 d.toNat a.toNat (scaledOff o 2) 2 s
def execStw (d a o : BitVec 7) (s : State) : Res := storeOp 4 d.toNat a.toNat (scaledOff o 4) 4 s
def execStd (d a o : BitVec 7) (s : State) : Res := storeOp 4 d.toNat a.toNat (scaledOff o 8) 8 s

def execLdbLong (d a : BitVec 7) (i : BitVec 32) (s : State) : Res := loadOp 8 d.toNat a.toNat (i.signExtend 64) 1 (sext 8) s
def execLdbuLong (d a : BitVec 7) (i : BitVec 32) (s : State) : Res := loadOp 8 d.toNat a.toNat (i.signExtend 64) 1 w64 s
def execLdhLong (d a : BitVec 7) (i : BitVec 32) (s : State) : Res := loadOp 8 d.toNat a.toNat (i.signExtend 64) 2 (sext 16) s
def execLdhuLong (d a : BitVec 7) (i : BitVec 32) (s : State) : Res := loadOp 8 d.toNat a.toNat (i.signExtend 64) 2 w64 s
def execLdwLong (d a : BitVec 7) (i : BitVec 32) (s : State) : Res := loadOp 8 d.toNat a.toNat (i.signExtend 64) 4 (sext 32) s
def execLdwuLong (d a : BitVec 7) (i : BitVec 32) (s : State) : Res := loadOp 8 d.toNat a.toNat (i.signExtend 64) 4 w64 s
def execLddLong (d a : BitVec 7) (i : BitVec 32) (s : State) : Res := loadOp 8 d.toNat a.toNat (i.signExtend 64) 8 w64 s
def execStbLong (d a : BitVec 7) (i : BitVec 32) (s : State) : Res := storeOp 8 d.toNat a.toNat (i.signExtend 64) 1 s
def execSthLong (d a : BitVec 7) (i : BitVec 32) (s : State) : Res := storeOp 8 d.toNat a.toNat (i.signExtend 64) 2 s
def execStwLong (d a : BitVec 7) (i : BitVec 32) (s : State) : Res := storeOp 8 d.toNat a.toNat (i.signExtend 64) 4 s
def execStdLong (d a : BitVec 7) (i : BitVec 32) (s : State) : Res := storeOp 8 d.toNat a.toNat (i.signExtend 64) 8 s

def execLddCompact (a b : BitVec 5) (s : State) : Res := loadOp 2 a.toNat b.toNat 0 8 w64 s
def execStdCompact (a b : BitVec 5) (s : State) : Res := storeOp 2 a.toNat b.toNat 0 8 s
def execLdwCompact (a b : BitVec 5) (s : State) : Res := loadOp 2 a.toNat b.toNat 0 4 (sext 32) s
def execLddG2Compact (a i : BitVec 5) (s : State) : Res := loadOp 2 a.toNat 2 (w64 (8 * i.toNat)) 8 w64 s
def execStdG2Compact (a i : BitVec 5) (s : State) : Res := storeOp 2 a.toNat 2 (w64 (8 * i.toNat)) 8 s
def execLdwG2Compact (a i : BitVec 5) (s : State) : Res := loadOp 2 a.toNat 2 (w64 (4 * i.toNat)) 4 (sext 32) s
def execStwG2Compact (a i : BitVec 5) (s : State) : Res := storeOp 2 a.toNat 2 (w64 (4 * i.toNat)) 4 s

/-! ## Typed elements (R247, R248) -/

/-- R242 steps 1 and 2 for a typed access. -/
def checkTyped (p : Word) (va : Nat) : M Unit := do
  if ptrBad p then faultAt BAD_POINTER va
  if fmtBad p then faultAt BAD_FORMAT va

/-- Bytes of an unscaled element; a nibble's is one (R70, R241). -/
def elemSize (code : Nat) : Nat := if code = 0 then 8 else if code = 2 then 1 else elemBits code / 8

/-- The address of an unscaled element (R70, R247). -/
def elemAddr (p : Word) (code i : Nat) : Nat :=
  (vaOf p + (if code = 2 then i / 2 else elemSize code * i)) % 2^52

/-- The bytes that a thread's unaligned access has read so far are kept while it waits. -/
def keepPart (tid : Nat) (now s : State) : State :=
  { s with freeIdx := now.freeIdx }.modTask tid fun t => { t with part := (now.task tid).part }

/-- A byte that the access has read already, or reads now as an access of its own: any other may come before it, so the thread
may leave its turn first (R212; where it does is free, log 41). -/
def loadByteOnce (s : State) (tid va : Nat) : M (Byte × State) :=
  match mfind (s.task tid).part va with
  | some b => .ok (b, s)
  | none =>
    let (f, s) := s.free
    if !(s.task tid).part.isEmpty && f % 2 = 1 then .error (.wait .port (keepPart tid s))
    else match loadOnce s tid va 1 with
      | .ok (b, s) => .ok (BitVec.ofNat 8 b, s.modTask tid fun t => { t with part := mset t.part va (BitVec.ofNat 8 b) })
      | .error (.wait c f) => .error (.wait c fun s0 => f (keepPart tid s s0))
      | .error e => .error e

/-- The same, which a pair's shadow takes from its leader (R403). -/
def loadByte (s : State) (tid va : Nat) : M (Byte × State) := do
  let (v, s) ← outside s tid ((loadByteOnce s tid va).map fun x => (w64 x.1.toNat, x.2))
  .ok (BitVec.ofNat 8 v.toNat, s)

/-- Bytes read one at a time, in ascending address (R212). -/
def loadBytes (s : State) (tid va : Nat) : Nat → M (List Byte × State)
  | 0 => .ok ([], s)
  | n + 1 => do
    let (b, s) ← loadByte s tid va
    let (r, s) ← loadBytes s tid ((va + 1) % 2^52) n
    .ok (b :: r, s)

/-- A scaled element (R69, R247): its scale byte and its own bytes, read at one instant, the scale again with each retry (one of the
orders R247 allows; DESIGN CHOICE, log 44). -/
def loadScaled (s : State) (tid : Nat) (p : Word) (i : Nat) : M (FVal × State) := do
  let code := ptrFmt p
  let l := ptrL p
  let n := blockLen code l
  let k := elemBits code
  let rec0 := (vaOf p + i / n * recordSize code l) % 2^52
  let bitAt := i % n * k
  let (scale, s) ← loadVa s tid rec0 1
  let cnt := (bitAt % 8 + k + 7) / 8
  let (bs, s) ← loadBytes s tid ((rec0 + 1 + bitAt / 8) % 2^52) cnt
  .ok (deqElem code scale (leVal bs / 2^(bitAt % 8) % 2^k), s)

/-- A float register value from an exact one: NaNs canonical, NV for a signalling one (R247). -/
def typedFloat (s : State) (tid : Nat) (x : FVal) : Word × State :=
  (w64 (fround FP64 x 1 0).1, if x.isSNan then s.flag tid NV else s)

/-- The register's value of an unscaled element's bytes (R247). -/
def ldtWord (s : State) (tid code i v : Nat) : Word × State :=
  match code with
  | 0 => (w64 v, s)
  | 1 => (sext 8 v, s)
  | 2 => (sext 4 (v / 16^(i % 2) % 16), s)
  | _ => typedFloat s tid (fval (codeFmt code) v)

/-- LDT (R247). -/
def execLdt (d a b : BitVec 7) (s : State) : Res :=
  issue 4 .plain [.dst d.toNat, .src a.toNat, .src b.toNat] (fun tid s => do
    let (p, s) ← readReg s tid a.toNat
    let (i, s) ← readReg s tid b.toNat
    let code := ptrFmt p
    let va := elemAddr p code i.toNat
    checkTyped p (if isScaled code then vaOf p else va)
    if isScaled code then
      let (x, s) ← loadScaled s tid p i.toNat
      let (v, s) := typedFloat s tid x
      writeReg s tid d.toNat v
    else
      checkPtr p va (elemSize code)
      let (v, s) ← loadVa s tid va (elemSize code) true
      let (w, s) := ldtWord s tid code i.toNat v
      writeReg s tid d.toNat w) s

/-- The bits STT writes for an unscaled code, with its flags and draw (R248). -/
def sttBits (s : State) (tid code : Nat) (v : Word) : Nat × State :=
  match code with
  | 0 => (v.toNat, s)
  | 1 => let w := sat v.toInt (-128) 127; ((BitVec.ofInt 8 w).toNat, if w ≠ v.toInt then s.flag tid OF else s)
  | 2 => let w := sat v.toInt (-8) 7; ((BitVec.ofInt 4 w).toNat, if w ≠ v.toInt then s.flag tid OF else s)
  | 8 =>
    let x := fval FP64 v.toNat
    (if x.isNan then FP64.nan else v.toNat, if x.isSNan then s.flag tid NV else s)
  | _ =>
    let rm := rmOf s tid 0
    let (r, s) := drawFor s tid rm
    let (w, fl) := fround (codeFmt code) (fval FP64 v.toNat) rm r
    (w, s.flag tid fl)

/-- A place for a read and then a write of the same byte (R248's INT4 store). -/
def sttNibble (s : State) (tid va hi : Nat) (w : Nat) : M State := do
  let (pl, s') ← if (s.task tid).shadow then .ok (Place.zero, s) else placeOf s tid va 1 .rw
  let (old, s) ← outsideNat s tid ((loadPlace s' tid pl va 1).map fun x => (leVal x.1, x.2))
  let put := [BitVec.ofNat 8 (if hi = 1 then old % 16 + 16 * w else old / 16 * 16 + w)]
  if (s.task tid).shadow then .ok (s.storedAt va put) else storePlace s tid pl va put

/-- STT (R248). -/
def execStt (d a b : BitVec 7) (s : State) : Res :=
  issue 4 .plain [.src d.toNat, .src a.toNat, .src b.toNat] (fun tid s => do
    let (v, s) ← readReg s tid d.toNat
    let (p, s) ← readReg s tid a.toNat
    let (i, s) ← readReg s tid b.toNat
    let code := ptrFmt p
    let va := if isScaled code then vaOf p else elemAddr p code i.toNat
    checkTyped p va
    if isScaled code then faultAt BAD_FORMAT va
    checkPtr p va (elemSize code)
    let (w, s) := sttBits s tid code v
    if code = 2 then sttNibble s tid va (i.toNat % 2) w
    else storeVa s tid va (toBytes (elemSize code) w)) s

/-! ## Acquires, releases and fences (R246, R249, R250) -/

/-- LDA (R246): performed in program order at issue, it is an acquire at every scope but .t, past which no load performs early
(R216, R221); at .t it is a plain load. -/
def execLda (d a : BitVec 7) (c : BitVec 3) (s : State) : Res :=
  issue 4 .plain [.dst d.toNat, .src a.toNat] (fun tid s => do
    let (va, s) ← plainAddr s tid a.toNat 0 8
    let (v, s) ← loadVa (if c = 0 then s else dropEarly s tid) tid va 8 (c == 0)
    writeReg s tid d.toNat (w64 v)) s

/-- STREL (R246): the store enters the FIFO with its scope, and leaves it once R220's conditions hold. -/
def execStrel (d a : BitVec 7) (c : BitVec 3) (s : State) : Res :=
  issue 4 .point [.src d.toNat, .src a.toNat] (fun tid s => do
    let (v, s) ← readReg s tid d.toNat
    let (va, s) ← plainAddr s tid a.toNat 0 8
    let (pl, s) ← placeOf s tid va 8 .wr
    storePlace s tid pl va (toBytes 8 v.toNat) (some c.toNat)) s

/-- FENCE (R249): at .t it has no effect (R222). -/
def execFence (c : BitVec 3) (s : State) : Res :=
  issue 4 (if c = 0 then .point else .sync) [] (fun tid s => do
    needRel s tid c.toNat
    .ok s) s

/-- IFENCE (R232, R250): the fetch buffer goes, and every cached block that a visible store has changed. -/
def execIfence (s : State) : Res :=
  issue 4 .sync [] (fun tid s => do
    needFifo s tid
    let k := (s.task tid).core
    let s := s.modTask tid fun t => { t with fbuf := [] }
    .ok (s.modCore k fun c => { c with icache := c.icache.filter fun e => e.2 == visBytes s (dieOfCore k) (64 * e.1) 64 })) s

/-- The memory-side cache of a line's home asks for it, if it has one (R251). -/
def prefetchMsc (s : State) (r : Req) (l : Nat) : State :=
  let h := homeAgent s l
  if 16 ≤ h && h < 24 && lineAttr s l ≠ 1 && !(s.tok l (h - 8)).mayRead then s.ask r l (h - 8) else s

/-- A first-level fill that waits for its line goes on when the line is there. -/
def prefetchL1 (s : State) (k dpa : Nat) (e : Word) (lvl : Nat) (ready : Bool) : State :=
  if lvl ≠ 0 then s
  else if ready then l1Fill s k dpa e
  else s.modCore k fun c => { c with l1Wait := if c.l1Wait.contains (dpa / 64) then c.l1Wait else c.l1Wait ++ [dpa / 64] }

/-- PREF (R251): a request for the line, placed where LVL says, or nothing: a malformed pointer, region 0xF or 0x4, a page that
misses both TLBs, is not present or forbids the access that X asks for, or no free miss register. -/
def prefetch (s : State) (tid : Nat) (p : Word) (va lvl : Nat) (x : Bool) : State :=
  let k := (s.task tid).core
  let die := dieOfCore k
  let r : Req := if x then .getx else .gets
  if ptrBad p || isWin va then s else
  match xlThread s tid va (if x then .wr else .rd) with
  | (.hit dpa e, s') =>
    let l := lineOf dpa
    let ready := if x then (s'.tok l die).mayWrite else (s'.tok l die).mayRead
    if region dpa = 4 || isUncached e dpa || deadPlace s' dpa then s'
    else if lvl = 2 then (if missFull s' k l then s' else prefetchMsc s' r l)
    else if ready then prefetchL1 s' k dpa e lvl true
    else if missFull s' k l then s'
    else prefetchL1 (missAsk s' r l k) k dpa e lvl false
  | _ => s

def prefOp (len : Nat) (k : Kind) (a : Nat) (off : Word) (lvl x : Nat) : State → Res :=
  issue len k [.src a] fun tid s => do
    let (p, s) ← readReg s tid a
    .ok (prefetch s tid p (eaOf p off) lvl (x == 1))

def execPref (a : BitVec 7) (l : BitVec 2) (x : BitVec 1) (s : State) : Res := prefOp 4 .plain a.toNat 0 l.toNat x.toNat s
def execPrefLong (a : BitVec 7) (l : BitVec 2) (x : BitVec 1) (i : BitVec 32) (s : State) : Res :=
  prefOp 8 .plain a.toNat (i.signExtend 64) l.toNat x.toNat s

end Sys2Proof.Machine
end

