-- ==== Sys2Proof/Machine/Atomic.lean ====
section
/-! DEFINITION. Atomics, locks, stash mappings, write-back, discard and unbacked pages (spec/10 R252-R262). -/

namespace Sys2Proof.Machine

/-! ## AMO and AMOF (R252, R253) -/

/-- The new value of an AMO op code 0 to 9 (R37, R252). -/
def amoNew (op : Nat) (old v next : Word) : Word :=
  match op with
  | 0 => old + v
  | 1 => old &&& v
  | 2 => old ||| v
  | 3 => old ^^^ v
  | 4 => if old.slt v then old else v
  | 5 => if old.slt v then v else old
  | 6 => if old.ult v then old else v
  | 7 => if old.ult v then v else old
  | 8 => v
  | _ => if old = v then next else old

/-- The operand fields of an atomic: a compare and swap names two registers (R34, R254). -/
def amoOpds (cas : Bool) (d a : Nat) : List Opd := [if cas then .casPair d else .strict d, .src a]

/-- Order codes 2 and 3 release (R37). -/
def amoReleases (r : Nat) : Bool := r ≥ 2

/-- One step at an agent that holds the line whole (R223, R243, R252): the old value and the state. -/
def amoAt (s : State) (tid agent va dpa op d : Nat) : M (Word × State) :=
  match poisonIn s.poison dpa 8 with
  | some _ => faultAt DATA_POISON va
  | none =>
    match noteAmo s tid dpa with
    | .error e => .error e
    | .ok s =>
      let old := w64 (leVal (memBytes s.mem dpa 8))
      let new := amoNew op old (s.g tid d) (s.g tid (d + 1))
      .ok (old, (commit s agent dpa (toBytes 8 new.toNat)).storedAt va (toBytes 8 new.toNat))

/-- Whether a die's order still holds a store to a line. -/
def lineQueued (s : State) (die l : Nat) : Bool := (s.die die).order.any fun x => lineOf x.dpa == l

/-- An atomic of region 0x3 is made at the peer, whose answer is the old value (R422). -/
def atPeer (s : State) (tid va dpa op : Nat) (v next : Word) : M State :=
  if region dpa ≠ 3 then .ok s
  else if peerDead s (0, tid) 14 dpa 8 then faultAt DEAD va
  else match peerTaken s (0, tid) 14 dpa 8 with
    | some s => .ok s
    | none => .error (.wait .token fun s => peerAsk s (s.task tid).ctx (0, tid) 14 dpa 8 [w64 op, v, next])

/-- The atomic operation on translated memory: near, in the die's second-level cache, or far, at the line's home (R253); after
the die's stores to the line (R217, R223). -/
def amoMem (s : State) (tid va dpa op d : Nat) (far uncached : Bool) : M (Word × State) := do
  let k := (s.task tid).core
  let die := dieOfCore k
  let l := lineOf dpa
  if lineQueued s die l then .error (.wait .token fun s => performDie s die)
  if far || region dpa == 3 then
    needHome s l
    let s := settleOuts s l (homeAgent s l)
    let s ← needFrame s l
    let s ← atPeer s tid va dpa op (s.g tid d) (s.g tid (d + 1))
    let (v, s) ← amoAt s tid (homeAgent s l) va dpa op d
    .ok (v, restHome (noteVisible s die dpa 8) l)
  else
    needWrite s l k
    let (v, s) ← amoAt s tid die va dpa op d
    let s := takeBack (noteVisible s die dpa 8) die l none
    .ok (v, if uncached then returnHome s l die else s)

/-- AMO and AMOF: the FIFO empty first (R223), the release conditions under .rel and .ar (R220). -/
def amoOp (d a op ord scope : Nat) (far : Bool) : State → Res :=
  issue 4 .sync (amoOpds (op == 9) d a) fun tid s => do
    let (p, s) ← readReg (dropEarly s tid) tid a
    let va := vaOf p
    if ptrBad p || isWin va then faultAt BAD_POINTER va
    if va % 8 ≠ 0 then faultAt MISALIGN va
    let (pl, s) ← placeOf s tid va 8 .rw (door := true)
    match pl with
    | .mem dpa e =>
      if region dpa = 4 then
        match far && op == 0 && scope == 5, doorPlace dpa with
        | true, some (q, 8) =>
          needFifo s tid
          if amoReleases ord then needRel s tid scope
          let (v, s) := reserveSlots s q (s.g tid d)
          writeReg s tid d v
        | _, _ => faultAt BAD_POINTER va
      else
        needFifo s tid
        if amoReleases ord then needRel s tid scope
        let (v, s) ← amoMem s tid va dpa op d far (isUncached e dpa)
        writeReg s tid d v
    | _ => faultAt PAGE_ABSENT va

def execAmo (d a : BitVec 7) (o : BitVec 4) (r : BitVec 2) (c : BitVec 3) (s : State) : Res :=
  amoOp d.toNat a.toNat o.toNat r.toNat c.toNat false s
def execAmof (d a : BitVec 7) (o : BitVec 4) (r : BitVec 2) (c : BitVec 3) (s : State) : Res :=
  amoOp d.toNat a.toNat o.toNat r.toNat c.toNat true s

/-! ## Operations at a port: SPAMO, LDLK, STUL (R254-R256) -/

/-- SPAMO's op codes as AMO's (R37): min and max signed, swap, cas. -/
def spOp (o : Nat) : Nat :=
  match o with
  | 0 => 0 | 1 => 1 | 2 => 2 | 3 => 3 | 4 => 4 | 5 => 5 | 6 => 8 | _ => 9

/-- The place of an aligned 8-byte word at a window address; a translated address is no pointer for these (R254, R255). -/
def portWord (s : State) (tid : Nat) (p : Word) (kind : Nat) : M (Nat × Nat) := do
  let va := vaOf p
  if ptrBad p || !isWin va then faultAt BAD_POINTER va
  if va % 8 ≠ 0 then faultAt MISALIGN va
  portPlace s tid va 8 kind

def portPoison (s : State) (tid k o va : Nat) : M Unit :=
  match uaPoisonIn s k (s.task tid).ctx o 8 with
  | some _ => faultAt DATA_POISON va
  | none => .ok ()

def execSpamo (d a : BitVec 7) (o : BitVec 3) (s : State) : Res :=
  issue 4 .sync (amoOpds (o == 7) d.toNat a.toNat) (fun tid s => do
    let (p, s) ← readReg s tid a.toNat
    let (k, off) ← portWord s tid p 1
    portPoison s tid k off (vaOf p)
    let t := s.task tid
    let old := uaWord s k t.ctx off
    let new := amoNew (spOp o.toNat) old (s.g tid d.toNat) (s.g tid (d.toNat + 1))
    let s := portWrote (uaPutWord s k t.ctx off new) k 1 8 t.core off
    writeReg (s.storedAt (vaOf p) (toBytes 8 new.toNat)) tid d.toNat old) s

/-- The bank and lock bit of a scratchpad word, as a key (R255). -/
def lockKey (o : Nat) : Nat :=
  16 * (o / 8 % 16) + ((o / 2^7 % 16) ^^^ (o / 2^11 % 16) ^^^ (o / 2^15 % 16))

/-- A refused request joins its bank's queue, at most 16 of them, or is made again after 64 cycles (R256). -/
def queueLock (s : State) (tid k key : Nat) : State :=
  let q := mget [] (s.core k).lockQ (key / 16)
  if q.any fun r => r.tid == tid then s
  else if q.length ≥ 16 then s.modTask tid fun t => { t with lockRetry := some (s.cycle + 64) }
  else s.modCore k fun c => { c with lockQ := mset c.lockQ (key / 16) (q ++ [{ bit := key % 16, tid := tid }]) }

/-- The bit goes to the task: granted from the queue, or free and wanted by no older request (R255, R256). -/
def takeLock (c : Core) (tid key : Nat) : Core :=
  { c with locks := mset c.locks key tid
           lockQ := mput [] c.lockQ (key / 16) ((mget [] c.lockQ (key / 16)).filter fun r => r.tid != tid) }

/-- A request of the task for this bit that a freed bit has gone to. -/
def lockGranted (c : Core) (tid key : Nat) : Bool :=
  (mget [] c.lockQ (key / 16)).any fun r => r.tid == tid && r.bit == key % 16 && r.granted

def execLdlk (d a : BitVec 7) (s : State) : Res :=
  issue 4 .sync [.dst d.toNat, .src a.toNat] (fun tid s => do
    let (p, s) ← readReg s tid a.toNat
    let (k, off) ← portWord s tid p 5
    if (s.task tid).lockRetry.isSome then hold .port
    if locksHeld s tid ≥ 4 && !lockGranted (s.core k) tid (lockKey off) then faultAt LOCK_STATE (vaOf p)
    let c := s.core k
    let key := lockKey off
    let got := lockGranted c tid key
    match mfind c.locks key with
    | some h => if h = tid && !got then faultAt LOCK_STATE (vaOf p)
                else if h = tid then .ok ()
                else .error (.wait .port fun s => queueLock s tid k key)
    | none => .ok ()
    portPoison s tid k off (vaOf p)
    let t := s.task tid
    let v := uaWord s k t.ctx off
    let s := portWrote (s.modCore k fun c => takeLock c tid key) k 5 8 t.core off
    writeReg s tid d.toNat v) s

def execStul (d a : BitVec 7) (s : State) : Res :=
  issue 4 .sync [.src d.toNat, .src a.toNat] (fun tid s => do
    let (v, s) ← readReg s tid d.toNat
    let (p, s) ← readReg s tid a.toNat
    let (k, off) ← portWord s tid p 5
    let key := lockKey off
    if mfind (s.core k).locks key ≠ some tid || lockGranted (s.core k) tid key then faultAt LOCK_STATE (vaOf p)
    needRel s tid 4
    let t := s.task tid
    let s := portWrote (uaPutWord s k t.ctx off v) k 5 8 t.core off
    .ok ((s.modCore k fun c => grantLock c (key / 16) (key % 16)).storedAt (vaOf p) (toBytes 8 v.toNat))) s

/-! ## Stash mappings (R257-R259) -/

/-- STASH's status code (R257), for the executing context's partition, if any. -/
def stashCode (part : Option Part) (p w : Word) : Nat :=
  let o := bits w 18 0
  let n := bits w 63 32
  match part with
  | none => 3
  | some q =>
    if n = 0 || o % 128 ≠ 0 || n % 128 ≠ 0 || vaOf p % 128 ≠ 0 || decide (o + n > q.size) || isWin (vaOf p) ||
        bits w 31 19 ≠ 0 || ptrBad p then 3
    else if q.stash.any fun m => decide (m.off < o + n) && decide (o < m.off + m.len) then 1
    else if q.stash.length ≥ 16 then 2
    else 0

def modPart (c : Core) (ctx : Nat) (f : Part → Part) : Core :=
  { c with parts := c.parts.map fun p => if p.ctx = ctx then f p else p }

def execStash (d a b : BitVec 7) (s : State) : Res :=
  issue 4 .sync [.dst d.toNat, .src a.toNat, .src b.toNat] (finishesFirst fun tid s => do
    needFifo s tid
    let (p, s) ← readReg s tid a.toNat
    let (w, s) ← readReg s tid b.toNat
    let t := s.task tid
    let code := stashCode (partOf (s.core t.core) t.ctx) p w
    let m : Stash := { off := bits w 18 0, va := vaOf p, len := bits w 63 32 }
    let s := if code = 0 then s.modCore t.core fun c => modPart c t.ctx fun q => { q with stash := q.stash ++ [m] } else s
    writeReg s tid d.toNat (w64 code)) s

/-- A mapped line's bytes become plain scratchpad: its memory's visible bytes, or zeros where it was EMPTY (R258). -/
def unstashLine (s : State) (k ctx : Nat) (m : Stash) (i : Nat) : State :=
  match mget StashLine.empty m.lines i, mfind m.phys i with
  | .empty, _ => uaWrite s k ctx (m.off + 128 * i) (List.replicate 128 0)
  | _, none => s
  | _, some l =>
    let s := uaWrite s k ctx (m.off + 128 * i) (visBytes s (dieOfCore k) (128 * l) 128)
    let bad := (List.range 16).filter fun j => poisonAfter s (s.orderFor (dieOfCore k) none) (16 * l + j)
    uaSetPoison s k ctx (bad.map fun j => m.off / 8 + 16 * i + j)

/-- A queued store by a mapping's window name goes to the plain bytes once the mapping is gone. -/
def Store.unmapped (k : Nat) (m : Stash) (x : Store) : Store :=
  match x.via with
  | some (j, o) => if j = k && m.off ≤ o && o < m.off + m.len then { x with dest := .win j o, via := none } else x
  | none => x

/-- A mapping goes: what is queued by its window name takes effect after the removal (R258). -/
def dropMapping (s : State) (k ctx : Nat) (m : Stash) : State :=
  let s : State := { s with tasks := s.tasks.map fun e =>
    (e.1, if e.2.ctx = ctx then { e.2 with fifo := e.2.fifo.map (Store.unmapped k m) } else e.2) }
  let s := s.modCore k fun c => modPart c ctx fun q => { q with stash := q.stash.filter (·.off ≠ m.off) }
  (List.range (m.len / 128)).foldl (fun s i => unstashLine s k ctx m i) s

/-- UNSTASH (R258): the stores to the mapping's lines that the die has accepted perform first. -/
def execUnstash (d a : BitVec 7) (s : State) : Res :=
  issue 4 .sync [.dst d.toNat, .src a.toNat] (finishesFirst fun tid s => do
    needFifo s tid
    let (w, s) ← readReg s tid a.toNat
    let t := s.task tid
    let die := dieOfCore t.core
    match (partOf (s.core t.core) t.ctx).bind fun q => q.stash.find? (·.off == bits w 18 0) with
    | some m =>
      if m.phys.any fun e => lineQueued s die e.2 then .error (.wait .token fun s => performDie s die)
      writeReg (dropMapping s t.core t.ctx m) tid d.toNat 0
    | none => writeReg s tid d.toNat 1) s

/-- Whether the 128-byte line at `v` overlaps [a, a + n), which wraps at 2^52 (R259). -/
def inRange (v a n : Nat) : Bool := decide ((v + 2^52 - a) % 2^52 < n) || (decide (n ≠ 0) && decide ((a + 2^52 - v) % 2^52 < 128))

/-- A virtual name of a line in a context overlaps the range. -/
def namedIn (s : State) (die ctx dpa a n : Nat) : Bool :=
  (s.leaves die ctx).any fun t =>
    bit t.word 63 && bits t.word 35 0 * 2^16 / 2^pageBits t.word == dpa / 2^pageBits t.word &&
    inRange (t.base + dpa % 2^pageBits t.word) a n

/-- WBK (R259): dirty stash and first-level lines of the core that overlap the range become clean. -/
def execWbk (a b : BitVec 7) (s : State) : Res :=
  issue 4 .sync [.src a.toNat, .src b.toNat] (finishesFirst fun tid s => do
    let (p, s) ← readReg s tid a.toNat
    let (n, s) ← readReg s tid b.toNat
    if ptrBad p then faultAt BAD_POINTER (vaOf p)
    let t := s.task tid
    let clean (m : Stash) : Stash :=
      { m with lines := m.lines.map fun e =>
          if e.2 = .dirty && inRange ((m.va + 128 * e.1) % 2^52) (vaOf p) n.toNat then (e.1, .clean) else e }
    .ok (s.modCore t.core fun c =>
      { modPart c t.ctx (fun q => { q with stash := q.stash.map clean }) with
        l1 := c.l1.map fun e =>
          if e.2.2 && namedIn s (dieOfCore t.core) t.ctx (e.2.1 / 2 * 128) (vaOf p) n.toNat then (e.1, e.2.1, false) else e })) s

/-! ## DISC (R260, R206) -/

/-- Wait until the line's home has gathered every token, asking for no data. -/
def needGather (s : State) (l : Nat) : M Unit :=
  let agent := homeAgent s l
  if (s.tok l agent).mayWrite then .ok () else .error (.wait (tokenCause s l agent) (·.askHome .getxf l))

def needGatherAll (s : State) : List Nat → M Unit
  | [] => .ok ()
  | l :: r => do needGather s l; needGatherAll s r

/-- A line is discarded at its home, which holds all of its tokens; no copy of it is left. -/
def discardLine (s : State) (l : Nat) : State :=
  let s := (List.range 8).foldl (fun s d => dropCopies s d l) s
  if region (128 * l) = 8 then
    let s := s.memWrite (128 * l) (List.replicate 128 0)
    match s.ub (ubName (128 * l)) with
    | none => s
    | some u =>
      let i := u.index l
      let s := s.modUb (ubName (128 * l)) fun u =>
        { u with live := merase u.live i, resting := merase u.resting i, pinned := merase u.pinned i, written := merase u.written i }
      unpin s u.ctx ((mfind u.resting i).getD u.home)
  else
    match mfind s.coh.stale l with
    | none => s
    | some x =>
      let s := s.memWrite (128 * l) x.bytes
      let s : State := { s with poison := poisonSet s.poison x.bad }
      s.modCoh fun c => { c with stale := merase c.stale l }

/-- DISC (R260): the thread's own stores have performed; those that its die has accepted to the lines perform first. -/
def execDisc (a b : BitVec 7) (s : State) : Res :=
  issue 4 .sync [.src a.toNat, .src b.toNat] (finishesFirst fun tid s => do
    let (p, s) ← readReg s tid a.toNat
    let (n, s) ← readReg s tid b.toNat
    let va := vaOf p
    if isWin va || ptrBad p then faultAt BAD_POINTER va
    if va % 128 ≠ 0 || n.toNat % 128 ≠ 0 || decide (n.toNat < 128) || decide (n.toNat > 65536) ||
        va / 2^16 ≠ (va + n.toNat - 1) / 2^16 then faultAt MISALIGN va
    let (pl, s) ← placeOf s tid va 8 .wr
    needFifo s tid
    match pl with
    | .mem dpa _ =>
      let ls := (List.range (n.toNat / 128)).map (lineOf dpa + ·)
      let die := dieOfCore (s.task tid).core
      if ls.any (lineQueued s die) then .error (.wait .token fun s => performDie s die)
      needGatherAll s ls
      .ok (ls.foldl (fun s l => settleOuts (discardLine s l) l (homeAgent s l)) s)
    | _ => faultAt PAGE_ABSENT va) s

/-! ## UBRESV (R261, R202) -/

/-- Lines a die may reserve, all contexts together (R202). -/
def reservable (die : Nat) : Nat := if die < 8 then 1474560 else 983040

def reservedAll (s : State) (die : Nat) : Nat := (s.coh.res.map fun (i, n) => if i % 16 = die then n else 0).sum

def upTo1024 (n : Nat) : Nat := (n + 1023) / 1024 * 1024

/-- R202's outcome for a request of n lines: its code and the new reservation. -/
def ubOutcome (s : State) (ctx die n : Nat) : Nat × Nat :=
  let n := upTo1024 n
  let cur := resOf s ctx die
  if n > mget 0 (s.ctx ctx).ubceil die then (1, cur)
  else if n ≥ cur then (if reservedAll s die - cur + n ≤ reservable die then (0, n) else (1, cur))
  else if n ≥ restingAt s ctx die then (0, n)
  else (2, upTo1024 (restingAt s ctx die))

def ubWord (out res rest : Nat) : Word := w64 (out * 2^62 + res % 2^21 * 2^21 + rest % 2^21)

/-- UBRESV; for a die that is none the spec gives RES and REST no value: free ones (log 41). -/
def execUbresv (d a b : BitVec 7) (s : State) : Res :=
  issue 4 .sync [.dst d.toNat, .src a.toNat, .src b.toNat] (finishesFirst fun tid s => do
    let (die, s) ← readReg s tid a.toNat
    let (n, s) ← readReg s tid b.toNat
    needRel s tid 4
    let ctx := (s.task tid).ctx
    if die.toNat > 15 then
      let (x, s) := s.free
      let (y, s) := s.free
      writeReg s tid d.toNat (ubWord 3 x y)
    else
      let (out, r) := ubOutcome s ctx die.toNat n.toNat
      let s := s.modCoh fun c => { c with res := mput 0 c.res (16 * ctx + die.toNat) r }
      let s := unpin s ctx die.toNat
      writeReg s tid d.toNat (ubWord out r (restingAt s ctx die.toNat))) s

/-! ## UBMIGR (R262, R207) -/

/-- Tokens of a page's lines that its old coherence home holds go to the new one, or on to the agent that an ACT names there
(R199). -/
def moveHome (s : State) (key old new : Nat) : State :=
  if old = new then s else
  let mine (l : Nat) : Bool := region (128 * l) == 8 && (s.ubPage (ubName (128 * l))).any fun p => p.1 == key
  ((s.coh.lines.map (·.1)).filter mine).foldl (fun s l =>
    let t := s.tok l old
    landTok (s.setTok l old {}) l new t) s

/-- R262's code for a page, and the page moved when it is 0. The order of the codes is 3, 2, 0 for the home it has, 1 (DESIGN
CHOICE, log 41). -/
def migrate (s : State) (e : Word) (dpa : Nat) (dest : Word) : Nat × State :=
  if dest.toNat > 15 then (3, s) else
  match bit e 57, s.ubPage (ubName dpa) with
  | true, some (k, u) =>
    if u.bound.isSome then (2, s)
    else if u.home = dest.toNat then (0, s)
    else if liveAt s u.ctx dest.toNat + u.live.length > resOf s u.ctx dest.toNat + 1024 then (1, s)
    else
      let s := moveHome s k (16 + u.home % 8) (16 + dest.toNat % 8)
      (0, s.modUb k fun u => { u with home := dest.toNat })
  | _, _ => (2, s)

def execUbmigr (d a b : BitVec 7) (s : State) : Res :=
  issue 4 .sync [.dst d.toNat, .src a.toNat, .src b.toNat] (finishesFirst fun tid s => do
    let (p, s) ← readReg s tid a.toNat
    let (w, s) ← readReg s tid b.toNat
    let va := vaOf p
    if ptrBad p || isWin va then faultAt BAD_POINTER va
    match xlThread s tid va .wr with
    | (.hit dpa e, s) =>
      let (c, s) := migrate s e dpa w
      writeReg s tid d.toNat (w64 c)
    | (.bad c, _) => faultAt c va
    | (.miss, s) =>
      let h := turnHalt s PAGE_ABSENT va
      .error (.wait .tlb fun s => askFill s (clOfCore (s.task tid).core) (s.task tid).ctx va (some (tid, h)) none)
    | (_, _) => faultAt PAGE_ABSENT va) s

end Sys2Proof.Machine
end

