-- ==== Sys2Proof/Machine/Integer.lean ====
section
/-! DEFINITION. Integer, immediate, bit-field, address and packed instructions (spec/05 R93-R106), with their long and
compact forms (spec/02 R39, R46). -/

namespace Sys2Proof.Machine

/-! ## Shapes -/

/-- rd := f(rs1, rs2). -/
def alu2 (len d a b : Nat) (f : Word → Word → Word) : State → Res :=
  issue len .plain [.dst d, .src a, .src b] fun tid s => do
    let (x, s) ← readReg s tid a
    let (y, s) ← readReg s tid b
    writeReg s tid d (f x y)

/-- rd := f(rs1). -/
def alu1 (len d a : Nat) (f : Word → Word) : State → Res :=
  issue len .plain [.dst d, .src a] fun tid s => do
    let (x, s) ← readReg s tid a
    writeReg s tid d (f x)

/-- rd := f(old rd, rs1, rs2), with rd in a field both read and written (R43). -/
def alu3 (len d a b : Nat) (f : Word → Word → Word → Word) : State → Res :=
  issue len .plain [.rw d, .src a, .src b] fun tid s => do
    let (z, s) ← readReg s tid d
    let (x, s) ← readReg s tid a
    let (y, s) ← readReg s tid b
    writeReg s tid d (f z x y)

/-- rd := f(old rd). -/
def aluRd (len d : Nat) (f : Word → Word) : State → Res :=
  issue len .plain [.rw d] fun tid s => do
    let (z, s) ← readReg s tid d
    writeReg s tid d (f z)

/-- rd := v. -/
def aluConst (len d : Nat) (v : Word) : State → Res := issue len .plain [.dst d] fun tid s => writeReg s tid d v

/-- Bit length of a magnitude. -/
def bitLen (n : Nat) : Nat := if n = 0 then 0 else n.log2 + 1

/-- The cycles after which a division's result is ready, by the magnitudes of dividend and divisor (R89). -/
def divCycles (x y : Nat) : Nat := if y = 0 then 2 else 4 + (bitLen x + 1 - bitLen y + 1) / 2

/-- The magnitude that a signed or unsigned division divides. -/
def magnitude (signed : Bool) (x : Word) : Nat := if signed then x.toInt.natAbs else x.toNat

/-- A division: a result, and IDZ for a zero divisor (R97). -/
def aluDiv (len d a b : Nat) (signed : Bool) (f : Word → Word → Word) : State → Res :=
  issue len .plain [.dst d, .src a, .src b] fun tid s => do
    let (x, s) ← readReg s tid a
    let (y, s) ← readReg s tid b
    writeLate (if y = 0 then s.flag tid IDZ else s) tid d (divCycles (magnitude signed x) (magnitude signed y)) (f x y)

/-- rd := f(rs1, rs2), ready three cycles after issue (R89). -/
def mul2 (len d a b : Nat) (f : Word → Word → Word) : State → Res :=
  issue len .plain [.dst d, .src a, .src b] fun tid s => do
    let (x, s) ← readReg s tid a
    let (y, s) ← readReg s tid b
    writeLate s tid d 3 (f x y)

/-! ## Operations on words -/

def b2w (b : Bool) : Word := if b then 1 else 0

/-- Shift counts use bits [5:0] only (R93). -/
def shamt (y : Word) : Nat := y.toNat % 64

def wSlt (x y : Word) : Word := b2w (x.slt y)
def wSltu (x y : Word) : Word := b2w (x.ult y)
def wSll (x y : Word) : Word := x <<< shamt y
def wSrl (x y : Word) : Word := x >>> shamt y
def wSra (x y : Word) : Word := x.sshiftRight (shamt y)
def wMin (x y : Word) : Word := if x.slt y then x else y
def wMax (x y : Word) : Word := if x.slt y then y else x
def wMinu (x y : Word) : Word := if x.ult y then x else y
def wMaxu (x y : Word) : Word := if x.ult y then y else x

/-- Zero bits above the highest one bit; 64 for zero (R94). -/
def wClz (x : Word) : Word := if x = 0 then 64 else w64 (63 - x.toNat.log2)

/-- Zero bits below the lowest one bit, among the n bits from bit i. -/
def ctzFrom (x : Word) (i : Nat) : Nat → Nat
  | 0 => i
  | n + 1 => if bit x i then i else ctzFrom x (i + 1) n

def wCtz (x : Word) : Word := w64 (ctzFrom x 0 64)

def wPopc (x : Word) : Word := w64 ((List.range 64).filter (bit x)).length

def wMulh (x y : Word) : Word := BitVec.ofInt 64 (x.toInt * y.toInt / 2^64)
def wMulhu (x y : Word) : Word := w64 (x.toNat * y.toNat / 2^64)

/-- DIV and REM round towards zero, with R97's results for a zero divisor and for −2^63 / −1. -/
def wDiv (x y : Word) : Word := if y = 0 then BitVec.allOnes 64 else BitVec.ofInt 64 (x.toInt.tdiv y.toInt)
def wDivu (x y : Word) : Word := if y = 0 then BitVec.allOnes 64 else w64 (x.toNat / y.toNat)
def wRem (x y : Word) : Word := if y = 0 then x else BitVec.ofInt 64 (x.toInt.tmod y.toInt)
def wRemu (x y : Word) : Word := if y = 0 then x else w64 (x.toNat % y.toNat)

def wSel (z x y : Word) : Word := if z ≠ 0 then x else y

/-- LIH (R99). -/
def wLih (z : Word) (i : BitVec 16) : Word := z <<< 16 ||| i.zeroExtend 64

/-- BFX and BFI (R100): width of the field a descriptor names, cut at bit 63. -/
def bfWidth (d : Word) : Nat := min (bits d 11 6 + 1) (64 - bits d 5 0)

def wBfx (x d : Word) : Word :=
  let w := bfWidth d
  let f := x.toNat / 2^bits d 5 0 % 2^w
  if bit d 12 then BitVec.ofInt 64 (toSigned w f) else w64 f

def wBfi (z x d : Word) : Word :=
  let m : Word := w64 ((2^bfWidth d - 1) * 2^bits d 5 0)
  (z &&& ~~~m) ||| ((x <<< bits d 5 0) &&& m)

/-- PFMT (R102). -/
def wPfmt (x : Word) (f : BitVec 6) (l : BitVec 3) : Word := w64 (f.toNat * 2^58 + l.toNat * 2^55 + vaOf x)

/-- PGET's selectors (R103); another one is no instruction. -/
def wPget (x : Word) (sel : Nat) : Word :=
  match sel with
  | 0 => w64 (ptrFmt x)
  | 1 => w64 (ptrL x)
  | _ => w64 (vaOf x)

/-! ## Packed lanes (R104-R106) -/

/-- Lane i of width w. -/
def lane (w : Nat) (x : Word) (i : Nat) : Nat := x.toNat / 2^(w * i) % 2^w

/-- The packed width an x selects (R104). -/
def laneWidth (x : BitVec 2) : Nat := match x.toNat with | 0 => 8 | 1 => 16 | _ => 32

/-- Lanes combined independently. -/
def lanes (w : Nat) (f : Nat → Nat → Nat) (x y : Word) : Word :=
  w64 (((List.range (64 / w)).map fun i => f (lane w x i) (lane w y i) % 2^w * 2^(w * i)).sum)

def laneMax (w : Nat) (a b : Nat) : Nat := if toSigned w a < toSigned w b then b else a
def laneMin (w : Nat) (a b : Nat) : Nat := if toSigned w a < toSigned w b then a else b

/-- XDOT.b (R106). -/
def wXdot (z x y : Word) : Word :=
  let dot (j : Nat) : Int := ((List.range 4).map fun i => toSigned 8 (lane 8 x (4 * j + i)) * toSigned 8 (lane 8 y (4 * j + i))).sum
  let acc (j : Nat) : Nat := (((lane 32 z j : Int) + dot j) % 2^32).toNat
  w64 (acc 0 + acc 1 * 2^32)

/-! ## The 32-bit instructions -/

def execAdd (d a b : BitVec 7) (s : State) : Res := alu2 4 d.toNat a.toNat b.toNat (· + ·) s
def execSub (d a b : BitVec 7) (s : State) : Res := alu2 4 d.toNat a.toNat b.toNat (· - ·) s
def execSlt (d a b : BitVec 7) (s : State) : Res := alu2 4 d.toNat a.toNat b.toNat wSlt s
def execSltu (d a b : BitVec 7) (s : State) : Res := alu2 4 d.toNat a.toNat b.toNat wSltu s
def execAnd (d a b : BitVec 7) (s : State) : Res := alu2 4 d.toNat a.toNat b.toNat (· &&& ·) s
def execOr (d a b : BitVec 7) (s : State) : Res := alu2 4 d.toNat a.toNat b.toNat (· ||| ·) s
def execXor (d a b : BitVec 7) (s : State) : Res := alu2 4 d.toNat a.toNat b.toNat (· ^^^ ·) s
def execSel (d a b : BitVec 7) (s : State) : Res := alu3 4 d.toNat a.toNat b.toNat wSel s
def execSll (d a b : BitVec 7) (s : State) : Res := alu2 4 d.toNat a.toNat b.toNat wSll s
def execSrl (d a b : BitVec 7) (s : State) : Res := alu2 4 d.toNat a.toNat b.toNat wSrl s
def execSra (d a b : BitVec 7) (s : State) : Res := alu2 4 d.toNat a.toNat b.toNat wSra s
def execClz (d a : BitVec 7) (s : State) : Res := alu1 4 d.toNat a.toNat wClz s
def execCtz (d a : BitVec 7) (s : State) : Res := alu1 4 d.toNat a.toNat wCtz s
def execPopc (d a : BitVec 7) (s : State) : Res := alu1 4 d.toNat a.toNat wPopc s
def execMul (d a b : BitVec 7) (s : State) : Res := mul2 4 d.toNat a.toNat b.toNat (· * ·) s
def execMulh (d a b : BitVec 7) (s : State) : Res := mul2 4 d.toNat a.toNat b.toNat wMulh s
def execMulhu (d a b : BitVec 7) (s : State) : Res := mul2 4 d.toNat a.toNat b.toNat wMulhu s
def execDiv (d a b : BitVec 7) (s : State) : Res := aluDiv 4 d.toNat a.toNat b.toNat true wDiv s
def execDivu (d a b : BitVec 7) (s : State) : Res := aluDiv 4 d.toNat a.toNat b.toNat false wDivu s
def execRem (d a b : BitVec 7) (s : State) : Res := aluDiv 4 d.toNat a.toNat b.toNat true wRem s
def execRemu (d a b : BitVec 7) (s : State) : Res := aluDiv 4 d.toNat a.toNat b.toNat false wRemu s
def execMin (d a b : BitVec 7) (s : State) : Res := alu2 4 d.toNat a.toNat b.toNat wMin s
def execMax (d a b : BitVec 7) (s : State) : Res := alu2 4 d.toNat a.toNat b.toNat wMax s
def execMinu (d a b : BitVec 7) (s : State) : Res := alu2 4 d.toNat a.toNat b.toNat wMinu s
def execMaxu (d a b : BitVec 7) (s : State) : Res := alu2 4 d.toNat a.toNat b.toNat wMaxu s
def execLih (d : BitVec 7) (i : BitVec 16) (s : State) : Res := aluRd 4 d.toNat (wLih · i) s
def execAddi (d a : BitVec 7) (i : BitVec 9) (s : State) : Res := alu1 4 d.toNat a.toNat (· + i.signExtend 64) s
def execAadd (d a b : BitVec 7) (s : State) : Res := alu2 4 d.toNat a.toNat b.toNat addrAdd s
def execPget (d a sel : BitVec 7) (s : State) : Res := alu1 4 d.toNat a.toNat (wPget · sel.toNat) s
def execBfx (d a b : BitVec 7) (s : State) : Res := alu2 4 d.toNat a.toNat b.toNat wBfx s
def execBfi (d a b : BitVec 7) (s : State) : Res := alu3 4 d.toNat a.toNat b.toNat wBfi s
def execAaddi (d a : BitVec 7) (i : BitVec 9) (s : State) : Res := alu1 4 d.toNat a.toNat (addrAdd · (i.signExtend 64)) s
def execPfmt (d a : BitVec 7) (f : BitVec 6) (l : BitVec 3) (s : State) : Res := alu1 4 d.toNat a.toNat (wPfmt · f l) s
def execSlli (d a : BitVec 7) (i : BitVec 6) (s : State) : Res := alu1 4 d.toNat a.toNat (· <<< i.toNat) s
def execSrli (d a : BitVec 7) (i : BitVec 6) (s : State) : Res := alu1 4 d.toNat a.toNat (· >>> i.toNat) s
def execSrai (d a : BitVec 7) (i : BitVec 6) (s : State) : Res := alu1 4 d.toNat a.toNat (·.sshiftRight i.toNat) s
def execAndi (d a : BitVec 7) (i : BitVec 6) (s : State) : Res := alu1 4 d.toNat a.toNat (· &&& i.signExtend 64) s
def execOri (d a : BitVec 7) (i : BitVec 6) (s : State) : Res := alu1 4 d.toNat a.toNat (· ||| i.signExtend 64) s
def execXori (d a : BitVec 7) (i : BitVec 6) (s : State) : Res := alu1 4 d.toNat a.toNat (· ^^^ i.signExtend 64) s
def execSlti (d a : BitVec 7) (i : BitVec 6) (s : State) : Res := alu1 4 d.toNat a.toNat (wSlt · (i.signExtend 64)) s

def execXadd (d a : BitVec 7) (x : BitVec 2) (b : BitVec 5) (s : State) : Res :=
  alu2 4 d.toNat a.toNat b.toNat (lanes (laneWidth x) (· + ·)) s
def execXsub (d a : BitVec 7) (x : BitVec 2) (b : BitVec 5) (s : State) : Res :=
  alu2 4 d.toNat a.toNat b.toNat (lanes (laneWidth x) fun p q => p + (2^laneWidth x - q)) s
def execXmul (d a : BitVec 7) (x : BitVec 2) (b : BitVec 5) (s : State) : Res :=
  mul2 4 d.toNat a.toNat b.toNat (lanes (laneWidth x) (· * ·)) s
def execXmax (d a : BitVec 7) (x : BitVec 2) (b : BitVec 5) (s : State) : Res :=
  alu2 4 d.toNat a.toNat b.toNat (lanes (laneWidth x) (laneMax (laneWidth x))) s
def execXmin (d a : BitVec 7) (x : BitVec 2) (b : BitVec 5) (s : State) : Res :=
  alu2 4 d.toNat a.toNat b.toNat (lanes (laneWidth x) (laneMin (laneWidth x))) s
def execXdotB (d a : BitVec 7) (b : BitVec 5) (s : State) : Res :=
  issue 4 .plain [.rw d.toNat, .src a.toNat, .src b.toNat] (fun tid s => do
    let (z, s) ← readReg s tid d.toNat
    let (x, s) ← readReg s tid a.toNat
    let (y, s) ← readReg s tid b.toNat
    writeLate s tid d.toNat 3 (wXdot z x y)) s

/-! ## The 64-bit forms (R46) -/

def execLi64 (d : BitVec 7) (i : BitVec 32) (s : State) : Res := aluConst 8 d.toNat (i.signExtend 64) s
def execLi64U (d : BitVec 7) (i : BitVec 32) (s : State) : Res := aluConst 8 d.toNat (i.zeroExtend 64) s
def execLi64Hi (d : BitVec 7) (i : BitVec 32) (s : State) : Res :=
  aluRd 8 d.toNat (fun z => w64 (i.toNat * 2^32 + z.toNat % 2^32)) s
def execAddiLong (d a : BitVec 7) (i : BitVec 32) (s : State) : Res := alu1 8 d.toNat a.toNat (· + i.signExtend 64) s
def execAndiLong (d a : BitVec 7) (i : BitVec 32) (s : State) : Res := alu1 8 d.toNat a.toNat (· &&& i.signExtend 64) s
def execOriLong (d a : BitVec 7) (i : BitVec 32) (s : State) : Res := alu1 8 d.toNat a.toNat (· ||| i.signExtend 64) s
def execXoriLong (d a : BitVec 7) (i : BitVec 32) (s : State) : Res := alu1 8 d.toNat a.toNat (· ^^^ i.signExtend 64) s
def execAaddiLong (d a : BitVec 7) (i : BitVec 32) (s : State) : Res :=
  alu1 8 d.toNat a.toNat (addrAdd · (i.signExtend 64)) s
def execSltiLong (d a : BitVec 7) (i : BitVec 32) (s : State) : Res := alu1 8 d.toNat a.toNat (wSlt · (i.signExtend 64)) s

/-! ## The compact forms (R39) -/

def execMovCompact (a b : BitVec 5) (s : State) : Res := alu1 2 a.toNat b.toNat id s
def execAddCompact (a b : BitVec 5) (s : State) : Res := alu2 2 a.toNat a.toNat b.toNat (· + ·) s
def execSubCompact (a b : BitVec 5) (s : State) : Res := alu2 2 a.toNat a.toNat b.toNat (· - ·) s
def execAndCompact (a b : BitVec 5) (s : State) : Res := alu2 2 a.toNat a.toNat b.toNat (· &&& ·) s
def execOrCompact (a b : BitVec 5) (s : State) : Res := alu2 2 a.toNat a.toNat b.toNat (· ||| ·) s
def execXorCompact (a b : BitVec 5) (s : State) : Res := alu2 2 a.toNat a.toNat b.toNat (· ^^^ ·) s
def execSllCompact (a b : BitVec 5) (s : State) : Res := alu2 2 a.toNat a.toNat b.toNat wSll s
def execSrlCompact (a b : BitVec 5) (s : State) : Res := alu2 2 a.toNat a.toNat b.toNat wSrl s
def execSraCompact (a b : BitVec 5) (s : State) : Res := alu2 2 a.toNat a.toNat b.toNat wSra s
def execMulCompact (a b : BitVec 5) (s : State) : Res := mul2 2 a.toNat a.toNat b.toNat (· * ·) s
def execAaddCompact (a b : BitVec 5) (s : State) : Res := alu2 2 a.toNat a.toNat b.toNat addrAdd s
def execSltCompact (a b : BitVec 5) (s : State) : Res := alu2 2 a.toNat a.toNat b.toNat wSlt s
def execLiCompact (a i : BitVec 5) (s : State) : Res := alu1 2 a.toNat ZR (· + i.signExtend 64) s
def execAddiCompact (a i : BitVec 5) (s : State) : Res := alu1 2 a.toNat a.toNat (· + i.signExtend 64) s
def execAaddiCompact (a i : BitVec 5) (s : State) : Res := alu1 2 a.toNat a.toNat (addrAdd · (i.signExtend 64)) s
def execSlliCompact (a i : BitVec 5) (s : State) : Res := alu1 2 a.toNat a.toNat (· <<< i.toNat) s
def execSrliCompact (a i : BitVec 5) (s : State) : Res := alu1 2 a.toNat a.toNat (· >>> i.toNat) s
def execSraiCompact (a i : BitVec 5) (s : State) : Res := alu1 2 a.toNat a.toNat (·.sshiftRight i.toNat) s
def execAndiCompact (a i : BitVec 5) (s : State) : Res := alu1 2 a.toNat a.toNat (· &&& i.signExtend 64) s
def execOriCompact (a i : BitVec 5) (s : State) : Res := alu1 2 a.toNat a.toNat (· ||| i.signExtend 64) s
def execXoriCompact (a i : BitVec 5) (s : State) : Res := alu1 2 a.toNat a.toNat (· ^^^ i.signExtend 64) s
def execSltiCompact (a i : BitVec 5) (s : State) : Res := alu1 2 a.toNat a.toNat (wSlt · (i.signExtend 64)) s

/-! ### Moves from and to the ports -/

def execMovFromEpCompact (a : BitVec 5) (s : State) : Res := alu1 2 a.toNat EP id s
def execMovToEpCompact (b : BitVec 5) (s : State) : Res := alu1 2 EP b.toNat id s
def execMovFromMpCompact (a : BitVec 5) (s : State) : Res := alu1 2 a.toNat MP id s
def execMovToMpCompact (b : BitVec 5) (s : State) : Res := alu1 2 MP b.toNat id s

/-! ### NOP, a sync point of a pair like every instruction of its major (R403) -/

def execNop (s : State) : Res := issue 4 .point [] (fun _ s => .ok s) s
def execNopCompact (s : State) : Res := issue 2 .point [] (fun _ s => .ok s) s

end Sys2Proof.Machine
end

