-- ==== Sys2Proof/Machine/Control.lean ====
section
/-! DEFINITION. Branches and jumps (spec/05 R114-R116). -/

namespace Sys2Proof.Machine

/-- PC + 2·offset, modulo 2^52. -/
def branchTo (pc : Addr) (o : Int) : Addr := pc + BitVec.ofInt 52 (2 * o)

/-- A branch or jump is taken (R116). -/
def goTo (s : State) (tid : Nat) (a : Addr) : State := (s.modR tid fun r => { r with pc := a }).bubble tid

/-- A conditional branch on two registers (R114): sources are popped whether or not it is taken. -/
def branch2 (len a b : Nat) (o : Int) (cond : Word → Word → Bool) : State → Res :=
  issueRaw len .plain [.src a, .src b] fun tid s => do
    let pc := (s.task tid).r.pc
    let (x, s) ← readReg s tid a
    let (y, s) ← readReg s tid b
    .ok (if cond x y then goTo s tid (branchTo pc o) else s.advance tid len)

/-- A conditional branch on one register. -/
def branch1 (len a : Nat) (o : Int) (cond : Word → Bool) : State → Res :=
  issueRaw len .plain [.src a] fun tid s => do
    let pc := (s.task tid).r.pc
    let (x, s) ← readReg s tid a
    .ok (if cond x then goTo s tid (branchTo pc o) else s.advance tid len)

/-- The link: ZeroExt(PC + LEN, 52) (R115). -/
def linkValue (pc : Addr) (len : Nat) : Word := w64 (pc + BitVec.ofNat 52 len).toNat

/-- JAL (R115). -/
def jumpTo (len d : Nat) (o : Int) : State → Res :=
  issueRaw len .plain [.dst d] fun tid s => do
    let pc := (s.task tid).r.pc
    let s ← writeReg s tid d (linkValue pc len)
    .ok (goTo s tid (branchTo pc o))

/-- JALR (R115): the base is read before the link is written; an odd target faults with PC_ALIGN and links nothing. -/
def jumpReg (len d b : Nat) (off : Int) : State → Res :=
  issueRaw len .plain [.dst d, .src b] fun tid s => do
    let pc := (s.task tid).r.pc
    let (x, s) ← readReg s tid b
    let target : Addr := BitVec.ofNat 52 x.toNat + BitVec.ofInt 52 off
    if target.toNat % 2 = 1 then fault PC_ALIGN
    let s ← writeReg s tid d (linkValue pc len)
    .ok (goTo s tid target)

def cEq (x y : Word) : Bool := x == y
def cNe (x y : Word) : Bool := x != y
def cLt (x y : Word) : Bool := x.slt y
def cGe (x y : Word) : Bool := !x.slt y
def cLtu (x y : Word) : Bool := x.ult y
def cGeu (x y : Word) : Bool := !x.ult y

def execBeq (a : BitVec 7) (b : BitVec 4) (o : BitVec 9) (s : State) : Res := branch2 4 a.toNat b.toNat o.toInt cEq s
def execBne (a : BitVec 7) (b : BitVec 4) (o : BitVec 9) (s : State) : Res := branch2 4 a.toNat b.toNat o.toInt cNe s
def execBlt (a : BitVec 7) (b : BitVec 4) (o : BitVec 9) (s : State) : Res := branch2 4 a.toNat b.toNat o.toInt cLt s
def execBge (a : BitVec 7) (b : BitVec 4) (o : BitVec 9) (s : State) : Res := branch2 4 a.toNat b.toNat o.toInt cGe s
def execBltu (a : BitVec 7) (b : BitVec 4) (o : BitVec 9) (s : State) : Res := branch2 4 a.toNat b.toNat o.toInt cLtu s
def execBgeu (a : BitVec 7) (b : BitVec 4) (o : BitVec 9) (s : State) : Res := branch2 4 a.toNat b.toNat o.toInt cGeu s
def execJalr (d : BitVec 7) (b : BitVec 4) (o : BitVec 9) (s : State) : Res := jumpReg 4 d.toNat b.toNat (2 * o.toInt) s
def execBeqz (a : BitVec 7) (o : BitVec 16) (s : State) : Res := branch1 4 a.toNat o.toInt (· == 0) s
def execBnez (a : BitVec 7) (o : BitVec 16) (s : State) : Res := branch1 4 a.toNat o.toInt (· != 0) s
def execJal (d : BitVec 7) (o : BitVec 16) (s : State) : Res := jumpTo 4 d.toNat o.toInt s

def execJalLong (d : BitVec 7) (o : BitVec 32) (s : State) : Res := jumpTo 8 d.toNat o.toInt s
def execJalrLong (d a : BitVec 7) (o : BitVec 32) (s : State) : Res := jumpReg 8 d.toNat a.toNat o.toInt s
def execBeqzLong (a : BitVec 7) (o : BitVec 32) (s : State) : Res := branch1 8 a.toNat o.toInt (· == 0) s
def execBnezLong (a : BitVec 7) (o : BitVec 32) (s : State) : Res := branch1 8 a.toNat o.toInt (· != 0) s
def execBeqLong (a b : BitVec 7) (o : BitVec 32) (s : State) : Res := branch2 8 a.toNat b.toNat o.toInt cEq s
def execBneLong (a b : BitVec 7) (o : BitVec 32) (s : State) : Res := branch2 8 a.toNat b.toNat o.toInt cNe s
def execBltLong (a b : BitVec 7) (o : BitVec 32) (s : State) : Res := branch2 8 a.toNat b.toNat o.toInt cLt s
def execBgeLong (a b : BitVec 7) (o : BitVec 32) (s : State) : Res := branch2 8 a.toNat b.toNat o.toInt cGe s
def execBltuLong (a b : BitVec 7) (o : BitVec 32) (s : State) : Res := branch2 8 a.toNat b.toNat o.toInt cLtu s
def execBgeuLong (a b : BitVec 7) (o : BitVec 32) (s : State) : Res := branch2 8 a.toNat b.toNat o.toInt cGeu s

def execJalrCompact (a : BitVec 5) (b : BitVec 4) (s : State) : Res := jumpReg 2 a.toNat b.toNat 0 s
def execBeqzCompact (a o : BitVec 5) (s : State) : Res := branch1 2 a.toNat o.toInt (· == 0) s
def execBnezCompact (a o : BitVec 5) (s : State) : Res := branch1 2 a.toNat o.toInt (· != 0) s

end Sys2Proof.Machine
end

