-- ==== Sys2Proof/Machine/FutSend.lean ====
section
/-! DEFINITION. Future operations on their way: to another cluster of the package, or to another package (spec/11 R283,
R288, R299; spec/16 R419-R421). -/

namespace Sys2Proof.Machine

/-! ## Peers -/

/-- The kinds under which future operations travel between packages (R420; the numbers are the model's own, log 24). -/
def peerKind : FOp → Nat
  | .resolve _ => 0
  | .fpois _ => 1
  | .cancel => 2
  | .frel => 3
  | .touch => 4
  | .touchp => 5
  | .fstat => 6

def peerArg : FOp → Word
  | .resolve v => v
  | .fpois c => w64 c.toNat
  | _ => 0

/-- Who waits for an answer: a cluster and a task, or 1023 and 0 where nobody does (log 24). -/
def peerPlace (cl tid : Nat) : Word := w64 (cl + 2^16 * tid)

/-! ## Operations (R288) -/

/-- An operation that completes in the instruction's own step: its entry is in the thread's own cluster, or its chip
cannot be reached. -/
def fopNow (s : State) (m : FutMsg) : Option (FutMsg × State) :=
  if isLocal s m.h then (if hCl m.h = m.cl then some (fopAt s m.cl m) else none)
  else if peerReach s (hChip m.h) then none
  else some (unreachable m, s)

/-- An operation leaves for another cluster or package. -/
def fopSend (s : State) (m : FutMsg) : State :=
  if isLocal s m.h then s.modNet fun n => { n with futReqs := n.futReqs ++ [m] }
  else peerSend s (hChip m.h) (peerKind m.op + 256 * bindTag s m.ctx) [m.h, peerArg m.op, peerPlace m.cl m.tid]

/-- The message of an operation by a thread. -/
def fopMsg (s : State) (tid : Nat) (h : Word) (op : FOp) : FutMsg :=
  { tid := tid, ctx := (s.task tid).ctx, cl := clOfCore (s.task tid).core, h := h, op := op }

/-- The thread waits for an entry's reply (R299, R302). -/
def askReply (s : State) (tid : Nat) (m : FutMsg) (what : Pend) (len : Nat) (pops : List Nat) : Stop :=
  let insn := (s.turn.map (·.insn)).getD 0
  let p : Park := { what := what, hs := [m.h], len := len, insn := insn, pops := pops, since := s.cycle }
  .gone fun _ => (fopSend (s.modTask tid fun t => { t with ask := some p }) m).noteStall tid .opnd

/-! ## Port sources that are taken at completion (R44) -/

/-- A source field's value while the instruction has yet to complete: a port keeps its element, and is listed. -/
def peekReg (s : State) (tid n : Nat) : M (Word × List Nat × State) :=
  match readReg s tid n with
  | .error e => .error e
  | .ok (v, s') => .ok (if isPort n && n ≠ CT then (v, [n], s) else (v, [], s'))

/-- The elements of the port sources listed are taken. -/
def popAll (s : State) (tid : Nat) (ports : List Nat) : State :=
  ports.foldl (fun s n => match readReg s tid n with
    | .ok (_, s') => s'
    | .error _ => s) s

/-! ## Completing what was asked -/

/-- FSTS (R285). -/
def State.setFsts (s : State) (tid : Nat) (out : BitVec 3) (code : Code) : State :=
  s.modR tid fun r => { r with fstsOut := out, fstsCode := if out = 1 then code else 0 }

/-- A touch completes with what it found (R299). -/
def touchDone (s : State) (tid rd : Nat) (trap : Bool) (v : View) : M State :=
  match v.out.toNat with
  | 0 => writeReg ((s.flag tid v.flags).setFsts tid 0 0) tid rd v.value
  | 1 => if trap then fault FUT_POISON else writeReg (s.setFsts tid 1 v.code) tid rd (statusWord 1 v.code)
  | 2 => if trap then fault FUT_CANCEL else writeReg (s.setFsts tid 2 0) tid rd (statusWord 2 0)
  | 3 => if trap then fault FUT_STALE else writeReg (s.setFsts tid 3 0) tid rd (statusWord 3 0)
  | 4 => writeReg (s.setFsts tid 4 0) tid rd (statusWord 4 0)
  | _ => fault FUT_DENIED

/-- TOUCHP completes; its result is recorded (R410). -/
def touchpDone (s : State) (tid rd : Nat) (v : View) : M State :=
  if v.out = 5 then fault FUT_DENIED else
  match noteTask s tid 3 (w64 v.out.toNat) true with
  | .error e => .error e
  | .ok s => touchDone s tid rd false v

/-- RESOLVE, FPOIS and CANCEL complete with an outcome, FSTAT with its word; the result is recorded (R302, R306, R410). -/
def outcomeDone (s : State) (tid rd : Nat) (m : FutMsg) (rec : Word) : M State :=
  if m.view.out = 5 then fault FUT_DENIED else
  match noteTask s tid 3 rec true with
  | .error e => .error e
  | .ok s => writeReg s tid rd m.ret

/-- The index of a handle among those WANY names. -/
def idxOf (h : Word) : List Word → Nat → Nat
  | [], n => n
  | x :: r, n => if x = h then n else idxOf h r (n + 1)

/-- WANY completes with the lowest index of the future found (R300). -/
def wanyDone (s : State) (tid rd : Nat) (hs : List Word) (h : Word) (v : View) : M State :=
  if v.out = 5 then fault FUT_DENIED else
  let i := w64 (idxOf h hs 0)
  match noteTask s tid 3 i true with
  | .error e => .error e
  | .ok s => writeReg (s.setFsts tid v.out v.code) tid rd i

end Sys2Proof.Machine
end

