-- ==== Sys2Proof/Machine/Touch.lean ====
section
/-! DEFINITION. Touches, WANY and the operations on futures (spec/11 R298-R306). -/

namespace Sys2Proof.Machine

/-- A flagged task ends at this instruction, once its release at .s holds (R299, R308). -/
def observeCancel (s : State) (tid : Nat) : M Unit :=
  if (s.task tid).cancel then do
    needRel s tid 5
    .error (.gone fun s => endNow s tid .cancelled)
  else .ok ()

/-- The checks that a parking touch makes (R299, R310, R256). -/
def mayPark (s : State) (tid : Nat) : M Unit := do
  if (s.task tid).handler then fault HANDLER_PARK
  if locksHeld s tid ≠ 0 then fault LOCK_STATE

/-- The thread parks on the futures it has recorded waiters at. -/
def parkNow {A : Type} (s : State) (tid : Nat) (what : Pend) (hs : List Word) (len : Nat) (pops : List Nat) : M A :=
  let insn := (s.turn.map (·.insn)).getD 0
  .error (.gone fun _ => parkTask s tid { what := what, hs := hs, len := len, insn := insn, pops := pops, since := s.cycle })

/-- Whether a touch that finds its future PENDING could not park. -/
def cannotPark (s : State) (tid : Nat) : Bool := (s.task tid).handler || locksHeld s tid ≠ 0

/-- TOUCH and TOUCH.T (R299). -/
def touchOp (len d a : Nat) (trap : Bool) : State → Res :=
  issue len .sync [.dst d, .src a] fun tid s => do
    let (h, ps, s) ← peekReg s tid a
    checkHandle h
    observeCancel s tid
    let m := fopMsg s tid h (if cannotPark s tid then .touchp else .touch)
    match fopNow s m with
    | none => .error (askReply s tid m (.touch (BitVec.ofNat 7 d) trap) len ps)
    | some (m, s) =>
      if m.view.out = 4 then
        mayPark s tid
        parkNow s tid (.touch (BitVec.ofNat 7 d) trap) [h] len ps
      else touchDone (popAll s tid ps) tid d trap m.view

/-- TOUCHP (R299). -/
def touchpOp (len d a : Nat) : State → Res :=
  issue len .sync [.dst d, .src a] fun tid s => do
    let (h, ps, s) ← peekReg s tid a
    checkHandle h
    observeCancel s tid
    let m := fopMsg s tid h .touchp
    match fopNow s m with
    | none => .error (askReply s tid m (.touchp (BitVec.ofNat 7 d)) len ps)
    | some (m, s) => touchpDone (popAll s tid ps) tid d m.view

def execTouch (d a : BitVec 7) (s : State) : Res := touchOp 4 d.toNat a.toNat false s
def execTouchT (d a : BitVec 7) (s : State) : Res := touchOp 4 d.toNat a.toNat true s
def execTouchp (d a : BitVec 7) (s : State) : Res := touchpOp 4 d.toNat a.toNat s
def execTouchCompact (a b : BitVec 5) (s : State) : Res := touchOp 2 a.toNat b.toNat false s
def execTouchTCompact (a b : BitVec 5) (s : State) : Res := touchOp 2 a.toNat b.toNat true s
def execTouchpCompact (a b : BitVec 5) (s : State) : Res := touchpOp 2 a.toNat b.toNat s

/-! ## WANY (R300) -/

/-- What WANY finds at a handle, without recording a waiter: at a future of another package what its reply said. -/
def wanyView (s : State) (tid : Nat) (found : List (Word × View)) (h : Word) : View :=
  if isLocal s h then (fopAt s (hCl h) (fopMsg s tid h .touchp)).1.view
  else match found.find? fun e => e.1 == h with
    | some e => e.2
    | none => if peerReach s (hChip h) then { out := 4 } else poisonView DEAD

/-- The futures of other packages, which WANY asks about first. -/
def wanyPeers (s : State) (hs : List Word) : List Word := (hs.filter fun h => !isLocal s h && peerReach s (hChip h)).eraseDups

/-- A waiter recorded at each named future (R289, R300). -/
def wanyRecord (s : State) (tid : Nat) : List Word → State
  | [] => s
  | h :: r =>
    let m := fopMsg s tid h .touch
    let s :=
      if isLocal s h then
        let s := (fopAt s (hCl h) m).2
        if hCl h = m.cl then s
        else s.modCluster m.cl fun c => { c with remoteWaits := c.remoteWaits ++ [(h, tid)] }
      else (fopSend s m).modCluster m.cl fun c => { c with remoteWaits := c.remoteWaits ++ [(h, tid)] }
    wanyRecord s tid r

def checkHandles : List Word → M Unit
  | [] => .ok ()
  | h :: r => do checkHandle h; checkHandles r

/-- WANY once every future's state is known: it completes with the lowest index of one that is terminal, or parks. -/
def wanyBody (tid : Nat) (d : BitVec 7) (hs : List Word) (found : List (Word × View)) (s : State) : M State := do
  let vs := hs.map fun h => (h, wanyView s tid found h)
  if vs.any fun v => v.2.out == 5 then fault FUT_DENIED
  match vs.find? fun v => v.2.out != 4 with
  | some (h, v) =>
    let s := if isLocal s h then s.modCluster (hCl h) fun c => match futFind c (hIdx h) (hGen h) with
      | some f => unspill c f
      | none => c else s
    wanyDone s tid d.toNat hs h v
  | none =>
    mayPark s tid
    parkNow (wanyRecord s tid hs.eraseDups) tid (.wany d hs) hs 4 []

/-- The futures of other packages are asked, and their replies waited for. -/
def wanyAsk (s : State) (tid : Nat) (d : BitVec 7) (hs peers : List Word) : State :=
  let p : Park := { what := .wany d hs, hs := peers, len := 4, insn := (s.turn.map (·.insn)).getD 0, since := s.cycle }
  let s := s.modTask tid fun t => { t with ask := some p, found := [] }
  (peers.foldl (fun s h => fopSend s (fopMsg s tid h .touchp)) s).noteStall tid .opnd

def execWany (d a n : BitVec 7) (s : State) : Res :=
  issue 4 .sync [.dst d.toNat, .handles a.toNat n.toNat] (fun tid s => do
    let hs := (List.range n.toNat).map fun i => s.g tid (a.toNat + i)
    checkHandles hs
    observeCancel s tid
    let peers := wanyPeers s hs
    if !peers.isEmpty then .error (.gone fun s => wanyAsk s tid d hs peers)
    wanyBody tid d hs [] s) s

/-! ## FNEW, RESOLVE, FPOIS, CANCEL, FREL, FSTAT (R301-R306) -/

def notHandler (s : State) (tid : Nat) : M Unit := need (!(s.task tid).handler) HANDLER_OP

/-- FNEW (R301). -/
def execFnew (d a : BitVec 7) (s : State) : Res :=
  issue 4 .sync [.dst d.toNat, .src a.toNat] (fun tid s => do
    notHandler s tid
    let (v, s) ← readReg s tid a.toNat
    need (bits v 63 1 == 0) FUT_ARG
    let t := s.task tid
    match ← allocM (allocFut s (clOfCore t.core) t.ctx t.launch .empty (op := bit v 0)) with
    | none => writeLate s tid d.toNat 4 futFullStatus
    | some (h, s) => writeLate s tid d.toNat 4 h) s

/-- An operation with an outcome, a release at .s (R302-R304). -/
def outcomeOp (tid d : Nat) (h : Word) (op : FOp) (ports : List Nat) (s : State) : M State := do
  needRel s tid 5
  let m := fopMsg s tid h op
  match fopNow s m with
  | none => .error (askReply s tid m (.outcome (BitVec.ofNat 7 d)) 4 ports)
  | some (m, s) => outcomeDone (popAll s tid ports) tid d m (w64 (m.ret.toNat % 256))

def execResolve (d a b : BitVec 7) (s : State) : Res :=
  issue 4 .sync [.dst d.toNat, .src a.toNat, .src b.toNat] (fun tid s => do
    let (h, ps, s) ← peekReg s tid a.toNat
    let (v, qs, s) ← peekReg s tid b.toNat
    checkHandle h
    outcomeOp tid d.toNat h (.resolve v) (ps ++ qs) s) s

def execFpois (d a b : BitVec 7) (s : State) : Res :=
  issue 4 .sync [.dst d.toNat, .src a.toNat, .src b.toNat] (fun tid s => do
    let (h, ps, s) ← peekReg s tid a.toNat
    let (v, qs, s) ← peekReg s tid b.toNat
    checkHandle h
    need (bits v 63 8 == 0 && v != 0) FUT_ARG
    outcomeOp tid d.toNat h (.fpois (BitVec.ofNat 8 v.toNat)) (ps ++ qs) s) s

def execCancel (d a : BitVec 7) (s : State) : Res :=
  issue 4 .sync [.dst d.toNat, .src a.toNat] (fun tid s => do
    let (h, ps, s) ← peekReg s tid a.toNat
    checkHandle h
    outcomeOp tid d.toNat h .cancel ps s) s

/-- FREL (R305): it waits for no reply. -/
def frelOp (len a : Nat) : State → Res :=
  issue len .sync [.src a] fun tid s => do
    let (h, s) ← readReg s tid a
    checkHandle h
    let m := fopMsg s tid h .frel
    match fopNow s m with
    | none => .ok (fopSend s m)
    | some (_, s) => .ok s

def execFrel (a : BitVec 7) (s : State) : Res := frelOp 4 a.toNat s
def execFrelCompact (b : BitVec 5) (s : State) : Res := frelOp 2 b.toNat s

/-- FSTAT (R306). -/
def fstatOp (len d a : Nat) : State → Res :=
  issue len .sync [.dst d, .src a] fun tid s => do
    let (h, ps, s) ← peekReg s tid a
    checkHandle h
    let m := fopMsg s tid h .fstat
    match fopNow s m with
    | none => .error (askReply s tid m (.fstat (BitVec.ofNat 7 d)) len ps)
    | some (m, s) => outcomeDone (popAll s tid ps) tid d m (w64 (m.ret.toNat % 8))

def execFstat (d a : BitVec 7) (s : State) : Res := fstatOp 4 d.toNat a.toNat s
def execFstatCompact (a b : BitVec 5) (s : State) : Res := fstatOp 2 a.toNat b.toNat s

end Sys2Proof.Machine
end

