-- ==== Sys2Proof/Machine/Csr.lean ====
section
/-! DEFINITION. Control and status registers: their values, their writes and who may reach them (spec/14 R367, R386,
R387), and the CSR instructions. -/

namespace Sys2Proof.Machine

/-! ## PERIOD (R313, R316) -/

/-- An entry of the slot table in force; an unlisted one holds its reset value. -/
def tableEntry (c : Core) (i : Nat) : BitVec 16 := mget 0x2000 c.table i

def entValid (e : BitVec 16) : Bool := e.toNat / 2^15 == 1
def entStrict (e : BitVec 16) : Bool := e.toNat / 2^14 % 2 == 1
def entEn (e : BitVec 16) : Bool := e.toNat / 2^13 % 2 == 1
def entCtx (e : BitVec 16) : Nat := e.toNat / 2^6 % 64
def entSlot (e : BitVec 16) : Nat := e.toNat % 64

/-- The positions of the valid, enabled entries that name a slot. -/
def slotEntries (c : Core) (slot : Nat) : List Nat :=
  (List.range c.len).filter fun i => let e := tableEntry c i; entValid e && entEn e && entSlot e == slot

/-- The largest distance from each position to the next, cyclically. -/
def cyclicGap (p : Nat) (is : List Nat) : Nat :=
  (is.map fun i => (leastBy id (is.map fun j => if j > i then j - i else j + p - i)).getD 0).foldl max 0

/-- P, NS, NN and GAP of a slot, as PERIOD's low bits. -/
def periodBits (c : Core) (slot : Nat) : Nat :=
  let is := slotEntries c slot
  let ns := (is.filter fun i => entStrict (tableEntry c i)).length
  c.len * 2^24 + ns * 2^20 + (is.length - ns) * 2^16 + cyclicGap c.len is

/-! ## Values (R387) -/

def firmwareCsr (n : Nat) : Bool := n == 0x03E || n == 0x050 || n == 0x051 || n == 0x052

/-- Whether an access is reserved to firmware privilege (R367, R387). -/
def csrPrivileged (n : Nat) (write : Bool) : Bool := firmwareCsr n || (write && (n == 0x028 || n == 0x029))

/-- The value of a CSR for a thread; none for an unassigned number. -/
def csrGet (s : State) (tid n : Nat) : Option Word :=
  let t := s.task tid
  let r := t.r
  let k := t.core
  let x := s.ctx t.ctx
  let cl := s.cluster (clOfCore k)
  let xs := mget {} cl.xfStall t.ctx
  match n with
  | 0x000 => some (w64 (s.peers.chip.toNat * 2^44 + corePlace k * 2^31 + t.slot.getD 0))
  | 0x001 => some (w64 ((if x.priv then 2^22 else 0) + t.ctx % 64 * 2^16 + x.asid % 2^16))
  | 0x002 => some r.wid
  | 0x003 => some (match t.launch.bind fun l => mfind s.launches l with | some l => l.wfmt | none => 0)
  | 0x004 => some (w64 t.rfbase)
  | 0x005 => some (w64 (t.rfbase + t.limit))
  | 0x006 => some (w64 (((partOf (s.core k) t.ctx).map Part.size).getD 0))
  | 0x007 => some (w64 (t.chg.toNat * 2^32 + periodBits (s.core k) (t.slot.getD 64)))
  | 0x008 => some (w64 (r.fstsCode.toNat * 2^8 + r.fstsOut.toNat))
  | 0x010 => some (w64 r.fflags.toNat)
  | 0x011 => some (w64 r.frm.toNat)
  | 0x012 => some (w64 r.srseed.toNat)
  | 0x013 => some (w64 r.orhint.toNat)
  | 0x014 => some (w64 r.esel.toNat)
  | 0x018 => some (match t.claim with | some c => w64 (c.req * 2^16 + c.g) | none => 0)
  | 0x019 => some (match t.claim with | some c => w64 c.vl | none => 0)
  | 0x020 => some (mget 0xFFFFFFFFFFFFFFFF cl.trt t.ctx)
  | 0x028 => some x.hwin
  | 0x029 => some (w64 x.capep.toNat)
  | 0x02A => some x.evfut
  | 0x02B => some x.evidx
  | 0x02C => some x.msgret
  | 0x02D => some x.capden
  | 0x02E => some x.evrd
  | 0x030 => some t.stalls.therm
  | 0x031 => some t.stalls.empty
  | 0x032 => some t.stalls.tlb
  | 0x033 => some t.stalls.pers
  | 0x034 => some t.stalls.token
  | 0x035 => some t.stalls.port
  | 0x036 => some t.stalls.opnd
  | 0x038 => some xs.tag
  | 0x039 => some xs.tlb
  | 0x03A => some xs.tok
  | 0x03B => some xs.pers
  | 0x03C => some xs.therm
  | 0x03D => some xs.wait
  | 0x03E => some (s.core k).scinval
  | 0x040 => some (w64 ((if s.mgmt.sync then 2^32 else 0) + s.mgmt.peak.toNat * 2^16 + s.mgmt.skew.toNat))
  | 0x050 => some r.tvec
  | 0x051 => some r.epc
  | 0x052 => some (w64 r.ecode.toNat)
  | _ => none

/-! ## Writes (R2, R79, R82, R91, R166, R321, R328, R378, R387) -/

/-- SRSEED: a write that would leave STATE zero stores the replacement (R79). -/
def putSrseed (s : State) (tid : Nat) (v : Word) : State :=
  s.modR tid fun r => { r with srseed := srNZ (BitVec.ofNat 32 v.toNat) }

/-- FRM: an invalid mode leaves it unchanged (R82). -/
def putFrm (s : State) (tid : Nat) (v : Word) : State :=
  let m := bits v 2 0
  if 1 ≤ m && m ≤ 5 then s.modR tid fun r => { r with frm := BitVec.ofNat 3 m } else s

/-- ESEL: the partial descriptor goes (R166). -/
def putEsel (s : State) (tid : Nat) (v : Word) : State :=
  (s.modR tid fun r => { r with esel := BitVec.ofNat 2 v.toNat }).modTask tid fun t => { t with epWords := [] }

/-- EVRD: at most EVIDX (R387). -/
def putEvrd (s : State) (tid : Nat) (v : Word) : State :=
  s.modCtx (s.task tid).ctx fun c => { c with evrd := if c.evidx.ult v then c.evidx else v }

/-- EVFUT is armed (R378). -/
def putEvfut (s : State) (tid : Nat) (v : Word) : State := s.modCtx (s.task tid).ctx fun c => { c with evfut := v }

/-- TRT of the context in the whole cluster (R321). -/
def putTrt (s : State) (tid : Nat) (v : Word) : State :=
  let t := s.task tid
  s.modCluster (clOfCore t.core) fun c => { c with trt := mput 0xFFFFFFFFFFFFFFFF c.trt t.ctx v }

/-- A write of any CSR; one that is read-only changes nothing (R2). -/
def csrPut (s : State) (tid n : Nat) (v : Word) : State :=
  let ctx := (s.task tid).ctx
  match n with
  | 0x010 => s.modR tid fun r => { r with fflags := BitVec.ofNat 6 v.toNat }
  | 0x011 => putFrm s tid v
  | 0x012 => putSrseed s tid v
  | 0x013 => s.modR tid fun r => { r with orhint := BitVec.ofNat 32 v.toNat }
  | 0x014 => putEsel s tid v
  | 0x020 => putTrt s tid v
  | 0x028 => s.modCtx ctx fun c => { c with hwin := w64 (v.toNat / 2^12 * 2^12) }
  | 0x029 => s.modCtx ctx fun c => { c with capep := BitVec.ofNat 4 v.toNat }
  | 0x02A => putEvfut s tid v
  | 0x02E => putEvrd s tid v
  | 0x050 => s.modR tid fun r => { r with tvec := w64 (v.toNat / 2 * 2) }
  | 0x051 => s.modR tid fun r => { r with epc := v }
  | 0x052 => s.modR tid fun r => { r with ecode := BitVec.ofNat 7 v.toNat }
  | _ => s

/-! ## CSRR, CSRW, CSRS, CSRC (R386) -/

/-- A write is a sync point of a pair, and a read is not (R403). -/
def csrKind (n : Nat) (write : Bool) : Kind := if csrPrivileged n write then .priv else if write then .point else .plain

def execCsrr (d : BitVec 7) (c : BitVec 12) (s : State) : Res :=
  issue 4 (csrKind c.toNat false) [.dst d.toNat] (fun tid s =>
    match csrGet s tid c.toNat with
    | some v => do
      let (v, s) ← outside s tid (.ok (v, s))
      writeReg s tid d.toNat v
    | none => fault ILL_CSR) s

/-- The three writes: `f` makes the new value of the old one and the register's. -/
def csrWriteOp (a c : Nat) (f : Word → Word → Word) : State → Res :=
  issue 4 (csrKind c true) [.src a] fun tid s =>
    match csrGet s tid c with
    | none => fault ILL_CSR
    | some _ => do
      let (v, s) ← readReg s tid a
      .ok (csrPut s tid c (f ((csrGet s tid c).getD 0) v))

def execCsrw (a : BitVec 7) (c : BitVec 12) (s : State) : Res := csrWriteOp a.toNat c.toNat (fun _ v => v) s
def execCsrs (a : BitVec 7) (c : BitVec 12) (s : State) : Res := csrWriteOp a.toNat c.toNat (fun o v => o ||| v) s
def execCsrc (a : BitVec 7) (c : BitVec 12) (s : State) : Res := csrWriteOp a.toNat c.toNat (fun o v => o &&& ~~~v) s

/-! ## The same writes as events (R79, R82, R166, R321, R378, R386, R387; an event that names no live task changes
nothing, log 26) -/

def liveTask (s : State) (tid : Nat) : Bool := (mfind s.tasks tid).isSome && !ended (s.task tid)

/-- An event about a live task. -/
def taskEvent (tid : Nat) (f : State → State) (s : State) : Res := .next (if liveTask s tid then f s else s)

def execSrseedWrite (tid : Nat) (v : BitVec 64) (s : State) : Res := taskEvent tid (putSrseed · tid v) s
def execFrmWrite (tid : Nat) (v : BitVec 64) (s : State) : Res := taskEvent tid (putFrm · tid v) s
def execEselWrite (tid : Nat) (v : BitVec 64) (s : State) : Res := taskEvent tid (putEsel · tid v) s
def execEvrdWrite (tid : Nat) (v : BitVec 64) (s : State) : Res := taskEvent tid (putEvrd · tid v) s
def execEvfutWrite (tid : Nat) (v : BitVec 64) (s : State) : Res := taskEvent tid (putEvfut · tid v) s
def execTrtWrite (tid : Nat) (v : BitVec 64) (s : State) : Res := taskEvent tid (putTrt · tid v) s

/-- A write of any CSR by a thread that may write it (R367). -/
def execCsrWrite (tid : Nat) (num : BitVec 12) (v : BitVec 64) (s : State) : Res :=
  taskEvent tid (fun s => if csrPrivileged num.toNat true && !isFirmware s tid then s else csrPut s tid num.toNat v) s

end Sys2Proof.Machine
end

