-- ==== Sys2Proof/WellFormed.lean ====
section
/-! DEFINITION. Which operand values the encodings admit (spec/02 R31-R37, R45-R48, and the entries that name
ILL_OP or ILL_RSV values). `opLegal` fails where the spec reports ILL_OP, `rsvLegal` where it reports ILL_RSV. -/

namespace Sys2Proof

/-- T codes 0 to 2 are floating, 3 to 5 integer, 6 and 7 ILL_OP (spec/02 R37). -/
def isFloatT (t : BitVec 3) : Bool := t.toNat ≤ 2

/-- T names an element type (spec/02 R37). -/
def tLegal (t : BitVec 3) : Bool := t.toNat ≤ 5

/-- X for element type T: 0 to 5 for a floating type, 0 and 1 for an integer type (spec/02 R37, spec/06 R128). -/
def xLegal (t x : BitVec 3) : Bool := tLegal t && (if isFloatT t then x.toNat ≤ 5 else x.toNat ≤ 1)

/-- A scope code (spec/02 R37). -/
def scopeLegal (c : BitVec 3) : Bool := c.toNat ≤ 5

/-- An FCVT selector that is not ILL_OP (spec/05 R112): D and S are not both integer, and W = 1 needs one integer. -/
def fcvtLegal (dt st : BitVec 3) (w : BitVec 1) : Bool :=
  !(dt.toNat ≥ 6 && st.toNat ≥ 6) && (w == 0 || dt.toNat ≥ 6 || st.toNat ≥ 6)

/-- VCMP's predicate: 7 is ILL_OP, and `un` (6) is ILL_OP on an integer type (spec/06 R139). -/
def vcmpLegal (t p : BitVec 3) : Bool := tLegal t && (if isFloatT t then p.toNat ≤ 6 else p.toNat ≤ 5)

/-- A reduction's op and X codes as far as ILL_OP goes (spec/06 R144, R128). -/
def redLegal (t x : BitVec 3) (o : BitVec 4) : Bool := o.toNat ≤ 5 && xLegal t x

/-- VCVT: S = 1 only on the integer-to-integer row, whose X is 0 (spec/06 R142). -/
def vcvtRsv (t dt x : BitVec 3) (s : BitVec 1) : Bool :=
  if !isFloatT t && !isFloatT dt then x == 0 else s == 0

/-- The operand values that are not ILL_OP. -/
def Instr.opLegal : Instr → Bool
  | .pget _ _ s => s.toNat ≤ 2
  | .xadd _ _ x _ | .xsub _ _ x _ | .xmul _ _ x _ | .xmax _ _ x _ | .xmin _ _ x _ => x.toNat ≤ 2
  | .fadd _ _ p _ | .fsub _ _ p _ | .fmul _ _ p _ | .ffma _ _ p _ | .fdiv _ _ p _ | .fmin _ _ p _ | .fmax _ _ p _
  | .fcmpEq _ _ p _ | .fcmpLt _ _ p _ | .fcmpLe _ _ p _ | .fcmpUn _ _ p _ => p.toNat ≤ 1
  | .fsqrt _ _ p | .fclass _ _ p => p.toNat ≤ 1
  | .fcvt _ _ t u w | .fcvtRtz _ _ t u w | .fcvtSr _ _ t u w => fcvtLegal t u w
  | .lda _ _ c | .strel _ _ c | .fence c => scopeLegal c
  | .pref _ l _ | .prefLong _ l _ _ => l.toNat ≤ 2
  | .amo _ _ o _ c | .amof _ _ o _ c => o.toNat ≤ 9 && scopeLegal c
  | .wany _ _ n => 1 ≤ n.toNat && n.toNat ≤ 8
  | .wfld _ n => n.toNat ≤ 5
  | .mxstat _ _ s => s.toNat ≤ 4
  | .vext _ t _ _ => tLegal t
  | .vadd _ t _ x _ _ _ | .vsub _ t _ x _ _ _ | .vmul _ t _ x _ _ _ | .vfma _ t _ x _ _ _ | .vdiv _ t _ x _ _ _ => xLegal t x
  | .vmin _ t _ _ _ _ | .vmax _ t _ _ _ _ | .vand _ t _ _ _ _ | .vor _ t _ _ _ _ | .vxor _ t _ _ _ _ | .vperm _ t _ _ _ _ => tLegal t
  | .vsel _ t _ _ _ => tLegal t
  | .vshl _ t _ x _ _ _ | .vshr _ t _ x _ _ _ => xLegal t x && !isFloatT t
  | .vsqrt _ t _ x _ _ | .vrsqrt _ t _ x _ _ | .vrcp _ t _ x _ _ | .vexp2 _ t _ x _ _ | .vlog2 _ t _ x _ _
  | .vsin _ t _ x _ _ | .vtanh _ t _ x _ _ => isFloatT t && xLegal t x
  | .vcmp _ t _ p _ _ _ => vcmpLegal t p
  | .vcvt _ t _ x _ y _ _ => tLegal t && tLegal y && x.toNat ≤ 5
  | .vred _ t _ x o _ _ | .vscan _ t _ x o _ _ => redLegal t x o
  | .vquant _ t _ x q _ _ | .vdeq _ t _ x q _ _ => isFloatT t && xLegal t x && q.toNat ≤ 10
  | .tldtLong _ _ _ w _ => w.toNat ≤ 2
  | .spawnLong _ _ _ _ c n | .spawnTLong _ _ _ _ c n => c.toNat ≤ 4 && n.toNat ≤ 6
  | .spawnrLong _ _ _ _ _ c n | .spawnrTLong _ _ _ _ _ c n => c.toNat ≤ 4 && n.toNat ≤ 6
  | .vfmaLong _ t _ x _ _ _ _ => xLegal t x
  | .movCompact a b => !(a == 0 && b == 0)
  | _ => true

/-- The operand values that are not ILL_RSV: fields an entry makes zero in some of its forms. -/
def Instr.rsvLegal : Instr → Bool
  | .vcvt _ t _ x s y _ _ => vcvtRsv t y x s
  | .vred _ _ _ x o _ _ | .vscan _ _ _ x o _ _ => o == 0 || x == 0
  | .spawnLong _ _ _ e _ n | .spawnTLong _ _ _ e _ n => n != 0 || e == 0
  | .spawnrLong _ _ _ e _ _ n | .spawnrTLong _ _ _ e _ _ n => n != 0 || e == 0
  | _ => true

/-- A well-formed instruction: some encoding names it (spec/02 R47). Events have no encoding and are well-formed. -/
def Instr.wf (i : Instr) : Bool := i.opLegal && i.rsvLegal

end Sys2Proof
end

