-- ==== Sys2Proof/Decode.lean ====
section
/-! DEFINITION. Decoding and encoding (spec/02 R27-R48). An instruction is one number, bit 0 the least significant bit
of its first parcel (R27). Decoding is total and rejects by name: ILL_OP before ILL_RSV (R48). -/

namespace Sys2Proof

/-- Why some bytes are not an instruction (spec/02 R47). -/
inductive DecFault where
  /-- A reserved or illegal opcode, minor, selector or code value. -/
  | illOp
  /-- A field that must be zero is not zero (R31, R40). -/
  | illRsv
  deriving DecidableEq, Repr

/-- The field of `n` bits of `w` whose lowest bit is `lo`. -/
def fld (w lo n : Nat) : BitVec n := BitVec.ofNat n (w / 2^lo)

/-- A row of the opcode map: ILL_OP unless `op` and the instruction's own codes are legal, then ILL_RSV unless `rsv`
and the instruction's own zero fields hold (R48). -/
def row (op rsv : Bool) (i : Instr) : Except DecFault Instr :=
  if op && i.opLegal then (if rsv && i.rsvLegal then .ok i else .error .illRsv) else .error .illOp

/-- The length in bytes that the first parcel fixes (R28). -/
def parcelLen (p : Nat) : Nat := if p / 2^13 % 8 < 6 then 2 else if p / 2^13 % 8 = 6 then 4 else 8

/-- Group 0 of the compact forms (spec/02 R39-R40). -/
def decode16x0 (w : Nat) : Except DecFault Instr :=
  match w / 2^10 % 16 with
  | 0 => row (true) (true) (.movCompact (fld w 5 5) (fld w 0 5))
  | 1 => row (true) (true) (.addCompact (fld w 5 5) (fld w 0 5))
  | 2 => row (true) (true) (.subCompact (fld w 5 5) (fld w 0 5))
  | 3 => row (true) (true) (.andCompact (fld w 5 5) (fld w 0 5))
  | 4 => row (true) (true) (.orCompact (fld w 5 5) (fld w 0 5))
  | 5 => row (true) (true) (.xorCompact (fld w 5 5) (fld w 0 5))
  | 6 => row (true) (true) (.sllCompact (fld w 5 5) (fld w 0 5))
  | 7 => row (true) (true) (.srlCompact (fld w 5 5) (fld w 0 5))
  | 8 => row (true) (true) (.sraCompact (fld w 5 5) (fld w 0 5))
  | 9 => row (true) (true) (.mulCompact (fld w 5 5) (fld w 0 5))
  | 10 => row (true) (true) (.aaddCompact (fld w 5 5) (fld w 0 5))
  | 11 => row (true) (true) (.sltCompact (fld w 5 5) (fld w 0 5))
  | 12 => row (true) (true) (.lddCompact (fld w 5 5) (fld w 0 5))
  | 13 => row (true) (true) (.stdCompact (fld w 5 5) (fld w 0 5))
  | 14 => row (true) (true) (.ldwCompact (fld w 5 5) (fld w 0 5))
  | 15 => row (w / 2^4 % 2 == 0) (true) (.jalrCompact (fld w 5 5) (fld w 0 4))
  | _ => .error .illOp

/-- Group 1 of the compact forms (spec/02 R39-R40). -/
def decode16x1 (w : Nat) : Except DecFault Instr :=
  match w / 2^10 % 16 with
  | 0 => row (true) (true) (.liCompact (fld w 5 5) (fld w 0 5))
  | 1 => row (true) (true) (.addiCompact (fld w 5 5) (fld w 0 5))
  | 2 => row (true) (true) (.aaddiCompact (fld w 5 5) (fld w 0 5))
  | 3 => row (true) (true) (.slliCompact (fld w 5 5) (fld w 0 5))
  | 4 => row (true) (true) (.srliCompact (fld w 5 5) (fld w 0 5))
  | 5 => row (true) (true) (.sraiCompact (fld w 5 5) (fld w 0 5))
  | 6 => row (true) (true) (.andiCompact (fld w 5 5) (fld w 0 5))
  | 7 => row (true) (true) (.oriCompact (fld w 5 5) (fld w 0 5))
  | 8 => row (true) (true) (.xoriCompact (fld w 5 5) (fld w 0 5))
  | 9 => row (true) (true) (.sltiCompact (fld w 5 5) (fld w 0 5))
  | 10 => row (true) (true) (.lddG2Compact (fld w 5 5) (fld w 0 5))
  | 11 => row (true) (true) (.stdG2Compact (fld w 5 5) (fld w 0 5))
  | 12 => row (true) (true) (.ldwG2Compact (fld w 5 5) (fld w 0 5))
  | 13 => row (true) (true) (.stwG2Compact (fld w 5 5) (fld w 0 5))
  | 14 => row (true) (true) (.beqzCompact (fld w 5 5) (fld w 0 5))
  | 15 => row (true) (true) (.bnezCompact (fld w 5 5) (fld w 0 5))
  | _ => .error .illOp

/-- Group 2 of the compact forms (spec/02 R39-R40). -/
def decode16x2 (w : Nat) : Except DecFault Instr :=
  match w / 2^10 % 16 with
  | 0 => row (true) (true) (.touchCompact (fld w 5 5) (fld w 0 5))
  | 1 => row (true) (true) (.touchTCompact (fld w 5 5) (fld w 0 5))
  | 2 => row (true) (true) (.touchpCompact (fld w 5 5) (fld w 0 5))
  | 3 => row (true) (true) (.fstatCompact (fld w 5 5) (fld w 0 5))
  | 4 => row (true) (w / 2^5 % 32 == 0) (.frelCompact (fld w 0 5))
  | 5 => row (true) (w / 2^5 % 32 == 0) (.tendCompact (fld w 0 5))
  | 6 => row (true) (w / 2^0 % 1024 == 0) (.yieldCompact)
  | 7 => row (true) (w / 2^0 % 32 == 0) (.widCompact (fld w 5 5))
  | 8 => row (true) (w / 2^0 % 32 == 0) (.movFromEpCompact (fld w 5 5))
  | 9 => row (true) (w / 2^5 % 32 == 0) (.movToEpCompact (fld w 0 5))
  | 10 => row (true) (w / 2^0 % 32 == 0) (.movFromMpCompact (fld w 5 5))
  | 11 => row (true) (w / 2^5 % 32 == 0) (.movToMpCompact (fld w 0 5))
  | 12 => row (true) (true) (.faddSCompact (fld w 5 5) (fld w 0 5))
  | 13 => row (true) (true) (.fmulSCompact (fld w 5 5) (fld w 0 5))
  | 14 => row (true) (w / 2^0 % 1024 == 0) (.nopCompact)
  | 15 => row (true) (w / 2^5 % 32 == 0) (.brkCompact (fld w 0 5))
  | _ => .error .illOp

/-- The compact forms (spec/02 R39). -/
def decode16 (w : Nat) : Except DecFault Instr :=
  match w / 2^14 % 4 with
  | 0 => decode16x0 w
  | 1 => decode16x1 w
  | 2 => decode16x2 w
  | _ => .error .illOp

/-- Major 0x00 of the 32-bit forms (spec/02 R45). -/
def decode32x00 (w : Nat) : Except DecFault Instr :=
  match w / 2^16 % 4 with
  | 0 => row (true) (true) (.add (fld w 0 7) (fld w 25 7) (fld w 18 7))
  | 1 => row (true) (true) (.sub (fld w 0 7) (fld w 25 7) (fld w 18 7))
  | 2 => row (true) (true) (.slt (fld w 0 7) (fld w 25 7) (fld w 18 7))
  | 3 => row (true) (true) (.sltu (fld w 0 7) (fld w 25 7) (fld w 18 7))
  | _ => .error .illOp

/-- Major 0x01 of the 32-bit forms (spec/02 R45). -/
def decode32x01 (w : Nat) : Except DecFault Instr :=
  match w / 2^16 % 4 with
  | 0 => row (true) (true) (.and (fld w 0 7) (fld w 25 7) (fld w 18 7))
  | 1 => row (true) (true) (.or (fld w 0 7) (fld w 25 7) (fld w 18 7))
  | 2 => row (true) (true) (.xor (fld w 0 7) (fld w 25 7) (fld w 18 7))
  | 3 => row (true) (true) (.sel (fld w 0 7) (fld w 25 7) (fld w 18 7))
  | _ => .error .illOp

/-- Major 0x02 of the 32-bit forms (spec/02 R45). -/
def decode32x02 (w : Nat) : Except DecFault Instr :=
  match w / 2^16 % 4 with
  | 0 => row (true) (true) (.sll (fld w 0 7) (fld w 25 7) (fld w 18 7))
  | 1 => row (true) (true) (.srl (fld w 0 7) (fld w 25 7) (fld w 18 7))
  | 2 => row (true) (true) (.sra (fld w 0 7) (fld w 25 7) (fld w 18 7))
  | 3 => match w / 2^18 % 128 with
    | 0 => row (true) (true) (.clz (fld w 0 7) (fld w 25 7))
    | 1 => row (true) (true) (.ctz (fld w 0 7) (fld w 25 7))
    | 2 => row (true) (true) (.popc (fld w 0 7) (fld w 25 7))
    | _ => .error .illOp
  | _ => .error .illOp

/-- Major 0x03 of the 32-bit forms (spec/02 R45). -/
def decode32x03 (w : Nat) : Except DecFault Instr :=
  match w / 2^16 % 4 with
  | 0 => row (true) (true) (.mul (fld w 0 7) (fld w 25 7) (fld w 18 7))
  | 1 => row (true) (true) (.mulh (fld w 0 7) (fld w 25 7) (fld w 18 7))
  | 2 => row (true) (true) (.mulhu (fld w 0 7) (fld w 25 7) (fld w 18 7))
  | _ => .error .illOp

/-- Major 0x04 of the 32-bit forms (spec/02 R45). -/
def decode32x04 (w : Nat) : Except DecFault Instr :=
  match w / 2^16 % 4 with
  | 0 => row (true) (true) (.div (fld w 0 7) (fld w 25 7) (fld w 18 7))
  | 1 => row (true) (true) (.divu (fld w 0 7) (fld w 25 7) (fld w 18 7))
  | 2 => row (true) (true) (.rem (fld w 0 7) (fld w 25 7) (fld w 18 7))
  | 3 => row (true) (true) (.remu (fld w 0 7) (fld w 25 7) (fld w 18 7))
  | _ => .error .illOp

/-- Major 0x05 of the 32-bit forms (spec/02 R45). -/
def decode32x05 (w : Nat) : Except DecFault Instr :=
  match w / 2^16 % 4 with
  | 0 => row (true) (true) (.min (fld w 0 7) (fld w 25 7) (fld w 18 7))
  | 1 => row (true) (true) (.max (fld w 0 7) (fld w 25 7) (fld w 18 7))
  | 2 => row (true) (true) (.minu (fld w 0 7) (fld w 25 7) (fld w 18 7))
  | 3 => row (true) (true) (.maxu (fld w 0 7) (fld w 25 7) (fld w 18 7))
  | _ => .error .illOp

/-- Major 0x08 of the 32-bit forms (spec/02 R45). -/
def decode32x08 (w : Nat) : Except DecFault Instr :=
  match w / 2^16 % 4 with
  | 0 => row (true) (true) (.aadd (fld w 0 7) (fld w 25 7) (fld w 18 7))
  | 1 => row (true) (true) (.pget (fld w 0 7) (fld w 25 7) (fld w 18 7))
  | 2 => row (true) (true) (.bfx (fld w 0 7) (fld w 25 7) (fld w 18 7))
  | 3 => row (true) (true) (.bfi (fld w 0 7) (fld w 25 7) (fld w 18 7))
  | _ => .error .illOp

/-- Major 0x0B of the 32-bit forms (spec/02 R45). -/
def decode32x0b (w : Nat) : Except DecFault Instr :=
  match w / 2^22 % 8 with
  | 0 => row (true) (true) (.slli (fld w 0 7) (fld w 25 7) (fld w 16 6))
  | 1 => row (true) (true) (.srli (fld w 0 7) (fld w 25 7) (fld w 16 6))
  | 2 => row (true) (true) (.srai (fld w 0 7) (fld w 25 7) (fld w 16 6))
  | 3 => row (true) (true) (.andi (fld w 0 7) (fld w 25 7) (fld w 16 6))
  | 4 => row (true) (true) (.ori (fld w 0 7) (fld w 25 7) (fld w 16 6))
  | 5 => row (true) (true) (.xori (fld w 0 7) (fld w 25 7) (fld w 16 6))
  | 6 => row (true) (true) (.slti (fld w 0 7) (fld w 25 7) (fld w 16 6))
  | _ => .error .illOp

/-- Major 0x0C of the 32-bit forms (spec/02 R45). -/
def decode32x0c (w : Nat) : Except DecFault Instr :=
  match w / 2^16 % 4 with
  | 0 => row (true) (true) (.xadd (fld w 0 7) (fld w 25 7) (fld w 23 2) (fld w 18 5))
  | 1 => row (true) (true) (.xsub (fld w 0 7) (fld w 25 7) (fld w 23 2) (fld w 18 5))
  | 2 => row (true) (true) (.xmul (fld w 0 7) (fld w 25 7) (fld w 23 2) (fld w 18 5))
  | 3 => row (true) (true) (.xmax (fld w 0 7) (fld w 25 7) (fld w 23 2) (fld w 18 5))
  | _ => .error .illOp

/-- Major 0x0D of the 32-bit forms (spec/02 R45). -/
def decode32x0d (w : Nat) : Except DecFault Instr :=
  match w / 2^16 % 4 with
  | 0 => row (true) (true) (.xmin (fld w 0 7) (fld w 25 7) (fld w 23 2) (fld w 18 5))
  | 1 => row (w / 2^23 % 4 == 0) (true) (.xdotB (fld w 0 7) (fld w 25 7) (fld w 18 5))
  | _ => .error .illOp

/-- Major 0x0E of the 32-bit forms (spec/02 R45). -/
def decode32x0e (w : Nat) : Except DecFault Instr :=
  match w / 2^16 % 4 with
  | 0 => row (true) (true) (.fadd (fld w 0 7) (fld w 25 7) (fld w 23 2) (fld w 18 5))
  | 1 => row (true) (true) (.fsub (fld w 0 7) (fld w 25 7) (fld w 23 2) (fld w 18 5))
  | 2 => row (true) (true) (.fmul (fld w 0 7) (fld w 25 7) (fld w 23 2) (fld w 18 5))
  | 3 => row (true) (true) (.ffma (fld w 0 7) (fld w 25 7) (fld w 23 2) (fld w 18 5))
  | _ => .error .illOp

/-- Major 0x0F of the 32-bit forms (spec/02 R45). -/
def decode32x0f (w : Nat) : Except DecFault Instr :=
  match w / 2^16 % 4 with
  | 0 => row (true) (true) (.fdiv (fld w 0 7) (fld w 25 7) (fld w 23 2) (fld w 18 5))
  | 1 => row (true) (w / 2^18 % 32 == 0) (.fsqrt (fld w 0 7) (fld w 25 7) (fld w 23 2))
  | 2 => row (true) (true) (.fmin (fld w 0 7) (fld w 25 7) (fld w 23 2) (fld w 18 5))
  | 3 => row (true) (true) (.fmax (fld w 0 7) (fld w 25 7) (fld w 23 2) (fld w 18 5))
  | _ => .error .illOp

/-- Major 0x10 of the 32-bit forms (spec/02 R45). -/
def decode32x10 (w : Nat) : Except DecFault Instr :=
  match w / 2^16 % 4 with
  | 0 => row (true) (true) (.fcmpEq (fld w 0 7) (fld w 25 7) (fld w 23 2) (fld w 18 5))
  | 1 => row (true) (true) (.fcmpLt (fld w 0 7) (fld w 25 7) (fld w 23 2) (fld w 18 5))
  | 2 => row (true) (true) (.fcmpLe (fld w 0 7) (fld w 25 7) (fld w 23 2) (fld w 18 5))
  | 3 => row (true) (true) (.fcmpUn (fld w 0 7) (fld w 25 7) (fld w 23 2) (fld w 18 5))
  | _ => .error .illOp

/-- Major 0x11 of the 32-bit forms (spec/02 R45). -/
def decode32x11 (w : Nat) : Except DecFault Instr :=
  match w / 2^16 % 4 with
  | 0 => row (true) (w / 2^18 % 32 == 0) (.fclass (fld w 0 7) (fld w 25 7) (fld w 23 2))
  | 1 => row (true) (true) (.fcvt (fld w 0 7) (fld w 25 7) (fld w 22 3) (fld w 19 3) (fld w 18 1))
  | 2 => row (true) (true) (.fcvtRtz (fld w 0 7) (fld w 25 7) (fld w 22 3) (fld w 19 3) (fld w 18 1))
  | 3 => row (true) (true) (.fcvtSr (fld w 0 7) (fld w 25 7) (fld w 22 3) (fld w 19 3) (fld w 18 1))
  | _ => .error .illOp

/-- Major 0x12 of the 32-bit forms (spec/02 R45). -/
def decode32x12 (w : Nat) : Except DecFault Instr :=
  match w / 2^25 % 8 with
  | 0 => row (true) (true) (.beq (fld w 0 7) (fld w 28 4) (fld w 16 9))
  | 1 => row (true) (true) (.bne (fld w 0 7) (fld w 28 4) (fld w 16 9))
  | 2 => row (true) (true) (.blt (fld w 0 7) (fld w 28 4) (fld w 16 9))
  | 3 => row (true) (true) (.bge (fld w 0 7) (fld w 28 4) (fld w 16 9))
  | 4 => row (true) (true) (.bltu (fld w 0 7) (fld w 28 4) (fld w 16 9))
  | 5 => row (true) (true) (.bgeu (fld w 0 7) (fld w 28 4) (fld w 16 9))
  | 6 => row (true) (true) (.jalr (fld w 0 7) (fld w 28 4) (fld w 16 9))
  | _ => .error .illOp

/-- Major 0x16 of the 32-bit forms (spec/02 R45). -/
def decode32x16 (w : Nat) : Except DecFault Instr :=
  match w / 2^22 % 8 with
  | 0 => row (true) (true) (.ldb (fld w 0 7) (fld w 25 7) (fld w 16 6))
  | 1 => row (true) (true) (.ldbu (fld w 0 7) (fld w 25 7) (fld w 16 6))
  | 2 => row (true) (true) (.ldh (fld w 0 7) (fld w 25 7) (fld w 16 6))
  | 3 => row (true) (true) (.ldhu (fld w 0 7) (fld w 25 7) (fld w 16 6))
  | 4 => row (true) (true) (.ldw (fld w 0 7) (fld w 25 7) (fld w 16 6))
  | 5 => row (true) (true) (.ldwu (fld w 0 7) (fld w 25 7) (fld w 16 6))
  | 6 => row (true) (true) (.ldd (fld w 0 7) (fld w 25 7) (fld w 16 6))
  | _ => .error .illOp

/-- Major 0x17 of the 32-bit forms (spec/02 R45). -/
def decode32x17 (w : Nat) : Except DecFault Instr :=
  match w / 2^23 % 4 with
  | 0 => row (true) (true) (.stb (fld w 0 7) (fld w 25 7) (fld w 16 7))
  | 1 => row (true) (true) (.sth (fld w 0 7) (fld w 25 7) (fld w 16 7))
  | 2 => row (true) (true) (.stw (fld w 0 7) (fld w 25 7) (fld w 16 7))
  | 3 => row (true) (true) (.std (fld w 0 7) (fld w 25 7) (fld w 16 7))
  | _ => .error .illOp

/-- Major 0x18 of the 32-bit forms (spec/02 R45). -/
def decode32x18 (w : Nat) : Except DecFault Instr :=
  match w / 2^16 % 4 with
  | 0 => row (true) (true) (.ldt (fld w 0 7) (fld w 25 7) (fld w 18 7))
  | 1 => row (true) (true) (.stt (fld w 0 7) (fld w 25 7) (fld w 18 7))
  | 2 => row (true) (w / 2^21 % 16 == 0) (.lda (fld w 0 7) (fld w 25 7) (fld w 18 3))
  | 3 => row (true) (w / 2^21 % 16 == 0) (.strel (fld w 0 7) (fld w 25 7) (fld w 18 3))
  | _ => .error .illOp

/-- Major 0x19 of the 32-bit forms (spec/02 R45). -/
def decode32x19 (w : Nat) : Except DecFault Instr :=
  match w / 2^16 % 4 with
  | 0 => row (true) (w / 2^0 % 128 == 0 && w / 2^21 % 2048 == 0) (.fence (fld w 18 3))
  | 1 => row (true) (w / 2^0 % 128 == 0 && w / 2^18 % 16384 == 0) (.ifence)
  | 2 => row (true) (w / 2^0 % 128 == 0 && w / 2^21 % 16 == 0) (.pref (fld w 25 7) (fld w 19 2) (fld w 18 1))
  | 3 => row (true) (w / 2^21 % 16 == 0) (.spamo (fld w 0 7) (fld w 25 7) (fld w 18 3))
  | _ => .error .illOp

/-- Major 0x1A of the 32-bit forms (spec/02 R45). -/
def decode32x1a (w : Nat) : Except DecFault Instr :=
  match w / 2^16 % 4 with
  | 0 => row (true) (true) (.stash (fld w 0 7) (fld w 25 7) (fld w 18 7))
  | 1 => row (true) (w / 2^18 % 128 == 0) (.unstash (fld w 0 7) (fld w 25 7))
  | 2 => row (true) (w / 2^0 % 128 == 0) (.wbk (fld w 25 7) (fld w 18 7))
  | 3 => row (true) (w / 2^0 % 128 == 0) (.disc (fld w 25 7) (fld w 18 7))
  | _ => .error .illOp

/-- Major 0x1B of the 32-bit forms (spec/02 R45). -/
def decode32x1b (w : Nat) : Except DecFault Instr :=
  match w / 2^16 % 4 with
  | 0 => row (true) (true) (.ubresv (fld w 0 7) (fld w 25 7) (fld w 18 7))
  | 1 => row (true) (true) (.ubmigr (fld w 0 7) (fld w 25 7) (fld w 18 7))
  | 2 => row (true) (w / 2^18 % 128 == 0) (.ldlk (fld w 0 7) (fld w 25 7))
  | 3 => row (true) (w / 2^18 % 128 == 0) (.stul (fld w 0 7) (fld w 25 7))
  | _ => .error .illOp

/-- Major 0x1E of the 32-bit forms (spec/02 R45). -/
def decode32x1e (w : Nat) : Except DecFault Instr :=
  match w / 2^16 % 4 with
  | 0 => row (true) (w / 2^18 % 128 == 0) (.get (fld w 0 7) (fld w 25 7))
  | 1 => row (true) (w / 2^18 % 128 == 0) (.put (fld w 0 7) (fld w 25 7))
  | 2 => row (true) (w / 2^18 % 128 == 0) (.xcpy (fld w 0 7) (fld w 25 7))
  | 3 => row (true) (w / 2^18 % 128 == 0) (.xcpy2 (fld w 0 7) (fld w 25 7))
  | _ => .error .illOp

/-- Major 0x1F of the 32-bit forms (spec/02 R45). -/
def decode32x1f (w : Nat) : Except DecFault Instr :=
  match w / 2^16 % 4 with
  | 0 => row (true) (true) (.swinit (fld w 0 7) (fld w 25 7) (fld w 18 7))
  | 1 => row (true) (true) (.swfut (fld w 0 7) (fld w 25 7) (fld w 18 7))
  | _ => .error .illOp

/-- Major 0x24 of the 32-bit forms (spec/02 R45). -/
def decode32x24 (w : Nat) : Except DecFault Instr :=
  match w / 2^16 % 4 with
  | 0 => row (true) (true) (.spawnr (fld w 0 7) (fld w 25 7) (fld w 18 7))
  | 1 => row (true) (w / 2^18 % 128 == 0) (.touch (fld w 0 7) (fld w 25 7))
  | 2 => row (true) (w / 2^18 % 128 == 0) (.touchT (fld w 0 7) (fld w 25 7))
  | 3 => row (true) (w / 2^18 % 128 == 0) (.touchp (fld w 0 7) (fld w 25 7))
  | _ => .error .illOp

/-- Major 0x25 of the 32-bit forms (spec/02 R45). -/
def decode32x25 (w : Nat) : Except DecFault Instr :=
  match w / 2^16 % 4 with
  | 0 => row (true) (true) (.wany (fld w 0 7) (fld w 25 7) (fld w 18 7))
  | 1 => row (true) (w / 2^18 % 128 == 0) (.fnew (fld w 0 7) (fld w 25 7))
  | 2 => row (true) (true) (.resolve (fld w 0 7) (fld w 25 7) (fld w 18 7))
  | 3 => row (true) (true) (.fpois (fld w 0 7) (fld w 25 7) (fld w 18 7))
  | _ => .error .illOp

/-- Major 0x26 of the 32-bit forms (spec/02 R45). -/
def decode32x26 (w : Nat) : Except DecFault Instr :=
  match w / 2^16 % 4 with
  | 0 => row (true) (w / 2^18 % 128 == 0) (.cancel (fld w 0 7) (fld w 25 7))
  | 1 => row (true) (w / 2^0 % 128 == 0 && w / 2^18 % 128 == 0) (.frel (fld w 25 7))
  | 2 => row (true) (w / 2^18 % 128 == 0) (.fstat (fld w 0 7) (fld w 25 7))
  | 3 => row (true) (w / 2^0 % 128 == 0 && w / 2^18 % 16384 == 0) (.yield)
  | _ => .error .illOp

/-- Major 0x27 of the 32-bit forms (spec/02 R45). -/
def decode32x27 (w : Nat) : Except DecFault Instr :=
  match w / 2^16 % 4 with
  | 0 => row (true) (w / 2^0 % 128 == 0 && w / 2^18 % 128 == 0) (.tend (fld w 25 7))
  | 1 => row (true) (w / 2^18 % 16384 == 0) (.wid (fld w 0 7))
  | 2 => row (true) (w / 2^25 % 128 == 0) (.wfld (fld w 0 7) (fld w 18 7))
  | _ => .error .illOp

/-- Major 0x28 of the 32-bit forms (spec/02 R45). -/
def decode32x28 (w : Nat) : Except DecFault Instr :=
  match w / 2^16 % 4 with
  | 0 => row (true) (true) (.bari (fld w 0 7) (fld w 25 7) (fld w 18 7))
  | 1 => row (true) (true) (.bara (fld w 0 7) (fld w 25 7) (fld w 18 7))
  | 2 => row (true) (true) (.barad (fld w 0 7) (fld w 25 7) (fld w 18 7))
  | 3 => row (true) (true) (.barw (fld w 0 7) (fld w 25 7) (fld w 18 7))
  | _ => .error .illOp

/-- Major 0x29 of the 32-bit forms (spec/02 R45). -/
def decode32x29 (w : Nat) : Except DecFault Instr :=
  match w / 2^16 % 4 with
  | 0 => row (true) (w / 2^0 % 128 == 0) (.msend (fld w 25 7) (fld w 18 7))
  | 1 => row (true) (w / 2^0 % 128 == 0 && w / 2^18 % 16384 == 0) (.mdone)
  | _ => .error .illOp

/-- Major 0x2A of the 32-bit forms (spec/02 R45). -/
def decode32x2a (w : Nat) : Except DecFault Instr :=
  match w / 2^16 % 4 with
  | 0 => row (true) (w / 2^18 % 128 == 0) (.waitt (fld w 0 7) (fld w 25 7))
  | 1 => row (true) (w / 2^0 % 128 == 0 && w / 2^18 % 128 == 0) (.atset (fld w 25 7))
  | 2 => row (true) (true) (.stream (fld w 0 7) (fld w 25 7) (fld w 18 7))
  | _ => .error .illOp

/-- Major 0x2B of the 32-bit forms (spec/02 R45). -/
def decode32x2b (w : Nat) : Except DecFault Instr :=
  match w / 2^16 % 4 with
  | 0 => row (true) (w / 2^18 % 128 == 0) (.vclaim (fld w 0 7) (fld w 25 7))
  | 1 => row (true) (w / 2^0 % 128 == 0 && w / 2^18 % 16384 == 0) (.vrel)
  | _ => .error .illOp

/-- Major 0x2C of the 32-bit forms (spec/02 R45). -/
def decode32x2c (w : Nat) : Except DecFault Instr :=
  match w / 2^16 % 4 with
  | 0 => row (true) (w / 2^18 % 128 == 0) (.vsetvl (fld w 0 7) (fld w 25 7))
  | 1 => row (true) (w / 2^18 % 128 == 0) (.vld (fld w 0 4) (fld w 25 7) (fld w 6 1) (fld w 4 2))
  | 2 => row (true) (w / 2^18 % 128 == 0) (.vst (fld w 0 4) (fld w 25 7) (fld w 6 1) (fld w 4 2))
  | 3 => row (true) (true) (.vlds (fld w 0 4) (fld w 25 7) (fld w 18 7) (fld w 6 1) (fld w 4 2))
  | _ => .error .illOp

/-- Major 0x2D of the 32-bit forms (spec/02 R45). -/
def decode32x2d (w : Nat) : Except DecFault Instr :=
  match w / 2^16 % 4 with
  | 0 => row (true) (w / 2^22 % 8 == 0) (.vgath (fld w 0 4) (fld w 25 7) (fld w 18 4) (fld w 6 1) (fld w 4 2))
  | 1 => row (true) (w / 2^22 % 8 == 0) (.vscat (fld w 0 4) (fld w 25 7) (fld w 18 4) (fld w 6 1) (fld w 4 2))
  | 2 => row (true) (w / 2^18 % 128 == 0) (.vbcast (fld w 0 4) (fld w 25 7) (fld w 6 1) (fld w 4 2))
  | 3 => row (true) (true) (.vext (fld w 0 7) (fld w 29 3) (fld w 25 4) (fld w 18 7))
  | _ => .error .illOp

/-- Major 0x2E of the 32-bit forms (spec/02 R45). -/
def decode32x2e (w : Nat) : Except DecFault Instr :=
  match w / 2^16 % 4 with
  | 0 => row (true) (true) (.vadd (fld w 0 4) (fld w 29 3) (fld w 25 4) (fld w 22 3) (fld w 18 4) (fld w 6 1) (fld w 4 2))
  | 1 => row (true) (true) (.vsub (fld w 0 4) (fld w 29 3) (fld w 25 4) (fld w 22 3) (fld w 18 4) (fld w 6 1) (fld w 4 2))
  | 2 => row (true) (true) (.vmul (fld w 0 4) (fld w 29 3) (fld w 25 4) (fld w 22 3) (fld w 18 4) (fld w 6 1) (fld w 4 2))
  | 3 => row (true) (true) (.vfma (fld w 0 4) (fld w 29 3) (fld w 25 4) (fld w 22 3) (fld w 18 4) (fld w 6 1) (fld w 4 2))
  | _ => .error .illOp

/-- Major 0x2F of the 32-bit forms (spec/02 R45). -/
def decode32x2f (w : Nat) : Except DecFault Instr :=
  match w / 2^16 % 4 with
  | 0 => row (xLegal (fld w 29 3) (fld w 22 3)) (w / 2^22 % 8 == 0) (.vmin (fld w 0 4) (fld w 29 3) (fld w 25 4) (fld w 18 4) (fld w 6 1) (fld w 4 2))
  | 1 => row (xLegal (fld w 29 3) (fld w 22 3)) (w / 2^22 % 8 == 0) (.vmax (fld w 0 4) (fld w 29 3) (fld w 25 4) (fld w 18 4) (fld w 6 1) (fld w 4 2))
  | 2 => row (true) (true) (.vdiv (fld w 0 4) (fld w 29 3) (fld w 25 4) (fld w 22 3) (fld w 18 4) (fld w 6 1) (fld w 4 2))
  | 3 => match w / 2^18 % 16 with
    | 0 => row (true) (true) (.vsqrt (fld w 0 4) (fld w 29 3) (fld w 25 4) (fld w 22 3) (fld w 6 1) (fld w 4 2))
    | 1 => row (true) (true) (.vrsqrt (fld w 0 4) (fld w 29 3) (fld w 25 4) (fld w 22 3) (fld w 6 1) (fld w 4 2))
    | 2 => row (true) (true) (.vrcp (fld w 0 4) (fld w 29 3) (fld w 25 4) (fld w 22 3) (fld w 6 1) (fld w 4 2))
    | 3 => row (true) (true) (.vexp2 (fld w 0 4) (fld w 29 3) (fld w 25 4) (fld w 22 3) (fld w 6 1) (fld w 4 2))
    | 4 => row (true) (true) (.vlog2 (fld w 0 4) (fld w 29 3) (fld w 25 4) (fld w 22 3) (fld w 6 1) (fld w 4 2))
    | 5 => row (true) (true) (.vsin (fld w 0 4) (fld w 29 3) (fld w 25 4) (fld w 22 3) (fld w 6 1) (fld w 4 2))
    | 6 => row (true) (true) (.vtanh (fld w 0 4) (fld w 29 3) (fld w 25 4) (fld w 22 3) (fld w 6 1) (fld w 4 2))
    | _ => .error .illOp
  | _ => .error .illOp

/-- Major 0x30 of the 32-bit forms (spec/02 R45). -/
def decode32x30 (w : Nat) : Except DecFault Instr :=
  match w / 2^16 % 4 with
  | 0 => row (xLegal (fld w 29 3) (fld w 22 3)) (w / 2^22 % 8 == 0) (.vand (fld w 0 4) (fld w 29 3) (fld w 25 4) (fld w 18 4) (fld w 6 1) (fld w 4 2))
  | 1 => row (xLegal (fld w 29 3) (fld w 22 3)) (w / 2^22 % 8 == 0) (.vor (fld w 0 4) (fld w 29 3) (fld w 25 4) (fld w 18 4) (fld w 6 1) (fld w 4 2))
  | 2 => row (xLegal (fld w 29 3) (fld w 22 3)) (w / 2^22 % 8 == 0) (.vxor (fld w 0 4) (fld w 29 3) (fld w 25 4) (fld w 18 4) (fld w 6 1) (fld w 4 2))
  | 3 => row (true) (true) (.vshl (fld w 0 4) (fld w 29 3) (fld w 25 4) (fld w 22 3) (fld w 18 4) (fld w 6 1) (fld w 4 2))
  | _ => .error .illOp

/-- Major 0x31 of the 32-bit forms (spec/02 R45). -/
def decode32x31 (w : Nat) : Except DecFault Instr :=
  match w / 2^16 % 4 with
  | 0 => row (true) (true) (.vshr (fld w 0 4) (fld w 29 3) (fld w 25 4) (fld w 22 3) (fld w 18 4) (fld w 6 1) (fld w 4 2))
  | 1 => row (true) (w / 2^2 % 4 == 0) (.vcmp (fld w 0 2) (fld w 29 3) (fld w 25 4) (fld w 22 3) (fld w 18 4) (fld w 6 1) (fld w 4 2))
  | 2 => row (w / 2^6 % 2 == 1 && xLegal (fld w 29 3) (fld w 22 3)) (w / 2^22 % 8 == 0) (.vsel (fld w 0 4) (fld w 29 3) (fld w 25 4) (fld w 18 4) (fld w 4 2))
  | 3 => row (true) (true) (.vcvt (fld w 0 4) (fld w 29 3) (fld w 25 4) (fld w 22 3) (fld w 21 1) (fld w 18 3) (fld w 6 1) (fld w 4 2))
  | _ => .error .illOp

/-- Major 0x32 of the 32-bit forms (spec/02 R45). -/
def decode32x32 (w : Nat) : Except DecFault Instr :=
  match w / 2^16 % 4 with
  | 0 => row (true) (true) (.vred (fld w 0 4) (fld w 29 3) (fld w 25 4) (fld w 22 3) (fld w 18 4) (fld w 6 1) (fld w 4 2))
  | 1 => row (true) (true) (.vscan (fld w 0 4) (fld w 29 3) (fld w 25 4) (fld w 22 3) (fld w 18 4) (fld w 6 1) (fld w 4 2))
  | 2 => row (xLegal (fld w 29 3) (fld w 22 3)) (w / 2^22 % 8 == 0) (.vperm (fld w 0 4) (fld w 29 3) (fld w 25 4) (fld w 18 4) (fld w 6 1) (fld w 4 2))
  | _ => .error .illOp

/-- Major 0x33 of the 32-bit forms (spec/02 R45). -/
def decode32x33 (w : Nat) : Except DecFault Instr :=
  match w / 2^16 % 4 with
  | 0 => row (true) (true) (.vquant (fld w 0 4) (fld w 29 3) (fld w 25 4) (fld w 22 3) (fld w 18 4) (fld w 6 1) (fld w 4 2))
  | 1 => row (true) (true) (.vdeq (fld w 0 4) (fld w 29 3) (fld w 25 4) (fld w 22 3) (fld w 18 4) (fld w 6 1) (fld w 4 2))
  | _ => .error .illOp

/-- Major 0x34 of the 32-bit forms (spec/02 R45). -/
def decode32x34 (w : Nat) : Except DecFault Instr :=
  match w / 2^16 % 4 with
  | 0 => row (true) (true) (.mxcfg (fld w 0 7) (fld w 25 7) (fld w 18 7))
  | 1 => row (true) (w / 2^18 % 128 == 0) (.trel (fld w 0 7) (fld w 25 7))
  | 2 => row (true) (true) (.mxstat (fld w 0 7) (fld w 25 7) (fld w 18 7))
  | _ => .error .illOp

/-- Major 0x35 of the 32-bit forms (spec/02 R45). -/
def decode32x35 (w : Nat) : Except DecFault Instr :=
  match w / 2^16 % 4 with
  | 0 => row (true) (w / 2^18 % 128 == 0) (.mxsub (fld w 0 7) (fld w 25 7))
  | 1 => row (true) (true) (.mxsubc (fld w 0 7) (fld w 25 7) (fld w 18 7))
  | _ => .error .illOp

/-- Major 0x36 of the 32-bit forms (spec/02 R45). -/
def decode32x36 (w : Nat) : Except DecFault Instr :=
  match w / 2^16 % 4 with
  | 0 => row (true) (true) (.tldt (fld w 0 7) (fld w 25 7) (fld w 18 7))
  | 1 => row (true) (true) (.tswap (fld w 0 7) (fld w 25 7) (fld w 18 7))
  | _ => .error .illOp

/-- Major 0x38 of the 32-bit forms (spec/02 R45). -/
def decode32x38 (w : Nat) : Except DecFault Instr :=
  match w / 2^28 % 16 with
  | 0 => row (true) (true) (.csrr (fld w 0 7) (fld w 16 12))
  | 1 => row (true) (true) (.csrw (fld w 0 7) (fld w 16 12))
  | 2 => row (true) (true) (.csrs (fld w 0 7) (fld w 16 12))
  | 3 => row (true) (true) (.csrc (fld w 0 7) (fld w 16 12))
  | _ => .error .illOp

/-- Major 0x39 of the 32-bit forms (spec/02 R45). -/
def decode32x39 (w : Nat) : Except DecFault Instr :=
  match w / 2^16 % 4 with
  | 0 => row (true) (w / 2^0 % 128 == 0 && w / 2^25 % 128 == 0) (.trap (fld w 18 7))
  | 1 => row (true) (w / 2^0 % 128 == 0 && w / 2^18 % 16384 == 0) (.eret)
  | 2 => row (true) (w / 2^0 % 128 == 0 && w / 2^25 % 128 == 0) (.brk (fld w 18 7))
  | 3 => row (true) (w / 2^0 % 128 == 0 && w / 2^18 % 16384 == 0) (.nop)
  | _ => .error .illOp

/-- Major 0x3A of the 32-bit forms (spec/02 R45). -/
def decode32x3a (w : Nat) : Except DecFault Instr :=
  match w / 2^16 % 4 with
  | 0 => row (true) (true) (.tlbw (fld w 0 7) (fld w 25 7) (fld w 18 7))
  | 1 => row (true) (true) (.tlbinv (fld w 0 7) (fld w 25 7) (fld w 18 7))
  | 2 => row (true) (true) (.slotw (fld w 0 7) (fld w 25 7) (fld w 18 7))
  | 3 => row (true) (true) (.mapcl (fld w 0 7) (fld w 25 7) (fld w 18 7))
  | _ => .error .illOp

/-- Major 0x3B of the 32-bit forms (spec/02 R45). -/
def decode32x3b (w : Nat) : Except DecFault Instr :=
  match w / 2^16 % 4 with
  | 0 => row (true) (true) (.capmk (fld w 0 7) (fld w 25 7) (fld w 18 7))
  | _ => .error .illOp

/-- Major 0x3C of the 32-bit forms (spec/02 R45). -/
def decode32x3c (w : Nat) : Except DecFault Instr :=
  match w / 2^16 % 4 with
  | 0 => row (true) (w / 2^18 % 16384 == 0) (.pair (fld w 0 7))
  | 1 => row (true) (w / 2^18 % 16384 == 0) (.unpair (fld w 0 7))
  | 2 => row (true) (w / 2^18 % 16384 == 0) (.ckpt (fld w 0 7))
  | 3 => row (true) (true) (.pchk (fld w 0 7) (fld w 25 7) (fld w 18 7))
  | _ => .error .illOp

/-- The 32-bit forms (spec/02 R30-R37, R45). -/
def decode32 (w : Nat) : Except DecFault Instr :=
  match w / 2^7 % 64 with
  | 0 => decode32x00 w
  | 1 => decode32x01 w
  | 2 => decode32x02 w
  | 3 => decode32x03 w
  | 4 => decode32x04 w
  | 5 => decode32x05 w
  | 6 => row (true) (true) (.lih (fld w 0 7) (fld w 16 16))
  | 7 => row (true) (true) (.addi (fld w 0 7) (fld w 25 7) (fld w 16 9))
  | 8 => decode32x08 w
  | 9 => row (true) (true) (.aaddi (fld w 0 7) (fld w 25 7) (fld w 16 9))
  | 10 => row (true) (true) (.pfmt (fld w 0 7) (fld w 25 7) (fld w 19 6) (fld w 16 3))
  | 11 => decode32x0b w
  | 12 => decode32x0c w
  | 13 => decode32x0d w
  | 14 => decode32x0e w
  | 15 => decode32x0f w
  | 16 => decode32x10 w
  | 17 => decode32x11 w
  | 18 => decode32x12 w
  | 19 => row (true) (true) (.beqz (fld w 0 7) (fld w 16 16))
  | 20 => row (true) (true) (.bnez (fld w 0 7) (fld w 16 16))
  | 21 => row (true) (true) (.jal (fld w 0 7) (fld w 16 16))
  | 22 => decode32x16 w
  | 23 => decode32x17 w
  | 24 => decode32x18 w
  | 25 => decode32x19 w
  | 26 => decode32x1a w
  | 27 => decode32x1b w
  | 28 => row (true) (true) (.amo (fld w 0 7) (fld w 25 7) (fld w 21 4) (fld w 19 2) (fld w 16 3))
  | 29 => row (true) (true) (.amof (fld w 0 7) (fld w 25 7) (fld w 21 4) (fld w 19 2) (fld w 16 3))
  | 30 => decode32x1e w
  | 31 => decode32x1f w
  | 34 => row (true) (true) (.spawn (fld w 0 7) (fld w 16 16))
  | 35 => row (true) (true) (.spawnT (fld w 0 7) (fld w 16 16))
  | 36 => decode32x24 w
  | 37 => decode32x25 w
  | 38 => decode32x26 w
  | 39 => decode32x27 w
  | 40 => decode32x28 w
  | 41 => decode32x29 w
  | 42 => decode32x2a w
  | 43 => decode32x2b w
  | 44 => decode32x2c w
  | 45 => decode32x2d w
  | 46 => decode32x2e w
  | 47 => decode32x2f w
  | 48 => decode32x30 w
  | 49 => decode32x31 w
  | 50 => decode32x32 w
  | 51 => decode32x33 w
  | 52 => decode32x34 w
  | 53 => decode32x35 w
  | 54 => decode32x36 w
  | 56 => decode32x38 w
  | 57 => decode32x39 w
  | 58 => decode32x3a w
  | 59 => decode32x3b w
  | 60 => decode32x3c w
  | _ => .error .illOp

/-- Major 0x00 of the 64-bit forms (spec/02 R46). -/
noncomputable def decode64x00 (w : Nat) : Except DecFault Instr :=
  match w / 2^16 % 4 with
  | 0 => row true (w / 2^25 % 128 == 0 && w / 2^18 % 128 == 0) (.li64 (fld w 0 7) (fld w 32 32))
  | 1 => row true (w / 2^25 % 128 == 0 && w / 2^18 % 128 == 0) (.li64U (fld w 0 7) (fld w 32 32))
  | 2 => row true (w / 2^25 % 128 == 0 && w / 2^18 % 128 == 0) (.li64Hi (fld w 0 7) (fld w 32 32))
  | _ => .error .illOp

/-- Major 0x01 of the 64-bit forms (spec/02 R46). -/
noncomputable def decode64x01 (w : Nat) : Except DecFault Instr :=
  match w / 2^16 % 4 with
  | 0 => row true (w / 2^18 % 128 == 0) (.addiLong (fld w 0 7) (fld w 25 7) (fld w 32 32))
  | 1 => row true (w / 2^18 % 128 == 0) (.andiLong (fld w 0 7) (fld w 25 7) (fld w 32 32))
  | 2 => row true (w / 2^18 % 128 == 0) (.oriLong (fld w 0 7) (fld w 25 7) (fld w 32 32))
  | 3 => row true (w / 2^18 % 128 == 0) (.xoriLong (fld w 0 7) (fld w 25 7) (fld w 32 32))
  | _ => .error .illOp

/-- Major 0x02 of the 64-bit forms (spec/02 R46). -/
noncomputable def decode64x02 (w : Nat) : Except DecFault Instr :=
  match w / 2^16 % 4 with
  | 0 => row true (w / 2^18 % 128 == 0) (.aaddiLong (fld w 0 7) (fld w 25 7) (fld w 32 32))
  | 1 => row true (w / 2^18 % 128 == 0) (.sltiLong (fld w 0 7) (fld w 25 7) (fld w 32 32))
  | _ => .error .illOp

/-- Major 0x03 of the 64-bit forms (spec/02 R46). -/
noncomputable def decode64x03 (w : Nat) : Except DecFault Instr :=
  match w / 2^16 % 4 with
  | 0 => match w / 2^18 % 128 with
    | 0 => row true (true) (.ldbLong (fld w 0 7) (fld w 25 7) (fld w 32 32))
    | 1 => row true (true) (.ldbuLong (fld w 0 7) (fld w 25 7) (fld w 32 32))
    | 2 => row true (true) (.ldhLong (fld w 0 7) (fld w 25 7) (fld w 32 32))
    | 3 => row true (true) (.ldhuLong (fld w 0 7) (fld w 25 7) (fld w 32 32))
    | 4 => row true (true) (.ldwLong (fld w 0 7) (fld w 25 7) (fld w 32 32))
    | 5 => row true (true) (.ldwuLong (fld w 0 7) (fld w 25 7) (fld w 32 32))
    | 6 => row true (true) (.lddLong (fld w 0 7) (fld w 25 7) (fld w 32 32))
    | _ => .error .illOp
  | 1 => match w / 2^18 % 128 with
    | 0 => row true (true) (.stbLong (fld w 0 7) (fld w 25 7) (fld w 32 32))
    | 1 => row true (true) (.sthLong (fld w 0 7) (fld w 25 7) (fld w 32 32))
    | 2 => row true (true) (.stwLong (fld w 0 7) (fld w 25 7) (fld w 32 32))
    | 3 => row true (true) (.stdLong (fld w 0 7) (fld w 25 7) (fld w 32 32))
    | _ => .error .illOp
  | 2 => row true (w / 2^0 % 128 == 0 && w / 2^21 % 16 == 0) (.prefLong (fld w 25 7) (fld w 19 2) (fld w 18 1) (fld w 32 32))
  | _ => .error .illOp

/-- Major 0x04 of the 64-bit forms (spec/02 R46). -/
noncomputable def decode64x04 (w : Nat) : Except DecFault Instr :=
  match w / 2^16 % 4 with
  | 0 => row true (w / 2^25 % 128 == 0 && w / 2^18 % 128 == 0) (.jalLong (fld w 0 7) (fld w 32 32))
  | 1 => row true (w / 2^18 % 128 == 0) (.jalrLong (fld w 0 7) (fld w 25 7) (fld w 32 32))
  | 2 => row true (w / 2^0 % 128 == 0 && w / 2^18 % 128 == 0) (.beqzLong (fld w 25 7) (fld w 32 32))
  | 3 => row true (w / 2^0 % 128 == 0 && w / 2^18 % 128 == 0) (.bnezLong (fld w 25 7) (fld w 32 32))
  | _ => .error .illOp

/-- Major 0x05 of the 64-bit forms (spec/02 R46). -/
noncomputable def decode64x05 (w : Nat) : Except DecFault Instr :=
  match w / 2^16 % 4 with
  | 0 => row true (w / 2^0 % 128 == 0) (.beqLong (fld w 25 7) (fld w 18 7) (fld w 32 32))
  | 1 => row true (w / 2^0 % 128 == 0) (.bneLong (fld w 25 7) (fld w 18 7) (fld w 32 32))
  | 2 => row true (w / 2^0 % 128 == 0) (.bltLong (fld w 25 7) (fld w 18 7) (fld w 32 32))
  | 3 => row true (w / 2^0 % 128 == 0) (.bgeLong (fld w 25 7) (fld w 18 7) (fld w 32 32))
  | _ => .error .illOp

/-- Major 0x06 of the 64-bit forms (spec/02 R46). -/
noncomputable def decode64x06 (w : Nat) : Except DecFault Instr :=
  match w / 2^16 % 4 with
  | 0 => row true (w / 2^0 % 128 == 0) (.bltuLong (fld w 25 7) (fld w 18 7) (fld w 32 32))
  | 1 => row true (w / 2^0 % 128 == 0) (.bgeuLong (fld w 25 7) (fld w 18 7) (fld w 32 32))
  | _ => .error .illOp

/-- Major 0x08 of the 64-bit forms (spec/02 R46). -/
noncomputable def decode64x08 (w : Nat) : Except DecFault Instr :=
  match w / 2^16 % 4 with
  | 0 => row true (w / 2^46 % 262144 == 0) (.mxsubLong (fld w 0 7) (fld w 25 7) (fld w 18 7) (fld w 32 7) (fld w 39 7))
  | 1 => row true (w / 2^53 % 2048 == 0) (.mxsubcLong (fld w 0 7) (fld w 25 7) (fld w 18 7) (fld w 32 7) (fld w 39 7) (fld w 46 7))
  | _ => .error .illOp

/-- Major 0x09 of the 64-bit forms (spec/02 R46). -/
noncomputable def decode64x09 (w : Nat) : Except DecFault Instr :=
  match w / 2^16 % 4 with
  | 0 => row true (w / 2^25 % 128 == 0 && w / 2^32 % 16384 == 0 && w / 2^62 % 4 == 0) (.mxcfgLong (fld w 0 7) (fld w 18 7) (fld w 46 16))
  | 1 => row true (w / 2^32 % 16384 == 0) (.tldtLong (fld w 0 7) (fld w 25 7) (fld w 18 7) (fld w 46 2) (fld w 48 16))
  | _ => .error .illOp

/-- Major 0x0A of the 64-bit forms (spec/02 R46). -/
noncomputable def decode64x0a (w : Nat) : Except DecFault Instr :=
  match w / 2^16 % 4 with
  | 0 => row true (w / 2^46 % 262144 == 0) (.getLong (fld w 0 7) (fld w 25 7) (fld w 18 7) (fld w 32 7) (fld w 39 7))
  | 1 => row true (w / 2^46 % 262144 == 0) (.putLong (fld w 0 7) (fld w 25 7) (fld w 18 7) (fld w 32 7) (fld w 39 7))
  | 2 => row true (w / 2^46 % 262144 == 0) (.xcpyLong (fld w 0 7) (fld w 25 7) (fld w 18 7) (fld w 32 7) (fld w 39 7))
  | 3 => row true (w / 2^46 % 262144 == 0) (.xcpy2Long (fld w 0 7) (fld w 25 7) (fld w 18 7) (fld w 32 7) (fld w 39 7))
  | _ => .error .illOp

/-- Major 0x10 of the 64-bit forms (spec/02 R46). -/
noncomputable def decode64x10 (w : Nat) : Except DecFault Instr :=
  match w / 2^16 % 4 with
  | 0 => row true (w / 2^39 % 128 == 0 && w / 2^52 % 4096 == 0) (.spawnLong (fld w 0 7) (fld w 25 7) (fld w 18 7) (fld w 32 7) (fld w 46 3) (fld w 49 3))
  | 1 => row true (w / 2^39 % 128 == 0 && w / 2^52 % 4096 == 0) (.spawnTLong (fld w 0 7) (fld w 25 7) (fld w 18 7) (fld w 32 7) (fld w 46 3) (fld w 49 3))
  | _ => .error .illOp

/-- Major 0x11 of the 64-bit forms (spec/02 R46). -/
noncomputable def decode64x11 (w : Nat) : Except DecFault Instr :=
  match w / 2^16 % 4 with
  | 0 => row true (w / 2^52 % 4096 == 0) (.spawnrLong (fld w 0 7) (fld w 25 7) (fld w 18 7) (fld w 32 7) (fld w 39 7) (fld w 46 3) (fld w 49 3))
  | 1 => row true (w / 2^52 % 4096 == 0) (.spawnrTLong (fld w 0 7) (fld w 25 7) (fld w 18 7) (fld w 32 7) (fld w 39 7) (fld w 46 3) (fld w 49 3))
  | _ => .error .illOp

/-- Major 0x18 of the 64-bit forms (spec/02 R46). -/
noncomputable def decode64x18 (w : Nat) : Except DecFault Instr :=
  match w / 2^16 % 4 with
  | 0 => row true (w / 2^18 % 128 == 0) (.vldLong (fld w 0 4) (fld w 25 7) (fld w 6 1) (fld w 4 2) (fld w 32 32))
  | 1 => row true (w / 2^18 % 128 == 0) (.vstLong (fld w 0 4) (fld w 25 7) (fld w 6 1) (fld w 4 2) (fld w 32 32))
  | _ => .error .illOp

/-- Major 0x19 of the 64-bit forms (spec/02 R46). -/
noncomputable def decode64x19 (w : Nat) : Except DecFault Instr :=
  match w / 2^16 % 4 with
  | 0 => row true (w / 2^25 % 128 == 0 && w / 2^18 % 128 == 0) (.vbcastLong (fld w 0 4) (fld w 6 1) (fld w 4 2) (fld w 32 32))
  | _ => .error .illOp

/-- Major 0x1A of the 64-bit forms (spec/02 R46). -/
noncomputable def decode64x1a (w : Nat) : Except DecFault Instr :=
  match w / 2^16 % 4 with
  | 0 => row true (w / 2^36 % 268435456 == 0) (.vfmaLong (fld w 0 4) (fld w 29 3) (fld w 25 4) (fld w 22 3) (fld w 18 4) (fld w 6 1) (fld w 4 2) (fld w 32 4))
  | _ => .error .illOp

/-- The 64-bit forms (spec/02 R38, R46; the entries' own fields). -/
noncomputable def decode64 (w : Nat) : Except DecFault Instr :=
  match w / 2^7 % 64 with
  | 0 => decode64x00 w
  | 1 => decode64x01 w
  | 2 => decode64x02 w
  | 3 => decode64x03 w
  | 4 => decode64x04 w
  | 5 => decode64x05 w
  | 6 => decode64x06 w
  | 8 => decode64x08 w
  | 9 => decode64x09 w
  | 10 => decode64x0a w
  | 16 => decode64x10 w
  | 17 => decode64x11 w
  | 24 => decode64x18 w
  | 25 => decode64x19 w
  | 26 => decode64x1a w
  | _ => .error .illOp

/-- The instruction at the start of the parcels `w`, with its length in bytes; bits above it are not looked at (R28). -/
noncomputable def decodeWord (w : Nat) : Except DecFault (Instr × Nat) :=
  if w / 2^13 % 8 < 6 then (decode16 (w % 2^16)).map (·, 2)
  else if w / 2^13 % 8 = 6 then (decode32 (w % 2^32)).map (·, 4)
  else (decode64 (w % 2^64)).map (·, 8)

/-- Bytes at ascending addresses as one little-endian number (R1, R27). -/
def leNat : List Byte → Nat
  | [] => 0
  | b :: bs => b.toNat + 256 * leNat bs

/-- The little-endian bytes of a number. -/
def leBytes : Nat → Nat → List Byte
  | 0, _ => []
  | n + 1, w => BitVec.ofNat 8 w :: leBytes n (w / 256)

/-- The instruction that the bytes begin with, if they are all there. -/
noncomputable def decodeBytes (bs : List Byte) : Except DecFault (Instr × Nat) := decodeWord (leNat bs)

/-- The host's question: the instruction whose words, numbered as spec/opcode_table.json numbers them, are `w`. The
longest instruction has eight bytes; bits above `nbits` are zero. -/
noncomputable def decodeTableWord (nbits w : Nat) : Option Instr :=
  match decodeBytes (leBytes 8 (w % 2^nbits)) with
  | .ok (i, _) => some i
  | .error _ => none

/-- A field's value at its place in the word. -/
def put (x : BitVec n) (lo : Nat) : Nat := x.toNat * 2^lo

/-- A word: the opcode bits and the fields at their places, which do not overlap. -/
def pack (m : Nat) (l : List Nat) : Nat := m + l.sum

/-- The words of the compact forms. -/
def encode16 : Instr → Option Nat
  | .movCompact a b => some (pack 0 [put a 5, put b 0])
  | .addCompact a b => some (pack 1024 [put a 5, put b 0])
  | .subCompact a b => some (pack 2048 [put a 5, put b 0])
  | .andCompact a b => some (pack 3072 [put a 5, put b 0])
  | .orCompact a b => some (pack 4096 [put a 5, put b 0])
  | .xorCompact a b => some (pack 5120 [put a 5, put b 0])
  | .sllCompact a b => some (pack 6144 [put a 5, put b 0])
  | .srlCompact a b => some (pack 7168 [put a 5, put b 0])
  | .sraCompact a b => some (pack 8192 [put a 5, put b 0])
  | .mulCompact a b => some (pack 9216 [put a 5, put b 0])
  | .aaddCompact a b => some (pack 10240 [put a 5, put b 0])
  | .sltCompact a b => some (pack 11264 [put a 5, put b 0])
  | .lddCompact a b => some (pack 12288 [put a 5, put b 0])
  | .stdCompact a b => some (pack 13312 [put a 5, put b 0])
  | .ldwCompact a b => some (pack 14336 [put a 5, put b 0])
  | .jalrCompact a b => some (pack 15360 [put a 5, put b 0])
  | .liCompact a i => some (pack 16384 [put a 5, put i 0])
  | .addiCompact a i => some (pack 17408 [put a 5, put i 0])
  | .aaddiCompact a i => some (pack 18432 [put a 5, put i 0])
  | .slliCompact a i => some (pack 19456 [put a 5, put i 0])
  | .srliCompact a i => some (pack 20480 [put a 5, put i 0])
  | .sraiCompact a i => some (pack 21504 [put a 5, put i 0])
  | .andiCompact a i => some (pack 22528 [put a 5, put i 0])
  | .oriCompact a i => some (pack 23552 [put a 5, put i 0])
  | .xoriCompact a i => some (pack 24576 [put a 5, put i 0])
  | .sltiCompact a i => some (pack 25600 [put a 5, put i 0])
  | .lddG2Compact a i => some (pack 26624 [put a 5, put i 0])
  | .stdG2Compact a i => some (pack 27648 [put a 5, put i 0])
  | .ldwG2Compact a i => some (pack 28672 [put a 5, put i 0])
  | .stwG2Compact a i => some (pack 29696 [put a 5, put i 0])
  | .beqzCompact a o => some (pack 30720 [put a 5, put o 0])
  | .bnezCompact a o => some (pack 31744 [put a 5, put o 0])
  | .touchCompact a b => some (pack 32768 [put a 5, put b 0])
  | .touchTCompact a b => some (pack 33792 [put a 5, put b 0])
  | .touchpCompact a b => some (pack 34816 [put a 5, put b 0])
  | .fstatCompact a b => some (pack 35840 [put a 5, put b 0])
  | .frelCompact b => some (pack 36864 [put b 0])
  | .tendCompact b => some (pack 37888 [put b 0])
  | .yieldCompact => some (pack 38912 [])
  | .widCompact a => some (pack 39936 [put a 5])
  | .movFromEpCompact a => some (pack 40960 [put a 5])
  | .movToEpCompact b => some (pack 41984 [put b 0])
  | .movFromMpCompact a => some (pack 43008 [put a 5])
  | .movToMpCompact b => some (pack 44032 [put b 0])
  | .faddSCompact a b => some (pack 45056 [put a 5, put b 0])
  | .fmulSCompact a b => some (pack 46080 [put a 5, put b 0])
  | .nopCompact => some (pack 47104 [])
  | .brkCompact i => some (pack 48128 [put i 0])
  | _ => none

/-- The words of the 32-bit (majors 0x00 to 0x1F) forms. -/
def encode32a : Instr → Option Nat
  | .add d a b => some (pack 49152 [put d 0, put a 25, put b 18])
  | .sub d a b => some (pack 114688 [put d 0, put a 25, put b 18])
  | .slt d a b => some (pack 180224 [put d 0, put a 25, put b 18])
  | .sltu d a b => some (pack 245760 [put d 0, put a 25, put b 18])
  | .and d a b => some (pack 49280 [put d 0, put a 25, put b 18])
  | .or d a b => some (pack 114816 [put d 0, put a 25, put b 18])
  | .xor d a b => some (pack 180352 [put d 0, put a 25, put b 18])
  | .sel d a b => some (pack 245888 [put d 0, put a 25, put b 18])
  | .sll d a b => some (pack 49408 [put d 0, put a 25, put b 18])
  | .srl d a b => some (pack 114944 [put d 0, put a 25, put b 18])
  | .sra d a b => some (pack 180480 [put d 0, put a 25, put b 18])
  | .clz d a => some (pack 246016 [put d 0, put a 25])
  | .ctz d a => some (pack 508160 [put d 0, put a 25])
  | .popc d a => some (pack 770304 [put d 0, put a 25])
  | .mul d a b => some (pack 49536 [put d 0, put a 25, put b 18])
  | .mulh d a b => some (pack 115072 [put d 0, put a 25, put b 18])
  | .mulhu d a b => some (pack 180608 [put d 0, put a 25, put b 18])
  | .div d a b => some (pack 49664 [put d 0, put a 25, put b 18])
  | .divu d a b => some (pack 115200 [put d 0, put a 25, put b 18])
  | .rem d a b => some (pack 180736 [put d 0, put a 25, put b 18])
  | .remu d a b => some (pack 246272 [put d 0, put a 25, put b 18])
  | .min d a b => some (pack 49792 [put d 0, put a 25, put b 18])
  | .max d a b => some (pack 115328 [put d 0, put a 25, put b 18])
  | .minu d a b => some (pack 180864 [put d 0, put a 25, put b 18])
  | .maxu d a b => some (pack 246400 [put d 0, put a 25, put b 18])
  | .lih d i => some (pack 49920 [put d 0, put i 16])
  | .addi d a i => some (pack 50048 [put d 0, put a 25, put i 16])
  | .aadd d a b => some (pack 50176 [put d 0, put a 25, put b 18])
  | .pget d a s => some (pack 115712 [put d 0, put a 25, put s 18])
  | .bfx d a b => some (pack 181248 [put d 0, put a 25, put b 18])
  | .bfi d a b => some (pack 246784 [put d 0, put a 25, put b 18])
  | .aaddi d a i => some (pack 50304 [put d 0, put a 25, put i 16])
  | .pfmt d a f l => some (pack 50432 [put d 0, put a 25, put f 19, put l 16])
  | .slli d a i => some (pack 50560 [put d 0, put a 25, put i 16])
  | .srli d a i => some (pack 4244864 [put d 0, put a 25, put i 16])
  | .srai d a i => some (pack 8439168 [put d 0, put a 25, put i 16])
  | .andi d a i => some (pack 12633472 [put d 0, put a 25, put i 16])
  | .ori d a i => some (pack 16827776 [put d 0, put a 25, put i 16])
  | .xori d a i => some (pack 21022080 [put d 0, put a 25, put i 16])
  | .slti d a i => some (pack 25216384 [put d 0, put a 25, put i 16])
  | .xadd d a x b => some (pack 50688 [put d 0, put a 25, put x 23, put b 18])
  | .xsub d a x b => some (pack 116224 [put d 0, put a 25, put x 23, put b 18])
  | .xmul d a x b => some (pack 181760 [put d 0, put a 25, put x 23, put b 18])
  | .xmax d a x b => some (pack 247296 [put d 0, put a 25, put x 23, put b 18])
  | .xmin d a x b => some (pack 50816 [put d 0, put a 25, put x 23, put b 18])
  | .xdotB d a b => some (pack 116352 [put d 0, put a 25, put b 18])
  | .fadd d a p b => some (pack 50944 [put d 0, put a 25, put p 23, put b 18])
  | .fsub d a p b => some (pack 116480 [put d 0, put a 25, put p 23, put b 18])
  | .fmul d a p b => some (pack 182016 [put d 0, put a 25, put p 23, put b 18])
  | .ffma d a p b => some (pack 247552 [put d 0, put a 25, put p 23, put b 18])
  | .fdiv d a p b => some (pack 51072 [put d 0, put a 25, put p 23, put b 18])
  | .fsqrt d a p => some (pack 116608 [put d 0, put a 25, put p 23])
  | .fmin d a p b => some (pack 182144 [put d 0, put a 25, put p 23, put b 18])
  | .fmax d a p b => some (pack 247680 [put d 0, put a 25, put p 23, put b 18])
  | .fcmpEq d a p b => some (pack 51200 [put d 0, put a 25, put p 23, put b 18])
  | .fcmpLt d a p b => some (pack 116736 [put d 0, put a 25, put p 23, put b 18])
  | .fcmpLe d a p b => some (pack 182272 [put d 0, put a 25, put p 23, put b 18])
  | .fcmpUn d a p b => some (pack 247808 [put d 0, put a 25, put p 23, put b 18])
  | .fclass d a p => some (pack 51328 [put d 0, put a 25, put p 23])
  | .fcvt d a t u w => some (pack 116864 [put d 0, put a 25, put t 22, put u 19, put w 18])
  | .fcvtRtz d a t u w => some (pack 182400 [put d 0, put a 25, put t 22, put u 19, put w 18])
  | .fcvtSr d a t u w => some (pack 247936 [put d 0, put a 25, put t 22, put u 19, put w 18])
  | .beq a b o => some (pack 51456 [put a 0, put b 28, put o 16])
  | .bne a b o => some (pack 33605888 [put a 0, put b 28, put o 16])
  | .blt a b o => some (pack 67160320 [put a 0, put b 28, put o 16])
  | .bge a b o => some (pack 100714752 [put a 0, put b 28, put o 16])
  | .bltu a b o => some (pack 134269184 [put a 0, put b 28, put o 16])
  | .bgeu a b o => some (pack 167823616 [put a 0, put b 28, put o 16])
  | .jalr d b o => some (pack 201378048 [put d 0, put b 28, put o 16])
  | .beqz a o => some (pack 51584 [put a 0, put o 16])
  | .bnez a o => some (pack 51712 [put a 0, put o 16])
  | .jal d o => some (pack 51840 [put d 0, put o 16])
  | .ldb d a o => some (pack 51968 [put d 0, put a 25, put o 16])
  | .ldbu d a o => some (pack 4246272 [put d 0, put a 25, put o 16])
  | .ldh d a o => some (pack 8440576 [put d 0, put a 25, put o 16])
  | .ldhu d a o => some (pack 12634880 [put d 0, put a 25, put o 16])
  | .ldw d a o => some (pack 16829184 [put d 0, put a 25, put o 16])
  | .ldwu d a o => some (pack 21023488 [put d 0, put a 25, put o 16])
  | .ldd d a o => some (pack 25217792 [put d 0, put a 25, put o 16])
  | .stb s a o => some (pack 52096 [put s 0, put a 25, put o 16])
  | .sth s a o => some (pack 8440704 [put s 0, put a 25, put o 16])
  | .stw s a o => some (pack 16829312 [put s 0, put a 25, put o 16])
  | .std s a o => some (pack 25217920 [put s 0, put a 25, put o 16])
  | .ldt d a b => some (pack 52224 [put d 0, put a 25, put b 18])
  | .stt s a b => some (pack 117760 [put s 0, put a 25, put b 18])
  | .lda d a c => some (pack 183296 [put d 0, put a 25, put c 18])
  | .strel s a c => some (pack 248832 [put s 0, put a 25, put c 18])
  | .fence c => some (pack 52352 [put c 18])
  | .ifence => some (pack 117888 [])
  | .pref a l x => some (pack 183424 [put a 25, put l 19, put x 18])
  | .spamo d a o => some (pack 248960 [put d 0, put a 25, put o 18])
  | .stash d a b => some (pack 52480 [put d 0, put a 25, put b 18])
  | .unstash d a => some (pack 118016 [put d 0, put a 25])
  | .wbk a b => some (pack 183552 [put a 25, put b 18])
  | .disc a b => some (pack 249088 [put a 25, put b 18])
  | .ubresv d a b => some (pack 52608 [put d 0, put a 25, put b 18])
  | .ubmigr d a b => some (pack 118144 [put d 0, put a 25, put b 18])
  | .ldlk d a => some (pack 183680 [put d 0, put a 25])
  | .stul s a => some (pack 249216 [put s 0, put a 25])
  | .amo d a o r c => some (pack 52736 [put d 0, put a 25, put o 21, put r 19, put c 16])
  | .amof d a o r c => some (pack 52864 [put d 0, put a 25, put o 21, put r 19, put c 16])
  | .get d a => some (pack 52992 [put d 0, put a 25])
  | .put d a => some (pack 118528 [put d 0, put a 25])
  | .xcpy d a => some (pack 184064 [put d 0, put a 25])
  | .xcpy2 d a => some (pack 249600 [put d 0, put a 25])
  | .swinit d a b => some (pack 53120 [put d 0, put a 25, put b 18])
  | .swfut d a b => some (pack 118656 [put d 0, put a 25, put b 18])
  | _ => none

/-- The words of the 32-bit (majors 0x22 to 0x3C) forms. -/
def encode32b : Instr → Option Nat
  | .spawn d o => some (pack 53504 [put d 0, put o 16])
  | .spawnT d o => some (pack 53632 [put d 0, put o 16])
  | .spawnr d a b => some (pack 53760 [put d 0, put a 25, put b 18])
  | .touch d a => some (pack 119296 [put d 0, put a 25])
  | .touchT d a => some (pack 184832 [put d 0, put a 25])
  | .touchp d a => some (pack 250368 [put d 0, put a 25])
  | .wany d a n => some (pack 53888 [put d 0, put a 25, put n 18])
  | .fnew d a => some (pack 119424 [put d 0, put a 25])
  | .resolve d a b => some (pack 184960 [put d 0, put a 25, put b 18])
  | .fpois d a b => some (pack 250496 [put d 0, put a 25, put b 18])
  | .cancel d a => some (pack 54016 [put d 0, put a 25])
  | .frel a => some (pack 119552 [put a 25])
  | .fstat d a => some (pack 185088 [put d 0, put a 25])
  | .yield => some (pack 250624 [])
  | .tend a => some (pack 54144 [put a 25])
  | .wid d => some (pack 119680 [put d 0])
  | .wfld d n => some (pack 185216 [put d 0, put n 18])
  | .bari d a b => some (pack 54272 [put d 0, put a 25, put b 18])
  | .bara d a b => some (pack 119808 [put d 0, put a 25, put b 18])
  | .barad d a b => some (pack 185344 [put d 0, put a 25, put b 18])
  | .barw d a b => some (pack 250880 [put d 0, put a 25, put b 18])
  | .msend a b => some (pack 54400 [put a 25, put b 18])
  | .mdone => some (pack 119936 [])
  | .waitt d a => some (pack 54528 [put d 0, put a 25])
  | .atset a => some (pack 120064 [put a 25])
  | .stream d a b => some (pack 185600 [put d 0, put a 25, put b 18])
  | .vclaim d a => some (pack 54656 [put d 0, put a 25])
  | .vrel => some (pack 120192 [])
  | .vsetvl d a => some (pack 54784 [put d 0, put a 25])
  | .vld d a m k => some (pack 120320 [put d 0, put a 25, put m 6, put k 4])
  | .vst s a m k => some (pack 185856 [put s 0, put a 25, put m 6, put k 4])
  | .vlds d a b m k => some (pack 251392 [put d 0, put a 25, put b 18, put m 6, put k 4])
  | .vgath d a i m k => some (pack 54912 [put d 0, put a 25, put i 18, put m 6, put k 4])
  | .vscat s a i m k => some (pack 120448 [put s 0, put a 25, put i 18, put m 6, put k 4])
  | .vbcast d a m k => some (pack 185984 [put d 0, put a 25, put m 6, put k 4])
  | .vext d t a b => some (pack 251520 [put d 0, put t 29, put a 25, put b 18])
  | .vadd d t a x b m k => some (pack 55040 [put d 0, put t 29, put a 25, put x 22, put b 18, put m 6, put k 4])
  | .vsub d t a x b m k => some (pack 120576 [put d 0, put t 29, put a 25, put x 22, put b 18, put m 6, put k 4])
  | .vmul d t a x b m k => some (pack 186112 [put d 0, put t 29, put a 25, put x 22, put b 18, put m 6, put k 4])
  | .vfma d t a x b m k => some (pack 251648 [put d 0, put t 29, put a 25, put x 22, put b 18, put m 6, put k 4])
  | .vmin d t a b m k => some (pack 55168 [put d 0, put t 29, put a 25, put b 18, put m 6, put k 4])
  | .vmax d t a b m k => some (pack 120704 [put d 0, put t 29, put a 25, put b 18, put m 6, put k 4])
  | .vdiv d t a x b m k => some (pack 186240 [put d 0, put t 29, put a 25, put x 22, put b 18, put m 6, put k 4])
  | .vsqrt d t a x m k => some (pack 251776 [put d 0, put t 29, put a 25, put x 22, put m 6, put k 4])
  | .vrsqrt d t a x m k => some (pack 513920 [put d 0, put t 29, put a 25, put x 22, put m 6, put k 4])
  | .vrcp d t a x m k => some (pack 776064 [put d 0, put t 29, put a 25, put x 22, put m 6, put k 4])
  | .vexp2 d t a x m k => some (pack 1038208 [put d 0, put t 29, put a 25, put x 22, put m 6, put k 4])
  | .vlog2 d t a x m k => some (pack 1300352 [put d 0, put t 29, put a 25, put x 22, put m 6, put k 4])
  | .vsin d t a x m k => some (pack 1562496 [put d 0, put t 29, put a 25, put x 22, put m 6, put k 4])
  | .vtanh d t a x m k => some (pack 1824640 [put d 0, put t 29, put a 25, put x 22, put m 6, put k 4])
  | .vand d t a b m k => some (pack 55296 [put d 0, put t 29, put a 25, put b 18, put m 6, put k 4])
  | .vor d t a b m k => some (pack 120832 [put d 0, put t 29, put a 25, put b 18, put m 6, put k 4])
  | .vxor d t a b m k => some (pack 186368 [put d 0, put t 29, put a 25, put b 18, put m 6, put k 4])
  | .vshl d t a x b m k => some (pack 251904 [put d 0, put t 29, put a 25, put x 22, put b 18, put m 6, put k 4])
  | .vshr d t a x b m k => some (pack 55424 [put d 0, put t 29, put a 25, put x 22, put b 18, put m 6, put k 4])
  | .vcmp v t a p b m k => some (pack 120960 [put v 0, put t 29, put a 25, put p 22, put b 18, put m 6, put k 4])
  | .vsel d t a b k => some (pack 186560 [put d 0, put t 29, put a 25, put b 18, put k 4])
  | .vcvt d t a x s y m k => some (pack 252032 [put d 0, put t 29, put a 25, put x 22, put s 21, put y 18, put m 6, put k 4])
  | .vred d t a x o m k => some (pack 55552 [put d 0, put t 29, put a 25, put x 22, put o 18, put m 6, put k 4])
  | .vscan d t a x o m k => some (pack 121088 [put d 0, put t 29, put a 25, put x 22, put o 18, put m 6, put k 4])
  | .vperm d t a b m k => some (pack 186624 [put d 0, put t 29, put a 25, put b 18, put m 6, put k 4])
  | .vquant d t a x q m k => some (pack 55680 [put d 0, put t 29, put a 25, put x 22, put q 18, put m 6, put k 4])
  | .vdeq d t a x q m k => some (pack 121216 [put d 0, put t 29, put a 25, put x 22, put q 18, put m 6, put k 4])
  | .mxcfg d a b => some (pack 55808 [put d 0, put a 25, put b 18])
  | .trel d a => some (pack 121344 [put d 0, put a 25])
  | .mxstat d a s => some (pack 186880 [put d 0, put a 25, put s 18])
  | .mxsub d a => some (pack 55936 [put d 0, put a 25])
  | .mxsubc d a b => some (pack 121472 [put d 0, put a 25, put b 18])
  | .tldt d a b => some (pack 56064 [put d 0, put a 25, put b 18])
  | .tswap d a b => some (pack 121600 [put d 0, put a 25, put b 18])
  | .csrr d c => some (pack 56320 [put d 0, put c 16])
  | .csrw s c => some (pack 268491776 [put s 0, put c 16])
  | .csrs s c => some (pack 536927232 [put s 0, put c 16])
  | .csrc s c => some (pack 805362688 [put s 0, put c 16])
  | .trap c => some (pack 56448 [put c 18])
  | .eret => some (pack 121984 [])
  | .brk c => some (pack 187520 [put c 18])
  | .nop => some (pack 253056 [])
  | .tlbw d a b => some (pack 56576 [put d 0, put a 25, put b 18])
  | .tlbinv d a b => some (pack 122112 [put d 0, put a 25, put b 18])
  | .slotw d a b => some (pack 187648 [put d 0, put a 25, put b 18])
  | .mapcl d a b => some (pack 253184 [put d 0, put a 25, put b 18])
  | .capmk d a b => some (pack 56704 [put d 0, put a 25, put b 18])
  | .pair d => some (pack 56832 [put d 0])
  | .unpair d => some (pack 122368 [put d 0])
  | .ckpt d => some (pack 187904 [put d 0])
  | .pchk d a b => some (pack 253440 [put d 0, put a 25, put b 18])
  | _ => none

/-- The words of the 64-bit forms. -/
def encode64 : Instr → Option Nat
  | .li64 d i => some (pack 57344 [put d 0, put i 32])
  | .li64U d i => some (pack 122880 [put d 0, put i 32])
  | .li64Hi d i => some (pack 188416 [put d 0, put i 32])
  | .addiLong d a i => some (pack 57472 [put d 0, put a 25, put i 32])
  | .andiLong d a i => some (pack 123008 [put d 0, put a 25, put i 32])
  | .oriLong d a i => some (pack 188544 [put d 0, put a 25, put i 32])
  | .xoriLong d a i => some (pack 254080 [put d 0, put a 25, put i 32])
  | .aaddiLong d a i => some (pack 57600 [put d 0, put a 25, put i 32])
  | .sltiLong d a i => some (pack 123136 [put d 0, put a 25, put i 32])
  | .ldbLong d a i => some (pack 57728 [put d 0, put a 25, put i 32])
  | .ldbuLong d a i => some (pack 319872 [put d 0, put a 25, put i 32])
  | .ldhLong d a i => some (pack 582016 [put d 0, put a 25, put i 32])
  | .ldhuLong d a i => some (pack 844160 [put d 0, put a 25, put i 32])
  | .ldwLong d a i => some (pack 1106304 [put d 0, put a 25, put i 32])
  | .ldwuLong d a i => some (pack 1368448 [put d 0, put a 25, put i 32])
  | .lddLong d a i => some (pack 1630592 [put d 0, put a 25, put i 32])
  | .stbLong s a i => some (pack 123264 [put s 0, put a 25, put i 32])
  | .sthLong s a i => some (pack 385408 [put s 0, put a 25, put i 32])
  | .stwLong s a i => some (pack 647552 [put s 0, put a 25, put i 32])
  | .stdLong s a i => some (pack 909696 [put s 0, put a 25, put i 32])
  | .prefLong a l x i => some (pack 188800 [put a 25, put l 19, put x 18, put i 32])
  | .jalLong d o => some (pack 57856 [put d 0, put o 32])
  | .jalrLong d a o => some (pack 123392 [put d 0, put a 25, put o 32])
  | .beqzLong a o => some (pack 188928 [put a 25, put o 32])
  | .bnezLong a o => some (pack 254464 [put a 25, put o 32])
  | .beqLong a b o => some (pack 57984 [put a 25, put b 18, put o 32])
  | .bneLong a b o => some (pack 123520 [put a 25, put b 18, put o 32])
  | .bltLong a b o => some (pack 189056 [put a 25, put b 18, put o 32])
  | .bgeLong a b o => some (pack 254592 [put a 25, put b 18, put o 32])
  | .bltuLong a b o => some (pack 58112 [put a 25, put b 18, put o 32])
  | .bgeuLong a b o => some (pack 123648 [put a 25, put b 18, put o 32])
  | .mxsubLong d a b e f => some (pack 58368 [put d 0, put a 25, put b 18, put e 32, put f 39])
  | .mxsubcLong d a b e f g => some (pack 123904 [put d 0, put a 25, put b 18, put e 32, put f 39, put g 46])
  | .mxcfgLong d b m => some (pack 58496 [put d 0, put b 18, put m 46])
  | .tldtLong d a b w o => some (pack 124032 [put d 0, put a 25, put b 18, put w 46, put o 48])
  | .getLong d a b e f => some (pack 58624 [put d 0, put a 25, put b 18, put e 32, put f 39])
  | .putLong d a b e f => some (pack 124160 [put d 0, put a 25, put b 18, put e 32, put f 39])
  | .xcpyLong d a b e f => some (pack 189696 [put d 0, put a 25, put b 18, put e 32, put f 39])
  | .xcpy2Long d a b e f => some (pack 255232 [put d 0, put a 25, put b 18, put e 32, put f 39])
  | .spawnLong d a b e c n => some (pack 59392 [put d 0, put a 25, put b 18, put e 32, put c 46, put n 49])
  | .spawnTLong d a b e c n => some (pack 124928 [put d 0, put a 25, put b 18, put e 32, put c 46, put n 49])
  | .spawnrLong d a b e f c n => some (pack 59520 [put d 0, put a 25, put b 18, put e 32, put f 39, put c 46, put n 49])
  | .spawnrTLong d a b e f c n => some (pack 125056 [put d 0, put a 25, put b 18, put e 32, put f 39, put c 46, put n 49])
  | .vldLong d a m k i => some (pack 60416 [put d 0, put a 25, put m 6, put k 4, put i 32])
  | .vstLong s a m k i => some (pack 125952 [put s 0, put a 25, put m 6, put k 4, put i 32])
  | .vbcastLong d m k i => some (pack 60544 [put d 0, put m 6, put k 4, put i 32])
  | .vfmaLong d t a x b m k e => some (pack 60672 [put d 0, put t 29, put a 25, put x 22, put b 18, put m 6, put k 4, put e 32])
  | _ => none

/-- The words of a well-formed instruction: its length in bytes and its parcels as one number (R27). Events have none. -/
def encode (i : Instr) : Option (Nat × Nat) :=
  match encode16 i with
  | some w => some (2, w)
  | none => match encode32a i with
    | some w => some (4, w)
    | none => match encode32b i with
      | some w => some (4, w)
      | none => (encode64 i).map (8, ·)

end Sys2Proof
end

