-- ==== Sys2Proof/Machine/Transfer.lean ====
section
/-! DEFINITION. Bulk transfer submission and sync words (spec/10 R263-R273). -/

namespace Sys2Proof.Machine

/-- Four words of a descriptor, read as four plain 8-byte loads in ascending address (R264). -/
def loadWords (s : State) (tid va : Nat) : Nat → M (List Word × State)
  | 0 => .ok ([], s)
  | n + 1 => do
    let (v, s) ← loadAny s tid va 8
    let (r, s) ← loadWords s tid ((va + 8) % 2^52) n
    .ok (w64 v :: r, s)

/-- The four words at the descriptor address in a register. -/
def descAt (s : State) (tid a : Nat) : M (List Word × State) := do
  let (va, s) ← plainAddr s tid a 0 8
  loadWords s tid va 4

def readRegs (s : State) (tid : Nat) : List Nat → M (List Word × State)
  | [] => .ok ([], s)
  | n :: r => do
    let (v, s) ← readReg s tid n
    let (vs, s) ← readRegs s tid r
    .ok (v :: vs, s)

/-- R264 from the descriptor's words on. -/
def submitXf (op d : Nat) (ws : List Word) (tid : Nat) (s : State) : M State := do
  let t := s.task tid
  let cl := clOfCore t.core
  let w0 := ws.getD 0 0
  let w1 := ws.getD 1 0
  let w2 := ws.getD 2 0
  let w3 := ws.getD 3 0
  xfCheck op w0 w1 w2 w3
  if !xfRoom s cl t.ctx then hold .port
  let (id, s') := s.fresh
  match ← allocM (allocFut s' cl t.ctx t.launch (.xfer cl id)) with
  | none => writeReg s tid d futFullStatus
  | some (h, s) =>
    needRel s tid 2
    writeReg (xfSubmit s tid id (.fut h) w0 w1 w2 w3) tid d h

def xfMem (op d a : Nat) : State → Res :=
  issue 4 .sync [.dst d, .src a] fun tid s => do
    let (ws, s) ← descAt s tid a
    submitXf op d ws tid s

def xfRegs (op d a b e f : Nat) : State → Res :=
  issue 8 .sync [.dst d, .src a, .src b, .src e, .src f] fun tid s => do
    let (ws, s) ← readRegs s tid [a, b, e, f]
    submitXf op d ws tid s

def execGet (d a : BitVec 7) (s : State) : Res := xfMem 0 d.toNat a.toNat s
def execPut (d a : BitVec 7) (s : State) : Res := xfMem 1 d.toNat a.toNat s
def execXcpy (d a : BitVec 7) (s : State) : Res := xfMem 2 d.toNat a.toNat s
def execXcpy2 (d a : BitVec 7) (s : State) : Res := xfMem 3 d.toNat a.toNat s
def execGetLong (d a b e f : BitVec 7) (s : State) : Res := xfRegs 0 d.toNat a.toNat b.toNat e.toNat f.toNat s
def execPutLong (d a b e f : BitVec 7) (s : State) : Res := xfRegs 1 d.toNat a.toNat b.toNat e.toNat f.toNat s
def execXcpyLong (d a b e f : BitVec 7) (s : State) : Res := xfRegs 2 d.toNat a.toNat b.toNat e.toNat f.toNat s
def execXcpy2Long (d a b e f : BitVec 7) (s : State) : Res := xfRegs 3 d.toNat a.toNat b.toNat e.toNat f.toNat s

/-! ## Sync words (R270-R273) -/

/-- The checks of R272 and R273 on the pointer before the place's own. -/
def checkSync (p : Word) : M Unit := do
  let va := vaOf p
  if ptrBad p || !isWin va then faultAt BAD_POINTER va
  if va % 16 ≠ 0 then faultAt MISALIGN va

/-- The handle that a bound sync word or barrier record names, in its core's cluster (R270). -/
def boundHandle (s : State) (k : Nat) (w1 : Word) : Word :=
  mkHandle s.peers.chip.toNat (clOfCore k) (bits w1 29 18) (bits w1 17 0)

/-- SWINIT (R272). A port logs it as an atomic. -/
def execSwinit (d a b : BitVec 7) (s : State) : Res :=
  issue 4 .sync [.dst d.toNat, .src a.toNat, .src b.toNat] (finishesFirst fun tid s => do
    let (p, s) ← readReg s tid a.toNat
    let (v, s) ← readReg s tid b.toNat
    checkSync p
    let (k, o) ← portPlace s tid (vaOf p) 16 1
    let t := s.task tid
    let w1 := uaWord s k t.ctx (o + 8)
    let s := if bit w1 47 then cancelH s (boundHandle s k w1) else s
    let s := clearBound (uaPutWord s k t.ctx o (w64 (bits v 31 0 * 2^32))) k t.ctx o
    writeReg (portWrote s k 1 16 t.core o) tid d.toNat (w64 (bits w1 63 48))) s

/-- SWFUT (R273). -/
def execSwfut (d a b : BitVec 7) (s : State) : Res :=
  issue 4 .sync [.dst d.toNat, .src a.toNat, .src b.toNat] (finishesFirst fun tid s => do
    let (p, s) ← readReg s tid a.toNat
    let (g, s) ← readReg s tid b.toNat
    checkSync p
    let cl := clOfCore (s.task tid).core
    match winCore cl (vaOf p) with
    | .error c => faultAt c (vaOf p)
    | .ok k => if clOfCore k ≠ cl then faultAt WIN_DENIED (vaOf p)
    let (k, o) ← portPlace s tid (vaOf p) 16 1
    let t := s.task tid
    let w1 := uaWord s k t.ctx (o + 8)
    if bits w1 63 48 ≠ bits g 15 0 then
      match ← allocM (allocFut s cl t.ctx t.launch (.sync k o)) with
      | none => writeReg s tid d.toNat futFullStatus
      | some (h, s) => writeReg (resolveH s h (w64 (bits w1 63 48))) tid d.toNat h
    else if bit w1 47 then writeReg s tid d.toNat (boundHandle s k w1)
    else
      match ← allocM (allocFut s cl t.ctx t.launch (.sync k o)) with
      | none => writeReg s tid d.toNat futFullStatus
      | some (h, s) =>
        let v := w64 (bits w1 63 48 * 2^48 + 2^47 + hIdx h * 2^18 + hGen h)
        writeReg (portWrote (uaPutWord s k t.ctx (o + 8) v) k 1 16 t.core o) tid d.toNat h) s

/-- COUNT grows by the bytes of a piece that performs at a sync word's port, and the word advances as often as it meets
its target (R271). -/
def syncAdvance (s : State) (k ctx o : Nat) (count target : Nat) : Nat → State
  | 0 => s
  | n + 1 =>
    if target = 0 || count < target then
      uaPutWord s k ctx o (w64 (target * 2^32 + count % 2^32))
    else
      let w1 := uaWord s k ctx (o + 8)
      let gen := (bits w1 63 48 + 1) % 2^16
      let s := if bit w1 47 then resolveH s (boundHandle s k w1) (w64 gen) else s
      let s := uaPutWord s k ctx (o + 8) (w64 (gen * 2^48))
      syncAdvance s k ctx o (count - target) target n

def syncCount (s : State) (k ctx o n : Nat) : State :=
  let w0 := uaWord s k ctx o
  let target := bits w0 63 32
  let count := (bits w0 31 0 + n) % 2^32
  syncAdvance s k ctx o count target (count / max target 1 + 2)

end Sys2Proof.Machine
end

