-- ==== Sys2Proof/Machine/Matrix.lean ====
section
/-! DEFINITION. Tiles, MXE jobs, the transposing load and the mirrored swap (spec/07 R148-R174). -/

namespace Sys2Proof.Machine

/-! ## Tiles (R168-R170) -/

/-- Accepted, uncompleted jobs that name a tile. -/
def queuedOn (s : State) (cl t : Nat) : Nat := ((s.cluster cl).jobs.filter fun j => mxTile j.w0 == t).length

/-- The tile state word for a context (R170). -/
def tileWord (s : State) (cl ctx t : Nat) : Word :=
  let x := s.tile cl t
  match x.owner with
  | none => w64 (if x.ty then 8 else 0)
  | some o =>
    if o = ctx then
      let q := queuedOn s cl t
      w64 (q * 2^8 + (if q = 0 then 0 else 16) + (if x.ty then 8 else 0) + 1)
    else 2

/-- MXCFG of the tiles of a list with configuration word c (R168): a bad word is reported before a busy tile (DESIGN CHOICE, log
41). -/
def cfgTiles (s : State) (cl ctx : Nat) (ts : List Nat) (c : Word) : M State := do
  need (bits c 63 2 == 0) MX_DESC
  let mine (t : Nat) : Bool := (s.tile cl t).owner == some ctx
  if ts.any fun t => mine t && queuedOn s cl t != 0 then fault TILE_BUSY
  if ts.any fun t => !mine t && (s.tile cl t).owner.isSome then .ok s
  else
    .ok (ts.foldl (fun s t =>
      let x := s.tile cl t
      let x : Tile := if x.owner.isNone || bit c 1 then {} else x
      s.setTile cl t { x with owner := some ctx, ty := bit c 0 }) s)

def execMxcfg (d a b : BitVec 7) (s : State) : Res :=
  issue 4 .sync [.dst d.toNat, .src a.toNat, .src b.toNat] (fun tid s => do
    let (x, s) ← readReg s tid a.toNat
    let (c, s) ← readReg s tid b.toNat
    let t := s.task tid
    let cl := clOfCore t.core
    let s ← cfgTiles s cl t.ctx [bits x 3 0] c
    writeReg s tid d.toNat (tileWord s cl t.ctx (bits x 3 0))) s

def execMxcfgLong (d b : BitVec 7) (m : BitVec 16) (s : State) : Res :=
  issue 8 .sync [.dst d.toNat, .src b.toNat] (fun tid s => do
    let (c, s) ← readReg s tid b.toNat
    let t := s.task tid
    let cl := clOfCore t.core
    let s ← cfgTiles s cl t.ctx ((List.range 16).filter fun i => m.getLsbD i) c
    writeReg s tid d.toNat (w64 (ownMask s cl t.ctx))) s

/-- TREL (R169). -/
def execTrel (d a : BitVec 7) (s : State) : Res :=
  issue 4 .sync [.dst d.toNat, .src a.toNat] (fun tid s => do
    let (x, s) ← readReg s tid a.toNat
    let t := s.task tid
    let cl := clOfCore t.core
    let i := bits x 3 0
    let mine := (s.tile cl i).owner == some t.ctx
    if mine && queuedOn s cl i != 0 then fault TILE_BUSY
    let s := if mine then s.setTile cl i {} else s
    writeReg s tid d.toNat (tileWord s cl t.ctx i)) s

/-- MXSTAT's words (R170). -/
def mxstatWord (s : State) (cl ctx sel : Nat) (x : Word) : Word :=
  let c := mget {} (s.cluster cl).mxStall ctx
  match sel with
  | 0 => tileWord s cl ctx (bits x 3 0)
  | 1 => w64 (jobsOf s cl ctx * 2^32 + ownMask s cl ctx * 2^16)
  | 2 => c.opnd
  | 3 => c.scale
  | _ => c.therm

def execMxstat (d a sel : BitVec 7) (s : State) : Res :=
  issue 4 .sync [.dst d.toNat, .src a.toNat] (fun tid s => do
    let (x, s) ← readReg s tid a.toNat
    let t := s.task tid
    writeReg s tid d.toNat (mxstatWord s (clOfCore t.core) t.ctx sel.toNat x)) s

/-! ## MXSUB and MXSUBC (R164, R165) -/

/-- MXSUB from the descriptor's words on (R164). -/
def submitMx (d : Nat) (ws : List Word) (tid : Nat) (s : State) : M State := do
  let t := s.task tid
  let cl := clOfCore t.core
  let w0 := ws.getD 0 0
  let w1 := ws.getD 1 0
  let w2 := ws.getD 2 0
  let w3 := ws.getD 3 0
  mxCheck s cl t.ctx w0 w1 w2 w3
  if !mxRoom s cl t.ctx || !mxTurn s cl t.launch t.ident then hold .port
  let (id, s') := s.fresh
  match ← allocM (allocFut s' cl t.ctx t.launch (.job cl id)) with
  | none => writeReg s tid d futFullStatus
  | some (h, s) =>
    needRel s tid 2
    writeReg (mxSubmit s tid id (.fut h) w0 w1 w2 w3) tid d h

def execMxsub (d a : BitVec 7) (s : State) : Res :=
  issue 4 .sync [.dst d.toNat, .src a.toNat] (fun tid s => do
    let (ws, s) ← descAt s tid a.toNat
    submitMx d.toNat ws tid s) s

def execMxsubLong (d a b e f : BitVec 7) (s : State) : Res :=
  issue 8 .sync [.dst d.toNat, .src a.toNat, .src b.toNat, .src e.toNat, .src f.toNat] (fun tid s => do
    let (ws, s) ← readRegs s tid [a.toNat, b.toNat, e.toNat, f.toNat]
    submitMx d.toNat ws tid s) s

/-- The cluster a capability names (R376). -/
def capCl (c : Word) : Nat := bits c 9 7 * 112 + bits c 6 0

/-- TYPE of the tile that a command names, at the cluster its capability names: what R152's pairings at the sender and the
submission's rounding go by (log 30). -/
def capInt (s : State) (c w0 : Word) : Bool := (s.tile (capCl c) (mxTile w0)).ty

/-- MXSUBC from the descriptor's words and the capability on (R165): the sender checks, allocates the future in its own
cluster and sends the command. -/
def sendMx (d : Nat) (ws : List Word) (cap : Word) (tid : Nat) (s : State) : M State := do
  let t := s.task tid
  let cl := clOfCore t.core
  let w0 := ws.getD 0 0
  let int := capInt s cap w0
  mxCheckDesc int w0 (ws.getD 1 0) (ws.getD 2 0) (ws.getD 3 0)
  let (id, s') := s.fresh
  match ← allocM (allocFut s' cl t.ctx t.launch (.job (capCl cap) id)) with
  | none => writeReg s tid d futFullStatus
  | some (h, s) =>
    needRel s tid 4
    let rm := mxRounding int w0 t.r.frm
    let (seed, s) := if mxDraws int w0 t.r.frm then srStep s tid else (0, s)
    let (tm, s) := takeAtset s tid
    let j : Job := { id := id, ctx := t.ctx, launch := t.launch, w0 := w0, w1 := ws.getD 1 0, w2 := ws.getD 2 0,
                     w3 := ws.getD 3 0, sink := .fut h, rm := rm, rng := srNZ seed, time := tm }
    writeReg (s.modNet fun n => { n with caps := n.caps ++ [{ src := t.core, job := j, cap := cap }] }) tid d h

def execMxsubc (d a b : BitVec 7) (s : State) : Res :=
  issue 4 .sync [.dst d.toNat, .src a.toNat, .src b.toNat] (fun tid s => do
    let (ws, s) ← descAt s tid a.toNat
    let (c, s) ← readReg s tid b.toNat
    sendMx d.toNat ws c tid s) s

def execMxsubcLong (d a b e f g : BitVec 7) (s : State) : Res :=
  issue 8 .sync [.dst d.toNat, .src a.toNat, .src b.toNat, .src e.toNat, .src f.toNat, .src g.toNat] (fun tid s => do
    let (ws, s) ← readRegs s tid [a.toNat, b.toNat, e.toNat, f.toNat, g.toNat]
    sendMx d.toNat (ws.take 4) (ws.getD 4 0) tid s) s

/-! ## TLDT (R171) -/

/-- R242 steps 1 and 3 for every row. -/
def tldtCheck (b stride : Word) : Nat → M Unit
  | 0 => .ok ()
  | n + 1 => do
    checkPtr b (vaOf b) 8
    tldtCheck (addrAdd b stride) stride n

/-- The rows' words, plain 8-byte loads in ascending order; region 0x4 is no place for them (R354). -/
def tldtRows (s : State) (tid : Nat) (b stride : Word) : Nat → M (List Nat × State)
  | 0 => .ok ([], s)
  | n + 1 => do
    let (v, s) ← loadVa s tid (vaOf b) 8
    let (r, s) ← tldtRows s tid (addrAdd b stride) stride n
    .ok (v :: r, s)

/-- R242 step 4 for every row; a shadow makes no access. -/
def tldtPlaces (s : State) (tid : Nat) (b stride : Word) : Nat → M State
  | 0 => .ok s
  | n + 1 => do
    let (_, s) ← placeOf s tid (vaOf b) 8 .rd
    tldtPlaces s tid (addrAdd b stride) stride n

/-- Register j of the transpose: element j of every row, row i at position i. -/
def tldtCol (w j : Nat) (rows : List Nat) : Word :=
  w64 ((rows.zipIdx.map fun e => e.1 / 2^(8 * w * j) % 2^(8 * w) * 2^(8 * w * e.2)).sum)

/-- Consecutive registers written. -/
def writeRun (s : State) (tid d : Nat) : List Word → M State
  | [] => .ok s
  | v :: r => do
    let s ← writeReg s tid d v
    writeRun s tid (d + 1) r

def tldtOp (len d a b w : Nat) (off : Word) : State → Res :=
  issue len .sync [.rows d (8 / w), .src a, .src b] fun tid s => do
    let (p, s) ← readReg s tid a
    let (st, s) ← readReg s tid b
    tldtCheck (addrAdd p off) st (8 / w)
    let s ← if (s.task tid).shadow then .ok s else tldtPlaces s tid (addrAdd p off) st (8 / w)
    let (rows, s) ← tldtRows s tid (addrAdd p off) st (8 / w)
    writeRun s tid d ((List.range (8 / w)).map fun j => tldtCol w j rows)

def execTldt (d a b : BitVec 7) (s : State) : Res := tldtOp 4 d.toNat a.toNat b.toNat 1 0 s
def execTldtLong (d a b : BitVec 7) (w : BitVec 2) (o : BitVec 16) (s : State) : Res :=
  tldtOp 8 d.toNat a.toNat b.toNat (2^w.toNat) (o.signExtend 64) s

/-! ## TSWAP (R172-R174) -/

/-- The mirror of a core in its swap group (R172). -/
def mirrorOf (k : Nat) : Nat :=
  let cl := k / 8 % 112
  (k / 896 * 112 + cl / 8 * 8 + k % 8) * 8 + cl % 8

def swEw (d : Word) : Nat := 2^(bits d 29 28)
def swPitch (d : Word) : Nat := bits d 27 16
def swRows (d : Word) : Nat := bits d 15 8 + 1
def swCols (d : Word) : Nat := bits d 7 0 + 1
def swTr (d : Word) : Bool := bit d 31

/-- R173's descriptor conditions. -/
def swOk (d off : Word) : Bool :=
  bits d 55 32 == 0 && !bit d 30 && decide (swPitch d ≥ swCols d * swEw d) &&
  decide (swRows d * swCols d * swEw d ≤ 32768) && (!swTr d || swRows d == swCols d) && off.toNat % swEw d == 0

/-- Bytes from a block's first to its last. -/
def swSpan (d : Word) : Nat := (swRows d - 1) * swPitch d + swCols d * swEw d

/-- A block's bytes and poison, row by row (plain scratchpad of a context's partition). -/
def blockRead (s : State) (k ctx off : Nat) (d : Word) : List Byte × List Bool :=
  let n := swCols d * swEw d
  ((List.range (swRows d)).flatMap fun i => uaBytes s k ctx (off + i * swPitch d) n,
   (List.range (swRows d)).flatMap fun i => (List.range n).map fun j => (uaPoisonIn s k ctx (off + i * swPitch d + j) 1).isSome)

/-- A block as it is received: element (i, j) is element (j, i) of the one sent when TR = 1. -/
def blockTurn {A : Type} (d : Word) (bs : List A) : List A :=
  if !swTr d then bs
  else
    let n := swCols d
    let w := swEw d
    (List.range n).flatMap fun i => (List.range n).flatMap fun j => (bs.drop ((j * n + i) * w)).take w

/-- Rows written at a port, each logged as a landing (R173, R229). -/
def blockWrite (s : State) (k ctx src off pitch rowLen : Nat) : List Byte → List Bool → Nat → State
  | _, _, 0 => s
  | bs, bad, n + 1 =>
    let s := uaSetPoison (uaWrite s k ctx off (bs.take rowLen)) k ctx (badWords off (bad.take rowLen))
    blockWrite (portWroteAll s k 4 rowLen src off) k ctx src (off + pitch) pitch rowLen (bs.drop rowLen) (bad.drop rowLen) n

/-- Whether a stash mapping covers part of a block (R180). -/
def blockMapped (s : State) (k ctx off : Nat) (d : Word) : Bool :=
  match partOf (s.core k) ctx with
  | some p => p.stash.any fun m => decide (m.off < off + swSpan d) && decide (off < m.off + m.len)
  | none => false

/-- A TSWAP's future resolves; the spec states no value for it: a free one (log 14). -/
def swapResolve (s : State) (h : Word) : State :=
  let (v, s) := s.free
  resolveH s h (w64 v)

def execTswap (d a b : BitVec 7) (s : State) : Res :=
  issue 4 .sync [.dst d.toNat, .src a.toNat, .src b.toNat] (fun tid s => do
    let (o, s) ← readReg s tid a.toNat
    let (w, s) ← readReg s tid b.toNat
    let t := s.task tid
    let k := t.core
    need (swOk w o) MX_DESC
    need (decide (o.toNat + swSpan w ≤ ((partOf (s.core k) t.ctx).map Part.size).getD 0)) SP_RANGE
    if mirrorOf k = k && swTr w && portRefuses s k 4 (min (2 ^ (swCols w * swEw w).log2) 128) k o.toNat then hold .port
    if mirrorOf k ≠ k && decide ((s.core k).swaps.length ≥ 4) then hold .port
    match ← allocM (allocFut s (clOfCore k) t.ctx t.launch .swap) with
    | none => writeReg s tid d.toNat futFullStatus
    | some (h, s) =>
      needRel s tid 3
      let s :=
        if mirrorOf k = k && (!swTr w || !blockMapped s k t.ctx o.toNat w) then
          let b := blockRead s k t.ctx o.toNat w
          let s := if swTr w then
              blockWrite s k t.ctx k o.toNat (swPitch w) (swCols w * swEw w) (blockTurn w b.1) (blockTurn w b.2) (swRows w)
            else s
          swapResolve s h
        else if (s.core (mirrorOf k)).dead then poisonH s h DEAD
        else if (partOf (s.core (mirrorOf k)) t.ctx).isNone then poisonH s h WIN_DENIED
        else
          let (id, s) := s.fresh
          s.modCore k fun c => { c with swaps := c.swaps ++ [{ id := id, core := k, off := o.toNat, d := w, ctx := t.ctx, fut := h }] }
      writeReg s tid d.toNat h) s

end Sys2Proof.Machine
end

