-- ==== Sys2Proof/Machine/Spawn.lean ====
section
/-! DEFINITION. Spawns, yields, ends and work identifiers (spec/11 R276, R295-R297, R307-R310; spec/01 R18; spec/15 R409). -/

namespace Sys2Proof.Machine

/-! ## Work identifiers (R18, R309) -/

/-- WFMT of a task's launch. -/
def wfmtOf (s : State) (tid : Nat) : Word :=
  match (s.task tid).launch.bind (launchOf s) with
  | some l => l.wfmt
  | none => 0

def wfNF (f : Word) : Nat := bits f 38 36

/-- W_i + 1, a field's width. -/
def wfWidth (f : Word) (i : Nat) : Nat := f.toNat / 2^(6 * i) % 64 + 1

/-- The first bit of field n. -/
def wfLow (f : Word) (n : Nat) : Nat := ((List.range n).map (wfWidth f)).sum

def wfField (f w : Word) (n : Nat) : Word := w64 (w.toNat / 2^wfLow f n % 2^wfWidth f n)

/-- An identifier with a field replaced by an index (R18). -/
def wfReplace (f w : Word) (n i : Nat) : Word :=
  w64 (w.toNat - (wfField f w n).toNat * 2^wfLow f n + i % 2^wfWidth f n * 2^wfLow f n)

/-! ## Children (R276, R80, R409) -/

/-- SRSEED of a child with identifier W, from the parent's draw (R80). -/
def childSeed (p : BitVec 32) (w : Word) : BitVec 32 :=
  srNZ (p ^^^ BitVec.ofNat 32 w.toNat ^^^ BitVec.ofNat 32 (w.toNat / 2^32))

/-- What a child starts with: the entry, its arguments, the parent's identifier and mode (R276). -/
def childRegs (entry : Nat) (args : FMap Word) (parent : Regs) : Regs :=
  { pc := BitVec.ofNat 52 entry, g := args, wid := parent.wid, frm := parent.frm }

/-- The arguments to g3 onward, from registers `b` on, within the source's limit and the child's class (R295). -/
def spawnArgs (s : State) (tid b n cls : Nat) : FMap Word :=
  (List.range n).foldl (fun m i =>
    if b + i ≤ (s.task tid).limit && 3 + i < classRegs cls then mput 0 m (3 + i) (s.g tid (b + i)) else m) []

/-- A task's identifier in a record (R409): the core's place and its count of spawns in the launch. -/
def spawnIdent (s : State) (k : Nat) (l : Option Nat) : Word × State :=
  let n := mget 0 (s.core k).spawnCount (l.getD 0)
  (w64 (corePlace k * 2^51 + n), s.modCore k fun c => { c with spawnCount := mput 0 c.spawnCount (l.getD 0) (n + 1) })

/-- The operands of a spawn once they are read. -/
structure SpawnReq where
  entry : Nat
  cls : Nat
  args : FMap Word
  tiles : Word
  range : Option Word
  trap : Bool
  deriving DecidableEq, Repr

/-- R297: a range descriptor that the spawn accepts. -/
def rangeOk (f r : Word) : Bool :=
  let i := bits r 34 32
  bits r 63 35 == 0 && decide (i < wfNF f) && (wfWidth f i ≥ 32 || decide (bits r 31 0 ≤ 2^wfWidth f i))

/-- R296's checks, in order. -/
def spawnChecks (s : State) (tid : Nat) (q : SpawnReq) : M Unit := do
  notHandler s tid
  if q.entry % 2 = 1 then fault PC_ALIGN
  if isWin q.entry then fault FUT_ARG
  if q.tiles ≠ 0 && (vaOf q.tiles % 16 ≠ 0 || isWin (vaOf q.tiles)) then fault FUT_ARG
  match q.range with
  | some r => need (rangeOk (wfmtOf s tid) r) FUT_ARG
  | none => .ok ()

/-- Whether a push needs an overflow segment that cannot be had (R17). -/
def pushFails (s : State) (k ctx : Nat) : Bool :=
  decide ((s.core k).deque.length ≥ 256) && !poolRoom s ctx 4096

/-- The push of a CREATED descriptor and the handle's write (R296). -/
def spawnPush (s : State) (tid d : Nat) (q : SpawnReq) (child : Nat) (h : Word) : M State := do
  needRel s tid 3
  let t := s.task tid
  let k := t.core
  let (p, s) := srStep s tid
  let (id, s) := spawnIdent s k t.launch
  let tl : Option Nat := if q.tiles = 0 then none else some (vaOf q.tiles)
  let r := childRegs q.entry q.args t.r
  let s : Option State := match q.range with
    | none =>
      let c : Task := { phase := .created, ctx := t.ctx, launch := t.launch, cls := q.cls, core := k, ends := .fut h,
                        r := { r with srseed := childSeed p r.wid }, tiles := tl, ident := id }
      pushBottom (s.setTask child c) k t.ctx (.task child)
    | some w =>
      pushBottom s k t.ctx (.range { lo := 0, hi := bits w 31 0, field := bits w 34 32, ctx := t.ctx, launch := t.launch.getD 0,
                                     cls := q.cls, r := r, p := p, tiles := tl, fut := h, ident := id })
  match s with
  | some s => writeLate s tid d 4 h
  | none => fault FUT_FULL

/-- The effect of every spawn (R296). -/
def spawnBody (tid d : Nat) (q : SpawnReq) (s : State) : M State := do
  spawnChecks s tid q
  let t := s.task tid
  let cl := clOfCore t.core
  let (child, s1) := s.fresh
  let n := (q.range.map fun r => bits r 31 0).getD 0
  let prod : Prod := if q.range.isSome then .range else .task child
  match ← allocM (allocFut s1 cl t.ctx t.launch prod (left := n)), pushFails s t.core t.ctx with
  | some (h, s), false =>
    if q.range.isSome && n = 0 then writeLate (resolveH s h 0) tid d 4 h
    else spawnPush s tid d q child h
  | _, _ => if q.trap then fault FUT_FULL else writeLate s tid d 4 futFullStatus

/-- The arguments of the 32-bit spawns, g3 to g8, whose results are waited for (R89, R295). -/
def argKeys : List Opd := [.late 3, .late 4, .late 5, .late 6, .late 7, .late 8]

/-- SPAWN and SPAWN.T, 32-bit (R295): the parent's class and g3 to g8. -/
def spawnJ (d : Nat) (o : Int) (trap : Bool) : State → Res :=
  issue 4 .sync (.dst d :: argKeys) fun tid s =>
    let t := s.task tid
    spawnBody tid d { entry := (t.r.pc + BitVec.ofInt 52 (2 * o)).toNat, cls := t.cls, args := spawnArgs s tid 3 6 t.cls,
                      tiles := 0, range := none, trap := trap } s

def execSpawn (d : BitVec 7) (o : BitVec 16) (s : State) : Res := spawnJ d.toNat o.toInt false s
def execSpawnT (d : BitVec 7) (o : BitVec 16) (s : State) : Res := spawnJ d.toNat o.toInt true s

/-- SPAWNR, 32-bit. -/
def execSpawnr (d a b : BitVec 7) (s : State) : Res :=
  issue 4 .sync (.dst d.toNat :: .src a.toNat :: .src b.toNat :: argKeys) (fun tid s => do
    let (e, s) ← readReg s tid a.toNat
    let (r, s) ← readReg s tid b.toNat
    let t := s.task tid
    spawnBody tid d.toNat { entry := vaOf e, cls := t.cls, args := spawnArgs s tid 3 6 t.cls, tiles := 0, range := some r,
                            trap := false } s) s

/-- The 64-bit spawns (R295): class, arguments from rs3 on, tile list, and the range of the SPAWNR forms. -/
def spawnX (d a b e c n : Nat) (range : Option Nat) (trap : Bool) : State → Res :=
  issue 8 .sync ([.dst d, .src a, .src b, .args e n] ++ (range.map Opd.src).toList) fun tid s => do
    let (x, s) ← readReg s tid a
    let (tl, s) ← readReg s tid b
    let (r, s) ← match range with
      | some f => do let (r, s) ← readReg s tid f; .ok (some r, s)
      | none => .ok (none, s)
    spawnBody tid d { entry := vaOf x, cls := c, args := spawnArgs s tid e n c, tiles := tl, range := r, trap := trap } s

def execSpawnLong (d a b e : BitVec 7) (c n : BitVec 3) (s : State) : Res :=
  spawnX d.toNat a.toNat b.toNat e.toNat c.toNat n.toNat none false s
def execSpawnTLong (d a b e : BitVec 7) (c n : BitVec 3) (s : State) : Res :=
  spawnX d.toNat a.toNat b.toNat e.toNat c.toNat n.toNat none true s
def execSpawnrLong (d a b e f : BitVec 7) (c n : BitVec 3) (s : State) : Res :=
  spawnX d.toNat a.toNat b.toNat e.toNat c.toNat n.toNat (some f.toNat) false s
def execSpawnrTLong (d a b e f : BitVec 7) (c n : BitVec 3) (s : State) : Res :=
  spawnX d.toNat a.toNat b.toNat e.toNat c.toNat n.toNat (some f.toNat) true s

/-! ## YIELD and TEND (R307, R308) -/

/-- The task leaves its slot and stands READY at the top of its core's deque (R307); none while that has no room. -/
def yieldNow (s : State) (tid : Nat) : Option State :=
  let t := s.task tid
  pushTop ((freeBoth s tid s.cycle).modTask tid fun t => { t with phase := .ready, mark := none }) t.core t.ctx (.task tid)

def yieldOp (len : Nat) : State → Res :=
  issue len .sync [] fun tid s => do
    if (s.task tid).handler then fault HANDLER_PARK
    if locksHeld s tid ≠ 0 then fault LOCK_STATE
    observeCancel s tid
    needRel s tid 4
    match yieldNow s tid with
    | some s => .ok s
    | none => hold .port

def execYield (s : State) : Res := yieldOp 4 s
def execYieldCompact (s : State) : Res := yieldOp 2 s

def tendOp (len a : Nat) : State → Res :=
  issueRaw len .sync [.src a] fun tid s => do
    notHandler s tid
    if locksHeld s tid ≠ 0 then fault LOCK_STATE
    needPushed s tid
    needRel s tid 5
    let (v, s) ← readReg s tid a
    .ok (endNow s tid (.done v))

def execTend (a : BitVec 7) (s : State) : Res := tendOp 4 a.toNat s
def execTendCompact (b : BitVec 5) (s : State) : Res := tendOp 2 b.toNat s

/-! ## WID and WFLD (R309) -/

def widOp (len d : Nat) : State → Res :=
  issue len .point [.dst d] fun tid s => writeReg s tid d (s.task tid).r.wid

def execWid (d : BitVec 7) (s : State) : Res := widOp 4 d.toNat s
def execWidCompact (a : BitVec 5) (s : State) : Res := widOp 2 a.toNat s

def execWfld (d n : BitVec 7) (s : State) : Res :=
  issue 4 .point [.dst d.toNat] (fun tid s =>
    let f := wfmtOf s tid
    writeReg s tid d.toNat (if n.toNat ≥ wfNF f then 0 else wfField f (s.task tid).r.wid n.toNat)) s

end Sys2Proof.Machine
end

