-- ==== Sys2Proof/Machine/Sync.lean ====
section
/-! DEFINITION. Barriers, messages, timed waits and streams (spec/12 R324-R341). -/

namespace Sys2Proof.Machine

/-! ## Barriers (R324-R326) -/

/-- A barrier register whose zero bits are zero and whose scope is a scope (R324, R325). -/
def barOk (d : Word) : Bool := bits d 63 19 == 0 && decide (bits d 18 16 ≤ 5)

/-- Checks 1 to 3 of R325: the record's core and offset. -/
def barPlace (s : State) (tid : Nat) (p : Word) : M (Nat × Nat) := do
  checkSync p
  portPlace s tid (vaOf p) 16 1

/-- A barrier register with its phase replaced: d[63:16] : q. -/
def barReg (d : Word) (q : Nat) : Word := w64 (d.toNat / 2^16 * 2^16 + q % 2^16)

def execBari (d a b : BitVec 7) (s : State) : Res :=
  issue 4 .sync [.dst d.toNat, .src a.toNat, .src b.toNat] (fun tid s => do
    let (p, s) ← readReg s tid a.toNat
    let (n, s) ← readReg s tid b.toNat
    let (k, o) ← barPlace s tid p
    need (bits n 63 20 == 0 && n != 0) BAR_ARG
    let t := s.task tid
    let w1 := uaWord s k t.ctx (o + 8)
    let s := if bit w1 47 then cancelH s (boundHandle s k w1) else s
    let s := uaPutWord s k t.ctx o (w64 (n.toNat * 2^40))
    let s := uaPutWord s k t.ctx (o + 8) (w64 (bits w1 63 48 * 2^48))
    writeReg (portWrote s k 1 16 t.core o) tid d.toNat (w64 (bits w1 63 48))) s

/-- An arrival that the record accepts (R325): its new words, and the phase completed when it completes one. -/
def barArrive (w0 w1 : Word) (drop : Bool) : Word × Option Nat :=
  let expect := bits w0 59 40
  let drops := bits w0 39 20 + (if drop then 1 else 0)
  let arrived := bits w0 19 0 + 1
  if arrived = expect then
    (w64 ((expect + 2^20 - drops) % 2^20 * 2^40), some ((bits w1 63 48 + 1) % 2^16))
  else (w64 (expect * 2^40 + drops % 2^20 * 2^20 + arrived % 2^20), none)

/-- BARA and BARAD (R325). -/
def barOp (d a b : Nat) (drop : Bool) : State → Res :=
  issue 4 .sync [.dst d, .src a, .src b] fun tid s => do
    let (p, s) ← readReg s tid a
    let (r, s) ← readReg s tid b
    let (k, o) ← barPlace s tid p
    need (barOk r) BAR_ARG
    needRel s tid (bits r 18 16)
    let t := s.task tid
    let w0 := uaWord s k t.ctx o
    let w1 := uaWord s k t.ctx (o + 8)
    let q := bits r 15 0
    need (bits w0 59 40 != 0 && q == bits w1 63 48) BAR_OVER
    let (w0', done) := barArrive w0 w1 drop
    let s := uaPutWord s k t.ctx o w0'
    let s := match done with
      | none => s
      | some ph =>
        let s := if bit w1 47 then resolveH s (boundHandle s k w1) (w64 ph) else s
        uaPutWord s k t.ctx (o + 8) (w64 (ph * 2^48 + (if bit w1 47 then 0 else bits w1 47 0)))
    writeReg (portWrote s k 1 16 t.core o) tid d (barReg r (q + 1))

def execBara (d a b : BitVec 7) (s : State) : Res := barOp d.toNat a.toNat b.toNat false s
def execBarad (d a b : BitVec 7) (s : State) : Res := barOp d.toNat a.toNat b.toNat true s

/-- The thread's waiter at a PENDING entry of the package, in its own cluster or another (R289). -/
def recordWaiter (s : State) (tid : Nat) (h : Word) : State :=
  let cl := clOfCore (s.task tid).core
  let s := s.modCluster (hCl h) fun c => match futFind c (hIdx h) (hGen h) with
    | some f => futPut c (if hCl h = cl then { f with waiters := f.waiters ++ [tid] }
                          else { f with remote := if f.remote.contains cl then f.remote else f.remote ++ [cl] })
    | none => c
  if hCl h = cl then s else s.modCluster cl fun c => { c with remoteWaits := c.remoteWaits ++ [(h, tid)] }

/-- The future bound to a record, made when there is none (R326). -/
def barFuture (s : State) (tid k o : Nat) (w1 : Word) : M (Word × State) := do
  let h := boundHandle s k w1
  if bit w1 47 && (futFind (s.cluster (hCl h)) (hIdx h) (hGen h)).isSome then .ok (h, s)
  else
    let t := s.task tid
    match ← allocM (allocFut s (clOfCore k) t.ctx t.launch .empty (rel := true)) with
    | none => fault FUT_FULL
    | some (h, s) =>
      let w := w64 (bits w1 63 48 * 2^48 + 2^47 + hIdx h * 2^18 + hGen h)
      .ok (h, portWrote (uaPutWord s k t.ctx (o + 8) w) k 1 16 t.core o)

def execBarw (d a b : BitVec 7) (s : State) : Res :=
  issue 4 .sync [.dst d.toNat, .src a.toNat, .src b.toNat] (fun tid s => do
    let (p, ps, s) ← peekReg s tid a.toNat
    let (r, qs, s) ← peekReg s tid b.toNat
    let (k, o) ← barPlace s tid p
    need (barOk r) BAR_ARG
    let t := s.task tid
    let w0 := uaWord s k t.ctx o
    let w1 := uaWord s k t.ctx (o + 8)
    if bits w1 63 48 ≠ bits r 15 0 then writeReg (popAll s tid (ps ++ qs)) tid d.toNat (barReg r (bits w1 63 48))
    else
      need (bits w0 59 40 != 0) BAR_OVER
      mayPark s tid
      let (h, s) ← barFuture s tid k o w1
      parkNow (recordWaiter s tid h) tid (.barw (BitVec.ofNat 7 d.toNat) r) [h] 4 (ps ++ qs)) s

/-! ## Messages (R327-R332) -/

/-- R327: a core descriptor. -/
def isCoreDesc (d : Word) : Bool := bits d 63 60 == 10 && decide (bits d 36 30 < 112) && bits d 26 0 == 0

def descCore (d : Word) : Nat := (bits d 39 37 * 112 + bits d 36 30) * 8 + bits d 29 27

def mkCoreDesc (chip k : Nat) : Word := w64 (0xA * 2^60 + chip * 2^40 + corePlace k * 2^27)

/-- The send of a buffer's words (R329): within the package, to another package, or back at once where its chip cannot be
reached (R420). -/
def sendMsg (s : State) (tid : Nat) (dst fut : Word) : State :=
  let t := s.task tid
  let m : Msg := { dst := descCore dst, src := t.core, ctx := t.ctx, tid := tid, words := t.mpOut, fut := fut, slot := t.slot.getD 0, since := s.cycle,
                   desc := mkCoreDesc s.peers.chip.toNat t.core }
  let s := (s.modCore t.core fun c => { c with sendBufs := c.sendBufs + 1 }).modTask tid fun t => { t with mpOut := [] }
  if bits dst 59 40 = s.peers.chip.toNat then s.modNet fun n => { n with msgs := n.msgs ++ [m] }
  else if peerReach s (bits dst 59 40) then
    peerSend s (bits dst 59 40) (9 + 256 * bindTag s t.ctx)
      ([dst, mkCoreDesc s.peers.chip.toNat t.core, fut, w64 ((tid * 64 + t.slot.getD 63) * 64 + t.ctx)] ++ m.words)
  else s.modNet fun n => { n with msgs := n.msgs ++ [{ m with code := DEAD.toNat }] }

/-- MSEND (R329). An empty buffer's PORT_MISUSE has register number 0 in its detail, as no field names mp (DESIGN CHOICE, log
41). -/
def execMsend (a b : BitVec 7) (s : State) : Res :=
  issue 4 .sync [.src a.toNat, .src b.toNat] (fun tid s => do
    let (dst, s) ← readReg s tid a.toNat
    let (fut, s) ← readReg s tid b.toNat
    need (isCoreDesc dst) MSG_DEST
    if fut ≠ 0 then checkHandle fut
    needPushed s tid
    need (!(s.task tid).mpOut.isEmpty) PORT_MISUSE
    if (s.core (s.task tid).core).sendBufs ≥ 16 then hold .port
    needRel s tid 5
    .ok (sendMsg s tid dst fut)) s

/-- MDONE (R332). -/
def execMdone (s : State) : Res :=
  issueRaw 4 .sync [] (fun tid s => do
    need (s.task tid).handler NOT_HANDLER
    needPushed s tid
    .ok (finishTask s tid .done)) s

/-! ## WAITT and ATSET (R340, R341) -/

/-- WAITT's result: ct in the cycle in which it completes. -/
def waittDone (s : State) (tid d : Nat) : M State := do
  let (v, s) ← takeTask s tid 4 (s.time (dieOfCore (s.task tid).core))
  writeReg s tid d v

/-- WAITT waits until WAITT_EXPIRY completes it in the first cycle with ct ≥ T. -/
def execWaitt (d a : BitVec 7) (s : State) : Res :=
  issue 4 .sync [.dst d.toNat, .src a.toNat] (fun tid s => do
    let (t, pops, _) ← peekReg s tid a.toNat
    let p : Park := { what := .waitt d, hs := [], len := 4, insn := (s.turn.map (·.insn)).getD 0, pops := pops, since := s.cycle }
    if (s.time (dieOfCore (s.task tid).core)).ult t then
      .error (.wait .empty fun s => s.modTask tid fun x => { x with waitUntil := some (t, p) })
    waittDone (popAll s tid pops) tid d.toNat) s

def execAtset (a : BitVec 7) (s : State) : Res :=
  issue 4 .sync [.src a.toNat] (fun tid s => do
    let (v, s) ← readReg s tid a.toNat
    .ok (s.modR tid fun r => { r with atset := v })) s

/-! ## STREAM (R333) -/

/-- Free slots of a context on a core with a place for a register run of n entries. -/
def allRuns (s : State) (k ctx n : Nat) : List (Nat × Nat) :=
  (freeSlots (s.core k) ctx 0 60).flatMap fun i => (freeRuns s k i n).map fun b => (i, b)

/-- The slots a core gives out: no ordinary one while a large task waits for one (R317). -/
def slotRuns (s : State) (k ctx n : Nat) : List (Nat × Nat) :=
  (allRuns s k ctx n).filter fun e => (s.core k).waiting.isNone || decide (56 ≤ e.1)

/-- The partner's task, its link and the handle's write. -/
def streamPlace (s : State) (tid d entry : Nat) (dir : Bool) (h : Word) (child : Nat) : M State := do
  needRel s tid 3
  let t := s.task tid
  let k := t.core
  let cands := slotRuns s k t.ctx (classRegs t.cls)
  let (f, s) := s.free
  let (slot, base) := cands.getD (f % max cands.length 1) (0, 0)
  let (p, s) := srStep s tid
  let (id, s) := spawnIdent s k t.launch
  let (link, s) := s.fresh
  let c : Task := { ctx := t.ctx, launch := t.launch, cls := t.cls, core := k, ends := .fut h, frame := true,
                    r := { childRegs entry (spawnArgs s tid 3 6 t.cls) t.r with srseed := childSeed p t.r.wid },
                    ident := id, link := some (link, false), startedAt := s.cycle }
  let s := placeTask (s.setTask child c) child k slot base
  let s := s.modTask tid fun t => { t with link := some (link, true) }
  writeReg (s.modCore k fun c => { c with links := mset c.links link { a := tid, b := child, dir := dir } }) tid d h

def execStream (d a b : BitVec 7) (s : State) : Res :=
  issue 4 .sync (.dst d.toNat :: .src a.toNat :: .src b.toNat :: argKeys) (fun tid s => do
    notHandler s tid
    need (s.task tid).link.isNone STRM_STATE
    let (e, s) ← readReg s tid a.toNat
    let (v, s) ← readReg s tid b.toNat
    let entry := vaOf e
    if entry % 2 = 1 then fault PC_ALIGN
    need (!isWin entry && bits v 63 1 == 0) FUT_ARG
    let t := s.task tid
    need (!(slotRuns s t.core t.ctx (classRegs t.cls)).isEmpty && poolRoom s t.ctx 1280) STRM_SLOT
    let (child, s1) := s.fresh
    match ← allocM (allocFut s1 (clOfCore t.core) t.ctx t.launch (.task child)) with
    | none => writeReg s tid d.toNat futFullStatus
    | some (h, s) => streamPlace s tid d.toNat entry (bit v 0) h child) s

end Sys2Proof.Machine
end

