-- ==== Sys2Proof/Machine/Pool.lean ====
section
/-! DEFINITION. Vector claims: frames and lane groups (spec/06 R117-R121, spec/12 R342, R343). -/

namespace Sys2Proof.Machine

/-- The claims in frames of a cluster: task and claim. -/
def claimsOf (s : State) (cl : Nat) : List (Nat × Claim) :=
  s.tasks.filterMap fun e =>
    match e.2.claim with
    | some c => if c.frame.isSome && clOfCore e.2.core = cl && !ended e.2 then some (e.1, c) else none
    | none => none

def groupsUsed (s : State) (cl : Nat) : Nat := ((claimsOf s cl).map fun c => c.2.g).sum

def State.modClaim (s : State) (tid : Nat) (f : Claim → Claim) : State :=
  s.modTask tid fun t => { t with claim := t.claim.map f }

/-- Groups that a task's claim holds in a cluster. -/
def groupsOf (s : State) (cl tid : Nat) : Nat := (((claimsOf s cl).find? fun c => c.1 == tid).map fun c => c.2.g).getD 0

/-- The group marked for shedding is disabled at the first moment it is free, or its claim holds a second, at an instruction boundary
of the claim's thread (R120). -/
def settleMark (s : State) (cl : Nat) : State :=
  match (s.cluster cl).marked with
  | none => s
  | some t =>
    let g := groupsOf s cl t
    if g = 1 || (s.task t).beats ≠ 0 then s
    else (if g = 0 then s else s.modClaim t fun c => { c with g := c.g - 1 }).modCluster cl fun c =>
      { c with marked := none, groups := c.groups - 1 }

/-- The frames of a cluster that no claim is in. -/
def freeFrames (s : State) (cl : Nat) : List Nat :=
  (List.range 16).filter fun f => !(claimsOf s cl).any fun c => c.2.frame == some f

/-- The frozen claim in the highest-numbered frame (R120). -/
def frozenFrame (s : State) (cl : Nat) : Option Nat :=
  (leastBy (fun c : Nat × Claim => 16 - c.2.frame.getD 0) ((claimsOf s cl).filter fun c => isFrozen s c.1)).map (·.1)

/-- Whether a context pre-empts the context of some frozen claim of the cluster: entries of that claim's core name it in a
plinth slot (R120, R382). -/
def preempts (s : State) (cl ctx : Nat) : Bool :=
  (claimsOf s cl).any fun c =>
    isFrozen s c.1 && (s.task c.1).ctx != ctx && [56, 57, 58, 59].any (slotNamed (s.core (s.task c.1).core) ctx)

/-- The claim that gives up a group: the one that holds the most, at least two, in the lowest-numbered frame (R119). -/
def richest (s : State) (cl : Nat) : Option Nat :=
  (leastBy (fun c : Nat × Claim => (16 - c.2.g) * 16 + c.2.frame.getD 0)
    ((claimsOf s cl).filter fun c => c.2.g ≥ 2)).map (·.1)

/-- The claim that must give up a group has beats outstanding: its G falls at an instruction boundary only (R120). -/
def boundaryWaits (s : State) (cl : Nat) : Bool :=
  decide ((s.cluster cl).groups ≤ groupsUsed s cl) && (richest s cl).any fun t => (s.task t).beats ≠ 0

/-- Whether a context's claim may be framed, or one of its claims that is in a frame may run again (R119, R120). -/
def mayFrame (s : State) (cl ctx : Nat) (framed : Bool) : Bool :=
  let s := settleMark s cl
  (framed || !(freeFrames s cl).isEmpty || preempts s cl ctx) && (s.cluster cl).marked.isNone && !boundaryWaits s cl &&
  decide (((claimsOf s cl).filter fun c => c.2.g ≠ 0).length < (s.cluster cl).groups)

/-- R119's grant of n groups to a task's framed claim. -/
def grantGroups (s : State) (tid n : Nat) : State :=
  let cl := clOfCore (s.task tid).core
  let have0 := ((s.task tid).claim.map (·.g)).getD 0
  let keep := min have0 n
  let s := s.modClaim tid fun c => { c with g := keep }
  let free := (s.cluster cl).groups - groupsUsed s cl
  let got := keep + min free (n - keep)
  if got ≠ 0 then s.modClaim tid fun c => { c with g := got }
  else
    match richest s cl with
    | none => s
    | some t => (s.modClaim t fun c => { c with g := c.g - 1 }).modClaim tid fun c => { c with g := 1 }

/-- With no frame free for a pre-empting context, the frozen claim in the highest-numbered frame is saved (R120). -/
def makeFrame (s : State) (cl : Nat) : State :=
  if !(freeFrames s cl).isEmpty then s
  else match frozenFrame s cl with
    | some t => s.modClaim t Claim.saved
    | none => s

/-- A claim takes a frame, any free one (log 18), and groups (R119, R121). -/
def frameClaim (s : State) (tid : Nat) (c : Claim) (n : Nat) : State :=
  let cl := clOfCore (s.task tid).core
  let s := makeFrame (settleMark s cl) cl
  let (f, s) := s.free
  let fr := freeFrames s cl
  let s := s.modTask tid fun t => { t with claim := some { c with frame := some (fr.getD (f % max fr.length 1) 0), g := 0 } }
  settleMark (grantGroups s tid n) cl

/-- A saved or frozen claim is given groups again, and a frame if it has none (R119, R120). -/
def resumeClaim (s : State) (tid : Nat) : State :=
  match (s.task tid).claim with
  | none => s
  | some c =>
    let cl := clOfCore (s.task tid).core
    if c.frame.isSome then settleMark (grantGroups (settleMark s cl) tid c.req) cl else frameClaim s tid c c.req

/-- A claim without groups of a thread that is not frozen is given some as soon as R119 lets it run again (R120). -/
def regainClaim (s : State) (tid : Nat) : State :=
  match (s.task tid).claim with
  | some c =>
    if c.g = 0 && !isFrozen s tid && mayFrame s (clOfCore (s.task tid).core) (s.task tid).ctx c.frame.isSome then resumeClaim s tid else s
  | none => s

/-- The claims of a context's threads on a core give up their groups while frozen, once their beats are over (R120, R127). -/
def freezeClaims (s : State) (k ctx : Nat) : State :=
  let mine := (s.tasks.filter fun e => e.2.core == k && e.2.ctx == ctx && !ended e.2 && e.2.beats == 0).map (·.1)
  settleMark (mine.foldl (fun s t => s.modClaim t fun c => { c with g := 0 }) s) (clOfCore k)

/-- VCLAIM (R342). A paired task may hold no claim (R403). -/
def execVclaim (d a : BitVec 7) (s : State) : Res :=
  issue 4 .sync [.dst d.toNat, .src a.toNat] (fun tid s => do
    notHandler s tid
    need (s.task tid).pair.isNone PAIR_STATE
    let (v, s) ← readReg s tid a.toNat
    let n := max 1 (min 16 v.toNat)
    let cl := clOfCore (s.task tid).core
    let s := settleMark s cl
    match (s.task tid).claim with
    | some _ =>
      let s := settleMark (grantGroups s tid n) cl
      let s := s.modClaim tid fun c => { c with req := n }
      writeReg s tid d.toNat (w64 (((s.task tid).claim.map (·.g)).getD 0))
    | none =>
      if !mayFrame s cl (s.task tid).ctx false || !poolRoom s (s.task tid).ctx 17408 then hold .port
      let s := frameClaim s tid { frame := none, req := n, g := 0 } n
      writeReg s tid d.toNat (w64 (((s.task tid).claim.map (·.g)).getD 0))) s

/-- VREL (R343). -/
def execVrel (s : State) : Res :=
  issue 4 .sync [] (fun tid s =>
    .ok (settleMark (s.modTask tid fun t => { t with claim := none }) (clOfCore (s.task tid).core))) s

end Sys2Proof.Machine
end

