-- ==== Sys2Proof/Machine/System.lean ====
section
/-! DEFINITION. Traps and the privileged instructions: the TLB, the slot table, the map of units, and capabilities (spec/14
R367-R385). -/

namespace Sys2Proof.Machine

/-! ## TRAP, ERET, BRK (R385) -/

/-- TRAP: entered at TVEC by a firmware context that has set it; otherwise the fault TRAP. -/
def execTrap (c : BitVec 7) (s : State) : Res :=
  issueRaw 4 .sync [] (fun tid s =>
    if isFirmware s tid && (s.task tid).r.tvec ≠ 0 then .ok (trapEntry s tid 4 c) else fault TRAP) s

def execEret (s : State) : Res :=
  issueRaw 4 .priv [] (fun tid s => do
    if bit (s.task tid).r.epc 0 then fault PC_ALIGN
    .ok (trapReturn s tid)) s

def execBrk (_c : BitVec 7) (s : State) : Res := issueRaw 4 .sync [] (fun _ _ => fault BREAK) s

def execBrkCompact (_i : BitVec 5) (s : State) : Res := issueRaw 2 .sync [] (fun _ _ => fault BREAK) s

/-! ## TLBW (R369, R373, R374) -/

def tlbRegionOk (e : Word) : Bool :=
  let r := bits e 35 32
  if bit e 57 then r == 8 && bits e 49 48 == 0
  else (r == 0 || r == 1 || r == 2 || r == 3 || r == 4) && bits e 53 50 == 0 &&
    (r != 4 || (bits e 62 61 == 0 && bits e 49 48 == 3))

/-- R369's conditions on the two words. -/
def tlbOk (tag e : Word) : Bool :=
  let n := 2^pageBits e
  bits tag 11 0 == 0 && bits e 62 61 != 3 && bits tag 47 12 * 2^16 % n == 0 &&
  (if bit e 63 then bits e 46 36 == 0 && bits e 35 0 * 2^16 % n == 0 && tlbRegionOk e
   else e &&& 0x1F3FFFFFFFFFFFFF == 0)

/-- The entries of an ASID in a list. -/
def ofAsid (l : List Tlb) (asid : Nat) : List Tlb := l.filter fun t => t.asid == asid

/-- The guaranteed entries of the context with an ASID (R364, R373). -/
def floorOf (s : State) (asid : Nat) : Nat :=
  match s.ctxs.find? fun e => e.2.asid == asid with
  | some (_, c) => c.tlbfloor
  | none => 0

/-- The entry a full cluster TLB loses to an entry of an ASID: the list is in order of use, latest first (R373). -/
def tlbVictim (s : State) (l : List Tlb) (asid : Nat) : Option Tlb :=
  if (ofAsid l asid).length ≥ max 1 (floorOf s asid) then (ofAsid l asid).getLast?
  else (l.filter fun t => decide ((ofAsid l t.asid).length > floorOf s t.asid)).getLast?

/-- First-level entries of an ASID that overlap a range leave the cores that `on` selects. -/
def dropFirst (s : State) (on : Nat → Bool) (asid va n : Nat) : State :=
  { s with cores := s.cores.map fun e =>
      if on e.1 then (e.1, { e.2 with tlb := e.2.tlb.filter fun t => !t.overlaps asid va n }) else e }

/-- The write of an entry into a cluster's TLB (R374): 1 where it replaces, and the state. -/
def tlbWrite (s : State) (cl : Nat) (tag e : Word) : Nat × State :=
  let t : Tlb := { tag := tag, word := e }
  let n := 2^pageBits e
  let l := (s.cluster cl).tlb
  let kept := l.filter fun x => !x.overlaps t.asid t.base n
  let made := if kept.length < 4096 then kept else
    match tlbVictim s kept t.asid with
    | some v => kept.filter (· ≠ v)
    | none => kept.dropLast
  let s := s.modCluster cl fun c => { c with tlb := t :: made }
  (if kept.length = l.length then 0 else 1, dropFirst s (fun k => clOfCore k == cl) t.asid t.base n)

def execTlbw (d a b : BitVec 7) (s : State) : Res :=
  issue 4 .priv [.dst d.toNat, .src a.toNat, .src b.toNat] (fun tid s => do
    let (tag, s) ← readReg s tid a.toNat
    let (e, s) ← readReg s tid b.toNat
    need (tlbOk tag e) TLB_ARG
    let (v, s) := tlbWrite s (clOfCore (s.task tid).core) tag e
    writeReg s tid d.toNat (w64 v)) s

/-! ## TLBINV (R375) -/

/-- Whether a cluster is within a scope of another: 2 .k, 3 .d, 4 .p. -/
def inScope (cl scope c : Nat) : Bool := scope == 4 || (scope == 3 && dieOfCl c == dieOfCl cl) || c == cl

/-- R375's conditions on the operands. -/
def tlbinvOk (tag w : Word) : Bool :=
  bits tag 11 0 == 0 && bits w 31 9 == 0 && bits w 7 3 == 0 && 2 ≤ bits w 2 0 && bits w 2 0 ≤ 4 &&
  (bits w 63 32 == 0) == bit w 8

/-- First address and length of the range. -/
def tlbinvRange (tag w : Word) : Nat × Nat :=
  if bit w 8 then (0, 2^52) else (bits tag 47 12 * 2^16, bits w 63 32 * 2^16)

/-- Entries of the range leave the TLBs within the scope: how many from cluster TLBs, which, and the state. -/
def tlbDrop (s : State) (cl scope asid va n : Nat) : Nat × List Tlb × State :=
  let hit (t : Tlb) : Bool := t.overlaps asid va n
  let inside := s.clusters.filter fun e => inScope cl scope e.1
  let gone := inside.flatMap fun e => e.2.tlb.filter hit
  let firsts := (s.cores.filter fun e => inScope cl scope (clOfCore e.1)).flatMap fun e => e.2.tlb.filter hit
  let kept (e : Nat × Cluster) : Nat × Cluster :=
    if inScope cl scope e.1 then (e.1, { e.2 with tlb := e.2.tlb.filter fun t => !hit t }) else e
  let s : State := { s with clusters := s.clusters.map kept }
  let s := dropFirst s (fun k => inScope cl scope (clOfCore k)) asid va n
  let hub := if scope = 4 then s.hub.tlb.filter hit else []
  let s := if scope = 4 then s.modHub fun h => { h with tlb := h.tlb.filter fun t => !hit t } else s
  (gone.length, gone ++ firsts ++ hub, s)

/-- An address that an entry translates to. -/
def Tlb.covers (t : Tlb) (dpa : Nat) : Bool := bit t.word 63 && bits t.word 35 0 * 2^16 / 2^pageBits t.word == dpa / 2^pageBits t.word

/-- Whether a store within the scope to a page of these entries has not performed, an access that went through them is at a peer, or a
fill for the range goes on. -/
def tlbinvBusy (s : State) (cl scope asid va n : Nat) (ts : List Tlb) : Bool :=
  let on (a : Nat) : Bool := ts.any (·.covers a)
  let st (x : Store) : Bool := match x.dest with
    | .mem a => on a
    | .door a => on a
    | .win _ _ => false
  (s.tasks.any fun e => inScope cl scope (clOfCore e.2.core) && (ownStores e.2).any st) ||
  (s.peers.accs.any fun e => on e.2.dpa && e.2.answer.isNone && match e.2.who with
    | (0, t) => inScope cl scope (clOfCore (s.task t).core)
    | (3, _) => scope == 4
    | _ => true) ||
  (s.dies.any fun e => (scope == 4 || e.1 == dieOfCl cl) && e.2.order.any fun x => on x.dpa) ||
  (s.clusters.any fun e => inScope cl scope e.1 &&
    e.2.fills.any fun f => f.asid == asid && decide (va < f.vpn * 2^16 + 2^16) && decide (f.vpn * 2^16 < va + n)) ||
  (scope == 4 && s.hub.fills.any fun f => f.asid == asid && decide (va < f.vpn * 2^16 + 2^16) && decide (f.vpn * 2^16 < va + n))

/-- TLBINV: the entries go at its issue; it completes once what used them has ended. -/
def execTlbinv (d a b : BitVec 7) (s : State) : Res :=
  issue 4 .priv [.dst d.toNat, .src a.toNat, .src b.toNat] (fun tid s0 => do
    let (tag, s) ← readReg s0 tid a.toNat
    let (w, s) ← readReg s tid b.toNat
    need (tlbinvOk tag w) TLB_ARG
    let cl := clOfCore (s.task tid).core
    let (va, n) := tlbinvRange tag w
    let scope := bits w 2 0
    let asid := bits tag 63 48
    let drop (s : State) : Nat × List Tlb × State :=
      let (k, ts, s) := tlbDrop s cl scope asid va n
      let (k0, t0) := (s.task tid).inv.getD (0, [])
      (k0 + k, t0 ++ ts, s)
    let (k, ts, s) := drop s
    if tlbinvBusy s cl scope asid va n ts then
      .error (.wait .opnd fun s =>
        let (k, ts, s) := drop s
        s.modTask tid fun t => { t with inv := some (k, ts) })
    writeReg (s.modTask tid fun t => { t with inv := none }) tid d.toNat (w64 k)) s

/-! ## SLOTW (R379-R382) -/

/-- A table with its pending writes made, and its length. -/
def pendingTable (c : Core) : FMap (BitVec 16) × Nat :=
  c.pending.foldl (fun x w => match w.2 with
    | .entry i v => (mput 0x2000 x.1 i v, x.2)
    | .length p => (x.1, p)) (c.table, c.len)

/-- An entry's value as a WRITE leaves it: the position's EN stays, bit 12 reads zero. -/
def entryValue (old v : BitVec 16) : BitVec 16 := (v &&& 0xCFFF) ||| (old &&& 0x2000)

/-- R313's conditions on a table of length p. -/
def tableOk (tab : FMap (BitVec 16)) (p : Nat) : Bool :=
  let es := (tab.filter fun e => decide (e.1 < p) && entValid e.2)
  es.all fun x => decide (entSlot x.2 < 60) && es.all fun y =>
    x.1 == y.1 || entSlot x.2 != entSlot y.2 ||
    (entCtx x.2 == entCtx y.2 && decide (8 ≤ min (max x.1 y.1 - min x.1 y.1) (p - (max x.1 y.1 - min x.1 y.1))))

/-- A slot holds a thread of another context. -/
def slotForeign (s : State) (k : Nat) (v : BitVec 16) : Bool :=
  entValid v && match mfind (s.core k).slots (entSlot v) with
    | some t => (s.task t).ctx != entCtx v
    | none => false

/-- SLOTW WRITE: 0 DONE, 1 REJECTED, 2 BAD. -/
def slotWrite (s : State) (k idx : Nat) (v : BitVec 16) : Nat × State :=
  let c := s.core k
  if entValid v && (mfind s.ctxs (entCtx v)).isNone then (2, s) else
  let (tab, p) := pendingTable c
  let v' := entryValue (mget 0x2000 tab idx) v
  if !tableOk (mput 0x2000 tab idx v') p || slotForeign s k v then (1, s)
  else (0, s.setCore k { c with pending := c.pending ++ [(s.cycle, .entry idx v')] })

/-- SLOTW LENGTH. -/
def slotLength (s : State) (k p : Nat) : Nat × State :=
  let c := s.core k
  if p = 0 || p > 64 || !tableOk (pendingTable c).1 p then (1, s)
  else (0, s.setCore k { c with pending := c.pending ++ [(s.cycle, .length p)] })

/-- A waiting instruction is abandoned, to be executed afresh at the thaw, and so are loads that performed early (R233, R256, R381);
one that completes first is not. -/
def abandonWait (s : State) (tid : Nat) : State :=
  if (s.task tid).busy then s
  else (dropLockReqs s tid).modTask tid fun t => { t with lockRetry := none, waitUntil := none, mark := none, early := [], part := [] }

/-- A context's threads on a core stop at their instruction boundaries, and its claims give up their groups (R120, R381). -/
def freezeCtx (s : State) (k ctx : Nat) : State :=
  let mine := (s.tasks.filter fun e => e.2.core == k && e.2.ctx == ctx && e.2.slot.isSome && e.2.park.isNone).map (·.1)
  let s := mine.foldl abandonWait s
  freezeClaims (s.modCore k fun c => { c with frozen := if c.frozen.contains ctx then c.frozen else c.frozen ++ [ctx] }) k ctx

/-- A thread of a context on a core has not stopped: it parks, waits for a touch's reply, has beats or results outstanding, or an
instruction that completes first (R312, R381). -/
def stillParking (s : State) (k ctx : Nat) : Bool :=
  s.tasks.any fun e => e.2.core == k && e.2.ctx == ctx && decide (e.2.phase = .running) &&
    (e.2.park.isSome || e.2.ask.isSome || e.2.beats != 0 || !e.2.pushes.isEmpty || (e.2.busy && e.2.halt.isNone))

/-- THAW (R379, R382). -/
def thawCtx (s : State) (k ctx : Nat) : Nat × State :=
  if !(s.core k).frozen.contains ctx then (1, s) else
  let s := pushSaved (s.modCore k fun c => { c with frozen := c.frozen.filter (· ≠ ctx) }) k
  let s : State := { s with launches := s.launches.map fun e =>
    (e.1, if e.2.ctx == ctx && recMode s (some e.1) == 2 then { e.2 with recAt := s.cycle } else e.2) }
  (0, (s.core k).slots.foldl (fun s e => regainClaim s e.2) s)

/-- One frozen thread leaves its slot for its task frame (R382); a shadow leaves with its leader. -/
def saveThread (s : State) (t : Nat) : State :=
  let lead := match (s.task t).pair with
    | some p => if p.leader then t else p.other
    | none => t
  if (s.task lead).slot.isNone then s
  else (freeBoth s lead s.cycle).modTask lead fun x => { x with phase := .ready, saved := true, frame := true }

/-- SAVE (R382). -/
def saveCtx (s : State) (k ctx : Nat) : Nat × State :=
  if !(s.core k).frozen.contains ctx then (1, s) else
  let mine := (s.core k).slots.filter fun e => (s.task e.2).ctx == ctx
  (0, mine.foldl (fun s e => saveThread s e.2) s)

/-- The fields of SLOTW's operands that must be zero, and a context it names that must be resident (R379). -/
def slotwBad (s : State) (a b : Word) : Bool :=
  let op := bits a 63 60
  op ≥ 5 || bits a 59 11 != 0 || bits a 7 6 != 0 ||
  (if op = 0 then bits b 63 16 != 0
   else if op = 1 then bits b 63 7 != 0
   else bits b 63 6 != 0 || (mfind s.ctxs (bits b 5 0)).isNone)

def execSlotw (d a b : BitVec 7) (s : State) : Res :=
  issue 4 .priv [.dst d.toNat, .src a.toNat, .src b.toNat] (fun tid s => do
    let (x, s) ← readReg s tid a.toNat
    let (y, s) ← readReg s tid b.toNat
    let k := clOfCore (s.task tid).core * 8 + bits x 10 8
    if slotwBad s x y then writeReg s tid d.toNat 2
    else
      match bits x 63 60 with
      | 0 => let (c, s) := slotWrite s k (bits x 5 0) (BitVec.ofNat 16 y.toNat); writeReg s tid d.toNat (w64 c)
      | 1 => let (c, s) := slotLength s k (bits y 6 0); writeReg s tid d.toNat (w64 c)
      | 2 =>
        if stillParking s k (bits y 5 0) then .error (.wait .opnd fun s => freezeCtx s k (bits y 5 0))
        writeReg (freezeCtx s k (bits y 5 0)) tid d.toNat 0
      | 3 => let (c, s) := thawCtx s k (bits y 5 0); writeReg s tid d.toNat (w64 c)
      | _ =>
        if (s.core k).frozen.contains (bits y 5 0) && stillParking s k (bits y 5 0) then hold .opnd
        let (c, s) := saveCtx s k (bits y 5 0)
        writeReg s tid d.toNat (w64 c)) s

/-! ## MAPCL (R383) -/

/-- The physical units a die's clusters, or a cluster's cores, stand on. -/
def clustersOn (s : State) (die : Nat) : List Nat := (List.range 112).map fun c => (s.cluster (die * 112 + c)).phys

def coresOn (s : State) (cl : Nat) : List Nat := (List.range 8).map fun j => (s.core (cl * 8 + j)).phys

/-- Whether a physical unit is a spare, not failed and not the target of another remap. -/
def isSpare (s : State) (isCore : Bool) (unit p : Nat) : Bool :=
  let home := if isCore then clOfCore unit else dieOfCl unit
  let mine (r : Remap) : Bool := r.isCore == isCore && (if isCore then clOfCore r.unit else dieOfCl r.unit) == home
  !(if isCore then coresOn s home else clustersOn s home).contains p &&
  !(if isCore then (s.cluster home).failedCores else (s.die home).failed).contains p &&
  !s.net.remaps.any fun r => mine r && r.phys == p

/-- The cores of a unit. -/
def unitCores (isCore : Bool) (unit : Nat) : List Nat := if isCore then [unit] else (List.range 8).map (unit * 8 + ·)

/-- The lowest slot in which a context holds a thread on some cores, 0x3F for none (R378). -/
def lowestSlot (s : State) (ks : List Nat) (ctx : Nat) : Nat :=
  (leastBy id (ks.flatMap fun k => ((s.core k).slots.filter fun e => (s.task e.2).ctx == ctx).map (·.1))).getD 0x3F

/-- The contexts with a thread or a valid slot-table entry on some cores (R383). -/
def unitCtxs (s : State) (ks : List Nat) : List (Nat × Nat) :=
  ((s.ctxs.map (·.1)).filter fun c => ks.any fun k =>
    ((s.core k).slots.any fun e => (s.task e.2).ctx == c) ||
    (s.core k).table.any fun e => decide (e.1 < (s.core k).len) && entValid e.2 && entCtx e.2 == c).map
    fun c => (c, lowestSlot s ks c)

/-- A remap begins: the unit's issue stops (R383 step 1). -/
def beginRemap (s : State) (r : Remap) : State :=
  s.modNet fun n => { n with remaps := n.remaps ++ [{ r with ctxs := unitCtxs s (unitCores r.isCore r.unit) }] }

/-- Whether a logical unit is being remapped, itself or with its cluster. -/
def underRemap (s : State) (k : Nat) : Bool :=
  s.net.remaps.any fun r => if r.isCore then r.unit == k else r.unit == clOfCore k

def mapclBad (a b : Word) : Bool :=
  bits a 60 14 != 0 || bit a 3 || decide (bits a 10 4 ≥ 112) || decide (b.toNat > if bit a 63 then 8 else 115)

def execMapcl (d a b : BitVec 7) (s : State) : Res :=
  issue 4 .priv [.dst d.toNat, .src a.toNat, .src b.toNat] (fun tid s => do
    if s.net.remaps.any fun r => (r.asker.map (·.1)) == some tid then hold .opnd
    let (x, ps, s) ← peekReg s tid a.toNat
    let (y, qs, s) ← peekReg s tid b.toNat
    let cl := bits x 13 11 * 112 + bits x 10 4
    let core := bit x 63
    let unit := if core then cl * 8 + bits x 2 0 else cl
    if mapclBad x y then writeReg (popAll s tid (ps ++ qs)) tid d.toNat 2
    else
      if s.net.remaps.any fun r => r.isCore == core && r.unit == unit then hold .opnd
      if !isSpare s core unit y.toNat then writeReg (popAll s tid (ps ++ qs)) tid d.toNat 1
      else
        let r : Remap := { isCore := core, unit := unit, copy := bit x 62, retire := bit x 61, phys := y.toNat,
                           asker := some (tid, BitVec.ofNat 7 d.toNat), pops := ps ++ qs }
        .error (.gone fun _ => (beginRemap s r).noteStall tid .opnd)) s

/-! ## CAPMK (R376, R377) -/

/-- SipHash's state of four words. -/
structure Sip where
  v0 : Word
  v1 : Word
  v2 : Word
  v3 : Word
  deriving DecidableEq, Repr

def sipRound (x : Sip) : Sip :=
  let v0 := x.v0 + x.v1
  let v1 := x.v1.rotateLeft 13 ^^^ v0
  let v0 := v0.rotateLeft 32
  let v2 := x.v2 + x.v3
  let v3 := x.v3.rotateLeft 16 ^^^ v2
  let v0 := v0 + v3
  let v3 := v3.rotateLeft 21 ^^^ v0
  let v2 := v2 + v1
  let v1 := v1.rotateLeft 17 ^^^ v2
  { v0 := v0, v1 := v1, v2 := v2.rotateLeft 32, v3 := v3 }

/-- One message word absorbed by two rounds. -/
def sipWord (x : Sip) (m : Word) : Sip :=
  let x := sipRound (sipRound { x with v3 := x.v3 ^^^ m })
  { x with v0 := x.v0 ^^^ m }

/-- SipHash-2-4 of the eight little-endian bytes of a word. -/
def sipHash (key : BitVec 128) (m : Word) : Word :=
  let k0 : Word := BitVec.ofNat 64 key.toNat
  let k1 : Word := BitVec.ofNat 64 (key.toNat / 2^64)
  let x : Sip := { v0 := k0 ^^^ 0x736f6d6570736575, v1 := k1 ^^^ 0x646f72616e646f6d, v2 := k0 ^^^ 0x6c7967656e657261,
                   v3 := k1 ^^^ 0x7465646279746573 }
  let x := sipWord (sipWord x m) (w64 (8 * 2^56))
  let x := sipRound (sipRound (sipRound (sipRound { x with v2 := x.v2 ^^^ 0xFF })))
  x.v0 ^^^ x.v1 ^^^ x.v2 ^^^ x.v3

/-- A capability's MAC (R376). -/
def capMac (s : State) (c : Word) : Nat := bits (sipHash (Config.secret s.mgmt.bootCount) (c &&& 0x000000FFFFFFFFFF)) 63 40

/-- The capability a context makes for a place, OPS and TILES. -/
def capMake (s : State) (ctx place ops tiles : Nat) : Word :=
  let c := w64 ((s.ctx ctx).capep.toNat * 2^36 + ctx % 64 * 2^30 + ops * 2^26 + tiles * 2^10 + place)
  w64 (capMac s c * 2^40 + c.toNat)

def execCapmk (d a b : BitVec 7) (s : State) : Res :=
  issue 4 .sync [.dst d.toNat, .src a.toNat, .src b.toNat] (fun tid s => do
    let (x, s) ← readReg s tid a.toNat
    let (y, s) ← readReg s tid b.toNat
    need (bits x 63 10 == 0 && bits y 63 20 == 0 && decide (bits x 6 0 < 112) && bits y 19 16 != 0 && bits y 15 0 != 0) CAP_ARG
    writeLate s tid d.toNat 4 (capMake s (s.task tid).ctx x.toNat (bits y 19 16) (bits y 15 0))) s

end Sys2Proof.Machine
end

