-- ==== Sys2Proof/Machine/Pair.lean ====
section
/-! DEFINITION. Redundant pairs and the poison check (spec/15 R391, R400-R406). -/

namespace Sys2Proof.Machine

/-- The partner core (R400): the other one of its couple in the cluster. -/
def partnerOf (k : Nat) : Nat := if k % 2 = 0 then k + 1 else k - 1

/-- PAIR's outcome before it pairs (R401), in the order of its codes. -/
def pairCode (s : State) (tid : Nat) : Nat :=
  let t := s.task tid
  let p := partnerOf t.core
  if t.pair.isSome then 1
  else if (slotRuns s p t.ctx (classRegs t.cls)).isEmpty then 2
  else if t.claim.isSome || locksHeld s tid ≠ 0 || t.link.isSome || (s.core p).dead then 3
  else 0

/-- The shadow takes a slot of the partner core, any that the table allows (log 18), with a copy of the task's registers;
the state after PAIR is checkpoint 0. -/
def makePair (s : State) (tid : Nat) : State :=
  let t := s.task tid
  let p := partnerOf t.core
  let cands := slotRuns s p t.ctx (classRegs t.cls)
  let (f, s) := s.free
  let (slot, base) := cands.getD (f % max cands.length 1) (0, 0)
  let (sh, s) := s.fresh
  let r := { t.r with pc := t.r.pc + 4 }
  let x : Task := { ctx := t.ctx, cls := t.cls, core := p, shadow := true, r := r,
                    pair := some { leader := false, other := tid, ckpt := r }, startedAt := s.cycle }
  let s := placeTask (s.setTask sh x) sh p slot base
  s.modTask tid fun t => { t with pair := some { leader := true, other := sh, ckpt := r } }

/-- A pair's own instructions are sync points but for PAIR of a task that is paired, which changes nothing (R401, R403). -/
def pairKind (s : State) : Kind :=
  match s.turn with
  | some u => if (s.task u.tid).pair.isSome then .plain else .sync
  | none => .sync

def execPair (d : BitVec 7) (s : State) : Res :=
  issue 4 (pairKind s) [.dst d.toNat] (fun tid s => do
    notHandler s tid
    let c := pairCode s tid
    let s := if c = 0 then makePair s tid else s
    writeReg s tid d.toNat (w64 c)) s

/-- UNPAIR (R405): by now the open interval has agreed and its stores are released. -/
def execUnpair (d : BitVec 7) (s : State) : Res :=
  issue 4 .sync [.dst d.toNat] (fun tid s => do
    notHandler s tid
    match (s.task tid).pair with
    | none => writeReg s tid d.toNat 1
    | some _ => writeReg ((endShadow s tid).modTask tid fun t => { t with pair := none }) tid d.toNat 0) s

/-- The pair status word (R405). -/
def pairStatus (p : Pair) : Word := w64 (2^63 + p.rollbacks % 2^16 * 2^32 + p.intervals % 2^32)

def execCkpt (d : BitVec 7) (s : State) : Res :=
  issue 4 .sync [.dst d.toNat] (fun tid s => do
    notHandler s tid
    writeReg s tid d.toNat (match (s.task tid).pair with
      | some p => pairStatus p
      | none => 0)) s

/-! ## PCHK (R391) -/

/-- The poison bits of the n / 8 words at a place, bit i for the word at 8 i. -/
def poisonMask (s : State) (tid n : Nat) : Place → Nat
  | .zero => 0
  | .poison => 2^(n / 8) - 1
  | .mem dpa _ =>
    (((List.range (n / 8)).filter fun i =>
      wordPoisoned s tid (dpa / 8 + i)).map (2^·)).sum
  | .win k o =>
    (((List.range (n / 8)).filter fun i =>
      (uaPoisonIn s k (s.task tid).ctx (o + 8 * i) 8).isSome && !winPending s tid k (o / 8 + i)).map (2^·)).sum

/-- PCHK's mask of the bytes at an address (R391). -/
def checkPoison (s : State) (tid va n : Nat) : M (Word × State) := do
  let (pl, s) ← placeOf s tid va n .rd
  let (_, s) ← loadPlace s tid pl va n true
  .ok (w64 (poisonMask s tid n pl), s)

def execPchk (d a b : BitVec 7) (s : State) : Res :=
  issue 4 .plain [.dst d.toNat, .src a.toNat, .src b.toNat] (fun tid s => do
    let (p, s) ← readReg s tid a.toNat
    let (w, s) ← readReg s tid b.toNat
    let va := vaOf p
    let n := w.toNat
    if n < 8 || n > 128 || n % 8 ≠ 0 || va % 8 ≠ 0 || va / 128 ≠ (va + n - 1) / 128 then faultAt MISALIGN va
    if ptrBad p then faultAt BAD_POINTER va
    let (m, s) ← outside s tid (checkPoison s tid va n)
    writeReg s tid d.toNat m) s

end Sys2Proof.Machine
end

