-- ==== Sys2Proof/Machine/Transc.lean ====
section
/-! DEFINITION. The transcendental functions of the vector pool (spec/06 R143): their values in fixed point, carried so
far below any rounding boundary of the element types that one rounding of them is the rounding of the exact value (log 11). -/

namespace Sys2Proof.Machine

/-- Fraction bits of the fixed-point values. -/
def fixBits : Nat := 1100

def fixOne : Nat := 2^fixBits

/-- Σ x^n / n! for a fixed-point x below 1, from term n on. -/
def expTerms (x : Nat) : Nat → Nat → Nat → Nat → Nat
  | 0, _, _, acc => acc
  | fuel + 1, n, term, acc => expTerms x fuel (n + 1) (term * x / fixOne / (n + 1)) (acc + term)

/-- e^x. -/
def expFix (x : Nat) : Nat := expTerms x 220 0 fixOne 0

/-- Σ z^(2k+1) / (2k+1), or with alternating signs: atanh or arctan of a fixed-point z below 1. -/
def oddTerms (alt : Bool) (z2 : Nat) : Nat → Nat → Nat → Int → Int
  | 0, _, _, acc => acc
  | fuel + 1, k, pow, acc =>
    let t : Int := pow / (2 * k + 1)
    oddTerms alt z2 fuel (k + 1) (pow * z2 / fixOne) (if alt && k % 2 == 1 then acc - t else acc + t)

def atanhFix (z : Nat) : Nat := (oddTerms false (z * z / fixOne) 400 0 z 0).toNat

def atanFix (z : Nat) : Nat := (oddTerms true (z * z / fixOne) 400 0 z 0).toNat

/-- ln 2 = 2 atanh(1/3). -/
def ln2Fix : Nat := 2 * atanhFix (fixOne / 3)

/-- π = 16 arctan(1/5) − 4 arctan(1/239). -/
def piFix : Nat := 16 * atanFix (fixOne / 5) - 4 * atanFix (fixOne / 239)

/-- sin x for a fixed-point x up to π/2: the terms from (−1)^k x^(2k+1) / (2k+1)! on. -/
def sinTerms (x2 : Nat) : Nat → Nat → Nat → Int → Int
  | 0, _, _, acc => acc
  | fuel + 1, k, term, acc =>
    sinTerms x2 fuel (k + 1) (term * x2 / fixOne / ((2 * k + 2) * (2 * k + 3))) (if k % 2 == 1 then acc - term else acc + term)

def sinFix (x : Nat) : Nat := (sinTerms (x * x / fixOne) 160 0 x 0).toNat

/-- A positive fixed-point value that is no dyadic fraction, as an exact value just above its computed bits. -/
def fixVal (n : Bool) (x : Nat) : FVal := .num n (2 * x + 1) (-(fixBits : Int) - 1)

/-- m · 2^e in fixed point. -/
def toFix (m : Nat) (e : Int) : Nat := if e ≥ 0 then m * 2^e.toNat * fixOne else m * fixOne / 2^(-e).toNat

def nanOf (s : Bool) : Exact := (.nan false, if s then NV else 0)

/-- 2^a. -/
def xexp2 (a : FVal) : Exact :=
  match a with
  | .nan s => nanOf s
  | .inf n => if n then (.num false 0 0, 0) else (.inf false, 0)
  | .num n m e =>
    if m = 0 then (.num false 1 0, 0)
    else if e ≥ 0 then
      -- An exponent beyond any format's is brought to one that still overflows or vanishes.
      let i : Int := if e > 20 then 2^21 else min (m * 2^e.toNat : Nat) (2^21)
      (.num false 1 (if n then -i else i), 0)
    else
      let d : Nat := 2^(-e).toNat
      let v : Int := if n then -(m : Int) else m
      let i : Int := v / (d : Int)
      let f : Nat := (v % (d : Int)).toNat
      if f = 0 then (.num false 1 (max (-(2^21 : Int)) (min i (2^21))), 0)
      else
        let x := expFix (f * fixOne / d * ln2Fix / fixOne)
        (.num false (2 * x + 1) (i - fixBits - 1), 0)

/-- log2 a. -/
def xlog2 (a : FVal) : Exact :=
  match a with
  | .nan s => nanOf s
  | .inf n => if n then (.nan false, NV) else (.inf false, 0)
  | .num n m e =>
    if m = 0 then (.inf true, DZ)
    else if n then (.nan false, NV)
    else
      let k : Int := m.log2 + e
      let one := 2^m.log2
      if m = one then (.num (k < 0) k.natAbs 0, 0)
      else
        let l := 2 * atanhFix ((m - one) * fixOne / (m + one)) * fixOne / ln2Fix
        let v : Int := k * fixOne + l
        (fixVal (v < 0) v.natAbs, 0)

/-- sin a, a in radians. -/
def xsin (a : FVal) : Exact :=
  match a with
  | .nan s => nanOf s
  | .inf _ => (.nan false, NV)
  | .num n m e =>
    if m = 0 then (.num n 0 0, 0)
    else
      let x := toFix m e % (2 * piFix)
      let neg := decide (x ≥ piFix)
      let y := x % piFix
      let z := if 2 * y > piFix then piFix - y else y
      (fixVal (n != neg) (sinFix z), 0)

/-- tanh a. -/
def xtanh (a : FVal) : Exact :=
  match a with
  | .nan s => nanOf s
  | .inf n => (.num n 1 0, 0)
  | .num n m e =>
    if m = 0 then (.num n 0 0, 0)
    else if (m.log2 : Int) + e ≥ 9 then (.num n (fixOne - 1) (-(fixBits : Int)), 0)
    else
      let x := 2 * toFix m e
      let k := x / ln2Fix
      let ex := 2^k * expFix (x % ln2Fix)
      (fixVal n ((ex - fixOne) * fixOne / (ex + fixOne)), 0)

end Sys2Proof.Machine
end

