-- ==== Sys2Proof/Machine/Vector.lean ====
section
/-! DEFINITION. Vector arithmetic, comparison, conversion, reduction and block quantisation (spec/06 R121-R145). An
instruction has its effect as its first beat issues, and its further beats take its thread's next turns (R125; log 2). -/

namespace Sys2Proof.Machine

/-! ## The claim's registers (R122-R124) -/

def claimOf (s : State) (tid : Nat) : M Claim :=
  match (s.task tid).claim with
  | some c => .ok c
  | none => fault VEC_NOCLAIM

/-- Element i of a vector register. -/
def Claim.el (c : Claim) (r i : Nat) : BitVec 32 := mget 0 c.v (256 * r + i)

def Claim.setEl (c : Claim) (r i : Nat) (x : BitVec 32) : Claim := { c with v := mput 0 c.v (256 * r + i) x }

def Claim.mask (c : Claim) (k : Nat) : BitVec 256 := mget 0 c.vm k

/-- R124's active elements, in ascending order. -/
def Claim.active (c : Claim) (m k : Nat) : List Nat :=
  (List.range c.vl).filter fun i => m == 0 || (c.mask k).getLsbD i

/-- Bits of an element type (R122). -/
def tBits (t : Nat) : Nat :=
  match t with
  | 0 => 32 | 1 => 16 | 2 => 16 | 3 => 32 | 4 => 16 | _ => 8

/-- The format of a floating element type. -/
def tFmt (t : Nat) : Fmt :=
  match t with
  | 0 => FP32 | 1 => FP16 | _ => BF16

def tFloat (t : Nat) : Bool := t ≤ 2

/-- The bits that an instruction reads of an element. -/
def Claim.raw (c : Claim) (t r i : Nat) : Nat := (c.el r i).toNat % 2^tBits t

def Claim.fval (c : Claim) (t r i : Nat) : FVal := Machine.fval (tFmt t) (c.raw t r i)

def Claim.int (c : Claim) (t r i : Nat) : Int := toSigned (tBits t) (c.raw t r i)

/-- What an instruction has gathered: flags and the generator. -/
structure VAcc where
  fl : Flags
  seed : BitVec 32

/-- One element's result. -/
abbrev ElOp := Nat → VAcc → BitVec 32 × VAcc

/-- Results for a list of positions, with the flags and draws taken in order (R128). -/
def mapEls (f : ElOp) : List Nat → VAcc → List (Nat × BitVec 32) × VAcc
  | [], a => ([], a)
  | i :: r, a =>
    let (x, a) := f i a
    let (xs, a) := mapEls f r a
    ((i, x) :: xs, a)

/-- A rounding of an exact result in mode rm, one draw under SR (R128). -/
def roundEl (f : Fmt) (rm : Nat) (x : Exact) (a : VAcc) : BitVec 32 × VAcc :=
  let (seed, r) := srDraw rm a.seed
  let (v, fl) := fround f x.1 rm r
  (BitVec.ofNat 32 v, { fl := a.fl ||| x.2 ||| fl, seed := seed })

/-- An integer result under X: wrap or saturate (R128). -/
def intEl (t x : Nat) (v : Int) : BitVec 32 :=
  let w := tBits t
  BitVec.ofNat 32 (BitVec.ofInt w (if x = 1 then sat v (intLo w true) (intHi w true) else v)).toNat

def pureEl (f : Nat → BitVec 32) : ElOp := fun i a => (f i, a)

/-- Active elements of vd take the results, computed from the registers as they were (R124). -/
def vecWrite (tid d : Nat) (els : List Nat) (op : ElOp) (s : State) : State :=
  let r := (s.task tid).r
  let (xs, a) := mapEls op els { fl := 0, seed := r.srseed }
  let s := s.modClaim tid fun c => xs.foldl (fun c (i, x) => c.setEl d i x) c
  (s.modR tid fun r => { r with srseed := a.seed }).flag tid a.fl

/-! ## Beats (R125-R127) -/

/-- Keys of a vector register and of a mask in `Task.due`. -/
def vKey (r : Nat) : Nat := 128 + r
def mKey (k : Nat) : Nat := 144 + k

/-- The vector registers an instruction names and the mask it reads, as operands it waits for (R126). -/
def vOpds (rs : List Nat) (m k : Nat) : List Opd :=
  rs.map (fun r => .late (vKey r)) ++ (if m = 0 then [] else [.late (mKey k)])

/-- p: the passes of an instruction over its claim's lanes (R126). -/
def Claim.passes (c : Claim) : Nat := max 1 ((c.vl + 16 * max c.g 1 - 1) / (16 * max c.g 1))

/-- A vector instruction has issued the first of its `n` beats (R125). -/
def Task.beat (t : Task) (now n : Nat) (l : Late) : Task :=
  if n ≤ 1 then t.lastBeat now l else { t with beats := n - 1, after := some l }

def State.beat (s : State) (tid n lat : Nat) (keys : List Nat) : State :=
  s.modTask tid fun t => t.beat s.cycle n { keys := keys, lat := lat }

/-- How many beats an instruction takes, as a multiple of p, and the cycles from its last beat to its result (R126). -/
structure Pace where
  mult : Nat
  lat : Nat

def simple : Pace := ⟨1, 4⟩

/-- An elementwise instruction with its sources (R124, R126, R128, R135). -/
def vecOp (len d m k : Nat) (w : Pace) (rs : List Nat) (op : Claim → State → Nat → ElOp) : State → Res :=
  issue len .plain (vOpds (d :: rs) m k) fun tid s => do
    let c ← claimOf s tid
    .ok ((vecWrite tid d (c.active m k) (op c s tid) s).beat tid (w.mult * c.passes) w.lat [vKey d])

/-! ## Arithmetic (R135-R138) -/

/-- A floating operation on two elements, rounded once; or an integer one, wrapped or saturated. -/
def arith2 (t a x b : Nat) (f : FVal → FVal → Nat → Exact) (g : Int → Int → Int) (c : Claim) (s : State) (tid : Nat) : ElOp :=
  fun i acc =>
    if tFloat t then
      let rm := rmOf s tid x
      roundEl (tFmt t) rm (f (c.fval t a i) (c.fval t b i) rm) acc
    else (intEl t x (g (c.int t a i) (c.int t b i)), acc)

/-- a · b + c. -/
def arith3 (t a x b e : Nat) (c : Claim) (s : State) (tid : Nat) : ElOp := fun i acc =>
  if tFloat t then
    let rm := rmOf s tid x
    roundEl (tFmt t) rm (xfma (c.fval t a i) (c.fval t b i) (c.fval t e i) rm) acc
  else (intEl t x (c.int t a i * c.int t b i + c.int t e i), acc)

/-- Integer VDIV (R137). -/
def intDiv (t a x b : Nat) (c : Claim) : ElOp := fun i acc =>
  let n := c.int t a i
  let d := c.int t b i
  if d = 0 then (intEl t 0 (-1), { acc with fl := acc.fl ||| IDZ }) else (intEl t x (n.tdiv d), acc)

def divOp (t a x b : Nat) (c : Claim) (s : State) (tid : Nat) : ElOp :=
  if tFloat t then arith2 t a x b (fun p q _ => xdiv p q) (fun p _ => p) c s tid else intDiv t a x b c

def minMax (isMax : Bool) (t a b : Nat) (c : Claim) (_ : State) (_ : Nat) : ElOp := fun i acc =>
  if tFloat t then
    let (v, fl) := fminmax (tFmt t) isMax (c.raw t a i) (c.raw t b i)
    (BitVec.ofNat 32 v, { acc with fl := acc.fl ||| fl })
  else
    let p := c.int t a i
    let q := c.int t b i
    (intEl t 0 (if isMax then max p q else min p q), acc)

def bitEl (t a b : Nat) (f : Nat → Nat → Nat) (c : Claim) (_ : State) (_ : Nat) : ElOp :=
  pureEl fun i => BitVec.ofNat 32 (f (c.raw t a i) (c.raw t b i))

def shlEl (t a x b : Nat) (c : Claim) (_ : State) (_ : Nat) : ElOp := pureEl fun i =>
  let w := tBits t
  let k := c.raw t b i
  if x = 1 then intEl t 1 (c.int t a i * 2^min k (2 * w))
  else if k ≥ w then 0 else BitVec.ofNat 32 (c.raw t a i * 2^k % 2^w)

def shrEl (t a x b : Nat) (c : Claim) (_ : State) (_ : Nat) : ElOp := pureEl fun i =>
  let w := tBits t
  let k := c.raw t b i
  if x = 1 then intEl t 0 (c.int t a i / 2^min k (w - 1))
  else if k ≥ w then 0 else BitVec.ofNat 32 (c.raw t a i / 2^k)

def execVadd (d : BitVec 4) (t : BitVec 3) (a : BitVec 4) (x : BitVec 3) (b : BitVec 4) (m : BitVec 1) (k : BitVec 2) (s : State) : Res :=
  vecOp 4 d.toNat m.toNat k.toNat simple [a.toNat, b.toNat] (arith2 t.toNat a.toNat x.toNat b.toNat xadd (· + ·)) s
def execVsub (d : BitVec 4) (t : BitVec 3) (a : BitVec 4) (x : BitVec 3) (b : BitVec 4) (m : BitVec 1) (k : BitVec 2) (s : State) : Res :=
  vecOp 4 d.toNat m.toNat k.toNat simple [a.toNat, b.toNat] (arith2 t.toNat a.toNat x.toNat b.toNat (fun p q rm => xadd p q.neg rm) (· - ·)) s
def execVmul (d : BitVec 4) (t : BitVec 3) (a : BitVec 4) (x : BitVec 3) (b : BitVec 4) (m : BitVec 1) (k : BitVec 2) (s : State) : Res :=
  vecOp 4 d.toNat m.toNat k.toNat simple [a.toNat, b.toNat] (arith2 t.toNat a.toNat x.toNat b.toNat (fun p q _ => xmul p q) (· * ·)) s
def execVfma (d : BitVec 4) (t : BitVec 3) (a : BitVec 4) (x : BitVec 3) (b : BitVec 4) (m : BitVec 1) (k : BitVec 2) (s : State) : Res :=
  vecOp 4 d.toNat m.toNat k.toNat simple [a.toNat, b.toNat] (arith3 t.toNat a.toNat x.toNat b.toNat d.toNat) s
def execVfmaLong (d : BitVec 4) (t : BitVec 3) (a : BitVec 4) (x : BitVec 3) (b : BitVec 4) (m : BitVec 1) (k : BitVec 2) (e : BitVec 4) (s : State) : Res :=
  vecOp 8 d.toNat m.toNat k.toNat simple [a.toNat, b.toNat, e.toNat] (arith3 t.toNat a.toNat x.toNat b.toNat e.toNat) s
def execVmin (d : BitVec 4) (t : BitVec 3) (a b : BitVec 4) (m : BitVec 1) (k : BitVec 2) (s : State) : Res :=
  vecOp 4 d.toNat m.toNat k.toNat simple [a.toNat, b.toNat] (minMax false t.toNat a.toNat b.toNat) s
def execVmax (d : BitVec 4) (t : BitVec 3) (a b : BitVec 4) (m : BitVec 1) (k : BitVec 2) (s : State) : Res :=
  vecOp 4 d.toNat m.toNat k.toNat simple [a.toNat, b.toNat] (minMax true t.toNat a.toNat b.toNat) s
def execVdiv (d : BitVec 4) (t : BitVec 3) (a : BitVec 4) (x : BitVec 3) (b : BitVec 4) (m : BitVec 1) (k : BitVec 2) (s : State) : Res :=
  vecOp 4 d.toNat m.toNat k.toNat ⟨4, 8⟩ [a.toNat, b.toNat] (divOp t.toNat a.toNat x.toNat b.toNat) s
def execVand (d : BitVec 4) (t : BitVec 3) (a b : BitVec 4) (m : BitVec 1) (k : BitVec 2) (s : State) : Res :=
  vecOp 4 d.toNat m.toNat k.toNat simple [a.toNat, b.toNat] (bitEl t.toNat a.toNat b.toNat (· &&& ·)) s
def execVor (d : BitVec 4) (t : BitVec 3) (a b : BitVec 4) (m : BitVec 1) (k : BitVec 2) (s : State) : Res :=
  vecOp 4 d.toNat m.toNat k.toNat simple [a.toNat, b.toNat] (bitEl t.toNat a.toNat b.toNat (· ||| ·)) s
def execVxor (d : BitVec 4) (t : BitVec 3) (a b : BitVec 4) (m : BitVec 1) (k : BitVec 2) (s : State) : Res :=
  vecOp 4 d.toNat m.toNat k.toNat simple [a.toNat, b.toNat] (bitEl t.toNat a.toNat b.toNat (· ^^^ ·)) s
def execVshl (d : BitVec 4) (t : BitVec 3) (a : BitVec 4) (x : BitVec 3) (b : BitVec 4) (m : BitVec 1) (k : BitVec 2) (s : State) : Res :=
  vecOp 4 d.toNat m.toNat k.toNat simple [a.toNat, b.toNat] (shlEl t.toNat a.toNat x.toNat b.toNat) s
def execVshr (d : BitVec 4) (t : BitVec 3) (a : BitVec 4) (x : BitVec 3) (b : BitVec 4) (m : BitVec 1) (k : BitVec 2) (s : State) : Res :=
  vecOp 4 d.toNat m.toNat k.toNat simple [a.toNat, b.toNat] (shrEl t.toNat a.toNat x.toNat b.toNat) s

/-! ## The function group (R143) -/

def func1 (t a x : Nat) (f : FVal → Exact) (c : Claim) (s : State) (tid : Nat) : ElOp := fun i acc =>
  roundEl (tFmt t) (rmOf s tid x) (f (c.fval t a i)) acc

def execVsqrt (d : BitVec 4) (t : BitVec 3) (a : BitVec 4) (x : BitVec 3) (m : BitVec 1) (k : BitVec 2) (s : State) : Res :=
  vecOp 4 d.toNat m.toNat k.toNat ⟨4, 8⟩ [a.toNat] (func1 t.toNat a.toNat x.toNat xsqrt) s
def execVrsqrt (d : BitVec 4) (t : BitVec 3) (a : BitVec 4) (x : BitVec 3) (m : BitVec 1) (k : BitVec 2) (s : State) : Res :=
  vecOp 4 d.toNat m.toNat k.toNat ⟨2, 8⟩ [a.toNat] (func1 t.toNat a.toNat x.toNat xrsqrt) s
def execVrcp (d : BitVec 4) (t : BitVec 3) (a : BitVec 4) (x : BitVec 3) (m : BitVec 1) (k : BitVec 2) (s : State) : Res :=
  vecOp 4 d.toNat m.toNat k.toNat ⟨2, 8⟩ [a.toNat] (func1 t.toNat a.toNat x.toNat xrcp) s
def execVexp2 (d : BitVec 4) (t : BitVec 3) (a : BitVec 4) (x : BitVec 3) (m : BitVec 1) (k : BitVec 2) (s : State) : Res :=
  vecOp 4 d.toNat m.toNat k.toNat ⟨2, 8⟩ [a.toNat] (func1 t.toNat a.toNat x.toNat xexp2) s
def execVlog2 (d : BitVec 4) (t : BitVec 3) (a : BitVec 4) (x : BitVec 3) (m : BitVec 1) (k : BitVec 2) (s : State) : Res :=
  vecOp 4 d.toNat m.toNat k.toNat ⟨2, 8⟩ [a.toNat] (func1 t.toNat a.toNat x.toNat xlog2) s
def execVsin (d : BitVec 4) (t : BitVec 3) (a : BitVec 4) (x : BitVec 3) (m : BitVec 1) (k : BitVec 2) (s : State) : Res :=
  vecOp 4 d.toNat m.toNat k.toNat ⟨4, 8⟩ [a.toNat] (func1 t.toNat a.toNat x.toNat xsin) s
def execVtanh (d : BitVec 4) (t : BitVec 3) (a : BitVec 4) (x : BitVec 3) (m : BitVec 1) (k : BitVec 2) (s : State) : Res :=
  vecOp 4 d.toNat m.toNat k.toNat ⟨4, 8⟩ [a.toNat] (func1 t.toNat a.toNat x.toNat xtanh) s

/-! ## VCMP, VSEL, VPERM (R139-R141) -/

/-- A predicate's outcome and flags on two floating elements. -/
def cmpFloat (f : Fmt) (p a b : Nat) : Bool × Flags :=
  let x := fval f a
  let y := fval f b
  let nan := x.isNan || y.isNan
  let quiet := sNanFlag [x, y]
  let any : Flags := if nan then NV else 0
  match p with
  | 0 => (!nan && feq x y, quiet)
  | 1 => (nan || !feq x y, quiet)
  | 2 => (!nan && flt x y, any)
  | 3 => (!nan && (flt x y || feq x y), any)
  | 4 => (!nan && flt y x, any)
  | 5 => (!nan && (flt y x || feq x y), any)
  | _ => (nan, quiet)

def cmpInt (p : Nat) (a b : Int) : Bool :=
  match p with
  | 0 => a == b
  | 1 => a != b
  | 2 => decide (a < b)
  | 3 => decide (a ≤ b)
  | 4 => decide (a > b)
  | _ => decide (a ≥ b)

def cmpEl (t p a b : Nat) (c : Claim) (i : Nat) : Bool × Flags :=
  if tFloat t then cmpFloat (tFmt t) p (c.raw t a i) (c.raw t b i) else (cmpInt p (c.int t a i) (c.int t b i), 0)

/-- A mask with bit i replaced. -/
def maskSet (w : BitVec 256) (i : Nat) (v : Bool) : BitVec 256 :=
  if v then w ||| ((1 : BitVec 256) <<< i) else w &&& ~~~((1 : BitVec 256) <<< i)

def execVcmp (v : BitVec 2) (t : BitVec 3) (a : BitVec 4) (p : BitVec 3) (b : BitVec 4) (m : BitVec 1) (k : BitVec 2) (s : State) : Res :=
  issue 4 .plain (.late (mKey v.toNat) :: vOpds [a.toNat, b.toNat] m.toNat k.toNat) (fun tid s => do
    let c ← claimOf s tid
    let rs := (c.active m.toNat k.toNat).map fun i => (i, cmpEl t.toNat p.toNat a.toNat b.toNat c i)
    let w := rs.foldl (fun w r => maskSet w r.1 r.2.1) (c.mask v.toNat)
    let fl := rs.foldl (fun (f : Flags) r => f ||| r.2.2) 0
    .ok (((s.modClaim tid fun c => { c with vm := mput 0 c.vm v.toNat w }).flag tid fl).beat tid c.passes 4 [mKey v.toNat])) s

def execVsel (d : BitVec 4) (t : BitVec 3) (a b : BitVec 4) (k : BitVec 2) (s : State) : Res :=
  issue 4 .plain (vOpds [d.toNat, a.toNat, b.toNat] 1 k.toNat) (fun tid s => do
    let c ← claimOf s tid
    .ok ((vecWrite tid d.toNat (List.range c.vl) (pureEl fun i =>
      BitVec.ofNat 32 (if (c.mask k.toNat).getLsbD i then c.raw t.toNat a.toNat i else c.raw t.toNat b.toNat i)) s).beat
        tid c.passes 4 [vKey d.toNat])) s

def execVperm (d : BitVec 4) (t : BitVec 3) (a b : BitVec 4) (m : BitVec 1) (k : BitVec 2) (s : State) : Res :=
  vecOp 4 d.toNat m.toNat k.toNat ⟨2, 6⟩ [a.toNat, b.toNat] (fun c _ _ => pureEl fun i =>
    let j := (c.el b.toNat i).toNat
    if j < c.vl then BitVec.ofNat 32 (c.raw t.toNat a.toNat j) else 0) s

/-! ## VCVT (R142) -/

def cvtEl (t dt a x sat1 : Nat) (c : Claim) (s : State) (tid : Nat) : ElOp := fun i acc =>
  let rm := rmOf s tid x
  if tFloat t then
    if tFloat dt then
      if dt = t then
        let (seed, r) := srDraw rm acc.seed
        let (v, fl) := fintegral (tFmt t) (c.raw t a i) rm r
        (BitVec.ofNat 32 v, { fl := acc.fl ||| fl, seed := seed })
      else roundEl (tFmt dt) rm (c.fval t a i, 0) acc
    else
      let (seed, r) := srDraw rm acc.seed
      let (v, fl) := cvtInt (c.fval t a i) (tBits dt) true rm r
      (intEl dt 0 v, { fl := acc.fl ||| fl, seed := seed })
  else if tFloat dt then roundEl (tFmt dt) rm (ival (c.int t a i), 0) acc
  else (intEl dt sat1 (c.int t a i), acc)

def execVcvt (d : BitVec 4) (t : BitVec 3) (a : BitVec 4) (x : BitVec 3) (y : BitVec 1) (dt : BitVec 3) (m : BitVec 1) (k : BitVec 2) (s : State) : Res :=
  vecOp 4 d.toNat m.toNat k.toNat simple [a.toNat] (cvtEl t.toNat dt.toNat a.toNat x.toNat y.toNat) s

/-! ## VRED and VSCAN (R144) -/

/-- Identity(op, t): the element's bits. -/
def redIdentity (t o : Nat) : Nat :=
  let w := tBits t
  let f := tFmt t
  match o with
  | 0 => if tFloat t then 2^(w - 1) else 0
  | 1 => if tFloat t then (2^f.eb - 1) * 2^f.fb else 2^(w - 1) - 1
  | 2 => if tFloat t then 2^(w - 1) + (2^f.eb - 1) * 2^f.fb else 2^(w - 1)
  | 3 => 2^w - 1
  | _ => 0

/-- Combine(op, t, p, q) on element bits, with its flags and, for a floating add, its draw: no other operation rounds, and R144 does
not say that its nodes draw (DESIGN CHOICE, log 44). -/
def combine (t x rm o : Nat) (p q : Nat) (acc : VAcc) : Nat × VAcc :=
  let w := tBits t
  let f := tFmt t
  match o with
  | 0 =>
    if tFloat t then
      let (v, acc) := roundEl f rm (xadd (fval f p) (fval f q) rm) acc
      (v.toNat, acc)
    else ((intEl t x (toSigned w p + toSigned w q)).toNat, acc)
  | 3 => (p &&& q, acc)
  | 4 => (p ||| q, acc)
  | 5 => (p ^^^ q, acc)
  | _ =>
    if tFloat t then
      let (v, fl) := fminmax f (o == 2) p q
      (v, { acc with fl := acc.fl ||| fl })
    else (if (toSigned w p < toSigned w q) = (o = 1) then p else q, acc)

/-- One level of VRED's tree. -/
def redLevel (t x rm o : Nat) : List Nat → VAcc → List Nat × VAcc
  | p :: q :: r, acc =>
    let (v, acc) := combine t x rm o p q acc
    let (vs, acc) := redLevel t x rm o r acc
    (v :: vs, acc)
  | l, acc => (l, acc)

/-- The tree, level by level. -/
def redTree (t x rm o : Nat) : Nat → List Nat → VAcc → Nat × VAcc
  | 0, l, acc => (l.headD 0, acc)
  | n + 1, l, acc =>
    let (l, acc) := redLevel t x rm o l acc
    redTree t x rm o n l acc

/-- log2 of the least power of two at least max(VL, 1). -/
def redDepth (vl : Nat) : Nat := if vl ≤ 1 then 0 else (vl - 1).log2 + 1

def execVred (d : BitVec 4) (t : BitVec 3) (a : BitVec 4) (x : BitVec 3) (o : BitVec 4) (m : BitVec 1) (k : BitVec 2) (s : State) : Res :=
  issue 4 .plain (vOpds [d.toNat, a.toNat] m.toNat k.toNat) (fun tid s => do
    let c ← claimOf s tid
    let act := c.active m.toNat k.toNat
    let dep := redDepth c.vl
    let w := (List.range (2^dep)).map fun i => if act.contains i then c.raw t.toNat a.toNat i else redIdentity t.toNat o.toNat
    let (v, acc) := redTree t.toNat x.toNat (rmOf s tid x.toNat) o.toNat dep w { fl := 0, seed := (s.task tid).r.srseed }
    let s := s.modClaim tid fun c => c.setEl d.toNat 0 (BitVec.ofNat 32 v)
    .ok (((s.modR tid fun r => { r with srseed := acc.seed }).flag tid acc.fl).beat tid (c.passes + dep) 4 [vKey d.toNat])) s

/-- VSCAN's results, with the running value. -/
def scanEls (c : Claim) (t x rm o a : Nat) : List Nat → Option Nat → VAcc → List (Nat × Nat) × VAcc
  | [], _, acc => ([], acc)
  | i :: r, none, acc =>
    let v := c.raw t a i
    let (vs, acc) := scanEls c t x rm o a r (some v) acc
    ((i, v) :: vs, acc)
  | i :: r, some p, acc =>
    let (v, acc) := combine t x rm o p (c.raw t a i) acc
    let (vs, acc) := scanEls c t x rm o a r (some v) acc
    ((i, v) :: vs, acc)

def execVscan (d : BitVec 4) (t : BitVec 3) (a : BitVec 4) (x : BitVec 3) (o : BitVec 4) (m : BitVec 1) (k : BitVec 2) (s : State) : Res :=
  issue 4 .plain (vOpds [d.toNat, a.toNat] m.toNat k.toNat) (fun tid s => do
    let c ← claimOf s tid
    let (vs, acc) := scanEls c t.toNat x.toNat (rmOf s tid x.toNat) o.toNat a.toNat (c.active m.toNat k.toNat) none
      { fl := 0, seed := (s.task tid).r.srseed }
    let s := s.modClaim tid fun c => vs.foldl (fun c e => c.setEl d.toNat e.1 (BitVec.ofNat 32 e.2)) c
    .ok (((s.modR tid fun r => { r with srseed := acc.seed }).flag tid acc.fl).beat tid (2 * c.passes) 4 [vKey d.toNat])) s

/-! ## VQUANT and VDEQ (R145) -/

/-- The format code of a Q code. -/
def qCode (q : Nat) : Nat := if q ≤ 3 then 32 + q else 14 + q

/-- The blocks of VQUANT, each of 32 elements. -/
def quantEls (c : Claim) (t rm q a : Nat) : List Nat → VAcc → List (Nat × BitVec 32) × VAcc
  | [], acc => ([], acc)
  | b :: r, acc =>
    let vs := (List.range 32).map fun j => c.fval t a (32 * b + j)
    let (scale, qu) := quantBlock (qCode q) vs rm acc.seed
    let xs := (List.range 32).map fun j => (32 * b + j, BitVec.ofNat 32 (scale * 256 + qu.codes.getD j 0))
    let (ys, acc) := quantEls c t rm q a r { fl := acc.fl ||| qu.flags, seed := qu.seed }
    (xs ++ ys, acc)

def execVquant (d : BitVec 4) (t : BitVec 3) (a : BitVec 4) (x : BitVec 3) (q : BitVec 4) (m : BitVec 1) (_k : BitVec 2) (s : State) : Res :=
  issue 4 .plain (vOpds [d.toNat, a.toNat] 0 0) (fun tid s => do
    let c ← claimOf s tid
    need (c.vl % 32 == 0 && m == 0) VEC_BLOCK
    let (xs, acc) := quantEls c t.toNat (rmOf s tid x.toNat) q.toNat a.toNat (List.range (c.vl / 32))
      { fl := 0, seed := (s.task tid).r.srseed }
    let s := s.modClaim tid fun c => xs.foldl (fun c e => c.setEl d.toNat e.1 e.2) c
    .ok (((s.modR tid fun r => { r with srseed := acc.seed }).flag tid acc.fl).beat tid (2 * c.passes) 6 [vKey d.toNat])) s

/-- The value of a position that holds an element code and its scale. -/
def deqPos (q : Nat) (v : BitVec 32) : FVal :=
  let code := qCode q
  deqElem code (v.toNat / 256 % 256) (v.toNat % 2^elemBits code)

def execVdeq (d : BitVec 4) (t : BitVec 3) (a : BitVec 4) (x : BitVec 3) (q : BitVec 4) (m : BitVec 1) (_k : BitVec 2) (s : State) : Res :=
  issue 4 .plain (vOpds [d.toNat, a.toNat] 0 0) (fun tid s => do
    let c ← claimOf s tid
    need (c.vl % 32 == 0 && m == 0) VEC_BLOCK
    let rm := rmOf s tid x.toNat
    .ok ((vecWrite tid d.toNat (List.range c.vl)
      (fun i acc => roundEl (tFmt t.toNat) rm (deqPos q.toNat (c.el a.toNat i), 0) acc) s).beat tid c.passes 4 [vKey d.toNat])) s

/-! ## VSETVL, VBCAST, VEXT (R129, R130) -/

def execVsetvl (d a : BitVec 7) (s : State) : Res :=
  issue 4 .plain [.dst d.toNat, .src a.toNat] (fun tid s => do
    let _ ← claimOf s tid
    let (v, s) ← readReg s tid a.toNat
    let n := min v.toNat 256
    writeReg (s.modClaim tid fun c => { c with vl := n }) tid d.toNat (w64 n)) s

def execVbcast (d : BitVec 4) (a : BitVec 7) (m : BitVec 1) (k : BitVec 2) (s : State) : Res :=
  issue 4 .plain (.src a.toNat :: vOpds [d.toNat] m.toNat k.toNat) (fun tid s => do
    let c ← claimOf s tid
    let (v, s) ← readReg s tid a.toNat
    .ok ((vecWrite tid d.toNat (c.active m.toNat k.toNat) (pureEl fun _ => BitVec.ofNat 32 v.toNat) s).beat
      tid c.passes 4 [vKey d.toNat])) s

def execVbcastLong (d : BitVec 4) (m : BitVec 1) (k : BitVec 2) (i : BitVec 32) (s : State) : Res :=
  vecOp 8 d.toNat m.toNat k.toNat simple [] (fun _ _ _ => pureEl fun _ => i) s

def execVext (d : BitVec 7) (t : BitVec 3) (a : BitVec 4) (b : BitVec 7) (s : State) : Res :=
  issue 4 .plain (.dst d.toNat :: .src b.toNat :: vOpds [a.toNat] 0 0) (fun tid s => do
    let c ← claimOf s tid
    let (k, s) ← readReg s tid b.toNat
    let v : Word :=
      if k.toNat < c.vl then
        (if tFloat t.toNat then w64 (c.raw t.toNat a.toNat k.toNat) else BitVec.ofInt 64 (c.int t.toNat a.toNat k.toNat))
      else 0
    writeReg s tid d.toNat v) s

end Sys2Proof.Machine
end

