-- ==== Sys2Proof/Machine/VecMem.lean ====
section
/-! DEFINITION. Vector loads and stores (spec/06 R131-R134). A vector store's element stores enter the store FIFO together,
also where that takes it past 16 (log 29). -/

namespace Sys2Proof.Machine

/-! ## Addresses and checks -/

/-- Bytes of an unscaled element in memory; raw elements are 32-bit words here (R131). -/
def vElemSize (code : Nat) : Nat := if code = 2 then 1 else elemBits code / 8

/-- The address of element i of an array (R69, R70): of its record for a scaled code. -/
def vAddr (p : Word) (i : Nat) : Nat :=
  let code := ptrFmt p
  let off :=
    if isScaled code then i / blockLen code (ptrL p) * recordSize code (ptrL p)
    else if code = 2 then i / 2
    else i * vElemSize code
  (vaOf p + off) % 2^52

/-- A fault of one element names the element's address; poison names its word (R134, R243). -/
def atElem {A : Type} (va : Nat) (x : M A) : M A :=
  match x with
  | .error (.trap c d) => if c = DATA_POISON then .error (.trap c d) else .error (.trap c (w64 va))
  | r => r

/-- Every byte of an element is reachable (R134). -/
def checkBytes (s : State) (tid va : Nat) (a : Acc) : Nat → M State
  | 0 => .ok s
  | n + 1 => do
    let (_, s) ← placeOf s tid va 1 a
    checkBytes s tid ((va + 1) % 2^52) a n

/-- R134's checks of the active elements, lowest first: address and size of each. -/
def checkEls (s : State) (tid : Nat) (a : Acc) (aligned : Bool) : List (Nat × Nat) → M State
  | [] => .ok s
  | (va, n) :: r => do
    if aligned && va % n ≠ 0 then faultAt MISALIGN va
    let s ← atElem va (checkBytes s tid va a n)
    checkEls s tid a aligned r

/-- An element's bytes: one access where it is aligned, byte accesses otherwise (R212). -/
def loadElem (s : State) (tid va n : Nat) : M (Nat × State) :=
  if n ≠ 0 && va % n = 0 then loadVa s tid va n
  else do
    let (bs, s) ← loadBytes s tid va n
    .ok (leVal bs, s)

/-- A load of a list of elements: their bytes as numbers. -/
def loadEls (s : State) (tid : Nat) : List (Nat × Nat × Nat) → M (List (Nat × Nat) × State)
  | [] => .ok ([], s)
  | (i, va, n) :: r => do
    let (v, s) ← loadElem s tid va n
    let (vs, s) ← loadEls s tid r
    .ok ((i, v) :: vs, s)

/-! ## Beats (R126) -/

/-- The 128-byte lines that hold some bytes. -/
def linesOf (els : List (Nat × Nat)) : List Nat :=
  (els.flatMap fun e => (List.range ((e.1 % 128 + e.2 + 127) / 128)).map fun i => e.1 / 128 + i).eraseDups

/-- The place and size of an element's own bits: within its record for a scaled code (R69). -/
def vPlace (p : Word) (i : Nat) : Nat × Nat :=
  let code := ptrFmt p
  if isScaled code then
    let o := 8 + i % blockLen code (ptrL p) * elemBits code
    ((vAddr p i + o / 8) % 2^52, (o % 8 + elemBits code + 7) / 8)
  else (vAddr p i, vElemSize code)

/-- Beats of VLD and VST, by the places and sizes of the active elements. -/
def lineBeats (c : Claim) (els : List (Nat × Nat)) : Nat := max c.passes (((linesOf els).length + 1) / 2)

/-- Beats of VLDS, VGATH and VSCAT, by the number of active elements. -/
def elemBeats (c : Claim) (a : Nat) : Nat := max c.passes ((a + 7) / 8)

/-! ## Loads (R131-R133)

The elements are read together, in ascending order (R134 states none; DESIGN CHOICE, log 44); how long after the last beat the
last of them arrives, and vd is ready, is free (R126, log 2). -/

/-- The register element of an unscaled memory element (R131). -/
def vLoadEl (code rm v : Nat) (acc : VAcc) : BitVec 32 × VAcc :=
  match code with
  | 0 => (BitVec.ofNat 32 v, acc)
  | 1 => (BitVec.ofInt 32 (toSigned 8 v), acc)
  | 2 => (BitVec.ofInt 32 (toSigned 4 v), acc)
  | 5 => (BitVec.ofNat 32 v, acc)
  | 6 => (BitVec.ofNat 32 v, acc)
  | 7 => (BitVec.ofNat 32 v, acc)
  | 8 => roundEl FP32 rm (fval FP64 v, 0) acc
  | _ => roundEl FP32 1 (fval (codeFmt code) v, 0) acc

/-- A record's element (R69, R86), rounded to FP32 under RM(0). -/
def vLoadScaled (code l rm i v : Nat) (acc : VAcc) : BitVec 32 × VAcc :=
  let k := elemBits code
  roundEl FP32 rm (deqElem code (v % 256) (v / 2^(8 + i % blockLen code l * k) % 2^k), 0) acc

/-- Loaded values become elements of vd. -/
def vLoadWrite (tid d : Nat) (p : Word) (vs : List (Nat × Nat)) (s : State) : State :=
  let code := ptrFmt p
  let rm := rmOf s tid 0
  vecWrite tid d (vs.map (·.1)) (fun i acc =>
    let v := ((vs.find? (·.1 == i)).map (·.2)).getD 0
    if isScaled code then vLoadScaled code (ptrL p) rm i v acc
    else vLoadEl code rm (if code = 2 then v / 16^(i % 2) % 16 else v) acc) s

/-- The bytes an element's load reads: its own, or its whole record (R132). -/
def vSpan (p : Word) : Nat := if isScaled (ptrFmt p) then recordSize (ptrFmt p) (ptrL p) else vElemSize (ptrFmt p)

def vldOp (len d a m k : Nat) (off : Word) : State → Res :=
  issue len .plain (.src a :: vOpds [d] m k) fun tid s => do
    let c ← claimOf s tid
    let (b, s) ← readReg s tid a
    let p := addrAdd b off
    checkTyped p (vaOf p)
    let els := (c.active m k).map fun i => (i, vAddr p i, vSpan p)
    let s ← checkEls s tid .rd false (els.map (·.2))
    let (vs, s) ← loadEls s tid els
    let (lat, s) := s.free
    .ok ((vLoadWrite tid d p vs s).beat tid (lineBeats c ((c.active m k).map (vPlace p))) lat [vKey d])

def execVld (d : BitVec 4) (a : BitVec 7) (m : BitVec 1) (k : BitVec 2) (s : State) : Res :=
  vldOp 4 d.toNat a.toNat m.toNat k.toNat 0 s
def execVldLong (d : BitVec 4) (a : BitVec 7) (m : BitVec 1) (k : BitVec 2) (i : BitVec 32) (s : State) : Res :=
  vldOp 8 d.toNat a.toNat m.toNat k.toNat (i.signExtend 64) s

/-- R133's format check: codes 0, 1 and 3 to 8. -/
def checkGather (p : Word) : M Unit := do
  checkTyped p (vaOf p)
  if ptrFmt p = 2 || isScaled (ptrFmt p) then faultAt BAD_FORMAT (vaOf p)

/-- A load whose elements lie at given distances from the pointer. -/
def vgatherOp (tid d : Nat) (c : Claim) (p : Word) (els : List Nat) (dist : Nat → Int) (s : State) : M State := do
  checkGather p
  let n := vElemSize (ptrFmt p)
  let els := els.map fun i => (i, vaOf (addrAdd p (BitVec.ofInt 64 (dist i))), n)
  let s ← checkEls s tid .rd true (els.map (·.2))
  let (vs, s) ← loadEls s tid els
  let (lat, s) := s.free
  .ok ((vLoadWrite tid d p vs s).beat tid (elemBeats c els.length) lat [vKey d])

def execVlds (d : BitVec 4) (a b : BitVec 7) (m : BitVec 1) (k : BitVec 2) (s : State) : Res :=
  issue 4 .plain (.src a.toNat :: .src b.toNat :: vOpds [d.toNat] m.toNat k.toNat) (fun tid s => do
    let c ← claimOf s tid
    let (p, s) ← readReg s tid a.toNat
    let (st, s) ← readReg s tid b.toNat
    vgatherOp tid d.toNat c p (c.active m.toNat k.toNat) (fun i => i * st.toInt) s) s

def execVgath (d : BitVec 4) (a : BitVec 7) (x : BitVec 4) (m : BitVec 1) (k : BitVec 2) (s : State) : Res :=
  issue 4 .plain (.src a.toNat :: vOpds [d.toNat, x.toNat] m.toNat k.toNat) (fun tid s => do
    let c ← claimOf s tid
    let (p, s) ← readReg s tid a.toNat
    vgatherOp tid d.toNat c p (c.active m.toNat k.toNat) (fun i => (c.el x.toNat i).toInt * vElemSize (ptrFmt p)) s) s

/-! ## Stores (R131-R134) -/

/-- The memory element of an unscaled code for a register element (R131). -/
def vStoreEl (code rm : Nat) (x : BitVec 32) (acc : VAcc) : Nat × VAcc :=
  match code with
  | 0 => (x.toNat, acc)
  | 1 => (x.toNat % 256, acc)
  | 2 => (x.toNat % 16, acc)
  | 5 => (x.toNat % 2^16, acc)
  | 6 => (x.toNat % 2^16, acc)
  | 7 => (x.toNat, acc)
  | 8 =>
    let (v, fl) := fround FP64 (fval FP32 x.toNat) 1 0
    (v, { acc with fl := acc.fl ||| fl })
  | _ =>
    let (seed, r) := srDraw rm acc.seed
    let (v, fl) := fround (codeFmt code) (fval FP32 x.toNat) rm r
    (v, { fl := acc.fl ||| fl, seed := seed })

def vStoreVals (c : Claim) (r code rm : Nat) : List Nat → VAcc → List (Nat × Nat) × VAcc
  | [], acc => ([], acc)
  | i :: rest, acc =>
    let (v, acc) := vStoreEl code rm (c.el r i) acc
    let (vs, acc) := vStoreVals c r code rm rest acc
    ((i, v) :: vs, acc)

/-- The whole records of a scaled store, from block b on (R132). -/
def vRecords (c : Claim) (r code l rm : Nat) : List Nat → VAcc → List (Nat × List Byte) × VAcc
  | [], acc => ([], acc)
  | b :: rest, acc =>
    let n := blockLen code l
    let vs := (List.range n).map fun j => fval FP32 (c.el r (n * b + j)).toNat
    let (scale, q) := quantBlock code vs rm acc.seed
    let bs := toBytes (recordSize code l) (scale + 256 * packBits (elemBits code) q.codes)
    let (rs, acc) := vRecords c r code l rm rest { fl := acc.fl ||| q.flags, seed := q.seed }
    ((b, bs) :: rs, acc)

/-- The place of an element that has passed its checks, as a store. -/
def vStore (s : State) (tid va : Nat) (bs : List Byte) : M (Store × State) := do
  let (p, s) ← placeOf s tid va bs.length .wr
  match p with
  | .mem dpa e => .ok ({ dest := .mem dpa, bytes := bs, uncached := isUncached e dpa, via := viaOf s tid va }, noteStash s tid va dpa false)
  | .win k o => .ok ({ dest := .win k o, bytes := bs }, s)
  | _ => faultAt PAGE_ABSENT va

/-- An element's stores: one where it is aligned, byte stores otherwise. -/
def vStores (s : State) (tid : Nat) : List (Nat × List Byte) → M (List Store × State)
  | [] => .ok ([], s)
  | (va, bs) :: r => do
    let (x, s) ← vStore s tid va bs
    let (xs, s) ← vStores s tid r
    .ok (x :: xs, s)

/-- Bytes one by one, at ascending addresses. -/
def splitBytes (va : Nat) : List Byte → List (Nat × List Byte)
  | [] => []
  | b :: r => (va, [b]) :: splitBytes ((va + 1) % 2^52) r

def alignedParts (va : Nat) (bs : List Byte) : List (Nat × List Byte) :=
  if va % bs.length = 0 then [(va, bs)] else splitBytes va bs

/-- All element stores enter the FIFO together, as the last of `n` beats issues (R127, R134). -/
def vPush (s : State) (tid n : Nat) (parts : List (Nat × List Byte)) : M State := do
  if (s.task tid).fifo.length ≥ 16 && !parts.isEmpty then hold (if headWithheld s tid then .token else .port)
  let (xs, s) ← vStores s tid parts
  .ok ((dropEarly s tid).modTask tid fun t => t.beat s.cycle n { keys := [], lat := 0, stores := xs })

/-- The bytes of an INT4 array with the nibbles of active elements replaced (R131): the byte's address and its value. -/
def nibbleBytes (s : State) (tid : Nat) (p : Word) : List (Nat × Nat) → List Nat → M (List (Nat × List Byte) × State)
  | _, [] => .ok ([], s)
  | vs, b :: r => do
    let va := (vaOf p + b) % 2^52
    let lo := (vs.find? (·.1 == 2 * b)).map (·.2)
    let hi := (vs.find? (·.1 == 2 * b + 1)).map (·.2)
    let (old, s) ← if lo.isSome && hi.isSome then .ok (0, s) else loadVa s tid va 1
    let (rest, s) ← nibbleBytes s tid p vs r
    .ok ((va, [BitVec.ofNat 8 (lo.getD (old % 16) + 16 * hi.getD (old / 16))]) :: rest, s)

def setAcc (s : State) (tid : Nat) (acc : VAcc) : State :=
  (s.modR tid fun r => { r with srseed := acc.seed }).flag tid acc.fl

/-- The stores of unscaled elements at their addresses. -/
def vStoreAll (tid beats : Nat) (c : Claim) (r code : Nat) (els : List (Nat × Nat)) (s : State) : M State := do
  let rm := rmOf s tid 0
  let (vs, acc) := vStoreVals c r code rm (els.map (·.1)) { fl := 0, seed := (s.task tid).r.srseed }
  let n := vElemSize code
  let parts := (els.zip vs).flatMap fun e => alignedParts e.1.2 (toBytes n e.2.2)
  let s ← vPush s tid beats parts
  .ok (setAcc s tid acc)

/-- VST: VEC_BLOCK comes after the checks of the pointer and its format, before those of the elements (R132 states no order;
DESIGN CHOICE, log 44). -/
def vstOp (len r a m k : Nat) (off : Word) : State → Res :=
  issue len .plain (.src a :: vOpds [r] m k) fun tid s => do
    let c ← claimOf s tid
    let (b, s) ← readReg s tid a
    let p := addrAdd b off
    checkTyped p (vaOf p)
    let code := ptrFmt p
    let act := c.active m k
    if isScaled code then
      let n := blockLen code (ptrL p)
      need (c.vl % n == 0 && m == 0) VEC_BLOCK
      let blocks := List.range (c.vl / n)
      let (rs, acc) := vRecords c r code (ptrL p) (rmOf s tid 0) blocks { fl := 0, seed := (s.task tid).r.srseed }
      let at_ (b : Nat) : Nat := vAddr p (n * b)
      let s ← checkEls s tid .wr false (blocks.map fun b => (at_ b, vSpan p))
      let s ← vPush s tid (lineBeats c (act.map (vPlace p))) (rs.flatMap fun e => splitBytes (at_ e.1) e.2)
      .ok (setAcc s tid acc)
    else
      let els := act.map fun i => (i, vAddr p i)
      let n := lineBeats c (els.map fun e => (e.2, vElemSize code))
      let s ← checkEls s tid (if code = 2 then .rw else .wr) false (els.map fun e => (e.2, vElemSize code))
      if code = 2 then
        let vs := act.map fun i => (i, (c.el r i).toNat % 16)
        let (parts, s) ← nibbleBytes s tid p vs ((act.map (· / 2)).eraseDups)
        vPush s tid n parts
      else vStoreAll tid n c r code els s

def execVst (r : BitVec 4) (a : BitVec 7) (m : BitVec 1) (k : BitVec 2) (s : State) : Res :=
  vstOp 4 r.toNat a.toNat m.toNat k.toNat 0 s
def execVstLong (r : BitVec 4) (a : BitVec 7) (m : BitVec 1) (k : BitVec 2) (i : BitVec 32) (s : State) : Res :=
  vstOp 8 r.toNat a.toNat m.toNat k.toNat (i.signExtend 64) s

def execVscat (r : BitVec 4) (a : BitVec 7) (x : BitVec 4) (m : BitVec 1) (k : BitVec 2) (s : State) : Res :=
  issue 4 .plain (.src a.toNat :: vOpds [r.toNat, x.toNat] m.toNat k.toNat) (fun tid s => do
    let c ← claimOf s tid
    let (p, s) ← readReg s tid a.toNat
    checkGather p
    let code := ptrFmt p
    let n := vElemSize code
    let els := (c.active m.toNat k.toNat).map fun i =>
      (i, vaOf (addrAdd p (BitVec.ofInt 64 ((c.el x.toNat i).toInt * n))))
    let s ← checkEls s tid .wr true (els.map fun e => (e.2, n))
    vStoreAll tid (elemBeats c els.length) c r.toNat code els s) s

end Sys2Proof.Machine
end

