-- ==== Sys2Proof/Machine/EvFaults.lean ====
section
/-! DEFINITION. Events of faults: decode and fetch faults, the CSC and its shipped firmware (spec/02 R29, R47-R52, spec/10
R241, spec/11 R291, R298, spec/12 R333, spec/14 R364, R371, R372, R385; an event that names nothing pending changes
nothing, log 26). -/

namespace Sys2Proof.Machine

/-- The fault of the thread that has the turn, with the length and word fetched for it. -/
def turnFault (code : BitVec 8) (detail : Word) (len insn : Turn → Nat) (s : State) : Res :=
  match s.turn with
  | none => .fault .noThread
  | some u => .next (haltTask s u.tid { code := code, detail := detail, len := len u, insn := insn u }).endTurn

/-- R47: an encoding that is not an instruction. -/
def execIllegalEncoding (code : BitVec 8) (detail : BitVec 64) (s : State) : Res :=
  turnFault code detail Turn.len Turn.insn s

/-- R29, R50: a fetch fault, with no length and no instruction word. -/
def execInstructionFetchFault (code : BitVec 8) (detail : BitVec 64) (s : State) : Res :=
  turnFault code detail (fun _ => 0) (fun _ => 0) s

/-! ## Ending a halt (R51) -/

/-- The halt ends and the thread is at a PC of the CSC's choice. -/
def resumeAt (s : State) (tid : Nat) (pc : Addr) : State :=
  (s.modTask tid fun t => { t with halt := none }).modR tid fun r => { r with pc := pc &&& ~~~(1 : Addr) }

def dropFault (s : State) (tid : Nat) : State :=
  s.modCluster (clOfCore (s.task tid).core) fun c => { c with faults := c.faults.filter (·.tid != tid) }

/-- An event about a halted thread. -/
def haltedEvent (tid : Nat) (f : State → State) (s : State) : Res :=
  .next (if liveTask s tid && (s.task tid).halt.isSome && !(s.task tid).ending then f s else s)

def execCscResume (tid : Nat) (pc : BitVec 52) (s : State) : Res :=
  haltedEvent tid (fun s => resumeAt (dropFault s tid) tid pc) s

def execCscKill (tid : Nat) (code : BitVec 8) (s : State) : Res := haltedEvent tid (killTask · tid code) s

/-! ## The register window (R51, R127) -/

/-- A push to a port through the window. -/
def windowPush (s : State) (tid n : Nat) (v : Word) : State :=
  if !isPort n || !portAllowed s tid n true then s else
  match destReady s tid n with
  | .error _ => s
  | .ok _ => match writeReg s tid n v with
    | .ok s' => s'
    | .error _ => s

/-- A pop from a port through the window. -/
def windowPop (s : State) (tid n : Nat) : State :=
  if !isPort n || !portAllowed s tid n false then s else
  match sourceReady s tid n with
  | .error _ => s
  | .ok _ => match readReg s tid n with
    | .ok (_, s') => s'
    | .error _ => s

/-- A write through the window: 0 a general register, 1 PC, 2 FFLAGS, 3 FRM, 4 SRSEED, 5 an element of a vector register
(256 * register + element), 6 a mask's 64-bit word (4 * mask + word), 7 VL, 8 a port. A VL above 256 is ignored (DESIGN CHOICE,
log 44). -/
def windowWrite (s : State) (tid sel idx : Nat) (v : Word) : State :=
  match sel with
  | 0 => if idx ≤ (s.task tid).limit then s.setG tid idx v else s
  | 1 => s.modR tid fun r => { r with pc := BitVec.ofNat 52 v.toNat &&& ~~~(1 : Addr) }
  | 2 => csrPut s tid 0x010 v
  | 3 => putFrm s tid v
  | 4 => putSrseed s tid v
  | 5 => if idx < 4096 then s.modClaim tid fun c => { c with v := mput 0 c.v idx (BitVec.ofNat 32 v.toNat) } else s
  | 6 =>
    if idx < 16 then s.modClaim tid fun c =>
      let old := mget 0 c.vm (idx / 4)
      let sh := 64 * (idx % 4)
      let cleared : BitVec 256 := old &&& ~~~(BitVec.ofNat 256 (2^64 - 1) <<< sh)
      { c with vm := mput 0 c.vm (idx / 4) (cleared ||| (v.zeroExtend 256 <<< sh)) }
    else s
  | 7 => if v.toNat ≤ 256 then s.modClaim tid fun c => { c with vl := v.toNat } else s
  | 8 => windowPush s tid idx v
  | _ => s

/-- CSC_WINDOW_ACCESS: a read changes nothing but for a pop. -/
def execCscWindowAccess (tid sel idx : Nat) (wr : Bool) (v : BitVec 64) (s : State) : Res :=
  haltedEvent tid (fun s => if wr then windowWrite s tid sel idx v else if sel = 8 then windowPop s tid idx else s) s

/-! ## Emulation of MISALIGN (R241) -/

/-- A plain scalar access or one of LDT and STT, as its instruction word names it. -/
structure Mis where
  store : Bool
  n : Nat := 0
  signed : Bool := false
  d : Nat
  a : Nat
  off : Word := 0
  idx : Option Nat := none
  deriving DecidableEq, Repr

def misLd (n : Nat) (sg : Bool) (d a : Nat) (off : Word) : Option Mis :=
  some { store := false, n := n, signed := sg, d := d, a := a, off := off }

def misSt (n : Nat) (d a : Nat) (off : Word) : Option Mis := some { store := true, n := n, d := d, a := a, off := off }

/-- The 64-bit loads and stores (spec/02 R46: major 0x03, minor 0 and 1). -/
def misLong (w : Nat) : Option Mis :=
  if w / 2^7 % 64 ≠ 3 then none else
  let d := w % 128
  let a := w / 2^25 % 128
  let off := sext 32 (w / 2^32)
  match w / 2^16 % 4, w / 2^18 % 128 with
  | 0, 2 => misLd 2 true d a off
  | 0, 3 => misLd 2 false d a off
  | 0, 4 => misLd 4 true d a off
  | 0, 5 => misLd 4 false d a off
  | 0, 6 => misLd 8 false d a off
  | 1, 1 => misSt 2 d a off
  | 1, 2 => misSt 4 d a off
  | 1, 3 => misSt 8 d a off
  | _, _ => none

/-- The access that a halted thread's instruction makes, if the firmware emulates it. -/
def misOf (len w : Nat) : Option Mis :=
  if len = 8 then misLong w else
  match (if len = 2 then decode16 w else decode32 w) with
  | .ok (.ldh d a o) => misLd 2 true d.toNat a.toNat (scaledOff o 2)
  | .ok (.ldhu d a o) => misLd 2 false d.toNat a.toNat (scaledOff o 2)
  | .ok (.ldw d a o) => misLd 4 true d.toNat a.toNat (scaledOff o 4)
  | .ok (.ldwu d a o) => misLd 4 false d.toNat a.toNat (scaledOff o 4)
  | .ok (.ldd d a o) => misLd 8 false d.toNat a.toNat (scaledOff o 8)
  | .ok (.sth d a o) => misSt 2 d.toNat a.toNat (scaledOff o 2)
  | .ok (.stw d a o) => misSt 4 d.toNat a.toNat (scaledOff o 4)
  | .ok (.std d a o) => misSt 8 d.toNat a.toNat (scaledOff o 8)
  | .ok (.lddCompact a b) => misLd 8 false a.toNat b.toNat 0
  | .ok (.stdCompact a b) => misSt 8 a.toNat b.toNat 0
  | .ok (.ldwCompact a b) => misLd 4 true a.toNat b.toNat 0
  | .ok (.lddG2Compact a i) => misLd 8 false a.toNat 2 (w64 (8 * i.toNat))
  | .ok (.stdG2Compact a i) => misSt 8 a.toNat 2 (w64 (8 * i.toNat))
  | .ok (.ldwG2Compact a i) => misLd 4 true a.toNat 2 (w64 (4 * i.toNat))
  | .ok (.stwG2Compact a i) => misSt 4 a.toNat 2 (w64 (4 * i.toNat))
  | .ok (.ldt d a b) => some { store := false, d := d.toNat, a := a.toNat, idx := some b.toNat }
  | .ok (.stt d a b) => some { store := true, d := d.toNat, a := a.toNat, idx := some b.toNat }
  | _ => none

/-- Step 1 of R241: translation and permission of every byte. -/
def emuCheck (s : State) (tid va : Nat) (a : Acc) : Nat → M State
  | 0 => .ok s
  | n + 1 => do
    let (_, s) ← placeOf s tid va 1 a
    emuCheck s tid ((va + 1) % 2^52) a n

/-- Step 2: single-byte stores in ascending address. -/
def storeBytes (s : State) (tid va : Nat) : List Byte → M State
  | [] => .ok s
  | b :: r => do
    let s ← storeVa s tid va [b]
    storeBytes s tid ((va + 1) % 2^52) r

def emuLoad (s : State) (tid va n : Nat) : M (Nat × State) := do
  let s ← emuCheck s tid va .rd n
  let (bs, s) ← loadBytes s tid va n
  .ok (leVal bs, s)

def emuStore (s : State) (tid va : Nat) (bs : List Byte) : M State := do
  let s ← emuCheck s tid va .wr bs.length
  storeBytes s tid va bs

/-- The access's effect, made on the thread's behalf (R51). -/
def emulate (s : State) (tid : Nat) (m : Mis) : M State := do
  let (v, s) ← if m.store then readReg s tid m.d else .ok (0, s)
  let (p, s) ← readReg s tid m.a
  match m.idx with
  | some b =>
    let (i, s) ← readReg s tid b
    let code := ptrFmt p
    let va := elemAddr p code i.toNat
    if m.store then
      let (w, s) := sttBits s tid code v
      emuStore s tid va (toBytes (elemSize code) w)
    else
      let (x, s) ← emuLoad s tid va (elemSize code)
      let (w, s) := ldtWord s tid code i.toNat x
      writeReg s tid m.d w
  | none =>
    let va := eaOf p m.off
    if m.store then emuStore s tid va (toBytes m.n v.toNat)
    else
      let (x, s) ← emuLoad s tid va m.n
      writeReg s tid m.d (if m.signed then sext (8 * m.n) x else w64 x)

/-- A computation made on a halted thread's behalf: it finds the turn's instruction word and length. -/
def asThread (s : State) (tid : Nat) (h : Halt) : State := { s with turn := some { tid := tid, insn := h.insn, len := h.len } }

/-- MISALIGN of a plain access: emulated; one whose page is absent under PARK is executed again when the page is settled;
another fault of a byte kills. -/
def serveMisalign (s : State) (tid : Nat) (h : Halt) : State :=
  match misOf h.len h.insn with
  | none => killTask s tid MISALIGN
  | some m =>
    match emulate (asThread s tid h) tid m with
    | .ok s' =>
      let pc := (s.task tid).r.pc
      ((resumeAt (dropFault (pairRetire s' tid .plain [] pc false) tid) tid (pc + BitVec.ofNat 52 h.len)).modTask tid fun t =>
        { t with part := [] }).endTurn
    | .error (.trap c _) => killTask s tid c
    | .error (.wait _ f) => f s
    | .error (.gone f) => (f ((dropFault (asThread s tid h) tid).modTask tid fun t => { t with halt := none })).endTurn

/-! ## TRAP service (R385) -/

/-- An entry of TRAPTAB leads to the service, or to the kill. -/
def trapTo (s : State) (tid : Nat) (h : Halt) (v : Word) : State :=
  if v = 0 || bit v 0 then killTask s tid TRAP
  else
    let pc := (s.task tid).r.pc + BitVec.ofNat 52 h.len
    resumeAt ((dropFault s tid).setG tid 1 (w64 pc.toNat)) tid (BitVec.ofNat 52 v.toNat)

/-- The thread waits in its slot, halted, for the page future of its TRAPTAB entry (R372, R385). -/
def trapPage (s : State) (tid va pb : Nat) : State :=
  let t := s.task tid
  let cl := clOfCore t.core
  let vpn := va / 2^pb * 2^pb / 2^16
  let (w, s) := pageFuture s cl t.ctx vpn t.launch
  (notePage s cl t.ctx vpn w fun p => { p with threads := addThread p.threads tid (turnHalt s PAGE_LOST va) }).noteSeries tid w

def serveTrap (s : State) (tid : Nat) (h : Halt) : State :=
  let t := s.task tid
  let tab := (s.ctx t.ctx).traptab
  let va := (tab + 8 * (h.insn / 2^18 % 128)) % 2^52
  if tab = 0 || t.pend.isSome then killTask s tid TRAP else
  match (xlThread (asThread s tid h) tid va .rd).1 with
  | .park => trapPage s tid va (absentBits s tid va)
  | _ =>
    match loadVa (asThread s tid h) tid va 8 with
    | .ok (v, s') => trapTo s'.endTurn tid h (w64 v)
    | .error (.trap _ _) => killTask s tid TRAP
    | .error (.wait _ f) => f s
    | .error (.gone f) => f s

/-! ## FUT_POISON (R298) -/

/-- The handle that a halted TOUCH.T names: rs1 of its 32-bit form, b of its compact one. -/
def touchedHandle (s : State) (tid : Nat) (h : Halt) : Word :=
  let n := if h.len = 2 then h.insn % 32 else h.insn / 2^25 % 128
  match readReg s tid n with
  | .ok (v, _) => v
  | .error _ => 0

/-- The poison code the CSC reads at the entry that the handle names. -/
def poisonCode (s : State) (tid : Nat) (h : Halt) : Code :=
  let w := touchedHandle s tid h
  if isLocal s w then
    let v := (fopAt s (hCl w) (fopMsg s tid w .touchp)).1.view
    if v.out = 1 then v.code else FUT_POISON
  else if peerReach s (hChip w) then (s.task tid).peerCode else DEAD

/-! ## The firmware (R291, R298, R333, R371, R385, R390, R429) -/

/-- The thread is held until a report or WAITLIM (R291, R333). -/
def holdThread (s : State) (tid : Nat) (h : Halt) : State :=
  (dropFault s tid).modTask tid fun t =>
    { t with halt := some { h with held := true }, series := some (t.series.getD s.cycle) }

/-- What the shipped firmware does with a fault message. -/
def serveFault (s : State) (tid : Nat) (h : Halt) : State :=
  if h.code = MISALIGN then serveMisalign s tid h
  else if h.code = TRAP then serveTrap s tid h
  else if h.code = FUT_POISON then killTask s tid (poisonCode s tid h)
  else if h.code = FUT_CANCEL then cancelHere (dropFault s tid) tid
  else if h.code = FUT_FULL || h.code = STRM_SLOT then holdThread s tid h
  else killTask s tid h.code

def execFaultMessage (cl i : Nat) (s : State) : Res :=
  .next (match (s.cluster cl).faults[i]? with
    | none => s
    | some m =>
      match (s.task m.tid).halt with
      | some h => if liveTask s m.tid then serveFault s m.tid h else dropFault s m.tid
      | none => dropFault s m.tid)

/-! ## Reports and WAITLIM (R291, R333, R364, R372) -/

/-- Threads of some cores that are held for a code. -/
def heldFor (s : State) (c : Code) (on : Nat → Bool) : List Nat :=
  (s.tasks.filter fun e => on e.2.core && !ended e.2 && match e.2.halt with
    | some h => h.held && h.code == c
    | none => false).map (·.1)

def resumeHeld (s : State) (tid : Nat) : State := s.modTask tid fun t => { t with halt := none }

/-- FUT_FULL_REPORT: held threads execute again, and absent pages' futures are asked for again (R291, R372). -/
def execFutFullReport (cl : Nat) (s : State) : Res :=
  let s := (heldFor s FUT_FULL fun k => clOfCore k == cl).foldl resumeHeld s
  .next (s.modCluster cl fun c => { c with freed := false, pageFuts := c.pageFuts.filter fun p => p.h.isSome })

/-- STRM_SLOT_REPORT: a STREAM that a slot and run may now serve executes again. -/
def execStrmSlotReport (core : Nat) (s : State) : Res :=
  .next ((heldFor s STRM_SLOT (· == core)).foldl (fun s t =>
    if (slotRuns s core (s.task t).ctx (classRegs (s.task t).cls)).isEmpty then s else resumeHeld s t) s)

/-- WAITLIM of a context in cycles (R364). -/
def waitCycles (s : State) (ctx : Nat) : Nat :=
  let w := (s.ctx ctx).waitlim
  nsCycles (1000 * (if w = 0 then 1000 else w))

/-- Whether WAITLIM has passed for a thread held for FUT_FULL or STRM_SLOT, or waiting for a page future's entry. -/
def waitOver (s : State) (tid : Nat) : Bool :=
  match (s.task tid).series with
  | some c => decide (s.cycle ≥ c + waitCycles s (s.task tid).ctx)
  | none => false

/-- The thread waits for a page future that no entry can be had for (R372). -/
def waitsEntry (s : State) (tid : Nat) : Bool :=
  (s.cluster (clOfCore (s.task tid).core)).pageFuts.any fun p => p.h.isNone && p.threads.any fun x => x.1 == tid

/-- WAITLIM_EXPIRY: the thread is killed with the code it was held for (R364). -/
def execWaitlimExpiry (tid : Nat) (s : State) : Res :=
  taskEvent tid (fun s =>
    if !waitOver s tid then s
    else match (s.task tid).halt with
      | some h => if h.held then killTask s tid h.code else if waitsEntry s tid then killTask s tid FUT_FULL else s
      | none => if waitsEntry s tid then killTask s tid FUT_FULL else s) s

end Sys2Proof.Machine
end

