-- ==== Sys2Proof/Machine/EngMem.lean ====
section
/-! DEFINITION. How an engine reads and writes (spec/10 R243, R266, spec/14 R368-R372): windows, mapped scratchpad through
its virtual name, translated memory with the die's tokens; poison goes with the data. -/

namespace Sys2Proof.Machine

/-- An engine access done, waiting with the requests it has sent, or ended by a fault code. -/
inductive Eng (A : Type) where
  | ok (a : A) (s : State)
  | wait (s : State) (c : Cause)
  | bad (c : Code)

def Eng.bind {A B : Type} (x : Eng A) (f : A → State → Eng B) : Eng B :=
  match x with
  | .ok a s => f a s
  | .wait s c => .wait s c
  | .bad c => .bad c

/-- A transfer, job or prefetched task waits on the page future of an absent page (R371, R372). -/
def engPark (s : State) (cl ctx va : Nat) (launch : Option Nat) (who : Nat) : State :=
  let pb := match (lookupCluster s cl ctx va).1 with
    | some e => pageBits e
    | none => 16
  let vpn := va / 2^pb * 2^pb / 2^16
  let (w, s) := pageFuture s cl ctx vpn launch
  notePage s cl ctx vpn w fun p => { p with xfers := if p.xfers.contains who then p.xfers else p.xfers ++ [who] }

/-- An engine's translated place. -/
def engXl (s : State) (cl ctx va : Nat) (launch : Option Nat) (who : Nat) (a : Acc) : Eng Place :=
  match xlEngine s cl ctx va a with
  | (.hit dpa e, s) => if region dpa = 4 then .bad BAD_POINTER
    else if deadPlace s dpa then .bad DEAD else .ok (.mem dpa e) s
  | (.zero, s) => .ok .zero s
  | (.poison, s) => .ok .poison s
  | (.bad c, _) => .bad c
  | (.miss, s) => .wait (askFill s cl ctx va none (some who)) .tlb
  | (.park, s) => .wait (engPark s cl ctx va launch who) .tlb

/-- A core that answers nothing yet: stopped, missing, or being remapped with its cluster or alone (R384, R394). -/
def unitSilent (s : State) (k : Nat) : Bool :=
  (s.core k).stopped || (s.core k).missing ||
  s.net.remaps.any fun r => if r.isCore then r.unit == k else r.unit == clOfCore k

/-- The same for an access from a cluster: a unit that is being remapped serves its own cluster's (R383). -/
def silentTo (s : State) (k cl : Nat) : Bool :=
  (s.core k).stopped || (s.core k).missing ||
  s.net.remaps.any fun r => if r.isCore then r.unit == k else r.unit == clOfCore k && r.unit != cl

/-- The place of an engine's n-byte access. -/
def engPlace (s : State) (cl ctx va n : Nat) (launch : Option Nat) (who : Nat) (a : Acc) : Eng Place :=
  if !isWin va then engXl s cl ctx va launch who a else
  match winCore cl va with
  | .error c => .bad c
  | .ok k =>
    if (s.core k).dead then .bad DEAD
    else if silentTo s k cl then .wait s .port
    else
      match winPlace s cl ctx va n with
      | .error c => .bad c
      | .ok (k, o) =>
        match (partOf (s.core k) ctx).bind (·.mapping o) with
        | some m => engXl s cl ctx ((m.va + (o - m.off)) % 2^52) launch who a
        | none => .ok (.win k o) s

/-- An engine's read within one line: the bytes, and whether each comes from a poisoned word. The words of a window source are read
at one instant (one of the interleavings R266 and R162 allow; DESIGN CHOICE, log 44). -/
def engRead (s : State) (cl ctx va n : Nat) (launch : Option Nat) (who : Nat) : Eng (List Byte × List Bool) :=
  (engPlace s cl ctx va n launch who .rd).bind fun p s =>
    let die := dieOfCl cl
    match p with
    | .zero => .ok (List.replicate n 0, List.replicate n false) s
    | .poison => .ok (List.replicate n 0, List.replicate n true) s
    | .win k o =>
      .ok (uaBytes s k ctx o n, (List.range n).map fun i => (uaPoisonIn s k ctx (o + i) 1).isSome) s
    | .mem dpa e =>
      let l := lineOf dpa
      let ord := (List.range n).map fun i => dieByte (s.orderFor die none) (dpa + i)
      if !(ord.all Option.isSome) && !(s.tok l die).mayRead then .wait (s.ask .gets l die) (tokenCause s l die)
      else if region dpa = 3 && peerDead s (1, who) 12 dpa n then .bad DEAD
      else match (if region dpa = 3 then peerTaken s (1, who) 12 dpa n else some s) with
      | none => .wait (peerAsk s ctx (1, who) 12 dpa n []) .token
      | some s =>
        let bs := (List.range n).map fun i => (ord.getD i none).getD (memByte s.mem (dpa + i))
        let bad := (List.range n).map fun i =>
          poisonAfter s (s.orderFor die none) ((dpa + i) / 8)
        .ok (bs, bad) (if isUncached e dpa then returnHome s l die else s)

/-- A write of an engine's job or transfer that its bridge has not acknowledged (R214, R227). -/
def engPending (s : State) (cl who : Nat) : Bool := (s.die (dieOfCl cl)).order.any fun x => x.eng == some who

/-- An engine's write within one line, logged at a port under a kind (R229). A bridge's acknowledgement of one to region 0x2 or
0x3 is waited for before completion. -/
def engWrite (s : State) (cl ctx va : Nat) (launch : Option Nat) (who kind : Nat) (bs : List Byte) (bad : List Bool)
    (src : Nat := cl * 8) : Eng Unit :=
  (engPlace s cl ctx va bs.length launch who .wr).bind fun p s =>
    let die := dieOfCl cl
    match p with
    | .win k o =>
      if portRefuses s k kind (min bs.length 128) src o then .wait s .port
      else .ok () (portWroteAll (uaSetPoison (uaWrite s k ctx o bs) k ctx (badWords o bad)) k kind bs.length src o)
    | .mem dpa e =>
      let l := lineOf dpa
      if !(s.tok l die).mayWrite then
        .wait (s.ask (if bs.length = 128 then .getxf else .getx) l die) (tokenCause s l die)
      else if region dpa = 2 || region dpa = 3 then
        .ok () (acceptStore s die { dpa := dpa, bytes := bs, uncached := isUncached e dpa, eng := some who, ctx := ctx, bad := badWords dpa bad })
      else
        let s := noteVisible (takeBack (performDie s die) die l none) die dpa bs.length
        let s := commit s die dpa bs
        let s : State := { s with poison := poisonSet s.poison (badWords dpa bad) }
        .ok () (if isUncached e dpa then returnHome s l die else s)
    | _ => .bad PAGE_ABSENT

end Sys2Proof.Machine
end

