-- ==== Sys2Proof/Machine/Hub.lean ====
section
/-! DEFINITION. The hub's own translated accesses (spec/14 R443). -/

namespace Sys2Proof.Machine

/-- The cluster whose CSC fills the hub TLB: cluster 0 of the lowest compute die that is not in reset. -/
def hubCl (s : State) : Nat := 112 * (((List.range 8).find? fun d => !(s.die d).down).getD 0)

/-- The hub's fill for a page of a context. -/
def hubAsk (s : State) (ctx va : Nat) : State :=
  let asid := (s.ctx ctx).asid
  let vpn := va / 2^16
  s.modHub fun h =>
    if h.fills.any fun f => f.asid == asid && f.vpn == vpn then h
    else { h with fills := h.fills ++ [{ asid := asid, vpn := vpn }] }

/-- Whether a fill's page, as its answer names it, holds an address. -/
def Fill.answers (f : Fill) (asid va : Nat) : Bool :=
  f.asid == asid && f.vpn * 2^16 / 2^f.bits == va / 2^f.bits && f.reply != 0

/-- A fault code that a fill, or the page future of the page, has answered the hub with (R368, R372). -/
def hubAnswer (s : State) (ctx va : Nat) : Option Code :=
  (s.hub.fills.find? fun f => f.answers (s.ctx ctx).asid va).map fun f => BitVec.ofNat 8 f.reply

/-- The answer is taken. -/
def hubTake (s : State) (ctx va : Nat) : State :=
  s.modHub fun h => { h with fills := h.fills.filter fun f => !f.answers (s.ctx ctx).asid va }

/-- The hub waits on the page future of a page; its entry goes, so that the lookup is made afresh. -/
def hubPark (s : State) (ctx va : Nat) (e : Word) : State :=
  let cl := hubCl s
  let vpn := va / 2^pageBits e * 2^pageBits e / 2^16
  let (w, s) := pageFuture s cl ctx vpn none
  let s := notePage s cl ctx vpn w fun p => { p with hub := true, bits := pageBits e }
  s.modHub fun h => { h with tlb := h.tlb.filter fun t => !t.holds (s.ctx ctx).asid va }

/-- Whether the hub already waits on the page future of an address's page. -/
def hubParked (s : State) (ctx va : Nat) : Bool :=
  (s.cluster (hubCl s)).pageFuts.any fun p => p.ctx == ctx && p.hub && p.vpn * 2^16 / 2^p.bits == va / 2^p.bits

/-- The hub's lookup of an address in a context. -/
def hubPlace (s : State) (ctx va : Nat) (a : Acc) : Eng Place :=
  if isWin va then .bad BAD_POINTER else
  match hubAnswer s ctx va with
  | some c => .bad c
  | none =>
    match s.hub.tlb.find? (·.holds (s.ctx ctx).asid va) with
    | none => if hubParked s ctx va then .wait s .tlb else .wait (hubAsk s ctx va) .tlb
    | some t =>
      let s := s.modHub fun h => { h with tlb := tlbFront h.tlb t }
      let x := xlEntry t.word va a false
      match x with
      | .hit dpa e => if region dpa = 4 then .bad BAD_POINTER
        else if deadPlace s dpa then .bad DEAD else .ok (.mem dpa e) (noteLeaf s ctx x)
      | .zero => .ok .zero s
      | .poison => .ok .poison s
      | .bad c => .bad c
      | .park => .wait (hubPark s ctx va t.word) .tlb
      | .miss => .wait s .tlb

/-- A store by the hub performs at its line's home, once that has gathered every token (R191), has the host's line (R416) and what
rests in a frame (R205); a peer makes one of region 0x3 (R422). An unbacked line comes to rest again, one whose owner may not be
given is waited for (R203, R204), and a line of host memory goes back. `who` numbers the access (log 24). -/
def homeStore (s : State) (who ctx dpa : Nat) (bs : List Byte) (bad : List Nat) : Eng Unit :=
  let l := lineOf dpa
  let n := bs.length
  if !(s.tok l (homeAgent s l)).mayWrite || !ownerFree s l then .wait (s.askHome .getx l) .token
  else if region dpa = 2 && mfind s.host.got l ≠ some true then .wait (askHost s 3 l 24) .token
  else if region dpa = 3 && peerDead s (3, who) 13 dpa n then .bad DEAD
  else match frameWaits s l with
    | some lf => .wait (s.askHome .gets lf) .token
    | none =>
      match (if region dpa = 3 then peerTaken s (3, who) 13 dpa n else some s) with
      | none => .wait (peerAsk s ctx (3, who) 13 dpa n (storeWords dpa bs bad)) .token
      | some s =>
        let s := homeWrite (readFrame (settleOuts s l (homeAgent s l)) l) dpa bs
        let s : State := { s with poison := poisonSet s.poison bad }
        .ok () (giveHost (restHome s l) l)

/-- A store by the hub at an address of a context. -/
def hubWrite (s : State) (who ctx va : Nat) (bs : List Byte) : Eng Unit :=
  (hubPlace s ctx va .wr).bind fun p s =>
    match p with
    | .mem dpa _ => homeStore s who ctx dpa bs []
    | _ => .bad PAGE_ABSENT

end Sys2Proof.Machine
end

