-- ==== Sys2Proof/Machine/Writes.lean ====
section
/-! DEFINITION. What the firmware of the CSCs and the command processor write: events of a context's ring (spec/14 R378) and a
launch's record (spec/15 R408, R410), through their translations (spec/14 R368, R443). -/

namespace Sys2Proof.Machine

/-- The cluster whose CSC makes a write: its own, while its die is there (DESIGN CHOICE, log 41). -/
def CscWrite.home (s : State) (x : CscWrite) : Nat :=
  if (s.die (dieOfCl x.cl)).down || s.coh.lostAgents.contains (dieOfCl x.cl) then hubCl s else x.cl

/-- Words stored from an address on: by a CSC as its cluster's engines store (R368), or by the hub (R443). -/
def writeWords (s : State) (x : CscWrite) (ctx va : Nat) : List Word → Eng Unit
  | [] => .ok () s
  | w :: r =>
    if isWin va then .bad BAD_POINTER
    else
      let bs := toBytes 8 w.toNat
      let put := if x.cl = 896 then hubWrite s (2^64 + x.id) ctx va bs
        else engWrite s (x.home s) ctx va none x.id 0 bs (List.replicate 8 false)
      put.bind fun _ s => writeWords s x ctx ((va + 8) % 2^52) r

def dropWrite (s : State) (id : Nat) : State := s.modNet fun n => { n with csc := n.csc.filter fun x => x.id ≠ id }

/-- EVFUT's future is resolved with the new EVIDX, as RESOLVE by the context would (R303, R378). -/
def tellEvent (s : State) (ctx : Nat) (h v : Word) : State :=
  if h = 0 || !isHandle h then s
  else
    let m : FutMsg := { tid := 0, ctx := ctx, cl := 1023, h := h, op := .resolve v }
    if isLocal s h then (fopAt s (hCl h) m).2 else if peerReach s (hChip h) then fopSend s m else s

/-- The event has been written, or its write has ended: EVIDX advances. -/
def eventOver (s : State) (ctx : Nat) : State :=
  match mfind s.ctxs ctx with
  | none => s
  | some c => tellEvent (s.modCtx ctx fun c => { c with evidx := c.evidx + 1, ovf := false, evfut := 0 }) ctx c.evfut (c.evidx + 1)

/-- A write is over; a record whose entry could not be written is incomplete (log 41). -/
def writeOver (s : State) (x : CscWrite) (bad : Bool) : State :=
  let s := dropWrite s x.id
  match x.work with
  | .event ctx _ _ _ => eventOver s ctx
  | .entry l _ _ _ _ =>
    if bad then (if recMode s (some l) = 1 then recStop s x.cl l 2 else s)
    else s.modLaunch l fun y => { y with recUsed := y.recUsed + 32 }
  | .header _ _ => s

/-- The words of an event and where they go; none if the ring is full (R378). -/
def eventWords (c : Ctx) (w0 : Nat) (time : Word) (addr : Nat) : Option (Nat × List Word) :=
  if (c.evidx - c.evrd).toNat ≥ c.evlen then none
  else some ((c.evbase + 32 * (c.evidx.toNat % c.evlen)) % 2^52,
    [w64 (w0 + if c.ovf then 2^47 else 0), time, w64 addr, c.evidx])

/-- The stores of a write. -/
def writeStores (s : State) (x : CscWrite) : Eng Unit :=
  match x.work with
  | .event ctx w0 time addr =>
    match eventWords (s.ctx ctx) w0 time addr with
    | none => .bad PAGE_ABSENT
    | some (va, ws) => writeWords s x ctx va ws
  | .entry l w0 time w2 w3 =>
    match launchOf s l with
    | none => .bad PAGE_ABSENT
    | some y =>
      let maq := vaOf (y.w 13)
      (engRead s (x.home s) y.ctx (maq + 8) 8 none x.id).bind fun b s =>
        if 64 + y.recUsed + 32 > leVal b.1 then .bad PAGE_ABSENT
        else
          (writeWords s x y.ctx (maq + 64 + y.recUsed) [w64 w0, time, w2, w3]).bind fun _ s =>
            writeWords s x y.ctx (maq + 16) [w64 (y.recUsed + 32)]
  | .header l ws =>
    match launchOf s l with
    | none => .bad PAGE_ABSENT
    | some y => ws.foldl (fun e w => e.bind fun _ s => writeWords s x y.ctx (vaOf (y.w 13) + w.1) [w.2]) (.ok () s)

/-- The fault that ended the command processor's write is taken from the hub's answers. -/
def takeFaults (s : State) (x : CscWrite) : State :=
  match x.work with
  | .header l ws =>
    if x.cl ≠ 896 then s
    else match launchOf s l with
      | some y => ws.foldl (fun s w => hubTake s y.ctx (vaOf (y.w 13) + w.1)) s
      | none => s
  | _ => s

/-- A write is tried: an event of a full ring is dropped, and the next one says so; what the die's order holds is released
first (R378, R408). -/
def tryWrite (s : State) (x : CscWrite) : State :=
  let full := match x.work with
    | .event ctx w0 time addr => (eventWords (s.ctx ctx) w0 time addr).isNone
    | _ => false
  if full then
    match x.work with
    | .event ctx _ _ _ => (dropWrite s x.id).modCtx ctx fun c => { c with ovf := true }
    | _ => s
  else match (if x.sent then .ok () s else writeStores s x) with
    | .ok _ s =>
      if x.cl ≠ 896 && engPending s (x.home s) x.id then
        s.modNet fun n => { n with csc := n.csc.map fun y => if y.id = x.id then { y with sent := true } else y }
      else writeOver s x false
    | .wait s _ => s
    | .bad _ => writeOver (takeFaults s x) x true

/-- What orders writes: those of one context's ring, and of one launch's record, are made in turn. -/
def CscWrite.key (x : CscWrite) : Nat :=
  match x.work with
  | .event ctx _ _ _ => 2 * ctx
  | .entry l _ _ _ _ => 2 * l + 1
  | .header l _ => 2 * l + 1

/-- Every write that no earlier one holds up is tried once in a cycle. -/
def tryWrites (s : State) : State :=
  (s.net.csc.foldl (fun (a : State × List Nat) x =>
    if a.2.contains x.key then a
    else
      let s := tryWrite a.1 x
      if s.net.csc.any fun y => y.id == x.id then (s, a.2 ++ [x.key]) else (s, a.2)) (s, [])).1

/-- A write's access ends with a fault code (R368, R372). -/
def faultWrite (s : State) (id : Nat) : State :=
  match s.net.csc.find? fun x => x.id == id with
  | some x => writeOver s x true
  | none => s

end Sys2Proof.Machine
end

