-- ==== Sys2Proof/Machine/Launches.lean ====
section
/-! DEFINITION. Launches: where they may land, when they are complete, and their records (spec/01 R19, R20, spec/08 R179,
spec/13 R359-R361). -/

namespace Sys2Proof.Machine

def Launch.spsize (x : Launch) : Nat := bits (x.w 9) 19 0
def Launch.cls (x : Launch) : Nat := bits (x.w 9) 49 47
def Launch.share (x : Launch) : Nat := bits (x.w 9) 56 50
def Launch.strict (x : Launch) : Bool := bit (x.w 9) 57
def Launch.prio (x : Launch) : Nat := bits (x.w 9) 63 60
def Launch.recs (x : Launch) : Bool := bits (x.w 9) 59 58 == 1
def Launch.tag (x : Launch) : Nat := bits (x.w 12) 31 0

/-! ## Partitions (R178, R179) -/

/-- The units of a core that belong to no partition, highest first. -/
def freeUnits (c : Core) : List Nat :=
  ((List.range 20).filter fun u => !c.parts.any fun p => p.units.contains u).reverse

def unitsUsed (c : Core) : Nat := (c.parts.map fun p => p.units.length).sum

/-- Whether a core takes a task of a launch (R179). -/
def landOk (s : State) (k : Nat) (x : Launch) : Bool :=
  let c := s.core k
  let n := x.spsize / 16384
  match partOf c x.ctx with
  | some p => p.size == x.spsize
  | none => n == 0 || (decide (c.parts.length < 4) && decide (unitsUsed c + n ≤ 18))

/-- Bytes and poison of a unit are zeroed. -/
def zeroUnits (c : Core) (us : List Nat) : Core :=
  { c with ua := c.ua.filter fun e => !us.contains (e.1 / 16384)
           uaPoison := c.uaPoison.filter fun e => !us.contains (e.1 / 2048) }

/-- A task of a launch lands on a core: the partition is made or shared, and the first-level cache loses the lines of the units it takes (R179). -/
def landPart (s : State) (k l : Nat) : State :=
  match launchOf s l with
  | none => s
  | some x =>
    if x.spsize = 0 then s else
    s.modCore k fun c =>
      let c : Core := if x.recs && !c.parts.any (fun p => p.launches.any fun l => recMode s (some l) == 1) then
        { c with traceCopied := c.traceIdx } else c
      match partOf c x.ctx with
      | some _ => { c with parts := c.parts.map fun p =>
          if p.ctx = x.ctx then { p with launches := if p.launches.contains l then p.launches else p.launches ++ [l] } else p }
      | none =>
        let us := ((freeUnits c).take (x.spsize / 16384)).reverse
        let c := zeroUnits { c with parts := c.parts ++ [{ ctx := x.ctx, units := us, launches := [l] }] } us
        { c with l1 := c.l1.filter fun e => !us.contains (e.1 / 256) }

/-- A partition is freed: its mappings end, written back, and its units are zeroed. -/
def dropPart (c : Core) (ctx : Nat) : Core :=
  match partOf c ctx with
  | none => c
  | some p => { zeroUnits c p.units with parts := c.parts.filter (·.ctx ≠ ctx) }

/-- A retired launch leaves every partition it used. -/
def leaveParts (s : State) (l : Nat) : State :=
  let leave (c : Core) : Core :=
    let c : Core := { c with parts := c.parts.map fun p => { p with launches := p.launches.filter (· ≠ l) } }
    (c.parts.filter fun p => p.launches.isEmpty).foldl (fun c p => dropPart c p.ctx) c
  { s with cores := s.cores.map fun e => if e.2.parts.any fun p => p.launches.contains l then (e.1, leave e.2) else e }

/-! ## Completion (R19, R20) -/

/-- A task that keeps its launch incomplete: not ended and not parked. -/
def busyTask (t : Task) : Bool := !ended t && t.phase ≠ .parked

/-- A thief is busy for every launch of its context until its steal is answered (R19). -/
def stealing (s : State) (x : Launch) (on : Nat → Bool) : Bool := s.net.steals.any fun y => y.ctx == x.ctx && on y.thief

/-- The cores of a cluster are idle for a launch, and no future of it that the cluster holds is PENDING (R19). -/
def clusterIdle (s : State) (l : Nat) (x : Launch) (cl : Nat) : Bool :=
  !(s.tasks.any fun e => clOfCore e.2.core == cl && e.2.launch == some l && !e.2.handler && busyTask e.2) &&
  !(s.cores.any fun e => clOfCore e.1 == cl && e.2.entries.any (Entry.ofLaunch s l)) &&
  !stealing s x (fun k => clOfCore k == cl) &&
  !((s.cluster cl).futs.any fun f => f.2.launch == some l && decide (f.2.st = .pending)) &&
  !((s.cluster cl).spilled.any fun f => f.launch == some l && decide (f.st = .pending))

/-- The clusters in which anything has happened. -/
def usedClusters (s : State) : List Nat :=
  ((s.clusters.map (·.1)) ++ (s.cores.map fun e => clOfCore e.1) ++ s.tasks.map fun e => clOfCore e.2.core).eraseDups

/-- Whether a launch meets R19's three conditions now; the root's end is its future's. -/
def launchIdle (s : State) (l : Nat) (x : Launch) : Bool :=
  x.rootEnd.isSome && !stealing s x (fun _ => true) && (usedClusters s).all (clusterIdle s l x)

/-- Steals, spawns and settled futures of a cluster that a launch's termination counts (R20). -/
def clusterCount (s : State) (l cl : Nat) : Nat :=
  ((s.cores.filter fun e => clOfCore e.1 = cl).map fun e => mget 0 e.2.spawnCount l + e.2.stealCount).sum +
  mget 0 (s.cluster cl).settled l

/-- A node's sweep of its children (R20). -/
def Sweep.next (x : Sweep) (idle : Bool) (count : Nat) : Sweep :=
  { count := count, runs := if !idle then 0 else if x.runs ≠ 0 && x.count ≠ count then 1 else min 2 (x.runs + 1) }

/-- Every node is swept once, the clusters first: each sees what its children have reported. -/
def sweepTree (s : State) (l : Nat) (x : Launch) : FMap Sweep :=
  let cls := usedClusters s
  let node (t : FMap Sweep) (i : Nat) : Sweep := mget {} t i
  let t := cls.foldl (fun t c => mput {} t (9 + c) ((node x.tree (9 + c)).next (clusterIdle s l x c) (clusterCount s l c))) []
  let t := (List.range 8).foldl (fun t d =>
    let mine := cls.filter fun c => dieOfCl c = d
    mput {} t (1 + d) ((node x.tree (1 + d)).next (mine.all fun c => (node t (9 + c)).runs == 2)
      (mine.map fun c => (node t (9 + c)).count).sum)) t
  mput {} t 0 ((node x.tree 0).next (x.rootEnd.isSome && (List.range 8).all fun d => (node t (1 + d)).runs == 2)
    ((List.range 8).map fun d => (node t (1 + d)).count).sum)

/-- Every store of a launch's tasks has left its FIFO and reached its port. -/
def launchDrained (s : State) (l : Nat) : Bool :=
  s.tasks.all fun e => e.2.launch != some l || (e.2.fifo.isEmpty && e.2.unacked.isEmpty)

/-- TERMINATION_SWEEP: a sweep of the tree; the package level reports completion after two that find everything idle with no
change of count, and the launch's stores are then those each die has accepted (R20). -/
def execTerminationSweep (l : Nat) (s : State) : Res :=
  .next (match launchOf s l with
    | none => s
    | some x =>
      if x.st ≠ .running || x.complete then s
      else
        let t := sweepTree s l x
        let s := s.modLaunch l fun x => { x with tree := t }
        if (mget {} t 0).runs = 2 && launchIdle s l x && launchDrained s l then
          let (n, s) := s.fresh
          s.modLaunch l fun x =>
            { x with complete := true, marks := s.dies.map fun e => (e.1, e.2.accepted), late := if s.hub.restart then some n else none }
        else s)

/-- A recorded launch's port trace entries have been copied into its record (R229, R408). -/
def tracesCopied (s : State) (l : Nat) : Bool :=
  recMode s (some l) != 1 ||
  s.cores.all fun e => !(e.2.parts.any fun p => p.launches.contains l) || e.2.traceCopied == e.2.traceIdx

/-- The stores of a complete launch have performed. -/
def launchReleased (s : State) (x : Launch) : Bool :=
  x.marks.all fun e => (s.die e.1).order.all fun y => decide (y.seq ≥ e.2)

/-! ## The completion record (R360) -/

def recordBytes (x : Launch) (r : RootEnd) : List Byte :=
  toBytes 8 (if r.status = 0 then r.value.toNat else 0) ++
  toBytes 8 (r.status % 256 * 2^56 + r.code.toNat * 2^48 + (if r.status = 0 then r.flags.toNat else 0) * 2^42 + x.tag)

/-- The record is written, dropped on a fault with RECLOST, or waits. -/
def putRecord (s : State) (x : Launch) (r : RootEnd) : Eng Unit :=
  if x.w 11 = 0 then .ok () s else
  match (if ptrBad (x.w 11) then Eng.bad BAD_POINTER
    else hubWrite s (2^21 + 2^12 * x.arrival + x.queue) x.ctx (vaOf (x.w 11)) (recordBytes x r)) with
  | .ok _ s => .ok () s
  | .wait s c => .wait s c
  | .bad _ =>
    .ok () ((hubTake s x.ctx (vaOf (x.w 11))).modQueue x.queue fun q => { q with reclost := true })

/-- The queue's interrupt (R360). -/
def raiseQueue (s : State) (q : Nat) : State :=
  match (mfind s.queues q).bind (·.vec) with
  | some v => raiseVector s v
  | none => s

/-! ## Retirement (R20, R293, R360) -/

/-- Every future entry of a launch is free; an index that was lost while it lived may be allocated again once no such launch
is left (R397). -/
def freeFuts (s : State) (l : Nat) : State :=
  { s with clusters := s.clusters.map fun e =>
      let c := e.2
      let c : Cluster :=
             { c with futs := c.futs.filter fun f => f.2.launch ≠ some l
                      spilled := c.spilled.filter fun f => f.launch ≠ some l
                      settled := merase c.settled l
                      freed := c.freed || c.futs.any fun f => f.2.launch == some l
                      lostUntil := c.lostUntil.map fun x => (x.1, x.2.filter (· ≠ l)) }
      let gone (i : Nat) : Bool := mget [] c.lostUntil i == []
      (e.1, { c with lost := c.lost.filter (fun x => !gone x.1), lostUntil := c.lostUntil.filter fun x => !gone x.1 }) }

/-- A live launch of the same context that uses a core's entries: it has installed this one, or has work on the core. -/
def usesEntry (s : State) (l : Nat) (x : Launch) (e : Nat × Nat) : Option Nat :=
  (s.launches.find? fun y => y.1 != l && decide (y.2.st ≠ .retired) && y.2.ctx == x.ctx &&
    (y.2.entries.contains e ||
      s.tasks.any fun t => t.2.core == e.1 && t.2.launch == some y.1 && !ended t.2)).map (·.1)

/-- The slot-table entries a launch installed go; one that another live launch of the context uses goes with that one (R359). -/
def removeEntries (s : State) (l : Nat) (x : Launch) : State :=
  x.entries.foldl (fun s e => match usesEntry s l x e with
    | some y => s.modLaunch y fun z => { z with entries := if z.entries.contains e then z.entries else z.entries ++ [e] }
    | none => (slotWrite s e.1 e.2 0).2) s

/-- A core's pre-emption ends: its entries are written back, and what it froze is thawed (R382). -/
def endPreempt (s : State) (p : Preempt) : State :=
  let s := p.entries.foldl (fun s e => (slotWrite s p.core e.1 0).2) s
  let s := p.entries.foldl (fun s e => (slotWrite s p.core e.1 e.2).2) s
  p.frozen.foldl (fun s c => (thawCtx s p.core c).2) s

/-- The pre-emptions of a queue end with its last live launch. -/
def endPreempts (s : State) (q : Nat) : State :=
  if (mfind s.queues q).any fun x => !x.live.isEmpty then s
  else
    let mine := s.hub.preempts.filter fun p => p.queue = q
    mine.foldl endPreempt (s.modHub fun h => { h with preempts := h.preempts.filter fun p => p.queue ≠ q })

/-- The launch is over. -/
def endLaunch (s : State) (l : Nat) (x : Launch) : State :=
  let s := leaveParts (freeFuts (removeEntries s l x) l) l
  let s := (s.modLaunch l fun x => { x with st := .retired }).modQueue x.queue fun q => { q with live := q.live.filter (· ≠ l) }
  endPreempts s x.queue

/-- How a launch's record says it ended. -/
def launchEnd (x : Launch) : RootEnd :=
  match x.abandon with
  | some st => { status := st }
  | none => x.rootEnd.getD { status := 1 }

/-- A queue goes past a packet, whose effect is committed (R348, R361). -/
def passPacket (s : State) (q : Nat) : State :=
  s.modQueue q fun q => { q with st := .run, rp := q.rp + 1, crp := q.crp + 1, pkt := none, since := s.cycle, answer := none }

/-- Whether a write under way is of a launch's record. -/
def CscWrite.ofLaunch (x : CscWrite) (l : Nat) : Bool :=
  match x.work with
  | .event _ _ _ _ => false
  | .entry l' _ _ _ _ => l' == l
  | .header l' _ => l' == l

/-- Whether a task's recorded event, of kinds 3 to 6, has not occurred. -/
def Task.unmet (t : Task) (l : Nat) (e : Nat × Nat × Word × Word) : Bool :=
  t.launch == some l && t.ident == e.2.2.1 && decide (t.ordinal ≤ e.2.1) && decide (3 ≤ e.1) && decide (e.1 ≤ 6)

/-- A replay of a launch that has diverged and whose divergence is not written yet (R412, R413). -/
def strays (s : State) (l : Nat) (x : Launch) : Bool :=
  recMode s (some l) == 2 && (x.strayed.isSome || (recEntries s 0 x).any fun e =>
    s.tasks.any fun t => decide (t.2.phase = .killed) && t.2.unmet l e)

/-- A launch reported complete before this one during a restart of the command processors retires first (R407). -/
def retiresAfter (s : State) (x : Launch) : Bool :=
  match x.late with
  | some n => s.launches.any fun e => decide (e.2.st ≠ .retired) && e.2.late.any fun m => decide (m < n)
  | none => false

/-- LAUNCH_RETIREMENT: a complete launch, its release done, or one abandoned while it was being placed. Its record's STATE is 1,
and everything of the record written, before the completion record is (R408); none is written while the command processors restart
(R407). -/
def execLaunchRetirement (l : Nat) (s : State) : Res :=
  .next (match launchOf s l with
    | none => s
    | some x =>
      let placed := x.st = .running && x.complete && launchIdle s l x && launchReleased s x && tracesCopied s l
      let given := x.st = .placing && x.abandon.isSome
      if !(placed || given) || s.hub.restart || retiresAfter s x || (placed && strays s l x) then s
      else if recMode s (some l) = 1 then recStop s 896 l 1
      else if s.net.csc.any fun y => y.ofLaunch l then s
      else match putRecord s x (launchEnd x) with
      | .ok _ s =>
        let s := endLaunch (raiseQueue s x.queue) l x
        if given then passPacket s x.queue else s
      | .wait s _ => s
      | .bad _ => s)

end Sys2Proof.Machine
end

