-- ==== Sys2Proof/Machine/EvSched.lean ====
section
/-! DEFINITION. Events of the cluster scheduler: dispatch, frames, prefetch and stealing (spec/01 R9-R19, spec/11 R277-R281,
spec/12 R317, R323, spec/15 R408-R411). -/

namespace Sys2Proof.Machine

/-! ## Dispatch (R276, R277) -/

/-- A child that takes index i of a range (R276, R297, R409). -/
def rangeChild (s : State) (k : Nat) (r : Range) (i : Nat) : Task :=
  let f := match launchOf s r.launch with | some l => l.wfmt | none => 0
  let w := wfReplace f r.r.wid r.field i
  { phase := .created, ctx := r.ctx, launch := some r.launch, cls := r.cls, core := k, ends := .range r.fut,
    r := { r.r with wid := w, srseed := childSeed r.p w }, tiles := r.tiles, ident := r.ident + w64 i }

/-- What a slot would take: the context, class, whether a frame and a claim must be found, and the partner core of a pair. -/
structure Want where
  ctx : Nat
  cls : Nat
  framed : Bool
  claim : Bool
  partner : Option Nat
  launch : Option Nat := none
  deriving DecidableEq, Repr

/-- An entry that may be handed to a slot (R277), and what it wants. -/
def wantOf (s : State) (k : Nat) : Entry → Option Want
  | .task t =>
    let x := s.task t
    if (x.phase = .ready || (x.phase = .created && x.tiles.isNone)) && !x.saved && !isFrozen s t then
      some { ctx := x.ctx, cls := x.cls, framed := x.frame, claim := x.claim.isSome,
             partner := x.pair.map fun p => (s.task p.other).core, launch := x.launch }
    else none
  | .range r =>
    if r.tiles.isNone && !(s.core k).frozen.contains r.ctx && decide (r.lo < r.hi) then
      some { ctx := r.ctx, cls := r.cls, framed := false, claim := false, partner := none, launch := some r.launch }
    else none

/-- What a slot needs besides a register run; the core takes no task of a launch whose partition it has no room for (R179). -/
def wantRoom (s : State) (k : Nat) (w : Want) : Bool :=
  (w.framed || poolRoom s w.ctx 1280) && (w.launch.bind (launchOf s)).all (landOk s k) && (!w.claim || mayFrame s (clOfCore k) w.ctx false) &&
  match w.partner with
  | some j => !(slotRuns s j w.ctx (classRegs w.cls)).isEmpty
  | none => true

/-- The slots and runs that an entry may have: any for the waiting large task itself (R317). -/
def runsFor (s : State) (k key ctx n : Nat) : List (Nat × Nat) :=
  if (s.core k).waiting = some key then allRuns s k ctx n else slotRuns s k ctx n

/-- Whether a core may hand an entry to a slot now. -/
def mayTake (s : State) (k : Nat) (e : Entry) : Bool :=
  match wantOf s k e with
  | none => false
  | some w => wantRoom s k w && !(runsFor s k e.key w.ctx (classRegs w.cls)).isEmpty

/-- Whether only the lack of a register run keeps a slot from taking an entry's task (R317). -/
def wantsRun (s : State) (k : Nat) (e : Entry) : Bool :=
  match wantOf s k e with
  | none => false
  | some w =>
    wantRoom s k w && !(freeSlots (s.core k) w.ctx 0 60).isEmpty && (allRuns s k w.ctx (classRegs w.cls)).isEmpty

/-- The entries a core dispatches from: the deque, then its overflow once the deque has drained (R17). -/
def dispatchList (c : Core) : List Entry := if c.deque.isEmpty then c.overflow.flatMap (·.es) else c.deque

/-- A task takes a slot and a run, any that the table and partition allow (log 18), and its launch's partition on the core is
made again if it was lost (R395); a saved claim is framed again, a pair's shadow takes its own slot. -/
def takeSlot (s : State) (tid k key : Nat) : State :=
  let x := s.task tid
  let cands := runsFor s k key x.ctx (classRegs x.cls)
  let (f, s) := s.free
  let (slot, base) := cands.getD (f % max cands.length 1) (0, 0)
  let first := !x.started
  let s := match x.launch with
    | some l => landPart s k l
    | none => s
  let s := placeTask (s.modTask tid fun t => { t with frame := true }) tid k slot base
  let s := if first then s.modTask tid fun t => { t with startedAt := s.cycle } else s
  let s := match (s.task tid).pair with
    | some p =>
      let j := (s.task p.other).core
      let cs := slotRuns s j x.ctx (classRegs x.cls)
      let (f, s) := s.free
      let (slot, base) := cs.getD (f % max cs.length 1) (0, 0)
      placeTask s p.other j slot base
    | none => s
  let s := if (s.task tid).claim.isSome then resumeClaim s tid else s
  s.modCore k fun c => { c with backoff := 512, stealAt := s.cycle, handed := s.cycle + 1, passed := merase c.passed key,
                                large := if c.large = some key then none else c.large }

/-- An entry leaves a deque, or a range entry loses its index lo. -/
def dropFirstOf (c : Core) (e : Entry) : Core :=
  c.filterEntries fun x => if x = e then none else some x

/-- The entry is handed to a slot. -/
def dispatchEntry (s : State) (k : Nat) : Entry → State
  | .task t =>
    (takeSlot s t k t).modCore k fun c => dropFirstOf c (.task t)
  | .range r =>
    let (t, s) := s.fresh
    let s := s.setTask t (rangeChild s k r r.lo)
    let out := takeSlot s t k (Entry.range r).key
    out.modCore k fun c => c.filterEntries fun e =>
      if e = .range r then (if r.lo + 1 < r.hi then some (.range { r with lo := r.lo + 1 }) else none) else some e

def execTaskDispatch (core : Nat) (s : State) : Res :=
  .next (if unitSilent s core || (s.core core).dead || decide (s.cycle < (s.core core).handed) then s else
    match (dispatchList (s.core core)).find? (mayTake s core) with
    | some e => dispatchEntry s core e
    | none => s)

/-- FRAME_MOVE: a parked task's registers are in its frame, whose place no program reads (R10, R278): a parked task's run
base may change, and nothing else. -/
def execFrameMove (tid base : Nat) (s : State) : Res :=
  taskEvent tid (fun s =>
    if (s.task tid).phase = .parked then s.modTask tid fun t => { t with rfbase := base } else s) s

/-- Tasks that a slot would take but for a register run, with the cycle since which (R317). -/
def notePassed (s : State) (k : Nat) : State :=
  let ts := ((s.core k).entries.filter (wantsRun s k)).map Entry.key
  s.modCore k fun c => { c with passed := ts.foldl (fun m t => mset m t (mget s.cycle c.passed t)) [] }

/-- Whether a task, or the next of a range, has been passed over for 8,192 cycles and becomes the waiting large task. -/
def isLarge (s : State) (core key : Nat) : Bool :=
  (s.core core).waiting.isNone && ((s.core core).entries.any fun e => e.key == key && wantsRun s core e) &&
  match mfind (s.core core).passed key with
  | some c => decide (s.cycle ≥ c + 8192)
  | none => false

def execWaitingLargeTask (core tid : Nat) (s : State) : Res :=
  .next (if isLarge s core tid then s.modCore core fun c => { c with large := some tid } else s)

/-! ## Prefetch (R279-R281) -/

/-- Words of a task's tile list read one by one through the cluster's TLB. -/
def listWords (s : State) (cl ctx va : Nat) (l : Option Nat) (who : Nat) : Nat → Eng (List Word)
  | 0 => .ok [] s
  | n + 1 =>
    (engRead s cl ctx va 8 l who).bind fun b s =>
      if b.2.any id then .bad DATA_POISON
      else (listWords s cl ctx ((va + 8) % 2^52) l who n).bind fun r s => .ok (w64 (leVal b.1) :: r) s

/-- The entries of a list: source and the word of BYTES and SPOFF. -/
def listPairs : List Word → List (Word × Word)
  | a :: b :: r => (a, b) :: listPairs r
  | _ => []

/-- R279's conditions of one tile; a SRC in the window, or with bits [54:52] non-zero, for which R279 names no code, is FUT_ARG with
them (DESIGN CHOICE, log 44). -/
def tileOk (e : Word × Word) : Bool :=
  !ptrBad e.1 && !isWin (vaOf e.1) && bits e.2 63 32 != 0 && bits e.2 63 32 % 128 == 0 && bits e.2 31 19 == 0 &&
  bits e.2 18 0 % 128 == 0

def extentOf (e : Word × Word) : Nat × Nat := (bits e.2 18 0, bits e.2 63 32)

def extentsMeet (a b : Nat × Nat) : Bool := decide (a.1 < b.1 + b.2) && decide (b.1 < a.1 + a.2)

/-- Some two extents of a list overlap. -/
def anyMeet : List (Nat × Nat) → Bool
  | [] => false
  | a :: r => r.any (extentsMeet a) || anyMeet r

/-- R279's conditions: the code that kills, if any. -/
def listBad (s : State) (k ctx : Nat) (hdr : List Word) (es : List (Word × Word)) : Option Code :=
  let n := bits (hdr.getD 0 0) 7 0
  if n = 0 || n > 32 || bits (hdr.getD 0 0) 63 8 != 0 || hdr.getD 1 0 != 0 || !es.all tileOk || anyMeet (es.map extentOf)
  then some FUT_ARG
  else
    match partOf (s.core k) ctx with
    | none => some SP_RANGE
    | some p => if es.any fun e => decide ((extentOf e).1 + (extentOf e).2 > p.size) then some SP_RANGE else none

/-- Extents held on a core (R281). -/
def heldExtents (s : State) (k : Nat) : List (Nat × Nat) :=
  (s.tasks.filter fun e => e.2.core == k && !ended e.2).flatMap fun e => e.2.extents

/-- Tasks of a core that are PREFETCHING, or READY and holding extents without a slot. -/
def prefetchLoad (s : State) (k : Nat) : Nat :=
  (s.tasks.filter fun e => e.2.core == k &&
    (decide (e.2.phase = .prefetching) || (decide (e.2.phase = .ready) && !e.2.extents.isEmpty && e.2.slot.isNone))).length

/-- Prefetch slots of a cluster in use. -/
def prefetchSlots (s : State) (cl : Nat) : Nat :=
  (s.tasks.filter fun e => clOfCore e.2.core == cl && decide (e.2.phase = .prefetching)).length

/-- The task's transfers: each tile to its offset of the core's partition. -/
def tileXfers (s : State) (k : Nat) (t : Task) (tid : Nat) : List (Word × Word) → List Xfer × State
  | [] => ([], s)
  | e :: r =>
    let (id, s) := s.fresh
    let dst := w64 (15 * 2^48 + dieOfCore k * 2^35 + clOfCore k % 112 * 2^41 + k % 8 * 2^38 + bits e.2 18 0)
    let x : Xfer := { id := id, ctx := t.ctx, launch := t.launch, w0 := w64 (bits e.2 63 32), w1 := dst, w2 := e.1, w3 := 0,
                      sink := .prefetch tid, time := 0 }
    let (xs, s) := tileXfers s k t tid r
    (x :: xs, s)

/-- A CREATED task enters PREFETCHING, its extents held and its tiles on their way. -/
def startPrefetch (s : State) (k tid : Nat) (es : List (Word × Word)) : State :=
  let (xs, s) := tileXfers s k (s.task tid) tid es
  let s := s.modTask tid fun t => { t with phase := .prefetching, extents := es.map extentOf }
  s.modCluster (clOfCore k) fun c => { c with xfers := c.xfers ++ xs, prefetched := s.cycle + 1 }

/-- A task whose prefetch has begun is killed before it runs (R13, R279). -/
def killPrefetch (s : State) (tid : Nat) (c : Code) : State := killTask (s.modTask tid fun t => { t with phase := .prefetching }) tid c

/-- A range entry's index lo becomes a single CREATED entry directly below it; none while a full deque can get no room for it
(R17, R280). -/
def splitRange (s : State) (k : Nat) (r : Range) : Option (Nat × State) :=
  (if r.lo + 1 < r.hi then makeRoom s k r.ctx else some s).map fun s =>
    let (t, s) := s.fresh
    let s := s.setTask t (rangeChild s k r r.lo)
    let split (es : List Entry) : List Entry := es.flatMap fun e =>
      if e = .range r then
        (if r.lo + 1 < r.hi then [.task t, .range { r with lo := r.lo + 1 }] else [.task t])
      else [e]
    (t, s.modCore k fun c => { c with deque := split c.deque, overflow := c.overflow.map fun g => { g with es := split g.es } })

/-- What the reading of an entry's tile list goes by: context, launch, address, and the name under which it waits. -/
def listOf (s : State) : Entry → Option (Nat × Option Nat × Nat × Nat)
  | .task t => (s.task t).tiles.map fun va => ((s.task t).ctx, (s.task t).launch, va, t)
  | .range r => r.tiles.map fun va => (r.ctx, some r.launch, va, (Entry.range r).key)

/-- The single CREATED entry whose prefetch starts: a task, or the first index split off a range. -/
def single (s : State) (k : Nat) : Entry → Option (Nat × State)
  | .task t => some (t, s)
  | .range r => splitRange s k r

/-- The words of a tile list at an address. -/
def tileList (s : State) (cl ctx va : Nat) (l : Option Nat) (who : Nat) : Eng (List Word × List (Word × Word)) :=
  (listWords s cl ctx va l who 2).bind fun h s =>
    (listWords s cl ctx ((va + 16) % 2^52) l who (2 * min 32 (bits (h.getD 0 0) 7 0))).bind fun ws s => .ok (h, listPairs ws) s

/-- An entry's list is read, with the requests it waits for, and its prefetch starts where its extents are free; a fault of
the list kills the task (R279, R280). Its extents are a condition of the start, so the list is read first, while the entry
is CREATED (log 41). -/
def readList (s : State) (k : Nat) (e : Entry) : State :=
  match listOf s e with
  | none => s
  | some (ctx, l, va, who) =>
    let kill (s : State) (c : Code) : State := match single s k e with
      | some (t, s) => killPrefetch s t c
      | none => s
    match tileList s (clOfCore k) ctx va l who with
    | .wait s _ => s
    | .bad c => kill s c
    | .ok (h, es) s =>
      match listBad s k ctx h es with
      | some c => kill s c
      | none =>
        if (heldExtents s k).any fun a => (es.map extentOf).any (extentsMeet a) then s
        else match single s k e with
          | some (t, s) => startPrefetch s k t es
          | none => s

/-- The range entry of a cluster's deques that waits under a name. -/
def rangeWaiting (s : State) (cl who : Nat) : Option (Nat × Entry) :=
  ((List.range 8).map (8 * cl + ·)).findSome? fun k =>
    ((s.core k).entries.find? fun e => e.key == who && decide (2^64 ≤ who)).map fun e => (k, e)

/-- Whether an entry may start its prefetch (R280): a CREATED task with a list, or a range with one. -/
def prefetchable (s : State) (core pos : Nat) : Bool :=
  decide (pos < 4) && decide (prefetchLoad s core < 4) && decide (prefetchSlots s (clOfCore core) < 512) &&
  !unitSilent s core && decide ((s.cluster (clOfCore core)).prefetched ≤ s.cycle) &&
  match (dispatchList (s.core core))[pos]? with
  | some (.task t) => decide ((s.task t).phase = .created) && (s.task t).tiles.isSome
  | some (.range r) => r.tiles.isSome && decide (r.lo < r.hi)
  | none => false

def execPrefetchStart (cl core pos : Nat) (s : State) : Res :=
  .next (if clOfCore core ≠ cl || !prefetchable s core pos then s else
    match (dispatchList (s.core core))[pos]? with
    | some e => readList s core e
    | none => s)

/-! ## Stealing (R14-R16, R19, R323) -/

/-- A core is idle for a context: none of its tasks runs, prefetches or is ready there, and its deque holds none (R19). -/
def idleFor (s : State) (k ctx : Nat) : Bool :=
  !(s.tasks.any fun e => e.2.core == k && e.2.ctx == ctx && !e.2.handler && busyTask e.2) &&
  !((s.core k).entries.any fun e => match e with
    | .task t => (s.task t).ctx == ctx
    | .range r => r.ctx == ctx)

/-- Contexts whose entries name an ordinary slot of a core, and that are not frozen there. -/
def tableCtxs (s : State) (k : Nat) : List Nat :=
  (((s.core k).table.filter fun e => decide (e.1 < (s.core k).len) && entValid e.2).map fun e => entCtx e.2).eraseDups.filter
    fun c => !(s.core k).frozen.contains c

/-- Whether a thief may take an entry: CREATED, or a range, of the context; not the waiting large task; of a launch that may
land on the thief (R14, R179). -/
def stealable (s : State) (thief victim ctx : Nat) (e : Entry) : Bool :=
  let ok (l : Nat) : Bool := match launchOf s l with
    | some x => landOk s thief x
    | none => false
  match e with
  | .task t =>
    let x := s.task t
    x.ctx == ctx && decide (x.phase = .created) && (s.core victim).waiting != some t && (match x.launch with
      | some l => ok l
      | none => false)
  | .range r =>
    r.ctx == ctx && decide (r.lo < r.hi) && ok r.launch && ((s.core victim).waiting != some e.key || decide (r.lo + 1 < r.hi))

/-- The topmost stealable entry of a victim. -/
def stealTop (s : State) (thief victim ctx : Nat) : Option Entry :=
  (s.core victim).entries.reverse.find? (stealable s thief victim ctx)

/-- The victims of a level: 0 the cluster, 1 the die, 2 the package. -/
def stealLevel (s : State) (k ctx level : Nat) : List Nat :=
  (s.cores.map (·.1)).filter fun v =>
    v != k && (match level with
      | 0 => clOfCore v == clOfCore k
      | 1 => dieOfCore v == dieOfCore k && clOfCore v != clOfCore k
      | _ => dieOfCore v != dieOfCore k) && (stealTop s k v ctx).isSome

/-- The contexts a core may steal for. -/
def stealCtxs (s : State) (k : Nat) : List Nat := (tableCtxs s k).filter (idleFor s k)

/-- Whether an idle core may begin a sweep now. -/
def maySweep (s : State) (k : Nat) : Bool :=
  let c := s.core k
  !c.stealOut && decide (c.stealAt ≤ s.cycle) && !unitSilent s k && !c.dead && !(stealCtxs s k).isEmpty

/-- STEAL_SWEEP: a request to the victim that the core's sequence names among those of the innermost level that hold a
stealable entry (R15, log 18); a sweep that finds none doubles the wait (R323). -/
def execStealSweep (core : Nat) (s : State) : Res :=
  .next (if !maySweep s core then s else
    let cs := stealCtxs s core
    let (f, s) := s.free
    let ctx := cs.getD (f % max cs.length 1) 0
    match [0, 1, 2].find? fun l => !(stealLevel s core ctx l).isEmpty with
    | some l =>
      let vs := stealLevel s core ctx l
      let pos := (s.core core).victimPos
      let v := vs.getD (Config.victim core pos % max vs.length 1) 0
      (s.modCore core fun c => { c with stealOut := true, victimPos := pos + 1 }).modNet fun n =>
        { n with steals := n.steals ++ [{ thief := core, victim := v, ctx := ctx }] }
    | none => s.modCore core fun c => { c with stealAt := s.cycle + c.backoff, backoff := min (2 * c.backoff) 16384 })

/-- The identifier that a stolen entry is recorded under (R409, R410). -/
def stolenIdent (s : State) : Entry → Word
  | .task t => (s.task t).ident
  | .range r => r.ident + w64 r.lo

def entryLaunch (s : State) : Entry → Option Nat
  | .task t => (s.task t).launch
  | .range r => some r.launch

/-- What a thief gets of an entry: a whole task, or a range's upper part (R277). -/
def stolenPart : Entry → Entry
  | .task t => .task t
  | .range r => .range { r with lo := r.lo + (r.hi - r.lo + 1) / 2 % (r.hi - r.lo) }

/-- What the victim keeps of it. -/
def leftPart : Entry → Option Entry
  | .task _ => none
  | .range r => if r.hi - r.lo = 1 then none else some (.range { r with hi := r.lo + (r.hi - r.lo + 1) / 2 })

/-- In replay a thief takes exactly the recorded task (R411). -/
def stealRecorded (s : State) (thief victim : Nat) (e : Entry) : Bool :=
  mayTurn s (entryLaunch s e) (dieOfCore thief) 2 (stolenIdent s (stolenPart e)) false fun x => x.2.2.2 == recCore victim

def setSteal (s : State) (i : Nat) (f : Steal → Steal) : State :=
  s.modNet fun n => { n with steals := match n.steals[i]? with
    | some x => lset n.steals i (f x)
    | none => n.steals }

/-- STEAL_REQUEST: the victim serves a request, with RETRY while it is remapped (R384) and a failed steal once it is dead
(R394). -/
def execStealRequest (i : Nat) (s : State) : Res :=
  .next (match s.net.steals[i]? with
    | none => s
    | some x =>
      if x.answered || x.retry then s
      else if (s.core x.victim).dead then setSteal s i fun x => { x with answered := true }
      else if underRemap s x.victim then setSteal s i fun x => { x with retry := true }
      else if unitSilent s x.victim then s
      else
        match (s.core x.victim).entries.reverse.find? fun e =>
          stealable s x.thief x.victim x.ctx e && stealRecorded s x.thief x.victim e with
        | none => setSteal s i fun x => { x with answered := true }
        | some e =>
          let s := s.modCore x.victim fun c => c.filterEntries fun y => if y = e then leftPart e else some y
          let d := dieOfCore x.victim
          setSteal s i fun x => { x with answered := true, got := some (stolenPart e)
                                         mark := if dieOfCore x.thief = d then none else some (s.die d).accepted })

/-- An entry that a retired core held is killed (R395, R399). -/
def killEntry (s : State) (k : Nat) (e : Entry) : State :=
  match e with
  | .task t => killTask s t (if (s.die (dieOfCore k)).down then DIE_LOST else DEAD)
  | .range r => rangeLost s r

/-- An entry that the thief cannot hold goes back to the top of its victim's deque, or is killed with its core; none while
that deque has no room for it (R16, R17). -/
def giveBack (s : State) (x : Steal) (e : Entry) : Option State :=
  if (s.core x.victim).dead then some (killEntry s x.victim e) else pushTop s x.victim x.ctx e

/-- A stolen entry arrives in CREATED at the bottom of the thief's deque, and its launch lands there; none where the thief
cannot hold it. -/
def landStolen (s : State) (x : Steal) (e : Entry) : Option State :=
  let l := entryLaunch s e
  if (s.core x.thief).dead || !(l.bind (launchOf s)).any (landOk s x.thief) then none else
  (pushBottom s x.thief x.ctx e).map fun s =>
    let n := (s.core x.thief).stealCount
    let s := recordEv s l (dieOfCore x.thief) 2 n (stolenIdent s e) (recCore x.victim)
    let s := takeTurn s l (dieOfCore x.thief) 2 (stolenIdent s e) (stolenIdent s e) x.thief
    let s := match l with
      | some l => landPart s x.thief l
      | none => s
    let s := match e with
      | .task t => s.modTask t fun y => { y with core := x.thief }
      | .range _ => s
    s.modCore x.thief fun c => { c with stealCount := n + 1 }

/-- The release at .p that a steal by another die makes on the victim's die has yet to hold (R225). -/
def stealWaits (s : State) (x : Steal) : Bool :=
  match x.mark with
  | some m => (s.die (dieOfCore x.victim)).order.any fun y => decide (y.seq < m)
  | none => false

/-- STEAL_ANSWER: the thief takes the entry, or it goes back; one that can be held nowhere yet stays in flight. -/
def execStealAnswer (i : Nat) (s : State) : Res :=
  .next (match s.net.steals[i]? with
    | none => s
    | some x =>
      if !x.answered || underRemap s x.thief || stealWaits s x then s
      else
        let back := (s.modNet fun n => { n with steals := ldel n.steals i }).modCore x.thief fun c =>
          { c with stealOut := false, stealAt := s.cycle, backoff := if x.got.isSome then 512 else c.backoff }
        match x.got with
        | none => back
        | some e => ((landStolen back x e).orElse fun _ => giveBack back x e).getD s)

end Sys2Proof.Machine
end

