-- ==== Sys2Proof/Machine/EvFutures.lean ====
section
/-! DEFINITION. Events of futures: spilling, operations between clusters and their replies, and wakes (spec/11 R287-R300,
spec/12 R326, spec/14 R372, R384, spec/15 R411). -/

namespace Sys2Proof.Machine

/-! ## Spilling (R290, R291) -/

/-- Whether a cluster spills an entry now. -/
def maySpill (s : State) (cl : Nat) : Bool :=
  let c := s.cluster cl
  (decide (c.futs.length > 3840) || (freeIdxFrom c 0 4096).isNone) && (spillChoice s cl).isSome

def execFutureSpill (cl : Nat) (s : State) : Res :=
  .next (if maySpill s cl then
      match spillChoice s cl with
      | some f => spillFut s cl f
      | none => s
    else s)

/-! ## Completing what a thread asked or parked with -/

/-- The state in which a waiting thread's instruction goes on: its word and length are those it waits with. -/
def inTurn (s : State) (tid : Nat) (p : Park) : State := { s with turn := some { tid := tid, insn := p.insn, len := p.len } }

/-- The instruction has completed: the next one, and a pair's checkpoint after a synchronising instruction (R403). -/
def finishWait (s : State) (tid : Nat) (p : Park) : State :=
  retire (s.advance tid p.len) tid .sync [] (s.task tid).r.pc

def waitHalt (p : Park) (c : Code) (d : Word) : Halt := { code := c, detail := d, len := p.len, insn := p.insn }

/-- What an instruction that asked other clusters does with the reply, or with what all replies have found (R299-R306). -/
def replyBody (tid : Nat) (p : Park) (m : FutMsg) (found : List (Word × View)) (s : State) : M State :=
  match p.what with
  | .touch rd trap => do
    if m.view.out = 4 then mayPark s tid
    touchDone s tid rd.toNat trap m.view
  | .touchp rd => touchpDone s tid rd.toNat m.view
  | .fstat rd => outcomeDone s tid rd.toNat m (w64 (m.ret.toNat % 8))
  | .outcome rd => outcomeDone s tid rd.toNat m (w64 (m.ret.toNat % 256))
  | .wany rd hs => wanyBody tid rd hs found s
  | _ => .ok s

/-- A parking touch's reply was PENDING: the task parks, its cluster linking it to the future (R289, R299). -/
def replyPark (s : State) (tid : Nat) (p : Park) (m : FutMsg) : State :=
  let s := s.modCluster m.cl fun c => { c with remoteWaits := c.remoteWaits ++ [(m.h, tid)] }
  parkTask (s.modTask tid fun t => { t with ask := none }) tid p

/-- Whether a reply tells a parking touch to park. -/
def replyParks (p : Park) (m : FutMsg) : Bool :=
  match p.what with
  | .touch _ _ => decide (m.view.out = 4)
  | _ => false

/-- WANY waits for the replies of all the futures it has asked about. -/
def repliesDue (p : Park) (found : List (Word × View)) : Bool :=
  match p.what with
  | .wany _ _ => !(p.hs.all fun h => found.any fun e => e.1 == h)
  | _ => false

/-- The reply reaches the thread that asked; its port sources are taken as it completes (R44). Nothing happens where the
completion must wait; where nobody waits any more, a PENDING future records the cluster no longer (R290). -/
def answerThread (s : State) (m : FutMsg) : State × Bool :=
  let tid := m.tid
  let dropped := if m.view.out = 4 && isLocal s m.h then unrecord s m.cl m.h else s
  match (s.task tid).ask with
  | none => (dropped, true)
  | some p =>
    let found := (s.task tid).found ++ [(m.h, m.view)]
    let done := s.modTask tid fun t => { t with ask := none, found := [] }
    if !liveTask s tid || !p.hs.contains m.h then (dropped, true)
    else if repliesDue p found then (s.modTask tid fun t => { t with found := found }, true)
    else if replyParks p m && !cannotPark s tid then (replyPark s tid p m, true)
    else
      match replyBody tid p m found (popAll (inTurn done tid p) tid p.pops) with
      | .ok s' => (finishWait s' tid p, true)
      | .error (.trap c d) =>
        (haltTask (done.modTask tid fun t => { t with peerCode := m.view.code }) tid (waitHalt p c d), true)
      | .error (.wait _ _) => (s, false)
      | .error (.gone f) => ((f done).endTurn, true)

/-! ## Messages between clusters (R288, R384, R411) -/

/-- The result that the record holds of an operation; none for those it does not record (R410). -/
def opResult (m : FutMsg) : Option Word :=
  match m.op with
  | .touchp => some (w64 m.view.out.toNat)
  | .fstat => some (w64 (m.ret.toNat % 8))
  | .resolve _ => some (w64 (m.ret.toNat % 256))
  | .fpois _ => some (w64 (m.ret.toNat % 256))
  | .cancel => some (w64 (m.ret.toNat % 256))
  | _ => none

/-- Whether a thread's replay lets an operation have this result now: another recorded result is waited for (R411). -/
def opAllowed (s : State) (m : FutMsg) : Bool :=
  let t := s.task m.tid
  match opResult m with
  | none => true
  | some v =>
    recMode s t.launch != 2 || m.view.out == 5 ||
    match replayAt s (dieOfCore t.core) t.launch 3 t.ordinal t.ident with
    | some w => w == v
    | none => true

/-- A cluster under remap answers with RETRY. -/
def clusterMoving (s : State) (cl : Nat) : Bool := s.net.remaps.any fun r => !r.isCore && r.unit == cl

def isFrel : FOp → Bool
  | .frel => true
  | _ => false

/-- FUTURE_REQUEST: an operation is performed at its entry, and its reply leaves. -/
def execFutureRequest (i : Nat) (s : State) : Res :=
  .next (match s.net.futReqs[i]? with
    | none => s
    | some m =>
      if m.retry then s
      else if clusterMoving s (hCl m.h) then
        s.modNet fun n => { n with futReqs := lset n.futReqs i { m with retry := true } }
      else
        let (m', s') := fopAt s (hCl m.h) m
        if !opAllowed s m' then s
        else s'.modNet fun n =>
          { n with futReqs := ldel n.futReqs i, futReps := if isFrel m.op then n.futReps else n.futReps ++ [m'] })

/-- FUTURE_REPLY: the reply reaches the thread. -/
def execFutureReply (i : Nat) (s : State) : Res :=
  .next (match s.net.futReps[i]? with
    | none => s
    | some m =>
      if unitSilent s (s.task m.tid).core then s
      else
        match answerThread (s.modNet fun n => { n with futReps := ldel n.futReps i }) m with
        | (s', true) => s'
        | (_, false) => s)

/-! ## Wakes (R289) -/

/-- What a future was found to be, as the words of a message between packages hold it (log 24). -/
def packView (v : View) : Word := w64 (v.flags.toNat * 2^16 + v.code.toNat * 2^8 + v.out.toNat)

/-- WAKE_MESSAGE: a cluster, or from 1024 on another package, learns of a transition and links its own waiters to be woken, after any
reply that has yet to link one. -/
def execWakeMessage (i : Nat) (s : State) : Res :=
  .next (match s.net.wakeMsgs[i]? with
    | none => s
    | some m =>
      if m.cl ≥ 1024 then
        peerSend (s.modNet fun n => { n with wakeMsgs := ldel n.wakeMsgs i }) (m.cl - 1024) 7 [m.h, packView m.view, m.view.value]
      else if clusterMoving s m.cl || s.net.futReps.any (fun r => r.cl == m.cl && r.h == m.h && r.view.out == 4) then s
      else
        let mine := (s.cluster m.cl).remoteWaits.filter fun w => w.1 = m.h
        let s := s.modCluster m.cl fun c =>
          ({ c with remoteWaits := c.remoteWaits.filter fun w => w.1 ≠ m.h } : Cluster).addWakes s.cycle
            (mine.map fun w => { tid := w.2, h := m.h, view := m.view })
        s.modNet fun n => { n with wakeMsgs := ldel n.wakeMsgs i })

/-- The parked instruction completes in the woken task's frame (R299, R300, R326). The spec gives BARW no POISONED case;
it completes as a TOUCH of that future does (log 31). -/
def wakeBody (tid : Nat) (p : Park) (h : Word) (v : View) (s : State) : M State :=
  match p.what with
  | .touch rd trap => touchDone s tid rd.toNat trap v
  | .wany rd hs => wanyDone s tid rd.toNat hs h v
  | .barw rd d =>
    if v.out = 0 then writeReg (s.setFsts tid 0 0) tid rd.toNat (barReg d (v.value.toNat % 2^16))
    else touchDone s tid rd.toNat false v
  | _ => .ok s

/-- The task goes on: its waiters are withdrawn and it is READY, or goes on in the slot it was leaving; none while its
core's deque has no room for it. -/
def wakeUp (s : State) (tid : Nat) (pend : Option Halt) : Option State :=
  makeReady ((withdraw s tid).modTask tid fun t => { t with park := none, pend := pend }) tid

/-- What a wake makes of a parked task, given a change to it and the fault it takes when it next runs (R299). A wake that
cannot be performed yet changes nothing. -/
def wakeWith (s s' : State) (tid : Nat) (pend : Option Halt) : State × Bool :=
  match wakeUp s' tid pend with
  | some t => (t, true)
  | none => (s, false)

/-- A wake reaches a task: the state after, and whether it is done. One of a halted task is held (R312). A page's waiter
executes its instruction again, faulting with PAGE_LOST where the page was lost (R372). -/
def wakeTask (s : State) (w : Wake) : State × Bool :=
  let tid := w.tid
  match (s.task tid).park with
  | none => (s, true)
  | some p =>
    if !liveTask s tid || !p.hs.contains w.h then (s, true)
    else if (s.task tid).halt.isSome then (s, false)
    else
      match p.what with
      | .page va => wakeWith s s tid (if w.view.out = 0 then none else some (waitHalt p PAGE_LOST (w64 va)))
      | _ =>
        match wakeBody tid p w.h w.view (popAll (inTurn s tid p) tid p.pops) with
        | .ok s' => wakeWith s (finishWait s' tid p) tid none
        | .error (.trap c d) =>
          wakeWith s (s.modTask tid fun t => { t with peerCode := w.view.code }) tid (some (waitHalt p c d))
        | .error (.wait _ _) => (s, false)
        | .error (.gone f) => ((f s).endTurn, true)

/-- WAITER_WAKE: one waiter of a cluster in a cycle, in order; one that must wait goes behind the others. -/
def execWaiterWake (cl : Nat) (s : State) : Res :=
  .next (match (s.cluster cl).wakes with
    | [] => s
    | w :: r =>
      if clusterMoving s cl || decide (s.cycle < (s.cluster cl).wakeAt) then s
      else
        match wakeTask (s.modCluster cl fun c => { c with wakes := r, wakeAt := s.cycle + 1 }) w with
        | (s', true) => s'
        | (s', false) => s'.modCluster cl fun c => { c with wakes := c.wakes ++ [w] })

end Sys2Proof.Machine
end

