-- ==== Sys2Proof/Machine/EvMatrix.lean ====
section
/-! DEFINITION. Events of the matrix engine: its jobs, MXSUBC commands and block swaps (spec/07 R148-R167, R173, R174). -/

namespace Sys2Proof.Machine

/-! ## Which job runs (R149, R163) -/

/-- A job whose launch time has not come. -/
def Job.held (s : State) (cl : Nat) (j : Job) : Bool := j.time != 0 && (s.time (dieOfCl cl)).ult j.time

/-- A job whose preamble of 12 cycles need not begin yet for its first pass to begin in time (R147, R163). -/
def Job.early (s : State) (cl : Nat) (j : Job) : Bool := j.held { s with cycle := s.cycle + 12 } cl

/-- The oldest job that waits behind no job of its tile and is not held, its preamble included: from then on the array is kept for
it. -/
def firstJob (s : State) (cl : Nat) (seen : List Nat) : List Job → Option Job
  | [] => none
  | j :: r =>
    if !j.early s cl && !seen.contains (mxTile j.w0) then some j else firstJob s cl (mxTile j.w0 :: seen) r

/-- The running job, or the one that starts next. -/
def mxNext (s : State) (cl : Nat) : Option Job :=
  let js := (s.cluster cl).jobs
  match js.find? (·.running) with
  | some j => some j
  | none => firstJob s cl [] js

def State.modJob (s : State) (cl id : Nat) (f : Job → Job) : State :=
  s.modCluster cl fun c => { c with jobs := c.jobs.map fun j => if j.id = id then f j else j }

/-- The array may begin a job's first pass: a timed one's preamble takes 12 cycles from when the job is accepted and the array
free (R147, R163; log 2). -/
def Job.primed (s : State) (cl : Nat) (j : Job) : Bool :=
  j.time == 0 || decide (s.cycle ≥ max j.acc (s.cluster cl).mxFree + 12)

/-- The cores whose scratchpads a job reads. -/
def Job.reads (cl : Nat) (j : Job) : List Nat :=
  let core (p : Word) : List Nat := match winCore cl (vaOf p) with
    | .ok k => [k]
    | .error _ => []
  match mxOp j.w0 with
  | 0 => core j.w1 ++ core j.w2
  | 1 => core j.w1
  | _ => []

/-- Whether a job that has not completed has written a scratchpad that this one would read: it starts once that has (R162). -/
def mustFollow (s : State) (cl : Nat) (j : Job) : Bool :=
  s.clusters.any fun e => e.2.jobs.any fun x =>
    mxOp x.w0 == 2 && decide (x.wrote > 0) && match winCore e.1 (vaOf x.w1) with
      | .ok k => (j.reads cl).contains k
      | .error _ => false

/-- Whether another job that has started is still to read a core's scratchpad: a STORE to it writes once it has (R162). -/
def mustLead (s : State) (cl : Nat) (j : Job) : Bool :=
  match winCore cl (vaOf j.w1) with
  | .ok k => s.clusters.any fun e => e.2.jobs.any fun x => x.id != j.id && x.running && x.result.isNone && (x.reads e.1).contains k
  | .error _ => false

/-- Whether a job may start now. -/
def mayStart (s : State) (cl : Nat) (j : Job) : Bool := j.running || (j.primed s cl && !j.held s cl && !mustFollow s cl j && !clusterMoving s cl)

/-- A job starts: a timed one is late when the cycle before had reached its time (R163). -/
def startJob (s : State) (cl : Nat) (j : Job) : State :=
  if j.running then s
  else s.modJob cl j.id fun j => { j with running := true, late := j.time != 0 && !(s.timeBefore (dieOfCl cl)).ult j.time }

/-- The completion element (R161). -/
def jobElem (j : Job) (status : Nat) (fl : Flags) : Word :=
  w64 (status * 2^56 + (if status = 0 then fl.toNat else 0) * 2^50 + mxTile j.w0 * 2^46 + mxOp j.w0 * 2^42 +
       (if j.late then 2^41 else 0) + bits j.w3 31 0)

/-- A job's work is over, with its status and flags. -/
def jobOver (s : State) (cl : Nat) (id status : Nat) (fl : Flags) : State :=
  s.modJob cl id fun j => { j with result := some (jobElem j status fl) }

/-! ## Operand bytes (R151, R154, R158, R159) -/

/-- Bytes and, byte by byte, whether they come from a poisoned word. -/
abbrev Bytes := List Byte × List Bool

/-- [va, va + n) cut at 128-byte boundaries, with fuel. -/
def linePieces : Nat → Nat → Nat → List (Nat × Nat)
  | 0, _, _ => []
  | f + 1, va, n =>
    if n = 0 then []
    else
      let m := min n (128 - va % 128)
      (va, m) :: linePieces f ((va + m) % 2^52) (n - m)

/-- An engine's reads made together: the first that waits or fails decides; otherwise every one is made. -/
def gather (s : State) (cl ctx : Nat) (l : Option Nat) (who : Nat) (segs : List (Nat × Nat)) : Eng (List Bytes) :=
  let cut (g : Nat × Nat) : List (Nat × Nat) := linePieces (g.2 / 128 + 2) g.1 g.2
  let get (p : Nat × Nat) : Eng Bytes := engRead s cl ctx p.1 p.2 l who
  let stop := (segs.flatMap cut).findSome? fun p => match get p with
    | .ok _ _ => none
    | .wait s c => some (Eng.wait s c)
    | .bad c => some (Eng.bad c)
  match stop with
  | some x => x
  | none =>
    let val (p : Nat × Nat) : Bytes := match get p with
      | .ok b _ => b
      | _ => ([], [])
    let join (g : Nat × Nat) : Bytes := ((cut g).flatMap fun p => (val p).1, (cut g).flatMap fun p => (val p).2)
    let s' := (segs.flatMap cut).foldl (fun s p => match engRead s cl ctx p.1 p.2 l who with
      | .ok _ s => s
      | _ => s) s
    .ok (segs.map join) s'

/-- R154: the code of a window extent that the job's context may not reach. -/
def spanBad (s : State) (cl ctx va n : Nat) : Option Code :=
  match winCore cl va with
  | .error c => some c
  | .ok k =>
    if (s.core k).dead then some DEAD
    else match partOf (s.core k) ctx with
      | none => some WIN_DENIED
      | some p => if va % 2^19 + n > p.size then some SP_RANGE else none

/-- The rows of an operand: their starts and byte lengths. -/
def rowSegs (va pitch rows n : Nat) : List (Nat × Nat) := (List.range rows).map fun i => ((va + i * pitch) % 2^52, n)

/-- Bytes from an operand's first to its last. -/
def spanOf (pitch rows n : Nat) : Nat := (rows - 1) * (if rows ≤ 1 then 0 else pitch) + n

/-- An MMA operand: its pointer, rows, pitch and layout. -/
structure Opnd where
  p : Word
  rows : Nat
  pitch : Nat
  k : Nat
  split : Bool
  deriving DecidableEq, Repr

def Opnd.code (o : Opnd) : Nat := ptrFmt o.p
def Opnd.blk (o : Opnd) : Nat := blockLen o.code (ptrL o.p)
def Opnd.rowLen (o : Opnd) : Nat := rowBytes o.code (ptrL o.p) o.k o.split

/-- The rows of an operand, the scale rows of a split one, and its SEQ. -/
structure Rows where
  data : List Bytes
  scales : List Bytes := []
  /-- A word of a header is poisoned, on which every element depends (R167). -/
  bad : Bool := false
  deriving DecidableEq, Repr

/-- R159: what is wrong with a split operand's headers. The scale tile lies past the data tile's whole span, the gaps between
its rows with it (DESIGN CHOICE, log 41). -/
def headerBad (o : Opnd) (dh sh : List Byte) (soff : Nat) : Option Code :=
  if soff % 16 != 0 || (dh.drop 8).any (· != 0) || soff < 16 + spanOf o.pitch o.rows o.rowLen || (sh.drop 4).any (· != 0)
  then some MX_DESC
  else if dh.take 4 != sh.take 4 then some SCALE_SEQ
  else none

/-- An operand's bytes, every check of R154 made first. -/
def readOpnd (s : State) (cl : Nat) (j : Job) (o : Opnd) : Eng Rows :=
  let va := vaOf o.p
  if !o.split then
    match spanBad s cl j.ctx va (spanOf o.pitch o.rows o.rowLen) with
    | some c => .bad c
    | none => (gather s cl j.ctx j.launch j.id (rowSegs va o.pitch o.rows o.rowLen)).bind fun d s => .ok { data := d } s
  else
    match spanBad s cl j.ctx va (16 + spanOf o.pitch o.rows o.rowLen) with
    | some c => .bad c
    | none =>
      (gather s cl j.ctx j.launch j.id [(va, 16)]).bind fun h s =>
        let dh := (h.headD ([], [])).1
        let soff := leVal ((dh.drop 4).take 4)
        let n := (o.k + o.blk - 1) / o.blk
        match spanBad s cl j.ctx va (soff + 16 + o.rows * n) with
        | some c => .bad c
        | none =>
          (gather s cl j.ctx j.launch j.id [((va + soff) % 2^52, 16)]).bind fun h2 s =>
            match headerBad o dh (h2.headD ([], [])).1 soff with
            | some c => .bad c
            | none =>
              (gather s cl j.ctx j.launch j.id (rowSegs ((va + 16) % 2^52) o.pitch o.rows o.rowLen)).bind fun d s =>
                (gather s cl j.ctx j.launch j.id (rowSegs ((va + soff + 16) % 2^52) n o.rows n)).bind fun c s =>
                  .ok { data := d, scales := c, bad := (h ++ h2).any fun b => b.2.any id } s

/-! ## Elements (R68-R70, R86) -/

/-- Bits of a row from bit `o` on. -/
def rowBits (row : List Byte) (o n : Nat) : Nat :=
  leVal ((row.drop (o / 8)).take ((o % 8 + n + 7) / 8)) / 2^(o % 8) % 2^n

def rowBad (bad : List Bool) (o n : Nat) : Bool := ((bad.drop (o / 8)).take ((o % 8 + n + 7) / 8)).any id

/-- Element k of a row: its code bits, its scale, and whether either is poisoned. -/
def rowElem (code l : Nat) (split : Bool) (row sc : Bytes) (k : Nat) : Nat × Nat × Bool :=
  let w := elemBits code
  let n := blockLen code l
  if !isScaled code then (rowBits row.1 (k * w) w, 0, rowBad row.2 (k * w) w)
  else if split then
    (rowBits row.1 (k * w) w, rowBits sc.1 (8 * (k / n)) 8, rowBad row.2 (k * w) w || rowBad sc.2 (8 * (k / n)) 8)
  else
    let b := 8 * (k / n * recordSize code l)
    (rowBits row.1 (b + 8 + k % n * w) w, rowBits row.1 b 8, rowBad row.2 (b + 8 + k % n * w) w || rowBad row.2 b 8)

/-- The exact value of an element's bits. -/
def elemVal (code x scale : Nat) : FVal :=
  if isScaled code then deqElem code scale x
  else if code ≤ 2 then ival (toSigned (elemBits code) x)
  else fval (codeFmt code) x

/-- The elements of an operand's rows: bits, scale, poison. -/
def Opnd.elems (o : Opnd) (r : Rows) : List (List (Nat × Nat × Bool)) :=
  (List.range o.rows).map fun i =>
    (List.range o.k).map fun k =>
      let (x, sc, bad) := rowElem o.code (ptrL o.p) o.split (r.data.getD i ([], [])) (r.scales.getD i ([], [])) k
      (x, sc, bad || r.bad)

/-! ## MMA (R155) -/

/-- The state of a run's sum. -/
structure Sum where
  nan : Bool := false
  inv : Bool := false
  pinf : Bool := false
  ninf : Bool := false
  s : FVal := .num false 0 0
  deriving DecidableEq, Repr

def sumTerm (x : Sum) (a b : FVal) : Sum :=
  if a.isNan || b.isNan then { x with nan := true, inv := x.inv || a.isSNan || b.isSNan }
  else match xmul a b with
    | (.nan _, _) => { x with nan := true, inv := true }
    | (.inf true, _) => { x with ninf := true }
    | (.inf false, _) => { x with pinf := true }
    | (.num n m e, _) => match x.s with
      | .num n' m' e' => { x with s := exactAdd n' m' e' n m e 1 }
      | _ => x

/-- RunSum: 32 products summed exactly and rounded once. -/
def runSum (ps : List (FVal × FVal)) : BitVec 32 × Flags :=
  let x := ps.foldl (fun x p => sumTerm x p.1 p.2) {}
  let inv := x.inv || (x.pinf && x.ninf)
  let fl : Flags := if inv then NV else 0
  if x.nan || (x.pinf && x.ninf) then (BitVec.ofNat 32 FP32.nan, fl)
  else if x.pinf then (0x7F800000, fl)
  else if x.ninf then (0xFF800000, fl)
  else if x.s.isZero then (0, fl)
  else
    let (v, f) := fround FP32 x.s 1 0
    (BitVec.ofNat 32 v, fl ||| f)

/-- AccAdd: FADD.s under RNE. -/
def accAdd (a b : BitVec 32) : BitVec 32 × Flags :=
  let x := xadd (fval FP32 a.toNat) (fval FP32 b.toNat) 1
  let (v, f) := fround FP32 x.1 1 0
  (BitVec.ofNat 32 v, x.2 ||| f)

/-- The runs of one floating position, in order. -/
def accRuns (acc : BitVec 32) (fl : Flags) (ps : List (FVal × FVal)) : Nat → BitVec 32 × Flags
  | 0 => (acc, fl)
  | n + 1 =>
    let (s, f) := runSum (ps.take 32)
    let (a, g) := accAdd acc s
    accRuns a (fl ||| f ||| g) (ps.drop 32) n

/-- The products of one integer position, added modulo 2^32. -/
def intSum (acc : BitVec 32) (ps : List (Int × Int)) : BitVec 32 := ps.foldl (fun a p => a + BitVec.ofInt 32 (p.1 * p.2)) acc

/-- A tile element and whether it is poisoned. -/
def Tile.el (t : Tile) (i j : Nat) : BitVec 32 := mget 0 t.e (128 * i + j)
def Tile.isBad (t : Tile) (i j : Nat) : Bool := mget false t.bad (128 * i + j)

def Tile.put (t : Tile) (i j : Nat) (v : BitVec 32) (bad : Bool) : Tile :=
  { t with e := mput 0 t.e (128 * i + j) v, bad := mput false t.bad (128 * i + j) bad }

/-- The positions of a job's region, row by row: (i′, j′). -/
def region2 (w0 : Word) : List (Nat × Nat) := (List.range (mxM w0)).flatMap fun i => (List.range (mxN w0)).map fun j => (i, j)

/-- A tile after a position's work, with the flags and whether an element came out poisoned. -/
abbrev TAcc := Tile × Flags × Bool

def mmaAt (w0 w1 w2 : Word) (as bs : List (List (Nat × Nat × Bool))) (x : TAcc) (p : Nat × Nat) : TAcc :=
  let (t, fl, bad) := x
  let i := mxRow0 w0 + p.1
  let j := mxCol0 w0 + p.2
  let ps := (as.getD p.1 []).zip (bs.getD p.2 [])
  let acc := if mxZacc w0 then 0 else t.el i j
  let hit := (ps.any fun q => q.1.2.2 || q.2.2.2)
  let isBad := hit || (!mxZacc w0 && t.isBad i j)
  if t.ty then
    let v := intSum acc (ps.map fun q =>
      (toSigned (elemBits (ptrFmt w1)) q.1.1, toSigned (elemBits (ptrFmt w2)) q.2.1))
    (t.put i j v isBad, fl, bad || isBad)
  else
    let qs := ps.map fun q => (elemVal (ptrFmt w1) q.1.1 q.1.2.1, elemVal (ptrFmt w2) q.2.1 q.2.2.1)
    let (v, f) := accRuns acc 0 qs (mxK w0 / 32)
    (t.put i j v isBad, fl ||| f, bad || isBad)

/-- The tile's new contents, and the status: DATA_POISON when an element came out poisoned (R167). -/
def tileOver (s : State) (cl : Nat) (j : Job) (x : TAcc) : State :=
  jobOver (s.setTile cl (mxTile j.w0) x.1) cl j.id (if x.2.2 then DATA_POISON.toNat else 0) x.2.1

/-- A job's step: it starts, and its work is done, waits or ends with a code. A remap of its cluster lets a running job
complete (R167, R383). A job whose descriptor does not suit its
tile's TYPE when it starts ends with MX_DESC (log 30). -/
def runJob (cl j op : Nat) (work : State → Job → Eng State) (s : State) : State :=
  match mxNext s cl with
  | none => s
  | some x =>
    if x.id ≠ j || mxOp x.w0 ≠ op || x.result.isSome || !mayStart s cl x then s
    else
      let s := startJob s cl x
      let y := ((s.cluster cl).jobs.find? fun y => y.id = j).getD x
      if !mxDescOk (s.tile cl (mxTile y.w0)).ty y.w0 y.w1 y.w2 y.w3 then jobOver s cl j MX_DESC.toNat 0
      else match work s y with
        | .ok s _ => s.modJob cl j fun y => { y with why := none }
        | .wait s c => s.modJob cl j fun y => { y with why := some c }
        | .bad c => jobOver s cl j c.toNat 0

/-- An MMA: every check of A is made before any of B (DESIGN CHOICE, log 41). -/
def mmaWork (cl : Nat) (s : State) (j : Job) : Eng State :=
  let a : Opnd := { p := j.w1, rows := mxM j.w0, pitch := bits j.w3 63 48, k := mxK j.w0, split := mxSplitA j.w0 }
  let b : Opnd := { p := j.w2, rows := mxN j.w0, pitch := bits j.w3 47 32, k := mxK j.w0, split := mxSplitB j.w0 }
  (readOpnd s cl j a).bind fun ra s => (readOpnd s cl j b).bind fun rb s =>
    let t := s.tile cl (mxTile j.w0)
    .ok (tileOver s cl j ((region2 j.w0).foldl (mmaAt j.w0 j.w1 j.w2 (a.elems ra) (b.elems rb)) (t, 0, false))) s

def execMxeMma (cl j : Nat) (s : State) : Res := .next (runJob cl j 0 (mmaWork cl) s)

/-! ## LOAD and ZERO (R156, R157) -/

/-- The tile, flags, poison and generator as a LOAD goes on. -/
abbrev LAcc := TAcc × BitVec 32

def loadAt (j : Job) (rows : List Bytes) (x : LAcc) (p : Nat × Nat) : LAcc :=
  let ((t, fl, bad), seed) := x
  let code := ptrFmt j.w1
  let (b, sc, hit) := rowElem code (ptrL j.w1) false (rows.getD p.1 ([], [])) ([], []) p.2
  let i := mxRow0 j.w0 + p.1
  let k := mxCol0 j.w0 + p.2
  if code = 0 then ((t.put i k (BitVec.ofNat 32 b) hit, fl, bad || hit), seed)
  else if t.ty then ((t.put i k (BitVec.ofInt 32 (toSigned (elemBits code) b)) hit, fl, bad || hit), seed)
  else
    let (seed, r) := srDraw j.rm.toNat seed
    let (v, f) := fround FP32 (elemVal code b sc) j.rm.toNat r
    ((t.put i k (BitVec.ofNat 32 v) hit, fl ||| f, bad || hit), seed)

def loadWork (cl : Nat) (s : State) (j : Job) : Eng State :=
  let o : Opnd := { p := j.w1, rows := mxM j.w0, pitch := bits j.w3 63 48, k := mxN j.w0, split := false }
  (readOpnd s cl j o).bind fun r s =>
    let t := s.tile cl (mxTile j.w0)
    .ok (tileOver s cl j ((region2 j.w0).foldl (loadAt j r.data) ((t, 0, false), j.rng)).1) s

def execMxeLoad (cl j : Nat) (s : State) : Res := .next (runJob cl j 1 (loadWork cl) s)

def zeroWork (cl : Nat) (s : State) (j : Job) : Eng State :=
  let t := s.tile cl (mxTile j.w0)
  let t := (region2 j.w0).foldl (fun t p => t.put (mxRow0 j.w0 + p.1) (mxCol0 j.w0 + p.2) 0 false) t
  .ok (jobOver (s.setTile cl (mxTile j.w0) t) cl j.id 0 0) s

def execMxeZero (cl j : Nat) (s : State) : Res := .next (runJob cl j 3 (zeroWork cl) s)

/-! ## STORE (R156, R157) -/

/-- One element of a STORE under an unscaled code: its bits, flags and the generator after it. -/
def storeElem (j : Job) (int : Bool) (v : BitVec 32) (seed : BitVec 32) : Nat × Flags × BitVec 32 :=
  let code := ptrFmt j.w1
  let rm := j.rm.toNat
  if code = 0 then (v.toNat, 0, seed)
  else if int then
    let w := elemBits code
    let x : Int := if rm = 1 then sat v.toInt (intLo w true) (intHi w true) else v.toInt
    ((BitVec.ofInt w x).toNat, 0, seed)
  else
    let (seed, r) := srDraw rm seed
    if code ≤ 2 then
      let w := elemBits code
      let (x, f) := cvtInt (fval FP32 v.toNat) w true rm r
      ((BitVec.ofInt w x).toNat, f, seed)
    else
      let (x, f) := fround (codeFmt code) (fval FP32 v.toNat) rm r
      (x, f, seed)

/-- Codes, flags and generator of a row's elements in order. -/
def storeElems (j : Job) (int : Bool) : List (BitVec 32) → Flags → BitVec 32 → List Nat × Flags × BitVec 32
  | [], fl, seed => ([], fl, seed)
  | v :: r, fl, seed =>
    let (x, f, seed) := storeElem j int v seed
    let (xs, fl, seed) := storeElems j int r (fl ||| f) seed
    (x :: xs, fl, seed)

/-- The records of a row under a scaled code, block by block, with fuel. -/
def storeBlocks (code l : Nat) (rm : Nat) : Nat → List (BitVec 32) → Flags → BitVec 32 → List Byte × Flags × BitVec 32
  | 0, _, fl, seed => ([], fl, seed)
  | n + 1, vs, fl, seed =>
    let m := blockLen code l
    let (sc, q) := quantBlock code ((vs.take m).map fun v => fval FP32 v.toNat) rm seed
    let rec1 := toBytes (recordSize code l) (sc + 256 * packBits (elemBits code) q.codes)
    let (bs, fl, seed) := storeBlocks code l rm n (vs.drop m) (fl ||| q.flags) q.seed
    (rec1 ++ bs, fl, seed)

/-- A row's bytes, flags and generator. -/
def storeRow (j : Job) (t : Tile) (i : Nat) (fl : Flags) (seed : BitVec 32) : List Byte × Flags × BitVec 32 :=
  let code := ptrFmt j.w1
  let vs := (List.range (mxN j.w0)).map fun c => t.el (mxRow0 j.w0 + i) (mxCol0 j.w0 + c)
  if isScaled code then
    storeBlocks code (ptrL j.w1) j.rm.toNat (mxN j.w0 / blockLen code (ptrL j.w1)) vs fl seed
  else
    let (xs, fl, seed) := storeElems j t.ty vs fl seed
    (toBytes ((mxN j.w0 * elemBits code + 7) / 8) (packBits (elemBits code) xs), fl, seed)

/-- The bytes of a row that a poisoned element reaches. -/
def storeBad (j : Job) (t : Tile) (i : Nat) : List Bool :=
  let code := ptrFmt j.w1
  let w := elemBits code
  let m := blockLen code (ptrL j.w1)
  let hit (c : Nat) : Bool := decide (c < mxN j.w0) && t.isBad (mxRow0 j.w0 + i) (mxCol0 j.w0 + c)
  (List.range (rowBytes code (ptrL j.w1) (mxN j.w0) false)).map fun b =>
    if isScaled code then
      let q := b / recordSize code (ptrL j.w1)
      (List.range m).any fun c => hit (q * m + c)
    else if w < 8 then hit (2 * b) || hit (2 * b + 1)
    else hit (b * 8 / w)

/-- A row's writes, none across an 8-byte boundary: address, bytes, poison, and whether its one byte keeps its upper
nibble. -/
def storePieces (half : Bool) : Nat → Nat → List Byte → List Bool → List (Nat × List Byte × List Bool × Bool)
  | 0, _, _, _ => []
  | f + 1, va, bs, bad =>
    if bs.isEmpty then []
    else if half && bs.length = 1 then [(va, bs, bad, true)]
    else
      let n := min (bs.length - (if half then 1 else 0)) (8 - va % 8)
      (va, bs.take n, bad.take n, false) :: storePieces half f ((va + n) % 2^52) (bs.drop n) (bad.drop n)

/-- Every write of a STORE in order, and its flags. -/
def storeWrites (j : Job) (t : Tile) : Nat → Nat → Flags → BitVec 32 → List (Nat × List Byte × List Bool × Bool) × Flags
  | 0, _, fl, _ => ([], fl)
  | n + 1, i, fl, seed =>
    let (bs, fl, seed) := storeRow j t i fl seed
    let half := ptrFmt j.w1 == 2 && mxN j.w0 % 2 == 1
    let here := storePieces half (bs.length + 1) ((vaOf j.w1 + i * bits j.w3 63 48) % 2^52) bs (storeBad j t i)
    let (ws, fl) := storeWrites j t n (i + 1) fl seed
    (here ++ ws, fl)

/-- One write of a STORE. -/
def storeOne (s : State) (cl : Nat) (j : Job) (w : Nat × List Byte × List Bool × Bool) : Eng Unit :=
  let (va, bs, bad, half) := w
  if !half then engWrite s cl j.ctx va j.launch j.id 2 bs bad
  else
    (engRead s cl j.ctx va 1 j.launch j.id).bind fun b s =>
      let old := (b.1.headD 0).toNat
      engWrite s cl j.ctx va j.launch j.id 2 [BitVec.ofNat 8 (old / 16 * 16 + (bs.headD 0).toNat % 16)] bad

/-- The writes still to make, each counted once it has performed. -/
def storeAll (cl : Nat) (j : Job) (fl : Flags) : List (Nat × List Byte × List Bool × Bool) → State → Eng State
  | [], s => .ok (jobOver s cl j.id 0 fl) s
  | w :: r, s =>
    match storeOne s cl j w with
    | .ok _ s => storeAll cl j fl r (s.modJob cl j.id fun j => { j with wrote := j.wrote + 1 })
    | .wait s c => .wait s c
    | .bad c => .ok (jobOver s cl j.id c.toNat 0) s

def storeWork (cl : Nat) (s : State) (j : Job) : Eng State :=
  let n := rowBytes (ptrFmt j.w1) (ptrL j.w1) (mxN j.w0) false
  match spanBad s cl j.ctx (vaOf j.w1) (spanOf (bits j.w3 63 48) (mxM j.w0) n) with
  | some c => .bad c
  | none =>
    let (ws, fl) := storeWrites j (s.tile cl (mxTile j.w0)) (mxM j.w0) 0 0 j.rng
    if mustLead s cl j then .wait s .port else storeAll cl j fl (ws.drop j.wrote) s

def execMxeStore (cl j : Nat) (s : State) : Res := .next (runJob cl j 2 (storeWork cl) s)

/-! ## Completion (R161, R227) -/

/-- The element goes to the job's future, or to its thread's queue if it lives. -/
def postElem (s : State) (j : Job) (e : Word) : State :=
  match j.sink with
  | .fut h => if bits e 63 56 = 0 then resolveH s h e (elemFlags e) else poisonH s h (BitVec.ofNat 8 (bits e 63 56))
  | .ep t => if liveTask s t then s.modTask t fun x => { x with mxDone := x.mxDone ++ [e] } else s
  | _ => s

def execMxeJobComplete (cl j : Nat) (s : State) : Res :=
  .next (match (s.cluster cl).jobs.find? fun x => x.id = j with
    | none => s
    | some x => match x.result with
      | none => s
      | some e =>
        if engPending s cl j then s
        else postElem (s.modCluster cl fun c => { c with jobs := c.jobs.filter (fun y => y.id ≠ j), mxFree := s.cycle }) x e)

/-! ## MXSUBC at its target (R165, R376, R377) -/

/-- Whether a capability's checks pass. -/
def capOk (s : State) (c w0 : Word) : Bool :=
  decide (bits c 6 0 < 112) && bits c 63 40 == capMac s c &&
  (match mfind s.ctxs (bits c 35 30) with
    | some x => bits c 39 36 == x.capep.toNat
    | none => false) &&
  bits c (10 + mxTile w0) (10 + mxTile w0) == 1 && mxOp w0 ≤ 3 && bits c (26 + mxOp w0) (26 + mxOp w0) == 1

/-- A command is turned away: its future is poisoned, and a denial is counted for the sending context. -/
def capRefuse (s : State) (j : Job) (c : Code) : State :=
  let s := match j.sink with
    | .fut h => poisonH s h c
    | _ => s
  if c = CAP_DENIED then s.modCtx j.ctx fun x => { x with capden := x.capden + 1 } else s

/-- What the target does with a command; none while its queue has no room for an accepted job. -/
def capServe (s : State) (m : CapMsg) : Option State :=
  let cl := capCl m.cap
  let ctx := bits m.cap 35 30
  if !capOk s m.cap m.job.w0 then some (capRefuse s m.job CAP_DENIED)
  else if (s.tile cl (mxTile m.job.w0)).owner ≠ some ctx then some (capRefuse s m.job MX_TILE)
  else if jobsOf s cl ctx ≥ 4 * tilesOwned s cl ctx then some (capRefuse s m.job MX_QUOTA)
  else if !mxRoom s cl ctx || !mxTurn s cl m.job.launch 0 then none
  else some (mxAccept s cl { m.job with ctx := ctx } 0)

def execMxsubcCommand (i : Nat) (s : State) : Res :=
  .next (match s.net.caps[i]? with
    | none => s
    | some m =>
      if m.retry then s
      else if clusterMoving s (capCl m.cap) then s.modNet fun n => { n with caps := lset n.caps i { m with retry := true } }
      else
        match capServe (s.modNet fun n => { n with caps := ldel n.caps i }) m with
        | some s' => s'
        | none => s)

/-! ## Block swaps (R173, R174) -/

/-- The request that one is matched with: the oldest unmatched one of its TAG and context at the mirror (that it is the oldest
is a DESIGN CHOICE, log 41); a core that is its own mirror turns its own block. -/
def swapMate (s : State) (x : Swap) : Option Swap :=
  if mirrorOf x.core = x.core then some x
  else (s.core (mirrorOf x.core)).swaps.find? fun y => y.ctx == x.ctx && bits y.d 63 56 == bits x.d 63 56

/-- A request's block as it is sent, with its poison; a mapped offset is read through its mapping (R173, R180, R390). -/
def blockOf (s : State) (x : Swap) : Eng Bytes :=
  (gather s (clOfCore x.core) x.ctx none x.id (rowSegs (winVa x.core x.off) (swPitch x.d) (swRows x.d) (swCols x.d * swEw x.d))).bind
    fun rows s => .ok (blockTurn x.d (rows.flatMap (·.1)), blockTurn x.d (rows.flatMap (·.2))) s

/-- What one side receives. -/
def landingOf (dst src : Swap) (b : Bytes) : Landing :=
  { id := dst.id, ctx := dst.ctx, core := dst.core, src := src.core, off := dst.off, pitch := swPitch dst.d,
    rowLen := swCols dst.d * swEw dst.d, ew := swEw dst.d, fut := dst.fut, bytes := b.1, bad := b.2 }

/-- Requests leave their cores' queues. -/
def dropSwaps (s : State) (xs : List Swap) : State :=
  xs.foldl (fun s x => s.modCore x.core fun c => { c with swaps := c.swaps.filter (·.id ≠ x.id) }) s

/-- The sides of a swap, each once. -/
def swapSides (x y : Swap) : List Swap := if x.id = y.id then [x] else [x, y]

/-- TSWAP_MATCH: two requests of one TAG meet; both blocks are read, or both futures poisoned. -/
def execTswapMatch (core i : Nat) (s : State) : Res :=
  .next (match (s.core core).swaps[i]? with
    | none => s
    | some x =>
      if unitSilent s core || unitSilent s (mirrorOf core) then s else
      match swapMate s x with
      | none => s
      | some y =>
        let poison (c : Code) : State := (swapSides x y).foldl (fun s z => poisonH s z.fut c) (dropSwaps s [x, y])
        if x.d ≠ y.d then poison SWAP_MISMATCH
        else
          match (blockOf s x).bind fun bx s => (blockOf s y).bind fun b s => .ok (bx, b) s with
          | .ok (bx, b) s =>
            (dropSwaps s [x, y]).modNet fun n =>
              { n with landings := n.landings ++ [if x.id = y.id then [landingOf x x bx] else [landingOf x y b, landingOf y x bx]] }
          | .wait s _ => s
          | .bad c => poison c)

/-- The pieces of a block: place, bytes and poison. -/
def Landing.pieces (x : Landing) : List (Nat × List Byte × List Bool) :=
  (List.range (x.bytes.length / max x.rowLen 1)).flatMap fun i =>
    (linePieces (x.rowLen / 128 + 2) (winVa x.core (x.off + i * x.pitch)) x.rowLen).map fun p =>
      let o := i * x.rowLen + (p.1 - winVa x.core (x.off + i * x.pitch))
      (p.1, (x.bytes.drop o).take p.2, (x.bad.drop o).take p.2)

/-- The pieces of a block land in order at its core's port, each logged as a landing (R229), until one must wait. -/
def landPieces (x : Landing) : List (Nat × List Byte × List Bool) → State → Landing × State
  | [], s => (x, s)
  | (va, bs, bad) :: r, s =>
    match engWrite s (clOfCore x.core) x.ctx va none x.id 4 bs bad (src := x.src) with
    | .ok _ s => landPieces { x with done := x.done + 1 } r s
    | .wait s _ => (x, s)
    | .bad c => ({ x with code := c }, s)

/-- Whether a block has landed, or its landing has ended: a core whose partition has gone takes none. -/
def Landing.over (s : State) (x : Landing) : Bool :=
  x.code != 0 || decide (x.done ≥ x.pieces.length) || (partOf (s.core x.core) x.ctx).isNone

/-- A block lands as far as it can; at a dead core it fails (R394). -/
def landOne (s : State) (x : Landing) : Landing × State :=
  if x.over s then (x, s) else if (s.core x.core).dead then ({ x with code := DEAD }, s)
  else if unitSilent s x.core then (x, s) else landPieces x (x.pieces.drop x.done) s

def landBlocks : List Landing → State → List Landing × State
  | [], s => ([], s)
  | x :: r, s =>
    let (x, s) := landOne s x
    let (r, s) := landBlocks r s
    (x :: r, s)

/-- The future of a landed block resolves, or is poisoned with the code that ended the landing (log 41). -/
def landedFut (s : State) (x : Landing) : State := if x.code = 0 then swapResolve s x.fut else poisonH s x.fut x.code

/-- TSWAP_COMPLETE: a matched pair's blocks land, and both futures resolve. -/
def execTswapComplete (i : Nat) (s : State) : Res :=
  .next (match s.net.landings[i]? with
    | some xs =>
      let (xs, s) := landBlocks xs s
      if xs.all fun x => x.over s && !engPending s (clOfCore x.core) x.id then
        xs.foldl landedFut (s.modNet fun n => { n with landings := ldel n.landings i })
      else s.modNet fun n => { n with landings := lset n.landings i xs }
    | none => s)

end Sys2Proof.Machine
end

