-- ==== Sys2Proof/Machine/EvTransfer.lean ====
section
/-! DEFINITION. Events of the transfer engine (spec/10 R266-R271, R230, spec/11 R280, spec/15 R410, R411). -/

namespace Sys2Proof.Machine

def State.modXfer (s : State) (cl id : Nat) (f : Xfer → Xfer) : State :=
  s.modCluster cl fun c => { c with xfers := c.xfers.map fun x => if x.id = id then f x else x }

def Xfer.op (x : Xfer) : Nat := xfOp x.w0
def Xfer.rows (x : Xfer) : Nat := xfRows x.w3

/-- Where a transfer's next piece goes and comes from (R263). -/
def Xfer.dst (x : Xfer) : Nat := (vaOf x.w1 + x.row * bits x.w3 47 24 + x.pos) % 2^52
def Xfer.src (x : Xfer) : Nat := (vaOf x.w2 + x.row * bits x.w3 23 0 + x.pos) % 2^52

/-- The length of the next piece (R266). -/
def Xfer.piece (x : Xfer) : Nat := min (xfLen x.w0 - x.pos) (min (128 - x.dst % 128) (128 - x.src % 128))

/-- Every piece has landed. -/
def Xfer.allLanded (x : Xfer) : Bool := decide (x.row ≥ x.rows)

/-- The transfer after its next piece. The pieces of a transfer are written in ascending order of rows and addresses (DESIGN CHOICE,
log 44: R268 states none). -/
def Xfer.stepped (x : Xfer) (n : Nat) : Xfer :=
  let y : Xfer := { x with landed := x.landed + n, why := none, line := (x.line.1.drop n, x.line.2.drop n) }
  if x.pos + n ≥ xfLen x.w0 then { y with row := x.row + 1, pos := 0 } else { y with pos := x.pos + n }

/-- A timed transfer whose launch time has not come (R267). -/
def Xfer.held (s : State) (cl : Nat) (x : Xfer) : Bool := !x.begun && x.time != 0 && (s.time (dieOfCl cl)).ult x.time

/-- Whether a timed transfer's first read begins late: the cycle before had reached its time. -/
def Xfer.isLate (s : State) (cl : Nat) (x : Xfer) : Bool :=
  x.time != 0 && !(s.timeBefore (dieOfCl cl)).ult x.time

/-- Whether a transfer's source lies in region 0x2 or 0x3. -/
def readsHost (s : State) (cl : Nat) (x : Xfer) : Bool :=
  match engPlace s cl x.ctx x.src x.piece x.launch x.id .rd with
  | .ok (.mem dpa _) _ => region dpa == 2 || region dpa == 3
  | _ => false

def hostBytes (s : State) (cl : Nat) (x : Xfer) (bs : List Byte) : List Byte × State := hostData s x.launch (dieOfCl cl) bs

/-! ## XFE_PIECE -/

/-- The sync word of a transfer: its core and whether the context's partition holds it. -/
def syncPlace (s : State) (cl : Nat) (x : Xfer) : Except Code (Option Nat) :=
  if !xfSw x.w0 then .ok none
  else match winCore cl x.dst with
    | .error c => .error c
    | .ok k => if (s.core k).dead then .error DEAD else match partOf (s.core k) x.ctx with
      | none => .error WIN_DENIED
      | some p => if xfSwoff x.w0 + 16 > p.size then .error SP_RANGE else .ok (some k)

/-- A tile's source line is read once, as a whole, and kept until every piece of it is written (R230). -/
def readTile (s : State) (cl : Nat) (x : Xfer) : Eng Xfer :=
  if !x.prefetches || !x.line.1.isEmpty then .ok x s
  else
    let n := min (xfLen x.w0 - x.pos) (128 - x.src % 128)
    let host := readsHost s cl x
    (engRead s cl x.ctx x.src n x.launch x.id).bind fun b s =>
      let (bs, s) := if host then hostBytes s cl x b.1 else (b.1, s)
      .ok { x with line := (bs, b.2) } (s.modXfer cl x.id fun y => { y with line := (bs, b.2) })

/-- A piece of a tile is written from the line read. -/
def moveTile (s : State) (cl : Nat) (x : Xfer) : Eng Unit :=
  (readTile s cl x).bind fun x s =>
    engWrite s cl x.ctx x.dst x.launch x.id 3 (x.line.1.take x.piece) (x.line.2.take x.piece)

/-- One piece is read and written; a counted one advances the sync word at the same arrival (R271). -/
def movePiece (s : State) (cl : Nat) (x : Xfer) : Eng Unit :=
  if x.prefetches then moveTile s cl x else
  match syncPlace s cl x with
  | .error c => .bad c
  | .ok k => if k.any (unitSilent s) then .wait s .port else
    let host := readsHost s cl x
    (engRead s cl x.ctx x.src x.piece x.launch x.id).bind fun b s =>
      let bs := if host then (hostBytes s cl x b.1).1 else b.1
      (engWrite s cl x.ctx x.dst x.launch x.id 3 bs b.2).bind fun _ s =>
        let s := if host then (hostBytes s cl x b.1).2 else s
        .ok () (match k with
          | some k => syncCount s k x.ctx (xfSwoff x.w0) x.piece
          | none => s)

/-- A prefetch's last tile has landed: the task enters READY where its entry lies (R280). -/
def prefetchDone (s : State) (cl tid : Nat) : State :=
  let rest := (s.cluster cl).xfers.filter fun x => x.sink = .prefetch tid
  if rest.all Xfer.allLanded && decide ((s.task tid).phase = .prefetching) then
    (s.modCluster cl fun c => { c with xfers := c.xfers.filter fun x => x.sink ≠ .prefetch tid }).modTask tid fun t =>
      { t with phase := .ready }
  else s

/-- A transfer ends with a code; a prefetching task is killed with it (R279). -/
def endXfer (s : State) (cl : Nat) (x : Xfer) (c : Code) : State :=
  match x.sink with
  | .prefetch tid => killTask s tid c
  | _ => s.modXfer cl x.id fun y => { y with status := c.toNat, why := none }

/-- The piece a transfer has next; one that waits keeps the cause, and its requests are sent. Its first read has begun, late or
not, when its first piece is tried (R267). -/
def pieceStep (s : State) (cl : Nat) (x : Xfer) : State :=
  let late := if x.begun then x.late else x.isLate s cl
  match movePiece s cl x with
  | .ok _ s' =>
    let s' := s'.modXfer cl x.id fun y => { y.stepped x.piece with begun := true, late := late }
    match x.sink with
    | .prefetch tid => prefetchDone s' cl tid
    | _ => s'
  | .wait s' c => s'.modXfer cl x.id fun y => { y with why := some c, begun := true, late := late }
  | .bad c => endXfer s cl x c

/-- The XFE's 1,024 tags, one for each piece in flight (R184, R266). -/
def tagsFull (xs : List Xfer) : Bool := decide ((xs.filter fun x => x.why.isSome).length ≥ 1024)

/-- Whether a transfer's next piece may be tried: one in flight goes on, also while its cluster quiesces (R383). -/
def mayPiece (s : State) (cl : Nat) (x : Xfer) : Bool :=
  x.status == 0 && !x.allLanded && !x.held s cl &&
  (x.why.isSome || (!clusterMoving s cl && !tagsFull (s.cluster cl).xfers))

def execXfePiece (cl x : Nat) (s : State) : Res :=
  .next (match (s.cluster cl).xfers.find? fun y => y.id = x with
    | none => s
    | some y => if mayPiece s cl y then pieceStep s cl y else s)

/-! ## TRANSFER_COMPLETE (R227, R267, R274) -/

/-- The completion value. -/
def xferElem (x : Xfer) : Word :=
  w64 (x.status * 2^56 + xfOp x.w0 * 2^42 + (if x.late then 2^41 else 0) + (if xfSw x.w0 then 2^40 else 0) +
       bits x.w0 39 32 * 2^32 + bits x.w0 31 0)

def postXfer (s : State) (x : Xfer) : State :=
  match x.sink with
  | .fut h => if x.status = 0 then resolveH s h (xferElem x) else poisonH s h (BitVec.ofNat 8 x.status)
  | .ep t => if liveTask s t then s.modTask t fun y => { y with xfDone := y.xfDone ++ [xferElem x] } else s
  | _ => s

/-- Whether a transfer is over. -/
def Xfer.over (x : Xfer) : Bool := !x.prefetches && (x.status != 0 || x.allLanded)

/-- Whether it completes: every write it made has performed (R227). -/
def mayEnd (s : State) (cl : Nat) (x : Xfer) : Bool := x.over && !engPending s cl x.id

def execTransferComplete (cl x : Nat) (s : State) : Res :=
  .next (match (s.cluster cl).xfers.find? fun y => y.id = x with
    | none => s
    | some y =>
      if mayEnd s cl y then postXfer (s.modCluster cl fun c => { c with xfers := c.xfers.filter fun z => z.id ≠ x }) y
      else s)

end Sys2Proof.Machine
end

