-- ==== Sys2Proof/Machine/EvPorts.lean ====
section
/-! DEFINITION. Events of store FIFOs, memory ports and lock queues (spec/09 R214, R219, R220, R228, R229, spec/10 R256,
spec/08 R180, R195, R203, spec/15 R394). -/

namespace Sys2Proof.Machine

/-! ## The store at the head of a FIFO -/

def popStore (s : State) (tid : Nat) : State :=
  s.modTask tid fun t => { t with fifo := t.fifo.tail, headMark := none }

/-- The release at the head of a FIFO keeps its place in its die's order (R220). -/
def markHead (s : State) (tid : Nat) : State :=
  let t := s.task tid
  if t.headMark.isSome then s else s.modTask tid fun t => { t with headMark := some (s.die (dieOfCore t.core)).accepted }

/-- Whether the conditions of a release store at the head hold (R220): its earlier stores have left, and window stores are
acknowledged. -/
def headReady (s : State) (tid : Nat) (rel : Option Nat) : Bool :=
  let t := s.task tid
  match rel with
  | none => true
  | some sc => sc == 0 || (t.unacked.isEmpty &&
      (sc ≤ 3 || orderClear s (dieOfCore t.core) sc (t.headMark.getD (s.die (dieOfCore t.core)).accepted)))

/-- A release at .p or .s, which becomes die-visible only as it performs globally. -/
def relGlobal (rel : Option Nat) : Bool :=
  match rel with
  | some sc => decide (sc ≥ 4)
  | none => false

/-- A thread faults with DEAD, now or when it next runs, at an address. -/
def deadLater (s : State) (t va : Nat) : State :=
  let h : Halt := { code := DEAD, detail := w64 va, len := 0, insn := 0 }
  if !liveTask s t || (s.task t).halt.isSome then s
  else if (s.task t).slot.isSome then haltTask s t h
  else s.modTask t fun x => { x with pend := some h }

/-- A thread's store to memory that nothing can answer is lost, and the thread meets DEAD; the address is not kept (R418, R420,
log 24). -/
def lostStore (s : State) (t : Nat) : State :=
  let (f, s) := s.free
  deadLater s t (f % 2^52)

/-- A store to memory leaves the FIFO into its die's order, or waits for tokens (R203, R214, R220); one that
nothing can answer meets DEAD (R418, R420). -/
def drainMem (s : State) (tid dpa : Nat) (x : Store) : State :=
  let t := s.task tid
  let die := dieOfCore t.core
  let l := lineOf dpa
  let whole := (s.tok l die).mayWrite && !(s.die die).order.any fun y => lineOf y.dpa == l
  if deadPlace s dpa then lostStore (popStore s tid) tid
  else if (ubNew s l && !(s.tok l die).mayWrite) || (relGlobal x.rel && !whole) then s.ask .getx l die
  else
    let y : DieStore :=
      { dpa := dpa, bytes := x.bytes, uncached := x.uncached, by' := some ((x.via.map (·.1)).getD t.core, t.ctx), tid := some tid, ctx := t.ctx
        hidden := relGlobal x.rel && (region dpa == 2 || region dpa == 3) }
    acceptStore (popStore s tid) die y

/-- A window store reaches its own core's port, or leaves for another's; the next to the same block waits for its
acknowledgement (R219). -/
def drainWin (s : State) (tid k o : Nat) (x : Store) : State :=
  let t := s.task tid
  if t.unacked.contains (k, o / 128) then s
  else if k = t.core then
    (if portRefuses s k 0 x.bytes.length k o then s
     else popStore (portWrote (uaWrite s k t.ctx o x.bytes) k 0 x.bytes.length k o) tid)
  else
    let m : PortMsg := { core := k, off := o, bytes := x.bytes, kind := 0, src := t.core, ctx := t.ctx, tid := some tid }
    ((popStore s tid).modTask tid fun t => { t with unacked := t.unacked ++ [(k, o / 128)] }).modNet fun n =>
      { n with ports := n.ports ++ [m] }

/-- STORE_FIFO_DRAIN: the oldest store leaves, or waits with the requests it has sent. -/
def execStoreFifoDrain (tid : Nat) (s : State) : Res :=
  .next (match mfind s.tasks tid with
    | none => s
    | some t =>
      match t.fifo with
      | [] => s
      | x :: _ =>
        let s := if relGlobal x.rel && t.unacked.isEmpty then markHead s tid else s
        if !headReady s tid x.rel then s
        else match x.dest with
          | .mem dpa => drainMem s tid dpa x
          | .win k o => drainWin s tid k o x
          | .door dpa => doorStore (popStore s tid) dpa (w64 (leVal x.bytes)))

/-! ## Memory ports -/

/-- A window store that a dead core returns faults its thread, now or when it next runs (R394, log 33). -/
def storeDead (s : State) (m : PortMsg) : State :=
  match m.tid with
  | none => s
  | some t => deadLater s t (winVa m.core m.off)

def ackPort (s : State) (m : PortMsg) : State :=
  match m.tid with
  | some t => s.modNet fun n => { n with acks := n.acks ++ [(t, m.core, m.off / 128)] }
  | none => s

/-- PORT_ACCESS_ARRIVAL: a write performs at its target's port in the order of arrival, and is acknowledged. A unit that is
being remapped still serves its own stores (R233, R383). -/
def execPortAccessArrival (i : Nat) (s : State) : Res :=
  .next (match s.net.ports[i]? with
    | none => s
    | some m =>
      let gone := s.modNet fun n => { n with ports := ldel n.ports i }
      if m.retry then s
      else if (s.core m.core).dead then ackPort (storeDead gone m) m
      else if silentTo s m.core (clOfCore m.src) then
        (if underRemap s m.core then s.modNet fun n => { n with ports := lset n.ports i { m with retry := true } } else s)
      else if portRefuses s m.core m.kind m.bytes.length m.src m.off then s
      else
        ackPort (portWrote (uaWrite gone m.core m.ctx m.off m.bytes) m.core m.kind m.bytes.length m.src m.off) m)

/-- PORT_REPLY: an acknowledgement reaches its thread, which may send its next store to the block. -/
def execPortReply (i : Nat) (s : State) : Res :=
  .next (match s.net.acks[i]? with
    | none => s
    | some (t, k, b) =>
      let s := s.modNet fun n => { n with acks := ldel n.acks i }
      if (mfind s.tasks t).isSome then s.modTask t fun x => { x with unacked := x.unacked.erase (k, b) } else s)

/-- The recorded launches whose partitions a core holds. -/
def recordedOn (s : State) (k : Nat) : List Nat :=
  ((s.core k).parts.flatMap (·.launches)).eraseDups.filter fun l => recMode s (some l) == 1

/-- PORT_TRACE_COPY: the next entry of a port's ring goes into the record (R229, R410). -/
def execPortTraceCopy (core : Nat) (s : State) : Res :=
  .next (
    let c := s.core core
    if c.traceCopied ≥ c.traceIdx then s
    else
      let e := (mfind c.trace (c.traceCopied % 4096)).getD { time := 0, w1 := 0 }
      let s := (recordedOn s core).foldl (fun s l =>
        recordAt s (some l) (dieOfCore core) e.time 1 c.traceCopied (recCore core) e.w1) s
      s.modCore core fun c => { c with traceCopied := c.traceCopied + 1 })

/-- LDLK_RETRY: 64 cycles have passed, and the refused LDLK is made again. -/
def execLdlkRetry (tid : Nat) (s : State) : Res :=
  taskEvent tid (fun s => match (s.task tid).lockRetry with
    | some c => if s.cycle ≥ c then s.modTask tid fun t => { t with lockRetry := none } else s
    | none => s) s

end Sys2Proof.Machine
end

