-- ==== Sys2Proof/Machine/EvCoherence.lean ====
section
/-! DEFINITION. Events of the token protocol, unbacked pages and a lost die's census (spec/08 R188-R211, spec/16 R416,
R418). -/

namespace Sys2Proof.Machine

/-! ## The host's half of a line (R416) -/

/-- What the bridge must ask the host before, as the home of a region 0x2 line, it serves another agent's request. -/
def homeNeeds (s : State) (kind : Req) (l agent : Nat) : Option Nat :=
  if region (128 * l) ≠ 2 || agent = 24 then none else
  match kind, mfind s.host.got l with
  | .gets, none => some 2
  | .gets, some _ => none
  | _, some true => none
  | .getxf, _ => some 4
  | .getx, _ => some 3

/-- What the bridge must recall from the host before it gives tokens of a device line (R416). -/
def holderNeeds (s : State) (l : Nat) (gets : Bool) (t : Tok) : Option Nat :=
  match mfind s.host.held l with
  | none => none
  | some true => some (if gets then 0 else 1)
  | some false => if gets && decide (t.plain < (s.tok l 24).plain) then none else some 1

/-! ## Giving tokens -/

def isLost (s : State) (agent : Nat) : Bool := s.coh.lostAgents.contains agent

/-- An agent sends tokens of a line, unasked or not; the owner of an unbacked line leaves the at-rest-as-zero state or its
resting store (R203, R207). -/
def sendTok (s : State) (l src dst : Nat) (t : Tok) (unasked : Bool := false) : State :=
  if t = {} then s
  else
    let n := (s.line l).tser
    let s := if t.data && src = homeAgent s l then readFrame s l else s
    let s := s.takeTok l src t
    let s := if t.owner then ubOwned s l else s
    pushCoh s [.tokens l dst t n (if unasked then some src else none)]

/-- Requests to the homes wait while a census of lost agents is due (R210, R418). -/
def censusDue (s : State) : Bool := s.host.lostAt.isSome || s.dies.any fun e => e.2.lostAt.isSome

/-- What the home of a line must have before it serves a request: the host's half (R416), or its frame's line (R205). -/
def homeWaits (s : State) (kind : Req) (l agent : Nat) : Option State :=
  match homeNeeds s kind l agent with
  | some k => some (askHost s k l 24)
  | none => (frameWaits s l).map fun lf => s.askHome .gets lf

/-- An answer that R203 withholds: the owner of an unbacked line that its context may not take. -/
def withheld (s : State) (l agent : Nat) (t : Tok) : Bool := agent == homeAgent s l && t.owner && !ownerFree s l

/-- A message is taken from those in flight. -/
def takeCoh (s : State) (i : Nat) : State := s.modCoh fun c => { c with msgs := ldel c.msgs i }

/-! ## Requests (R192, R193, R203) -/

/-- The agents a home forwards an attempt to: the holders it knows of, or all of them (R192). -/
def forwardTo (s : State) (l agent attempt : Nat) : List Nat :=
  let all := (List.range 26).filter fun a => a != agent && a != homeAgent s l && !isLost s a
  if attempt ≤ 1 then all.filter fun a => s.tok l a != {} else all

/-- The home answers for itself, or withholds the owner and posts UB_EVICT once a request (R203). -/
def homeAnswer (s : State) (kind : Req) (l agent attempt : Nat) : State :=
  let h := homeAgent s l
  let t := if collecting s l h then {} else tokAnswer (s.tok l h) kind false
  let full := kind ≠ .gets && !ownerFree s l && (s.tok l h).owner
  if withheld s l h t || full then
    (if attempt ≤ 1 then
      match s.ub (ubName (128 * l)) with
      | some u => postEvict s u.ctx 1 u.home l
      | none => s
     else s)
  else sendTok s l h agent t

def execTransientRequest (i : Nat) (s : State) : Res :=
  .next (match s.coh.msgs[i]? with
    | some (.request kind l agent attempt) =>
      if censusDue s then s
      else match homeWaits s kind l agent with
      | some s => s
      | none =>
        let s := takeCoh s i
        let fs := forwardTo s l agent attempt
        let s := homeAnswer s kind l agent attempt
        pushCoh s (fs.map fun a => .forward kind l agent a)
    | _ => s)

def execRequestForward (i : Nat) (s : State) : Res :=
  .next (match s.coh.msgs[i]? with
    | some (.forward kind l agent target) =>
      let t := if collecting s l target then {} else tokAnswer (s.tok l target) kind false
      match (if target = 24 && t != {} then holderNeeds s l (decide (kind = .gets)) t else none) with
      | some k => askHost s k l 24
      | none => if isLost s target then takeCoh s i else sendTok (takeCoh s i) l target agent t
    | _ => s)

/-! ## Eviction (R181-R183, R189, R194, R204) -/

/-- Where a line's tokens go when an agent evicts it: an unbacked line's owner to its resting store, another's to its home's
memory-side cache unless its attribute says otherwise, plain tokens to the home. -/
def evictTo (s : State) (agent l : Nat) (t : Tok) : Nat :=
  let h := homeAgent s l
  if !t.owner then h
  else match (if region (128 * l) = 8 then s.ub (ubName (128 * l)) else none) with
    | some u => if isLost s u.home then h else u.home
    | none => if agent < 8 && 16 ≤ h && h < 24 && lineAttr s l % 2 = 0 then h - 8 else h

/-- Messages that an agent has sent unasked to one home and that are still in flight (R189). -/
def unasked (s : State) (agent home : Nat) : Nat :=
  (s.coh.msgs.filter fun m => match m with
    | .tokens l _ _ _ src => src == some agent && homeAgent s l == home
    | _ => false).length

/-- Whether an agent may evict a line now. A resting line stays (R202); one of a bound page goes to its frame (R205). -/
def mayEvict (s : State) (agent l : Nat) : Bool :=
  s.tok l agent != {} && agent != homeAgent s l && !collecting s l agent && !isLost s agent && !restsWith s agent l &&
  decide (unasked s agent (homeAgent s l) < 16) &&
  (agent ≥ 8 || !(s.die agent).order.any fun x => lineOf x.dpa == l)

/-- All of an agent's tokens of a line leave it; in its own resting store an unbacked line comes to rest in place. -/
def evictLine (s : State) (agent l : Nat) : State :=
  let t := (s.tok l agent).all
  let to' := evictTo s agent l t
  if to' = agent then comeToRest s l else sendTok s l agent to' t true

/-- A way for a line in an agent's cache: a free one, or that of a line of its set that may be evicted, of a LOWPRIO page if
there is one (R183), else any. -/
def makeWay (s : State) (agent l : Nat) : Option State :=
  if hasWay s agent l || lineAttr s l = 3 then some s
  else
    let may := (s.linesAt agent).filter fun x => cacheSet agent x == cacheSet agent l && mayEvict s agent x
    let low := may.filter fun x => lineAttr s x = 2
    let from' := if low.isEmpty then may else low
    let (f, s) := s.free
    match from'[f % max from'.length 1]? with
    | some x => let s := evictLine s agent x; if hasWay s agent l then some s else none
    | none => none

/-! ## Tokens arriving (R190, R194, R199, R204) -/

/-- The owner of an unbacked line has come to its resting store, or to its home, unasked. -/
def atRest (s : State) (l dst : Nat) (t : Tok) : State :=
  if !t.owner || region (128 * l) ≠ 8 then s
  else if dst = homeAgent s l then restHome s l
  else if (s.ub (ubName (128 * l))).any fun u => u.home == dst then comeToRest s l
  else s

/-- Tokens come to an agent that is collecting them, to a home, or to one that keeps them where it has room (R194). Those that
it asked for stay in its tracker until the line has a way (R184, log 41). None while its messages to the home are as many as
R189 lets them be. -/
def keepTok (s : State) (l dst : Nat) (t : Tok) : Option State :=
  let asked := collecting s l dst
  match makeWay s dst l with
  | none =>
    if asked then some (s.putTok l dst t)
    else if unasked s dst (homeAgent s l) ≥ 16 then none
    else some (pushCoh s [.tokens l (homeAgent s l) t (s.line l).tser (some dst)])
  | some s =>
    let s := settleOuts (s.putTok l dst t) l dst
    some (giveHost (if asked then s else atRest s l dst t) l)

/-- TOKEN_MESSAGE. One to a lost die is not delivered: its census finds the tokens missing (R210). -/
def execTokenMessage (i : Nat) (s : State) : Res :=
  .next (match s.coh.msgs[i]? with
    | some (.tokens l dst t n _) =>
      if isLost s dst then s
      else
        let s0 := s
        let s := takeCoh s i
        if n ≠ (s.line l).tser then s
        else match actFor s l dst with
          | some r => pushCoh s [.tokens l r t n none]
          | none => (keepTok s l dst t).getD s0
    | _ => s)

/-! ## Attempts (R196, R197) -/

/-- ATTEMPT_TIMEOUT: the next attempt; a met request whose line had no way is over if one can be made now. -/
def execAttemptTimeout (i : Nat) (s : State) : Res :=
  .next (match s.coh.outs[i]? with
    | none => s
    | some o =>
      if o.met s then ((makeWay s o.agent o.line).map fun s => settleOuts s o.line o.agent).getD s
      else if o.persistent || o.queued || s.cycle < o.sentAt + nsCycles 1024 then s
      else
        let h := homeAgent s o.line
        let busy := (s.coh.outs.filter fun x => x.persistent && x.agent == o.agent && homeAgent s x.line == h).length
        let put (o' : Out) (m : Coh) : State := pushCoh (s.modCoh fun c => { c with outs := lset c.outs i o' }) [m]
        if o.attempt ≥ 4 && busy < 16 then
          put { o with persistent := true, attempt := 5 } (.persist o.kind o.line o.agent o.age)
        else
          let n := min (o.attempt + 1) 4
          put { o with attempt := n, sentAt := s.cycle } (.request o.kind o.line o.agent n))

/-! ## Persistent requests (R198, R199) -/

/-- The oldest waiting entry of a line becomes active when none is: ACT goes to every agent. -/
def activate (s : State) (l : Nat) : State :=
  if s.coh.persist.any fun p => p.line == l && p.active then s
  else match leastBy (fun p => p.age * 32 + p.agent) (s.coh.persist.filter fun p => p.line == l) with
    | none => s
    | some p =>
      let on (q : Persist) : Persist := if q.ident = p.ident && q.line = l && q.agent = p.agent then { q with active := true } else q
      let s := s.modCoh fun c => { c with persist := c.persist.map on }
      pushCoh s ((List.range 26).map fun a => .act p.ident l p.agent a)

def execPersistentRequest (i : Nat) (s : State) : Res :=
  .next (match s.coh.msgs[i]? with
    | some (.persist kind l agent age) =>
      if censusDue s then s
      else match homeWaits s kind l agent with
      | some s => s
      | none =>
        let id := s.coh.nextIdent
        let s := (takeCoh s i).modCoh fun c =>
          { c with persist := c.persist ++ [{ kind := kind, line := l, agent := agent, age := age, ident := id % 65536 }]
                   nextIdent := id + 1 }
        let s := if agent = homeAgent s l && !ownerFree s l then
            (match s.ub (ubName (128 * l)) with
             | some u => postEvict s u.ctx 1 u.home l
             | none => s)
          else s
        activate s l
    | _ => s)

def execActMessage (i : Nat) (s : State) : Res :=
  .next (match s.coh.msgs[i]? with
    | some (.act ident l agent target) =>
      let t := tokAnswer (s.tok l target) .getx true
      if isLost s target || target == agent then settleOuts (takeCoh s i) l target
      else if s.coh.early.contains (target, ident) then
        (takeCoh s i).modCoh fun c => { c with early := c.early.filter (· ≠ (target, ident)) }
      else if withheld s l target t then s
      else if target = homeAgent s l && (frameWaits s l).isSome then ((frameWaits s l).map fun lf => s.askHome .gets lf).getD s
      else match (if target = 24 && t != {} then holderNeeds s l false t else none) with
        | some k => askHost s k l 24
        | none =>
          sendTok ((takeCoh s i).modCoh fun c => { c with acts := c.acts ++ [(target, ident, l, agent)] }) l target agent t
    | _ => s)

def execDeactMessage (i : Nat) (s : State) : Res :=
  .next (match s.coh.msgs[i]? with
    | some (.deact ident target) =>
      let s := takeCoh s i
      let flying := s.coh.msgs.any fun m => match m with
        | .act d _ _ a => d == ident && a == target
        | _ => false
      s.modCoh fun c =>
        { c with acts := c.acts.filter fun e => !(e.1 == target && e.2.1 == ident)
                 early := if flying then c.early ++ [(target, ident)] else c.early }
    | _ => s)

/-- An entry is freed: DEACT goes to every agent and the line's next entry is chosen. -/
def freeEntry (s : State) (p : Persist) : State :=
  let s := s.modCoh fun c => { c with persist := c.persist.filter (· ≠ p) }
  let s := if p.active then pushCoh s ((List.range 26).map fun a => .deact p.ident a) else s
  activate s p.line

def execDoneMessage (i : Nat) (s : State) : Res :=
  .next (match s.coh.msgs[i]? with
    | some (.doneMsg kind l agent) =>
      let s := takeCoh s i
      match s.coh.persist.find? fun p => p.line == l && p.agent == agent && p.kind == kind with
      | some p => freeEntry s p
      | none => s
    | _ => s)

/-! ## Eviction and binding (R194, R205) -/

def execEviction (agent line : Nat) (s : State) : Res :=
  .next (if toFrame s line then bindLine s line
    else if !mayEvict s agent line then s
    else match (if agent = 24 then holderNeeds s line false (s.tok line 24) else none) with
      | some k => askHost s k line 24
      | none => evictLine s agent line)

/-- PAGE_BIND: a late page with a pinned line takes a frame, to which its lines at rest go from then on (R205). -/
def execPageBind (name : Nat) (s : State) : Res :=
  .next (match s.ubPage name with
    | none => s
    | some (key, u) =>
      match frameFor s u with
      | none => s
      | some f =>
        if !u.late || u.bound.isSome || u.pinned.isEmpty then s else bindPage s key u f)

/-! ## Census (R210, R211) -/

/-- A home counts a line's tokens at the surviving agents: what falls short it regenerates, with a new serial, which discards
every message still in flight (R210); a line whose owner it regenerates is poisoned (R211). -/
def censusLine (agent : Nat) (s : State) (l : Nat) : State :=
  let x := s.line l
  let left := merase x.held agent
  let sum := (left.map fun e => e.2.plain).sum
  let owner := left.any fun e => e.2.owner
  if sum = 32 && owner then s.modCoh fun c => { c with lines := mset c.lines l { x with held := left } }
  else
    let h := homeAgent s l
    let s := s.modCoh fun c => { c with lines := mset c.lines l { held := left, tser := x.tser + 1 } }
    let s := landTok s l h { plain := 32 - sum, owner := !owner, data := !owner }
    if owner then s
    else
      let s := poisonLine (s.modCoh fun c => { c with stale := merase c.stale l }) l
      restHome (s.modUb (ubName (128 * l)) fun u => if region (128 * l) = 8 then u.leaves agent l else u) l

/-- Requests and entries of a lost agent go. -/
def dropAgent (s : State) (agent : Nat) : State :=
  let keep (m : Coh) : Bool := match m with
    | .request _ _ a _ => a != agent
    | .forward _ _ a t => a != agent && t != agent
    | .tokens _ d _ _ _ => d != agent
    | .persist _ _ a _ => a != agent
    | .act _ _ _ t => t != agent
    | .deact _ t => t != agent
    | .doneMsg _ _ a => a != agent
  let s := s.modCoh fun c => { c with msgs := c.msgs.filter keep, outs := c.outs.filter fun o => o.agent != agent }
  (s.coh.persist.filter fun p => p.agent = agent).foldl freeEntry s

/-- The census of every home, with an agent lost. Lines that rested there are among those whose owner it held. -/
def census (s : State) (agent : Nat) : State := dropAgent ((s.coh.lines.map (·.1)).foldl (censusLine agent) s) agent

/-- DIE_CENSUS: 2.5 µs after a die was lost, when no flit to or from it is left; of agent 24, after the host (R418). -/
def execDieCensus (die : Nat) (s : State) : Res :=
  .next (match (if die = 24 then s.host.lostAt else (s.die die).lostAt) with
    | none => s
    | some c =>
      if s.cycle < c + nsCycles 2500 then s
      else
        let s := census s die
        if die = 24 then
          let s : State := { s with host := { s.host with lostAt := none } }
          if s.host.lost then s else s.modCoh fun c => { c with lostAgents := c.lostAgents.filter (· ≠ 24) }
        else s.modDie die fun d => { d with lostAt := none })

end Sys2Proof.Machine
end

