-- ==== Sys2Proof/Machine/EvMessages.lean ====
section
/-! DEFINITION. Events of active messages, handlers and time (spec/12 R327-R332, R338-R340, spec/15 R394, R410). -/

namespace Sys2Proof.Machine

/-! ## Messages (R329, R330) -/

def setMsg (s : State) (i : Nat) (m : Msg) : State := s.modNet fun n => { n with msgs := lset n.msgs i m }

/-- Whether a handler address lies in a context's window and is even (R328, R330). -/
def inWindow (s : State) (ctx : Nat) (w : Word) : Bool :=
  let h := (s.ctx ctx).hwin
  let base := bits h 51 12 * 2^12
  !bit w 0 && decide (base ≤ w.toNat) && decide (w.toNat < base + 4096 * bits h 63 52)

/-- Whether a core's table in force gives a context a valid, enabled, non-strict entry. -/
def looseEntry (c : Core) (ctx : Nat) : Bool :=
  (List.range c.len).any fun i =>
    let e := tableEntry c i
    entValid e && entEn e && !entStrict e && entCtx e == ctx

/-- The code with which a core returns a message, if it does. -/
def msgReturn (s : State) (m : Msg) : Option Code :=
  if !inWindow s m.ctx (m.words.headD 0) then some MSG_HANDLER
  else if !looseEntry (s.core m.dst) m.ctx then some MSG_NOSLOT
  else none

/-- Delivery: the sender's buffer will be freed by the acknowledgement. -/
def msgAck (s : State) (m : Msg) : State :=
  if m.peer then s else s.modNet fun n => { n with acked := n.acked ++ [m.src] }

/-- MESSAGE_ARRIVAL: dead cores return, full, silent and moving ones refuse (R330, R384, R394). -/
def execMessageArrival (i : Nat) (s : State) : Res :=
  .next (match s.net.msgs[i]? with
    | none => s
    | some m =>
      let k := m.dst
      if m.code ≠ 0 then s
      else if (s.core k).dead then setMsg s i { m with code := DEAD.toNat }
      else if unitSilent s k || decide ((s.core k).inQ.length ≥ 16) then setMsg s i { m with code := 1, since := s.cycle }
      else match msgReturn s m with
        | some c => setMsg s i { m with code := c.toNat }
        | none =>
          msgAck ((s.modNet fun n => { n with msgs := ldel n.msgs i }).modCore k fun c => { c with inQ := c.inQ ++ [m] }) m)

def execMessageResend (i : Nat) (s : State) : Res :=
  .next (match s.net.msgs[i]? with
    | none => s
    | some m => if m.code = 1 && s.cycle ≥ m.since + 256 then setMsg s i { m with code := 0 } else s)

/-- A returned message at its sender: its future is poisoned, or it is counted and reported (R330, R378). -/
def returnMsg (s : State) (m : Msg) (c : Code) : State :=
  if m.fut ≠ 0 then
    (if isLocal s m.fut then poisonH s m.fut c
     else peerSend s (hChip m.fut) (1 + 256 * bindTag s m.ctx) [m.fut, w64 c.toNat, peerPlace 1023 0])
  else
    let s := s.modCtx m.ctx fun x => { x with msgret := x.msgret + 1 }
    postEvent s m.ctx 3 0 (corePlace m.src * 2^6 + m.slot) 0 (dieOfCore m.src)

/-- A message of another package goes back there (kind 10, log 24). -/
def peerReturn (s : State) (m : Msg) (c : Code) : State :=
  peerSend s (bits m.desc 59 40) 10 [m.desc, m.fut, w64 c.toNat, w64 m.tid]

/-- MESSAGE_RETURN; one from another package goes back there (kind 10, log 24). -/
def execMessageReturn (i : Nat) (s : State) : Res :=
  .next (match s.net.msgs[i]? with
    | none => s
    | some m =>
      if m.code ≤ 1 then s
      else
        let s := s.modNet fun n => { n with msgs := ldel n.msgs i }
        if m.peer then peerReturn s m (BitVec.ofNat 8 m.code)
        else (returnMsg s m (BitVec.ofNat 8 m.code)).modCore m.src fun c => { c with sendBufs := c.sendBufs - 1 })

def execSendAck (i : Nat) (s : State) : Res :=
  .next (match s.net.acked[i]? with
    | none => s
    | some k => (s.modNet fun n => { n with acked := ldel n.acked i }).modCore k fun c => { c with sendBufs := c.sendBufs - 1 })

/-! ## Handlers (R331) -/

/-- The lowest free handler slot. -/
def handlerSlot (c : Core) : Option Nat := [60, 61, 62, 63].find? (slotFree c)

/-- Whether replay lets a message's handler start now (R411). -/
def handlerTurn (s : State) (k : Nat) (m : Msg) : Bool :=
  let l := (s.task m.tid).launch
  m.peer || mayTurn s l (dieOfCore k) 8 (recCore k) true fun e => e.2.2.1 == (s.task m.tid).ident

/-- The message a core starts next: the oldest whose context runs there. -/
def nextMsg (s : State) (k : Nat) : Option Msg :=
  (s.core k).inQ.find? fun m => !(s.core k).frozen.contains m.ctx && (mfind s.ctxs m.ctx).isSome && handlerTurn s k m

/-- The handler's task in its slot. -/
def handlerTask (s : State) (k slot : Nat) (m : Msg) : Task :=
  let g : FMap Word := mput 0 (mput 0 (mput 0 [] 3 (w64 (m.words.length - 1))) 4 m.desc) 5 m.fut
  { phase := .running, ctx := m.ctx, handler := true, cls := 3, core := k, slot := some slot,
    rfbase := 1536 + 64 * (slot - 60), started := true, r := { pc := BitVec.ofNat 52 (m.words.headD 0).toNat, g := g },
    mpIn := m.words.drop 1, startedAt := s.cycle }

/-- Whether a core may start a handler now. -/
def mayHandle (s : State) (k : Nat) : Bool :=
  (handlerSlot (s.core k)).isSome && (nextMsg s k).isSome && !unitSilent s k && !(s.core k).dead

def execHandlerStart (core : Nat) (s : State) : Res :=
  .next (if !mayHandle s core then s else
    match handlerSlot (s.core core), nextMsg s core with
    | some slot, some m =>
      let l := (s.task m.tid).launch
      let n := (s.core core).startCount
      let who := (s.task m.tid).ident
      let s := if m.peer then s else
        takeTurn (recordEv s l (dieOfCore core) 8 n who (recCore core)) l (dieOfCore core) 8 (recCore core) who core
      let (t, s) := s.fresh
      let s := s.setTask t (handlerTask s core slot m)
      s.modCore core fun c =>
        { c with inQ := c.inQ.erase m, slots := mset c.slots slot t, startCount := n + 1 }
    | _, _ => s)

/-- HANDLER_TIMEOUT (R331, R52). -/
def execHandlerTimeout (tid : Nat) (s : State) : Res :=
  taskEvent tid (fun s =>
    let t := s.task tid
    if t.handler && t.slot.isSome && decide (s.cycle ≥ t.startedAt + 2^20) then killTask s tid HANDLER_TIME else s) s

/-! ## Time (R338-R340) -/

/-- A WAITT's time has come. -/
def waittDue (s : State) (t : Task) : Bool :=
  t.waitUntil.any fun w => !(s.time (dieOfCore t.core)).ult w.1

/-- WAITT_EXPIRY: WAITT completes in the first cycle with ct ≥ T; its port source is taken then (R44). -/
def execWaittExpiry (tid : Nat) (s : State) : Res :=
  taskEvent tid (fun s => match (s.task tid).waitUntil with
    | some (_, p) =>
      if !waittDue s (s.task tid) then s
      else
        let done := s.modTask tid fun x => { x with waitUntil := none }
        match p.what with
        | .waitt rd =>
          (match waittDone (popAll (inTurn done tid p) tid p.pops) tid rd.toNat with
           | .ok s' => finishWait s' tid p
           | .error (.trap c d) => haltTask done tid (waitHalt p c d)
           | .error (.wait _ _) => done
           | .error (.gone f) => (f done).endTurn)
        | _ => done
    | none => s) s

/-- Cycles in 65,536 ticks. -/
def exchangeCycles : Nat := 49152

/-- A die's next exchange with the hub is due (R338). -/
def exchangeDue (s : State) (d : Nat) : Bool :=
  decide (d < 16) && !(s.die d).down && decide (s.cycle ≥ (s.die d).exchangedAt + exchangeCycles)

/-- SYNC of PTSKEW (R339): every die but the hub's has made two exchanges, and none is out of bound. -/
def inSync (s : State) : Bool :=
  (List.range 16).all fun d => decide ((s.die d).exchanges ≥ 2) && !(s.die d).far

/-- How far apart any two dies' counts can come while each slews to where its last exchange sends it; the hub's is the
reference (R338). -/
def skewBound (s : State) : Nat :=
  let ends := (List.range 16).flatMap fun d => [(s.die d).offset, (s.die d).offset + (s.die d).slew]
  (ends.foldl max 0 - ends.foldl min 0).toNat

/-- PTSKEW after an exchange: a free value that is a bound, once every die is in sync (log 35); until then a bound published
before is kept no smaller than what it bounds. PEAK is the largest published. -/
def putSkew (s : State) (now : Bool) : State :=
  if !now && !s.mgmt.published then s
  else
    let (v, s) := s.free
    let low := skewBound s
    let k := BitVec.ofNat 16 (min 0xFFFF (if now then max low (v % 2^16) else max low s.mgmt.skew.toNat))
    s.modMgmt fun m =>
      { m with skew := k, published := true, peak := if !m.published || m.peak.ult k then k else m.peak }

/-- TIME_EXCHANGE, once every 65,536 ticks: a die measures its offset from the hub's count, no further off than the path's delay
leaves it, and will slew by it (R338, log 35). -/
def execTimeExchange (die : Nat) (offset : Int) (delay : Nat) (s : State) : Res :=
  .next (if !exchangeDue s die || decide ((offset - (s.die die).offset).natAbs > delay) then s
    else
      let far := decide (offset.natAbs > 64)
      let s := s.modDie die fun d =>
        { d with slew := -offset, far := far, exchanges := if far then d.exchanges else d.exchanges + 1, exchangedAt := s.cycle }
      let was := s.mgmt.sync
      let now := inSync s
      let s := s.modMgmt fun m => { m with sync := now, syncLost := if was && !now then m.syncLost + 1 else m.syncLost }
      putSkew s now)

/-- A die's count slews by one tick at the most in every 4,096, and never goes back (R338). -/
def slewDie (s : State) (d : Nat) : State :=
  let x := s.die d
  if x.slew = 0 || s.cycle % 3072 ≠ 0 then s
  else
    let n : Int := if x.slew < 0 then -1 else 1
    s.modDie d fun x => { x with offset := x.offset + n, slew := x.slew - n, slewed := (s.cycle, n) }

end Sys2Proof.Machine
end

