-- ==== Sys2Proof/Machine/EvTables.lean ====
section
/-! DEFINITION. Events of the slot tables and of thermal shedding (spec/12 R313-R322, spec/14 R379-R382, spec/06 R120). -/

namespace Sys2Proof.Machine

/-- A core of the package (R7, R8). -/
def isCoreNo (k : Nat) : Bool := decide (k < 7168)

/-! ## SLOTW as events (R379) -/

/-- A SLOTW operation made at a core; one of a context that is not resident is BAD. -/
def slotEvent (k ctx : Nat) (f : State → State) (s : State) : Res :=
  .next (if isCoreNo k && (mfind s.ctxs ctx).isSome then f s else s)

def execSlotwWrite (core idx : Nat) (v : BitVec 16) (s : State) : Res :=
  .next (if isCoreNo core && decide (idx < 64) then (slotWrite s core idx v).2 else s)

def execSlotwLength (core len : Nat) (s : State) : Res := .next (if isCoreNo core then (slotLength s core len).2 else s)

/-- A freeze ends once every thread has stopped; one that still parks keeps the event pending. -/
def execSlotwFreeze (core ctx : Nat) (s : State) : Res := slotEvent core ctx (freezeCtx · core ctx) s

def execSlotwThaw (core ctx : Nat) (s : State) : Res := slotEvent core ctx (fun s => (thawCtx s core ctx).2) s

def execSlotwSave (core ctx : Nat) (s : State) : Res :=
  slotEvent core ctx (fun s => if stillParking s core ctx then s else (saveCtx s core ctx).2) s

/-! ## A change of the table in force (R316, R379) -/

/-- PERIOD's four fields as a slot's thread reads them: a handler finds no entry of its own. -/
def periodOf (c : Core) (slot : Nat) : Nat := if slot < 60 then periodBits c slot else c.len * 2^24

/-- Each thread of a core whose PERIOD a change of the table alters: CHG, and an event for its context. -/
def reportPeriods (s : State) (k : Nat) (old : Core) : State :=
  (s.core k).slots.foldl (fun s e =>
    if periodOf old e.1 != periodOf (s.core k) e.1 then
      postEvent (s.modTask e.2 fun t => { t with chg := t.chg + 1 }) (s.task e.2).ctx 2 0 (threadPlace s e.2) 0 (dieOfCore k)
    else s) s

/-- A write of the table in force as it takes effect: the position keeps its EN. -/
def applyWrite (c : Core) : TableWrite → Core
  | .entry i v => { c with table := mput 0x2000 c.table i (entryValue (tableEntry c i) v) }
  | .length p => { c with len := p }

/-- The writes of a core that were issued before this cycle. -/
def dueWrites (s : State) (c : Core) : List (Nat × TableWrite) := c.pending.filter fun w => w.1 < s.cycle

/-- Whether a core's period begins now with writes to put in effect. -/
def tableDue (s : State) (k : Nat) : Bool :=
  let c := s.core k
  decide ((s.cycle - c.base) % max c.len 1 = 0) && !(dueWrites s c).isEmpty

def execSlotTableChange (core : Nat) (s : State) : Res :=
  .next (if !tableDue s core then s else
    let old := s.core core
    let due := dueWrites s old
    let new (c : Core) : Core :=
      { due.foldl (fun c w => applyWrite c w.2) c with pending := c.pending.filter fun w => !due.contains w, base := s.cycle }
    reportPeriods (s.modCore core new) core old)

/-! ## Shedding (R320) -/

/-- The entries a core may clear: valid, enabled, and inside the table (log 36). -/
def shedable (s : State) (k : Nat) : List Nat :=
  let c := s.core k
  (List.range c.len).filter fun i => entValid (tableEntry c i) && entEn (tableEntry c i)

/-- An entry names a linked thread (R336). -/
def namesLinked (s : State) (k i : Nat) : Bool :=
  match mfind (s.core k).slots (entSlot (tableEntry (s.core k) i)) with
  | some t => (s.task t).link.isSome
  | none => false

/-- The next entry to clear: non-strict unlinked, strict unlinked, linked, each from the highest. -/
def shedNext (s : State) (k : Nat) : Option Nat :=
  let es := (shedable s k).reverse
  let strict (i : Nat) : Bool := entStrict (tableEntry (s.core k) i)
  match es.find? fun i => !strict i && !namesLinked s k i with
  | some i => some i
  | none => match es.find? fun i => !namesLinked s k i with
    | some i => some i
    | none => es.head?

/-- An entry's EN is written. -/
def putEn (c : Core) (i : Nat) (on : Bool) : Core :=
  let e := tableEntry c i
  { c with table := mput 0x2000 c.table i (if on then e ||| 0x2000 else e &&& 0xDFFF) }

/-! ## Displacement (R322, R312) -/

/-- The rank of a core of the cluster for a context (R321). -/
def trtRank (s : State) (ctx k : Nat) : Nat :=
  let j := k % 8
  bits (mget 0xFFFFFFFFFFFFFFFF (s.cluster (clOfCore k)).trt ctx) (8 * j + 7) (8 * j)

/-- Whether a core may take a displaced task. -/
def mayHost (s : State) (tid k : Nat) : Bool :=
  let t := s.task tid
  let c := s.core k
  let part := match t.launch.bind (launchOf s), partOf c t.ctx with
    | some x, some p => p.size == x.spsize
    | some x, none => x.spsize == 0
    | none, _ => true
  k != t.core && trtRank s t.ctx k != 0xFF && !c.shedding && part && c.waiting.isNone && !c.dead && !unitSilent s k &&
  !c.frozen.contains t.ctx && !(slotRuns s k t.ctx (classRegs t.cls)).isEmpty &&
  !(heldExtents s k).any fun a => t.extents.any (extentsMeet a)

/-- The target: the coolest, 1 °C counting as equal, then the lower rank, then the lower number. -/
def coolTarget (s : State) (tid : Nat) : Option Nat :=
  let cs := ((List.range 8).map (clOfCore (s.task tid).core * 8 + ·)).filter (mayHost s tid)
  let cold := (cs.map fun k => (s.core k).temp).foldl min ((s.core (cs.headD 0)).temp)
  leastBy (fun k => trtRank s (s.task tid).ctx k * 8 + k % 8) (cs.filter fun k => decide ((s.core k).temp ≤ cold + 1))

/-- Whether a port refuses the copy of a task's extents now (R229). -/
def copyRefused (s : State) (src dst : Nat) (es : List (Nat × Nat)) : Bool :=
  es.any fun e => portRefuses s dst 3 128 (src / 8 * 8) e.1

/-- A task's extents are copied by the XFE to the same offsets of another core, through its port (R229, R312). -/
def copyExtents (s : State) (ctx src dst : Nat) (es : List (Nat × Nat)) : State :=
  es.foldl (fun s e =>
    let bad := (wordsOf e.1 e.2).filter fun w => (uaPoisonIn s src ctx (8 * w) 8).isSome
    let s := uaSetPoison (uaWrite s dst ctx e.1 (uaBytes s src ctx e.1 e.2)) dst ctx bad
    portWroteAll s dst 3 e.2 (src / 8 * 8) e.1) s

/-- Whether a task whose slot has lost its entries may be moved now: at an instruction boundary, holding no lock. -/
def mayMove (s : State) (tid : Nat) : Bool :=
  let t := s.task tid
  decide (t.phase = .running) && t.park.isNone && t.ask.isNone && t.beats == 0 && t.halt.isNone && t.pend.isNone && t.link.isNone &&
  t.pair.isNone && t.inv.isNone && !isFrozen s tid && locksHeld s tid == 0

/-- A displaced task is READY on the target and takes the free slot, or waits in its deque for its claim (R119, R120), the
move being put off while that has no room. -/
def moveTo (s : State) (tid k : Nat) : State :=
  let t := s.task tid
  let s' := copyExtents s t.ctx t.core k t.extents
  let s' := match t.launch with
    | some l => landPart s' k l
    | none => s'
  let out := (spillSlot (withdraw (dropLockReqs s' tid) tid) tid s.cycle).modTask tid fun t =>
    { t with phase := .ready, core := k, mark := none, evicting := false, waitUntil := none, lockRetry := none }
  if t.claim.isSome && !mayFrame out (clOfCore k) t.ctx false then (pushReady out tid).getD s else takeSlot out tid k tid

/-- A task that a shed is displacing: an entry set again keeps it; else it goes where a core qualifies once its release at
.p holds, or stays. -/
def tryDisplace (s : State) (tid : Nat) : State :=
  let t := s.task tid
  if !t.evicting then s
  else if !(slotEntries (s.core t.core) (t.slot.getD 64)).isEmpty then s.modTask tid fun t => { t with evicting := false }
  else if !mayMove s tid then s
  else match coolTarget s tid with
    | none => s.modTask tid fun t => { t with evicting := false }
    | some k =>
      if !relReady s tid 4 then markRel s tid else if copyRefused s t.core k t.extents then s else moveTo s tid k

/-- The task of a slot that a shed has left without an enabled entry. -/
def displaceSlot (s : State) (k slot : Nat) : State :=
  if !(slotEntries (s.core k) slot).isEmpty then s
  else match mfind (s.core k).slots slot with
    | none => s
    | some t =>
      if (s.task t).link.isSome || (s.task t).pair.isSome then s
      else tryDisplace (s.modTask t fun x => { x with evicting := true }) t

/-! ## Lane groups (R120) -/

/-- One lane group is disabled: a free one, else one of the claim that holds the most, at an instruction boundary of its thread until
which it is marked, else any is marked (log 36). -/
def shedGroup (s : State) (cl : Nat) : State :=
  let s := settleMark s cl
  let c := s.cluster cl
  if c.marked.isSome || c.groups = 0 then s
  else if groupsUsed s cl < c.groups then s.modCluster cl fun c => { c with groups := c.groups - 1 }
  else match richest s cl with
    | some t =>
      if (s.task t).beats ≠ 0 then s.modCluster cl fun c => { c with marked := some t }
      else (s.modClaim t fun x => { x with g := x.g - 1 }).modCluster cl fun c => { c with groups := c.groups - 1 }
    | none =>
      let (f, s) := s.free
      let one := (claimsOf s cl).filter fun x => x.2.g ≠ 0
      s.modCluster cl fun c => { c with marked := (one[f % max one.length 1]?).map (·.1) }

/-- Once no core of the cluster sheds, a group is enabled again at each reading (log 36). -/
def restoreGroup (s : State) (cl : Nat) : State :=
  if (List.range 8).any fun j => (s.core (cl * 8 + j)).shedding then s
  else (settleMark s cl).modCluster cl fun c =>
    if c.marked.isSome then { c with marked := none } else { c with groups := min 16 (c.groups + 1) }

/-! ## THERMAL_READING -/

/-- Whether a core sheds for its temperature after a reading (R320). -/
def nowHot (s : State) (c : Core) (temp : Nat) : Bool :=
  decide (temp ≥ s.mgmt.shedAt) || (c.hot && decide (temp + 5 > s.mgmt.shedAt))

/-- Whether a core sheds after a reading: for its temperature, or the package's power (R320, R424). -/
def nowShedding (s : State) (c : Core) (temp : Nat) : Bool := s.mgmt.forceShed || nowHot s c temp

def shedStep (s : State) (k : Nat) : State :=
  let s := shedGroup s (clOfCore k)
  match shedNext s k with
  | none => s
  | some i =>
    let old := s.core k
    let s := s.modCore k fun c => { putEn c i false with shedOrder := i :: c.shedOrder }
    displaceSlot (reportPeriods s k old) k (entSlot (tableEntry old i))

def unshedStep (s : State) (k : Nat) : State :=
  let s := restoreGroup s (clOfCore k)
  match (s.core k).shedOrder with
  | [] => s
  | i :: r =>
    let old := s.core k
    reportPeriods (s.modCore k fun c => { putEn c i true with shedOrder := r }) k old

/-- THERMAL_READING: a core reads its temperature, in °C (log 19). -/
def execThermalReading (core temp : Nat) (s : State) : Res :=
  .next (if !isCoreNo core || (s.core core).dead then s else
    let s := s.modCore core fun c => { c with temp := temp, shedding := nowShedding s c temp, hot := nowHot s c temp }
    if (s.core core).shedding then shedStep s core else unshedStep s core)

end Sys2Proof.Machine
end

