-- ==== Sys2Proof/Machine/EvTlb.lean ====
section
/-! DEFINITION. Events of translation: fills and page futures (spec/14 R368, R371, R372, R443). -/

namespace Sys2Proof.Machine

/-! ## Fills (R368) -/

/-- The context with an ASID. -/
def ctxOfAsid (s : State) (asid : Nat) : Option Nat := (s.ctxs.find? fun e => e.2.asid == asid).map (·.1)

/-- The leaf that a walk by a CSC of a die finds for an ASID at a virtual page. -/
def walkLeaf (s : State) (die asid vpn : Nat) : Option Tlb :=
  match ctxOfAsid s asid with
  | none => none
  | some c => (s.leaves die c).find? (·.holds asid (vpn * 2^16))

/-- A fill after its walk: FILLED with the entry, or the shipped firmware's PAGE_ABSENT. -/
def walkFill (s : State) (die : Nat) (f : Fill) : Option Tlb × Fill :=
  match walkLeaf s die f.asid f.vpn with
  | some t => (some t, { f with walked := true })
  | none => (none, { f with walked := true, reply := PAGE_ABSENT.toNat })

/-- TLB_FILL_REQUEST: the CSC walks, and writes what it finds by TLBW. -/
def execTlbFillRequest (cl i : Nat) (s : State) : Res :=
  .next (match (s.cluster cl).fills[i]? with
    | none => s
    | some f =>
      if f.walked then s
      else
        let (t, f) := walkFill s (dieOfCl cl) f
        let s := s.modCluster cl fun c => { c with fills := lset c.fills i f }
        match t with
        | some t => (tlbWrite s cl t.tag t.word).2
        | none => s)

/-- A thread's access ends in a fault: now, or when it next runs in a slot; the CSC's own access for a halted thread ends
in a kill (R385, R241). -/
def accessFault (s : State) (tid : Nat) (h : Halt) : State :=
  let t := s.task tid
  if !liveTask s tid then s
  else match t.halt with
    | some x => if x.held then s else killTask s tid (if x.code = TRAP then TRAP else h.code)
    | none =>
      if t.slot.isSome && !isFrozen s tid then haltTask s tid h
      else s.modTask tid fun t => { t with pend := some h }

/-- A swap whose block cannot be read ends, with its mate. -/
def loseSwap (s : State) (who : Nat) (c : Code) : State :=
  match (s.cores.flatMap fun e => e.2.swaps).find? fun x => x.id = who with
  | none => s
  | some x =>
    let xs := match swapMate s x with
      | some y => swapSides x y
      | none => [x]
    xs.foldl (fun s z => poisonH s z.fut c) (dropSwaps s xs)

/-- What waits on an access of an engine ends with a code: a swap's block, a transfer, a job, or a task whose tile list is being read. -/
def engineFault (s : State) (cl who : Nat) (c : Code) : State :=
  match (s.cluster cl).xfers.find? fun x => x.id = who with
  | some x => endXfer s cl x c
  | none =>
    if s.net.csc.any fun x => x.id == who then faultWrite s who
    else if s.cores.any fun e => e.2.swaps.any fun x => x.id == who then loseSwap s who c
    else if s.net.landings.any fun xs => xs.any fun x => x.id == who then
      s.modNet fun n => { n with landings := n.landings.map fun xs => xs.map fun x => if x.id = who then { x with code := c } else x }
    else if (s.cluster cl).jobs.any fun j => j.id = who then jobOver s cl who c.toNat 0
    else match rangeWaiting s cl who with
      | some (k, e) => (match single s k e with
        | some (t, s) => killPrefetch s t c
        | none => s)
      | none => if liveTask s who then killPrefetch s who c else s

/-- TLB_FILL_REPLY: accesses are made again, or fault with the code. -/
def execTlbFillReply (cl i : Nat) (s : State) : Res :=
  .next (match (s.cluster cl).fills[i]? with
    | none => s
    | some f =>
      if !f.walked then s
      else
        let s := s.modCluster cl fun c => { c with fills := ldel c.fills i }
        if f.reply = 0 then s
        else
          let code : Code := BitVec.ofNat 8 f.reply
          let s := f.threads.foldl (fun s e => accessFault s e.1 { e.2 with code := code }) s
          f.xfers.foldl (fun s x => engineFault s cl x code) s)

/-- HUB_TLB_FILL: the hub installs the entry, evicting its least recently used, or is answered with a code (R443). -/
def execHubTlbFill (i : Nat) (s : State) : Res :=
  .next (match s.hub.fills[i]? with
    | none => s
    | some f =>
      if f.walked then s
      else match walkFill s (dieOfCl (hubCl s)) f with
        | (some t, _) =>
          s.modHub fun h =>
            { h with fills := ldel h.fills i
                     tlb := t :: (h.tlb.filter fun x => !x.overlaps t.asid t.base (2^pageBits t.word)).take 511 }
        | (none, f) => s.modHub fun h => { h with fills := lset h.fills i f })

/-! ## Page futures (R372) -/

/-- The tag of a context's page. -/
def pageTag (s : State) (ctx vpn : Nat) : Word := w64 ((s.ctx ctx).asid * 2^48 + vpn * 2^12)

/-- A leaf replaces the leaves it overlaps in a context's tables. -/
def putLeaf (s : State) (ctx : Nat) (t : Tlb) : State :=
  s.modCtx ctx fun c => { c with pages := t :: c.pages.filter fun x => !x.overlaps t.asid t.base (2^pageBits t.word) }

/-- The future is terminal: it resolves with a value the spec does not give (log 14), or is poisoned. The hub's belongs to
no launch and is released. -/
def settlePage (s : State) (h : Word) (code : Code) : State :=
  let (v, s) := s.free
  let s := if code = 0 then resolveH s h (w64 v) else poisonH s h code
  match futFind (s.cluster (hCl h)) (hIdx h) (hGen h) with
  | some f => if f.launch.isNone then s.modCluster (hCl h) fun c => futDrop c f else s
  | none => s

/-- Poison: those that wait in their slots fault with PAGE_LOST, and transfers and the hub's accesses end with it. -/
def losePage (s : State) (cl : Nat) (p : PageFut) : State :=
  let s := p.threads.foldl (fun s e => accessFault s e.1 { e.2 with code := PAGE_LOST }) s
  let s := p.xfers.foldl (fun s x => engineFault s cl x PAGE_LOST) s
  if p.hub then s.modHub fun h =>
    { h with fills := h.fills ++ [{ asid := (s.ctx p.ctx).asid, vpn := p.vpn, walked := true, reply := PAGE_LOST.toNat, bits := p.bits }] }
  else s

/-- PAGE_FUTURE_SETTLE: firmware makes the page present by a leaf and resolves its future, or poisons it with a code. -/
def execPageFutureSettle (cl i : Nat) (code : BitVec 8) (word : BitVec 64) (s : State) : Res :=
  .next (match (s.cluster cl).pageFuts[i]? with
    | none => s
    | some p =>
      match p.h with
      | none => s
      | some h =>
        let tag := pageTag s p.ctx p.vpn
        if code = 0 && !(bit word 63 && tlbOk tag word) then s
        else
          let s := s.modCluster cl fun c => { c with pageFuts := ldel c.pageFuts i }
          if code = 0 then
            let s := putLeaf s p.ctx { tag := tag, word := word }
            settlePage (tlbWrite s cl tag word).2 h 0
          else losePage (settlePage s h code) cl p)

end Sys2Proof.Machine
end

