-- ==== Sys2Proof/Machine/EvRecovery.lean ====
section
/-! DEFINITION. Events of recovery: error classes, heartbeats, retirement, remaps and redundant pairs (spec/14 R383, R384,
spec/15 R389-R406, R412). -/

namespace Sys2Proof.Machine

/-! ## Errors by class (R389, R390, R392) -/

/-- CORRECTED_ERROR: only Pyelle's counter changes. -/
def execCorrectedError (n : Nat) (s : State) : Res := .next (s.modMgmt fun m => { m with corrected := m.corrected + n })

/-- The two elements of an accumulator tile in a 64-bit word of it are poisoned. -/
def poisonTile (s : State) (cl addr : Nat) : State :=
  let i := addr / 2^16
  let e := addr % 2^16 / 8 * 2
  let t := s.tile cl i
  s.setTile cl i { t with bad := mset (mset t.bad e true) (e + 1) true }

/-- WORD_ERROR: the word's poison bit is set. Place 0 is device memory, 1 to 7,168 a core's unified array, then each
cluster's accumulators (tile number in bits [19:16] of the address, log 26). -/
def execWordError (place addr : Nat) (s : State) : Res :=
  let s' : State :=
    if place = 0 then { s with poison := mset s.poison (addr / 8) true }
    else if place ≤ 7168 then s.modCore (place - 1) fun c => { c with uaPoison := mset c.uaPoison (addr / 8) true }
    else poisonTile s (place - 7169) addr
  .next (s'.modMgmt fun m => { m with poisoned := m.poisoned + 1 })

/-- THREAD_ERROR: the thread in a slot is killed with ECC_UNCORR. -/
def execThreadError (tid : Nat) (s : State) : Res :=
  taskEvent tid (fun s => if (s.task tid).slot.isSome then killThread s tid ECC_UNCORR else s) s

/-- The contexts that a core's retirement tells are those of the moment when it stops (R383). -/
def noteStop (s : State) (core : Nat) : State :=
  let at' := (unitCtxs s [core], unitCtxs s (unitCores false (clOfCore core)))
  s.modCore core fun c => { c with atStop := some (c.atStop.getD at') }

/-- CORE_ERROR: the core stops issuing and sending heartbeats. -/
def execCoreError (core : Nat) (s : State) : Res :=
  .next (if isCoreNo core && !(s.core core).dead then (noteStop s core).modCore core fun c => { c with stopped := true } else s)

/-! ## Heartbeats (R393): a unit is a core, or 7,168 plus a cluster for its CSC (log 26) -/

def beatCycles : Nat := 4096
def missCycles : Nat := 3 * 4096 + 512

/-- Whether a core's unit sends a heartbeat now. -/
def coreBeats (s : State) (k : Nat) : Bool :=
  let c := s.core k
  !c.stopped && !c.dead && !c.missing && !c.failing && decide (s.cycle ≥ c.beatAt + beatCycles)

/-- Whether a CSC sends a heartbeat now. -/
def clusterBeats (s : State) (cl : Nat) : Bool :=
  let c := s.cluster cl
  !c.missing && !c.failing && decide (s.cycle ≥ c.beatAt + beatCycles)

/-- A unit's internal checks fail, or pass again: while they fail it sends no heartbeat. -/
def noteChecks (s : State) (unit : Nat) (fail : Bool) : State :=
  if unit < 7168 then s.modCore unit fun c => { c with failing := fail }
  else if unit < 7168 + 896 then s.modCluster (unit - 7168) fun c => { c with failing := fail } else s

def execHeartbeat (core : Nat) (s : State) : Res :=
  .next (if core < 7168 then
      (if coreBeats s core then s.modCore core fun c => { c with beatAt := s.cycle } else s)
    else if clusterBeats s (core - 7168) then s.modCluster (core - 7168) fun c => { c with beatAt := s.cycle } else s)

/-- Whether a core's heartbeats have failed to arrive. -/
def coreMissed (s : State) (k : Nat) : Bool :=
  let c := s.core k
  !c.dead && !c.missing && decide (s.cycle > c.beatAt + missCycles)

def execHeartbeatMissing (core : Nat) (s : State) : Res :=
  .next (if core < 7168 then
      (if coreMissed s core then (noteStop s core).modCore core fun c => { c with missing := true } else s)
    else s.modCluster (core - 7168) fun c => if s.cycle > c.beatAt + missCycles then { c with missing := true } else c)

/-! ## What a core's loss leaves (R394, R395) -/

/-- Lines whose only current copy is in a core's first-level cache or stash. -/
def dirtyLines (c : Core) : List Nat :=
  ((c.l1.filter fun e => e.2.2).map fun e => e.2.1 / 2) ++
  c.parts.flatMap fun p => p.stash.flatMap fun m =>
    (m.lines.filter fun e => e.2 = StashLine.dirty).filterMap fun e => mfind m.phys e.1

/-- A core with nothing on it: its table is written again by firmware as it was, every entry enabled. -/
def emptyCore (c : Core) : Core :=
  { table := c.table.map fun e => (e.1, e.2 ||| 0x2000), len := c.len, base := c.base, frozen := c.frozen,
    traceIdx := c.traceIdx, lcnt := c.lcnt, traceCopied := c.traceIdx, sendBufs := c.sendBufs, scinval := c.scinval,
    lastCycle := c.lastCycle, temp := c.temp, shedding := c.shedding, hot := c.hot, stealAt := c.stealAt, spawnCount := c.spawnCount,
    victimPos := c.victimPos, handed := c.handed, stealCount := c.stealCount, startCount := c.startCount, beatAt := c.beatAt, phys := c.phys }

/-- Tasks in flight between a victim and a thief are held by no core. -/
def inSteal (s : State) (t : Nat) : Bool := s.net.steals.any fun x => x.got == some (.task t)

/-- The tasks that end with a core: all that it holds but parked ones without extents, if those are kept. -/
def doomed (s : State) (k : Nat) (keep : Bool) : List Nat :=
  (s.tasks.filter fun e => e.2.core == k && !ended e.2 && !inSteal s e.1 &&
    !(keep && decide (e.2.phase = .parked) && e.2.extents.isEmpty)).map (·.1)

/-- A task of a lost core ends; what it had not yet stored is lost. -/
def loseTask (s : State) (c : Code) (t : Nat) : State :=
  if !liveTask s t then s else killThread (s.modTask t fun x => { x with fifo := [], unacked := [] }) t c

/-- Untaken range indices of a core's deque are counted as KILLED. -/
def loseRanges (s : State) (k : Nat) : State :=
  (s.core k).entries.foldl (fun s e => match e with
    | .range r => rangeLost s r
    | .task _ => s) s

/-- A message that waits in a lost core's queue goes back with the code. -/
def returnQueued (s : State) (c : Code) (m : Msg) : State :=
  if m.peer then peerReturn s m c else returnMsg s m c

/-- A swap that a lost core has a part in: its own request and its mirror's fail, and so does what was to land there (R394). -/
def loseSwaps (s : State) (k : Nat) (code : Code) : State :=
  let ks := [k, mirrorOf k].eraseDups
  let s := ks.foldl (fun s j => ((s.core j).swaps.foldl (fun s x => poisonH s x.fut code) s).modCore j fun c => { c with swaps := [] }) s
  s.modNet fun n => { n with landings := n.landings.map fun xs => xs.map fun x =>
    if x.core = k && x.code = 0 && decide (x.done < x.pieces.length) then { x with code := code } else x }

/-- PENDING futures bound to words of a lost scratchpad (log 37). -/
def loseSyncs (s : State) (k : Nat) (c : Code) : State :=
  let mine (f : Fut) : Bool := decide (f.st = .pending) && match f.prod with
    | .sync k' _ => k' == k
    | _ => false
  let hs := s.clusters.flatMap fun e => ((e.2.futs.map (·.2) ++ e.2.spilled).filter mine).map (futHandle s e.1)
  hs.foldl (fun s h => poisonH s h c) s

/-- A parked pair whose leader's core is retired goes on unpaired, from its checkpoint (R406). -/
def endKeptPair (s : State) (t : Nat) : State :=
  (endShadow s t).modTask t fun x => { x with pair := none, r := (x.pair.map (·.ckpt)).getD x.r }

/-- Everything that a core holds is lost: R394 steps 1 to 3 and R395, or R399's clearing. -/
def loseCore (s : State) (k : Nat) (code : Code) (keep : Bool) : State :=
  let c := s.core k
  let s := (recordedOn s k).foldl (fun s l => recStop s (clOfCore k) l 2) s
  let s := (dirtyLines c).foldl poisonLine s
  let s := loseRanges s k
  let s := (doomed s k keep).foldl (loseTask · code) s
  let s := c.inQ.foldl (returnQueued · code) s
  let s := loseSwaps s k code
  let s := loseSyncs s k code
  let s := ((s.tasks.filter fun e => e.2.core == k && !ended e.2 && e.2.pair.any (·.leader)).map (·.1)).foldl endKeptPair s
  let s : State := { s with tasks := s.tasks.map fun e =>
    (e.1, if e.2.core = k then { e.2 with fifo := [], unacked := [] } else e.2) }
  s.modCore k fun c => { emptyCore c with dead := true }

/-! ## Retirement (R394, R396) -/

/-- A spare unit, if there is one. -/
def spareOf (s : State) (isCore : Bool) (unit : Nat) : Option Nat :=
  (List.range (if isCore then 9 else 116)).find? (isSpare s isCore unit)

/-- A remap that the CSC begins, with the contexts counted beforehand. -/
def csrRemap (s : State) (r : Remap) : State := s.modNet fun n => { n with remaps := n.remaps ++ [r] }

/-- CORE_RETIREMENT of a missing core, or one with a core-class error. -/
def execCoreRetirement (core : Nat) (s : State) : Res :=
  .next (
    let c := s.core core
    let cl := clOfCore core
    if !isCoreNo core || c.dead || !(c.stopped || c.missing) || (s.die (dieOfCore core)).resetting || isLost s (dieOfCore core) then s
    else
      let (ctxs, clCtxs) := c.atStop.getD (unitCtxs s [core], unitCtxs s (unitCores false cl))
      let s := (loseCore s core DEAD true).modMgmt fun m => { m with retiredCores := m.retiredCores + 1 }
      match spareOf s true core, spareOf s false cl with
      | some p, _ => csrRemap s { isCore := true, unit := core, copy := false, retire := true, phys := p, ctxs := ctxs }
      | none, some p => csrRemap s { isCore := false, unit := cl, copy := true, retire := true, phys := p, ctxs := clCtxs }
      | none, none => s)

/-! ## A cluster's loss (R397, R398) -/

/-- Local waiters of a lost entry, and every other cluster's, are woken as if it had been poisoned. -/
def wakeLost (s : State) (cl idx : Nat) (code : Code) : State :=
  let v : View := { out := 1, code := code }
  let own := (((s.cluster cl).futs.map (·.2) ++ (s.cluster cl).spilled).filter fun f => f.idx = idx).flatMap fun f =>
    f.waiters.map fun t => ({ tid := t, h := futHandle s cl f, view := v } : Wake)
  let s := s.modCluster cl fun c => c.addWakes s.cycle own
  let hit (w : Word × Nat) : Bool := isLocal s w.1 && hCl w.1 == cl && hIdx w.1 == idx
  let wake (c : Cluster) : Cluster :=
    ({ c with remoteWaits := c.remoteWaits.filter fun w => !hit w } : Cluster).addWakes s.cycle
      ((c.remoteWaits.filter hit).map fun w => { tid := w.2, h := w.1, view := v })
  { s with clusters := s.clusters.map fun e => (e.1, wake e.2) }

def liveLaunches (s : State) : List Nat := (s.launches.filter fun e => decide (e.2.st ≠ .retired)).map (·.1)

/-- An index becomes LOST. -/
def loseIndex (s : State) (cl : Nat) (code : Code) (idx : Nat) : State :=
  let s := wakeLost s cl idx code
  let live := liveLaunches s
  s.modCluster cl fun c =>
    { c with futs := merase c.futs idx, spilled := c.spilled.filter fun f => f.idx ≠ idx,
             lost := if live.isEmpty then c.lost else mset c.lost idx code
             lostUntil := if live.isEmpty then c.lostUntil
               else mset c.lostUntil idx ((mget [] c.lostUntil idx ++ live).eraseDups) }

/-- An entry whose other fields cannot be read is POISONED with DEAD, whatever it was. -/
def loseEntry (s : State) (cl idx : Nat) : State :=
  match mfind (s.cluster cl).futs idx with
  | none => s
  | some f => settle s cl { f with st := .pending } .poisoned 0 DEAD

/-- A job or transfer ends with a status, which it posts once the writes it has made have performed (R227). -/
def endJob (s : State) (cl : Nat) (c : Code) (j : Job) : State :=
  let e := jobElem j c.toNat 0
  if engPending s cl j.id then s.modCluster cl fun x => { x with jobs := x.jobs.map fun y =>
    if y.id = j.id then { y with running := true, why := none, result := some (y.result.getD e) } else y }
  else postElem (s.modCluster cl fun x => { x with jobs := x.jobs.filter fun y => y.id ≠ j.id }) j e

def endTransfer (s : State) (cl : Nat) (c : Code) (x : Xfer) : State :=
  match x.sink with
  | .prefetch t => killTask s t c
  | _ =>
    if engPending s cl x.id then s.modXfer cl x.id fun y => { y with status := if y.status = 0 then c.toNat else y.status, why := none }
    else postXfer (s.modCluster cl fun y => { y with xfers := y.xfers.filter fun z => z.id ≠ x.id }) { x with status := c.toNat }

/-- One unreadable item of a cluster: an entry's other fields below 4,096, its GEN below 8,192, else at even distances the queue
entry of a job or transfer, at odd ones an element of a tile, whose poison bit is set (log 26). -/
def loseItem (cl : Nat) (s : State) (n : Nat) : State :=
  if n < 4096 then loseEntry s cl n
  else if n < 8192 then loseIndex s cl DEAD (n - 4096)
  else if n % 2 = 1 then
    let i := (n - 8192) / 2
    let t := s.tile cl (i / 2^14 % 16)
    s.setTile cl (i / 2^14 % 16) { t with bad := mset t.bad (i % 2^14) true }
  else
    let js := (s.cluster cl).jobs.filter fun j => j.id = (n - 8192) / 2
    let xs := (s.cluster cl).xfers.filter fun x => x.id = (n - 8192) / 2
    xs.foldl (endTransfer · cl DEAD) (js.foldl (endJob · cl DEAD) s)

/-- CLUSTER_ERROR: the cluster goes to a spare with what cannot be read lost; with no spare its cores are dead (log 37). -/
def execClusterError (cl : Nat) (lost : List Nat) (s : State) : Res :=
  .next (if cl ≥ 896 || clusterMoving s cl then s else
    let ctxs := unitCtxs s (unitCores false cl)
    let s := lost.foldl (loseItem cl) s
    match spareOf s false cl with
    | some p => csrRemap s { isCore := false, unit := cl, copy := true, retire := true, phys := p, ctxs := ctxs }
    | none => (unitCores false cl).foldl (fun s k => if (s.core k).dead then s else loseCore s k DEAD true) s)

/-! ## REMAP_COMPLETE (R383) -/

/-- An earlier remap of a cluster's units is to be made first (R396). -/
def remapWaits (s : State) (i : Nat) (r : Remap) : Bool :=
  let cl (x : Remap) : Nat := if x.isCore then clOfCore x.unit else x.unit
  (s.net.remaps.take i).any fun x => cl x == cl r

/-- What a unit has begun is over: FIFOs, acknowledgements, beats, the running job. A dead core has nothing left. -/
def quiesced (s : State) (r : Remap) : Bool :=
  let ks := unitCores r.isCore r.unit
  (s.tasks.all fun e => !ks.contains e.2.core || (s.core e.2.core).dead ||
    (e.2.fifo.isEmpty && e.2.unacked.isEmpty && e.2.beats == 0)) &&
  (r.isCore || ((s.cluster r.unit).jobs.all (fun j => !j.running) &&
    (s.cluster r.unit).xfers.all fun x => x.why.all (fun c => decide (c = .tlb)) || x.status != 0))

/-- What a cluster holds outside its cores is lost with it. -/
def loseCluster (s : State) (cl : Nat) (c : Code) : State :=
  let s := (s.cluster cl).jobs.foldl (endJob · cl c) s
  let s := (s.cluster cl).xfers.foldl (endTransfer · cl c) s
  let s := (List.range 4096).foldl (loseIndex · cl c) s
  s.modCluster cl fun x =>
    { jobs := x.jobs, xfers := x.xfers, tlb := [], fills := [], wakeAt := x.wakeAt, nextGen := x.nextGen, lost := x.lost,
      lostUntil := x.lostUntil, wakes := x.wakes,
      remoteWaits := x.remoteWaits, mxStall := x.mxStall, xfStall := x.xfStall, trt := x.trt, phys := x.phys,
      failedCores := x.failedCores, beatAt := x.beatAt, faults := [] }

/-- With COPY = 0 nothing moves: the unit's tasks end as R395 says. -/
def loseUnit (s : State) (r : Remap) : State :=
  let s := (unitCores r.isCore r.unit).foldl (fun s k => if (s.core k).dead then s else loseCore s k DEAD true) s
  if r.isCore then s else loseCluster s r.unit DEAD

/-- The map changes: the core stands on its new physical core. -/
def mapCore (s : State) (r : Remap) : State :=
  let old := (s.core r.unit).phys
  let s := if r.retire then s.modCluster (clOfCore r.unit) fun c => { c with failedCores := c.failedCores ++ [old] } else s
  s.modCore r.unit fun c =>
    { c with phys := r.phys, dead := false, stopped := false, missing := false, failing := false, atStop := none, beatAt := s.cycle }

/-- A cluster stands on its new physical cluster, each core on a core of it that has not failed. -/
def mapCluster (s : State) (r : Remap) : State :=
  let d := dieOfCl r.unit
  let x := s.cluster r.unit
  let s := s.modDie d fun y =>
    { y with failed := if r.retire then y.failed ++ [x.phys] else y.failed
             failedCores := mset y.failedCores x.phys x.failedCores }
  let bad := mget [] (s.die d).failedCores r.phys
  let good := (List.range 9).filter fun p => !bad.contains p
  let s := s.modCluster r.unit fun c => { c with phys := r.phys, failedCores := bad, missing := false, failing := false, beatAt := s.cycle }
  (List.range 8).foldl (fun s j => match good[j]? with
    | some p => s.modCore (r.unit * 8 + j) fun c =>
        { c with phys := p, dead := false, stopped := false, missing := false, failing := false, atStop := none, beatAt := s.cycle }
    | none => s) s

/-- The first cluster or core of a unit, as R378's PLACE begins. -/
def unitPlace (r : Remap) : Nat := corePlace (if r.isCore then r.unit else r.unit * 8)

/-- MAPCL writes 0 and completes. -/
def answerMapcl (s : State) (r : Remap) : State :=
  match r.asker with
  | none => s
  | some (t, d) =>
    if !liveTask s t then s
    else
      let p : Park := { what := .page 0, hs := [], len := 4, insn := 0 }
      match writeReg (popAll (inTurn s t p) t r.pops) t d.toNat 0 with
      | .ok s' => finishWait s' t p
      | .error _ => s

/-- REMAP_COMPLETE. -/
def execRemapComplete (i : Nat) (s : State) : Res :=
  .next (match s.net.remaps[i]? with
    | none => s
    | some r =>
      if !quiesced s r || remapWaits s i r then s
      else
        let s := s.modNet fun n => { n with remaps := ldel n.remaps i }
        let s := if r.copy then s else loseUnit s r
        let s := if r.isCore then mapCore s r else mapCluster s r
        let die := if r.isCore then dieOfCore r.unit else dieOfCl r.unit
        let s := r.ctxs.foldl (fun s e => postEvent s e.1 4 0 (unitPlace r * 2^6 + e.2) 0 die) s
        answerMapcl s r)

/-! ## RETRY (R384) -/

/-- RETRY_REISSUE: the i-th of the window writes, steals, future operations and commands in flight, in that order, is sent
again once nothing it is addressed to is moving. -/
def execRetryReissue (i : Nat) (s : State) : Res :=
  .next (
    let n := s.net
    let a := n.ports.length
    let b := a + n.steals.length
    let c := b + n.futReqs.length
    if i < a then
      (match n.ports[i]? with
       | some m => if m.retry && !silentTo s m.core (clOfCore m.src) then
           s.modNet fun n => { n with ports := lset n.ports i { m with retry := false } } else s
       | none => s)
    else if i < b then
      (match n.steals[i - a]? with
       | some m => if m.retry && !underRemap s m.victim then
           s.modNet fun n => { n with steals := lset n.steals (i - a) { m with retry := false } } else s
       | none => s)
    else if i < c then
      (match n.futReqs[i - b]? with
       | some m => if m.retry && !clusterMoving s (hCl m.h) then
           s.modNet fun n => { n with futReqs := lset n.futReqs (i - b) { m with retry := false } } else s
       | none => s)
    else
      (match n.caps[i - c]? with
       | some m => if m.retry && !clusterMoving s (capCl m.cap) then
           s.modNet fun n => { n with caps := lset n.caps (i - c) { m with retry := false } } else s
       | none => s))

/-! ## Pairs (R402-R404) -/

/-- PAIR_INTERVAL_CLOSE: 256 instructions are retired or 64 stores held. A sync point closes the interval itself. -/
def execPairIntervalClose (tid : Nat) (s : State) : Res :=
  taskEvent tid (fun s => s.modTask tid fun t => match t.pair with
    | some p => if p.retired ≥ 256 || p.held.length ≥ 64 then { t with pair := some { p with closed := true } } else t
    | none => t) s

/-- Agreement: the held stores enter the FIFO in program order, and the next checkpoint is taken. -/
def pairAgree (t : Task) : Task :=
  match t.pair with
  | some p =>
    { t with fifo := t.fifo ++ p.held
             pair := some { p with held := [], ckpt := t.r, retired := 0, crc := 0, closed := false, fails := 0, agreed := true
                                   bad := false, popped := [], intervals := p.intervals + 1 } }
  | none => t

/-- Disagreement: both return to the checkpoint. -/
def pairBack (t : Task) : Task :=
  match t.pair with
  | some p =>
    { t.toCkpt p.ckpt with
      pair := some { p with held := [], fwd := [], retired := 0, crc := 0, closed := false, bad := false, popped := []
                            fails := p.fails + 1, rollbacks := p.rollbacks + 1 } }
  | none => t

/-- An element that the leader took from a port in the interval is at the port's head again. -/
def putBack (tid : Nat) (s : State) (x : Nat × Nat × Word) : State :=
  let (n, esel, v) := x
  if n = MP then s.modTask tid fun t => { t with mpIn := v :: t.mpIn }
  else if n = EP then s.modTask tid fun t =>
    if esel = 1 then { t with mxDone := v :: t.mxDone, mxOut := t.mxOut + 1 } else { t with xfDone := v :: t.xfDone, xfOut := t.xfOut + 1 }
  else setLinkQ s tid n (v :: ·)

/-- A silent error in a register of a paired thread (R402-R404, log 21). -/
def upsetReg (s : State) (tid n : Nat) (bits : Word) : State :=
  if liveTask s tid && (s.task tid).pair.isSome && n < 120 then s.setG tid n (s.g tid n ^^^ bits) else s

/-- Whether a pair's interval is closed and its shadow has executed it. -/
def mayCompare (t : Task) : Bool :=
  match t.pair with
  | some p => p.leader && p.closed && p.fwd.isEmpty
  | none => false

/-- PAIR_COMPARE: the two fingerprints are compared; a third disagreement on one interval kills the task. -/
def execPairCompare (tid : Nat) (s : State) : Res :=
  taskEvent tid (fun s =>
    let t := s.task tid
    match t.pair with
    | none => s
    | some p =>
      if !mayCompare t then s
      else
        let same := (s.task p.other).pair.any fun q => q.crc == p.crc && !q.bad
        if same then (s.modTask tid pairAgree).modTask p.other pairAgree
        else if p.fails ≥ 2 then killTask s tid PAIR_DIVERGE
        else (p.popped.foldl (putBack tid) (s.modTask tid pairBack)).modTask p.other pairBack) s

/-! ## REPLAY_STALL_TIMEOUT (R412) -/

/-- 10 ms have passed since an order's last event, its launch's acceptance or its last thaw. -/
def overdue (s : State) (x : Launch) (key : Nat) : Bool :=
  decide (max x.recAt (mget 0 x.turnAt key) + nsCycles 10000000 ≤ s.cycle)

/-- Whether a live task's event is the next of its order, and of its line's for an AMO, and overdue. -/
def Task.owes (s : State) (x : Launch) (t : Task) (e : Nat × Nat × Word × Word) : Bool :=
  !ended t && t.ordinal == e.2.1 && overdue s x (turnKey 3 t.ident) &&
  (e.1 != 6 || bits e.2.2.2 18 0 == mget 0 x.amo (bits e.2.2.2 63 19) % 2^19)

/-- A task of a launch, killed or overdue, that the record holds an event for, which has not occurred: with that event's kind. -/
def stalledTask (s : State) (l : Nat) (x : Launch) (killed : Bool) : Option (Nat × Nat) :=
  (recEntries s 0 x).findSome? fun e =>
    (s.tasks.find? fun t => (if killed then decide (t.2.phase = .killed) else t.2.owes s x e) && t.2.unmet l e).map fun t => (t.1, e.1)

/-- The core at a recorded place (R410). -/
def coreAt (w : Word) : Nat := bits w 63 61 * 896 + bits w 60 54 * 8 + bits w 53 51

/-- Whether a unit's recorded event may occur now: the writes of a port's own core before it have been made; a task to be stolen lies
in its victim's deque. -/
def unitReady (s : State) (x : Launch) (e : Nat × Nat × Word × Word) : Bool :=
  match e.1 with
  | 1 => mget 0 x.turns (turnOf e) == 0 || bits e.2.2.2 63 40 == (s.core (coreAt e.2.2.1)).lcnt
  | 2 => (s.core (coreAt e.2.2.2)).entries.any fun y => stolenIdent s (stolenPart y) == e.2.2.1
  | k => k == 7 || k == 8

/-- An event of a port, a steal, an MXE or a core that the record holds next in its order, and that is overdue: kind, place, task
identifier and ordinal. -/
def stalledUnit (s : State) (l : Nat) (x : Launch) : Option (Nat × Nat × Word × Nat) :=
  (recEntries s 0 x).findSome? fun e =>
    if nextTurn s 0 l (turnOf e) = some e && unitReady s x e && overdue s x (turnOf e) then
      some (e.1, coreAt (if e.1 = 1 then e.2.2.1 else e.2.2.2), if e.1 = 1 then 0 else e.2.2.1, e.2.1)
    else none

/-- A divergence at a unit; the thread concerned, by the identifier of the event's task where it has one, is killed (R412). -/
def divergeAt (s : State) (l : Nat) (e : Nat × Nat × Word × Nat) : State :=
  let who := s.tasks.find? fun t => t.2.launch == some l && t.2.ident == e.2.2.1 && e.2.2.1 != 0 && !ended t.2
  let pc := (who.map fun t => t.2.r.pc.toNat).getD 0
  let ws : List (Nat × Word) :=
    [(32, w64 (e.1 * 2^56 + corePlace e.2.1 * 2^43)), (40, e.2.2.1), (48, w64 e.2.2.2), (56, w64 pc)]
  let s := recStop (cscPush s 896 (.header l ws)) 896 l 3
  match who with
  | some t => killTask s t.1 REPLAY_DIV
  | none => s

/-- A pre-emption, a remap or a restart of the command processor holds a launch's replay up (R413). -/
def replayPaused (s : State) (x : Launch) : Bool :=
  (s.cores.any fun e => e.2.frozen.contains x.ctx) || !s.net.remaps.isEmpty || s.hub.restart

/-- An event has occurred that the record lacks; a task has been killed for which it holds more events, a kill that it does not
imply; or a recorded event has been eligible for 10 ms without occurring (R412, R413). -/
def execReplayStallTimeout (l : Nat) (s : State) : Res :=
  .next (match launchOf s l with
    | none => s
    | some x =>
      if recMode s (some l) ≠ 2 || x.st ≠ .running then s
      else match x.strayed, stalledTask s l x true with
        | some e, _ => divergeAt s l e
        | none, some (t, k) => diverge s l k t (s.task t).ordinal
        | none, none =>
          if replayPaused s x || !recOpen s 0 x then s
          else match stalledTask s l x false, stalledUnit s l x with
            | some (t, k), _ => diverge s l k t (s.task t).ordinal
            | none, some e => divergeAt s l e
            | none, none => s)

end Sys2Proof.Machine
end

