-- ==== Sys2Proof/Machine/EvDie.lean ====
section
/-! DEFINITION. Loss and reset of a compute die (spec/15 R389, R398, R399, spec/08 R209-R211, spec/16 R428 level 5). -/

namespace Sys2Proof.Machine

/-- A compute die. -/
def isDie (d : Nat) : Bool := decide (d < 8)

/-- The fabric stops delivering to a lost die, and nothing on it goes on. -/
def loseDie (s : State) (d : Nat) : State :=
  let s := s.modDie d fun x => { x with lostAt := some s.cycle }
  let s := s.modCoh fun c => { c with lostAgents := if c.lostAgents.contains d then c.lostAgents else c.lostAgents ++ [d] }
  s.mapCores d fun c => { c with stopped := true }

def execDieError (die : Nat) (s : State) : Res :=
  .next (if isDie die && !(s.die die).down && !isLost s die then loseDie s die else s)

/-! ## Links (R188, R389) -/

/-- The outputs over a link by which a flit may now be crossing. -/
def crossings (s : State) (link : Nat) : List (Nat × Nat) :=
  s.fabric.flits.flatMap fun x => ((Config.ports x.router).filter fun p => Config.linkOf x.router p == some link).map fun p => (x.router, p)

/-- LINK_REPLAY: the crossing under way is replayed, up to four times; a crossing the other way does not end its count. Which of
two crossings under way at once is replayed first is free (log 40). -/
def execLinkReplay (link : Nat) (s : State) : Res :=
  .next (if mget 0 s.fabric.replays link ≥ 4 || s.fabric.failedLinks.contains link then s
    else
      let (f, s) := s.free
      let os := crossings s link
      let o := if (mfind s.fabric.crossing link).isSome then none else os[f % max os.length 1]?
      { s with fabric := { s.fabric with replays := mset s.fabric.replays link (mget 0 s.fabric.replays link + 1)
                                         crossing := (o.map (mset s.fabric.crossing link)).getD s.fabric.crossing }
               mgmt := { s.mgmt with corrected := s.mgmt.corrected + 1 } })

/-- The dies that working links join to some dies, in at most so many crossings. -/
def reachDies (s : State) : Nat → List Nat → List Nat
  | 0, ds => ds
  | n + 1, ds =>
    let on (d : Nat) : List Nat := ((Config.dieLinks d).filter fun e => !s.fabric.failedLinks.contains e.1).map (·.2)
    reachDies s n ((ds ++ ds.flatMap on).eraseDups)

/-- LINK_FAILED: the crossing needs a fifth replay. A compute die that no path joins to the hub any more is lost (R389). -/
def execLinkFailed (link : Nat) (s : State) : Res :=
  .next (if mget 0 s.fabric.replays link < 4 || s.fabric.failedLinks.contains link then s
    else
      let t : State := { s with fabric := { s.fabric with failedLinks := s.fabric.failedLinks ++ [link],
                                                          replays := merase s.fabric.replays link
                                                          crossing := merase s.fabric.crossing link } }
      let cut := (List.range 8).filter fun d =>
        (reachDies s 17 [16]).contains d && !(reachDies t 17 [16]).contains d && !(t.die d).down && !isLost t d
      cut.foldl loseDie t)

/-! ## A planned reset's evacuation (R209, R392) -/

/-- Stores to scratchpads that the reset clears are lost with them. -/
def dropOwn (d : Nat) (x : Store) : Bool :=
  match x.dest with
  | .win k _ => dieOfCore k ≠ d
  | _ => true

/-- Every store that a die's threads have made has left their FIFOs, but for one that waits for an owner (R203), and the die's
order. -/
def dieDrained (s : State) (d : Nat) : Bool :=
  (s.die d).order.isEmpty &&
  !(s.tasks.any fun e => dieOfCore e.2.core == d && !e.2.fifo.isEmpty && !headWithheld s e.1)

/-- Dirty first-level and stash lines move into the die's second-level cache (R209). -/
def cleanDie (s : State) (d : Nat) : State :=
  s.mapCores d fun c =>
    let on (e : Nat × StashLine) : Nat × StashLine := (e.1, if e.2 = StashLine.dirty then .clean else e.2)
    ({ c with l1 := c.l1.map fun (e : Nat × Nat × Bool) => (e.1, e.2.1, false) }).onStash fun m => { m with lines := m.lines.map on }

/-- A page homed at a compute die goes to its memory die, without R207's check. -/
def evacuatePage (d : Nat) (s : State) (e : Nat × Unbacked) : State :=
  if e.2.home = d then s.modUb e.1 fun u => { u with home := d + 8 } else s

/-- Lines of a page that rest or are pinned at a die, as line numbers. -/
def restingLines (d : Nat) (e : Nat × Unbacked) : List Nat :=
  let u := e.2
  (((u.resting.filter fun r => r.2 = d).map (·.1)) ++ ((u.pinned.filter fun p => p.2.2 = d).map (·.1))).map
    fun i => (8 * 2^48 + e.1 * 2^16) / 128 + i

/-- A line that a die holds is returned under R194, whole and at once: to the requester an ACT names at the place it goes to,
else there, or home where no way can be made there; an unbacked line that comes to its resting store rests, is pinned, bound or
poisoned (R204, R209). -/
def returnLine (d : Nat) (s : State) (l : Nat) : State :=
  let t := (s.tok l d).all
  if t = {} then s
  else
    let to' := evictTo s d l t
    let s := (s.takeTok l d t).modUb (ubName (128 * l)) fun u =>
      if region (128 * l) = 8 && t.owner then
        { u with resting := merase u.resting (u.index l), pinned := merase u.pinned (u.index l) } else u
    let (to', s) := match (if region (128 * l) = 8 then some s else makeWay s to' l) with
      | some s => (to', s)
      | none => (homeAgent s l, s)
    let s := landTok s l to' t
    if t.owner && (s.tok l to').owner then (if region (128 * l) = 8 then comeToRest s l else giveHost s l) else s

/-- Tokens on their way to a die come to it before it leaves. -/
def gatherTok (s : State) (d : Nat) : State :=
  let ms := s.coh.msgs.filterMap fun m => match m with
    | .tokens l a t n _ => if a = d && n = (s.line l).tser then some (l, t) else none
    | _ => none
  ms.foldl (fun s e => s.putTok e.1 d e.2) s

/-- Every line that a die holds is returned (R209). -/
def evacuate (s : State) (d : Nat) : State :=
  let s := dropAgent (gatherTok s d) d
  let rest := s.coh.ub.flatMap (restingLines d)
  let s := s.coh.ub.foldl (evacuatePage d) s
  (rest ++ (s.linesAt d).filter fun l => !rest.contains l).foldl (returnLine d) s

/-! ## Tasks (R399) -/

/-- Cores of other dies where a launch's tasks may go on: their deques have room for one more, and the launch may land there
(R179). -/
def refuges (s : State) (d ctx : Nat) (l : Option Nat) : List Nat :=
  (s.cores.map (·.1)).filter fun k =>
    dieOfCore k ≠ d && !(s.core k).dead && !(s.core k).stopped && (tableCtxs s k).contains ctx && !pushFails s k ctx &&
    (l.bind (launchOf s)).all (landOk s k)

/-- A parked task without extents is READY on another die and executes its waiting instruction again; with no such die for
its context it is killed (log 37). -/
def reschedule (d : Nat) (s : State) (t : Nat) : State :=
  let x := s.task t
  match refuges s d x.ctx x.launch with
  | [] => loseTask s DIE_LOST t
  | k0 :: ks =>
    let (f, s) := s.free
    let k := (k0 :: ks).getD (f % (ks.length + 1)) k0
    let s := (withdraw s t).modTask t fun x => { x with core := k, phase := .ready, park := none }
    let s := match x.launch with
      | some l => landPart s k l
      | none => s
    let s := match x.pair with
      | some p => s.modTask p.other fun y => { y with core := if k % 2 = 0 then k + 1 else k - 1 }
      | none => s
    (pushReady s t).getD s

/-- The parked tasks of a die that hold no extents. -/
def freeParked (s : State) (d : Nat) : List Nat :=
  (s.tasks.filter fun e => dieOfCore e.2.core = d && decide (e.2.phase = .parked) && e.2.extents.isEmpty && !e.2.shadow).map (·.1)

/-! ## Clusters and cores -/

/-- Commands on their way to a cluster of the die end with it. -/
def loseCaps (s : State) (d : Nat) : State :=
  let mine := s.net.caps.filter fun m => dieOfCl (capCl m.cap) = d
  let s := s.modNet fun n => { n with caps := n.caps.filter fun m => dieOfCl (capCl m.cap) ≠ d }
  mine.foldl (fun s m => postElem s m.job (jobElem m.job DIE_LOST.toNat 0)) s

/-- A planned reset poisons PENDING entries and spills every entry, to be served by the hub. -/
def spillAll (s : State) (cl : Nat) : State :=
  let s := ((s.cluster cl).futs.filter fun e => decide (e.2.st = .pending)).foldl
    (fun s e => settle s cl e.2 .poisoned 0 DIE_LOST) s
  let s := ((s.cluster cl).spilled.filter fun f => decide (f.st = .pending)).foldl (fun s f => settle s cl f .poisoned 0 DIE_LOST) s
  (s.cluster cl).futs.foldl (fun s e => spillFut s cl e.2) s

/-- A cluster of the die: its jobs and transfers end, its futures are spilled or LOST, the rest is cleared. -/
def resetCluster (planned : Bool) (s : State) (cl : Nat) : State :=
  let s := (s.cluster cl).jobs.foldl (endJob · cl DIE_LOST) s
  let s := (s.cluster cl).xfers.foldl (endTransfer · cl DIE_LOST) s
  let s := if planned then spillAll s cl else (List.range 4096).foldl (loseIndex · cl DIE_LOST) s
  s.modCluster cl fun x =>
    { spilled := x.spilled, nextGen := x.nextGen, lost := x.lost, lostUntil := x.lostUntil,
      phys := x.phys, failedCores := x.failedCores, beatAt := x.beatAt }

/-- A core of the die: everything it holds is lost, and it answers DEAD until the die is back. `missing` keeps whether it
was dead before. -/
def resetCore (s : State) (k : Nat) : State :=
  let was := (s.core k).dead
  let s := if (mfind s.cores k).isNone then s else loseCore s k DIE_LOST false
  s.modCore k fun c => { c with dead := true, missing := was }

/-- A planned reset begins: the die's tasks are killed or go on elsewhere, its jobs and transfers end, and nothing new starts. -/
def beginReset (s : State) (die : Nat) : State :=
  let s := (freeParked s die).foldl (reschedule die) s
  let ts := (s.tasks.filter fun e => dieOfCore e.2.core = die && !ended e.2 && !e.2.shadow && !inSteal s e.1).map (·.1)
  let s := ts.foldl (fun s t => killTask s t DIE_LOST) s
  let s := (List.range 112).foldl (fun s j =>
    let cl := die * 112 + j
    let s := (s.cluster cl).jobs.foldl (endJob · cl DIE_LOST) s
    (s.cluster cl).xfers.foldl (endTransfer · cl DIE_LOST) s) s
  let s : State := { s with tasks := s.tasks.map fun e =>
    (e.1, if dieOfCore e.2.core = die then { e.2 with fifo := e.2.fifo.filter (dropOwn die) } else e.2) }
  (s.modDie die fun d => { d with resetting := true }).mapCores die fun c => { c with stopped := true }

/-- DIE_RESET (R399): a planned one first lets what the die's threads have stored drain, and cleans its caches (R209). -/
def execDieReset (die : Nat) (planned : Bool) (s : State) : Res :=
  .next (if !isDie die || (s.die die).down || planned == isLost s die then s
    else if planned && !(s.die die).resetting then beginReset s die
    else if planned && !dieDrained s die then s
    else
    let s := if planned then cleanDie s die else s.modDie die fun d => { d with order := [] }
    let s := loseCaps s die
    let s := (List.range 896).foldl (fun s j => resetCore s (die * 896 + j)) s
    let s := (List.range 112).foldl (fun s j => resetCluster planned s (die * 112 + j)) s
    let s := if planned then evacuate s die else s
    let was := s.mgmt.sync
    let s := s.modMgmt fun m => { m with sync := false, syncLost := if was then m.syncLost + 1 else m.syncLost }
    let s := s.modNet fun n => { n with remaps := n.remaps.filter fun r =>
      (if r.isCore then dieOfCore r.unit else dieOfCl r.unit) ≠ die }
    s.modDie die fun d => { d with order := [], exchanges := 0, exchangedAt := s.cycle, slew := 0, resetting := false, down := true })

/-- DIE_RESET_COMPLETE: after any census, the die rejoins with its clusters, cores, spares and map. -/
def execDieResetComplete (die : Nat) (s : State) : Res :=
  .next (if !(s.die die).down || (s.die die).lostAt.isSome then s else
    let s := s.modCoh fun c => { c with lostAgents := c.lostAgents.filter (· ≠ die) }
    let s := s.mapCores die fun c =>
      { c with dead := c.missing, missing := false, failing := false, atStop := none, stopped := false, beatAt := s.cycle }
    s.modDie die fun d => { d with down := false })

end Sys2Proof.Machine
end

