-- ==== Sys2Proof/Machine/EvQueues.lean ====
section
/-! DEFINITION. Events of queues, command processors and launches (spec/13 R346-R361, spec/15 R408, R411). -/

namespace Sys2Proof.Machine

/-! ## Doorbells (R349-R355, R361) -/

/-- A host's write of KICK. -/
def execKick (q : Nat) (v : BitVec 64) (s : State) : Res :=
  .next (if bits v 63 32 = 0 then kickQueue s q (bits v 31 0) else s)

/-- The host takes the reply to its access of a doorbell register. -/
def hostReply (s : State) (q off : Nat) (v : Word) : State :=
  { s with host := { s.host with replies := s.host.replies ++ [(q, off, v)] } }

/-- A host's FetchAdd on RESV, with its reply. -/
def execReserve (q : Nat) (n : BitVec 64) (s : State) : Res :=
  let (v, s) := reserveSlots s q n
  .next (hostReply s q 8 v)

def execQctlResume (q : Nat) (s : State) : Res := .next (resumeQueue s q)

def execQctlAbandon (q : Nat) (tag : BitVec 32) (s : State) : Res := .next (abandonTag s q tag.toNat)

/-! ## Threads (R346) -/

/-- Threads that the command processors in service have. -/
def hubThreads (s : State) : Nat := 32 * (4 - s.hub.outOfService.length)

def mappedQueues (s : State) : List (Nat × Queue) := s.queues.filter fun e => e.2.mapped

/-- A queue that has work and no thread. -/
def wantsThread (q : Queue) : Bool := !q.mapped && decide (q.kick > q.rp)

/-- The queue served next: the highest priority, then the earliest kick. -/
def nextMapped (s : State) : Option Nat :=
  let ws := s.queues.filter fun e => wantsThread e.2
  let top := (ws.map fun e => e.2.prio).foldl max 0
  (leastBy (fun e : Nat × Queue => e.2.kickAt) (ws.filter fun e => e.2.prio = top)).map (·.1)

/-- The queue that loses its thread: idle longest, else one blocked on a WAIT for more than 100 µs. -/
def unmapChoice (s : State) : Option Nat :=
  let idle := (mappedQueues s).filter fun e => e.2.kick = e.2.rp && e.2.pkt.isNone
  match leastBy (fun e : Nat × Queue => e.2.since) idle with
  | some e => some e.1
  | none =>
    ((mappedQueues s).find? fun e => decide (e.2.st = .waiting) && decide (s.cycle > e.2.since + nsCycles 100000)).map (·.1)

/-- A queue without a thread; a WAIT is evaluated from its start later. -/
def unmapQueue (s : State) (q : Nat) : State :=
  s.modQueue q fun q =>
    if q.st = .waiting then { q with mapped := false, st := .run, pkt := none, answer := none } else { q with mapped := false }

def execQueueMap (q : Nat) (s : State) : Res :=
  .next (if nextMapped s ≠ some q || s.hub.restart then s
    else if (mappedQueues s).length < hubThreads s then s.modQueue q fun q => { q with mapped := true }
    else match unmapChoice s with
      | some u => (unmapQueue s u).modQueue q fun q => { q with mapped := true }
      | none => s)

/-! ## Reading packets (R352, R356) -/

/-- The sixteen words of a slot. -/
def slotWords (s : State) (a : Nat) : List Word := (List.range 16).map fun i => w64 (leVal (memBytes s.mem (a + 8 * i) 8))

/-- Words a packet of a type uses after its header. -/
def usedWords (ty : Nat) : Nat := [0, 13, 2, 4, 3, 2, 1, 1].getD ty 0

/-- Whether a sequence number is a segment's LINK slot. -/
def isLinkSlot (q : Queue) (seq : Nat) : Bool := q.segs.any fun e => seq + 1 == e.1 + segSlots e.2.2

/-- R356's packet errors that the header, the unused words and the place show, and those of each type's fields. -/
def packetBad (q : Queue) (ws : List Word) : Bool :=
  let w0 := ws.getD 0 0
  let ty := bits w0 31 24
  let w (n : Nat) : Word := ws.getD n 0
  ty > 7 || bits w0 23 0 != 0 || (ty == 5) != isLinkSlot q q.rp || (ws.drop (usedWords ty + 1)).any (· != 0) ||
  (match ty with
   | 2 => bits (w 2) 63 1 != 0
   | 3 => bits (w 4) 63 16 != 0 || bits (w 4) 14 11 != 0 || (w 3).toNat % 8 != 0
   | 4 => w 3 == 0 || bits (w 3) 63 32 != 0
   | 5 => bits (w 2) 63 5 != 0 || !(decide (12 ≤ bits (w 2) 4 0) && decide (bits (w 2) 4 0 ≤ 20))
   | 7 => bits (w 1) 63 2 != 0
   | _ => false)

/-- The queue stops at its packet (R355). -/
def stopQueue (s : State) (qi err : Nat) : State :=
  s.modQueue qi fun q => { q with st := .stopped, err := err, pkt := none, since := s.cycle, answer := none }

/-- A LAUNCH read is live at once, and its TIMEOUT counts from here (R355, R357, R361). -/
def newLaunch (s : State) (qi : Nat) (q : Queue) (ws : List Word) : State :=
  let (l, s) := s.fresh
  let x : Launch := { ctx := q.ctx, queue := qi, hdr := ws.drop 1, readAt := s.cycle, arrival := s.hub.arrivals }
  let s : State := { s with launches := mset s.launches l x }
  (s.modHub fun h => { h with arrivals := h.arrivals + 1 }).modQueue qi fun q => { q with live := q.live ++ [l] }

/-- Whether a queue's thread may read a packet now. -/
def mayRead (s : State) (q : Queue) : Bool :=
  q.mapped && decide (q.rp < q.kick) && q.pkt.isNone && decide (q.st = .run) && !s.hub.restart && !s.host.lost

/-- A slot with a poisoned word is a packet error (log 38). -/
def execPacketRead (q : Nat) (s : State) : Res :=
  .next (match mfind s.queues q with
    | none => s
    | some x =>
      if !mayRead s x then s
      else match slotAddr x x.rp with
        | none => s
        | some a =>
          let ws := slotWords s a
          if bits (ws.getD 0 0) 63 32 ≠ x.rp % 2^32 then s
          else if (poisonIn s.poison a 128).isSome || packetBad x ws then stopQueue s q 1
          else
            let ty := bits (ws.getD 0 0) 31 24
            let s := s.modQueue q fun y => { y with pkt := some (ty, ws.drop 1), since := s.cycle, answer := none }
            if ty = 1 then newLaunch s q x ws else s)

/-- A packet of a type that a queue has read. -/
def packetOf (s : State) (qi ty : Nat) : Option (Queue × List Word) :=
  match mfind s.queues qi with
  | none => none
  | some q => match q.pkt with
    | some (t, ws) => if t = ty && decide (q.st ≠ .stopped) && !s.hub.restart then some (q, ws) else none
    | none => none

/-- An event about a packet a queue has read, its words numbered from 1. -/
def packetEvent (qi ty : Nat) (f : Queue → (Nat → Word) → State → State) (s : State) : Res :=
  .next (match packetOf s qi ty with
    | some (q, ws) => f q (fun n => ws.getD (n - 1) 0) s
    | none => s)

def execNopPacket (q : Nat) (s : State) : Res := packetEvent q 0 (fun _ _ s => passPacket s q) s

/-- LINK: the read pointer goes to the next segment, and the drained one back to its pool (R347). -/
def execLinkPacket (q : Nat) (s : State) : Res :=
  packetEvent q 5 (fun x _ s =>
    let s := match x.segs with
      | (_, a, lg) :: _ => s.modCtx x.ctx fun c => { c with segpool := c.segpool ++ [(a, lg)] }
      | [] => s
    passPacket (s.modQueue q fun y => { y with segs := y.segs.tail }) q) s

/-! ## TIMED, FENCE -/

def execTimedPacket (q : Nat) (s : State) : Res :=
  packetEvent q 6 (fun _ w s => (passPacket s q).modQueue q fun y => { y with st := .timed, timed := w 1 }) s

def execTimedExpiry (q : Nat) (s : State) : Res :=
  .next (match mfind s.queues q with
    | some x => if x.st = .timed && !s.hubTime.ult x.timed then s.modQueue q fun y => { y with st := .run } else s
    | none => s)

/-- FENCE waits; a COPY's fault stops the queue here. -/
def execFencePacket (q : Nat) (s : State) : Res :=
  packetEvent q 7 (fun x w s =>
    let copies := bit (w 1) 0
    if (copies && s.hub.copies.any fun c => c.q == q) || (bit (w 1) 1 && !x.live.isEmpty) then s
    else if copies && x.copyFault then stopQueue (s.modQueue q fun y => { y with copyFault := false }) q 3
    else passPacket s q) s

/-! ## WAIT (R356) -/

/-- A queue's operation on a future, with no waiter recorded; another package's reply to cluster 1022 is for the queue, to
1023 for nobody (log 24). -/
def hubMsg (s : State) (qi : Nat) (x : Queue) (h : Word) (op : FOp) (reply : Bool) : FutMsg :=
  { tid := qi, ctx := x.ctx, cl := if isLocal s h then hCl h else if reply then 1022 else 1023, h := h, op := op }

/-- What a WAIT's future is: out 4 while it is pending. A future of another package is asked for once. -/
def waitView (s : State) (qi : Nat) (x : Queue) (h : Word) : View × State :=
  if isLocal s h then let (m, s) := fopAt s (hCl h) (hubMsg s qi x h .touchp true); (m.view, s)
  else if !peerReach s (hChip h) then (poisonView DEAD, s)
  else match x.answer with
    | some v => (v, s)
    | none =>
      ({ out := 4 }, (fopSend s (hubMsg s qi x h .touch true)).modQueue qi fun y => { y with answer := some { out := 4 } })

/-- The wait goes on, ends, or stops the queue. -/
def evalWait (qi : Nat) (x : Queue) (w : Nat → Word) (s : State) : State :=
  if !isHandle (w 1) then stopQueue s qi 1
  else
    let (v, s) := waitView s qi x (w 1)
    if v.out = 5 then stopQueue s qi 1
    else if v.out = 4 then s.modQueue qi fun y => { y with st := .waiting }
    else if v.out ≠ 0 && bit (w 2) 0 then stopQueue s qi 2
    else passPacket s qi

def execWaitPacket (q : Nat) (s : State) : Res :=
  packetEvent q 2 (fun x w s => if x.st = .waiting then s else evalWait q x w s) s

def execWaitEnd (q : Nat) (s : State) : Res :=
  packetEvent q 2 (fun x w s => if x.st = .waiting then evalWait q x w s else s) s

/-! ## SIGNAL (R356, R443) -/

/-- A SIGNAL's future is resolved: none if the queue's context may not, `out` 4 while another package's answer is awaited.
Other outcomes are ignored. -/
def signalResolve (s : State) (qi : Nat) (x : Queue) (h v : Word) : Option (View × State) :=
  if h = 0 then some ({ out := 0 }, s)
  else if !isHandle h then none
  else if isLocal s h then
    let (m, s) := fopAt s (hCl h) (hubMsg s qi x h (.resolve v) false)
    if m.view.out = 5 then none else some ({ out := 0 }, s)
  else if !peerReach s (hChip h) then some ({ out := 0 }, s)
  else match x.answer with
    | some v => if v.out = 5 then none else some (v, s)
    | none =>
      let s := (fopSend s (hubMsg s qi x h (.resolve v) true)).modQueue qi fun y => { y with answer := some { out := 4 } }
      some ({ out := 4 }, s)

/-- SIGNAL: w3 is translated first; then the future is resolved, the word stored, the interrupt raised. -/
def execSignalPacket (q : Nat) (s : State) : Res :=
  packetEvent q 3 (fun x w s =>
    let va := vaOf (w 3)
    let place : Eng Unit := if w 3 = 0 then .ok () s else if ptrBad (w 3) then .bad BAD_POINTER
      else (hubPlace s x.ctx va .wr).bind fun _ s => .ok () s
    if w 1 ≠ 0 && !isHandle (w 1) then stopQueue s q 1
    else match place with
      | .wait s _ => s
      | .bad _ => if (signalResolve s q x (w 1) (w 2)).isNone then stopQueue s q 1 else stopQueue (hubTake s x.ctx va) q 4
      | .ok _ s =>
        match signalResolve s q x (w 1) (w 2) with
        | none => stopQueue s q 1
        | some (v, s') =>
          if v.out = 4 then s'
          else match (if w 3 = 0 then Eng.ok () s' else hubWrite s' (2^20 + q) x.ctx va (toBytes 8 (w 2).toNat)) with
            | .wait s'' _ =>
              if isLocal s (w 1) then (match hubWrite s (2^20 + q) x.ctx va (toBytes 8 (w 2).toNat) with
                | .wait s _ => s
                | _ => s)
              else s''
            | .bad _ => stopQueue s q 4
            | .ok _ s =>
              let s := if bit (w 4) 15 then raiseVector s (bits (w 4) 10 0) else s
              passPacket s q) s

/-! ## COPY (R356, R443; log 22: a COPY belongs to no launch) -/

def execCopyPacket (q : Nat) (s : State) : Res :=
  packetEvent q 4 (fun x w s =>
    passPacket (s.modHub fun h => { h with copies := h.copies ++ [{ q := q, ctx := x.ctx, dst := w 1, src := w 2, len := (w 3).toNat }] }) q) s

/-- A place of the on-chip window for the copy unit, which has no cluster of its own: CLUSTER 0x7F, the accessing thread's (R25),
names none and is BAD_POINTER (DESIGN CHOICE, log 44). -/
def hubWin (s : State) (ctx va n : Nat) : Eng (Nat × Nat) :=
  if va / 2^41 % 128 = 127 then .bad BAD_POINTER
  else match winPlace s 0 ctx va n with
    | .error c => .bad c
    | .ok (k, o) =>
      if (s.core k).dead then .bad DEAD else if unitSilent s k then .wait s .port else .ok (k, o) s

/-- The place of the copy unit's access: mapped scratchpad by its virtual name (R180, R266). -/
def copyPlace (s : State) (ctx va n : Nat) (a : Acc) : Eng Place :=
  if !isWin va then hubPlace s ctx va a
  else (hubWin s ctx va n).bind fun p s =>
    match (partOf (s.core p.1) ctx).bind (·.mapping p.2) with
    | some m => hubPlace s ctx ((m.va + (p.2 - m.off)) % 2^52) a
    | none => .ok (.win p.1 p.2) s

/-- The copy unit's read within a line: bytes, and whether each is of a poisoned word. The line's home reads it, with a token
(R191). Host memory comes to the bridge first (R416), and a peer's answers itself (R422). -/
def hubRead (s : State) (who ctx va n : Nat) : Eng Bytes :=
  (copyPlace s ctx va n .rd).bind fun p s =>
    match p with
    | .zero => .ok (List.replicate n 0, List.replicate n false) s
    | .poison => .ok (List.replicate n 0, List.replicate n true) s
    | .mem dpa _ =>
      let l := lineOf dpa
      if region dpa = 2 && (mfind s.host.got l).isNone then .wait (askHost s 2 l 24) .token
      else if region dpa ≠ 3 && !(s.tok l (homeAgent s l)).mayRead then .wait (s.askHome .gets l) .token
      else if (frameWaits s l).isSome then .wait ((frameWaits s l).elim s fun lf => s.askHome .gets lf) .token
      else if region dpa = 3 && peerDead s (3, who) 12 dpa n then .bad DEAD
      else match (if region dpa = 3 then peerTaken s (3, who) 12 dpa n else some s) with
        | none => .wait (peerAsk s ctx (3, who) 12 dpa n []) .token
        | some s =>
          let s := readFrame (settleOuts s l (homeAgent s l)) l
          .ok (memBytes s.mem dpa n, (List.range n).map fun i => poisonGet s.poison ((dpa + i) / 8)) s
    | .win k o => .ok (uaBytes s k ctx o n, (List.range n).map fun i => (uaPoisonIn s k ctx (o + i) 1).isSome) s

/-- Its write, poison included: at the line's home with every token gathered there, or at a port as the XFE's (R266, R268); the
source of a trace entry is free (log 41). -/
def hubPut (s : State) (who ctx va : Nat) (b : Bytes) : Eng Unit :=
  let n := b.1.length
  (copyPlace s ctx va n .wr).bind fun p s =>
    match p with
    | .mem dpa _ => homeStore s who ctx dpa b.1 (badWords dpa b.2)
    | .win k o =>
      let (f, s) := s.free
      if portRefuses s k 3 (min n 128) (f % 7168) o then .wait s .port
      else .ok () (portWroteAll (uaSetPoison (uaWrite s k ctx o b.1) k ctx (badWords o b.2)) k 3 n (f % 7168) o)
    | _ => .bad PAGE_ABSENT

/-- The live launches of a queue that are recorded or replayed: a COPY's data from the host or a peer is of their records (R410; DESIGN
CHOICE, log 22). -/
def recordedBy (s : State) (q : Nat) : List Nat :=
  (s.launches.filter fun e => e.2.queue == q && decide (e.2.st ≠ .retired) && recMode s (some e.1) != 0).map (·.1)

/-- What a copy has read, as the records of its queue's launches take it or give it. -/
def copyData (s : State) (q : Nat) (b : Bytes) : Bytes × State :=
  let (bs, s) := (recordedBy s q).foldl (fun (x : List Byte × State) l => hostData x.2 (some l) (dieOfCl (hubCl s)) x.1) (b.1, s)
  ((bs, b.2), s)

/-- Whether a copy's source lies in region 0x2 or 0x3. -/
def copyFromHost (s : State) (ctx va n : Nat) : Bool :=
  match copyPlace s ctx va n .rd with
  | .ok (.mem dpa _) _ => region dpa == 2 || region dpa == 3
  | _ => false

/-- The length of a copy's next piece: one line of each side. -/
def Copy.piece (c : Copy) : Nat :=
  min (c.len - c.pos) (min (128 - (vaOf c.dst + c.pos) % 128) (128 - (vaOf c.src + c.pos) % 128))

/-- The pieces of a copy from where it stands, with fuel: how far it came, whether a fault ended it, the state. -/
def copyRun (s : State) (ctx : Nat) : Nat → Copy → Copy × State
  | 0, c => (c, s)
  | n + 1, c =>
    if c.pos ≥ c.len then (c, s) else
    let host := copyFromHost s ctx ((vaOf c.src + c.pos) % 2^52) c.piece
    match (hubRead s c.q ctx ((vaOf c.src + c.pos) % 2^52) c.piece).bind fun b s =>
        (hubPut s c.q ctx ((vaOf c.dst + c.pos) % 2^52) (if host then (copyData s c.q b).1 else b)).bind fun _ s =>
          .ok () (if host then (copyData s c.q b).2 else s) with
    | .ok _ s => copyRun s ctx n { c with pos := c.pos + c.piece }
    | .wait s _ => (c, s)
    | .bad _ => ({ c with fault := true }, s)

/-- The answers that faults left at the hub for a copy's next addresses are taken. -/
def copyTake (s : State) (ctx : Nat) (c : Copy) : State :=
  hubTake (hubTake s ctx ((vaOf c.src + c.pos) % 2^52)) ctx ((vaOf c.dst + c.pos) % 2^52)

/-- COPY_COMPLETE: a copy goes as far as its translations allow; whole or faulted it is over. -/
def execCopyComplete (i : Nat) (s : State) : Res :=
  .next (match s.hub.copies[i]? with
    | none => s
    | some c =>
      let bad := ptrBad c.dst || ptrBad c.src
      let (c', s) := if bad then ({ c with fault := true }, s) else copyRun s c.ctx (c.len / 64 + 2) c
      if c'.fault then
        ((copyTake s c.ctx c').modHub fun h => { h with copies := ldel h.copies i }).modQueue c.q fun y => { y with copyFault := true }
      else if c'.pos ≥ c'.len then s.modHub fun h => { h with copies := ldel h.copies i }
      else s.modHub fun h => { h with copies := lset h.copies i c' })

/-! ## LAUNCH: checks (R357, R358, R411) -/

/-- The sum of the widths of a work-identifier format's fields. -/
def wfSum (f : Word) : Nat := ((List.range (bits f 38 36)).map fun i => bits f (6 * i + 5) (6 * i) + 1).sum

/-- The defects in the order of their reasons. -/
def launchDefects (s : State) (x : Launch) : List Bool :=
  let nf := bits (x.w 8) 38 36
  let sp := x.spsize
  let rec_ := bits (x.w 9) 59 58
  [ nf == 0 || nf == 7 || decide (wfSum (x.w 8) > 64) || bits (x.w 8) 63 39 != 0,
    decide (x.cls > 4),
    sp % 16384 != 0 || decide (sp > 294912),
    x.share == 0 || decide (x.share > 64),
    rec_ == 3 || (rec_ != 0 && x.w 13 == 0) || (rec_ == 2 && bits (recRead s 16 x 0) 47 40 != 1),
    bit (x.w 1) 0 || region (vaOf (x.w 1)) == 15 || (x.w 11).toNat % 16 != 0 || region (vaOf (x.w 11)) == 15,
    bits (x.w 1) 63 52 != 0 || bits (x.w 9) 46 20 != 0 || bits (x.w 10) 49 0 != 0 || (rec_ == 0 && x.w 13 != 0) ||
      decide (bits (x.w 10) 59 53 > 111) ]

/-- The lowest reason for a rejection, 0 for none. -/
def launchReason (s : State) (x : Launch) : Nat :=
  match (launchDefects s x).findIdx? id with
  | some i => i + 1
  | none => 0

/-- The launch that a queue has read and not placed. -/
def placingOf (s : State) (qi : Nat) : Option (Nat × Launch) :=
  s.launches.find? fun e => e.2.queue == qi && decide (e.2.st = .placing)

/-- LAUNCH_PACKET: a header without defects enters PLACING; another's record is written and the queue goes on. -/
def execLaunchPacket (q : Nat) (s : State) : Res :=
  packetEvent q 1 (fun x _ s =>
    match placingOf s q with
    | none => s
    | some (l, y) =>
      if x.st = .placing then s
      else match launchReason s y with
        | 0 => s.modQueue q fun z => { z with st := .placing }
        | r =>
          match putRecord s y { status := 3, code := BitVec.ofNat 8 r } with
          | .ok _ s =>
            let s := (raiseQueue s q).modLaunch l fun z => { z with st := .retired }
            passPacket (s.modQueue q fun z => { z with live := z.live.filter (· ≠ l) }) q
          | .wait s _ => s
          | .bad _ => s) s

/-! ## LAUNCH: placement (R359) -/

/-- The places in slots that entries of the table in force give a task of a launch: ordinary ones, or the plinth's where a
pre-emption has named them for its context (R382). -/
def rootRuns (s : State) (k : Nat) (x : Launch) : List (Nat × Nat) :=
  let all := slotRuns s k x.ctx (classRegs x.cls)
  let ord := all.filter fun e => decide (e.1 < 56)
  if ord.isEmpty then all else ord

/-- Entries of a context with the asked strictness in a table of length p. -/
def shareHeld (tab : FMap (BitVec 16)) (p : Nat) (x : Launch) : Nat :=
  (tab.filter fun e => decide (e.1 < p) && entValid e.2 && entCtx e.2 == x.ctx && entStrict e.2 == x.strict).length

/-- Free ordinary slots of a core with a run for a class, that no entry of another context names. -/
def openSlots (s : State) (k : Nat) (x : Launch) : List Nat :=
  let tab := (pendingTable (s.core k)).1
  (List.range 56).filter fun i =>
    slotFree (s.core k) i && !(freeRuns s k i (classRegs x.cls)).isEmpty &&
    tab.all fun e => !entValid e.2 || entSlot e.2 != i || entCtx e.2 == x.ctx

/-- An entry for a launch that names a slot. -/
def newEntry (x : Launch) (slot : Nat) : BitVec 16 :=
  BitVec.ofNat 16 (2^15 + (if x.strict then 2^14 else 0) + 2^13 + x.ctx * 2^6 + slot)

/-- The first slot that an invalid entry may name under R313. -/
def installOne (s : State) (k : Nat) (x : Launch) (idx : Nat) : List Nat → Option State
  | [] => none
  | i :: r => match slotWrite s k idx (newEntry x i) with
    | (0, s) => some s
    | _ => installOne s k x idx r

/-- The CSC makes n of a core's invalid entries valid for a launch, the lowest first (log 39): the positions written, and
the state; none where they do not suffice. -/
def installEntries (x : Launch) (k : Nat) (slots : List Nat) : List Nat → Nat → State → Option (List (Nat × Nat) × State)
  | _, 0, s => some ([], s)
  | [], _ + 1, _ => none
  | idx :: r, n + 1, s =>
    match installOne s k x idx slots with
    | some s => (installEntries x k slots r n s).map fun e => ((k, idx) :: e.1, e.2)
    | none => installEntries x k slots r (n + 1) s

/-- Entries a launch still lacks on a core, counting those that are pending. -/
def entriesLacked (s : State) (k : Nat) (x : Launch) : Nat :=
  let (tab, p) := pendingTable (s.core k)
  let named := (openSlots s k x).any fun i => tab.any fun e => decide (e.1 < p) && entValid e.2 && entSlot e.2 == i
  max (x.share - shareHeld tab p x) (if named then 0 else 1)

/-- The installation that would let a core take a launch. -/
def tryInstall (s : State) (k : Nat) (x : Launch) : Option (List (Nat × Nat) × State) :=
  let (tab, p) := pendingTable (s.core k)
  let bad := (List.range p).filter fun i => !entValid (mget 0x2000 tab i)
  if (openSlots s k x).isEmpty then none else installEntries x k (openSlots s k x) bad (entriesLacked s k x) s

/-- A core that may run anything. -/
def coreUp (s : State) (k : Nat) : Bool :=
  !(s.core k).dead && !unitSilent s k && !(s.die (dieOfCore k)).down && !isLost s (dieOfCore k)

/-- Whether a core qualifies now, with the table in force. -/
def qualifies (s : State) (k : Nat) (x : Launch) : Bool :=
  coreUp s k && landOk s k x && poolRoom s x.ctx 1280 && !(rootRuns s k x).isEmpty &&
  decide (shareHeld (s.core k).table (s.core k).len x ≥ x.share)

/-- Whether a core qualifies at once or after its CSC has written entries. -/
def couldQualify (s : State) (k : Nat) (x : Launch) : Bool :=
  qualifies s k x ||
  (coreUp s k && landOk s k x && poolRoom s x.ctx 1280 && (s.core k).waiting.isNone && (tryInstall s k x).isSome)

/-- Free ordinary slots of a core. -/
def freeOrdinary (s : State) (k : Nat) : Nat := ((List.range 56).filter fun i => slotFree (s.core k) i).length

/-- The core for a launch: the named one, or the one preferred of those that qualify now or once entries are installed. -/
def placeCore (s : State) (x : Launch) : Option Nat :=
  if bit (x.w 10) 63 then
    leastBy (fun k => (56 - freeOrdinary s k) * 8192 + k) ((List.range 7168).filter fun k => couldQualify s k x)
  else
    let k := (bits (x.w 10) 62 60 * 112 + bits (x.w 10) 59 53) * 8 + bits (x.w 10) 52 50
    if couldQualify s k x then some k else none

/-- Launches that wait for placement and could be placed, before another in the order of service. -/
def servedBefore (s : State) (x : Launch) : Bool :=
  s.launches.any fun e =>
    decide (e.2.st = .placing) && e.2.abandon.isNone && decide ((mfind s.queues e.2.queue).any fun q => q.st = .placing) &&
    decide (e.2.prio > x.prio ∨ (e.2.prio = x.prio ∧ e.2.arrival < x.arrival)) && (placeCore s e.2).isSome

/-- The root's registers: R276's with the header's arguments. -/
def rootRegs (x : Launch) : Regs :=
  { pc := BitVec.ofNat 52 (bits (x.w 1) 51 0)
    g := (List.range 6).foldl (fun m i => if 3 + i < classRegs x.cls then mput 0 m (3 + i) (x.w (2 + i)) else m) [] }

/-- A record's header is begun by the command processor (R408, R443). -/
def openRecord (s : State) (l : Nat) (x : Launch) : State :=
  if recMode s (some l) = 1 then cscPush s 896 (.header l [(0, w64 (2^48)), (24, w64 x.tag)]) else s

/-- The chosen slot takes the root: the launch is accepted. -/
def acceptRoot (s : State) (l k : Nat) (x : Launch) : State :=
  let s := landPart (openRecord s l x) k l
  let (f, s) := s.free
  let cs := rootRuns s k x
  let (slot, base) := cs.getD (f % max cs.length 1) (0, 0)
  let (id, s) := spawnIdent s k (some l)
  let (t, s) := s.fresh
  let task : Task := { ctx := x.ctx, launch := some l, cls := x.cls, core := k, r := rootRegs x, frame := true, ident := id,
                       startedAt := s.cycle }
  let s := placeTask (s.setTask t task) t k slot base
  let s := s.modLaunch l fun y => { y with st := .running, root := some t, recAt := s.cycle }
  passPacket s x.queue

/-- LAUNCH_PLACEMENT: the launch is accepted on its core, or entries are first installed there, which take effect at the
core's next period. -/
def execLaunchPlacement (l : Nat) (s : State) : Res :=
  .next (match launchOf s l with
    | none => s
    | some x =>
      let ready := (mfind s.queues x.queue).any fun q => decide (q.st = .placing) && q.mapped
      if x.st ≠ .placing || x.abandon.isSome || !ready || s.hub.restart || servedBefore s x then s
      else match placeCore s x with
        | none => s
        | some k =>
          if qualifies s k x then acceptRoot s l k x
          else if x.entries.any (fun e => e.1 == k) && entriesLacked s k x = 0 then s
          else match tryInstall s k x with
            | some (es, s) => s.modLaunch l fun y => { y with entries := y.entries ++ es }
            | none => s)

/-- LAUNCH_TIMEOUT (R361). -/
def execLaunchTimeout (l : Nat) (s : State) : Res :=
  .next (match launchOf s l with
    | none => s
    | some x =>
      let us := bits (x.w 12) 63 32
      if us ≠ 0 && x.st ≠ .retired && s.cycle ≥ x.readAt + nsCycles (1000 * us) then abandonLaunch s l 5 else s)

end Sys2Proof.Machine
end

