-- ==== Sys2Proof/Machine/EvDriver.lean ====
section
/-! DEFINITION. The driver's mailbox commands (spec/16 R415; spec/14 R362-R366, R382; spec/13 R347, R349; spec/16 R421, R422;
the operands' words, log 15). -/

namespace Sys2Proof.Machine

/-! ## The mailbox -/

/-- Command word n. -/
def mailWord (s : State) (n : Nat) : Word := mget 0 s.hub.mailbox n

/-- A command completes: its status in word 0 [63:56], its result in word 1 where it has one. -/
def mailDone (s : State) (status : Nat) (result : Option Nat := none) : State :=
  let w0 := w64 (status * 2^56 + bits (mailWord s 0) 55 0)
  s.modHub fun h =>
    let m := mput 0 h.mailbox 0 w0
    let m := match result with
      | some r => mput 0 m 1 (w64 r)
      | none => m
    { h with mailbox := m, bell := false }

/-- A command in the mailbox is performed, unless the command processors are restarting. -/
def mailEvent (cmd : Nat) (f : State → State) (s : State) : Res :=
  .next (if s.hub.bell && bits (mailWord s 0) 7 0 == cmd && !s.hub.restart then f s else s)

/-- The host writes a command word, or 1 to the doorbell, word 32, which starts the command; ignored while one is under way, and
where no command processor runs (R426). A number that names no command is BAD. -/
def takeMail (s : State) (n : Nat) (w : Word) : State :=
  if s.hub.bell || !s.mgmt.powered || s.mgmt.booted.isNone then s
  else if n < 32 then s.modHub fun h => { h with mailbox := mput 0 h.mailbox n w }
  else if n = 32 && w = 1 then
    let c := bits (mailWord s 0) 7 0
    let s := s.modHub fun h => { h with bell := true }
    if 1 ≤ c && c ≤ 8 then s else mailDone s 1
  else s

/-- Eight bytes of BAR2: a command word, the doorbell, or the read-only identification after the mailbox, whose contents the spec
does not give (R414, R415). -/
def readBar (s : State) (off : Nat) : Word :=
  if off < 0x100 then mailWord s (off / 8)
  else if off = 0x100 then (if s.hub.bell then 1 else 0)
  else w64 (leVal ((List.range 8).map fun i => Config.deviceId (off + i)))

def isCtx (s : State) (n : Nat) : Bool := (mfind s.ctxs n).isSome

/-! ## CTX_CREATE (R362, R364) -/

/-- A power of two. -/
def powerOfTwo (n : Nat) : Bool := n != 0 && (List.range 64).any fun i => n == 2^i

/-- The context record of the operands: ASID, PRIV, PTROOT, TLBFLOOR, HWIN, the event ring's base and length, CAPEP, WAITLIM,
TRAPTAB, sixteen UBCEIL, and what its pools begin with: a range of the frame pool and of the spill area, a segment, a frame
(log 23). -/
def newCtx (s : State) : Ctx :=
  let w := mailWord s
  { asid := (w 1).toNat, priv := bit (w 2) 0, ptroot := (w 3).toNat, tlbfloor := (w 4).toNat
    hwin := w64 ((w 5).toNat / 2^12 * 2^12), evbase := vaOf (w 6), evlen := (w 7).toNat
    capep := BitVec.ofNat 4 (w 8).toNat, waitlim := (w 9).toNat, traptab := vaOf (w 10)
    ubceil := (List.range 16).foldl (fun m d => mput 0 m d (w (11 + d)).toNat) []
    fpool := if w 28 = 0 then [] else [((w 27).toNat, (w 28).toNat)], spill := if w 30 = 0 then [] else [((w 29).toNat, (w 30).toNat)]
    segpool := if w 31 = 0 then [] else [(bits (w 31) 63 12 * 2^12, bits (w 31) 11 0)]
    bkpool := if bits (w 2) 63 8 = 0 then [] else [(bits (w 2) 63 16 * 2^16, bits (w 2) 15 8)] }

/-- A segment that the rules allow. -/
def segOk (a lg : Nat) : Bool := 12 ≤ lg && lg ≤ 20 && a % 2^lg == 0 && decide (a + 2^lg < 2^39)

/-- log2 of a length, if it is a power of two. -/
def powerLog (n : Nat) : Option Nat := (List.range 64).find? fun i => n == 2^i

/-- A range that a frame pool or spill area may have, and a frame of a backing pool (R415). -/
def poolRangeOk (a n : Nat) : Bool := a % 4096 == 0 && n % 4096 == 0

def backOk (a lg : Nat) : Bool :=
  (lg == 16 || lg == 21 || lg == 30) && a % 2^lg == 0 && decide (region a ≤ 1) && decide (a < 2^52)

/-- What makes CTX_CREATE BAD: an ASID that is too large or held, floors past the TLB, a ring that is no power of two, or what
POOL_ADD would refuse. -/
def ctxBad (s : State) (x : Ctx) : Bool :=
  x.asid ≥ 2^16 || (s.ctxs.any fun e => e.2.asid == x.asid) ||
  decide (((s.ctxs.map fun e => e.2.tlbfloor).sum + x.tlbfloor) > 4096) || (x.evlen != 0 && !powerOfTwo x.evlen) ||
  !((x.fpool ++ x.spill).all fun e => poolRangeOk e.1 e.2) || !(x.segpool.all fun e => segOk e.1 e.2) ||
  !(x.bkpool.all fun e => backOk e.1 e.2)

def execCtxCreate (s : State) : Res :=
  mailEvent 1 (fun s =>
    let x := newCtx s
    if ctxBad s x then mailDone s 1
    else match (List.range 64).find? fun i => !isCtx s i with
      | none => mailDone s 2
      | some i => mailDone { s with ctxs := mset s.ctxs i x } 0 (some i)) s

/-! ## QUEUE_CREATE, QUEUE_DESTROY, POOL_ADD (R347, R349) -/

def execQueueCreate (s : State) : Res :=
  mailEvent 3 (fun s =>
    let w := mailWord s
    let c := (w 1).toNat
    let a := (w 3).toNat
    let lg := (w 4).toNat
    if !isCtx s c || decide ((w 2).toNat > 15) || !segOk a lg then mailDone s 1
    else match (List.range 4096).find? fun i => (mfind s.queues i).isNone with
      | none => mailDone s 2
      | some i =>
        let q : Queue := { ctx := c, prio := (w 2).toNat, vec := if bit (w 5) 15 then some (bits (w 5) 10 0) else none
                           segs := [(0, a, lg)], kickAt := s.cycle, since := s.cycle }
        mailDone { s with queues := mset s.queues i q } 0 (some i)) s

/-- A queue is gone, and its segments are its context's again. -/
def dropQueue (s : State) (i : Nat) : State :=
  match mfind s.queues i with
  | none => s
  | some q =>
    let s := s.modCtx q.ctx fun c => { c with segpool := c.segpool ++ q.segs.map fun e => (e.2.1, e.2.2) }
    { s with queues := merase s.queues i }

def execQueueDestroy (s : State) : Res :=
  mailEvent 4 (fun s =>
    let i := (mailWord s 1).toNat
    match mfind s.queues i with
    | none => mailDone s 1
    | some q => if q.live.isEmpty then mailDone (dropQueue s i) 0 else mailDone s 3) s

def poolAdd (s : State) (c pool a n : Nat) : Option State :=
  match pool, powerLog n with
  | 0, _ => if poolRangeOk a n then some (s.modCtx c fun x => { x with fpool := x.fpool ++ [(a, n)] }) else none
  | 1, _ => if poolRangeOk a n then some (s.modCtx c fun x => { x with spill := x.spill ++ [(a, n)] }) else none
  | 2, some lg => if segOk a lg then some (s.modCtx c fun x => { x with segpool := x.segpool ++ [(a, lg)] }) else none
  | 3, some lg => if backOk a lg then some (s.modCtx c fun x => { x with bkpool := x.bkpool ++ [(a, lg)] }) else none
  | _, _ => none

def execPoolAdd (s : State) : Res :=
  mailEvent 5 (fun s =>
    let w := mailWord s
    let c := (w 1).toNat
    if !isCtx s c then mailDone s 1
    else match poolAdd s c (w 2).toNat (w 3).toNat (w 4).toNat with
      | some s => mailDone s 0
      | none => mailDone s 1) s

/-! ## PEER_BIND, CHIP_SET (R421, R422) -/

def execPeerBind (s : State) : Res :=
  mailEvent 6 (fun s =>
    let c := (mailWord s 1).toNat
    let tag := (mailWord s 2).toNat
    if !isCtx s c || tag ≥ 2^16 then mailDone s 1
    else mailDone { s with peers := { s.peers with binds := mset s.peers.binds tag c } } 0) s

/-- A window of up to 64 GiB in region 0x0 or 0x1 (R422). -/
def windowOk (a n : Nat) : Bool :=
  decide (n ≤ 2^36) && (n == 0 || decide (a + n ≤ 2^39) || (region a == 1 && decide (a % 2^48 + n ≤ 2^41) && decide (a < 2^52)))

/-- CHIP_SET: the chip number and the peer table, and the exported window's base and length, which firmware sets (R422, log 24). -/
def execChipSet (s : State) : Res :=
  mailEvent 7 (fun s =>
    let w := mailWord s
    if !s.ctxs.isEmpty then mailDone s 3
    else if (w 1).toNat ≥ 2^20 || !windowOk (w 3).toNat (w 4).toNat then mailDone s 1
    else mailDone { s with peers := { s.peers with
      chip := BitVec.ofNat 20 (w 1).toNat, table := some (w 2).toNat, window := (w 3).toNat, windowLen := (w 4).toNat } } 0) s

/-! ## CTX_END (R366) -/

/-- The live launches of a context are abandoned, and its other threads killed. -/
def endWork (s : State) (c : Nat) : State :=
  let ls := (s.launches.filter fun e => e.2.ctx == c && decide (e.2.st ≠ .retired)).map (·.1)
  let s := ls.foldl (fun s l => abandonLaunch s l 4) s
  let ts := (s.tasks.filter fun e => e.2.ctx == c && !ended e.2 && (e.2.launch.isNone || e.2.handler) && !e.2.shadow).map (·.1)
  ts.foldl (fun s t => killTask s t LAUNCH_ABORT) s

/-- Entries of a core that name a context, by position, in its table with the pending writes made. -/
def entriesOf (c : Core) (ctx : Nat) : List Nat :=
  ((pendingTable c).1.filter fun e => entValid e.2 && entCtx e.2 == ctx).map (·.1)

/-- The context's entries are taken out of every slot table. -/
def clearEntries (s : State) (c : Nat) : State :=
  s.cores.foldl (fun s e => (entriesOf e.2 c).foldl (fun s i => (slotWrite s e.1 i 0).2) s) s

/-- Accesses that went through a context's translations, or to its windows, are over: its threads' stores have left their FIFOs,
but for one that waits for an unbacked line's owner (R203), and have performed (R366, R375). -/
def ctxDrained (s : State) (c : Nat) : Bool :=
  !(s.tasks.any fun e => e.2.ctx == c && ((!e.2.fifo.isEmpty && !headWithheld s e.1) || !e.2.unacked.isEmpty)) &&
  !(s.net.ports.any fun m => m.ctx == c) &&
  !(s.dies.any fun e => e.2.order.any fun x => x.by'.any fun b => b.2 == c)

/-- Nothing of a context runs, and no table in force names it. -/
def ctxQuiet (s : State) (c : Nat) : Bool :=
  ctxDrained s c &&
  !(s.launches.any fun e => e.2.ctx == c && decide (e.2.st ≠ .retired)) &&
  !(s.cores.any fun e => e.2.table.any fun x => entValid x.2 && entCtx x.2 == c) &&
  !(s.clusters.any fun e => (e.2.jobs.any fun j => j.ctx == c) || e.2.xfers.any fun x => x.ctx == c)

/-- A page's lines are discarded unwritten: they rest at home as zero again. -/
def discardPage (s : State) (e : Nat × Unbacked) : State :=
  let inPage (a : Nat) : Bool := region a == 8 && ubName a / 2^(e.2.size - 16) * 2^(e.2.size - 16) == e.1
  let mine (l : Nat) : Bool := inPage (128 * l)
  let keep (m : Coh) : Bool := match m with
    | .request _ l _ _ => !mine l
    | .forward _ l _ _ => !mine l
    | .tokens l _ _ _ _ => !mine l
    | .persist _ l _ _ => !mine l
    | .act _ l _ _ => !mine l
    | .deact _ _ => true
    | .doneMsg _ l _ => !mine l
  let s := ((s.coh.lines.map (·.1)).filter mine).foldl (fun s l => (List.range 8).foldl (fun s d => dropCopies s d l) s) s
  let s : State := { s with mem := s.mem.filter fun e => !inPage e.1, poison := s.poison.filter fun e => !inPage (8 * e.1) }
  s.modCoh fun x =>
    { x with ub := merase x.ub e.1, lines := x.lines.filter fun e => !mine e.1, stale := x.stale.filter fun e => !mine e.1
             outs := x.outs.filter fun o => !mine o.line, msgs := x.msgs.filter keep
             persist := x.persist.filter fun p => !mine p.line, acts := x.acts.filter fun e => !mine e.2.2.1 }

/-- What a cluster holds of a context goes. -/
def clearCluster (ctx asid : Nat) (c : Cluster) : Cluster :=
  let futs := c.futs.filter fun e => e.2.ctx ≠ ctx
  { c with futs := futs, spilled := c.spilled.filter fun f => f.ctx ≠ ctx, freed := c.freed || futs.length ≠ c.futs.length
           tiles := c.tiles.filter fun e => e.2.owner ≠ some ctx
           pageFuts := c.pageFuts.filter fun p => p.ctx ≠ ctx
           fills := c.fills.filter fun f => f.asid ≠ asid
           trt := merase c.trt ctx, mxStall := merase c.mxStall ctx, xfStall := merase c.xfStall ctx }

/-- What a core holds of a context goes; stash mappings are not written back. -/
def clearCore (ctx : Nat) (c : Core) : Core :=
  { dropPart c ctx with inQ := c.inQ.filter fun m => m.ctx ≠ ctx, swaps := c.swaps.filter fun x => x.ctx ≠ ctx
                        frozen := c.frozen.filter (· ≠ ctx) }

/-- The context's resources are free (R366, R208). -/
def freeCtx (s : State) (c : Nat) : State :=
  let asid := (s.ctx c).asid
  let s := (s.coh.ub.filter fun e => e.2.ctx = c).foldl discardPage s
  let s : State := { s with tasks := s.tasks.map fun e => if e.2.ctx = c then (e.1, { e.2 with fifo := [] }) else e }
  let s := s.modCoh fun x => { x with res := x.res.filter fun e => e.1 / 16 ≠ c }
  let s := (tlbDrop s 0 4 asid 0 (2^52)).2.2
  let s : State := { s with clusters := s.clusters.map fun e => (e.1, clearCluster c asid e.2)
                            cores := s.cores.map fun e => (e.1, clearCore c e.2)
                            queues := s.queues.filter fun e => e.2.ctx ≠ c
                            ctxs := merase s.ctxs c
                            peers := { s.peers with binds := s.peers.binds.filter fun e => e.2 ≠ c } }
  (s.modHub fun h => { h with fills := h.fills.filter fun f => f.asid ≠ asid, copies := h.copies.filter fun y => y.ctx ≠ c }).modNet fun n =>
    { n with csc := n.csc.filter fun x => decide (x.key ≠ 2 * c)
             msgs := n.msgs.filter fun m => m.ctx ≠ c, futReqs := n.futReqs.filter fun m => m.ctx ≠ c
             futReps := n.futReps.filter fun m => m.ctx ≠ c
             landings := n.landings.filter fun xs => xs.all fun x => x.ctx ≠ c, caps := n.caps.filter fun m => m.job.ctx ≠ c }

/-- CTX_END: the command goes on until the context's launches have retired and its entries are out of the tables. -/
def execCtxEnd (s : State) : Res :=
  mailEvent 2 (fun s =>
    let c := (mailWord s 1).toNat
    if !isCtx s c then mailDone s 1
    else
      let s := clearEntries (endWork s c) c
      if ctxQuiet s c then mailDone (freeCtx s c) 0 else s) s

/-! ## PREEMPT (R382) -/

/-- The contexts that hold plinth slots of a core. -/
def plinthCtxs (s : State) (k : Nat) : List Nat :=
  let c := s.core k
  (((pendingTable c).1.filter fun e => entValid e.2 && decide (56 ≤ entSlot e.2)).map (entCtx ·.2)).eraseDups

/-- The contexts beside the two of a pre-emption that hold plinth slots. -/
def plinthOthers (s : State) (x y k : Nat) : List Nat := (plinthCtxs s k).filter fun z => z ≠ x && z ≠ y

/-- Some thread that the pre-emption stops on a core has not stopped. -/
def preemptWaits (s : State) (x y k : Nat) : Bool := (x :: plinthOthers s x y k).any (stillParking s k)

/-- Every context that the pre-emption stops on a core is frozen. -/
def preemptFreeze (x y : Nat) (s : State) (k : Nat) : State := (x :: plinthOthers s x y k).foldl (fun s z => freezeCtx s k z) s

/-- One entry that named a frozen context names a plinth slot and the pre-empting one. -/
def plinthEntry (k y : Nat) (s : State) (i : Nat) : State :=
  let old := mget 0x2000 (pendingTable (s.core k)).1 i
  let put (slot : Nat) : BitVec 16 := BitVec.ofNat 16 (2^15 + (if entStrict old then 2^14 else 0) + 2^13 + y * 2^6 + slot)
  let try_ (r : Option State) (slot : Nat) : Option State := match r with
    | some s => some s
    | none => match slotWrite s k i (put slot) with
      | (0, s) => some s
      | _ => none
  ([56, 57, 58, 59].foldl try_ none).getD s

/-- Pre-emption of a context on one core: it is frozen, whoever held the plinth is frozen and saved, and their entries are
rewritten. -/
def preemptCore (x y q k : Nat) (s : State) : State :=
  let zs := plinthOthers s x y k
  let s := preemptFreeze x y s k
  let s := zs.foldl (fun s z => (saveCtx s k z).2) s
  let es := (x :: zs).flatMap fun z => if z = x then entriesOf (s.core k) z else
    (entriesOf (s.core k) z).filter fun i => decide (56 ≤ entSlot (mget 0x2000 (pendingTable (s.core k)).1 i))
  let old := es.map fun i => (i, mget 0x2000 (pendingTable (s.core k)).1 i)
  let s := es.foldl (fun s i => (slotWrite s k i 0).2) s
  let s := old.foldl (fun s e =>
    let s := (slotWrite s k e.1 e.2).2
    plinthEntry k y s e.1) s
  s.modHub fun h => { h with preempts := { core := k, queue := q, frozen := x :: zs, entries := old } :: h.preempts }

/-- The core set: a cluster and a mask of its cores in words 2 and 3, and further ones in words 5 to 31, a cluster in [9:0] and a
mask in [23:16] (log 15). -/
def coreSet (s : State) : List Nat :=
  let cores (cl : Nat) (mask : Word) : List Nat := ((List.range 8).filter fun j => bit mask j).map (cl * 8 + ·)
  (cores (mailWord s 2).toNat (mailWord s 3) ++ (List.range 27).flatMap fun i =>
    cores (bits (mailWord s (5 + i)) 9 0) (mailWord s (5 + i) >>> 16)).eraseDups.filter isCoreNo

def execPreempt (s : State) : Res :=
  mailEvent 8 (fun s =>
    let x := (mailWord s 1).toNat
    let qi := (mailWord s 4).toNat
    match mfind s.queues qi with
    | none => mailDone s 1
    | some q =>
      if !isCtx s x || (mailWord s 2).toNat ≥ 896 || q.ctx = x then mailDone s 1
      else if (coreSet s).any fun k => preemptWaits s x q.ctx k then (coreSet s).foldl (preemptFreeze x q.ctx) s
      else mailDone ((coreSet s).foldl (fun s k => preemptCore x q.ctx qi k s) s) 0) s

end Sys2Proof.Machine
end

