-- ==== Sys2Proof/Machine/EvHost.lean ====
section
/-! DEFINITION. Events of the host link: the host's accesses, snoops and answers, and its loss (spec/16 R416-R418, spec/09
R234). -/

namespace Sys2Proof.Machine

/-- Bytes the host may reach through CXL.mem: 1 to 64 of one 64-byte line of region 0x0 or 0x1 (R417). -/
def hostRange (addr size : Nat) : Bool :=
  decide (1 ≤ size) && decide (size ≤ 64) && decide (addr % 64 + size ≤ 64) &&
  (decide (addr < 2^39) || (region addr == 1 && decide (addr % 2^48 < 2^41)))

/-- A host holds a device line Shared or better (R416). -/
def hostHolds (s : State) (l : Nat) (m : Bool) : State :=
  { s with host := { s.host with held := mset s.host.held l (m || (mfind s.host.held l).getD false) } }

/-- The eight bytes a host writes, repeated over the range. -/
def repeatBytes (size : Nat) (v : BitVec 64) : List Byte := (List.range size).map fun i => (toBytes 8 v.toNat).getD (i % 8) 0

/-- HOST_MEM_ACCESS: a host's load or store of device memory performs when the bridge holds the tokens it takes, and until
then asks for them (R234, R416, R417). -/
def execHostMemAccess (addr size : Nat) (wr : Bool) (v : BitVec 64) (s : State) : Res :=
  let l := lineOf addr
  let t := s.tok l 24
  .next (if !hostRange addr size || s.host.lost || !s.mgmt.powered || s.mgmt.booted.isNone then s
    else if wr then
      (if t.mayWrite then hostHolds (commit s 24 addr (repeatBytes size v)) l true else s.ask .getx l 24)
    else if t.mayRead then hostHolds s l false
    else s.ask .gets l 24)

/-- What an answer from the host leaves: 0 BISnpData, 1 BISnpInv, 2 RdShared, 3 RdOwn, 4 RdOwnNoData, 5 the acknowledgement of
a store, 6 and 7 of an eviction. Data that comes from the host is what it now is there (R416). -/
def hostAnswer (s : State) (kind l : Nat) : State :=
  let hold (s : State) (m : FMap Bool) : State := { s with host := { s.host with held := m } }
  let got (s : State) (b : Bool) : State := { s with host := { s.host with got := mset s.host.got l b } }
  let had := (mfind s.host.got l).isSome
  match kind with
  | 0 => if (mfind s.host.held l).isSome then hold s (mset s.host.held l false) else s
  | 1 => hold s (merase s.host.held l)
  | 2 => got (if had then s else freshLine s l) ((mfind s.host.got l).getD false)
  | 3 => got (if had then s else freshLine s l) true
  | 4 => got s true
  | _ => s

/-- The host has acknowledged the store of a die to a line: it performs (R214). -/
def hostAck (s : State) (l die : Nat) : State :=
  match (s.die die).order.find? fun x => lineOf x.dpa == l && x.sent == 1 with
  | some x => performSent s die x.seq
  | none => s

def execHostResponse (i : Nat) (s : State) : Res :=
  .next (match s.host.asked[i]? with
    | none => s
    | some (kind, l, agent, _) =>
      let s : State := { s with host := { s.host with asked := ldel s.host.asked i } }
      if kind = 5 then hostAck s l agent else hostAnswer s kind l)

/-- HOST_SNOOP: the host asks for a line of its memory back, which the bridge gathers from the package at once under R197. -/
def execHostSnoop (line : Nat) (s : State) : Res :=
  .next (if region (128 * line) ≠ 2 || (mfind s.host.got line).isNone then s
    else if (s.tok line 24).mayWrite && !collecting s line 24 then
      { s with host := { s.host with got := merase s.host.got line } }
    else s.askHome .getx line true)

/-- An engine's job or transfer on a die ends with a status. -/
def endEngine (s : State) (die id : Nat) (c : Code) : State :=
  (List.range 112).foldl (fun s j =>
    let cl := die * 112 + j
    let s := ((s.cluster cl).jobs.filter fun y => y.id = id).foldl (endJob · cl c) s
    ((s.cluster cl).xfers.filter fun y => y.id = id).foldl (endTransfer · cl c) s) s

/-- A store of a die's order that nothing answers is lost: its thread, or its engine's work, meets DEAD (R418, R420). -/
def storeLost (s : State) (die seq : Nat) : State :=
  match (s.die die).order.find? fun x => x.seq == seq with
  | none => s
  | some x =>
    let s := performDie (s.modDie die fun d => { d with order := d.order.filter fun y => y.seq ≠ seq }) die
    match x.tid, x.eng with
    | some t, _ => lostStore s t
    | none, some e => endEngine s die e DEAD
    | none, none => s

/-- Stores of region 0x2 in the dies' orders are lost. -/
def dropHostStores (s : State) : State :=
  let mine := s.dies.flatMap fun e => (e.2.order.filter fun x => region x.dpa = 2).map fun x => (e.1, x.seq)
  mine.foldl (fun s e => storeLost s e.1 e.2) s

/-- Whether a coherence message is about a line of host memory. -/
def ofHost : Coh → Bool
  | .request _ l _ _ => region (128 * l) == 2
  | .forward _ l _ _ => region (128 * l) == 2
  | .tokens l _ _ _ _ => region (128 * l) == 2
  | .persist _ l _ _ => region (128 * l) == 2
  | .act _ l _ _ => region (128 * l) == 2
  | .deact _ _ => false
  | .doneMsg _ l _ => region (128 * l) == 2

/-- Every line of host memory is forgotten, with the copies of it: nothing answers for one (R418). -/
def dropHostLines (s : State) : State :=
  let here (l : Nat) : Bool := region (128 * l) == 2
  let ls := (s.coh.lines.filter fun e => here e.1).map (·.1)
  let s := ls.foldl (fun s l => (List.range 8).foldl (fun s d => dropCopies s d l) s) s
  dropHostStores (s.modCoh fun c =>
    { c with lines := c.lines.filter (fun e => !here e.1), msgs := c.msgs.filter (fun m => !ofHost m),
             outs := c.outs.filter (fun o => !here o.line), persist := c.persist.filter (fun p => !here p.line),
             acts := c.acts.filter (fun a => !here a.2.2.1), stale := c.stale.filter (fun e => !here e.1) })

/-- The host and the link are lost: the fabric stops delivering to agent 24, and every home takes the census as R210 says, when
nothing to or from it is left (R418). -/
def loseHost (s : State) : State :=
  let s := s.modCoh fun c => { c with lostAgents := if c.lostAgents.contains 24 then c.lostAgents else c.lostAgents ++ [24] }
  let s : State := { s with host := { s.host with held := [], asked := [], got := [], lost := true, lostAt := some s.cycle } }
  dropHostLines s

/-- HOST_LOST: a snoop or request has had no answer for 50 ms. -/
def execHostLost (s : State) : Res :=
  .next (if !s.host.lost && s.host.asked.any (fun e => decide (s.cycle ≥ e.2.2.2 + nsCycles 50000000)) then loseHost s else s)

/-- The link to the host is lost, which is no answer either (R414, R418). -/
def dropLink (s : State) : State := if s.host.lost || !s.mgmt.powered then s else loseHost s

/-- LINK_RETRAIN: queues read packets again (R418); the fabric delivers to agent 24 again, after any census. -/
def execLinkRetrain (s : State) : Res :=
  let t : State := { s with host := { s.host with lost := false } }
  .next (if s.host.lostAt.isSome then t else t.modCoh fun c => { c with lostAgents := c.lostAgents.filter (· ≠ 24) })

end Sys2Proof.Machine
end

