-- ==== Sys2Proof/Machine/EvPeers.lean ====
section
/-! DEFINITION. Events of peer packages: sessions, what arrives in them, and the Ethernet ports (spec/16 R419-R422, spec/11
R283, R288, R289, spec/12 R330). Message kinds: 0 to 6 operations on futures, 7 a wake, 8 a reply, 9 an active message, 10
its return, 12 to 14 a load, a store and an AMO of the exported window, 15 its answer (log 24). -/

namespace Sys2Proof.Machine

/-! ## Futures of other packages -/

def unpackView (w v : Word) : View :=
  { out := BitVec.ofNat 3 (bits w 2 0), value := v, code := BitVec.ofNat 8 (bits w 15 8), flags := BitVec.ofNat 6 (bits w 21 16) }

def peerOp (kind : Nat) (arg : Word) : FOp :=
  match kind with
  | 0 => .resolve arg
  | 1 => .fpois (BitVec.ofNat 8 arg.toNat)
  | 2 => .cancel
  | 3 => .frel
  | 4 => .touch
  | 5 => .touchp
  | _ => .fstat

/-- The local context bound to a sender's BIND tag; 64, which no context has, where there is none (R422). -/
def boundCtx (s : State) (tag : Nat) : Nat := (mfind s.peers.binds tag).getD 64

/-- An operation from another package is performed at its entry; waiters there are recorded under 1024 and its chip. -/
def peerRequest (s : State) (chip kind tag : Nat) (w : Nat → Word) : Option State :=
  let h := w 0
  if !isLocal s h then some s
  else if clusterMoving s (hCl h) then none
  else
    let (m, s) := fopAt s (hCl h) { tid := 0, ctx := boundCtx s tag, cl := 1024 + chip, h := h, op := peerOp kind (w 1) }
    some (if kind = 3 || bits (w 2) 15 0 = 1023 then s
          else peerSend s chip 8 [h, w 2, packView m.view, m.view.value, m.ret])

/-- Every cluster of the package that has waiters of another package's future wakes them; a queue that waits learns of it. -/
def peerWake (s : State) (h : Word) (v : View) : State :=
  let on (c : Cluster) : Cluster :=
    ({ c with remoteWaits := c.remoteWaits.filter fun w => w.1 ≠ h } : Cluster).addWakes s.cycle
      ((c.remoteWaits.filter fun w => w.1 = h).map fun w => { tid := w.2, h := h, view := v })
  let queue (q : Queue) : Queue :=
    if q.answer.isSome && (q.pkt.map fun p => p.2.getD 0 0) = some h then { q with answer := some v } else q
  { s with clusters := s.clusters.map (fun e => (e.1, on e.2)), queues := s.queues.map (fun e => (e.1, queue e.2)) }

/-- A reply from another package reaches the thread or the queue that asked; none while the thread cannot take it. -/
def peerReply (s : State) (h place : Word) (v : View) (ret : Word) : Option State :=
  let cl := bits place 15 0
  let tid := bits place 63 16
  if cl = 1022 then some (s.modQueue tid fun q => if q.answer.isSome then { q with answer := some v } else q)
  else if cl ≥ 896 then some s
  else if (s.task tid).ask.isSome then
    if unitSilent s (s.task tid).core then none
    else match answerThread s { tid := tid, ctx := (s.task tid).ctx, cl := cl, h := h, op := .touch, view := v, ret := ret } with
      | (s', true) => some s'
      | (_, false) => none
  else if v.out ≠ 4 && (s.cluster cl).remoteWaits.contains (h, tid) then
    some (s.modCluster cl fun c =>
      ({ c with remoteWaits := c.remoteWaits.erase (h, tid) } : Cluster).addWakes s.cycle [{ tid := tid, h := h, view := v }])
  else some s

/-! ## Active messages of other packages -/

/-- A message for the context bound to its sender's tag; with none it goes back with MSG_DEST (R422). -/
def peerMsg (s : State) (tag : Nat) (ws : List Word) : State :=
  let w (n : Nat) : Word := ws.getD n 0
  let m : Msg := { dst := descCore (w 0), src := 0, ctx := boundCtx s tag, tid := (w 3).toNat, words := ws.drop 4, fut := w 2,
                   since := s.cycle, desc := w 1, peer := true }
  if (mfind s.peers.binds tag).isNone || !isCoreDesc (w 0) then peerReturn s m MSG_DEST
  else s.modNet fun n => { n with msgs := n.msgs ++ [m] }

/-- A message that this package sent comes back with a code: its tag's word says which task sent it, from which slot (R330, R378). -/
def msgBack (s : State) (desc fut tag : Word) (code : Code) : State :=
  returnMsg s { dst := 0, src := descCore desc, ctx := tag.toNat % 64, tid := tag.toNat / 4096, slot := tag.toNat / 64 % 64,
                 words := [], fut := fut, desc := desc } code

/-! ## The exported window (R422) -/

/-- Bytes that a home writes, line by line. -/
def homeWrites (s : State) (a : Nat) (bs : List Byte) : State :=
  let n := 128 - a % 128
  let s := homeWrite s a (bs.take n)
  if bs.length ≤ n then s else homeWrite s (a + n) (bs.drop n)

/-- A line of the window that an access of `n` bytes needs and whose tokens its home has not gathered. -/
def peerNeeds (s : State) (dpa n : Nat) : Option Nat :=
  [lineOf dpa, lineOf (dpa + n - 1)].find? fun l => !(s.tok l (homeAgent s l)).mayWrite

/-- An access of another package performs at its lines' home once that has gathered the lines' tokens: words offset, length
and number, then a store's poison mask and bytes, or an AMO's operation and two operands. The answer carries the number, whether
the bytes are poisoned, and what was there; for a place outside the window, nothing (log 24). -/
def peerAccess (s : State) (chip kind : Nat) (ws : List Word) : Option State :=
  let w (n : Nat) : Word := ws.getD n 0
  let off := (w 0).toNat
  let n := (w 1).toNat
  let dpa := s.peers.window + off
  if n = 0 || off % 128 + n > 128 || s.peers.windowLen < off + n then some (peerSend s chip 15 [w 2, 1])
  else match peerNeeds s dpa n with
  | some l => some (s.askHome .getx l)
  | none =>
    let s := [lineOf dpa, lineOf (dpa + n - 1)].foldl (fun s l => settleOuts s l (homeAgent s l)) s
    let old := memBytes s.mem dpa n
    let bad := (poisonIn s.poison dpa n).isSome
    let answer (s : State) (bs : List Byte) : State := peerSend s chip 15 ([w 2, if bad then 1 else 0] ++ bytesWords bs)
    match kind with
    | 12 => some (answer s old)
    | 13 =>
      let s := homeWrites s dpa (((ws.drop 4).flatMap fun v => toBytes 8 v.toNat).take n)
      let lost := ((wordsOf dpa n).zipIdx.filter fun e => bit (w 3) e.2).map (·.1)
      some (answer { s with poison := poisonSet s.poison lost } [0])
    | _ => some (answer (if bad then s
        else homeWrites s dpa (toBytes 8 (amoNew (bits (w 3) 3 0) (w64 (leVal old)) (w 4) (w 5)).toNat)) old)

/-- The answer to an access of a peer's memory: a store of a die's order performs, or is lost; another waits to be taken. -/
def peerAnswer (s : State) (id : Nat) (a : Bool × List Word) : State :=
  match mfind s.peers.accs id with
  | none => s
  | some x =>
    if x.who.1 = 2 then
      let s := putAccs s (merase s.peers.accs id)
      if a = (true, []) then storeLost s (x.who.2 / 2^64) (x.who.2 % 2^64) else performSent s (x.who.2 / 2^64) (x.who.2 % 2^64)
    else putAccs s (mset s.peers.accs id { x with answer := some a })

/-- Whether an access of the window must wait for its line's tokens. -/
def peerWaits (s : State) (kind : Nat) (w : Nat → Word) : Bool :=
  decide (12 ≤ kind) && decide (kind ≤ 14) && w 1 != 0 && decide ((w 0).toNat % 128 + (w 1).toNat ≤ 128) &&
  decide ((w 0).toNat + (w 1).toNat ≤ s.peers.windowLen) && (peerNeeds s (s.peers.window + (w 0).toNat) (w 1).toNat).isSome

/-! ## Data (R419, R420) -/

def putSession (s : State) (chip : Nat) (x : Session) : State :=
  { s with peers := { s.peers with sessions := mset s.peers.sessions chip x } }

def putWaiting (s : State) (ws : List (Nat × Nat × List Word)) : State := { s with peers := { s.peers with waiting := ws } }

/-- What a message does; none while it cannot be taken. -/
def peerTake (s : State) (chip kind : Nat) (ws : List Word) : Option State :=
  let w (n : Nat) : Word := ws.getD n 0
  let k := kind % 256
  let tag := kind / 256 % 2^16
  if k ≤ 6 then peerRequest s chip k tag w
  else match k with
    | 7 => some (peerWake s (w 0) (unpackView (w 1) (w 2)))
    | 8 => peerReply s (w 0) (w 1) (unpackView (w 2) (w 3)) (w 4)
    | 9 => some (peerMsg s tag ws)
    | 10 => some (msgBack s (w 0) (w 1) (w 3) (BitVec.ofNat 8 (w 2).toNat))
    | 12 => peerAccess s chip 12 ws
    | 13 => peerAccess s chip 13 ws
    | 14 => peerAccess s chip 14 ws
    | 15 => some (peerAnswer s (w 0).toNat (w 1 != 0, ws.drop 2))
    | _ => some s

/-- The highest sequence received in order, given those seen. -/
def inOrder (a : Nat) (seen : List Nat) : Nat → Nat
  | 0 => a
  | n + 1 => if seen.contains (a + 1) then inOrder (a + 1) seen n else a

/-- An acknowledgement, TYPE 1. -/
def ackGram (s : State) (chip n : Nat) : Datagram :=
  { ty := 1, schip := s.peers.chip.toNat, dchip := chip, ack := n, session := ((mfind s.peers.sessions chip).map Session.number).getD 0
    dest := peerAddr s chip }

/-- An opening or closing of a session, TYPE 2 or 3. -/
def sessionGram (s : State) (ty chip session : Nat) : Datagram :=
  { ty := ty, schip := s.peers.chip.toNat, dchip := chip, session := session, dest := peerAddr s chip }

def sendGram (s : State) (d : Datagram) : State := { s with peers := { s.peers with sent := s.peers.sent ++ [d] } }

def sendPeerAck (s : State) (chip n : Nat) : State :=
  sendGram s (ackGram s chip n)

/-- A sequence number has been delivered: it is acknowledged, and never delivered again. -/
def noteSeen (s : State) (chip seq : Nat) : State :=
  match mfind s.peers.sessions chip with
  | none => s
  | some x =>
    let seen := if x.seen.contains seq then x.seen else x.seen ++ [seq]
    let a := inOrder x.acked seen seen.length
    sendPeerAck (putSession s chip { x with acked := a, seen := seen.filter (· > a) }) chip a

/-- PEER_DATA: delivered once within its session; one that must wait for tokens or a thread is not acknowledged, and comes
again. -/
def execPeerData (chip session seq kind : Nat) (ws : List (BitVec 64)) (s : State) : Res :=
  .next (match mfind s.peers.sessions chip with
    | none => s
    | some x =>
      if x.number ≠ session then s
      else if seq ≤ x.acked || x.seen.contains seq then sendPeerAck s chip x.acked
      else match peerTake s chip kind ws with
        | none => s
        | some s' => if peerWaits s (kind % 256) (fun n => ws.getD n 0) then s' else noteSeen s' chip seq)

/-- Active messages acknowledged free their sending cores' buffers (R329). -/
def freeBuffers (s : State) (us : List (Nat × Nat × List Word × Nat)) : State :=
  (us.filter fun u => u.2.1 % 256 = 9).foldl (fun s u =>
    s.modCore (descCore (u.2.2.1.getD 1 0)) fun c => { c with sendBufs := c.sendBufs - 1 }) s

/-- PEER_ACK: everything up to a sequence number has arrived. -/
def execPeerAck (chip seq : Nat) (s : State) : Res :=
  .next (match mfind s.peers.sessions chip with
    | none => s
    | some x =>
      let s := freeBuffers s (x.unacked.filter fun u => u.1 ≤ seq)
      putSession s chip { x with unacked := x.unacked.filter (fun u => u.1 > seq), resent := x.resent.filter (fun e => e.1 > seq), lastAck := s.cycle })

/-! ## Sessions (R420, R421) -/

/-- What becomes of a message that a session's end leaves unacknowledged (R420). -/
def endData (chip : Nat) (s : State) (u : Nat × Nat × List Word × Nat) : State :=
  let k := u.2.1 % 256
  let w (n : Nat) : Word := u.2.2.1.getD n 0
  if k = 9 then msgBack (freeBuffers s [u]) (w 1) (w 2) (w 3) DEAD
  else if k = 13 || k = 14 then peerAnswer s (w 2).toNat (true, [])
  else if k ≤ 10 || k = 12 then putWaiting s (s.peers.waiting ++ [(chip, u.2.1, u.2.2.1)])
  else s

def endSession (s : State) (chip : Nat) : State :=
  match mfind s.peers.sessions chip with
  | none => s
  | some x =>
    let p : Peers := { s.peers with sessions := merase s.peers.sessions chip, downAt := mset s.peers.downAt chip s.cycle }
    let s : State := { s with peers := p }
    x.unacked.foldl (endData chip) s

/-- SESSION_OPEN: a new session with a chip, which this package opens or the other has opened, and in which what waited for one
is sent. Sequence numbers begin at 1, and an opening is answered with one (log 24). -/
def execSessionOpen (chip session : Nat) (s : State) : Res :=
  .next (if (mfind s.peers.sessions chip).any fun x => x.number == session then s
    else
      let s := endSession s chip
      let ws := s.peers.waiting.filter fun e => e.1 = chip
      let s := putWaiting s (s.peers.waiting.filter fun e => e.1 ≠ chip)
      let s := putSession s chip { number := session, nextSeq := 1, lastAck := s.cycle }
      let s := sendGram { s with peers := { s.peers with downAt := merase s.peers.downAt chip } } (sessionGram s 2 chip session)
      ws.foldl (fun s e => peerSend s chip e.2.1 e.2.2) s)

/-- SESSION_CLOSE: the other package resets, or ends the session. -/
def execSessionClose (chip : Nat) (s : State) : Res := .next (endSession s chip)

/-- A message that waits for a session with a chip that cannot be reached: its operation is answered as R283 says, or it is
returned; what must wait stays. -/
def dropWaiting (s : State) (e : Nat × Nat × List Word) : State :=
  let k := e.2.1 % 256
  let w (n : Nat) : Word := e.2.2.getD n 0
  let keep (s : State) : State := putWaiting s (s.peers.waiting ++ [e])
  if k ≤ 6 then
    let m := unreachable { tid := 0, ctx := 64, cl := 0, h := w 0, op := peerOp k (w 1) }
    (peerReply s (w 0) (w 2) m.view m.ret).getD (keep s)
  else if k = 9 then
    (msgBack s (w 1) (w 2) (w 3) DEAD).modCore (descCore (w 1)) fun c => { c with sendBufs := c.sendBufs - 1 }
  else if 12 ≤ k && k ≤ 14 then peerAnswer s (w 2).toNat (true, [])
  else s

/-- Futures of a chip that tasks and queues of this package wait on. -/
def waitedOn (s : State) (chip : Nat) : List Word :=
  ((s.clusters.flatMap fun e => (e.2.remoteWaits.filter fun w => hChip w.1 = chip).map (·.1)) ++
   (s.queues.filterMap fun e => if e.2.answer.isSome then (e.2.pkt.map fun p => p.2.getD 0 0) else none)).eraseDups.filter
    fun h => hChip h = chip

/-- A session that this package ends: the other is told. -/
def closeSession (s : State) (chip : Nat) : State :=
  match mfind s.peers.sessions chip with
  | none => s
  | some x => endSession (sendGram s (sessionGram s 3 chip x.number)) chip

/-- SESSION_TIMEOUT: no acknowledgement for 1 s ends a session; a session down for more than 1 s makes its chip one that
cannot be reached. -/
def execSessionTimeout (chip : Nat) (s : State) : Res :=
  let sec := nsCycles 1000000000
  .next (match mfind s.peers.sessions chip with
    | some x =>
      if decide (s.cycle ≥ x.lastAck + sec) && x.unacked.any (fun u => decide (s.cycle ≥ u.2.2.2 + sec)) then closeSession s chip
      else s
    | none =>
      match mfind s.peers.downAt chip with
      | none => s
      | some d =>
        if s.cycle ≤ d + sec then s
        else
          let ws := s.peers.waiting.filter fun e => e.1 = chip
          let s := putWaiting s (s.peers.waiting.filter fun e => e.1 ≠ chip)
          let s := ws.foldl dropWaiting s
          (waitedOn s chip).foldl (fun s h => peerWake s h (poisonView DEAD)) s)

/-- Every unacknowledged datagram: its chip and what the session holds of it. -/
def allUnacked (s : State) : List (Nat × Nat × Nat × List Word × Nat) :=
  s.peers.sessions.flatMap fun e => e.2.unacked.map fun u => (e.1, u)

/-- PEER_RESEND: an unacknowledged datagram goes out again after 20 µs, over any working port. -/
def execPeerResend (i : Nat) (s : State) : Res :=
  .next (match (allUnacked s)[i]? with
    | none => s
    | some (chip, seq, kind, ws, at') =>
      let last := ((mfind s.peers.sessions chip).map fun x => mget at' x.resent seq).getD at'
      if s.cycle < last + nsCycles 20000 || !(s.mgmt.ethPorts.any fun e => e.2 ≠ 0) then s
      else match mfind s.peers.sessions chip with
        | none => s
        | some x =>
          sendGram (putSession s chip { x with resent := mset x.resent seq s.cycle }) (dataGram s x chip seq kind ws))

/-! ## The datagram's bytes (R419) -/

/-- The header's three words, each little-endian (R1), and the payload. -/
def Datagram.body (d : Datagram) : List Byte :=
  toBytes 8 (2^60 + d.ty * 2^56 + d.bind * 2^40 + d.schip * 2^20 + d.dchip) ++ toBytes 8 (d.seq % 2^32 * 2^32 + d.ack % 2^32) ++
  toBytes 8 (d.session % 2^32 * 2^32 + d.cls * 2^16 + 8 * d.payload.length) ++ d.payload.flatMap fun w => toBytes 8 w.toNat

/-- CRC-32C over header and payload follows the payload. -/
def crc32c : List Byte → BitVec 32 := crcReflected 0x82F63B78

def Datagram.bytes (d : Datagram) : List Byte := d.body ++ toBytes 4 (crc32c d.body).toNat

/-- A datagram read from its bytes; none where it is dropped: its CRC fails, it is too short or too long, or of another VER. -/
def readDatagram (bs : List Byte) : Option Datagram :=
  let n := bs.length - 4
  let w (i : Nat) : Word := w64 (leVal ((bs.drop (8 * i)).take 8))
  if bs.length < 28 || (bs.drop n) != toBytes 4 (crc32c (bs.take n)).toNat || bits (w 0) 63 60 != 1 || bits (w 2) 15 0 != n - 24 ||
      decide (512 < n - 24) || n % 8 != 0 then none
  else some { ty := bits (w 0) 59 56, bind := bits (w 0) 55 40, schip := bits (w 0) 39 20, dchip := bits (w 0) 19 0,
              seq := bits (w 1) 63 32, ack := bits (w 1) 31 0, session := bits (w 2) 63 32, cls := bits (w 2) 31 16,
              payload := (List.range ((n - 24) / 8)).map fun i => w (3 + i) }

/-- What a datagram for this package is to it: the steps that it brings, an acknowledgement of what has come before it last. One
of another session than the chip's own acknowledges and closes nothing. -/
noncomputable def datagramSteps (s : State) (d : Datagram) : List Instr :=
  let own := (mfind s.peers.sessions d.schip).any fun x => x.number == d.session
  if d.dchip ≠ s.peers.chip.toNat then []
  else match d.ty with
    | 0 => if own then [.peerData d.schip d.session d.seq (d.cls % 256 + 256 * d.bind) d.payload, .peerAck d.schip d.ack] else []
    | 1 => if own then [.peerAck d.schip d.ack] else []
    | 2 => [.sessionOpen d.schip d.session]
    | 3 => if own then [.sessionClose d.schip] else []
    | _ => []

/-- ETHERNET_PORT_CHANGE: a port is 0 down, 1 at 800 Gb/s or 2 at 1.6 Tb/s (R419, R424). -/
def execEthernetPortChange (port st : Nat) (s : State) : Res :=
  .next (if port < 18 && st ≤ 2 then s.modMgmt fun m => { m with ethPorts := mput 0 m.ethPorts port st } else s)

end Sys2Proof.Machine
end

