-- ==== Sys2Proof/Machine/EvMgmt.lean ====
section
/-! DEFINITION. Events of Pyelle, the security root, the command-processor pairs, and resets of levels 6 and 7 (spec/16
R423-R428, spec/15 R407). -/

namespace Sys2Proof.Machine

/-! ## Effecters and sensors (R424) -/

/-- In recovery Pyelle accepts PLDM Type 5 alone (R426). -/
def inRecovery (s : State) : Bool := s.mgmt.powered && s.mgmt.booted.isNone

/-- A refused write of an effecter: ERROR_INVALID_DATA of DSP0240, 0x02 (PRESUMED, log 10). -/
def refuseWrite (s : State) (id : Nat) : State := s.modMgmt fun m => { m with replies := m.replies ++ [(id, 2)] }

/-- Power as it stands against the limit: since when above it, and shedding by it over at 2% below. -/
def notePower (s : State) (v : Nat) : State :=
  s.modMgmt fun m =>
    { m with power := v
             overSince := if v > m.powerLimit then some (m.overSince.getD s.cycle) else none
             forceShed := m.forceShed && decide (v * 100 > m.powerLimit * 98) }

/-- POWER_LIMIT_WRITE: the power last measured stands against the new limit. -/
def execPowerLimitWrite (v : Nat) (s : State) : Res :=
  .next (if inRecovery s then s
    else if 1200 ≤ v && v ≤ 4800 then notePower (s.modMgmt fun m => { m with powerLimit := v }) s.mgmt.power
    else refuseWrite s 2)

def execShedThresholdWrite (v : Nat) (s : State) : Res :=
  .next (if inRecovery s then s else if 70 ≤ v && v ≤ 105 then s.modMgmt fun m => { m with shedAt := v } else refuseWrite s 3)

/-- The hottest core of a die. -/
def hottest (s : State) (d : Nat) : Nat :=
  ((s.cores.filter fun e => dieOfCore e.1 = d).map fun e => e.2.temp).foldl max 0

/-- Spare cores and spare clusters left (R438): one core to a cluster, four clusters to a die. -/
def spareCores (s : State) : Nat := 896 - (s.clusters.map fun e => min 1 e.2.failedCores.length).sum

def spareClusters (s : State) : Nat := 32 - (s.dies.map fun e => min 4 e.2.failed.length).sum

/-- A sensor's value: what it measures outside is `v`, what the package counts is the count modulo 2^32. -/
def sensorValue (s : State) (id v : Nat) : Nat :=
  let m := s.mgmt
  if 0x10 ≤ id && id ≤ 0x17 then hottest s (id - 0x10)
  else if 0x50 ≤ id && id ≤ 0x61 then mget 0 m.ethPorts (id - 0x50)
  else match id with
    | 0x02 => m.powerLimit
    | 0x03 => m.shedAt
    | 0x30 => m.peak.toNat
    | 0x31 => m.syncLost % 2^32
    | 0x40 => m.corrected % 2^32
    | 0x41 => m.poisoned % 2^32
    | 0x42 => m.retiredCores % 2^32
    | 0x43 => spareCores s
    | 0x44 => spareClusters s
    | 0x80 => m.booted.getD 0
    | _ => v

/-- The sensors of the table. -/
def isSensor (id : Nat) : Bool :=
  (1 ≤ id && id ≤ 3) || (0x10 ≤ id && id ≤ 0x20) || id == 0x30 || id == 0x31 || (0x40 ≤ id && id ≤ 0x44) ||
  (0x50 ≤ id && id ≤ 0x61) || id == 0x70 || id == 0x80

/-- TELEMETRY_UPDATE: a sensor is read; none is in recovery (R426), or while Pyelle restarts (R427). -/
def execTelemetryUpdate (id v : Nat) (s : State) : Res :=
  .next (if !isSensor id || inRecovery s || s.cycle < s.mgmt.pause then s
    else
      let s := if id = 1 then notePower s v else if id = 0x70 then s.modMgmt fun m => { m with cxlLink := v } else s
      s.modMgmt fun m => { m with sensors := mset m.sensors id (sensorValue s id v) })

/-- POWER_LIMIT_SHED: power has stayed above the limit for 10 ms. -/
def execPowerLimitShed (s : State) : Res :=
  .next (match s.mgmt.overSince with
    | some c => if s.cycle ≥ c + nsCycles 10000000 then s.modMgmt fun m => { m with forceShed := true } else s
    | none => s)

/-! ## Booting (R425, R426) -/

/-- CRC-32 with the IEEE 802.3 polynomial. -/
def crc32 : List Byte → BitVec 32 := crcReflected 0xEDB88320

def markerCrc (seq : BitVec 32) (slot : BitVec 8) : BitVec 32 := crc32 (toBytes 4 seq.toNat ++ [slot, 0, 0, 0])

def Marker.valid (m : Marker) : Bool := m.crc == markerCrc m.seq m.slot && decide (m.slot.toNat ≤ 1)

/-- The valid marker copies in descending SEQ. -/
def validMarkers (m : Mgmt) : List Marker :=
  let both := if m.markA.seq.ult m.markB.seq then [m.markB, m.markA] else [m.markA, m.markB]
  both.filter (·.valid)

def slotImage (m : Mgmt) (slot : Nat) : Image := if slot = 0 then m.slot0 else m.slot1

/-- A slot's signature verifies; a partly written slot's never does (R426, R427). -/
def slotVerifies (m : Mgmt) (slot : Nat) : Bool := (slotImage m slot).whole && Config.imageVerifies (slotImage m slot).digest

/-- BootChoice; none is recovery. -/
def bootChoice (m : Mgmt) : Option Nat :=
  ((validMarkers m).map (fun (c : Marker) => c.slot.toNat) ++ [0, 1]).find? (slotVerifies m)

/-- The units that a package stands on: what is mapped where, and what has failed, which never issues again (R383). -/
def keepUnits (s t : State) : State :=
  { t with dies := s.dies.map fun e => (e.1, { failed := e.2.failed, failedCores := e.2.failedCores })
           clusters := s.clusters.map fun e => (e.1, { phys := e.2.phys, failedCores := e.2.failedCores })
           cores := s.cores.map fun e => (e.1, { phys := e.2.phys, dead := e.2.dead && (s.cluster (clOfCore e.1)).failedCores.contains e.2.phys }) }

/-- The closing of every session, which a package that resets ends (R420). -/
def closingGrams (s : State) : List Datagram := s.peers.sessions.map fun e => sessionGram s 3 e.1 e.2.number

/-- The package after a level-7 reset or power-up: what R428 keeps is Pyelle's and the flash's. In recovery nothing of the
command processors runs. -/
def bootPackage (s : State) (m : Mgmt) : State :=
  let b := bootChoice m
  keepUnits s {
    freeIdx := s.freeIdx, nextId := s.nextId, inputs := s.inputs
    hub := { restart := b.isNone }
    peers := { sent := closingGrams s }
    mgmt := { m with booted := b, staged := false, pause := 0, powered := true, resetDue := false, sync := false, peak := 0xFFFF, skew := 0xFFFF,
                     published := false, overSince := m.overSince.map fun _ => 0, bootCount := m.bootCount + 1 } }

def resetInProgress (s : State) : Bool := s.dies.any fun e => e.2.down || e.2.resetting

/-- PACKAGE_RESET: at once, or when the die reset in progress has ended (R428). -/
def execPackageReset (s : State) : Res :=
  .next (if !s.mgmt.powered then s
    else if resetInProgress s then s.modMgmt fun m => { m with resetDue := true }
    else bootPackage s s.mgmt)

/-- A die that reads 115 °C, with what it reads (R424). -/
def overTemp (s : State) : Option (Nat × Nat) :=
  ((List.range 17).map fun d => (d, if d < 8 then hottest s d else mget 0 s.mgmt.sensors (0x10 + d))).find? fun e => decide (e.2 ≥ 115)

/-- The package without power: only Pyelle's and the flash's state is left. -/
def darkPackage (s : State) (m : Mgmt) : State :=
  keepUnits s { freeIdx := s.freeIdx, nextId := s.nextId, inputs := s.inputs, mgmt := { m with powered := false, booted := none } }

/-- OVERTEMP_POWER_OFF: a die reads 115 °C, and Pyelle, which runs on, removes the package's power (R424). -/
def execOvertempPowerOff (die temp : Nat) (s : State) : Res :=
  .next (if die < 17 && temp ≥ 115 && s.mgmt.powered then darkPackage s s.mgmt else s)

/-- POWER_LOSS: the flash alone is kept, with the number of resets. -/
def execPowerLoss (s : State) : Res :=
  let m := s.mgmt
  .next (darkPackage s
    { slot0 := m.slot0, slot1 := m.slot1, markA := m.markA, markB := m.markB, bootCount := m.bootCount })

def execPowerOn (s : State) : Res := .next (if s.mgmt.powered then s else bootPackage s s.mgmt)

/-! ## SPDM (R423) -/

/-- A request's response, which the security root alone can make (log 10). -/
def spdmReply (s : State) (code arg : Nat) : State :=
  if inRecovery s then s else s.modMgmt fun m => { m with replies := m.replies ++ [(code, Config.spdmResponse code arg)] }

def execGetVersion (s : State) : Res := .next (spdmReply s 0x84 0)
def execGetCapabilities (s : State) : Res := .next (spdmReply s 0xE1 0)

/-- NEGOTIATE_ALGORITHMS: ECDSA P-384 and SHA-384 alone, as the bits of BaseAsymSel (0x80) and BaseHashSel (0x02) that DSP0274
gives them (PRESUMED, log 10). -/
def execNegotiateAlgorithms (s : State) : Res :=
  .next (if inRecovery s then s else s.modMgmt fun m => { m with replies := m.replies ++ [(0xE3, 0x80 * 2^32 + 0x02)] })

def execGetDigests (s : State) : Res := .next (spdmReply s 0x81 0)

/-- GET_CERTIFICATE of one of the three slots; another is an InvalidRequest of DSP0274, 0x01 (PRESUMED, log 10). -/
def execGetCertificate (slot : Nat) (s : State) : Res :=
  .next (if slot < 3 then spdmReply s 0x82 slot
    else if inRecovery s then s else s.modMgmt fun m => { m with replies := m.replies ++ [(0x7F, 1)] })

def execChallenge (nonce : Nat) (s : State) : Res := .next (spdmReply s 0x83 nonce)
def execGetMeasurements (nonce : Nat) (s : State) : Res := .next (spdmReply s 0xE0 nonce)

/-- A PLDM Type 0 request (R423), by DSP0240's command numbers (PRESUMED, log 10): 1 SetTID, 2 GetTID, 4 GetPLDMTypes, which are
0, 2 and 5; to 3 GetPLDMVersion and 5 GetPLDMCommands the answer is open, and no other is a command. In recovery none is accepted. -/
def takePldm (s : State) (cmd arg : Nat) : State :=
  let answer (s : State) (v : Nat) : State := s.modMgmt fun m => { m with replies := m.replies ++ [(0x100 + cmd, v)] }
  if inRecovery s then s
  else match cmd with
    | 1 => answer (s.modMgmt fun m => { m with tid := arg % 256 }) 0
    | 2 => answer s s.mgmt.tid
    | 3 => answer s (Config.pldmResponse cmd arg)
    | 4 => answer s (2^0 + 2^2 + 2^5)
    | 5 => answer s (Config.pldmResponse cmd arg)
    | _ => refuseWrite s (0x100 + cmd)

/-! ## Update (R427) -/

/-- The slot that an update writes: the one not running, so that no step writes the active slot; in recovery, the one that the
newest marker does not name. -/
def inactiveSlot (m : Mgmt) : Nat :=
  match m.booted, validMarkers m with
  | some b, _ => 1 - b
  | none, c :: _ => 1 - c.slot.toNat
  | none, [] => 0

def putImage (m : Mgmt) (slot : Nat) (x : Image) : Mgmt := if slot = 0 then { m with slot0 := x } else { m with slot1 := x }

/-- REQUEST_UPDATE: refused below the active image's security version; else the image is being written, and what the slot
then holds is a free value until it is whole. -/
def execRequestUpdate (ver image : Nat) (s : State) : Res :=
  let active := (s.mgmt.booted.map fun b => (slotImage s.mgmt b).version).getD 0
  .next (if ver < active || s.mgmt.update.isSome then s.modMgmt fun m => { m with replies := m.replies ++ [(0x10, 1)] }
    else
      let (v, s) := s.free
      s.modMgmt fun m =>
        { putImage m (inactiveSlot m) { digest := v, whole := false } with update := some { digest := image, version := ver }, verified := false })

/-- VERIFY_COMPLETE: the slot is written; a failure ends the update. -/
def execVerifyComplete (s : State) : Res :=
  .next (match s.mgmt.update with
    | none => s
    | some x => s.modMgmt fun m =>
        let m := putImage m (inactiveSlot m) x
        if Config.imageVerifies x.digest then { m with verified := true } else { m with update := none, verified := false })

/-- The marker that names a slot with a sequence number. -/
def newMarker (seq : BitVec 32) (slot : Nat) : Marker :=
  let b := BitVec.ofNat 8 slot
  { seq := seq, slot := b, crc := markerCrc seq b }

/-- Whether copy B is the one that an update overwrites: the one that is not valid, or does not name the active slot where the
other does, or has the lower SEQ (DEDUCED, log 10). -/
def overwritesB (m : Mgmt) : Bool :=
  let names (c : Marker) : Bool := m.booted == some c.slot.toNat
  m.markA.valid && (!m.markB.valid || (names m.markA && !names m.markB) ||
    (names m.markA == names m.markB && !m.markA.seq.ult m.markB.seq))

/-- APPLY_COMPLETE: the copy takes the higher SEQ plus one and the new slot. -/
def execApplyComplete (s : State) : Res :=
  .next (if !s.mgmt.verified then s
    else s.modMgmt fun m =>
      let top := ((validMarkers m).head?.map (·.seq)).getD 0
      let c := newMarker (top + 1) (inactiveSlot m)
      let m := { m with update := none, verified := false, staged := true }
      if overwritesB s.mgmt then { m with markB := c } else { m with markA := c })

/-- ACTIVATE_FIRMWARE: a planned firmware restart. Pyelle's own component restarts Pyelle alone, and telemetry pauses for at most
2 s (R427; how long is free, log 10). -/
def execActivateFirmware (s : State) : Res :=
  .next (if s.mgmt.staged then
      let (f, s) := s.free
      (s.modMgmt fun m => { m with pause := s.cycle + f % (nsCycles 2000000000 + 1) }).modHub fun h => { h with restart := true }
    else s)

/-! ## Command-processor pairs (R407) -/

/-- LOCKSTEP_MISMATCH: the pairs stop dispatch for a restart; a pair's third within an hour takes it out of service. -/
def execLockstepMismatch (cp : Nat) (s : State) : Res :=
  .next (if cp ≥ 4 || s.hub.outOfService.contains cp || !s.mgmt.powered then s
    else s.modHub fun h =>
      let all := h.mismatches ++ [(cp, s.cycle)]
      let mine := all.filter fun e => e.1 = cp && decide (e.2 + nsCycles 3600000000000 ≥ s.cycle)
      { h with mismatches := all, restart := true
               outOfService := if mine.length ≥ 3 then h.outOfService ++ [cp] else h.outOfService })

/-- A queue resumes at its CRP: a WAIT is evaluated and a LAUNCH placed afresh, TIMED goes on. -/
def resumeAtCrp (s : State) (q : Queue) : Queue :=
  let gone (l : Nat) : Bool := (mfind s.launches l).any fun x => decide (x.st = .placing) && x.abandon.isNone
  let given := q.live.any fun l => (mfind s.launches l).any fun x => decide (x.st = .placing) && x.abandon.isSome
  if given then { q with mapped := false }
  else
    { q with rp := q.crp, pkt := none, answer := none, mapped := false, live := q.live.filter fun l => !gone l
             st := if q.st = .waiting || q.st = .placing then .run else q.st }

/-- Every halted thread's fault message that is not at its CSC any more is sent again (R428). -/
def resendFaults (s : State) : State :=
  s.tasks.foldl (fun s e => match e.2.halt with
    | some h =>
      let s := s.modTask e.1 fun t => { t with halt := some { h with held := false } }
      let cl := clOfCore e.2.core
      if (s.cluster cl).faults.any fun m => m.tid == e.1 then s
      else s.modCluster cl fun c => { c with faults := c.faults ++ [faultMsg s e.1 h] }
    | none => s) s

/-- FIRMWARE_RESTART: a command to Pyelle begins one (R428), and then the staged image, or the one that ran, starts; it waits for
a die reset in progress. -/
def execFirmwareRestart (s : State) : Res :=
  let b := if s.mgmt.staged then bootChoice s.mgmt else s.mgmt.booted
  .next (if !s.hub.restart then (if s.mgmt.powered && s.mgmt.booted.isSome then s.modHub fun h => { h with restart := true } else s)
    else if resetInProgress s || b.isNone || !s.mgmt.powered then s
    else
      let given := s.launches.filter fun e => decide (e.2.st = .placing) && e.2.abandon.isNone
      let s := given.foldl (fun s e => removeEntries s e.1 e.2) s
      let s := { s with queues := s.queues.map (fun e => (e.1, resumeAtCrp s e.2)),
                        launches := s.launches.filter (fun e => !(decide (e.2.st = .placing) && e.2.abandon.isNone)) }
      ((resendFaults s).modHub fun h => { h with restart := false, pairs := [] }).modMgmt fun m => { m with booted := b, staged := false })

end Sys2Proof.Machine
end

