-- ==== Sys2Proof/Machine/EvCycle.lean ====
section
/-! DEFINITION. A core's cycle and a router's (spec/12 R313-R318, spec/06 R125, spec/08 R185-R187, spec/15 R401). -/

namespace Sys2Proof.Machine

/-! ## Readiness (R314, R318) -/

/-- Whether a slot has valid entries and a shed has left none of them enabled (R322). -/
def shedOff (c : Core) (slot : Nat) : Bool :=
  ((List.range c.len).any fun i => entValid (tableEntry c i) && entSlot (tableEntry c i) == slot) && (slotEntries c slot).isEmpty

/-- A claim without groups that may not have any now (R120). -/
def claimWaits (s : State) (tid : Nat) : Bool :=
  match (s.task tid).claim with
  | some c => c.g == 0 && !mayFrame s (clOfCore (s.task tid).core) (s.task tid).ctx c.frame.isSome
  | none => false

/-- A shadow has a value of its leader's to take (R401, R403; log 21). -/
def shadowWaits (s : State) (tid : Nat) : Bool :=
  (s.task tid).shadow && match (s.task tid).pair with
    | some p => match (s.task p.other).pair with
      | some q => q.fwd.isEmpty
      | none => true
    | none => true

/-- The other member of a thread's pair stands on a unit that is being remapped: both freeze (R406). -/
def otherMoving (s : State) (t : Task) : Bool :=
  match t.pair with
  | some p => underRemap s (s.task p.other).core
  | none => false

/-- Why a thread is not ready before its instruction is looked at; an instruction's own waits show when it is tried. A thread
with beats outstanding is ready, also while its context freezes or its unit quiesces (R125, R127, R383). -/
def notReady (s : State) (tid : Nat) : Option Cause :=
  let t := s.task tid
  let c := s.core t.core
  if c.dead || c.stopped || c.missing then some .empty
  else if t.beats ≠ 0 then none
  else if shedOff c (t.slot.getD 64) then some .empty
  else if t.halt.isSome || (isFrozen s tid && !t.busy) || t.saved || t.waitUntil.isSome || unitSilent s t.core || otherMoving s t then some .empty
  else if t.lockRetry.isSome || claimWaits s tid then some .port
  else if t.park.isSome || t.ask.isSome || shadowWaits s tid || decide (s.cycle < t.nextAt) then some .opnd
  else none

/-- A cycle of a thread's own entry in which it does not issue (R318). -/
def charge (s : State) (tid : Nat) (c : Cause) : State := s.modTask tid fun t => { t with stalls := t.stalls.add c }

/-! ## Issue (R314) -/

/-- The candidates for a cycle that its entry's thread does not take: handlers of the context, then its threads in slots
after the entry's. -/
def donors (s : State) (k ctx slot : Nat) : List Nat :=
  let c := s.core k
  let on (i : Nat) : Option Nat := (mfind c.slots i).filter fun t => (s.task t).ctx == ctx
  [60, 61, 62, 63].filterMap on ++ ((List.range 59).map fun i => (slot + 1 + i) % 60).filterMap on

def finishCycle (s : State) (k : Nat) : State := s.modCore k fun c => { c with lastCycle := s.cycle, trying := none }

/-- A shadow's turn: it executes the instruction that its leader has retired, or takes what the leader forwards of a synchronising
one, after which both are at a new checkpoint (R403). -/
def stepShadow (s : State) (k tid : Nat) : State :=
  match ((s.task tid).pair.bind fun p => (s.task p.other).pair).bind fun q => q.fwd.head? with
  | none => finishCycle s k
  | some f => match f.r with
    | none => { s.modCore k (fun c => { c with trying := some tid }) with turn := some { tid := tid } }
    | some r =>
      finishCycle ((shadowDone s tid r (if f.sync then 0 else f.crc) false).modTask tid fun t =>
        { t with pair := t.pair.map fun p => if f.sync then { p with ckpt := r } else p }) k

/-- A thread's turn goes to the next beat of its vector instruction (R125). -/
def takeBeat (s : State) (tid : Nat) : State :=
  if (s.task tid).beats ≤ 1 then
    settleMark (s.modTask tid fun t => t.lastBeat s.cycle (t.after.getD { keys := [], lat := 0 })) (clOfCore (s.task tid).core)
  else s.modTask tid fun t => { t with beats := t.beats - 1 }

/-- The first of some threads that may be ready gets the turn: whether it is shows as its instruction is tried. -/
def tryThreads (s : State) (k : Nat) : List Nat → State
  | [] => finishCycle s k
  | u :: r =>
    if (notReady s u).isSome then tryThreads s k r
    else if (s.task u).beats ≠ 0 then finishCycle (takeBeat s u) k
    else
      let s := regainClaim s u
      if (s.task u).shadow then stepShadow s k u
      else { s.modCore k (fun c => { c with trying := some u }) with turn := some { tid := u } }

/-- Lines that prefetches wait for enter the first-level cache once the die may read them; those that nothing asks for any more
are given up (R251). -/
def fillPrefetched (s : State) (k : Nat) : State :=
  if (s.core k).l1Wait.isEmpty then s
  else
    let die := dieOfCore k
    let here := (s.core k).l1Wait.filter fun i => (s.tok (i / 2) die).mayRead
    let s := here.foldl (fun s i => let (f, s) := s.free; s.modCore k fun c => c.l1Put i false f) s
    let asked (i : Nat) : Bool := s.coh.outs.any fun o => o.line == i / 2 && o.agent == die
    s.modCore k fun c => { c with l1Wait := c.l1Wait.filter fun i => !here.contains i && asked i }

/-- What goes on in a core beside issue: parks, displacements and ends that waited for their release, slots that are free
again, saved tasks that had no room, tasks passed over, results for ports, claims that may run again, and a block of the
instruction cache dropped at no set time (log 20). -/
def upkeep (s : State) (k : Nat) : State :=
  let s := fillPrefetched (pushSaved (endLeaving (notePassed s k) k) k) k
  let s := (s.core k).slots.foldl (fun s e => tryDisplace (tryPark s e.2) e.2) s
  let s := ((s.tasks.filter fun e => e.2.ending && e.2.core == k).map (·.1)).foldl tryEnd s
  let s := ((s.tasks.filter fun e => !e.2.pushes.isEmpty && e.2.core == k && !ended e.2).map (·.1)).foldl pushDue s
  let s := (s.core k).slots.foldl (fun s e => regainClaim s e.2) s
  let (f, s) := s.free
  s.modCore k fun c => if f % 2 = 1 then { c with icache := ldel c.icache (f / 2 % max c.icache.length 1) } else c

/-- The entry of a core's table at the cycle under way. -/
def entryNow (s : State) (k : Nat) : BitVec 16 :=
  let c := s.core k
  tableEntry c ((s.cycle - c.base) % max c.len 1)

/-- The entry's thread does not issue. -/
def giveCycle (s : State) (k : Nat) (e : BitVec 16) : State :=
  if entStrict e then finishCycle s k else tryThreads s k (donors s k (entCtx e) (entSlot e))

/-- The cycle begins. -/
def startCycle (s : State) (k : Nat) : State :=
  let e := entryNow s k
  let named := mfind (s.core k).slots (entSlot e)
  if !entValid e then finishCycle (s.modCore k fun c => { c with scinval := c.scinval + 1 }) k
  else match named with
    | none => if entEn e then giveCycle s k e else finishCycle s k
    | some t =>
      if !entEn e then finishCycle (charge s t .therm) k
      else match notReady s t with
        | some c => giveCycle (charge s t c) k e
        | none => tryThreads s k [t]

/-- A thread has been tried: one that was not ready passes the cycle on. -/
def resumeCycle (s : State) (k u : Nat) : State :=
  match (s.task u).stall with
  | some (c, cause) =>
    if c ≠ s.cycle then finishCycle s k
    else
      let e := entryNow s k
      if mfind (s.core k).slots (entSlot e) = some u then giveCycle (charge s u cause) k e
      else tryThreads s k (((donors s k (entCtx e) (entSlot e)).dropWhile (· ≠ u)).drop 1)
  | none => finishCycle s k

/-- A WAITT of a core completes in this cycle, before its threads' turns (R340). -/
def waittWaits (s : State) (k : Nat) : Bool := s.tasks.any fun e => e.2.core == k && !ended e.2 && waittDue s e.2

/-- CORE_CYCLE: once for each core and cycle, in parts where a thread tried is not ready. A change of the table comes
first. -/
def execCoreCycle (core : Nat) (s : State) : Res :=
  let c := s.core core
  .next (if !isCoreNo core || s.turn.isSome || decide (s.cycle ≤ c.lastCycle) || tableDue s core || waittWaits s core then s
    else match c.trying with
      | none => startCycle (upkeep s core) core
      | some u => resumeCycle s core u)

/-! ## Routers (R185-R187) -/

/-- Fabric cycles: 2.0 GHz. -/
def fabricCycle (s : State) : Nat := s.cycle * 2 / 3

/-- The order of R186. -/
def Flit.older (x y : Flit) : Bool :=
  let d := (y.age - x.age).toNat
  if d ≠ 0 then decide (d ≤ 32767)
  else
    let key (f : Flit) : Nat := (((f.sdie * 256 + f.srt) * 16 + f.seq) * 4096 + f.msgid) * 2^32 + f.inPort
    decide (key x < key y)

def insertFlit (x : Flit) : List Flit → List Flit
  | [] => [x]
  | y :: r => if x.older y then x :: y :: r else y :: insertFlit x r

def byAge (fs : List Flit) : List Flit := fs.foldl (fun l x => insertFlit x l) []

/-- Whether an output of a router is joined to an input that answers to it: then every router has as many outputs as inputs, and
no two flits arrive on one input in one cycle, whatever the topology (R185, R186; log 40). -/
def joined (r p : Nat) : Bool :=
  match Config.neighbour r p with
  | some n => decide (Config.neighbour n.1 n.2 = some (r, p)) && decide (Config.linkOf n.1 n.2 = Config.linkOf r p) &&
      (Config.ports n.1).contains n.2
  | none => false

/-- Whether a port's link works (R188). -/
def portWorks (s : State) (r p : Nat) : Bool :=
  match Config.linkOf r p with
  | some l => !s.fabric.failedLinks.contains l
  | none => true

/-- The flits that came to a router before this fabric cycle. -/
def flitsAt (s : State) (r : Nat) : List Flit :=
  s.fabric.flits.filter fun x => x.router == r && decide (x.hopAt < fabricCycle s)

/-- A router has had this fabric cycle. -/
def cycledNow (s : State) (r : Nat) : Bool := decide (fabricCycle s < mget 0 s.fabric.cycled r)

/-- A router has a flit offered that it must let in within the next cycle: its neighbours send nothing into it (R187). -/
def mustGrant (s : State) (r : Nat) : Bool :=
  (s.fabric.offered.any fun x => x.router == r) && decide (fabricCycle s ≥ mget 0 s.fabric.granted r + 62)

/-- A flit's output: among those free that lead to no router about to grant its injection port, one that shortens its path if
there is one, else any; a deflection (R186, R187). -/
def chooseOut (s : State) (r : Nat) (x : Flit) (free : List Nat) (pick : Nat) : Option Nat :=
  let may := free.filter fun p => !((Config.neighbour r p).any fun n => mustGrant s n.1)
  let good := may.filter fun p => Config.shortens r p x.ddie x.drt
  let from' := if good.isEmpty then may else good
  from'[pick % max from'.length 1]?

/-- A flit leaves by an output: a good crossing of the output's link, if it crosses one, ends its own replays (R188). -/
def moveFlit (s : State) (r p : Nat) (x : Flit) : State :=
  let n := (Config.neighbour r p).getD (r, 0)
  let moved : Flit := { x with router := n.1, inPort := n.2, hopAt := fabricCycle s }
  let fab := { s.fabric with flits := s.fabric.flits.erase x ++ [moved] }
  let fab := match Config.linkOf r p with
    | some l =>
      if (mfind fab.crossing l).all fun o => o == (r, p) then { fab with replays := merase fab.replays l, crossing := merase fab.crossing l }
      else fab
    | none => fab
  { s with fabric := fab }

/-- A message all of whose flits have come is whole: by SDIE, SRT, MSGID and SEQ (R185). -/
def reassemble (s : State) (x : Flit) : State :=
  let same (y : Flit) : Bool := (y.sdie, y.srt, y.msgid, y.of') == (x.sdie, x.srt, x.msgid, x.of')
  let fab := s.fabric
  if (List.range x.of').all fun i => fab.delivered.any fun y => same y && y.seq == i then
    { s with fabric := { fab with delivered := fab.delivered.filter (fun y => !same y), messages := fab.messages + 1 } }
  else s

def deliverFlit (s : State) (x : Flit) : State :=
  let fab := s.fabric
  reassemble { s with fabric := { fab with flits := fab.flits.erase x, delivered := fab.delivered ++ [x] } } x

/-- Flits leave by outputs, oldest first; none waits (R186). One that a failed link or its neighbours' grants leave no output is
delivered at once: the rules do not say how it goes on, and its bound stands (R187; log 40). -/
def routeFlits (s : State) (r : Nat) (outs : List Nat) : List Flit → State
  | [] => s
  | x :: rest =>
    let (f, s) := s.free
    match chooseOut s r x outs f with
    | none => routeFlits (deliverFlit s x) r outs rest
    | some p => routeFlits (moveFlit s r p x) r (outs.erase p) rest

/-- The flits of a message: MSGID is zero in a message of one (R185). -/
def messageFlits (x : Flit) (n : Nat) : List Flit :=
  (List.range n).map fun i => { x with seq := i, of' := n, msgid := if n = 1 then 0 else x.msgid }

/-- A message of one to sixteen flits that stands for traffic is offered for injection, or none is (log 40). -/
def offerFlits (s : State) (r : Nat) : State :=
  let (f, s) := s.free
  if f % 2 = 0 || s.fabric.offered.any (fun x => x.router == r) then s
  else
    let (sd, sr) := Config.routerPlace r
    let n := f / 2
    let id := mget 0 s.fabric.nextMsg r
    let x : Flit := { age := 0, ddie := n % 17, drt := n / 17 % 256, sdie := sd, srt := sr, cls := n / 2^13 % 64, msgid := id % 4096,
                      seq := 0, router := r, inPort := 0, hopAt := 0 }
    let fab := s.fabric
    { s with fabric := { fab with offered := fab.offered ++ messageFlits x (n / 2^19 % 16 + 1)
                                  nextMsg := mset fab.nextMsg r (id + 1) } }

/-- One offered flit of a router enters; AGE is the time at which its message was injected, the same in every flit. -/
def injectFlit (s : State) (r : Nat) : State :=
  match s.fabric.offered.find? fun x => x.router == r with
  | none => s
  | some x =>
    let fab := s.fabric
    let age := if x.seq = 0 then BitVec.ofNat 16 (bits s.hubTime 25 10) else x.age
    let stamp (y : Flit) : Flit := if y.router = r then { y with age := age } else y
    { s with fabric := { fab with offered := (fab.offered.erase x).map stamp, flits := fab.flits ++ [{ x with age := age, born := fabricCycle s }]
                                  granted := mset fab.granted r (fabricCycle s) } }

/-- The oldest flit that has come to its router is delivered. -/
def ejectFlit (s : State) (r : Nat) (fs : List Flit) : State × List Flit :=
  match fs.find? fun x => (x.ddie, x.drt) == Config.routerPlace r with
  | none => (s, fs)
  | some x => (deliverFlit s x, fs.erase x)

/-- A flit whose 2.5 µs are over has reached its destination, in whichever way the topology has it (R187; log 40). -/
def inBound (s : State) (r : Nat) : State :=
  ((flitsAt s r).filter fun x => decide (x.born + 4999 ≤ fabricCycle s)).foldl deliverFlit s

/-- A router has nothing offered: its 64 cycles begin with the next flit that is (R187). -/
def noteGrant (s : State) (r : Nat) : State :=
  if s.fabric.offered.any fun x => x.router == r then s
  else { s with fabric := { s.fabric with granted := mset s.fabric.granted r (fabricCycle s) } }

/-- ROUTER_CYCLE, once for each router and fabric cycle: the flits that came before it are assigned outputs, oldest first. -/
def execRouterCycle (router : Nat) (s : State) : Res :=
  .next (if cycledNow s router then s
    else
      let s := inBound (offerFlits (noteGrant s router) router) router
      let outs := ((Config.ports router).eraseDups.filter (joined router)).filter (portWorks s router)
      let s := if (flitsAt s router).length < outs.length || mustGrant s router then injectFlit s router else s
      let (s, fs) := ejectFlit s router (byAge (flitsAt s router))
      let s := routeFlits s router outs fs
      { s with fabric := { s.fabric with cycled := mset s.fabric.cycled router (fabricCycle s + 1) } })

/-- A router's cycle is due: no flit waits in it, and one offered enters in time (R186, R187). -/
def routerDue (s : State) : Bool :=
  (s.fabric.flits.any fun x => decide (x.hopAt < fabricCycle s) && !cycledNow s x.router) ||
  s.fabric.offered.any fun x => !cycledNow s x.router

end Sys2Proof.Machine
end

