-- ==== Sys2Proof/Machine/Scalar.lean ====
section
/-! DEFINITION. Scalar floating point and conversions (spec/05 R107-R113). -/

namespace Sys2Proof.Machine

/-- The precision a p field selects (R107). -/
def precOf (p : BitVec 2) : Fmt := if p.toNat = 0 then FP32 else FP64

/-- The value of a register in a format: only its own bits are read (R88). -/
def regVal (f : Fmt) (x : Word) : FVal := fval f (x.toNat % 2^f.width)

/-- An arithmetic instruction of two sources (R108), its result ready n cycles after issue (R89). -/
def fp2 (len n : Nat) (f : Fmt) (d a b : Nat) (op : FVal → FVal → Nat → Exact) : State → Res :=
  issue len .plain [.dst d, .src a, .src b] fun tid s => do
    let (x, s) ← readReg s tid a
    let (y, s) ← readReg s tid b
    let (v, s) := roundScalar f (op (regVal f x) (regVal f y) (rmOf s tid 0)) s tid
    writeLate s tid d n v

/-- FFMA: the old rd is the addend (R108). -/
def fp3 (len : Nat) (f : Fmt) (d a b : Nat) : State → Res :=
  issue len .plain [.rw d, .src a, .src b] fun tid s => do
    let (z, s) ← readReg s tid d
    let (x, s) ← readReg s tid a
    let (y, s) ← readReg s tid b
    let (v, s) := roundScalar f (xfma (regVal f x) (regVal f y) (regVal f z) (rmOf s tid 0)) s tid
    writeLate s tid d 4 v

/-- The cycles of FDIV and FSQRT (R89). -/
def longFp (p : BitVec 2) : Nat := if p.toNat = 0 then 12 else 24

/-- FSQRT (R108). -/
def fp1 (len n : Nat) (f : Fmt) (d a : Nat) (op : FVal → Exact) : State → Res :=
  issue len .plain [.dst d, .src a] fun tid s => do
    let (x, s) ← readReg s tid a
    let (v, s) := roundScalar f (op (regVal f x)) s tid
    writeLate s tid d n v

/-- A result from two encodings with flags and no rounding: FMIN, FMAX, FCMP (R109, R110). -/
def fpPick (len : Nat) (f : Fmt) (d a b : Nat) (op : Nat → Nat → Nat × Flags) : State → Res :=
  issue len .plain [.dst d, .src a, .src b] fun tid s => do
    let (x, s) ← readReg s tid a
    let (y, s) ← readReg s tid b
    let (v, fl) := op (x.toNat % 2^f.width) (y.toNat % 2^f.width)
    writeLate (s.flag tid fl) tid d 4 (w64 v)

/-- FCMP's predicates (R110): 0 eq, 1 lt, 2 le, 3 un, with NV as the entry says. -/
def fcmp (f : Fmt) (p : Nat) (a b : Nat) : Nat × Flags :=
  let x := fval f a
  let y := fval f b
  let nan := x.isNan || y.isNan
  let quiet := sNanFlag [x, y]
  let one (c : Bool) : Nat := if c then 1 else 0
  match p with
  | 0 => (one (!nan && feq x y), quiet)
  | 1 => (one (!nan && flt x y), if nan then NV else 0)
  | 2 => (one (!nan && (flt x y || feq x y)), if nan then NV else 0)
  | _ => (one nan, quiet)

/-- a − b. -/
def xsub (a b : FVal) (rm : Nat) : Exact := xadd a b.neg rm

def execFadd (d a : BitVec 7) (p : BitVec 2) (b : BitVec 5) (s : State) : Res := fp2 4 4 (precOf p) d.toNat a.toNat b.toNat xadd s
def execFsub (d a : BitVec 7) (p : BitVec 2) (b : BitVec 5) (s : State) : Res := fp2 4 4 (precOf p) d.toNat a.toNat b.toNat xsub s
def execFmul (d a : BitVec 7) (p : BitVec 2) (b : BitVec 5) (s : State) : Res :=
  fp2 4 4 (precOf p) d.toNat a.toNat b.toNat (fun x y _ => xmul x y) s
def execFfma (d a : BitVec 7) (p : BitVec 2) (b : BitVec 5) (s : State) : Res := fp3 4 (precOf p) d.toNat a.toNat b.toNat s
def execFdiv (d a : BitVec 7) (p : BitVec 2) (b : BitVec 5) (s : State) : Res :=
  fp2 4 (longFp p) (precOf p) d.toNat a.toNat b.toNat (fun x y _ => xdiv x y) s
def execFsqrt (d a : BitVec 7) (p : BitVec 2) (s : State) : Res := fp1 4 (longFp p) (precOf p) d.toNat a.toNat xsqrt s
def execFmin (d a : BitVec 7) (p : BitVec 2) (b : BitVec 5) (s : State) : Res :=
  fpPick 4 (precOf p) d.toNat a.toNat b.toNat (fminmax (precOf p) false) s
def execFmax (d a : BitVec 7) (p : BitVec 2) (b : BitVec 5) (s : State) : Res :=
  fpPick 4 (precOf p) d.toNat a.toNat b.toNat (fminmax (precOf p) true) s
def execFcmpEq (d a : BitVec 7) (p : BitVec 2) (b : BitVec 5) (s : State) : Res :=
  fpPick 4 (precOf p) d.toNat a.toNat b.toNat (fcmp (precOf p) 0) s
def execFcmpLt (d a : BitVec 7) (p : BitVec 2) (b : BitVec 5) (s : State) : Res :=
  fpPick 4 (precOf p) d.toNat a.toNat b.toNat (fcmp (precOf p) 1) s
def execFcmpLe (d a : BitVec 7) (p : BitVec 2) (b : BitVec 5) (s : State) : Res :=
  fpPick 4 (precOf p) d.toNat a.toNat b.toNat (fcmp (precOf p) 2) s
def execFcmpUn (d a : BitVec 7) (p : BitVec 2) (b : BitVec 5) (s : State) : Res :=
  fpPick 4 (precOf p) d.toNat a.toNat b.toNat (fcmp (precOf p) 3) s

/-- FCLASS (R111). -/
def execFclass (d a : BitVec 7) (p : BitVec 2) (s : State) : Res :=
  issue 4 .plain [.dst d.toNat, .src a.toNat] (fun tid s => do
    let (x, s) ← readReg s tid a.toNat
    writeLate s tid d.toNat 4 (w64 (fclassOf (precOf p) (x.toNat % 2^(precOf p).width)))) s

def execFaddSCompact (a b : BitVec 5) (s : State) : Res := fp2 2 4 FP32 a.toNat a.toNat b.toNat xadd s
def execFmulSCompact (a b : BitVec 5) (s : State) : Res := fp2 2 4 FP32 a.toNat a.toNat b.toNat (fun x y _ => xmul x y) s

/-! ## FCVT (R112, R113) -/

/-- The floating format of a conversion type code. -/
def cvtFmt (c : Nat) : Fmt :=
  match c with
  | 0 => FP64 | 1 => FP32 | 2 => FP16 | 3 => BF16 | 4 => E4M3 | _ => E5M2

/-- The integer a source register holds: code 6 signed, 7 unsigned, 32 bits when W = 1 (R113). -/
def cvtSrcInt (c : Nat) (w : Bool) (x : Word) : Int :=
  let n := if w then 32 else 64
  if c = 6 then toSigned n (x.toNat % 2^n) else ((x.toNat % 2^n : Nat) : Int)

/-- A conversion's result under a mode and draw (R113): i64 and i32 results are sign-extended, u32 zero-extended. -/
def cvt (dst src : Nat) (w : Bool) (x : Word) (rm : Nat) (r : BitVec 32) : Word × Flags :=
  if src ≥ 6 then
    let (v, fl) := fround (cvtFmt dst) (ival (cvtSrcInt src w x)) rm r
    (w64 v, fl)
  else
    let f := cvtFmt src
    let b := x.toNat % 2^f.width
    if dst ≥ 6 then
      let (v, fl) := cvtInt (fval f b) (if w then 32 else 64) (dst == 6) rm r
      (BitVec.ofInt 64 v, fl)
    else if dst = src then
      let (v, fl) := fintegral f b rm r
      (w64 v, fl)
    else
      let (v, fl) := fround (cvtFmt dst) (fval f b) rm r
      (w64 v, fl)

/-- Every form of FCVT: one draw under SR, whatever its source (R113). `rm` is the mode, 0 for FRM's. -/
def fcvtOp (d a dst src w : Nat) (rm : Nat) : State → Res :=
  issue 4 .plain [.dst d, .src a] fun tid s => do
    let (x, s) ← readReg s tid a
    let m := rmOf s tid rm
    let (r, s) := drawFor s tid m
    let (v, fl) := cvt dst src (w == 1) x m r
    writeLate (s.flag tid fl) tid d 4 v

def execFcvt (d a : BitVec 7) (t u : BitVec 3) (w : BitVec 1) (s : State) : Res :=
  fcvtOp d.toNat a.toNat t.toNat u.toNat w.toNat 0 s
def execFcvtRtz (d a : BitVec 7) (t u : BitVec 3) (w : BitVec 1) (s : State) : Res :=
  fcvtOp d.toNat a.toNat t.toNat u.toNat w.toNat 2 s
def execFcvtSr (d a : BitVec 7) (t u : BitVec 3) (w : BitVec 1) (s : State) : Res :=
  fcvtOp d.toNat a.toNat t.toNat u.toNat w.toNat 5 s

end Sys2Proof.Machine
end

