-- ==== Sys2Proof/Machine/Fetch.lean ====
section
/-! DEFINITION. Fetching the instruction of the thread that has the turn (spec/02 R27-R29, R48, spec/09 R215, R232, spec/14
R370, R372). -/

namespace Sys2Proof.Machine

/-- A fetch translates its block, which must be executable and not in the window (R29, R370); its faults are reported against
the first parcel's address. -/
def fetchPlace (s : State) (tid va : Nat) : M (Nat × Word × State) :=
  if isWin va then fault BAD_POINTER
  else match xlPlaceAt s tid (va / 64 * 64) (s.task tid).r.pc.toNat .ex with
    | .error e => .error e
    | .ok (.mem dpa e, s) =>
      if region dpa = 4 then fault BAD_POINTER else if deadPlace s dpa then fault DEAD else .ok (dpa, e, s)
    | .ok _ => fault PAGE_ABSENT

/-- An instruction cache with room for a block: 32 KiB, 512 blocks, and a full one loses one of any place (R8, log 20). -/
def icacheRoom (m : FMap (List Byte)) (free : Nat) : FMap (List Byte) := if m.length < 512 then m else ldel m (free % 512)

/-- The bytes of a block: the core's instruction cache, else what its die sees, once it has a token (R215, R232). A block with
poison, or of an UNCACHED page, is kept nowhere. -/
def fillBlock (s : State) (tid va : Nat) : M (List Byte × State) := do
  let (dpa, e, s) ← fetchPlace s tid va
  let k := (s.task tid).core
  let die := dieOfCore k
  let keep (s : State) (bs : List Byte) : State :=
    s.modTask tid fun t => { t with fbuf := mset (t.fbuf.filter fun b => b.1 == t.r.pc.toNat / 64) (va / 64) bs }
  match mfind (s.core k).icache (dpa / 64) with
  | some bs => .ok (bs, keep s bs)
  | none =>
    let l := lineOf dpa
    if !(s.tok l die).mayRead then waitTok s .gets l k
    else if region dpa = 3 && peerDead s (0, tid) 12 dpa 64 then fault DEAD
    else match (if region dpa = 3 then peerTaken s (0, tid) 12 dpa 64 else some s) with
    | none => .error (.wait .token fun s => peerAsk s (s.task tid).ctx (0, tid) 12 dpa 64 [])
    | some s =>
      let bs := visBytes s die dpa 64
      match (wordsOf (dpa + va % 64) 2).find? (wordPoisoned s tid) with
      | some _ => fault DATA_POISON
      | none =>
        if isUncached e dpa then .ok (bs, returnHome s l die)
        else if (poisonIn s.poison dpa 64).isSome then .ok (bs, s)
        else
          let (f, s) := s.free
          .ok (bs, keep (s.modCore k fun c => { c with icache := mset (icacheRoom c.icache f) (dpa / 64) bs }) bs)

/-- The block that holds an address, from the thread's fetch buffer or beyond it. -/
def fetchBlock (s : State) (tid va : Nat) : M (List Byte × State) :=
  match mfind (s.task tid).fbuf (va / 64) with
  | some bs => .ok (bs, s)
  | none => fillBlock s tid va

/-- A 16-bit parcel (R27). -/
def fetchParcel (s : State) (tid va : Nat) : M (Nat × State) := do
  let (bs, s) ← fetchBlock s tid va
  let o := va % 64
  .ok ((bs.getD o 0).toNat + 256 * (bs.getD (o + 1) 0).toNat, s)

/-- `n` parcels from an address on, as one number. -/
def fetchParcels (s : State) (tid va : Nat) : Nat → M (Nat × State)
  | 0 => .ok (0, s)
  | n + 1 => do
    let (p, s) ← fetchParcel s tid va
    let (r, s) ← fetchParcels s tid ((va + 2) % 2^52) n
    .ok (p + 65536 * r, s)

/-- Every parcel of the instruction at the program counter: its length and word (R28, R29). -/
def fetchInsn (s : State) (tid : Nat) : M (Nat × Nat × State) := do
  let pc := (s.task tid).r.pc.toNat
  let (p, s) ← fetchParcel s tid pc
  let len := parcelLen p
  let (r, s) ← fetchParcels s tid ((pc + 2) % 2^52) (len / 2 - 1)
  .ok (len, p + 65536 * r, s)

def decCode : DecFault → Code
  | .illOp => ILL_OP
  | .illRsv => ILL_RSV

/-- What a pair's shadow executes: its leader's instruction, with the values that the leader took (R403). -/
noncomputable def shadowInstr (s : State) (u : Turn) : (Instr × State) ⊕ State :=
  match ((s.task u.tid).pair.bind fun p => (s.task p.other).pair).bind fun q => q.fwd.head? with
  | none => .inr s.endTurn
  | some f =>
    match decodeWord f.insn with
    | .ok (i, _) => .inl (i, { s with turn := some { u with len := f.len, insn := f.insn, feed := f.took } })
    | .error _ => .inr (shadowDone s u.tid (s.task u.tid).r 0 true).endTurn

/-- What the thread with the turn executes: its instruction or the fault of its fetch or decoding (R48), with the state it
begins in; or the state in which it takes a fault that waited for it, or waits. -/
noncomputable def turnInstr (s : State) (u : Turn) : (Instr × State) ⊕ State :=
  let tid := u.tid
  if (s.task tid).shadow then shadowInstr s u else
  match (s.task tid).pend with
  | some h => .inr (haltTask (s.modTask tid fun t => { t with pend := none }) tid h).endTurn
  | none =>
    match fetchInsn s tid with
    | .error (.trap c _) => .inl (.instructionFetchFault c (w64 (s.task tid).r.pc.toNat), s)
    | .error (.wait c f) => .inr ((f s).noteStall tid c).endTurn
    | .error (.gone f) => .inr (f s).endTurn
    | .ok (len, w, s) =>
      let s : State := { s with turn := some { u with len := len, insn := w } }
      match decodeWord w with
      | .ok (i, _) => .inl (i, s)
      | .error e => .inl (.illegalEncoding (decCode e) 0, s)

end Sys2Proof.Machine
end

