-- ==== Sys2Proof/Machine/Riscv.lean ====
section
/-! DEFINITION. The cores of the command-processor pairs: RV64IMAC with machine mode, in delayed lockstep (spec/13 R345). What an
instruction does is the RISC-V specifications' (PRESUMED, log 42); vendor firmware and what the cores' memory holds are open. -/

namespace Sys2Proof.Machine

/-! ## Fields of a 32-bit instruction -/

def rvBits (w hi lo : Nat) : Nat := w / 2^lo % 2^(hi + 1 - lo)

def rvImmI (w : Nat) : Word := sext 12 (rvBits w 31 20)
def rvImmS (w : Nat) : Word := sext 12 (rvBits w 31 25 * 2^5 + rvBits w 11 7)
def rvImmB (w : Nat) : Word :=
  sext 13 (rvBits w 31 31 * 2^12 + rvBits w 7 7 * 2^11 + rvBits w 30 25 * 2^5 + rvBits w 11 8 * 2)
def rvImmU (w : Nat) : Word := sext 32 (rvBits w 31 12 * 2^12)
def rvImmJ (w : Nat) : Word :=
  sext 21 (rvBits w 31 31 * 2^20 + rvBits w 19 12 * 2^12 + rvBits w 20 20 * 2^11 + rvBits w 30 21 * 2)

/-! ## Compressed instructions -/

def rvR (f7 r2 r1 f3 d op : Nat) : Nat := f7 * 2^25 + r2 * 2^20 + r1 * 2^15 + f3 * 2^12 + d * 2^7 + op
def rvI (i r1 f3 d op : Nat) : Nat := i % 2^12 * 2^20 + r1 * 2^15 + f3 * 2^12 + d * 2^7 + op
def rvS (i r2 r1 f3 : Nat) : Nat := rvBits i 11 5 * 2^25 + r2 * 2^20 + r1 * 2^15 + f3 * 2^12 + i % 2^5 * 2^7 + 0x23
def rvB (i r1 f3 : Nat) : Nat :=
  rvBits i 12 12 * 2^31 + rvBits i 10 5 * 2^25 + r1 * 2^15 + f3 * 2^12 + rvBits i 4 1 * 2^8 + rvBits i 11 11 * 2^7 + 0x63
def rvJ (i : Nat) : Nat :=
  rvBits i 20 20 * 2^31 + rvBits i 10 1 * 2^21 + rvBits i 11 11 * 2^20 + rvBits i 19 12 * 2^12 + 0x6F

/-- A signed immediate of some bits, as a number modulo 2^21. -/
def rvSigned (n x : Nat) : Nat := (sext n x).toNat % 2^21

/-- Quadrant 0: loads and stores of x8 to x15. -/
def rvExpand0 (p : Nat) : Option Nat :=
  let d := 8 + rvBits p 4 2
  let r1 := 8 + rvBits p 9 7
  let w4 := rvBits p 5 5 * 64 + rvBits p 12 10 * 8 + rvBits p 6 6 * 4
  let w8 := rvBits p 6 5 * 64 + rvBits p 12 10 * 8
  let sp := rvBits p 10 7 * 64 + rvBits p 12 11 * 16 + rvBits p 5 5 * 8 + rvBits p 6 6 * 4
  match rvBits p 15 13 with
  | 0 => if sp = 0 then none else some (rvI sp 2 0 d 0x13)
  | 2 => some (rvI w4 r1 2 d 0x03)
  | 3 => some (rvI w8 r1 3 d 0x03)
  | 6 => some (rvS w4 d r1 2)
  | 7 => some (rvS w8 d r1 3)
  | _ => none

/-- Arithmetic of x8 to x15 in quadrant 1. -/
def rvExpandAlu (p : Nat) : Option Nat :=
  let d := 8 + rvBits p 9 7
  let r2 := 8 + rvBits p 4 2
  let sh := rvBits p 12 12 * 32 + rvBits p 6 2
  match rvBits p 11 10 with
  | 0 => some (rvI sh d 5 d 0x13)
  | 1 => some (rvI (0x400 + sh) d 5 d 0x13)
  | 2 => some (rvI (rvSigned 6 sh) d 7 d 0x13)
  | _ =>
    match rvBits p 12 12, rvBits p 6 5 with
    | 0, 0 => some (rvR 0x20 r2 d 0 d 0x33)
    | 0, 1 => some (rvR 0 r2 d 4 d 0x33)
    | 0, 2 => some (rvR 0 r2 d 6 d 0x33)
    | 0, _ => some (rvR 0 r2 d 7 d 0x33)
    | _, 0 => some (rvR 0x20 r2 d 0 d 0x3B)
    | _, 1 => some (rvR 0 r2 d 0 d 0x3B)
    | _, _ => none

/-- Quadrant 1. -/
def rvExpand1 (p : Nat) : Option Nat :=
  let d := rvBits p 11 7
  let i6 := rvBits p 12 12 * 32 + rvBits p 6 2
  let i := rvSigned 6 i6
  let j := rvBits p 12 12 * 2^11 + rvBits p 8 8 * 2^10 + rvBits p 10 9 * 2^8 + rvBits p 6 6 * 2^7 + rvBits p 7 7 * 2^6 +
    rvBits p 2 2 * 2^5 + rvBits p 11 11 * 2^4 + rvBits p 5 3 * 2
  let b := rvBits p 12 12 * 2^8 + rvBits p 6 5 * 2^6 + rvBits p 2 2 * 2^5 + rvBits p 11 10 * 2^3 + rvBits p 4 3 * 2
  let sp := rvBits p 12 12 * 2^9 + rvBits p 4 3 * 2^7 + rvBits p 5 5 * 2^6 + rvBits p 2 2 * 2^5 + rvBits p 6 6 * 2^4
  match rvBits p 15 13 with
  | 0 => some (rvI i d 0 d 0x13)
  | 1 => if d = 0 then none else some (rvI i d 0 d 0x1B)
  | 2 => some (rvI i 0 0 d 0x13)
  | 3 => if i6 = 0 then none
    else if d = 2 then some (rvI (rvSigned 10 sp) 2 0 2 0x13)
    else some (rvSigned 6 i6 % 2^20 * 2^12 + d * 2^7 + 0x37)
  | 4 => rvExpandAlu p
  | 5 => some (rvJ (rvSigned 12 j))
  | 6 => some (rvB (rvSigned 9 b) (8 + rvBits p 9 7) 0)
  | _ => some (rvB (rvSigned 9 b) (8 + rvBits p 9 7) 1)

/-- Quadrant 2. -/
def rvExpand2 (p : Nat) : Option Nat :=
  let d := rvBits p 11 7
  let r2 := rvBits p 6 2
  match rvBits p 15 13 with
  | 0 => some (rvI (rvBits p 12 12 * 32 + r2) d 1 d 0x13)
  | 2 => if d = 0 then none else some (rvI (rvBits p 3 2 * 64 + rvBits p 12 12 * 32 + rvBits p 6 4 * 4) 2 2 d 0x03)
  | 3 => if d = 0 then none else some (rvI (rvBits p 4 2 * 64 + rvBits p 12 12 * 32 + rvBits p 6 5 * 8) 2 3 d 0x03)
  | 4 =>
    if rvBits p 12 12 = 0 then
      (if r2 ≠ 0 then some (rvR 0 r2 0 0 d 0x33) else if d = 0 then none else some (rvI 0 d 0 0 0x67))
    else if r2 ≠ 0 then some (rvR 0 r2 d 0 d 0x33)
    else if d = 0 then some 0x00100073
    else some (rvI 0 d 0 1 0x67)
  | 6 => some (rvS (rvBits p 8 7 * 64 + rvBits p 12 9 * 4) r2 2 2)
  | 7 => some (rvS (rvBits p 9 7 * 64 + rvBits p 12 10 * 8) r2 2 3)
  | _ => none

/-- The 32-bit instruction that a parcel stands for; none where it is illegal. -/
def rvExpand (p : Nat) : Option Nat :=
  match p % 4 with
  | 0 => rvExpand0 p
  | 1 => rvExpand1 p
  | 2 => rvExpand2 p
  | _ => none

/-! ## Registers and arithmetic -/

def RvCore.get (c : RvCore) (n : Nat) : Word := if n = 0 then 0 else mget 0 c.x n

def RvCore.put (c : RvCore) (n : Nat) (v : Word) : RvCore := if n = 0 then c else { c with x := mput 0 c.x n v }

/-- Base operations, by funct3; `alt` is bit 30. -/
def rvAlu (f3 : Nat) (alt : Bool) (a b : Word) : Word :=
  match f3 with
  | 0 => if alt then a - b else a + b
  | 1 => a <<< (b.toNat % 64)
  | 2 => if a.slt b then 1 else 0
  | 3 => if a.ult b then 1 else 0
  | 4 => a ^^^ b
  | 5 => if alt then a.sshiftRight (b.toNat % 64) else a >>> (b.toNat % 64)
  | 6 => a ||| b
  | _ => a &&& b

def rvDiv (a b : Int) : Int := if b = 0 then -1 else a.tdiv b
def rvRem (a b : Int) : Int := if b = 0 then a else a.tmod b

/-- The M extension's operations, by funct3. -/
def rvMul (f3 : Nat) (a b : Word) : Word :=
  match f3 with
  | 0 => a * b
  | 1 => BitVec.ofInt 64 (a.toInt * b.toInt / 2^64)
  | 2 => BitVec.ofInt 64 (a.toInt * (b.toNat : Int) / 2^64)
  | 3 => w64 (a.toNat * b.toNat / 2^64)
  | 4 => BitVec.ofInt 64 (rvDiv a.toInt b.toInt)
  | 5 => if b = 0 then BitVec.allOnes 64 else w64 (a.toNat / b.toNat)
  | 6 => BitVec.ofInt 64 (rvRem a.toInt b.toInt)
  | _ => if b = 0 then a else w64 (a.toNat % b.toNat)

/-- The 32-bit operations, their results sign-extended; none where funct3 names none. -/
def rvAlu32 (f3 : Nat) (alt : Bool) (a b : Word) : Option Word :=
  let x := a.toNat % 2^32
  let sh := b.toNat % 32
  match f3 with
  | 0 => some (sext 32 (if alt then (a - b).toNat else (a + b).toNat))
  | 1 => some (sext 32 (x * 2^sh))
  | 5 => some (if alt then sext 32 ((sext 32 x).sshiftRight sh).toNat else sext 32 (x / 2^sh))
  | _ => none

def rvMul32 (f3 : Nat) (a b : Word) : Option Word :=
  let x := sext 32 a.toNat
  let y := sext 32 b.toNat
  let ux := a.toNat % 2^32
  let uy := b.toNat % 2^32
  match f3 with
  | 0 => some (sext 32 (x * y).toNat)
  | 4 => some (sext 32 (BitVec.ofInt 32 (rvDiv x.toInt y.toInt)).toNat)
  | 5 => some (if uy = 0 then BitVec.allOnes 64 else sext 32 (ux / uy))
  | 6 => some (sext 32 (BitVec.ofInt 32 (rvRem x.toInt y.toInt)).toNat)
  | 7 => some (sext 32 (if uy = 0 then ux else ux % uy))
  | _ => none

/-! ## Machine mode -/

/-- A trap to mtvec. The instruction does not retire: minstret falls by what `rvExec` adds. -/
def RvCore.trap (c : RvCore) (cause : Nat) (tval : Word) : RvCore :=
  { c with mepc := c.pc, mcause := w64 cause, mtval := tval, was := c.on, on := false, pc := w64 (c.mtvec.toNat / 4 * 4)
           minstret := c.minstret - 1 }

/-- The interrupt a core takes now: external before software before timer. -/
def RvCore.pending (c : RvCore) (mip : Word) : Option Nat :=
  if !c.on then none else [11, 3, 7].find? fun n => bit c.mie n && bit mip n

/-- An interrupt; mtvec may be vectored. -/
def RvCore.interrupt (c : RvCore) (n : Nat) : RvCore :=
  let base := c.mtvec.toNat / 4 * 4
  { c with mepc := c.pc, mcause := w64 (2^63 + n), mtval := 0, was := c.on, on := false
           pc := w64 (if bit c.mtvec 0 then base + 4 * n else base) }

def RvCore.ret (c : RvCore) : RvCore := { c with pc := c.mepc, on := c.was, was := true }

/-- A CSR of machine mode; none where there is none. MPP reads as machine mode, the only one. -/
def RvCore.csr (c : RvCore) (pair n : Nat) (mip : Word) : Option Word :=
  match n with
  | 0x300 => some (w64 (0x1800 + (if c.on then 8 else 0) + if c.was then 128 else 0))
  | 0x301 => some 0x8000000000001105
  | 0x304 => some c.mie
  | 0x305 => some c.mtvec
  | 0x340 => some c.mscratch
  | 0x341 => some c.mepc
  | 0x342 => some c.mcause
  | 0x343 => some c.mtval
  | 0xB00 => some c.mcycle
  | 0xB02 => some c.minstret
  | 0x344 => some mip
  | 0xF14 => some (w64 pair)
  | _ => if (0xB03 ≤ n && n ≤ 0xB1F) || (0x320 ≤ n && n ≤ 0x33F) || (0xF11 ≤ n && n ≤ 0xF15) then some 0 else none

/-- A write of a CSR; what a write of a counter leaves is what it wrote, without the count of the instruction itself. -/
def RvCore.putCsr (c : RvCore) (n : Nat) (v : Word) : RvCore :=
  match n with
  | 0x300 => { c with on := bit v 3, was := bit v 7 }
  | 0x304 => { c with mie := v &&& 0x888 }
  | 0x305 => { c with mtvec := w64 (v.toNat / 4 * 4 + v.toNat % 2) }
  | 0x340 => { c with mscratch := v }
  | 0x341 => { c with mepc := w64 (v.toNat / 2 * 2) }
  | 0x342 => { c with mcause := v }
  | 0x343 => { c with mtval := v }
  | 0xB00 => { c with mcycle := v - 1 }
  | 0xB02 => { c with minstret := v - 1 }
  | _ => c

/-! ## One instruction -/

/-- A core after an instruction, and what it puts out. -/
abbrev RvRes := RvCore × List (Nat × Nat × Word)

/-- The next instruction, past `len` bytes. -/
def RvCore.next (c : RvCore) (len : Nat) : RvCore := { c with pc := c.pc + w64 len }

def rvBranch (f3 : Nat) (a b : Word) : Option Bool :=
  match f3 with
  | 0 => some (a == b)
  | 1 => some (a != b)
  | 4 => some (a.slt b)
  | 5 => some (!a.slt b)
  | 6 => some (a.ult b)
  | 7 => some (!a.ult b)
  | _ => none

/-- A loaded value, by funct3. -/
def rvLoad (f3 : Nat) (v : Word) : Option Word :=
  match f3 with
  | 0 => some (sext 8 v.toNat)
  | 1 => some (sext 16 v.toNat)
  | 2 => some (sext 32 v.toNat)
  | 3 => some v
  | 4 => some (w64 (v.toNat % 2^8))
  | 5 => some (w64 (v.toNat % 2^16))
  | 6 => some (w64 (v.toNat % 2^32))
  | _ => none

/-- What an atomic operation leaves in memory, of what was there and its operand. -/
def rvAmo (f5 : Nat) (o v : Word) : Option Word :=
  match f5 with
  | 0x00 => some (o + v)
  | 0x01 => some v
  | 0x04 => some (o ^^^ v)
  | 0x08 => some (o ||| v)
  | 0x0C => some (o &&& v)
  | 0x10 => some (if o.slt v then o else v)
  | 0x14 => some (if o.slt v then v else o)
  | 0x18 => some (if o.ult v then o else v)
  | 0x1C => some (if o.ult v then v else o)
  | _ => none

/-- The A extension; `read` is what memory holds. -/
def rvAtomic (c : RvCore) (w len : Nat) (read : Word) : Option RvRes :=
  let n := 2^(rvBits w 14 12)
  let d := rvBits w 11 7
  let a := (c.get (rvBits w 19 15)).toNat
  let v := c.get (rvBits w 24 20)
  let f5 := rvBits w 31 27
  let ext (x : Word) : Word := if n = 4 then sext 32 x.toNat else x
  if n ≠ 4 && n ≠ 8 then none
  else if a % n ≠ 0 then some (c.trap (if f5 = 2 then 4 else 6) (w64 a), [])
  else if f5 = 2 then
    (if rvBits w 24 20 ≠ 0 then none else some ({ c.put d (ext read) with resv := some a }.next len, []))
  else if f5 = 3 then
    let ok := c.resv == some a
    some ({ c.put d (if ok then 0 else 1) with resv := none }.next len, if ok then [(a, n, v)] else [])
  else (rvAmo f5 (ext read) (ext v)).map fun x => ((c.put d (ext read)).next len, [(a, n, x)])

/-- CSR instructions and those of no operands. -/
def rvSystem (c : RvCore) (pair w len : Nat) (mip : Word) : Option RvRes :=
  let f3 := rvBits w 14 12
  let d := rvBits w 11 7
  let n := rvBits w 31 20
  let src := rvBits w 19 15
  if f3 = 0 then
    match w with
    | 0x00000073 => some (c.trap 11 0, [])
    | 0x00100073 => some (c.trap 3 c.pc, [])
    | 0x30200073 => some (c.ret, [])
    | 0x10500073 => some (c.next len, [])
    | _ => none
  else if f3 = 4 then none
  else (c.csr pair n mip).bind fun old =>
    let v := if f3 < 4 then c.get src else w64 src
    let new := match f3 % 4 with
      | 1 => v
      | 2 => old ||| v
      | _ => old &&& ~~~v
    let writes := f3 % 4 = 1 || src ≠ 0
    if writes && n / 2^10 = 3 then none
    else some (((if writes then c.putCsr n new else c).put d old).next len, [])

/-- A 32-bit instruction of `len` bytes as it stands; none where it is illegal. -/
def rvInsn (c : RvCore) (pair w len : Nat) (read mip : Word) : Option RvRes :=
  let d := rvBits w 11 7
  let f3 := rvBits w 14 12
  let a := c.get (rvBits w 19 15)
  let b := c.get (rvBits w 24 20)
  let f7 := rvBits w 31 25
  let put (v : Word) : RvRes := ((c.put d v).next len, [])
  match w % 2^7 with
  | 0x37 => some (put (rvImmU w))
  | 0x17 => some (put (c.pc + rvImmU w))
  | 0x6F => some ({ c.put d (c.pc + w64 len) with pc := c.pc + rvImmJ w }, [])
  | 0x67 => if f3 = 0 then some ({ c.put d (c.pc + w64 len) with pc := w64 ((a + rvImmI w).toNat / 2 * 2) }, []) else none
  | 0x63 => (rvBranch f3 a b).map fun t => (if t then { c with pc := c.pc + rvImmB w } else c.next len, [])
  | 0x03 => (rvLoad f3 read).map put
  | 0x23 => if f3 < 4 then some (c.next len, [((a + rvImmS w).toNat, 2^f3, w64 (b.toNat % 2^(8 * 2^f3)))]) else none
  | 0x13 =>
    if f3 = 1 && rvBits w 31 26 ≠ 0 || f3 = 5 && rvBits w 31 26 ≠ 0 && rvBits w 31 26 ≠ 0x10 then none
    else some (put (rvAlu f3 (f3 = 5 && rvBits w 30 30 = 1) a (rvImmI w)))
  | 0x1B =>
    if f3 = 1 && f7 ≠ 0 || f3 = 5 && f7 ≠ 0 && f7 ≠ 0x20 then none
    else (rvAlu32 f3 (f3 = 5 && f7 = 0x20) a (rvImmI w)).map put
  | 0x33 =>
    if f7 = 1 then some (put (rvMul f3 a b))
    else if f7 = 0 || f7 = 0x20 && (f3 = 0 || f3 = 5) then some (put (rvAlu f3 (f7 = 0x20) a b))
    else none
  | 0x3B =>
    if f7 = 1 then (rvMul32 f3 a b).map put
    else if f7 = 0 || f7 = 0x20 && (f3 = 0 || f3 = 5) then (rvAlu32 f3 (f7 = 0x20) a b).map put
    else none
  | 0x0F => if f3 = 0 then some (c.next len, []) else none
  | 0x2F => rvAtomic c w len read
  | 0x73 => rvSystem c pair w len mip
  | _ => none

/-- The length of an instruction, by its lowest bits. -/
def rvLen (w : Nat) : Nat := if w % 4 = 3 then 4 else 2

/-- The 32-bit instruction that a word stands for. -/
def rvWord (w : Nat) : Option Nat := if rvLen w = 4 then some w else rvExpand (w % 2^16)

/-- One instruction, or the interrupt it gives way to; `read` is what memory holds where it loads. An illegal one traps. -/
def rvExec (c : RvCore) (pair w : Nat) (read mip : Word) : RvRes :=
  match c.pending mip with
  | some n => ({ c.interrupt n with mcycle := c.mcycle + 1 }, [])
  | none =>
    let r := (rvWord w).bind fun x => rvInsn c pair x (rvLen w) read mip
    let (c', out) := r.getD (c.trap 2 (w64 (if rvLen w = 4 then w else w % 2^16)), [])
    ({ c' with mcycle := c'.mcycle + 1, minstret := c'.minstret + 1 }, out)

/-- The address and length that an instruction reads. -/
def rvReads (c : RvCore) (w : Nat) : Nat × Nat :=
  let x := (rvWord w).getD 0
  let a := c.get (rvBits x 19 15)
  let n := 2^(rvBits x 14 12 % 4)
  match x % 2^7 with
  | 0x03 => ((a + rvImmI x).toNat, n)
  | 0x2F => (a.toNat, n)
  | _ => (0, 0)

/-- What the pair's memory holds: its own stores, and a free value where there are none. -/
def CpPair.read (p : CpPair) (w free : Nat) : Word :=
  let (a, n) := rvReads p.main w
  w64 (leVal ((List.range n).map fun i => (mfind p.mem ((a + i) % 2^64)).getD (BitVec.ofNat 8 (free / 2^(8 * i)))))

/-- The main core's stores are in the pair's memory. -/
def CpPair.stored (p : CpPair) (out : List (Nat × Nat × Word)) : FMap (BitVec 8) :=
  out.foldl (fun m o => ((toBytes o.2.1 o.2.2.toNat).zipIdx).foldl (fun m b => mset m ((o.1 + b.2) % 2^64) b.1) m) p.mem

/-! ## Delayed lockstep -/

/-- The pair's main core executes one instruction; the checker those of two cycles before, with what they read. An output leaves
once both have produced it; none where they do not agree. -/
def pairStep (p : CpPair) (pair now free : Nat) (mip : Word) : Option CpPair :=
  let w := (Config.firmware pair p.main.pc.toNat).toNat
  let read := p.read w free
  let (m, out) := rvExec p.main pair w read mip
  let d : RvDone := { at' := now, word := w, len := rvLen w, read := read, mip := mip, out := out }
  let p : CpPair := { p with main := m, mem := p.stored out }
  match p.flight with
  | [] => some { p with flight := [d] }
  | x :: rest =>
    if now < x.at' + 2 then some { p with flight := p.flight ++ [d] }
    else
      let (k, out) := rvExec p.checker pair x.word x.read x.mip
      if out = x.out then some { p with checker := k, flight := rest ++ [d], left := p.left + out.length } else none

/-- The pairs in service run; what their loads read that they have not stored, and which interrupts are pending, is free. -/
def runPair (s : State) (cp : Nat) : State :=
  if s.hub.outOfService.contains cp || s.hub.restart || !s.mgmt.powered then s
  else
    let (f, s) := s.free
    let (g, s) := s.free
    match pairStep (mget {} s.hub.pairs cp) cp s.cycle f (w64 g &&& 0x888) with
    | some p => s.modHub fun h => { h with pairs := mset h.pairs cp p }
    | none => s.modHub fun h => { h with restart := true }

def runPairs (s : State) : State := (List.range 4).foldl runPair s

end Sys2Proof.Machine
end

