-- ==== Sys2Proof/Machine/Sched.lean ====
section
/-! DEFINITION. What happens next when no thread has the turn: the steps of spec/95 that are pending, the inputs from
outside, and the next core cycle. The choice among them is free (log 1); a core cycle passes only after every core has
had its own. -/

namespace Sys2Proof.Machine

/-! ## A core cycle passes -/

/-- The counters of one context's transfers in a cycle (R319): what its pieces wait for, and whether one could not begin for
want of a tag; how long a shed idles the XFE is timing (`idle`, log 2). -/
def stallXfers (xs : List Xfer) (held : Xfer → Bool) (ctx : Nat) (idle : Bool) (x : XStalls) : XStalls :=
  let mine := xs.filter fun y => y.ctx == ctx && !y.over && y.status == 0
  let on (b : Bool) : Word := if b then 1 else 0
  let why (c : Cause) : Word := on (mine.any fun y => decide (y.why = some c))
  { x with tlb := x.tlb + why .tlb, tok := x.tok + why .token, pers := x.pers + why .pers
           tag := x.tag + on (tagsFull xs && mine.any fun y => y.why.isNone && !held y)
           therm := x.therm + on (idle && !mine.isEmpty) }

/-- Whether a job has a scaled operand. -/
def Job.scaled (j : Job) : Bool :=
  (decide (mxOp j.w0 ≤ 1) && isScaled (ptrFmt j.w1)) || (mxOp j.w0 == 0 && isScaled (ptrFmt j.w2))

/-- The counters of a running job's context in a cycle (R170): a shed idles the array, or a scale and its data do not come together,
as free choices of timing where they may be (log 2), or its reads wait. -/
def stallJob (j : Job) (f : Nat) (shed : Bool) (x : MStalls) : MStalls :=
  if f % 3 = 2 && shed then { x with therm := x.therm + 1 }
  else if f % 3 = 1 && j.scaled then { x with scale := x.scale + 1 }
  else if j.why.isSome && mxOp j.w0 ≠ 2 then { x with opnd := x.opnd + 1 }
  else x

def contextsOf (xs : List Nat) : List Nat := xs.eraseDups

/-- Engines of one cluster. -/
def stallCluster (s : State) (cl : Nat) : State :=
  let c := s.cluster cl
  let shed := (List.range 8).any fun j => (s.core (cl * 8 + j)).shedding
  let s := (contextsOf (c.xfers.map (·.ctx))).foldl (fun s x =>
    let (f, s) := s.free
    s.modCluster cl fun c =>
      { c with xfStall := mset c.xfStall x (stallXfers c.xfers (Xfer.held s cl) x (shed && f % 2 == 1) (mget {} c.xfStall x)) }) s
  let s := match c.jobs.find? fun j => j.running with
    | some j =>
      let (f, s) := s.free
      s.modCluster cl fun c => { c with mxStall := mset c.mxStall j.ctx (stallJob j f shed (mget {} c.mxStall j.ctx)) }
    | none => s
  if prefetchSlots s cl < 512 then s
  else
    let waits := (s.tasks.filter fun e =>
      clOfCore e.2.core == cl && decide (e.2.phase = .created) && e.2.tiles.isSome).map fun e => e.2.ctx
    let ranges := (unitCores false cl).flatMap fun k => (s.core k).entries.filterMap fun e => match e with
      | .range r => if r.tiles.isSome && decide (r.lo < r.hi) then some r.ctx else none
      | .task _ => none
    (contextsOf (waits ++ ranges)).foldl (fun s x => s.modCluster cl fun c =>
      let y := mget {} c.xfStall x
      { c with xfStall := mset c.xfStall x { y with wait := y.wait + 1 } }) s

/-- The next core cycle: counts slew, engines' waits are counted, the firmware's writes are tried, and the command-processor
pairs run. -/
def tick (s : State) : State :=
  let s := tryWrites ((s.clusters.map (·.1)).foldl stallCluster s)
  let s : State := runPairs { s with cycle := s.cycle + 1 }
  (List.range 16).foldl slewDie s

/-- A core whose cycle, table change or heartbeat is due, or a task of which becomes its waiting large task (R317); a cluster
whose heartbeat is due. -/
def coreDue (s : State) (k : Nat) : Bool :=
  decide ((s.core k).lastCycle < s.cycle) || tableDue s k || coreBeats s k || (s.core k).passed.any fun e => isLarge s k e.1

def clusterDue (s : State) (cl : Nat) : Bool := clusterBeats s cl

/-- A timed job whose time has come on a free array starts in this cycle (R163). -/
def jobDue (s : State) (cl : Nat) : Bool :=
  match mxNext s cl with
  | some j => !j.running && j.time != 0 && mayStart s cl j
  | none => false

/-- A timed transfer whose time has come begins its first read in this cycle (R267). -/
def xferDue (s : State) (cl : Nat) : Bool :=
  (s.cluster cl).xfers.any fun x => x.time != 0 && !x.begun && mayPiece s cl x

def mayTick (s : State) : Bool :=
  !(s.cores.any fun e => isCoreNo e.1 && coreDue s e.1) &&
  !(s.clusters.any fun e => clusterDue s e.1 || jobDue s e.1 || xferDue s e.1) && !routerDue s &&
  !(s.tasks.any fun e => !ended e.2 && waittDue s e.2) && !((List.range 16).any (exchangeDue s))

/-! ## Pending steps -/

def idxs {A : Type} (l : List A) : List Nat := List.range l.length

noncomputable def coreEvents (s : State) : List Instr :=
  s.cores.flatMap fun e =>
    let k := e.1
    let c := e.2
    (if c.lastCycle < s.cycle then [Instr.coreCycle k] else []) ++
    (if tableDue s k then [Instr.slotTableChange k] else []) ++
    (if coreBeats s k then [Instr.heartbeat k] else []) ++
    (if coreMissed s k then [Instr.heartbeatMissing k] else []) ++
    (if c.stopped || c.missing then [Instr.coreRetirement k] else []) ++
    [Instr.taskDispatch k, Instr.stealSweep k, Instr.strmSlotReport k, Instr.portTraceCopy k] ++
    (if mayHandle s k then [Instr.handlerStart k] else []) ++
    (idxs c.swaps).map (fun i => Instr.tswapMatch k i) ++
    (if (s.core k).entries.isEmpty then [] else
      c.passed.map (fun e => Instr.waitingLargeTask k e.1) ++ (List.range 4).map fun p => Instr.prefetchStart (clOfCore k) k p)

noncomputable def clusterEvents (s : State) : List Instr :=
  s.clusters.flatMap fun e =>
    let cl := e.1
    let c := e.2
    (if clusterDue s cl then [Instr.heartbeat (7168 + cl)] else []) ++
    (if s.cycle > c.beatAt + missCycles then [Instr.heartbeatMissing (7168 + cl)] else []) ++
    (if c.freed then [Instr.futFullReport cl] else []) ++
    (if c.wakes.isEmpty then [] else [Instr.waiterWake cl]) ++
    (if c.futs.isEmpty then [] else [Instr.futureSpill cl]) ++
    (idxs c.faults).map (fun i => Instr.faultMessage cl i) ++
    c.jobs.flatMap (fun j => [Instr.mxeMma cl j.id, Instr.mxeLoad cl j.id, Instr.mxeStore cl j.id, Instr.mxeZero cl j.id,
      Instr.mxeJobComplete cl j.id]) ++
    c.xfers.flatMap (fun x => [Instr.xfePiece cl x.id, Instr.transferComplete cl x.id]) ++
    (idxs c.fills).flatMap (fun i => [Instr.tlbFillRequest cl i, Instr.tlbFillReply cl i])

noncomputable def taskEvents (s : State) (g : Nat) : List Instr :=
  s.tasks.flatMap fun e =>
    let t := e.1
    let x := e.2
    (if x.fifo.isEmpty then [] else [Instr.storeFifoDrain t]) ++
    (if ended x then [] else
      (if x.halt.isSome || x.series.isSome then [Instr.waitlimExpiry t] else []) ++
      (if x.handler then [Instr.handlerTimeout t] else []) ++
      (if x.waitUntil.isSome then [Instr.waittExpiry t] else []) ++
      (if x.lockRetry.isSome then [Instr.ldlkRetry t] else []) ++
      (if x.pair.isSome then [Instr.pairIntervalClose t, Instr.pairCompare t] else []) ++
      (if x.phase = .parked then [Instr.frameMove t (g % 2048)] else []))

noncomputable def netEvents (s : State) : List Instr :=
  let n := s.net
  (idxs n.ports).map (fun i => Instr.portAccessArrival i) ++ (idxs n.acks).map (fun i => Instr.portReply i) ++
  (idxs n.steals).flatMap (fun i => [Instr.stealRequest i, Instr.stealAnswer i]) ++
  (idxs n.futReqs).map (fun i => Instr.futureRequest i) ++ (idxs n.futReps).map (fun i => Instr.futureReply i) ++
  (idxs n.wakeMsgs).map (fun i => Instr.wakeMessage i) ++
  (idxs n.msgs).flatMap (fun i => [Instr.messageArrival i, Instr.messageResend i, Instr.messageReturn i]) ++
  (idxs n.acked).map (fun i => Instr.sendAck i) ++ (idxs n.caps).map (fun i => Instr.mxsubcCommand i) ++
  (idxs n.landings).map (fun i => Instr.tswapComplete i) ++ (idxs n.remaps).map (fun i => Instr.remapComplete i) ++
  (List.range (n.ports.length + n.steals.length + n.futReqs.length + n.caps.length)).map (fun i => Instr.retryReissue i)

/-- The step that takes a coherence message. -/
noncomputable def cohEvent (i : Nat) : Coh → Instr
  | .request _ _ _ _ => Instr.transientRequest i
  | .forward _ _ _ _ => Instr.requestForward i
  | .tokens _ _ _ _ _ => Instr.tokenMessage i
  | .persist _ _ _ _ => Instr.persistentRequest i
  | .act _ _ _ _ => Instr.actMessage i
  | .deact _ _ => Instr.deactMessage i
  | .doneMsg _ _ _ => Instr.doneMessage i

noncomputable def cohEvents (s : State) (g : Nat) : List Instr :=
  s.coh.msgs.zipIdx.map (fun e => cohEvent e.2 e.1) ++ (idxs s.coh.outs).map (fun i => Instr.attemptTimeout i) ++
  s.coh.lines.flatMap (fun e => e.2.held.map fun h => Instr.eviction h.1 e.1) ++
  s.coh.ub.map (fun e => Instr.pageBind e.1) ++
  ((List.range 16).filter (exchangeDue s)).map (fun d =>
    Instr.timeExchange d ((s.die d).offset + ((g / 2^10 % (2 * (g % 2^10) + 1) : Nat) : Int) - ((g % 2^10 : Nat) : Int)) (g % 2^10)) ++
  s.dies.flatMap (fun e =>
    (if e.2.lostAt.isSome then [Instr.dieCensus e.1] else []) ++
    (if e.2.down then [Instr.dieResetComplete e.1] else if isLost s e.1 then [Instr.dieReset e.1 false]
      else if e.2.resetting then [Instr.dieReset e.1 true] else [])) ++
  (if s.host.lostAt.isSome then [Instr.dieCensus 24] else [])

noncomputable def launchEvents (s : State) : List Instr :=
  s.launches.flatMap fun e =>
    if e.2.st = .retired then []
    else [Instr.launchPlacement e.1, Instr.launchTimeout e.1, Instr.terminationSweep e.1, Instr.launchRetirement e.1, Instr.replayStallTimeout e.1]

noncomputable def queueEvents (s : State) : List Instr :=
  (s.queues.flatMap fun e =>
    let q := e.1
    (if e.2.mapped then [] else [Instr.queueMap q]) ++
    (if mayRead s e.2 then [Instr.packetRead q] else []) ++
    (if e.2.st = .timed then [Instr.timedExpiry q] else []) ++
    (match e.2.pkt with
     | some (0, _) => [Instr.nopPacket q]
     | some (1, _) => [Instr.launchPacket q]
     | some (2, _) => [Instr.waitPacket q, Instr.waitEnd q]
     | some (3, _) => [Instr.signalPacket q]
     | some (4, _) => [Instr.copyPacket q]
     | some (5, _) => [Instr.linkPacket q]
     | some (6, _) => [Instr.timedPacket q]
     | some (7, _) => [Instr.fencePacket q]
     | _ => [])) ++
  (idxs s.hub.copies).map (fun i => Instr.copyComplete i) ++ (idxs s.hub.fills).map (fun i => Instr.hubTlbFill i)

/-- The command in the mailbox (R415). -/
noncomputable def mailEvents (s : State) : List Instr :=
  if !s.hub.bell || s.hub.restart then []
  else match bits (mailWord s 0) 7 0 with
    | 1 => [Instr.ctxCreate]
    | 2 => [Instr.ctxEnd]
    | 3 => [Instr.queueCreate]
    | 4 => [Instr.queueDestroy]
    | 5 => [Instr.poolAdd]
    | 6 => [Instr.peerBind]
    | 7 => [Instr.chipSet]
    | 8 => [Instr.preempt]
    | _ => []

noncomputable def edgeEvents (s : State) (g : Nat) : List Instr :=
  (idxs s.host.asked).map (fun i => Instr.hostResponse i) ++
  (if s.host.asked.isEmpty then [] else [Instr.hostLost]) ++
  (idxs (allUnacked s)).map (fun i => Instr.peerResend i) ++
  ((s.peers.waiting.filter fun e => (mfind s.peers.sessions e.1).isNone && peerReach s e.1).map fun e => Instr.sessionOpen e.1 (g % 2^32)) ++
  s.peers.sessions.map (fun e => Instr.sessionTimeout e.1) ++ s.peers.downAt.map (fun e => Instr.sessionTimeout e.1) ++
  (if s.mgmt.overSince.isSome then [Instr.powerLimitShed] else []) ++
  ((overTemp s).map fun e => Instr.overtempPowerOff e.1 e.2).toList ++
  (if s.hub.restart then [Instr.firmwareRestart] else []) ++ (if s.mgmt.resetDue then [Instr.packageReset] else []) ++
  ((s.fabric.flits ++ s.fabric.offered).map fun x => Instr.routerCycle x.router) ++ [Instr.routerCycle g]

/-- The pending steps; `g` is free. -/
noncomputable def enabled (s : State) (g : Nat) : List Instr :=
  if !s.mgmt.powered then []
  else coreEvents s ++ clusterEvents s ++ taskEvents s g ++ netEvents s ++ cohEvents s g ++ launchEvents s ++ queueEvents s ++
    mailEvents s ++ edgeEvents s g

/-! ## The choice -/

/-- The steps that may come from outside: the firmware's and the CSC's, the errors of the hardware, the host's, the peers'
and the management bus's, in that order. Every other row is a thread's own or follows from the state (R80, R83). -/
def isOutside (i : Instr) : Bool :=
  match i with
  | .cscWindowAccess _ _ _ _ _ | .cscResume _ _ | .cscKill _ _ | .pageFutureSettle _ _ _ _ | .slotwWrite _ _ _
  | .slotwLength _ _ | .slotwFreeze _ _ | .slotwThaw _ _ | .slotwSave _ _ | .thermalReading _ _ => true
  | .linkReplay _ | .linkFailed _ | .correctedError _ | .wordError _ _ | .threadError _ | .coreError _ | .clusterError _ _
  | .dieError _ | .dieReset _ _ | .lockstepMismatch _ | .linkRetrain | .ethernetPortChange _ _ => true
  | .kick _ _ | .reserve _ _ | .qctlResume _ | .qctlAbandon _ _ | .hostSnoop _ | .hostMemAccess _ _ _ _ => true
  | .peerData _ _ _ _ _ | .peerAck _ _ | .sessionOpen _ _ | .sessionClose _ => true
  | .powerLimitWrite _ | .shedThresholdWrite _ | .telemetryUpdate _ _ | .getVersion | .getCapabilities
  | .negotiateAlgorithms | .getDigests | .getCertificate _ | .challenge _ | .getMeasurements _ | .requestUpdate _ _
  | .verifyComplete | .applyComplete | .activateFirmware | .firmwareRestart | .packageReset | .powerLoss | .powerOn => true
  | _ => false

/-- The oldest input is taken (log 13). -/
noncomputable def takeInput (s : State) : (Instr × State) ⊕ State :=
  match s.inputs with
  | [] => .inr s
  | .mailWrite n w :: r => .inr (takeMail { s with inputs := r } n w)
  | .barRead off :: r => .inr (hostReply { s with inputs := r } 4096 off (readBar s off))
  | .doorRead q off :: r => .inr (hostReply { s with inputs := r } q off (readDoor s q off))
  | .datagram bs :: r => .inr { s with inputs := (((readDatagram bs).map (datagramSteps s)).getD []).map .event ++ r }
  | .msix v m :: r => .inr (maskVector { s with inputs := r } v m)
  | .vector v a d :: r => .inr (({ s with inputs := r } : State).modHub fun h => { h with vectors := mset h.vectors v (a, d) })
  | .linkLost :: r => .inr (dropLink { s with inputs := r })
  | .checks u b :: r => .inr (noteChecks { s with inputs := r } u b)
  | .upset t n b :: r => .inr (upsetReg { s with inputs := r } t n b)
  | .pldm c a :: r => .inr (takePldm { s with inputs := r } c a)
  | .event i :: r => if isOutside i then .inl (i, { s with inputs := r }) else .inr { s with inputs := r }

/-- What happens next: a pending step, the next core cycle, or the oldest input, by a free choice. -/
noncomputable def nextEvent (s : State) : (Instr × State) ⊕ State :=
  let (f, s) := s.free
  let (g, s) := s.free
  let es := enabled s g
  let extra := (if mayTick s then [false] else []) ++ (if s.inputs.isEmpty then [] else [true])
  let i := f % max (es.length + extra.length) 1
  match es[i]? with
  | some e => .inl (e, s)
  | none => match extra[i - es.length]? with
    | some true => takeInput s
    | some false => .inr (tick s)
    | none => .inr s

end Sys2Proof.Machine
end

