-- ==== Sys2Proof/Machine/Dispatch.lean ====
section
/-! DEFINITION. The one match from every constructor of Instr to its meaning. -/

namespace Sys2Proof.Machine

def exec (i : Instr) (s : State) : Host.Outcome State Fault Refusal :=
  match i with
  | .add d a b => Sys2Proof.Machine.execAdd d a b s
  | .sub d a b => Sys2Proof.Machine.execSub d a b s
  | .slt d a b => Sys2Proof.Machine.execSlt d a b s
  | .sltu d a b => Sys2Proof.Machine.execSltu d a b s
  | .and d a b => Sys2Proof.Machine.execAnd d a b s
  | .or d a b => Sys2Proof.Machine.execOr d a b s
  | .xor d a b => Sys2Proof.Machine.execXor d a b s
  | .sel d a b => Sys2Proof.Machine.execSel d a b s
  | .sll d a b => Sys2Proof.Machine.execSll d a b s
  | .srl d a b => Sys2Proof.Machine.execSrl d a b s
  | .sra d a b => Sys2Proof.Machine.execSra d a b s
  | .clz d a => Sys2Proof.Machine.execClz d a s
  | .ctz d a => Sys2Proof.Machine.execCtz d a s
  | .popc d a => Sys2Proof.Machine.execPopc d a s
  | .mul d a b => Sys2Proof.Machine.execMul d a b s
  | .mulh d a b => Sys2Proof.Machine.execMulh d a b s
  | .mulhu d a b => Sys2Proof.Machine.execMulhu d a b s
  | .div d a b => Sys2Proof.Machine.execDiv d a b s
  | .divu d a b => Sys2Proof.Machine.execDivu d a b s
  | .rem d a b => Sys2Proof.Machine.execRem d a b s
  | .remu d a b => Sys2Proof.Machine.execRemu d a b s
  | .min d a b => Sys2Proof.Machine.execMin d a b s
  | .max d a b => Sys2Proof.Machine.execMax d a b s
  | .minu d a b => Sys2Proof.Machine.execMinu d a b s
  | .maxu d a b => Sys2Proof.Machine.execMaxu d a b s
  | .lih d j => Sys2Proof.Machine.execLih d j s
  | .addi d a j => Sys2Proof.Machine.execAddi d a j s
  | .aadd d a b => Sys2Proof.Machine.execAadd d a b s
  | .pget d a r => Sys2Proof.Machine.execPget d a r s
  | .bfx d a b => Sys2Proof.Machine.execBfx d a b s
  | .bfi d a b => Sys2Proof.Machine.execBfi d a b s
  | .aaddi d a j => Sys2Proof.Machine.execAaddi d a j s
  | .pfmt d a f l => Sys2Proof.Machine.execPfmt d a f l s
  | .slli d a j => Sys2Proof.Machine.execSlli d a j s
  | .srli d a j => Sys2Proof.Machine.execSrli d a j s
  | .srai d a j => Sys2Proof.Machine.execSrai d a j s
  | .andi d a j => Sys2Proof.Machine.execAndi d a j s
  | .ori d a j => Sys2Proof.Machine.execOri d a j s
  | .xori d a j => Sys2Proof.Machine.execXori d a j s
  | .slti d a j => Sys2Proof.Machine.execSlti d a j s
  | .xadd d a x b => Sys2Proof.Machine.execXadd d a x b s
  | .xsub d a x b => Sys2Proof.Machine.execXsub d a x b s
  | .xmul d a x b => Sys2Proof.Machine.execXmul d a x b s
  | .xmax d a x b => Sys2Proof.Machine.execXmax d a x b s
  | .xmin d a x b => Sys2Proof.Machine.execXmin d a x b s
  | .xdotB d a b => Sys2Proof.Machine.execXdotB d a b s
  | .fadd d a p b => Sys2Proof.Machine.execFadd d a p b s
  | .fsub d a p b => Sys2Proof.Machine.execFsub d a p b s
  | .fmul d a p b => Sys2Proof.Machine.execFmul d a p b s
  | .ffma d a p b => Sys2Proof.Machine.execFfma d a p b s
  | .fdiv d a p b => Sys2Proof.Machine.execFdiv d a p b s
  | .fsqrt d a p => Sys2Proof.Machine.execFsqrt d a p s
  | .fmin d a p b => Sys2Proof.Machine.execFmin d a p b s
  | .fmax d a p b => Sys2Proof.Machine.execFmax d a p b s
  | .fcmpEq d a p b => Sys2Proof.Machine.execFcmpEq d a p b s
  | .fcmpLt d a p b => Sys2Proof.Machine.execFcmpLt d a p b s
  | .fcmpLe d a p b => Sys2Proof.Machine.execFcmpLe d a p b s
  | .fcmpUn d a p b => Sys2Proof.Machine.execFcmpUn d a p b s
  | .fclass d a p => Sys2Proof.Machine.execFclass d a p s
  | .fcvt d a t u w => Sys2Proof.Machine.execFcvt d a t u w s
  | .fcvtRtz d a t u w => Sys2Proof.Machine.execFcvtRtz d a t u w s
  | .fcvtSr d a t u w => Sys2Proof.Machine.execFcvtSr d a t u w s
  | .beq a b o => Sys2Proof.Machine.execBeq a b o s
  | .bne a b o => Sys2Proof.Machine.execBne a b o s
  | .blt a b o => Sys2Proof.Machine.execBlt a b o s
  | .bge a b o => Sys2Proof.Machine.execBge a b o s
  | .bltu a b o => Sys2Proof.Machine.execBltu a b o s
  | .bgeu a b o => Sys2Proof.Machine.execBgeu a b o s
  | .jalr d b o => Sys2Proof.Machine.execJalr d b o s
  | .beqz a o => Sys2Proof.Machine.execBeqz a o s
  | .bnez a o => Sys2Proof.Machine.execBnez a o s
  | .jal d o => Sys2Proof.Machine.execJal d o s
  | .ldb d a o => Sys2Proof.Machine.execLdb d a o s
  | .ldbu d a o => Sys2Proof.Machine.execLdbu d a o s
  | .ldh d a o => Sys2Proof.Machine.execLdh d a o s
  | .ldhu d a o => Sys2Proof.Machine.execLdhu d a o s
  | .ldw d a o => Sys2Proof.Machine.execLdw d a o s
  | .ldwu d a o => Sys2Proof.Machine.execLdwu d a o s
  | .ldd d a o => Sys2Proof.Machine.execLdd d a o s
  | .stb r a o => Sys2Proof.Machine.execStb r a o s
  | .sth r a o => Sys2Proof.Machine.execSth r a o s
  | .stw r a o => Sys2Proof.Machine.execStw r a o s
  | .std r a o => Sys2Proof.Machine.execStd r a o s
  | .ldt d a b => Sys2Proof.Machine.execLdt d a b s
  | .stt r a b => Sys2Proof.Machine.execStt r a b s
  | .lda d a c => Sys2Proof.Machine.execLda d a c s
  | .strel r a c => Sys2Proof.Machine.execStrel r a c s
  | .fence c => Sys2Proof.Machine.execFence c s
  | .ifence => Sys2Proof.Machine.execIfence s
  | .pref a l x => Sys2Proof.Machine.execPref a l x s
  | .spamo d a o => Sys2Proof.Machine.execSpamo d a o s
  | .stash d a b => Sys2Proof.Machine.execStash d a b s
  | .unstash d a => Sys2Proof.Machine.execUnstash d a s
  | .wbk a b => Sys2Proof.Machine.execWbk a b s
  | .disc a b => Sys2Proof.Machine.execDisc a b s
  | .ubresv d a b => Sys2Proof.Machine.execUbresv d a b s
  | .ubmigr d a b => Sys2Proof.Machine.execUbmigr d a b s
  | .ldlk d a => Sys2Proof.Machine.execLdlk d a s
  | .stul r a => Sys2Proof.Machine.execStul r a s
  | .amo d a o r c => Sys2Proof.Machine.execAmo d a o r c s
  | .amof d a o r c => Sys2Proof.Machine.execAmof d a o r c s
  | .get d a => Sys2Proof.Machine.execGet d a s
  | .put d a => Sys2Proof.Machine.execPut d a s
  | .xcpy d a => Sys2Proof.Machine.execXcpy d a s
  | .xcpy2 d a => Sys2Proof.Machine.execXcpy2 d a s
  | .swinit d a b => Sys2Proof.Machine.execSwinit d a b s
  | .swfut d a b => Sys2Proof.Machine.execSwfut d a b s
  | .spawn d o => Sys2Proof.Machine.execSpawn d o s
  | .spawnT d o => Sys2Proof.Machine.execSpawnT d o s
  | .spawnr d a b => Sys2Proof.Machine.execSpawnr d a b s
  | .touch d a => Sys2Proof.Machine.execTouch d a s
  | .touchT d a => Sys2Proof.Machine.execTouchT d a s
  | .touchp d a => Sys2Proof.Machine.execTouchp d a s
  | .wany d a n => Sys2Proof.Machine.execWany d a n s
  | .fnew d a => Sys2Proof.Machine.execFnew d a s
  | .resolve d a b => Sys2Proof.Machine.execResolve d a b s
  | .fpois d a b => Sys2Proof.Machine.execFpois d a b s
  | .cancel d a => Sys2Proof.Machine.execCancel d a s
  | .frel a => Sys2Proof.Machine.execFrel a s
  | .fstat d a => Sys2Proof.Machine.execFstat d a s
  | .yield => Sys2Proof.Machine.execYield s
  | .tend a => Sys2Proof.Machine.execTend a s
  | .wid d => Sys2Proof.Machine.execWid d s
  | .wfld d n => Sys2Proof.Machine.execWfld d n s
  | .bari d a b => Sys2Proof.Machine.execBari d a b s
  | .bara d a b => Sys2Proof.Machine.execBara d a b s
  | .barad d a b => Sys2Proof.Machine.execBarad d a b s
  | .barw d a b => Sys2Proof.Machine.execBarw d a b s
  | .msend a b => Sys2Proof.Machine.execMsend a b s
  | .mdone => Sys2Proof.Machine.execMdone s
  | .waitt d a => Sys2Proof.Machine.execWaitt d a s
  | .atset a => Sys2Proof.Machine.execAtset a s
  | .stream d a b => Sys2Proof.Machine.execStream d a b s
  | .vclaim d a => Sys2Proof.Machine.execVclaim d a s
  | .vrel => Sys2Proof.Machine.execVrel s
  | .vsetvl d a => Sys2Proof.Machine.execVsetvl d a s
  | .vld d a m k => Sys2Proof.Machine.execVld d a m k s
  | .vst r a m k => Sys2Proof.Machine.execVst r a m k s
  | .vlds d a b m k => Sys2Proof.Machine.execVlds d a b m k s
  | .vgath d a j m k => Sys2Proof.Machine.execVgath d a j m k s
  | .vscat r a j m k => Sys2Proof.Machine.execVscat r a j m k s
  | .vbcast d a m k => Sys2Proof.Machine.execVbcast d a m k s
  | .vext d t a b => Sys2Proof.Machine.execVext d t a b s
  | .vadd d t a x b m k => Sys2Proof.Machine.execVadd d t a x b m k s
  | .vsub d t a x b m k => Sys2Proof.Machine.execVsub d t a x b m k s
  | .vmul d t a x b m k => Sys2Proof.Machine.execVmul d t a x b m k s
  | .vfma d t a x b m k => Sys2Proof.Machine.execVfma d t a x b m k s
  | .vmin d t a b m k => Sys2Proof.Machine.execVmin d t a b m k s
  | .vmax d t a b m k => Sys2Proof.Machine.execVmax d t a b m k s
  | .vdiv d t a x b m k => Sys2Proof.Machine.execVdiv d t a x b m k s
  | .vsqrt d t a x m k => Sys2Proof.Machine.execVsqrt d t a x m k s
  | .vrsqrt d t a x m k => Sys2Proof.Machine.execVrsqrt d t a x m k s
  | .vrcp d t a x m k => Sys2Proof.Machine.execVrcp d t a x m k s
  | .vexp2 d t a x m k => Sys2Proof.Machine.execVexp2 d t a x m k s
  | .vlog2 d t a x m k => Sys2Proof.Machine.execVlog2 d t a x m k s
  | .vsin d t a x m k => Sys2Proof.Machine.execVsin d t a x m k s
  | .vtanh d t a x m k => Sys2Proof.Machine.execVtanh d t a x m k s
  | .vand d t a b m k => Sys2Proof.Machine.execVand d t a b m k s
  | .vor d t a b m k => Sys2Proof.Machine.execVor d t a b m k s
  | .vxor d t a b m k => Sys2Proof.Machine.execVxor d t a b m k s
  | .vshl d t a x b m k => Sys2Proof.Machine.execVshl d t a x b m k s
  | .vshr d t a x b m k => Sys2Proof.Machine.execVshr d t a x b m k s
  | .vcmp v t a p b m k => Sys2Proof.Machine.execVcmp v t a p b m k s
  | .vsel d t a b k => Sys2Proof.Machine.execVsel d t a b k s
  | .vcvt d t a x r y m k => Sys2Proof.Machine.execVcvt d t a x r y m k s
  | .vred d t a x o m k => Sys2Proof.Machine.execVred d t a x o m k s
  | .vscan d t a x o m k => Sys2Proof.Machine.execVscan d t a x o m k s
  | .vperm d t a b m k => Sys2Proof.Machine.execVperm d t a b m k s
  | .vquant d t a x q m k => Sys2Proof.Machine.execVquant d t a x q m k s
  | .vdeq d t a x q m k => Sys2Proof.Machine.execVdeq d t a x q m k s
  | .mxcfg d a b => Sys2Proof.Machine.execMxcfg d a b s
  | .trel d a => Sys2Proof.Machine.execTrel d a s
  | .mxstat d a r => Sys2Proof.Machine.execMxstat d a r s
  | .mxsub d a => Sys2Proof.Machine.execMxsub d a s
  | .mxsubc d a b => Sys2Proof.Machine.execMxsubc d a b s
  | .tldt d a b => Sys2Proof.Machine.execTldt d a b s
  | .tswap d a b => Sys2Proof.Machine.execTswap d a b s
  | .csrr d c => Sys2Proof.Machine.execCsrr d c s
  | .csrw r c => Sys2Proof.Machine.execCsrw r c s
  | .csrs r c => Sys2Proof.Machine.execCsrs r c s
  | .csrc r c => Sys2Proof.Machine.execCsrc r c s
  | .trap c => Sys2Proof.Machine.execTrap c s
  | .eret => Sys2Proof.Machine.execEret s
  | .brk c => Sys2Proof.Machine.execBrk c s
  | .nop => Sys2Proof.Machine.execNop s
  | .tlbw d a b => Sys2Proof.Machine.execTlbw d a b s
  | .tlbinv d a b => Sys2Proof.Machine.execTlbinv d a b s
  | .slotw d a b => Sys2Proof.Machine.execSlotw d a b s
  | .mapcl d a b => Sys2Proof.Machine.execMapcl d a b s
  | .capmk d a b => Sys2Proof.Machine.execCapmk d a b s
  | .pair d => Sys2Proof.Machine.execPair d s
  | .unpair d => Sys2Proof.Machine.execUnpair d s
  | .ckpt d => Sys2Proof.Machine.execCkpt d s
  | .pchk d a b => Sys2Proof.Machine.execPchk d a b s
  | .movCompact a b => Sys2Proof.Machine.execMovCompact a b s
  | .addCompact a b => Sys2Proof.Machine.execAddCompact a b s
  | .subCompact a b => Sys2Proof.Machine.execSubCompact a b s
  | .andCompact a b => Sys2Proof.Machine.execAndCompact a b s
  | .orCompact a b => Sys2Proof.Machine.execOrCompact a b s
  | .xorCompact a b => Sys2Proof.Machine.execXorCompact a b s
  | .sllCompact a b => Sys2Proof.Machine.execSllCompact a b s
  | .srlCompact a b => Sys2Proof.Machine.execSrlCompact a b s
  | .sraCompact a b => Sys2Proof.Machine.execSraCompact a b s
  | .mulCompact a b => Sys2Proof.Machine.execMulCompact a b s
  | .aaddCompact a b => Sys2Proof.Machine.execAaddCompact a b s
  | .sltCompact a b => Sys2Proof.Machine.execSltCompact a b s
  | .lddCompact a b => Sys2Proof.Machine.execLddCompact a b s
  | .stdCompact a b => Sys2Proof.Machine.execStdCompact a b s
  | .ldwCompact a b => Sys2Proof.Machine.execLdwCompact a b s
  | .jalrCompact a b => Sys2Proof.Machine.execJalrCompact a b s
  | .liCompact a j => Sys2Proof.Machine.execLiCompact a j s
  | .addiCompact a j => Sys2Proof.Machine.execAddiCompact a j s
  | .aaddiCompact a j => Sys2Proof.Machine.execAaddiCompact a j s
  | .slliCompact a j => Sys2Proof.Machine.execSlliCompact a j s
  | .srliCompact a j => Sys2Proof.Machine.execSrliCompact a j s
  | .sraiCompact a j => Sys2Proof.Machine.execSraiCompact a j s
  | .andiCompact a j => Sys2Proof.Machine.execAndiCompact a j s
  | .oriCompact a j => Sys2Proof.Machine.execOriCompact a j s
  | .xoriCompact a j => Sys2Proof.Machine.execXoriCompact a j s
  | .sltiCompact a j => Sys2Proof.Machine.execSltiCompact a j s
  | .lddG2Compact a j => Sys2Proof.Machine.execLddG2Compact a j s
  | .stdG2Compact a j => Sys2Proof.Machine.execStdG2Compact a j s
  | .ldwG2Compact a j => Sys2Proof.Machine.execLdwG2Compact a j s
  | .stwG2Compact a j => Sys2Proof.Machine.execStwG2Compact a j s
  | .beqzCompact a o => Sys2Proof.Machine.execBeqzCompact a o s
  | .bnezCompact a o => Sys2Proof.Machine.execBnezCompact a o s
  | .touchCompact a b => Sys2Proof.Machine.execTouchCompact a b s
  | .touchTCompact a b => Sys2Proof.Machine.execTouchTCompact a b s
  | .touchpCompact a b => Sys2Proof.Machine.execTouchpCompact a b s
  | .fstatCompact a b => Sys2Proof.Machine.execFstatCompact a b s
  | .frelCompact b => Sys2Proof.Machine.execFrelCompact b s
  | .tendCompact b => Sys2Proof.Machine.execTendCompact b s
  | .yieldCompact => Sys2Proof.Machine.execYieldCompact s
  | .widCompact a => Sys2Proof.Machine.execWidCompact a s
  | .movFromEpCompact a => Sys2Proof.Machine.execMovFromEpCompact a s
  | .movToEpCompact b => Sys2Proof.Machine.execMovToEpCompact b s
  | .movFromMpCompact a => Sys2Proof.Machine.execMovFromMpCompact a s
  | .movToMpCompact b => Sys2Proof.Machine.execMovToMpCompact b s
  | .faddSCompact a b => Sys2Proof.Machine.execFaddSCompact a b s
  | .fmulSCompact a b => Sys2Proof.Machine.execFmulSCompact a b s
  | .nopCompact => Sys2Proof.Machine.execNopCompact s
  | .brkCompact j => Sys2Proof.Machine.execBrkCompact j s
  | .li64 d j => Sys2Proof.Machine.execLi64 d j s
  | .li64U d j => Sys2Proof.Machine.execLi64U d j s
  | .li64Hi d j => Sys2Proof.Machine.execLi64Hi d j s
  | .addiLong d a j => Sys2Proof.Machine.execAddiLong d a j s
  | .andiLong d a j => Sys2Proof.Machine.execAndiLong d a j s
  | .oriLong d a j => Sys2Proof.Machine.execOriLong d a j s
  | .xoriLong d a j => Sys2Proof.Machine.execXoriLong d a j s
  | .aaddiLong d a j => Sys2Proof.Machine.execAaddiLong d a j s
  | .sltiLong d a j => Sys2Proof.Machine.execSltiLong d a j s
  | .ldbLong d a j => Sys2Proof.Machine.execLdbLong d a j s
  | .ldbuLong d a j => Sys2Proof.Machine.execLdbuLong d a j s
  | .ldhLong d a j => Sys2Proof.Machine.execLdhLong d a j s
  | .ldhuLong d a j => Sys2Proof.Machine.execLdhuLong d a j s
  | .ldwLong d a j => Sys2Proof.Machine.execLdwLong d a j s
  | .ldwuLong d a j => Sys2Proof.Machine.execLdwuLong d a j s
  | .lddLong d a j => Sys2Proof.Machine.execLddLong d a j s
  | .stbLong r a j => Sys2Proof.Machine.execStbLong r a j s
  | .sthLong r a j => Sys2Proof.Machine.execSthLong r a j s
  | .stwLong r a j => Sys2Proof.Machine.execStwLong r a j s
  | .stdLong r a j => Sys2Proof.Machine.execStdLong r a j s
  | .prefLong a l x j => Sys2Proof.Machine.execPrefLong a l x j s
  | .jalLong d o => Sys2Proof.Machine.execJalLong d o s
  | .jalrLong d a o => Sys2Proof.Machine.execJalrLong d a o s
  | .beqzLong a o => Sys2Proof.Machine.execBeqzLong a o s
  | .bnezLong a o => Sys2Proof.Machine.execBnezLong a o s
  | .beqLong a b o => Sys2Proof.Machine.execBeqLong a b o s
  | .bneLong a b o => Sys2Proof.Machine.execBneLong a b o s
  | .bltLong a b o => Sys2Proof.Machine.execBltLong a b o s
  | .bgeLong a b o => Sys2Proof.Machine.execBgeLong a b o s
  | .bltuLong a b o => Sys2Proof.Machine.execBltuLong a b o s
  | .bgeuLong a b o => Sys2Proof.Machine.execBgeuLong a b o s
  | .mxsubLong d a b e f => Sys2Proof.Machine.execMxsubLong d a b e f s
  | .mxsubcLong d a b e f g => Sys2Proof.Machine.execMxsubcLong d a b e f g s
  | .mxcfgLong d b m => Sys2Proof.Machine.execMxcfgLong d b m s
  | .tldtLong d a b w o => Sys2Proof.Machine.execTldtLong d a b w o s
  | .getLong d a b e f => Sys2Proof.Machine.execGetLong d a b e f s
  | .putLong d a b e f => Sys2Proof.Machine.execPutLong d a b e f s
  | .xcpyLong d a b e f => Sys2Proof.Machine.execXcpyLong d a b e f s
  | .xcpy2Long d a b e f => Sys2Proof.Machine.execXcpy2Long d a b e f s
  | .spawnLong d a b e c n => Sys2Proof.Machine.execSpawnLong d a b e c n s
  | .spawnTLong d a b e c n => Sys2Proof.Machine.execSpawnTLong d a b e c n s
  | .spawnrLong d a b e f c n => Sys2Proof.Machine.execSpawnrLong d a b e f c n s
  | .spawnrTLong d a b e f c n => Sys2Proof.Machine.execSpawnrTLong d a b e f c n s
  | .vldLong d a m k j => Sys2Proof.Machine.execVldLong d a m k j s
  | .vstLong r a m k j => Sys2Proof.Machine.execVstLong r a m k j s
  | .vbcastLong d m k j => Sys2Proof.Machine.execVbcastLong d m k j s
  | .vfmaLong d t a x b m k e => Sys2Proof.Machine.execVfmaLong d t a x b m k e s
  | .illegalEncoding code detail => Sys2Proof.Machine.execIllegalEncoding code detail s
  | .instructionFetchFault code detail => Sys2Proof.Machine.execInstructionFetchFault code detail s
  | .faultMessage cl j => Sys2Proof.Machine.execFaultMessage cl j s
  | .cscWindowAccess tid sel idx wr v => Sys2Proof.Machine.execCscWindowAccess tid sel idx wr v s
  | .cscResume tid pc => Sys2Proof.Machine.execCscResume tid pc s
  | .cscKill tid code => Sys2Proof.Machine.execCscKill tid code s
  | .futFullReport cl => Sys2Proof.Machine.execFutFullReport cl s
  | .strmSlotReport core => Sys2Proof.Machine.execStrmSlotReport core s
  | .waitlimExpiry tid => Sys2Proof.Machine.execWaitlimExpiry tid s
  | .taskDispatch core => Sys2Proof.Machine.execTaskDispatch core s
  | .frameMove tid base => Sys2Proof.Machine.execFrameMove tid base s
  | .waitingLargeTask core tid => Sys2Proof.Machine.execWaitingLargeTask core tid s
  | .prefetchStart cl core pos => Sys2Proof.Machine.execPrefetchStart cl core pos s
  | .stealSweep core => Sys2Proof.Machine.execStealSweep core s
  | .stealRequest j => Sys2Proof.Machine.execStealRequest j s
  | .stealAnswer j => Sys2Proof.Machine.execStealAnswer j s
  | .terminationSweep l => Sys2Proof.Machine.execTerminationSweep l s
  | .launchRetirement l => Sys2Proof.Machine.execLaunchRetirement l s
  | .futureSpill cl => Sys2Proof.Machine.execFutureSpill cl s
  | .futureRequest j => Sys2Proof.Machine.execFutureRequest j s
  | .futureReply j => Sys2Proof.Machine.execFutureReply j s
  | .wakeMessage j => Sys2Proof.Machine.execWakeMessage j s
  | .waiterWake cl => Sys2Proof.Machine.execWaiterWake cl s
  | .mxeMma cl j => Sys2Proof.Machine.execMxeMma cl j s
  | .mxeLoad cl j => Sys2Proof.Machine.execMxeLoad cl j s
  | .mxeStore cl j => Sys2Proof.Machine.execMxeStore cl j s
  | .mxeZero cl j => Sys2Proof.Machine.execMxeZero cl j s
  | .mxeJobComplete cl j => Sys2Proof.Machine.execMxeJobComplete cl j s
  | .mxsubcCommand j => Sys2Proof.Machine.execMxsubcCommand j s
  | .tswapMatch core j => Sys2Proof.Machine.execTswapMatch core j s
  | .tswapComplete j => Sys2Proof.Machine.execTswapComplete j s
  | .xfePiece cl x => Sys2Proof.Machine.execXfePiece cl x s
  | .transferComplete cl x => Sys2Proof.Machine.execTransferComplete cl x s
  | .ldlkRetry tid => Sys2Proof.Machine.execLdlkRetry tid s
  | .transientRequest j => Sys2Proof.Machine.execTransientRequest j s
  | .requestForward j => Sys2Proof.Machine.execRequestForward j s
  | .tokenMessage j => Sys2Proof.Machine.execTokenMessage j s
  | .attemptTimeout j => Sys2Proof.Machine.execAttemptTimeout j s
  | .persistentRequest j => Sys2Proof.Machine.execPersistentRequest j s
  | .actMessage j => Sys2Proof.Machine.execActMessage j s
  | .deactMessage j => Sys2Proof.Machine.execDeactMessage j s
  | .doneMessage j => Sys2Proof.Machine.execDoneMessage j s
  | .eviction agent line => Sys2Proof.Machine.execEviction agent line s
  | .pageBind name => Sys2Proof.Machine.execPageBind name s
  | .linkReplay link => Sys2Proof.Machine.execLinkReplay link s
  | .linkFailed link => Sys2Proof.Machine.execLinkFailed link s
  | .dieCensus die => Sys2Proof.Machine.execDieCensus die s
  | .thermalReading core temp => Sys2Proof.Machine.execThermalReading core temp s
  | .messageArrival j => Sys2Proof.Machine.execMessageArrival j s
  | .messageResend j => Sys2Proof.Machine.execMessageResend j s
  | .messageReturn j => Sys2Proof.Machine.execMessageReturn j s
  | .sendAck j => Sys2Proof.Machine.execSendAck j s
  | .handlerStart core => Sys2Proof.Machine.execHandlerStart core s
  | .handlerTimeout tid => Sys2Proof.Machine.execHandlerTimeout tid s
  | .timeExchange die offset delay => Sys2Proof.Machine.execTimeExchange die offset delay s
  | .waittExpiry tid => Sys2Proof.Machine.execWaittExpiry tid s
  | .slotwWrite core idx v => Sys2Proof.Machine.execSlotwWrite core idx v s
  | .slotwLength core len => Sys2Proof.Machine.execSlotwLength core len s
  | .slotwFreeze core ctx => Sys2Proof.Machine.execSlotwFreeze core ctx s
  | .slotwThaw core ctx => Sys2Proof.Machine.execSlotwThaw core ctx s
  | .slotwSave core ctx => Sys2Proof.Machine.execSlotwSave core ctx s
  | .slotTableChange core => Sys2Proof.Machine.execSlotTableChange core s
  | .tlbFillRequest cl j => Sys2Proof.Machine.execTlbFillRequest cl j s
  | .tlbFillReply cl j => Sys2Proof.Machine.execTlbFillReply cl j s
  | .hubTlbFill j => Sys2Proof.Machine.execHubTlbFill j s
  | .remapComplete j => Sys2Proof.Machine.execRemapComplete j s
  | .retryReissue j => Sys2Proof.Machine.execRetryReissue j s
  | .correctedError n => Sys2Proof.Machine.execCorrectedError n s
  | .wordError place addr => Sys2Proof.Machine.execWordError place addr s
  | .threadError tid => Sys2Proof.Machine.execThreadError tid s
  | .coreError core => Sys2Proof.Machine.execCoreError core s
  | .clusterError cl lost => Sys2Proof.Machine.execClusterError cl lost s
  | .dieError die => Sys2Proof.Machine.execDieError die s
  | .heartbeat core => Sys2Proof.Machine.execHeartbeat core s
  | .heartbeatMissing core => Sys2Proof.Machine.execHeartbeatMissing core s
  | .coreRetirement core => Sys2Proof.Machine.execCoreRetirement core s
  | .dieReset die planned => Sys2Proof.Machine.execDieReset die planned s
  | .pairIntervalClose tid => Sys2Proof.Machine.execPairIntervalClose tid s
  | .pairCompare tid => Sys2Proof.Machine.execPairCompare tid s
  | .replayStallTimeout l => Sys2Proof.Machine.execReplayStallTimeout l s
  | .lockstepMismatch cp => Sys2Proof.Machine.execLockstepMismatch cp s
  | .firmwareRestart => Sys2Proof.Machine.execFirmwareRestart s
  | .kick q v => Sys2Proof.Machine.execKick q v s
  | .reserve q n => Sys2Proof.Machine.execReserve q n s
  | .qctlResume q => Sys2Proof.Machine.execQctlResume q s
  | .qctlAbandon q tag => Sys2Proof.Machine.execQctlAbandon q tag s
  | .queueMap q => Sys2Proof.Machine.execQueueMap q s
  | .packetRead q => Sys2Proof.Machine.execPacketRead q s
  | .nopPacket q => Sys2Proof.Machine.execNopPacket q s
  | .launchPacket q => Sys2Proof.Machine.execLaunchPacket q s
  | .launchPlacement l => Sys2Proof.Machine.execLaunchPlacement l s
  | .launchTimeout l => Sys2Proof.Machine.execLaunchTimeout l s
  | .waitPacket q => Sys2Proof.Machine.execWaitPacket q s
  | .waitEnd q => Sys2Proof.Machine.execWaitEnd q s
  | .signalPacket q => Sys2Proof.Machine.execSignalPacket q s
  | .copyPacket q => Sys2Proof.Machine.execCopyPacket q s
  | .copyComplete j => Sys2Proof.Machine.execCopyComplete j s
  | .linkPacket q => Sys2Proof.Machine.execLinkPacket q s
  | .timedPacket q => Sys2Proof.Machine.execTimedPacket q s
  | .timedExpiry q => Sys2Proof.Machine.execTimedExpiry q s
  | .fencePacket q => Sys2Proof.Machine.execFencePacket q s
  | .ctxCreate => Sys2Proof.Machine.execCtxCreate s
  | .ctxEnd => Sys2Proof.Machine.execCtxEnd s
  | .queueCreate => Sys2Proof.Machine.execQueueCreate s
  | .queueDestroy => Sys2Proof.Machine.execQueueDestroy s
  | .poolAdd => Sys2Proof.Machine.execPoolAdd s
  | .peerBind => Sys2Proof.Machine.execPeerBind s
  | .chipSet => Sys2Proof.Machine.execChipSet s
  | .preempt => Sys2Proof.Machine.execPreempt s
  | .srseedWrite tid v => Sys2Proof.Machine.execSrseedWrite tid v s
  | .frmWrite tid v => Sys2Proof.Machine.execFrmWrite tid v s
  | .eselWrite tid v => Sys2Proof.Machine.execEselWrite tid v s
  | .evrdWrite tid v => Sys2Proof.Machine.execEvrdWrite tid v s
  | .evfutWrite tid v => Sys2Proof.Machine.execEvfutWrite tid v s
  | .trtWrite tid v => Sys2Proof.Machine.execTrtWrite tid v s
  | .csrWrite tid num v => Sys2Proof.Machine.execCsrWrite tid num v s
  | .hostSnoop line => Sys2Proof.Machine.execHostSnoop line s
  | .hostMemAccess addr size wr v => Sys2Proof.Machine.execHostMemAccess addr size wr v s
  | .hostResponse j => Sys2Proof.Machine.execHostResponse j s
  | .hostLost => Sys2Proof.Machine.execHostLost s
  | .linkRetrain => Sys2Proof.Machine.execLinkRetrain s
  | .peerData chip session seq kind ws => Sys2Proof.Machine.execPeerData chip session seq kind ws s
  | .peerAck chip seq => Sys2Proof.Machine.execPeerAck chip seq s
  | .sessionOpen chip session => Sys2Proof.Machine.execSessionOpen chip session s
  | .sessionClose chip => Sys2Proof.Machine.execSessionClose chip s
  | .peerResend j => Sys2Proof.Machine.execPeerResend j s
  | .sessionTimeout chip => Sys2Proof.Machine.execSessionTimeout chip s
  | .powerLimitWrite v => Sys2Proof.Machine.execPowerLimitWrite v s
  | .shedThresholdWrite v => Sys2Proof.Machine.execShedThresholdWrite v s
  | .powerLimitShed => Sys2Proof.Machine.execPowerLimitShed s
  | .overtempPowerOff die temp => Sys2Proof.Machine.execOvertempPowerOff die temp s
  | .telemetryUpdate id v => Sys2Proof.Machine.execTelemetryUpdate id v s
  | .getVersion => Sys2Proof.Machine.execGetVersion s
  | .getCapabilities => Sys2Proof.Machine.execGetCapabilities s
  | .negotiateAlgorithms => Sys2Proof.Machine.execNegotiateAlgorithms s
  | .getDigests => Sys2Proof.Machine.execGetDigests s
  | .getCertificate slot => Sys2Proof.Machine.execGetCertificate slot s
  | .challenge nonce => Sys2Proof.Machine.execChallenge nonce s
  | .getMeasurements nonce => Sys2Proof.Machine.execGetMeasurements nonce s
  | .requestUpdate ver image => Sys2Proof.Machine.execRequestUpdate ver image s
  | .verifyComplete => Sys2Proof.Machine.execVerifyComplete s
  | .applyComplete => Sys2Proof.Machine.execApplyComplete s
  | .activateFirmware => Sys2Proof.Machine.execActivateFirmware s
  | .packageReset => Sys2Proof.Machine.execPackageReset s
  | .powerLoss => Sys2Proof.Machine.execPowerLoss s
  | .coreCycle core => Sys2Proof.Machine.execCoreCycle core s
  | .routerCycle router => Sys2Proof.Machine.execRouterCycle router s
  | .storeFifoDrain tid => Sys2Proof.Machine.execStoreFifoDrain tid s
  | .portAccessArrival j => Sys2Proof.Machine.execPortAccessArrival j s
  | .portReply j => Sys2Proof.Machine.execPortReply j s
  | .portTraceCopy core => Sys2Proof.Machine.execPortTraceCopy core s
  | .pageFutureSettle cl j code word => Sys2Proof.Machine.execPageFutureSettle cl j code word s
  | .ethernetPortChange port st => Sys2Proof.Machine.execEthernetPortChange port st s
  | .powerOn => Sys2Proof.Machine.execPowerOn s
  | .dieResetComplete die => Sys2Proof.Machine.execDieResetComplete die s

end Sys2Proof.Machine
end

