-- ==== Sys2Proof/Machine/Step.lean ====
section
/-! DEFINITION. One step: the instruction of the thread that has the turn, or what happens next in the rest of the part. -/

namespace Sys2Proof.Machine

/-- A step (log 1): the turn's instruction, the fault of its fetch or decoding, a pending event, an input, or time. -/
noncomputable def step (s : State) : Host.Outcome State Fault Refusal :=
  match (match s.turn with
    | some u => turnInstr s u
    | none => nextEvent s) with
  | .inl (i, s') => exec i s'
  | .inr s' => .next s'

/-- The 64 bytes of a block, those of an instruction at `pc` among zeros. -/
def placedBlock (pc b w : Nat) : List Byte :=
  (List.range 64).map fun i =>
    let a := 64 * b + i
    if pc ≤ a && a < pc + 8 then BitVec.ofNat 8 (w / 256^(a - pc)) else 0

/-- `s` with a thread that has the turn and holds an instruction of at most eight bytes in its fetch buffer at its program
counter: the thread with the turn, else task 0 in slot 0 of core 0 (log 4). -/
def State.withFetchWord (s : State) (nbits w : Nat) : State :=
  let u : Turn := s.turn.getD { tid := 0 }
  let t : Task := if s.turn.isSome then s.task u.tid else { s.task 0 with phase := .running, slot := some 0 }
  let pc := t.r.pc.toNat
  let b := pc / 64
  let v := w % 2^nbits
  let fbuf := mset (mset t.fbuf (b + 1) (placedBlock pc (b + 1) v)) b (placedBlock pc b v)
  { s.setTask u.tid { t with fbuf := fbuf, pend := none } with turn := some u }

end Sys2Proof.Machine
end

