-- ==== Sys2Proof/Safety.lean ====
section
/-! DEFINITION. What claims are stated in terms of: which thread executes, the general registers and zr that its fields
may name, what they read, and the state after an instruction that changes nothing but its thread's registers. -/

namespace Sys2Proof.Machine

/-- The canonical form of memory: addresses strictly rising, no entry equal to what an unlisted address reads as. -/
abbrev Memory.wf (m : List Host.Cell) : Bool := memWf m

/-- The thread `tid` has the turn, and is not one of a redundant pair (statements about pairs are their own). -/
def Issuing (s : State) (tid : Nat) : Prop :=
  s.turn.map (·.tid) = some tid ∧ (s.task tid).pair = none ∧ (s.task tid).shadow = false

/-- No result is pending in a register (R89, R126). -/
def Ready (s : State) (tid n : Nat) : Prop := pending s tid n = false

/-- A field names a general register within the thread's limit, or zr (R41, R42), whose value is there (R89). -/
def Names1 (s : State) (tid n : Nat) : Prop := (n < 120 ∧ n ≤ (s.task tid).limit ∧ Ready s tid n) ∨ n = 125

/-- Every field does. -/
def Names (s : State) (tid : Nat) (ns : List Nat) : Prop := ∀ n ∈ ns, Names1 s tid n

/-- What a field that names a register or zr reads: zr reads zero (R41). -/
def Reads (s : State) (tid n : Nat) : Word := if n < 120 then s.g tid n else 0

/-- A write through a field that names a register or zr: zr discards it (R41). -/
def Regs.write (r : Regs) (n : Nat) (v : Word) : Regs := if n < 120 then r.put n v else r

/-- The program counter past an instruction of `len` bytes. -/
def Regs.skip (r : Regs) (len : Nat) : Regs := { r with pc := r.pc + BitVec.ofNat 52 len }

/-- The state in which the thread's registers have become `f` of what they were, its instruction is complete, and all
else is as it was; what an unaligned access had read is over, and so, where `sync`, is what loads had read early (R212, R216). -/
def done (s : State) (tid : Nat) (sync : Bool) (f : Regs → Regs) : State :=
  { s.modTask tid (fun t => { t with r := f t.r, series := none, mark := none, stall := none, part := [],
                                     busy := false, early := if sync then [] else t.early }) with turn := none }

/-- So after an instruction that is no synchronisation point (R403). -/
def after (s : State) (tid : Nat) (f : Regs → Regs) : State := done s tid false f

/-- And after one that is. -/
def afterSync (s : State) (tid : Nat) (f : Regs → Regs) : State := done s tid true f

/-- The state after an instruction of `len` bytes that writes `v` through its field `d` and nothing else. -/
def written (s : State) (tid d len : Nat) (v : Word) : State := after s tid fun r => (r.write d v).skip len

/-- The same with the result ready `n` cycles after issue (R89). -/
def writtenLate (s : State) (tid d len n : Nat) (v : Word) : State := (written s tid d len v).later tid d n

/-- `written` after a synchronisation point. -/
def writtenSync (s : State) (tid d len : Nat) (v : Word) : State := afterSync s tid fun r => (r.write d v).skip len

/-- The state after the thread has taken a fault: it halts with its registers and memory as they were (R5, R49), and its
cluster's CSC has the message (R50). -/
def faulted (s : State) (tid len : Nat) (c : Code) (detail : Word) : State :=
  (haltTask s tid { code := c, detail := detail, len := len, insn := (s.turn.map (·.insn)).getD 0 }).endTurn

/-- An operand that names registers or zr only, every one within the limit and with no result pending (R34, R41-R43, R89, R126,
R295, R300). -/
def Fits (s : State) (tid : Nat) : Opd → Prop
  | .src n => Names1 s tid n
  | .dst n => Names1 s tid n
  | .rw n => Names1 s tid n
  | .strict n => n < 120 ∧ n ≤ (s.task tid).limit ∧ Ready s tid n
  | .casPair n => n < 120 ∧ n + 1 ≤ (s.task tid).limit ∧ Ready s tid n ∧ Ready s tid (n + 1)
  | .args b n => ∀ i < n, b + i < 120 ∧ b + i ≤ (s.task tid).limit ∧ Ready s tid (b + i)
  | .handles b n => b < 120 ∧ ∀ i < n, b + i ≤ (s.task tid).limit ∧ Ready s tid (b + i)
  | .rows d n => d < 120 ∧ d + n - 1 ≤ (s.task tid).limit ∧ ∀ i < n, Ready s tid (d + i)
  | .late k => Ready s tid k

/-- The thread has the turn, unpaired, and its operands fit. -/
def Opens (s : State) (tid : Nat) (ops : List Opd) : Prop := Issuing s tid ∧ ∀ o ∈ ops, Fits s tid o

/-- A thread that belongs to no launch whose record is being made or replayed (R408). -/
def Unrecorded (s : State) (tid : Nat) : Prop :=
  match (s.task tid).launch with
  | none => True
  | some l => recMode s (some l) = 0

/-! ### Real values and their rounding (R66, R72-R74) -/

/-- A finite exact value with this sign and this magnitude. -/
def FVal.Is (v : FVal) (neg : Bool) (x : ℝ) : Prop := ∃ (m : Nat) (e : ℤ), v = .num neg m e ∧ (m : ℝ) * 2^e = x

/-- A finite exact value is this real number. -/
def FVal.Value (v : FVal) (x : ℝ) : Prop := ∃ n y, v.Is n y ∧ x = if n then -y else y

/-- A finite exact value times 2^d. -/
def FVal.times2 (v : FVal) (d : ℤ) : FVal :=
  match v with
  | .num n m e => .num n m (e + d)
  | v => v

/-- The multiple of 2^q that a mode chooses, under SR with this draw, for a magnitude with its sign (R72's table). -/
def Chosen (neg : Bool) (x : ℝ) (q : ℤ) (rm : Nat) (draw : BitVec 32) (k : ℤ) : Prop :=
  let lo : ℤ := ⌊x / 2^q⌋
  let t : ℝ := x / 2^q - lo
  let up : Prop := match rm with
    | 1 => 1 / 2 < t ∨ t = 1 / 2 ∧ lo % 2 = 1
    | 2 => False
    | 3 => neg = true ∧ t ≠ 0
    | 4 => neg = false ∧ t ≠ 0
    | _ => (draw.toNat : ℤ) < ⌊t * 2^32⌋
  (up → k = lo + 1) ∧ (¬ up → k = lo)

/-- An encoding and its flags are a magnitude x > 0, with its sign, rounded once to a format (R72-R74). -/
def Rounded (f : Fmt) (neg : Bool) (x : ℝ) (rm : Nat) (draw : BitVec 32) (v : Nat × Flags) : Prop :=
  let tiny : ℤ := 1 - f.bias
  let q : ℤ := max (Int.log 2 x) tiny - f.fb
  ∃ (k : ℤ) (top : ℝ), Chosen neg x q rm draw k ∧ (fval f f.maxBits).Is false top ∧
    (top < k * 2^q →
      v = (signBit f neg + (if f.sat ∨ rm = 2 ∨ rm = 3 ∧ neg = false ∨ rm = 4 ∧ neg = true then f.maxBits
        else (2^f.eb - 1) * 2^f.fb), OF ||| NX)) ∧
    (k * 2^q ≤ top →
      v.1 < 2^f.width ∧ (fval f v.1).Is neg (k * 2^q) ∧ ((k : ℝ) * 2^q = x → v.2 = 0) ∧
      ((k : ℝ) * 2^q ≠ x → (2^tiny ≤ x → v.2 = NX) ∧ (x < 2^tiny → v.2 = NX ||| UF)))

end Sys2Proof.Machine
end

