-- ==== Sys2Proof/Certificates/Slice0/Obligations.lean ====
section
/-! DEFINITION. The statements: what the rules of spec/ say the machine does. -/

open Sys2Proof Sys2Proof.Machine

/-! ### Integer instructions (spec/05 R93-R106, compact forms spec/02 R39) -/

/-- R93, R96, R100, R101, R89: the two-source integer instructions write their result, a product three cycles after issue, and
change nothing else. -/
def Obligations.IntegerTwoSource : Prop :=
  ∀ (s : State) (tid : Nat) (d a b : BitVec 7), Issuing s tid → Names s tid [d.toNat, a.toNat, b.toNat] →
    let x := Reads s tid a.toNat
    let y := Reads s tid b.toNat
    let n := y.toNat % 64
    let go (v : Word) : Host.Outcome State Fault Refusal := .next (written s tid d.toNat 4 v)
    let late (v : Word) : Host.Outcome State Fault Refusal := .next (writtenLate s tid d.toNat 4 3 v)
    exec (.add d a b) s = go (BitVec.ofNat 64 (x.toNat + y.toNat)) ∧
    exec (.sub d a b) s = go (BitVec.ofInt 64 (x.toNat - y.toNat)) ∧
    exec (.slt d a b) s = go (if x.toInt < y.toInt then 1 else 0) ∧
    exec (.sltu d a b) s = go (if x.toNat < y.toNat then 1 else 0) ∧
    exec (.and d a b) s = go (x &&& y) ∧
    exec (.or d a b) s = go (x ||| y) ∧
    exec (.xor d a b) s = go (x ^^^ y) ∧
    exec (.sll d a b) s = go (BitVec.ofNat 64 (x.toNat * 2^n)) ∧
    exec (.srl d a b) s = go (BitVec.ofNat 64 (x.toNat / 2^n)) ∧
    exec (.sra d a b) s = go (BitVec.ofInt 64 (x.toInt / 2^n)) ∧
    exec (.min d a b) s = go (if x.toInt ≤ y.toInt then x else y) ∧
    exec (.max d a b) s = go (if x.toInt ≤ y.toInt then y else x) ∧
    exec (.minu d a b) s = go (if x.toNat ≤ y.toNat then x else y) ∧
    exec (.maxu d a b) s = go (if x.toNat ≤ y.toNat then y else x) ∧
    exec (.mul d a b) s = late (BitVec.ofNat 64 (x.toNat * y.toNat)) ∧
    exec (.mulh d a b) s = late (BitVec.ofInt 64 (x.toInt * y.toInt / 2^64)) ∧
    exec (.mulhu d a b) s = late (BitVec.ofNat 64 (x.toNat * y.toNat / 2^64)) ∧
    exec (.aadd d a b) s = go (BitVec.ofNat 64 (x.toNat / 2^52 * 2^52 + (x.toNat % 2^52 + y.toNat % 2^52) % 2^52)) ∧
    exec (.bfx d a b) s =
      (let lo := y.toNat % 64
       let w := min (y.toNat / 2^6 % 64 + 1) (64 - lo)
       let f := x.toNat / 2^lo % 2^w
       go (if y.toNat / 2^12 % 2 = 1 then (BitVec.ofNat w f).signExtend 64 else BitVec.ofNat 64 f))

/-- R97, R89: division writes its quotient or remainder, sets IDZ for a zero divisor only, and never traps; the result is ready
after cycles that the bit lengths of the magnitudes give. -/
def Obligations.IntegerDivision : Prop :=
  ∀ (s : State) (tid : Nat) (d a b : BitVec 7), Issuing s tid → Names s tid [d.toNat, a.toNat, b.toNat] →
    let x := Reads s tid a.toNat
    let y := Reads s tid b.toNat
    let bits (n : Nat) : Nat := if n = 0 then 0 else n.log2 + 1
    let cycles (m n : Nat) : Nat := if n = 0 then 2 else 4 + (bits m + 1 - bits n + 1) / 2
    let go (signed : Bool) (v : Word) : Host.Outcome State Fault Refusal :=
      .next ((after s tid fun r =>
        ({ r with fflags := if y = 0 then r.fflags ||| IDZ else r.fflags }.write d.toNat v).skip 4).later tid d.toNat
          (if signed then cycles x.toInt.natAbs y.toInt.natAbs else cycles x.toNat y.toNat))
    exec (.div d a b) s =
      go true (if y = 0 then 0xFFFFFFFFFFFFFFFF else if x = 0x8000000000000000 ∧ y = 0xFFFFFFFFFFFFFFFF then 0x8000000000000000
        else BitVec.ofInt 64 (x.toInt.tdiv y.toInt)) ∧
    exec (.rem d a b) s =
      go true (if y = 0 then x else if x = 0x8000000000000000 ∧ y = 0xFFFFFFFFFFFFFFFF then 0
        else x - BitVec.ofInt 64 (x.toInt.tdiv y.toInt) * y) ∧
    exec (.divu d a b) s =
      go false (if y = 0 then 0xFFFFFFFFFFFFFFFF else BitVec.ofNat 64 (x.toNat / y.toNat)) ∧
    exec (.remu d a b) s =
      go false (if y = 0 then x else BitVec.ofNat 64 (x.toNat - x.toNat / y.toNat * y.toNat)) ∧
    (let word (m : Nat) : Nat := 0xC000 + 4 * 2^7 + m * 2^16 + d.toNat + a.toNat * 2^25 + b.toNat * 2^18
     encode (.div d a b) = some (4, word 0) ∧ encode (.divu d a b) = some (4, word 1) ∧
     encode (.rem d a b) = some (4, word 2) ∧ encode (.remu d a b) = some (4, word 3))

/-- R94, R98, R101-R103: the one-source integer instructions, with their 64-bit forms, write their result and change nothing
else. R95, R99, R100, R106: instructions that also read their destination, and constants. -/
def Obligations.IntegerOneSource : Prop :=
  (∀ (s : State) (tid : Nat) (d a : BitVec 7) (i : BitVec 9) (j : BitVec 6) (f : BitVec 6) (l : BitVec 3) (k : BitVec 32),
    Issuing s tid → Names s tid [d.toNat, a.toNat] →
    let x := Reads s tid a.toNat
    let go (v : Word) : Host.Outcome State Fault Refusal := .next (written s tid d.toNat 4 v)
    let go8 (v : Word) : Host.Outcome State Fault Refusal := .next (written s tid d.toNat 8 v)
    let addr (o : Int) : Word := BitVec.ofInt 64 (x.toNat / 2^52 * 2^52 + ((x.toNat % 2^52 : Nat) + o) % 2^52)
    exec (.addi d a i) s = go (x + i.signExtend 64) ∧
    exec (.slli d a j) s = go (BitVec.ofNat 64 (x.toNat * 2^j.toNat)) ∧
    exec (.srli d a j) s = go (BitVec.ofNat 64 (x.toNat / 2^j.toNat)) ∧
    exec (.srai d a j) s = go (BitVec.ofInt 64 (x.toInt / 2^j.toNat)) ∧
    exec (.andi d a j) s = go (x &&& j.signExtend 64) ∧
    exec (.ori d a j) s = go (x ||| j.signExtend 64) ∧
    exec (.xori d a j) s = go (x ^^^ j.signExtend 64) ∧
    exec (.slti d a j) s = go (if x.toInt < j.toInt then 1 else 0) ∧
    exec (.aaddi d a i) s = go (addr i.toInt) ∧
    exec (.pfmt d a f l) s = go (BitVec.ofNat 64 (f.toNat * 2^58 + l.toNat * 2^55 + x.toNat % 2^52)) ∧
    exec (.pget d a 0) s = go (BitVec.ofNat 64 (x.toNat / 2^58)) ∧
    exec (.pget d a 1) s = go (BitVec.ofNat 64 (x.toNat / 2^55 % 8)) ∧
    exec (.pget d a 2) s = go (BitVec.ofNat 64 (x.toNat % 2^52)) ∧
    exec (.popc d a) s = go (BitVec.ofNat 64 ((List.range 64).filter fun n => x.getLsbD n).length) ∧
    (∃ n : Nat, n ≤ 64 ∧ x.toNat < 2^(64 - n) ∧ (n < 64 → 2^(63 - n) ≤ x.toNat) ∧
      exec (.clz d a) s = go (BitVec.ofNat 64 n)) ∧
    (∃ n : Nat, n ≤ 64 ∧ 2^n ∣ x.toNat ∧ (n < 64 → ¬ 2^(n + 1) ∣ x.toNat) ∧ exec (.ctz d a) s = go (BitVec.ofNat 64 n)) ∧
    exec (.addiLong d a k) s = go8 (x + k.signExtend 64) ∧
    exec (.andiLong d a k) s = go8 (x &&& k.signExtend 64) ∧
    exec (.oriLong d a k) s = go8 (x ||| k.signExtend 64) ∧
    exec (.xoriLong d a k) s = go8 (x ^^^ k.signExtend 64) ∧
    exec (.sltiLong d a k) s = go8 (if x.toInt < k.toInt then 1 else 0) ∧
    exec (.aaddiLong d a k) s = go8 (addr k.toInt)) ∧
  (∀ (s : State) (tid : Nat) (d a b : BitVec 7) (e : BitVec 5) (h : BitVec 16) (k : BitVec 32),
    Issuing s tid → Names s tid [d.toNat, a.toNat, b.toNat, e.toNat] →
    let z := Reads s tid d.toNat
    let x := Reads s tid a.toNat
    let y := Reads s tid b.toNat
    let v := Reads s tid e.toNat
    let byte (w : Word) (i : Nat) : Int := (BitVec.ofNat 8 (w.toNat / 2^(8 * i))).toInt
    let dot (j : Nat) : Int := byte x (4 * j) * byte v (4 * j) + byte x (4 * j + 1) * byte v (4 * j + 1) +
      byte x (4 * j + 2) * byte v (4 * j + 2) + byte x (4 * j + 3) * byte v (4 * j + 3)
    let go (len : Nat) (v : Word) : Host.Outcome State Fault Refusal := .next (written s tid d.toNat len v)
    exec (.sel d a b) s = go 4 (if z ≠ 0 then x else y) ∧
    exec (.lih d h) s = go 4 (BitVec.ofNat 64 (z.toNat * 2^16 + h.toNat)) ∧
    exec (.bfi d a b) s =
      (let lo := y.toNat % 64
       let w := min (y.toNat / 2^6 % 64 + 1) (64 - lo)
       let m : Word := BitVec.ofNat 64 ((2^w - 1) * 2^lo)
       go 4 ((z &&& ~~~m) ||| (BitVec.ofNat 64 (x.toNat * 2^lo) &&& m))) ∧
    exec (.xdotB d a e) s =
      .next (writtenLate s tid d.toNat 4 3 <| BitVec.ofInt 64 (((z.toNat % 2^32 : Nat) + dot 0) % 2^32 + ((z.toNat / 2^32 : Nat) + dot 1) % 2^32 * 2^32)) ∧
    exec (.li64 d k) s = go 8 (k.signExtend 64) ∧
    exec (.li64U d k) s = go 8 (BitVec.ofNat 64 k.toNat) ∧
    exec (.li64Hi d k) s = go 8 (BitVec.ofNat 64 (k.toNat * 2^32 + z.toNat % 2^32)))

/-- R104, R105: packed instructions combine lanes of 8, 16 or 32 bits independently and set no flag; an x of 3, and minors 2 and 3 of
major 0x0D, are illegal. -/
def Obligations.PackedLanes : Prop :=
  ∀ (s : State) (tid : Nat) (d a : BitVec 7) (x : BitVec 2) (b : BitVec 5), Issuing s tid → x.toNat ≤ 2 →
    Names s tid [d.toNat, a.toNat, b.toNat] →
    let w := 8 * 2^x.toNat
    let p (i : Nat) : Nat := (Reads s tid a.toNat).toNat / 2^(w * i) % 2^w
    let q (i : Nat) : Nat := (Reads s tid b.toNat).toNat / 2^(w * i) % 2^w
    let less (i : Nat) : Prop := (BitVec.ofNat w (p i)).toInt < (BitVec.ofNat w (q i)).toInt
    let lanes (i : Instr) (f : Nat → Nat) : Prop := ∃ v : Word, exec i s = .next (written s tid d.toNat 4 v) ∧
      ∀ n < 64 / w, v.toNat / 2^(w * n) % 2^w = f n
    lanes (.xadd d a x b) (fun n => (p n + q n) % 2^w) ∧
    lanes (.xsub d a x b) (fun n => (p n + 2^w - q n) % 2^w) ∧
    (∃ v : Word, exec (.xmul d a x b) s = .next (writtenLate s tid d.toNat 4 3 v) ∧
      ∀ n < 64 / w, v.toNat / 2^(w * n) % 2^w = p n * q n % 2^w) ∧
    (∃ v : Word, exec (.xmax d a x b) s = .next (written s tid d.toNat 4 v) ∧
      ∀ n < 64 / w, (less n → v.toNat / 2^(w * n) % 2^w = q n) ∧ (¬ less n → v.toNat / 2^(w * n) % 2^w = p n)) ∧
    (∃ v : Word, exec (.xmin d a x b) s = .next (written s tid d.toNat 4 v) ∧
      ∀ n < 64 / w, (less n → v.toNat / 2^(w * n) % 2^w = p n) ∧ (¬ less n → v.toNat / 2^(w * n) % 2^w = q n)) ∧
    (let word (major minor : Nat) : Nat :=
       0xC000 + major * 2^7 + minor * 2^16 + d.toNat + a.toNat * 2^25 + x.toNat * 2^23 + b.toNat * 2^18
     encode (.xadd d a x b) = some (4, word 0x0C 0) ∧ encode (.xsub d a x b) = some (4, word 0x0C 1) ∧
     encode (.xmul d a x b) = some (4, word 0x0C 2) ∧ encode (.xmax d a x b) = some (4, word 0x0C 3) ∧
     encode (.xmin d a x b) = some (4, word 0x0D 0)) ∧
    (∀ n : Nat, n / 2^13 % 8 = 6 → (n / 2^7 % 64 = 0x0D ∧ 2 ≤ n / 2^16 % 4 ∨
      (n / 2^7 % 64 = 0x0C ∨ n / 2^7 % 64 = 0x0D) ∧ n / 2^23 % 4 = 3) → decodeWord n = .error .illOp)

/-- R39, R46: a compact instruction does what its long counterpart does on the same registers, two bytes long. R385, R39: NOP,
in both lengths, moves the program counter only. -/
def Obligations.CompactIntegersAndNop : Prop :=
  (∀ (s : State) (tid : Nat) (a b : BitVec 5), Issuing s tid → Names s tid [a.toNat, b.toNat] →
    let x := Reads s tid a.toNat
    let y := Reads s tid b.toNat
    let n := y.toNat % 64
    let addr (o : Int) : Word := BitVec.ofInt 64 (x.toNat / 2^52 * 2^52 + ((x.toNat % 2^52 : Nat) + o) % 2^52)
    let go (v : Word) : Host.Outcome State Fault Refusal := .next (written s tid a.toNat 2 v)
    exec (.movCompact a b) s = go y ∧
    exec (.addCompact a b) s = go (x + y) ∧
    exec (.subCompact a b) s = go (x - y) ∧
    exec (.andCompact a b) s = go (x &&& y) ∧
    exec (.orCompact a b) s = go (x ||| y) ∧
    exec (.xorCompact a b) s = go (x ^^^ y) ∧
    exec (.sllCompact a b) s = go (BitVec.ofNat 64 (x.toNat * 2^n)) ∧
    exec (.srlCompact a b) s = go (BitVec.ofNat 64 (x.toNat / 2^n)) ∧
    exec (.sraCompact a b) s = go (BitVec.ofInt 64 (x.toInt / 2^n)) ∧
    exec (.mulCompact a b) s = .next (writtenLate s tid a.toNat 2 3 (x * y)) ∧
    exec (.aaddCompact a b) s = go (addr (y.toNat % 2^52 : Nat)) ∧
    exec (.sltCompact a b) s = go (if x.toInt < y.toInt then 1 else 0) ∧
    exec (.liCompact a b) s = go (b.signExtend 64) ∧
    exec (.addiCompact a b) s = go (x + b.signExtend 64) ∧
    exec (.aaddiCompact a b) s = go (addr b.toInt) ∧
    exec (.slliCompact a b) s = go (BitVec.ofNat 64 (x.toNat * 2^b.toNat)) ∧
    exec (.srliCompact a b) s = go (BitVec.ofNat 64 (x.toNat / 2^b.toNat)) ∧
    exec (.sraiCompact a b) s = go (BitVec.ofInt 64 (x.toInt / 2^b.toNat)) ∧
    exec (.andiCompact a b) s = go (x &&& b.signExtend 64) ∧
    exec (.oriCompact a b) s = go (x ||| b.signExtend 64) ∧
    exec (.xoriCompact a b) s = go (x ^^^ b.signExtend 64) ∧
    exec (.sltiCompact a b) s = go (if x.toInt < b.toInt then 1 else 0)) ∧
  (∀ (s : State) (tid : Nat), Issuing s tid →
    exec .nop s = .next (after s tid (·.skip 4)) ∧ exec .nopCompact s = .next (after s tid (·.skip 2)))

/-- R39, R41, R44, R166: MOV from and to the ports mp and ep: a handler's message words, an engine's completion elements, and
the first three words of a descriptor. R41, R44, R334, R335: the stream queues and ct. An element is popped from the front of
the queue the thread reads and pushed at the back of the one it writes; ct reads armature time; a queue whose other end has
ended and that holds nothing faults. -/
def Obligations.Ports : Prop :=
  (∀ (s : State) (tid : Nat) (a : BitVec 5), Issuing s tid → Names s tid [a.toNat] →
    let t := s.task tid
    (∀ v r, t.handler = true → t.mpIn = v :: r →
      exec (.movFromMpCompact a) s = .next (writtenSync (s.modTask tid fun t => { t with mpIn := r }) tid a.toNat 2 v)) ∧
    (t.mpOut.length < 8 → (∀ p ∈ t.pushes, p.2.1 ≠ 122) →
      exec (.movToMpCompact a) s =
        .next (after (s.modTask tid fun t => { t with mpOut := t.mpOut ++ [Reads s tid a.toNat] }) tid (·.skip 2))) ∧
    (∀ v r, t.r.esel = 1 → t.mxDone = v :: r →
      exec (.movFromEpCompact a) s =
        .next (afterSync (s.modTask tid fun t => { t with mxDone := r, mxOut := t.mxOut - 1 }) tid fun q =>
          ({ q with fflags := q.fflags ||| BitVec.ofNat 6 (v.toNat / 2^50) }.write a.toNat v).skip 2)) ∧
    (∀ v r, t.r.esel = 2 → t.xfDone = v :: r →
      exec (.movFromEpCompact a) s =
        .next (writtenSync (s.modTask tid fun t => { t with xfDone := r, xfOut := t.xfOut - 1 }) tid a.toNat 2 v)) ∧
    (t.r.esel = 1 ∨ t.r.esel = 2 → t.epWords.length < 3 → (∀ p ∈ t.pushes, p.2.1 ≠ 123) →
      exec (.movToEpCompact a) s =
        .next (after (s.modTask tid fun t => { t with epWords := t.epWords ++ [Reads s tid a.toNat] }) tid (·.skip 2)))) ∧
  (∀ (s : State) (tid : Nat) (d a : BitVec 7) (x : Link) (isA : Bool), Issuing s tid → Names s tid [d.toNat, a.toNat] →
    (Unrecorded s tid → exec (.addi d 124 0) s = .next (writtenSync s tid d.toNat 4 (s.time ((s.task tid).core / 896)))) ∧
    ∀ n : BitVec 7, n = 120 ∨ n = 121 → linkOf s tid = some (x, isA) →
      (∀ v r, readsQueue x isA n.toNat = true → x.q n.toNat = v :: r →
        exec (.addi d n 0) s = .next (writtenSync (setLinkQ s tid n.toNat List.tail) tid d.toNat 4 v)) ∧
      (readsQueue x isA n.toNat = true → x.q n.toNat = [] → x.otherEnded isA = true →
        exec (.addi d n 0) s = .next (faulted s tid 4 STRM_CLOSED 0)) ∧
      (readsQueue x isA n.toNat = false → x.otherEnded isA = false → (x.q n.toNat).length < 8 →
        (∀ p ∈ (s.task tid).pushes, p.2.1 ≠ n.toNat) →
        exec (.addi n a 0) s = .next (after (setLinkQ s tid n.toNat (· ++ [Reads s tid a.toNat])) tid (·.skip 4))) ∧
      (readsQueue x isA n.toNat = false → x.otherEnded isA = true →
        exec (.addi n a 0) s = .next (faulted s tid 4 STRM_CLOSED 0)) ∧
      (readsQueue x isA n.toNat = true → exec (.addi n a 0) s = .next (faulted s tid 4 PORT_MISUSE (BitVec.ofNat 64 n.toNat))) ∧
      (readsQueue x isA n.toNat = false → exec (.addi d n 0) s = .next (faulted s tid 4 PORT_MISUSE (BitVec.ofNat 64 n.toNat))))

/-! ### Floating point (spec/04, spec/05 R107-R113) -/

/-- R66, R71-R76, R109, R110, R113: rounding, and the exact results that are rounded. An exact value that a format has an encoding for
is rounded to it whatever the mode, with no flag; any other is rounded once, as its mode chooses, with R73's overflow and R74's NX and
UF; zeros keep their sign. Sums, products and fused forms of finite values are exact, quotients and roots round as the real ones do;
NaNs, infinities and zeros follow R74 and R75. FMIN and FMAX order −0 below +0; FCVT rounds, clamps or makes integral. -/
def Obligations.RoundingExact : Prop :=
  let fmts := [FP64, FP32, FP16, BF16, E5M2, E4M3, E2M1]
  let wide := [FP64, FP32, FP16, BF16]
  (∀ f ∈ fmts, ∀ (b rm : Nat) (r : BitVec 32), b < 2^f.width → ∀ n m e,
    fval f b = .num n m e → fround f (fval f b) rm r = (b, 0)) ∧
  (∀ f ∈ fmts, ∀ (rm : Nat) (r : BitVec 32) (n : Bool) (m : Nat) (e : ℤ), 1 ≤ rm → rm ≤ 5 →
    (0 < m → Rounded f n (m * 2^e) rm r (fround f (.num n m e) rm r)) ∧
    fround f (.num n 0 e) rm r = (signBit f n, 0)) ∧
  (∀ f ∈ fmts, f ≠ E2M1 → ∀ (rm : Nat) (r : BitVec 32) (q : Bool),
    fround f (.nan q) rm r = (f.nan, if q then NV else 0) ∧
    fround f (.inf q) rm r = (if f = E4M3 then (f.nan, NV) else (signBit f q + (2^f.eb - 1) * 2^f.fb, 0))) ∧
  (∀ (n1 n2 n3 : Bool) (m1 m2 m3 : Nat) (e1 e2 e3 : ℤ) (x y z : ℝ) (rm : Nat) (r : BitVec 32), 1 ≤ rm → rm ≤ 5 →
    let a := FVal.num n1 m1 e1
    let b := FVal.num n2 m2 e2
    let c := FVal.num n3 m3 e3
    a.Value x → b.Value y → c.Value z →
    (∃ v n w, xadd a b rm = (v, 0) ∧ v.Is n w ∧ v.Value (x + y) ∧
      (x + y = 0 → n = if n1 = n2 then n1 else rm == 3)) ∧
    (∃ v, xmul a b = (v, 0) ∧ v.Is (n1 != n2) |x * y|) ∧
    (∃ v n w, xfma a b c rm = (v, 0) ∧ v.Is n w ∧ v.Value (x * y + z) ∧
      (x * y + z = 0 → n = if (n1 != n2) = n3 then n3 else rm == 3)) ∧
    (0 < m1 → 0 < m2 → (xdiv a b).2 = 0 ∧
      ∀ f ∈ fmts, Rounded f (n1 != n2) (|x| / |y|) rm r (fround f (xdiv a b).1 rm r)) ∧
    (m1 = 0 → 0 < m2 → xdiv a b = (.num (n1 != n2) 0 0, 0)) ∧
    (0 < m1 → m2 = 0 → xdiv a b = (.inf (n1 != n2), DZ)) ∧
    (m1 = 0 → m2 = 0 → xdiv a b = (.nan false, NV)) ∧
    (0 < m1 → n1 = false → (xsqrt a).2 = 0 ∧
      ∀ f ∈ fmts, Rounded f false (Real.sqrt x) rm r (fround f (xsqrt a).1 rm r)) ∧
    (0 < m1 → n1 = true → xsqrt a = (.nan false, NV)) ∧
    (m1 = 0 → xsqrt a = (.num n1 0 0, 0)) ∧
    (flt a b = true ↔ x < y) ∧ (feq a b = true ↔ x = y)) ∧
  (∀ (p q : Bool) (n : Bool) (m : Nat) (e : ℤ) (v w : FVal) (s : Bool) (rm : Nat),
    let a := FVal.num n m e
    xadd (.inf p) (.inf q) rm = (if p = q then (.inf p, 0) else (.nan false, NV)) ∧
    xadd (.inf p) a rm = (.inf p, 0) ∧ xadd a (.inf p) rm = (.inf p, 0) ∧
    xmul (.inf p) (.inf q) = (.inf (p != q), 0) ∧
    xmul (.inf p) a = (if m = 0 then (.nan false, NV) else (.inf (p != n), 0)) ∧
    xmul a (.inf p) = (if m = 0 then (.nan false, NV) else (.inf (n != p), 0)) ∧
    xdiv (.inf p) (.inf q) = (.nan false, NV) ∧ xdiv (.inf p) a = (.inf (p != n), 0) ∧
    xdiv a (.inf p) = (.num (n != p) 0 0, 0) ∧
    xsqrt (.inf p) = (if p then (.nan false, NV) else (.inf false, 0)) ∧
    xsqrt (.nan s) = (.nan false, if s then NV else 0) ∧
    (v.isNan = true ∨ w.isNan = true →
      let fl : Flags := if v.isSNan ∨ w.isSNan then NV else 0
      xadd v w rm = (.nan false, fl) ∧ xmul v w = (.nan false, fl) ∧ xdiv v w = (.nan false, fl))) ∧
  (∀ (v w u : FVal) (rm : Nat),
    ((xmul v w).1.isNan = true ∨ u.isNan = true →
      xfma v w u rm = (.nan false, (xmul v w).2 ||| (if u.isSNan then NV else 0))) ∧
    ((xmul v w).1.isNan = false → u.isNan = false → xfma v w u rm = xadd (xmul v w).1 u rm)) ∧
  (∀ f ∈ wide, ∀ a b : Nat, a < 2^f.width → b < 2^f.width →
    let half := 2^(f.width - 1)
    let key (i : Nat) : ℤ := if half ≤ i then -((i - half : Nat) : ℤ) - 1 else i
    let x := fval f a
    let y := fval f b
    (x.isNan = false → y.isNan = false →
      fminmax f false a b = (if key a ≤ key b then a else b, 0) ∧
      fminmax f true a b = (if key a ≤ key b then b else a, 0)) ∧
    (∀ g : Bool, x.isNan = true ∨ y.isNan = true →
      fminmax f g a b =
        (if x.isNan = false then a else if y.isNan = false then b else f.nan, if x.isSNan ∨ y.isSNan then NV else 0))) ∧
  (∀ (t u : BitVec 3) (w : BitVec 1) (x : Word) (rm : Nat) (r : BitVec 32), fcvtLegal t u w → 1 ≤ rm → rm ≤ 5 →
    let fmt (c : BitVec 3) : Fmt := ([FP64, FP32, FP16, BF16, E4M3, E5M2].getD c.toNat FP64)
    let n : Nat := if w = 1 then 32 else 64
    let v := cvt t.toNat u.toNat (w == 1) x rm r
    let out (z : Nat × Flags) : Prop := v = (BitVec.ofNat 64 z.1, z.2)
    let low : Nat := x.toNat % 2^n
    let int : ℤ := if u = 6 ∧ 2^(n - 1) ≤ low then (low : ℤ) - (2^n : Nat) else low
    let lo : ℤ := if t = 6 then -(2^(n - 1) : Nat) else 0
    let hi : ℤ := if t = 6 then (2^(n - 1) : Nat) - 1 else (2^n : Nat) - 1
    let src := fval (fmt u) (x.toNat % 2^(fmt u).width)
    (6 ≤ u.toNat → out (fround (fmt t) (.num (decide (int < 0)) int.natAbs 0) rm r)) ∧
    (u.toNat < 6 → t.toNat < 6 → t ≠ u → out (fround (fmt t) src rm r)) ∧
    (u.toNat < 6 → 6 ≤ t.toNat →
      (src.isNan = true → v = (0, NV)) ∧
      (∀ g, src = .inf g → v = (BitVec.ofInt 64 (if g then lo else hi), NV)) ∧
      (∀ g m e k, src = .num g m e → Chosen g (m * 2^e) 0 rm r k →
        let z := if g then -k else k
        (lo ≤ z → z ≤ hi → (k : ℝ) = m * 2^e → v = (BitVec.ofInt 64 z, 0)) ∧
        (lo ≤ z → z ≤ hi → (k : ℝ) ≠ m * 2^e → v = (BitVec.ofInt 64 z, NX)) ∧
        (z < lo → v = (BitVec.ofInt 64 lo, NV)) ∧ (hi < z → v = (BitVec.ofInt 64 hi, NV)))) ∧
    (u.toNat < 6 → t = u →
      (∀ s, src = .nan s → out ((fmt t).nan, if s then NV else 0)) ∧
      (∀ g, src = .inf g → out (x.toNat % 2^(fmt u).width, 0)) ∧
      (∀ g m e k, src = .num g m e → Chosen g (m * 2^e) 0 rm r k →
        ∃ b, (fval (fmt t) b).Is g k ∧ b < 2^(fmt t).width ∧ ((k : ℝ) = m * 2^e → out (b, 0)) ∧
          ((k : ℝ) ≠ m * 2^e → out (b, NX)))))

/-- R107, R108, R77, R81: FADD, FSUB, FMUL, FDIV, FFMA and FSQRT round their exact result once in the mode FRM names, take one
draw under SR and only then, gather their flags, have their result ready after R89's cycles and change nothing else. -/
def Obligations.FloatArithmetic : Prop :=
  ∀ (s : State) (tid : Nat) (d a : BitVec 7) (p : BitVec 2) (b c e : BitVec 5), Issuing s tid → p.toNat ≤ 1 →
    Names s tid [d.toNat, a.toNat, b.toNat, c.toNat, e.toNat] →
    let q := (s.task tid).r
    let rm := q.frm.toNat
    let go (f : Fmt) (dst len : Nat) (x : Exact) (n : Nat := 4) : Host.Outcome State Fault Refusal :=
      let v := fround f x.1 rm (if rm = 5 then srNext q.srseed else 0)
      .next ((after s tid fun r =>
        ({ r with srseed := if rm = 5 then srNext r.srseed else r.srseed
                  fflags := r.fflags ||| (x.2 ||| v.2) }.write dst (BitVec.ofNat 64 v.1)).skip len).later tid dst n)
    let long : Nat := if p = 0 then 12 else 24
    let val (f : Fmt) (n : Nat) : FVal := fval f ((Reads s tid n).toNat % 2^f.width)
    let f := if p = 0 then FP32 else FP64
    exec (.fadd d a p b) s = go f d.toNat 4 (xadd (val f a.toNat) (val f b.toNat) rm) ∧
    exec (.fsub d a p b) s = go f d.toNat 4 (xadd (val f a.toNat) (val f b.toNat).neg rm) ∧
    exec (.fmul d a p b) s = go f d.toNat 4 (xmul (val f a.toNat) (val f b.toNat)) ∧
    exec (.fdiv d a p b) s = go f d.toNat 4 (xdiv (val f a.toNat) (val f b.toNat)) long ∧
    exec (.ffma d a p b) s = go f d.toNat 4 (xfma (val f a.toNat) (val f b.toNat) (val f d.toNat) rm) ∧
    exec (.fsqrt d a p) s = go f d.toNat 4 (xsqrt (val f a.toNat)) long ∧
    exec (.faddSCompact c e) s = go FP32 c.toNat 2 (xadd (val FP32 c.toNat) (val FP32 e.toNat) rm) ∧
    exec (.fmulSCompact c e) s = go FP32 c.toNat 2 (xmul (val FP32 c.toNat) (val FP32 e.toNat))

/-- R109-R111: FMIN, FMAX, FCMP and FCLASS round nothing and draw nothing; a predicate is false on NaN but for un; eq and un
set NV for a signalling NaN, lt and le for any. R112, R113: every form of FCVT converts once, in FRM's mode, towards zero, or
under SR with one draw. -/
def Obligations.FloatCompareAndConvert : Prop :=
  (∀ (s : State) (tid : Nat) (d a : BitVec 7) (p : BitVec 2) (b : BitVec 5), Issuing s tid → p.toNat ≤ 1 →
    Names s tid [d.toNat, a.toNat, b.toNat] →
    let f := if p = 0 then FP32 else FP64
    let i := (Reads s tid a.toNat).toNat % 2^f.width
    let j := (Reads s tid b.toNat).toNat % 2^f.width
    let x := fval f i
    let y := fval f j
    let nan := x.isNan ∨ y.isNan
    let quiet : Flags := if x.isSNan ∨ y.isSNan then NV else 0
    let go (v : Nat) (fl : Flags) : Host.Outcome State Fault Refusal :=
      .next ((after s tid fun r => ({ r with fflags := r.fflags ||| fl }.write d.toNat (BitVec.ofNat 64 v)).skip 4).later tid
        d.toNat 4)
    exec (.fcmpEq d a p b) s = go (if ¬ nan ∧ feq x y then 1 else 0) quiet ∧
    exec (.fcmpLt d a p b) s = go (if ¬ nan ∧ flt x y then 1 else 0) (if nan then NV else 0) ∧
    exec (.fcmpLe d a p b) s = go (if ¬ nan ∧ (flt x y ∨ feq x y) then 1 else 0) (if nan then NV else 0) ∧
    exec (.fcmpUn d a p b) s = go (if nan then 1 else 0) quiet ∧
    exec (.fmin d a p b) s = go (fminmax f false i j).1 quiet ∧
    exec (.fmax d a p b) s = go (fminmax f true i j).1 quiet ∧
    exec (.fclass d a p) s = .next (writtenLate s tid d.toNat 4 4 (BitVec.ofNat 64 (fclassOf f i)))) ∧
  (∀ (s : State) (tid : Nat) (d a : BitVec 7) (t u : BitVec 3) (w : BitVec 1), Issuing s tid → fcvtLegal t u w →
    Names s tid [d.toNat, a.toNat] →
    let q := (s.task tid).r
    let go (rm : Nat) : Host.Outcome State Fault Refusal :=
      let v := cvt t.toNat u.toNat (w == 1) (Reads s tid a.toNat) rm (if rm = 5 then srNext q.srseed else 0)
      .next ((after s tid fun r =>
        ({ r with srseed := if rm = 5 then srNext r.srseed else r.srseed, fflags := r.fflags ||| v.2 }.write d.toNat v.1).skip
          4).later tid d.toNat 4)
    exec (.fcvt d a t u w) s = go q.frm.toNat ∧
    exec (.fcvtRtz d a t u w) s = go 2 ∧
    exec (.fcvtSr d a t u w) s = go 5)

/-! ### Branches and jumps (spec/05 R114-R116) -/

/-- R114, R116: a conditional branch goes to PC + 2·offset modulo 2^52 where its condition holds, its thread's next
instruction then ready two cycles later, and on past itself otherwise. R115: a jump writes the address past it as its link and
goes to its target; the base is read before the link is written, and an odd target of JALR faults with PC_ALIGN and links
nothing. -/
def Obligations.BranchesAndJumps : Prop :=
  (∀ (s : State) (tid : Nat) (a b : BitVec 7) (c : BitVec 4) (o : BitVec 9) (h : BitVec 16) (k : BitVec 32) (e g : BitVec 5),
    Issuing s tid → Names s tid [a.toNat, b.toNat, c.toNat, e.toNat] →
    let x := Reads s tid a.toNat
    let y := Reads s tid b.toNat
    let z := Reads s tid c.toNat
    let go (len : Nat) (o : Int) (taken : Prop) [Decidable taken] : Host.Outcome State Fault Refusal :=
      .next (after (if taken then s.bubble tid else s) tid fun r =>
        { r with pc := if taken then r.pc + BitVec.ofInt 52 (2 * o) else r.pc + BitVec.ofNat 52 len })
    exec (.beq a c o) s = go 4 o.toInt (x = z) ∧
    exec (.bne a c o) s = go 4 o.toInt (x ≠ z) ∧
    exec (.blt a c o) s = go 4 o.toInt (x.toInt < z.toInt) ∧
    exec (.bge a c o) s = go 4 o.toInt (z.toInt ≤ x.toInt) ∧
    exec (.bltu a c o) s = go 4 o.toInt (x.toNat < z.toNat) ∧
    exec (.bgeu a c o) s = go 4 o.toInt (z.toNat ≤ x.toNat) ∧
    exec (.beqz a h) s = go 4 h.toInt (x = 0) ∧
    exec (.bnez a h) s = go 4 h.toInt (x ≠ 0) ∧
    exec (.beqLong a b k) s = go 8 k.toInt (x = y) ∧
    exec (.bneLong a b k) s = go 8 k.toInt (x ≠ y) ∧
    exec (.bltLong a b k) s = go 8 k.toInt (x.toInt < y.toInt) ∧
    exec (.bgeLong a b k) s = go 8 k.toInt (y.toInt ≤ x.toInt) ∧
    exec (.bltuLong a b k) s = go 8 k.toInt (x.toNat < y.toNat) ∧
    exec (.bgeuLong a b k) s = go 8 k.toInt (y.toNat ≤ x.toNat) ∧
    exec (.beqzLong a k) s = go 8 k.toInt (x = 0) ∧
    exec (.bnezLong a k) s = go 8 k.toInt (x ≠ 0) ∧
    exec (.beqzCompact e g) s = go 2 g.toInt (Reads s tid e.toNat = 0) ∧
    exec (.bnezCompact e g) s = go 2 g.toInt (Reads s tid e.toNat ≠ 0)) ∧
  (∀ (s : State) (tid : Nat) (d a : BitVec 7) (c e : BitVec 4) (g : BitVec 5) (o : BitVec 9) (h : BitVec 16) (k : BitVec 32),
    Issuing s tid → Names s tid [d.toNat, a.toNat, c.toNat, e.toNat, g.toNat] →
    let pc := (s.task tid).r.pc
    let link (d len : Nat) (target : Addr) : Host.Outcome State Fault Refusal :=
      .next (after (s.bubble tid) tid fun r => { r.write d (BitVec.ofNat 64 (pc + BitVec.ofNat 52 len).toNat) with pc := target })
    let through (d len b : Nat) (o : Int) : Host.Outcome State Fault Refusal :=
      let target : Addr := BitVec.ofInt 52 ((Reads s tid b).toNat + o)
      if target.toNat % 2 = 1 then .next (faulted s tid len PC_ALIGN 0) else link d len target
    exec (.jal d h) s = link d.toNat 4 (pc + BitVec.ofInt 52 (2 * h.toInt)) ∧
    exec (.jalLong d k) s = link d.toNat 8 (pc + BitVec.ofInt 52 (2 * k.toInt)) ∧
    exec (.jalr d c o) s = through d.toNat 4 c.toNat (2 * o.toInt) ∧
    exec (.jalrLong d a k) s = through d.toNat 8 a.toNat k.toInt ∧
    exec (.jalrCompact g e) s = through g.toNat 2 e.toNat 0)

/-! ### Operand forms, ports and faults (spec/02 R41-R50) -/

/-- R41, R43, R44, R90: an instruction whose fields name anything R41 lets them name completes by reading its sources in order
and writing its destination; ports take and give one element each, a product's when it is ready. R41-R43, R48: what a field
must not name. A register past the limit, numbers 126 and 127, ct as a destination, and a port in a field both read and
written fault before anything else happens, DETAIL the register's number. -/
def Obligations.Operands : Prop :=
  (∀ (s s1 s2 s3 : State) (tid : Nat) (d a b : BitVec 7) (x y : Word), Issuing s tid →
    checkOperands s tid [.dst d.toNat, .src a.toNat, .src b.toNat] = .ok () →
    opdsReady s tid [.dst d.toNat, .src a.toNat, .src b.toNat] = .ok () →
    resultsReady s tid [.dst d.toNat, .src a.toNat, .src b.toNat] = .ok () →
    let port := [Opd.src a.toNat, .src b.toNat].any isSrcPort
    readReg s tid a.toNat = .ok (x, s1) → readReg s1 tid b.toNat = .ok (y, s2) →
    (writeReg s2 tid d.toNat (x + y) = .ok s3 → (s3.task tid).pair = none →
      exec (.add d a b) s = .next (done s3 tid port (·.skip 4))) ∧
    (writeReg s2 tid d.toNat (x - y) = .ok s3 → (s3.task tid).pair = none →
      exec (.sub d a b) s = .next (done s3 tid port (·.skip 4))) ∧
    (isPort d.toNat = false → writeReg s2 tid d.toNat (x * y) = .ok s3 → (s3.task tid).pair = none →
      exec (.mul d a b) s = .next (done (s3.later tid d.toNat 3) tid port (·.skip 4))) ∧
    (isPort d.toNat = true → writeReg s2 tid d.toNat (x * y) = .ok s3 → (s2.task tid).pair = none →
      exec (.mul d a b) s = .next (done (s2.modTask tid fun t =>
        { t with pushes := t.pushes ++ [(s2.cycle + 3, d.toNat, t.r.esel, x * y)] }) tid port (·.skip 4)))) ∧
  (∀ (s : State) (tid : Nat) (d a b n : BitVec 7), Issuing s tid → Names s tid [d.toNat, a.toNat, b.toNat] →
    let go (c : Code) : Host.Outcome State Fault Refusal := .next (faulted s tid 4 c (BitVec.ofNat 64 n.toNat))
    (n.toNat < 120 → (s.task tid).limit < n.toNat →
      exec (.add n a b) s = go REG_LIMIT ∧ exec (.add d n b) s = go REG_LIMIT ∧ exec (.add d a n) s = go REG_LIMIT ∧
      exec (.sel n a b) s = go REG_LIMIT ∧ exec (.touch d n) s = go REG_LIMIT ∧ exec (.csrr n 0) s = go REG_LIMIT) ∧
    (n = 126 ∨ n = 127 →
      exec (.add n a b) s = go PORT_MISUSE ∧ exec (.add d n b) s = go PORT_MISUSE ∧ exec (.add d a n) s = go PORT_MISUSE ∧
      exec (.std n a 0) s = go PORT_MISUSE ∧ exec (.touch d n) s = go PORT_MISUSE) ∧
    (n = 124 → exec (.add n a b) s = go PORT_MISUSE) ∧
    (120 ≤ n.toNat → n ≠ 125 → exec (.sel n a b) s = go PORT_MISUSE ∧ exec (.lih n 0) s = go PORT_MISUSE))

/-- R5, R49, R50: a fault leaves the thread's registers, every other thread, every core and memory as they were, halts the
thread, and sends its cluster's CSC one message of four words. R28, R47-R49, R385: the faults that are instructions: an
illegal encoding and a fault of a fetch take the fault they name, BRK the fault BREAK. A fetch fault's length and word are
zero. -/
def Obligations.FaultsAndTheirMessage : Prop :=
  (∀ (s : State) (tid len : Nat) (u : Turn) (c : Code) (detail : Word), s.turn = some u →
    let t := s.task tid
    let s' := faulted s tid len c detail
    let h : Halt := { code := c, detail := detail, len := len, insn := u.insn }
    s'.task tid = { t with halt := some h, part := [] } ∧ (∀ o, o ≠ tid → s'.task o = s.task o) ∧
    s'.cores = s.cores ∧ s'.mem = s.mem ∧ s'.poison = s.poison ∧ s'.turn = none ∧
    (s'.cluster (t.core / 8)).faults = (s.cluster (t.core / 8)).faults ++
      [{ tid := tid
         w0 := BitVec.ofNat 64 (c.toNat * 2^56 + len * 2^52 + (s.ctx t.ctx).asid * 2^32 + t.core / 896 * 2^21 +
           t.core / 8 % 112 * 2^14 + t.core % 8 * 2^11 + t.slot.getD 0)
         w1 := BitVec.ofNat 64 t.r.pc.toNat
         w2 := BitVec.ofNat 64 u.insn
         w3 := detail }]) ∧
  (∀ (s : State) (tid : Nat) (u : Turn) (c : BitVec 7) (i : BitVec 5) (code : BitVec 8) (detail : Word), Issuing s tid →
    s.turn = some u →
    exec (.brk c) s = .next (faulted s tid 4 BREAK 0) ∧
    exec (.brkCompact i) s = .next (faulted s tid 2 BREAK 0) ∧
    exec (.illegalEncoding code detail) s = .next (faulted s tid u.len code detail) ∧
    exec (.instructionFetchFault code detail) s =
      .next ((haltTask s tid { code := code, detail := detail, len := 0, insn := 0 }).endTurn))

/-! ### Exceptions and privilege (spec/14 R367, R385) -/

/-- R385: TRAP in a firmware context with TVEC ≠ 0 saves PC + 4 in EPC and its code in ECODE and goes to TVEC; otherwise it is
the fault TRAP. ERET goes to EPC, which must be even. Nothing else changes. R367: a privileged instruction, and every access
to a CSR that R367 reserves, faults with PRIV in a context without firmware privilege. -/
def Obligations.TrapReturnAndPrivilege : Prop :=
  (∀ (s : State) (tid : Nat) (c : BitVec 7), Issuing s tid →
    let r := (s.task tid).r
    (isFirmware s tid = true → r.tvec ≠ 0 →
      exec (.trap c) s = .next (afterSync s tid fun r =>
        { r with epc := BitVec.ofNat 64 (r.pc + 4).toNat, ecode := c, pc := BitVec.ofNat 52 r.tvec.toNat })) ∧
    (isFirmware s tid = false ∨ r.tvec = 0 → exec (.trap c) s = .next (faulted s tid 4 TRAP 0)) ∧
    (isFirmware s tid = true → r.epc.toNat % 2 = 0 →
      exec .eret s = .next (afterSync s tid fun r => { r with pc := BitVec.ofNat 52 r.epc.toNat })) ∧
    (isFirmware s tid = true → r.epc.toNat % 2 = 1 → exec .eret s = .next (faulted s tid 4 PC_ALIGN 0))) ∧
  (∀ (s : State) (tid : Nat) (d a b : BitVec 7), Issuing s tid → isFirmware s tid = false →
    Names s tid [d.toNat, a.toNat, b.toNat] →
    let priv (i : Instr) : Prop := exec i s = .next (faulted s tid 4 PRIV 0)
    (∀ i ∈ [Instr.eret, .tlbw d a b, .tlbinv d a b, .slotw d a b, .mapcl d a b], priv i) ∧
    (∀ n ∈ ([0x03E, 0x050, 0x051, 0x052] : List (BitVec 12)),
      priv (.csrr d n) ∧ priv (.csrw a n) ∧ priv (.csrs a n) ∧ priv (.csrc a n)) ∧
    (∀ n ∈ ([0x028, 0x029] : List (BitVec 12)), priv (.csrw a n) ∧ priv (.csrs a n) ∧ priv (.csrc a n)))

/-! ### Loads and stores (spec/10 R240-R251) -/

/-- R240, R242, R244, R245: a plain load of one, two, four or eight bytes at G[rs1] plus its offset, sign- or zero-extended
into its destination. What the access itself reads is `loadAny`'s (WindowAccess, MemoryAccess). R240, R242, R244, R245: a
plain store of its data's low bytes at G[rs1] plus its offset: it writes no register. Where the store goes is `storeAny`'s
(WindowAccess, MemoryAccess). -/
def Obligations.LoadsAndStores : Prop :=
  (∀ (s s1 : State) (tid v : Nat) (d a : BitVec 7) (o : BitVec 6) (k : BitVec 32) (e f j : BitVec 5), Issuing s tid →
    Names s tid [d.toNat, a.toNat, e.toNat, f.toNat, 2] →
    let go (base dst len n : Nat) (off : Int) (ext : Word) (i : Instr) : Prop :=
      let p := Reads s tid base
      let va := (((p.toNat % 2^52 : Nat) + off) % 2^52).toNat
      p.toNat / 2^52 % 8 = 0 → va % n = 0 → loadAny s tid va n = .ok (v, s1) →
      exec i s = .next (written s1 tid dst len ext)
    go a.toNat d.toNat 4 1 o.toInt ((BitVec.ofNat 8 v).signExtend 64) (.ldb d a o) ∧
    go a.toNat d.toNat 4 1 o.toInt (BitVec.ofNat 64 v) (.ldbu d a o) ∧
    go a.toNat d.toNat 4 2 (2 * o.toInt) ((BitVec.ofNat 16 v).signExtend 64) (.ldh d a o) ∧
    go a.toNat d.toNat 4 2 (2 * o.toInt) (BitVec.ofNat 64 v) (.ldhu d a o) ∧
    go a.toNat d.toNat 4 4 (4 * o.toInt) ((BitVec.ofNat 32 v).signExtend 64) (.ldw d a o) ∧
    go a.toNat d.toNat 4 4 (4 * o.toInt) (BitVec.ofNat 64 v) (.ldwu d a o) ∧
    go a.toNat d.toNat 4 8 (8 * o.toInt) (BitVec.ofNat 64 v) (.ldd d a o) ∧
    go a.toNat d.toNat 8 1 k.toInt ((BitVec.ofNat 8 v).signExtend 64) (.ldbLong d a k) ∧
    go a.toNat d.toNat 8 1 k.toInt (BitVec.ofNat 64 v) (.ldbuLong d a k) ∧
    go a.toNat d.toNat 8 2 k.toInt ((BitVec.ofNat 16 v).signExtend 64) (.ldhLong d a k) ∧
    go a.toNat d.toNat 8 2 k.toInt (BitVec.ofNat 64 v) (.ldhuLong d a k) ∧
    go a.toNat d.toNat 8 4 k.toInt ((BitVec.ofNat 32 v).signExtend 64) (.ldwLong d a k) ∧
    go a.toNat d.toNat 8 4 k.toInt (BitVec.ofNat 64 v) (.ldwuLong d a k) ∧
    go a.toNat d.toNat 8 8 k.toInt (BitVec.ofNat 64 v) (.lddLong d a k) ∧
    go f.toNat e.toNat 2 8 0 (BitVec.ofNat 64 v) (.lddCompact e f) ∧
    go f.toNat e.toNat 2 4 0 ((BitVec.ofNat 32 v).signExtend 64) (.ldwCompact e f) ∧
    go 2 e.toNat 2 8 (8 * j.toNat) (BitVec.ofNat 64 v) (.lddG2Compact e j) ∧
    go 2 e.toNat 2 4 (4 * j.toNat) ((BitVec.ofNat 32 v).signExtend 64) (.ldwG2Compact e j)) ∧
  (∀ (s s1 : State) (tid : Nat) (d a o : BitVec 7) (k : BitVec 32) (e f j : BitVec 5), Issuing s tid →
    Names s tid [d.toNat, a.toNat, e.toNat, f.toNat, 2] →
    let go (base src len n : Nat) (off : Int) (i : Instr) : Prop :=
      let p := Reads s tid base
      let va := (((p.toNat % 2^52 : Nat) + off) % 2^52).toNat
      p.toNat / 2^52 % 8 = 0 → va % n = 0 →
      storeAny s tid va (toBytes n (Reads s tid src).toNat) = .ok s1 →
      exec i s = .next (after s1 tid (·.skip len))
    go a.toNat d.toNat 4 1 o.toInt (.stb d a o) ∧
    go a.toNat d.toNat 4 2 (2 * o.toInt) (.sth d a o) ∧
    go a.toNat d.toNat 4 4 (4 * o.toInt) (.stw d a o) ∧
    go a.toNat d.toNat 4 8 (8 * o.toInt) (.std d a o) ∧
    go a.toNat d.toNat 8 1 k.toInt (.stbLong d a k) ∧
    go a.toNat d.toNat 8 2 k.toInt (.sthLong d a k) ∧
    go a.toNat d.toNat 8 4 k.toInt (.stwLong d a k) ∧
    go a.toNat d.toNat 8 8 k.toInt (.stdLong d a k) ∧
    go f.toNat e.toNat 2 8 0 (.stdCompact e f) ∧
    go 2 e.toNat 2 8 (8 * j.toNat) (.stdG2Compact e j) ∧
    go 2 e.toNat 2 4 (4 * j.toNat) (.stwG2Compact e j))

/-- R241, R242: a set pointer bit faults with BAD_POINTER and an unaligned address with MISALIGN, DETAIL the address, before
anything is read or written. -/
def Obligations.AccessFaults : Prop :=
  ∀ (s : State) (tid : Nat) (d a : BitVec 7), Issuing s tid → Names s tid [d.toNat, a.toNat] →
    let p := Reads s tid a.toNat
    let va := p.toNat % 2^52
    let go (c : Code) : Host.Outcome State Fault Refusal := .next (faulted s tid 4 c (BitVec.ofNat 64 va))
    (p.toNat / 2^52 % 8 ≠ 0 →
      ∀ i ∈ [Instr.ldb d a 0, .ldh d a 0, .ldw d a 0, .ldd d a 0, .stb d a 0, .std d a 0, .lda d a 0, .strel d a 0, .ldt d a 125,
        .stt d a 125, .get d a, .mxsub d a], exec i s = go BAD_POINTER) ∧
    (p.toNat / 2^52 % 8 = 0 → va % 8 ≠ 0 →
      ∀ i ∈ [Instr.ldd d a 0, .std d a 0, .lda d a 0, .strel d a 0, .get d a, .put d a, .mxsub d a], exec i s = go MISALIGN) ∧
    (p.toNat / 2^52 % 8 = 0 → va % 4 ≠ 0 → ∀ i ∈ [Instr.ldw d a 0, .ldwu d a 0, .stw d a 0], exec i s = go MISALIGN) ∧
    (p.toNat / 2^52 % 8 = 0 → va % 2 ≠ 0 → ∀ i ∈ [Instr.ldh d a 0, .ldhu d a 0, .sth d a 0], exec i s = go MISALIGN)

/-- R25, R178, R219: a plain load of the on-chip window reads its own context's partition, once no store of the thread to
those bytes is on its way, and changes nothing but that values its thread had read early are over (R216). R214, R219, R245: a
store to the window enters the thread's FIFO with its place and bytes and changes nothing else. -/
def Obligations.WindowAccess : Prop :=
  (∀ (s : State) (tid va n k o : Nat) (q : Part), (s.task tid).pair = none → va / 2^48 % 16 = 15 →
    let t := s.task tid
    winPlace s (t.core / 8) t.ctx va n = .ok (k, o) → coreAnswers s k va = .ok () →
    partOf (s.core k) t.ctx = some q → q.mapping o = none → uaPoisonIn s k t.ctx o n = none →
    (∀ i < n, newest (ownStores t) (.win k (o + i)) = none) → t.unacked.contains (k, o / 128) = false →
    0 < n → loadAny s tid va n =
      .ok (leVal ((List.range n).map fun i => mget 0 (s.core k).ua (q.ua (o + i))), dropEarly s tid)) ∧
  (∀ (s : State) (tid k o : Nat) (q : Part) (d a : BitVec 7), Issuing s tid → Names s tid [d.toNat, a.toNat] →
    let t := s.task tid
    let p := Reads s tid a.toNat
    let va := p.toNat % 2^52
    let bytes := toBytes 8 (Reads s tid d.toNat).toNat
    va / 2^48 % 16 = 15 → p.toNat / 2^52 % 8 = 0 → va % 8 = 0 →
    winPlace s (t.core / 8) t.ctx va 8 = .ok (k, o) → coreAnswers s k va = .ok () →
    partOf (s.core k) t.ctx = some q → q.mapping o = none → t.fifo.length < 16 →
    exec (.std d a 0) s =
      .next (after (s.modTask tid fun t => { t with fifo := t.fifo ++ [{ dest := .win k o, bytes := bytes }] }) tid (·.skip 4)))

/-- R191, R215, R243: a plain load of translated memory with a readable token, no store to those bytes in the thread's FIFO or
its die's order, nothing read early and no poison reads memory's bytes and writes no memory. R214, R245: a plain store to
translated memory enters the thread's FIFO with its physical address and bytes: memory, every register and every other thread
stay as they were. -/
def Obligations.MemoryAccess : Prop :=
  (∀ (s s1 : State) (tid va dpa n : Nat) (e : Word), (s.task tid).pair = none → va / 2^48 % 16 ≠ 15 →
    xlThread s tid va .rd = (.hit dpa e, s1) → region dpa ≠ 2 → region dpa ≠ 3 → region dpa ≠ 4 →
    (∀ i < n, newest (s.task tid).fifo (.mem (dpa + i)) = none) → (s.task tid).early = [] →
    (∀ i < n, dieByte (s.die ((s.task tid).core / 896)).order (dpa + i) = none) →
    (s1.tok (dpa / 128) ((s.task tid).core / 896)).mayRead = true → 0 < n →
    (∀ w ∈ wordsOf dpa n, poisonGet s.poison w = false) →
    (∀ x ∈ (s.die ((s.task tid).core / 896)).order, ∀ w ∈ wordsOf dpa n, w ∉ x.bad) →
    ∃ s2, loadAny s tid va n = .ok (leVal (memBytes s.mem dpa n), s2) ∧ s2.mem = s.mem ∧ s2.task tid = s.task tid) ∧
  (∀ (s s1 : State) (tid dpa : Nat) (e : Word) (d a : BitVec 7), Issuing s tid → Names s tid [d.toNat, a.toNat] →
    let p := Reads s tid a.toNat
    let va := p.toNat % 2^52
    let bytes := toBytes 8 (Reads s tid d.toNat).toNat
    va / 2^48 % 16 ≠ 15 → p.toNat / 2^52 % 8 = 0 → va % 8 = 0 →
    xlThread s tid va .wr = (.hit dpa e, s1) → region dpa ≠ 4 → deadPlace s1 dpa = false → (s.task tid).fifo.length < 16 →
    ∃ t, exec (.std d a 0) s = .next t ∧ t.mem = s.mem ∧ t.poison = s.poison ∧ (∀ o, o ≠ tid → t.task o = s.task o) ∧
      (t.task tid).fifo = (s.task tid).fifo ++ [{ dest := .mem dpa, bytes := bytes, uncached := isUncached e dpa }] ∧
      (t.task tid).r = (s.task tid).r.skip 4)

/-- R69, R70, R241, R247: LDT of an unscaled element that is an integer: FMT 0 the word, 1 the sign-extended byte, 2 the
sign-extended nibble. Of a floating format or a scaled one, its value as FP64, canonical where it is NaN; only a signalling
NaN sets a flag. A scaled element's value is its code's times 2 to the scale byte less 127, every element NaN where the scale
byte is 255. R72-R75, R77, R248: STT. FMT 0 writes the word; 1 the byte and 2 the nibble saturated, OF where that changes
them, the nibble's byte read first and its other half kept; 3 to 7 the FP64 value rounded once in the mode FRM names, with one
draw under SR; 8 the word, its NaN canonical; of a scaled format it faults. -/
def Obligations.TypedAccess : Prop :=
  (∀ (s s1 : State) (tid v : Nat) (d a b : BitVec 7), Issuing s tid → Names s tid [d.toNat, a.toNat, b.toNat] →
    let p := Reads s tid a.toNat
    let i := (Reads s tid b.toNat).toNat
    let code := p.toNat / 2^58
    let l := p.toNat / 2^55 % 8
    let va := elemAddr p code i
    let float (s : State) (x : FVal) : Host.Outcome State Fault Refusal :=
      .next (after s tid fun r =>
        ({ r with fflags := if x.isSNan then r.fflags ||| NV else r.fflags }.write d.toNat
          (BitVec.ofNat 64 (fround FP64 x 1 0).1)).skip 4)
    p.toNat / 2^52 % 8 = 0 →
    (code ≤ 8 → va % elemSize code = 0 → loadVa s tid va (elemSize code) true = .ok (v, s1) →
      (code = 0 → exec (.ldt d a b) s = .next (written s1 tid d.toNat 4 (BitVec.ofNat 64 v))) ∧
      (code = 1 → exec (.ldt d a b) s = .next (written s1 tid d.toNat 4 ((BitVec.ofNat 8 v).signExtend 64))) ∧
      (code = 2 → exec (.ldt d a b) s = .next (written s1 tid d.toNat 4 ((BitVec.ofNat 4 (v / 16^(i % 2))).signExtend 64))) ∧
      (3 ≤ code → exec (.ldt d a b) s = float s1 (fval (codeFmt code) v))) ∧
    (18 ≤ code ∧ code ≤ 24 ∨ 32 ≤ code ∧ code ≤ 35 ∧ l = 3 → ∀ (s2 : State) (bs : List Byte),
      let n := if 32 ≤ code then 32 else 4 * 2^l
      let k := if code = 32 then 4 else if 32 ≤ code then 8 else code - 16
      let first := (p.toNat + i / n * (1 + n * k / 8)) % 2^52
      let bit := i % n * k
      let c := leVal bs / 2^(bit % 8) % 2^k
      let up : Int := v - 127
      let int (e : Int) : FVal := ival (BitVec.ofNat k c).toInt |>.times2 e
      loadVa s tid first 1 = .ok (v, s1) →
      loadBytes s1 tid ((first + 1 + bit / 8) % 2^52) ((bit % 8 + k + 7) / 8) = .ok (bs, s2) →
      (v = 255 → exec (.ldt d a b) s = .next (written s2 tid d.toNat 4 0x7FF8000000000000)) ∧
      (v ≠ 255 →
        (code ≤ 24 → exec (.ldt d a b) s = float s2 (int (up - (k - 2)))) ∧
        (code = 32 → exec (.ldt d a b) s = float s2 ((fval E2M1 c).times2 up)) ∧
        (code = 33 → exec (.ldt d a b) s = float s2 ((fval E4M3 c).times2 up)) ∧
        (code = 34 → exec (.ldt d a b) s = float s2 ((fval E5M2 c).times2 up)) ∧
        (code = 35 → exec (.ldt d a b) s = float s2 (int (up - 6)))))) ∧
  (∀ (s s1 : State) (tid : Nat) (d a b : BitVec 7), Issuing s tid → Names s tid [d.toNat, a.toNat, b.toNat] →
    let p := Reads s tid a.toNat
    let i := (Reads s tid b.toNat).toNat
    let x := Reads s tid d.toNat
    let code := p.toNat / 2^58
    let va := elemAddr p code i
    let limited (n : Int) : Int := max (-n) (min (n - 1) x.toInt)
    let noted (n : Int) : State := if limited n = x.toInt then s else s.flag tid OF
    let stored (sf : State) (bs : List Byte) : Prop :=
      storeVa sf tid va bs = .ok s1 → exec (.stt d a b) s = .next (after s1 tid (·.skip 4))
    p.toNat / 2^52 % 8 = 0 →
    (code = 0 → va % 8 = 0 → stored s (toBytes 8 x.toNat)) ∧
    (code = 1 → stored (noted 128) [BitVec.ofInt 8 (limited 128)]) ∧
    (code = 2 → ∀ (s2 s3 : State) (pl : Place) (old : Byte), placeOf (noted 8) tid va 1 .rw = .ok (pl, s1) →
      loadPlace s1 tid pl va 1 = .ok ([old], s2) →
      storePlace s2 tid pl va [if i % 2 = 0 then old.extractLsb' 4 4 ++ BitVec.ofInt 4 (limited 8)
        else BitVec.ofInt 4 (limited 8) ++ old.extractLsb' 0 4] = .ok s3 →
      exec (.stt d a b) s = .next (after s3 tid (·.skip 4))) ∧
    (3 ≤ code → code ≤ 7 → va % elemSize code = 0 →
      let rm := (s.task tid).r.frm.toNat
      let v := fround (codeFmt code) (fval FP64 x.toNat) rm (if rm = 5 then (srStep s tid).1 else 0)
      stored ((if rm = 5 then (srStep s tid).2 else s).flag tid v.2) (toBytes (elemSize code) v.1)) ∧
    (code = 8 → va % 8 = 0 →
      let y := fval FP64 x.toNat
      stored (if y.isSNan then s.flag tid NV else s) (toBytes 8 (if y.isNan then 0x7FF8000000000000 else x.toNat))) ∧
    (18 ≤ code ∧ code ≤ 24 ∨ 32 ≤ code ∧ code ≤ 35 ∧ p.toNat / 2^55 % 8 = 3 →
      exec (.stt d a b) s = .next (faulted s tid 4 BAD_FORMAT (BitVec.ofNat 64 (p.toNat % 2^52)))))

/-- R246, R249, R250, R251: LDA reads eight bytes; STREL's store enters the FIFO with its scope; FENCE completes once R220's
conditions hold and IFENCE once the FIFO is empty, which then holds no fetched bytes; PREF writes no register and no memory. -/
def Obligations.AcquireReleaseFence : Prop :=
  ∀ (s s1 : State) (tid : Nat) (v : Nat) (pl : Place) (d a : BitVec 7) (c : BitVec 3) (l : BitVec 2) (x : BitVec 1) (k : BitVec 32),
    Issuing s tid → Names s tid [d.toNat, a.toNat] →
    let p := Reads s tid a.toNat
    let va := p.toNat % 2^52
    (p.toNat / 2^52 % 8 = 0 → va % 8 = 0 → loadVa (if c = 0 then s else dropEarly s tid) tid va 8 (c == 0) = .ok (v, s1) →
      exec (.lda d a c) s = .next (written s1 tid d.toNat 4 (BitVec.ofNat 64 v))) ∧
    (∀ s2, p.toNat / 2^52 % 8 = 0 → va % 8 = 0 → placeOf s tid va 8 .wr = .ok (pl, s1) →
      storePlace s1 tid pl va (toBytes 8 (Reads s tid d.toNat).toNat) (some c.toNat) = .ok s2 →
      exec (.strel d a c) s = .next (after s2 tid (·.skip 4))) ∧
    (relReady s tid c.toNat = true → exec (.fence c) s = .next (done s tid (c ≠ 0) (·.skip 4))) ∧
    ((s.task tid).fifo = [] → ∃ t, exec .ifence s = .next t ∧ (t.task tid).fbuf = [] ∧ t.mem = s.mem ∧
      (t.task tid).r = (s.task tid).r.skip 4) ∧
    (∃ t, exec (.pref a l x) s = .next t ∧ t.mem = s.mem ∧ (t.task tid).r = (s.task tid).r.skip 4) ∧
    (∃ t, exec (.prefLong a l x k) s = .next t ∧ t.mem = s.mem ∧ (t.task tid).r = (s.task tid).r.skip 8)

/-! ### Memory itself (spec/00 R1, spec/10 R243) -/

/-- R1, R243: bytes written at an address are read back there, every other byte is as before, memory keeps its canonical form, and
each 64-bit word written whole loses its poison. -/
def Obligations.MemoryReadAfterWrite : Prop :=
  ∀ (s : State) (a : Nat) (bs : List Byte), Memory.wf s.mem = true → mrising s.poison = true →
    let t := s.memWrite a bs
    Memory.wf t.mem = true ∧
    (∀ i < bs.length, memByte t.mem (a + i) = bs.getD i 0) ∧
    (∀ b, b < a ∨ a + bs.length ≤ b → memByte t.mem b = memByte s.mem b) ∧
    (∀ w, a ≤ 8 * w → 8 * w + 8 ≤ a + bs.length → poisonGet t.poison w = false)

/-! ### Atomics, locks, stash mappings and unbacked pages (spec/10 R252-R262) -/

/-- R37, R223, R252, R253: AMO near, in the executing die's cache, and AMOF far, at the line's home, return the old value and store
the new one in one step, after the die's stores to the line; a compare and swap stores G[rd + 1] only where the old value is G[rd]. -/
def Obligations.MemoryAtomics : Prop :=
  ∀ (s s1 : State) (tid dpa : Nat) (e : Word) (d a : BitVec 7) (o : BitVec 4) (r : BitVec 2) (c : BitVec 3),
    Issuing s tid → Names s tid [a.toNat] → d.toNat < 120 → (s.task tid).limit ≥ (if o = 9 then d.toNat + 1 else d.toNat) →
    Ready s tid d.toNat → (o = 9 → Ready s tid (d.toNat + 1)) →
    let t := s.task tid
    let p := Reads s tid a.toNat
    let va := p.toNat % 2^52
    let x := s.g tid d.toNat
    let old : Word := BitVec.ofNat 64 (leVal (memBytes s.mem dpa 8))
    let new : Word := match o.toNat with
      | 0 => old + x
      | 1 => old &&& x
      | 2 => old ||| x
      | 3 => old ^^^ x
      | 4 => if old.toInt < x.toInt then old else x
      | 5 => if old.toInt < x.toInt then x else old
      | 6 => if old.toNat < x.toNat then old else x
      | 7 => if old.toNat < x.toNat then x else old
      | 8 => x
      | _ => if old = x then s.g tid (d.toNat + 1) else old
    o.toNat ≤ 9 → p.toNat / 2^52 % 8 = 0 → va / 2^48 % 16 ≠ 15 → va % 8 = 0 →
    placeOf (dropEarly s tid) tid va 8 .rw true = .ok (.mem dpa e, s1) → region dpa ≤ 2 → t.fifo = [] → t.unacked = [] →
    (2 ≤ r.toNat → relReady s tid c.toNat = true) → poisonIn s.poison dpa 8 = none → Unrecorded s tid →
    lineQueued s1 (t.core / 896) (dpa / 128) = false →
    let same (s' : State) : Prop := ∀ k, k ≠ tid → { s'.task k with early := (s.task k).early } = s.task k
    ((s1.tok (dpa / 128) (t.core / 896)).mayWrite = true →
      ∃ s', exec (.amo d a o r c) s = .next s' ∧ s'.mem = memPutAll s.mem dpa (toBytes 8 new.toNat) ∧
        (s'.task tid).r = (t.r.write d.toNat old).skip 4 ∧ same s') ∧
    (needHome s1 (dpa / 128) = .ok () →
      ∃ s', exec (.amof d a o r c) s = .next s' ∧ s'.mem = memPutAll s.mem dpa (toBytes 8 new.toNat) ∧
        (s'.task tid).r = (t.r.write d.toNat old).skip 4 ∧ same s')

/-- R254-R256: SPAMO returns a scratchpad word's old value and stores the new one at its port; LDLK takes a free lock bit and
returns the word; STUL stores and gives the bit to the oldest request for it, or frees it. R270-R273: SWINIT sets COUNT 0 and
its TARGET, clears BOUND, cancels a bound future and returns the generation; SWFUT gives the future of a generation: one that
is bound, a new one bound to the word, or one already resolved where the generation is past. -/
def Obligations.AtomicsAndSyncWords : Prop :=
  (∀ (s : State) (tid k off : Nat) (d a : BitVec 7) (o : BitVec 3), Issuing s tid → Names s tid [d.toNat, a.toNat] →
    let t := s.task tid
    let p := Reads s tid a.toNat
    let va := p.toNat % 2^52
    let x := Reads s tid d.toNat
    let old := uaWord s k t.ctx off
    let key := lockKey off
    p.toNat / 2^52 % 8 = 0 → va / 2^48 % 16 = 15 → va % 8 = 0 →
    (portPlace s tid va 8 1 = .ok (k, off) → uaPoisonIn s k t.ctx off 8 = none →
      let new : Word := match o.toNat with
        | 0 => old + x
        | 1 => old &&& x
        | 2 => old ||| x
        | 3 => old ^^^ x
        | 4 => if old.toInt < x.toInt then old else x
        | 5 => if old.toInt < x.toInt then x else old
        | 6 => x
        | _ => if old = x then s.g tid (d.toNat + 1) else old
      d.toNat < 120 → (s.task tid).limit ≥ (if o = 7 then d.toNat + 1 else d.toNat) →
      (o = 7 → Ready s tid (d.toNat + 1)) →
      exec (.spamo d a o) s =
        .next (writtenSync (portWrote (uaPutWord s k t.ctx off new) k 1 8 t.core off) tid d.toNat 4 old)) ∧
    (portPlace s tid va 8 5 = .ok (k, off) → uaPoisonIn s k t.ctx off 8 = none → t.lockRetry = none →
      mfind (s.core k).locks key = none → locksHeld s tid < 4 →
      exec (.ldlk d a) s =
        .next (writtenSync (portWrote (s.modCore k fun c => takeLock c tid key) k 5 8 t.core off) tid d.toNat 4 old)) ∧
    (portPlace s tid va 8 5 = .ok (k, off) → mfind (s.core k).locks key = some tid → lockGranted (s.core k) tid key = false →
      relReady s tid 4 = true →
      exec (.stul d a) s =
        .next (afterSync ((portWrote (uaPutWord s k t.ctx off x) k 5 8 t.core off).modCore k fun c =>
          grantLock c (key / 16) (key % 16)) tid (·.skip 4))) ∧
    (portPlace s tid va 8 5 = .ok (k, off) → mfind (s.core k).locks key ≠ some tid →
      exec (.stul d a) s = .next (faulted s tid 4 LOCK_STATE (BitVec.ofNat 64 va)))) ∧
  (∀ (s s2 : State) (tid k o : Nat) (d a b : BitVec 7) (h : Word), Issuing s tid → Names s tid [d.toNat, a.toNat, b.toNat] →
    let t := s.task tid
    let p := Reads s tid a.toNat
    let g := Reads s tid b.toNat
    let va := p.toNat % 2^52
    let w1 := uaWord s k t.ctx (o + 8)
    let gen := w1.toNat / 2^48
    p.toNat / 2^52 % 8 = 0 → va / 2^48 % 16 = 15 → va % 16 = 0 → portPlace s tid va 16 1 = .ok (k, o) →
    (let s1 := if w1.toNat / 2^47 % 2 = 1 then cancelH s (boundHandle s k w1) else s
     exec (.swinit d a b) s =
       .next (writtenSync (portWrote (clearBound (uaPutWord s1 k t.ctx o (BitVec.ofNat 64 (g.toNat % 2^32 * 2^32))) k t.ctx o) k 1 16
         t.core o) tid d.toNat 4 (BitVec.ofNat 64 gen))) ∧
    (k / 8 = t.core / 8 → winCore (t.core / 8) va = .ok k →
      (gen = g.toNat % 2^16 → w1.toNat / 2^47 % 2 = 1 →
        exec (.swfut d a b) s = .next (writtenSync s tid d.toNat 4 (boundHandle s k w1))) ∧
      (allocFut s (t.core / 8) t.ctx t.launch (.sync k o) = .got h s2 →
        (gen ≠ g.toNat % 2^16 →
          exec (.swfut d a b) s = .next (writtenSync (resolveH s2 h (BitVec.ofNat 64 gen)) tid d.toNat 4 h)) ∧
        (gen = g.toNat % 2^16 → w1.toNat / 2^47 % 2 = 0 →
          exec (.swfut d a b) s =
            .next (writtenSync (portWrote (uaPutWord s2 k t.ctx (o + 8)
              (BitVec.ofNat 64 (gen * 2^48 + 2^47 + hIdx h * 2^18 + hGen h))) k 1 16 t.core o) tid d.toNat 4 h)))))

/-- R263-R266: an accepted transfer gets a PENDING future, whose handle is written, and enters its cluster's XFE with its
descriptor and the thread's pending launch time. With no entry to be had the status FUT_FULL is written and nothing is
submitted. R257-R262, R202: STASH makes a mapping where its status is 0; UNSTASH ends one; WBK makes every dirty first-level
and stash line of its range clean and changes nothing else; DISC makes an unbacked range zero; UBRESV and UBMIGR answer R202's
and R207's outcome. -/
def Obligations.TransfersAndStash : Prop :=
  (∀ (s s1 s2 : State) (tid : Nat) (d a b e f : BitVec 7) (w0 w1 w2 w3 h : Word), Issuing s tid →
    Names s tid [d.toNat, a.toNat, b.toNat, e.toNat, f.toNat] →
    let t := s.task tid
    let p := Reads s tid a.toNat
    let room (s : State) (op : Nat) : Prop := xfCheck op w0 w1 w2 w3 = .ok () ∧ xfRoom s (t.core / 8) t.ctx = true
    let alloc (s : State) : Alloc :=
      allocFut { s with nextId := s.nextId + 1 } (t.core / 8) t.ctx t.launch (.xfer (t.core / 8) s.nextId)
    let done (s : State) (len : Nat) : Host.Outcome State Fault Refusal :=
      .next (writtenSync (xfSubmit s2 tid s.nextId (.fut h) w0 w1 w2 w3) tid d.toNat len h)
    let full (s : State) (len : Nat) : Host.Outcome State Fault Refusal := .next (writtenSync s tid d.toNat len futFullStatus)
    let mem (i : Instr) (op : Nat) : Prop :=
      p.toNat / 2^52 % 8 = 0 → p.toNat % 8 = 0 → loadWords s tid (p.toNat % 2^52) 4 = .ok ([w0, w1, w2, w3], s1) →
      room s1 op → (alloc s1 = .got h s2 → relReady s2 tid 2 = true → exec i s = done s1 4) ∧
        (alloc s1 = .full → exec i s = full s1 4)
    let regs (i : Instr) (op : Nat) : Prop :=
      [Reads s tid a.toNat, Reads s tid b.toNat, Reads s tid e.toNat, Reads s tid f.toNat] = [w0, w1, w2, w3] →
      room s op → (alloc s = .got h s2 → relReady s2 tid 2 = true → exec i s = done s 8) ∧
        (alloc s = .full → exec i s = full s 8)
    (mem (.get d a) 0 ∧ mem (.put d a) 1 ∧ mem (.xcpy d a) 2 ∧ mem (.xcpy2 d a) 3) ∧
    regs (.getLong d a b e f) 0 ∧ regs (.putLong d a b e f) 1 ∧ regs (.xcpyLong d a b e f) 2 ∧ regs (.xcpy2Long d a b e f) 3) ∧
  (∀ (s : State) (tid : Nat) (d a b : BitVec 7), Issuing s tid → Names s tid [d.toNat, a.toNat, b.toNat] →
    let t := s.task tid
    let p := Reads s tid a.toNat
    let w := Reads s tid b.toNat
    let va := p.toNat % 2^52
    (t.fifo = [] →
      let part := partOf (s.core t.core) t.ctx
      (stashCode part p w = 0 →
        exec (.stash d a b) s = .next (writtenSync (s.modCore t.core fun c => modPart c t.ctx fun q =>
          { q with stash := q.stash ++ [{ off := w.toNat % 2^19, va := va, len := w.toNat / 2^32 }] }) tid d.toNat 4 0)) ∧
      (stashCode part p w ≠ 0 →
        exec (.stash d a b) s = .next (writtenSync s tid d.toNat 4 (BitVec.ofNat 64 (stashCode part p w)))) ∧
      (∀ q m, part = some q → q.stash.find? (·.off == p.toNat % 2^19) = some m →
        (∀ e ∈ m.phys, lineQueued s (t.core / 896) e.2 = false) →
        exec (.unstash d a) s = .next (writtenSync (dropMapping s t.core t.ctx m) tid d.toNat 4 0)) ∧
      ((∀ q, part = some q → q.stash.find? (·.off == p.toNat % 2^19) = none) →
        exec (.unstash d a) s = .next (writtenSync s tid d.toNat 4 1))) ∧
    (p.toNat / 2^52 % 8 = 0 →
      ∃ s', exec (.wbk a b) s = .next s' ∧ s'.mem = s.mem ∧ s'.coh = s.coh ∧ (s'.task tid).r = t.r.skip 4 ∧
        (∀ k ≠ t.core, s'.core k = s.core k) ∧
        (s'.core t.core).l1 = ((s.core t.core).l1.map fun e =>
          (e.1, e.2.1, e.2.2 && !namedIn s (t.core / 896) t.ctx (e.2.1 / 2 * 128) va w.toNat)) ∧
        (∀ q, partOf (s.core t.core) t.ctx = some q → ∃ q', partOf (s'.core t.core) t.ctx = some q' ∧
          (q'.stash.map fun m => (m.off, m.va, m.len, m.phys)) = (q.stash.map fun m => (m.off, m.va, m.len, m.phys)) ∧
          ∀ (i : Nat) m m', q.stash[i]? = some m → q'.stash[i]? = some m' → ∀ j,
            mget StashLine.empty m'.lines j =
              (if mget StashLine.empty m.lines j = .dirty ∧ inRange ((m.va + 128 * j) % 2^52) va w.toNat = true then .clean
               else mget StashLine.empty m.lines j))) ∧
    (∀ s1 dpa e, va / 2^48 % 16 ≠ 15 → p.toNat / 2^52 % 8 = 0 → va % 128 = 0 → w.toNat % 128 = 0 → 128 ≤ w.toNat → w.toNat ≤ 65536 →
      va / 2^16 = (va + w.toNat - 1) / 2^16 → placeOf s tid va 8 .wr = .ok (.mem dpa e, s1) → t.fifo = [] →
      (∀ i < w.toNat / 128, lineQueued s1 (t.core / 896) (dpa / 128 + i) = false) →
      needGatherAll s1 ((List.range (w.toNat / 128)).map (dpa / 128 + ·)) = .ok () →
      ∃ s', exec (.disc a b) s = .next s' ∧ (s'.task tid).r = t.r.skip 4 ∧
        (region dpa = 8 → dpa % 128 = 0 → dpa / 2^16 = (dpa + w.toNat - 1) / 2^16 → Memory.wf s.mem = true →
          ∀ i < w.toNat, memByte s'.mem (dpa + i) = 0)) ∧
    (relReady s tid 4 = true → p.toNat ≤ 15 →
      let u := ubOutcome s t.ctx p.toNat w.toNat
      let s1 := unpin (s.modCoh fun c => { c with res := mput 0 c.res (16 * t.ctx + p.toNat) u.2 }) t.ctx p.toNat
      exec (.ubresv d a b) s = .next (writtenSync s1 tid d.toNat 4 (ubWord u.1 u.2 (restingAt s1 t.ctx p.toNat)))) ∧
    (relReady s tid 4 = true → 15 < p.toNat →
      ∃ v s1, exec (.ubresv d a b) s = .next (writtenSync s1 tid d.toNat 4 v) ∧ v.toNat / 2^62 = 3 ∧ s1.coh = s.coh) ∧
    (∀ s1 dpa e, va / 2^48 % 16 ≠ 15 → p.toNat / 2^52 % 8 = 0 → xlThread s tid va .wr = (.hit dpa e, s1) →
      exec (.ubmigr d a b) s =
        .next (writtenSync (migrate s1 e dpa w).2 tid d.toNat 4 (BitVec.ofNat 64 (migrate s1 e dpa w).1))))

/-! ### Bulk transfers and sync words (spec/10 R263-R273) -/

/-! ### Tasks (spec/11 R276, R295-R297, R307-R310) -/

/-- R276, R80, R295, R296: a spawn makes a CREATED task, or a range of them, at the bottom of its core's deque with its entry,
its arguments, the parent's identifier and mode and a seed of its own, takes one draw from the parent's generator, and writes
the handle of the child's future. `tid < s.nextId` says that the thread's name is one that has been given out. R307-R309:
YIELD stands the task READY at the top of its core's deque, where there is room (R17); TEND ends it with its value; WID and
WFLD read its work identifier. A handler's TEND faults. -/
def Obligations.SpawnsAndEnds : Prop :=
  (∀ (s s2 : State) (tid : Nat) (d a b e f : BitVec 7) (o : BitVec 16) (c n : BitVec 3) (h : Word), Issuing s tid →
    Names s tid [d.toNat, a.toNat, b.toNat, f.toNat] → (∀ i < n.toNat, e.toNat + i < 120 ∧ e.toNat + i ≤ (s.task tid).limit ∧ Ready s tid (e.toNat + i)) →
    (∀ i, 3 ≤ i → i ≤ 8 → Ready s tid i) → tid < s.nextId →
    let t := s.task tid
    let x := Reads s tid a.toNat
    let y := Reads s tid b.toNat
    let z := Reads s tid f.toNat
    let ready (q : SpawnReq) : Prop := spawnChecks s tid q = .ok () ∧ pushFails s t.core t.ctx = false ∧ relReady s2 tid 3 = true ∧
      allocFut { s with nextId := s.nextId + 1 } (t.core / 8) t.ctx t.launch (.task s.nextId) = .got h s2
    let seeded (r : Regs) : Regs := { r with srseed := srNext r.srseed }
    let one (i : Instr) (len : Nat) (q : SpawnReq) : Prop := q.range = none → ready q →
      ∃ s', exec i s = .next s' ∧ (s'.task tid).r = ((seeded t.r).write d.toNat h).skip len ∧
        (s'.core t.core).deque.head? = some (.task s.nextId) ∧ (s'.task s.nextId).phase = .created ∧
        (s'.task s.nextId).ends = .fut h ∧ (s'.task s.nextId).cls = q.cls ∧
        (s'.task s.nextId).r = { childRegs q.entry q.args t.r with srseed := childSeed (srNext t.r.srseed) t.r.wid }
    let many (i : Instr) (len : Nat) (q : SpawnReq) (r : Word) : Prop := q.range = some r → spawnChecks s tid q = .ok () →
      pushFails s t.core t.ctx = false → r.toNat % 2^32 ≠ 0 →
      allocFut { s with nextId := s.nextId + 1 } (t.core / 8) t.ctx t.launch .range (left := r.toNat % 2^32) = .got h s2 →
      relReady s2 tid 3 = true →
      ∃ s', exec i s = .next s' ∧ (s'.task tid).r = ((seeded t.r).write d.toNat h).skip len ∧
        ∃ g, (s'.core t.core).deque.head? = some (.range g) ∧ g.lo = 0 ∧ g.hi = r.toNat % 2^32 ∧ g.field = r.toNat / 2^32 % 8 ∧
          g.fut = h ∧ g.cls = q.cls ∧ g.p = srNext t.r.srseed ∧ g.r = childRegs q.entry q.args t.r
    let near : SpawnReq := { entry := (t.r.pc + BitVec.ofInt 52 (2 * o.toInt)).toNat, cls := t.cls, args := spawnArgs s tid 3 6 t.cls,
                             tiles := 0, range := none, trap := false }
    let far : SpawnReq := { entry := x.toNat % 2^52, cls := c.toNat, args := spawnArgs s tid e.toNat n.toNat c.toNat, tiles := y,
                            range := none, trap := false }
    one (.spawn d o) 4 near ∧ one (.spawnT d o) 4 { near with trap := true } ∧
    many (.spawnr d a b) 4 { near with entry := x.toNat % 2^52, range := some y } y ∧
    one (.spawnLong d a b e c n) 8 far ∧ one (.spawnTLong d a b e c n) 8 { far with trap := true } ∧
    many (.spawnrLong d a b e f c n) 8 { far with range := some z } z ∧
    many (.spawnrTLong d a b e f c n) 8 { far with range := some z, trap := true } z) ∧
  (∀ (s : State) (tid : Nat) (d a n : BitVec 7) (c : BitVec 5), Issuing s tid → Names s tid [d.toNat, a.toNat, c.toNat] →
    let t := s.task tid
    let w := wfmtOf s tid
    let ended (i : Instr) (v : Word) : Prop :=
      exec i s = .next (afterSync (endNow s tid (.done v)) tid id) ∧
        (t.phase = .running → ((endNow s tid (.done v)).task tid).phase = .done)
    (t.handler = false → locksHeld s tid = 0 → t.cancel = false → relReady s tid 4 = true →
      ∀ s1, yieldNow s tid = some s1 →
        exec .yield s = .next (afterSync s1 tid (·.skip 4)) ∧ exec .yieldCompact s = .next (afterSync s1 tid (·.skip 2)) ∧
        (s1.task tid).phase = .ready ∧ (s1.core t.core).entries.getLast? = some (.task tid)) ∧
    (t.handler = false → locksHeld s tid = 0 → t.pushes = [] → relReady s tid 5 = true →
      ended (.tend a) (Reads s tid a.toNat) ∧ ended (.tendCompact c) (Reads s tid c.toNat)) ∧
    (t.handler = true → exec (.tend a) s = .next (faulted s tid 4 HANDLER_OP 0)) ∧
    exec (.wid d) s = .next (written s tid d.toNat 4 t.r.wid) ∧
    exec (.widCompact c) s = .next (written s tid c.toNat 2 t.r.wid) ∧
    exec (.wfld d n) s =
      .next (written s tid d.toNat 4 (if wfNF w ≤ n.toNat then 0 else
        BitVec.ofNat 64 (t.r.wid.toNat / 2^((List.range n.toNat).map fun i => w.toNat / 2^(6 * i) % 64 + 1).sum %
          2^(w.toNat / 2^(6 * n.toNat) % 64 + 1)))))

/-! ### Futures (spec/11 R282-R306) -/

/-- R284, R285, R299: TOUCH, TOUCH.T and TOUCHP of a future of the thread's own cluster. RESOLVED gives its value and flags;
POISONED and CANCELLED give their status word, or the fault of TOUCH.T; a PENDING one parks the task with a waiter recorded,
and TOUCHP answers its status. FSTS holds the outcome. R300: WANY of futures that the thread may use answers the lowest index
whose future is not PENDING, with FSTS as a touch of it would leave it; it releases nothing and parks only where every one is
PENDING. Other packages are asked first about theirs. -/
def Obligations.TouchesAndWaitAny : Prop :=
  (∀ (s : State) (tid : Nat) (d a : BitVec 7) (c e : BitVec 5) (f : Fut), Issuing s tid →
    Names s tid [d.toNat, a.toNat, c.toNat, e.toNat] → (s.task tid).cancel = false → Unrecorded s tid →
    let t := s.task tid
    let cl := t.core / 8
    let local1 (h : Word) : Prop := isHandle h = true ∧ isLocal s h = true ∧ hCl h = cl ∧
      mfind (s.cluster cl).lost (hIdx h) = none ∧ futFind (s.cluster cl) (hIdx h) (hGen h) = some f ∧ mayUse f t.ctx = true
    let s1 := s.modCluster cl fun c => unspill c f
    let go (dst len : Nat) (out : BitVec 3) (code : Code) (flags : BitVec 6) (v : Word) : Host.Outcome State Fault Refusal :=
      .next (afterSync s1 tid fun r =>
        ({ r with fflags := r.fflags ||| flags, fstsOut := out, fstsCode := code }.write dst v).skip len)
    let parks (i : Instr) (h : Word) (len : Nat) : Prop :=
      ∃ s', exec i s = .next s' ∧ (∃ p, (s'.task tid).park = some p ∧ p.hs = [h] ∧ p.len = len) ∧ (s'.task tid).r = t.r ∧
        ∃ g, futFind (s'.cluster cl) (hIdx h) (hGen h) = some g ∧ g.waiters = f.waiters ++ [tid]
    (local1 (Reads s tid a.toNat) →
      let h := Reads s tid a.toNat
      (f.st = .resolved →
        exec (.touch d a) s = go d.toNat 4 0 0 f.flags f.value ∧ exec (.touchT d a) s = go d.toNat 4 0 0 f.flags f.value ∧
        exec (.touchp d a) s = go d.toNat 4 0 0 f.flags f.value) ∧
      (f.st = .poisoned →
        exec (.touch d a) s = go d.toNat 4 1 f.code 0 (BitVec.ofNat 64 (0xE1 * 2^56 + f.code.toNat * 2^48)) ∧
        exec (.touchp d a) s = go d.toNat 4 1 f.code 0 (BitVec.ofNat 64 (0xE1 * 2^56 + f.code.toNat * 2^48)) ∧
        exec (.touchT d a) s = .next (faulted s tid 4 FUT_POISON 0)) ∧
      (f.st = .cancelled →
        exec (.touch d a) s = go d.toNat 4 2 0 0 (BitVec.ofNat 64 (0xE2 * 2^56)) ∧
        exec (.touchp d a) s = go d.toNat 4 2 0 0 (BitVec.ofNat 64 (0xE2 * 2^56)) ∧
        exec (.touchT d a) s = .next (faulted s tid 4 FUT_CANCEL 0)) ∧
      (f.st = .pending →
        exec (.touchp d a) s = go d.toNat 4 4 0 0 (BitVec.ofNat 64 (0xE4 * 2^56)) ∧
        (t.handler = false → locksHeld s tid = 0 → f.idx = hIdx h → isSpilled (s.cluster cl) f = false →
          parks (.touch d a) h 4 ∧ parks (.touchT d a) h 4) ∧
        (t.handler = true → exec (.touch d a) s = .next (faulted s tid 4 HANDLER_PARK 0)))) ∧
    (local1 (Reads s tid e.toNat) → f.st = .resolved →
      exec (.touchCompact c e) s = go c.toNat 2 0 0 f.flags f.value ∧
      exec (.touchTCompact c e) s = go c.toNat 2 0 0 f.flags f.value ∧
      exec (.touchpCompact c e) s = go c.toNat 2 0 0 f.flags f.value) ∧
    (isHandle (Reads s tid a.toNat) = false →
      ∀ i ∈ [Instr.touch d a, .touchT d a, .touchp d a, .resolve d a a, .fpois d a a, .cancel d a, .frel a, .fstat d a],
        exec i s = .next (faulted s tid 4 FUT_HANDLE 0))) ∧
  (∀ (s : State) (tid : Nat) (d a n : BitVec 7) (j : Nat), Issuing s tid → Names s tid [d.toNat] → Unrecorded s tid →
    a.toNat < 120 → (∀ i < n.toNat, a.toNat + i ≤ (s.task tid).limit ∧ Ready s tid (a.toNat + i)) →
    (s.task tid).cancel = false →
    let h (i : Nat) : Word := s.g tid (a.toNat + i)
    let view (i : Nat) : View := wanyView s tid [] (h i)
    let near (i : Nat) : Prop := isLocal s (h i) = true ∨ peerReach s (hChip (h i)) = false
    (∀ i < n.toNat, isHandle (h i) = true) →
    ((∃ i < n.toNat, ¬ near i) →
      let hs := (List.range n.toNat).map h
      exec (.wany d a n) s = .next (wanyAsk s tid d hs (wanyPeers s hs)).endTurn) ∧
    ((∀ i < n.toNat, near i ∧ (view i).out ≠ 5) → j < n.toNat → (view j).out ≠ 4 → (∀ i < j, (view i).out = 4) →
      ∃ s', exec (.wany d a n) s = .next s' ∧ (s'.task tid).r =
        ({ (s.task tid).r with fstsOut := (view j).out, fstsCode := if (view j).out = 1 then (view j).code else 0 }.write d.toNat
          (BitVec.ofNat 64 j)).skip 4) ∧
    ((∀ i < n.toNat, near i ∧ (view i).out = 4) → (s.task tid).handler = true →
      exec (.wany d a n) s = .next (faulted s tid 4 HANDLER_PARK 0)))

/-- R301-R306: FNEW allocates an open or closed PENDING future; RESOLVE, FPOIS and CANCEL settle an empty PENDING one and answer 0, and 1
where it has settled already; FREL marks a PENDING one or drops a settled one; FSTAT writes its word. -/
def Obligations.FutureOperations : Prop :=
  ∀ (s s2 : State) (tid : Nat) (d a b : BitVec 7) (c e : BitVec 5) (f : Fut) (h : Word), Issuing s tid →
    Names s tid [d.toNat, a.toNat, b.toNat, c.toNat, e.toNat] → Unrecorded s tid →
    let t := s.task tid
    let cl := t.core / 8
    let x := Reads s tid a.toNat
    let y := Reads s tid b.toNat
    let local1 (h : Word) : Prop := isHandle h = true ∧ isLocal s h = true ∧ hCl h = cl ∧
      mfind (s.cluster cl).lost (hIdx h) = none ∧ futFind (s.cluster cl) (hIdx h) (hGen h) = some f ∧ f.ctx = t.ctx
    let go (s1 : State) (v : Word) : Host.Outcome State Fault Refusal := .next (writtenSync s1 tid d.toNat 4 v)
    (t.handler = false → x.toNat ≤ 1 →
      let late (s1 : State) (v : Word) : Host.Outcome State Fault Refusal := .next ((writtenSync s1 tid d.toNat 4 v).later tid d.toNat 4)
      (allocFut s cl t.ctx t.launch .empty (op := x.toNat == 1) = .got h s2 → exec (.fnew d a) s = late s2 h) ∧
      (allocFut s cl t.ctx t.launch .empty (op := x.toNat == 1) = .full → exec (.fnew d a) s = late s futFullStatus)) ∧
    (t.handler = false → 1 < x.toNat → exec (.fnew d a) s = .next (faulted s tid 4 FUT_ARG 0)) ∧
    (local1 x →
      (relReady s tid 5 = true → f.st = .pending → f.prod = .empty →
        exec (.resolve d a b) s = go (settle s cl f .resolved y) 0 ∧
        (1 ≤ y.toNat → y.toNat < 256 → exec (.fpois d a b) s = go (settle s cl f .poisoned 0 (BitVec.ofNat 8 y.toNat)) 0) ∧
        exec (.cancel d a) s = go (settle s cl f .cancelled) 0) ∧
      (relReady s tid 5 = true → f.st = .pending → f.prod ≠ .empty → exec (.resolve d a b) s = go s 3) ∧
      (relReady s tid 5 = true → f.st ≠ .pending → exec (.resolve d a b) s = go s 1 ∧ exec (.cancel d a) s = go s 1) ∧
      (f.st = .pending →
        exec (.frel a) s = .next (afterSync (s.modCluster cl fun c => futPut c { f with rel := true }) tid (·.skip 4))) ∧
      (f.st ≠ .pending → exec (.frel a) s = .next (afterSync (s.modCluster cl fun c => futDrop c f) tid (·.skip 4))) ∧
      (∃ v s1, exec (.fstat d a) s = go s1 v ∧ s1.clusters = s.clusters ∧ v.toNat % 8 = stCode f.st ∧
        v.toNat / 2^8 % 2 = (if f.openBit then 1 else 0))) ∧
    (local1 (Reads s tid e.toNat) →
      (f.st = .pending →
        exec (.frelCompact e) s = .next (afterSync (s.modCluster cl fun c => futPut c { f with rel := true }) tid (·.skip 2))) ∧
      ∃ v s1, exec (.fstatCompact c e) s = .next (writtenSync s1 tid c.toNat 2 v) ∧ s1.clusters = s.clusters ∧
        v.toNat % 8 = stCode f.st)

/-! ### Barriers, messages, time and streams (spec/12 R324-R341) -/

/-- R324-R326: BARI sets EXPECT and clears the counts and BOUND; BARA and BARAD count an arrival in the phase their register names and
advance it, the last arrival starting the next phase; BARW of a past phase returns at once, and of the current one parks. -/
def Obligations.Barriers : Prop :=
  ∀ (s s2 : State) (tid k o : Nat) (d a b : BitVec 7) (h : Word), Issuing s tid → Names s tid [d.toNat, a.toNat, b.toNat] →
    let t := s.task tid
    let p := Reads s tid a.toNat
    let n := Reads s tid b.toNat
    let va := p.toNat % 2^52
    let w0 := uaWord s k t.ctx o
    let w1 := uaWord s k t.ctx (o + 8)
    let phase := w1.toNat / 2^48
    let bound := w1.toNat / 2^47 % 2
    let arrived := w0.toNat % 2^20
    let drops := w0.toNat / 2^20 % 2^20
    let expect := w0.toNat / 2^40 % 2^20
    let wrote (s : State) : State := portWrote s k 1 16 t.core o
    p.toNat / 2^52 % 8 = 0 → va / 2^48 % 16 = 15 → va % 16 = 0 → portPlace s tid va 16 1 = .ok (k, o) →
    (0 < n.toNat → n.toNat < 2^20 → bound = 0 →
      exec (.bari d a b) s =
        .next (writtenSync (wrote (uaPutWord (uaPutWord s k t.ctx o (BitVec.ofNat 64 (n.toNat * 2^40))) k t.ctx (o + 8)
          (BitVec.ofNat 64 (phase * 2^48)))) tid d.toNat 4 (BitVec.ofNat 64 phase))) ∧
    (n.toNat < 2^19 → n.toNat / 2^16 ≤ 5 → relReady s tid (n.toNat / 2^16) = true → expect ≠ 0 → n.toNat % 2^16 = phase →
      let next : Word := BitVec.ofNat 64 (n.toNat / 2^16 * 2^16 + (phase + 1) % 2^16)
      let count (drop : Nat) : State := wrote (uaPutWord s k t.ctx o
        (BitVec.ofNat 64 (expect * 2^40 + (drops + drop) % 2^20 * 2^20 + (arrived + 1))))
      let done (drop : Nat) : State := wrote (uaPutWord (uaPutWord s k t.ctx o
        (BitVec.ofNat 64 ((expect + 2^20 - (drops + drop)) % 2^20 * 2^40))) k t.ctx (o + 8)
          (BitVec.ofNat 64 ((phase + 1) % 2^16 * 2^48 + w1.toNat % 2^48)))
      (arrived + 1 < 2^20 → arrived + 1 ≠ expect →
        exec (.bara d a b) s = .next (writtenSync (count 0) tid d.toNat 4 next) ∧
        exec (.barad d a b) s = .next (writtenSync (count 1) tid d.toNat 4 next)) ∧
      (arrived + 1 = expect → bound = 0 →
        exec (.bara d a b) s = .next (writtenSync (done 0) tid d.toNat 4 next) ∧
        exec (.barad d a b) s = .next (writtenSync (done 1) tid d.toNat 4 next))) ∧
    (n.toNat < 2^19 → n.toNat / 2^16 ≤ 5 → n.toNat % 2^16 ≠ phase →
      exec (.barw d a b) s =
        .next (writtenSync s tid d.toNat 4 (BitVec.ofNat 64 (n.toNat / 2^16 * 2^16 + phase)))) ∧
    (n.toNat < 2^19 → n.toNat / 2^16 ≤ 5 → n.toNat % 2^16 = phase → expect ≠ 0 → t.handler = false → locksHeld s tid = 0 →
      bound = 0 → allocFut s (k / 8) t.ctx t.launch .empty (rel := true) = .got h s2 →
      ∃ s', exec (.barw d a b) s = .next s' ∧ (s'.task tid).r = t.r ∧
        ∃ q, (s'.task tid).park = some q ∧ q.what = .barw d n ∧ q.hs = [h]) ∧
    (n.toNat < 2^19 → n.toNat / 2^16 ≤ 5 → relReady s tid (n.toNat / 2^16) = true → expect = 0 ∨ n.toNat % 2^16 ≠ phase →
      exec (.bara d a b) s = .next (faulted s tid 4 BAR_OVER 0))

/-- R327-R332, R340, R341: MSEND sends the words pushed to mp with its release at .s and empties the buffer; MDONE ends a
handler; WAITT whose time has come returns armature time; ATSET arms the next submission. Outside a handler MDONE faults.
R333: STREAM starts a partner in a slot of its own core, links the two by a fresh link with empty queues, and writes the
handle of the partner's future. -/
def Obligations.MessagesTimeAndLinks : Prop :=
  (∀ (s : State) (tid : Nat) (d a b : BitVec 7), Issuing s tid → Names s tid [d.toNat, a.toNat, b.toNat] →
    let t := s.task tid
    let x := Reads s tid a.toNat
    let y := Reads s tid b.toNat
    let now := s.time (t.core / 896)
    (isCoreDesc x = true → x.toNat / 2^40 % 2^20 = s.peers.chip.toNat → (y = 0 ∨ isHandle y = true) → t.mpOut ≠ [] → t.pushes = [] →
      (s.core t.core).sendBufs < 16 → relReady s tid 5 = true →
      ∃ s', exec (.msend a b) s = .next s' ∧ (s'.task tid).mpOut = [] ∧ (s'.task tid).r = t.r.skip 4 ∧
        (s'.core t.core).sendBufs = (s.core t.core).sendBufs + 1 ∧
        ∃ m, s'.net.msgs = s.net.msgs ++ [m] ∧ m.dst = descCore x ∧ m.src = t.core ∧ m.words = t.mpOut ∧ m.fut = y) ∧
    (isCoreDesc x = false → exec (.msend a b) s = .next (faulted s tid 4 MSG_DEST 0)) ∧
    (t.handler = true → t.pushes = [] → exec .mdone s = .next (afterSync (finishTask s tid .done) tid id)) ∧
    (t.handler = false → exec .mdone s = .next (faulted s tid 4 NOT_HANDLER 0)) ∧
    (Unrecorded s tid → x.toNat ≤ now.toNat → exec (.waitt d a) s = .next (writtenSync s tid d.toNat 4 now)) ∧
    (now.toNat < x.toNat → ∃ s', exec (.waitt d a) s = .next s' ∧ (s'.task tid).waitUntil.map (·.1) = some x ∧ (s'.task tid).r = t.r) ∧
    exec (.atset a) s = .next (afterSync s tid fun r => ({ r with atset := x }).skip 4)) ∧
  (∀ (s s2 : State) (tid : Nat) (d a b : BitVec 7) (h : Word), Issuing s tid → Names s tid [d.toNat, a.toNat, b.toNat] →
    (∀ i, 3 ≤ i → i ≤ 8 → Ready s tid i) → tid < s.nextId → (∀ e ∈ s.tasks, e.1 < s.nextId) →
    let t := s.task tid
    let x := Reads s tid a.toNat
    let y := Reads s tid b.toNat
    let entry := x.toNat % 2^52
    t.handler = false → t.link = none → entry % 2 = 0 → entry / 2^48 % 16 ≠ 15 → y.toNat ≤ 1 →
    slotRuns s t.core t.ctx (classRegs t.cls) ≠ [] → poolRoom s t.ctx 1280 = true →
    allocFut { s with nextId := s.nextId + 1 } (t.core / 8) t.ctx t.launch (.task s.nextId) = .got h s2 → relReady s2 tid 3 = true →
    ∃ s' l, exec (.stream d a b) s = .next s' ∧ (s'.task tid).link = some (l, true) ∧ (s'.task s.nextId).link = some (l, false) ∧
      mfind (s'.core t.core).links l = some { a := tid, b := s.nextId, dir := y.toNat == 1 } ∧
      (s'.task s.nextId).phase = .running ∧ (s'.task s.nextId).r.pc = BitVec.ofNat 52 entry ∧ (s'.task s.nextId).ends = .fut h ∧
      (s'.task tid).r = ({ t.r with srseed := srNext t.r.srseed }.write d.toNat h).skip 4)

/-! ### Vectors (spec/06) -/

/-- R119, R121, R129, R130, R342, R343: VCLAIM takes a frame and groups, VREL gives them up, VSETVL sets VL to at most 256,
VEXT reads an element; a vector instruction without a claim faults with VEC_NOCLAIM. R124: what `vecWrite` leaves alone: an
element that is not in the list, another register, the masks, VL and the frame. -/
def Obligations.VectorClaims : Prop :=
  (∀ (s : State) (tid : Nat) (d a : BitVec 7) (v : BitVec 4) (t3 : BitVec 3), Issuing s tid → Names s tid [d.toNat, a.toNat] →
    t3.toNat ≤ 5 → Ready s tid (128 + v.toNat) → Ready s tid 144 →
    let t := s.task tid
    let cl := t.core / 8
    let x := Reads s tid a.toNat
    let n := max 1 (min 16 x.toNat)
    let s0 := settleMark s cl
    (t.handler = false → t.claim = none → mayFrame s0 cl t.ctx false = true → poolRoom s0 t.ctx 17408 = true →
      let s1 := frameClaim s0 tid { frame := none, req := n, g := 0 } n
      ∃ c, (s1.task tid).claim = some c ∧ c.req = n ∧ c.vl = 256 ∧
        exec (.vclaim d a) s = .next (writtenSync s1 tid d.toNat 4 (BitVec.ofNat 64 c.g))) ∧
    (∀ c, t.handler = false → t.claim = some c →
      let s1 := (settleMark (grantGroups s0 tid n) cl).modClaim tid fun c => { c with req := n }
      ∃ c', (s1.task tid).claim = some c' ∧ c' = { c with req := n, g := c'.g } ∧
        exec (.vclaim d a) s = .next (writtenSync s1 tid d.toNat 4 (BitVec.ofNat 64 c'.g))) ∧
    (t.handler = true → exec (.vclaim d a) s = .next (faulted s tid 4 HANDLER_OP 0)) ∧
    (exec .vrel s = .next (afterSync (settleMark (s.modTask tid fun t => { t with claim := none }) cl) tid (·.skip 4))) ∧
    (∀ c, t.claim = some c →
      exec (.vsetvl d a) s = .next (written (s.modTask tid fun t => { t with claim := some { c with vl := min x.toNat 256 } })
        tid d.toNat 4 (BitVec.ofNat 64 (min x.toNat 256))) ∧
      exec (.vext d t3 v a) s = .next (written s tid d.toNat 4 (if c.vl ≤ x.toNat then 0 else
        let e := (c.el v.toNat x.toNat).toNat % 2^tBits t3.toNat
        if t3.toNat ≤ 2 then BitVec.ofNat 64 e else BitVec.ofInt 64 (toSigned (tBits t3.toNat) e)))) ∧
    (t.claim = none → ∀ i ∈ [Instr.vsetvl d a, .vext d t3 v a, .vadd v t3 v 0 v 0 0, .vfma v t3 v 0 v 0 0, .vsel v t3 v v 0,
        .vred v t3 v 0 0 0 0, .vld v a 0 0, .vst v a 0 0],
      exec i s = .next (faulted s tid 4 VEC_NOCLAIM 0))) ∧
  (∀ (s : State) (tid d : Nat) (els : List Nat) (op : ElOp) (c : Claim), (s.task tid).claim = some c → mrising c.v = true →
    (∀ j ∈ els, j < 256) →
    ∃ c', ((vecWrite tid d els op s).task tid).claim = some c' ∧ c'.vl = c.vl ∧ c'.frame = c.frame ∧ c'.vm = c.vm ∧ c'.g = c.g ∧
      (∀ j < 256, j ∉ els → c'.el d j = c.el d j) ∧ (∀ q j, q ≠ d → j < 256 → c'.el q j = c.el q j) ∧
      (vecWrite tid d els op s).mem = s.mem ∧ ∀ o, o ≠ tid → (vecWrite tid d els op s).task o = s.task o)

/-- R124, R128, R135-R143: an elementwise instruction gives each active element of vd the result of its elements, from the registers as
they were, with flags gathered and draws taken in ascending order; an inactive one keeps its value (`vecWrite`); integers wrap, or
saturate where X = 1. It takes its thread's turns for R126's beats, and its result is ready R126's cycles after the last. -/
def Obligations.VectorElementwise : Prop :=
  ∀ (s : State) (tid : Nat) (c : Claim) (d a b e : BitVec 4) (ty dt x : BitVec 3) (m y : BitVec 1) (k : BitVec 2) (r : BitVec 7)
    (i : BitVec 32), Issuing s tid → Names s tid [r.toNat] → (s.task tid).claim = some c →
    (∀ q ∈ [d, a, b, e], Ready s tid (128 + q.toNat)) → Ready s tid (144 + k.toNat) →
    let act := c.active m.toNat k.toNat
    let rm := if x = 0 then (s.task tid).r.frm.toNat else x.toNat
    let p := max 1 ((c.vl + 16 * max c.g 1 - 1) / (16 * max c.g 1))
    let go (len : Nat) (op : ElOp) (mult lat : Nat) : Host.Outcome State Fault Refusal :=
      .next (after ((vecWrite tid d.toNat act op s).beat tid (mult * p) lat [128 + d.toNat]) tid (·.skip len))
    let f := tFmt ty.toNat
    let val (q : BitVec 4) (j : Nat) : FVal := fval f ((c.el q.toNat j).toNat % 2^tBits ty.toNat)
    let int (q : BitVec 4) (j : Nat) : Int := toSigned (tBits ty.toNat) ((c.el q.toNat j).toNat % 2^tBits ty.toNat)
    let raw (q : BitVec 4) (j : Nat) : Nat := (c.el q.toNat j).toNat % 2^tBits ty.toNat
    let fl (op : Nat → Exact) : ElOp := fun j acc => roundEl f rm (op j) acc
    let least (greatest : Bool) : ElOp := fun j acc =>
      let z := fminmax f greatest (raw a j) (raw b j)
      (BitVec.ofNat 32 z.1, { acc with fl := acc.fl ||| z.2 })
    let ints (op : Nat → Int) : ElOp := fun j acc => (intEl ty.toNat x.toNat (op j), acc)
    let bitwise (op : Nat → Nat) : ElOp := fun j acc => (BitVec.ofNat 32 (op j), acc)
    (ty.toNat ≤ 2 →
      exec (.vadd d ty a x b m k) s = go 4 (fl fun j => xadd (val a j) (val b j) rm) 1 4 ∧
      exec (.vsub d ty a x b m k) s = go 4 (fl fun j => xadd (val a j) (val b j).neg rm) 1 4 ∧
      exec (.vmul d ty a x b m k) s = go 4 (fl fun j => xmul (val a j) (val b j)) 1 4 ∧
      exec (.vmin d ty a b m k) s = go 4 (least false) 1 4 ∧
      exec (.vmax d ty a b m k) s = go 4 (least true) 1 4 ∧
      exec (.vdiv d ty a x b m k) s = go 4 (fl fun j => xdiv (val a j) (val b j)) 4 8 ∧
      exec (.vfma d ty a x b m k) s = go 4 (fl fun j => xfma (val a j) (val b j) (val d j) rm) 1 4 ∧
      exec (.vfmaLong d ty a x b m k e) s = go 8 (fl fun j => xfma (val a j) (val b j) (val e j) rm) 1 4 ∧
      exec (.vsqrt d ty a x m k) s = go 4 (fl fun j => xsqrt (val a j)) 4 8 ∧
      exec (.vrsqrt d ty a x m k) s = go 4 (fl fun j => xrsqrt (val a j)) 2 8 ∧
      exec (.vrcp d ty a x m k) s = go 4 (fl fun j => xrcp (val a j)) 2 8 ∧
      exec (.vexp2 d ty a x m k) s = go 4 (fl fun j => xexp2 (val a j)) 2 8 ∧
      exec (.vlog2 d ty a x m k) s = go 4 (fl fun j => xlog2 (val a j)) 2 8 ∧
      exec (.vsin d ty a x m k) s = go 4 (fl fun j => xsin (val a j)) 4 8 ∧
      exec (.vtanh d ty a x m k) s = go 4 (fl fun j => xtanh (val a j)) 4 8) ∧
    (3 ≤ ty.toNat →
      exec (.vadd d ty a x b m k) s = go 4 (ints fun j => int a j + int b j) 1 4 ∧
      exec (.vsub d ty a x b m k) s = go 4 (ints fun j => int a j - int b j) 1 4 ∧
      exec (.vmul d ty a x b m k) s = go 4 (ints fun j => int a j * int b j) 1 4 ∧
      exec (.vfma d ty a x b m k) s = go 4 (ints fun j => int a j * int b j + int d j) 1 4 ∧
      exec (.vfmaLong d ty a x b m k e) s = go 8 (ints fun j => int a j * int b j + int e j) 1 4 ∧
      exec (.vmin d ty a b m k) s = go 4 (fun j acc => (intEl ty.toNat 0 (min (int a j) (int b j)), acc)) 1 4 ∧
      exec (.vmax d ty a b m k) s = go 4 (fun j acc => (intEl ty.toNat 0 (max (int a j) (int b j)), acc)) 1 4 ∧
      exec (.vdiv d ty a x b m k) s = go 4 (fun j acc => if int b j = 0 then (intEl ty.toNat 0 (-1), { acc with fl := acc.fl ||| IDZ })
        else (intEl ty.toNat x.toNat ((int a j).tdiv (int b j)), acc)) 4 8 ∧
      (x = 0 →
        exec (.vshl d ty a x b m k) s = go 4 (bitwise fun j =>
          if tBits ty.toNat ≤ raw b j then 0 else raw a j * 2^raw b j % 2^tBits ty.toNat) 1 4 ∧
        exec (.vshr d ty a x b m k) s = go 4 (bitwise fun j => if tBits ty.toNat ≤ raw b j then 0 else raw a j / 2^raw b j) 1 4) ∧
      (x = 1 →
        exec (.vshl d ty a x b m k) s = go 4 (fun j acc => (intEl ty.toNat 1 (int a j * 2^min (raw b j) (2 * tBits ty.toNat)), acc)) 1 4 ∧
        exec (.vshr d ty a x b m k) s = go 4 (fun j acc => (intEl ty.toNat 0 (int a j / 2^min (raw b j) (tBits ty.toNat - 1)), acc)) 1 4)) ∧
    exec (.vand d ty a b m k) s = go 4 (bitwise fun j => raw a j &&& raw b j) 1 4 ∧
    exec (.vor d ty a b m k) s = go 4 (bitwise fun j => raw a j ||| raw b j) 1 4 ∧
    exec (.vxor d ty a b m k) s = go 4 (bitwise fun j => raw a j ^^^ raw b j) 1 4 ∧
    exec (.vperm d ty a b m k) s = go 4 (bitwise fun j => if (c.el b.toNat j).toNat < c.vl then raw a (c.el b.toNat j).toNat else 0) 2 6 ∧
    exec (.vsel d ty a b k) s = .next (after ((vecWrite tid d.toNat (List.range c.vl)
      (bitwise fun j => if (c.mask k.toNat).getLsbD j then raw a j else raw b j) s).beat tid p 4 [128 + d.toNat]) tid (·.skip 4)) ∧
    exec (.vcvt d ty a x y dt m k) s = go 4 (cvtEl ty.toNat dt.toNat a.toNat x.toNat y.toNat c s tid) 1 4 ∧
    exec (.vbcast d r m k) s = go 4 (bitwise fun _ => (Reads s tid r.toNat).toNat) 1 4 ∧
    exec (.vbcastLong d m k i) s = go 8 (fun _ acc => (i, acc)) 1 4

/-- R139, R144, R145: VCMP writes mask bits of active elements; VRED writes its tree's value to element 0; VSCAN each prefix; VQUANT and
VDEQ whole blocks of 32, and fault with VEC_BLOCK on a mask or a broken block. -/
def Obligations.VectorReduceAndCompare : Prop :=
  ∀ (s : State) (tid : Nat) (c : Claim) (d a b o q : BitVec 4) (ty x p : BitVec 3) (m : BitVec 1) (k v : BitVec 2), Issuing s tid →
    (s.task tid).claim = some c → (∀ q ∈ [d, a, b], Ready s tid (128 + q.toNat)) →
    Ready s tid (144 + k.toNat) → Ready s tid (144 + v.toNat) →
    let act := c.active m.toNat k.toNat
    let p1 := max 1 ((c.vl + 16 * max c.g 1 - 1) / (16 * max c.g 1))
    let rm := if x = 0 then (s.task tid).r.frm.toNat else x.toNat
    let acc0 : VAcc := { fl := 0, seed := (s.task tid).r.srseed }
    let go (c' : Claim) (acc : VAcc) (n lat key : Nat) : Host.Outcome State Fault Refusal :=
      .next (after ((s.modTask tid fun t => { t with claim := some c' }).beat tid n lat [key]) tid fun r =>
        { r with srseed := acc.seed, fflags := r.fflags ||| acc.fl }.skip 4)
    let cmp (j : Nat) : Bool × Flags := cmpEl ty.toNat p.toNat a.toNat b.toNat c j
    exec (.vcmp v ty a p b m k) s = go
      { c with vm := mput 0 c.vm v.toNat (act.foldl (fun w j => maskSet w j (cmp j).1) (c.mask v.toNat)) }
      { acc0 with fl := act.foldl (fun f j => f ||| (cmp j).2) 0 } p1 4 (144 + v.toNat) ∧
    (let w := (List.range (2^redDepth c.vl)).map fun j => if act.contains j then c.raw ty.toNat a.toNat j else redIdentity ty.toNat o.toNat
     let z := redTree ty.toNat x.toNat rm o.toNat (redDepth c.vl) w acc0
     exec (.vred d ty a x o m k) s = go (c.setEl d.toNat 0 (BitVec.ofNat 32 z.1)) z.2 (p1 + redDepth c.vl) 4 (128 + d.toNat)) ∧
    (let z := scanEls c ty.toNat x.toNat rm o.toNat a.toNat act none acc0
     exec (.vscan d ty a x o m k) s =
       go (z.1.foldl (fun c e => c.setEl d.toNat e.1 (BitVec.ofNat 32 e.2)) c) z.2 (2 * p1) 4 (128 + d.toNat)) ∧
    (c.vl % 32 = 0 → m = 0 →
      (let z := quantEls c ty.toNat rm q.toNat a.toNat (List.range (c.vl / 32)) acc0
       exec (.vquant d ty a x q m k) s =
         go (z.1.foldl (fun c e => c.setEl d.toNat e.1 e.2) c) z.2 (2 * p1) 6 (128 + d.toNat)) ∧
      exec (.vdeq d ty a x q m k) s = .next (after ((vecWrite tid d.toNat (List.range c.vl)
        (fun j acc => roundEl (tFmt ty.toNat) rm (deqPos q.toNat (c.el a.toNat j), 0) acc) s).beat tid p1 4 [128 + d.toNat])
        tid (·.skip 4))) ∧
    (c.vl % 32 ≠ 0 ∨ m ≠ 0 →
      exec (.vquant d ty a x q m k) s = .next (faulted s tid 4 VEC_BLOCK 0) ∧
      exec (.vdeq d ty a x q m k) s = .next (faulted s tid 4 VEC_BLOCK 0))

/-- R131-R134: a vector load whose active elements pass their checks gives each its converted value, ready after a time that is free (log 2); a vector store whose elements
pass puts all its element stores into the thread's FIFO together. -/
def Obligations.VectorMemory : Prop :=
  ∀ (s s1 s2 : State) (tid : Nat) (c : Claim) (d x : BitVec 4) (a b : BitVec 7) (m : BitVec 1) (k : BitVec 2) (i : BitVec 32)
    (vs : List (Nat × Nat)), Issuing s tid → Names s tid [a.toNat, b.toNat] → (s.task tid).claim = some c →
    Ready s tid (128 + d.toNat) → Ready s tid (128 + x.toNat) → Ready s tid (144 + k.toNat) →
    let act := c.active m.toNat k.toNat
    let r := (s.task tid).r
    let rm := r.frm.toNat
    let base := Reads s tid a.toNat
    let ok (p : Word) : Prop := p.toNat / 2^52 % 8 = 0 ∧ fmtOk (p.toNat / 2^58) (p.toNat / 2^55 % 8) = true
    let flat (p : Word) : Prop := ok p ∧ p.toNat / 2^58 ≤ 8 ∧ p.toNat / 2^58 ≠ 2
    let lines (els : List (Nat × Nat)) : Nat := lineBeats c els
    let each (n : Nat) : Nat := elemBeats c n
    let load (ins : Instr) (len : Nat) (p : Word) (els : List (Nat × Nat × Nat)) (aligned : Bool) (beats : Nat) : Prop :=
      checkEls s tid .rd aligned (els.map (·.2)) = .ok s1 → loadEls s1 tid els = .ok (vs, s2) →
      exec ins s = .next (after ((vLoadWrite tid d.toNat p vs s2.free.2).beat tid beats s2.free.1 [128 + d.toNat]) tid (·.skip len))
    let store (ins : Instr) (len : Nat) (p : Word) (els : List (Nat × Nat)) (aligned : Bool) (beats : Nat) : Prop :=
      checkEls s tid .wr aligned (els.map fun e => (e.2, vElemSize (p.toNat / 2^58))) = .ok s1 →
      vStoreAll tid beats c d.toNat (p.toNat / 2^58) els s1 = .ok s2 →
      exec ins s = .next (after s2 tid (·.skip len))
    let packed (ins : Instr) (len : Nat) (p : Word) : Prop :=
      (ok p → p.toNat / 2^58 = 2 → ∀ parts s3,
        checkEls s tid .rw false (act.map fun j => (vAddr p j, 1)) = .ok s1 →
        nibbleBytes s1 tid p (act.map fun j => (j, (c.el d.toNat j).toNat % 16)) ((act.map (· / 2)).eraseDups) = .ok (parts, s2) →
        vPush s2 tid (lines (act.map fun j => (vAddr p j, 1))) parts = .ok s3 → exec ins s = .next (after s3 tid (·.skip len))) ∧
      (ok p → 18 ≤ p.toNat / 2^58 →
        let n := blockLen (p.toNat / 2^58) (p.toNat / 2^55 % 8)
        let z := vRecords c d.toNat (p.toNat / 2^58) (p.toNat / 2^55 % 8) rm (List.range (c.vl / n)) { fl := 0, seed := r.srseed }
        (c.vl % n = 0 → m = 0 →
          checkEls s tid .wr false ((List.range (c.vl / n)).map fun b => (vAddr p (n * b), vSpan p)) = .ok s1 →
          vPush s1 tid (lines (act.map (vPlace p))) (z.1.flatMap fun e => splitBytes (vAddr p (n * e.1)) e.2) = .ok s2 →
          exec ins s = .next (after (setAcc s2 tid z.2) tid (·.skip len))) ∧
        (c.vl % n ≠ 0 ∨ m ≠ 0 → exec ins s = .next (faulted s tid len VEC_BLOCK 0)))
    let plain (p : Word) : List (Nat × Nat × Nat) := act.map fun j => (j, vAddr p j, vSpan p)
    let at1 (dist : Nat → Int) : List (Nat × Nat) :=
      act.map fun j => (j, (((base.toNat % 2^52 : Nat) + dist j) % 2^52).toNat)
    let at2 (dist : Nat → Int) : List (Nat × Nat × Nat) := (at1 dist).map fun e => (e.1, e.2, vElemSize (base.toNat / 2^58))
    let far := addrAdd base (i.signExtend 64)
    let near := addrAdd base 0
    (ok near → load (.vld d a m k) 4 near (plain near) false (lines (act.map (vPlace near)))) ∧
    (ok far → load (.vldLong d a m k i) 8 far (plain far) false (lines (act.map (vPlace far)))) ∧
    (flat base → load (.vlds d a b m k) 4 base (at2 fun j => j * (Reads s tid b.toNat).toInt) true (each act.length) ∧
      load (.vgath d a x m k) 4 base (at2 fun j => (c.el x.toNat j).toInt * vElemSize (base.toNat / 2^58)) true
        (each act.length) ∧
      store (.vscat d a x m k) 4 base (at1 fun j => (c.el x.toNat j).toInt * vElemSize (base.toNat / 2^58)) true
        (each act.length)) ∧
    (flat near → store (.vst d a m k) 4 near (act.map fun j => (j, vAddr near j)) false
      (lines (act.map fun j => (vAddr near j, vElemSize (near.toNat / 2^58))))) ∧
    (flat far → store (.vstLong d a m k i) 8 far (act.map fun j => (j, vAddr far j)) false
      (lines (act.map fun j => (vAddr far j, vElemSize (far.toNat / 2^58))))) ∧
    packed (.vst d a m k) 4 near ∧ packed (.vstLong d a m k i) 8 far

/-! ### Tiles, matrix jobs, the transposing load and the mirrored swap (spec/07) -/

/-- R168-R170: MXCFG gives free tiles to the context and sets TYPE, zeroing a tile that was free or where INIT is set; TREL frees a tile
of the context; MXSTAT reads. A tile with queued jobs faults with TILE_BUSY, and another context's tile stays as it is. -/
def Obligations.MatrixTiles : Prop :=
  ∀ (s : State) (tid : Nat) (d a b : BitVec 7) (m : BitVec 16), Issuing s tid → Names s tid [d.toNat, a.toNat, b.toNat] →
    let ctx := (s.task tid).ctx
    let cl := (s.task tid).core / 8
    let c := Reads s tid b.toNat
    let i := (Reads s tid a.toNat).toNat % 16
    let tile := s.tile cl i
    let q := queuedOn s cl i
    let own (ty : Bool) : Word := BitVec.ofNat 64 (q * 2^8 + (if q = 0 then 0 else 16) + (if ty then 8 else 0) + 1)
    let word : Word := match tile.owner with
      | none => if tile.ty then 8 else 0
      | some o => if o = ctx then own tile.ty else 2
    let made (x : Tile) : Tile :=
      { (if x.owner = none ∨ c.toNat / 2 % 2 = 1 then {} else x) with owner := some ctx, ty := decide (c.toNat % 2 = 1) }
    let stall := mget {} (s.cluster cl).mxStall ctx
    (c.toNat < 4 → tile.owner = none ∨ (tile.owner = some ctx ∧ q = 0) →
      exec (.mxcfg d a b) s = .next (writtenSync (s.setTile cl i (made tile)) tid d.toNat 4 (own (decide (c.toNat % 2 = 1))))) ∧
    (c.toNat < 4 → (∃ o, tile.owner = some o ∧ o ≠ ctx) → exec (.mxcfg d a b) s = .next (writtenSync s tid d.toNat 4 2)) ∧
    (4 ≤ c.toNat → exec (.mxcfg d a b) s = .next (faulted s tid 4 MX_DESC 0) ∧
      exec (.mxcfgLong d b m) s = .next (faulted s tid 8 MX_DESC 0)) ∧
    (c.toNat < 4 → tile.owner = some ctx → q ≠ 0 →
      exec (.mxcfg d a b) s = .next (faulted s tid 4 TILE_BUSY 0) ∧ exec (.trel d a) s = .next (faulted s tid 4 TILE_BUSY 0)) ∧
    (tile.owner = some ctx → q = 0 → exec (.trel d a) s = .next (writtenSync (s.setTile cl i {}) tid d.toNat 4 0)) ∧
    (tile.owner ≠ some ctx → exec (.trel d a) s = .next (writtenSync s tid d.toNat 4 word)) ∧
    (c.toNat < 4 → (∀ j < 16, m.getLsbD j = true → (s.tile cl j).owner = none ∨
        ((s.tile cl j).owner = some ctx ∧ queuedOn s cl j = 0)) →
      ∃ s1, exec (.mxcfgLong d b m) s = .next (writtenSync s1 tid d.toNat 8 (BitVec.ofNat 64 (ownMask s1 cl ctx))) ∧ s1.mem = s.mem ∧
        (∀ k, s1.task k = s.task k) ∧
        ∀ j < 16, s1.tile cl j = if m.getLsbD j then made (s.tile cl j) else s.tile cl j) ∧
    exec (.mxstat d a 0) s = .next (writtenSync s tid d.toNat 4 word) ∧
    exec (.mxstat d a 1) s = .next (writtenSync s tid d.toNat 4 (BitVec.ofNat 64 (jobsOf s cl ctx * 2^32 + ownMask s cl ctx * 2^16))) ∧
    exec (.mxstat d a 2) s = .next (writtenSync s tid d.toNat 4 stall.opnd) ∧
    exec (.mxstat d a 3) s = .next (writtenSync s tid d.toNat 4 stall.scale) ∧
    exec (.mxstat d a 4) s = .next (writtenSync s tid d.toNat 4 stall.therm)

/-- R149, R153, R157, R163-R165: an accepted job gets a PENDING future, whose handle is written, and stands last in its MXE's queue with
its descriptor and the thread's pending launch time; MXSUBC sends the same to the cluster its capability names. A failed
check faults with its code, and with no entry to be had the status FUT_FULL is written. -/
def Obligations.MatrixSubmission : Prop :=
  ∀ (s s1 s2 : State) (tid : Nat) (d a b e f g : BitVec 7) (w0 w1 w2 w3 h : Word), Issuing s tid →
    Names s tid [d.toNat, a.toNat, b.toNat, e.toNat, f.toNat, g.toNat] →
    let t := s.task tid
    let cl := t.core / 8
    let p := Reads s tid a.toNat
    let ready (s : State) : Prop := mxCheck s cl t.ctx w0 w1 w2 w3 = .ok () ∧ mxRoom s cl t.ctx = true ∧
      mxTurn s cl t.launch t.ident = true
    let alloc (s : State) (c : Nat) : Alloc :=
      allocFut { s with nextId := s.nextId + 1 } cl t.ctx t.launch (.job c s.nextId)
    let mem (len : Nat) : Prop := p.toNat / 2^52 % 8 = 0 ∧ p.toNat % 8 = 0 ∧
      loadWords s tid (p.toNat % 2^52) 4 = .ok ([w0, w1, w2, w3], s1) ∧ len = 4
    let regs (len : Nat) : Prop := s1 = s ∧ len = 8 ∧
      [Reads s tid a.toNat, Reads s tid b.toNat, Reads s tid e.toNat, Reads s tid f.toNat] = [w0, w1, w2, w3]
    let near (i : Instr) (len : Nat) : Prop := ready s1 →
      (alloc s1 cl = .got h s2 → relReady s2 tid 2 = true →
        exec i s = .next (writtenSync (mxSubmit s2 tid s1.nextId (.fut h) w0 w1 w2 w3) tid d.toNat len h)) ∧
      (alloc s1 cl = .full → exec i s = .next (writtenSync s1 tid d.toNat len futFullStatus))
    let far (i : Instr) (len : Nat) (cap : Word) : Prop :=
      let int := (s1.tile (capCl cap) (mxTile w0)).ty
      let draws := mxDraws int w0 t.r.frm
      mxCheckDesc int w0 w1 w2 w3 = .ok () → alloc s1 (capCl cap) = .got h s2 → relReady s2 tid 4 = true →
      ∃ s' x, exec i s = .next s' ∧ s'.net.caps = s2.net.caps ++ [x] ∧ x.src = t.core ∧ x.cap = cap ∧ x.job.w0 = w0 ∧
        x.job.w1 = w1 ∧ x.job.w2 = w2 ∧ x.job.w3 = w3 ∧ x.job.sink = .fut h ∧ x.job.ctx = t.ctx ∧ x.job.time = t.r.atset ∧
        (s'.task tid).r = ({ t.r with srseed := if draws then srNext t.r.srseed else t.r.srseed, atset := 0 }.write d.toNat h).skip len
    (mem 4 → near (.mxsub d a) 4 ∧ far (.mxsubc d a b) 4 (Reads s tid b.toNat)) ∧
    (regs 8 → near (.mxsubLong d a b e f) 8 ∧ far (.mxsubcLong d a b e f g) 8 (Reads s tid g.toNat)) ∧
    (regs 8 → ∀ c v, mxCheck s cl t.ctx w0 w1 w2 w3 = .error (.trap c v) →
      exec (.mxsubLong d a b e f) s = .next (faulted s tid 8 c v)) ∧
    (Unrecorded s2 tid → ∀ id, ∃ j, ((mxSubmit s2 tid id (.fut h) w0 w1 w2 w3).cluster ((s2.task tid).core / 8)).jobs =
        (s2.cluster ((s2.task tid).core / 8)).jobs ++ [j] ∧ j.w0 = w0 ∧ j.w1 = w1 ∧ j.w2 = w2 ∧ j.w3 = w3 ∧ j.sink = .fut h ∧
        j.time = (s2.task tid).r.atset)

/-- R171: the transposing load writes register j of its run with element j of every row, row i in position i. R172-R174: TSWAP
of a core that is its own mirror turns its block, or leaves it, and resolves its future at once (the value the future takes is
not stated: log 14); any other core's offer, and one of a block that a stash mapping covers, waits at its core for its
mirror's, and one to a dead core or to one with no partition of the context is poisoned. A turn waits while its core's trace
can take no entry more. -/
def Obligations.TransposesAndSwaps : Prop :=
  (∀ (s s0 s1 : State) (tid : Nat) (d a b : BitVec 7) (k : BitVec 2) (o : BitVec 16) (rows : List Nat), Issuing s tid →
    Names s tid [a.toNat, b.toNat] → d.toNat < 120 → (∀ i < 8, Ready s tid (d.toNat + i)) →
    let p := Reads s tid a.toNat
    let q := Reads s tid b.toNat
    let does (i : Instr) (len w : Nat) (off : Word) : Prop :=
      d.toNat + 8 / w - 1 ≤ (s.task tid).limit → tldtCheck (addrAdd p off) q (8 / w) = .ok () →
      tldtPlaces s tid (addrAdd p off) q (8 / w) = .ok s0 → tldtRows s0 tid (addrAdd p off) q (8 / w) = .ok (rows, s1) →
      exec i s = .next (afterSync s1 tid fun r =>
        ((List.range (8 / w)).foldl (fun r j => r.write (d.toNat + j) (BitVec.ofNat 64 ((List.range (8 / w)).map fun i =>
          rows.getD i 0 / 2^(8 * w * j) % 2^(8 * w) * 2^(8 * w * i)).sum)) r).skip len)
    does (.tldt d a b) 4 1 0 ∧ does (.tldtLong d a b k o) 8 (2^k.toNat) (o.signExtend 64) ∧
    (p.toNat / 2^52 % 8 ≠ 0 → d.toNat + 7 ≤ (s.task tid).limit →
      exec (.tldt d a b) s = .next (faulted s tid 4 BAD_POINTER (BitVec.ofNat 64 (p.toNat % 2^52)))) ∧
    (p.toNat / 2^52 % 8 = 0 → p.toNat % 8 ≠ 0 → d.toNat + 7 ≤ (s.task tid).limit →
      exec (.tldt d a b) s = .next (faulted s tid 4 MISALIGN (BitVec.ofNat 64 (p.toNat % 2^52))))) ∧
  (∀ (s s2 : State) (tid : Nat) (d a b : BitVec 7) (h : Word), Issuing s tid → Names s tid [d.toNat, a.toNat, b.toNat] →
    let t := s.task tid
    let k := t.core
    let o := Reads s tid a.toNat
    let w := Reads s tid b.toNat
    let size := ((partOf (s.core k) t.ctx).map Part.size).getD 0
    let go (s : State) : Host.Outcome State Fault Refusal := .next (writtenSync s tid d.toNat 4 h)
    (swOk w o = false → exec (.tswap d a b) s = .next (faulted s tid 4 MX_DESC 0)) ∧
    (swOk w o = true → size < o.toNat + swSpan w → exec (.tswap d a b) s = .next (faulted s tid 4 SP_RANGE 0)) ∧
    (swOk w o = true → o.toNat + swSpan w ≤ size → mirrorOf k = k ∨ (s.core k).swaps.length < 4 →
      (mirrorOf k = k → swTr w = true → portRefuses s k 4 (min (2 ^ (swCols w * swEw w).log2) 128) k o.toNat = false) →
      (allocFut s (k / 8) t.ctx t.launch .swap = .full → exec (.tswap d a b) s = .next (writtenSync s tid d.toNat 4 futFullStatus)) ∧
      (allocFut s (k / 8) t.ctx t.launch .swap = .got h s2 → relReady s2 tid 3 = true →
        (mirrorOf k = k → swTr w = false → exec (.tswap d a b) s = go (swapResolve s2 h)) ∧
        (mirrorOf k = k → swTr w = true → blockMapped s2 k t.ctx o.toNat w = false →
          let x := blockRead s2 k t.ctx o.toNat w
          exec (.tswap d a b) s = go (swapResolve (blockWrite s2 k t.ctx k o.toNat (swPitch w) (swCols w * swEw w)
            (blockTurn w x.1) (blockTurn w x.2) (swRows w)) h)) ∧
        (mirrorOf k ≠ k → (s2.core (mirrorOf k)).dead = true → exec (.tswap d a b) s = go (poisonH s2 h DEAD)) ∧
        (mirrorOf k ≠ k → (s2.core (mirrorOf k)).dead = false → partOf (s2.core (mirrorOf k)) t.ctx = none →
          exec (.tswap d a b) s = go (poisonH s2 h WIN_DENIED)) ∧
        (mirrorOf k ≠ k ∨ (swTr w = true ∧ blockMapped s2 k t.ctx o.toNat w = true) →
          (s2.core (mirrorOf k)).dead = false → partOf (s2.core (mirrorOf k)) t.ctx ≠ none →
          exec (.tswap d a b) s = go (({ s2 with nextId := s2.nextId + 1 } : State).modCore k fun c =>
            { c with swaps := c.swaps ++ [{ id := s2.nextId, core := k, off := o.toNat, d := w, ctx := t.ctx, fut := h }] })))))

/-! ### Control and status registers, privileged instructions (spec/14) -/

/-- R386, R387 and the rules of each register: CSRR reads it; CSRW stores, CSRS sets and CSRC clears bits by its write rule (a read-only
one does not change, R2); every number that R387 does not assign faults with ILL_CSR. -/
def Obligations.ControlRegisters : Prop :=
  ∀ (s : State) (tid : Nat) (d a : BitVec 7), Issuing s tid → Names s tid [d.toNat, a.toNat] →
    let t := s.task tid
    let r := t.r
    let x := s.ctx t.ctx
    let v := Reads s tid a.toNat
    let cl := t.core / 8
    let xs := mget {} (s.cluster cl).xfStall t.ctx
    let reads (n : BitVec 12) (w : Word) : Prop := exec (.csrr d n) s = .next (written s tid d.toNat 4 w)
    let readsPriv (n : BitVec 12) (w : Word) : Prop := exec (.csrr d n) s = .next (writtenSync s tid d.toNat 4 w)
    let stores (n : BitVec 12) (w : Word) (priv : Bool) (f : Word → State) : Prop :=
      exec (.csrw a n) s = .next (done (f v) tid priv (·.skip 4)) ∧
      exec (.csrs a n) s = .next (done (f (w ||| v)) tid priv (·.skip 4)) ∧
      exec (.csrc a n) s = .next (done (f (w &&& ~~~v)) tid priv (·.skip 4))
    let writes (n : BitVec 12) (w : Word) (f : Word → State) : Prop := stores n w false f
    let writesPriv (n : BitVec 12) (w : Word) (f : Word → State) : Prop := stores n w true f
    let both (n : BitVec 12) (w : Word) (f : Word → State) : Prop := reads n w ∧ writes n w f
    let bothPriv (n : BitVec 12) (w : Word) (f : Word → State) : Prop := readsPriv n w ∧ writesPriv n w f
    let fixed (n : BitVec 12) (w : Word) : Prop := both n w fun _ => s
    let regs (f : Word → Regs → Regs) (v : Word) : State := s.modTask tid fun t => { t with r := f v t.r }
    let ctxs (f : Word → Ctx → Ctx) (v : Word) : State := s.modCtx t.ctx (f v)
    let word (n : Nat) : Word := BitVec.ofNat 64 n
    (fixed 0x000 (word (s.peers.chip.toNat * 2^44 + corePlace t.core * 2^31 + t.slot.getD 0)) ∧
      fixed 0x001 (word ((if x.priv then 2^22 else 0) + t.ctx % 64 * 2^16 + x.asid % 2^16)) ∧ fixed 0x002 r.wid ∧
      fixed 0x003 (match t.launch.bind fun l => mfind s.launches l with
        | some l => l.wfmt
        | none => 0) ∧ fixed 0x004 (word t.rfbase) ∧ fixed 0x005 (word (t.rfbase + t.limit)) ∧
      fixed 0x006 (word (((partOf (s.core t.core) t.ctx).map Part.size).getD 0)) ∧
      fixed 0x007 (word (t.chg.toNat * 2^32 + periodBits (s.core t.core) (t.slot.getD 64))) ∧
      fixed 0x008 (word (r.fstsCode.toNat * 2^8 + r.fstsOut.toNat)) ∧
      fixed 0x018 (match t.claim with
        | some c => word (c.req * 2^16 + c.g)
        | none => 0) ∧
      fixed 0x019 (match t.claim with
        | some c => word c.vl
        | none => 0) ∧
      fixed 0x040 (word ((if s.mgmt.sync then 2^32 else 0) + s.mgmt.peak.toNat * 2^16 + s.mgmt.skew.toNat)) ∧
      fixed 0x02B x.evidx ∧ fixed 0x02C x.msgret ∧ fixed 0x02D x.capden) ∧
    (fixed 0x030 t.stalls.therm ∧ fixed 0x031 t.stalls.empty ∧ fixed 0x032 t.stalls.tlb ∧ fixed 0x033 t.stalls.pers ∧
      fixed 0x034 t.stalls.token ∧ fixed 0x035 t.stalls.port ∧ fixed 0x036 t.stalls.opnd ∧ fixed 0x038 xs.tag ∧
      fixed 0x039 xs.tlb ∧ fixed 0x03A xs.tok ∧ fixed 0x03B xs.pers ∧ fixed 0x03C xs.therm ∧ fixed 0x03D xs.wait) ∧
    both 0x010 (word r.fflags.toNat) (regs fun v r => { r with fflags := BitVec.ofNat 6 v.toNat }) ∧
    both 0x011 (word r.frm.toNat) (regs fun v r =>
      { r with frm := if 1 ≤ v.toNat % 8 ∧ v.toNat % 8 ≤ 5 then BitVec.ofNat 3 v.toNat else r.frm }) ∧
    both 0x012 (word r.srseed.toNat) (regs fun v r => { r with srseed := srNZ (BitVec.ofNat 32 v.toNat) }) ∧
    both 0x013 (word r.orhint.toNat) (regs fun v r => { r with orhint := BitVec.ofNat 32 v.toNat }) ∧
    both 0x014 (word r.esel.toNat) (fun v => s.modTask tid fun t =>
      { t with r := { t.r with esel := BitVec.ofNat 2 v.toNat }, epWords := [] }) ∧
    both 0x020 (mget 0xFFFFFFFFFFFFFFFF (s.cluster cl).trt t.ctx) (fun v => s.modCluster cl fun c =>
      { c with trt := mput 0xFFFFFFFFFFFFFFFF c.trt t.ctx v }) ∧
    both 0x02A x.evfut (ctxs fun v c => { c with evfut := v }) ∧
    both 0x02E x.evrd (ctxs fun v c => { c with evrd := if c.evidx.toNat < v.toNat then c.evidx else v }) ∧
    reads 0x028 x.hwin ∧ reads 0x029 (word x.capep.toNat) ∧
    (isFirmware s tid = true →
      bothPriv 0x03E (s.core t.core).scinval (fun _ => s) ∧
      bothPriv 0x050 r.tvec (regs fun v r => { r with tvec := word (v.toNat / 2 * 2) }) ∧
      bothPriv 0x051 r.epc (regs fun v r => { r with epc := v }) ∧
      bothPriv 0x052 (word r.ecode.toNat) (regs fun v r => { r with ecode := BitVec.ofNat 7 v.toNat }) ∧
      writesPriv 0x028 x.hwin (ctxs fun v c => { c with hwin := word (v.toNat / 2^12 * 2^12) }) ∧
      writesPriv 0x029 (word x.capep.toNat) (ctxs fun v c => { c with capep := BitVec.ofNat 4 v.toNat })) ∧
    (∀ n : BitVec 12, n.toNat ∉ [0, 1, 2, 3, 4, 5, 6, 7, 8, 0x10, 0x11, 0x12, 0x13, 0x14, 0x18, 0x19, 0x20, 0x28, 0x29, 0x2A,
        0x2B, 0x2C, 0x2D, 0x2E, 0x30, 0x31, 0x32, 0x33, 0x34, 0x35, 0x36, 0x38, 0x39, 0x3A, 0x3B, 0x3C, 0x3D, 0x3E, 0x40, 0x50,
        0x51, 0x52] →
      exec (.csrr d n) s = .next (faulted s tid 4 ILL_CSR 0) ∧ exec (.csrw a n) s = .next (faulted s tid 4 ILL_CSR 0) ∧
      exec (.csrs a n) s = .next (faulted s tid 4 ILL_CSR 0) ∧ exec (.csrc a n) s = .next (faulted s tid 4 ILL_CSR 0))

/-- R369-R383: with firmware privilege TLBW puts an entry in the cluster's TLB for every one it overlaps; TLBINV removes its
range within its scope; SLOTW writes the slot table's pending changes, freezes, thaws or saves; MAPCL begins a remap to a
spare. R376: CAPMK makes the capability of the thread's context for a cluster, its operations and its tiles, under the
context's epoch, or faults with CAP_ARG. -/
def Obligations.FirmwareInstructions : Prop :=
  (∀ (s : State) (tid : Nat) (d a b : BitVec 7), Issuing s tid → isFirmware s tid = true →
    Names s tid [d.toNat, a.toNat, b.toNat] →
    let t := s.task tid
    let cl := t.core / 8
    let x := Reads s tid a.toNat
    let y := Reads s tid b.toNat
    let go (s : State) (v : Nat) : Host.Outcome State Fault Refusal := .next (writtenSync s tid d.toNat 4 (BitVec.ofNat 64 v))
    let entry : Tlb := { tag := x, word := y }
    (tlbOk x y = true → ∃ s1 v rest, exec (.tlbw d a b) s = go s1 v ∧ (s1.cluster cl).tlb = entry :: rest ∧ s1.mem = s.mem ∧
      (v = 0 ↔ ∀ e ∈ (s.cluster cl).tlb, e.overlaps entry.asid entry.base (2^pageBits y) = false) ∧
      (∀ e ∈ rest, e ∈ (s.cluster cl).tlb ∧ e.overlaps entry.asid entry.base (2^pageBits y) = false)) ∧
    (tlbOk x y = false → exec (.tlbw d a b) s = .next (faulted s tid 4 TLB_ARG 0)) ∧
    (tlbinvOk x y = false → exec (.tlbinv d a b) s = .next (faulted s tid 4 TLB_ARG 0)) ∧
    (let scope := y.toNat % 8
     let asid := x.toNat / 2^48
     let r := tlbinvRange x y
     let z := tlbDrop s cl scope asid r.1 r.2
     tlbinvOk x y = true → t.inv = none → tlbinvBusy z.2.2 cl scope asid r.1 r.2 z.2.1 = false →
      ∃ s1, exec (.tlbinv d a b) s = go s1 z.1 ∧ s1.mem = s.mem ∧
        z.1 = (s.clusters.flatMap fun e => if inScope cl scope e.1 then e.2.tlb.filter fun e => e.overlaps asid r.1 r.2 else []).length ∧
        ∀ e ∈ s1.clusters, inScope cl scope e.1 = true → ∀ q ∈ e.2.tlb, q.overlaps asid r.1 r.2 = false) ∧
    (let k := cl * 8 + x.toNat / 2^8 % 8
     let ctx := y.toNat % 64
     (slotwBad s x y = true → exec (.slotw d a b) s = go s 2) ∧
     (slotwBad s x y = false → x.toNat / 2^60 = 0 →
       let z := slotWrite s k (x.toNat % 64) (BitVec.ofNat 16 y.toNat)
       exec (.slotw d a b) s = go z.2 z.1) ∧
     (slotwBad s x y = false → x.toNat / 2^60 = 1 →
       exec (.slotw d a b) s =
         (if y.toNat = 0 ∨ 64 < y.toNat ∨ tableOk (pendingTable (s.core k)).1 y.toNat = false then go s 1
          else go (s.modCore k fun c => { c with pending := c.pending ++ [(s.cycle, .length y.toNat)] }) 0)) ∧
     (slotwBad s x y = false → x.toNat / 2^60 = 2 → stillParking s k ctx = false →
       exec (.slotw d a b) s = go (freezeCtx s k ctx) 0 ∧ ctx ∈ ((freezeCtx s k ctx).core k).frozen) ∧
     (slotwBad s x y = false → x.toNat / 2^60 = 3 → exec (.slotw d a b) s = go (thawCtx s k ctx).2 (thawCtx s k ctx).1) ∧
     (slotwBad s x y = false → x.toNat / 2^60 = 4 → (s.core k).frozen.contains ctx = false ∨ stillParking s k ctx = false → exec (.slotw d a b) s = go (saveCtx s k ctx).2 (saveCtx s k ctx).1)) ∧
    ((∀ r ∈ s.net.remaps, r.asker.map (·.1) ≠ some tid) →
      let core := decide (x.toNat / 2^63 = 1)
      let unit := if core then (x.toNat / 2^11 % 8 * 112 + x.toNat / 2^4 % 128) * 8 + x.toNat % 8
        else x.toNat / 2^11 % 8 * 112 + x.toNat / 2^4 % 128
      (mapclBad x y = true → exec (.mapcl d a b) s = go s 2) ∧
      (mapclBad x y = false → (∀ r ∈ s.net.remaps, r.isCore = core → r.unit ≠ unit) →
        (isSpare s core unit y.toNat = false → exec (.mapcl d a b) s = go s 1) ∧
        (isSpare s core unit y.toNat = true →
          ∃ s' r, exec (.mapcl d a b) s = .next s' ∧ s'.net.remaps = s.net.remaps ++ [r] ∧ r.isCore = core ∧ r.unit = unit ∧
            r.phys = y.toNat ∧ r.asker = some (tid, d) ∧ (s'.task tid).r = t.r)))) ∧
  (∀ (s : State) (tid : Nat) (d a b : BitVec 7), Issuing s tid → Names s tid [d.toNat, a.toNat, b.toNat] →
    let t := s.task tid
    let x := (Reads s tid a.toNat).toNat
    let y := (Reads s tid b.toNat).toNat
    let good := x < 2^10 ∧ x % 2^7 < 112 ∧ y < 2^20 ∧ y / 2^16 ≠ 0 ∧ y % 2^16 ≠ 0
    (good → ∃ v : Word, exec (.capmk d a b) s = .next ((writtenSync s tid d.toNat 4 v).later tid d.toNat 4) ∧ v.toNat % 2^10 = x ∧ v.toNat / 2^10 % 2^16 = y % 2^16 ∧
      v.toNat / 2^26 % 2^4 = y / 2^16 ∧ v.toNat / 2^30 % 2^6 = t.ctx % 64 ∧ v.toNat / 2^36 % 2^4 = (s.ctx t.ctx).capep.toNat ∧
      v.toNat / 2^40 = capMac s v) ∧
    (¬ good → exec (.capmk d a b) s = .next (faulted s tid 4 CAP_ARG 0)))

/-! ### Redundant pairs and the poison check (spec/15) -/

/-- R391, R400, R401, R405: PAIR starts a shadow with a copy of the task's registers on the partner core, the state after it
being checkpoint 0; UNPAIR and CKPT of an unpaired task answer 1 and 0; PCHK answers the poison bits of its words. R402-R405:
in a pair each retired instruction enters the interval's fingerprint with its program counter and what it wrote, and with what
it took from outside is forwarded to the shadow, which executes it too; a sync point closes the open interval and waits; once
the two have agreed on it CKPT reads the pair's status and UNPAIR ends the pair. -/
def Obligations.Pairs : Prop :=
  (∀ (s s1 s2 : State) (tid : Nat) (d a b : BitVec 7) (pl : Place) (bs : List Byte), Issuing s tid →
    Names s tid [d.toNat, a.toNat, b.toNat] → tid < s.nextId →
    let t := s.task tid
    let partner := if t.core % 2 = 0 then t.core + 1 else t.core - 1
    let code := pairCode s tid
    let va := (Reads s tid a.toNat).toNat % 2^52
    let n := (Reads s tid b.toNat).toNat
    (t.handler = false → code = 0 → ∃ s' p x, exec (.pair d) s = .next s' ∧ (s'.task tid).pair = some p ∧ p.leader = true ∧
      p.other = s.nextId ∧ p.ckpt = (s'.task tid).r ∧ p.retired = 0 ∧ (s'.task tid).r = (t.r.write d.toNat 0).skip 4 ∧
      s'.task s.nextId = x ∧ x.shadow = true ∧ x.core = partner ∧ x.phase = .running ∧ x.r = t.r.skip 4) ∧
    (t.handler = false → code ≠ 0 → exec (.pair d) s = .next (writtenSync s tid d.toNat 4 (BitVec.ofNat 64 code))) ∧
    (t.handler = false → exec (.unpair d) s = .next (writtenSync s tid d.toNat 4 1) ∧
      exec (.ckpt d) s = .next (writtenSync s tid d.toNat 4 0)) ∧
    (t.handler = true → ∀ i ∈ [Instr.pair d, .unpair d, .ckpt d], exec i s = .next (faulted s tid 4 HANDLER_OP 0)) ∧
    (8 ≤ n → n ≤ 128 → n % 8 = 0 → va % 8 = 0 → va / 128 = (va + n - 1) / 128 → (Reads s tid a.toNat).toNat / 2^52 % 8 = 0 →
      placeOf s tid va n .rd = .ok (pl, s1) → loadPlace s1 tid pl va n true = .ok (bs, s2) →
      exec (.pchk d a b) s = .next (written s2 tid d.toNat 4 (BitVec.ofNat 64 (poisonMask s2 tid n pl)))) ∧
    (n < 8 ∨ 128 < n ∨ n % 8 ≠ 0 ∨ va % 8 ≠ 0 ∨ va / 128 ≠ (va + n - 1) / 128 →
      exec (.pchk d a b) s = .next (faulted s tid 4 MISALIGN (BitVec.ofNat 64 va)))) ∧
  (∀ (s : State) (tid : Nat) (u : Turn) (p : Pair) (d a b : BitVec 7), s.turn = some u → u.tid = tid →
    (s.task tid).pair = some p → p.leader = true → (s.task tid).shadow = false → p.closed = false →
    p.retired < 256 → p.held.length < 64 → (s.task tid).handler = false →
    Names s tid [d.toNat, a.toNat, b.toNat] → d.toNat < 120 →
    let t := s.task tid
    let v := Reads s tid a.toNat + Reads s tid b.toNat
    let r := (t.r.write d.toNat v).skip 4
    let crc := crcWords p.crc (BitVec.ofNat 64 t.r.pc.toNat :: (u.wrote ++ [v]) ++ u.stored.flatMap fun e => [e.1, e.2])
    (∃ s', exec (.add d a b) s = .next s' ∧ (s'.task tid).r = r ∧ (s'.task tid).pair = some { p with
      retired := p.retired + 1, closed := decide (p.retired + 1 = 256), agreed := false, crc := crc
      fwd := p.fwd ++ [{ insn := u.insn, len := u.len, took := u.took, crc := crc }] }) ∧
    (p.agreed = false → ∀ i ∈ [Instr.ckpt d, .unpair d, .yield, .tend a, .fence 0],
      ∃ s', exec i s = .next s' ∧ (s'.task tid).r = t.r ∧ (s'.task tid).pair = some { p with closed := true }) ∧
    (p.agreed = true →
      (∃ s', exec (.ckpt d) s = .next s' ∧
        (s'.task tid).r = (t.r.write d.toNat (BitVec.ofNat 64 (2^63 + p.rollbacks % 2^16 * 2^32 + p.intervals % 2^32))).skip 4) ∧
      exec (.unpair d) s = .next (writtenSync ((endShadow s tid).modTask tid fun t => { t with pair := none }) tid d.toNat 4 0)))

/-! ### The CSC: faults, register window, fills, waits (spec/02 R51, spec/14 R364-R372) -/

/-- R51, R241, R291, R298, R333, R385: the CSC resumes or kills a halted thread and writes its registers; its firmware ends a fault by its
code, holds FUT_FULL and STRM_SLOT for a report, and kills what it does not serve. A thread that is not halted is not
touched. -/
def Obligations.FaultService : Prop :=
  ∀ (s : State) (tid n i : Nat) (pc : Addr) (c : BitVec 8) (v : Word) (h : Halt), liveTask s tid = true → (s.task tid).pair = none →
    let t := s.task tid
    let cl := t.core / 8
    let set (f : Task → Task) : Host.Outcome State Fault Refusal := .next (s.modTask tid f)
    let ends (ev : Instr) (c : Code) : Prop := exec ev s = .next (killTask s tid c) ∧ ((killTask s tid c).task tid).phase = .killed
    (t.halt = none → exec (.cscResume tid pc) s = .next s ∧ exec (.cscKill tid c) s = .next s ∧
      exec (.cscWindowAccess tid n i true v) s = .next s) ∧
    (t.halt = some h → t.ending = false →
      (∃ s', exec (.cscResume tid pc) s = .next s' ∧ s'.mem = s.mem ∧
        s'.task tid = { t with halt := none, r := { t.r with pc := pc &&& ~~~1 } } ∧ ∀ m ∈ (s'.cluster cl).faults, m.tid ≠ tid) ∧
      ends (.cscKill tid c) c ∧
      exec (.cscWindowAccess tid 0 n false v) s = .next s ∧
      (n ≤ t.limit → exec (.cscWindowAccess tid 0 n true v) s = set fun t => { t with r := t.r.put n v }) ∧
      exec (.cscWindowAccess tid 1 n true v) s = set (fun t => { t with r := { t.r with pc := BitVec.ofNat 52 v.toNat &&& ~~~1 } }) ∧
      exec (.cscWindowAccess tid 2 n true v) s = set (fun t => { t with r := { t.r with fflags := BitVec.ofNat 6 v.toNat } }) ∧
      (v.toNat ≤ 256 → exec (.cscWindowAccess tid 7 n true v) s = set fun t =>
        { t with claim := t.claim.map fun c => { c with vl := v.toNat } }) ∧
      (∀ m, (s.cluster n).faults[i]? = some m → m.tid = tid →
        let ev := Instr.faultMessage n i
        (h.code ∉ [MISALIGN, TRAP, FUT_POISON, FUT_CANCEL, FUT_FULL, STRM_SLOT] → ends ev h.code) ∧
        (h.code = MISALIGN → misOf h.len h.insn = none → ends ev MISALIGN) ∧
        (h.code = TRAP → (s.ctx t.ctx).traptab = 0 → ends ev TRAP) ∧
        (h.code = FUT_CANCEL → exec ev s = .next (cancelHere (dropFault s tid) tid)) ∧
        (h.code = FUT_FULL ∨ h.code = STRM_SLOT → ∃ s', exec ev s = .next s' ∧ (s'.task tid).halt = some { h with held := true } ∧
          (s'.task tid).r = t.r ∧ ∀ m ∈ (s'.cluster cl).faults, m.tid ≠ tid)) ∧
      (h.held = true → h.code = FUT_FULL →
        ∃ s', exec (.futFullReport cl) s = .next s' ∧ (s'.task tid).halt = none ∧ (s'.cluster cl).freed = false) ∧
      (h.held = true → h.code = STRM_SLOT → slotRuns s t.core t.ctx (classRegs t.cls) ≠ [] →
        ∃ s', exec (.strmSlotReport t.core) s = .next s' ∧ (s'.task tid).halt = none) ∧
      (h.held = true → waitOver s tid = true → ends (.waitlimExpiry tid) h.code)) ∧
    (waitOver s tid = false → exec (.waitlimExpiry tid) s = .next s) ∧
    (t.handler = true → t.slot.isSome = true → t.startedAt + 2^20 ≤ s.cycle → ends (.handlerTimeout tid) HANDLER_TIME) ∧
    (s.cycle < t.startedAt + 2^20 → exec (.handlerTimeout tid) s = .next s) ∧
    (t.slot.isSome = true → ends (.threadError tid) ECC_UNCORR) ∧
    (∀ x p, t.waitUntil = some (x, p) →
      let ct := s.time (t.core / 896)
      (∀ d : BitVec 7, p.what = .waitt d → p.pops = [] → x.toNat ≤ ct.toNat → Names1 s tid d.toNat → Unrecorded s tid →
        ∃ s', exec (.waittExpiry tid) s = .next s' ∧ s'.mem = s.mem ∧ (s'.task tid).waitUntil = none ∧
          (s'.task tid).r = (t.r.write d.toNat ct).skip p.len) ∧
      (ct.toNat < x.toNat → exec (.waittExpiry tid) s = .next s)) ∧
    (∀ x, t.lockRetry = some x →
      (x ≤ s.cycle → exec (.ldlkRetry tid) s = set fun t => { t with lockRetry := none }) ∧
      (s.cycle < x → exec (.ldlkRetry tid) s = .next s)) ∧
    (t.phase = .parked → exec (.frameMove tid n) s = set fun t => { t with rfbase := n })

/-- R2, R79, R82, R166, R321, R378, R387: a register written outside an instruction takes the value its write rule gives, as
CSRW's write does; a privileged number is written for a firmware context only. R368, R371, R372, R443: a fill's walk puts a
present leaf in the cluster's TLB, or answers PAGE_ABSENT, with which its accesses fault; the hub's fills the same. Settling a
page future resolves or poisons it, and a present page gets its leaf. -/
def Obligations.RegisterAndFillEvents : Prop :=
  (∀ (s : State) (tid : Nat) (v : Word), liveTask s tid = true →
    let t := s.task tid
    let regs (f : Regs → Regs) : Host.Outcome State Fault Refusal := .next (s.modTask tid fun t => { t with r := f t.r })
    let ctxs (f : Ctx → Ctx) : Host.Outcome State Fault Refusal := .next (s.modCtx t.ctx f)
    exec (.srseedWrite tid v) s = regs (fun r => { r with srseed := srNZ (BitVec.ofNat 32 v.toNat) }) ∧
    (1 ≤ v.toNat % 8 → v.toNat % 8 ≤ 5 → exec (.frmWrite tid v) s = regs fun r => { r with frm := BitVec.ofNat 3 v.toNat }) ∧
    (v.toNat % 8 = 0 ∨ 5 < v.toNat % 8 → exec (.frmWrite tid v) s = .next s) ∧
    exec (.eselWrite tid v) s = .next (s.modTask tid fun t =>
      { t with r := { t.r with esel := BitVec.ofNat 2 v.toNat }, epWords := [] }) ∧
    exec (.evrdWrite tid v) s = ctxs (fun c => { c with evrd := if c.evidx.toNat < v.toNat then c.evidx else v }) ∧
    exec (.evfutWrite tid v) s = ctxs (fun c => { c with evfut := v }) ∧
    exec (.trtWrite tid v) s = .next (s.modCluster (t.core / 8) fun c =>
      { c with trt := mput 0xFFFFFFFFFFFFFFFF c.trt t.ctx v }) ∧
    exec (.csrWrite tid 0x010 v) s = regs (fun r => { r with fflags := BitVec.ofNat 6 v.toNat }) ∧
    exec (.csrWrite tid 0x013 v) s = regs (fun r => { r with orhint := BitVec.ofNat 32 v.toNat }) ∧
    exec (.csrWrite tid 0x002 v) s = .next s ∧
    (isFirmware s tid = true → exec (.csrWrite tid 0x050 v) s = regs fun r => { r with tvec := BitVec.ofNat 64 (v.toNat / 2 * 2) }) ∧
    (isFirmware s tid = false → exec (.csrWrite tid 0x050 v) s = .next s)) ∧
  (∀ (s : State) (cl i : Nat) (f : Fill) (t : Tlb) (code : BitVec 8) (word : Word) (p : PageFut) (h : Word),
    ((s.cluster cl).fills[i]? = some f → clusterMoving s cl = false → cl < 896 →
      (f.walked = false → walkLeaf s (cl / 112) f.asid f.vpn = some t →
        ∃ s', exec (.tlbFillRequest cl i) s = .next s' ∧ s'.mem = s.mem ∧ (s'.cluster cl).tlb.head? = some t ∧
          (s'.cluster cl).fills = lset (s.cluster cl).fills i { f with walked := true }) ∧
      (f.walked = false → walkLeaf s (cl / 112) f.asid f.vpn = none →
        exec (.tlbFillRequest cl i) s = .next (s.modCluster cl fun c =>
          { c with fills := lset c.fills i { f with walked := true, reply := PAGE_ABSENT.toNat } })) ∧
      (f.walked = true → f.reply = 0 →
        exec (.tlbFillReply cl i) s = .next (s.modCluster cl fun c => { c with fills := ldel c.fills i })) ∧
      (f.walked = true → f.reply ≠ 0 → f.xfers = [] → ∀ tid d, f.threads = [(tid, d)] → liveTask s tid = true →
        (s.task tid).halt = none → (s.task tid).slot.isSome = true → isFrozen s tid = false →
        ∃ s', exec (.tlbFillReply cl i) s = .next s' ∧ (s'.task tid).halt = some { d with code := BitVec.ofNat 8 f.reply } ∧
          (s'.task tid).r = (s.task tid).r)) ∧
    (s.hub.fills[i]? = some f → f.walked = false →
      (walkLeaf s (hubCl s / 112) f.asid f.vpn = some t → ∃ s' rest, exec (.hubTlbFill i) s = .next s' ∧ s'.hub.tlb = t :: rest ∧ rest.length ≤ 511 ∧
        s'.hub.fills = ldel s.hub.fills i ∧ ∀ x ∈ rest, x.overlaps t.asid t.base (2^pageBits t.word) = false) ∧
      (walkLeaf s (hubCl s / 112) f.asid f.vpn = none → exec (.hubTlbFill i) s = .next (s.modHub fun x =>
        { x with fills := lset x.fills i { f with walked := true, reply := PAGE_ABSENT.toNat } }))) ∧
    ((s.cluster cl).pageFuts[i]? = some p →
      (p.h = none → exec (.pageFutureSettle cl i code word) s = .next s) ∧
      (p.h = some h →
        (code = 0 → word.toNat / 2^63 = 0 → exec (.pageFutureSettle cl i code word) s = .next s) ∧
        (code = 0 → word.toNat / 2^63 = 1 → tlbOk (pageTag s p.ctx p.vpn) word = true → (mfind s.ctxs p.ctx).isSome = true →
          ∃ s', exec (.pageFutureSettle cl i code word) s = .next s' ∧ s'.mem = s.mem ∧
            (s'.ctx p.ctx).pages.head? = some { tag := pageTag s p.ctx p.vpn, word := word }) ∧
        (code ≠ 0 → p.threads = [] → p.xfers = [] → p.hub = false → exec (.pageFutureSettle cl i code word) s =
          .next (settlePage (s.modCluster cl fun c => { c with pageFuts := ldel c.pageFuts i }) h code)))))

/-! ### Scheduling, launches' ends and futures (spec/01, spec/11) -/

/-- R276, R277, R280, R287-R300, R317, R323: what the schedulers and future tables do next. A core hands the bottommost entry
it may take to a slot; an idle one asks a victim of the innermost level; a victim gives a whole task or a range's upper part;
a full table spills; an operation from another cluster is performed and answered; a settled future's waiters are woken in
turn, one in a cycle. R289, R299, R300: a task that parked at a touch goes on when its future has settled: its register and
FSTS get the outcome, it is READY at the bottom of its core's deque, and no future holds a waiter of it. -/
def Obligations.SchedulingEvents : Prop :=
  (∀ (s : State) (k cl i tid pos : Nat),
    (unitSilent s k = false → (s.core k).dead = false → (s.core k).handed ≤ s.cycle →
      (∀ t, (dispatchList (s.core k)).find? (mayTake s k) = some (.task t) → (s.task t).pair = none → (s.task t).claim = none →
        ∃ s', exec (.taskDispatch k) s = .next s' ∧ (s'.task t).phase = .running ∧ (s'.task t).core = k ∧ (s'.task t).frame = true ∧
          (s'.task t).r = (s.task t).r ∧ ∃ n, (s'.task t).slot = some n ∧ mfind (s'.core k).slots n = some t) ∧
      ((dispatchList (s.core k)).find? (mayTake s k) = none → exec (.taskDispatch k) s = .next s)) ∧
    (isLarge s k tid = true → exec (.waitingLargeTask k tid) s = .next (s.modCore k fun c => { c with large := some tid })) ∧
    (isLarge s k tid = false → exec (.waitingLargeTask k tid) s = .next s) ∧
    (k / 8 = cl → prefetchable s k pos = true → ∀ e, (dispatchList (s.core k))[pos]? = some e →
      exec (.prefetchStart cl k pos) s = .next (readList s k e) ∧
      ∀ t, e = .task t → ∀ ctx l va who h es s', listOf s e = some (ctx, l, va, who) → tileList s cl ctx va l who = .ok (h, es) s' →
        liveTask s' t = true →
        (∀ c, listBad s' k ctx h es = some c → ∃ o, exec (.prefetchStart cl k pos) s = .next o ∧ (o.task t).phase = .killed) ∧
        (listBad s' k ctx h es = none → (heldExtents s' k).any (fun a => (es.map extentOf).any (extentsMeet a)) = true →
          exec (.prefetchStart cl k pos) s = .next s') ∧
        (listBad s' k ctx h es = none → (heldExtents s' k).any (fun a => (es.map extentOf).any (extentsMeet a)) = false →
          ∃ o, exec (.prefetchStart cl k pos) s = .next o ∧ (o.task t).phase = .prefetching ∧
            (o.task t).extents = es.map extentOf)) ∧
    (k / 8 = cl → prefetchable s k pos = false → exec (.prefetchStart cl k pos) s = .next s) ∧
    (maySweep s k = true → ∃ s', exec (.stealSweep k) s = .next s' ∧
      (((s'.core k).stealOut = true ∧ (s'.core k).victimPos = (s.core k).victimPos + 1 ∧
          ∃ x, s'.net.steals = s.net.steals ++ [x] ∧ x.thief = k ∧ x.answered = false ∧ (stealTop s k x.victim x.ctx).isSome = true) ∨
        (s'.net.steals = s.net.steals ∧ (s'.core k).backoff = min (2 * (s.core k).backoff) 16384))) ∧
    (maySweep s k = false → exec (.stealSweep k) s = .next s) ∧
    (∀ x, s.net.steals[i]? = some x →
      (x.answered = false → x.retry = false → (s.core x.victim).dead = false → underRemap s x.victim = false →
        unitSilent s x.victim = false → ∀ e, ((s.core x.victim).entries.reverse.find? fun e =>
          stealable s x.thief x.victim x.ctx e && stealRecorded s x.thief x.victim e) = some e →
        exec (.stealRequest i) s = .next (setSteal (s.modCore x.victim fun c =>
          c.filterEntries fun y => if y = e then leftPart e else some y) i fun x =>
            { x with answered := true, got := some (stolenPart e),
                     mark := if x.thief / 896 = x.victim / 896 then none else some (s.die (x.victim / 896)).accepted })) ∧
      (x.answered = true → underRemap s x.thief = false → stealWaits s x = false →
        let back := (s.modNet fun n => { n with steals := ldel n.steals i }).modCore x.thief fun c =>
          { c with stealOut := false, stealAt := s.cycle }
        (x.got = none → exec (.stealAnswer i) s = .next back) ∧
        (∀ e, x.got = some e → (s.core x.thief).dead = false → (s.core x.thief).deque.length < 256 →
          (∃ l y, entryLaunch s e = some l ∧ launchOf s l = some y ∧ landOk s x.thief y = true) →
          ∃ s', exec (.stealAnswer i) s = .next s' ∧ s'.mem = s.mem ∧ s'.net.steals = ldel s.net.steals i ∧
            (s'.core x.thief).deque = e :: (s.core x.thief).deque ∧ (s'.core x.thief).stealOut = false ∧
            (s'.core x.thief).stealCount = (s.core x.thief).stealCount + 1 ∧
            ∀ t, e = .task t → s'.task t = { s.task t with core := x.thief }) ∧
        (∀ t, x.got = some (.task t) → (s.core x.thief).dead = true → (s.core x.victim).dead = false →
          (s.core x.victim).deque.length < 256 → (s.core x.victim).overflow = [] → x.thief ≠ x.victim →
          ∃ s', exec (.stealAnswer i) s = .next s' ∧ (s'.core x.victim).deque = (s.core x.victim).deque ++ [.task t] ∧
            s'.task t = s.task t)) ∧
      (x.answered = false → exec (.stealAnswer i) s = .next s)) ∧
    (∀ f, maySpill s cl = true → spillChoice s cl = some f → exec (.futureSpill cl) s = .next (s.modCluster cl fun c =>
      { c with futs := merase c.futs f.idx, spilled := c.spilled ++ [f], freed := true })) ∧
    (∀ m, s.net.futReqs[i]? = some m → m.retry = false →
      (clusterMoving s (hCl m.h) = true → exec (.futureRequest i) s =
        .next (s.modNet fun n => { n with futReqs := lset n.futReqs i { m with retry := true } })) ∧
      (clusterMoving s (hCl m.h) = false → opAllowed s (fopAt s (hCl m.h) m).1 = true → isFrel m.op = false →
        exec (.futureRequest i) s = .next ((fopAt s (hCl m.h) m).2.modNet fun n =>
          { n with futReqs := ldel n.futReqs i, futReps := n.futReps ++ [(fopAt s (hCl m.h) m).1] }))) ∧
    (∀ m, s.net.futReps[i]? = some m → unitSilent s (s.task m.tid).core = false →
      ((s.task m.tid).ask = none → exec (.futureReply i) s =
        let s' := s.modNet fun n => { n with futReps := ldel n.futReps i }
        .next (if m.view.out = 4 ∧ isLocal s m.h = true then unrecord s' m.cl m.h else s')) ∧
      (∀ p d, (s.task m.tid).ask = some p → liveTask s m.tid = true → m.h ∈ p.hs → p.pops = [] → (s.task m.tid).pair = none →
        Unrecorded s m.tid → Names1 s m.tid (BitVec.toNat (w := 7) d) → ∃ s', exec (.futureReply i) s = .next s' ∧
        (p.what = .touchp d → m.view.out.toNat ≤ 4 → s'.mem = s.mem ∧ s'.net.futReps = ldel s.net.futReps i ∧
          (s'.task m.tid).ask = none ∧ (s'.task m.tid).phase = (s.task m.tid).phase ∧
          let c := if m.view.out = 1 then m.view.code else 0
          let fl := if m.view.out = 0 then (s.task m.tid).r.fflags ||| m.view.flags else (s.task m.tid).r.fflags
          let v := if m.view.out = 0 then m.view.value else statusWord m.view.out.toNat c
          (s'.task m.tid).r = ({ (s.task m.tid).r with fflags := fl, fstsOut := m.view.out, fstsCode := c }.write d.toNat v).skip p.len) ∧
        (p.what = .touch d false → m.view.out = 4 → cannotPark s m.tid = false → (s.task m.tid).phase = .running →
          (s'.task m.tid).park = some p ∧ (s'.task m.tid).ask = none ∧
          (s'.cluster m.cl).remoteWaits = (s.cluster m.cl).remoteWaits ++ [(m.h, m.tid)]))) ∧
    (∀ m, s.net.wakeMsgs[i]? = some m → m.cl < 1024 → clusterMoving s m.cl = false →
      (∀ r ∈ s.net.futReps, r.cl = m.cl → r.h = m.h → r.view.out ≠ 4) →
      ∃ s', exec (.wakeMessage i) s = .next s' ∧ s'.net.wakeMsgs = ldel s.net.wakeMsgs i ∧
        (s'.cluster m.cl).wakes = (s.cluster m.cl).wakes ++ ((s.cluster m.cl).remoteWaits.filter fun w => w.1 = m.h).map fun w =>
          { tid := w.2, h := m.h, view := m.view }) ∧
    (∀ w rest, (s.cluster cl).wakes = w :: rest → (clusterMoving s cl = true ∨ s.cycle < (s.cluster cl).wakeAt →
        exec (.waiterWake cl) s = .next s) ∧
      (clusterMoving s cl = false → (s.cluster cl).wakeAt ≤ s.cycle → (s.task w.tid).park = none →
        exec (.waiterWake cl) s = .next (s.modCluster cl fun c => { c with wakes := rest, wakeAt := s.cycle + 1 })))) ∧
  (∀ (s : State) (cl : Nat) (w : Wake) (rest : List Wake) (p : Park) (d : BitVec 7), (s.cluster cl).wakes = w :: rest →
    clusterMoving s cl = false → (s.cluster cl).wakeAt ≤ s.cycle → liveTask s w.tid = true → (s.task w.tid).park = some p → p.what = .touch d false → w.h ∈ p.hs →
    (s.task w.tid).phase = .parked → (s.task w.tid).pair = none → Names1 s w.tid d.toNat →
    (s.task w.tid).core / 8 = cl → (s.task w.tid).halt = none → p.pops = [] →
    (s.core (s.task w.tid).core).deque.length < 256 →
    ∃ s', exec (.waiterWake cl) s = .next s' ∧ (s'.cluster cl).wakeAt = s.cycle + 1 ∧
      (w.view.out = 0 → (s'.task w.tid).r = ({ (s.task w.tid).r with
        fflags := (s.task w.tid).r.fflags ||| w.view.flags, fstsOut := 0, fstsCode := 0 }.write d.toNat w.view.value).skip p.len) ∧
      (s'.task w.tid).phase = .ready ∧ (s'.task w.tid).park = none ∧
      (s'.core (s.task w.tid).core).deque.head? = some (.task w.tid) ∧
      ∀ e ∈ s'.clusters, ∀ f ∈ e.2.futs, w.tid ∉ f.2.waiters)

/-- R19, R20, R357-R361: a sweep passes the counts and the idleness of its clusters up the tree to the package, which reports a launch
complete after two sweeps in a row that find it idle with no count changed and its stores gone; it retires with its
completion record once they have performed and its own record's writes are done, and not while the command processors restart. One
that runs past its timeout is abandoned; a replay diverges where something happened that its record lacks, or did not within 10 ms. -/
def Obligations.LaunchEnds : Prop :=
  ∀ (s : State) (l : Nat) (x : Launch), launchOf s l = some x →
    (let go := x.st = .running ∧ x.complete = false
     let t := sweepTree s l x
     let node (i : Nat) : Sweep := mget {} t i
     (go → ∃ s', exec (.terminationSweep l) s = .next s' ∧ s'.mem = s.mem ∧ s'.tasks = s.tasks ∧
       ∃ y, launchOf s' l = some y ∧ y.tree = t ∧ y.st = .running ∧
         (y.complete = true ↔ (node 0).runs = 2 ∧ launchIdle s l x = true ∧ launchDrained s l = true) ∧
         (y.complete = true → y.marks = s.dies.map fun e => (e.1, e.2.accepted))) ∧
     (∀ cl ∈ usedClusters s, node (9 + cl) = (mget {} x.tree (9 + cl)).next (clusterIdle s l x cl) (clusterCount s l cl)) ∧
     ((node 0).runs = 2 → x.rootEnd.isSome = true ∧ (∀ d < 8, (node (1 + d)).runs = 2) ∧
       (mget {} x.tree 0).count = (node 0).count) ∧
     (¬go → exec (.terminationSweep l) s = .next s)) ∧
    (x.st = .running → x.complete = true → launchIdle s l x = true → launchReleased s x = true → tracesCopied s l = true → x.w 11 = 0 →
      recMode s (some l) ≠ 1 → s.hub.restart = false → retiresAfter s x = false → strays s l x = false → (∀ y ∈ s.net.csc, y.ofLaunch l = false) →
      ∃ s', exec (.launchRetirement l) s = .next s' ∧ (∀ y, mfind s'.launches l = some y → y.st = .retired) ∧
        ∀ q, mfind s'.queues x.queue = some q → l ∉ q.live) ∧
    (x.st = .running → x.complete = false → exec (.launchRetirement l) s = .next s) ∧
    (s.hub.restart = true → exec (.launchRetirement l) s = .next s) ∧
    (let us := (x.w 12).toNat / 2^32
     (us ≠ 0 → x.st ≠ .retired → x.abandon = none → x.readAt + nsCycles (1000 * us) ≤ s.cycle →
       ∃ s', exec (.launchTimeout l) s = .next s' ∧ ∃ y, mfind s'.launches l = some y ∧ y.abandon = some 5) ∧
     (us = 0 ∨ s.cycle < x.readAt + nsCycles (1000 * us) → exec (.launchTimeout l) s = .next s)) ∧
    (recMode s (some l) ≠ 2 → exec (.replayStallTimeout l) s = .next s) ∧
    (recMode s (some l) = 2 → x.st = .running → x.strayed = none → stalledTask s l x true = none →
      (replayPaused s x = true → exec (.replayStallTimeout l) s = .next s) ∧
      (replayPaused s x = false → recOpen s 0 x = true → stalledTask s l x false = none →
        (stalledUnit s l x = none → exec (.replayStallTimeout l) s = .next s) ∧
        (∀ e, stalledUnit s l x = some e → exec (.replayStallTimeout l) s = .next (divergeAt s l e)))) ∧
    (recMode s (some l) = 2 → x.st = .running → ∀ e, x.strayed = some e → exec (.replayStallTimeout l) s = .next (divergeAt s l e)) ∧
    (∀ key, s.cycle < x.recAt + nsCycles 10000000 → overdue s x key = false)

/-! ### Engines, FIFOs and ports (spec/07, spec/09, spec/10) -/

/-- R148-R167, R173, R174: the job an MXE runs next starts and does its work, waits, or ends with a code; a completed job's element goes to
its future or its thread; an MMA, LOAD and ZERO change no element outside their region, and a ZERO makes its region zero. A
command's capability decides; two swaps of one TAG meet. -/
def Obligations.MatrixEvents : Prop :=
  ∀ (s : State) (cl i : Nat) (x y : Job),
    (mxNext s cl = some x → x.result = none → mayStart s cl x = true →
      let s0 := startJob s cl x
      ((s0.cluster cl).jobs.find? fun z => z.id = x.id) = some y →
      let does (ev : Instr) (op : Nat) (work : State → Job → Eng State) : Prop := mxOp x.w0 = op →
        (mxDescOk (s0.tile cl (mxTile y.w0)).ty y.w0 y.w1 y.w2 y.w3 = false → exec ev s = .next (jobOver s0 cl x.id MX_DESC.toNat 0)) ∧
        (mxDescOk (s0.tile cl (mxTile y.w0)).ty y.w0 y.w1 y.w2 y.w3 = true →
          (∀ a b, work s0 y = .ok a b → exec ev s = .next (a.modJob cl x.id fun z => { z with why := none })) ∧
          (∀ a c, work s0 y = .wait a c → exec ev s = .next (a.modJob cl x.id fun z => { z with why := some c })) ∧
          (∀ c, work s0 y = .bad c → exec ev s = .next (jobOver s0 cl x.id c.toNat 0)))
      does (.mxeMma cl x.id) 0 (mmaWork cl) ∧ does (.mxeLoad cl x.id) 1 (loadWork cl) ∧
      does (.mxeStore cl x.id) 2 (storeWork cl) ∧
      (mxOp x.w0 = 3 → mxDescOk (s0.tile cl (mxTile y.w0)).ty y.w0 y.w1 y.w2 y.w3 = false →
        exec (.mxeZero cl x.id) s = .next (jobOver s0 cl x.id MX_DESC.toNat 0)) ∧
      (mxOp x.w0 = 3 → mxDescOk (s0.tile cl (mxTile y.w0)).ty y.w0 y.w1 y.w2 y.w3 = true →
        ∀ a b, zeroWork cl s0 y = .ok a b →
          exec (.mxeZero cl x.id) s = .next (a.modJob cl x.id fun z => { z with why := none }))) ∧
    (mxNext s cl = some x → mayStart s cl x = false → ∀ n, exec (.mxeMma cl n) s = .next s ∧ exec (.mxeLoad cl n) s = .next s ∧
      exec (.mxeStore cl n) s = .next s ∧ exec (.mxeZero cl n) s = .next s) ∧
    (mxNext s cl = none → ∀ n, exec (.mxeMma cl n) s = .next s ∧ exec (.mxeLoad cl n) s = .next s ∧
      exec (.mxeStore cl n) s = .next s ∧ exec (.mxeZero cl n) s = .next s) ∧
    (mxCol0 x.w0 + mxN x.w0 ≤ 128 → ∀ r c, c < 128 →
      let inside := mxRow0 x.w0 ≤ r ∧ r < mxRow0 x.w0 + mxM x.w0 ∧ mxCol0 x.w0 ≤ c ∧ c < mxCol0 x.w0 + mxN x.w0
      (¬ inside → ∀ as bs rows (t : Tile) fl bad seed, mrising t.e = true →
        ((region2 x.w0).foldl (mmaAt x.w0 x.w1 x.w2 as bs) (t, fl, bad)).1.el r c = t.el r c ∧
        ((region2 x.w0).foldl (loadAt x rows) ((t, fl, bad), seed)).1.1.el r c = t.el r c) ∧
      (mrising (s.tile cl (mxTile x.w0)).e = true → ∃ s', zeroWork cl s x = .ok s' s ∧
        (s'.tile cl (mxTile x.w0)).el r c = if inside then 0 else (s.tile cl (mxTile x.w0)).el r c)) ∧
    (∀ n e, ((s.cluster cl).jobs.find? fun z => z.id = n) = some x → x.result = some e →
      engPending s cl n = false →
      exec (.mxeJobComplete cl n) s = .next (postElem (s.modCluster cl fun c =>
        { c with jobs := c.jobs.filter (fun z => z.id ≠ n), mxFree := s.cycle }) x e) ∧
      (∀ t, x.sink = .ep t → liveTask s t = true → ∃ s', exec (.mxeJobComplete cl n) s = .next s' ∧
        (s'.task t).mxDone = (s.task t).mxDone ++ [e])) ∧
    (∀ n, ((s.cluster cl).jobs.find? fun z => z.id = n) = some x → x.result = none ∨ engPending s cl n = true →
      exec (.mxeJobComplete cl n) s = .next s) ∧
    (∀ m, s.net.caps[i]? = some m → m.retry = false → clusterMoving s (capCl m.cap) = false →
      let s0 := s.modNet fun n => { n with caps := ldel n.caps i }
      let ctx := m.cap.toNat / 2^30 % 64
      let refused (c : Code) : Host.Outcome State Fault Refusal := .next (capRefuse s0 m.job c)
      (capOk s0 m.cap m.job.w0 = false → exec (.mxsubcCommand i) s = refused CAP_DENIED) ∧
      (capOk s0 m.cap m.job.w0 = true → (s0.tile (capCl m.cap) (mxTile m.job.w0)).owner ≠ some ctx →
        exec (.mxsubcCommand i) s = refused MX_TILE) ∧
      (capOk s0 m.cap m.job.w0 = true → (s0.tile (capCl m.cap) (mxTile m.job.w0)).owner = some ctx →
        4 * tilesOwned s0 (capCl m.cap) ctx ≤ jobsOf s0 (capCl m.cap) ctx → exec (.mxsubcCommand i) s = refused MX_QUOTA) ∧
      (capOk s0 m.cap m.job.w0 = true → (s0.tile (capCl m.cap) (mxTile m.job.w0)).owner = some ctx →
        mxRoom s0 (capCl m.cap) ctx = true → mxTurn s0 (capCl m.cap) m.job.launch 0 = true →
        exec (.mxsubcCommand i) s = .next (mxAccept s0 (capCl m.cap) { m.job with ctx := ctx } 0))) ∧
    (∀ k a, (s.core k).swaps[i]? = some a → unitSilent s k = false → unitSilent s (mirrorOf k) = false →
      (swapMate s a = none → exec (.tswapMatch k i) s = .next s) ∧
      (∀ b, swapMate s a = some b →
        let out (c : Code) : State := (swapSides a b).foldl (fun s z => poisonH s z.fut c) (dropSwaps s [a, b])
        let pair := (blockOf s a).bind fun x s => (blockOf s b).bind fun y s => .ok (x, y) s
        (a.d ≠ b.d → exec (.tswapMatch k i) s = .next (out SWAP_MISMATCH)) ∧
        (a.d = b.d →
          (∀ x y s', pair = .ok (x, y) s' → exec (.tswapMatch k i) s = .next ((dropSwaps s' [a, b]).modNet fun n =>
            { n with landings := n.landings ++ [if a.id = b.id then [landingOf a a x] else [landingOf a b y, landingOf b a x]] })) ∧
          (∀ s' c, pair = .wait s' c → exec (.tswapMatch k i) s = .next s') ∧
          (∀ c, pair = .bad c → exec (.tswapMatch k i) s = .next (out c))))) ∧
    (∀ xs, s.net.landings[i]? = some xs →
      let r := landBlocks xs s
      let whole := ∀ z ∈ r.1, z.over r.2 = true ∧ engPending r.2 (z.core / 8) z.id = false
      (whole → ∀ a b, r.1 = [a, b] → a.code = 0 → b.code = 0 → exec (.tswapComplete i) s = .next
        (swapResolve (swapResolve (r.2.modNet fun n => { n with landings := ldel n.landings i }) a.fut) b.fut)) ∧
      (whole → ∀ a, r.1 = [a] → exec (.tswapComplete i) s = .next
        (landedFut (r.2.modNet fun n => { n with landings := ldel n.landings i }) a)) ∧
      (¬ whole → exec (.tswapComplete i) s = .next (r.2.modNet fun n => { n with landings := lset n.landings i r.1 }))) ∧
    (s.net.landings[i]? = none → exec (.tswapComplete i) s = .next s)

/-- R214, R219, R220, R229, R256, R266-R271, R394: pieces of transfers move and count; a store leaves its FIFO in order, for its die's
order, its own core's port or another's, whose acknowledgement it gets; a port's trace is copied entry by entry. -/
def Obligations.StoreAndTransferEvents : Prop :=
  ∀ (s : State) (cl k i tid : Nat),
    (∀ x n, ((s.cluster cl).xfers.find? fun y => y.id = n) = some x →
      (mayPiece s cl x = false → exec (.xfePiece cl n) s = .next s) ∧
      (mayPiece s cl x = true → x.prefetches = false →
        let late := if x.begun then x.late else x.isLate s cl
        (∀ a s1, movePiece s cl x = .ok a s1 → exec (.xfePiece cl n) s =
          .next (s1.modXfer cl x.id fun y => { y.stepped x.piece with begun := true, late := late })) ∧
        (∀ s1 c, movePiece s cl x = .wait s1 c → exec (.xfePiece cl n) s =
          .next (s1.modXfer cl x.id fun y => { y with why := some c, begun := true, late := late })) ∧
        (∀ c, movePiece s cl x = .bad c →
          exec (.xfePiece cl n) s = .next (s.modXfer cl x.id fun y => { y with status := c.toNat, why := none }))) ∧
      (mayEnd s cl x = false → exec (.transferComplete cl n) s = .next s) ∧
      (mayEnd s cl x = true → exec (.transferComplete cl n) s =
        .next (postXfer (s.modCluster cl fun c => { c with xfers := c.xfers.filter fun y => y.id ≠ n }) x)) ∧
      (mayEnd s cl x = true → ∀ t, x.sink = .ep t → liveTask s t = true → ∃ s', exec (.transferComplete cl n) s = .next s' ∧
        (s'.task t).xfDone = (s.task t).xfDone ++ [xferElem x])) ∧
    (∀ t, mfind s.tasks tid = some t →
      (t.fifo = [] → exec (.storeFifoDrain tid) s = .next s) ∧
      (∀ x rest, t.fifo = x :: rest → x.rel = none →
        (∀ o, x.dest = .win k o → t.unacked.contains (k, o / 128) = true → exec (.storeFifoDrain tid) s = .next s) ∧
        (∀ o, x.dest = .win k o → t.unacked.contains (k, o / 128) = false → k = t.core →
          portRefuses s k 0 x.bytes.length k o = false →
          ∃ s', exec (.storeFifoDrain tid) s = .next s' ∧ (s'.task tid).fifo = rest ∧ s'.mem = s.mem ∧
            (s'.core k).ua = ((uaWrite s k t.ctx o x.bytes).core k).ua) ∧
        (∀ o, x.dest = .win k o → t.unacked.contains (k, o / 128) = false → k ≠ t.core →
          ∃ s', exec (.storeFifoDrain tid) s = .next s' ∧ (s'.task tid).fifo = rest ∧
            (s'.task tid).unacked = t.unacked ++ [(k, o / 128)] ∧
            s'.net.ports = s.net.ports ++ [{ core := k, off := o, bytes := x.bytes, kind := 0, src := t.core, ctx := t.ctx, tid := some tid }]) ∧
        (∀ a, x.dest = .mem a → deadPlace s a = false → ubNew s (lineOf a) = false ∨ (s.tok (lineOf a) (t.core / 896)).mayWrite = true →
          ∃ s', exec (.storeFifoDrain tid) s = .next s' ∧ (s'.task tid).fifo = rest ∧
            (s'.die (t.core / 896)).accepted = (s.die (t.core / 896)).accepted + 1) ∧
        (∀ a, x.dest = .mem a → deadPlace s a = true →
          ∃ s', exec (.storeFifoDrain tid) s = .next s' ∧ (s'.task tid).fifo = rest ∧ s'.mem = s.mem ∧ (s'.task tid).r = t.r ∧
            (liveTask s tid = true → t.halt = none → ((s'.task tid).halt <|> (s'.task tid).pend).map (·.code) = some DEAD)) ∧
        (∀ a, x.dest = .door a → exec (.storeFifoDrain tid) s =
          .next (doorStore (s.modTask tid fun t => { t with fifo := rest, headMark := none }) a (w64 (leVal x.bytes)))))) ∧
    (∀ m, s.net.ports[i]? = some m → m.retry = false →
      ((s.core m.core).dead = false → silentTo s m.core (m.src / 8) = true → underRemap s m.core = true → exec (.portAccessArrival i) s =
        .next (s.modNet fun n => { n with ports := lset n.ports i { m with retry := true } })) ∧
      ((s.core m.core).dead = false → silentTo s m.core (m.src / 8) = false →
        portRefuses s m.core m.kind m.bytes.length m.src m.off = false → ∀ t, m.tid = some t →
        ∃ s', exec (.portAccessArrival i) s = .next s' ∧ s'.net.ports = ldel s.net.ports i ∧
          s'.net.acks = s.net.acks ++ [(t, m.core, m.off / 128)] ∧
          (s'.core m.core).ua = ((uaWrite s m.core m.ctx m.off m.bytes).core m.core).ua) ∧
      ((s.core m.core).dead = true → m.tid = none →
        exec (.portAccessArrival i) s = .next (s.modNet fun n => { n with ports := ldel n.ports i }))) ∧
    (∀ t o b, s.net.acks[i]? = some (t, o, b) → (mfind s.tasks t).isSome = true →
      exec (.portReply i) s = .next ((s.modNet fun n => { n with acks := ldel n.acks i }).modTask t fun x =>
        { x with unacked := x.unacked.erase (o, b) })) ∧
    ((s.core k).traceIdx ≤ (s.core k).traceCopied → exec (.portTraceCopy k) s = .next s) ∧
    ((s.core k).traceCopied < (s.core k).traceIdx → ∃ s', exec (.portTraceCopy k) s = .next s' ∧ s'.mem = s.mem ∧ s'.tasks = s.tasks ∧
      s'.core k = { s.core k with traceCopied := (s.core k).traceCopied + 1 } ∧
      s'.net.csc.length = s.net.csc.length + (recordedOn s k).length)

/-! ### Coherence and the fabric (spec/08) -/

/-- R188, R190-R211: the protocol's messages. Tokens sent leave their agent and arrive where they go; an attempt that times out is made
again and at last made persistent; an entry's ACT and DEACT reach every agent and are remembered there until both have; a line
evicted goes home; a link replays four times and then fails; a lost die's census ends its loss. -/
def Obligations.CoherenceEvents : Prop :=
  ∀ (s : State) (i l agent src dst link die name : Nat) (t : Tok) (k : Req),
    let msg := s.coh.msgs[i]?
    let gone := takeCoh s i
    (t ≠ {} → homeAgent s l ≠ src → mrising (s.line l).held = true → ∃ s', sendTok s l src dst t = s' ∧ s'.tok l src = (s.tok l src).sub t ∧
      s'.coh.msgs = s.coh.msgs ++ [.tokens l dst t (s.line l).tser none] ∧ s'.mem = s.mem) ∧
    (msg = some (.request k l agent name) ∨ msg = some (.persist k l agent name) → censusDue s = true →
      exec (.transientRequest i) s = .next s ∧ exec (.persistentRequest i) s = .next s) ∧
    (∀ a, msg = some (.request k l agent a) ∨ msg = some (.persist k l agent a) → censusDue s = false →
      let asks (s' : State) : Prop := (msg = some (.request k l agent a) → exec (.transientRequest i) s = .next s') ∧
        (msg = some (.persist k l agent a) → exec (.persistentRequest i) s = .next s')
      (∀ n, homeNeeds s k l agent = some n → asks (askHost s n l 24)) ∧
      (∀ lf, homeNeeds s k l agent = none → frameWaits s l = some lf → asks (s.askHome .gets lf))) ∧
    (∀ a, msg = some (.request k l agent a) → censusDue s = false → homeNeeds s k l agent = none → frameWaits s l = none →
      exec (.transientRequest i) s = .next (pushCoh (homeAnswer gone k l agent a) ((forwardTo gone l agent a).map fun b => .forward k l agent b))) ∧
    (msg = some (.forward k l agent dst) → dst ≠ 24 → isLost s dst = false →
      exec (.requestForward i) s = .next (sendTok gone l dst agent (if collecting s l dst then {} else tokAnswer (s.tok l dst) k false))) ∧
    (∀ n u, msg = some (.tokens l dst t n u) →
      (isLost s dst = true → exec (.tokenMessage i) s = .next s) ∧
      (n ≠ (s.line l).tser → isLost s dst = false → exec (.tokenMessage i) s = .next gone) ∧
      (n = (s.line l).tser → isLost s dst = false → ∀ r, actFor s l dst = some r →
        exec (.tokenMessage i) s = .next (pushCoh gone [.tokens l r t n none])) ∧
      (n = (s.line l).tser → isLost s dst = false → actFor s l dst = none →
        (16 ≤ dst → region (128 * l) ≠ 2 → collecting gone l dst = true →
          exec (.tokenMessage i) s = .next (settleOuts (gone.putTok l dst t) l dst)) ∧
        (∀ s1, dst < 16 → makeWay gone dst l = some s1 → region (128 * l) ≠ 2 → collecting gone l dst = true →
          exec (.tokenMessage i) s = .next (settleOuts (s1.putTok l dst t) l dst)) ∧
        (dst < 16 → makeWay gone dst l = none →
          exec (.tokenMessage i) s = .next (if collecting gone l dst then gone.putTok l dst t
            else if 16 ≤ unasked gone dst (homeAgent s l) then s
            else pushCoh gone [.tokens l (homeAgent s l) t n (some dst)])))) ∧
    (∀ o, s.coh.outs[i]? = some o → (o.met s = true → exec (.attemptTimeout i) s =
        .next (((makeWay s o.agent o.line).map fun s => settleOuts s o.line o.agent).getD s)) ∧ (o.met s = false →
      (o.persistent = true ∨ o.queued = true ∨ s.cycle < o.sentAt + nsCycles 1024 → exec (.attemptTimeout i) s = .next s) ∧
      (o.persistent = false → o.queued = false → o.sentAt + nsCycles 1024 ≤ s.cycle → o.attempt < 4 →
        exec (.attemptTimeout i) s = .next (pushCoh (s.modCoh fun c =>
          { c with outs := lset c.outs i { o with attempt := o.attempt + 1, sentAt := s.cycle } })
          [.request o.kind o.line o.agent (o.attempt + 1)])))) ∧
    (∀ a, msg = some (.persist k l agent a) → censusDue s = false → homeNeeds s k l agent = none → frameWaits s l = none → agent ≠ homeAgent s l →
      exec (.persistentRequest i) s = .next (activate (gone.modCoh fun c =>
        { c with persist := c.persist ++ [{ kind := k, line := l, agent := agent, age := a, ident := s.coh.nextIdent % 65536 }]
                 nextIdent := s.coh.nextIdent + 1 }) l)) ∧
    (∀ n, msg = some (.act n l agent dst) →
      (isLost s dst = false → dst ≠ agent → s.coh.early.contains (dst, n) = true →
        exec (.actMessage i) s = .next (gone.modCoh fun c => { c with early := c.early.filter (· ≠ (dst, n)) })) ∧
      (isLost s dst = false → dst ≠ agent → s.coh.early.contains (dst, n) = false → dst ≠ 24 →
        withheld s l dst (tokAnswer (s.tok l dst) .getx true) = false → dst ≠ homeAgent s l ∨ frameWaits s l = none →
        exec (.actMessage i) s = .next (sendTok (gone.modCoh fun c => { c with acts := c.acts ++ [(dst, n, l, agent)] }) l dst agent
          (tokAnswer (s.tok l dst) .getx true)))) ∧
    (∀ n, msg = some (.deact n dst) → ∃ s', exec (.deactMessage i) s = .next s' ∧
      s'.coh.acts = s.coh.acts.filter fun e => !(e.1 == dst && e.2.1 == n)) ∧
    (msg = some (.doneMsg k l agent) →
      let mine (p : Persist) : Bool := p.line == l && p.agent == agent && p.kind == k
      (s.coh.persist.find? mine = none → exec (.doneMessage i) s = .next gone) ∧
      (∀ p, s.coh.persist.find? mine = some p →
        exec (.doneMessage i) s = .next (freeEntry gone p))) ∧
    (toFrame s l = true → exec (.eviction agent l) s = .next (bindLine s l)) ∧
    (toFrame s l = false → mayEvict s agent l = false → exec (.eviction agent l) s = .next s) ∧
    (toFrame s l = false → mayEvict s agent l = true → agent ≠ 24 → exec (.eviction agent l) s = .next (evictLine s agent l)) ∧
    (∀ key u, s.ubPage name = some (key, u) → u.late = false ∨ u.bound.isSome = true ∨ u.pinned = [] →
      exec (.pageBind name) s = .next s) ∧
    (∀ key u f, s.ubPage name = some (key, u) → u.late = true → u.bound = none → u.pinned ≠ [] → frameFor s u = some f →
      f.2 = u.size ∧ ∃ s', exec (.pageBind name) s = .next s' ∧ ∃ u', s'.ub name = some u' ∧ u'.bound = some f.1) ∧
    (link ∉ s.fabric.failedLinks →
      (mget 0 s.fabric.replays link < 4 → (∃ s', exec (.linkReplay link) s = .next s' ∧
        mget 0 s'.fabric.replays link = mget 0 s.fabric.replays link + 1 ∧ s'.mgmt.corrected = s.mgmt.corrected + 1) ∧
        exec (.linkFailed link) s = .next s) ∧
      (4 ≤ mget 0 s.fabric.replays link → exec (.linkReplay link) s = .next s ∧
        ∃ s', exec (.linkFailed link) s = .next s' ∧ s'.fabric.failedLinks = s.fabric.failedLinks ++ [link])) ∧
    (let lostAt := if die = 24 then s.host.lostAt else (s.die die).lostAt
     (lostAt = none → exec (.dieCensus die) s = .next s) ∧
     (∀ c, lostAt = some c → s.cycle < c + nsCycles 2500 → exec (.dieCensus die) s = .next s) ∧
     (∀ c, lostAt = some c → c + nsCycles 2500 ≤ s.cycle → ∃ s', exec (.dieCensus die) s = .next s' ∧
       (die = 24 → s'.host.lostAt = none) ∧ (die ≠ 24 → (s'.die die).lostAt = none))) ∧
    ∃ s', exec (.routerCycle link) s = .next s' ∧ s'.mem = s.mem ∧ s'.tasks = s.tasks ∧ s'.cores = s.cores ∧ s'.coh = s.coh

/-! ### Messages, time and the slot tables (spec/12, spec/14 R379-R382) -/

/-- R329-R331, R338, R339, R384, R394: a message is delivered, refused with a resend 256 cycles later, or returned with its code, freeing
its sender's buffer; a handler starts in the lowest free handler slot with its words; an exchange sets a die's slew. -/
def Obligations.MessageEvents : Prop :=
  ∀ (s : State) (k i die : Nat) (m : Msg) (off : Int) (delay : Nat),
    (s.net.msgs[i]? = some m →
      (m.code ≠ 0 → exec (.messageArrival i) s = .next s) ∧
      (m.code = 0 → (s.core m.dst).dead = true → exec (.messageArrival i) s = .next (setMsg s i { m with code := DEAD.toNat })) ∧
      (m.code = 0 → (s.core m.dst).dead = false → unitSilent s m.dst = true ∨ 16 ≤ (s.core m.dst).inQ.length →
        exec (.messageArrival i) s = .next (setMsg s i { m with code := 1, since := s.cycle })) ∧
      (m.code = 0 → (s.core m.dst).dead = false → unitSilent s m.dst = false → (s.core m.dst).inQ.length < 16 →
        (∀ c, msgReturn s m = some c → exec (.messageArrival i) s = .next (setMsg s i { m with code := c.toNat })) ∧
        (msgReturn s m = none → ∃ s', exec (.messageArrival i) s = .next s' ∧ (s'.core m.dst).inQ = (s.core m.dst).inQ ++ [m] ∧
          s'.net.msgs = ldel s.net.msgs i)) ∧
      (m.code = 1 → m.since + 256 ≤ s.cycle → exec (.messageResend i) s = .next (setMsg s i { m with code := 0 })) ∧
      (m.code ≠ 1 ∨ s.cycle < m.since + 256 → exec (.messageResend i) s = .next s) ∧
      (m.code ≤ 1 → exec (.messageReturn i) s = .next s) ∧
      (2 ≤ m.code → m.peer = false → m.fut ≠ 0 → isLocal s m.fut = true →
        exec (.messageReturn i) s = .next ((poisonH (s.modNet fun n => { n with msgs := ldel n.msgs i }) m.fut
          (BitVec.ofNat 8 m.code)).modCore m.src fun c => { c with sendBufs := c.sendBufs - 1 }))) ∧
    (s.net.acked[i]? = some k → exec (.sendAck i) s =
      .next ((s.modNet fun n => { n with acked := ldel n.acked i }).modCore k fun c => { c with sendBufs := c.sendBufs - 1 })) ∧
    (mayHandle s k = false → exec (.handlerStart k) s = .next s) ∧
    (∀ slot, mayHandle s k = true → handlerSlot (s.core k) = some slot → nextMsg s k = some m → (m.peer = true ∨
        recMode s (s.task m.tid).launch = 0) →
      ∃ s', exec (.handlerStart k) s = .next s' ∧ mfind (s'.core k).slots slot = some s.nextId ∧
        s'.task s.nextId = handlerTask s k slot m ∧ (s'.core k).inQ = (s.core k).inQ.erase m ∧ 60 ≤ slot ∧ slot ≤ 63 ∧
        (s'.task s.nextId).r.pc = BitVec.ofNat 52 (m.words.headD 0).toNat ∧ (s'.task s.nextId).handler = true) ∧
    (exchangeDue s die = false ∨ delay < (off - (s.die die).offset).natAbs → exec (.timeExchange die off delay) s = .next s) ∧
    (exchangeDue s die = true ↔ die < 16 ∧ (s.die die).down = false ∧ (s.die die).exchangedAt + 49152 ≤ s.cycle) ∧
    (exchangeDue s die = true → (off - (s.die die).offset).natAbs ≤ delay → ∃ s', exec (.timeExchange die off delay) s = .next s' ∧ (s'.die die).slew = -off ∧
      (s'.die die).far = decide (64 < off.natAbs) ∧ s'.tasks = s.tasks ∧ s'.mem = s.mem ∧ s'.mgmt.sync = inSync s')

/-- R313, R316, R320, R379-R382: a write of a slot table is pending until its core's next period, in which the table in force takes it and
each thread whose period changes is told; a table change alters no thread's registers. A reading sets its core's temperature. -/
def Obligations.SlotTableEvents : Prop :=
  ∀ (s : State) (k i ctx temp : Nat) (v : BitVec 16),
    (k < 7168 → i < 64 → exec (.slotwWrite k i v) s = .next (slotWrite s k i v).2 ∧ ((slotWrite s k i v).1 = 0 →
      ((slotWrite s k i v).2.core k).pending = (s.core k).pending ++
        [(s.cycle, .entry i ((v &&& 0xCFFF) ||| (mget 0x2000 (pendingTable (s.core k)).1 i &&& 0x2000)))]) ∧
      ((slotWrite s k i v).1 ≠ 0 → (slotWrite s k i v).2 = s)) ∧
    (7168 ≤ k ∨ 64 ≤ i → exec (.slotwWrite k i v) s = .next s) ∧
    (k < 7168 → 0 < i → i ≤ 64 → tableOk (pendingTable (s.core k)).1 i = true →
      exec (.slotwLength k i) s = .next (s.modCore k fun c => { c with pending := c.pending ++ [(s.cycle, .length i)] })) ∧
    (k < 7168 → (mfind s.ctxs ctx).isSome = true →
      exec (.slotwFreeze k ctx) s = .next (freezeCtx s k ctx) ∧ ctx ∈ ((freezeCtx s k ctx).core k).frozen ∧
      exec (.slotwThaw k ctx) s = .next (thawCtx s k ctx).2 ∧ ctx ∉ ((thawCtx s k ctx).2.core k).frozen ∧
      exec (.slotwSave k ctx) s = .next (if stillParking s k ctx then s else (saveCtx s k ctx).2) ∧
      (ctx ∉ (s.core k).frozen → (thawCtx s k ctx).2 = s ∧ (saveCtx s k ctx).2 = s)) ∧
    (mfind s.ctxs ctx = none → exec (.slotwFreeze k ctx) s = .next s ∧ exec (.slotwThaw k ctx) s = .next s ∧
      exec (.slotwSave k ctx) s = .next s) ∧
    (tableDue s k = false → exec (.slotTableChange k) s = .next s) ∧
    (tableDue s k = true → ∃ s0, exec (.slotTableChange k) s = .next (reportPeriods s0 k (s.core k)) ∧ s0.tasks = s.tasks ∧
      (s0.core k).base = s.cycle ∧ (s0.core k).table = ((dueWrites s (s.core k)).foldl (fun c w => applyWrite c w.2) (s.core k)).table ∧
      ∀ w ∈ (s0.core k).pending, s.cycle ≤ w.1) ∧
    (k < 7168 → (s.core k).dead = false →
      let hot := decide (s.mgmt.shedAt ≤ temp) || ((s.core k).hot && decide (s.mgmt.shedAt < temp + 5))
      let s0 := s.modCore k fun c => { c with temp := temp, shedding := s.mgmt.forceShed || hot, hot := hot }
      exec (.thermalReading k temp) s = .next (if s.mgmt.forceShed || hot then shedStep s0 k else unshedStep s0 k)) ∧
    (7168 ≤ k ∨ (s.core k).dead = true → exec (.thermalReading k temp) s = .next s) ∧
    (k < 7168 → s.turn = none → (s.core k).lastCycle < s.cycle → tableDue s k = false → waittWaits s k = false →
      ((s.core k).trying = none → exec (.coreCycle k) s = .next (startCycle (upkeep s k) k)) ∧
      (∀ u, (s.core k).trying = some u → exec (.coreCycle k) s = .next (resumeCycle s k u)) ∧
      ((startCycle s k).turn.isSome = true ∨ ((startCycle s k).core k).lastCycle = s.cycle) ∧
      ∀ u, (resumeCycle s k u).turn.isSome = true ∨ ((resumeCycle s k u).core k).lastCycle = s.cycle) ∧
    (s.turn.isSome = true ∨ s.cycle ≤ (s.core k).lastCycle ∨ tableDue s k = true ∨ waittWaits s k = true → exec (.coreCycle k) s = .next s)

/-! ### Recovery (spec/14 R383, R384, spec/15) -/

/-- R389-R392, R393, R402, R404, R407, R428: errors by class, heartbeats and their absence, the intervals of a redundant pair and their
comparison, the command processors' pairs and a firmware restart. -/
def Obligations.ErrorEvents : Prop :=
  ∀ (s : State) (n k tid place addr cp : Nat),
    exec (.correctedError n) s = .next (s.modMgmt fun m => { m with corrected := m.corrected + n }) ∧
    (∃ s', exec (.wordError place addr) s = .next s' ∧ s'.mgmt.poisoned = s.mgmt.poisoned + 1 ∧ s'.tasks = s.tasks ∧ s'.mem = s.mem ∧
      (place = 0 → poisonGet s'.poison (addr / 8) = true ∧ s'.cores = s.cores ∧ s'.clusters = s.clusters) ∧
      (1 ≤ place → place ≤ 7168 → mget false (s'.core (place - 1)).uaPoison (addr / 8) = true ∧ s'.poison = s.poison) ∧
      (7168 < place → s'.poison = s.poison ∧ s'.cores = s.cores ∧ let t := s'.tile (place - 7169) (addr / 2^16)
        mget false t.bad (addr % 2^16 / 8 * 2) = true ∧ mget false t.bad (addr % 2^16 / 8 * 2 + 1) = true)) ∧
    (k < 7168 →
      let c := s.core k
      let told := some (c.atStop.getD (unitCtxs s [k], unitCtxs s (unitCores false (k / 8))))
      (c.dead = false → ∃ s', exec (.coreError k) s = .next s' ∧ s'.core k = { c with stopped := true, atStop := told } ∧
        s'.tasks = s.tasks ∧ s'.mem = s.mem ∧ ∀ j, j ≠ k → s'.core j = s.core j) ∧
      (c.dead = true → exec (.coreError k) s = .next s) ∧
      (c.stopped = false → c.dead = false → c.missing = false → c.failing = false → c.beatAt + 4096 ≤ s.cycle →
        exec (.heartbeat k) s = .next (s.modCore k fun c => { c with beatAt := s.cycle })) ∧
      (c.stopped = true ∨ c.dead = true ∨ c.missing = true ∨ c.failing = true ∨ s.cycle < c.beatAt + 4096 →
        exec (.heartbeat k) s = .next s) ∧
      (c.dead = false → c.missing = false → c.beatAt + (3 * 4096 + 512) < s.cycle → ∃ s', exec (.heartbeatMissing k) s = .next s' ∧
        s'.core k = { c with missing := true, atStop := told } ∧ s'.tasks = s.tasks ∧ s'.mem = s.mem) ∧
      (c.dead = true ∨ c.missing = true ∨ s.cycle ≤ c.beatAt + (3 * 4096 + 512) → exec (.heartbeatMissing k) s = .next s)) ∧
    (let c := s.cluster k
     (c.missing = false → c.failing = false → c.beatAt + 4096 ≤ s.cycle →
       exec (.heartbeat (7168 + k)) s = .next (s.modCluster k fun c => { c with beatAt := s.cycle })) ∧
     (c.missing = true ∨ c.failing = true ∨ s.cycle < c.beatAt + 4096 → exec (.heartbeat (7168 + k)) s = .next s)) ∧
    ((s.cluster k).beatAt + (3 * 4096 + 512) < s.cycle → ∃ s', exec (.heartbeatMissing (7168 + k)) s = .next s' ∧
      (s'.cluster k).missing = true ∧ s'.cores = s.cores) ∧
    (∀ p, liveTask s tid = true → (s.task tid).pair = some p →
      (256 ≤ p.retired ∨ 64 ≤ p.held.length → exec (.pairIntervalClose tid) s =
        .next (s.modTask tid fun t => { t with pair := some { p with closed := true } })) ∧
      (p.leader = true → p.closed = true → p.fwd = [] → ∃ s', exec (.pairCompare tid) s = .next s' ∧
        let agree := ∃ q, (s.task p.other).pair = some q ∧ q.crc = p.crc ∧ q.bad = false
        (agree → p.other ≠ tid → (s'.task tid).fifo = (s.task tid).fifo ++ p.held ∧ (s'.task tid).r = (s.task tid).r ∧
          ∃ q, (s'.task tid).pair = some q ∧ q.held = [] ∧ q.ckpt = (s.task tid).r ∧ q.closed = false ∧ q.agreed = true ∧ q.fails = 0 ∧
            q.intervals = p.intervals + 1) ∧
        (¬ agree → p.other ≠ tid → p.fails < 2 → (s'.task tid).r = p.ckpt ∧ (∃ q, (s'.task tid).pair = some q ∧ q.held = [] ∧
            q.fails = p.fails + 1 ∧ q.rollbacks = p.rollbacks + 1) ∧
          ∀ q, (s.task p.other).pair = some q → (s'.task p.other).r = q.ckpt) ∧
        (¬ agree → 2 ≤ p.fails → s' = killTask s tid PAIR_DIVERGE)) ∧
      (p.leader = false ∨ p.closed = false ∨ p.fwd ≠ [] → exec (.pairCompare tid) s = .next s)) ∧
    ((s.task tid).pair = none → exec (.pairCompare tid) s = .next s) ∧
    (4 ≤ cp ∨ cp ∈ s.hub.outOfService ∨ s.mgmt.powered = false → exec (.lockstepMismatch cp) s = .next s) ∧
    (cp < 4 → cp ∉ s.hub.outOfService → s.mgmt.powered = true → ∃ s', exec (.lockstepMismatch cp) s = .next s' ∧
      s'.hub.restart = true ∧ (cp ∈ s'.hub.outOfService ↔ 2 ≤
        (s.hub.mismatches.filter fun e => e.1 = cp && decide (s.cycle ≤ e.2 + nsCycles 3600000000000)).length)) ∧
    (s.hub.restart = false → exec .firmwareRestart s = .next
      (if s.mgmt.powered = true ∧ s.mgmt.booted ≠ none then s.modHub fun h => { h with restart := true } else s)) ∧
    (s.hub.restart = true → resetInProgress s = true ∨ s.mgmt.powered = false → exec .firmwareRestart s = .next s) ∧
    (∀ b, s.hub.restart = true → resetInProgress s = false → s.mgmt.powered = true →
      (if s.mgmt.staged then bootChoice s.mgmt else s.mgmt.booted) = some b → ∃ s', exec .firmwareRestart s = .next s' ∧
        s'.hub.restart = false ∧ s'.mgmt.booted = some b ∧ s'.mgmt.staged = false ∧ s'.mem = s.mem ∧
        s'.queues = s.queues.map fun e => (e.1, resumeAtCrp s e.2))

/-- R383, R384, R394-R399: a core or cluster that is lost goes to a spare where there is one; a remap that has been quiesced moves the
unit; a refused request is sent again once its target has moved; a die's loss and its reset. -/
def Obligations.RetirementEvents : Prop :=
  ∀ (s : State) (k cl d i : Nat) (lost : List Nat),
    (7168 ≤ k ∨ (s.core k).dead = true ∨ ((s.core k).stopped = false ∧ (s.core k).missing = false) ∨
        (s.die (k / 896)).resetting = true ∨ isLost s (k / 896) = true → exec (.coreRetirement k) s = .next s) ∧
    (k < 7168 → (s.core k).dead = false → (s.core k).stopped = true ∨ (s.core k).missing = true → (s.die (k / 896)).resetting = false →
      isLost s (k / 896) = false →
      let told := (s.core k).atStop.getD (unitCtxs s [k], unitCtxs s (unitCores false (k / 8)))
      let s0 := (loseCore s k DEAD true).modMgmt fun m => { m with retiredCores := m.retiredCores + 1 }
      (s0.core k).dead = true ∧
      (∀ p, spareOf s0 true k = some p → exec (.coreRetirement k) s = .next (csrRemap s0
        { isCore := true, unit := k, copy := false, retire := true, phys := p, ctxs := told.1 })) ∧
      (∀ p, spareOf s0 true k = none → spareOf s0 false (k / 8) = some p → exec (.coreRetirement k) s = .next (csrRemap s0
        { isCore := false, unit := k / 8, copy := true, retire := true, phys := p, ctxs := told.2 })) ∧
      (spareOf s0 true k = none → spareOf s0 false (k / 8) = none → exec (.coreRetirement k) s = .next s0)) ∧
    (896 ≤ cl ∨ clusterMoving s cl = true → exec (.clusterError cl lost) s = .next s) ∧
    (cl < 896 → clusterMoving s cl = false →
      let s0 := lost.foldl (loseItem cl) s
      (∀ p, spareOf s0 false cl = some p → exec (.clusterError cl lost) s = .next (csrRemap s0
        { isCore := false, unit := cl, copy := true, retire := true, phys := p, ctxs := unitCtxs s (unitCores false cl) })) ∧
      (spareOf s0 false cl = none → exec (.clusterError cl lost) s =
        .next ((unitCores false cl).foldl (fun s k => if (s.core k).dead then s else loseCore s k DEAD true) s0))) ∧
    (∀ r, s.net.remaps[i]? = some r →
      (quiesced s r = false ∨ remapWaits s i r = true → exec (.remapComplete i) s = .next s) ∧
      (quiesced s r = true → remapWaits s i r = false →
        let s1 := s.modNet fun n => { n with remaps := ldel n.remaps i }
        let s2 := if r.copy then s1 else loseUnit s1 r
        let s3 := if r.isCore then mapCore s2 r else mapCluster s2 r
        let die := if r.isCore then r.unit / 896 else r.unit / 112
        exec (.remapComplete i) s =
          .next (answerMapcl (r.ctxs.foldl (fun s e => postEvent s e.1 4 0 (unitPlace r * 2^6 + e.2) 0 die) s3) r) ∧
        (r.isCore = true → (s3.core r.unit).phys = r.phys ∧ (s3.core r.unit).dead = false) ∧
        (r.isCore = false → (s3.cluster r.unit).phys = r.phys))) ∧
    (∀ m, s.net.ports[i]? = some m → m.retry = true →
      (silentTo s m.core (m.src / 8) = true → exec (.retryReissue i) s = .next s) ∧
      (silentTo s m.core (m.src / 8) = false → exec (.retryReissue i) s =
        .next (s.modNet fun n => { n with ports := lset n.ports i { m with retry := false } }))) ∧
    (∀ m j, s.net.steals[j]? = some m → m.retry = true → underRemap s m.victim = false →
      exec (.retryReissue (s.net.ports.length + j)) s =
        .next (s.modNet fun n => { n with steals := lset n.steals j { m with retry := false } })) ∧
    (∀ m j, s.net.futReqs[j]? = some m → m.retry = true → clusterMoving s (hCl m.h) = false →
      exec (.retryReissue (s.net.ports.length + s.net.steals.length + j)) s =
        .next (s.modNet fun n => { n with futReqs := lset n.futReqs j { m with retry := false } })) ∧
    (∀ m j, s.net.caps[j]? = some m → m.retry = true → clusterMoving s (capCl m.cap) = false →
      exec (.retryReissue (s.net.ports.length + s.net.steals.length + s.net.futReqs.length + j)) s =
        .next (s.modNet fun n => { n with caps := lset n.caps j { m with retry := false } })) ∧
    (8 ≤ d ∨ (s.die d).down = true ∨ isLost s d = true → exec (.dieError d) s = .next s) ∧
    (d < 8 → (s.die d).down = false → isLost s d = false → ∃ s', exec (.dieError d) s = .next s' ∧
      (s'.die d).lostAt = some s.cycle ∧ d ∈ s'.coh.lostAgents ∧ s'.mem = s.mem ∧ s'.tasks = s.tasks ∧
      ∀ k c, mfind s.cores k = some c → mfind s'.cores k = some (if k / 896 = d then { c with stopped := true } else c)) ∧
    (8 ≤ d ∨ (s.die d).down = true → ∀ b, exec (.dieReset d b) s = .next s) ∧
    (d < 8 → (s.die d).down = false → isLost s d = false → (s.die d).resetting = false → exec (.dieReset d true) s = .next (beginReset s d) ∧
      ((beginReset s d).die d).resetting = true) ∧
    (d < 8 → (s.die d).down = false → isLost s d = false → (s.die d).resetting = true → dieDrained s d = false →
      exec (.dieReset d true) s = .next s) ∧
    (d < 8 → (s.die d).down = false → isLost s d = true ∨ ((s.die d).resetting = true ∧ dieDrained s d = true) →
      ∃ s', exec (.dieReset d (!isLost s d)) s = .next s' ∧ (s'.die d).down = true ∧ (s'.die d).resetting = false ∧
      (s'.die d).order = [] ∧ (s'.die d).exchanges = 0 ∧ s'.mgmt.sync = false ∧
      ∀ r ∈ s'.net.remaps, (if r.isCore then r.unit / 896 else r.unit / 112) ≠ d) ∧
    ((s.die d).down = false ∨ (s.die d).lostAt ≠ none → exec (.dieResetComplete d) s = .next s) ∧
    ((s.die d).down = true → (s.die d).lostAt = none → ∃ s', exec (.dieResetComplete d) s = .next s' ∧
      (s'.die d).down = false ∧ d ∉ s'.coh.lostAgents ∧ s'.mem = s.mem ∧ s'.tasks = s.tasks)

/-! ### Queues and launches (spec/13) -/

/-- R346-R355, R361: kicks, reservations, resumption and abandonment, threads for queues, and the reading of packets. -/
def Obligations.QueueEvents : Prop :=
  ∀ (s : State) (q : Nat) (v : BitVec 64) (tag : BitVec 32) (x : Queue), mfind s.queues q = some x →
    (let d := (v.toNat + 2^32 - x.rp % 2^32) % 2^32
     let c := min (x.rp + d) x.next
     v.toNat < 2^32 → ∃ s', exec (.kick q v) s = .next s' ∧ s'.mem = s.mem ∧ s'.tasks = s.tasks ∧ s'.launches = s.launches ∧
      mfind s'.queues q = some (if d < 2^31 ∧ x.kick < c then
        { x with kick := c, kickAt := if x.rp < x.kick then x.kickAt else s.cycle } else x)) ∧
    (2^32 ≤ v.toNat → exec (.kick q v) s = .next s) ∧
    (v.toNat = 0 ∨ 16 < v.toNat → exec (.reserve q v) s = .next (hostReply s q 8 0xFFFFFFFFFFFFFFFE)) ∧
    (∀ f a lg, 0 < v.toNat → v.toNat ≤ 16 → x.segs.getLast? = some (f, a, lg) → v.toNat ≤ f + segSlots lg - 1 - x.next →
      exec (.reserve q v) s = .next (hostReply (s.modQueue q fun y => { y with next := y.next + v.toNat }) q 8
        (w64 (x.next % 2^32 * 2^32 + (slotAddr x x.next).getD 0 / 2^7 % 2^32)))) ∧
    (0 < v.toNat → v.toNat ≤ 16 → (∀ e, x.segs.getLast? = some e → e.1 + segSlots e.2.2 - 1 - x.next < v.toNat) →
      (s.ctx x.ctx).segpool = [] → exec (.reserve q v) s = .next (hostReply s q 8 0xFFFFFFFFFFFFFFFF)) ∧
    (∃ s', exec (.qctlResume q) s = .next s' ∧ s'.mem = s.mem ∧ s'.launches = s.launches ∧ mfind s'.queues q =
      some (if x.st ≠ .stopped then x
        else if x.err = 2 then { x with st := .run, rp := x.rp + 1, crp := x.crp + 1, pkt := none, since := s.cycle }
        else { x with st := .run, pkt := none })) ∧
    exec (.qctlAbandon q tag) s = .next (abandonTag s q tag.toNat) ∧
    ((∀ e ∈ s.launches, e.2.queue = q → e.2.st ≠ .retired → (e.2.w 12).toNat % 2^32 ≠ tag.toNat) →
      exec (.qctlAbandon q tag) s = .next s) ∧
    (nextMapped s ≠ some q ∨ s.hub.restart = true → exec (.queueMap q) s = .next s) ∧
    (nextMapped s = some q → s.hub.restart = false →
      ((mappedQueues s).length < hubThreads s → exec (.queueMap q) s = .next (s.modQueue q fun y => { y with mapped := true })) ∧
      (hubThreads s ≤ (mappedQueues s).length → (∀ u, unmapChoice s = some u →
          exec (.queueMap q) s = .next ((unmapQueue s u).modQueue q fun y => { y with mapped := true })) ∧
        (unmapChoice s = none → exec (.queueMap q) s = .next s))) ∧
    (x.mapped = false ∨ x.kick ≤ x.rp ∨ x.pkt ≠ none ∨ x.st ≠ .run ∨ s.hub.restart = true ∨ s.host.lost = true →
      exec (.packetRead q) s = .next s) ∧
    (x.mapped = true → x.rp < x.kick → x.pkt = none → x.st = .run → s.hub.restart = false → s.host.lost = false →
      ∀ a, slotAddr x x.rp = some a →
      let ws := slotWords s a
      let w0 := ws.getD 0 0
      (w0.toNat / 2^32 ≠ x.rp % 2^32 → exec (.packetRead q) s = .next s) ∧
      (w0.toNat / 2^32 = x.rp % 2^32 → (poisonIn s.poison a 128).isSome = true ∨ packetBad x ws = true →
        exec (.packetRead q) s = .next (s.modQueue q fun y =>
          { y with st := .stopped, err := 1, pkt := none, since := s.cycle, answer := none })) ∧
      (w0.toNat / 2^32 = x.rp % 2^32 → poisonIn s.poison a 128 = none → packetBad x ws = false → ∃ s', exec (.packetRead q) s = .next s' ∧
        (∃ y, mfind s'.queues q = some y ∧ y.pkt = some (w0.toNat / 2^24 % 256, ws.drop 1) ∧ y.rp = x.rp ∧ y.st = .run) ∧
        (w0.toNat / 2^24 % 256 = 1 → mfind s'.launches s.nextId =
          some { ctx := x.ctx, queue := q, hdr := ws.drop 1, readAt := s.cycle, arrival := s.hub.arrivals }) ∧
        (w0.toNat / 2^24 % 256 ≠ 1 → s'.launches = s.launches)))

/-- R346-R361: what each packet does once read; a waiting queue, a timed one and a copy go on; a LAUNCH is rejected with the lowest
reason, or placed, and its root starts with the header's arguments. -/
def Obligations.PacketEvents : Prop :=
  ∀ (s : State) (q i l : Nat) (x : Queue) (ws : List Word),
    let w (n : Nat) : Word := ws.getD (n - 1) 0
    (packetOf s q 0 = some (x, ws) → exec (.nopPacket q) s = .next (passPacket s q)) ∧
    (packetOf s q 1 = some (x, ws) → ∀ y, placingOf s q = some (l, y) →
      (x.st = .placing → exec (.launchPacket q) s = .next s) ∧
      (x.st ≠ .placing → launchReason s y = 0 →
        exec (.launchPacket q) s = .next (s.modQueue q fun z => { z with st := .placing })) ∧
      (x.st ≠ .placing → launchReason s y ≠ 0 →
        ∀ a s1, putRecord s y { status := 3, code := BitVec.ofNat 8 (launchReason s y) } = .ok a s1 →
        exec (.launchPacket q) s = .next (passPacket (((raiseQueue s1 q).modLaunch l fun z => { z with st := .retired }).modQueue q
          fun z => { z with live := z.live.filter (· ≠ l) }) q))) ∧
    (packetOf s q 2 = some (x, ws) →
      (x.st = .waiting → exec (.waitPacket q) s = .next s ∧ exec (.waitEnd q) s = .next (evalWait q x w s)) ∧
      (x.st ≠ .waiting → exec (.waitPacket q) s = .next (evalWait q x w s) ∧ exec (.waitEnd q) s = .next s) ∧
      (isHandle (w 1) = false → evalWait q x w s = stopQueue s q 1) ∧
      (∀ v s1, isHandle (w 1) = true → waitView s q x (w 1) = (v, s1) →
        (v.out = 4 → evalWait q x w s = s1.modQueue q fun y => { y with st := .waiting }) ∧
        (v.out = 0 → evalWait q x w s = passPacket s1 q) ∧
        (v.out = 1 ∨ v.out = 2 ∨ v.out = 3 →
          evalWait q x w s = if (w 2).getLsbD 0 then stopQueue s1 q 2 else passPacket s1 q))) ∧
    (packetOf s q 3 = some (x, ws) →
      let va := (w 3).toNat % 2^52
      let place := hubPlace s x.ctx va .wr
      let raised (s : State) : State := if (w 4).getLsbD 15 then raiseVector s ((w 4).toNat % 2^11) else s
      (w 1 ≠ 0 → isHandle (w 1) = false → exec (.signalPacket q) s = .next (stopQueue s q 1)) ∧
      (w 3 = 0 → signalResolve s q x (w 1) (w 2) = none → exec (.signalPacket q) s = .next (stopQueue s q 1)) ∧
      (∀ v s1, w 3 = 0 → signalResolve s q x (w 1) (w 2) = some (v, s1) →
        exec (.signalPacket q) s = .next (if v.out = 4 then s1 else passPacket (raised s1) q)) ∧
      (w 3 ≠ 0 → w 1 = 0 ∨ isHandle (w 1) = true →
        (ptrBad (w 3) = true ∨ (∃ c, place = .bad c) → exec (.signalPacket q) s = .next
          (if (signalResolve s q x (w 1) (w 2)).isNone then stopQueue s q 1 else stopQueue (hubTake s x.ctx va) q 4)) ∧
        (ptrBad (w 3) = false → (∀ s1 c, place = .wait s1 c → exec (.signalPacket q) s = .next s1) ∧
          ∀ p s1, place = .ok p s1 →
            (signalResolve s1 q x (w 1) (w 2) = none → exec (.signalPacket q) s = .next (stopQueue s1 q 1)) ∧
            ∀ v s2, signalResolve s1 q x (w 1) (w 2) = some (v, s2) →
              (v.out = 4 → exec (.signalPacket q) s = .next s2) ∧
              (∀ a s3, v.out ≠ 4 → hubWrite s2 (2^20 + q) x.ctx va (toBytes 8 (w 2).toNat) = .ok a s3 →
                exec (.signalPacket q) s = .next (passPacket (raised s3) q))))) ∧
    (packetOf s q 4 = some (x, ws) → exec (.copyPacket q) s = .next (passPacket (s.modHub fun h =>
      { h with copies := h.copies ++ [{ q := q, ctx := x.ctx, dst := w 1, src := w 2, len := (w 3).toNat }] }) q)) ∧
    (packetOf s q 5 = some (x, ws) → ∀ f a lg rest, x.segs = (f, a, lg) :: rest → exec (.linkPacket q) s = .next (passPacket
      ((s.modCtx x.ctx fun c => { c with segpool := c.segpool ++ [(a, lg)] }).modQueue q fun y => { y with segs := y.segs.tail }) q)) ∧
    (packetOf s q 6 = some (x, ws) →
      exec (.timedPacket q) s = .next ((passPacket s q).modQueue q fun y => { y with st := .timed, timed := w 1 })) ∧
    (packetOf s q 7 = some (x, ws) →
      let copies := (w 1).getLsbD 0
      let waits := (copies && s.hub.copies.any fun c => c.q == q) || ((w 1).getLsbD 1 && !x.live.isEmpty)
      (waits = true → exec (.fencePacket q) s = .next s) ∧
      (waits = false → copies = true → x.copyFault = true →
        exec (.fencePacket q) s = .next (stopQueue (s.modQueue q fun y => { y with copyFault := false }) q 3)) ∧
      (waits = false → copies = false ∨ x.copyFault = false → exec (.fencePacket q) s = .next (passPacket s q))) ∧
    (mfind s.queues q = some x → x.st = .timed → s.hubTime.ult x.timed = true → exec (.timedExpiry q) s = .next s) ∧
    (mfind s.queues q = some x → x.st = .timed → s.hubTime.ult x.timed = false →
      exec (.timedExpiry q) s = .next (s.modQueue q fun y => { y with st := .run })) ∧
    (∀ c, s.hub.copies[i]? = some c →
      (ptrBad c.dst = true ∨ ptrBad c.src = true → ∃ s', exec (.copyComplete i) s = .next s' ∧ s'.mem = s.mem ∧
        s'.hub.copies = ldel s.hub.copies i ∧ ∀ y, mfind s.queues c.q = some y → mfind s'.queues c.q = some { y with copyFault := true }) ∧
      (∀ c' s1, ptrBad c.dst = false → ptrBad c.src = false → copyRun s c.ctx (c.len / 64 + 2) c = (c', s1) → c'.fault = false →
        exec (.copyComplete i) s = .next (s1.modHub fun h =>
          { h with copies := if c'.len ≤ c'.pos then ldel h.copies i else lset h.copies i c' }))) ∧
    (∀ y k, mfind s.launches l = some y → y.st = .placing → y.abandon = none → mfind s.queues y.queue = some x →
      x.st = .placing → x.mapped = true → s.hub.restart = false →
      (servedBefore s y = true → exec (.launchPlacement l) s = .next s) ∧
      (servedBefore s y = false → placeCore s y = none → exec (.launchPlacement l) s = .next s) ∧
      (servedBefore s y = false → placeCore s y = some k → qualifies s k y = true →
        exec (.launchPlacement l) s = .next (acceptRoot s l k y)) ∧
      (servedBefore s y = false → placeCore s y = some k → qualifies s k y = false → (y.entries.any fun e => e.1 == k) = false ∨ entriesLacked s k y ≠ 0 →
        ∀ es s1, tryInstall s k y = some (es, s1) →
        exec (.launchPlacement l) s = .next (s1.modLaunch l fun z => { z with entries := z.entries ++ es })) ∧
      (rootRegs y).pc = BitVec.ofNat 52 (y.w 1).toNat ∧ ∀ j < 6, (rootRegs y).get (3 + j) = if 3 + j < classRegs y.cls then y.w (2 + j) else 0)

/-! ### The driver, the host, peers and management (spec/13, spec/14, spec/16) -/

/-- R347, R349, R362, R364, R366, R382, R415, R421, R422: what each mailbox command does and how it completes, under the mailbox layout
of log 15; none is performed while no command is under way. -/
def Obligations.DriverCommands : Prop :=
  ∀ (s : State),
    let w := mailWord s
    let asked (cmd : Nat) : Prop := s.hub.bell = true ∧ (w 0).toNat % 256 = cmd ∧ s.hub.restart = false
    let done (s : State) (status : Nat) (r : Option Nat) : Host.Outcome State Fault Refusal := .next (mailDone s status r)
    (s.hub.bell = false ∨ s.hub.restart = true → exec .ctxCreate s = .next s ∧ exec .ctxEnd s = .next s ∧
      exec .queueCreate s = .next s ∧ exec .queueDestroy s = .next s ∧ exec .poolAdd s = .next s ∧ exec .peerBind s = .next s ∧
      exec .chipSet s = .next s ∧ exec .preempt s = .next s) ∧
    (∀ st r, (mailDone s st r).hub.bell = false ∧ (mailDone s st r).mem = s.mem ∧ (mailDone s st r).tasks = s.tasks ∧
      (mailDone s st r).ctxs = s.ctxs ∧ (mailDone s st r).queues = s.queues) ∧
    (asked 1 → (ctxBad s (newCtx s) = true → exec .ctxCreate s = done s 1 none) ∧
      (ctxBad s (newCtx s) = false → (∀ i < 64, (mfind s.ctxs i).isSome = true) → exec .ctxCreate s = done s 2 none) ∧
      (∀ i < 64, ctxBad s (newCtx s) = false → mfind s.ctxs i = none → (∀ j < i, (mfind s.ctxs j).isSome = true) →
        exec .ctxCreate s = done { s with ctxs := mset s.ctxs i (newCtx s) } 0 (some i))) ∧
    (asked 2 → (mfind s.ctxs (w 1).toNat = none → exec .ctxEnd s = done s 1 none) ∧
      ((mfind s.ctxs (w 1).toNat).isSome = true →
        let s0 := clearEntries (endWork s (w 1).toNat) (w 1).toNat
        (ctxQuiet s0 (w 1).toNat = false → exec .ctxEnd s = .next s0) ∧
        (ctxQuiet s0 (w 1).toNat = true → exec .ctxEnd s = done (freeCtx s0 (w 1).toNat) 0 none))) ∧
    (asked 3 →
      let ok := (mfind s.ctxs (w 1).toNat).isSome = true ∧ (w 2).toNat ≤ 15 ∧ segOk (w 3).toNat (w 4).toNat = true
      let new : Queue :=
        { ctx := (w 1).toNat, prio := (w 2).toNat, vec := if (w 5).getLsbD 15 then some ((w 5).toNat % 2^11) else none,
          segs := [(0, (w 3).toNat, (w 4).toNat)], kickAt := s.cycle, since := s.cycle }
      (¬ ok → exec .queueCreate s = done s 1 none) ∧
      (ok → (∀ i < 4096, (mfind s.queues i).isSome = true) → exec .queueCreate s = done s 2 none) ∧
      (∀ i < 4096, ok → mfind s.queues i = none → (∀ j < i, (mfind s.queues j).isSome = true) →
        exec .queueCreate s = done { s with queues := mset s.queues i new } 0 (some i))) ∧
    (asked 4 → (mfind s.queues (w 1).toNat = none → exec .queueDestroy s = done s 1 none) ∧
      (∀ x, mfind s.queues (w 1).toNat = some x → (x.live ≠ [] → exec .queueDestroy s = done s 3 none) ∧
        (x.live = [] → exec .queueDestroy s = done (dropQueue s (w 1).toNat) 0 none))) ∧
    (asked 5 → (mfind s.ctxs (w 1).toNat = none → exec .poolAdd s = done s 1 none) ∧
      ((mfind s.ctxs (w 1).toNat).isSome = true →
        let add (f : Ctx → Ctx) : Host.Outcome State Fault Refusal := done (s.modCtx (w 1).toNat f) 0 none
        (3 < (w 2).toNat → exec .poolAdd s = done s 1 none) ∧
        ((w 2).toNat ≤ 1 → ((w 3).toNat % 4096 ≠ 0 ∨ (w 4).toNat % 4096 ≠ 0) → exec .poolAdd s = done s 1 none) ∧
        ((w 2).toNat = 0 → (w 3).toNat % 4096 = 0 → (w 4).toNat % 4096 = 0 →
          exec .poolAdd s = add fun c => { c with fpool := c.fpool ++ [((w 3).toNat, (w 4).toNat)] }) ∧
        ((w 2).toNat = 1 → (w 3).toNat % 4096 = 0 → (w 4).toNat % 4096 = 0 →
          exec .poolAdd s = add fun c => { c with spill := c.spill ++ [((w 3).toNat, (w 4).toNat)] }) ∧
        (∀ lg, powerLog (w 4).toNat = some lg →
          ((w 2).toNat = 2 → segOk (w 3).toNat lg = true →
            exec .poolAdd s = add fun c => { c with segpool := c.segpool ++ [((w 3).toNat, lg)] }) ∧
          ((w 2).toNat = 3 → lg = 16 ∨ lg = 21 ∨ lg = 30 → (w 3).toNat % (w 4).toNat = 0 → region (w 3).toNat ≤ 1 →
            (w 3).toNat < 2^52 → exec .poolAdd s = add fun c => { c with bkpool := c.bkpool ++ [((w 3).toNat, lg)] })))) ∧
    (asked 6 →
      ((mfind s.ctxs (w 1).toNat = none ∨ 2^16 ≤ (w 2).toNat) → exec .peerBind s = done s 1 none) ∧
      ((mfind s.ctxs (w 1).toNat).isSome = true → (w 2).toNat < 2^16 → exec .peerBind s =
        done { s with peers := { s.peers with binds := mset s.peers.binds (w 2).toNat (w 1).toNat } } 0 none)) ∧
    (asked 7 → (s.ctxs ≠ [] → exec .chipSet s = done s 3 none) ∧
      (s.ctxs = [] → 2^20 ≤ (w 1).toNat ∨ windowOk (w 3).toNat (w 4).toNat = false → exec .chipSet s = done s 1 none) ∧
      (s.ctxs = [] → (w 1).toNat < 2^20 → windowOk (w 3).toNat (w 4).toNat = true → exec .chipSet s = done { s with peers := { s.peers with
        chip := BitVec.ofNat 20 (w 1).toNat, table := some (w 2).toNat, window := (w 3).toNat, windowLen := (w 4).toNat } } 0 none)) ∧
    (asked 8 → (mfind s.queues (w 4).toNat = none → exec .preempt s = done s 1 none) ∧
      (∀ x, mfind s.queues (w 4).toNat = some x →
        (mfind s.ctxs (w 1).toNat = none ∨ 896 ≤ (w 2).toNat ∨ x.ctx = (w 1).toNat → exec .preempt s = done s 1 none) ∧
        ((mfind s.ctxs (w 1).toNat).isSome = true → (w 2).toNat < 896 → x.ctx ≠ (w 1).toNat →
          (((coreSet s).any fun k => preemptWaits s (w 1).toNat x.ctx k) = true →
            exec .preempt s = .next ((coreSet s).foldl (preemptFreeze (w 1).toNat x.ctx) s)) ∧
          (((coreSet s).any fun k => preemptWaits s (w 1).toNat x.ctx k) = false → exec .preempt s =
            done ((coreSet s).foldl (fun s k => preemptCore (w 1).toNat x.ctx (w 4).toNat k s) s) 0 none))))

/-- R234, R416-R418: the host's accesses of device memory, its snoops, its answers, its loss and the link's return. R419-R422:
data of a peer is taken once and acknowledged; acknowledgements and sessions; resends after 20 µs; the ports. -/
def Obligations.HostAndPeerEvents : Prop :=
  (∀ (s : State) (addr size line i : Nat) (wr : Bool) (v : BitVec 64),
    let t := s.tok (addr / 128) 24
    let open' := s.host.lost = false ∧ s.mgmt.powered = true ∧ s.mgmt.booted ≠ none
    (hostRange addr size = false ∨ s.host.lost = true ∨ s.mgmt.powered = false ∨ s.mgmt.booted = none → exec (.hostMemAccess addr size wr v) s = .next s) ∧
    (hostRange addr size = true → open' →
      (t.plain = 32 → t.owner = true → exec (.hostMemAccess addr size true v) s =
        .next (hostHolds (commit s 24 addr (repeatBytes size v)) (addr / 128) true)) ∧
      (t.plain ≠ 32 ∨ t.owner = false → exec (.hostMemAccess addr size true v) s = .next (s.ask .getx (addr / 128) 24)) ∧
      (1 ≤ t.plain → t.data = true → exec (.hostMemAccess addr size false v) s = .next (hostHolds s (addr / 128) false)) ∧
      (t.plain = 0 ∨ t.data = false → exec (.hostMemAccess addr size false v) s = .next (s.ask .gets (addr / 128) 24))) ∧
    (region (128 * line) ≠ 2 ∨ mfind s.host.got line = none → exec (.hostSnoop line) s = .next s) ∧
    (region (128 * line) = 2 → (mfind s.host.got line).isSome = true →
      ((s.tok line 24).mayWrite = true → collecting s line 24 = false →
        exec (.hostSnoop line) s = .next { s with host := { s.host with got := merase s.host.got line } }) ∧
      ((s.tok line 24).mayWrite = false ∨ collecting s line 24 = true → exec (.hostSnoop line) s = .next (s.askHome .getx line true))) ∧
    (∀ a n, s.host.asked[i]? = some (5, line, a, n) → exec (.hostResponse i) s =
      .next (hostAck { s with host := { s.host with asked := ldel s.host.asked i } } line a)) ∧
    (∀ k a n, s.host.asked[i]? = some (k, line, a, n) → k ≠ 5 → ∃ s', exec (.hostResponse i) s = .next s' ∧
      s'.host.asked = ldel s.host.asked i ∧ s'.tasks = s.tasks ∧
      (k = 0 → (mfind s.host.held line).isSome = true → mfind s'.host.held line = some false) ∧
      (k = 1 → s'.host.held = merase s.host.held line) ∧
      (k = 2 ∨ k = 3 ∨ k = 4 → (mfind s'.host.got line).isSome = true) ∧
      (k = 3 ∨ k = 4 → mfind s'.host.got line = some true)) ∧
    (s.host.lost = true ∨ (∀ e ∈ s.host.asked, s.cycle < e.2.2.2 + nsCycles 50000000) → exec .hostLost s = .next s) ∧
    (s.host.lost = false → (∃ e ∈ s.host.asked, e.2.2.2 + nsCycles 50000000 ≤ s.cycle) → ∃ s', exec .hostLost s = .next s' ∧
      s'.host.lost = true ∧ s'.host.lostAt = some s.cycle ∧ s'.host.held = [] ∧ s'.host.got = []) ∧
    (s.host.lostAt ≠ none → exec .linkRetrain s = .next { s with host := { s.host with lost := false } }) ∧
    (s.host.lostAt = none → ∃ s', exec .linkRetrain s = .next s' ∧ s'.host = { s.host with lost := false } ∧ s'.mem = s.mem ∧
      s'.coh.lostAgents = s.coh.lostAgents.filter (· ≠ 24))) ∧
  (∀ (s : State) (chip n seq kind i st : Nat) (ws : List (BitVec 64)) (x : Session),
    (mfind s.peers.sessions chip = none → exec (.peerData chip n seq kind ws) s = .next s ∧ exec (.peerAck chip seq) s = .next s ∧
      exec (.sessionClose chip) s = .next s) ∧
    (mfind s.peers.sessions chip = some x →
      (x.number ≠ n → exec (.peerData chip n seq kind ws) s = .next s) ∧
      (x.number = n → seq ≤ x.acked ∨ x.seen.contains seq = true →
        exec (.peerData chip n seq kind ws) s = .next (sendPeerAck s chip x.acked)) ∧
      (x.number = n → x.acked < seq → x.seen.contains seq = false →
        (peerTake s chip kind ws = none → exec (.peerData chip n seq kind ws) s = .next s) ∧
        (∀ s', peerTake s chip kind ws = some s' → peerWaits s (kind % 256) (fun n => ws.getD n 0) = false →
          exec (.peerData chip n seq kind ws) s = .next (noteSeen s' chip seq))) ∧
      (∃ s', exec (.peerAck chip seq) s = .next s' ∧ s'.mem = s.mem ∧ s'.tasks = s.tasks ∧
        mfind s'.peers.sessions chip = some
          { x with unacked := x.unacked.filter (fun u => u.1 > seq), resent := x.resent.filter (fun e => e.1 > seq), lastAck := s.cycle }) ∧
      exec (.sessionClose chip) s = .next (endSession s chip) ∧
      (s.cycle < x.lastAck + nsCycles 1000000000 → exec (.sessionTimeout chip) s = .next s) ∧
      (x.lastAck + nsCycles 1000000000 ≤ s.cycle → (∃ u ∈ x.unacked, u.2.2.2 + nsCycles 1000000000 ≤ s.cycle) →
        exec (.sessionTimeout chip) s = .next (closeSession s chip)) ∧
      (x.number = n → exec (.sessionOpen chip n) s = .next s)) ∧
    (mfind s.peers.sessions chip = none → (∀ e ∈ s.peers.waiting, e.1 ≠ chip) → ∃ s', exec (.sessionOpen chip n) s = .next s' ∧
      mfind s'.peers.sessions chip = some { number := n, nextSeq := 1, lastAck := s.cycle } ∧
      ∃ g, s'.peers.sent = s.peers.sent ++ [g] ∧ g.ty = 2 ∧ g.dchip = chip ∧ g.session = n) ∧
    (mfind s.peers.sessions chip = none → (∀ d, mfind s.peers.downAt chip = some d → s.cycle ≤ d + nsCycles 1000000000) →
      exec (.sessionTimeout chip) s = .next s) ∧
    (∀ c q k us a, (allUnacked s)[i]? = some (c, q, k, us, a) →
      let last := ((mfind s.peers.sessions c).map fun x => mget a x.resent q).getD a
      (s.cycle < last + nsCycles 20000 ∨ (∀ e ∈ s.mgmt.ethPorts, e.2 = 0) → exec (.peerResend i) s = .next s) ∧
      (last + nsCycles 20000 ≤ s.cycle → (∃ e ∈ s.mgmt.ethPorts, e.2 ≠ 0) → (mfind s.peers.sessions c).isSome = true →
        ∃ s' g, exec (.peerResend i) s = .next s' ∧ s'.peers.sent = s.peers.sent ++ [g] ∧ g.ty = 0 ∧ g.dchip = c ∧
          g.schip = s.peers.chip.toNat ∧ g.seq = q ∧ g.payload = us ∧ g.cls = k % 256)) ∧
    (n < 18 → st ≤ 2 → exec (.ethernetPortChange n st) s =
      .next (s.modMgmt fun m => { m with ethPorts := mput 0 m.ethPorts n st })) ∧
    (18 ≤ n ∨ 2 < st → exec (.ethernetPortChange n st) s = .next s))

/-- R423-R428: the effecters and sensors, shedding by the power limit, power off at 115 °C, requests to the security root, a
firmware update's steps, and the resets of levels 6 and 7 with what they keep. -/
def Obligations.ManagementEvents : Prop :=
  ∀ (s : State) (v id ver image die temp : Nat),
    (inRecovery s = false → 1200 ≤ v → v ≤ 4800 → ∃ s', exec (.powerLimitWrite v) s = .next s' ∧ s'.tasks = s.tasks ∧
      s'.mgmt = { s.mgmt with powerLimit := v, overSince := if v < s.mgmt.power then some (s.mgmt.overSince.getD s.cycle) else none
                              forceShed := s.mgmt.forceShed && decide (v * 98 < s.mgmt.power * 100) }) ∧
    (inRecovery s = true → ∀ i ∈ [.powerLimitWrite v, .shedThresholdWrite v, .getVersion, .getCapabilities, .negotiateAlgorithms,
      .getDigests, .getCertificate id, Instr.challenge v, .getMeasurements v, .telemetryUpdate id v], exec i s = .next s) ∧
    (v < 1200 ∨ 4800 < v → ∃ s', exec (.powerLimitWrite v) s = .next s' ∧ s'.mgmt.powerLimit = s.mgmt.powerLimit) ∧
    (inRecovery s = false → 70 ≤ v → v ≤ 105 → exec (.shedThresholdWrite v) s = .next (s.modMgmt fun m => { m with shedAt := v })) ∧
    (v < 70 ∨ 105 < v → ∃ s', exec (.shedThresholdWrite v) s = .next s' ∧ s'.mgmt.shedAt = s.mgmt.shedAt) ∧
    (s.mgmt.overSince = none → exec .powerLimitShed s = .next s) ∧
    (∀ c, s.mgmt.overSince = some c → exec .powerLimitShed s =
      .next (if c + nsCycles 10000000 ≤ s.cycle then s.modMgmt fun m => { m with forceShed := true } else s)) ∧
    (die < 17 → 115 ≤ temp → s.mgmt.powered = true → exec (.overtempPowerOff die temp) s = .next (darkPackage s s.mgmt)) ∧
    (17 ≤ die ∨ temp < 115 ∨ s.mgmt.powered = false → exec (.overtempPowerOff die temp) s = .next s) ∧
    (isSensor id = false ∨ s.cycle < s.mgmt.pause → exec (.telemetryUpdate id v) s = .next s) ∧
    (isSensor id = true → inRecovery s = false → s.mgmt.pause ≤ s.cycle → ∃ s', exec (.telemetryUpdate id v) s = .next s' ∧ s'.tasks = s.tasks ∧ s'.mem = s.mem ∧
      mget 0 s'.mgmt.sensors id = sensorValue s' id v ∧
      (id = 1 → s'.mgmt.power = v ∧ (s.mgmt.powerLimit < v → s'.mgmt.overSince = some (s.mgmt.overSince.getD s.cycle)) ∧
        (v ≤ s.mgmt.powerLimit → s'.mgmt.overSince = none) ∧
        (s'.mgmt.forceShed = true ↔ s.mgmt.forceShed = true ∧ s.mgmt.powerLimit * 98 < v * 100))) ∧
    (let gives (i : Instr) (code w : Nat) : Prop := inRecovery s = false → exec i s =
       .next (s.modMgmt fun m => { m with replies := m.replies ++ [(code, w)] })
     let answers (i : Instr) (code arg : Nat) : Prop := gives i code (Config.spdmResponse code arg)
     answers .getVersion 0x84 0 ∧ answers .getCapabilities 0xE1 0 ∧ gives .negotiateAlgorithms 0xE3 (0x80 * 2^32 + 0x02) ∧
     answers .getDigests 0x81 0 ∧ (id < 3 → answers (.getCertificate id) 0x82 id) ∧ (3 ≤ id → gives (.getCertificate id) 0x7F 1) ∧ answers (.challenge v) 0x83 v ∧
     answers (.getMeasurements v) 0xE0 v) ∧
    (∀ b, s.mgmt.booted = some b → ver < (slotImage s.mgmt b).version → ∃ s', exec (.requestUpdate ver image) s = .next s' ∧
      s'.mgmt.update = s.mgmt.update ∧ s'.mgmt.slot0 = s.mgmt.slot0 ∧ s'.mgmt.slot1 = s.mgmt.slot1) ∧
    (∀ b, s.mgmt.booted = some b → (slotImage s.mgmt b).version ≤ ver → s.mgmt.update = none →
      ∃ s', exec (.requestUpdate ver image) s = .next s' ∧ s'.mgmt.update = some { digest := image, version := ver } ∧
        s'.mgmt.verified = false ∧ slotImage s'.mgmt (1 - inactiveSlot s.mgmt) = slotImage s.mgmt (1 - inactiveSlot s.mgmt)) ∧
    (s.mgmt.update = none → exec .verifyComplete s = .next s) ∧
    (∀ x, s.mgmt.update = some x → ∃ s', exec .verifyComplete s = .next s' ∧
      s'.mgmt.verified = Config.imageVerifies x.digest ∧ slotImage s'.mgmt (inactiveSlot s.mgmt) = x ∧
      s'.mgmt.update = if Config.imageVerifies x.digest then some x else none) ∧
    (s.mgmt.verified = false → exec .applyComplete s = .next s) ∧
    (s.mgmt.verified = true → ∃ s', exec .applyComplete s = .next s' ∧ s'.mgmt.staged = true ∧ s'.mgmt.verified = false ∧
      s'.mgmt.update = none ∧ let c := newMarker ((((validMarkers s.mgmt).head?.map (·.seq)).getD 0) + 1) (inactiveSlot s.mgmt)
      (s'.mgmt.markA = c ∧ s'.mgmt.markB = s.mgmt.markB) ∨ (s'.mgmt.markB = c ∧ s'.mgmt.markA = s.mgmt.markA ∧
        s.mgmt.markA.valid = true)) ∧
    (s.mgmt.staged = false → exec .activateFirmware s = .next s) ∧
    (s.mgmt.staged = true → ∃ s', exec .activateFirmware s = .next s' ∧ s'.hub.restart = true ∧ s'.tasks = s.tasks ∧ s'.mem = s.mem ∧
      s.cycle ≤ s'.mgmt.pause ∧ s'.mgmt.pause ≤ s.cycle + nsCycles 2000000000) ∧
    (s.mgmt.powered = false → exec .packageReset s = .next s) ∧
    (s.mgmt.powered = true → resetInProgress s = true →
      exec .packageReset s = .next (s.modMgmt fun m => { m with resetDue := true })) ∧
    (s.mgmt.powered = true → resetInProgress s = false → exec .packageReset s = .next (bootPackage s s.mgmt)) ∧
    (∃ s', exec .powerLoss s = .next s' ∧ s'.mgmt.powered = false ∧ s'.mem = [] ∧ s'.tasks = [] ∧ s'.mgmt.slot0 = s.mgmt.slot0 ∧
      s'.mgmt.slot1 = s.mgmt.slot1 ∧ s'.mgmt.markA = s.mgmt.markA ∧ s'.mgmt.markB = s.mgmt.markB ∧
      s'.mgmt.powerLimit = 4800 ∧ s'.mgmt.shedAt = 95) ∧
    (s.mgmt.powered = true → exec .powerOn s = .next s) ∧
    (s.mgmt.powered = false → exec .powerOn s = .next (bootPackage s s.mgmt)) ∧
    ∀ m, let b := bootPackage s m
      b.mem = [] ∧ b.tasks = [] ∧ b.ctxs = [] ∧ b.launches = [] ∧ b.queues = [] ∧ b.cycle = 0 ∧ b.mgmt.powered = true ∧
      b.mgmt.slot0 = m.slot0 ∧ b.mgmt.slot1 = m.slot1 ∧ b.mgmt.powerLimit = m.powerLimit ∧ b.mgmt.shedAt = m.shedAt ∧
      b.mgmt.booted = bootChoice m ∧ b.mgmt.peak = 0xFFFF ∧ b.mgmt.bootCount = m.bootCount + 1

/-! ### Reset, encodings, the step, memory's form -/

/-- R4, R81, R190, R276, R313, R378, R424, R428: what a package reset leaves. -/
def Obligations.ResetState : Prop :=
  let s := State.reset
  s.turn = none ∧ s.tasks = [] ∧ s.ctxs = [] ∧ s.launches = [] ∧ s.queues = [] ∧ Memory.wf s.mem = true ∧
  (∀ d, s.time d = 0) ∧ s.hubTime = 0 ∧
  (∀ a, region a ≠ 2 → region a ≠ 3 → memByte s.mem a = 0) ∧ (∀ w, poisonGet s.poison w = false) ∧
  (∀ l a, s.tok l a = if a = homeAgent s l then { plain := 32, owner := true, data := true } else {}) ∧
  (∀ k i, tableEntry (s.core k) i = 0x2000 ∧ (s.core k).len = 64 ∧ (s.core k).slots = [] ∧ (s.core k).entries = [] ∧
    (s.core k).dead = false ∧ (s.core k).phys = k % 8) ∧
  (∀ cl t i j, (s.cluster cl).groups = 16 ∧ (s.tile cl t).owner = none ∧ (s.tile cl t).el i j = 0) ∧
  (let r : Regs := {}
   r.pc = 0 ∧ (∀ n, r.get n = 0) ∧ r.fflags = 0 ∧ r.frm = 1 ∧ r.srseed = 0x6A3B91C5 ∧ r.orhint = 0 ∧ r.esel = 0 ∧ r.fstsCode = 0 ∧
   r.fstsOut = 0 ∧ r.atset = 0 ∧ r.wid = 0) ∧
  s.mgmt.powerLimit = 4800 ∧ s.mgmt.shedAt = 95 ∧ s.mgmt.powered = true ∧ s.mgmt.peak = 0xFFFF ∧ s.mgmt.skew = 0xFFFF ∧
  s.mgmt.sync = false

/-- R28, R40 and the worked encodings of spec/02: the length comes from bits [15:13] of the first parcel; each worked word is the
instruction it stands for, and an illegal one is none. -/
def Obligations.DecodedWords : Prop :=
  (∀ w, parcelLen w = if w / 2^13 % 8 ≤ 5 then 2 else if w / 2^13 % 8 = 6 then 4 else 8) ∧
  (∀ w i n, decodeWord w = .ok (i, n) → n = parcelLen w) ∧
  decodeTableWord 32 0x0814C003 = some (.add 3 4 5) ∧ decodeTableWord 16 0x0465 = some (.addCompact 3 5) ∧
  decodeTableWord 32 0x0582CB07 = some (.ldd 7 2 2) ∧ decodeTableWord 16 0x68E2 = some (.lddG2Compact 7 2) ∧
  decodeTableWord 32 0x6406C914 = some (.blt 20 6 6) ∧ decodeTableWord 64 0x123456780000E009 = some (.li64 9 0x12345678) ∧
  decodeWord 0x0003C183 = .error .illOp ∧ decodeWord 0 = .error .illOp

/-- R27-R29, R48: the thread with the turn runs what its bytes decode to, in the state that the fetch leaves, and its faults of fetch and
decoding, a pair's shadow what its leader has forwarded; parcels that its fetch buffer holds are read from there in ascending order. With no turn, something else happens
next. -/
def Obligations.StepRunsDecoded : Prop :=
  ∀ (s s1 : State) (u : Turn) (len w n : Nat) (i : Instr) (e : DecFault),
    (s.turn = none → step s = match nextEvent s with
      | .inl (j, t) => exec j t
      | .inr t => .next t) ∧
    (s.turn = some u → (s.task u.tid).shadow = true →
      let next := ((s.task u.tid).pair.bind fun p => (s.task p.other).pair).bind fun q => q.fwd.head?
      (next = none → step s = .next s.endTurn) ∧
      ∀ f, next = some f → decodeWord f.insn = .ok (i, n) →
        step s = exec i { s with turn := some { u with len := f.len, insn := f.insn, feed := f.took } }) ∧
    (s.turn = some u → (s.task u.tid).pend = none → (s.task u.tid).shadow = false →
      (fetchInsn s u.tid = .ok (len, w, s1) → decodeWord w = .ok (i, n) →
        step s = exec i { s1 with turn := some { u with len := len, insn := w } }) ∧
      (fetchInsn s u.tid = .ok (len, w, s1) → decodeWord w = .error e →
        step s = exec (.illegalEncoding (decCode e) 0) { s1 with turn := some { u with len := len, insn := w } }) ∧
      (∀ c d, fetchInsn s u.tid = .error (.trap c d) →
        step s = exec (.instructionFetchFault c (BitVec.ofNat 64 (s.task u.tid).r.pc.toNat)) s)) ∧
    (∀ (tid p0 : Nat) (ps : List Nat),
      let pc := (s.task tid).r.pc.toNat
      (∀ j p, (p0 :: ps)[j]? = some p → ∃ bs, mfind (s.task tid).fbuf ((pc + 2 * j) % 2^52 / 64) = some bs ∧
        p = (bs.getD ((pc + 2 * j) % 2^52 % 64) 0).toNat + 256 * (bs.getD ((pc + 2 * j) % 2^52 % 64 + 1) 0).toNat) →
      2 * (ps.length + 1) = parcelLen p0 →
      fetchInsn s tid = .ok (parcelLen p0, (p0 :: ps).foldr (fun p r => p + 65536 * r) 0, s))

/-- R27-R46: every well-formed instruction's words decode to it with all its operands, and its length is theirs. -/
def Obligations.DecodeOfEncode : Prop :=
  ∀ (i : Instr) (b w : Nat), i.wf = true → encode i = some (b, w) →
    w < 256^b ∧ decodeWord w = .ok (i, b) ∧ decodeBytes (leBytes b w) = .ok (i, b) ∧ decodeTableWord (8 * b) w = some i

/-- R27-R48: whatever decodes is well-formed, and its words are exactly those it was decoded from, so that no reserved or illegal word
is taken for a neighbour's. -/
def Obligations.EncodeOfDecode : Prop :=
  ∀ (i : Instr) (w b : Nat), decodeWord w = .ok (i, b) → i.wf = true ∧ encode i = some (b, w % 256^b)

/-- R1, R214: every step from a state whose memory is in canonical form leaves it so. -/
def Obligations.MemoryStaysCanonical : Prop :=
  ∀ (s s' : State), Memory.wf s.mem = true → step s = .next s' → Memory.wf s'.mem = true
end

