-- ==== Sys2Proof/Laws/Map.lean ====
section
/-! SUPPORT. What the operations on sparse maps do. -/

namespace Sys2Proof.Laws

open Sys2Proof.Machine

variable {V : Type}

@[simp] theorem mset_mset (m : FMap V) (k : Nat) (v w : V) : mset (mset m k v) k w = mset m k w := by
  induction m with
  | nil => simp [mset]
  | cons e r ih =>
    obtain ⟨a, b⟩ := e
    by_cases h : k = a
    · simp [mset, h]
    · by_cases h2 : k < a
      · simp [mset, h, h2]
      · simp [mset, h, h2, ih]

@[simp] theorem mfind_mset (m : FMap V) (k : Nat) (v : V) : mfind (mset m k v) k = some v := by
  induction m with
  | nil => simp [mset, mfind]
  | cons e r ih =>
    obtain ⟨a, b⟩ := e
    by_cases h : k = a
    · simp [mset, mfind, h]
    · by_cases h2 : k < a
      · simp [mset, mfind, h, h2]
      · simp [mset, mfind, h, h2, ih]

theorem mfind_mset_ne (m : FMap V) {k j : Nat} (v : V) (h : j ≠ k) : mfind (mset m k v) j = mfind m j := by
  induction m with
  | nil => simp [mset, mfind, h]
  | cons e r ih =>
    obtain ⟨a, b⟩ := e
    by_cases h1 : k = a
    · subst h1; simp [mset, mfind, h]
    · by_cases h2 : k < a
      · simp only [mset, h1, h2, if_true, if_false, mfind, h]
        by_cases h3 : j < k
        · simp [h3, show j ≠ a by omega, show j < a by omega]
        · simp [h3]
      · simp [mset, mfind, h1, h2, ih]

theorem mrising_tail {e : Nat × V} {r : FMap V} (h : mrising (e :: r) = true) : mrising r = true := by
  cases r with
  | nil => rfl
  | cons f r => simp only [mrising, Bool.and_eq_true] at h; exact h.2

theorem mrising_head {e f : Nat × V} {r : FMap V} (h : mrising (e :: f :: r) = true) : e.1 < f.1 := by
  simp only [mrising, Bool.and_eq_true, decide_eq_true_eq] at h; exact h.1

theorem mrising_cons {k : Nat} {v : V} {r : FMap V} (h : mrising r = true) (hk : ∀ e ∈ r.head?, k < e.1) :
    mrising ((k, v) :: r) = true := by
  cases r with
  | nil => rfl
  | cons f r => simp only [mrising, Bool.and_eq_true, decide_eq_true_eq]; exact ⟨hk f (by simp), h⟩

theorem head_mset (m : FMap V) (k : Nat) (v : V) (j : Nat) (h : ∀ e ∈ m.head?, j < e.1) (hk : j < k) :
    ∀ e ∈ (mset m k v).head?, j < e.1 := by
  cases m with
  | nil => simpa [mset] using hk
  | cons f r =>
    obtain ⟨a, b⟩ := f
    have := h (a, b) (by simp)
    unfold mset
    split
    · simpa using hk
    · split
      · simpa using hk
      · simpa using this

/-- Setting an entry keeps the keys strictly rising. -/
theorem mrising_mset (m : FMap V) (k : Nat) (v : V) (h : mrising m = true) : mrising (mset m k v) = true := by
  induction m with
  | nil => rfl
  | cons e r ih =>
    obtain ⟨a, b⟩ := e
    by_cases h1 : k = a
    · subst h1; simpa [mset] using mrising_cons (mrising_tail h) fun e he => by
        cases r with
        | nil => simp at he
        | cons f r => simp at he; subst he; exact mrising_head h
    · by_cases h2 : k < a
      · simp only [mset, h1, h2, if_true, if_false, mrising, Bool.and_eq_true, decide_eq_true_eq]; exact ⟨trivial, h⟩
      · simp only [mset, h1, h2, if_false]
        refine mrising_cons (ih (mrising_tail h)) (head_mset r k v a ?_ (by omega))
        intro e he
        cases r with
        | nil => simp at he
        | cons f r => simp at he; subst he; exact mrising_head h

theorem head_merase (m : FMap V) (k j : Nat) (hm : mrising m = true) (h : ∀ e ∈ m.head?, j < e.1) :
    ∀ e ∈ (merase m k).head?, j < e.1 := by
  cases m with
  | nil => simp [merase]
  | cons f r =>
    obtain ⟨a, b⟩ := f
    have := h (a, b) (by simp)
    unfold merase
    split
    · intro e he
      cases r with
      | nil => simp at he
      | cons g r => simp at he; subst he; have := mrising_head hm; simp at *; omega
    · split <;> simpa using this

/-- Removing an entry keeps the keys strictly rising. -/
theorem mrising_merase (m : FMap V) (k : Nat) (h : mrising m = true) : mrising (merase m k) = true := by
  induction m with
  | nil => rfl
  | cons e r ih =>
    obtain ⟨a, b⟩ := e
    have ht := mrising_tail h
    by_cases h1 : k = a
    · simpa [merase, h1] using ht
    · by_cases h2 : k < a
      · simpa [merase, h1, h2] using h
      · simp only [merase, h1, h2, if_false]
        refine mrising_cons (ih ht) (head_merase r k a ht ?_)
        intro e he
        cases r with
        | nil => simp at he
        | cons f r => simp at he; subst he; exact mrising_head h

theorem mset_all (p : Nat × V → Bool) (m : FMap V) (k : Nat) (v : V) (hm : m.all p = true) (hv : p (k, v) = true) :
    (mset m k v).all p = true := by
  induction m with
  | nil => simpa [mset] using hv
  | cons e r ih =>
    obtain ⟨a, b⟩ := e
    simp only [List.all_cons, Bool.and_eq_true] at hm
    unfold mset
    split
    · simp [hv, hm.2]
    · split
      · simp [hv, hm.1, hm.2]
      · simp [hm.1, ih hm.2]

theorem merase_all (p : Nat × V → Bool) (m : FMap V) (k : Nat) (hm : m.all p = true) : (merase m k).all p = true := by
  induction m with
  | nil => rfl
  | cons e r ih =>
    obtain ⟨a, b⟩ := e
    simp only [List.all_cons, Bool.and_eq_true] at hm
    unfold merase
    split
    · exact hm.2
    · split
      · simp [hm.1, hm.2]
      · simp [hm.1, ih hm.2]

/-- A write of a value keeps the canonical form. -/
theorem mcanon_mput [DecidableEq V] (d : Nat → V) (m : FMap V) (k : Nat) (v : V) (h : mcanon d m = true) :
    mcanon d (mput (d k) m k v) = true := by
  simp only [mcanon, Bool.and_eq_true] at h ⊢
  unfold mput
  split
  · exact ⟨mrising_merase m k h.1, merase_all _ m k h.2⟩
  · exact ⟨mrising_mset m k v h.1, mset_all _ m k v h.2 (by simpa)⟩

theorem mfind_lt (m : FMap V) (j : Nat) (h : ∀ e ∈ m.head?, j < e.1) : mfind m j = none := by
  cases m with
  | nil => rfl
  | cons f r =>
    obtain ⟨a, b⟩ := f
    have := h (a, b) (by simp)
    simp [mfind, show j ≠ a by simp at this; omega, show j < a by simpa using this]

theorem head_rising {e : Nat × V} {r : FMap V} (h : mrising (e :: r) = true) : ∀ f ∈ r.head?, e.1 < f.1 := by
  intro f hf
  cases r with
  | nil => simp at hf
  | cons g r => simp at hf; subst hf; exact mrising_head h

theorem mfind_merase (m : FMap V) (k : Nat) (h : mrising m = true) : mfind (merase m k) k = none := by
  induction m with
  | nil => rfl
  | cons e r ih =>
    obtain ⟨a, b⟩ := e
    by_cases h1 : k = a
    · subst h1; simpa [merase] using mfind_lt r k (head_rising h)
    · by_cases h2 : k < a
      · simp [merase, mfind, h1, h2]
      · simp [merase, mfind, h1, h2, ih (mrising_tail h)]

theorem mfind_merase_ne (m : FMap V) {k j : Nat} (h : mrising m = true) (hj : j ≠ k) :
    mfind (merase m k) j = mfind m j := by
  induction m with
  | nil => rfl
  | cons e r ih =>
    obtain ⟨a, b⟩ := e
    by_cases h1 : k = a
    · subst h1
      by_cases h3 : j < k
      · have : mfind r j = none := mfind_lt r j fun f hf => by have := head_rising h f hf; simp at this; omega
        simp [merase, mfind, hj, h3, this]
      · simp [merase, mfind, hj, h3]
    · by_cases h2 : k < a
      · simp [merase, h1, h2]
      · simp [merase, mfind, h1, h2, ih (mrising_tail h)]

/-- A read of the key just written. -/
theorem mget_mput [DecidableEq V] (d : V) (m : FMap V) (k : Nat) (v : V) (h : mrising m = true) :
    mget d (mput d m k v) k = v := by
  unfold mput mget
  split
  · next hv => simp [mfind_merase m k h, hv]
  · simp

/-- A read of another key. -/
theorem mget_mput_ne [DecidableEq V] (d : V) (e : V) (m : FMap V) {k j : Nat} (v : V) (h : mrising m = true) (hj : j ≠ k) :
    mget d (mput e m k v) j = mget d m j := by
  unfold mput mget
  split
  · rw [mfind_merase_ne m h hj]
  · rw [mfind_mset_ne m v hj]

theorem mrising_mput [DecidableEq V] (d : V) (m : FMap V) (k : Nat) (v : V) (h : mrising m = true) :
    mrising (mput d m k v) = true := by
  unfold mput
  split
  · exact mrising_merase m k h
  · exact mrising_mset m k v h

end Sys2Proof.Laws
end

