-- ==== Sys2Proof/Laws/State.lean ====
section
/-! SUPPORT. What each named update of the state leaves alone: one lemma for each update and each field that it does not write. -/

namespace Sys2Proof.Laws

open Sys2Proof.Machine

/-! ### State.setCore -/

@[simp] theorem setCore_turn (s : State) (k : Nat) (c : Core) : (s.setCore k c).turn = s.turn := rfl
@[simp] theorem setCore_cycle (s : State) (k : Nat) (c : Core) : (s.setCore k c).cycle = s.cycle := rfl
@[simp] theorem setCore_freeIdx (s : State) (k : Nat) (c : Core) : (s.setCore k c).freeIdx = s.freeIdx := rfl
@[simp] theorem setCore_nextId (s : State) (k : Nat) (c : Core) : (s.setCore k c).nextId = s.nextId := rfl
@[simp] theorem setCore_inputs (s : State) (k : Nat) (c : Core) : (s.setCore k c).inputs = s.inputs := rfl
@[simp] theorem setCore_tasks (s : State) (k : Nat) (c : Core) : (s.setCore k c).tasks = s.tasks := rfl
@[simp] theorem setCore_clusters (s : State) (k : Nat) (c : Core) : (s.setCore k c).clusters = s.clusters := rfl
@[simp] theorem setCore_dies (s : State) (k : Nat) (c : Core) : (s.setCore k c).dies = s.dies := rfl
@[simp] theorem setCore_ctxs (s : State) (k : Nat) (c : Core) : (s.setCore k c).ctxs = s.ctxs := rfl
@[simp] theorem setCore_launches (s : State) (k : Nat) (c : Core) : (s.setCore k c).launches = s.launches := rfl
@[simp] theorem setCore_queues (s : State) (k : Nat) (c : Core) : (s.setCore k c).queues = s.queues := rfl
@[simp] theorem setCore_mem (s : State) (k : Nat) (c : Core) : (s.setCore k c).mem = s.mem := rfl
@[simp] theorem setCore_poison (s : State) (k : Nat) (c : Core) : (s.setCore k c).poison = s.poison := rfl
@[simp] theorem setCore_coh (s : State) (k : Nat) (c : Core) : (s.setCore k c).coh = s.coh := rfl
@[simp] theorem setCore_net (s : State) (k : Nat) (c : Core) : (s.setCore k c).net = s.net := rfl
@[simp] theorem setCore_fabric (s : State) (k : Nat) (c : Core) : (s.setCore k c).fabric = s.fabric := rfl
@[simp] theorem setCore_hub (s : State) (k : Nat) (c : Core) : (s.setCore k c).hub = s.hub := rfl
@[simp] theorem setCore_host (s : State) (k : Nat) (c : Core) : (s.setCore k c).host = s.host := rfl
@[simp] theorem setCore_peers (s : State) (k : Nat) (c : Core) : (s.setCore k c).peers = s.peers := rfl
@[simp] theorem setCore_mgmt (s : State) (k : Nat) (c : Core) : (s.setCore k c).mgmt = s.mgmt := rfl

/-! ### State.modCore -/

@[simp] theorem modCore_turn (s : State) (k : Nat) (f : Core → Core) : (s.modCore k f).turn = s.turn := rfl
@[simp] theorem modCore_cycle (s : State) (k : Nat) (f : Core → Core) : (s.modCore k f).cycle = s.cycle := rfl
@[simp] theorem modCore_freeIdx (s : State) (k : Nat) (f : Core → Core) : (s.modCore k f).freeIdx = s.freeIdx := rfl
@[simp] theorem modCore_nextId (s : State) (k : Nat) (f : Core → Core) : (s.modCore k f).nextId = s.nextId := rfl
@[simp] theorem modCore_inputs (s : State) (k : Nat) (f : Core → Core) : (s.modCore k f).inputs = s.inputs := rfl
@[simp] theorem modCore_tasks (s : State) (k : Nat) (f : Core → Core) : (s.modCore k f).tasks = s.tasks := rfl
@[simp] theorem modCore_clusters (s : State) (k : Nat) (f : Core → Core) : (s.modCore k f).clusters = s.clusters := rfl
@[simp] theorem modCore_dies (s : State) (k : Nat) (f : Core → Core) : (s.modCore k f).dies = s.dies := rfl
@[simp] theorem modCore_ctxs (s : State) (k : Nat) (f : Core → Core) : (s.modCore k f).ctxs = s.ctxs := rfl
@[simp] theorem modCore_launches (s : State) (k : Nat) (f : Core → Core) : (s.modCore k f).launches = s.launches := rfl
@[simp] theorem modCore_queues (s : State) (k : Nat) (f : Core → Core) : (s.modCore k f).queues = s.queues := rfl
@[simp] theorem modCore_mem (s : State) (k : Nat) (f : Core → Core) : (s.modCore k f).mem = s.mem := rfl
@[simp] theorem modCore_poison (s : State) (k : Nat) (f : Core → Core) : (s.modCore k f).poison = s.poison := rfl
@[simp] theorem modCore_coh (s : State) (k : Nat) (f : Core → Core) : (s.modCore k f).coh = s.coh := rfl
@[simp] theorem modCore_net (s : State) (k : Nat) (f : Core → Core) : (s.modCore k f).net = s.net := rfl
@[simp] theorem modCore_fabric (s : State) (k : Nat) (f : Core → Core) : (s.modCore k f).fabric = s.fabric := rfl
@[simp] theorem modCore_hub (s : State) (k : Nat) (f : Core → Core) : (s.modCore k f).hub = s.hub := rfl
@[simp] theorem modCore_host (s : State) (k : Nat) (f : Core → Core) : (s.modCore k f).host = s.host := rfl
@[simp] theorem modCore_peers (s : State) (k : Nat) (f : Core → Core) : (s.modCore k f).peers = s.peers := rfl
@[simp] theorem modCore_mgmt (s : State) (k : Nat) (f : Core → Core) : (s.modCore k f).mgmt = s.mgmt := rfl

/-! ### State.setCluster -/

@[simp] theorem setCluster_turn (s : State) (k : Nat) (c : Cluster) : (s.setCluster k c).turn = s.turn := rfl
@[simp] theorem setCluster_cycle (s : State) (k : Nat) (c : Cluster) : (s.setCluster k c).cycle = s.cycle := rfl
@[simp] theorem setCluster_freeIdx (s : State) (k : Nat) (c : Cluster) : (s.setCluster k c).freeIdx = s.freeIdx := rfl
@[simp] theorem setCluster_nextId (s : State) (k : Nat) (c : Cluster) : (s.setCluster k c).nextId = s.nextId := rfl
@[simp] theorem setCluster_inputs (s : State) (k : Nat) (c : Cluster) : (s.setCluster k c).inputs = s.inputs := rfl
@[simp] theorem setCluster_tasks (s : State) (k : Nat) (c : Cluster) : (s.setCluster k c).tasks = s.tasks := rfl
@[simp] theorem setCluster_cores (s : State) (k : Nat) (c : Cluster) : (s.setCluster k c).cores = s.cores := rfl
@[simp] theorem setCluster_dies (s : State) (k : Nat) (c : Cluster) : (s.setCluster k c).dies = s.dies := rfl
@[simp] theorem setCluster_ctxs (s : State) (k : Nat) (c : Cluster) : (s.setCluster k c).ctxs = s.ctxs := rfl
@[simp] theorem setCluster_launches (s : State) (k : Nat) (c : Cluster) : (s.setCluster k c).launches = s.launches := rfl
@[simp] theorem setCluster_queues (s : State) (k : Nat) (c : Cluster) : (s.setCluster k c).queues = s.queues := rfl
@[simp] theorem setCluster_mem (s : State) (k : Nat) (c : Cluster) : (s.setCluster k c).mem = s.mem := rfl
@[simp] theorem setCluster_poison (s : State) (k : Nat) (c : Cluster) : (s.setCluster k c).poison = s.poison := rfl
@[simp] theorem setCluster_coh (s : State) (k : Nat) (c : Cluster) : (s.setCluster k c).coh = s.coh := rfl
@[simp] theorem setCluster_net (s : State) (k : Nat) (c : Cluster) : (s.setCluster k c).net = s.net := rfl
@[simp] theorem setCluster_fabric (s : State) (k : Nat) (c : Cluster) : (s.setCluster k c).fabric = s.fabric := rfl
@[simp] theorem setCluster_hub (s : State) (k : Nat) (c : Cluster) : (s.setCluster k c).hub = s.hub := rfl
@[simp] theorem setCluster_host (s : State) (k : Nat) (c : Cluster) : (s.setCluster k c).host = s.host := rfl
@[simp] theorem setCluster_peers (s : State) (k : Nat) (c : Cluster) : (s.setCluster k c).peers = s.peers := rfl
@[simp] theorem setCluster_mgmt (s : State) (k : Nat) (c : Cluster) : (s.setCluster k c).mgmt = s.mgmt := rfl

/-! ### State.modCluster -/

@[simp] theorem modCluster_turn (s : State) (k : Nat) (f : Cluster → Cluster) : (s.modCluster k f).turn = s.turn := rfl
@[simp] theorem modCluster_cycle (s : State) (k : Nat) (f : Cluster → Cluster) : (s.modCluster k f).cycle = s.cycle := rfl
@[simp] theorem modCluster_freeIdx (s : State) (k : Nat) (f : Cluster → Cluster) : (s.modCluster k f).freeIdx = s.freeIdx := rfl
@[simp] theorem modCluster_nextId (s : State) (k : Nat) (f : Cluster → Cluster) : (s.modCluster k f).nextId = s.nextId := rfl
@[simp] theorem modCluster_inputs (s : State) (k : Nat) (f : Cluster → Cluster) : (s.modCluster k f).inputs = s.inputs := rfl
@[simp] theorem modCluster_tasks (s : State) (k : Nat) (f : Cluster → Cluster) : (s.modCluster k f).tasks = s.tasks := rfl
@[simp] theorem modCluster_cores (s : State) (k : Nat) (f : Cluster → Cluster) : (s.modCluster k f).cores = s.cores := rfl
@[simp] theorem modCluster_dies (s : State) (k : Nat) (f : Cluster → Cluster) : (s.modCluster k f).dies = s.dies := rfl
@[simp] theorem modCluster_ctxs (s : State) (k : Nat) (f : Cluster → Cluster) : (s.modCluster k f).ctxs = s.ctxs := rfl
@[simp] theorem modCluster_launches (s : State) (k : Nat) (f : Cluster → Cluster) : (s.modCluster k f).launches = s.launches := rfl
@[simp] theorem modCluster_queues (s : State) (k : Nat) (f : Cluster → Cluster) : (s.modCluster k f).queues = s.queues := rfl
@[simp] theorem modCluster_mem (s : State) (k : Nat) (f : Cluster → Cluster) : (s.modCluster k f).mem = s.mem := rfl
@[simp] theorem modCluster_poison (s : State) (k : Nat) (f : Cluster → Cluster) : (s.modCluster k f).poison = s.poison := rfl
@[simp] theorem modCluster_coh (s : State) (k : Nat) (f : Cluster → Cluster) : (s.modCluster k f).coh = s.coh := rfl
@[simp] theorem modCluster_net (s : State) (k : Nat) (f : Cluster → Cluster) : (s.modCluster k f).net = s.net := rfl
@[simp] theorem modCluster_fabric (s : State) (k : Nat) (f : Cluster → Cluster) : (s.modCluster k f).fabric = s.fabric := rfl
@[simp] theorem modCluster_hub (s : State) (k : Nat) (f : Cluster → Cluster) : (s.modCluster k f).hub = s.hub := rfl
@[simp] theorem modCluster_host (s : State) (k : Nat) (f : Cluster → Cluster) : (s.modCluster k f).host = s.host := rfl
@[simp] theorem modCluster_peers (s : State) (k : Nat) (f : Cluster → Cluster) : (s.modCluster k f).peers = s.peers := rfl
@[simp] theorem modCluster_mgmt (s : State) (k : Nat) (f : Cluster → Cluster) : (s.modCluster k f).mgmt = s.mgmt := rfl

/-! ### State.setTask -/

@[simp] theorem setTask_turn (s : State) (t : Nat) (x : Task) : (s.setTask t x).turn = s.turn := rfl
@[simp] theorem setTask_cycle (s : State) (t : Nat) (x : Task) : (s.setTask t x).cycle = s.cycle := rfl
@[simp] theorem setTask_freeIdx (s : State) (t : Nat) (x : Task) : (s.setTask t x).freeIdx = s.freeIdx := rfl
@[simp] theorem setTask_nextId (s : State) (t : Nat) (x : Task) : (s.setTask t x).nextId = s.nextId := rfl
@[simp] theorem setTask_inputs (s : State) (t : Nat) (x : Task) : (s.setTask t x).inputs = s.inputs := rfl
@[simp] theorem setTask_cores (s : State) (t : Nat) (x : Task) : (s.setTask t x).cores = s.cores := rfl
@[simp] theorem setTask_clusters (s : State) (t : Nat) (x : Task) : (s.setTask t x).clusters = s.clusters := rfl
@[simp] theorem setTask_dies (s : State) (t : Nat) (x : Task) : (s.setTask t x).dies = s.dies := rfl
@[simp] theorem setTask_ctxs (s : State) (t : Nat) (x : Task) : (s.setTask t x).ctxs = s.ctxs := rfl
@[simp] theorem setTask_launches (s : State) (t : Nat) (x : Task) : (s.setTask t x).launches = s.launches := rfl
@[simp] theorem setTask_queues (s : State) (t : Nat) (x : Task) : (s.setTask t x).queues = s.queues := rfl
@[simp] theorem setTask_mem (s : State) (t : Nat) (x : Task) : (s.setTask t x).mem = s.mem := rfl
@[simp] theorem setTask_poison (s : State) (t : Nat) (x : Task) : (s.setTask t x).poison = s.poison := rfl
@[simp] theorem setTask_coh (s : State) (t : Nat) (x : Task) : (s.setTask t x).coh = s.coh := rfl
@[simp] theorem setTask_net (s : State) (t : Nat) (x : Task) : (s.setTask t x).net = s.net := rfl
@[simp] theorem setTask_fabric (s : State) (t : Nat) (x : Task) : (s.setTask t x).fabric = s.fabric := rfl
@[simp] theorem setTask_hub (s : State) (t : Nat) (x : Task) : (s.setTask t x).hub = s.hub := rfl
@[simp] theorem setTask_host (s : State) (t : Nat) (x : Task) : (s.setTask t x).host = s.host := rfl
@[simp] theorem setTask_peers (s : State) (t : Nat) (x : Task) : (s.setTask t x).peers = s.peers := rfl
@[simp] theorem setTask_mgmt (s : State) (t : Nat) (x : Task) : (s.setTask t x).mgmt = s.mgmt := rfl

/-! ### State.modTask -/

@[simp] theorem modTask_turn (s : State) (t : Nat) (f : Task → Task) : (s.modTask t f).turn = s.turn := rfl
@[simp] theorem modTask_cycle (s : State) (t : Nat) (f : Task → Task) : (s.modTask t f).cycle = s.cycle := rfl
@[simp] theorem modTask_freeIdx (s : State) (t : Nat) (f : Task → Task) : (s.modTask t f).freeIdx = s.freeIdx := rfl
@[simp] theorem modTask_nextId (s : State) (t : Nat) (f : Task → Task) : (s.modTask t f).nextId = s.nextId := rfl
@[simp] theorem modTask_inputs (s : State) (t : Nat) (f : Task → Task) : (s.modTask t f).inputs = s.inputs := rfl
@[simp] theorem modTask_cores (s : State) (t : Nat) (f : Task → Task) : (s.modTask t f).cores = s.cores := rfl
@[simp] theorem modTask_clusters (s : State) (t : Nat) (f : Task → Task) : (s.modTask t f).clusters = s.clusters := rfl
@[simp] theorem modTask_dies (s : State) (t : Nat) (f : Task → Task) : (s.modTask t f).dies = s.dies := rfl
@[simp] theorem modTask_ctxs (s : State) (t : Nat) (f : Task → Task) : (s.modTask t f).ctxs = s.ctxs := rfl
@[simp] theorem modTask_launches (s : State) (t : Nat) (f : Task → Task) : (s.modTask t f).launches = s.launches := rfl
@[simp] theorem modTask_queues (s : State) (t : Nat) (f : Task → Task) : (s.modTask t f).queues = s.queues := rfl
@[simp] theorem modTask_mem (s : State) (t : Nat) (f : Task → Task) : (s.modTask t f).mem = s.mem := rfl
@[simp] theorem modTask_poison (s : State) (t : Nat) (f : Task → Task) : (s.modTask t f).poison = s.poison := rfl
@[simp] theorem modTask_coh (s : State) (t : Nat) (f : Task → Task) : (s.modTask t f).coh = s.coh := rfl
@[simp] theorem modTask_net (s : State) (t : Nat) (f : Task → Task) : (s.modTask t f).net = s.net := rfl
@[simp] theorem modTask_fabric (s : State) (t : Nat) (f : Task → Task) : (s.modTask t f).fabric = s.fabric := rfl
@[simp] theorem modTask_hub (s : State) (t : Nat) (f : Task → Task) : (s.modTask t f).hub = s.hub := rfl
@[simp] theorem modTask_host (s : State) (t : Nat) (f : Task → Task) : (s.modTask t f).host = s.host := rfl
@[simp] theorem modTask_peers (s : State) (t : Nat) (f : Task → Task) : (s.modTask t f).peers = s.peers := rfl
@[simp] theorem modTask_mgmt (s : State) (t : Nat) (f : Task → Task) : (s.modTask t f).mgmt = s.mgmt := rfl

/-! ### State.modR -/

@[simp] theorem modR_turn (s : State) (t : Nat) (f : Regs → Regs) : (s.modR t f).turn = s.turn := rfl
@[simp] theorem modR_cycle (s : State) (t : Nat) (f : Regs → Regs) : (s.modR t f).cycle = s.cycle := rfl
@[simp] theorem modR_freeIdx (s : State) (t : Nat) (f : Regs → Regs) : (s.modR t f).freeIdx = s.freeIdx := rfl
@[simp] theorem modR_nextId (s : State) (t : Nat) (f : Regs → Regs) : (s.modR t f).nextId = s.nextId := rfl
@[simp] theorem modR_inputs (s : State) (t : Nat) (f : Regs → Regs) : (s.modR t f).inputs = s.inputs := rfl
@[simp] theorem modR_cores (s : State) (t : Nat) (f : Regs → Regs) : (s.modR t f).cores = s.cores := rfl
@[simp] theorem modR_clusters (s : State) (t : Nat) (f : Regs → Regs) : (s.modR t f).clusters = s.clusters := rfl
@[simp] theorem modR_dies (s : State) (t : Nat) (f : Regs → Regs) : (s.modR t f).dies = s.dies := rfl
@[simp] theorem modR_ctxs (s : State) (t : Nat) (f : Regs → Regs) : (s.modR t f).ctxs = s.ctxs := rfl
@[simp] theorem modR_launches (s : State) (t : Nat) (f : Regs → Regs) : (s.modR t f).launches = s.launches := rfl
@[simp] theorem modR_queues (s : State) (t : Nat) (f : Regs → Regs) : (s.modR t f).queues = s.queues := rfl
@[simp] theorem modR_mem (s : State) (t : Nat) (f : Regs → Regs) : (s.modR t f).mem = s.mem := rfl
@[simp] theorem modR_poison (s : State) (t : Nat) (f : Regs → Regs) : (s.modR t f).poison = s.poison := rfl
@[simp] theorem modR_coh (s : State) (t : Nat) (f : Regs → Regs) : (s.modR t f).coh = s.coh := rfl
@[simp] theorem modR_net (s : State) (t : Nat) (f : Regs → Regs) : (s.modR t f).net = s.net := rfl
@[simp] theorem modR_fabric (s : State) (t : Nat) (f : Regs → Regs) : (s.modR t f).fabric = s.fabric := rfl
@[simp] theorem modR_hub (s : State) (t : Nat) (f : Regs → Regs) : (s.modR t f).hub = s.hub := rfl
@[simp] theorem modR_host (s : State) (t : Nat) (f : Regs → Regs) : (s.modR t f).host = s.host := rfl
@[simp] theorem modR_peers (s : State) (t : Nat) (f : Regs → Regs) : (s.modR t f).peers = s.peers := rfl
@[simp] theorem modR_mgmt (s : State) (t : Nat) (f : Regs → Regs) : (s.modR t f).mgmt = s.mgmt := rfl

/-! ### State.setG -/

@[simp] theorem setG_turn (s : State) (t n : Nat) (v : Word) : (s.setG t n v).turn = s.turn := rfl
@[simp] theorem setG_cycle (s : State) (t n : Nat) (v : Word) : (s.setG t n v).cycle = s.cycle := rfl
@[simp] theorem setG_freeIdx (s : State) (t n : Nat) (v : Word) : (s.setG t n v).freeIdx = s.freeIdx := rfl
@[simp] theorem setG_nextId (s : State) (t n : Nat) (v : Word) : (s.setG t n v).nextId = s.nextId := rfl
@[simp] theorem setG_inputs (s : State) (t n : Nat) (v : Word) : (s.setG t n v).inputs = s.inputs := rfl
@[simp] theorem setG_cores (s : State) (t n : Nat) (v : Word) : (s.setG t n v).cores = s.cores := rfl
@[simp] theorem setG_clusters (s : State) (t n : Nat) (v : Word) : (s.setG t n v).clusters = s.clusters := rfl
@[simp] theorem setG_dies (s : State) (t n : Nat) (v : Word) : (s.setG t n v).dies = s.dies := rfl
@[simp] theorem setG_ctxs (s : State) (t n : Nat) (v : Word) : (s.setG t n v).ctxs = s.ctxs := rfl
@[simp] theorem setG_launches (s : State) (t n : Nat) (v : Word) : (s.setG t n v).launches = s.launches := rfl
@[simp] theorem setG_queues (s : State) (t n : Nat) (v : Word) : (s.setG t n v).queues = s.queues := rfl
@[simp] theorem setG_mem (s : State) (t n : Nat) (v : Word) : (s.setG t n v).mem = s.mem := rfl
@[simp] theorem setG_poison (s : State) (t n : Nat) (v : Word) : (s.setG t n v).poison = s.poison := rfl
@[simp] theorem setG_coh (s : State) (t n : Nat) (v : Word) : (s.setG t n v).coh = s.coh := rfl
@[simp] theorem setG_net (s : State) (t n : Nat) (v : Word) : (s.setG t n v).net = s.net := rfl
@[simp] theorem setG_fabric (s : State) (t n : Nat) (v : Word) : (s.setG t n v).fabric = s.fabric := rfl
@[simp] theorem setG_hub (s : State) (t n : Nat) (v : Word) : (s.setG t n v).hub = s.hub := rfl
@[simp] theorem setG_host (s : State) (t n : Nat) (v : Word) : (s.setG t n v).host = s.host := rfl
@[simp] theorem setG_peers (s : State) (t n : Nat) (v : Word) : (s.setG t n v).peers = s.peers := rfl
@[simp] theorem setG_mgmt (s : State) (t n : Nat) (v : Word) : (s.setG t n v).mgmt = s.mgmt := rfl

/-! ### State.advance -/

@[simp] theorem advance_turn (s : State) (t n : Nat) : (s.advance t n).turn = s.turn := rfl
@[simp] theorem advance_cycle (s : State) (t n : Nat) : (s.advance t n).cycle = s.cycle := rfl
@[simp] theorem advance_freeIdx (s : State) (t n : Nat) : (s.advance t n).freeIdx = s.freeIdx := rfl
@[simp] theorem advance_nextId (s : State) (t n : Nat) : (s.advance t n).nextId = s.nextId := rfl
@[simp] theorem advance_inputs (s : State) (t n : Nat) : (s.advance t n).inputs = s.inputs := rfl
@[simp] theorem advance_cores (s : State) (t n : Nat) : (s.advance t n).cores = s.cores := rfl
@[simp] theorem advance_clusters (s : State) (t n : Nat) : (s.advance t n).clusters = s.clusters := rfl
@[simp] theorem advance_dies (s : State) (t n : Nat) : (s.advance t n).dies = s.dies := rfl
@[simp] theorem advance_ctxs (s : State) (t n : Nat) : (s.advance t n).ctxs = s.ctxs := rfl
@[simp] theorem advance_launches (s : State) (t n : Nat) : (s.advance t n).launches = s.launches := rfl
@[simp] theorem advance_queues (s : State) (t n : Nat) : (s.advance t n).queues = s.queues := rfl
@[simp] theorem advance_mem (s : State) (t n : Nat) : (s.advance t n).mem = s.mem := rfl
@[simp] theorem advance_poison (s : State) (t n : Nat) : (s.advance t n).poison = s.poison := rfl
@[simp] theorem advance_coh (s : State) (t n : Nat) : (s.advance t n).coh = s.coh := rfl
@[simp] theorem advance_net (s : State) (t n : Nat) : (s.advance t n).net = s.net := rfl
@[simp] theorem advance_fabric (s : State) (t n : Nat) : (s.advance t n).fabric = s.fabric := rfl
@[simp] theorem advance_hub (s : State) (t n : Nat) : (s.advance t n).hub = s.hub := rfl
@[simp] theorem advance_host (s : State) (t n : Nat) : (s.advance t n).host = s.host := rfl
@[simp] theorem advance_peers (s : State) (t n : Nat) : (s.advance t n).peers = s.peers := rfl
@[simp] theorem advance_mgmt (s : State) (t n : Nat) : (s.advance t n).mgmt = s.mgmt := rfl

/-! ### State.noteStall -/

@[simp] theorem noteStall_turn (s : State) (t : Nat) (c : Cause) : (s.noteStall t c).turn = s.turn := rfl
@[simp] theorem noteStall_cycle (s : State) (t : Nat) (c : Cause) : (s.noteStall t c).cycle = s.cycle := rfl
@[simp] theorem noteStall_freeIdx (s : State) (t : Nat) (c : Cause) : (s.noteStall t c).freeIdx = s.freeIdx := rfl
@[simp] theorem noteStall_nextId (s : State) (t : Nat) (c : Cause) : (s.noteStall t c).nextId = s.nextId := rfl
@[simp] theorem noteStall_inputs (s : State) (t : Nat) (c : Cause) : (s.noteStall t c).inputs = s.inputs := rfl
@[simp] theorem noteStall_cores (s : State) (t : Nat) (c : Cause) : (s.noteStall t c).cores = s.cores := rfl
@[simp] theorem noteStall_clusters (s : State) (t : Nat) (c : Cause) : (s.noteStall t c).clusters = s.clusters := rfl
@[simp] theorem noteStall_dies (s : State) (t : Nat) (c : Cause) : (s.noteStall t c).dies = s.dies := rfl
@[simp] theorem noteStall_ctxs (s : State) (t : Nat) (c : Cause) : (s.noteStall t c).ctxs = s.ctxs := rfl
@[simp] theorem noteStall_launches (s : State) (t : Nat) (c : Cause) : (s.noteStall t c).launches = s.launches := rfl
@[simp] theorem noteStall_queues (s : State) (t : Nat) (c : Cause) : (s.noteStall t c).queues = s.queues := rfl
@[simp] theorem noteStall_mem (s : State) (t : Nat) (c : Cause) : (s.noteStall t c).mem = s.mem := rfl
@[simp] theorem noteStall_poison (s : State) (t : Nat) (c : Cause) : (s.noteStall t c).poison = s.poison := rfl
@[simp] theorem noteStall_coh (s : State) (t : Nat) (c : Cause) : (s.noteStall t c).coh = s.coh := rfl
@[simp] theorem noteStall_net (s : State) (t : Nat) (c : Cause) : (s.noteStall t c).net = s.net := rfl
@[simp] theorem noteStall_fabric (s : State) (t : Nat) (c : Cause) : (s.noteStall t c).fabric = s.fabric := rfl
@[simp] theorem noteStall_hub (s : State) (t : Nat) (c : Cause) : (s.noteStall t c).hub = s.hub := rfl
@[simp] theorem noteStall_host (s : State) (t : Nat) (c : Cause) : (s.noteStall t c).host = s.host := rfl
@[simp] theorem noteStall_peers (s : State) (t : Nat) (c : Cause) : (s.noteStall t c).peers = s.peers := rfl
@[simp] theorem noteStall_mgmt (s : State) (t : Nat) (c : Cause) : (s.noteStall t c).mgmt = s.mgmt := rfl

/-! ### State.modDie -/

@[simp] theorem modDie_turn (s : State) (k : Nat) (f : Die → Die) : (s.modDie k f).turn = s.turn := rfl
@[simp] theorem modDie_cycle (s : State) (k : Nat) (f : Die → Die) : (s.modDie k f).cycle = s.cycle := rfl
@[simp] theorem modDie_freeIdx (s : State) (k : Nat) (f : Die → Die) : (s.modDie k f).freeIdx = s.freeIdx := rfl
@[simp] theorem modDie_nextId (s : State) (k : Nat) (f : Die → Die) : (s.modDie k f).nextId = s.nextId := rfl
@[simp] theorem modDie_inputs (s : State) (k : Nat) (f : Die → Die) : (s.modDie k f).inputs = s.inputs := rfl
@[simp] theorem modDie_tasks (s : State) (k : Nat) (f : Die → Die) : (s.modDie k f).tasks = s.tasks := rfl
@[simp] theorem modDie_cores (s : State) (k : Nat) (f : Die → Die) : (s.modDie k f).cores = s.cores := rfl
@[simp] theorem modDie_clusters (s : State) (k : Nat) (f : Die → Die) : (s.modDie k f).clusters = s.clusters := rfl
@[simp] theorem modDie_ctxs (s : State) (k : Nat) (f : Die → Die) : (s.modDie k f).ctxs = s.ctxs := rfl
@[simp] theorem modDie_launches (s : State) (k : Nat) (f : Die → Die) : (s.modDie k f).launches = s.launches := rfl
@[simp] theorem modDie_queues (s : State) (k : Nat) (f : Die → Die) : (s.modDie k f).queues = s.queues := rfl
@[simp] theorem modDie_mem (s : State) (k : Nat) (f : Die → Die) : (s.modDie k f).mem = s.mem := rfl
@[simp] theorem modDie_poison (s : State) (k : Nat) (f : Die → Die) : (s.modDie k f).poison = s.poison := rfl
@[simp] theorem modDie_coh (s : State) (k : Nat) (f : Die → Die) : (s.modDie k f).coh = s.coh := rfl
@[simp] theorem modDie_net (s : State) (k : Nat) (f : Die → Die) : (s.modDie k f).net = s.net := rfl
@[simp] theorem modDie_fabric (s : State) (k : Nat) (f : Die → Die) : (s.modDie k f).fabric = s.fabric := rfl
@[simp] theorem modDie_hub (s : State) (k : Nat) (f : Die → Die) : (s.modDie k f).hub = s.hub := rfl
@[simp] theorem modDie_host (s : State) (k : Nat) (f : Die → Die) : (s.modDie k f).host = s.host := rfl
@[simp] theorem modDie_peers (s : State) (k : Nat) (f : Die → Die) : (s.modDie k f).peers = s.peers := rfl
@[simp] theorem modDie_mgmt (s : State) (k : Nat) (f : Die → Die) : (s.modDie k f).mgmt = s.mgmt := rfl

/-! ### State.modCtx -/

@[simp] theorem modCtx_turn (s : State) (k : Nat) (f : Ctx → Ctx) : (s.modCtx k f).turn = s.turn := by unfold State.modCtx; split <;> rfl
@[simp] theorem modCtx_cycle (s : State) (k : Nat) (f : Ctx → Ctx) : (s.modCtx k f).cycle = s.cycle := by unfold State.modCtx; split <;> rfl
@[simp] theorem modCtx_freeIdx (s : State) (k : Nat) (f : Ctx → Ctx) : (s.modCtx k f).freeIdx = s.freeIdx := by unfold State.modCtx; split <;> rfl
@[simp] theorem modCtx_nextId (s : State) (k : Nat) (f : Ctx → Ctx) : (s.modCtx k f).nextId = s.nextId := by unfold State.modCtx; split <;> rfl
@[simp] theorem modCtx_inputs (s : State) (k : Nat) (f : Ctx → Ctx) : (s.modCtx k f).inputs = s.inputs := by unfold State.modCtx; split <;> rfl
@[simp] theorem modCtx_tasks (s : State) (k : Nat) (f : Ctx → Ctx) : (s.modCtx k f).tasks = s.tasks := by unfold State.modCtx; split <;> rfl
@[simp] theorem modCtx_cores (s : State) (k : Nat) (f : Ctx → Ctx) : (s.modCtx k f).cores = s.cores := by unfold State.modCtx; split <;> rfl
@[simp] theorem modCtx_clusters (s : State) (k : Nat) (f : Ctx → Ctx) : (s.modCtx k f).clusters = s.clusters := by unfold State.modCtx; split <;> rfl
@[simp] theorem modCtx_dies (s : State) (k : Nat) (f : Ctx → Ctx) : (s.modCtx k f).dies = s.dies := by unfold State.modCtx; split <;> rfl
@[simp] theorem modCtx_launches (s : State) (k : Nat) (f : Ctx → Ctx) : (s.modCtx k f).launches = s.launches := by unfold State.modCtx; split <;> rfl
@[simp] theorem modCtx_queues (s : State) (k : Nat) (f : Ctx → Ctx) : (s.modCtx k f).queues = s.queues := by unfold State.modCtx; split <;> rfl
@[simp] theorem modCtx_mem (s : State) (k : Nat) (f : Ctx → Ctx) : (s.modCtx k f).mem = s.mem := by unfold State.modCtx; split <;> rfl
@[simp] theorem modCtx_poison (s : State) (k : Nat) (f : Ctx → Ctx) : (s.modCtx k f).poison = s.poison := by unfold State.modCtx; split <;> rfl
@[simp] theorem modCtx_coh (s : State) (k : Nat) (f : Ctx → Ctx) : (s.modCtx k f).coh = s.coh := by unfold State.modCtx; split <;> rfl
@[simp] theorem modCtx_net (s : State) (k : Nat) (f : Ctx → Ctx) : (s.modCtx k f).net = s.net := by unfold State.modCtx; split <;> rfl
@[simp] theorem modCtx_fabric (s : State) (k : Nat) (f : Ctx → Ctx) : (s.modCtx k f).fabric = s.fabric := by unfold State.modCtx; split <;> rfl
@[simp] theorem modCtx_hub (s : State) (k : Nat) (f : Ctx → Ctx) : (s.modCtx k f).hub = s.hub := by unfold State.modCtx; split <;> rfl
@[simp] theorem modCtx_host (s : State) (k : Nat) (f : Ctx → Ctx) : (s.modCtx k f).host = s.host := by unfold State.modCtx; split <;> rfl
@[simp] theorem modCtx_peers (s : State) (k : Nat) (f : Ctx → Ctx) : (s.modCtx k f).peers = s.peers := by unfold State.modCtx; split <;> rfl
@[simp] theorem modCtx_mgmt (s : State) (k : Nat) (f : Ctx → Ctx) : (s.modCtx k f).mgmt = s.mgmt := by unfold State.modCtx; split <;> rfl

/-! ### State.modLaunch -/

@[simp] theorem modLaunch_turn (s : State) (k : Nat) (f : Launch → Launch) : (s.modLaunch k f).turn = s.turn := by unfold State.modLaunch; split <;> rfl
@[simp] theorem modLaunch_cycle (s : State) (k : Nat) (f : Launch → Launch) : (s.modLaunch k f).cycle = s.cycle := by unfold State.modLaunch; split <;> rfl
@[simp] theorem modLaunch_freeIdx (s : State) (k : Nat) (f : Launch → Launch) : (s.modLaunch k f).freeIdx = s.freeIdx := by unfold State.modLaunch; split <;> rfl
@[simp] theorem modLaunch_nextId (s : State) (k : Nat) (f : Launch → Launch) : (s.modLaunch k f).nextId = s.nextId := by unfold State.modLaunch; split <;> rfl
@[simp] theorem modLaunch_inputs (s : State) (k : Nat) (f : Launch → Launch) : (s.modLaunch k f).inputs = s.inputs := by unfold State.modLaunch; split <;> rfl
@[simp] theorem modLaunch_tasks (s : State) (k : Nat) (f : Launch → Launch) : (s.modLaunch k f).tasks = s.tasks := by unfold State.modLaunch; split <;> rfl
@[simp] theorem modLaunch_cores (s : State) (k : Nat) (f : Launch → Launch) : (s.modLaunch k f).cores = s.cores := by unfold State.modLaunch; split <;> rfl
@[simp] theorem modLaunch_clusters (s : State) (k : Nat) (f : Launch → Launch) : (s.modLaunch k f).clusters = s.clusters := by unfold State.modLaunch; split <;> rfl
@[simp] theorem modLaunch_dies (s : State) (k : Nat) (f : Launch → Launch) : (s.modLaunch k f).dies = s.dies := by unfold State.modLaunch; split <;> rfl
@[simp] theorem modLaunch_ctxs (s : State) (k : Nat) (f : Launch → Launch) : (s.modLaunch k f).ctxs = s.ctxs := by unfold State.modLaunch; split <;> rfl
@[simp] theorem modLaunch_queues (s : State) (k : Nat) (f : Launch → Launch) : (s.modLaunch k f).queues = s.queues := by unfold State.modLaunch; split <;> rfl
@[simp] theorem modLaunch_mem (s : State) (k : Nat) (f : Launch → Launch) : (s.modLaunch k f).mem = s.mem := by unfold State.modLaunch; split <;> rfl
@[simp] theorem modLaunch_poison (s : State) (k : Nat) (f : Launch → Launch) : (s.modLaunch k f).poison = s.poison := by unfold State.modLaunch; split <;> rfl
@[simp] theorem modLaunch_coh (s : State) (k : Nat) (f : Launch → Launch) : (s.modLaunch k f).coh = s.coh := by unfold State.modLaunch; split <;> rfl
@[simp] theorem modLaunch_net (s : State) (k : Nat) (f : Launch → Launch) : (s.modLaunch k f).net = s.net := by unfold State.modLaunch; split <;> rfl
@[simp] theorem modLaunch_fabric (s : State) (k : Nat) (f : Launch → Launch) : (s.modLaunch k f).fabric = s.fabric := by unfold State.modLaunch; split <;> rfl
@[simp] theorem modLaunch_hub (s : State) (k : Nat) (f : Launch → Launch) : (s.modLaunch k f).hub = s.hub := by unfold State.modLaunch; split <;> rfl
@[simp] theorem modLaunch_host (s : State) (k : Nat) (f : Launch → Launch) : (s.modLaunch k f).host = s.host := by unfold State.modLaunch; split <;> rfl
@[simp] theorem modLaunch_peers (s : State) (k : Nat) (f : Launch → Launch) : (s.modLaunch k f).peers = s.peers := by unfold State.modLaunch; split <;> rfl
@[simp] theorem modLaunch_mgmt (s : State) (k : Nat) (f : Launch → Launch) : (s.modLaunch k f).mgmt = s.mgmt := by unfold State.modLaunch; split <;> rfl

/-! ### State.modQueue -/

@[simp] theorem modQueue_turn (s : State) (k : Nat) (f : Queue → Queue) : (s.modQueue k f).turn = s.turn := by unfold State.modQueue; split <;> rfl
@[simp] theorem modQueue_cycle (s : State) (k : Nat) (f : Queue → Queue) : (s.modQueue k f).cycle = s.cycle := by unfold State.modQueue; split <;> rfl
@[simp] theorem modQueue_freeIdx (s : State) (k : Nat) (f : Queue → Queue) : (s.modQueue k f).freeIdx = s.freeIdx := by unfold State.modQueue; split <;> rfl
@[simp] theorem modQueue_nextId (s : State) (k : Nat) (f : Queue → Queue) : (s.modQueue k f).nextId = s.nextId := by unfold State.modQueue; split <;> rfl
@[simp] theorem modQueue_inputs (s : State) (k : Nat) (f : Queue → Queue) : (s.modQueue k f).inputs = s.inputs := by unfold State.modQueue; split <;> rfl
@[simp] theorem modQueue_tasks (s : State) (k : Nat) (f : Queue → Queue) : (s.modQueue k f).tasks = s.tasks := by unfold State.modQueue; split <;> rfl
@[simp] theorem modQueue_cores (s : State) (k : Nat) (f : Queue → Queue) : (s.modQueue k f).cores = s.cores := by unfold State.modQueue; split <;> rfl
@[simp] theorem modQueue_clusters (s : State) (k : Nat) (f : Queue → Queue) : (s.modQueue k f).clusters = s.clusters := by unfold State.modQueue; split <;> rfl
@[simp] theorem modQueue_dies (s : State) (k : Nat) (f : Queue → Queue) : (s.modQueue k f).dies = s.dies := by unfold State.modQueue; split <;> rfl
@[simp] theorem modQueue_ctxs (s : State) (k : Nat) (f : Queue → Queue) : (s.modQueue k f).ctxs = s.ctxs := by unfold State.modQueue; split <;> rfl
@[simp] theorem modQueue_launches (s : State) (k : Nat) (f : Queue → Queue) : (s.modQueue k f).launches = s.launches := by unfold State.modQueue; split <;> rfl
@[simp] theorem modQueue_mem (s : State) (k : Nat) (f : Queue → Queue) : (s.modQueue k f).mem = s.mem := by unfold State.modQueue; split <;> rfl
@[simp] theorem modQueue_poison (s : State) (k : Nat) (f : Queue → Queue) : (s.modQueue k f).poison = s.poison := by unfold State.modQueue; split <;> rfl
@[simp] theorem modQueue_coh (s : State) (k : Nat) (f : Queue → Queue) : (s.modQueue k f).coh = s.coh := by unfold State.modQueue; split <;> rfl
@[simp] theorem modQueue_net (s : State) (k : Nat) (f : Queue → Queue) : (s.modQueue k f).net = s.net := by unfold State.modQueue; split <;> rfl
@[simp] theorem modQueue_fabric (s : State) (k : Nat) (f : Queue → Queue) : (s.modQueue k f).fabric = s.fabric := by unfold State.modQueue; split <;> rfl
@[simp] theorem modQueue_hub (s : State) (k : Nat) (f : Queue → Queue) : (s.modQueue k f).hub = s.hub := by unfold State.modQueue; split <;> rfl
@[simp] theorem modQueue_host (s : State) (k : Nat) (f : Queue → Queue) : (s.modQueue k f).host = s.host := by unfold State.modQueue; split <;> rfl
@[simp] theorem modQueue_peers (s : State) (k : Nat) (f : Queue → Queue) : (s.modQueue k f).peers = s.peers := by unfold State.modQueue; split <;> rfl
@[simp] theorem modQueue_mgmt (s : State) (k : Nat) (f : Queue → Queue) : (s.modQueue k f).mgmt = s.mgmt := by unfold State.modQueue; split <;> rfl

/-! ### State.modCoh -/

@[simp] theorem modCoh_turn (s : State) (f : Coherence → Coherence) : (s.modCoh f).turn = s.turn := rfl
@[simp] theorem modCoh_cycle (s : State) (f : Coherence → Coherence) : (s.modCoh f).cycle = s.cycle := rfl
@[simp] theorem modCoh_freeIdx (s : State) (f : Coherence → Coherence) : (s.modCoh f).freeIdx = s.freeIdx := rfl
@[simp] theorem modCoh_nextId (s : State) (f : Coherence → Coherence) : (s.modCoh f).nextId = s.nextId := rfl
@[simp] theorem modCoh_inputs (s : State) (f : Coherence → Coherence) : (s.modCoh f).inputs = s.inputs := rfl
@[simp] theorem modCoh_tasks (s : State) (f : Coherence → Coherence) : (s.modCoh f).tasks = s.tasks := rfl
@[simp] theorem modCoh_cores (s : State) (f : Coherence → Coherence) : (s.modCoh f).cores = s.cores := rfl
@[simp] theorem modCoh_clusters (s : State) (f : Coherence → Coherence) : (s.modCoh f).clusters = s.clusters := rfl
@[simp] theorem modCoh_dies (s : State) (f : Coherence → Coherence) : (s.modCoh f).dies = s.dies := rfl
@[simp] theorem modCoh_ctxs (s : State) (f : Coherence → Coherence) : (s.modCoh f).ctxs = s.ctxs := rfl
@[simp] theorem modCoh_launches (s : State) (f : Coherence → Coherence) : (s.modCoh f).launches = s.launches := rfl
@[simp] theorem modCoh_queues (s : State) (f : Coherence → Coherence) : (s.modCoh f).queues = s.queues := rfl
@[simp] theorem modCoh_mem (s : State) (f : Coherence → Coherence) : (s.modCoh f).mem = s.mem := rfl
@[simp] theorem modCoh_poison (s : State) (f : Coherence → Coherence) : (s.modCoh f).poison = s.poison := rfl
@[simp] theorem modCoh_net (s : State) (f : Coherence → Coherence) : (s.modCoh f).net = s.net := rfl
@[simp] theorem modCoh_fabric (s : State) (f : Coherence → Coherence) : (s.modCoh f).fabric = s.fabric := rfl
@[simp] theorem modCoh_hub (s : State) (f : Coherence → Coherence) : (s.modCoh f).hub = s.hub := rfl
@[simp] theorem modCoh_host (s : State) (f : Coherence → Coherence) : (s.modCoh f).host = s.host := rfl
@[simp] theorem modCoh_peers (s : State) (f : Coherence → Coherence) : (s.modCoh f).peers = s.peers := rfl
@[simp] theorem modCoh_mgmt (s : State) (f : Coherence → Coherence) : (s.modCoh f).mgmt = s.mgmt := rfl

/-! ### State.modNet -/

@[simp] theorem modNet_turn (s : State) (f : Net → Net) : (s.modNet f).turn = s.turn := rfl
@[simp] theorem modNet_cycle (s : State) (f : Net → Net) : (s.modNet f).cycle = s.cycle := rfl
@[simp] theorem modNet_freeIdx (s : State) (f : Net → Net) : (s.modNet f).freeIdx = s.freeIdx := rfl
@[simp] theorem modNet_nextId (s : State) (f : Net → Net) : (s.modNet f).nextId = s.nextId := rfl
@[simp] theorem modNet_inputs (s : State) (f : Net → Net) : (s.modNet f).inputs = s.inputs := rfl
@[simp] theorem modNet_tasks (s : State) (f : Net → Net) : (s.modNet f).tasks = s.tasks := rfl
@[simp] theorem modNet_cores (s : State) (f : Net → Net) : (s.modNet f).cores = s.cores := rfl
@[simp] theorem modNet_clusters (s : State) (f : Net → Net) : (s.modNet f).clusters = s.clusters := rfl
@[simp] theorem modNet_dies (s : State) (f : Net → Net) : (s.modNet f).dies = s.dies := rfl
@[simp] theorem modNet_ctxs (s : State) (f : Net → Net) : (s.modNet f).ctxs = s.ctxs := rfl
@[simp] theorem modNet_launches (s : State) (f : Net → Net) : (s.modNet f).launches = s.launches := rfl
@[simp] theorem modNet_queues (s : State) (f : Net → Net) : (s.modNet f).queues = s.queues := rfl
@[simp] theorem modNet_mem (s : State) (f : Net → Net) : (s.modNet f).mem = s.mem := rfl
@[simp] theorem modNet_poison (s : State) (f : Net → Net) : (s.modNet f).poison = s.poison := rfl
@[simp] theorem modNet_coh (s : State) (f : Net → Net) : (s.modNet f).coh = s.coh := rfl
@[simp] theorem modNet_fabric (s : State) (f : Net → Net) : (s.modNet f).fabric = s.fabric := rfl
@[simp] theorem modNet_hub (s : State) (f : Net → Net) : (s.modNet f).hub = s.hub := rfl
@[simp] theorem modNet_host (s : State) (f : Net → Net) : (s.modNet f).host = s.host := rfl
@[simp] theorem modNet_peers (s : State) (f : Net → Net) : (s.modNet f).peers = s.peers := rfl
@[simp] theorem modNet_mgmt (s : State) (f : Net → Net) : (s.modNet f).mgmt = s.mgmt := rfl

/-! ### State.modHub -/

@[simp] theorem modHub_turn (s : State) (f : Hub → Hub) : (s.modHub f).turn = s.turn := rfl
@[simp] theorem modHub_cycle (s : State) (f : Hub → Hub) : (s.modHub f).cycle = s.cycle := rfl
@[simp] theorem modHub_freeIdx (s : State) (f : Hub → Hub) : (s.modHub f).freeIdx = s.freeIdx := rfl
@[simp] theorem modHub_nextId (s : State) (f : Hub → Hub) : (s.modHub f).nextId = s.nextId := rfl
@[simp] theorem modHub_inputs (s : State) (f : Hub → Hub) : (s.modHub f).inputs = s.inputs := rfl
@[simp] theorem modHub_tasks (s : State) (f : Hub → Hub) : (s.modHub f).tasks = s.tasks := rfl
@[simp] theorem modHub_cores (s : State) (f : Hub → Hub) : (s.modHub f).cores = s.cores := rfl
@[simp] theorem modHub_clusters (s : State) (f : Hub → Hub) : (s.modHub f).clusters = s.clusters := rfl
@[simp] theorem modHub_dies (s : State) (f : Hub → Hub) : (s.modHub f).dies = s.dies := rfl
@[simp] theorem modHub_ctxs (s : State) (f : Hub → Hub) : (s.modHub f).ctxs = s.ctxs := rfl
@[simp] theorem modHub_launches (s : State) (f : Hub → Hub) : (s.modHub f).launches = s.launches := rfl
@[simp] theorem modHub_queues (s : State) (f : Hub → Hub) : (s.modHub f).queues = s.queues := rfl
@[simp] theorem modHub_mem (s : State) (f : Hub → Hub) : (s.modHub f).mem = s.mem := rfl
@[simp] theorem modHub_poison (s : State) (f : Hub → Hub) : (s.modHub f).poison = s.poison := rfl
@[simp] theorem modHub_coh (s : State) (f : Hub → Hub) : (s.modHub f).coh = s.coh := rfl
@[simp] theorem modHub_net (s : State) (f : Hub → Hub) : (s.modHub f).net = s.net := rfl
@[simp] theorem modHub_fabric (s : State) (f : Hub → Hub) : (s.modHub f).fabric = s.fabric := rfl
@[simp] theorem modHub_host (s : State) (f : Hub → Hub) : (s.modHub f).host = s.host := rfl
@[simp] theorem modHub_peers (s : State) (f : Hub → Hub) : (s.modHub f).peers = s.peers := rfl
@[simp] theorem modHub_mgmt (s : State) (f : Hub → Hub) : (s.modHub f).mgmt = s.mgmt := rfl

/-! ### State.modMgmt -/

@[simp] theorem modMgmt_turn (s : State) (f : Mgmt → Mgmt) : (s.modMgmt f).turn = s.turn := rfl
@[simp] theorem modMgmt_cycle (s : State) (f : Mgmt → Mgmt) : (s.modMgmt f).cycle = s.cycle := rfl
@[simp] theorem modMgmt_freeIdx (s : State) (f : Mgmt → Mgmt) : (s.modMgmt f).freeIdx = s.freeIdx := rfl
@[simp] theorem modMgmt_nextId (s : State) (f : Mgmt → Mgmt) : (s.modMgmt f).nextId = s.nextId := rfl
@[simp] theorem modMgmt_inputs (s : State) (f : Mgmt → Mgmt) : (s.modMgmt f).inputs = s.inputs := rfl
@[simp] theorem modMgmt_tasks (s : State) (f : Mgmt → Mgmt) : (s.modMgmt f).tasks = s.tasks := rfl
@[simp] theorem modMgmt_cores (s : State) (f : Mgmt → Mgmt) : (s.modMgmt f).cores = s.cores := rfl
@[simp] theorem modMgmt_clusters (s : State) (f : Mgmt → Mgmt) : (s.modMgmt f).clusters = s.clusters := rfl
@[simp] theorem modMgmt_dies (s : State) (f : Mgmt → Mgmt) : (s.modMgmt f).dies = s.dies := rfl
@[simp] theorem modMgmt_ctxs (s : State) (f : Mgmt → Mgmt) : (s.modMgmt f).ctxs = s.ctxs := rfl
@[simp] theorem modMgmt_launches (s : State) (f : Mgmt → Mgmt) : (s.modMgmt f).launches = s.launches := rfl
@[simp] theorem modMgmt_queues (s : State) (f : Mgmt → Mgmt) : (s.modMgmt f).queues = s.queues := rfl
@[simp] theorem modMgmt_mem (s : State) (f : Mgmt → Mgmt) : (s.modMgmt f).mem = s.mem := rfl
@[simp] theorem modMgmt_poison (s : State) (f : Mgmt → Mgmt) : (s.modMgmt f).poison = s.poison := rfl
@[simp] theorem modMgmt_coh (s : State) (f : Mgmt → Mgmt) : (s.modMgmt f).coh = s.coh := rfl
@[simp] theorem modMgmt_net (s : State) (f : Mgmt → Mgmt) : (s.modMgmt f).net = s.net := rfl
@[simp] theorem modMgmt_fabric (s : State) (f : Mgmt → Mgmt) : (s.modMgmt f).fabric = s.fabric := rfl
@[simp] theorem modMgmt_hub (s : State) (f : Mgmt → Mgmt) : (s.modMgmt f).hub = s.hub := rfl
@[simp] theorem modMgmt_host (s : State) (f : Mgmt → Mgmt) : (s.modMgmt f).host = s.host := rfl
@[simp] theorem modMgmt_peers (s : State) (f : Mgmt → Mgmt) : (s.modMgmt f).peers = s.peers := rfl

/-! ### State.endTurn -/

@[simp] theorem endTurn_cycle (s : State) : (s.endTurn).cycle = s.cycle := rfl
@[simp] theorem endTurn_freeIdx (s : State) : (s.endTurn).freeIdx = s.freeIdx := rfl
@[simp] theorem endTurn_nextId (s : State) : (s.endTurn).nextId = s.nextId := rfl
@[simp] theorem endTurn_inputs (s : State) : (s.endTurn).inputs = s.inputs := rfl
@[simp] theorem endTurn_tasks (s : State) : (s.endTurn).tasks = s.tasks := rfl
@[simp] theorem endTurn_cores (s : State) : (s.endTurn).cores = s.cores := rfl
@[simp] theorem endTurn_clusters (s : State) : (s.endTurn).clusters = s.clusters := rfl
@[simp] theorem endTurn_dies (s : State) : (s.endTurn).dies = s.dies := rfl
@[simp] theorem endTurn_ctxs (s : State) : (s.endTurn).ctxs = s.ctxs := rfl
@[simp] theorem endTurn_launches (s : State) : (s.endTurn).launches = s.launches := rfl
@[simp] theorem endTurn_queues (s : State) : (s.endTurn).queues = s.queues := rfl
@[simp] theorem endTurn_mem (s : State) : (s.endTurn).mem = s.mem := rfl
@[simp] theorem endTurn_poison (s : State) : (s.endTurn).poison = s.poison := rfl
@[simp] theorem endTurn_coh (s : State) : (s.endTurn).coh = s.coh := rfl
@[simp] theorem endTurn_net (s : State) : (s.endTurn).net = s.net := rfl
@[simp] theorem endTurn_fabric (s : State) : (s.endTurn).fabric = s.fabric := rfl
@[simp] theorem endTurn_hub (s : State) : (s.endTurn).hub = s.hub := rfl
@[simp] theorem endTurn_host (s : State) : (s.endTurn).host = s.host := rfl
@[simp] theorem endTurn_peers (s : State) : (s.endTurn).peers = s.peers := rfl
@[simp] theorem endTurn_mgmt (s : State) : (s.endTurn).mgmt = s.mgmt := rfl

/-! ### State.wrote -/

@[simp] theorem wrote_cycle (s : State) (v : Word) : (s.wrote v).cycle = s.cycle := rfl
@[simp] theorem wrote_freeIdx (s : State) (v : Word) : (s.wrote v).freeIdx = s.freeIdx := rfl
@[simp] theorem wrote_nextId (s : State) (v : Word) : (s.wrote v).nextId = s.nextId := rfl
@[simp] theorem wrote_inputs (s : State) (v : Word) : (s.wrote v).inputs = s.inputs := rfl
@[simp] theorem wrote_tasks (s : State) (v : Word) : (s.wrote v).tasks = s.tasks := rfl
@[simp] theorem wrote_cores (s : State) (v : Word) : (s.wrote v).cores = s.cores := rfl
@[simp] theorem wrote_clusters (s : State) (v : Word) : (s.wrote v).clusters = s.clusters := rfl
@[simp] theorem wrote_dies (s : State) (v : Word) : (s.wrote v).dies = s.dies := rfl
@[simp] theorem wrote_ctxs (s : State) (v : Word) : (s.wrote v).ctxs = s.ctxs := rfl
@[simp] theorem wrote_launches (s : State) (v : Word) : (s.wrote v).launches = s.launches := rfl
@[simp] theorem wrote_queues (s : State) (v : Word) : (s.wrote v).queues = s.queues := rfl
@[simp] theorem wrote_mem (s : State) (v : Word) : (s.wrote v).mem = s.mem := rfl
@[simp] theorem wrote_poison (s : State) (v : Word) : (s.wrote v).poison = s.poison := rfl
@[simp] theorem wrote_coh (s : State) (v : Word) : (s.wrote v).coh = s.coh := rfl
@[simp] theorem wrote_net (s : State) (v : Word) : (s.wrote v).net = s.net := rfl
@[simp] theorem wrote_fabric (s : State) (v : Word) : (s.wrote v).fabric = s.fabric := rfl
@[simp] theorem wrote_hub (s : State) (v : Word) : (s.wrote v).hub = s.hub := rfl
@[simp] theorem wrote_host (s : State) (v : Word) : (s.wrote v).host = s.host := rfl
@[simp] theorem wrote_peers (s : State) (v : Word) : (s.wrote v).peers = s.peers := rfl
@[simp] theorem wrote_mgmt (s : State) (v : Word) : (s.wrote v).mgmt = s.mgmt := rfl

/-! ### State.flag -/

@[simp] theorem flag_turn (s : State) (t : Nat) (f : Flags) : (s.flag t f).turn = s.turn := rfl
@[simp] theorem flag_cycle (s : State) (t : Nat) (f : Flags) : (s.flag t f).cycle = s.cycle := rfl
@[simp] theorem flag_freeIdx (s : State) (t : Nat) (f : Flags) : (s.flag t f).freeIdx = s.freeIdx := rfl
@[simp] theorem flag_nextId (s : State) (t : Nat) (f : Flags) : (s.flag t f).nextId = s.nextId := rfl
@[simp] theorem flag_inputs (s : State) (t : Nat) (f : Flags) : (s.flag t f).inputs = s.inputs := rfl
@[simp] theorem flag_cores (s : State) (t : Nat) (f : Flags) : (s.flag t f).cores = s.cores := rfl
@[simp] theorem flag_clusters (s : State) (t : Nat) (f : Flags) : (s.flag t f).clusters = s.clusters := rfl
@[simp] theorem flag_dies (s : State) (t : Nat) (f : Flags) : (s.flag t f).dies = s.dies := rfl
@[simp] theorem flag_ctxs (s : State) (t : Nat) (f : Flags) : (s.flag t f).ctxs = s.ctxs := rfl
@[simp] theorem flag_launches (s : State) (t : Nat) (f : Flags) : (s.flag t f).launches = s.launches := rfl
@[simp] theorem flag_queues (s : State) (t : Nat) (f : Flags) : (s.flag t f).queues = s.queues := rfl
@[simp] theorem flag_mem (s : State) (t : Nat) (f : Flags) : (s.flag t f).mem = s.mem := rfl
@[simp] theorem flag_poison (s : State) (t : Nat) (f : Flags) : (s.flag t f).poison = s.poison := rfl
@[simp] theorem flag_coh (s : State) (t : Nat) (f : Flags) : (s.flag t f).coh = s.coh := rfl
@[simp] theorem flag_net (s : State) (t : Nat) (f : Flags) : (s.flag t f).net = s.net := rfl
@[simp] theorem flag_fabric (s : State) (t : Nat) (f : Flags) : (s.flag t f).fabric = s.fabric := rfl
@[simp] theorem flag_hub (s : State) (t : Nat) (f : Flags) : (s.flag t f).hub = s.hub := rfl
@[simp] theorem flag_host (s : State) (t : Nat) (f : Flags) : (s.flag t f).host = s.host := rfl
@[simp] theorem flag_peers (s : State) (t : Nat) (f : Flags) : (s.flag t f).peers = s.peers := rfl
@[simp] theorem flag_mgmt (s : State) (t : Nat) (f : Flags) : (s.flag t f).mgmt = s.mgmt := rfl

/-! ### State.memWrite -/

@[simp] theorem memWrite_turn (s : State) (a : Nat) (bs : List Byte) : (s.memWrite a bs).turn = s.turn := rfl
@[simp] theorem memWrite_cycle (s : State) (a : Nat) (bs : List Byte) : (s.memWrite a bs).cycle = s.cycle := rfl
@[simp] theorem memWrite_freeIdx (s : State) (a : Nat) (bs : List Byte) : (s.memWrite a bs).freeIdx = s.freeIdx := rfl
@[simp] theorem memWrite_nextId (s : State) (a : Nat) (bs : List Byte) : (s.memWrite a bs).nextId = s.nextId := rfl
@[simp] theorem memWrite_inputs (s : State) (a : Nat) (bs : List Byte) : (s.memWrite a bs).inputs = s.inputs := rfl
@[simp] theorem memWrite_tasks (s : State) (a : Nat) (bs : List Byte) : (s.memWrite a bs).tasks = s.tasks := rfl
@[simp] theorem memWrite_cores (s : State) (a : Nat) (bs : List Byte) : (s.memWrite a bs).cores = s.cores := rfl
@[simp] theorem memWrite_clusters (s : State) (a : Nat) (bs : List Byte) : (s.memWrite a bs).clusters = s.clusters := rfl
@[simp] theorem memWrite_dies (s : State) (a : Nat) (bs : List Byte) : (s.memWrite a bs).dies = s.dies := rfl
@[simp] theorem memWrite_ctxs (s : State) (a : Nat) (bs : List Byte) : (s.memWrite a bs).ctxs = s.ctxs := rfl
@[simp] theorem memWrite_launches (s : State) (a : Nat) (bs : List Byte) : (s.memWrite a bs).launches = s.launches := rfl
@[simp] theorem memWrite_queues (s : State) (a : Nat) (bs : List Byte) : (s.memWrite a bs).queues = s.queues := rfl
@[simp] theorem memWrite_coh (s : State) (a : Nat) (bs : List Byte) : (s.memWrite a bs).coh = s.coh := rfl
@[simp] theorem memWrite_net (s : State) (a : Nat) (bs : List Byte) : (s.memWrite a bs).net = s.net := rfl
@[simp] theorem memWrite_fabric (s : State) (a : Nat) (bs : List Byte) : (s.memWrite a bs).fabric = s.fabric := rfl
@[simp] theorem memWrite_hub (s : State) (a : Nat) (bs : List Byte) : (s.memWrite a bs).hub = s.hub := rfl
@[simp] theorem memWrite_host (s : State) (a : Nat) (bs : List Byte) : (s.memWrite a bs).host = s.host := rfl
@[simp] theorem memWrite_peers (s : State) (a : Nat) (bs : List Byte) : (s.memWrite a bs).peers = s.peers := rfl
@[simp] theorem memWrite_mgmt (s : State) (a : Nat) (bs : List Byte) : (s.memWrite a bs).mgmt = s.mgmt := rfl

end Sys2Proof.Laws
end

