-- ==== Sys2Proof/Laws/Issue.lean ====
section
/-! SUPPORT. What issuing an instruction does: the operand checks, reads and writes of registers and zr, completion, and
the fault, once for every instruction. -/

namespace Sys2Proof.Laws

open Sys2Proof.Machine

/-! ### The thread's own task -/

@[simp] theorem task_setTask (s : State) (t : Nat) (x : Task) : (s.setTask t x).task t = x := by
  simp [State.task, State.setTask]

theorem task_setTask_ne (s : State) {t u : Nat} (x : Task) (h : u ≠ t) : (s.setTask t x).task u = s.task u := by
  simp [State.task, State.setTask, mfind_mset_ne _ _ h]

@[simp] theorem task_modTask (s : State) (t : Nat) (f : Task → Task) : (s.modTask t f).task t = f (s.task t) := by
  simp [State.modTask]

theorem task_modTask_ne (s : State) {t u : Nat} (f : Task → Task) (h : u ≠ t) : (s.modTask t f).task u = s.task u := by
  simp [State.modTask, task_setTask_ne _ _ h]

@[simp] theorem modTask_modTask (s : State) (t : Nat) (f g : Task → Task) :
    (s.modTask t f).modTask t g = s.modTask t fun x => g (f x) := by
  simp [State.modTask, State.setTask, State.task]

@[simp] theorem task_wrote (s : State) (v : Word) (t : Nat) : (s.wrote v).task t = s.task t := rfl

@[simp] theorem task_modR (s : State) (t : Nat) (f : Regs → Regs) :
    (s.modR t f).task t = { s.task t with r := f (s.task t).r } := by
  simp [State.modR, Task.modR]

/-! ### Operand checks -/

theorem limit_lt (t : Task) : t.limit < 120 := by
  unfold Task.limit classRegs
  split
  · decide
  · split <;> omega

theorem misuses_fits {s : State} {tid : Nat} {o : Opd} (h : Fits s tid o) (seen : List Nat) (src : Bool)
    (hs : ∀ n ∈ seen, n ≠ 125) : misuses s tid seen src o = none := by
  have hz : isPort 125 = false := by decide
  have hc : seen.contains 125 = false := by
    simp only [List.contains_eq_any_beq, List.any_eq_false, beq_iff_eq]
    intro x hx h; exact hs x hx h.symm
  cases o with
  | src n => obtain ⟨h, _⟩ | rfl := h <;> simp [misuses, portAllowed, QA, QB, MP, EP, CT, ZR, hz] <;> omega
  | dst n =>
    obtain ⟨h, _⟩ | rfl := h
    · simp [misuses]; omega
    · simp only [misuses, portAllowed, QA, QB, MP, EP, CT, ZR]; rw [hc]; simp
  | rw n => obtain ⟨h, _⟩ | rfl := h <;> simp [misuses, ZR]; omega
  | strict n => simp [misuses]; exact h.1
  | casPair n => simp [misuses]; exact h.1
  | args b n => simp [misuses]; intro i hi; exact (h i hi).1
  | handles b n => simp [misuses]; exact h.1
  | rows d n => simp [misuses]; have := h.1; omega
  | late k => rfl

theorem isPort_names {s : State} {tid n : Nat} (h : Names1 s tid n) : isPort n = false := by
  obtain ⟨h, _⟩ | rfl := h
  · simp [isPort, ZR]; omega
  · rfl

theorem portNamed_fits {s : State} {tid : Nat} {o : Opd} (h : Fits s tid o) : portNamed o = [] := by
  cases o <;> simp [portNamed, isPort, ZR]
  all_goals obtain ⟨h, _⟩ | rfl := h <;> omega

theorem isSrcPort_fits {s : State} {tid : Nat} {o : Opd} (h : Fits s tid o) : isSrcPort o = false := by
  cases o <;> simp [isSrcPort, isPort, ZR]
  all_goals obtain ⟨h, _⟩ | rfl := h <;> omega

theorem firstMisuse_fits {s : State} {tid : Nat} {ops : List Opd} (h : ∀ o ∈ ops, Fits s tid o) :
    firstMisuse s tid [] false ops = none := by
  induction ops with
  | nil => rfl
  | cons o r ih =>
    have ho := h o (by simp)
    simp only [firstMisuse, misuses_fits ho [] false (by simp), portNamed_fits ho, isSrcPort_fits ho]
    exact ih fun p hp => h p (by simp [hp])

theorem overLimit_fits {s : State} {tid : Nat} {o : Opd} (h : Fits s tid o) : overLimit (s.task tid).limit o = none := by
  cases o with
  | src n => obtain ⟨h1, h2, _⟩ | rfl := h <;> simp [overLimit]; omega
  | dst n => obtain ⟨h1, h2, _⟩ | rfl := h <;> simp [overLimit]; omega
  | rw n => obtain ⟨h1, h2, _⟩ | rfl := h <;> simp [overLimit]; omega
  | strict n => simp [overLimit]; exact h.2.1
  | casPair n => have := h.2.1; simp only [overLimit]; rw [if_neg (by omega), if_neg (by omega)]
  | args b n => simp [overLimit]; intro i hi; exact (h i hi).2.1
  | handles b n => simp [overLimit]; intro i hi; exact (h.2 i hi).1
  | rows d n => have := h.2.1; simp [overLimit]; omega
  | late k => rfl

/-- Operands that name registers or zr within the limit pass R48's checks. -/
theorem checkOperands_fits {s : State} {tid : Nat} {ops : List Opd} (h : ∀ o ∈ ops, Fits s tid o) :
    checkOperands s tid ops = .ok () := by
  have : ops.findSome? (overLimit (s.task tid).limit) = none := by
    rw [List.findSome?_eq_none_iff]; exact fun o ho => overLimit_fits (h o ho)
  simp [checkOperands, firstMisuse_fits h, this]

theorem sourceReady_names {s : State} {tid n : Nat} (h : Names1 s tid n) : sourceReady s tid n = .ok () := by
  obtain ⟨h, _⟩ | rfl := h
  · simp [sourceReady, QA, QB, EP, show n ≠ 120 by omega, show n ≠ 121 by omega, show n ≠ 123 by omega]
  · simp [sourceReady, QA, QB, EP]

theorem destReady_names {s : State} {tid n : Nat} (h : Names1 s tid n) : destReady s tid n = .ok () := by
  obtain ⟨h, _⟩ | rfl := h
  · simp [destReady, QA, QB, MP, EP, show n ≠ 120 by omega, show n ≠ 121 by omega, show n ≠ 122 by omega,
      show n ≠ 123 by omega]
  · simp [destReady, QA, QB, MP, EP]

theorem opdReady_fits {s : State} {tid : Nat} {o : Opd} (h : Fits s tid o) : opdReady s tid o = .ok () := by
  cases o <;> simp only [opdReady]
  · exact sourceReady_names h
  · exact destReady_names h

/-- They are ready. -/
theorem opdsReady_fits {s : State} {tid : Nat} {ops : List Opd} (h : ∀ o ∈ ops, Fits s tid o) :
    opdsReady s tid ops = .ok () := by
  induction ops with
  | nil => rfl
  | cons o r ih =>
    simp [opdsReady, opdReady_fits (h o (by simp)), ih fun p hp => h p (by simp [hp]), bind, Except.bind]

theorem ready_names {s : State} {tid n : Nat} (h : Names1 s tid n) : Ready s tid n := by
  obtain ⟨_, _, h⟩ | rfl := h
  · exact h
  · rfl

/-- No register that a fitting operand names has a result pending. -/
theorem ready_fits {s : State} {tid : Nat} {o : Opd} (h : Fits s tid o) : ∀ k ∈ o.keys, Ready s tid k := by
  cases o <;> simp only [Opd.keys, List.mem_cons, List.not_mem_nil, or_false, List.mem_map, List.mem_range, forall_eq,
    forall_exists_index, and_imp, forall_apply_eq_imp_iff₂, forall_eq_or_imp]
  · exact ready_names h
  · exact ready_names h
  · exact ready_names h
  · exact h.2.2
  · exact h.2.2
  · exact fun i hi => (h i hi).2.2
  · exact fun i hi => (h.2 i hi).2
  · exact h.2.2
  · exact h

theorem resultsReady_fits {s : State} {tid : Nat} {ops : List Opd} (h : ∀ o ∈ ops, Fits s tid o) :
    resultsReady s tid ops = .ok () := by
  rw [resultsReady, if_neg]
  rw [Bool.not_eq_true, List.any_eq_false]
  intro k hk
  obtain ⟨o, ho, hk⟩ := List.mem_flatMap.mp hk
  rw [Bool.not_eq_true]
  exact ready_fits (h o ho) k hk

/-! ### Reads and writes of registers and zr -/

theorem readReg_names {s : State} {tid n : Nat} (h : Names1 s tid n) : readReg s tid n = .ok (Reads s tid n, s) := by
  obtain ⟨h, _⟩ | rfl := h
  · simp [readReg, Reads, h]
  · simp [readReg, Reads, QA, QB, MP, EP, CT]

/-- The state after a write through a field that names a register or zr, a pair's fingerprint left out. -/
theorem writeReg_names {s s0 : State} {tid n : Nat} (v : Word) (h : Names1 s0 tid n) :
    writeReg s tid n v = .ok (if n < 120 then (s.modR tid fun r => r.write n v).wrote v else s) := by
  obtain ⟨h, _⟩ | rfl := h
  · simp [writeReg, h, State.setG, Regs.write]
  · simp [writeReg, QA, QB, MP, EP]

/-! ### Completion -/

theorem issuing_turn {s : State} {tid : Nat} (h : Issuing s tid) : ∃ u, s.turn = some u ∧ u.tid = tid := by
  have := h.1
  cases hu : s.turn with
  | none => simp [hu] at this
  | some u => exact ⟨u, rfl, by simpa [hu] using this⟩

theorem pairWaits_none {s : State} {tid : Nat} (k : Kind) (ops : List Opd) (h : (s.task tid).pair = none) :
    pairWaits s tid k ops = false := by simp [pairWaits, h]

theorem isSrcPort_none {s : State} {tid : Nat} {ops : List Opd} (h : ∀ o ∈ ops, Fits s tid o) : ops.any isSrcPort = false := by
  rw [List.any_eq_false]; intro o ho; rw [isSrcPort_fits (h o ho)]; decide

/-- An unpaired thread's instruction retires with its registers as they are. -/
theorem retire_none {s s0 : State} {tid : Nat} (k : Kind) {ops : List Opd} (pc : Addr) (h : (s.task tid).pair = none)
    (ho : ∀ o ∈ ops, Fits s0 tid o) : retire s tid k ops pc = done s tid (k ≠ .plain && k ≠ .point) id := by
  simp [retire, done, pairRetire, h, isSrcPort_none ho, State.endTurn]

/-- What an unpaired thread's instruction does once its operands fit: its body decides. -/
theorem issueRaw_opens {s : State} {tid : Nat} {ops : List Opd} (len : Nat) (k : Kind) (body : Nat → State → M State)
    (h : Opens s tid ops) (hp : k = .priv → isFirmware s tid = true) :
    issueRaw len k ops body s =
      match body tid s with
      | .ok s' => .next (retire s' tid k ops (s.task tid).r.pc)
      | .error (.trap c d) => .next (faulted s tid len c d)
      | .error (.wait c f) => .next ((f s).noteStall tid c).endTurn
      | .error (.gone f) => .next (f s).endTurn := by
  obtain ⟨u, hu, rfl⟩ := issuing_turn h.1
  have hk : (decide (k = Kind.priv) && !isFirmware s u.tid) = false := by
    by_cases e : k = .priv
    · simp [e, hp e]
    · simp [e]
  have hy : readyNow s u.tid ops = .ok () := by simp only [readyNow, resultsReady_fits h.2, opdsReady_fits h.2]
  have hm : mustAgree s u.tid = false := by simp [mustAgree, h.1.2.1]
  simp only [issueRaw, hu, h.1.2.2, checkOperands_fits h.2, hy, hm, pairWaits_none k ops h.1.2.1, hk, bind, Except.bind,
    faulted, Option.map_some, Option.getD_some]
  cases body u.tid s with
  | ok a => rfl
  | error e => cases e <;> rfl

/-- Completion of an instruction that goes on at the next one. -/
theorem issue_ok {s s' : State} {tid : Nat} {ops : List Opd} {len : Nat} {k : Kind} {body : Nat → State → M State}
    (h : Opens s tid ops) (hp : k = .priv → isFirmware s tid = true) (hb : body tid s = .ok s')
    (hn : (s'.task tid).pair = none) : issue len k ops body s = .next (done s' tid (k ≠ .plain && k ≠ .point) fun r => r.skip len) := by
  have hn' : ((s'.advance tid len).task tid).pair = none := by simp [State.advance, hn]
  simp only [issue, issueRaw_opens _ _ _ h hp, hb, bind, Except.bind, retire_none _ _ hn' h.2]
  simp only [done, State.advance, State.modR, Task.modR, modTask_modTask, Regs.skip, id]

/-- Completion of an instruction that sets the program counter itself. -/
theorem issueRaw_ok {s s' : State} {tid : Nat} {ops : List Opd} {len : Nat} {k : Kind} {body : Nat → State → M State}
    (h : Opens s tid ops) (hp : k = .priv → isFirmware s tid = true) (hb : body tid s = .ok s')
    (hn : (s'.task tid).pair = none) : issueRaw len k ops body s = .next (done s' tid (k ≠ .plain && k ≠ .point) id) := by
  simp only [issueRaw_opens _ _ _ h hp, hb, retire_none _ _ hn h.2]

/-- A fault of the body. -/
theorem issue_trap {s : State} {tid : Nat} {ops : List Opd} {len : Nat} {k : Kind} {body : Nat → State → M State}
    {c : Code} {d : Word} (h : Opens s tid ops) (hp : k = .priv → isFirmware s tid = true)
    (hb : body tid s = .error (.trap c d)) : issue len k ops body s = .next (faulted s tid len c d) := by
  simp only [issue, issueRaw_opens _ _ _ h hp, hb, bind, Except.bind]

theorem issueRaw_trap {s : State} {tid : Nat} {ops : List Opd} {len : Nat} {k : Kind} {body : Nat → State → M State}
    {c : Code} {d : Word} (h : Opens s tid ops) (hp : k = .priv → isFirmware s tid = true)
    (hb : body tid s = .error (.trap c d)) : issueRaw len k ops body s = .next (faulted s tid len c d) := by
  simp only [issueRaw_opens _ _ _ h hp, hb]

/-- A task that leaves. -/
theorem issue_gone {s : State} {tid : Nat} {ops : List Opd} {len : Nat} {k : Kind} {body : Nat → State → M State}
    {f : State → State} (h : Opens s tid ops) (hp : k = .priv → isFirmware s tid = true)
    (hb : body tid s = .error (.gone f)) : issue len k ops body s = .next (f s).endTurn := by
  simp only [issue, issueRaw_opens _ _ _ h hp, hb, bind, Except.bind]

/-- An instruction that is not ready. -/
theorem issue_wait {s : State} {tid : Nat} {ops : List Opd} {len : Nat} {k : Kind} {body : Nat → State → M State}
    {c : Cause} {f : State → State} (h : Opens s tid ops) (hp : k = .priv → isFirmware s tid = true)
    (hb : body tid s = .error (.wait c f)) : issue len k ops body s = .next ((f s).noteStall tid c).endTurn := by
  simp only [issue, issueRaw_opens _ _ _ h hp, hb, bind, Except.bind]

@[simp] theorem done_wrote (s : State) (v : Word) (tid : Nat) (y : Bool) (f : Regs → Regs) :
    done (s.wrote v) tid y f = done s tid y f := rfl

@[simp] theorem done_modR (s : State) (tid : Nat) (y : Bool) (f g : Regs → Regs) :
    done (s.modR tid f) tid y g = done s tid y fun r => g (f r) := by
  unfold done State.modR
  rw [modTask_modTask]
  rfl

/-- Completion with a write of the destination last: the state is that before the write, the register written. -/
theorem issue_put {s s' : State} {tid : Nat} {ops : List Opd} {len d : Nat} {v : Word} {k : Kind}
    {body : Nat → State → M State} (h : Opens s tid ops) (hp : k = .priv → isFirmware s tid = true)
    (hd : Names1 s tid d) (hb : body tid s = writeReg s' tid d v) (hn : (s'.task tid).pair = none) :
    issue len k ops body s = .next (done s' tid (k ≠ .plain && k ≠ .point) fun r => (r.write d v).skip len) := by
  rw [writeReg_names v hd] at hb
  rw [issue_ok h hp hb (by split <;> simp [hn])]
  congr 1
  split
  · simp
  · next h1 => simp only [Regs.write, if_neg h1]

/-- For a plain instruction that is `written`. -/
theorem issue_written {s : State} {tid : Nat} {ops : List Opd} {len d : Nat} {v : Word}
    {body : Nat → State → M State} (h : Opens s tid ops) (hd : Names1 s tid d) (hb : body tid s = writeReg s tid d v) :
    issue len .plain ops body s = .next (written s tid d len v) :=
  issue_put h nofun hd hb h.1.2.1

/-- A pending result and the completion commute. -/
theorem done_later (s : State) (tid d n : Nat) (y : Bool) (f : Regs → Regs) :
    done (s.later tid d n) tid y f = (done s tid y f).later tid d n := by
  unfold State.later
  split
  · simp [done, State.modTask, State.setTask, State.task]
  · rfl

@[simp] theorem pair_later (s : State) (tid d n : Nat) : ((s.later tid d n).task tid).pair = (s.task tid).pair := by
  unfold State.later; split <;> simp

/-- For a plain instruction whose result comes later that is `writtenLate`. -/
theorem issue_writtenLate {s : State} {tid : Nat} {ops : List Opd} {len d n : Nat} {v : Word}
    {body : Nat → State → M State} (h : Opens s tid ops) (hd : Names1 s tid d) (hb : body tid s = writeLate s tid d n v) :
    issue len .plain ops body s = .next (writtenLate s tid d len n v) := by
  have hw : body tid s = .ok ((if d < 120 then (s.modR tid fun r => r.write d v).wrote v else s).later tid d n) := by
    rw [hb, writeLate, writeReg_names v hd]; simp only [bind, Except.bind, isPort_names hd]; rfl
  rw [issue_ok (k := .plain) h nofun hw (by rw [pair_later]; split <;> simp [h.1.2.1]), done_later]
  unfold writtenLate written after
  congr 1
  split
  · simp
  · next h1 => simp only [Regs.write, if_neg h1]; rfl

end Sys2Proof.Laws
end

