-- ==== Sys2Proof/Laws/Memory.lean ====
section
/-! SUPPORT. Memory: a byte that is written reads back and no other changes; every operation on memory keeps its canonical
form, with the poison bits a rising map; token movements leave memory alone. -/

namespace Sys2Proof.Laws

open Sys2Proof.Machine

/-! ### One byte -/

theorem memWf_rising {m : List Host.Cell} (h : memWf m = true) : mrising m = true := by
  simp only [memWf, mcanon, Bool.and_eq_true] at h; exact h.1

theorem memPut_wf {m : List Host.Cell} (a : Nat) (b : Byte) (h : memWf m = true) : memWf (memPut m a b) = true :=
  mcanon_mput memDefault m a b h

theorem memByte_memPut {m : List Host.Cell} (a : Nat) (b : Byte) (h : mrising m = true) : memByte (memPut m a b) a = b :=
  mget_mput _ m a b h

theorem memByte_memPut_ne {m : List Host.Cell} {a c : Nat} (b : Byte) (h : mrising m = true) (hc : c ≠ a) :
    memByte (memPut m a b) c = memByte m c := mget_mput_ne _ _ m b h hc

theorem reset_mem_wf : memWf State.reset.mem = true := rfl

/-! ### Bytes -/

theorem memPutAll_wf (bs : List Byte) : ∀ (m : List Host.Cell) (a : Nat), memWf m = true → memWf (memPutAll m a bs) = true := by
  induction bs with
  | nil => exact fun _ _ h => h
  | cons b r ih => exact fun m a h => ih _ _ (memPut_wf a b h)

/-- Bytes below the first address written are as they were. -/
theorem memByte_memPutAll_lt (bs : List Byte) : ∀ (m : List Host.Cell) (a c : Nat), memWf m = true → c < a →
    memByte (memPutAll m a bs) c = memByte m c := by
  induction bs with
  | nil => exact fun _ _ _ _ _ => rfl
  | cons b r ih =>
    intro m a c h hc
    rw [memPutAll, ih _ _ _ (memPut_wf a b h) (by omega), memByte_memPut_ne b (memWf_rising h) (by omega)]

theorem memWrite_mem_wf (s : State) (a : Nat) (bs : List Byte) (h : memWf s.mem = true) : memWf (s.memWrite a bs).mem = true :=
  memPutAll_wf bs _ a h

/-- Memory with some cells taken out keeps the form. -/
theorem memWf_filter (p : Host.Cell → Bool) {m : List Host.Cell} (h : memWf m = true) : memWf (m.filter p) = true := by
  simp only [memWf, mcanon, Bool.and_eq_true, List.all_eq_true] at h ⊢
  refine ⟨?_, fun e he => h.2 e (List.mem_of_mem_filter he)⟩
  have gt : ∀ (l : List Host.Cell) (k : Nat), mrising l = true → (∀ e ∈ l.head?, k < e.1) →
      mrising (l.filter p) = true ∧ ∀ e ∈ (l.filter p).head?, k < e.1 := by
    intro l
    induction l with
    | nil => exact fun _ _ h => ⟨rfl, h⟩
    | cons x r ih =>
      intro k hr hk
      obtain ⟨i1, i2⟩ := ih x.1 (mrising_tail hr) (head_rising hr)
      have hx : k < x.1 := hk x rfl
      by_cases px : p x = true
      · rw [List.filter_cons_of_pos px]
        exact ⟨mrising_cons i1 i2, by simpa using hx⟩
      · rw [List.filter_cons_of_neg px]
        exact ⟨i1, fun e he => Nat.lt_trans hx (i2 e he)⟩
  cases m with
  | nil => rfl
  | cons x r =>
    obtain ⟨i1, i2⟩ := gt r x.1 (mrising_tail h.1) (head_rising h.1)
    by_cases px : p x = true
    · rw [List.filter_cons_of_pos px]; exact mrising_cons i1 i2
    · rw [List.filter_cons_of_neg px]; exact i1

/-! ### The machine's writes -/

@[simp] theorem modUb_mem (s : State) (n : Nat) (f : Unbacked → Unbacked) : (s.modUb n f).mem = s.mem := by
  unfold State.modUb; split <;> rfl

theorem unpinSome_mem (c d n : Nat) : ∀ s : State, (unpinSome c d n s).mem = s.mem := by
  induction n with
  | zero => exact fun _ => rfl
  | succ n ih =>
    intro s; rw [unpinSome]; split
    · rfl
    · split
      · rw [ih, modUb_mem]
      · rfl

@[simp] theorem unpin_mem (s : State) (c d : Nat) : (unpin s c d).mem = s.mem := unpinSome_mem _ _ _ _

@[simp] theorem ubOwned_mem (s : State) (l : Nat) : (ubOwned s l).mem = s.mem := by
  unfold ubOwned; split
  · rfl
  · simp only; split <;> simp

/-- A write at a line's holder writes its bytes and no other. -/
theorem commit_mem (s : State) (agent a : Nat) (bs : List Byte) : (commit s agent a bs).mem = memPutAll s.mem a bs := by
  unfold commit
  simp only [ubOwned_mem]
  split <;> rfl

theorem commit_mem_wf (s : State) (agent a : Nat) (bs : List Byte) (h : memWf s.mem = true) :
    memWf (commit s agent a bs).mem = true := by
  rw [commit_mem]; exact memPutAll_wf _ _ _ h

theorem homeWrite_mem (s : State) (a : Nat) (bs : List Byte) : (homeWrite s a bs).mem = memPutAll s.mem a bs := by
  unfold homeWrite
  simp only
  split
  · simp only [ubOwned_mem]; rfl
  · simp only [modCoh_mem, ubOwned_mem]; rfl

theorem homeWrite_mem_wf (s : State) (a : Nat) (bs : List Byte) (h : memWf s.mem = true) :
    memWf (homeWrite s a bs).mem = true := by
  rw [homeWrite_mem]; exact memPutAll_wf _ _ _ h

theorem freshFrom_mem_wf (n : Nat) : ∀ (s : State) (a : Nat), memWf s.mem = true → memWf (freshFrom s a n).mem = true := by
  induction n with
  | zero => exact fun _ _ h => h
  | succ n ih => exact fun s a h => ih _ _ (memPut_wf a _ h)

theorem freshLine_mem_wf (s : State) (l : Nat) (h : memWf s.mem = true) : memWf (freshLine s l).mem = true :=
  freshFrom_mem_wf _ _ _ h

/-! ### Movements of tokens -/

@[simp] theorem setTok_mem (s : State) (l a : Nat) (t : Tok) : (s.setTok l a t).mem = s.mem := rfl

@[simp] theorem dropCopies_mem (s : State) (d l : Nat) : (dropCopies s d l).mem = s.mem := rfl

@[simp] theorem cleanCopies_mem (s : State) (d l : Nat) : (cleanCopies s d l).mem = s.mem := rfl

@[simp] theorem takeTok_mem (s : State) (l a : Nat) (t : Tok) : (s.takeTok l a t).mem = s.mem := by
  unfold State.takeTok; simp only; repeat' split
  all_goals rfl

@[simp] theorem putTok_mem (s : State) (l a : Nat) (t : Tok) : (s.putTok l a t).mem = s.mem := by
  unfold State.putTok; simp only; repeat' split
  all_goals rfl

@[simp] theorem pushCoh_mem (s : State) (ms : List Coh) : (pushCoh s ms).mem = s.mem := rfl

@[simp] theorem landTok_mem (s : State) (l a : Nat) (t : Tok) : (landTok s l a t).mem = s.mem := by
  unfold landTok; split
  · rfl
  · split <;> simp


@[simp] theorem ask_mem (s : State) (k : Req) (l a : Nat) : (s.ask k l a).mem = s.mem := by
  unfold State.ask; split <;> rfl

@[simp] theorem sendQueued_mem (a l : Nat) (s : State) : (sendQueued a l s).mem = s.mem := by
  unfold sendQueued; split <;> rfl

@[simp] theorem missAsk_mem (s : State) (r : Req) (l k : Nat) : (missAsk s r l k).mem = s.mem := by
  simp only [missAsk, modCore_mem, ask_mem]

@[simp] theorem storeKept_mem (s : State) (k c a : Nat) : (storeKept s k c a).mem = s.mem := rfl

@[simp] theorem takeBack_mem (s : State) (d l : Nat) (b : Option Nat) : (takeBack s d l b).mem = s.mem := rfl

@[simp] theorem noteVisible_mem (s : State) (d a n : Nat) : (noteVisible s d a n).mem = s.mem := rfl

/-! ### Bridges -/

@[simp] theorem askHost_mem (s : State) (k l a : Nat) : (askHost s k l a).mem = s.mem := by
  unfold askHost; split <;> rfl

@[simp] theorem giveHost_mem (s : State) (l : Nat) : (giveHost s l).mem = s.mem := by
  unfold giveHost; split
  · split
    · rfl
    · rw [askHost_mem]
  · rfl

@[simp] theorem returnHome_mem (s : State) (l a : Nat) : (returnHome s l a).mem = s.mem := by
  simp only [returnHome, giveHost_mem, landTok_mem, takeTok_mem]

@[simp] theorem peerSend_mem (s : State) (c k : Nat) (ws : List Word) : (peerSend s c k ws).mem = s.mem := by
  unfold peerSend; split <;> rfl

@[simp] theorem peerAsk_mem (s : State) (c : Nat) (w : Nat × Nat) (k a n : Nat) (ws : List Word) :
    (peerAsk s c w k a n ws).mem = s.mem := by
  unfold peerAsk; split
  · simp only [putAccs, peerSend_mem, State.fresh]
  · rfl

@[simp] theorem bridgeStore_mem (s : State) (d : Nat) (x : DieStore) : (bridgeStore s d x).mem = s.mem := by
  unfold bridgeStore; split <;> simp

/-! ### Stores that perform -/

/-- A store that performs writes its bytes at its place and no other. -/
theorem performStore_mem (s : State) (die : Nat) (x : DieStore) :
    (performStore s die x).mem = memPutAll s.mem x.dpa x.bytes := by
  have hm (t : State) (h : t.mem = s.mem) :
      (commit t die x.dpa x.bytes).mem = memPutAll s.mem x.dpa x.bytes := by rw [commit_mem, h]
  have hn : (if x.hidden then noteVisible s die x.dpa x.bytes.length else s).mem = s.mem := by split <;> rfl
  unfold performStore; simp only; split
  · rw [returnHome_mem]; exact hm _ hn
  · split
    · rw [storeKept_mem]; exact hm _ hn
    · exact hm _ hn

theorem performStore_mem_wf (s : State) (die : Nat) (x : DieStore) (h : memWf s.mem = true) :
    memWf (performStore s die x).mem = true := by
  rw [performStore_mem]; exact memPutAll_wf _ _ _ h

theorem performFrom_mem_wf (die : Nat) (xs : List DieStore) : ∀ (kept : List DieStore) (s : State), memWf s.mem = true →
    memWf (performFrom die xs kept s).mem = true := by
  induction xs with
  | nil => exact fun _ _ h => h
  | cons x r ih =>
    intro kept s h
    rw [performFrom]; split
    · exact ih _ _ (by rw [ask_mem]; exact h)
    · split
      · exact ih _ _ (by rw [ask_mem]; exact h)
      · split
        · refine ih _ _ ?_
          split
          · exact h
          · rw [bridgeStore_mem]; exact h
        · exact ih _ _ (performStore_mem_wf _ _ _ h)

theorem performDie_mem_wf (s : State) (die : Nat) (h : memWf s.mem = true) : memWf (performDie s die).mem = true :=
  performFrom_mem_wf _ _ _ _ h

theorem acceptStore_mem_wf (s : State) (die : Nat) (x : DieStore) (h : memWf s.mem = true) :
    memWf (acceptStore s die x).mem = true := by
  have hn : (if x.hidden then s else noteVisible s die x.dpa x.bytes.length).mem = s.mem := by split <;> rfl
  exact performDie_mem_wf _ _ (by rw [modDie_mem, takeBack_mem, hn]; exact h)

theorem foldl_sendQueued_mem {A : Type} (xs : List A) (a l : Nat) : ∀ s : State,
    (xs.foldl (fun s _ => sendQueued a l s) s).mem = s.mem := by
  induction xs with
  | nil => exact fun _ => rfl
  | cons x r ih => exact fun s => (ih _).trans (sendQueued_mem ..)

theorem settleOuts_mem_wf (s : State) (l agent : Nat) (h : memWf s.mem = true) : memWf (settleOuts s l agent).mem = true := by
  have hf (xs : List Out) (t : State) (ht : t.mem = s.mem) :
      memWf (xs.foldl (fun s _ => sendQueued agent (l2Slice l) s) t).mem = true := by
    rw [foldl_sendQueued_mem, ht]; exact h
  unfold settleOuts; simp only; split
  · exact h
  · split
    · exact performDie_mem_wf _ _ (by rw [pushCoh_mem]; exact hf _ _ rfl)
    · rw [pushCoh_mem]; exact hf _ _ rfl

end Sys2Proof.Laws
end

