-- ==== Sys2Proof/Laws/PerInstr.lean ====
section
/-! SUPPORT. The family Length: one lemma per constructor of Instr. An instruction's words fit the length that bits [15:13] of the first
parcel give (spec/02 R27, R28); an event has no words. Before it, encode from the table that holds an instruction's words: each
hypothesis is true by rfl at a constructor. -/

namespace Sys2Proof

theorem encode_of_encode16 {i : Instr} {w : Nat} (h : encode16 i = some w) : encode i = some (2, w) := by
  unfold encode; rw [h]

theorem encode_of_encode32a {i : Instr} {w : Nat} (h0 : encode16 i = none) (h : encode32a i = some w) :
    encode i = some (4, w) := by
  unfold encode; rw [h0, h]

theorem encode_of_encode32b {i : Instr} {w : Nat} (h0 : encode16 i = none) (h1 : encode32a i = none)
    (h : encode32b i = some w) : encode i = some (4, w) := by
  unfold encode; rw [h0, h1, h]

theorem encode_of_encode64 {i : Instr} {w : Nat} (h0 : encode16 i = none) (h1 : encode32a i = none)
    (h2 : encode32b i = none) (h : encode64 i = some w) : encode i = some (8, w) := by
  unfold encode; rw [h0, h1, h2, h]; rfl

theorem encode_none {i : Instr} (h0 : encode16 i = none) (h1 : encode32a i = none) (h2 : encode32b i = none)
    (h3 : encode64 i = none) : encode i = none := by
  unfold encode; rw [h0, h1, h2, h3]; rfl

/-! The number a word is, as rewrites: `decide` and `rfl` must not meet `x.toNat * 2^lo`, which the kernel would unfold step by step. -/

theorem put_eq (x : BitVec n) (lo : Nat) : put x lo = x.toNat * 2^lo := (Nat.mul_comm _ _).trans (Nat.mul_comm _ _)

theorem pack_nil (m : Nat) : pack m [] = m := by simp [pack]

theorem pack_cons (m x : Nat) (l : List Nat) : pack m (x :: l) = pack (m + x) l := by simp [pack]; omega

end Sys2Proof

namespace Sys2Proof.Laws.Length

/-- The words of the instruction fit its length, and the length is the one their first parcel decodes to. -/
def Statement (i : Instr) : Prop :=
  ∀ (b w : Nat), encode i = some (b, w) →
    w < 256^b ∧ b = (if w / 2^13 % 8 < 6 then 2 else if w / 2^13 % 8 = 6 then 4 else 8)

theorem of2 {i : Instr} {w : Nat} (e : encode i = some (2, w)) (hw : w < 49152) : Statement i := by
  intro b' w' h
  rw [e] at h
  cases h
  exact ⟨by omega, by rw [if_pos]; omega⟩

theorem of4 {i : Instr} {w : Nat} (e : encode i = some (4, w)) (hw : w < 2^32) (hb : w / 2^13 % 8 = 6) : Statement i := by
  intro b' w' h
  rw [e] at h
  cases h
  exact ⟨by omega, by rw [if_neg (by omega), if_pos hb]⟩

theorem of8 {i : Instr} {w : Nat} (e : encode i = some (8, w)) (hw : w < 2^64) (hb : w / 2^13 % 8 = 7) : Statement i := by
  intro b' w' h
  rw [e] at h
  cases h
  exact ⟨by omega, by rw [if_neg (by omega), if_neg (by omega)]⟩

theorem ofNone {i : Instr} (e : encode i = none) : Statement i := by
  intro b w h
  rw [e] at h
  cases h

theorem add (d a b : BitVec 7) : Statement (.add d a b) := by
  have := d.isLt; have := a.isLt; have := b.isLt
  refine of4 (encode_of_encode32a rfl rfl) ?_ ?_ <;> (simp only [pack_cons, pack_nil, put_eq]; omega)
theorem sub (d a b : BitVec 7) : Statement (.sub d a b) := by
  have := d.isLt; have := a.isLt; have := b.isLt
  refine of4 (encode_of_encode32a rfl rfl) ?_ ?_ <;> (simp only [pack_cons, pack_nil, put_eq]; omega)
theorem slt (d a b : BitVec 7) : Statement (.slt d a b) := by
  have := d.isLt; have := a.isLt; have := b.isLt
  refine of4 (encode_of_encode32a rfl rfl) ?_ ?_ <;> (simp only [pack_cons, pack_nil, put_eq]; omega)
theorem sltu (d a b : BitVec 7) : Statement (.sltu d a b) := by
  have := d.isLt; have := a.isLt; have := b.isLt
  refine of4 (encode_of_encode32a rfl rfl) ?_ ?_ <;> (simp only [pack_cons, pack_nil, put_eq]; omega)
theorem and (d a b : BitVec 7) : Statement (.and d a b) := by
  have := d.isLt; have := a.isLt; have := b.isLt
  refine of4 (encode_of_encode32a rfl rfl) ?_ ?_ <;> (simp only [pack_cons, pack_nil, put_eq]; omega)
theorem or (d a b : BitVec 7) : Statement (.or d a b) := by
  have := d.isLt; have := a.isLt; have := b.isLt
  refine of4 (encode_of_encode32a rfl rfl) ?_ ?_ <;> (simp only [pack_cons, pack_nil, put_eq]; omega)
theorem xor (d a b : BitVec 7) : Statement (.xor d a b) := by
  have := d.isLt; have := a.isLt; have := b.isLt
  refine of4 (encode_of_encode32a rfl rfl) ?_ ?_ <;> (simp only [pack_cons, pack_nil, put_eq]; omega)
theorem sel (d a b : BitVec 7) : Statement (.sel d a b) := by
  have := d.isLt; have := a.isLt; have := b.isLt
  refine of4 (encode_of_encode32a rfl rfl) ?_ ?_ <;> (simp only [pack_cons, pack_nil, put_eq]; omega)
theorem sll (d a b : BitVec 7) : Statement (.sll d a b) := by
  have := d.isLt; have := a.isLt; have := b.isLt
  refine of4 (encode_of_encode32a rfl rfl) ?_ ?_ <;> (simp only [pack_cons, pack_nil, put_eq]; omega)
theorem srl (d a b : BitVec 7) : Statement (.srl d a b) := by
  have := d.isLt; have := a.isLt; have := b.isLt
  refine of4 (encode_of_encode32a rfl rfl) ?_ ?_ <;> (simp only [pack_cons, pack_nil, put_eq]; omega)
theorem sra (d a b : BitVec 7) : Statement (.sra d a b) := by
  have := d.isLt; have := a.isLt; have := b.isLt
  refine of4 (encode_of_encode32a rfl rfl) ?_ ?_ <;> (simp only [pack_cons, pack_nil, put_eq]; omega)
theorem clz (d a : BitVec 7) : Statement (.clz d a) := by
  have := d.isLt; have := a.isLt
  refine of4 (encode_of_encode32a rfl rfl) ?_ ?_ <;> (simp only [pack_cons, pack_nil, put_eq]; omega)
theorem ctz (d a : BitVec 7) : Statement (.ctz d a) := by
  have := d.isLt; have := a.isLt
  refine of4 (encode_of_encode32a rfl rfl) ?_ ?_ <;> (simp only [pack_cons, pack_nil, put_eq]; omega)
theorem popc (d a : BitVec 7) : Statement (.popc d a) := by
  have := d.isLt; have := a.isLt
  refine of4 (encode_of_encode32a rfl rfl) ?_ ?_ <;> (simp only [pack_cons, pack_nil, put_eq]; omega)
theorem mul (d a b : BitVec 7) : Statement (.mul d a b) := by
  have := d.isLt; have := a.isLt; have := b.isLt
  refine of4 (encode_of_encode32a rfl rfl) ?_ ?_ <;> (simp only [pack_cons, pack_nil, put_eq]; omega)
theorem mulh (d a b : BitVec 7) : Statement (.mulh d a b) := by
  have := d.isLt; have := a.isLt; have := b.isLt
  refine of4 (encode_of_encode32a rfl rfl) ?_ ?_ <;> (simp only [pack_cons, pack_nil, put_eq]; omega)
theorem mulhu (d a b : BitVec 7) : Statement (.mulhu d a b) := by
  have := d.isLt; have := a.isLt; have := b.isLt
  refine of4 (encode_of_encode32a rfl rfl) ?_ ?_ <;> (simp only [pack_cons, pack_nil, put_eq]; omega)
theorem div (d a b : BitVec 7) : Statement (.div d a b) := by
  have := d.isLt; have := a.isLt; have := b.isLt
  refine of4 (encode_of_encode32a rfl rfl) ?_ ?_ <;> (simp only [pack_cons, pack_nil, put_eq]; omega)
theorem divu (d a b : BitVec 7) : Statement (.divu d a b) := by
  have := d.isLt; have := a.isLt; have := b.isLt
  refine of4 (encode_of_encode32a rfl rfl) ?_ ?_ <;> (simp only [pack_cons, pack_nil, put_eq]; omega)
theorem rem (d a b : BitVec 7) : Statement (.rem d a b) := by
  have := d.isLt; have := a.isLt; have := b.isLt
  refine of4 (encode_of_encode32a rfl rfl) ?_ ?_ <;> (simp only [pack_cons, pack_nil, put_eq]; omega)
theorem remu (d a b : BitVec 7) : Statement (.remu d a b) := by
  have := d.isLt; have := a.isLt; have := b.isLt
  refine of4 (encode_of_encode32a rfl rfl) ?_ ?_ <;> (simp only [pack_cons, pack_nil, put_eq]; omega)
theorem min (d a b : BitVec 7) : Statement (.min d a b) := by
  have := d.isLt; have := a.isLt; have := b.isLt
  refine of4 (encode_of_encode32a rfl rfl) ?_ ?_ <;> (simp only [pack_cons, pack_nil, put_eq]; omega)
theorem max (d a b : BitVec 7) : Statement (.max d a b) := by
  have := d.isLt; have := a.isLt; have := b.isLt
  refine of4 (encode_of_encode32a rfl rfl) ?_ ?_ <;> (simp only [pack_cons, pack_nil, put_eq]; omega)
theorem minu (d a b : BitVec 7) : Statement (.minu d a b) := by
  have := d.isLt; have := a.isLt; have := b.isLt
  refine of4 (encode_of_encode32a rfl rfl) ?_ ?_ <;> (simp only [pack_cons, pack_nil, put_eq]; omega)
theorem maxu (d a b : BitVec 7) : Statement (.maxu d a b) := by
  have := d.isLt; have := a.isLt; have := b.isLt
  refine of4 (encode_of_encode32a rfl rfl) ?_ ?_ <;> (simp only [pack_cons, pack_nil, put_eq]; omega)
theorem lih (d : BitVec 7) (i : BitVec 16) : Statement (.lih d i) := by
  have := d.isLt; have := i.isLt
  refine of4 (encode_of_encode32a rfl rfl) ?_ ?_ <;> (simp only [pack_cons, pack_nil, put_eq]; omega)
theorem addi (d a : BitVec 7) (i : BitVec 9) : Statement (.addi d a i) := by
  have := d.isLt; have := a.isLt; have := i.isLt
  refine of4 (encode_of_encode32a rfl rfl) ?_ ?_ <;> (simp only [pack_cons, pack_nil, put_eq]; omega)
theorem aadd (d a b : BitVec 7) : Statement (.aadd d a b) := by
  have := d.isLt; have := a.isLt; have := b.isLt
  refine of4 (encode_of_encode32a rfl rfl) ?_ ?_ <;> (simp only [pack_cons, pack_nil, put_eq]; omega)
theorem pget (d a s : BitVec 7) : Statement (.pget d a s) := by
  have := d.isLt; have := a.isLt; have := s.isLt
  refine of4 (encode_of_encode32a rfl rfl) ?_ ?_ <;> (simp only [pack_cons, pack_nil, put_eq]; omega)
theorem bfx (d a b : BitVec 7) : Statement (.bfx d a b) := by
  have := d.isLt; have := a.isLt; have := b.isLt
  refine of4 (encode_of_encode32a rfl rfl) ?_ ?_ <;> (simp only [pack_cons, pack_nil, put_eq]; omega)
theorem bfi (d a b : BitVec 7) : Statement (.bfi d a b) := by
  have := d.isLt; have := a.isLt; have := b.isLt
  refine of4 (encode_of_encode32a rfl rfl) ?_ ?_ <;> (simp only [pack_cons, pack_nil, put_eq]; omega)
theorem aaddi (d a : BitVec 7) (i : BitVec 9) : Statement (.aaddi d a i) := by
  have := d.isLt; have := a.isLt; have := i.isLt
  refine of4 (encode_of_encode32a rfl rfl) ?_ ?_ <;> (simp only [pack_cons, pack_nil, put_eq]; omega)
theorem pfmt (d a : BitVec 7) (f : BitVec 6) (l : BitVec 3) : Statement (.pfmt d a f l) := by
  have := d.isLt; have := a.isLt; have := f.isLt; have := l.isLt
  refine of4 (encode_of_encode32a rfl rfl) ?_ ?_ <;> (simp only [pack_cons, pack_nil, put_eq]; omega)
theorem slli (d a : BitVec 7) (i : BitVec 6) : Statement (.slli d a i) := by
  have := d.isLt; have := a.isLt; have := i.isLt
  refine of4 (encode_of_encode32a rfl rfl) ?_ ?_ <;> (simp only [pack_cons, pack_nil, put_eq]; omega)
theorem srli (d a : BitVec 7) (i : BitVec 6) : Statement (.srli d a i) := by
  have := d.isLt; have := a.isLt; have := i.isLt
  refine of4 (encode_of_encode32a rfl rfl) ?_ ?_ <;> (simp only [pack_cons, pack_nil, put_eq]; omega)
theorem srai (d a : BitVec 7) (i : BitVec 6) : Statement (.srai d a i) := by
  have := d.isLt; have := a.isLt; have := i.isLt
  refine of4 (encode_of_encode32a rfl rfl) ?_ ?_ <;> (simp only [pack_cons, pack_nil, put_eq]; omega)
theorem andi (d a : BitVec 7) (i : BitVec 6) : Statement (.andi d a i) := by
  have := d.isLt; have := a.isLt; have := i.isLt
  refine of4 (encode_of_encode32a rfl rfl) ?_ ?_ <;> (simp only [pack_cons, pack_nil, put_eq]; omega)
theorem ori (d a : BitVec 7) (i : BitVec 6) : Statement (.ori d a i) := by
  have := d.isLt; have := a.isLt; have := i.isLt
  refine of4 (encode_of_encode32a rfl rfl) ?_ ?_ <;> (simp only [pack_cons, pack_nil, put_eq]; omega)
theorem xori (d a : BitVec 7) (i : BitVec 6) : Statement (.xori d a i) := by
  have := d.isLt; have := a.isLt; have := i.isLt
  refine of4 (encode_of_encode32a rfl rfl) ?_ ?_ <;> (simp only [pack_cons, pack_nil, put_eq]; omega)
theorem slti (d a : BitVec 7) (i : BitVec 6) : Statement (.slti d a i) := by
  have := d.isLt; have := a.isLt; have := i.isLt
  refine of4 (encode_of_encode32a rfl rfl) ?_ ?_ <;> (simp only [pack_cons, pack_nil, put_eq]; omega)
theorem xadd (d a : BitVec 7) (x : BitVec 2) (b : BitVec 5) : Statement (.xadd d a x b) := by
  have := d.isLt; have := a.isLt; have := x.isLt; have := b.isLt
  refine of4 (encode_of_encode32a rfl rfl) ?_ ?_ <;> (simp only [pack_cons, pack_nil, put_eq]; omega)
theorem xsub (d a : BitVec 7) (x : BitVec 2) (b : BitVec 5) : Statement (.xsub d a x b) := by
  have := d.isLt; have := a.isLt; have := x.isLt; have := b.isLt
  refine of4 (encode_of_encode32a rfl rfl) ?_ ?_ <;> (simp only [pack_cons, pack_nil, put_eq]; omega)
theorem xmul (d a : BitVec 7) (x : BitVec 2) (b : BitVec 5) : Statement (.xmul d a x b) := by
  have := d.isLt; have := a.isLt; have := x.isLt; have := b.isLt
  refine of4 (encode_of_encode32a rfl rfl) ?_ ?_ <;> (simp only [pack_cons, pack_nil, put_eq]; omega)
theorem xmax (d a : BitVec 7) (x : BitVec 2) (b : BitVec 5) : Statement (.xmax d a x b) := by
  have := d.isLt; have := a.isLt; have := x.isLt; have := b.isLt
  refine of4 (encode_of_encode32a rfl rfl) ?_ ?_ <;> (simp only [pack_cons, pack_nil, put_eq]; omega)
theorem xmin (d a : BitVec 7) (x : BitVec 2) (b : BitVec 5) : Statement (.xmin d a x b) := by
  have := d.isLt; have := a.isLt; have := x.isLt; have := b.isLt
  refine of4 (encode_of_encode32a rfl rfl) ?_ ?_ <;> (simp only [pack_cons, pack_nil, put_eq]; omega)
theorem xdotB (d a : BitVec 7) (b : BitVec 5) : Statement (.xdotB d a b) := by
  have := d.isLt; have := a.isLt; have := b.isLt
  refine of4 (encode_of_encode32a rfl rfl) ?_ ?_ <;> (simp only [pack_cons, pack_nil, put_eq]; omega)
theorem fadd (d a : BitVec 7) (p : BitVec 2) (b : BitVec 5) : Statement (.fadd d a p b) := by
  have := d.isLt; have := a.isLt; have := p.isLt; have := b.isLt
  refine of4 (encode_of_encode32a rfl rfl) ?_ ?_ <;> (simp only [pack_cons, pack_nil, put_eq]; omega)
theorem fsub (d a : BitVec 7) (p : BitVec 2) (b : BitVec 5) : Statement (.fsub d a p b) := by
  have := d.isLt; have := a.isLt; have := p.isLt; have := b.isLt
  refine of4 (encode_of_encode32a rfl rfl) ?_ ?_ <;> (simp only [pack_cons, pack_nil, put_eq]; omega)
theorem fmul (d a : BitVec 7) (p : BitVec 2) (b : BitVec 5) : Statement (.fmul d a p b) := by
  have := d.isLt; have := a.isLt; have := p.isLt; have := b.isLt
  refine of4 (encode_of_encode32a rfl rfl) ?_ ?_ <;> (simp only [pack_cons, pack_nil, put_eq]; omega)
theorem ffma (d a : BitVec 7) (p : BitVec 2) (b : BitVec 5) : Statement (.ffma d a p b) := by
  have := d.isLt; have := a.isLt; have := p.isLt; have := b.isLt
  refine of4 (encode_of_encode32a rfl rfl) ?_ ?_ <;> (simp only [pack_cons, pack_nil, put_eq]; omega)
theorem fdiv (d a : BitVec 7) (p : BitVec 2) (b : BitVec 5) : Statement (.fdiv d a p b) := by
  have := d.isLt; have := a.isLt; have := p.isLt; have := b.isLt
  refine of4 (encode_of_encode32a rfl rfl) ?_ ?_ <;> (simp only [pack_cons, pack_nil, put_eq]; omega)
theorem fsqrt (d a : BitVec 7) (p : BitVec 2) : Statement (.fsqrt d a p) := by
  have := d.isLt; have := a.isLt; have := p.isLt
  refine of4 (encode_of_encode32a rfl rfl) ?_ ?_ <;> (simp only [pack_cons, pack_nil, put_eq]; omega)
theorem fmin (d a : BitVec 7) (p : BitVec 2) (b : BitVec 5) : Statement (.fmin d a p b) := by
  have := d.isLt; have := a.isLt; have := p.isLt; have := b.isLt
  refine of4 (encode_of_encode32a rfl rfl) ?_ ?_ <;> (simp only [pack_cons, pack_nil, put_eq]; omega)
theorem fmax (d a : BitVec 7) (p : BitVec 2) (b : BitVec 5) : Statement (.fmax d a p b) := by
  have := d.isLt; have := a.isLt; have := p.isLt; have := b.isLt
  refine of4 (encode_of_encode32a rfl rfl) ?_ ?_ <;> (simp only [pack_cons, pack_nil, put_eq]; omega)
theorem fcmpEq (d a : BitVec 7) (p : BitVec 2) (b : BitVec 5) : Statement (.fcmpEq d a p b) := by
  have := d.isLt; have := a.isLt; have := p.isLt; have := b.isLt
  refine of4 (encode_of_encode32a rfl rfl) ?_ ?_ <;> (simp only [pack_cons, pack_nil, put_eq]; omega)
theorem fcmpLt (d a : BitVec 7) (p : BitVec 2) (b : BitVec 5) : Statement (.fcmpLt d a p b) := by
  have := d.isLt; have := a.isLt; have := p.isLt; have := b.isLt
  refine of4 (encode_of_encode32a rfl rfl) ?_ ?_ <;> (simp only [pack_cons, pack_nil, put_eq]; omega)
theorem fcmpLe (d a : BitVec 7) (p : BitVec 2) (b : BitVec 5) : Statement (.fcmpLe d a p b) := by
  have := d.isLt; have := a.isLt; have := p.isLt; have := b.isLt
  refine of4 (encode_of_encode32a rfl rfl) ?_ ?_ <;> (simp only [pack_cons, pack_nil, put_eq]; omega)
theorem fcmpUn (d a : BitVec 7) (p : BitVec 2) (b : BitVec 5) : Statement (.fcmpUn d a p b) := by
  have := d.isLt; have := a.isLt; have := p.isLt; have := b.isLt
  refine of4 (encode_of_encode32a rfl rfl) ?_ ?_ <;> (simp only [pack_cons, pack_nil, put_eq]; omega)
theorem fclass (d a : BitVec 7) (p : BitVec 2) : Statement (.fclass d a p) := by
  have := d.isLt; have := a.isLt; have := p.isLt
  refine of4 (encode_of_encode32a rfl rfl) ?_ ?_ <;> (simp only [pack_cons, pack_nil, put_eq]; omega)
theorem fcvt (d a : BitVec 7) (t u : BitVec 3) (w : BitVec 1) : Statement (.fcvt d a t u w) := by
  have := d.isLt; have := a.isLt; have := t.isLt; have := u.isLt; have := w.isLt
  refine of4 (encode_of_encode32a rfl rfl) ?_ ?_ <;> (simp only [pack_cons, pack_nil, put_eq]; omega)
theorem fcvtRtz (d a : BitVec 7) (t u : BitVec 3) (w : BitVec 1) : Statement (.fcvtRtz d a t u w) := by
  have := d.isLt; have := a.isLt; have := t.isLt; have := u.isLt; have := w.isLt
  refine of4 (encode_of_encode32a rfl rfl) ?_ ?_ <;> (simp only [pack_cons, pack_nil, put_eq]; omega)
theorem fcvtSr (d a : BitVec 7) (t u : BitVec 3) (w : BitVec 1) : Statement (.fcvtSr d a t u w) := by
  have := d.isLt; have := a.isLt; have := t.isLt; have := u.isLt; have := w.isLt
  refine of4 (encode_of_encode32a rfl rfl) ?_ ?_ <;> (simp only [pack_cons, pack_nil, put_eq]; omega)
theorem beq (a : BitVec 7) (b : BitVec 4) (o : BitVec 9) : Statement (.beq a b o) := by
  have := a.isLt; have := b.isLt; have := o.isLt
  refine of4 (encode_of_encode32a rfl rfl) ?_ ?_ <;> (simp only [pack_cons, pack_nil, put_eq]; omega)
theorem bne (a : BitVec 7) (b : BitVec 4) (o : BitVec 9) : Statement (.bne a b o) := by
  have := a.isLt; have := b.isLt; have := o.isLt
  refine of4 (encode_of_encode32a rfl rfl) ?_ ?_ <;> (simp only [pack_cons, pack_nil, put_eq]; omega)
theorem blt (a : BitVec 7) (b : BitVec 4) (o : BitVec 9) : Statement (.blt a b o) := by
  have := a.isLt; have := b.isLt; have := o.isLt
  refine of4 (encode_of_encode32a rfl rfl) ?_ ?_ <;> (simp only [pack_cons, pack_nil, put_eq]; omega)
theorem bge (a : BitVec 7) (b : BitVec 4) (o : BitVec 9) : Statement (.bge a b o) := by
  have := a.isLt; have := b.isLt; have := o.isLt
  refine of4 (encode_of_encode32a rfl rfl) ?_ ?_ <;> (simp only [pack_cons, pack_nil, put_eq]; omega)
theorem bltu (a : BitVec 7) (b : BitVec 4) (o : BitVec 9) : Statement (.bltu a b o) := by
  have := a.isLt; have := b.isLt; have := o.isLt
  refine of4 (encode_of_encode32a rfl rfl) ?_ ?_ <;> (simp only [pack_cons, pack_nil, put_eq]; omega)
theorem bgeu (a : BitVec 7) (b : BitVec 4) (o : BitVec 9) : Statement (.bgeu a b o) := by
  have := a.isLt; have := b.isLt; have := o.isLt
  refine of4 (encode_of_encode32a rfl rfl) ?_ ?_ <;> (simp only [pack_cons, pack_nil, put_eq]; omega)
theorem jalr (d : BitVec 7) (b : BitVec 4) (o : BitVec 9) : Statement (.jalr d b o) := by
  have := d.isLt; have := b.isLt; have := o.isLt
  refine of4 (encode_of_encode32a rfl rfl) ?_ ?_ <;> (simp only [pack_cons, pack_nil, put_eq]; omega)
theorem beqz (a : BitVec 7) (o : BitVec 16) : Statement (.beqz a o) := by
  have := a.isLt; have := o.isLt
  refine of4 (encode_of_encode32a rfl rfl) ?_ ?_ <;> (simp only [pack_cons, pack_nil, put_eq]; omega)
theorem bnez (a : BitVec 7) (o : BitVec 16) : Statement (.bnez a o) := by
  have := a.isLt; have := o.isLt
  refine of4 (encode_of_encode32a rfl rfl) ?_ ?_ <;> (simp only [pack_cons, pack_nil, put_eq]; omega)
theorem jal (d : BitVec 7) (o : BitVec 16) : Statement (.jal d o) := by
  have := d.isLt; have := o.isLt
  refine of4 (encode_of_encode32a rfl rfl) ?_ ?_ <;> (simp only [pack_cons, pack_nil, put_eq]; omega)
theorem ldb (d a : BitVec 7) (o : BitVec 6) : Statement (.ldb d a o) := by
  have := d.isLt; have := a.isLt; have := o.isLt
  refine of4 (encode_of_encode32a rfl rfl) ?_ ?_ <;> (simp only [pack_cons, pack_nil, put_eq]; omega)
theorem ldbu (d a : BitVec 7) (o : BitVec 6) : Statement (.ldbu d a o) := by
  have := d.isLt; have := a.isLt; have := o.isLt
  refine of4 (encode_of_encode32a rfl rfl) ?_ ?_ <;> (simp only [pack_cons, pack_nil, put_eq]; omega)
theorem ldh (d a : BitVec 7) (o : BitVec 6) : Statement (.ldh d a o) := by
  have := d.isLt; have := a.isLt; have := o.isLt
  refine of4 (encode_of_encode32a rfl rfl) ?_ ?_ <;> (simp only [pack_cons, pack_nil, put_eq]; omega)
theorem ldhu (d a : BitVec 7) (o : BitVec 6) : Statement (.ldhu d a o) := by
  have := d.isLt; have := a.isLt; have := o.isLt
  refine of4 (encode_of_encode32a rfl rfl) ?_ ?_ <;> (simp only [pack_cons, pack_nil, put_eq]; omega)
theorem ldw (d a : BitVec 7) (o : BitVec 6) : Statement (.ldw d a o) := by
  have := d.isLt; have := a.isLt; have := o.isLt
  refine of4 (encode_of_encode32a rfl rfl) ?_ ?_ <;> (simp only [pack_cons, pack_nil, put_eq]; omega)
theorem ldwu (d a : BitVec 7) (o : BitVec 6) : Statement (.ldwu d a o) := by
  have := d.isLt; have := a.isLt; have := o.isLt
  refine of4 (encode_of_encode32a rfl rfl) ?_ ?_ <;> (simp only [pack_cons, pack_nil, put_eq]; omega)
theorem ldd (d a : BitVec 7) (o : BitVec 6) : Statement (.ldd d a o) := by
  have := d.isLt; have := a.isLt; have := o.isLt
  refine of4 (encode_of_encode32a rfl rfl) ?_ ?_ <;> (simp only [pack_cons, pack_nil, put_eq]; omega)
theorem stb (s a o : BitVec 7) : Statement (.stb s a o) := by
  have := s.isLt; have := a.isLt; have := o.isLt
  refine of4 (encode_of_encode32a rfl rfl) ?_ ?_ <;> (simp only [pack_cons, pack_nil, put_eq]; omega)
theorem sth (s a o : BitVec 7) : Statement (.sth s a o) := by
  have := s.isLt; have := a.isLt; have := o.isLt
  refine of4 (encode_of_encode32a rfl rfl) ?_ ?_ <;> (simp only [pack_cons, pack_nil, put_eq]; omega)
theorem stw (s a o : BitVec 7) : Statement (.stw s a o) := by
  have := s.isLt; have := a.isLt; have := o.isLt
  refine of4 (encode_of_encode32a rfl rfl) ?_ ?_ <;> (simp only [pack_cons, pack_nil, put_eq]; omega)
theorem std (s a o : BitVec 7) : Statement (.std s a o) := by
  have := s.isLt; have := a.isLt; have := o.isLt
  refine of4 (encode_of_encode32a rfl rfl) ?_ ?_ <;> (simp only [pack_cons, pack_nil, put_eq]; omega)
theorem ldt (d a b : BitVec 7) : Statement (.ldt d a b) := by
  have := d.isLt; have := a.isLt; have := b.isLt
  refine of4 (encode_of_encode32a rfl rfl) ?_ ?_ <;> (simp only [pack_cons, pack_nil, put_eq]; omega)
theorem stt (s a b : BitVec 7) : Statement (.stt s a b) := by
  have := s.isLt; have := a.isLt; have := b.isLt
  refine of4 (encode_of_encode32a rfl rfl) ?_ ?_ <;> (simp only [pack_cons, pack_nil, put_eq]; omega)
theorem lda (d a : BitVec 7) (c : BitVec 3) : Statement (.lda d a c) := by
  have := d.isLt; have := a.isLt; have := c.isLt
  refine of4 (encode_of_encode32a rfl rfl) ?_ ?_ <;> (simp only [pack_cons, pack_nil, put_eq]; omega)
theorem strel (s a : BitVec 7) (c : BitVec 3) : Statement (.strel s a c) := by
  have := s.isLt; have := a.isLt; have := c.isLt
  refine of4 (encode_of_encode32a rfl rfl) ?_ ?_ <;> (simp only [pack_cons, pack_nil, put_eq]; omega)
theorem fence (c : BitVec 3) : Statement (.fence c) := by
  have := c.isLt
  refine of4 (encode_of_encode32a rfl rfl) ?_ ?_ <;> (simp only [pack_cons, pack_nil, put_eq]; omega)
theorem ifence : Statement .ifence := of4 (encode_of_encode32a rfl rfl) (by decide) (by decide)
theorem pref (a : BitVec 7) (l : BitVec 2) (x : BitVec 1) : Statement (.pref a l x) := by
  have := a.isLt; have := l.isLt; have := x.isLt
  refine of4 (encode_of_encode32a rfl rfl) ?_ ?_ <;> (simp only [pack_cons, pack_nil, put_eq]; omega)
theorem spamo (d a : BitVec 7) (o : BitVec 3) : Statement (.spamo d a o) := by
  have := d.isLt; have := a.isLt; have := o.isLt
  refine of4 (encode_of_encode32a rfl rfl) ?_ ?_ <;> (simp only [pack_cons, pack_nil, put_eq]; omega)
theorem stash (d a b : BitVec 7) : Statement (.stash d a b) := by
  have := d.isLt; have := a.isLt; have := b.isLt
  refine of4 (encode_of_encode32a rfl rfl) ?_ ?_ <;> (simp only [pack_cons, pack_nil, put_eq]; omega)
theorem unstash (d a : BitVec 7) : Statement (.unstash d a) := by
  have := d.isLt; have := a.isLt
  refine of4 (encode_of_encode32a rfl rfl) ?_ ?_ <;> (simp only [pack_cons, pack_nil, put_eq]; omega)
theorem wbk (a b : BitVec 7) : Statement (.wbk a b) := by
  have := a.isLt; have := b.isLt
  refine of4 (encode_of_encode32a rfl rfl) ?_ ?_ <;> (simp only [pack_cons, pack_nil, put_eq]; omega)
theorem disc (a b : BitVec 7) : Statement (.disc a b) := by
  have := a.isLt; have := b.isLt
  refine of4 (encode_of_encode32a rfl rfl) ?_ ?_ <;> (simp only [pack_cons, pack_nil, put_eq]; omega)
theorem ubresv (d a b : BitVec 7) : Statement (.ubresv d a b) := by
  have := d.isLt; have := a.isLt; have := b.isLt
  refine of4 (encode_of_encode32a rfl rfl) ?_ ?_ <;> (simp only [pack_cons, pack_nil, put_eq]; omega)
theorem ubmigr (d a b : BitVec 7) : Statement (.ubmigr d a b) := by
  have := d.isLt; have := a.isLt; have := b.isLt
  refine of4 (encode_of_encode32a rfl rfl) ?_ ?_ <;> (simp only [pack_cons, pack_nil, put_eq]; omega)
theorem ldlk (d a : BitVec 7) : Statement (.ldlk d a) := by
  have := d.isLt; have := a.isLt
  refine of4 (encode_of_encode32a rfl rfl) ?_ ?_ <;> (simp only [pack_cons, pack_nil, put_eq]; omega)
theorem stul (s a : BitVec 7) : Statement (.stul s a) := by
  have := s.isLt; have := a.isLt
  refine of4 (encode_of_encode32a rfl rfl) ?_ ?_ <;> (simp only [pack_cons, pack_nil, put_eq]; omega)
theorem amo (d a : BitVec 7) (o : BitVec 4) (r : BitVec 2) (c : BitVec 3) : Statement (.amo d a o r c) := by
  have := d.isLt; have := a.isLt; have := o.isLt; have := r.isLt; have := c.isLt
  refine of4 (encode_of_encode32a rfl rfl) ?_ ?_ <;> (simp only [pack_cons, pack_nil, put_eq]; omega)
theorem amof (d a : BitVec 7) (o : BitVec 4) (r : BitVec 2) (c : BitVec 3) : Statement (.amof d a o r c) := by
  have := d.isLt; have := a.isLt; have := o.isLt; have := r.isLt; have := c.isLt
  refine of4 (encode_of_encode32a rfl rfl) ?_ ?_ <;> (simp only [pack_cons, pack_nil, put_eq]; omega)
theorem get (d a : BitVec 7) : Statement (.get d a) := by
  have := d.isLt; have := a.isLt
  refine of4 (encode_of_encode32a rfl rfl) ?_ ?_ <;> (simp only [pack_cons, pack_nil, put_eq]; omega)
theorem put (d a : BitVec 7) : Statement (.put d a) := by
  have := d.isLt; have := a.isLt
  refine of4 (encode_of_encode32a rfl rfl) ?_ ?_ <;> (simp only [pack_cons, pack_nil, put_eq]; omega)
theorem xcpy (d a : BitVec 7) : Statement (.xcpy d a) := by
  have := d.isLt; have := a.isLt
  refine of4 (encode_of_encode32a rfl rfl) ?_ ?_ <;> (simp only [pack_cons, pack_nil, put_eq]; omega)
theorem xcpy2 (d a : BitVec 7) : Statement (.xcpy2 d a) := by
  have := d.isLt; have := a.isLt
  refine of4 (encode_of_encode32a rfl rfl) ?_ ?_ <;> (simp only [pack_cons, pack_nil, put_eq]; omega)
theorem swinit (d a b : BitVec 7) : Statement (.swinit d a b) := by
  have := d.isLt; have := a.isLt; have := b.isLt
  refine of4 (encode_of_encode32a rfl rfl) ?_ ?_ <;> (simp only [pack_cons, pack_nil, put_eq]; omega)
theorem swfut (d a b : BitVec 7) : Statement (.swfut d a b) := by
  have := d.isLt; have := a.isLt; have := b.isLt
  refine of4 (encode_of_encode32a rfl rfl) ?_ ?_ <;> (simp only [pack_cons, pack_nil, put_eq]; omega)
theorem spawn (d : BitVec 7) (o : BitVec 16) : Statement (.spawn d o) := by
  have := d.isLt; have := o.isLt
  refine of4 (encode_of_encode32b rfl rfl rfl) ?_ ?_ <;> (simp only [pack_cons, pack_nil, put_eq]; omega)
theorem spawnT (d : BitVec 7) (o : BitVec 16) : Statement (.spawnT d o) := by
  have := d.isLt; have := o.isLt
  refine of4 (encode_of_encode32b rfl rfl rfl) ?_ ?_ <;> (simp only [pack_cons, pack_nil, put_eq]; omega)
theorem spawnr (d a b : BitVec 7) : Statement (.spawnr d a b) := by
  have := d.isLt; have := a.isLt; have := b.isLt
  refine of4 (encode_of_encode32b rfl rfl rfl) ?_ ?_ <;> (simp only [pack_cons, pack_nil, put_eq]; omega)
theorem touch (d a : BitVec 7) : Statement (.touch d a) := by
  have := d.isLt; have := a.isLt
  refine of4 (encode_of_encode32b rfl rfl rfl) ?_ ?_ <;> (simp only [pack_cons, pack_nil, put_eq]; omega)
theorem touchT (d a : BitVec 7) : Statement (.touchT d a) := by
  have := d.isLt; have := a.isLt
  refine of4 (encode_of_encode32b rfl rfl rfl) ?_ ?_ <;> (simp only [pack_cons, pack_nil, put_eq]; omega)
theorem touchp (d a : BitVec 7) : Statement (.touchp d a) := by
  have := d.isLt; have := a.isLt
  refine of4 (encode_of_encode32b rfl rfl rfl) ?_ ?_ <;> (simp only [pack_cons, pack_nil, put_eq]; omega)
theorem wany (d a n : BitVec 7) : Statement (.wany d a n) := by
  have := d.isLt; have := a.isLt; have := n.isLt
  refine of4 (encode_of_encode32b rfl rfl rfl) ?_ ?_ <;> (simp only [pack_cons, pack_nil, put_eq]; omega)
theorem fnew (d a : BitVec 7) : Statement (.fnew d a) := by
  have := d.isLt; have := a.isLt
  refine of4 (encode_of_encode32b rfl rfl rfl) ?_ ?_ <;> (simp only [pack_cons, pack_nil, put_eq]; omega)
theorem resolve (d a b : BitVec 7) : Statement (.resolve d a b) := by
  have := d.isLt; have := a.isLt; have := b.isLt
  refine of4 (encode_of_encode32b rfl rfl rfl) ?_ ?_ <;> (simp only [pack_cons, pack_nil, put_eq]; omega)
theorem fpois (d a b : BitVec 7) : Statement (.fpois d a b) := by
  have := d.isLt; have := a.isLt; have := b.isLt
  refine of4 (encode_of_encode32b rfl rfl rfl) ?_ ?_ <;> (simp only [pack_cons, pack_nil, put_eq]; omega)
theorem cancel (d a : BitVec 7) : Statement (.cancel d a) := by
  have := d.isLt; have := a.isLt
  refine of4 (encode_of_encode32b rfl rfl rfl) ?_ ?_ <;> (simp only [pack_cons, pack_nil, put_eq]; omega)
theorem frel (a : BitVec 7) : Statement (.frel a) := by
  have := a.isLt
  refine of4 (encode_of_encode32b rfl rfl rfl) ?_ ?_ <;> (simp only [pack_cons, pack_nil, put_eq]; omega)
theorem fstat (d a : BitVec 7) : Statement (.fstat d a) := by
  have := d.isLt; have := a.isLt
  refine of4 (encode_of_encode32b rfl rfl rfl) ?_ ?_ <;> (simp only [pack_cons, pack_nil, put_eq]; omega)
theorem yield : Statement .yield := of4 (encode_of_encode32b rfl rfl rfl) (by decide) (by decide)
theorem tend (a : BitVec 7) : Statement (.tend a) := by
  have := a.isLt
  refine of4 (encode_of_encode32b rfl rfl rfl) ?_ ?_ <;> (simp only [pack_cons, pack_nil, put_eq]; omega)
theorem wid (d : BitVec 7) : Statement (.wid d) := by
  have := d.isLt
  refine of4 (encode_of_encode32b rfl rfl rfl) ?_ ?_ <;> (simp only [pack_cons, pack_nil, put_eq]; omega)
theorem wfld (d n : BitVec 7) : Statement (.wfld d n) := by
  have := d.isLt; have := n.isLt
  refine of4 (encode_of_encode32b rfl rfl rfl) ?_ ?_ <;> (simp only [pack_cons, pack_nil, put_eq]; omega)
theorem bari (d a b : BitVec 7) : Statement (.bari d a b) := by
  have := d.isLt; have := a.isLt; have := b.isLt
  refine of4 (encode_of_encode32b rfl rfl rfl) ?_ ?_ <;> (simp only [pack_cons, pack_nil, put_eq]; omega)
theorem bara (d a b : BitVec 7) : Statement (.bara d a b) := by
  have := d.isLt; have := a.isLt; have := b.isLt
  refine of4 (encode_of_encode32b rfl rfl rfl) ?_ ?_ <;> (simp only [pack_cons, pack_nil, put_eq]; omega)
theorem barad (d a b : BitVec 7) : Statement (.barad d a b) := by
  have := d.isLt; have := a.isLt; have := b.isLt
  refine of4 (encode_of_encode32b rfl rfl rfl) ?_ ?_ <;> (simp only [pack_cons, pack_nil, put_eq]; omega)
theorem barw (d a b : BitVec 7) : Statement (.barw d a b) := by
  have := d.isLt; have := a.isLt; have := b.isLt
  refine of4 (encode_of_encode32b rfl rfl rfl) ?_ ?_ <;> (simp only [pack_cons, pack_nil, put_eq]; omega)
theorem msend (a b : BitVec 7) : Statement (.msend a b) := by
  have := a.isLt; have := b.isLt
  refine of4 (encode_of_encode32b rfl rfl rfl) ?_ ?_ <;> (simp only [pack_cons, pack_nil, put_eq]; omega)
theorem mdone : Statement .mdone := of4 (encode_of_encode32b rfl rfl rfl) (by decide) (by decide)
theorem waitt (d a : BitVec 7) : Statement (.waitt d a) := by
  have := d.isLt; have := a.isLt
  refine of4 (encode_of_encode32b rfl rfl rfl) ?_ ?_ <;> (simp only [pack_cons, pack_nil, put_eq]; omega)
theorem atset (a : BitVec 7) : Statement (.atset a) := by
  have := a.isLt
  refine of4 (encode_of_encode32b rfl rfl rfl) ?_ ?_ <;> (simp only [pack_cons, pack_nil, put_eq]; omega)
theorem stream (d a b : BitVec 7) : Statement (.stream d a b) := by
  have := d.isLt; have := a.isLt; have := b.isLt
  refine of4 (encode_of_encode32b rfl rfl rfl) ?_ ?_ <;> (simp only [pack_cons, pack_nil, put_eq]; omega)
theorem vclaim (d a : BitVec 7) : Statement (.vclaim d a) := by
  have := d.isLt; have := a.isLt
  refine of4 (encode_of_encode32b rfl rfl rfl) ?_ ?_ <;> (simp only [pack_cons, pack_nil, put_eq]; omega)
theorem vrel : Statement .vrel := of4 (encode_of_encode32b rfl rfl rfl) (by decide) (by decide)
theorem vsetvl (d a : BitVec 7) : Statement (.vsetvl d a) := by
  have := d.isLt; have := a.isLt
  refine of4 (encode_of_encode32b rfl rfl rfl) ?_ ?_ <;> (simp only [pack_cons, pack_nil, put_eq]; omega)
theorem vld (d : BitVec 4) (a : BitVec 7) (m : BitVec 1) (k : BitVec 2) : Statement (.vld d a m k) := by
  have := d.isLt; have := a.isLt; have := m.isLt; have := k.isLt
  refine of4 (encode_of_encode32b rfl rfl rfl) ?_ ?_ <;> (simp only [pack_cons, pack_nil, put_eq]; omega)
theorem vst (s : BitVec 4) (a : BitVec 7) (m : BitVec 1) (k : BitVec 2) : Statement (.vst s a m k) := by
  have := s.isLt; have := a.isLt; have := m.isLt; have := k.isLt
  refine of4 (encode_of_encode32b rfl rfl rfl) ?_ ?_ <;> (simp only [pack_cons, pack_nil, put_eq]; omega)
theorem vlds (d : BitVec 4) (a b : BitVec 7) (m : BitVec 1) (k : BitVec 2) : Statement (.vlds d a b m k) := by
  have := d.isLt; have := a.isLt; have := b.isLt; have := m.isLt; have := k.isLt
  refine of4 (encode_of_encode32b rfl rfl rfl) ?_ ?_ <;> (simp only [pack_cons, pack_nil, put_eq]; omega)
theorem vgath (d : BitVec 4) (a : BitVec 7) (i : BitVec 4) (m : BitVec 1) (k : BitVec 2) : Statement (.vgath d a i m k) := by
  have := d.isLt; have := a.isLt; have := i.isLt; have := m.isLt; have := k.isLt
  refine of4 (encode_of_encode32b rfl rfl rfl) ?_ ?_ <;> (simp only [pack_cons, pack_nil, put_eq]; omega)
theorem vscat (s : BitVec 4) (a : BitVec 7) (i : BitVec 4) (m : BitVec 1) (k : BitVec 2) : Statement (.vscat s a i m k) := by
  have := s.isLt; have := a.isLt; have := i.isLt; have := m.isLt; have := k.isLt
  refine of4 (encode_of_encode32b rfl rfl rfl) ?_ ?_ <;> (simp only [pack_cons, pack_nil, put_eq]; omega)
theorem vbcast (d : BitVec 4) (a : BitVec 7) (m : BitVec 1) (k : BitVec 2) : Statement (.vbcast d a m k) := by
  have := d.isLt; have := a.isLt; have := m.isLt; have := k.isLt
  refine of4 (encode_of_encode32b rfl rfl rfl) ?_ ?_ <;> (simp only [pack_cons, pack_nil, put_eq]; omega)
theorem vext (d : BitVec 7) (t : BitVec 3) (a : BitVec 4) (b : BitVec 7) : Statement (.vext d t a b) := by
  have := d.isLt; have := t.isLt; have := a.isLt; have := b.isLt
  refine of4 (encode_of_encode32b rfl rfl rfl) ?_ ?_ <;> (simp only [pack_cons, pack_nil, put_eq]; omega)
theorem vadd (d : BitVec 4) (t : BitVec 3) (a : BitVec 4) (x : BitVec 3) (b : BitVec 4) (m : BitVec 1) (k : BitVec 2) : Statement (.vadd d t a x b m k) := by
  have := d.isLt; have := t.isLt; have := a.isLt; have := x.isLt; have := b.isLt; have := m.isLt; have := k.isLt
  refine of4 (encode_of_encode32b rfl rfl rfl) ?_ ?_ <;> (simp only [pack_cons, pack_nil, put_eq]; omega)
theorem vsub (d : BitVec 4) (t : BitVec 3) (a : BitVec 4) (x : BitVec 3) (b : BitVec 4) (m : BitVec 1) (k : BitVec 2) : Statement (.vsub d t a x b m k) := by
  have := d.isLt; have := t.isLt; have := a.isLt; have := x.isLt; have := b.isLt; have := m.isLt; have := k.isLt
  refine of4 (encode_of_encode32b rfl rfl rfl) ?_ ?_ <;> (simp only [pack_cons, pack_nil, put_eq]; omega)
theorem vmul (d : BitVec 4) (t : BitVec 3) (a : BitVec 4) (x : BitVec 3) (b : BitVec 4) (m : BitVec 1) (k : BitVec 2) : Statement (.vmul d t a x b m k) := by
  have := d.isLt; have := t.isLt; have := a.isLt; have := x.isLt; have := b.isLt; have := m.isLt; have := k.isLt
  refine of4 (encode_of_encode32b rfl rfl rfl) ?_ ?_ <;> (simp only [pack_cons, pack_nil, put_eq]; omega)
theorem vfma (d : BitVec 4) (t : BitVec 3) (a : BitVec 4) (x : BitVec 3) (b : BitVec 4) (m : BitVec 1) (k : BitVec 2) : Statement (.vfma d t a x b m k) := by
  have := d.isLt; have := t.isLt; have := a.isLt; have := x.isLt; have := b.isLt; have := m.isLt; have := k.isLt
  refine of4 (encode_of_encode32b rfl rfl rfl) ?_ ?_ <;> (simp only [pack_cons, pack_nil, put_eq]; omega)
theorem vmin (d : BitVec 4) (t : BitVec 3) (a b : BitVec 4) (m : BitVec 1) (k : BitVec 2) : Statement (.vmin d t a b m k) := by
  have := d.isLt; have := t.isLt; have := a.isLt; have := b.isLt; have := m.isLt; have := k.isLt
  refine of4 (encode_of_encode32b rfl rfl rfl) ?_ ?_ <;> (simp only [pack_cons, pack_nil, put_eq]; omega)
theorem vmax (d : BitVec 4) (t : BitVec 3) (a b : BitVec 4) (m : BitVec 1) (k : BitVec 2) : Statement (.vmax d t a b m k) := by
  have := d.isLt; have := t.isLt; have := a.isLt; have := b.isLt; have := m.isLt; have := k.isLt
  refine of4 (encode_of_encode32b rfl rfl rfl) ?_ ?_ <;> (simp only [pack_cons, pack_nil, put_eq]; omega)
theorem vdiv (d : BitVec 4) (t : BitVec 3) (a : BitVec 4) (x : BitVec 3) (b : BitVec 4) (m : BitVec 1) (k : BitVec 2) : Statement (.vdiv d t a x b m k) := by
  have := d.isLt; have := t.isLt; have := a.isLt; have := x.isLt; have := b.isLt; have := m.isLt; have := k.isLt
  refine of4 (encode_of_encode32b rfl rfl rfl) ?_ ?_ <;> (simp only [pack_cons, pack_nil, put_eq]; omega)
theorem vsqrt (d : BitVec 4) (t : BitVec 3) (a : BitVec 4) (x : BitVec 3) (m : BitVec 1) (k : BitVec 2) : Statement (.vsqrt d t a x m k) := by
  have := d.isLt; have := t.isLt; have := a.isLt; have := x.isLt; have := m.isLt; have := k.isLt
  refine of4 (encode_of_encode32b rfl rfl rfl) ?_ ?_ <;> (simp only [pack_cons, pack_nil, put_eq]; omega)
theorem vrsqrt (d : BitVec 4) (t : BitVec 3) (a : BitVec 4) (x : BitVec 3) (m : BitVec 1) (k : BitVec 2) : Statement (.vrsqrt d t a x m k) := by
  have := d.isLt; have := t.isLt; have := a.isLt; have := x.isLt; have := m.isLt; have := k.isLt
  refine of4 (encode_of_encode32b rfl rfl rfl) ?_ ?_ <;> (simp only [pack_cons, pack_nil, put_eq]; omega)
theorem vrcp (d : BitVec 4) (t : BitVec 3) (a : BitVec 4) (x : BitVec 3) (m : BitVec 1) (k : BitVec 2) : Statement (.vrcp d t a x m k) := by
  have := d.isLt; have := t.isLt; have := a.isLt; have := x.isLt; have := m.isLt; have := k.isLt
  refine of4 (encode_of_encode32b rfl rfl rfl) ?_ ?_ <;> (simp only [pack_cons, pack_nil, put_eq]; omega)
theorem vexp2 (d : BitVec 4) (t : BitVec 3) (a : BitVec 4) (x : BitVec 3) (m : BitVec 1) (k : BitVec 2) : Statement (.vexp2 d t a x m k) := by
  have := d.isLt; have := t.isLt; have := a.isLt; have := x.isLt; have := m.isLt; have := k.isLt
  refine of4 (encode_of_encode32b rfl rfl rfl) ?_ ?_ <;> (simp only [pack_cons, pack_nil, put_eq]; omega)
theorem vlog2 (d : BitVec 4) (t : BitVec 3) (a : BitVec 4) (x : BitVec 3) (m : BitVec 1) (k : BitVec 2) : Statement (.vlog2 d t a x m k) := by
  have := d.isLt; have := t.isLt; have := a.isLt; have := x.isLt; have := m.isLt; have := k.isLt
  refine of4 (encode_of_encode32b rfl rfl rfl) ?_ ?_ <;> (simp only [pack_cons, pack_nil, put_eq]; omega)
theorem vsin (d : BitVec 4) (t : BitVec 3) (a : BitVec 4) (x : BitVec 3) (m : BitVec 1) (k : BitVec 2) : Statement (.vsin d t a x m k) := by
  have := d.isLt; have := t.isLt; have := a.isLt; have := x.isLt; have := m.isLt; have := k.isLt
  refine of4 (encode_of_encode32b rfl rfl rfl) ?_ ?_ <;> (simp only [pack_cons, pack_nil, put_eq]; omega)
theorem vtanh (d : BitVec 4) (t : BitVec 3) (a : BitVec 4) (x : BitVec 3) (m : BitVec 1) (k : BitVec 2) : Statement (.vtanh d t a x m k) := by
  have := d.isLt; have := t.isLt; have := a.isLt; have := x.isLt; have := m.isLt; have := k.isLt
  refine of4 (encode_of_encode32b rfl rfl rfl) ?_ ?_ <;> (simp only [pack_cons, pack_nil, put_eq]; omega)
theorem vand (d : BitVec 4) (t : BitVec 3) (a b : BitVec 4) (m : BitVec 1) (k : BitVec 2) : Statement (.vand d t a b m k) := by
  have := d.isLt; have := t.isLt; have := a.isLt; have := b.isLt; have := m.isLt; have := k.isLt
  refine of4 (encode_of_encode32b rfl rfl rfl) ?_ ?_ <;> (simp only [pack_cons, pack_nil, put_eq]; omega)
theorem vor (d : BitVec 4) (t : BitVec 3) (a b : BitVec 4) (m : BitVec 1) (k : BitVec 2) : Statement (.vor d t a b m k) := by
  have := d.isLt; have := t.isLt; have := a.isLt; have := b.isLt; have := m.isLt; have := k.isLt
  refine of4 (encode_of_encode32b rfl rfl rfl) ?_ ?_ <;> (simp only [pack_cons, pack_nil, put_eq]; omega)
theorem vxor (d : BitVec 4) (t : BitVec 3) (a b : BitVec 4) (m : BitVec 1) (k : BitVec 2) : Statement (.vxor d t a b m k) := by
  have := d.isLt; have := t.isLt; have := a.isLt; have := b.isLt; have := m.isLt; have := k.isLt
  refine of4 (encode_of_encode32b rfl rfl rfl) ?_ ?_ <;> (simp only [pack_cons, pack_nil, put_eq]; omega)
theorem vshl (d : BitVec 4) (t : BitVec 3) (a : BitVec 4) (x : BitVec 3) (b : BitVec 4) (m : BitVec 1) (k : BitVec 2) : Statement (.vshl d t a x b m k) := by
  have := d.isLt; have := t.isLt; have := a.isLt; have := x.isLt; have := b.isLt; have := m.isLt; have := k.isLt
  refine of4 (encode_of_encode32b rfl rfl rfl) ?_ ?_ <;> (simp only [pack_cons, pack_nil, put_eq]; omega)
theorem vshr (d : BitVec 4) (t : BitVec 3) (a : BitVec 4) (x : BitVec 3) (b : BitVec 4) (m : BitVec 1) (k : BitVec 2) : Statement (.vshr d t a x b m k) := by
  have := d.isLt; have := t.isLt; have := a.isLt; have := x.isLt; have := b.isLt; have := m.isLt; have := k.isLt
  refine of4 (encode_of_encode32b rfl rfl rfl) ?_ ?_ <;> (simp only [pack_cons, pack_nil, put_eq]; omega)
theorem vcmp (v : BitVec 2) (t : BitVec 3) (a : BitVec 4) (p : BitVec 3) (b : BitVec 4) (m : BitVec 1) (k : BitVec 2) : Statement (.vcmp v t a p b m k) := by
  have := v.isLt; have := t.isLt; have := a.isLt; have := p.isLt; have := b.isLt; have := m.isLt; have := k.isLt
  refine of4 (encode_of_encode32b rfl rfl rfl) ?_ ?_ <;> (simp only [pack_cons, pack_nil, put_eq]; omega)
theorem vsel (d : BitVec 4) (t : BitVec 3) (a b : BitVec 4) (k : BitVec 2) : Statement (.vsel d t a b k) := by
  have := d.isLt; have := t.isLt; have := a.isLt; have := b.isLt; have := k.isLt
  refine of4 (encode_of_encode32b rfl rfl rfl) ?_ ?_ <;> (simp only [pack_cons, pack_nil, put_eq]; omega)
theorem vcvt (d : BitVec 4) (t : BitVec 3) (a : BitVec 4) (x : BitVec 3) (s : BitVec 1) (y : BitVec 3) (m : BitVec 1) (k : BitVec 2) : Statement (.vcvt d t a x s y m k) := by
  have := d.isLt; have := t.isLt; have := a.isLt; have := x.isLt; have := s.isLt; have := y.isLt; have := m.isLt; have := k.isLt
  refine of4 (encode_of_encode32b rfl rfl rfl) ?_ ?_ <;> (simp only [pack_cons, pack_nil, put_eq]; omega)
theorem vred (d : BitVec 4) (t : BitVec 3) (a : BitVec 4) (x : BitVec 3) (o : BitVec 4) (m : BitVec 1) (k : BitVec 2) : Statement (.vred d t a x o m k) := by
  have := d.isLt; have := t.isLt; have := a.isLt; have := x.isLt; have := o.isLt; have := m.isLt; have := k.isLt
  refine of4 (encode_of_encode32b rfl rfl rfl) ?_ ?_ <;> (simp only [pack_cons, pack_nil, put_eq]; omega)
theorem vscan (d : BitVec 4) (t : BitVec 3) (a : BitVec 4) (x : BitVec 3) (o : BitVec 4) (m : BitVec 1) (k : BitVec 2) : Statement (.vscan d t a x o m k) := by
  have := d.isLt; have := t.isLt; have := a.isLt; have := x.isLt; have := o.isLt; have := m.isLt; have := k.isLt
  refine of4 (encode_of_encode32b rfl rfl rfl) ?_ ?_ <;> (simp only [pack_cons, pack_nil, put_eq]; omega)
theorem vperm (d : BitVec 4) (t : BitVec 3) (a b : BitVec 4) (m : BitVec 1) (k : BitVec 2) : Statement (.vperm d t a b m k) := by
  have := d.isLt; have := t.isLt; have := a.isLt; have := b.isLt; have := m.isLt; have := k.isLt
  refine of4 (encode_of_encode32b rfl rfl rfl) ?_ ?_ <;> (simp only [pack_cons, pack_nil, put_eq]; omega)
theorem vquant (d : BitVec 4) (t : BitVec 3) (a : BitVec 4) (x : BitVec 3) (q : BitVec 4) (m : BitVec 1) (k : BitVec 2) : Statement (.vquant d t a x q m k) := by
  have := d.isLt; have := t.isLt; have := a.isLt; have := x.isLt; have := q.isLt; have := m.isLt; have := k.isLt
  refine of4 (encode_of_encode32b rfl rfl rfl) ?_ ?_ <;> (simp only [pack_cons, pack_nil, put_eq]; omega)
theorem vdeq (d : BitVec 4) (t : BitVec 3) (a : BitVec 4) (x : BitVec 3) (q : BitVec 4) (m : BitVec 1) (k : BitVec 2) : Statement (.vdeq d t a x q m k) := by
  have := d.isLt; have := t.isLt; have := a.isLt; have := x.isLt; have := q.isLt; have := m.isLt; have := k.isLt
  refine of4 (encode_of_encode32b rfl rfl rfl) ?_ ?_ <;> (simp only [pack_cons, pack_nil, put_eq]; omega)
theorem mxcfg (d a b : BitVec 7) : Statement (.mxcfg d a b) := by
  have := d.isLt; have := a.isLt; have := b.isLt
  refine of4 (encode_of_encode32b rfl rfl rfl) ?_ ?_ <;> (simp only [pack_cons, pack_nil, put_eq]; omega)
theorem trel (d a : BitVec 7) : Statement (.trel d a) := by
  have := d.isLt; have := a.isLt
  refine of4 (encode_of_encode32b rfl rfl rfl) ?_ ?_ <;> (simp only [pack_cons, pack_nil, put_eq]; omega)
theorem mxstat (d a s : BitVec 7) : Statement (.mxstat d a s) := by
  have := d.isLt; have := a.isLt; have := s.isLt
  refine of4 (encode_of_encode32b rfl rfl rfl) ?_ ?_ <;> (simp only [pack_cons, pack_nil, put_eq]; omega)
theorem mxsub (d a : BitVec 7) : Statement (.mxsub d a) := by
  have := d.isLt; have := a.isLt
  refine of4 (encode_of_encode32b rfl rfl rfl) ?_ ?_ <;> (simp only [pack_cons, pack_nil, put_eq]; omega)
theorem mxsubc (d a b : BitVec 7) : Statement (.mxsubc d a b) := by
  have := d.isLt; have := a.isLt; have := b.isLt
  refine of4 (encode_of_encode32b rfl rfl rfl) ?_ ?_ <;> (simp only [pack_cons, pack_nil, put_eq]; omega)
theorem tldt (d a b : BitVec 7) : Statement (.tldt d a b) := by
  have := d.isLt; have := a.isLt; have := b.isLt
  refine of4 (encode_of_encode32b rfl rfl rfl) ?_ ?_ <;> (simp only [pack_cons, pack_nil, put_eq]; omega)
theorem tswap (d a b : BitVec 7) : Statement (.tswap d a b) := by
  have := d.isLt; have := a.isLt; have := b.isLt
  refine of4 (encode_of_encode32b rfl rfl rfl) ?_ ?_ <;> (simp only [pack_cons, pack_nil, put_eq]; omega)
theorem csrr (d : BitVec 7) (c : BitVec 12) : Statement (.csrr d c) := by
  have := d.isLt; have := c.isLt
  refine of4 (encode_of_encode32b rfl rfl rfl) ?_ ?_ <;> (simp only [pack_cons, pack_nil, put_eq]; omega)
theorem csrw (s : BitVec 7) (c : BitVec 12) : Statement (.csrw s c) := by
  have := s.isLt; have := c.isLt
  refine of4 (encode_of_encode32b rfl rfl rfl) ?_ ?_ <;> (simp only [pack_cons, pack_nil, put_eq]; omega)
theorem csrs (s : BitVec 7) (c : BitVec 12) : Statement (.csrs s c) := by
  have := s.isLt; have := c.isLt
  refine of4 (encode_of_encode32b rfl rfl rfl) ?_ ?_ <;> (simp only [pack_cons, pack_nil, put_eq]; omega)
theorem csrc (s : BitVec 7) (c : BitVec 12) : Statement (.csrc s c) := by
  have := s.isLt; have := c.isLt
  refine of4 (encode_of_encode32b rfl rfl rfl) ?_ ?_ <;> (simp only [pack_cons, pack_nil, put_eq]; omega)
theorem trap (c : BitVec 7) : Statement (.trap c) := by
  have := c.isLt
  refine of4 (encode_of_encode32b rfl rfl rfl) ?_ ?_ <;> (simp only [pack_cons, pack_nil, put_eq]; omega)
theorem eret : Statement .eret := of4 (encode_of_encode32b rfl rfl rfl) (by decide) (by decide)
theorem brk (c : BitVec 7) : Statement (.brk c) := by
  have := c.isLt
  refine of4 (encode_of_encode32b rfl rfl rfl) ?_ ?_ <;> (simp only [pack_cons, pack_nil, put_eq]; omega)
theorem nop : Statement .nop := of4 (encode_of_encode32b rfl rfl rfl) (by decide) (by decide)
theorem tlbw (d a b : BitVec 7) : Statement (.tlbw d a b) := by
  have := d.isLt; have := a.isLt; have := b.isLt
  refine of4 (encode_of_encode32b rfl rfl rfl) ?_ ?_ <;> (simp only [pack_cons, pack_nil, put_eq]; omega)
theorem tlbinv (d a b : BitVec 7) : Statement (.tlbinv d a b) := by
  have := d.isLt; have := a.isLt; have := b.isLt
  refine of4 (encode_of_encode32b rfl rfl rfl) ?_ ?_ <;> (simp only [pack_cons, pack_nil, put_eq]; omega)
theorem slotw (d a b : BitVec 7) : Statement (.slotw d a b) := by
  have := d.isLt; have := a.isLt; have := b.isLt
  refine of4 (encode_of_encode32b rfl rfl rfl) ?_ ?_ <;> (simp only [pack_cons, pack_nil, put_eq]; omega)
theorem mapcl (d a b : BitVec 7) : Statement (.mapcl d a b) := by
  have := d.isLt; have := a.isLt; have := b.isLt
  refine of4 (encode_of_encode32b rfl rfl rfl) ?_ ?_ <;> (simp only [pack_cons, pack_nil, put_eq]; omega)
theorem capmk (d a b : BitVec 7) : Statement (.capmk d a b) := by
  have := d.isLt; have := a.isLt; have := b.isLt
  refine of4 (encode_of_encode32b rfl rfl rfl) ?_ ?_ <;> (simp only [pack_cons, pack_nil, put_eq]; omega)
theorem pair (d : BitVec 7) : Statement (.pair d) := by
  have := d.isLt
  refine of4 (encode_of_encode32b rfl rfl rfl) ?_ ?_ <;> (simp only [pack_cons, pack_nil, put_eq]; omega)
theorem unpair (d : BitVec 7) : Statement (.unpair d) := by
  have := d.isLt
  refine of4 (encode_of_encode32b rfl rfl rfl) ?_ ?_ <;> (simp only [pack_cons, pack_nil, put_eq]; omega)
theorem ckpt (d : BitVec 7) : Statement (.ckpt d) := by
  have := d.isLt
  refine of4 (encode_of_encode32b rfl rfl rfl) ?_ ?_ <;> (simp only [pack_cons, pack_nil, put_eq]; omega)
theorem pchk (d a b : BitVec 7) : Statement (.pchk d a b) := by
  have := d.isLt; have := a.isLt; have := b.isLt
  refine of4 (encode_of_encode32b rfl rfl rfl) ?_ ?_ <;> (simp only [pack_cons, pack_nil, put_eq]; omega)
theorem movCompact (a b : BitVec 5) : Statement (.movCompact a b) := by
  have := a.isLt; have := b.isLt
  refine of2 (encode_of_encode16 rfl) ?_ <;> (simp only [pack_cons, pack_nil, put_eq]; omega)
theorem addCompact (a b : BitVec 5) : Statement (.addCompact a b) := by
  have := a.isLt; have := b.isLt
  refine of2 (encode_of_encode16 rfl) ?_ <;> (simp only [pack_cons, pack_nil, put_eq]; omega)
theorem subCompact (a b : BitVec 5) : Statement (.subCompact a b) := by
  have := a.isLt; have := b.isLt
  refine of2 (encode_of_encode16 rfl) ?_ <;> (simp only [pack_cons, pack_nil, put_eq]; omega)
theorem andCompact (a b : BitVec 5) : Statement (.andCompact a b) := by
  have := a.isLt; have := b.isLt
  refine of2 (encode_of_encode16 rfl) ?_ <;> (simp only [pack_cons, pack_nil, put_eq]; omega)
theorem orCompact (a b : BitVec 5) : Statement (.orCompact a b) := by
  have := a.isLt; have := b.isLt
  refine of2 (encode_of_encode16 rfl) ?_ <;> (simp only [pack_cons, pack_nil, put_eq]; omega)
theorem xorCompact (a b : BitVec 5) : Statement (.xorCompact a b) := by
  have := a.isLt; have := b.isLt
  refine of2 (encode_of_encode16 rfl) ?_ <;> (simp only [pack_cons, pack_nil, put_eq]; omega)
theorem sllCompact (a b : BitVec 5) : Statement (.sllCompact a b) := by
  have := a.isLt; have := b.isLt
  refine of2 (encode_of_encode16 rfl) ?_ <;> (simp only [pack_cons, pack_nil, put_eq]; omega)
theorem srlCompact (a b : BitVec 5) : Statement (.srlCompact a b) := by
  have := a.isLt; have := b.isLt
  refine of2 (encode_of_encode16 rfl) ?_ <;> (simp only [pack_cons, pack_nil, put_eq]; omega)
theorem sraCompact (a b : BitVec 5) : Statement (.sraCompact a b) := by
  have := a.isLt; have := b.isLt
  refine of2 (encode_of_encode16 rfl) ?_ <;> (simp only [pack_cons, pack_nil, put_eq]; omega)
theorem mulCompact (a b : BitVec 5) : Statement (.mulCompact a b) := by
  have := a.isLt; have := b.isLt
  refine of2 (encode_of_encode16 rfl) ?_ <;> (simp only [pack_cons, pack_nil, put_eq]; omega)
theorem aaddCompact (a b : BitVec 5) : Statement (.aaddCompact a b) := by
  have := a.isLt; have := b.isLt
  refine of2 (encode_of_encode16 rfl) ?_ <;> (simp only [pack_cons, pack_nil, put_eq]; omega)
theorem sltCompact (a b : BitVec 5) : Statement (.sltCompact a b) := by
  have := a.isLt; have := b.isLt
  refine of2 (encode_of_encode16 rfl) ?_ <;> (simp only [pack_cons, pack_nil, put_eq]; omega)
theorem lddCompact (a b : BitVec 5) : Statement (.lddCompact a b) := by
  have := a.isLt; have := b.isLt
  refine of2 (encode_of_encode16 rfl) ?_ <;> (simp only [pack_cons, pack_nil, put_eq]; omega)
theorem stdCompact (a b : BitVec 5) : Statement (.stdCompact a b) := by
  have := a.isLt; have := b.isLt
  refine of2 (encode_of_encode16 rfl) ?_ <;> (simp only [pack_cons, pack_nil, put_eq]; omega)
theorem ldwCompact (a b : BitVec 5) : Statement (.ldwCompact a b) := by
  have := a.isLt; have := b.isLt
  refine of2 (encode_of_encode16 rfl) ?_ <;> (simp only [pack_cons, pack_nil, put_eq]; omega)
theorem jalrCompact (a : BitVec 5) (b : BitVec 4) : Statement (.jalrCompact a b) := by
  have := a.isLt; have := b.isLt
  refine of2 (encode_of_encode16 rfl) ?_ <;> (simp only [pack_cons, pack_nil, put_eq]; omega)
theorem liCompact (a i : BitVec 5) : Statement (.liCompact a i) := by
  have := a.isLt; have := i.isLt
  refine of2 (encode_of_encode16 rfl) ?_ <;> (simp only [pack_cons, pack_nil, put_eq]; omega)
theorem addiCompact (a i : BitVec 5) : Statement (.addiCompact a i) := by
  have := a.isLt; have := i.isLt
  refine of2 (encode_of_encode16 rfl) ?_ <;> (simp only [pack_cons, pack_nil, put_eq]; omega)
theorem aaddiCompact (a i : BitVec 5) : Statement (.aaddiCompact a i) := by
  have := a.isLt; have := i.isLt
  refine of2 (encode_of_encode16 rfl) ?_ <;> (simp only [pack_cons, pack_nil, put_eq]; omega)
theorem slliCompact (a i : BitVec 5) : Statement (.slliCompact a i) := by
  have := a.isLt; have := i.isLt
  refine of2 (encode_of_encode16 rfl) ?_ <;> (simp only [pack_cons, pack_nil, put_eq]; omega)
theorem srliCompact (a i : BitVec 5) : Statement (.srliCompact a i) := by
  have := a.isLt; have := i.isLt
  refine of2 (encode_of_encode16 rfl) ?_ <;> (simp only [pack_cons, pack_nil, put_eq]; omega)
theorem sraiCompact (a i : BitVec 5) : Statement (.sraiCompact a i) := by
  have := a.isLt; have := i.isLt
  refine of2 (encode_of_encode16 rfl) ?_ <;> (simp only [pack_cons, pack_nil, put_eq]; omega)
theorem andiCompact (a i : BitVec 5) : Statement (.andiCompact a i) := by
  have := a.isLt; have := i.isLt
  refine of2 (encode_of_encode16 rfl) ?_ <;> (simp only [pack_cons, pack_nil, put_eq]; omega)
theorem oriCompact (a i : BitVec 5) : Statement (.oriCompact a i) := by
  have := a.isLt; have := i.isLt
  refine of2 (encode_of_encode16 rfl) ?_ <;> (simp only [pack_cons, pack_nil, put_eq]; omega)
theorem xoriCompact (a i : BitVec 5) : Statement (.xoriCompact a i) := by
  have := a.isLt; have := i.isLt
  refine of2 (encode_of_encode16 rfl) ?_ <;> (simp only [pack_cons, pack_nil, put_eq]; omega)
theorem sltiCompact (a i : BitVec 5) : Statement (.sltiCompact a i) := by
  have := a.isLt; have := i.isLt
  refine of2 (encode_of_encode16 rfl) ?_ <;> (simp only [pack_cons, pack_nil, put_eq]; omega)
theorem lddG2Compact (a i : BitVec 5) : Statement (.lddG2Compact a i) := by
  have := a.isLt; have := i.isLt
  refine of2 (encode_of_encode16 rfl) ?_ <;> (simp only [pack_cons, pack_nil, put_eq]; omega)
theorem stdG2Compact (a i : BitVec 5) : Statement (.stdG2Compact a i) := by
  have := a.isLt; have := i.isLt
  refine of2 (encode_of_encode16 rfl) ?_ <;> (simp only [pack_cons, pack_nil, put_eq]; omega)
theorem ldwG2Compact (a i : BitVec 5) : Statement (.ldwG2Compact a i) := by
  have := a.isLt; have := i.isLt
  refine of2 (encode_of_encode16 rfl) ?_ <;> (simp only [pack_cons, pack_nil, put_eq]; omega)
theorem stwG2Compact (a i : BitVec 5) : Statement (.stwG2Compact a i) := by
  have := a.isLt; have := i.isLt
  refine of2 (encode_of_encode16 rfl) ?_ <;> (simp only [pack_cons, pack_nil, put_eq]; omega)
theorem beqzCompact (a o : BitVec 5) : Statement (.beqzCompact a o) := by
  have := a.isLt; have := o.isLt
  refine of2 (encode_of_encode16 rfl) ?_ <;> (simp only [pack_cons, pack_nil, put_eq]; omega)
theorem bnezCompact (a o : BitVec 5) : Statement (.bnezCompact a o) := by
  have := a.isLt; have := o.isLt
  refine of2 (encode_of_encode16 rfl) ?_ <;> (simp only [pack_cons, pack_nil, put_eq]; omega)
theorem touchCompact (a b : BitVec 5) : Statement (.touchCompact a b) := by
  have := a.isLt; have := b.isLt
  refine of2 (encode_of_encode16 rfl) ?_ <;> (simp only [pack_cons, pack_nil, put_eq]; omega)
theorem touchTCompact (a b : BitVec 5) : Statement (.touchTCompact a b) := by
  have := a.isLt; have := b.isLt
  refine of2 (encode_of_encode16 rfl) ?_ <;> (simp only [pack_cons, pack_nil, put_eq]; omega)
theorem touchpCompact (a b : BitVec 5) : Statement (.touchpCompact a b) := by
  have := a.isLt; have := b.isLt
  refine of2 (encode_of_encode16 rfl) ?_ <;> (simp only [pack_cons, pack_nil, put_eq]; omega)
theorem fstatCompact (a b : BitVec 5) : Statement (.fstatCompact a b) := by
  have := a.isLt; have := b.isLt
  refine of2 (encode_of_encode16 rfl) ?_ <;> (simp only [pack_cons, pack_nil, put_eq]; omega)
theorem frelCompact (b : BitVec 5) : Statement (.frelCompact b) := by
  have := b.isLt
  refine of2 (encode_of_encode16 rfl) ?_ <;> (simp only [pack_cons, pack_nil, put_eq]; omega)
theorem tendCompact (b : BitVec 5) : Statement (.tendCompact b) := by
  have := b.isLt
  refine of2 (encode_of_encode16 rfl) ?_ <;> (simp only [pack_cons, pack_nil, put_eq]; omega)
theorem yieldCompact : Statement .yieldCompact := of2 (encode_of_encode16 rfl) (by decide)
theorem widCompact (a : BitVec 5) : Statement (.widCompact a) := by
  have := a.isLt
  refine of2 (encode_of_encode16 rfl) ?_ <;> (simp only [pack_cons, pack_nil, put_eq]; omega)
theorem movFromEpCompact (a : BitVec 5) : Statement (.movFromEpCompact a) := by
  have := a.isLt
  refine of2 (encode_of_encode16 rfl) ?_ <;> (simp only [pack_cons, pack_nil, put_eq]; omega)
theorem movToEpCompact (b : BitVec 5) : Statement (.movToEpCompact b) := by
  have := b.isLt
  refine of2 (encode_of_encode16 rfl) ?_ <;> (simp only [pack_cons, pack_nil, put_eq]; omega)
theorem movFromMpCompact (a : BitVec 5) : Statement (.movFromMpCompact a) := by
  have := a.isLt
  refine of2 (encode_of_encode16 rfl) ?_ <;> (simp only [pack_cons, pack_nil, put_eq]; omega)
theorem movToMpCompact (b : BitVec 5) : Statement (.movToMpCompact b) := by
  have := b.isLt
  refine of2 (encode_of_encode16 rfl) ?_ <;> (simp only [pack_cons, pack_nil, put_eq]; omega)
theorem faddSCompact (a b : BitVec 5) : Statement (.faddSCompact a b) := by
  have := a.isLt; have := b.isLt
  refine of2 (encode_of_encode16 rfl) ?_ <;> (simp only [pack_cons, pack_nil, put_eq]; omega)
theorem fmulSCompact (a b : BitVec 5) : Statement (.fmulSCompact a b) := by
  have := a.isLt; have := b.isLt
  refine of2 (encode_of_encode16 rfl) ?_ <;> (simp only [pack_cons, pack_nil, put_eq]; omega)
theorem nopCompact : Statement .nopCompact := of2 (encode_of_encode16 rfl) (by decide)
theorem brkCompact (i : BitVec 5) : Statement (.brkCompact i) := by
  have := i.isLt
  refine of2 (encode_of_encode16 rfl) ?_ <;> (simp only [pack_cons, pack_nil, put_eq]; omega)
theorem li64 (d : BitVec 7) (i : BitVec 32) : Statement (.li64 d i) := by
  have := d.isLt; have := i.isLt
  refine of8 (encode_of_encode64 rfl rfl rfl rfl) ?_ ?_ <;> (simp only [pack_cons, pack_nil, put_eq]; omega)
theorem li64U (d : BitVec 7) (i : BitVec 32) : Statement (.li64U d i) := by
  have := d.isLt; have := i.isLt
  refine of8 (encode_of_encode64 rfl rfl rfl rfl) ?_ ?_ <;> (simp only [pack_cons, pack_nil, put_eq]; omega)
theorem li64Hi (d : BitVec 7) (i : BitVec 32) : Statement (.li64Hi d i) := by
  have := d.isLt; have := i.isLt
  refine of8 (encode_of_encode64 rfl rfl rfl rfl) ?_ ?_ <;> (simp only [pack_cons, pack_nil, put_eq]; omega)
theorem addiLong (d a : BitVec 7) (i : BitVec 32) : Statement (.addiLong d a i) := by
  have := d.isLt; have := a.isLt; have := i.isLt
  refine of8 (encode_of_encode64 rfl rfl rfl rfl) ?_ ?_ <;> (simp only [pack_cons, pack_nil, put_eq]; omega)
theorem andiLong (d a : BitVec 7) (i : BitVec 32) : Statement (.andiLong d a i) := by
  have := d.isLt; have := a.isLt; have := i.isLt
  refine of8 (encode_of_encode64 rfl rfl rfl rfl) ?_ ?_ <;> (simp only [pack_cons, pack_nil, put_eq]; omega)
theorem oriLong (d a : BitVec 7) (i : BitVec 32) : Statement (.oriLong d a i) := by
  have := d.isLt; have := a.isLt; have := i.isLt
  refine of8 (encode_of_encode64 rfl rfl rfl rfl) ?_ ?_ <;> (simp only [pack_cons, pack_nil, put_eq]; omega)
theorem xoriLong (d a : BitVec 7) (i : BitVec 32) : Statement (.xoriLong d a i) := by
  have := d.isLt; have := a.isLt; have := i.isLt
  refine of8 (encode_of_encode64 rfl rfl rfl rfl) ?_ ?_ <;> (simp only [pack_cons, pack_nil, put_eq]; omega)
theorem aaddiLong (d a : BitVec 7) (i : BitVec 32) : Statement (.aaddiLong d a i) := by
  have := d.isLt; have := a.isLt; have := i.isLt
  refine of8 (encode_of_encode64 rfl rfl rfl rfl) ?_ ?_ <;> (simp only [pack_cons, pack_nil, put_eq]; omega)
theorem sltiLong (d a : BitVec 7) (i : BitVec 32) : Statement (.sltiLong d a i) := by
  have := d.isLt; have := a.isLt; have := i.isLt
  refine of8 (encode_of_encode64 rfl rfl rfl rfl) ?_ ?_ <;> (simp only [pack_cons, pack_nil, put_eq]; omega)
theorem ldbLong (d a : BitVec 7) (i : BitVec 32) : Statement (.ldbLong d a i) := by
  have := d.isLt; have := a.isLt; have := i.isLt
  refine of8 (encode_of_encode64 rfl rfl rfl rfl) ?_ ?_ <;> (simp only [pack_cons, pack_nil, put_eq]; omega)
theorem ldbuLong (d a : BitVec 7) (i : BitVec 32) : Statement (.ldbuLong d a i) := by
  have := d.isLt; have := a.isLt; have := i.isLt
  refine of8 (encode_of_encode64 rfl rfl rfl rfl) ?_ ?_ <;> (simp only [pack_cons, pack_nil, put_eq]; omega)
theorem ldhLong (d a : BitVec 7) (i : BitVec 32) : Statement (.ldhLong d a i) := by
  have := d.isLt; have := a.isLt; have := i.isLt
  refine of8 (encode_of_encode64 rfl rfl rfl rfl) ?_ ?_ <;> (simp only [pack_cons, pack_nil, put_eq]; omega)
theorem ldhuLong (d a : BitVec 7) (i : BitVec 32) : Statement (.ldhuLong d a i) := by
  have := d.isLt; have := a.isLt; have := i.isLt
  refine of8 (encode_of_encode64 rfl rfl rfl rfl) ?_ ?_ <;> (simp only [pack_cons, pack_nil, put_eq]; omega)
theorem ldwLong (d a : BitVec 7) (i : BitVec 32) : Statement (.ldwLong d a i) := by
  have := d.isLt; have := a.isLt; have := i.isLt
  refine of8 (encode_of_encode64 rfl rfl rfl rfl) ?_ ?_ <;> (simp only [pack_cons, pack_nil, put_eq]; omega)
theorem ldwuLong (d a : BitVec 7) (i : BitVec 32) : Statement (.ldwuLong d a i) := by
  have := d.isLt; have := a.isLt; have := i.isLt
  refine of8 (encode_of_encode64 rfl rfl rfl rfl) ?_ ?_ <;> (simp only [pack_cons, pack_nil, put_eq]; omega)
theorem lddLong (d a : BitVec 7) (i : BitVec 32) : Statement (.lddLong d a i) := by
  have := d.isLt; have := a.isLt; have := i.isLt
  refine of8 (encode_of_encode64 rfl rfl rfl rfl) ?_ ?_ <;> (simp only [pack_cons, pack_nil, put_eq]; omega)
theorem stbLong (s a : BitVec 7) (i : BitVec 32) : Statement (.stbLong s a i) := by
  have := s.isLt; have := a.isLt; have := i.isLt
  refine of8 (encode_of_encode64 rfl rfl rfl rfl) ?_ ?_ <;> (simp only [pack_cons, pack_nil, put_eq]; omega)
theorem sthLong (s a : BitVec 7) (i : BitVec 32) : Statement (.sthLong s a i) := by
  have := s.isLt; have := a.isLt; have := i.isLt
  refine of8 (encode_of_encode64 rfl rfl rfl rfl) ?_ ?_ <;> (simp only [pack_cons, pack_nil, put_eq]; omega)
theorem stwLong (s a : BitVec 7) (i : BitVec 32) : Statement (.stwLong s a i) := by
  have := s.isLt; have := a.isLt; have := i.isLt
  refine of8 (encode_of_encode64 rfl rfl rfl rfl) ?_ ?_ <;> (simp only [pack_cons, pack_nil, put_eq]; omega)
theorem stdLong (s a : BitVec 7) (i : BitVec 32) : Statement (.stdLong s a i) := by
  have := s.isLt; have := a.isLt; have := i.isLt
  refine of8 (encode_of_encode64 rfl rfl rfl rfl) ?_ ?_ <;> (simp only [pack_cons, pack_nil, put_eq]; omega)
theorem prefLong (a : BitVec 7) (l : BitVec 2) (x : BitVec 1) (i : BitVec 32) : Statement (.prefLong a l x i) := by
  have := a.isLt; have := l.isLt; have := x.isLt; have := i.isLt
  refine of8 (encode_of_encode64 rfl rfl rfl rfl) ?_ ?_ <;> (simp only [pack_cons, pack_nil, put_eq]; omega)
theorem jalLong (d : BitVec 7) (o : BitVec 32) : Statement (.jalLong d o) := by
  have := d.isLt; have := o.isLt
  refine of8 (encode_of_encode64 rfl rfl rfl rfl) ?_ ?_ <;> (simp only [pack_cons, pack_nil, put_eq]; omega)
theorem jalrLong (d a : BitVec 7) (o : BitVec 32) : Statement (.jalrLong d a o) := by
  have := d.isLt; have := a.isLt; have := o.isLt
  refine of8 (encode_of_encode64 rfl rfl rfl rfl) ?_ ?_ <;> (simp only [pack_cons, pack_nil, put_eq]; omega)
theorem beqzLong (a : BitVec 7) (o : BitVec 32) : Statement (.beqzLong a o) := by
  have := a.isLt; have := o.isLt
  refine of8 (encode_of_encode64 rfl rfl rfl rfl) ?_ ?_ <;> (simp only [pack_cons, pack_nil, put_eq]; omega)
theorem bnezLong (a : BitVec 7) (o : BitVec 32) : Statement (.bnezLong a o) := by
  have := a.isLt; have := o.isLt
  refine of8 (encode_of_encode64 rfl rfl rfl rfl) ?_ ?_ <;> (simp only [pack_cons, pack_nil, put_eq]; omega)
theorem beqLong (a b : BitVec 7) (o : BitVec 32) : Statement (.beqLong a b o) := by
  have := a.isLt; have := b.isLt; have := o.isLt
  refine of8 (encode_of_encode64 rfl rfl rfl rfl) ?_ ?_ <;> (simp only [pack_cons, pack_nil, put_eq]; omega)
theorem bneLong (a b : BitVec 7) (o : BitVec 32) : Statement (.bneLong a b o) := by
  have := a.isLt; have := b.isLt; have := o.isLt
  refine of8 (encode_of_encode64 rfl rfl rfl rfl) ?_ ?_ <;> (simp only [pack_cons, pack_nil, put_eq]; omega)
theorem bltLong (a b : BitVec 7) (o : BitVec 32) : Statement (.bltLong a b o) := by
  have := a.isLt; have := b.isLt; have := o.isLt
  refine of8 (encode_of_encode64 rfl rfl rfl rfl) ?_ ?_ <;> (simp only [pack_cons, pack_nil, put_eq]; omega)
theorem bgeLong (a b : BitVec 7) (o : BitVec 32) : Statement (.bgeLong a b o) := by
  have := a.isLt; have := b.isLt; have := o.isLt
  refine of8 (encode_of_encode64 rfl rfl rfl rfl) ?_ ?_ <;> (simp only [pack_cons, pack_nil, put_eq]; omega)
theorem bltuLong (a b : BitVec 7) (o : BitVec 32) : Statement (.bltuLong a b o) := by
  have := a.isLt; have := b.isLt; have := o.isLt
  refine of8 (encode_of_encode64 rfl rfl rfl rfl) ?_ ?_ <;> (simp only [pack_cons, pack_nil, put_eq]; omega)
theorem bgeuLong (a b : BitVec 7) (o : BitVec 32) : Statement (.bgeuLong a b o) := by
  have := a.isLt; have := b.isLt; have := o.isLt
  refine of8 (encode_of_encode64 rfl rfl rfl rfl) ?_ ?_ <;> (simp only [pack_cons, pack_nil, put_eq]; omega)
theorem mxsubLong (d a b e f : BitVec 7) : Statement (.mxsubLong d a b e f) := by
  have := d.isLt; have := a.isLt; have := b.isLt; have := e.isLt; have := f.isLt
  refine of8 (encode_of_encode64 rfl rfl rfl rfl) ?_ ?_ <;> (simp only [pack_cons, pack_nil, put_eq]; omega)
theorem mxsubcLong (d a b e f g : BitVec 7) : Statement (.mxsubcLong d a b e f g) := by
  have := d.isLt; have := a.isLt; have := b.isLt; have := e.isLt; have := f.isLt; have := g.isLt
  refine of8 (encode_of_encode64 rfl rfl rfl rfl) ?_ ?_ <;> (simp only [pack_cons, pack_nil, put_eq]; omega)
theorem mxcfgLong (d b : BitVec 7) (m : BitVec 16) : Statement (.mxcfgLong d b m) := by
  have := d.isLt; have := b.isLt; have := m.isLt
  refine of8 (encode_of_encode64 rfl rfl rfl rfl) ?_ ?_ <;> (simp only [pack_cons, pack_nil, put_eq]; omega)
theorem tldtLong (d a b : BitVec 7) (w : BitVec 2) (o : BitVec 16) : Statement (.tldtLong d a b w o) := by
  have := d.isLt; have := a.isLt; have := b.isLt; have := w.isLt; have := o.isLt
  refine of8 (encode_of_encode64 rfl rfl rfl rfl) ?_ ?_ <;> (simp only [pack_cons, pack_nil, put_eq]; omega)
theorem getLong (d a b e f : BitVec 7) : Statement (.getLong d a b e f) := by
  have := d.isLt; have := a.isLt; have := b.isLt; have := e.isLt; have := f.isLt
  refine of8 (encode_of_encode64 rfl rfl rfl rfl) ?_ ?_ <;> (simp only [pack_cons, pack_nil, put_eq]; omega)
theorem putLong (d a b e f : BitVec 7) : Statement (.putLong d a b e f) := by
  have := d.isLt; have := a.isLt; have := b.isLt; have := e.isLt; have := f.isLt
  refine of8 (encode_of_encode64 rfl rfl rfl rfl) ?_ ?_ <;> (simp only [pack_cons, pack_nil, put_eq]; omega)
theorem xcpyLong (d a b e f : BitVec 7) : Statement (.xcpyLong d a b e f) := by
  have := d.isLt; have := a.isLt; have := b.isLt; have := e.isLt; have := f.isLt
  refine of8 (encode_of_encode64 rfl rfl rfl rfl) ?_ ?_ <;> (simp only [pack_cons, pack_nil, put_eq]; omega)
theorem xcpy2Long (d a b e f : BitVec 7) : Statement (.xcpy2Long d a b e f) := by
  have := d.isLt; have := a.isLt; have := b.isLt; have := e.isLt; have := f.isLt
  refine of8 (encode_of_encode64 rfl rfl rfl rfl) ?_ ?_ <;> (simp only [pack_cons, pack_nil, put_eq]; omega)
theorem spawnLong (d a b e : BitVec 7) (c n : BitVec 3) : Statement (.spawnLong d a b e c n) := by
  have := d.isLt; have := a.isLt; have := b.isLt; have := e.isLt; have := c.isLt; have := n.isLt
  refine of8 (encode_of_encode64 rfl rfl rfl rfl) ?_ ?_ <;> (simp only [pack_cons, pack_nil, put_eq]; omega)
theorem spawnTLong (d a b e : BitVec 7) (c n : BitVec 3) : Statement (.spawnTLong d a b e c n) := by
  have := d.isLt; have := a.isLt; have := b.isLt; have := e.isLt; have := c.isLt; have := n.isLt
  refine of8 (encode_of_encode64 rfl rfl rfl rfl) ?_ ?_ <;> (simp only [pack_cons, pack_nil, put_eq]; omega)
theorem spawnrLong (d a b e f : BitVec 7) (c n : BitVec 3) : Statement (.spawnrLong d a b e f c n) := by
  have := d.isLt; have := a.isLt; have := b.isLt; have := e.isLt; have := f.isLt; have := c.isLt; have := n.isLt
  refine of8 (encode_of_encode64 rfl rfl rfl rfl) ?_ ?_ <;> (simp only [pack_cons, pack_nil, put_eq]; omega)
theorem spawnrTLong (d a b e f : BitVec 7) (c n : BitVec 3) : Statement (.spawnrTLong d a b e f c n) := by
  have := d.isLt; have := a.isLt; have := b.isLt; have := e.isLt; have := f.isLt; have := c.isLt; have := n.isLt
  refine of8 (encode_of_encode64 rfl rfl rfl rfl) ?_ ?_ <;> (simp only [pack_cons, pack_nil, put_eq]; omega)
theorem vldLong (d : BitVec 4) (a : BitVec 7) (m : BitVec 1) (k : BitVec 2) (i : BitVec 32) : Statement (.vldLong d a m k i) := by
  have := d.isLt; have := a.isLt; have := m.isLt; have := k.isLt; have := i.isLt
  refine of8 (encode_of_encode64 rfl rfl rfl rfl) ?_ ?_ <;> (simp only [pack_cons, pack_nil, put_eq]; omega)
theorem vstLong (s : BitVec 4) (a : BitVec 7) (m : BitVec 1) (k : BitVec 2) (i : BitVec 32) : Statement (.vstLong s a m k i) := by
  have := s.isLt; have := a.isLt; have := m.isLt; have := k.isLt; have := i.isLt
  refine of8 (encode_of_encode64 rfl rfl rfl rfl) ?_ ?_ <;> (simp only [pack_cons, pack_nil, put_eq]; omega)
theorem vbcastLong (d : BitVec 4) (m : BitVec 1) (k : BitVec 2) (i : BitVec 32) : Statement (.vbcastLong d m k i) := by
  have := d.isLt; have := m.isLt; have := k.isLt; have := i.isLt
  refine of8 (encode_of_encode64 rfl rfl rfl rfl) ?_ ?_ <;> (simp only [pack_cons, pack_nil, put_eq]; omega)
theorem vfmaLong (d : BitVec 4) (t : BitVec 3) (a : BitVec 4) (x : BitVec 3) (b : BitVec 4) (m : BitVec 1) (k : BitVec 2) (e : BitVec 4) : Statement (.vfmaLong d t a x b m k e) := by
  have := d.isLt; have := t.isLt; have := a.isLt; have := x.isLt; have := b.isLt; have := m.isLt; have := k.isLt; have := e.isLt
  refine of8 (encode_of_encode64 rfl rfl rfl rfl) ?_ ?_ <;> (simp only [pack_cons, pack_nil, put_eq]; omega)
theorem illegalEncoding (code : BitVec 8) (detail : BitVec 64) : Statement (.illegalEncoding code detail) := ofNone (encode_none rfl rfl rfl rfl)
theorem instructionFetchFault (code : BitVec 8) (detail : BitVec 64) : Statement (.instructionFetchFault code detail) := ofNone (encode_none rfl rfl rfl rfl)
theorem faultMessage (cl i : Nat) : Statement (.faultMessage cl i) := ofNone (encode_none rfl rfl rfl rfl)
theorem cscWindowAccess (tid sel idx : Nat) (wr : Bool) (v : BitVec 64) : Statement (.cscWindowAccess tid sel idx wr v) := ofNone (encode_none rfl rfl rfl rfl)
theorem cscResume (tid : Nat) (pc : BitVec 52) : Statement (.cscResume tid pc) := ofNone (encode_none rfl rfl rfl rfl)
theorem cscKill (tid : Nat) (code : BitVec 8) : Statement (.cscKill tid code) := ofNone (encode_none rfl rfl rfl rfl)
theorem futFullReport (cl : Nat) : Statement (.futFullReport cl) := ofNone (encode_none rfl rfl rfl rfl)
theorem strmSlotReport (core : Nat) : Statement (.strmSlotReport core) := ofNone (encode_none rfl rfl rfl rfl)
theorem waitlimExpiry (tid : Nat) : Statement (.waitlimExpiry tid) := ofNone (encode_none rfl rfl rfl rfl)
theorem taskDispatch (core : Nat) : Statement (.taskDispatch core) := ofNone (encode_none rfl rfl rfl rfl)
theorem frameMove (tid base : Nat) : Statement (.frameMove tid base) := ofNone (encode_none rfl rfl rfl rfl)
theorem waitingLargeTask (core tid : Nat) : Statement (.waitingLargeTask core tid) := ofNone (encode_none rfl rfl rfl rfl)
theorem prefetchStart (cl core pos : Nat) : Statement (.prefetchStart cl core pos) := ofNone (encode_none rfl rfl rfl rfl)
theorem stealSweep (core : Nat) : Statement (.stealSweep core) := ofNone (encode_none rfl rfl rfl rfl)
theorem stealRequest (i : Nat) : Statement (.stealRequest i) := ofNone (encode_none rfl rfl rfl rfl)
theorem stealAnswer (i : Nat) : Statement (.stealAnswer i) := ofNone (encode_none rfl rfl rfl rfl)
theorem terminationSweep (l : Nat) : Statement (.terminationSweep l) := ofNone (encode_none rfl rfl rfl rfl)
theorem launchRetirement (l : Nat) : Statement (.launchRetirement l) := ofNone (encode_none rfl rfl rfl rfl)
theorem futureSpill (cl : Nat) : Statement (.futureSpill cl) := ofNone (encode_none rfl rfl rfl rfl)
theorem futureRequest (i : Nat) : Statement (.futureRequest i) := ofNone (encode_none rfl rfl rfl rfl)
theorem futureReply (i : Nat) : Statement (.futureReply i) := ofNone (encode_none rfl rfl rfl rfl)
theorem wakeMessage (i : Nat) : Statement (.wakeMessage i) := ofNone (encode_none rfl rfl rfl rfl)
theorem waiterWake (cl : Nat) : Statement (.waiterWake cl) := ofNone (encode_none rfl rfl rfl rfl)
theorem mxeMma (cl j : Nat) : Statement (.mxeMma cl j) := ofNone (encode_none rfl rfl rfl rfl)
theorem mxeLoad (cl j : Nat) : Statement (.mxeLoad cl j) := ofNone (encode_none rfl rfl rfl rfl)
theorem mxeStore (cl j : Nat) : Statement (.mxeStore cl j) := ofNone (encode_none rfl rfl rfl rfl)
theorem mxeZero (cl j : Nat) : Statement (.mxeZero cl j) := ofNone (encode_none rfl rfl rfl rfl)
theorem mxeJobComplete (cl j : Nat) : Statement (.mxeJobComplete cl j) := ofNone (encode_none rfl rfl rfl rfl)
theorem mxsubcCommand (i : Nat) : Statement (.mxsubcCommand i) := ofNone (encode_none rfl rfl rfl rfl)
theorem tswapMatch (core i : Nat) : Statement (.tswapMatch core i) := ofNone (encode_none rfl rfl rfl rfl)
theorem tswapComplete (i : Nat) : Statement (.tswapComplete i) := ofNone (encode_none rfl rfl rfl rfl)
theorem xfePiece (cl x : Nat) : Statement (.xfePiece cl x) := ofNone (encode_none rfl rfl rfl rfl)
theorem transferComplete (cl x : Nat) : Statement (.transferComplete cl x) := ofNone (encode_none rfl rfl rfl rfl)
theorem ldlkRetry (tid : Nat) : Statement (.ldlkRetry tid) := ofNone (encode_none rfl rfl rfl rfl)
theorem transientRequest (i : Nat) : Statement (.transientRequest i) := ofNone (encode_none rfl rfl rfl rfl)
theorem requestForward (i : Nat) : Statement (.requestForward i) := ofNone (encode_none rfl rfl rfl rfl)
theorem tokenMessage (i : Nat) : Statement (.tokenMessage i) := ofNone (encode_none rfl rfl rfl rfl)
theorem attemptTimeout (i : Nat) : Statement (.attemptTimeout i) := ofNone (encode_none rfl rfl rfl rfl)
theorem persistentRequest (i : Nat) : Statement (.persistentRequest i) := ofNone (encode_none rfl rfl rfl rfl)
theorem actMessage (i : Nat) : Statement (.actMessage i) := ofNone (encode_none rfl rfl rfl rfl)
theorem deactMessage (i : Nat) : Statement (.deactMessage i) := ofNone (encode_none rfl rfl rfl rfl)
theorem doneMessage (i : Nat) : Statement (.doneMessage i) := ofNone (encode_none rfl rfl rfl rfl)
theorem eviction (agent line : Nat) : Statement (.eviction agent line) := ofNone (encode_none rfl rfl rfl rfl)
theorem pageBind (name : Nat) : Statement (.pageBind name) := ofNone (encode_none rfl rfl rfl rfl)
theorem linkReplay (link : Nat) : Statement (.linkReplay link) := ofNone (encode_none rfl rfl rfl rfl)
theorem linkFailed (link : Nat) : Statement (.linkFailed link) := ofNone (encode_none rfl rfl rfl rfl)
theorem dieCensus (die : Nat) : Statement (.dieCensus die) := ofNone (encode_none rfl rfl rfl rfl)
theorem thermalReading (core temp : Nat) : Statement (.thermalReading core temp) := ofNone (encode_none rfl rfl rfl rfl)
theorem messageArrival (i : Nat) : Statement (.messageArrival i) := ofNone (encode_none rfl rfl rfl rfl)
theorem messageResend (i : Nat) : Statement (.messageResend i) := ofNone (encode_none rfl rfl rfl rfl)
theorem messageReturn (i : Nat) : Statement (.messageReturn i) := ofNone (encode_none rfl rfl rfl rfl)
theorem sendAck (i : Nat) : Statement (.sendAck i) := ofNone (encode_none rfl rfl rfl rfl)
theorem handlerStart (core : Nat) : Statement (.handlerStart core) := ofNone (encode_none rfl rfl rfl rfl)
theorem handlerTimeout (tid : Nat) : Statement (.handlerTimeout tid) := ofNone (encode_none rfl rfl rfl rfl)
theorem timeExchange (die : Nat) (offset : Int) (delay : Nat) : Statement (.timeExchange die offset delay) := ofNone (encode_none rfl rfl rfl rfl)
theorem waittExpiry (tid : Nat) : Statement (.waittExpiry tid) := ofNone (encode_none rfl rfl rfl rfl)
theorem slotwWrite (core idx : Nat) (v : BitVec 16) : Statement (.slotwWrite core idx v) := ofNone (encode_none rfl rfl rfl rfl)
theorem slotwLength (core len : Nat) : Statement (.slotwLength core len) := ofNone (encode_none rfl rfl rfl rfl)
theorem slotwFreeze (core ctx : Nat) : Statement (.slotwFreeze core ctx) := ofNone (encode_none rfl rfl rfl rfl)
theorem slotwThaw (core ctx : Nat) : Statement (.slotwThaw core ctx) := ofNone (encode_none rfl rfl rfl rfl)
theorem slotwSave (core ctx : Nat) : Statement (.slotwSave core ctx) := ofNone (encode_none rfl rfl rfl rfl)
theorem slotTableChange (core : Nat) : Statement (.slotTableChange core) := ofNone (encode_none rfl rfl rfl rfl)
theorem tlbFillRequest (cl i : Nat) : Statement (.tlbFillRequest cl i) := ofNone (encode_none rfl rfl rfl rfl)
theorem tlbFillReply (cl i : Nat) : Statement (.tlbFillReply cl i) := ofNone (encode_none rfl rfl rfl rfl)
theorem hubTlbFill (i : Nat) : Statement (.hubTlbFill i) := ofNone (encode_none rfl rfl rfl rfl)
theorem remapComplete (i : Nat) : Statement (.remapComplete i) := ofNone (encode_none rfl rfl rfl rfl)
theorem retryReissue (i : Nat) : Statement (.retryReissue i) := ofNone (encode_none rfl rfl rfl rfl)
theorem correctedError (n : Nat) : Statement (.correctedError n) := ofNone (encode_none rfl rfl rfl rfl)
theorem wordError (place addr : Nat) : Statement (.wordError place addr) := ofNone (encode_none rfl rfl rfl rfl)
theorem threadError (tid : Nat) : Statement (.threadError tid) := ofNone (encode_none rfl rfl rfl rfl)
theorem coreError (core : Nat) : Statement (.coreError core) := ofNone (encode_none rfl rfl rfl rfl)
theorem clusterError (cl : Nat) (lost : List Nat) : Statement (.clusterError cl lost) := ofNone (encode_none rfl rfl rfl rfl)
theorem dieError (die : Nat) : Statement (.dieError die) := ofNone (encode_none rfl rfl rfl rfl)
theorem heartbeat (core : Nat) : Statement (.heartbeat core) := ofNone (encode_none rfl rfl rfl rfl)
theorem heartbeatMissing (core : Nat) : Statement (.heartbeatMissing core) := ofNone (encode_none rfl rfl rfl rfl)
theorem coreRetirement (core : Nat) : Statement (.coreRetirement core) := ofNone (encode_none rfl rfl rfl rfl)
theorem dieReset (die : Nat) (planned : Bool) : Statement (.dieReset die planned) := ofNone (encode_none rfl rfl rfl rfl)
theorem pairIntervalClose (tid : Nat) : Statement (.pairIntervalClose tid) := ofNone (encode_none rfl rfl rfl rfl)
theorem pairCompare (tid : Nat) : Statement (.pairCompare tid) := ofNone (encode_none rfl rfl rfl rfl)
theorem replayStallTimeout (l : Nat) : Statement (.replayStallTimeout l) := ofNone (encode_none rfl rfl rfl rfl)
theorem lockstepMismatch (cp : Nat) : Statement (.lockstepMismatch cp) := ofNone (encode_none rfl rfl rfl rfl)
theorem firmwareRestart : Statement .firmwareRestart := ofNone (encode_none rfl rfl rfl rfl)
theorem kick (q : Nat) (v : BitVec 64) : Statement (.kick q v) := ofNone (encode_none rfl rfl rfl rfl)
theorem reserve (q : Nat) (n : BitVec 64) : Statement (.reserve q n) := ofNone (encode_none rfl rfl rfl rfl)
theorem qctlResume (q : Nat) : Statement (.qctlResume q) := ofNone (encode_none rfl rfl rfl rfl)
theorem qctlAbandon (q : Nat) (tag : BitVec 32) : Statement (.qctlAbandon q tag) := ofNone (encode_none rfl rfl rfl rfl)
theorem queueMap (q : Nat) : Statement (.queueMap q) := ofNone (encode_none rfl rfl rfl rfl)
theorem packetRead (q : Nat) : Statement (.packetRead q) := ofNone (encode_none rfl rfl rfl rfl)
theorem nopPacket (q : Nat) : Statement (.nopPacket q) := ofNone (encode_none rfl rfl rfl rfl)
theorem launchPacket (q : Nat) : Statement (.launchPacket q) := ofNone (encode_none rfl rfl rfl rfl)
theorem launchPlacement (l : Nat) : Statement (.launchPlacement l) := ofNone (encode_none rfl rfl rfl rfl)
theorem launchTimeout (l : Nat) : Statement (.launchTimeout l) := ofNone (encode_none rfl rfl rfl rfl)
theorem waitPacket (q : Nat) : Statement (.waitPacket q) := ofNone (encode_none rfl rfl rfl rfl)
theorem waitEnd (q : Nat) : Statement (.waitEnd q) := ofNone (encode_none rfl rfl rfl rfl)
theorem signalPacket (q : Nat) : Statement (.signalPacket q) := ofNone (encode_none rfl rfl rfl rfl)
theorem copyPacket (q : Nat) : Statement (.copyPacket q) := ofNone (encode_none rfl rfl rfl rfl)
theorem copyComplete (i : Nat) : Statement (.copyComplete i) := ofNone (encode_none rfl rfl rfl rfl)
theorem linkPacket (q : Nat) : Statement (.linkPacket q) := ofNone (encode_none rfl rfl rfl rfl)
theorem timedPacket (q : Nat) : Statement (.timedPacket q) := ofNone (encode_none rfl rfl rfl rfl)
theorem timedExpiry (q : Nat) : Statement (.timedExpiry q) := ofNone (encode_none rfl rfl rfl rfl)
theorem fencePacket (q : Nat) : Statement (.fencePacket q) := ofNone (encode_none rfl rfl rfl rfl)
theorem ctxCreate : Statement .ctxCreate := ofNone (encode_none rfl rfl rfl rfl)
theorem ctxEnd : Statement .ctxEnd := ofNone (encode_none rfl rfl rfl rfl)
theorem queueCreate : Statement .queueCreate := ofNone (encode_none rfl rfl rfl rfl)
theorem queueDestroy : Statement .queueDestroy := ofNone (encode_none rfl rfl rfl rfl)
theorem poolAdd : Statement .poolAdd := ofNone (encode_none rfl rfl rfl rfl)
theorem peerBind : Statement .peerBind := ofNone (encode_none rfl rfl rfl rfl)
theorem chipSet : Statement .chipSet := ofNone (encode_none rfl rfl rfl rfl)
theorem preempt : Statement .preempt := ofNone (encode_none rfl rfl rfl rfl)
theorem srseedWrite (tid : Nat) (v : BitVec 64) : Statement (.srseedWrite tid v) := ofNone (encode_none rfl rfl rfl rfl)
theorem frmWrite (tid : Nat) (v : BitVec 64) : Statement (.frmWrite tid v) := ofNone (encode_none rfl rfl rfl rfl)
theorem eselWrite (tid : Nat) (v : BitVec 64) : Statement (.eselWrite tid v) := ofNone (encode_none rfl rfl rfl rfl)
theorem evrdWrite (tid : Nat) (v : BitVec 64) : Statement (.evrdWrite tid v) := ofNone (encode_none rfl rfl rfl rfl)
theorem evfutWrite (tid : Nat) (v : BitVec 64) : Statement (.evfutWrite tid v) := ofNone (encode_none rfl rfl rfl rfl)
theorem trtWrite (tid : Nat) (v : BitVec 64) : Statement (.trtWrite tid v) := ofNone (encode_none rfl rfl rfl rfl)
theorem csrWrite (tid : Nat) (num : BitVec 12) (v : BitVec 64) : Statement (.csrWrite tid num v) := ofNone (encode_none rfl rfl rfl rfl)
theorem hostSnoop (line : Nat) : Statement (.hostSnoop line) := ofNone (encode_none rfl rfl rfl rfl)
theorem hostMemAccess (addr size : Nat) (wr : Bool) (v : BitVec 64) : Statement (.hostMemAccess addr size wr v) := ofNone (encode_none rfl rfl rfl rfl)
theorem hostResponse (i : Nat) : Statement (.hostResponse i) := ofNone (encode_none rfl rfl rfl rfl)
theorem hostLost : Statement .hostLost := ofNone (encode_none rfl rfl rfl rfl)
theorem linkRetrain : Statement .linkRetrain := ofNone (encode_none rfl rfl rfl rfl)
theorem peerData (chip session seq kind : Nat) (ws : List (BitVec 64)) : Statement (.peerData chip session seq kind ws) := ofNone (encode_none rfl rfl rfl rfl)
theorem peerAck (chip seq : Nat) : Statement (.peerAck chip seq) := ofNone (encode_none rfl rfl rfl rfl)
theorem sessionOpen (chip session : Nat) : Statement (.sessionOpen chip session) := ofNone (encode_none rfl rfl rfl rfl)
theorem sessionClose (chip : Nat) : Statement (.sessionClose chip) := ofNone (encode_none rfl rfl rfl rfl)
theorem peerResend (i : Nat) : Statement (.peerResend i) := ofNone (encode_none rfl rfl rfl rfl)
theorem sessionTimeout (chip : Nat) : Statement (.sessionTimeout chip) := ofNone (encode_none rfl rfl rfl rfl)
theorem powerLimitWrite (v : Nat) : Statement (.powerLimitWrite v) := ofNone (encode_none rfl rfl rfl rfl)
theorem shedThresholdWrite (v : Nat) : Statement (.shedThresholdWrite v) := ofNone (encode_none rfl rfl rfl rfl)
theorem powerLimitShed : Statement .powerLimitShed := ofNone (encode_none rfl rfl rfl rfl)
theorem overtempPowerOff (die temp : Nat) : Statement (.overtempPowerOff die temp) := ofNone (encode_none rfl rfl rfl rfl)
theorem telemetryUpdate (id v : Nat) : Statement (.telemetryUpdate id v) := ofNone (encode_none rfl rfl rfl rfl)
theorem getVersion : Statement .getVersion := ofNone (encode_none rfl rfl rfl rfl)
theorem getCapabilities : Statement .getCapabilities := ofNone (encode_none rfl rfl rfl rfl)
theorem negotiateAlgorithms : Statement .negotiateAlgorithms := ofNone (encode_none rfl rfl rfl rfl)
theorem getDigests : Statement .getDigests := ofNone (encode_none rfl rfl rfl rfl)
theorem getCertificate (slot : Nat) : Statement (.getCertificate slot) := ofNone (encode_none rfl rfl rfl rfl)
theorem challenge (nonce : Nat) : Statement (.challenge nonce) := ofNone (encode_none rfl rfl rfl rfl)
theorem getMeasurements (nonce : Nat) : Statement (.getMeasurements nonce) := ofNone (encode_none rfl rfl rfl rfl)
theorem requestUpdate (ver image : Nat) : Statement (.requestUpdate ver image) := ofNone (encode_none rfl rfl rfl rfl)
theorem verifyComplete : Statement .verifyComplete := ofNone (encode_none rfl rfl rfl rfl)
theorem applyComplete : Statement .applyComplete := ofNone (encode_none rfl rfl rfl rfl)
theorem activateFirmware : Statement .activateFirmware := ofNone (encode_none rfl rfl rfl rfl)
theorem packageReset : Statement .packageReset := ofNone (encode_none rfl rfl rfl rfl)
theorem powerLoss : Statement .powerLoss := ofNone (encode_none rfl rfl rfl rfl)
theorem coreCycle (core : Nat) : Statement (.coreCycle core) := ofNone (encode_none rfl rfl rfl rfl)
theorem routerCycle (router : Nat) : Statement (.routerCycle router) := ofNone (encode_none rfl rfl rfl rfl)
theorem storeFifoDrain (tid : Nat) : Statement (.storeFifoDrain tid) := ofNone (encode_none rfl rfl rfl rfl)
theorem portAccessArrival (i : Nat) : Statement (.portAccessArrival i) := ofNone (encode_none rfl rfl rfl rfl)
theorem portReply (i : Nat) : Statement (.portReply i) := ofNone (encode_none rfl rfl rfl rfl)
theorem portTraceCopy (core : Nat) : Statement (.portTraceCopy core) := ofNone (encode_none rfl rfl rfl rfl)
theorem pageFutureSettle (cl i : Nat) (code : BitVec 8) (word : BitVec 64) : Statement (.pageFutureSettle cl i code word) := ofNone (encode_none rfl rfl rfl rfl)
theorem ethernetPortChange (port st : Nat) : Statement (.ethernetPortChange port st) := ofNone (encode_none rfl rfl rfl rfl)
theorem powerOn : Statement .powerOn := ofNone (encode_none rfl rfl rfl rfl)
theorem dieResetComplete (die : Nat) : Statement (.dieResetComplete die) := ofNone (encode_none rfl rfl rfl rfl)

end Sys2Proof.Laws.Length
end

