-- ==== Sys2Proof/Tests/Slice0.lean ====
section
/-! SUPPORT. Tests: ill-formed terms, words written out from the opcode table's encodings, single steps whose results are the
worked examples of spec/ or hand calculations from its rules, and a state and operands for each statement's hypotheses. -/

namespace Sys2Proof.Tests

open Sys2Proof Sys2Proof.Machine

/-! ## Decoding (spec/02 R27-R46; words from the opcode table's opcode bits and fields) -/

/-- Each word, of its bits, decodes to its instruction. -/
abbrev decodesAll (l : List (Nat × Nat × Instr)) : Prop := ∀ e ∈ l, decodeTableWord e.1 e.2.1 = some e.2.2

theorem test_decode_1 : decodesAll [
  (32, 0x0C24C003, .add 3 6 9), (32, 0x0C25C003, .sub 3 6 9), (32, 0x0C26C003, .slt 3 6 9), (32, 0x0C27C003, .sltu 3 6 9),
  (32, 0x0C24C083, .and 3 6 9), (32, 0x0C25C083, .or 3 6 9), (32, 0x0C26C083, .xor 3 6 9), (32, 0x0C27C083, .sel 3 6 9),
  (32, 0x0C24C103, .sll 3 6 9), (32, 0x0C25C103, .srl 3 6 9), (32, 0x0C26C103, .sra 3 6 9), (32, 0x0C03C103, .clz 3 6),
  (32, 0x0C07C103, .ctz 3 6), (32, 0x0C0BC103, .popc 3 6), (32, 0x0C24C183, .mul 3 6 9), (32, 0x0C25C183, .mulh 3 6 9),
  (32, 0x0C26C183, .mulhu 3 6 9), (32, 0x0C24C203, .div 3 6 9), (32, 0x0C25C203, .divu 3 6 9), (32, 0x0C26C203, .rem 3 6 9),
  (32, 0x0C27C203, .remu 3 6 9), (32, 0x0C24C283, .min 3 6 9), (32, 0x0C25C283, .max 3 6 9), (32, 0x0C26C283, .minu 3 6 9),
  (32, 0x0C27C283, .maxu 3 6 9), (32, 0xBC01C303, .lih 3 0xbc01), (32, 0x0C09C383, .addi 3 6 9), (32, 0x0C24C403, .aadd 3 6 9),
  (32, 0x0C09C403, .pget 3 6 2)] := by decide

theorem test_decode_2 : decodesAll [
  (32, 0x0C26C403, .bfx 3 6 9), (32, 0x0C27C403, .bfi 3 6 9), (32, 0x0C09C483, .aaddi 3 6 9), (32, 0x0C4CC503, .pfmt 3 6 9 4),
  (32, 0x0C09C583, .slli 3 6 9), (32, 0x0C49C583, .srli 3 6 9), (32, 0x0C89C583, .srai 3 6 9), (32, 0x0CC9C583, .andi 3 6 9),
  (32, 0x0D09C583, .ori 3 6 9), (32, 0x0D49C583, .xori 3 6 9), (32, 0x0D89C583, .slti 3 6 9), (32, 0x0D30C603, .xadd 3 6 2 12),
  (32, 0x0D31C603, .xsub 3 6 2 12), (32, 0x0D32C603, .xmul 3 6 2 12), (32, 0x0D33C603, .xmax 3 6 2 12),
  (32, 0x0D30C683, .xmin 3 6 2 12), (32, 0x0C25C683, .xdotB 3 6 9), (32, 0x0CB0C703, .fadd 3 6 1 12),
  (32, 0x0CB1C703, .fsub 3 6 1 12), (32, 0x0CB2C703, .fmul 3 6 1 12), (32, 0x0CB3C703, .ffma 3 6 1 12),
  (32, 0x0CB0C783, .fdiv 3 6 1 12), (32, 0x0C81C783, .fsqrt 3 6 1), (32, 0x0CB2C783, .fmin 3 6 1 12),
  (32, 0x0CB3C783, .fmax 3 6 1 12), (32, 0x0CB0C803, .fcmpEq 3 6 1 12), (32, 0x0CB1C803, .fcmpLt 3 6 1 12),
  (32, 0x0CB2C803, .fcmpLe 3 6 1 12), (32, 0x0CB3C803, .fcmpUn 3 6 1 12)] := by decide

theorem test_decode_3 : decodesAll [
  (32, 0x0C80C883, .fclass 3 6 1), (32, 0x0D8DC883, .fcvt 3 6 6 1 1), (32, 0x0D8EC883, .fcvtRtz 3 6 6 1 1),
  (32, 0x0D8FC883, .fcvtSr 3 6 6 1 1), (32, 0x6009C903, .beq 3 6 9), (32, 0x6209C903, .bne 3 6 9),
  (32, 0x6409C903, .blt 3 6 9), (32, 0x6609C903, .bge 3 6 9), (32, 0x6809C903, .bltu 3 6 9), (32, 0x6A09C903, .bgeu 3 6 9),
  (32, 0x6C09C903, .jalr 3 6 9), (32, 0xBC01C983, .beqz 3 0xbc01), (32, 0xBC01CA03, .bnez 3 0xbc01),
  (32, 0xBC01CA83, .jal 3 0xbc01), (32, 0x0C09CB03, .ldb 3 6 9), (32, 0x0C49CB03, .ldbu 3 6 9), (32, 0x0C89CB03, .ldh 3 6 9),
  (32, 0x0CC9CB03, .ldhu 3 6 9), (32, 0x0D09CB03, .ldw 3 6 9), (32, 0x0D49CB03, .ldwu 3 6 9), (32, 0x0D89CB03, .ldd 3 6 9),
  (32, 0x0C09CB83, .stb 3 6 9), (32, 0x0C89CB83, .sth 3 6 9), (32, 0x0D09CB83, .stw 3 6 9), (32, 0x0D89CB83, .std 3 6 9),
  (32, 0x0C24CC03, .ldt 3 6 9), (32, 0x0C25CC03, .stt 3 6 9), (32, 0x0C16CC03, .lda 3 6 5), (32, 0x0C17CC03, .strel 3 6 5)] := by decide

theorem test_decode_4 : decodesAll [
  (32, 0x0014CC80, .fence 5), (32, 0x0001CC80, .ifence), (32, 0x0616CC80, .pref 3 2 1), (32, 0x0C07CC83, .spamo 3 6 1),
  (32, 0x0C24CD03, .stash 3 6 9), (32, 0x0C01CD03, .unstash 3 6), (32, 0x061ACD00, .wbk 3 6), (32, 0x061BCD00, .disc 3 6),
  (32, 0x0C24CD83, .ubresv 3 6 9), (32, 0x0C25CD83, .ubmigr 3 6 9), (32, 0x0C02CD83, .ldlk 3 6), (32, 0x0C03CD83, .stul 3 6),
  (32, 0x0D25CE03, .amo 3 6 9 0 5), (32, 0x0D25CE83, .amof 3 6 9 0 5), (32, 0x0C00CF03, .get 3 6), (32, 0x0C01CF03, .put 3 6),
  (32, 0x0C02CF03, .xcpy 3 6), (32, 0x0C03CF03, .xcpy2 3 6), (32, 0x0C24CF83, .swinit 3 6 9), (32, 0x0C25CF83, .swfut 3 6 9),
  (32, 0xBC01D103, .spawn 3 0xbc01), (32, 0xBC01D183, .spawnT 3 0xbc01), (32, 0x0C24D203, .spawnr 3 6 9),
  (32, 0x0C01D203, .touch 3 6), (32, 0x0C02D203, .touchT 3 6), (32, 0x0C03D203, .touchp 3 6), (32, 0x0C20D283, .wany 3 6 8),
  (32, 0x0C01D283, .fnew 3 6), (32, 0x0C26D283, .resolve 3 6 9)] := by decide

theorem test_decode_5 : decodesAll [
  (32, 0x0C27D283, .fpois 3 6 9), (32, 0x0C00D303, .cancel 3 6), (32, 0x0601D300, .frel 3), (32, 0x0C02D303, .fstat 3 6),
  (32, 0x0003D300, .yield), (32, 0x0600D380, .tend 3), (32, 0x0001D383, .wid 3), (32, 0x0016D383, .wfld 3 5),
  (32, 0x0C24D403, .bari 3 6 9), (32, 0x0C25D403, .bara 3 6 9), (32, 0x0C26D403, .barad 3 6 9), (32, 0x0C27D403, .barw 3 6 9),
  (32, 0x0618D480, .msend 3 6), (32, 0x0001D480, .mdone), (32, 0x0C00D503, .waitt 3 6), (32, 0x0601D500, .atset 3),
  (32, 0x0C26D503, .stream 3 6 9), (32, 0x0C00D583, .vclaim 3 6), (32, 0x0001D580, .vrel), (32, 0x0C00D603, .vsetvl 3 6),
  (32, 0x0C01D643, .vld 3 6 1 0), (32, 0x0C02D643, .vst 3 6 1 0), (32, 0x0C27D633, .vlds 3 6 9 0 3),
  (32, 0x0C24D6B3, .vgath 3 6 9 0 3), (32, 0x0C25D6B3, .vscat 3 6 9 0 3), (32, 0x0C02D6C3, .vbcast 3 6 1 0),
  (32, 0x3233D683, .vext 3 1 9 12), (32, 0x337CD713, .vadd 3 1 9 5 15 0 1), (32, 0x337DD713, .vsub 3 1 9 5 15 0 1)] := by decide

theorem test_decode_6 : decodesAll [
  (32, 0x337ED713, .vmul 3 1 9 5 15 0 1), (32, 0x337FD713, .vfma 3 1 9 5 15 0 1), (32, 0x3230D7E3, .vmin 3 1 9 12 1 2),
  (32, 0x3231D7E3, .vmax 3 1 9 12 1 2), (32, 0x337ED793, .vdiv 3 1 9 5 15 0 1), (32, 0x5343D7E3, .vsqrt 3 2 9 5 1 2),
  (32, 0x5347D7E3, .vrsqrt 3 2 9 5 1 2), (32, 0x534BD7E3, .vrcp 3 2 9 5 1 2), (32, 0x534FD7E3, .vexp2 3 2 9 5 1 2),
  (32, 0x5353D7E3, .vlog2 3 2 9 5 1 2), (32, 0x5357D7E3, .vsin 3 2 9 5 1 2), (32, 0x535BD7E3, .vtanh 3 2 9 5 1 2),
  (32, 0x3230D863, .vand 3 1 9 12 1 2), (32, 0x3231D863, .vor 3 1 9 12 1 2), (32, 0x3232D863, .vxor 3 1 9 12 1 2),
  (32, 0x927FD813, .vshl 3 4 9 1 15 0 1), (32, 0x927CD893, .vshr 3 4 9 1 15 0 1), (32, 0x33BDD893, .vcmp 3 1 9 6 15 0 1),
  (32, 0x3232D8F3, .vsel 3 1 9 12 3), (32, 0xB233D8C3, .vcvt 3 5 9 0 1 4 1 0), (32, 0x3210D913, .vred 3 1 9 0 4 0 1),
  (32, 0x3211D913, .vscan 3 1 9 0 4 0 1), (32, 0x3232D963, .vperm 3 1 9 12 1 2), (32, 0x5368D993, .vquant 3 2 9 5 10 0 1),
  (32, 0x5369D993, .vdeq 3 2 9 5 10 0 1), (32, 0x0C24DA03, .mxcfg 3 6 9), (32, 0x0C01DA03, .trel 3 6),
  (32, 0x0C12DA03, .mxstat 3 6 4), (32, 0x0C00DA83, .mxsub 3 6)] := by decide

theorem test_decode_7 : decodesAll [
  (32, 0x0C25DA83, .mxsubc 3 6 9), (32, 0x0C24DB03, .tldt 3 6 9), (32, 0x0C25DB03, .tswap 3 6 9), (32, 0x0006DC03, .csrr 3 6),
  (32, 0x1006DC03, .csrw 3 6), (32, 0x2006DC03, .csrs 3 6), (32, 0x3006DC03, .csrc 3 6), (32, 0x000CDC80, .trap 3),
  (32, 0x0001DC80, .eret), (32, 0x000EDC80, .brk 3), (32, 0x0003DC80, .nop), (32, 0x0C24DD03, .tlbw 3 6 9),
  (32, 0x0C25DD03, .tlbinv 3 6 9), (32, 0x0C26DD03, .slotw 3 6 9), (32, 0x0C27DD03, .mapcl 3 6 9),
  (32, 0x0C24DD83, .capmk 3 6 9), (32, 0x0000DE03, .pair 3), (32, 0x0001DE03, .unpair 3), (32, 0x0002DE03, .ckpt 3),
  (32, 0x0C27DE03, .pchk 3 6 9), (16, 0x0066, .movCompact 3 6), (16, 0x0466, .addCompact 3 6), (16, 0x0866, .subCompact 3 6),
  (16, 0x0C66, .andCompact 3 6), (16, 0x1066, .orCompact 3 6), (16, 0x1466, .xorCompact 3 6), (16, 0x1866, .sllCompact 3 6),
  (16, 0x1C66, .srlCompact 3 6), (16, 0x2066, .sraCompact 3 6)] := by decide

theorem test_decode_8 : decodesAll [
  (16, 0x2466, .mulCompact 3 6), (16, 0x2866, .aaddCompact 3 6), (16, 0x2C66, .sltCompact 3 6), (16, 0x3066, .lddCompact 3 6),
  (16, 0x3466, .stdCompact 3 6), (16, 0x3866, .ldwCompact 3 6), (16, 0x3C66, .jalrCompact 3 6), (16, 0x4066, .liCompact 3 6),
  (16, 0x4466, .addiCompact 3 6), (16, 0x4866, .aaddiCompact 3 6), (16, 0x4C66, .slliCompact 3 6),
  (16, 0x5066, .srliCompact 3 6), (16, 0x5466, .sraiCompact 3 6), (16, 0x5866, .andiCompact 3 6),
  (16, 0x5C66, .oriCompact 3 6), (16, 0x6066, .xoriCompact 3 6), (16, 0x6466, .sltiCompact 3 6),
  (16, 0x6866, .lddG2Compact 3 6), (16, 0x6C66, .stdG2Compact 3 6), (16, 0x7066, .ldwG2Compact 3 6),
  (16, 0x7466, .stwG2Compact 3 6), (16, 0x7866, .beqzCompact 3 6), (16, 0x7C66, .bnezCompact 3 6),
  (16, 0x8066, .touchCompact 3 6), (16, 0x8466, .touchTCompact 3 6), (16, 0x8866, .touchpCompact 3 6),
  (16, 0x8C66, .fstatCompact 3 6), (16, 0x9003, .frelCompact 3), (16, 0x9403, .tendCompact 3)] := by decide

theorem test_decode_9 : decodesAll [
  (16, 0x9800, .yieldCompact), (16, 0x9C60, .widCompact 3), (16, 0xA060, .movFromEpCompact 3), (16, 0xA403, .movToEpCompact 3),
  (16, 0xA860, .movFromMpCompact 3), (16, 0xAC03, .movToMpCompact 3), (16, 0xB066, .faddSCompact 3 6),
  (16, 0xB466, .fmulSCompact 3 6), (16, 0xB800, .nopCompact), (16, 0xBC03, .brkCompact 3),
  (64, 0x9ABCDEF10000E003, .li64 3 0x9abcdef1), (64, 0x9ABCDEF10001E003, .li64U 3 0x9abcdef1),
  (64, 0x9ABCDEF10002E003, .li64Hi 3 0x9abcdef1), (64, 0x9ABCDEF20C00E083, .addiLong 3 6 0x9abcdef2),
  (64, 0x9ABCDEF20C01E083, .andiLong 3 6 0x9abcdef2), (64, 0x9ABCDEF20C02E083, .oriLong 3 6 0x9abcdef2),
  (64, 0x9ABCDEF20C03E083, .xoriLong 3 6 0x9abcdef2), (64, 0x9ABCDEF20C00E103, .aaddiLong 3 6 0x9abcdef2),
  (64, 0x9ABCDEF20C01E103, .sltiLong 3 6 0x9abcdef2), (64, 0x9ABCDEF20C00E183, .ldbLong 3 6 0x9abcdef2),
  (64, 0x9ABCDEF20C04E183, .ldbuLong 3 6 0x9abcdef2), (64, 0x9ABCDEF20C08E183, .ldhLong 3 6 0x9abcdef2),
  (64, 0x9ABCDEF20C0CE183, .ldhuLong 3 6 0x9abcdef2), (64, 0x9ABCDEF20C10E183, .ldwLong 3 6 0x9abcdef2),
  (64, 0x9ABCDEF20C14E183, .ldwuLong 3 6 0x9abcdef2), (64, 0x9ABCDEF20C18E183, .lddLong 3 6 0x9abcdef2),
  (64, 0x9ABCDEF20C01E183, .stbLong 3 6 0x9abcdef2), (64, 0x9ABCDEF20C05E183, .sthLong 3 6 0x9abcdef2),
  (64, 0x9ABCDEF20C09E183, .stwLong 3 6 0x9abcdef2)] := by decide

theorem test_decode_10 : decodesAll [
  (64, 0x9ABCDEF20C0DE183, .stdLong 3 6 0x9abcdef2), (64, 0x9ABCDEF30616E180, .prefLong 3 2 1 0x9abcdef3),
  (64, 0x9ABCDEF10000E203, .jalLong 3 0x9abcdef1), (64, 0x9ABCDEF20C01E203, .jalrLong 3 6 0x9abcdef2),
  (64, 0x9ABCDEF10602E200, .beqzLong 3 0x9abcdef1), (64, 0x9ABCDEF10603E200, .bnezLong 3 0x9abcdef1),
  (64, 0x9ABCDEF20618E280, .beqLong 3 6 0x9abcdef2), (64, 0x9ABCDEF20619E280, .bneLong 3 6 0x9abcdef2),
  (64, 0x9ABCDEF2061AE280, .bltLong 3 6 0x9abcdef2), (64, 0x9ABCDEF2061BE280, .bgeLong 3 6 0x9abcdef2),
  (64, 0x9ABCDEF20618E300, .bltuLong 3 6 0x9abcdef2), (64, 0x9ABCDEF20619E300, .bgeuLong 3 6 0x9abcdef2),
  (64, 0x0000078C0C24E403, .mxsubLong 3 6 9 12 15), (64, 0x0004878C0C25E403, .mxsubcLong 3 6 9 12 15 18),
  (64, 0x2F0080000018E483, .mxcfgLong 3 6 0xbc02), (64, 0xBC0480000C25E483, .tldtLong 3 6 9 2 0xbc04),
  (64, 0x0000078C0C24E503, .getLong 3 6 9 12 15), (64, 0x0000078C0C25E503, .putLong 3 6 9 12 15),
  (64, 0x0000078C0C26E503, .xcpyLong 3 6 9 12 15), (64, 0x0000078C0C27E503, .xcpy2Long 3 6 9 12 15),
  (64, 0x000D000C0C24E803, .spawnLong 3 6 9 12 4 6), (64, 0x000D000C0C25E803, .spawnTLong 3 6 9 12 4 6),
  (64, 0x000D078C0C24E883, .spawnrLong 3 6 9 12 15 4 6), (64, 0x000D078C0C25E883, .spawnrTLong 3 6 9 12 15 4 6),
  (64, 0x9ABCDEF40C00EC43, .vldLong 3 6 1 0 0x9abcdef4), (64, 0x9ABCDEF40C01EC43, .vstLong 3 6 1 0 0x9abcdef4),
  (64, 0x9ABCDEF30000EC93, .vbcastLong 3 0 1 0x9abcdef3), (64, 0x00000008337CED13, .vfmaLong 3 1 9 5 15 0 1 8)] := by decide

/-! ## Well-formedness (spec/02 R31-R37, R45-R48): a term that fails each check, refused -/

/-- No encoding names any of these. -/
abbrev refusesAll (l : List Instr) : Prop := ∀ i ∈ l, i.wf = false

theorem test_wf_refuses_scalar : refusesAll [.pget 1 2 3, .xadd 1 2 3 4, .xsub 1 2 3 4, .xmul 1 2 3 4, .xmax 1 2 3 4,
  .xmin 1 2 3 4, .fadd 1 2 2 4, .fsub 1 2 3 4, .fmul 1 2 2 4, .ffma 1 2 2 4, .fdiv 1 2 2 4, .fmin 1 2 2 4, .fmax 1 2 2 4,
  .fcmpEq 1 2 2 4, .fcmpLt 1 2 3 4, .fcmpLe 1 2 2 4, .fcmpUn 1 2 2 4, .fsqrt 1 2 2, .fclass 1 2 2, .fcvt 1 2 6 7 0,
  .fcvtRtz 1 2 1 2 1, .fcvtSr 1 2 7 6 1, .movCompact 0 0] := by decide

theorem test_wf_refuses_memory : refusesAll [.lda 1 2 6, .strel 1 2 7, .fence 6, .pref 1 3 0, .prefLong 1 3 0 0,
  .amo 1 2 10 0 0, .amo 1 2 0 0 6, .amof 1 2 15 0 0, .amof 1 2 0 0 7, .wany 1 2 0, .wany 1 2 9, .wfld 1 6, .mxstat 1 2 5,
  .tldtLong 1 2 3 3 0, .spawnLong 1 2 3 0 5 1, .spawnTLong 1 2 3 0 0 7, .spawnrLong 1 2 3 0 0 6 0, .spawnrTLong 1 2 3 0 0 0 7,
  .spawnLong 1 2 3 4 0 0, .spawnTLong 1 2 3 4 0 0, .spawnrLong 1 2 3 4 5 0 0, .spawnrTLong 1 2 3 4 5 0 0] := by decide

theorem test_wf_refuses_vector : refusesAll [.vext 1 6 2 3, .vadd 1 7 2 0 3 0 0, .vadd 1 3 2 2 3 0 0, .vsub 1 0 2 6 3 0 0,
  .vmul 1 4 2 5 3 0 0, .vfma 1 2 2 7 3 0 0, .vdiv 1 6 2 0 3 0 0, .vmin 1 6 2 3 0 0, .vmax 1 7 2 3 0 0, .vand 1 6 2 3 0 0,
  .vor 1 6 2 3 0 0, .vxor 1 7 2 3 0 0, .vperm 1 6 2 3 0 0, .vsel 1 6 2 3 0, .vshl 1 2 2 0 3 0 0, .vshr 1 3 2 2 3 0 0,
  .vsqrt 1 3 2 0 0 0, .vrsqrt 1 5 2 0 0 0, .vrcp 1 2 2 6 0 0, .vexp2 1 3 2 0 0 0, .vlog2 1 4 2 0 0 0, .vsin 1 5 2 0 0 0,
  .vtanh 1 3 2 0 0 0, .vcmp 1 3 2 6 3 0 0, .vcmp 1 0 2 7 3 0 0, .vcvt 1 6 2 0 0 1 0 0, .vcvt 1 1 2 0 0 7 0 0,
  .vcvt 1 1 2 6 0 2 0 0, .vcvt 1 1 2 0 1 2 0 0, .vcvt 1 3 2 1 0 4 0 0, .vred 1 0 2 0 6 0 0, .vscan 1 3 2 2 0 0 0,
  .vred 1 0 2 1 1 0 0, .vquant 1 3 2 0 0 0 0, .vquant 1 0 2 0 11 0 0, .vdeq 1 0 2 6 0 0 0, .vfmaLong 1 3 2 2 3 0 0 4] := by
  decide

/-- What the decoder answers for words that name no instruction (R47): a compact parcel of zeros, a permanently illegal major, a
selector past the table, a type code past 5, and fields that must be zero and are not. -/
theorem test_decode_refuses :
    decodeWord 0 = .error .illOp ∧ decodeWord 0x0000DF00 = .error .illOp ∧ decodeWord 0x000DC400 = .error .illOp ∧
    decodeWord 0xC000D700 = .error .illOp ∧ decodeWord 0x0005DC80 = .error .illRsv ∧ decodeWord 0x123456780003E001 = .error .illOp ∧
    decodeWord 0x123456780004E001 = .error .illRsv ∧ decodeWord 0x3C10 = .error .illOp ∧ decodeWord 0xB820 = .error .illRsv := by
  decide
/-! ## Single steps (each expected value from the place of spec/ its comment names) -/

/-- A thread with the turn, whose registers are given. -/
def one (r : Regs) : State :=
  { turn := some { tid := 0, len := 4 }, tasks := [(0, { phase := .running, slot := some 0, cls := 3, r := r })] }

/-- What an instruction, given by its table word, leaves in a general register and in FFLAGS. -/
noncomputable def after1 (nbits w : Nat) (r : Regs) (n : Nat) : Option (Word × BitVec 6) :=
  match decodeTableWord nbits w with
  | none => none
  | some i => match exec i (one r) with
    | .next t => some (t.g 0 n, (t.task 0).r.fflags)
    | _ => none

/-- The same for an instruction term. -/
def ran (i : Instr) (r : Regs) (n : Nat) : Option (Word × BitVec 6) :=
  match exec i (one r) with
  | .next t => some (t.g 0 n, (t.task 0).r.fflags)
  | _ => none

/-- spec/05, the table of R97. -/
theorem test_div : ran (.div 5 6 7) { g := [(6, 7), (7, 0xFFFFFFFFFFFFFFFE)] } 5 = some (0xFFFFFFFFFFFFFFFD, 0) ∧
    ran (.div 5 6 7) { g := [(6, 0x8000000000000000), (7, 0xFFFFFFFFFFFFFFFF)] } 5 = some (0x8000000000000000, 0) ∧
    ran (.div 5 6 7) { g := [(6, 7)] } 5 = some (0xFFFFFFFFFFFFFFFF, 32) := by decide +kernel

theorem test_rem : ran (.rem 5 6 7) { g := [(6, 0xFFFFFFFFFFFFFFF9), (7, 2)] } 5 = some (0xFFFFFFFFFFFFFFFF, 0) ∧
    ran (.rem 5 6 7) { g := [(6, 0x8000000000000000), (7, 0xFFFFFFFFFFFFFFFF)] } 5 = some (0, 0) ∧
    ran (.rem 5 6 7) { g := [(6, 7)] } 5 = some (7, 32) := by decide +kernel

theorem test_divu : ran (.divu 5 6 7) { g := [(6, 0xFFFFFFFFFFFFFFF9), (7, 2)] } 5 = some (0x7FFFFFFFFFFFFFFC, 0) := by
  decide +kernel

/-- spec/05, the 128-bit addition. -/
theorem test_add_wide : after1 32 0x0614C007 { g := [(3, 0xFFFFFFFFFFFFFFFF), (5, 2)] } 7 = some (1, 0) ∧
    after1 32 0x0E0FC008 { g := [(3, 0xFFFFFFFFFFFFFFFF), (7, 1)] } 8 = some (1, 0) ∧
    after1 16 0x0528 { g := [(8, 1), (9, 4)] } 9 = some (5, 0) := by decide +kernel

/-- spec/05, the BF16 pointer that wraps into the window. -/
theorem test_fat_pointer : after1 32 0x0A33C504 { g := [(5, 0x000EFFFFFFFFFFF0)] } 4 = some (0x198EFFFFFFFFFFF0, 0) ∧
    after1 32 0x0820C484 { g := [(4, 0x198EFFFFFFFFFFF0)] } 4 = some (0x198F000000000010, 0) ∧
    after1 32 0x0805C406 { g := [(4, 0x198F000000000010)] } 6 = some (3, 0) := by decide +kernel

/-- spec/05, the example of XDOT.b. -/
theorem test_xdot : after1 32 0x2A59C694 { g := [(20, 0xFFFFFFFF00000064), (21, 0x0500807F0403FE01), (22, 0xFF07807F0AFF0302)] } 20 =
    some (0x00007EFB00000085, 0) := by decide +kernel

/-- spec/04, two stochastic conversions of FP32 to BF16. -/
theorem test_fcvt_sr : ran (.fcvtSr 5 6 3 1 0) { g := [(6, 0x3F804000)], srseed := 1 } 5 = some (0x3F81, 1) ∧
    ran (.fcvtSr 5 6 3 1 0) { g := [(6, 0x3F800100)], srseed := 0x00042021 } 5 = some (0x3F80, 1) := by decide +kernel

/-- spec/05, the worked conversions of FCVT. -/
theorem test_fcvt : after1 32 0x0EC9C886 { g := [(7, 0x3F808000)] } 6 = some (0x3F80, 1) ∧
    after1 32 0x0F86C886 { g := [(7, 0xC00C000000000000)] } 6 = some (0xFFFFFFFFFFFFFFFD, 1) ∧
    after1 32 0x0FC9C886 { g := [(7, 0xBF19999A)] } 6 = some (0, 16) ∧
    after1 32 0x0E49C886 { g := [(7, 0xBFC00000)], frm := 3 } 6 = some (0xC0000000, 1) := by decide +kernel

/-- spec/05, the forms of one loop edge: where the taken branches go. -/
theorem test_loop_edge : (decodeTableWord 32 0x6384C905 = some (.bne 5 6 0x184)) ∧
    (decodeTableWord 64 0xFFFFFF840AA1E280 = some (.bneLong 5 40 0xFFFFFF84)) := by decide +kernel

/-- spec/05 R114: a taken branch adds twice its offset to the address of its first parcel (offset 6). -/
theorem test_branch : ((one { pc := 0x1000 }) |> exec (.bge 20 6 6) |> fun
    | .next t => some (t.task 0).r.pc
    | _ => none) = some 0x100C := by decide +kernel

/-- spec/02 R49: a fault halts the thread with its registers unchanged. -/
theorem test_fault : (match exec (.illegalEncoding ILL_OP 0) (one { pc := 0x1000, g := [(5, 9)] }) with
    | .next t => some ((t.task 0).halt.map (·.code), (t.task 0).r.pc, t.g 0 5)
    | _ => none) = some (some ILL_OP, 0x1000, 9) := by decide +kernel

/-! ## A state and operands that meet each statement's hypotheses -/

theorem issuing_of {s : State} {tid : Nat}
    (h : ((s.turn.map (·.tid)) == some tid && (s.task tid).pair.isNone && !(s.task tid).shadow) = true) : Issuing s tid := by
  simpa [Issuing, and_assoc] using h

theorem names_of {s : State} {tid : Nat} {ns : List Nat}
    (h : ns.all (fun n => n == 125 || (decide (n < 120) && (decide (n ≤ (s.task tid).limit) && !pending s tid n))) = true) :
    Names s tid ns := by
  intro n hn
  have := List.all_eq_true.mp h n hn
  simp only [Bool.or_eq_true, beq_iff_eq, Bool.and_eq_true, decide_eq_true_eq, Bool.not_eq_true'] at this
  exact this.symm

theorem unrecorded_of {s : State} {tid : Nat}
    (h : (match (s.task tid).launch with | none => true | some l => recMode s (some l) == 0) = true) : Unrecorded s tid := by
  unfold Unrecorded; split <;> simp_all

/-! Several parts of a conjunction at once. -/

theorem and3 {A B C R : Prop} (h : A ∧ B ∧ C) (k : R) : A ∧ B ∧ C ∧ R := ⟨h.1, h.2.1, h.2.2, k⟩

theorem and4 {A B C D R : Prop} (h : A ∧ B ∧ C ∧ D) (k : R) : A ∧ B ∧ C ∧ D ∧ R := ⟨h.1, and3 h.2 k⟩

theorem and5 {A B C D E R : Prop} (h : A ∧ B ∧ C ∧ D ∧ E) (k : R) : A ∧ B ∧ C ∧ D ∧ E ∧ R := ⟨h.1, and4 h.2 k⟩

/-- Whether an operation completes. -/
def isOk {A : Type} : M A → Bool
  | .ok _ => true
  | .error _ => false

/-- What it completes with. -/
def got {A : Type} : (x : M A) → isOk x = true → A
  | .ok a, _ => a

theorem ok_one {A : Type} {x : M A} (h : isOk x = true) : x = .ok (got x h) := by
  cases x with
  | ok a => rfl
  | error e => cases h

theorem ok_pair {A B : Type} {x : M (A × B)} (h : isOk x = true) : x = .ok ((got x h).1, (got x h).2) := ok_one h

/-- What an engine goes on with. -/
def engOut {A : Type} (x : Eng A) : Option (A × State) :=
  match x with
  | .ok a s => some (a, s)
  | _ => none

theorem eng_ok {A : Type} {x : Eng A} (h : (engOut x).isSome = true) :
    x = .ok ((engOut x).get h).1 ((engOut x).get h).2 := by
  revert h
  rcases x with ⟨a, s⟩ | ⟨s, w⟩ | d
  · exact fun h => rfl
  · exact fun h => nomatch h
  · exact fun h => nomatch h

/-- Whether it fails with a code. -/
def engFails {A : Type} (x : Eng A) : Option Code :=
  match x with
  | .bad d => some d
  | _ => none

theorem eng_bad {A : Type} {x : Eng A} {c : Code} (h : engFails x = some c) : x = .bad c := by
  revert h
  rcases x with ⟨a, s⟩ | ⟨s, w⟩ | d
  · exact fun h => nomatch h
  · exact fun h => nomatch h
  · exact fun h => congrArg Eng.bad (Option.some.inj h)

/-- What an allocation gives. -/
def allocOut (x : Alloc) : Option (Word × State) :=
  match x with
  | .got h s => some (h, s)
  | _ => none

theorem alloc_got {x : Alloc} (h : (allocOut x).isSome = true) : x = .got ((allocOut x).get h).1 ((allocOut x).get h).2 := by
  revert h
  rcases x with ⟨a, s⟩ | _ | _
  · exact fun h => rfl
  · exact fun h => nomatch h
  · exact fun h => nomatch h


/-- A running task of class 3 (64 registers) in slot 0 of core 0, context 0. -/
def tk : Task := { phase := .running, slot := some 0, cls := 3, r := { pc := 0x1000, g := [(2, 0x10040), (3, 7), (4, 0xFFFFFFFFFFFFFFF0), (5, 0x0010000000000123), (6, 0x4048F5C34059999A), (7, 0x7FF4000000000001), (8, 0x8000000000000000), (9, 0xFFFFFFFFFFFFFFFF), (10, 0x10000), (11, 0x10003), (12, 0xFFE0000000080), (13, 0xFFE0000000084)] } }
/-- A leaf of 64 KiB for virtual page 1 of ASID 1: page 2 of region 0, with every permission. -/
def leaf : Tlb := { tag := 0x0001000000001000, word := 0x9C00000000000002 }
def ctx0 : Ctx := { asid := 1, fpool := [(0x4000000, 0x1000000)] }
def part0 : Part := { ctx := 0, units := [4, 5], launches := [] }
def core0 : Core := { table := [(0, 0xA000), (8, 0xA001), (16, 0xA002)], tlb := [leaf], parts := [part0], slots := [(0, 0)], ua := [(4 * 16384 + 128, 0x11), (4 * 16384 + 129, 0x22)] }
def cl0 : Cluster := { tlb := [leaf] }
def mk (t : Task) : State :=
  { turn := some { tid := 0, insn := 0x1234, len := 4 }, tasks := [(0, t)], cores := [(0, core0)], clusters := [(0, cl0)],
    ctxs := [(0, ctx0)], nextId := 5,
    mem := [(0x20000, 0x81), (0x20001, 0x92), (0x20002, 0xA3), (0x20007, 0xF4), (0x20040, 0x55)],
    coh := { lines := [(0x20000 / 128, { held := [(0, { plain := 32, owner := true, data := true })] })] } }
def st : State := mk tk
def fw (s : State) : State := { s with ctxs := [(0, { ctx0 with priv := true })] }
def rg (n : Nat) (v : Word) (t : Task) : Task := { t with r := t.r.put n v }
def isW (x : State) : Prop := x = x
def rgs (l : List (Nat × Word)) (t : Task) : Task := l.foldl (fun t e => rg e.1 e.2 t) t
/-- words in memory at 0x20080, i.e. virtual 0x10080, all tokens of its line at die 0 -/
def withDesc (s : State) (ws : List Word) : State :=
  { s with mem := s.mem ++ (((ws.map fun w => toBytes 8 w.toNat).flatten.zipIdx.map fun e => (0x20080 + e.2, e.1)).filter fun e => e.2 ≠ 0)
           coh := { s.coh with lines := s.coh.lines ++ [(0x20080 / 128, { held := [(0, { plain := 32, owner := true, data := true })] })] } }

set_option maxRecDepth 100000

set_option Elab.async false

noncomputable section

/-! ### Full tables -/

theorem mfind_range' {A : Type} (f : Nat → A) (n a k : Nat) (h : a ≤ k ∧ k < a + n) :
    mfind ((List.range' a n).map fun i => (i, f i)) k = some (f k) := by
  induction n generalizing a with
  | zero => omega
  | succ n ih =>
    simp only [List.range'_succ, List.map_cons, mfind]
    by_cases e : k = a
    · simp [e]
    · rw [if_neg e, if_neg (by omega), ih (a + 1) (by omega)]

/-- A table with an entry at each of the first `n` places. -/
theorem mfind_table {A : Type} (f : Nat → A) {n k : Nat} (h : k < n) :
    (mfind ((List.range n).map fun i => (i, f i)) k).isSome = true := by
  rw [List.range_eq_range', mfind_range' f n 0 k (by omega)]; rfl

/-- 4,096 future entries. -/
def fullFuts : FMap Fut :=
  (List.range 4096).map fun i => (i, { idx := i, gen := 0, prod := .empty, ctx := 0, launch := none })

theorem no_free (c : Cluster) (h : c.futs = fullFuts) (n i : Nat) : freeIdxFrom c i n = none := by
  induction n generalizing i with
  | zero => rfl
  | succ n ih =>
    have : idxFree c (i % 4096) = false := by
      have := mfind_table (fun i => ({ idx := i, gen := 0, prod := .empty, ctx := 0, launch := none } : Fut))
        (Nat.mod_lt i (show 0 < 4096 by decide))
      rw [← fullFuts, ← h] at this
      simp [idxFree, Option.isSome_iff_ne_none.mp this]
    simp [freeIdxFrom, this, ih]

/-- With every entry taken and no spill pool, an allocation finds none. -/
theorem full_alloc {s : State} {cl ctx : Nat} {l : Option Nat} {p : Prod} {o : Bool} {n : Nat}
    (h : (s.cluster cl).futs = fullFuts) (hc : s.ctxs = [(0, ctx0)]) :
    allocFut { s with nextId := n } cl ctx l p o = .full := by
  have h0 : ∀ x, (s.ctx x).spill = [] := by
    intro x; rw [State.ctx, hc]; simp only [mfind]; repeat' split
    all_goals rfl
  have h1 : ∀ t : State, t.ctxs = s.ctxs → t.clusters = s.clusters → spillChoice t cl = none := by
    intro t h1 h2
    have : ∀ x, spillRoom t x = false := by
      intro x
      have : (t.ctx x).spill = [] := by rw [← h0 x, State.ctx, State.ctx, h1]
      simp only [spillRoom, this, poolSize, List.map_nil, List.sum_nil]
      exact decide_eq_false (by omega)
    simp [spillChoice, this, leastBy]
  have h2 : ∀ t : State, t.clusters = s.clusters → (t.cluster cl).futs = fullFuts := by
    intro t ht
    rw [← h, State.cluster, State.cluster, ht]
    generalize mfind s.clusters cl = o
    cases o <;> rfl
  unfold allocFut State.free
  simp only [no_free _ (h2 { s with nextId := n } rfl),
    h1 { s with nextId := n, freeIdx := s.freeIdx + 1 } rfl rfl, Option.isSome_none]
  rfl

/-- A state whose cluster 0 has every future entry taken. -/
def full (s : State) : State := { s with clusters := [(0, { s.cluster 0 with futs := fullFuts })] }

/-! ### Capabilities -/

/-- A capability with the MAC of its low 40 bits passes, whatever the secret is. -/
theorem cap_ok {s : State} {b : Nat} (h : b < 2^40) {c : Word} (hc : c = w64 (capMac s (w64 b) * 2^40 + b)) :
    c.toNat % 2^40 = b ∧ bits c 63 40 = capMac s c := by
  have hm : capMac s (w64 b) < 2^24 := Nat.mod_lt _ (by decide)
  have hb : (w64 b).toNat = b := by simp [w64]; omega
  have ht : c.toNat = capMac s (w64 b) * 2^40 + b := by
    rw [hc]; exact (BitVec.toNat_ofNat ..).trans (Nat.mod_eq_of_lt (by omega))
  have he : c &&& 0x000000FFFFFFFFFF = w64 b &&& 0x000000FFFFFFFFFF := by
    apply BitVec.eq_of_toNat_eq
    have : (0x000000FFFFFFFFFF : Word).toNat = 2^40 - 1 := rfl
    rw [BitVec.toNat_and, BitVec.toNat_and, this, Nat.and_two_pow_sub_one_eq_mod, Nat.and_two_pow_sub_one_eq_mod, ht, hb]
    omega
  have hk : capMac s c = capMac s (w64 b) := by unfold capMac; rw [he]
  refine ⟨by rw [ht]; omega, ?_⟩
  rw [hk, bits, ht]; omega

namespace C2

def tk : Task := { phase := .running, slot := some 0, r := { pc := 0x1000, g := [(2, 0x40),(3, 7), (4, 0xFFFFFFFFFFFFFFF0), (5, 0x0010000000000123),(6,0x4048F5C34059999A),(7,0x7FF4000000000001),(8,0x8000000000000000),(9,0xFFFFFFFFFFFFFFFF)] } }

def st : State := { turn := some { tid := 0, insn := 0x1234, len := 4 }, tasks := [(0, tk)] }

def st5 : State := { st with tasks := [(0, { tk with r := { tk.r with frm := 5 } })] }

theorem witness_IntegerDivision_1 : ∃ (s : State) (tid : Nat) (d : BitVec 7) (a : BitVec 7) (b : BitVec 7), Issuing s tid ∧ (Names s tid [d.toNat, a.toNat,
    b.toNat]) := by
  exact ⟨st, 0, 125, 4, 3, issuing_of (by decide +kernel), names_of (by decide +kernel)⟩

theorem witness_IntegerOneSource_1 :
    (∃ (s : State) (tid : Nat) (d : BitVec 7) (a : BitVec 7), Issuing s tid ∧ (Names s tid [d.toNat, a.toNat])) ∧
    (∃ (s : State) (tid : Nat) (d : BitVec 7) (a : BitVec 7) (b : BitVec 7) (e : BitVec 5), Issuing s tid ∧
      (Names s tid [d.toNat, a.toNat, b.toNat, e.toNat])) := by
  refine ⟨?_, ?_⟩
  · exact ⟨st, 0, 5, 4, issuing_of (by decide +kernel), names_of (by decide +kernel)⟩
  · exact ⟨st, 0, 5, 4, 6, 7, issuing_of (by decide +kernel), names_of (by decide +kernel)⟩

theorem witness_PackedLanes_1 : ∃ (s : State) (tid : Nat) (d : BitVec 7) (a : BitVec 7) (x : BitVec 2) (b : BitVec 5), Issuing s tid ∧ (x.toNat ≤ 2) ∧
    (Names s tid [d.toNat, a.toNat, b.toNat]) := by
  exact ⟨st, 0, 5, 4, 0, 6, issuing_of (by decide +kernel), by decide +kernel, names_of (by decide +kernel)⟩

theorem witness_CompactIntegersAndNop_1 : ∃ (s : State) (tid : Nat) (a : BitVec 5) (b : BitVec 5), Issuing s tid ∧ (Names s tid [a.toNat, b.toNat]) := by
  exact ⟨st, 0, 5, 4, issuing_of (by decide +kernel), names_of (by decide +kernel)⟩

theorem witness_FloatArithmetic_1 : ∃ (s : State) (tid : Nat) (d : BitVec 7) (a : BitVec 7) (p : BitVec 2) (b : BitVec 5) (c : BitVec 5) (e : BitVec 5),
    Issuing s tid ∧ (p.toNat ≤ 1) ∧ (Names s tid [d.toNat, a.toNat, b.toNat, c.toNat, e.toNat]) := by
  exact ⟨st5, 0, 6, 6, 1, 7, 6, 3, issuing_of (by decide +kernel), by decide +kernel, names_of (by decide +kernel)⟩

theorem witness_FloatCompareAndConvert_1 :
    (∃ (s : State) (tid : Nat) (d : BitVec 7) (a : BitVec 7) (p : BitVec 2) (b : BitVec 5), Issuing s tid ∧ (p.toNat ≤ 1) ∧
      (Names s tid [d.toNat, a.toNat, b.toNat])) ∧
    (∃ (s : State) (tid : Nat) (d : BitVec 7) (a : BitVec 7) (t : BitVec 3) (u : BitVec 3) (w : BitVec 1), Issuing s tid ∧
      (fcvtLegal t u w = true) ∧ (Names s tid [d.toNat, a.toNat])) := by
  refine ⟨?_, ?_⟩
  · exact ⟨st, 0, 5, 7, 1, 6, issuing_of (by decide +kernel), by decide +kernel, names_of (by decide +kernel)⟩
  · exact ⟨st5, 0, 5, 6, 0, 1, 0, issuing_of (by decide +kernel), by decide +kernel, names_of (by decide +kernel)⟩

theorem witness_BranchesAndJumps_1 :
    (∃ (s : State) (tid : Nat) (a : BitVec 7) (b : BitVec 7) (c : BitVec 4) (e : BitVec 5), Issuing s tid ∧
      (Names s tid [a.toNat, b.toNat, c.toNat, e.toNat])) ∧
    (∃ (s : State) (tid : Nat) (d : BitVec 7) (a : BitVec 7) (c : BitVec 4) (e : BitVec 4) (g : BitVec 5), Issuing s tid ∧
      (Names s tid [d.toNat, a.toNat, c.toNat, e.toNat, g.toNat])) := by
  refine ⟨?_, ?_⟩
  · exact ⟨st, 0, 3, 4, 3, 6, issuing_of (by decide +kernel), names_of (by decide +kernel)⟩
  · exact ⟨st, 0, 5, 4, 2, 3, 6, issuing_of (by decide +kernel), names_of (by decide +kernel)⟩

end C2

namespace C4

def tk : Task := { phase := .running, slot := some 0, cls := 3, r := { pc := 0x1000, g := [(2, 0x40),(3, 7), (4, 0xFFFFFFFFFFFFFFF0), (5, 0x0010000000000123),(6,0x4048F5C34059999A),(7,0x7FF4000000000001),(8,0x8000000000000000),(9,0xFFFFFFFFFFFFFFFF),(10,0x2000)] } }

def mk (t : Task) : State := { turn := some { tid := 0, insn := 0x1234, len := 4 }, tasks := [(0, t)] }

def st : State := mk tk

def c0 : Ctx := { asid := 1, priv := true }

def fw (t : Task) : State := { mk t with ctxs := [(0, c0)] }

def lk (x : Link) (t : Task) : State := { mk { t with link := some (0, true) } with cores := [(0, { links := [(0, x)] })] }

theorem witness_Ports_1 :
    (∃ (s : State) (tid : Nat) (a : BitVec 5) (v : Word) (r : List Word), Issuing s tid ∧ (Names s tid [a.toNat]) ∧
      ((s.task tid).handler = true) ∧ ((s.task tid).mpIn = v :: r)) ∧
    (∃ (s : State) (tid : Nat) (a : BitVec 5), Issuing s tid ∧ (Names s tid [a.toNat]) ∧ ((s.task tid).mpOut.length < 8) ∧
      (∀ p ∈ (s.task tid).pushes, p.2.1 ≠ 122)) ∧
    (∃ (s : State) (tid : Nat) (a : BitVec 5) (v : Word) (r : List Word), Issuing s tid ∧ (Names s tid [a.toNat]) ∧
      ((s.task tid).r.esel = 1) ∧ ((s.task tid).mxDone = v :: r)) ∧
    (∃ (s : State) (tid : Nat) (a : BitVec 5), Issuing s tid ∧ (Names s tid [a.toNat]) ∧
      ((s.task tid).r.esel = 1 ∨ (s.task tid).r.esel = 2) ∧ ((s.task tid).epWords.length < 3) ∧ (∀ p ∈ (s.task tid).pushes,
      p.2.1 ≠ 123)) ∧
    (∃ (s : State) (tid : Nat) (a : BitVec 5) (v : Word) (r : List Word), Issuing s tid ∧ (Names s tid [a.toNat]) ∧
      ((s.task tid).r.esel = 2) ∧ ((s.task tid).xfDone = v :: r)) ∧
    (∃ (s : State) (tid : Nat) (d : BitVec 7) (a : BitVec 7), Issuing s tid ∧ (Names s tid [d.toNat, a.toNat]) ∧
      Unrecorded s tid) ∧
    (∃ (s : State) (tid : Nat) (d : BitVec 7) (a : BitVec 7) (x : Link) (isA : Bool) (n : BitVec 7) (v : Word)
      (r : List Word), Issuing s tid ∧ (Names s tid [d.toNat, a.toNat]) ∧ (n = 120) ∧ (linkOf s tid = some (x, isA)) ∧
      (readsQueue x isA n.toNat = true) ∧ (x.q n.toNat = v :: r)) ∧
    (∃ (s : State) (tid : Nat) (d : BitVec 7) (a : BitVec 7) (x : Link) (isA : Bool) (n : BitVec 7), Issuing s tid ∧
      (Names s tid [d.toNat, a.toNat]) ∧ (n = 121) ∧ (linkOf s tid = some (x, isA)) ∧ (readsQueue x isA n.toNat = false) ∧
      (x.otherEnded isA = false) ∧ ((x.q n.toNat).length < 8) ∧ (∀ p ∈ (s.task tid).pushes, p.2.1 ≠ n.toNat)) ∧
    (∃ (s : State) (tid : Nat) (d : BitVec 7) (a : BitVec 7) (x : Link) (isA : Bool) (n : BitVec 7), Issuing s tid ∧
      (Names s tid [d.toNat, a.toNat]) ∧ (n = 120) ∧ (linkOf s tid = some (x, isA)) ∧ (readsQueue x isA n.toNat = true) ∧
      (x.q n.toNat = []) ∧ (x.otherEnded isA = true)) ∧
    (∃ (s : State) (tid : Nat) (d : BitVec 7) (a : BitVec 7) (x : Link) (isA : Bool) (n : BitVec 7), Issuing s tid ∧
      (Names s tid [d.toNat, a.toNat]) ∧ (n = 121) ∧ (linkOf s tid = some (x, isA)) ∧ (readsQueue x isA n.toNat = false) ∧
      (x.otherEnded isA = true)) := by
  refine ⟨?_, ?_, ?_, ?_, ?_, ?_, ?_, ?_, ?_, ?_⟩
  · exact ⟨((mk { tk with handler := true, mpIn := [9], mpOut := [1,2,3,4,5,6,7], mxDone := [0xFFFC000000000001,3], r := { tk.r with esel := 1 }, epWords := [1,2], mxOut := 1 })),
      0, 5, 9, ([]), issuing_of (by decide +kernel), names_of (by decide +kernel), by decide +kernel⟩
  · exact ⟨((mk { tk with  xfDone := [5], xfOut := 3, r := { tk.r with esel := 2 } })), 0, 5, issuing_of (by decide +kernel),
      names_of (by decide +kernel), by decide +kernel⟩
  · exact ⟨((mk { tk with handler := true, mpIn := [9], mpOut := [1,2,3,4,5,6,7], mxDone := [0xFFFC000000000001,3], r := { tk.r with esel := 1 }, epWords := [1,2], mxOut := 1 })),
      0, 5, 18445618173802708993, ([3]), issuing_of (by decide +kernel), names_of (by decide +kernel), by decide +kernel⟩
  · exact ⟨((mk { tk with  xfDone := [5], xfOut := 3, r := { tk.r with esel := 2 } })), 0, 5, issuing_of (by decide +kernel),
      names_of (by decide +kernel), by decide +kernel⟩
  · exact ⟨((mk { tk with  xfDone := [5], xfOut := 3, r := { tk.r with esel := 2 } })), 0, 5, 5, ([]),
      issuing_of (by decide +kernel), names_of (by decide +kernel), by decide +kernel⟩
  · exact ⟨((lk { a := 0, b := 1, dir := false, qa := [1,2,3,4,5,6,7], qb := [] } tk)), 0, 5, 4, issuing_of (by decide +kernel),
      names_of (by decide +kernel), unrecorded_of (by decide +kernel)⟩
  · exact ⟨((lk { a := 0, b := 1, dir := true, qa := [3, 4], qb := [1,2,3,4,5,6,7] } tk)), 0, 5, 4,
      ({ a := 0, b := 1, dir := true, qa := [3, 4], qb := [1,2,3,4,5,6,7] }), true, 120, 3, ([4]),
      issuing_of (by decide +kernel), names_of (by decide +kernel), by decide +kernel⟩
  · exact ⟨((lk { a := 0, b := 1, dir := true, qa := [3, 4], qb := [1,2,3,4,5,6,7] } tk)), 0, 5, 4,
      ({ a := 0, b := 1, dir := true, qa := [3, 4], qb := [1,2,3,4,5,6,7] }), true, 121, issuing_of (by decide +kernel),
      names_of (by decide +kernel), by decide +kernel⟩
  · exact ⟨((lk { a := 0, b := 1, dir := true, qa := [], qb := [], bEnded := true } tk)), 0, 5, 4,
      ({ a := 0, b := 1, dir := true, qa := [], qb := [], bEnded := true }), true, 120, issuing_of (by decide +kernel),
      names_of (by decide +kernel), by decide +kernel⟩
  · exact ⟨((lk { a := 0, b := 1, dir := true, qa := [], qb := [], bEnded := true } tk)), 0, 5, 4,
      ({ a := 0, b := 1, dir := true, qa := [], qb := [], bEnded := true }), true, 121, issuing_of (by decide +kernel),
      names_of (by decide +kernel), by decide +kernel⟩

theorem witness_Ports_2 :
    (∃ (s : State) (tid : Nat) (d : BitVec 7) (a : BitVec 7) (x : Link) (isA : Bool) (n : BitVec 7), Issuing s tid ∧
      (Names s tid [d.toNat, a.toNat]) ∧ (n = 120) ∧ (linkOf s tid = some (x, isA)) ∧ (readsQueue x isA n.toNat = false) ∧
      (x.otherEnded isA = false) ∧ ((x.q n.toNat).length < 8) ∧ (∀ p ∈ (s.task tid).pushes, p.2.1 ≠ n.toNat)) ∧
    (∃ (s : State) (tid : Nat) (d : BitVec 7) (a : BitVec 7) (x : Link) (isA : Bool) (n : BitVec 7), Issuing s tid ∧
      (Names s tid [d.toNat, a.toNat]) ∧ (n = 121) ∧ (linkOf s tid = some (x, isA)) ∧ (readsQueue x isA n.toNat = true)) ∧
    (∃ (s : State) (tid : Nat) (d : BitVec 7) (a : BitVec 7) (x : Link) (isA : Bool) (n : BitVec 7) (v : Word)
      (r : List Word), (Names s tid [d.toNat, a.toNat]) ∧ (n = 121) ∧ (linkOf s tid = some (x, isA)) ∧
      (readsQueue x isA n.toNat = true) ∧ (x.q n.toNat = v :: r)) := by
  refine ⟨?_, ?_, ?_⟩
  · exact ⟨((lk { a := 0, b := 1, dir := false, qa := [1,2,3,4,5,6,7], qb := [] } tk)), 0, 5, 4,
      ({ a := 0, b := 1, dir := false, qa := [1,2,3,4,5,6,7], qb := [] }), true, 120, issuing_of (by decide +kernel),
      names_of (by decide +kernel), by decide +kernel⟩
  · exact ⟨((lk { a := 0, b := 1, dir := false, qa := [1,2,3,4,5,6,7], qb := [] } tk)), 0, 5, 4,
      ({ a := 0, b := 1, dir := false, qa := [1,2,3,4,5,6,7], qb := [] }), true, 121, issuing_of (by decide +kernel),
      names_of (by decide +kernel), by decide +kernel⟩
  · exact ⟨((lk { a := 0, b := 1, dir := false, qa := [], qb := [3] } tk)), 0, 5, 4,
      ({ a := 0, b := 1, dir := false, qa := [], qb := [3] }), true, 121, 3, ([]), names_of (by decide +kernel),
      by decide +kernel⟩

theorem witness_Operands_1 :
    (∃ (s : State) (tid : Nat) (d : BitVec 7) (a : BitVec 7) (b : BitVec 7) (n : BitVec 7), Issuing s tid ∧
      (Names s tid [d.toNat, a.toNat, b.toNat]) ∧ (n.toNat < 120) ∧ ((s.task tid).limit < n.toNat)) ∧
    (∃ (s : State) (tid : Nat) (d : BitVec 7) (a : BitVec 7) (b : BitVec 7) (n : BitVec 7), Issuing s tid ∧
      (Names s tid [d.toNat, a.toNat, b.toNat]) ∧ (n = 126 ∨ n = 127)) ∧
    (∃ (s : State) (tid : Nat) (d : BitVec 7) (a : BitVec 7) (b : BitVec 7) (n : BitVec 7), Issuing s tid ∧
      (Names s tid [d.toNat, a.toNat, b.toNat]) ∧ (120 ≤ n.toNat) ∧ (n ≠ 125)) ∧
    (∃ (s : State) (tid : Nat) (d : BitVec 7) (a : BitVec 7) (b : BitVec 7) (n : BitVec 7), Issuing s tid ∧
      (Names s tid [d.toNat, a.toNat, b.toNat]) ∧ (n = 124)) := by
  refine ⟨?_, ?_, ?_, ?_⟩
  · exact ⟨st, 0, 5, 3, 4, 64, issuing_of (by decide +kernel), names_of (by decide +kernel), by decide +kernel⟩
  · exact ⟨st, 0, 5, 3, 4, 126, issuing_of (by decide +kernel), names_of (by decide +kernel), by decide +kernel⟩
  · exact ⟨st, 0, 5, 3, 4, 126, issuing_of (by decide +kernel), names_of (by decide +kernel), by decide +kernel⟩
  · exact ⟨st, 0, 5, 3, 4, 124, issuing_of (by decide +kernel), names_of (by decide +kernel), by decide +kernel⟩

theorem witness_FaultsAndTheirMessage_1 :
    (∃ (s : State) (tid : Nat) (u : Turn) (o : Nat), (s.turn = some u) ∧ (o ≠ tid)) ∧
    (∃ (s : State) (tid : Nat) (u : Turn), Issuing s tid ∧ (s.turn = some u)) := by
  refine ⟨?_, ?_⟩
  · exact ⟨st, 0, ({ tid := 0, insn := 0x1234, len := 4 }), 1, by decide +kernel⟩
  · exact ⟨st, 0, ({ tid := 0, insn := 0x1234, len := 4 }), issuing_of (by decide +kernel), by decide +kernel⟩

theorem witness_TrapReturnAndPrivilege_1 :
    (∃ (s : State) (tid : Nat), Issuing s tid ∧ (isFirmware s tid = false ∨ (s.task tid).r.tvec = 0)) ∧
    (∃ (s : State) (tid : Nat), Issuing s tid ∧ (isFirmware s tid = true) ∧ ((s.task tid).r.tvec ≠ 0)) ∧
    (∃ (s : State) (tid : Nat), Issuing s tid ∧ (isFirmware s tid = true) ∧ (BitVec.toNat (s.task tid).r.epc % 2 = 0)) ∧
    (∃ (s : State) (tid : Nat), Issuing s tid ∧ (isFirmware s tid = true) ∧ (BitVec.toNat (s.task tid).r.epc % 2 = 1)) ∧
    (∃ (s : State) (tid : Nat) (d : BitVec 7) (a : BitVec 7) (b : BitVec 7) (n : BitVec 12), Issuing s tid ∧
      (isFirmware s tid = false) ∧ (Names s tid [d.toNat, a.toNat, b.toNat]) ∧ (n ∈ [62, 80, 81, 82])) ∧
    (∃ (s : State) (tid : Nat) (d : BitVec 7) (a : BitVec 7) (b : BitVec 7) (n : BitVec 12), Issuing s tid ∧
      (isFirmware s tid = false) ∧ (Names s tid [d.toNat, a.toNat, b.toNat]) ∧ (n ∈ [40, 41])) := by
  refine ⟨?_, ?_, ?_, ?_, ?_, ?_⟩
  · exact ⟨st, 0, issuing_of (by decide +kernel), by decide +kernel⟩
  · exact ⟨((fw { tk with r := { tk.r with tvec := 0x100, epc := 0x200 } })), 0, issuing_of (by decide +kernel),
      by decide +kernel⟩
  · exact ⟨((fw { tk with r := { tk.r with tvec := 0x100, epc := 0x200 } })), 0, issuing_of (by decide +kernel),
      by decide +kernel⟩
  · exact ⟨((fw { tk with r := { tk.r with tvec := 0, epc := 0x201 } })), 0, issuing_of (by decide +kernel), by decide +kernel⟩
  · exact ⟨st, 0, 5, 3, 4, 62, issuing_of (by decide +kernel), by decide +kernel, names_of (by decide +kernel), by decide +kernel⟩
  · exact ⟨st, 0, 5, 3, 4, 40, issuing_of (by decide +kernel), by decide +kernel, names_of (by decide +kernel), by decide +kernel⟩

end C4

namespace C5

def sp (o : Nat) : State := mk (rg 12 0xFFE0000000080 (rg 5 (match o with | 7 => 0x2211 | _ => 0x8000000000000001) (rg 6 77 tk)))

def lok : State := { mk tk with cores := [(0, { core0 with locks := [(lockKey 128, 0)] })] }

def sw (w1 g : Word) : State := uaPutWord (mk (rg 5 g tk)) 0 0 136 w1

def swb (g : Word) : State := { uaPutWord (mk (rg 5 g tk)) 0 0 136 (3 * 2^48 + 2^47 + 5 * 2^18 + 7) with clusters := [(0, { cl0 with futs := [(5, { idx := 5, gen := 7, prod := .sync 0 128, ctx := 0, launch := none })] })] }

theorem witness_AtomicsAndSyncWords_1 :
    (∃ (s : State) (tid : Nat) (k : Nat) (off : Nat) (d : BitVec 7) (a : BitVec 7) (o : BitVec 3), Issuing s tid ∧
      (Names s tid [d.toNat, a.toNat]) ∧ (BitVec.toNat (Reads s tid a.toNat) / 2 ^ 52 % 8 = 0) ∧
      (BitVec.toNat (Reads s tid a.toNat) % 2 ^ 52 / 2 ^ 48 % 16 = 15) ∧
      (BitVec.toNat (Reads s tid a.toNat) % 2 ^ 52 % 8 = 0) ∧
      (portPlace s tid (BitVec.toNat (Reads s tid a.toNat) % 2 ^ 52) 8 1 = Except.ok (k, off)) ∧
      (uaPoisonIn s k (s.task tid).ctx off 8 = none) ∧ (d.toNat < 120) ∧
      ((s.task tid).limit ≥ if o = 7 then d.toNat + 1 else d.toNat) ∧ (o = 7 → Ready s tid (d.toNat + 1))) ∧
    (∃ (s : State) (tid : Nat) (k : Nat) (off : Nat) (d : BitVec 7) (a : BitVec 7), Issuing s tid ∧ (Names s tid [d.toNat,
      a.toNat]) ∧ (BitVec.toNat (Reads s tid a.toNat) / 2 ^ 52 % 8 = 0) ∧
      (BitVec.toNat (Reads s tid a.toNat) % 2 ^ 52 / 2 ^ 48 % 16 = 15) ∧
      (BitVec.toNat (Reads s tid a.toNat) % 2 ^ 52 % 8 = 0) ∧
      (portPlace s tid (BitVec.toNat (Reads s tid a.toNat) % 2 ^ 52) 8 5 = Except.ok (k, off)) ∧
      (uaPoisonIn s k (s.task tid).ctx off 8 = none) ∧ ((s.task tid).lockRetry = none) ∧
      (mfind (s.core k).locks (lockKey off) = none) ∧ (locksHeld s tid < 4)) ∧
    (∃ (s : State) (tid : Nat) (k : Nat) (off : Nat) (d : BitVec 7) (a : BitVec 7), Issuing s tid ∧ (Names s tid [d.toNat,
      a.toNat]) ∧ (BitVec.toNat (Reads s tid a.toNat) / 2 ^ 52 % 8 = 0) ∧
      (BitVec.toNat (Reads s tid a.toNat) % 2 ^ 52 / 2 ^ 48 % 16 = 15) ∧
      (BitVec.toNat (Reads s tid a.toNat) % 2 ^ 52 % 8 = 0) ∧
      (portPlace s tid (BitVec.toNat (Reads s tid a.toNat) % 2 ^ 52) 8 5 = Except.ok (k, off)) ∧
      (mfind (s.core k).locks (lockKey off) ≠ some tid)) ∧
    (∃ (s : State) (tid : Nat) (k : Nat) (off : Nat) (d : BitVec 7) (a : BitVec 7), Issuing s tid ∧ (Names s tid [d.toNat,
      a.toNat]) ∧ (BitVec.toNat (Reads s tid a.toNat) / 2 ^ 52 % 8 = 0) ∧
      (BitVec.toNat (Reads s tid a.toNat) % 2 ^ 52 / 2 ^ 48 % 16 = 15) ∧
      (BitVec.toNat (Reads s tid a.toNat) % 2 ^ 52 % 8 = 0) ∧
      (portPlace s tid (BitVec.toNat (Reads s tid a.toNat) % 2 ^ 52) 8 5 = Except.ok (k, off)) ∧
      (mfind (s.core k).locks (lockKey off) = some tid) ∧ (lockGranted (s.core k) tid (lockKey off) = false) ∧
      (relReady s tid 4 = true)) ∧
    (∃ (s : State) (s2 : State) (tid : Nat) (k : Nat) (o : Nat) (d : BitVec 7) (a : BitVec 7) (b : BitVec 7) (h : Word),
      Issuing s tid ∧ (Names s tid [d.toNat, a.toNat, b.toNat]) ∧ (BitVec.toNat (Reads s tid a.toNat) / 2 ^ 52 % 8 = 0) ∧
      (BitVec.toNat (Reads s tid a.toNat) % 2 ^ 52 / 2 ^ 48 % 16 = 15) ∧
      (BitVec.toNat (Reads s tid a.toNat) % 2 ^ 52 % 16 = 0) ∧
      (portPlace s tid (BitVec.toNat (Reads s tid a.toNat) % 2 ^ 52) 16 1 = Except.ok (k, o)) ∧
      (k / 8 = (s.task tid).core / 8) ∧
      (winCore ((s.task tid).core / 8) (BitVec.toNat (Reads s tid a.toNat) % 2 ^ 52) = Except.ok k) ∧
      (allocFut s ((s.task tid).core / 8) (s.task tid).ctx (s.task tid).launch (Prod.sync k o) = Alloc.got h s2) ∧
      (BitVec.toNat (uaWord s k (s.task tid).ctx (o + 8)) / 2 ^ 48 ≠ BitVec.toNat (Reads s tid b.toNat) % 2 ^ 16)) ∧
    (∃ (s : State) (s2 : State) (tid : Nat) (k : Nat) (o : Nat) (d : BitVec 7) (a : BitVec 7) (b : BitVec 7) (h : Word),
      Issuing s tid ∧ (Names s tid [d.toNat, a.toNat, b.toNat]) ∧ (BitVec.toNat (Reads s tid a.toNat) / 2 ^ 52 % 8 = 0) ∧
      (BitVec.toNat (Reads s tid a.toNat) % 2 ^ 52 / 2 ^ 48 % 16 = 15) ∧
      (BitVec.toNat (Reads s tid a.toNat) % 2 ^ 52 % 16 = 0) ∧
      (portPlace s tid (BitVec.toNat (Reads s tid a.toNat) % 2 ^ 52) 16 1 = Except.ok (k, o)) ∧
      (k / 8 = (s.task tid).core / 8) ∧
      (winCore ((s.task tid).core / 8) (BitVec.toNat (Reads s tid a.toNat) % 2 ^ 52) = Except.ok k) ∧
      (allocFut s ((s.task tid).core / 8) (s.task tid).ctx (s.task tid).launch (Prod.sync k o) = Alloc.got h s2) ∧
      (BitVec.toNat (uaWord s k (s.task tid).ctx (o + 8)) / 2 ^ 48 = BitVec.toNat (Reads s tid b.toNat) % 2 ^ 16) ∧
      (BitVec.toNat (uaWord s k (s.task tid).ctx (o + 8)) / 2 ^ 47 % 2 = 0)) ∧
    (∃ (s : State) (tid : Nat) (k : Nat) (o : Nat) (d : BitVec 7) (a : BitVec 7) (b : BitVec 7), Issuing s tid ∧
      (Names s tid [d.toNat, a.toNat, b.toNat]) ∧ (BitVec.toNat (Reads s tid a.toNat) / 2 ^ 52 % 8 = 0) ∧
      (BitVec.toNat (Reads s tid a.toNat) % 2 ^ 52 / 2 ^ 48 % 16 = 15) ∧
      (BitVec.toNat (Reads s tid a.toNat) % 2 ^ 52 % 16 = 0) ∧
      (portPlace s tid (BitVec.toNat (Reads s tid a.toNat) % 2 ^ 52) 16 1 = Except.ok (k, o)) ∧
      (k / 8 = (s.task tid).core / 8) ∧
      (winCore ((s.task tid).core / 8) (BitVec.toNat (Reads s tid a.toNat) % 2 ^ 52) = Except.ok k) ∧
      (BitVec.toNat (uaWord s k (s.task tid).ctx (o + 8)) / 2 ^ 48 = BitVec.toNat (Reads s tid b.toNat) % 2 ^ 16) ∧
      (BitVec.toNat (uaWord s k (s.task tid).ctx (o + 8)) / 2 ^ 47 % 2 = 1)) := by
  refine ⟨?_, ?_, ?_, ?_, ?_, ?_, ?_⟩
  · exact ⟨lok, 0, 0, 128, 5, 12, 0, issuing_of (by decide +kernel), names_of (by decide +kernel), and3 (by decide +kernel) ⟨rfl,
      by unfold Ready; decide +kernel⟩⟩
  · exact ⟨((sp 0)), 0, 0, 128, 5, 12, issuing_of (by decide +kernel), names_of (by decide +kernel),
      and3 (by decide +kernel) ⟨rfl, by decide +kernel⟩⟩
  · exact ⟨((sp 0)), 0, 0, 128, 5, 12, issuing_of (by decide +kernel), names_of (by decide +kernel),
      and3 (by decide +kernel) ⟨rfl, by decide +kernel⟩⟩
  · exact ⟨lok, 0, 0, 128, 5, 12, issuing_of (by decide +kernel), names_of (by decide +kernel), and3 (by decide +kernel) ⟨rfl,
      by decide +kernel⟩⟩
  · exact ⟨((sw (3 * 2^48) 4)), _, 0, 0, 128, 6, 12, 5, _, issuing_of (by decide +kernel), names_of (by decide +kernel),
      and3 (by decide +kernel) ⟨rfl, by decide +kernel, rfl, rfl, by decide +kernel⟩⟩
  · exact ⟨((sw (3 * 2^48) 3)), _, 0, 0, 128, 6, 12, 5, _, issuing_of (by decide +kernel), names_of (by decide +kernel),
      and3 (by decide +kernel) ⟨rfl, by decide +kernel, rfl, rfl, by decide +kernel⟩⟩
  · exact ⟨((swb 3)), 0, 0, 128, 6, 12, 5, issuing_of (by decide +kernel), names_of (by decide +kernel),
      and3 (by decide +kernel) ⟨rfl, by decide +kernel, rfl, by decide +kernel⟩⟩

end C5

namespace C6

def par : State := mk (rgs [(16, 0x300000004), (17, 0x2000), (24, 11), (25, 22)] tk)

theorem witness_SpawnsAndEnds_1 :
    (∃ (s : State) (s2 : State) (tid : Nat) (d : BitVec 7) (a : BitVec 7) (b : BitVec 7) (e : BitVec 7) (f : BitVec 7)
      (o : BitVec 16) (n : BitVec 3) (h : Word), Issuing s tid ∧ (Names s tid [d.toNat, a.toNat, b.toNat, f.toNat]) ∧
      (∀ i < n.toNat, e.toNat + i < 120 ∧ e.toNat + i ≤ (s.task tid).limit ∧ Ready s tid (e.toNat + i)) ∧ (∀ (i : Nat),
      3 ≤ i → i ≤ 8 → Ready s tid i) ∧ (tid < s.nextId) ∧
      (({ entry := BitVec.toNat ((s.task tid).r.pc + BitVec.ofInt 52 (2 * o.toInt)), cls := (s.task tid).cls, args := spawnArgs s tid 3 6 (s.task tid).cls, tiles := 0, range := none, trap := false } : SpawnReq).range = none) ∧
      (spawnChecks s tid ({ entry := BitVec.toNat ((s.task tid).r.pc + BitVec.ofInt 52 (2 * o.toInt)), cls := (s.task tid).cls, args := spawnArgs s tid 3 6 (s.task tid).cls, tiles := 0, range := none, trap := false } : SpawnReq) = Except.ok () ∧
      pushFails s (s.task tid).core (s.task tid).ctx = false ∧ relReady s2 tid 3 = true ∧
      allocFut ({ s with nextId := s.nextId + 1 } : State) ((s.task tid).core / 8) (s.task tid).ctx (s.task tid).launch (Prod.task s.nextId) = Alloc.got h s2)) ∧
    (∃ (s : State) (s2 : State) (tid : Nat) (d : BitVec 7) (a : BitVec 7) (b : BitVec 7) (e : BitVec 7) (f : BitVec 7)
      (o : BitVec 16) (n : BitVec 3) (h : Word), Issuing s tid ∧ (Names s tid [d.toNat, a.toNat, b.toNat, f.toNat]) ∧
      (∀ i < n.toNat, e.toNat + i < 120 ∧ e.toNat + i ≤ (s.task tid).limit ∧ Ready s tid (e.toNat + i)) ∧ (∀ (i : Nat),
      3 ≤ i → i ≤ 8 → Ready s tid i) ∧ (tid < s.nextId) ∧
      (({ ({ entry := BitVec.toNat ((s.task tid).r.pc + BitVec.ofInt 52 (2 * o.toInt)), cls := (s.task tid).cls, args := spawnArgs s tid 3 6 (s.task tid).cls, tiles := 0, range := none, trap := false } : SpawnReq) with trap := true } : SpawnReq).range = none) ∧
      (spawnChecks s tid ({ ({ entry := BitVec.toNat ((s.task tid).r.pc + BitVec.ofInt 52 (2 * o.toInt)), cls := (s.task tid).cls, args := spawnArgs s tid 3 6 (s.task tid).cls, tiles := 0, range := none, trap := false } : SpawnReq) with trap := true } : SpawnReq) = Except.ok () ∧
      pushFails s (s.task tid).core (s.task tid).ctx = false ∧ relReady s2 tid 3 = true ∧
      allocFut ({ s with nextId := s.nextId + 1 } : State) ((s.task tid).core / 8) (s.task tid).ctx (s.task tid).launch (Prod.task s.nextId) = Alloc.got h s2)) := by
  refine ⟨?_, ?_⟩
  · exact ⟨par, _, 0, 5, 17, 125, 24, 16, 5, 2, _, issuing_of (by decide +kernel), names_of (by decide +kernel),
      by unfold Ready; decide +kernel, by unfold Ready; decide +kernel, by decide +kernel, by decide +kernel, ⟨rfl,
      ⟨by decide +kernel, ⟨by decide +kernel, rfl⟩⟩⟩⟩
  · exact ⟨par, _, 0, 5, 17, 125, 24, 16, 5, 2, _, issuing_of (by decide +kernel), names_of (by decide +kernel),
      by unfold Ready; decide +kernel, by unfold Ready; decide +kernel, by decide +kernel, by decide +kernel, ⟨rfl,
      ⟨by decide +kernel, ⟨by decide +kernel, rfl⟩⟩⟩⟩

end C6

namespace C7

def lau : Launch := { ctx := 0, queue := 0, hdr := [0, 0, 0, 0, 0, 0, 0, 0x1000000007], st := .running }

def par : State := { mk (rgs [(16, 4), (17, 0x2000), (24, 11), (25, 22)] { tk with launch := some 3 }) with launches := [(3, lau)] }

def fu (f : FState) : State := { mk (rgs [(14, 0x9000000000000000 + 5 * 2^18 + 7), (15, 200)] { tk with r := { tk.r with fflags := 1 } }) with clusters := [(0, { cl0 with futs := [(5, { idx := 5, gen := 7, prod := .empty, ctx := 0, launch := none, st := f, value := 99, code := 0x33, flags := 4 })] })] }

def fu1 (f : FState) : Fut := { idx := 5, gen := 7, prod := .empty, ctx := 0, launch := none, st := f, value := 99, code := 0x33, flags := 4 }

def fuh (f : FState) : State := { fu f with tasks := [(0, { (fu f).task 0 with handler := true })] }

def wa (f g : FState) : State := { mk (rgs [(14, 0x9000000000000000 + 5 * 2^18 + 7), (15, 0x9000000000000000 + 6 * 2^18 + 7)] tk) with clusters := [(0, { cl0 with futs := [(5, fu1 f), (6, { fu1 g with idx := 6 })] })] }

def wah (f g : FState) : State := { wa f g with tasks := [(0, { (wa f g).task 0 with handler := true })] }

def fx : Fut := { fu1 .pending with prod := .swap, openBit := true }

def fxs : State := { fu .pending with clusters := [(0, { cl0 with futs := [(5, fx)] })] }

def br (w0 w1 n : Word) : State := uaPutWord (uaPutWord (mk (rgs [(14, 0xFFE0000000080), (15,
  n)] tk)) 0 0 128 w0) 0 0 136 w1

theorem witness_SpawnsAndEnds_2 : ∃ (s : State) (s2 : State) (tid : Nat) (d : BitVec 7) (a : BitVec 7) (b : BitVec 7) (e : BitVec 7) (f : BitVec 7)
    (o : BitVec 16) (n : BitVec 3) (h : Word), Issuing s tid ∧ (Names s tid [d.toNat, a.toNat, b.toNat, f.toNat]) ∧
    (∀ i < n.toNat, e.toNat + i < 120 ∧ e.toNat + i ≤ (s.task tid).limit ∧ Ready s tid (e.toNat + i)) ∧ (∀ (i : Nat),
    3 ≤ i → i ≤ 8 → Ready s tid i) ∧ (tid < s.nextId) ∧
    (({ ({ entry := BitVec.toNat ((s.task tid).r.pc + BitVec.ofInt 52 (2 * o.toInt)), cls := (s.task tid).cls, args := spawnArgs s tid 3 6 (s.task tid).cls, tiles := 0, range := none, trap := false } : SpawnReq) with entry := BitVec.toNat (Reads s tid a.toNat) % 2 ^ 52, range := some (Reads s tid b.toNat) } : SpawnReq).range = some (Reads s tid b.toNat)) ∧
    (spawnChecks s tid ({ ({ entry := BitVec.toNat ((s.task tid).r.pc + BitVec.ofInt 52 (2 * o.toInt)), cls := (s.task tid).cls, args := spawnArgs s tid 3 6 (s.task tid).cls, tiles := 0, range := none, trap := false } : SpawnReq) with entry := BitVec.toNat (Reads s tid a.toNat) % 2 ^ 52, range := some (Reads s tid b.toNat) } : SpawnReq) = Except.ok ()) ∧
    (pushFails s (s.task tid).core (s.task tid).ctx = false) ∧ (BitVec.toNat (Reads s tid b.toNat) % 2 ^ 32 ≠ 0) ∧
    (allocFut ({ s with nextId := s.nextId + 1 } : State) ((s.task tid).core / 8) (s.task tid).ctx (s.task tid).launch Prod.range false false (BitVec.toNat (Reads s tid b.toNat) % 2 ^ 32) = Alloc.got h s2) ∧
    (relReady s2 tid 3 = true) := by
  exact ⟨par, _, 0, 5, 17, 16, 24, 16, 0xFFF0, 6, _, issuing_of (by decide +kernel), names_of (by decide +kernel),
    by unfold Ready; decide +kernel, by unfold Ready; decide +kernel, by decide +kernel, by decide +kernel, rfl,
    by decide +kernel, by decide +kernel, rfl, by decide +kernel⟩

theorem witness_TouchesAndWaitAny_1 :
    (∃ (s : State) (tid : Nat) (d : BitVec 7) (a : BitVec 7) (c : BitVec 5) (e : BitVec 5) (f : Fut), Issuing s tid ∧
      (Names s tid [d.toNat, a.toNat, c.toNat, e.toNat]) ∧ ((s.task tid).cancel = false) ∧ Unrecorded s tid ∧
      (isHandle (Reads s tid a.toNat) = true ∧ isLocal s (Reads s tid a.toNat) = true ∧
      hCl (Reads s tid a.toNat) = (s.task tid).core / 8 ∧
      mfind (s.cluster ((s.task tid).core / 8)).lost (hIdx (Reads s tid a.toNat)) = none ∧
      futFind (s.cluster ((s.task tid).core / 8)) (hIdx (Reads s tid a.toNat)) (hGen (Reads s tid a.toNat)) = some f ∧
      mayUse f (s.task tid).ctx = true) ∧ (f.st = FState.resolved)) ∧
    (∃ (s : State) (tid : Nat) (d : BitVec 7) (a : BitVec 7) (c : BitVec 5) (e : BitVec 5) (f : Fut), Issuing s tid ∧
      (Names s tid [d.toNat, a.toNat, c.toNat, e.toNat]) ∧ ((s.task tid).cancel = false) ∧ Unrecorded s tid ∧
      (isHandle (Reads s tid e.toNat) = true ∧ isLocal s (Reads s tid e.toNat) = true ∧
      hCl (Reads s tid e.toNat) = (s.task tid).core / 8 ∧
      mfind (s.cluster ((s.task tid).core / 8)).lost (hIdx (Reads s tid e.toNat)) = none ∧
      futFind (s.cluster ((s.task tid).core / 8)) (hIdx (Reads s tid e.toNat)) (hGen (Reads s tid e.toNat)) = some f ∧
      mayUse f (s.task tid).ctx = true) ∧ (f.st = FState.resolved)) ∧
    (∃ (s : State) (tid : Nat) (d : BitVec 7) (a : BitVec 7) (c : BitVec 5) (e : BitVec 5) (f : Fut), Issuing s tid ∧
      (Names s tid [d.toNat, a.toNat, c.toNat, e.toNat]) ∧ ((s.task tid).cancel = false) ∧ Unrecorded s tid ∧
      (isHandle (Reads s tid a.toNat) = true ∧ isLocal s (Reads s tid a.toNat) = true ∧
      hCl (Reads s tid a.toNat) = (s.task tid).core / 8 ∧
      mfind (s.cluster ((s.task tid).core / 8)).lost (hIdx (Reads s tid a.toNat)) = none ∧
      futFind (s.cluster ((s.task tid).core / 8)) (hIdx (Reads s tid a.toNat)) (hGen (Reads s tid a.toNat)) = some f ∧
      mayUse f (s.task tid).ctx = true) ∧ (f.st = FState.poisoned)) ∧
    (∃ (s : State) (tid : Nat) (d : BitVec 7) (a : BitVec 7) (c : BitVec 5) (e : BitVec 5) (f : Fut), Issuing s tid ∧
      (Names s tid [d.toNat, a.toNat, c.toNat, e.toNat]) ∧ ((s.task tid).cancel = false) ∧ Unrecorded s tid ∧
      (isHandle (Reads s tid a.toNat) = true ∧ isLocal s (Reads s tid a.toNat) = true ∧
      hCl (Reads s tid a.toNat) = (s.task tid).core / 8 ∧
      mfind (s.cluster ((s.task tid).core / 8)).lost (hIdx (Reads s tid a.toNat)) = none ∧
      futFind (s.cluster ((s.task tid).core / 8)) (hIdx (Reads s tid a.toNat)) (hGen (Reads s tid a.toNat)) = some f ∧
      mayUse f (s.task tid).ctx = true) ∧ (f.st = FState.cancelled)) ∧
    (∃ (s : State) (tid : Nat) (d : BitVec 7) (a : BitVec 7) (c : BitVec 5) (e : BitVec 5) (f : Fut), Issuing s tid ∧
      (Names s tid [d.toNat, a.toNat, c.toNat, e.toNat]) ∧ ((s.task tid).cancel = false) ∧ Unrecorded s tid ∧
      (isHandle (Reads s tid a.toNat) = true ∧ isLocal s (Reads s tid a.toNat) = true ∧
      hCl (Reads s tid a.toNat) = (s.task tid).core / 8 ∧
      mfind (s.cluster ((s.task tid).core / 8)).lost (hIdx (Reads s tid a.toNat)) = none ∧
      futFind (s.cluster ((s.task tid).core / 8)) (hIdx (Reads s tid a.toNat)) (hGen (Reads s tid a.toNat)) = some f ∧
      mayUse f (s.task tid).ctx = true) ∧ (f.st = FState.pending) ∧ ((s.task tid).handler = false) ∧ (locksHeld s tid = 0) ∧
      (f.idx = hIdx (Reads s tid a.toNat)) ∧ (isSpilled (s.cluster ((s.task tid).core / 8)) f = false)) ∧
    (∃ (s : State) (tid : Nat) (d : BitVec 7) (a : BitVec 7) (c : BitVec 5) (e : BitVec 5) (f : Fut), Issuing s tid ∧
      (Names s tid [d.toNat, a.toNat, c.toNat, e.toNat]) ∧ ((s.task tid).cancel = false) ∧ Unrecorded s tid ∧
      (isHandle (Reads s tid a.toNat) = true ∧ isLocal s (Reads s tid a.toNat) = true ∧
      hCl (Reads s tid a.toNat) = (s.task tid).core / 8 ∧
      mfind (s.cluster ((s.task tid).core / 8)).lost (hIdx (Reads s tid a.toNat)) = none ∧
      futFind (s.cluster ((s.task tid).core / 8)) (hIdx (Reads s tid a.toNat)) (hGen (Reads s tid a.toNat)) = some f ∧
      mayUse f (s.task tid).ctx = true) ∧ (f.st = FState.pending) ∧ ((s.task tid).handler = true)) ∧
    (∃ (s : State) (tid : Nat) (d : BitVec 7) (a : BitVec 7) (c : BitVec 5) (e : BitVec 5), Issuing s tid ∧
      (Names s tid [d.toNat, a.toNat, c.toNat, e.toNat]) ∧ ((s.task tid).cancel = false) ∧ Unrecorded s tid ∧
      (isHandle (Reads s tid a.toNat) = false)) ∧
    (∃ (s : State) (tid : Nat) (d : BitVec 7) (a : BitVec 7) (n : BitVec 7) (j : Nat), Issuing s tid ∧
      (Names s tid [d.toNat]) ∧ Unrecorded s tid ∧ (a.toNat < 120) ∧ (∀ i < n.toNat, a.toNat + i ≤ (s.task tid).limit ∧
      Ready s tid (a.toNat + i)) ∧ ((s.task tid).cancel = false) ∧ (∀ i < n.toNat,
      isHandle ((fun i => s.g tid (a.toNat + i)) i) = true) ∧ (∀ i < n.toNat,
      (fun i => isLocal s ((fun i => s.g tid (a.toNat + i)) i) = true ∨ peerReach s (hChip ((fun i => s.g tid (a.toNat + i)) i)) = false) i ∧
      ((fun i => wanyView s tid [] ((fun i => s.g tid (a.toNat + i)) i)) i).out ≠ 5) ∧ (j < n.toNat) ∧
      (((fun i => wanyView s tid [] ((fun i => s.g tid (a.toNat + i)) i)) j).out ≠ 4) ∧ (∀ i < j,
      ((fun i => wanyView s tid [] ((fun i => s.g tid (a.toNat + i)) i)) i).out = 4)) ∧
    (∃ (s : State) (tid : Nat) (d : BitVec 7) (a : BitVec 7) (n : BitVec 7), Issuing s tid ∧ (Names s tid [d.toNat]) ∧
      Unrecorded s tid ∧ (a.toNat < 120) ∧ (∀ i < n.toNat, a.toNat + i ≤ (s.task tid).limit ∧ Ready s tid (a.toNat + i)) ∧
      ((s.task tid).cancel = false) ∧ (∀ i < n.toNat, isHandle ((fun i => s.g tid (a.toNat + i)) i) = true) ∧ (∀ i < n.toNat,
      (fun i => isLocal s ((fun i => s.g tid (a.toNat + i)) i) = true ∨ peerReach s (hChip ((fun i => s.g tid (a.toNat + i)) i)) = false) i ∧
      ((fun i => wanyView s tid [] ((fun i => s.g tid (a.toNat + i)) i)) i).out = 4) ∧ ((s.task tid).handler = true)) := by
  refine ⟨?_, ?_, ?_, ?_, ?_, ?_, ?_, ?_, ?_⟩
  · exact ⟨((fu .resolved)), 0, 5, 14, 6, 14, ((fu1 .resolved)), issuing_of (by decide +kernel), names_of (by decide +kernel),
      by decide +kernel, unrecorded_of (by decide +kernel), ⟨by decide +kernel, ⟨by decide +kernel, ⟨by decide +kernel,
      ⟨by decide +kernel, ⟨by decide +kernel, by decide +kernel⟩⟩⟩⟩⟩, by decide +kernel⟩
  · exact ⟨((fu .resolved)), 0, 5, 14, 6, 14, ((fu1 .resolved)), issuing_of (by decide +kernel), names_of (by decide +kernel),
      by decide +kernel, unrecorded_of (by decide +kernel), ⟨by decide +kernel, ⟨by decide +kernel, ⟨by decide +kernel,
      ⟨by decide +kernel, ⟨by decide +kernel, by decide +kernel⟩⟩⟩⟩⟩, by decide +kernel⟩
  · exact ⟨((fu .poisoned)), 0, 5, 14, 6, 14, ((fu1 .poisoned)), issuing_of (by decide +kernel), names_of (by decide +kernel),
      by decide +kernel, unrecorded_of (by decide +kernel), ⟨by decide +kernel, ⟨by decide +kernel, ⟨by decide +kernel,
      ⟨by decide +kernel, ⟨by decide +kernel, by decide +kernel⟩⟩⟩⟩⟩, by decide +kernel⟩
  · exact ⟨((fu .cancelled)), 0, 5, 14, 6, 14, ((fu1 .cancelled)), issuing_of (by decide +kernel), names_of (by decide +kernel),
      by decide +kernel, unrecorded_of (by decide +kernel), ⟨by decide +kernel, ⟨by decide +kernel, ⟨by decide +kernel,
      ⟨by decide +kernel, ⟨by decide +kernel, by decide +kernel⟩⟩⟩⟩⟩, by decide +kernel⟩
  · exact ⟨((fu .pending)), 0, 5, 14, 6, 14, ((fu1 .pending)), issuing_of (by decide +kernel), names_of (by decide +kernel),
      by decide +kernel, unrecorded_of (by decide +kernel), ⟨by decide +kernel, ⟨by decide +kernel, ⟨by decide +kernel,
      ⟨by decide +kernel, ⟨by decide +kernel, by decide +kernel⟩⟩⟩⟩⟩, by decide +kernel⟩
  · exact ⟨((fuh .pending)), 0, 5, 14, 6, 14, ((fu1 .pending)), issuing_of (by decide +kernel), names_of (by decide +kernel),
      by decide +kernel, unrecorded_of (by decide +kernel), ⟨by decide +kernel, ⟨by decide +kernel, ⟨by decide +kernel,
      ⟨by decide +kernel, ⟨by decide +kernel, by decide +kernel⟩⟩⟩⟩⟩, by decide +kernel⟩
  · exact ⟨((fuh .pending)), 0, 5, 15, 6, 15, issuing_of (by decide +kernel), names_of (by decide +kernel), by decide +kernel,
      unrecorded_of (by decide +kernel), by decide +kernel⟩
  · exact ⟨((wa .pending .poisoned)), 0, 5, 14, 2, 1, issuing_of (by decide +kernel), names_of (by decide +kernel),
      unrecorded_of (by decide +kernel), by unfold Ready; decide +kernel⟩
  · exact ⟨((wah .pending .pending)), 0, 5, 14, 2, issuing_of (by decide +kernel), names_of (by decide +kernel),
      unrecorded_of (by decide +kernel), by unfold Ready; decide +kernel⟩

theorem witness_FutureOperations_1 :
    (∃ (s : State) (tid : Nat) (d : BitVec 7) (a : BitVec 7) (b : BitVec 7) (c : BitVec 5) (e : BitVec 5), Issuing s tid ∧
      (Names s tid [d.toNat, a.toNat, b.toNat, c.toNat, e.toNat]) ∧ Unrecorded s tid ∧ ((s.task tid).handler = false) ∧
      (1 < BitVec.toNat (Reads s tid a.toNat))) ∧
    (∃ (s : State) (tid : Nat) (d : BitVec 7) (a : BitVec 7) (b : BitVec 7) (c : BitVec 5) (e : BitVec 5) (f : Fut),
      Issuing s tid ∧ (Names s tid [d.toNat, a.toNat, b.toNat, c.toNat, e.toNat]) ∧ Unrecorded s tid ∧
      (isHandle (Reads s tid a.toNat) = true ∧ isLocal s (Reads s tid a.toNat) = true ∧
      hCl (Reads s tid a.toNat) = (s.task tid).core / 8 ∧
      mfind (s.cluster ((s.task tid).core / 8)).lost (hIdx (Reads s tid a.toNat)) = none ∧
      futFind (s.cluster ((s.task tid).core / 8)) (hIdx (Reads s tid a.toNat)) (hGen (Reads s tid a.toNat)) = some f ∧
      f.ctx = (s.task tid).ctx) ∧ (relReady s tid 5 = true) ∧ (f.st = FState.pending) ∧ (f.prod = Prod.empty) ∧
      (1 ≤ BitVec.toNat (Reads s tid b.toNat)) ∧ (BitVec.toNat (Reads s tid b.toNat) < 256)) ∧
    (∃ (s : State) (tid : Nat) (d : BitVec 7) (a : BitVec 7) (b : BitVec 7) (c : BitVec 5) (e : BitVec 5) (f : Fut),
      Issuing s tid ∧ (Names s tid [d.toNat, a.toNat, b.toNat, c.toNat, e.toNat]) ∧ Unrecorded s tid ∧
      (isHandle (Reads s tid e.toNat) = true ∧ isLocal s (Reads s tid e.toNat) = true ∧
      hCl (Reads s tid e.toNat) = (s.task tid).core / 8 ∧
      mfind (s.cluster ((s.task tid).core / 8)).lost (hIdx (Reads s tid e.toNat)) = none ∧
      futFind (s.cluster ((s.task tid).core / 8)) (hIdx (Reads s tid e.toNat)) (hGen (Reads s tid e.toNat)) = some f ∧
      f.ctx = (s.task tid).ctx) ∧ (f.st = FState.pending)) ∧
    (∃ (s : State) (tid : Nat) (d : BitVec 7) (a : BitVec 7) (b : BitVec 7) (c : BitVec 5) (e : BitVec 5) (f : Fut),
      Issuing s tid ∧ (Names s tid [d.toNat, a.toNat, b.toNat, c.toNat, e.toNat]) ∧ Unrecorded s tid ∧
      (isHandle (Reads s tid a.toNat) = true ∧ isLocal s (Reads s tid a.toNat) = true ∧
      hCl (Reads s tid a.toNat) = (s.task tid).core / 8 ∧
      mfind (s.cluster ((s.task tid).core / 8)).lost (hIdx (Reads s tid a.toNat)) = none ∧
      futFind (s.cluster ((s.task tid).core / 8)) (hIdx (Reads s tid a.toNat)) (hGen (Reads s tid a.toNat)) = some f ∧
      f.ctx = (s.task tid).ctx) ∧ (relReady s tid 5 = true) ∧ (f.st ≠ FState.pending)) ∧
    (∃ (s : State) (tid : Nat) (d : BitVec 7) (a : BitVec 7) (b : BitVec 7) (c : BitVec 5) (e : BitVec 5) (f : Fut),
      Issuing s tid ∧ (Names s tid [d.toNat, a.toNat, b.toNat, c.toNat, e.toNat]) ∧ Unrecorded s tid ∧
      (isHandle (Reads s tid a.toNat) = true ∧ isLocal s (Reads s tid a.toNat) = true ∧
      hCl (Reads s tid a.toNat) = (s.task tid).core / 8 ∧
      mfind (s.cluster ((s.task tid).core / 8)).lost (hIdx (Reads s tid a.toNat)) = none ∧
      futFind (s.cluster ((s.task tid).core / 8)) (hIdx (Reads s tid a.toNat)) (hGen (Reads s tid a.toNat)) = some f ∧
      f.ctx = (s.task tid).ctx) ∧ (relReady s tid 5 = true) ∧ (f.st = FState.pending) ∧ (f.prod ≠ Prod.empty)) := by
  refine ⟨?_, ?_, ?_, ?_, ?_⟩
  · exact ⟨fxs, 0, 5, 14, 15, 6, 14, issuing_of (by decide +kernel), names_of (by decide +kernel),
      unrecorded_of (by decide +kernel), by decide +kernel⟩
  · exact ⟨((fu .pending)), 0, 5, 14, 15, 6, 14, ((fu1 .pending)), issuing_of (by decide +kernel), names_of (by decide +kernel),
      unrecorded_of (by decide +kernel), ⟨by decide +kernel, ⟨by decide +kernel, ⟨by decide +kernel, ⟨by decide +kernel,
      ⟨by decide +kernel, by decide +kernel⟩⟩⟩⟩⟩, by decide +kernel, by decide +kernel, rfl, by decide +kernel⟩
  · exact ⟨fxs, 0, 5, 14, 15, 6, 14, fx, issuing_of (by decide +kernel), names_of (by decide +kernel),
      unrecorded_of (by decide +kernel), ⟨by decide +kernel, ⟨by decide +kernel, ⟨by decide +kernel, ⟨by decide +kernel,
      ⟨by decide +kernel, by decide +kernel⟩⟩⟩⟩⟩, by decide +kernel⟩
  · exact ⟨((fu .resolved)), 0, 5, 14, 15, 6, 14, ((fu1 .resolved)), issuing_of (by decide +kernel), names_of (by decide +kernel),
      unrecorded_of (by decide +kernel), ⟨by decide +kernel, ⟨by decide +kernel, ⟨by decide +kernel, ⟨by decide +kernel,
      ⟨by decide +kernel, by decide +kernel⟩⟩⟩⟩⟩, by decide +kernel⟩
  · exact ⟨fxs, 0, 5, 14, 15, 6, 14, fx, issuing_of (by decide +kernel), names_of (by decide +kernel),
      unrecorded_of (by decide +kernel), ⟨by decide +kernel, ⟨by decide +kernel, ⟨by decide +kernel, ⟨by decide +kernel,
      ⟨by decide +kernel, by decide +kernel⟩⟩⟩⟩⟩, by decide +kernel⟩

theorem witness_Barriers_1 :
    (∃ (s : State) (tid : Nat) (k : Nat) (o : Nat) (d : BitVec 7) (a : BitVec 7) (b : BitVec 7), Issuing s tid ∧
      (Names s tid [d.toNat, a.toNat, b.toNat]) ∧ (BitVec.toNat (Reads s tid a.toNat) / 2 ^ 52 % 8 = 0) ∧
      (BitVec.toNat (Reads s tid a.toNat) % 2 ^ 52 / 2 ^ 48 % 16 = 15) ∧
      (BitVec.toNat (Reads s tid a.toNat) % 2 ^ 52 % 16 = 0) ∧
      (portPlace s tid (BitVec.toNat (Reads s tid a.toNat) % 2 ^ 52) 16 1 = Except.ok (k, o)) ∧
      (0 < BitVec.toNat (Reads s tid b.toNat)) ∧ (BitVec.toNat (Reads s tid b.toNat) < 2 ^ 20) ∧
      (BitVec.toNat (uaWord s k (s.task tid).ctx (o + 8)) / 2 ^ 47 % 2 = 0)) ∧
    (∃ (s : State) (tid : Nat) (k : Nat) (o : Nat) (d : BitVec 7) (a : BitVec 7) (b : BitVec 7), Issuing s tid ∧
      (Names s tid [d.toNat, a.toNat, b.toNat]) ∧ (BitVec.toNat (Reads s tid a.toNat) / 2 ^ 52 % 8 = 0) ∧
      (BitVec.toNat (Reads s tid a.toNat) % 2 ^ 52 / 2 ^ 48 % 16 = 15) ∧
      (BitVec.toNat (Reads s tid a.toNat) % 2 ^ 52 % 16 = 0) ∧
      (portPlace s tid (BitVec.toNat (Reads s tid a.toNat) % 2 ^ 52) 16 1 = Except.ok (k, o)) ∧
      (BitVec.toNat (Reads s tid b.toNat) < 2 ^ 19) ∧ (BitVec.toNat (Reads s tid b.toNat) / 2 ^ 16 ≤ 5) ∧
      (BitVec.toNat (Reads s tid b.toNat) % 2 ^ 16 ≠ BitVec.toNat (uaWord s k (s.task tid).ctx (o + 8)) / 2 ^ 48)) ∧
    (∃ (s : State) (tid : Nat) (k : Nat) (o : Nat) (d : BitVec 7) (a : BitVec 7) (b : BitVec 7), Issuing s tid ∧
      (Names s tid [d.toNat, a.toNat, b.toNat]) ∧ (BitVec.toNat (Reads s tid a.toNat) / 2 ^ 52 % 8 = 0) ∧
      (BitVec.toNat (Reads s tid a.toNat) % 2 ^ 52 / 2 ^ 48 % 16 = 15) ∧
      (BitVec.toNat (Reads s tid a.toNat) % 2 ^ 52 % 16 = 0) ∧
      (portPlace s tid (BitVec.toNat (Reads s tid a.toNat) % 2 ^ 52) 16 1 = Except.ok (k, o)) ∧
      (BitVec.toNat (Reads s tid b.toNat) < 2 ^ 19) ∧ (BitVec.toNat (Reads s tid b.toNat) / 2 ^ 16 ≤ 5) ∧
      (relReady s tid (BitVec.toNat (Reads s tid b.toNat) / 2 ^ 16) = true) ∧
      (BitVec.toNat (uaWord s k (s.task tid).ctx o) / 2 ^ 40 % 2 ^ 20 = 0 ∨ BitVec.toNat (Reads s tid b.toNat) % 2 ^ 16 ≠ BitVec.toNat (uaWord s k (s.task tid).ctx (o + 8)) / 2 ^ 48)) ∧
    (∃ (s : State) (tid : Nat) (k : Nat) (o : Nat) (d : BitVec 7) (a : BitVec 7) (b : BitVec 7), Issuing s tid ∧
      (Names s tid [d.toNat, a.toNat, b.toNat]) ∧ (BitVec.toNat (Reads s tid a.toNat) / 2 ^ 52 % 8 = 0) ∧
      (BitVec.toNat (Reads s tid a.toNat) % 2 ^ 52 / 2 ^ 48 % 16 = 15) ∧
      (BitVec.toNat (Reads s tid a.toNat) % 2 ^ 52 % 16 = 0) ∧
      (portPlace s tid (BitVec.toNat (Reads s tid a.toNat) % 2 ^ 52) 16 1 = Except.ok (k, o)) ∧
      (BitVec.toNat (Reads s tid b.toNat) < 2 ^ 19) ∧ (BitVec.toNat (Reads s tid b.toNat) / 2 ^ 16 ≤ 5) ∧
      (relReady s tid (BitVec.toNat (Reads s tid b.toNat) / 2 ^ 16) = true) ∧
      (BitVec.toNat (uaWord s k (s.task tid).ctx o) / 2 ^ 40 % 2 ^ 20 ≠ 0) ∧
      (BitVec.toNat (Reads s tid b.toNat) % 2 ^ 16 = BitVec.toNat (uaWord s k (s.task tid).ctx (o + 8)) / 2 ^ 48) ∧
      (BitVec.toNat (uaWord s k (s.task tid).ctx o) % 2 ^ 20 + 1 < 2 ^ 20) ∧
      (BitVec.toNat (uaWord s k (s.task tid).ctx o) % 2 ^ 20 + 1 ≠ BitVec.toNat (uaWord s k (s.task tid).ctx o) / 2 ^ 40 % 2 ^ 20)) ∧
    (∃ (s : State) (s2 : State) (tid : Nat) (k : Nat) (o : Nat) (d : BitVec 7) (a : BitVec 7) (b : BitVec 7) (h : Word),
      Issuing s tid ∧ (Names s tid [d.toNat, a.toNat, b.toNat]) ∧ (BitVec.toNat (Reads s tid a.toNat) / 2 ^ 52 % 8 = 0) ∧
      (BitVec.toNat (Reads s tid a.toNat) % 2 ^ 52 / 2 ^ 48 % 16 = 15) ∧
      (BitVec.toNat (Reads s tid a.toNat) % 2 ^ 52 % 16 = 0) ∧
      (portPlace s tid (BitVec.toNat (Reads s tid a.toNat) % 2 ^ 52) 16 1 = Except.ok (k, o)) ∧
      (BitVec.toNat (Reads s tid b.toNat) < 2 ^ 19) ∧ (BitVec.toNat (Reads s tid b.toNat) / 2 ^ 16 ≤ 5) ∧
      (BitVec.toNat (Reads s tid b.toNat) % 2 ^ 16 = BitVec.toNat (uaWord s k (s.task tid).ctx (o + 8)) / 2 ^ 48) ∧
      (BitVec.toNat (uaWord s k (s.task tid).ctx o) / 2 ^ 40 % 2 ^ 20 ≠ 0) ∧ ((s.task tid).handler = false) ∧
      (locksHeld s tid = 0) ∧ (BitVec.toNat (uaWord s k (s.task tid).ctx (o + 8)) / 2 ^ 47 % 2 = 0) ∧
      (allocFut s (k / 8) (s.task tid).ctx (s.task tid).launch Prod.empty false true = Alloc.got h s2)) ∧
    (∃ (s : State) (tid : Nat) (k : Nat) (o : Nat) (d : BitVec 7) (a : BitVec 7) (b : BitVec 7), Issuing s tid ∧
      (Names s tid [d.toNat, a.toNat, b.toNat]) ∧ (BitVec.toNat (Reads s tid a.toNat) / 2 ^ 52 % 8 = 0) ∧
      (BitVec.toNat (Reads s tid a.toNat) % 2 ^ 52 / 2 ^ 48 % 16 = 15) ∧
      (BitVec.toNat (Reads s tid a.toNat) % 2 ^ 52 % 16 = 0) ∧
      (portPlace s tid (BitVec.toNat (Reads s tid a.toNat) % 2 ^ 52) 16 1 = Except.ok (k, o)) ∧
      (BitVec.toNat (Reads s tid b.toNat) < 2 ^ 19) ∧ (BitVec.toNat (Reads s tid b.toNat) / 2 ^ 16 ≤ 5) ∧
      (relReady s tid (BitVec.toNat (Reads s tid b.toNat) / 2 ^ 16) = true) ∧
      (BitVec.toNat (uaWord s k (s.task tid).ctx o) / 2 ^ 40 % 2 ^ 20 ≠ 0) ∧
      (BitVec.toNat (Reads s tid b.toNat) % 2 ^ 16 = BitVec.toNat (uaWord s k (s.task tid).ctx (o + 8)) / 2 ^ 48) ∧
      (BitVec.toNat (uaWord s k (s.task tid).ctx o) % 2 ^ 20 + 1 = BitVec.toNat (uaWord s k (s.task tid).ctx o) / 2 ^ 40 % 2 ^ 20) ∧
      (BitVec.toNat (uaWord s k (s.task tid).ctx (o + 8)) / 2 ^ 47 % 2 = 0)) := by
  refine ⟨?_, ?_, ?_, ?_, ?_, ?_⟩
  · exact ⟨((br 0 (5 * 2^48) 7)), 0, 0, 128, 5, 14, 15, issuing_of (by decide +kernel), names_of (by decide +kernel),
      and3 (by decide +kernel) ⟨rfl, by decide +kernel⟩⟩
  · exact ⟨((br 0 (5 * 2^48) 7)), 0, 0, 128, 5, 14, 15, issuing_of (by decide +kernel), names_of (by decide +kernel),
      and3 (by decide +kernel) ⟨rfl, by decide +kernel⟩⟩
  · exact ⟨((br 0 (5 * 2^48) 7)), 0, 0, 128, 5, 14, 15, issuing_of (by decide +kernel), names_of (by decide +kernel),
      and3 (by decide +kernel) ⟨rfl, by decide +kernel⟩⟩
  · exact ⟨((br (3 * 2^40) (5 * 2^48) 5)), 0, 0, 128, 5, 14, 15, issuing_of (by decide +kernel), names_of (by decide +kernel),
      and3 (by decide +kernel) ⟨rfl, by decide +kernel⟩⟩
  · exact ⟨((br (3 * 2^40) (5 * 2^48) 5)), _, 0, 0, 128, 5, 14, 15, _, issuing_of (by decide +kernel),
      names_of (by decide +kernel), and3 (by decide +kernel) ⟨rfl, and5 (by decide +kernel) ⟨by decide +kernel,
      by decide +kernel, rfl⟩⟩⟩
  · exact ⟨((br (1 * 2^40) (0xFFFF * 2^48) 0xFFFF)), 0, 0, 128, 5, 14, 15, issuing_of (by decide +kernel),
      names_of (by decide +kernel), and3 (by decide +kernel) ⟨rfl, by decide +kernel⟩⟩

theorem witness_MessagesTimeAndLinks_1 :
    (∃ (s : State) (tid : Nat) (d : BitVec 7) (a : BitVec 7) (b : BitVec 7), Issuing s tid ∧ (Names s tid [d.toNat, a.toNat,
      b.toNat]) ∧ (isCoreDesc (Reads s tid a.toNat) = false)) ∧
    (∃ (s : State) (tid : Nat) (d : BitVec 7) (a : BitVec 7) (b : BitVec 7), Issuing s tid ∧ (Names s tid [d.toNat, a.toNat,
      b.toNat]) ∧ ((s.task tid).handler = false)) ∧
    (∃ (s : State) (tid : Nat) (d : BitVec 7) (a : BitVec 7) (b : BitVec 7), Issuing s tid ∧ (Names s tid [d.toNat, a.toNat,
      b.toNat]) ∧ Unrecorded s tid ∧ (BitVec.toNat (Reads s tid a.toNat) ≤ BitVec.toNat (s.time ((s.task tid).core / 896)))) ∧
    (∃ (s : State) (tid : Nat) (d : BitVec 7) (a : BitVec 7) (b : BitVec 7), Issuing s tid ∧ (Names s tid [d.toNat, a.toNat,
      b.toNat]) ∧ ((s.task tid).handler = true) ∧ ((s.task tid).pushes = [])) ∧
    (∃ (s : State) (tid : Nat) (d : BitVec 7) (a : BitVec 7) (b : BitVec 7), Issuing s tid ∧ (Names s tid [d.toNat, a.toNat,
      b.toNat]) ∧ (BitVec.toNat (s.time ((s.task tid).core / 896)) < BitVec.toNat (Reads s tid a.toNat))) ∧
    (∃ (s : State) (s2 : State) (tid : Nat) (d : BitVec 7) (a : BitVec 7) (b : BitVec 7) (h : Word), Issuing s tid ∧
      (Names s tid [d.toNat, a.toNat, b.toNat]) ∧ (∀ (i : Nat), 3 ≤ i → i ≤ 8 → Ready s tid i) ∧ (tid < s.nextId) ∧
      (∀ e ∈ s.tasks, e.1 < s.nextId) ∧ ((s.task tid).handler = false) ∧ ((s.task tid).link = none) ∧
      (BitVec.toNat (Reads s tid a.toNat) % 2 ^ 52 % 2 = 0) ∧
      (BitVec.toNat (Reads s tid a.toNat) % 2 ^ 52 / 2 ^ 48 % 16 ≠ 15) ∧ (BitVec.toNat (Reads s tid b.toNat) ≤ 1) ∧
      (slotRuns s (s.task tid).core (s.task tid).ctx (classRegs (s.task tid).cls) ≠ []) ∧
      (poolRoom s (s.task tid).ctx 1280 = true) ∧
      (allocFut ({ s with nextId := s.nextId + 1 } : State) ((s.task tid).core / 8) (s.task tid).ctx (s.task tid).launch (Prod.task s.nextId) = Alloc.got h s2) ∧
      (relReady s2 tid 3 = true)) := by
  refine ⟨?_, ?_, ?_, ?_, ?_, ?_⟩
  · exact ⟨((mk (rgs [(14, 0), (15, 0)] { tk with mpOut := [1, 2] }))), 0, 5, 14, 15, issuing_of (by decide +kernel),
      names_of (by decide +kernel), by decide +kernel⟩
  · exact ⟨((mk (rgs [(14, 0), (15, 0)] { tk with mpOut := [1, 2] }))), 0, 5, 14, 15, issuing_of (by decide +kernel),
      names_of (by decide +kernel), by decide +kernel⟩
  · exact ⟨((mk (rgs [(14, 0), (15, 0)] { tk with mpOut := [1, 2] }))), 0, 5, 14, 15, issuing_of (by decide +kernel),
      names_of (by decide +kernel), unrecorded_of (by decide +kernel), by decide +kernel⟩
  · exact ⟨((mk (rgs [(14, 0xFFFFFFFFFFFFFFFF), (15, 0)] { tk with handler := true }))), 0, 5, 14, 15,
      issuing_of (by decide +kernel), names_of (by decide +kernel), by decide +kernel⟩
  · exact ⟨((mk (rgs [(14, 0xFFFFFFFFFFFFFFFF), (15, 0)] { tk with handler := true }))), 0, 5, 14, 15,
      issuing_of (by decide +kernel), names_of (by decide +kernel), by decide +kernel⟩
  · exact ⟨((mk (rgs [(14, 0x2000), (15, 1)] tk))), _, 0, 5, 14, 15, _, issuing_of (by decide +kernel),
      names_of (by decide +kernel), by unfold Ready; decide +kernel, and5 (by decide +kernel) (and4 (by decide +kernel) ⟨rfl,
      by decide +kernel⟩)⟩

end C7

namespace C8

def cla : Claim := { frame := some 0, req := 3, g := 2, vl := 8, v := [(0, 3), (1, 0xFFFFFFF9), (2, 250), (3, 0x40490FDB), (256, 2), (257, 0xFFFFFFFE), (258, 0), (259, 0x3F800000)], vm := [(1, 0x0B)] }

def vs (c : Claim) : State := mk (rgs [(14, 20), (15, 3)] { tk with claim := some c })

theorem witness_MessagesTimeAndLinks_2 : ∃ (s : State) (tid : Nat) (d : BitVec 7) (a : BitVec 7) (b : BitVec 7), Issuing s tid ∧ (Names s tid [d.toNat, a.toNat,
    b.toNat]) ∧ (isCoreDesc (Reads s tid a.toNat) = true) ∧
    (BitVec.toNat (Reads s tid a.toNat) / 2 ^ 40 % 2 ^ 20 = s.peers.chip.toNat) ∧
    (Reads s tid b.toNat = 0 ∨ isHandle (Reads s tid b.toNat) = true) ∧ ((s.task tid).mpOut ≠ []) ∧
    ((s.task tid).pushes = []) ∧ ((s.core (s.task tid).core).sendBufs < 16) ∧ (relReady s tid 5 = true) := by
  exact ⟨((mk (rgs [(14, 0xA000000008000000), (15, 0x9000000000000000)] { tk with mpOut := [1, 2] }))), 0, 5, 14, 15,
    issuing_of (by decide +kernel), names_of (by decide +kernel), by decide +kernel⟩

theorem witness_VectorClaims_1 :
    (∃ (s : State) (tid : Nat) (d : BitVec 7) (a : BitVec 7) (v : BitVec 4) (t3 : BitVec 3), Issuing s tid ∧
      (Names s tid [d.toNat, a.toNat]) ∧ (t3.toNat ≤ 5) ∧ (Ready s tid (128 + v.toNat)) ∧ Ready s tid 144 ∧
      ((s.task tid).handler = false) ∧ ((s.task tid).claim = none) ∧
      (mayFrame (settleMark s ((s.task tid).core / 8)) ((s.task tid).core / 8) (s.task tid).ctx false = true) ∧
      (poolRoom (settleMark s ((s.task tid).core / 8)) (s.task tid).ctx 17408 = true)) ∧
    (∃ (s : State) (tid : Nat) (d : BitVec 7) (a : BitVec 7) (v : BitVec 4) (t3 : BitVec 3) (c : Claim), Issuing s tid ∧
      (Names s tid [d.toNat, a.toNat]) ∧ (t3.toNat ≤ 5) ∧ (Ready s tid (128 + v.toNat)) ∧ Ready s tid 144 ∧
      ((s.task tid).handler = false) ∧ ((s.task tid).claim = some c)) ∧
    (∃ (s : State) (tid : Nat) (d : BitVec 7) (a : BitVec 7) (v : BitVec 4) (t3 : BitVec 3), Issuing s tid ∧
      (Names s tid [d.toNat, a.toNat]) ∧ (t3.toNat ≤ 5) ∧ (Ready s tid (128 + v.toNat)) ∧ Ready s tid 144 ∧
      ((s.task tid).handler = true)) ∧
    (∃ (s : State) (tid : Nat) (els : List Nat) (c : Claim), ((s.task tid).claim = some c) ∧ (mrising c.v = true) ∧
      (∀ j ∈ els, j < 256)) := by
  refine ⟨?_, ?_, ?_, ?_⟩
  · exact ⟨st, 0, 5, 3, 4, 5, issuing_of (by decide +kernel), names_of (by decide +kernel), by unfold Ready; decide +kernel⟩
  · exact ⟨((vs cla)), 0, 5, 14, 0, 5, cla, issuing_of (by decide +kernel), names_of (by decide +kernel),
      by unfold Ready; decide +kernel⟩
  · exact ⟨((mk { tk with handler := true })), 0, 5, 15, 0, 2, issuing_of (by decide +kernel), names_of (by decide +kernel),
      by unfold Ready; decide +kernel⟩
  · exact ⟨((vs cla)), 0, ([0, 1, 2]), cla, by decide +kernel⟩

end C8

namespace C9

def lau : Launch := { ctx := 0, queue := 0, hdr := [0, 0, 0, 0, 0, 0, 0, 0x1000000007], st := .running }

def par : State := { mk (rgs [(16, 4), (17, 0x2000), (24, 11), (25, 22)] { tk with launch := some 3 }) with launches := [(3, lau)] }

def cla : Claim := { frame := some 0, req := 3, g := 2, vl := 4, v := [(0, 3), (1, 0xFFFFFFF9), (2, 250), (3, 0x40490FDB), (256, 2), (257, 0xFFFFFFFE), (258, 0), (259, 0x3F800000), (512, 0x11111111), (513, 0x40000000)], vm := [(0, 0xFE), (1, 0x0B)] }

def vs (c : Claim) : State := mk (rgs [(14, 20), (15, 3), (16,0x10000)] { tk with claim := some c })

def vm (p : Word) (c : Claim) : State := mk (rgs [(14, p), (15, 8), (16,0x10000)] { tk with claim := some c })

theorem witness_SpawnsAndEnds_3 :
    (∃ (s : State) (s2 : State) (tid : Nat) (d : BitVec 7) (a : BitVec 7) (b : BitVec 7) (e : BitVec 7) (f : BitVec 7)
      (c : BitVec 3) (n : BitVec 3) (h : Word), Issuing s tid ∧ (Names s tid [d.toNat, a.toNat, b.toNat, f.toNat]) ∧
      (∀ i < n.toNat, e.toNat + i < 120 ∧ e.toNat + i ≤ (s.task tid).limit ∧ Ready s tid (e.toNat + i)) ∧ (∀ (i : Nat),
      3 ≤ i → i ≤ 8 → Ready s tid i) ∧ (tid < s.nextId) ∧
      (({ entry := BitVec.toNat (Reads s tid a.toNat) % 2 ^ 52, cls := c.toNat, args := spawnArgs s tid e.toNat n.toNat c.toNat, tiles := Reads s tid b.toNat, range := none, trap := false } : SpawnReq).range = none) ∧
      (spawnChecks s tid ({ entry := BitVec.toNat (Reads s tid a.toNat) % 2 ^ 52, cls := c.toNat, args := spawnArgs s tid e.toNat n.toNat c.toNat, tiles := Reads s tid b.toNat, range := none, trap := false } : SpawnReq) = Except.ok () ∧
      pushFails s (s.task tid).core (s.task tid).ctx = false ∧ relReady s2 tid 3 = true ∧
      allocFut ({ s with nextId := s.nextId + 1 } : State) ((s.task tid).core / 8) (s.task tid).ctx (s.task tid).launch (Prod.task s.nextId) = Alloc.got h s2)) ∧
    (∃ (s : State) (s2 : State) (tid : Nat) (d : BitVec 7) (a : BitVec 7) (b : BitVec 7) (e : BitVec 7) (f : BitVec 7)
      (c : BitVec 3) (n : BitVec 3) (h : Word), Issuing s tid ∧ (Names s tid [d.toNat, a.toNat, b.toNat, f.toNat]) ∧
      (∀ i < n.toNat, e.toNat + i < 120 ∧ e.toNat + i ≤ (s.task tid).limit ∧ Ready s tid (e.toNat + i)) ∧ (∀ (i : Nat),
      3 ≤ i → i ≤ 8 → Ready s tid i) ∧ (tid < s.nextId) ∧
      (({ ({ entry := BitVec.toNat (Reads s tid a.toNat) % 2 ^ 52, cls := c.toNat, args := spawnArgs s tid e.toNat n.toNat c.toNat, tiles := Reads s tid b.toNat, range := none, trap := false } : SpawnReq) with trap := true } : SpawnReq).range = none) ∧
      (spawnChecks s tid ({ ({ entry := BitVec.toNat (Reads s tid a.toNat) % 2 ^ 52, cls := c.toNat, args := spawnArgs s tid e.toNat n.toNat c.toNat, tiles := Reads s tid b.toNat, range := none, trap := false } : SpawnReq) with trap := true } : SpawnReq) = Except.ok () ∧
      pushFails s (s.task tid).core (s.task tid).ctx = false ∧ relReady s2 tid 3 = true ∧
      allocFut ({ s with nextId := s.nextId + 1 } : State) ((s.task tid).core / 8) (s.task tid).ctx (s.task tid).launch (Prod.task s.nextId) = Alloc.got h s2)) ∧
    (∃ (s : State) (s2 : State) (tid : Nat) (d : BitVec 7) (a : BitVec 7) (b : BitVec 7) (e : BitVec 7) (f : BitVec 7)
      (c : BitVec 3) (n : BitVec 3) (h : Word), Issuing s tid ∧ (Names s tid [d.toNat, a.toNat, b.toNat, f.toNat]) ∧
      (∀ i < n.toNat, e.toNat + i < 120 ∧ e.toNat + i ≤ (s.task tid).limit ∧ Ready s tid (e.toNat + i)) ∧ (∀ (i : Nat),
      3 ≤ i → i ≤ 8 → Ready s tid i) ∧ (tid < s.nextId) ∧
      (({ ({ entry := BitVec.toNat (Reads s tid a.toNat) % 2 ^ 52, cls := c.toNat, args := spawnArgs s tid e.toNat n.toNat c.toNat, tiles := Reads s tid b.toNat, range := none, trap := false } : SpawnReq) with range := some (Reads s tid f.toNat) } : SpawnReq).range = some (Reads s tid f.toNat)) ∧
      (spawnChecks s tid ({ ({ entry := BitVec.toNat (Reads s tid a.toNat) % 2 ^ 52, cls := c.toNat, args := spawnArgs s tid e.toNat n.toNat c.toNat, tiles := Reads s tid b.toNat, range := none, trap := false } : SpawnReq) with range := some (Reads s tid f.toNat) } : SpawnReq) = Except.ok ()) ∧
      (pushFails s (s.task tid).core (s.task tid).ctx = false) ∧ (BitVec.toNat (Reads s tid f.toNat) % 2 ^ 32 ≠ 0) ∧
      (allocFut ({ s with nextId := s.nextId + 1 } : State) ((s.task tid).core / 8) (s.task tid).ctx (s.task tid).launch Prod.range false false (BitVec.toNat (Reads s tid f.toNat) % 2 ^ 32) = Alloc.got h s2) ∧
      (relReady s2 tid 3 = true)) ∧
    (∃ (s : State) (s2 : State) (tid : Nat) (d : BitVec 7) (a : BitVec 7) (b : BitVec 7) (e : BitVec 7) (f : BitVec 7)
      (c : BitVec 3) (n : BitVec 3) (h : Word), Issuing s tid ∧ (Names s tid [d.toNat, a.toNat, b.toNat, f.toNat]) ∧
      (∀ i < n.toNat, e.toNat + i < 120 ∧ e.toNat + i ≤ (s.task tid).limit ∧ Ready s tid (e.toNat + i)) ∧ (∀ (i : Nat),
      3 ≤ i → i ≤ 8 → Ready s tid i) ∧ (tid < s.nextId) ∧
      (({ ({ entry := BitVec.toNat (Reads s tid a.toNat) % 2 ^ 52, cls := c.toNat, args := spawnArgs s tid e.toNat n.toNat c.toNat, tiles := Reads s tid b.toNat, range := none, trap := false } : SpawnReq) with range := some (Reads s tid f.toNat), trap := true } : SpawnReq).range = some (Reads s tid f.toNat)) ∧
      (spawnChecks s tid ({ ({ entry := BitVec.toNat (Reads s tid a.toNat) % 2 ^ 52, cls := c.toNat, args := spawnArgs s tid e.toNat n.toNat c.toNat, tiles := Reads s tid b.toNat, range := none, trap := false } : SpawnReq) with range := some (Reads s tid f.toNat), trap := true } : SpawnReq) = Except.ok ()) ∧
      (pushFails s (s.task tid).core (s.task tid).ctx = false) ∧ (BitVec.toNat (Reads s tid f.toNat) % 2 ^ 32 ≠ 0) ∧
      (allocFut ({ s with nextId := s.nextId + 1 } : State) ((s.task tid).core / 8) (s.task tid).ctx (s.task tid).launch Prod.range false false (BitVec.toNat (Reads s tid f.toNat) % 2 ^ 32) = Alloc.got h s2) ∧
      (relReady s2 tid 3 = true)) := by
  refine ⟨?_, ?_, ?_, ?_⟩
  · exact ⟨par, _, 0, 5, 17, 125, 24, 16, 4, 6, _, issuing_of (by decide +kernel), names_of (by decide +kernel),
      by unfold Ready; decide +kernel, by unfold Ready; decide +kernel, by decide +kernel, by decide +kernel, ⟨rfl,
      ⟨by decide +kernel, ⟨by decide +kernel, rfl⟩⟩⟩⟩
  · exact ⟨par, _, 0, 5, 17, 125, 24, 16, 4, 6, _, issuing_of (by decide +kernel), names_of (by decide +kernel),
      by unfold Ready; decide +kernel, by unfold Ready; decide +kernel, by decide +kernel, by decide +kernel, ⟨rfl,
      ⟨by decide +kernel, ⟨by decide +kernel, rfl⟩⟩⟩⟩
  · exact ⟨par, _, 0, 5, 17, 125, 24, 16, 4, 6, _, issuing_of (by decide +kernel), names_of (by decide +kernel),
      by unfold Ready; decide +kernel, by unfold Ready; decide +kernel, by decide +kernel, by decide +kernel, rfl,
      by decide +kernel, by decide +kernel, rfl, by decide +kernel⟩
  · exact ⟨par, _, 0, 5, 17, 125, 24, 16, 4, 6, _, issuing_of (by decide +kernel), names_of (by decide +kernel),
      by unfold Ready; decide +kernel, by unfold Ready; decide +kernel, by decide +kernel, by decide +kernel, rfl,
      by decide +kernel, by decide +kernel, rfl, by decide +kernel⟩

theorem witness_VectorElementwise_1 :
    (∃ (s : State) (tid : Nat) (c : Claim) (d : BitVec 4) (a : BitVec 4) (b : BitVec 4) (e : BitVec 4) (ty : BitVec 3)
      (k : BitVec 2) (r : BitVec 7), Issuing s tid ∧ (Names s tid [r.toNat]) ∧ ((s.task tid).claim = some c) ∧ (∀ q ∈ [d, a,
      b, e], Ready s tid (128 + q.toNat)) ∧ (Ready s tid (144 + k.toNat)) ∧ (ty.toNat ≤ 2)) ∧
    (∃ (s : State) (tid : Nat) (c : Claim) (d : BitVec 4) (a : BitVec 4) (b : BitVec 4) (e : BitVec 4) (ty : BitVec 3)
      (x : BitVec 3) (k : BitVec 2) (r : BitVec 7), Issuing s tid ∧ (Names s tid [r.toNat]) ∧ ((s.task tid).claim = some c) ∧
      (∀ q ∈ [d, a, b, e], Ready s tid (128 + q.toNat)) ∧ (Ready s tid (144 + k.toNat)) ∧ (3 ≤ ty.toNat) ∧ (x = 0)) ∧
    (∃ (s : State) (tid : Nat) (c : Claim) (d : BitVec 4) (a : BitVec 4) (b : BitVec 4) (e : BitVec 4) (ty : BitVec 3)
      (x : BitVec 3) (k : BitVec 2) (r : BitVec 7), Issuing s tid ∧ (Names s tid [r.toNat]) ∧ ((s.task tid).claim = some c) ∧
      (∀ q ∈ [d, a, b, e], Ready s tid (128 + q.toNat)) ∧ (Ready s tid (144 + k.toNat)) ∧ (3 ≤ ty.toNat) ∧ (x = 1)) := by
  refine ⟨?_, ?_, ?_⟩
  · exact ⟨((vs cla)), 0, cla, 2, 0, 1, 3, 0, 1, 15, issuing_of (by decide +kernel), names_of (by decide +kernel),
      by unfold Ready; decide +kernel⟩
  · exact ⟨((vs cla)), 0, cla, 2, 0, 1, 3, 3, 0, 1, 15, issuing_of (by decide +kernel), names_of (by decide +kernel),
      by unfold Ready; decide +kernel⟩
  · exact ⟨((vs cla)), 0, cla, 2, 0, 1, 3, 4, 1, 1, 15, issuing_of (by decide +kernel), names_of (by decide +kernel),
      by unfold Ready; decide +kernel⟩

theorem witness_VectorReduceAndCompare_1 :
    (∃ (s : State) (tid : Nat) (c : Claim) (d : BitVec 4) (a : BitVec 4) (b : BitVec 4) (m : BitVec 1) (k : BitVec 2)
      (v : BitVec 2), Issuing s tid ∧ ((s.task tid).claim = some c) ∧ (∀ q ∈ [d, a, b], Ready s tid (128 + q.toNat)) ∧
      (Ready s tid (144 + k.toNat)) ∧ (Ready s tid (144 + v.toNat)) ∧ (c.vl % 32 ≠ 0 ∨ m ≠ 0)) ∧
    (∃ (s : State) (tid : Nat) (c : Claim) (d : BitVec 4) (a : BitVec 4) (b : BitVec 4) (m : BitVec 1) (k : BitVec 2)
      (v : BitVec 2), Issuing s tid ∧ ((s.task tid).claim = some c) ∧ (∀ q ∈ [d, a, b], Ready s tid (128 + q.toNat)) ∧
      (Ready s tid (144 + k.toNat)) ∧ (Ready s tid (144 + v.toNat)) ∧ (c.vl % 32 = 0) ∧ (m = 0)) := by
  refine ⟨?_, ?_⟩
  · exact ⟨((vs cla)), 0, cla, 2, 0, 1, 0, 0, 3, issuing_of (by decide +kernel), by unfold Ready; decide +kernel⟩
  · exact ⟨((vs { cla with vl := 32 })), 0, ({ cla with vl := 32 }), 2, 0, 1, 0, 1, 3, issuing_of (by decide +kernel),
      by unfold Ready; decide +kernel⟩

theorem witness_VectorMemory_1 :
    (∃ (s : State) (s1 : State) (s2 : State) (tid : Nat) (c : Claim) (d : BitVec 4) (x : BitVec 4) (a : BitVec 7)
      (b : BitVec 7) (m : BitVec 1) (k : BitVec 2) (vs : List (Nat × Nat)), Issuing s tid ∧ (Names s tid [a.toNat, b.toNat]) ∧
      ((s.task tid).claim = some c) ∧ (Ready s tid (128 + d.toNat)) ∧ (Ready s tid (128 + x.toNat)) ∧
      (Ready s tid (144 + k.toNat)) ∧ (BitVec.toNat (addrAdd (Reads s tid a.toNat) 0) / 2 ^ 52 % 8 = 0 ∧
      fmtOk (BitVec.toNat (addrAdd (Reads s tid a.toNat) 0) / 2 ^ 58) (BitVec.toNat (addrAdd (Reads s tid a.toNat) 0) / 2 ^ 55 % 8) = true) ∧
      (checkEls s tid Acc.rd false (List.map (fun x => x.2) ((fun p => List.map (fun j => (j, vAddr p j,
      vSpan p)) (c.active m.toNat k.toNat)) (addrAdd (Reads s tid a.toNat) 0))) = Except.ok s1) ∧
      (loadEls s1 tid ((fun p => List.map (fun j => (j, vAddr p j,
      vSpan p)) (c.active m.toNat k.toNat)) (addrAdd (Reads s tid a.toNat) 0)) = Except.ok (vs, s2))) ∧
    (∃ (s : State) (s1 : State) (s2 : State) (tid : Nat) (c : Claim) (d : BitVec 4) (x : BitVec 4) (a : BitVec 7)
      (b : BitVec 7) (m : BitVec 1) (k : BitVec 2) (i : BitVec 32) (vs : List (Nat × Nat)), Issuing s tid ∧
      (Names s tid [a.toNat, b.toNat]) ∧ ((s.task tid).claim = some c) ∧ (Ready s tid (128 + d.toNat)) ∧
      (Ready s tid (128 + x.toNat)) ∧ (Ready s tid (144 + k.toNat)) ∧
      (BitVec.toNat (addrAdd (Reads s tid a.toNat) (BitVec.signExtend 64 i)) / 2 ^ 52 % 8 = 0 ∧
      fmtOk (BitVec.toNat (addrAdd (Reads s tid a.toNat) (BitVec.signExtend 64 i)) / 2 ^ 58) (BitVec.toNat (addrAdd (Reads s tid a.toNat) (BitVec.signExtend 64 i)) / 2 ^ 55 % 8) = true) ∧
      (checkEls s tid Acc.rd false (List.map (fun x => x.2) ((fun p => List.map (fun j => (j, vAddr p j,
      vSpan p)) (c.active m.toNat k.toNat)) (addrAdd (Reads s tid a.toNat) (BitVec.signExtend 64 i)))) = Except.ok s1) ∧
      (loadEls s1 tid ((fun p => List.map (fun j => (j, vAddr p j,
      vSpan p)) (c.active m.toNat k.toNat)) (addrAdd (Reads s tid a.toNat) (BitVec.signExtend 64 i))) = Except.ok (vs, s2))) ∧
    (∃ (s : State) (s1 : State) (s2 : State) (tid : Nat) (c : Claim) (d : BitVec 4) (x : BitVec 4) (a : BitVec 7)
      (b : BitVec 7) (m : BitVec 1) (k : BitVec 2) (vs : List (Nat × Nat)), Issuing s tid ∧ (Names s tid [a.toNat, b.toNat]) ∧
      ((s.task tid).claim = some c) ∧ (Ready s tid (128 + d.toNat)) ∧ (Ready s tid (128 + x.toNat)) ∧
      (Ready s tid (144 + k.toNat)) ∧ ((fun p => BitVec.toNat p / 2 ^ 52 % 8 = 0 ∧
      fmtOk (BitVec.toNat p / 2 ^ 58) (BitVec.toNat p / 2 ^ 55 % 8) = true) (Reads s tid a.toNat) ∧
      BitVec.toNat (Reads s tid a.toNat) / 2 ^ 58 ≤ 8 ∧ BitVec.toNat (Reads s tid a.toNat) / 2 ^ 58 ≠ 2) ∧
      (checkEls s tid Acc.rd true (List.map (fun x => x.2) ((fun dist => List.map (fun e => (e.1, e.2,
      vElemSize (BitVec.toNat (Reads s tid a.toNat) / 2 ^ 58))) ((fun dist => List.map (fun j => (j,
      ((Nat.cast (R := Int) (BitVec.toNat (Reads s tid a.toNat) % 2 ^ 52) + dist j) % 2 ^ 52).toNat)) (c.active m.toNat k.toNat)) dist)) fun j => ↑j * BitVec.toInt (Reads s tid b.toNat))) = Except.ok s1) ∧
      (loadEls s1 tid ((fun dist => List.map (fun e => (e.1, e.2,
      vElemSize (BitVec.toNat (Reads s tid a.toNat) / 2 ^ 58))) ((fun dist => List.map (fun j => (j,
      ((Nat.cast (R := Int) (BitVec.toNat (Reads s tid a.toNat) % 2 ^ 52) + dist j) % 2 ^ 52).toNat)) (c.active m.toNat k.toNat)) dist)) fun j => ↑j * BitVec.toInt (Reads s tid b.toNat)) = Except.ok (vs,
      s2))) ∧
    (∃ (s : State) (s1 : State) (s2 : State) (tid : Nat) (c : Claim) (d : BitVec 4) (x : BitVec 4) (a : BitVec 7)
      (b : BitVec 7) (m : BitVec 1) (k : BitVec 2), Issuing s tid ∧ (Names s tid [a.toNat, b.toNat]) ∧
      ((s.task tid).claim = some c) ∧ (Ready s tid (128 + d.toNat)) ∧ (Ready s tid (128 + x.toNat)) ∧
      (Ready s tid (144 + k.toNat)) ∧ ((fun p => BitVec.toNat p / 2 ^ 52 % 8 = 0 ∧
      fmtOk (BitVec.toNat p / 2 ^ 58) (BitVec.toNat p / 2 ^ 55 % 8) = true) (addrAdd (Reads s tid a.toNat) 0) ∧
      BitVec.toNat (addrAdd (Reads s tid a.toNat) 0) / 2 ^ 58 ≤ 8 ∧
      BitVec.toNat (addrAdd (Reads s tid a.toNat) 0) / 2 ^ 58 ≠ 2) ∧ (checkEls s tid Acc.wr false (List.map (fun e => (e.2,
      vElemSize (BitVec.toNat (addrAdd (Reads s tid a.toNat) 0) / 2 ^ 58))) (List.map (fun j => (j,
      vAddr (addrAdd (Reads s tid a.toNat) 0) j)) (c.active m.toNat k.toNat))) = Except.ok s1) ∧
      (vStoreAll tid ((fun els => lineBeats c els) (List.map (fun j => (vAddr (addrAdd (Reads s tid a.toNat) 0) j,
      vElemSize (BitVec.toNat (addrAdd (Reads s tid a.toNat) 0) / 2 ^ 58))) (c.active m.toNat k.toNat))) c d.toNat (BitVec.toNat (addrAdd (Reads s tid a.toNat) 0) / 2 ^ 58) (List.map (fun j => (j,
      vAddr (addrAdd (Reads s tid a.toNat) 0) j)) (c.active m.toNat k.toNat)) s1 = Except.ok s2)) ∧
    (∃ (s : State) (s1 : State) (s2 : State) (tid : Nat) (c : Claim) (d : BitVec 4) (x : BitVec 4) (a : BitVec 7)
      (b : BitVec 7) (m : BitVec 1) (k : BitVec 2) (i : BitVec 32), Issuing s tid ∧ (Names s tid [a.toNat, b.toNat]) ∧
      ((s.task tid).claim = some c) ∧ (Ready s tid (128 + d.toNat)) ∧ (Ready s tid (128 + x.toNat)) ∧
      (Ready s tid (144 + k.toNat)) ∧ ((fun p => BitVec.toNat p / 2 ^ 52 % 8 = 0 ∧
      fmtOk (BitVec.toNat p / 2 ^ 58) (BitVec.toNat p / 2 ^ 55 % 8) = true) (addrAdd (Reads s tid a.toNat) (BitVec.signExtend 64 i)) ∧
      BitVec.toNat (addrAdd (Reads s tid a.toNat) (BitVec.signExtend 64 i)) / 2 ^ 58 ≤ 8 ∧
      BitVec.toNat (addrAdd (Reads s tid a.toNat) (BitVec.signExtend 64 i)) / 2 ^ 58 ≠ 2) ∧
      (checkEls s tid Acc.wr false (List.map (fun e => (e.2,
      vElemSize (BitVec.toNat (addrAdd (Reads s tid a.toNat) (BitVec.signExtend 64 i)) / 2 ^ 58))) (List.map (fun j => (j,
      vAddr (addrAdd (Reads s tid a.toNat) (BitVec.signExtend 64 i)) j)) (c.active m.toNat k.toNat))) = Except.ok s1) ∧
      (vStoreAll tid ((fun els => lineBeats c els) (List.map (fun j => (vAddr (addrAdd (Reads s tid a.toNat) (BitVec.signExtend 64 i)) j,
      vElemSize (BitVec.toNat (addrAdd (Reads s tid a.toNat) (BitVec.signExtend 64 i)) / 2 ^ 58))) (c.active m.toNat k.toNat))) c d.toNat (BitVec.toNat (addrAdd (Reads s tid a.toNat) (BitVec.signExtend 64 i)) / 2 ^ 58) (List.map (fun j => (j,
      vAddr (addrAdd (Reads s tid a.toNat) (BitVec.signExtend 64 i)) j)) (c.active m.toNat k.toNat)) s1 = Except.ok s2)) ∧
    (∃ (s : State) (s1 : State) (s2 : State) (tid : Nat) (c : Claim) (d : BitVec 4) (x : BitVec 4) (a : BitVec 7)
      (b : BitVec 7) (m : BitVec 1) (k : BitVec 2) (parts : List (Nat × List Byte)) (s3 : State), Issuing s tid ∧
      (Names s tid [a.toNat, b.toNat]) ∧ ((s.task tid).claim = some c) ∧ (Ready s tid (128 + d.toNat)) ∧
      (Ready s tid (128 + x.toNat)) ∧ (Ready s tid (144 + k.toNat)) ∧
      (BitVec.toNat (addrAdd (Reads s tid a.toNat) 0) / 2 ^ 52 % 8 = 0 ∧
      fmtOk (BitVec.toNat (addrAdd (Reads s tid a.toNat) 0) / 2 ^ 58) (BitVec.toNat (addrAdd (Reads s tid a.toNat) 0) / 2 ^ 55 % 8) = true) ∧
      (BitVec.toNat (addrAdd (Reads s tid a.toNat) 0) / 2 ^ 58 = 2) ∧
      (checkEls s tid Acc.rw false (List.map (fun j => (vAddr (addrAdd (Reads s tid a.toNat) 0) j,
      1)) (c.active m.toNat k.toNat)) = Except.ok s1) ∧
      (nibbleBytes s1 tid (addrAdd (Reads s tid a.toNat) 0) (List.map (fun j => (j,
      (c.el d.toNat j).toNat % 16)) (c.active m.toNat k.toNat)) (List.map (fun x => x / 2) (c.active m.toNat k.toNat)).eraseDups = Except.ok (parts,
      s2)) ∧ (vPush s2 tid ((fun els => lineBeats c els) (List.map (fun j => (vAddr (addrAdd (Reads s tid a.toNat) 0) j,
      1)) (c.active m.toNat k.toNat))) parts = Except.ok s3)) ∧
    (∃ (s : State) (s1 : State) (s2 : State) (tid : Nat) (c : Claim) (d : BitVec 4) (x : BitVec 4) (a : BitVec 7)
      (b : BitVec 7) (m : BitVec 1) (k : BitVec 2) (i : BitVec 32) (parts : List (Nat × List Byte)) (s3 : State),
      Issuing s tid ∧ (Names s tid [a.toNat, b.toNat]) ∧ ((s.task tid).claim = some c) ∧ (Ready s tid (128 + d.toNat)) ∧
      (Ready s tid (128 + x.toNat)) ∧ (Ready s tid (144 + k.toNat)) ∧
      (BitVec.toNat (addrAdd (Reads s tid a.toNat) (BitVec.signExtend 64 i)) / 2 ^ 52 % 8 = 0 ∧
      fmtOk (BitVec.toNat (addrAdd (Reads s tid a.toNat) (BitVec.signExtend 64 i)) / 2 ^ 58) (BitVec.toNat (addrAdd (Reads s tid a.toNat) (BitVec.signExtend 64 i)) / 2 ^ 55 % 8) = true) ∧
      (BitVec.toNat (addrAdd (Reads s tid a.toNat) (BitVec.signExtend 64 i)) / 2 ^ 58 = 2) ∧
      (checkEls s tid Acc.rw false (List.map (fun j => (vAddr (addrAdd (Reads s tid a.toNat) (BitVec.signExtend 64 i)) j,
      1)) (c.active m.toNat k.toNat)) = Except.ok s1) ∧
      (nibbleBytes s1 tid (addrAdd (Reads s tid a.toNat) (BitVec.signExtend 64 i)) (List.map (fun j => (j,
      (c.el d.toNat j).toNat % 16)) (c.active m.toNat k.toNat)) (List.map (fun x => x / 2) (c.active m.toNat k.toNat)).eraseDups = Except.ok (parts,
      s2)) ∧
      (vPush s2 tid ((fun els => lineBeats c els) (List.map (fun j => (vAddr (addrAdd (Reads s tid a.toNat) (BitVec.signExtend 64 i)) j,
      1)) (c.active m.toNat k.toNat))) parts = Except.ok s3)) ∧
    (∃ (s : State) (s1 : State) (s2 : State) (tid : Nat) (c : Claim) (d : BitVec 4) (x : BitVec 4) (a : BitVec 7)
      (b : BitVec 7) (m : BitVec 1) (k : BitVec 2) (vs : List (Nat × Nat)), Issuing s tid ∧ (Names s tid [a.toNat, b.toNat]) ∧
      ((s.task tid).claim = some c) ∧ (Ready s tid (128 + d.toNat)) ∧ (Ready s tid (128 + x.toNat)) ∧
      (Ready s tid (144 + k.toNat)) ∧ ((fun p => BitVec.toNat p / 2 ^ 52 % 8 = 0 ∧
      fmtOk (BitVec.toNat p / 2 ^ 58) (BitVec.toNat p / 2 ^ 55 % 8) = true) (Reads s tid a.toNat) ∧
      BitVec.toNat (Reads s tid a.toNat) / 2 ^ 58 ≤ 8 ∧ BitVec.toNat (Reads s tid a.toNat) / 2 ^ 58 ≠ 2) ∧
      (checkEls s tid Acc.rd true (List.map (fun x => x.2) ((fun dist => List.map (fun e => (e.1, e.2,
      vElemSize (BitVec.toNat (Reads s tid a.toNat) / 2 ^ 58))) ((fun dist => List.map (fun j => (j,
      ((Nat.cast (R := Int) (BitVec.toNat (Reads s tid a.toNat) % 2 ^ 52) + dist j) % 2 ^ 52).toNat)) (c.active m.toNat k.toNat)) dist)) fun j => (c.el x.toNat j).toInt * Nat.cast (R := Int) (vElemSize (BitVec.toNat (Reads s tid a.toNat) / 2 ^ 58)))) = Except.ok s1) ∧
      (loadEls s1 tid ((fun dist => List.map (fun e => (e.1, e.2,
      vElemSize (BitVec.toNat (Reads s tid a.toNat) / 2 ^ 58))) ((fun dist => List.map (fun j => (j,
      ((Nat.cast (R := Int) (BitVec.toNat (Reads s tid a.toNat) % 2 ^ 52) + dist j) % 2 ^ 52).toNat)) (c.active m.toNat k.toNat)) dist)) fun j => (c.el x.toNat j).toInt * Nat.cast (R := Int) (vElemSize (BitVec.toNat (Reads s tid a.toNat) / 2 ^ 58))) = Except.ok (vs,
      s2))) ∧
    (∃ (s : State) (s1 : State) (s2 : State) (tid : Nat) (c : Claim) (d : BitVec 4) (x : BitVec 4) (a : BitVec 7)
      (b : BitVec 7) (m : BitVec 1) (k : BitVec 2), Issuing s tid ∧ (Names s tid [a.toNat, b.toNat]) ∧
      ((s.task tid).claim = some c) ∧ (Ready s tid (128 + d.toNat)) ∧ (Ready s tid (128 + x.toNat)) ∧
      (Ready s tid (144 + k.toNat)) ∧ ((fun p => BitVec.toNat p / 2 ^ 52 % 8 = 0 ∧
      fmtOk (BitVec.toNat p / 2 ^ 58) (BitVec.toNat p / 2 ^ 55 % 8) = true) (Reads s tid a.toNat) ∧
      BitVec.toNat (Reads s tid a.toNat) / 2 ^ 58 ≤ 8 ∧ BitVec.toNat (Reads s tid a.toNat) / 2 ^ 58 ≠ 2) ∧
      (checkEls s tid Acc.wr true (List.map (fun e => (e.2,
      vElemSize (BitVec.toNat (Reads s tid a.toNat) / 2 ^ 58))) ((fun dist => List.map (fun j => (j,
      ((Nat.cast (R := Int) (BitVec.toNat (Reads s tid a.toNat) % 2 ^ 52) + dist j) % 2 ^ 52).toNat)) (c.active m.toNat k.toNat)) fun j => (c.el x.toNat j).toInt * Nat.cast (R := Int) (vElemSize (BitVec.toNat (Reads s tid a.toNat) / 2 ^ 58)))) = Except.ok s1) ∧
      (vStoreAll tid ((fun n => elemBeats c n) (c.active m.toNat k.toNat).length) c d.toNat (BitVec.toNat (Reads s tid a.toNat) / 2 ^ 58) ((fun dist => List.map (fun j => (j,
      ((Nat.cast (R := Int) (BitVec.toNat (Reads s tid a.toNat) % 2 ^ 52) + dist j) % 2 ^ 52).toNat)) (c.active m.toNat k.toNat)) fun j => (c.el x.toNat j).toInt * Nat.cast (R := Int) (vElemSize (BitVec.toNat (Reads s tid a.toNat) / 2 ^ 58))) s1 = Except.ok s2)) ∧
    (∃ (s : State) (s1 : State) (s2 : State) (tid : Nat) (c : Claim) (d : BitVec 4) (x : BitVec 4) (a : BitVec 7)
      (b : BitVec 7) (m : BitVec 1) (k : BitVec 2), Issuing s tid ∧ (Names s tid [a.toNat, b.toNat]) ∧
      ((s.task tid).claim = some c) ∧ (Ready s tid (128 + d.toNat)) ∧ (Ready s tid (128 + x.toNat)) ∧
      (Ready s tid (144 + k.toNat)) ∧ (BitVec.toNat (addrAdd (Reads s tid a.toNat) 0) / 2 ^ 52 % 8 = 0 ∧
      fmtOk (BitVec.toNat (addrAdd (Reads s tid a.toNat) 0) / 2 ^ 58) (BitVec.toNat (addrAdd (Reads s tid a.toNat) 0) / 2 ^ 55 % 8) = true) ∧
      (18 ≤ BitVec.toNat (addrAdd (Reads s tid a.toNat) 0) / 2 ^ 58) ∧
      (c.vl % blockLen (BitVec.toNat (addrAdd (Reads s tid a.toNat) 0) / 2 ^ 58) (BitVec.toNat (addrAdd (Reads s tid a.toNat) 0) / 2 ^ 55 % 8) = 0) ∧
      (m = 0) ∧
      (checkEls s tid Acc.wr false (List.map (fun b => (vAddr (addrAdd (Reads s tid a.toNat) 0) (blockLen (BitVec.toNat (addrAdd (Reads s tid a.toNat) 0) / 2 ^ 58) (BitVec.toNat (addrAdd (Reads s tid a.toNat) 0) / 2 ^ 55 % 8) * b),
      vSpan (addrAdd (Reads s tid a.toNat) 0))) (List.range (c.vl / blockLen (BitVec.toNat (addrAdd (Reads s tid a.toNat) 0) / 2 ^ 58) (BitVec.toNat (addrAdd (Reads s tid a.toNat) 0) / 2 ^ 55 % 8)))) = Except.ok s1) ∧
      (vPush s1 tid ((fun els => lineBeats c els) (List.map (vPlace (addrAdd (Reads s tid a.toNat) 0)) (c.active m.toNat k.toNat))) (List.flatMap (fun e => splitBytes (vAddr (addrAdd (Reads s tid a.toNat) 0) (blockLen (BitVec.toNat (addrAdd (Reads s tid a.toNat) 0) / 2 ^ 58) (BitVec.toNat (addrAdd (Reads s tid a.toNat) 0) / 2 ^ 55 % 8) * e.1)) e.2) (vRecords c d.toNat (BitVec.toNat (addrAdd (Reads s tid a.toNat) 0) / 2 ^ 58) (BitVec.toNat (addrAdd (Reads s tid a.toNat) 0) / 2 ^ 55 % 8) (s.task tid).r.frm.toNat (List.range (c.vl / blockLen (BitVec.toNat (addrAdd (Reads s tid a.toNat) 0) / 2 ^ 58) (BitVec.toNat (addrAdd (Reads s tid a.toNat) 0) / 2 ^ 55 % 8))) { fl := 0, seed := (s.task tid).r.srseed }).1) = Except.ok s2)) := by
  refine ⟨?_, ?_, ?_, ?_, ?_, ?_, ?_, ?_, ?_, ?_⟩
  · exact ⟨((vm (0x10000 + 1 * 2^58) cla)), _, _, 0, cla, 2, 1, 14, 15, 0, 1, _, issuing_of (by decide +kernel),
      names_of (by decide +kernel), by decide +kernel, by unfold Ready; decide +kernel, by unfold Ready; decide +kernel,
      by unfold Ready; decide +kernel, ⟨by decide +kernel, by decide +kernel⟩, rfl, rfl⟩
  · exact ⟨((vm (0x10000 + 1 * 2^58) cla)), _, _, 0, cla, 2, 1, 14, 15, 0, 1, 0, _, issuing_of (by decide +kernel),
      names_of (by decide +kernel), by decide +kernel, by unfold Ready; decide +kernel, by unfold Ready; decide +kernel,
      by unfold Ready; decide +kernel, ⟨by decide +kernel, by decide +kernel⟩, rfl, rfl⟩
  · exact ⟨((vm (0x10000 + 1 * 2^58) cla)), _, _, 0, cla, 2, 1, 14, 15, 0, 1, _, issuing_of (by decide +kernel),
      names_of (by decide +kernel), by decide +kernel, by unfold Ready; decide +kernel, by unfold Ready; decide +kernel,
      by unfold Ready; decide +kernel, ⟨by decide +kernel, ⟨by decide +kernel, by decide +kernel⟩⟩, rfl, rfl⟩
  · exact ⟨((vm (0x10000 + 1 * 2^58) cla)), _, _, 0, cla, 2, 1, 14, 15, 0, 1, issuing_of (by decide +kernel),
      names_of (by decide +kernel), by decide +kernel, by unfold Ready; decide +kernel, by unfold Ready; decide +kernel,
      by unfold Ready; decide +kernel, ⟨by decide +kernel, ⟨by decide +kernel, by decide +kernel⟩⟩, rfl, rfl⟩
  · exact ⟨((vm (0x10000 + 1 * 2^58) cla)), _, _, 0, cla, 2, 1, 14, 15, 0, 1, 0, issuing_of (by decide +kernel),
      names_of (by decide +kernel), by decide +kernel, by unfold Ready; decide +kernel, by unfold Ready; decide +kernel,
      by unfold Ready; decide +kernel, ⟨by decide +kernel, ⟨by decide +kernel, by decide +kernel⟩⟩, rfl, rfl⟩
  · exact ⟨((vm (0x10000 + 2 * 2^58) cla)), _, _, 0, cla, 2, 1, 14, 15, 0, 1, _, _, issuing_of (by decide +kernel),
      names_of (by decide +kernel), by decide +kernel, by unfold Ready; decide +kernel, by unfold Ready; decide +kernel,
      by unfold Ready; decide +kernel, ⟨by decide +kernel, by decide +kernel⟩, by decide +kernel, rfl, rfl, rfl⟩
  · exact ⟨((vm (0x10000 + 2 * 2^58) cla)), _, _, 0, cla, 2, 1, 14, 15, 0, 1, 0, _, _, issuing_of (by decide +kernel),
      names_of (by decide +kernel), by decide +kernel, by unfold Ready; decide +kernel, by unfold Ready; decide +kernel,
      by unfold Ready; decide +kernel, ⟨by decide +kernel, by decide +kernel⟩, by decide +kernel, rfl, rfl, rfl⟩
  · exact ⟨((vm (0x10000 + 3 * 2^58) cla)), _, _, 0, cla, 2, 5, 14, 15, 1, 1, _, issuing_of (by decide +kernel),
      names_of (by decide +kernel), by decide +kernel, by unfold Ready; decide +kernel, by unfold Ready; decide +kernel,
      by unfold Ready; decide +kernel, ⟨by decide +kernel, ⟨by decide +kernel, by decide +kernel⟩⟩, rfl, rfl⟩
  · exact ⟨((vm (0x10000 + 3 * 2^58) cla)), _, _, 0, cla, 2, 5, 14, 15, 1, 1, issuing_of (by decide +kernel),
      names_of (by decide +kernel), by decide +kernel, by unfold Ready; decide +kernel, by unfold Ready; decide +kernel,
      by unfold Ready; decide +kernel, ⟨by decide +kernel, ⟨by decide +kernel, by decide +kernel⟩⟩, rfl, rfl⟩
  · exact ⟨((vm (0x10000 + 18 * 2^58) cla)), _, _, 0, cla, 2, 5, 14, 15, 0, 1, issuing_of (by decide +kernel),
      names_of (by decide +kernel), by decide +kernel, by unfold Ready; decide +kernel, by unfold Ready; decide +kernel,
      by unfold Ready; decide +kernel, ⟨by decide +kernel, by decide +kernel⟩, and3 (by decide +kernel) ⟨rfl, rfl⟩⟩

theorem witness_VectorMemory_2 : ∃ (s : State) (s1 : State) (s2 : State) (tid : Nat) (c : Claim) (d : BitVec 4) (x : BitVec 4) (a : BitVec 7)
    (b : BitVec 7) (m : BitVec 1) (k : BitVec 2) (i : BitVec 32), Issuing s tid ∧ (Names s tid [a.toNat, b.toNat]) ∧
    ((s.task tid).claim = some c) ∧ (Ready s tid (128 + d.toNat)) ∧ (Ready s tid (128 + x.toNat)) ∧
    (Ready s tid (144 + k.toNat)) ∧ (BitVec.toNat (addrAdd (Reads s tid a.toNat) (BitVec.signExtend 64 i)) / 2 ^ 52 % 8 = 0 ∧
    fmtOk (BitVec.toNat (addrAdd (Reads s tid a.toNat) (BitVec.signExtend 64 i)) / 2 ^ 58) (BitVec.toNat (addrAdd (Reads s tid a.toNat) (BitVec.signExtend 64 i)) / 2 ^ 55 % 8) = true) ∧
    (18 ≤ BitVec.toNat (addrAdd (Reads s tid a.toNat) (BitVec.signExtend 64 i)) / 2 ^ 58) ∧
    (c.vl % blockLen (BitVec.toNat (addrAdd (Reads s tid a.toNat) (BitVec.signExtend 64 i)) / 2 ^ 58) (BitVec.toNat (addrAdd (Reads s tid a.toNat) (BitVec.signExtend 64 i)) / 2 ^ 55 % 8) = 0) ∧
    (m = 0) ∧
    (checkEls s tid Acc.wr false (List.map (fun b => (vAddr (addrAdd (Reads s tid a.toNat) (BitVec.signExtend 64 i)) (blockLen (BitVec.toNat (addrAdd (Reads s tid a.toNat) (BitVec.signExtend 64 i)) / 2 ^ 58) (BitVec.toNat (addrAdd (Reads s tid a.toNat) (BitVec.signExtend 64 i)) / 2 ^ 55 % 8) * b),
    vSpan (addrAdd (Reads s tid a.toNat) (BitVec.signExtend 64 i)))) (List.range (c.vl / blockLen (BitVec.toNat (addrAdd (Reads s tid a.toNat) (BitVec.signExtend 64 i)) / 2 ^ 58) (BitVec.toNat (addrAdd (Reads s tid a.toNat) (BitVec.signExtend 64 i)) / 2 ^ 55 % 8)))) = Except.ok s1) ∧
    (vPush s1 tid ((fun els => lineBeats c els) (List.map (vPlace (addrAdd (Reads s tid a.toNat) (BitVec.signExtend 64 i))) (c.active m.toNat k.toNat))) (List.flatMap (fun e => splitBytes (vAddr (addrAdd (Reads s tid a.toNat) (BitVec.signExtend 64 i)) (blockLen (BitVec.toNat (addrAdd (Reads s tid a.toNat) (BitVec.signExtend 64 i)) / 2 ^ 58) (BitVec.toNat (addrAdd (Reads s tid a.toNat) (BitVec.signExtend 64 i)) / 2 ^ 55 % 8) * e.1)) e.2) (vRecords c d.toNat (BitVec.toNat (addrAdd (Reads s tid a.toNat) (BitVec.signExtend 64 i)) / 2 ^ 58) (BitVec.toNat (addrAdd (Reads s tid a.toNat) (BitVec.signExtend 64 i)) / 2 ^ 55 % 8) (s.task tid).r.frm.toNat (List.range (c.vl / blockLen (BitVec.toNat (addrAdd (Reads s tid a.toNat) (BitVec.signExtend 64 i)) / 2 ^ 58) (BitVec.toNat (addrAdd (Reads s tid a.toNat) (BitVec.signExtend 64 i)) / 2 ^ 55 % 8))) { fl := 0, seed := (s.task tid).r.srseed }).1) = Except.ok s2) := by
  exact ⟨((vm (0x10000 + 18 * 2^58) cla)), _, _, 0, cla, 2, 5, 14, 15, 0, 1, 0, issuing_of (by decide +kernel),
    names_of (by decide +kernel), by decide +kernel, by unfold Ready; decide +kernel, by unfold Ready; decide +kernel,
    by unfold Ready; decide +kernel, ⟨by decide +kernel, by decide +kernel⟩, and3 (by decide +kernel) ⟨rfl, rfl⟩⟩

end C9

namespace C10

def tl : Tile := { owner := some 0, ty := true, e := [(0, 5), (129, 6)] }

def mw (op : Nat) : List Word := [match op with | 0 => 0x0310_0020_0000_0000 | 1 => 0x1300_0000_0000_0000 | 2 => 0x2300_0000_0000_0000 | _ => 0x3300_0000_0000_0000,
  match op with | 3 => 0 | _ => 0x040FFE0000000080, match op with | 0 => 0x040FFE0000000080 | _ => 0, 77]

def ms (op : Nat)
  (cap : Word) : State := { withDesc (mk (rgs [(14, 0x10080), (15, cap), (20, (mw op).getD 0 0), (21, (mw op).getD 1 0), (22, (mw op).getD 2 0), (23, (mw op).getD 3 0)] tk)) (mw op) with clusters := [(0, { cl0 with tiles := [(3, { tl with ty := op == 0 })] })] }

def fws (x y : Word) : State := fw (mk (rgs [(14, x), (15, y)] tk))

def tw (x w : Word) (s : State) : State := { s with tasks := [(0, (rgs [(14, x), (15, w)] (s.task 0)))] }

def pst : State := { st with cores := [(0, core0), (1, { core0 with slots := [] })] }

def pp : Pair := { leader := true, other := 1, ckpt := tk.r }

def pps (p : Pair) : State := { mk { tk with pair := some p } with tasks := [(0, { tk with pair := some p }), (1, { tk with core := 1, shadow := true, pair := some { leader := false, other := 0, ckpt := tk.r } })] }

theorem witness_MatrixSubmission_1 :
    (∃ (s : State) (s1 : State) (s2 : State) (tid : Nat) (d : BitVec 7) (a : BitVec 7) (b : BitVec 7) (e : BitVec 7)
      (f : BitVec 7) (g : BitVec 7) (w0 : Word) (w1 : Word) (w2 : Word) (w3 : Word) (h : Word), Issuing s tid ∧
      (Names s tid [d.toNat, a.toNat, b.toNat, e.toNat, f.toNat, g.toNat]) ∧
      (BitVec.toNat (Reads s tid a.toNat) / 2 ^ 52 % 8 = 0 ∧ BitVec.toNat (Reads s tid a.toNat) % 8 = 0 ∧
      loadWords s tid (BitVec.toNat (Reads s tid a.toNat) % 2 ^ 52) 4 = Except.ok ([w0, w1, w2, w3], s1) ∧ 4 = 4) ∧
      (mxCheck s1 ((s.task tid).core / 8) (s.task tid).ctx w0 w1 w2 w3 = Except.ok () ∧
      mxRoom s1 ((s.task tid).core / 8) (s.task tid).ctx = true ∧
      mxTurn s1 ((s.task tid).core / 8) (s.task tid).launch (s.task tid).ident = true) ∧
      ((fun s_1 c => allocFut ({ s_1 with nextId := s_1.nextId + 1 } : State) ((s.task tid).core / 8) (s.task tid).ctx (s.task tid).launch (Prod.job c s_1.nextId)) s1 ((s.task tid).core / 8) = Alloc.got h s2) ∧
      (relReady s2 tid 2 = true)) ∧
    (∃ (s : State) (s1 : State) (s2 : State) (tid : Nat) (d : BitVec 7) (a : BitVec 7) (b : BitVec 7) (e : BitVec 7)
      (f : BitVec 7) (g : BitVec 7) (w0 : Word) (w1 : Word) (w2 : Word) (w3 : Word) (h : Word), Issuing s tid ∧
      (Names s tid [d.toNat, a.toNat, b.toNat, e.toNat, f.toNat, g.toNat]) ∧
      (BitVec.toNat (Reads s tid a.toNat) / 2 ^ 52 % 8 = 0 ∧ BitVec.toNat (Reads s tid a.toNat) % 8 = 0 ∧
      loadWords s tid (BitVec.toNat (Reads s tid a.toNat) % 2 ^ 52) 4 = Except.ok ([w0, w1, w2, w3], s1) ∧ 4 = 4) ∧
      (mxCheckDesc (s1.tile (capCl (Reads s tid b.toNat)) (mxTile w0)).ty w0 w1 w2 w3 = Except.ok ()) ∧
      ((fun s_1 c => allocFut ({ s_1 with nextId := s_1.nextId + 1 } : State) ((s.task tid).core / 8) (s.task tid).ctx (s.task tid).launch (Prod.job c s_1.nextId)) s1 (capCl (Reads s tid b.toNat)) = Alloc.got h s2) ∧
      (relReady s2 tid 4 = true)) ∧
    (∃ (s : State) (s1 : State) (tid : Nat) (d : BitVec 7) (a : BitVec 7) (b : BitVec 7) (e : BitVec 7) (f : BitVec 7)
      (g : BitVec 7) (w0 : Word) (w1 : Word) (w2 : Word) (w3 : Word) (c : Code) (v : Word), Issuing s tid ∧
      (Names s tid [d.toNat, a.toNat, b.toNat, e.toNat, f.toNat, g.toNat]) ∧ (s1 = s ∧ 8 = 8 ∧ [Reads s tid a.toNat,
      Reads s tid b.toNat, Reads s tid e.toNat, Reads s tid f.toNat] = [w0, w1, w2, w3]) ∧
      (mxCheck s ((s.task tid).core / 8) (s.task tid).ctx w0 w1 w2 w3 = Except.error (Stop.trap c v))) ∧
    (∃ (s : State) (s1 : State) (s2 : State) (tid : Nat) (d : BitVec 7) (a : BitVec 7) (b : BitVec 7) (e : BitVec 7)
      (f : BitVec 7) (g : BitVec 7) (w0 : Word) (w1 : Word) (w2 : Word) (w3 : Word) (h : Word), Issuing s tid ∧
      (Names s tid [d.toNat, a.toNat, b.toNat, e.toNat, f.toNat, g.toNat]) ∧ (s1 = s ∧ 8 = 8 ∧ [Reads s tid a.toNat,
      Reads s tid b.toNat, Reads s tid e.toNat, Reads s tid f.toNat] = [w0, w1, w2, w3]) ∧
      (mxCheck s1 ((s.task tid).core / 8) (s.task tid).ctx w0 w1 w2 w3 = Except.ok () ∧
      mxRoom s1 ((s.task tid).core / 8) (s.task tid).ctx = true ∧
      mxTurn s1 ((s.task tid).core / 8) (s.task tid).launch (s.task tid).ident = true) ∧
      ((fun s_1 c => allocFut ({ s_1 with nextId := s_1.nextId + 1 } : State) ((s.task tid).core / 8) (s.task tid).ctx (s.task tid).launch (Prod.job c s_1.nextId)) s1 ((s.task tid).core / 8) = Alloc.got h s2) ∧
      (relReady s2 tid 2 = true)) ∧
    (∃ (s : State) (s1 : State) (s2 : State) (tid : Nat) (d : BitVec 7) (a : BitVec 7) (b : BitVec 7) (e : BitVec 7)
      (f : BitVec 7) (g : BitVec 7) (w0 : Word) (w1 : Word) (w2 : Word) (w3 : Word) (h : Word), Issuing s tid ∧
      (Names s tid [d.toNat, a.toNat, b.toNat, e.toNat, f.toNat, g.toNat]) ∧ (s1 = s ∧ 8 = 8 ∧ [Reads s tid a.toNat,
      Reads s tid b.toNat, Reads s tid e.toNat, Reads s tid f.toNat] = [w0, w1, w2, w3]) ∧
      (mxCheckDesc (s1.tile (capCl (Reads s tid g.toNat)) (mxTile w0)).ty w0 w1 w2 w3 = Except.ok ()) ∧
      ((fun s_1 c => allocFut ({ s_1 with nextId := s_1.nextId + 1 } : State) ((s.task tid).core / 8) (s.task tid).ctx (s.task tid).launch (Prod.job c s_1.nextId)) s1 (capCl (Reads s tid g.toNat)) = Alloc.got h s2) ∧
      (relReady s2 tid 4 = true)) ∧
    (∃ (s : State) (s1 : State) (tid : Nat) (d : BitVec 7) (a : BitVec 7) (b : BitVec 7) (e : BitVec 7) (f : BitVec 7)
      (g : BitVec 7) (w0 : Word) (w1 : Word) (w2 : Word) (w3 : Word), Issuing s tid ∧ (Names s tid [d.toNat, a.toNat, b.toNat,
      e.toNat, f.toNat, g.toNat]) ∧ (BitVec.toNat (Reads s tid a.toNat) / 2 ^ 52 % 8 = 0 ∧
      BitVec.toNat (Reads s tid a.toNat) % 8 = 0 ∧
      loadWords s tid (BitVec.toNat (Reads s tid a.toNat) % 2 ^ 52) 4 = Except.ok ([w0, w1, w2, w3], s1) ∧ 4 = 4) ∧
      (mxCheck s1 ((s.task tid).core / 8) (s.task tid).ctx w0 w1 w2 w3 = Except.ok () ∧
      mxRoom s1 ((s.task tid).core / 8) (s.task tid).ctx = true ∧
      mxTurn s1 ((s.task tid).core / 8) (s.task tid).launch (s.task tid).ident = true) ∧
      ((fun s_1 c => allocFut ({ s_1 with nextId := s_1.nextId + 1 } : State) ((s.task tid).core / 8) (s.task tid).ctx (s.task tid).launch (Prod.job c s_1.nextId)) s1 ((s.task tid).core / 8) = Alloc.full)) ∧
    (∃ (s : State) (s1 : State) (tid : Nat) (d : BitVec 7) (a : BitVec 7) (b : BitVec 7) (e : BitVec 7) (f : BitVec 7)
      (g : BitVec 7) (w0 : Word) (w1 : Word) (w2 : Word) (w3 : Word), Issuing s tid ∧ (Names s tid [d.toNat, a.toNat, b.toNat,
      e.toNat, f.toNat, g.toNat]) ∧ (s1 = s ∧ 8 = 8 ∧ [Reads s tid a.toNat, Reads s tid b.toNat, Reads s tid e.toNat,
      Reads s tid f.toNat] = [w0, w1, w2, w3]) ∧
      (mxCheck s1 ((s.task tid).core / 8) (s.task tid).ctx w0 w1 w2 w3 = Except.ok () ∧
      mxRoom s1 ((s.task tid).core / 8) (s.task tid).ctx = true ∧
      mxTurn s1 ((s.task tid).core / 8) (s.task tid).launch (s.task tid).ident = true) ∧
      ((fun s_1 c => allocFut ({ s_1 with nextId := s_1.nextId + 1 } : State) ((s.task tid).core / 8) (s.task tid).ctx (s.task tid).launch (Prod.job c s_1.nextId)) s1 ((s.task tid).core / 8) = Alloc.full)) := by
  refine ⟨?_, ?_, ?_, ?_, ?_, ?_, ?_⟩
  · exact ⟨((ms 0 0)), _, _, 0, 5, 14, 15, 22, 23, 15, _, _, _, _, _, issuing_of (by decide +kernel),
      names_of (by decide +kernel), ⟨rfl, ⟨by decide +kernel, ⟨rfl, by decide +kernel⟩⟩⟩, ⟨rfl, ⟨by decide +kernel,
      by decide +kernel⟩⟩, rfl, by decide +kernel⟩
  · exact ⟨((ms 0 0)), _, _, 0, 5, 14, 15, 22, 23, 15, _, _, _, _, _, issuing_of (by decide +kernel),
      names_of (by decide +kernel), ⟨rfl, ⟨by decide +kernel, ⟨rfl, by decide +kernel⟩⟩⟩, rfl, rfl, by decide +kernel⟩
  · exact ⟨((ms 0 0)), (ms 0 0), 0, 5, 14, 15, 22, 23, 15, (Reads (ms 0 0) 0 (14)), (Reads (ms 0 0) 0 (15)),
      (Reads (ms 0 0) 0 (22)), (Reads (ms 0 0) 0 (23)), MX_DESC, 0, issuing_of (by decide +kernel),
      names_of (by decide +kernel), ⟨rfl, ⟨by decide +kernel, by decide +kernel⟩⟩, rfl⟩
  · exact ⟨((ms 1 0)), (ms 1 0), _, 0, 5, 20, 21, 22, 23, 15, (Reads (ms 1 0) 0 (20)), (Reads (ms 1 0) 0 (21)),
      (Reads (ms 1 0) 0 (22)), (Reads (ms 1 0) 0 (23)), _, issuing_of (by decide +kernel), names_of (by decide +kernel), ⟨rfl,
      ⟨by decide +kernel, by decide +kernel⟩⟩, ⟨rfl, ⟨by decide +kernel, by decide +kernel⟩⟩, rfl, by decide +kernel⟩
  · exact ⟨((ms 1 0)), (ms 1 0), _, 0, 5, 20, 21, 22, 23, 15, (Reads (ms 1 0) 0 (20)), (Reads (ms 1 0) 0 (21)),
      (Reads (ms 1 0) 0 (22)), (Reads (ms 1 0) 0 (23)), _, issuing_of (by decide +kernel), names_of (by decide +kernel), ⟨rfl,
      ⟨by decide +kernel, by decide +kernel⟩⟩, rfl, rfl, by decide +kernel⟩
  · exact ⟨((full (ms 0 0))), _, 0, 5, 14, 15, 22, 23, 15, _, _, _, _, issuing_of (by decide +kernel),
      names_of (by decide +kernel), ⟨rfl, ⟨by decide +kernel, ⟨rfl, by decide +kernel⟩⟩⟩, ⟨rfl, ⟨by decide +kernel,
      by decide +kernel⟩⟩, full_alloc rfl rfl⟩
  · exact ⟨((full (ms 1 0))), (full (ms 1 0)), 0, 5, 20, 21, 22, 23, 15, (Reads (full (ms 1 0)) 0 (20)),
      (Reads (full (ms 1 0)) 0 (21)), (Reads (full (ms 1 0)) 0 (22)), (Reads (full (ms 1 0)) 0 (23)),
      issuing_of (by decide +kernel), names_of (by decide +kernel), ⟨rfl, ⟨by decide +kernel, by decide +kernel⟩⟩, ⟨rfl,
      ⟨by decide +kernel, by decide +kernel⟩⟩, full_alloc rfl rfl⟩

theorem witness_TransposesAndSwaps_1 : ∃ (s : State) (tid : Nat) (d : BitVec 7) (a : BitVec 7) (b : BitVec 7), Issuing s tid ∧ (Names s tid [d.toNat, a.toNat,
    b.toNat]) ∧ (swOk (Reads s tid b.toNat) (Reads s tid a.toNat) = false) := by
  exact ⟨((tw 1 0 st)), 0, 5, 14, 15, issuing_of (by decide +kernel), names_of (by decide +kernel), by decide +kernel⟩

theorem witness_FirmwareInstructions_1 :
    (∃ (s : State) (tid : Nat) (d : BitVec 7) (a : BitVec 7) (b : BitVec 7), Issuing s tid ∧ (isFirmware s tid = true) ∧
      (Names s tid [d.toNat, a.toNat, b.toNat]) ∧ (tlbOk (Reads s tid a.toNat) (Reads s tid b.toNat) = true)) ∧
    (∃ (s : State) (tid : Nat) (d : BitVec 7) (a : BitVec 7) (b : BitVec 7), Issuing s tid ∧ (isFirmware s tid = true) ∧
      (Names s tid [d.toNat, a.toNat, b.toNat]) ∧ (tlbinvOk (Reads s tid a.toNat) (Reads s tid b.toNat) = true) ∧
      ((s.task tid).inv = none) ∧
      (tlbinvBusy (tlbDrop s ((s.task tid).core / 8) (BitVec.toNat (Reads s tid b.toNat) % 8) (BitVec.toNat (Reads s tid a.toNat) / 2 ^ 48) (tlbinvRange (Reads s tid a.toNat) (Reads s tid b.toNat)).1 (tlbinvRange (Reads s tid a.toNat) (Reads s tid b.toNat)).2).2.2 ((s.task tid).core / 8) (BitVec.toNat (Reads s tid b.toNat) % 8) (BitVec.toNat (Reads s tid a.toNat) / 2 ^ 48) (tlbinvRange (Reads s tid a.toNat) (Reads s tid b.toNat)).1 (tlbinvRange (Reads s tid a.toNat) (Reads s tid b.toNat)).2 (tlbDrop s ((s.task tid).core / 8) (BitVec.toNat (Reads s tid b.toNat) % 8) (BitVec.toNat (Reads s tid a.toNat) / 2 ^ 48) (tlbinvRange (Reads s tid a.toNat) (Reads s tid b.toNat)).1 (tlbinvRange (Reads s tid a.toNat) (Reads s tid b.toNat)).2).2.1 = false)) ∧
    (∃ (s : State) (tid : Nat) (d : BitVec 7) (a : BitVec 7) (b : BitVec 7), Issuing s tid ∧ (isFirmware s tid = true) ∧
      (Names s tid [d.toNat, a.toNat, b.toNat]) ∧ (slotwBad s (Reads s tid a.toNat) (Reads s tid b.toNat) = true)) ∧
    (∃ (s : State) (tid : Nat) (d : BitVec 7) (a : BitVec 7) (b : BitVec 7), Issuing s tid ∧ (isFirmware s tid = true) ∧
      (Names s tid [d.toNat, a.toNat, b.toNat]) ∧ (∀ r ∈ s.net.remaps, Option.map (fun x => x.1) r.asker ≠ some tid) ∧
      (mapclBad (Reads s tid a.toNat) (Reads s tid b.toNat) = true)) ∧
    (∃ (s : State) (tid : Nat) (d : BitVec 7) (a : BitVec 7) (b : BitVec 7), Issuing s tid ∧ (isFirmware s tid = true) ∧
      (Names s tid [d.toNat, a.toNat, b.toNat]) ∧ (tlbOk (Reads s tid a.toNat) (Reads s tid b.toNat) = false)) ∧
    (∃ (s : State) (tid : Nat) (d : BitVec 7) (a : BitVec 7) (b : BitVec 7), Issuing s tid ∧ (isFirmware s tid = true) ∧
      (Names s tid [d.toNat, a.toNat, b.toNat]) ∧ (tlbinvOk (Reads s tid a.toNat) (Reads s tid b.toNat) = false)) ∧
    (∃ (s : State) (tid : Nat) (d : BitVec 7) (a : BitVec 7) (b : BitVec 7), Issuing s tid ∧ (isFirmware s tid = true) ∧
      (Names s tid [d.toNat, a.toNat, b.toNat]) ∧ (slotwBad s (Reads s tid a.toNat) (Reads s tid b.toNat) = false) ∧
      (BitVec.toNat (Reads s tid a.toNat) / 2 ^ 60 = 0)) ∧
    (∃ (s : State) (tid : Nat) (d : BitVec 7) (a : BitVec 7) (b : BitVec 7), Issuing s tid ∧ (isFirmware s tid = true) ∧
      (Names s tid [d.toNat, a.toNat, b.toNat]) ∧ (slotwBad s (Reads s tid a.toNat) (Reads s tid b.toNat) = false) ∧
      (BitVec.toNat (Reads s tid a.toNat) / 2 ^ 60 = 1)) ∧
    (∃ (s : State) (tid : Nat) (d : BitVec 7) (a : BitVec 7) (b : BitVec 7), Issuing s tid ∧ (isFirmware s tid = true) ∧
      (Names s tid [d.toNat, a.toNat, b.toNat]) ∧ (∀ r ∈ s.net.remaps, Option.map (fun x => x.1) r.asker ≠ some tid) ∧
      (mapclBad (Reads s tid a.toNat) (Reads s tid b.toNat) = false) ∧ (∀ r ∈ s.net.remaps,
      r.isCore = decide (BitVec.toNat (Reads s tid a.toNat) / 2 ^ 63 = 1) → r.unit ≠ if decide (BitVec.toNat (Reads s tid a.toNat) / 2 ^ 63 = 1) = true then (BitVec.toNat (Reads s tid a.toNat) / 2 ^ 11 % 8 * 112 + BitVec.toNat (Reads s tid a.toNat) / 2 ^ 4 % 128) * 8 + BitVec.toNat (Reads s tid a.toNat) % 8 else BitVec.toNat (Reads s tid a.toNat) / 2 ^ 11 % 8 * 112 + BitVec.toNat (Reads s tid a.toNat) / 2 ^ 4 % 128) ∧
      (isSpare s (decide (BitVec.toNat (Reads s tid a.toNat) / 2 ^ 63 = 1)) (if decide (BitVec.toNat (Reads s tid a.toNat) / 2 ^ 63 = 1) = true then (BitVec.toNat (Reads s tid a.toNat) / 2 ^ 11 % 8 * 112 + BitVec.toNat (Reads s tid a.toNat) / 2 ^ 4 % 128) * 8 + BitVec.toNat (Reads s tid a.toNat) % 8 else BitVec.toNat (Reads s tid a.toNat) / 2 ^ 11 % 8 * 112 + BitVec.toNat (Reads s tid a.toNat) / 2 ^ 4 % 128) (BitVec.toNat (Reads s tid b.toNat)) = false)) ∧
    (∃ (s : State) (tid : Nat) (d : BitVec 7) (a : BitVec 7) (b : BitVec 7), Issuing s tid ∧ (isFirmware s tid = true) ∧
      (Names s tid [d.toNat, a.toNat, b.toNat]) ∧ (slotwBad s (Reads s tid a.toNat) (Reads s tid b.toNat) = false) ∧
      (BitVec.toNat (Reads s tid a.toNat) / 2 ^ 60 = 3)) := by
  refine ⟨?_, ?_, ?_, ?_, ?_, ?_, ?_, ?_, ?_, ?_⟩
  · exact ⟨((fws 0x3000000000000000 0)), 0, 5, 14, 15, issuing_of (by decide +kernel), by decide +kernel,
      names_of (by decide +kernel), by decide +kernel⟩
  · exact ⟨((fws 0x0001000000002000 0x9C00000000000003)), 0, 5, 14, 15, issuing_of (by decide +kernel), by decide +kernel,
      names_of (by decide +kernel), by decide +kernel⟩
  · exact ⟨((fws 0x2000000000000000 3)), 0, 5, 14, 15, issuing_of (by decide +kernel), by decide +kernel,
      names_of (by decide +kernel), by decide +kernel⟩
  · exact ⟨((fws 0x4 0xA003)), 0, 5, 14, 15, issuing_of (by decide +kernel), by decide +kernel, names_of (by decide +kernel),
      by decide +kernel⟩
  · exact ⟨((fws 0x4 0xA003)), 0, 5, 14, 15, issuing_of (by decide +kernel), by decide +kernel, names_of (by decide +kernel),
      by decide +kernel⟩
  · exact ⟨((fws 0x4 0xA003)), 0, 5, 14, 15, issuing_of (by decide +kernel), by decide +kernel, names_of (by decide +kernel),
      by decide +kernel⟩
  · exact ⟨((fws 0x4 0xA003)), 0, 5, 14, 15, issuing_of (by decide +kernel), by decide +kernel, names_of (by decide +kernel),
      by decide +kernel⟩
  · exact ⟨((fws 0x1000000000000000 32)), 0, 5, 14, 15, issuing_of (by decide +kernel), by decide +kernel,
      names_of (by decide +kernel), by decide +kernel⟩
  · exact ⟨((fws 0x2000000000000000 3)), 0, 5, 14, 15, issuing_of (by decide +kernel), by decide +kernel,
      names_of (by decide +kernel), by decide +kernel⟩
  · exact ⟨((fws 0x3000000000000000 0)), 0, 5, 14, 15, issuing_of (by decide +kernel), by decide +kernel,
      names_of (by decide +kernel), by decide +kernel⟩

theorem witness_FirmwareInstructions_2 :
    (∃ (s : State) (tid : Nat) (d : BitVec 7) (a : BitVec 7) (b : BitVec 7), Issuing s tid ∧ (Names s tid [d.toNat, a.toNat,
      b.toNat]) ∧ (BitVec.toNat (Reads s tid a.toNat) < 2 ^ 10 ∧ BitVec.toNat (Reads s tid a.toNat) % 2 ^ 7 < 112 ∧
      BitVec.toNat (Reads s tid b.toNat) < 2 ^ 20 ∧ BitVec.toNat (Reads s tid b.toNat) / 2 ^ 16 ≠ 0 ∧
      BitVec.toNat (Reads s tid b.toNat) % 2 ^ 16 ≠ 0)) ∧
    (∃ (s : State) (tid : Nat) (d : BitVec 7) (a : BitVec 7) (b : BitVec 7), Issuing s tid ∧ (Names s tid [d.toNat, a.toNat,
      b.toNat]) ∧ (¬(BitVec.toNat (Reads s tid a.toNat) < 2 ^ 10 ∧ BitVec.toNat (Reads s tid a.toNat) % 2 ^ 7 < 112 ∧
      BitVec.toNat (Reads s tid b.toNat) < 2 ^ 20 ∧ BitVec.toNat (Reads s tid b.toNat) / 2 ^ 16 ≠ 0 ∧
      BitVec.toNat (Reads s tid b.toNat) % 2 ^ 16 ≠ 0))) := by
  refine ⟨?_, ?_⟩
  · exact ⟨((fws 3 0xF8001)), 0, 5, 14, 15, issuing_of (by decide +kernel), names_of (by decide +kernel), ⟨by decide +kernel,
      ⟨by decide +kernel, ⟨by decide +kernel, ⟨by decide +kernel, by decide +kernel⟩⟩⟩⟩⟩
  · exact ⟨((fws 112 0xF8001)), 0, 5, 14, 15, issuing_of (by decide +kernel), names_of (by decide +kernel), by decide +kernel⟩

theorem witness_Pairs_1 :
    (∃ (s : State) (tid : Nat) (d : BitVec 7) (a : BitVec 7) (b : BitVec 7), Issuing s tid ∧ (Names s tid [d.toNat, a.toNat,
      b.toNat]) ∧ (tid < s.nextId) ∧ ((s.task tid).handler = false) ∧ (pairCode s tid = 0)) ∧
    (∃ (s : State) (tid : Nat) (d : BitVec 7) (a : BitVec 7) (b : BitVec 7), Issuing s tid ∧ (Names s tid [d.toNat, a.toNat,
      b.toNat]) ∧ (tid < s.nextId) ∧
      (BitVec.toNat (Reads s tid b.toNat) < 8 ∨ 128 < BitVec.toNat (Reads s tid b.toNat) ∨ BitVec.toNat (Reads s tid b.toNat) % 8 ≠ 0 ∨ BitVec.toNat (Reads s tid a.toNat) % 2 ^ 52 % 8 ≠ 0 ∨ BitVec.toNat (Reads s tid a.toNat) % 2 ^ 52 / 128 ≠ (BitVec.toNat (Reads s tid a.toNat) % 2 ^ 52 + BitVec.toNat (Reads s tid b.toNat) - 1) / 128)) ∧
    (∃ (s : State) (tid : Nat) (u : Turn) (p : Pair) (d : BitVec 7) (a : BitVec 7) (b : BitVec 7) (i : Instr),
      (s.turn = some u) ∧ (u.tid = tid) ∧ ((s.task tid).pair = some p) ∧ (p.leader = true) ∧ ((s.task tid).shadow = false) ∧
      (p.closed = false) ∧ (p.retired < 256) ∧ (p.held.length < 64) ∧ ((s.task tid).handler = false) ∧ (Names s tid [d.toNat,
      a.toNat, b.toNat]) ∧ (d.toNat < 120) ∧ (p.agreed = false) ∧ (i ∈ [Instr.ckpt d, Instr.unpair d, Instr.yield,
      Instr.tend a, Instr.fence 0])) := by
  refine ⟨?_, ?_, ?_⟩
  · exact ⟨pst, 0, 5, 10, 3, issuing_of (by decide +kernel), names_of (by decide +kernel), by decide +kernel⟩
  · exact ⟨pst, 0, 5, 10, 3, issuing_of (by decide +kernel), names_of (by decide +kernel), by decide +kernel⟩
  · exact ⟨((pps pp)), 0, ({ tid := 0, insn := 0x1234, len := 4 }), pp, 5, 3, 4, Instr.yield,
      and5 (by decide +kernel) (and4 (by decide +kernel) ⟨names_of (by decide +kernel), by decide +kernel⟩)⟩

end C10

namespace C11

def hl (h : Halt) (t : Task)
  (f : List FaultMsg) : State := { mk { t with halt := some h } with turn := none, clusters := [(0, { cl0 with faults := f })] }

def h0 (c : Code) : Halt := { code := c, detail := 0x10003, len := 4, insn := 0 }

def fm : FaultMsg := { tid := 0, w0 := 0, w1 := 0, w2 := 0, w3 := 0 }

def hld (c : Code) : Halt := { h0 c with held := true }

def fil (w : Bool) (r : Nat) : Fill := { asid := 1, vpn := 5, walked := w, reply := r, threads := [(0, h0 PAGE_ABSENT)] }

def fls (f : Fill)
  (c : Ctx) : State := { st with turn := none, ctxs := [(0, c)], clusters := [(0, { cl0 with fills := [f], pageFuts := [{ ctx := 0, vpn := 5, h := some 0x9000000000000005 }] })], hub := { st.hub with fills := [f] } }

def lf : Tlb := { leaf with tag := 0x0001000000005000 }

theorem witness_FaultService_1 :
    (∃ (s : State) (tid : Nat), (liveTask s tid = true) ∧ ((s.task tid).pair = none) ∧ ((s.task tid).halt = none)) ∧
    (∃ (s : State) (tid : Nat), (liveTask s tid = true) ∧ ((s.task tid).pair = none) ∧ (waitOver s tid = false)) ∧
    (∃ (s : State) (tid : Nat), (liveTask s tid = true) ∧ ((s.task tid).pair = none) ∧
      (s.cycle < (s.task tid).startedAt + 2 ^ 20)) ∧
    (∃ (s : State) (tid : Nat) (n : Nat) (i : Nat) (h : Halt) (m : FaultMsg), (liveTask s tid = true) ∧
      ((s.task tid).pair = none) ∧ ((s.task tid).halt = some h) ∧ ((s.task tid).ending = false) ∧
      ((s.cluster n).faults[i]? = some m) ∧ (m.tid = tid) ∧ (h.code ∉ [MISALIGN, TRAP, FUT_POISON, FUT_CANCEL, FUT_FULL,
      STRM_SLOT])) ∧
    (∃ (s : State) (tid : Nat) (n : Nat) (i : Nat) (h : Halt) (m : FaultMsg), (liveTask s tid = true) ∧
      ((s.task tid).pair = none) ∧ ((s.task tid).halt = some h) ∧ ((s.task tid).ending = false) ∧
      ((s.cluster n).faults[i]? = some m) ∧ (m.tid = tid) ∧ (h.code = MISALIGN) ∧ (misOf h.len h.insn = none)) ∧
    (∃ (s : State) (tid : Nat) (n : Nat) (i : Nat) (h : Halt) (m : FaultMsg), (liveTask s tid = true) ∧
      ((s.task tid).pair = none) ∧ ((s.task tid).halt = some h) ∧ ((s.task tid).ending = false) ∧
      ((s.cluster n).faults[i]? = some m) ∧ (m.tid = tid) ∧ (h.code = TRAP) ∧ ((s.ctx (s.task tid).ctx).traptab = 0)) ∧
    (∃ (s : State) (tid : Nat) (n : Nat) (i : Nat) (h : Halt) (m : FaultMsg), (liveTask s tid = true) ∧
      ((s.task tid).pair = none) ∧ ((s.task tid).halt = some h) ∧ ((s.task tid).ending = false) ∧
      ((s.cluster n).faults[i]? = some m) ∧ (m.tid = tid) ∧ (h.code = FUT_CANCEL)) ∧
    (∃ (s : State) (tid : Nat) (n : Nat) (i : Nat) (h : Halt) (m : FaultMsg), (liveTask s tid = true) ∧
      ((s.task tid).pair = none) ∧ ((s.task tid).halt = some h) ∧ ((s.task tid).ending = false) ∧
      ((s.cluster n).faults[i]? = some m) ∧ (m.tid = tid) ∧ (h.code = FUT_FULL ∨ h.code = STRM_SLOT)) ∧
    (∃ (s : State) (tid : Nat) (x : Word) (p : Park) (d : BitVec 7), (liveTask s tid = true) ∧ ((s.task tid).pair = none) ∧
      ((s.task tid).waitUntil = some (x, p)) ∧ (p.what = Pend.waitt d) ∧ (p.pops = []) ∧
      (BitVec.toNat x ≤ BitVec.toNat (s.time ((s.task tid).core / 896))) ∧ Names1 s tid d.toNat ∧ Unrecorded s tid) ∧
    (∃ (s : State) (tid : Nat) (h : Halt), (liveTask s tid = true) ∧ ((s.task tid).pair = none) ∧
      ((s.task tid).halt = some h) ∧ ((s.task tid).ending = false) ∧ (h.held = true) ∧ (h.code = STRM_SLOT) ∧
      (slotRuns s (s.task tid).core (s.task tid).ctx (classRegs (s.task tid).cls) ≠ [])) := by
  refine ⟨?_, ?_, ?_, ?_, ?_, ?_, ?_, ?_, ?_, ?_⟩
  · exact ⟨st, 0, by decide +kernel⟩
  · exact ⟨st, 0, by decide +kernel⟩
  · exact ⟨st, 0, by decide +kernel⟩
  · exact ⟨((hl (h0 PRIV) tk [fm])), 0, 0, 0, ((h0 PRIV)), fm, by decide +kernel⟩
  · exact ⟨((hl (h0 MISALIGN) tk [fm])), 0, 0, 0, ((h0 MISALIGN)), fm, by decide +kernel⟩
  · exact ⟨((hl (h0 TRAP) tk [fm])), 0, 0, 0, ((h0 TRAP)), fm, by decide +kernel⟩
  · exact ⟨((hl (h0 FUT_CANCEL) tk [fm])), 0, 0, 0, ((h0 FUT_CANCEL)), fm, by decide +kernel⟩
  · exact ⟨((hl (h0 FUT_FULL) tk [fm])), 0, 0, 0, ((h0 FUT_FULL)), fm, by decide +kernel⟩
  · exact ⟨((hl (hld FUT_FULL) { tk with waitUntil := some (0, {what := .waitt 0, hs := [], len := 4, insn := 0}), lockRetry := some 0 } [])),
      0, 0, ({ what := Pend.waitt 0, hs := [], len := 4, insn := 0 }), 0, and5 (by decide +kernel) ⟨by decide +kernel,
      by unfold Names1 Ready; decide +kernel, unrecorded_of (by decide +kernel)⟩⟩
  · exact ⟨((hl (hld STRM_SLOT) { tk with series := some 0, waitUntil := some (5, {what := .waitt 0, hs := [], len := 4, insn := 0}), lockRetry := some 9  } [])),
      0, ((hld STRM_SLOT)), by decide +kernel⟩

theorem witness_FaultService_2 :
    (∃ (s : State) (tid : Nat) (x : Word) (p : Park), (liveTask s tid = true) ∧ ((s.task tid).pair = none) ∧
      ((s.task tid).waitUntil = some (x, p)) ∧ (BitVec.toNat (s.time ((s.task tid).core / 896)) < BitVec.toNat x)) ∧
    (∃ (s : State) (tid : Nat), (liveTask s tid = true) ∧ ((s.task tid).pair = none) ∧ ((s.task tid).handler = true) ∧
      ((s.task tid).slot.isSome = true) ∧ ((s.task tid).startedAt + 2 ^ 20 ≤ s.cycle)) := by
  refine ⟨?_, ?_⟩
  · exact ⟨((hl (hld STRM_SLOT) { tk with series := some 0, waitUntil := some (5, {what := .waitt 0, hs := [], len := 4, insn := 0}), lockRetry := some 9  } [])),
      0, 5, ({ what := Pend.waitt 0, hs := [], len := 4, insn := 0 }), by decide +kernel⟩
  · exact ⟨({ mk { tk with handler := true } with cycle := 2^20 }), 0, by decide +kernel⟩

theorem witness_RegisterAndFillEvents_1 :
    (∃ (s : State) (tid : Nat) (v : Word), (liveTask s tid = true) ∧ (1 ≤ BitVec.toNat v % 8) ∧ (BitVec.toNat v % 8 ≤ 5)) ∧
    (∃ (s : State) (tid : Nat), (liveTask s tid = true) ∧ (isFirmware s tid = false)) ∧
    (∃ (s : State) (tid : Nat) (v : Word), (liveTask s tid = true) ∧ (BitVec.toNat v % 8 = 0 ∨ 5 < BitVec.toNat v % 8)) ∧
    (∃ (s : State) (tid : Nat), (liveTask s tid = true) ∧ (isFirmware s tid = true)) ∧
    (∃ (s : State) (cl : Nat) (i : Nat) (f : Fill) (t : Tlb), ((s.cluster cl).fills[i]? = some f) ∧
      (clusterMoving s cl = false) ∧ (cl < 896) ∧ (f.walked = false) ∧ (walkLeaf s (cl / 112) f.asid f.vpn = some t)) ∧
    (∃ (s : State) (i : Nat) (f : Fill) (t : Tlb), (s.hub.fills[i]? = some f) ∧ (f.walked = false) ∧
      (walkLeaf s (hubCl s / 112) f.asid f.vpn = some t)) ∧
    (∃ (s : State) (cl : Nat) (i : Nat) (code : BitVec 8) (word : Word) (p : PageFut) (h : Word),
      ((s.cluster cl).pageFuts[i]? = some p) ∧ (p.h = some h) ∧ (code = 0) ∧ (BitVec.toNat word / 2 ^ 63 = 1) ∧
      (tlbOk (pageTag s p.ctx p.vpn) word = true) ∧ ((mfind s.ctxs p.ctx).isSome = true)) ∧
    (∃ (s : State) (cl : Nat) (i : Nat) (f : Fill), ((s.cluster cl).fills[i]? = some f) ∧ (clusterMoving s cl = false) ∧
      (cl < 896) ∧ (f.walked = false) ∧ (walkLeaf s (cl / 112) f.asid f.vpn = none)) ∧
    (∃ (s : State) (i : Nat) (f : Fill), (s.hub.fills[i]? = some f) ∧ (f.walked = false) ∧
      (walkLeaf s (hubCl s / 112) f.asid f.vpn = none)) ∧
    (∃ (s : State) (cl : Nat) (i : Nat) (code : BitVec 8) (p : PageFut) (h : Word), ((s.cluster cl).pageFuts[i]? = some p) ∧
      (p.h = some h) ∧ (code ≠ 0) ∧ (p.threads = []) ∧ (p.xfers = []) ∧ (p.hub = false)) := by
  refine ⟨?_, ?_, ?_, ?_, ?_, ?_, ?_, ?_, ?_, ?_⟩
  · exact ⟨st, 0, 3, by decide +kernel⟩
  · exact ⟨st, 0, by decide +kernel⟩
  · exact ⟨((fw st)), 0, 7, by decide +kernel⟩
  · exact ⟨((fw st)), 0, by decide +kernel⟩
  · exact ⟨((fls (fil false 0) { ctx0 with pages := [lf] })), 0, 0, ((fil false 0)), lf, by decide +kernel⟩
  · exact ⟨((fls (fil false 0) { ctx0 with pages := [lf] })), 0, ((fil false 0)), lf, by decide +kernel⟩
  · exact ⟨((fls (fil false 0) { ctx0 with pages := [lf] })), 0, 0, 0, 0x9C00000000000003,
      ({ ctx := 0, vpn := 5, h := some 0x9000000000000005 }), 0x9000000000000005, by decide +kernel⟩
  · exact ⟨((fls (fil false 0) ctx0)), 0, 0, ((fil false 0)), by decide +kernel⟩
  · exact ⟨((fls (fil false 0) ctx0)), 0, ((fil false 0)), by decide +kernel⟩
  · exact ⟨((fls (fil false 0) ctx0)), 0, 0, 5, ({ ctx := 0, vpn := 5, h := some 0x9000000000000005 }), 0x9000000000000005,
      by decide +kernel⟩

theorem witness_RegisterAndFillEvents_2 :
    (∃ (s : State) (cl : Nat) (i : Nat) (f : Fill), ((s.cluster cl).fills[i]? = some f) ∧ (clusterMoving s cl = false) ∧
      (cl < 896) ∧ (f.walked = true) ∧ (f.reply = 0)) ∧
    (∃ (s : State) (cl : Nat) (i : Nat) (code : BitVec 8) (word : Word) (p : PageFut) (h : Word),
      ((s.cluster cl).pageFuts[i]? = some p) ∧ (p.h = some h) ∧ (code = 0) ∧ (BitVec.toNat word / 2 ^ 63 = 0)) ∧
    (∃ (s : State) (cl : Nat) (i : Nat) (f : Fill) (tid : Nat) (d : Halt), ((s.cluster cl).fills[i]? = some f) ∧
      (clusterMoving s cl = false) ∧ (cl < 896) ∧ (f.walked = true) ∧ (f.reply ≠ 0) ∧ (f.xfers = []) ∧ (f.threads = [(tid,
      d)]) ∧ (liveTask s tid = true) ∧ ((s.task tid).halt = none) ∧ ((s.task tid).slot.isSome = true) ∧
      (isFrozen s tid = false)) := by
  refine ⟨?_, ?_, ?_⟩
  · exact ⟨((fls (fil true 0) ctx0)), 0, 0, ((fil true 0)), by decide +kernel⟩
  · exact ⟨((fls (fil true 0) ctx0)), 0, 0, 0, 3, ({ ctx := 0, vpn := 5, h := some 0x9000000000000005 }), 0x9000000000000005,
      by decide +kernel⟩
  · exact ⟨((fls (fil true 0x22) ctx0)), 0, 0, ((fil true 0x22)), 0, (h0 PAGE_ABSENT), by decide +kernel⟩

end C11

namespace C12

def tw (x w : Word) (s : State) : State := { s with tasks := [(0, (rgs [(14, x), (15, w)] (s.task 0)))] }

def k1 : State := { st with cores := [(1, { core0 with slots := [(0, 0)] })], tasks := [(0, { tk with core := 1 })] }

def t2 : Task := { phase := .ready, ctx := 0, cls := 0, r := { pc := 0x3000 } }

def ds (e : List Entry) : State := { st with turn := none, tasks := [(0, tk), (2, t2)], cores := [(0, { core0 with deque := e })] }

def lg : State := { ds [.task 2] with cycle := 100000, cores := [(0, { core0 with deque := [.task 2], passed := [(2, 5)] })] }

def pf : State := { ds [.task 2] with tasks := [(0, tk), (2, { t2 with phase := .created, tiles := some 0x10080 })] }

def idl : State := { st with turn := none, tasks := [(0, tk), (2, t2)], cores := [(0, { core0 with slots := [], table := [(0, 0xA000)] }), (1, { core0 with deque := [.task 2, .task 2] })], cycle := 100000 }

def stl (x : Steal) : State := { idl with net := { steals := [x] } }

def fq (op : FOp) : FutMsg := { tid := 0, ctx := 0, cl := 1, h := 0x9000000000000000 + 5 * 2^18 + 7, op := op }

def fut5 (f : FState) : Fut := { idx := 5, gen := 7, prod := .empty, ctx := 0, launch := none, st := f, value := 99, code := 0x33, flags := 4 }

def fr (op : FOp)
  (f : FState) : State := { ds [] with net := { futReqs := [fq op] }, clusters := [(0, { cl0 with futs := [(5, fut5 f)] })] }

def fp : State := { ds [] with net := { futReps := [fq .touch], wakeMsgs := [{ cl := 0, h := 5, view := { out := 0 } }] }, clusters := [(0, { cl0 with remoteWaits := [(5, 2)], wakes := [{ tid := 2, h := 5, view := { out := 0 } }] })] }

def wk : Wake := { tid := 2, h := 0x9000000000000000 + 5 * 2^18 + 7, view := { out := 0, value := 77, flags := 2 } }

def pk : Park := { what := .touch 3 false, hs := [wk.h], len := 4, insn := 0 }

def wks : State := { ds [] with tasks := [(0, tk), (2, { t2 with phase := .parked, park := some pk, frame := true })], clusters := [(0, { cl0 with wakes := [wk], futs := [(5, { fut5 .resolved with waiters := [2, 3] })] })] }

theorem witness_TransposesAndSwaps_2 :
    (∃ (s : State) (s2 : State) (tid : Nat) (d : BitVec 7) (a : BitVec 7) (b : BitVec 7) (h : Word), Issuing s tid ∧
      (Names s tid [d.toNat, a.toNat, b.toNat]) ∧ (swOk (Reads s tid b.toNat) (Reads s tid a.toNat) = true) ∧
      (BitVec.toNat (Reads s tid a.toNat) + swSpan (Reads s tid b.toNat) ≤ (Option.map Part.size (partOf (s.core (s.task tid).core) (s.task tid).ctx)).getD 0) ∧
      (mirrorOf (s.task tid).core = (s.task tid).core ∨ (s.core (s.task tid).core).swaps.length < 4) ∧
      (mirrorOf (s.task tid).core = (s.task tid).core → swTr (Reads s tid b.toNat) = true → portRefuses s (s.task tid).core 4 (min (2 ^ (swCols (Reads s tid b.toNat) * swEw (Reads s tid b.toNat)).log2) 128) (s.task tid).core (BitVec.toNat (Reads s tid a.toNat)) = false) ∧
      (allocFut s ((s.task tid).core / 8) (s.task tid).ctx (s.task tid).launch Machine.Prod.swap = Alloc.got h s2) ∧
      (relReady s2 tid 3 = true) ∧ (mirrorOf (s.task tid).core = (s.task tid).core) ∧ (swTr (Reads s tid b.toNat) = true) ∧
      (blockMapped s2 (s.task tid).core (s.task tid).ctx (BitVec.toNat (Reads s tid a.toNat)) (Reads s tid b.toNat) = false)) ∧
    (∃ (s : State) (s2 : State) (tid : Nat) (d : BitVec 7) (a : BitVec 7) (b : BitVec 7) (h : Word), Issuing s tid ∧
      (Names s tid [d.toNat, a.toNat, b.toNat]) ∧ (swOk (Reads s tid b.toNat) (Reads s tid a.toNat) = true) ∧
      (BitVec.toNat (Reads s tid a.toNat) + swSpan (Reads s tid b.toNat) ≤ (Option.map Part.size (partOf (s.core (s.task tid).core) (s.task tid).ctx)).getD 0) ∧
      (mirrorOf (s.task tid).core = (s.task tid).core ∨ (s.core (s.task tid).core).swaps.length < 4) ∧
      (mirrorOf (s.task tid).core = (s.task tid).core → swTr (Reads s tid b.toNat) = true → portRefuses s (s.task tid).core 4 (min (2 ^ (swCols (Reads s tid b.toNat) * swEw (Reads s tid b.toNat)).log2) 128) (s.task tid).core (BitVec.toNat (Reads s tid a.toNat)) = false) ∧
      (allocFut s ((s.task tid).core / 8) (s.task tid).ctx (s.task tid).launch Machine.Prod.swap = Alloc.got h s2) ∧
      (relReady s2 tid 3 = true) ∧ (mirrorOf (s.task tid).core = (s.task tid).core) ∧ (swTr (Reads s tid b.toNat) = false)) ∧
    (∃ (s : State) (tid : Nat) (d : BitVec 7) (a : BitVec 7) (b : BitVec 7), Issuing s tid ∧ (Names s tid [d.toNat, a.toNat,
      b.toNat]) ∧ (swOk (Reads s tid b.toNat) (Reads s tid a.toNat) = true) ∧
      ((Option.map Part.size (partOf (s.core (s.task tid).core) (s.task tid).ctx)).getD 0 < BitVec.toNat (Reads s tid a.toNat) + swSpan (Reads s tid b.toNat))) ∧
    (∃ (s : State) (s2 : State) (tid : Nat) (d : BitVec 7) (a : BitVec 7) (b : BitVec 7) (h : Word), Issuing s tid ∧
      (Names s tid [d.toNat, a.toNat, b.toNat]) ∧ (swOk (Reads s tid b.toNat) (Reads s tid a.toNat) = true) ∧
      (BitVec.toNat (Reads s tid a.toNat) + swSpan (Reads s tid b.toNat) ≤ (Option.map Part.size (partOf (s.core (s.task tid).core) (s.task tid).ctx)).getD 0) ∧
      (mirrorOf (s.task tid).core = (s.task tid).core ∨ (s.core (s.task tid).core).swaps.length < 4) ∧
      (mirrorOf (s.task tid).core = (s.task tid).core → swTr (Reads s tid b.toNat) = true → portRefuses s (s.task tid).core 4 (min (2 ^ (swCols (Reads s tid b.toNat) * swEw (Reads s tid b.toNat)).log2) 128) (s.task tid).core (BitVec.toNat (Reads s tid a.toNat)) = false) ∧
      (allocFut s ((s.task tid).core / 8) (s.task tid).ctx (s.task tid).launch Machine.Prod.swap = Alloc.got h s2) ∧
      (relReady s2 tid 3 = true) ∧ (mirrorOf (s.task tid).core ≠ (s.task tid).core) ∧
      ((s2.core (mirrorOf (s.task tid).core)).dead = false) ∧
      (partOf (s2.core (mirrorOf (s.task tid).core)) (s.task tid).ctx = none)) ∧
    (∃ (s : State) (s2 : State) (tid : Nat) (d : BitVec 7) (a : BitVec 7) (b : BitVec 7) (h : Word), Issuing s tid ∧
      (Names s tid [d.toNat, a.toNat, b.toNat]) ∧ (swOk (Reads s tid b.toNat) (Reads s tid a.toNat) = true) ∧
      (BitVec.toNat (Reads s tid a.toNat) + swSpan (Reads s tid b.toNat) ≤ (Option.map Part.size (partOf (s.core (s.task tid).core) (s.task tid).ctx)).getD 0) ∧
      (mirrorOf (s.task tid).core = (s.task tid).core ∨ (s.core (s.task tid).core).swaps.length < 4) ∧
      (mirrorOf (s.task tid).core = (s.task tid).core → swTr (Reads s tid b.toNat) = true → portRefuses s (s.task tid).core 4 (min (2 ^ (swCols (Reads s tid b.toNat) * swEw (Reads s tid b.toNat)).log2) 128) (s.task tid).core (BitVec.toNat (Reads s tid a.toNat)) = false) ∧
      (allocFut s ((s.task tid).core / 8) (s.task tid).ctx (s.task tid).launch Machine.Prod.swap = Alloc.got h s2) ∧
      (relReady s2 tid 3 = true) ∧ (mirrorOf (s.task tid).core ≠ (s.task tid).core ∨ swTr (Reads s tid b.toNat) = true ∧
      blockMapped s2 (s.task tid).core (s.task tid).ctx (BitVec.toNat (Reads s tid a.toNat)) (Reads s tid b.toNat) = true) ∧
      ((s2.core (mirrorOf (s.task tid).core)).dead = false) ∧
      (partOf (s2.core (mirrorOf (s.task tid).core)) (s.task tid).ctx ≠ none)) ∧
    (∃ (s : State) (tid : Nat) (d : BitVec 7) (a : BitVec 7) (b : BitVec 7), Issuing s tid ∧ (Names s tid [d.toNat, a.toNat,
      b.toNat]) ∧ (swOk (Reads s tid b.toNat) (Reads s tid a.toNat) = true) ∧
      (BitVec.toNat (Reads s tid a.toNat) + swSpan (Reads s tid b.toNat) ≤ (Option.map Part.size (partOf (s.core (s.task tid).core) (s.task tid).ctx)).getD 0) ∧
      (mirrorOf (s.task tid).core = (s.task tid).core ∨ (s.core (s.task tid).core).swaps.length < 4) ∧
      (mirrorOf (s.task tid).core = (s.task tid).core → swTr (Reads s tid b.toNat) = true → portRefuses s (s.task tid).core 4 (min (2 ^ (swCols (Reads s tid b.toNat) * swEw (Reads s tid b.toNat)).log2) 128) (s.task tid).core (BitVec.toNat (Reads s tid a.toNat)) = false) ∧
      (allocFut s ((s.task tid).core / 8) (s.task tid).ctx (s.task tid).launch Machine.Prod.swap = Alloc.full)) := by
  refine ⟨?_, ?_, ?_, ?_, ?_, ?_⟩
  · exact ⟨((tw 0 0x80100101 st)), _, 0, 5, 14, 15, _, issuing_of (by decide +kernel), names_of (by decide +kernel),
      and4 (by decide +kernel) ⟨rfl, by decide +kernel⟩⟩
  · exact ⟨((tw 0 0x100101 st)), _, 0, 5, 14, 15, _, issuing_of (by decide +kernel), names_of (by decide +kernel),
      and4 (by decide +kernel) ⟨rfl, by decide +kernel⟩⟩
  · exact ⟨((tw 32760 0x100101 st)), 0, 5, 14, 15, issuing_of (by decide +kernel), names_of (by decide +kernel),
      by decide +kernel⟩
  · exact ⟨((tw 0 0x100101 k1)), _, 0, 5, 14, 15, _, issuing_of (by decide +kernel), names_of (by decide +kernel),
      and4 (by decide +kernel) ⟨rfl, by decide +kernel⟩⟩
  · exact ⟨((tw 0 0x100101 { k1 with cores := k1.cores ++ [(8, core0)] })), _, 0, 5, 14, 15, _, issuing_of (by decide +kernel),
      names_of (by decide +kernel), and4 (by decide +kernel) ⟨rfl, by decide +kernel⟩⟩
  · exact ⟨((full (tw 0 0x100101 k1))), 0, 5, 14, 15, issuing_of (by decide +kernel), names_of (by decide +kernel),
      and4 (by decide +kernel) (full_alloc (n := 5) (s := (full (tw 0 0x100101 k1))) rfl rfl)⟩

theorem witness_SchedulingEvents_1 :
    (∃ (s : State) (k : Nat) (t : Nat), (unitSilent s k = false) ∧ ((s.core k).dead = false) ∧
      ((s.core k).handed ≤ s.cycle) ∧ (List.find? (mayTake s k) (dispatchList (s.core k)) = some (Entry.task t)) ∧
      ((s.task t).pair = none) ∧ ((s.task t).claim = none)) ∧
    (∃ (s : State) (k : Nat) (tid : Nat), (isLarge s k tid = false)) ∧
    (∃ (s : State) (k : Nat) (cl : Nat) (pos : Nat), (k / 8 = cl) ∧ (prefetchable s k pos = false)) ∧
    (∃ (s : State) (k : Nat), (maySweep s k = false)) ∧
    (∃ (s : State) (k : Nat), (unitSilent s k = false) ∧ ((s.core k).dead = false) ∧ ((s.core k).handed ≤ s.cycle) ∧
      (List.find? (mayTake s k) (dispatchList (s.core k)) = none)) ∧
    (∃ (s : State) (i : Nat) (x : Steal), (s.net.steals[i]? = some x) ∧ (x.answered = true) ∧
      (underRemap s x.thief = false) ∧ (stealWaits s x = false) ∧ (x.got = none)) ∧
    (∃ (s : State) (i : Nat) (m : FutMsg), (s.net.futReqs[i]? = some m) ∧ (m.retry = false) ∧
      (clusterMoving s (hCl m.h) = false) ∧ (opAllowed s (fopAt s (hCl m.h) m).1 = true) ∧ (isFrel m.op = false)) ∧
    (∃ (s : State) (i : Nat) (m : FutMsg), (s.net.futReps[i]? = some m) ∧ (unitSilent s (s.task m.tid).core = false) ∧
      ((s.task m.tid).ask = none)) ∧
    (∃ (s : State) (i : Nat) (m : WakeMsg), (s.net.wakeMsgs[i]? = some m) ∧ (m.cl < 1024) ∧ (clusterMoving s m.cl = false) ∧
      (∀ r ∈ s.net.futReps, r.cl = m.cl → r.h = m.h → r.view.out ≠ 4)) ∧
    (∃ (s : State) (cl : Nat) (w : Wake) (rest : List Wake), ((s.cluster cl).wakes = w :: rest) ∧
      (clusterMoving s cl = false) ∧ ((s.cluster cl).wakeAt ≤ s.cycle) ∧ ((s.task w.tid).park = none)) := by
  refine ⟨?_, ?_, ?_, ?_, ?_, ?_, ?_, ?_, ?_, ?_⟩
  · exact ⟨lg, 0, 2, by decide +kernel⟩
  · exact ⟨lg, 0, 2, by decide +kernel⟩
  · exact ⟨lg, 0, 0, 0, by decide +kernel⟩
  · exact ⟨lg, 0, by decide +kernel⟩
  · exact ⟨pf, 0, by decide +kernel⟩
  · exact ⟨((stl { thief := 0, victim := 1, ctx := 0, answered := true })), 0,
      ({ thief := 0, victim := 1, ctx := 0, answered := true }), by decide +kernel⟩
  · exact ⟨((fr .touch .pending)), 0, (fq FOp.touch), by decide +kernel⟩
  · exact ⟨fp, 0, (fq FOp.touch), by decide +kernel⟩
  · exact ⟨fp, 0, ({ cl := 0, h := 5, view := { out := 0 } }), by decide +kernel⟩
  · exact ⟨fp, 0, ({ tid := 2, h := 5, view := { out := 0 } }), ([]), by decide +kernel⟩

theorem witness_SchedulingEvents_2 : ∃ (s : State) (cl : Nat) (w : Wake) (rest : List Wake) (p : Park) (d : BitVec 7), ((s.cluster cl).wakes = w :: rest) ∧
    (clusterMoving s cl = false) ∧ ((s.cluster cl).wakeAt ≤ s.cycle) ∧ (liveTask s w.tid = true) ∧
    ((s.task w.tid).park = some p) ∧ (p.what = Pend.touch d false) ∧ (w.h ∈ p.hs) ∧ ((s.task w.tid).phase = Phase.parked) ∧
    ((s.task w.tid).pair = none) ∧ Names1 s w.tid d.toNat ∧ ((s.task w.tid).core / 8 = cl) ∧ ((s.task w.tid).halt = none) ∧
    (p.pops = []) ∧ ((s.core (s.task w.tid).core).deque.length < 256) := by
  exact ⟨wks, 0, wk, ([]), pk, 3, and5 (by decide +kernel) (and4 (by decide +kernel) ⟨by unfold Names1 Ready; decide +kernel,
    by decide +kernel⟩)⟩

end C12

namespace C13

def t2 : Task := { phase := .ready, ctx := 0, cls := 0, r := { pc := 0x3000 } }

def lau : Launch := { ctx := 0, queue := 0, hdr := [0, 0, 0, 0, 0, 0, 0, 0x1000000007], st := .running }

def idl : State := { st with turn := none, launches := [(3, lau)], tasks := [(2, { t2 with phase := .created, core := 1, launch := some 3 })], cores := [(0, { core0 with slots := [], table := [(0, 0xA000)] }), (1, { core0 with slots := [], deque := [.task 2, .task 2] })], cycle := 100000 }

def mkl (x : Launch) : State := { idl with tasks := [], launches := [(3, x)], cores := [], queues := [(0, { ctx := 0, prio := 0, vec := none, segs := [], live := [3] })] }

def dn : Launch := { lau with root := none, rootEnd := some { status := 0 } }

def dn1 : Launch := { dn with tree := (List.range 10).map fun i => (i, { runs := 2 }) }

def dn2 : Launch := { dn1 with complete := true, marks := [(0, 0)] }

def timed : Launch := { lau with hdr := [0, 0, 0, 0, 0, 0, 0, 0x1000000007, 0, 0, 0, 1 * 2^32], readAt := 0 }

theorem witness_SchedulingEvents_3 : ∃ (s : State) (k : Nat), (maySweep s k = true) := by
  exact ⟨idl, 0, by decide +kernel⟩

theorem witness_LaunchEnds_1 :
    (∃ (s : State) (l : Nat) (x : Launch), (launchOf s l = some x) ∧ (x.st = LState.running ∧ x.complete = false)) ∧
    (∃ (s : State) (l : Nat) (x : Launch), (launchOf s l = some x) ∧ (x.st = LState.running) ∧ (x.complete = false)) ∧
    (∃ (s : State) (l : Nat) (x : Launch), (launchOf s l = some x) ∧
      (BitVec.toNat (x.w 12) / 2 ^ 32 = 0 ∨ s.cycle < x.readAt + nsCycles (1000 * (BitVec.toNat (x.w 12) / 2 ^ 32)))) ∧
    (∃ (s : State) (l : Nat) (x : Launch), (launchOf s l = some x) ∧ (recMode s (some l) ≠ 2)) ∧
    (∃ (s : State) (l : Nat) (x : Launch), (launchOf s l = some x) ∧ (s.cycle < x.recAt + nsCycles 10000000)) ∧
    (∃ (s : State) (l : Nat) (x : Launch), (launchOf s l = some x) ∧ (((fun i => mget { } (sweepTree s l x) i) 0).runs = 2)) ∧
    (∃ (s : State) (l : Nat) (x : Launch), (launchOf s l = some x) ∧ (¬(x.st = LState.running ∧ x.complete = false))) ∧
    (∃ (s : State) (l : Nat) (x : Launch), (launchOf s l = some x) ∧ (x.st = LState.running) ∧ (x.complete = true) ∧
      (launchIdle s l x = true) ∧ (launchReleased s x = true) ∧ (tracesCopied s l = true) ∧ (x.w 11 = 0) ∧
      (recMode s (some l) ≠ 1) ∧ (s.hub.restart = false) ∧ (retiresAfter s x = false) ∧ (strays s l x = false) ∧
      (∀ y ∈ s.net.csc, y.ofLaunch l = false)) ∧
    (∃ (s : State) (l : Nat) (x : Launch), (launchOf s l = some x) ∧ (BitVec.toNat (x.w 12) / 2 ^ 32 ≠ 0) ∧
      (x.st ≠ LState.retired) ∧ (x.abandon = none) ∧ (x.readAt + nsCycles (1000 * (BitVec.toNat (x.w 12) / 2 ^ 32)) ≤ s.cycle)) := by
  refine ⟨?_, ?_, ?_, ?_, ?_, ?_, ?_, ?_, ?_⟩
  · exact ⟨idl, 3, lau, by decide +kernel, ⟨by decide +kernel, by decide +kernel⟩⟩
  · exact ⟨idl, 3, lau, by decide +kernel⟩
  · exact ⟨idl, 3, lau, by decide +kernel⟩
  · exact ⟨idl, 3, lau, by decide +kernel⟩
  · exact ⟨idl, 3, lau, by decide +kernel⟩
  · exact ⟨((mkl dn1)), 3, dn1, by decide +kernel⟩
  · exact ⟨((mkl dn2)), 3, dn2, by decide +kernel⟩
  · exact ⟨((mkl dn2)), 3, dn2, by decide +kernel⟩
  · exact ⟨((mkl timed)), 3, timed, by decide +kernel⟩

end C13

namespace C14

def tl : Tile := { owner := some 0, ty := true, e := [(0, 5), (129, 6)] }

def jw (op : Nat) : List Word := [match op with | 0 => 0x0310_0020_0000_0000 | 1 => 0x1300_0000_0000_0000 | 2 => 0x2300_0000_0000_0000 | _ => 0x3300_0000_0000_0000,
  match op with | 3 => 0 | _ => 0x040FFE0000000080, match op with | 0 => 0x040FFE0000000080 | _ => 0, 77]

def jb (op : Nat)
  (r : Option Word) : Job := { id := 4, ctx := 0, launch := none, w0 := (jw op).getD 0 0, w1 := (jw op).getD 1 0, w2 := (jw op).getD 2 0, w3 := 77, sink := .ep 0, rm := 1, rng := 1, time := 0, result := r }

def sj (op : Nat) (r : Option Word)
  (ow : Nat) : State := { st with turn := none, clusters := [(0, { cl0 with tiles := [(3, { tl with owner := some ow, ty := op == 0 })], jobs := [jb op r] })] }

def started (s : State) (x : Job) : Job := (((startJob s 0 x).cluster 0).jobs.find? fun z => z.id == x.id).getD x

def swp (c : Nat)
  (d : Word) : Swap := { id := 50 + c, core := c, off := 0, d := d, ctx := 0, fut := 0x9000000000000000 + 5 * 2^18 + 7 }

def sws (l m : List Swap) : State := { st with turn := none, cores := [(1, { core0 with swaps := l, slots := [] }), (8, { core0 with swaps := m, slots := [] })], clusters := [(0, { cl0 with futs := [(5, { idx := 5, gen := 7, prod := .swap, ctx := 0, launch := none })] })] }

def lnd (c d : Nat) : Landing := { id := 50 + c, ctx := 0, core := c, src := d, off := 0, pitch := 16, rowLen := 2, ew := 1, fut := 0x9000000000000000 + 5 * 2^18 + 7, bytes := [1, 2, 3, 4], bad := [] }

theorem witness_MatrixEvents_1 :
    (∃ (s : State) (cl : Nat) (x : Job) (y : Job) (a : State) (b : State), (mxNext s cl = some x) ∧ (x.result = none) ∧
      (mayStart s cl x = true) ∧ (List.find? (fun z => decide (z.id = x.id)) ((startJob s cl x).cluster cl).jobs = some y) ∧
      (mxOp x.w0 = 0) ∧ (mxDescOk ((startJob s cl x).tile cl (mxTile y.w0)).ty y.w0 y.w1 y.w2 y.w3 = true) ∧
      (mmaWork cl (startJob s cl x) y = Eng.ok a b)) ∧
    (∃ (s : State) (cl : Nat) (x : Job) (y : Job) (a : State) (b : State), (mxNext s cl = some x) ∧ (x.result = none) ∧
      (mayStart s cl x = true) ∧ (List.find? (fun z => decide (z.id = x.id)) ((startJob s cl x).cluster cl).jobs = some y) ∧
      (mxOp x.w0 = 1) ∧ (mxDescOk ((startJob s cl x).tile cl (mxTile y.w0)).ty y.w0 y.w1 y.w2 y.w3 = true) ∧
      (loadWork cl (startJob s cl x) y = Eng.ok a b)) ∧
    (∃ (s : State) (cl : Nat) (x : Job) (y : Job) (a : State) (b : State), (mxNext s cl = some x) ∧ (x.result = none) ∧
      (mayStart s cl x = true) ∧ (List.find? (fun z => decide (z.id = x.id)) ((startJob s cl x).cluster cl).jobs = some y) ∧
      (mxOp x.w0 = 2) ∧ (mxDescOk ((startJob s cl x).tile cl (mxTile y.w0)).ty y.w0 y.w1 y.w2 y.w3 = true) ∧
      (storeWork cl (startJob s cl x) y = Eng.ok a b)) ∧
    (∃ (s : State) (cl : Nat) (x : Job) (y : Job) (a : State) (b : State), (mxNext s cl = some x) ∧ (x.result = none) ∧
      (mayStart s cl x = true) ∧ (List.find? (fun z => decide (z.id = x.id)) ((startJob s cl x).cluster cl).jobs = some y) ∧
      (mxOp x.w0 = 3) ∧ (mxDescOk ((startJob s cl x).tile cl (mxTile y.w0)).ty y.w0 y.w1 y.w2 y.w3 = true) ∧
      (zeroWork cl (startJob s cl x) y = Eng.ok a b)) ∧
    (∃ (s : State) (cl : Nat) (x : Job) (n : Nat) (e : Word) (t : Nat),
      (List.find? (fun z => decide (z.id = n)) (s.cluster cl).jobs = some x) ∧ (x.result = some e) ∧
      (engPending s cl n = false) ∧ (x.sink = Sink.ep t) ∧ (liveTask s t = true)) ∧
    (∃ (s : State) (i : Nat) (k : Nat) (a : Swap) (b : Swap) (x : Bytes) (y : Bytes) (s' : State),
      ((s.core k).swaps[i]? = some a) ∧ (unitSilent s k = false) ∧ (unitSilent s (mirrorOf k) = false) ∧
      (swapMate s a = some b) ∧ (a.d = b.d) ∧ (((blockOf s a).bind fun x s => (blockOf s b).bind fun y s => Eng.ok (x,
      y) s) = Eng.ok (x, y) s')) ∧
    (∃ (s : State) (i : Nat) (k : Nat) (a : Swap) (b : Swap), ((s.core k).swaps[i]? = some a) ∧ (unitSilent s k = false) ∧
      (unitSilent s (mirrorOf k) = false) ∧ (swapMate s a = some b) ∧ (a.d ≠ b.d)) ∧
    (∃ (s : State) (i : Nat) (k : Nat) (a : Swap), ((s.core k).swaps[i]? = some a) ∧ (unitSilent s k = false) ∧
      (unitSilent s (mirrorOf k) = false) ∧ (swapMate s a = none)) ∧
    (∃ (s : State) (i : Nat) (xs : List Landing) (a : Landing) (b : Landing), (s.net.landings[i]? = some xs) ∧
      (∀ z ∈ (landBlocks xs s).1, Landing.over (landBlocks xs s).2 z = true ∧
      engPending (landBlocks xs s).2 (z.core / 8) z.id = false) ∧ ((landBlocks xs s).1 = [a, b]) ∧ (a.code = 0) ∧ (b.code = 0)) := by
  refine ⟨?_, ?_, ?_, ?_, ?_, ?_, ?_, ?_, ?_⟩
  · exact ⟨((sj 0 none 0)), 0, ((jb 0 none)), ((started (sj 0 none 0) (jb 0 none))), _, _,
      and5 (by decide +kernel) ⟨by decide +kernel, eng_ok (by decide +kernel)⟩⟩
  · exact ⟨((sj 1 none 0)), 0, ((jb 1 none)), ((started (sj 1 none 0) (jb 1 none))), _, _,
      and5 (by decide +kernel) ⟨by decide +kernel, eng_ok (by decide +kernel)⟩⟩
  · exact ⟨((sj 2 none 0)), 0, ((jb 2 none)), ((started (sj 2 none 0) (jb 2 none))), _, _,
      and5 (by decide +kernel) ⟨by decide +kernel, eng_ok (by decide +kernel)⟩⟩
  · exact ⟨((sj 3 none 0)), 0, ((jb 3 none)), ((started (sj 3 none 0) (jb 3 none))), _, (startJob (sj 3 none 0) 0 (jb 3 none)),
      and5 (by decide +kernel) ⟨by decide +kernel, eng_ok (by decide +kernel)⟩⟩
  · exact ⟨((sj 3 (some 0x5) 0)), 0, ((jb 3 (some 5))), 4, 5, 0, by decide +kernel⟩
  · exact ⟨((sws [swp 1 0x100101] [swp 8 0x100101])), 0, 1, (swp 1 1048833), (swp 8 1048833), _, _, _,
      and5 (by decide +kernel) (eng_ok (by decide +kernel))⟩
  · exact ⟨((sws [swp 1 0x100101] [swp 8 0x100102])), 0, 1, (swp 1 1048833), (swp 8 1048834), by decide +kernel⟩
  · exact ⟨((sws [swp 1 0x100101] [])), 0, 1, (swp 1 1048833), by decide +kernel⟩
  · exact ⟨({ sws [] [] with net := { landings := [[lnd 1 8, lnd 8 1]] } }), 0, ([lnd 1 8, lnd 8 1]), _, _, by decide +kernel,
      by decide +kernel, rfl, by decide +kernel⟩

end C14

namespace C20

def dd (op : Nat) : List Word := match op with
  | 0 => [64, 0xFFE0000000080, 0x10000, 0]
  | 1 => [2^60 + 64, 0x10000,
  0xFFE0000000080, 0]
  | 2 => [2 * 2^60 + 64, 0x10000, 0x10040, 0]
  | _ => [3 * 2^60 + 64, 0x10000, 0x20000,
  2^48 + 64 * 2^24 + 64]

def xs (op : Nat) : State := withDesc (mk (rgs [(14, 0x10080), (20, (dd op).getD 0 0), (21, (dd op).getD 1 0), (22,
  (dd op).getD 2 0), (23, (dd op).getD 3 0)] tk)) (dd op)

def a14 (v w : Word) : State := mk (rgs [(14, v), (15, w)] tk)

def ptr (code : Nat) : State := a14 (BitVec.ofNat 64 (code * 2^58 + 0x10000)) 0

def stm (m : List Stash) (v w : Word) : State := { a14 v w with cores := [(0, { core0 with parts := [{ part0 with stash := m }] })] }

def tls (t : Tile) (a b : Word) : State := { a14 a b with clusters := [(0, { cl0 with tiles := [(3, t)] })] }

def jb : Job := { id := 4, ctx := 0, launch := none, w0 := 3 * 2^60 + 3 * 2^56, w1 := 0, w2 := 0, w3 := 0, sink := .fut 0, rm := 0, rng := 1, time := 0 }

def mj (s : State) : State := { s with clusters := [(0, { s.cluster 0 with jobs := [jb] })] }

theorem witness_IntegerTwoSource_1 : ∃ (s : State) (tid : Nat) (d : BitVec 7) (a : BitVec 7) (b : BitVec 7), Issuing s tid ∧ (Names s tid [d.toNat, a.toNat,
    b.toNat]) := by
  exact ⟨st, 0, 5, 3, 4, issuing_of (by decide +kernel), names_of (by decide +kernel)⟩

theorem witness_LoadsAndStores_1 :
    (∃ (s : State) (s1 : State) (tid : Nat) (v : Nat) (d : BitVec 7) (a : BitVec 7) (o : BitVec 6) (e : BitVec 5)
      (f : BitVec 5), Issuing s tid ∧ (Names s tid [d.toNat, a.toNat, e.toNat, f.toNat, 2]) ∧
      (BitVec.toNat (Reads s tid a.toNat) / 2 ^ 52 % 8 = 0) ∧
      (((Nat.cast (R := Int) (BitVec.toNat (Reads s tid a.toNat) % 2 ^ 52) + o.toInt) % 2 ^ 52).toNat % 1 = 0) ∧
      (loadAny s tid ((Nat.cast (R := Int) (BitVec.toNat (Reads s tid a.toNat) % 2 ^ 52) + o.toInt) % 2 ^ 52).toNat 1 = Except.ok (v,
      s1))) ∧
    (∃ (s : State) (s1 : State) (tid : Nat) (v : Nat) (d : BitVec 7) (a : BitVec 7) (o : BitVec 6) (e : BitVec 5)
      (f : BitVec 5), Issuing s tid ∧ (Names s tid [d.toNat, a.toNat, e.toNat, f.toNat, 2]) ∧
      (BitVec.toNat (Reads s tid a.toNat) / 2 ^ 52 % 8 = 0) ∧
      (((Nat.cast (R := Int) (BitVec.toNat (Reads s tid a.toNat) % 2 ^ 52) + 2 * o.toInt) % 2 ^ 52).toNat % 2 = 0) ∧
      (loadAny s tid ((Nat.cast (R := Int) (BitVec.toNat (Reads s tid a.toNat) % 2 ^ 52) + 2 * o.toInt) % 2 ^ 52).toNat 2 = Except.ok (v,
      s1))) ∧
    (∃ (s : State) (s1 : State) (tid : Nat) (v : Nat) (d : BitVec 7) (a : BitVec 7) (o : BitVec 6) (e : BitVec 5)
      (f : BitVec 5), Issuing s tid ∧ (Names s tid [d.toNat, a.toNat, e.toNat, f.toNat, 2]) ∧
      (BitVec.toNat (Reads s tid a.toNat) / 2 ^ 52 % 8 = 0) ∧
      (((Nat.cast (R := Int) (BitVec.toNat (Reads s tid a.toNat) % 2 ^ 52) + 4 * o.toInt) % 2 ^ 52).toNat % 4 = 0) ∧
      (loadAny s tid ((Nat.cast (R := Int) (BitVec.toNat (Reads s tid a.toNat) % 2 ^ 52) + 4 * o.toInt) % 2 ^ 52).toNat 4 = Except.ok (v,
      s1))) ∧
    (∃ (s : State) (s1 : State) (tid : Nat) (v : Nat) (d : BitVec 7) (a : BitVec 7) (o : BitVec 6) (e : BitVec 5)
      (f : BitVec 5), Issuing s tid ∧ (Names s tid [d.toNat, a.toNat, e.toNat, f.toNat, 2]) ∧
      (BitVec.toNat (Reads s tid a.toNat) / 2 ^ 52 % 8 = 0) ∧
      (((Nat.cast (R := Int) (BitVec.toNat (Reads s tid a.toNat) % 2 ^ 52) + 8 * o.toInt) % 2 ^ 52).toNat % 8 = 0) ∧
      (loadAny s tid ((Nat.cast (R := Int) (BitVec.toNat (Reads s tid a.toNat) % 2 ^ 52) + 8 * o.toInt) % 2 ^ 52).toNat 8 = Except.ok (v,
      s1))) ∧
    (∃ (s : State) (s1 : State) (tid : Nat) (v : Nat) (d : BitVec 7) (a : BitVec 7) (k : BitVec 32) (e : BitVec 5)
      (f : BitVec 5), Issuing s tid ∧ (Names s tid [d.toNat, a.toNat, e.toNat, f.toNat, 2]) ∧
      (BitVec.toNat (Reads s tid a.toNat) / 2 ^ 52 % 8 = 0) ∧
      (((Nat.cast (R := Int) (BitVec.toNat (Reads s tid a.toNat) % 2 ^ 52) + k.toInt) % 2 ^ 52).toNat % 1 = 0) ∧
      (loadAny s tid ((Nat.cast (R := Int) (BitVec.toNat (Reads s tid a.toNat) % 2 ^ 52) + k.toInt) % 2 ^ 52).toNat 1 = Except.ok (v,
      s1))) ∧
    (∃ (s : State) (s1 : State) (tid : Nat) (v : Nat) (d : BitVec 7) (a : BitVec 7) (k : BitVec 32) (e : BitVec 5)
      (f : BitVec 5), Issuing s tid ∧ (Names s tid [d.toNat, a.toNat, e.toNat, f.toNat, 2]) ∧
      (BitVec.toNat (Reads s tid a.toNat) / 2 ^ 52 % 8 = 0) ∧
      (((Nat.cast (R := Int) (BitVec.toNat (Reads s tid a.toNat) % 2 ^ 52) + k.toInt) % 2 ^ 52).toNat % 2 = 0) ∧
      (loadAny s tid ((Nat.cast (R := Int) (BitVec.toNat (Reads s tid a.toNat) % 2 ^ 52) + k.toInt) % 2 ^ 52).toNat 2 = Except.ok (v,
      s1))) ∧
    (∃ (s : State) (s1 : State) (tid : Nat) (v : Nat) (d : BitVec 7) (a : BitVec 7) (k : BitVec 32) (e : BitVec 5)
      (f : BitVec 5), Issuing s tid ∧ (Names s tid [d.toNat, a.toNat, e.toNat, f.toNat, 2]) ∧
      (BitVec.toNat (Reads s tid a.toNat) / 2 ^ 52 % 8 = 0) ∧
      (((Nat.cast (R := Int) (BitVec.toNat (Reads s tid a.toNat) % 2 ^ 52) + k.toInt) % 2 ^ 52).toNat % 4 = 0) ∧
      (loadAny s tid ((Nat.cast (R := Int) (BitVec.toNat (Reads s tid a.toNat) % 2 ^ 52) + k.toInt) % 2 ^ 52).toNat 4 = Except.ok (v,
      s1))) ∧
    (∃ (s : State) (s1 : State) (tid : Nat) (v : Nat) (d : BitVec 7) (a : BitVec 7) (k : BitVec 32) (e : BitVec 5)
      (f : BitVec 5), Issuing s tid ∧ (Names s tid [d.toNat, a.toNat, e.toNat, f.toNat, 2]) ∧
      (BitVec.toNat (Reads s tid a.toNat) / 2 ^ 52 % 8 = 0) ∧
      (((Nat.cast (R := Int) (BitVec.toNat (Reads s tid a.toNat) % 2 ^ 52) + k.toInt) % 2 ^ 52).toNat % 8 = 0) ∧
      (loadAny s tid ((Nat.cast (R := Int) (BitVec.toNat (Reads s tid a.toNat) % 2 ^ 52) + k.toInt) % 2 ^ 52).toNat 8 = Except.ok (v,
      s1))) ∧
    (∃ (s : State) (s1 : State) (tid : Nat) (v : Nat) (d : BitVec 7) (a : BitVec 7) (e : BitVec 5) (f : BitVec 5),
      Issuing s tid ∧ (Names s tid [d.toNat, a.toNat, e.toNat, f.toNat, 2]) ∧
      (BitVec.toNat (Reads s tid f.toNat) / 2 ^ 52 % 8 = 0) ∧
      (((Nat.cast (R := Int) (BitVec.toNat (Reads s tid f.toNat) % 2 ^ 52) + 0) % 2 ^ 52).toNat % 8 = 0) ∧
      (loadAny s tid ((Nat.cast (R := Int) (BitVec.toNat (Reads s tid f.toNat) % 2 ^ 52) + 0) % 2 ^ 52).toNat 8 = Except.ok (v,
      s1))) ∧
    (∃ (s : State) (s1 : State) (tid : Nat) (v : Nat) (d : BitVec 7) (a : BitVec 7) (e : BitVec 5) (f : BitVec 5),
      Issuing s tid ∧ (Names s tid [d.toNat, a.toNat, e.toNat, f.toNat, 2]) ∧
      (BitVec.toNat (Reads s tid f.toNat) / 2 ^ 52 % 8 = 0) ∧
      (((Nat.cast (R := Int) (BitVec.toNat (Reads s tid f.toNat) % 2 ^ 52) + 0) % 2 ^ 52).toNat % 4 = 0) ∧
      (loadAny s tid ((Nat.cast (R := Int) (BitVec.toNat (Reads s tid f.toNat) % 2 ^ 52) + 0) % 2 ^ 52).toNat 4 = Except.ok (v,
      s1))) := by
  refine ⟨?_, ?_, ?_, ?_, ?_, ?_, ?_, ?_, ?_, ?_⟩
  · exact ⟨st, _, 0, _, 5, 10, 3, 5, 10, issuing_of (by decide +kernel), names_of (by decide +kernel), by decide +kernel,
      by decide +kernel, ok_pair (by decide +kernel)⟩
  · exact ⟨st, _, 0, _, 5, 10, 3, 5, 10, issuing_of (by decide +kernel), names_of (by decide +kernel), by decide +kernel,
      by decide +kernel, ok_pair (by decide +kernel)⟩
  · exact ⟨st, _, 0, _, 5, 10, 3, 5, 10, issuing_of (by decide +kernel), names_of (by decide +kernel), by decide +kernel,
      by decide +kernel, ok_pair (by decide +kernel)⟩
  · exact ⟨st, _, 0, _, 5, 10, 3, 5, 10, issuing_of (by decide +kernel), names_of (by decide +kernel), by decide +kernel,
      by decide +kernel, ok_pair (by decide +kernel)⟩
  · exact ⟨st, _, 0, _, 5, 10, 8, 5, 10, issuing_of (by decide +kernel), names_of (by decide +kernel), by decide +kernel,
      by decide +kernel, ok_pair (by decide +kernel)⟩
  · exact ⟨st, _, 0, _, 5, 10, 8, 5, 10, issuing_of (by decide +kernel), names_of (by decide +kernel), by decide +kernel,
      by decide +kernel, ok_pair (by decide +kernel)⟩
  · exact ⟨st, _, 0, _, 5, 10, 8, 5, 10, issuing_of (by decide +kernel), names_of (by decide +kernel), by decide +kernel,
      by decide +kernel, ok_pair (by decide +kernel)⟩
  · exact ⟨st, _, 0, _, 5, 10, 8, 5, 10, issuing_of (by decide +kernel), names_of (by decide +kernel), by decide +kernel,
      by decide +kernel, ok_pair (by decide +kernel)⟩
  · exact ⟨st, _, 0, _, 5, 10, 5, 10, issuing_of (by decide +kernel), names_of (by decide +kernel), by decide +kernel,
      by decide +kernel, ok_pair (by decide +kernel)⟩
  · exact ⟨st, _, 0, _, 5, 10, 5, 10, issuing_of (by decide +kernel), names_of (by decide +kernel), by decide +kernel,
      by decide +kernel, ok_pair (by decide +kernel)⟩

theorem witness_LoadsAndStores_2 :
    (∃ (s : State) (s1 : State) (tid : Nat) (v : Nat) (d : BitVec 7) (a : BitVec 7) (e : BitVec 5) (f : BitVec 5)
      (j : BitVec 5), Issuing s tid ∧ (Names s tid [d.toNat, a.toNat, e.toNat, f.toNat, 2]) ∧
      (BitVec.toNat (Reads s tid 2) / 2 ^ 52 % 8 = 0) ∧
      (((Nat.cast (R := Int) (BitVec.toNat (Reads s tid 2) % 2 ^ 52) + 8 * Nat.cast (R := Int) (j.toNat)) % 2 ^ 52).toNat % 8 = 0) ∧
      (loadAny s tid ((Nat.cast (R := Int) (BitVec.toNat (Reads s tid 2) % 2 ^ 52) + 8 * Nat.cast (R := Int) (j.toNat)) % 2 ^ 52).toNat 8 = Except.ok (v,
      s1))) ∧
    (∃ (s : State) (s1 : State) (tid : Nat) (v : Nat) (d : BitVec 7) (a : BitVec 7) (e : BitVec 5) (f : BitVec 5)
      (j : BitVec 5), Issuing s tid ∧ (Names s tid [d.toNat, a.toNat, e.toNat, f.toNat, 2]) ∧
      (BitVec.toNat (Reads s tid 2) / 2 ^ 52 % 8 = 0) ∧
      (((Nat.cast (R := Int) (BitVec.toNat (Reads s tid 2) % 2 ^ 52) + 4 * Nat.cast (R := Int) (j.toNat)) % 2 ^ 52).toNat % 4 = 0) ∧
      (loadAny s tid ((Nat.cast (R := Int) (BitVec.toNat (Reads s tid 2) % 2 ^ 52) + 4 * Nat.cast (R := Int) (j.toNat)) % 2 ^ 52).toNat 4 = Except.ok (v,
      s1))) ∧
    (∃ (s : State) (s1 : State) (tid : Nat) (d : BitVec 7) (a : BitVec 7) (o : BitVec 7) (e : BitVec 5) (f : BitVec 5),
      Issuing s tid ∧ (Names s tid [d.toNat, a.toNat, e.toNat, f.toNat, 2]) ∧
      (BitVec.toNat (Reads s tid a.toNat) / 2 ^ 52 % 8 = 0) ∧
      (((Nat.cast (R := Int) (BitVec.toNat (Reads s tid a.toNat) % 2 ^ 52) + o.toInt) % 2 ^ 52).toNat % 1 = 0) ∧
      (storeAny s tid ((Nat.cast (R := Int) (BitVec.toNat (Reads s tid a.toNat) % 2 ^ 52) + o.toInt) % 2 ^ 52).toNat (toBytes 1 (BitVec.toNat (Reads s tid d.toNat))) = Except.ok s1)) ∧
    (∃ (s : State) (s1 : State) (tid : Nat) (d : BitVec 7) (a : BitVec 7) (o : BitVec 7) (e : BitVec 5) (f : BitVec 5),
      Issuing s tid ∧ (Names s tid [d.toNat, a.toNat, e.toNat, f.toNat, 2]) ∧
      (BitVec.toNat (Reads s tid a.toNat) / 2 ^ 52 % 8 = 0) ∧
      (((Nat.cast (R := Int) (BitVec.toNat (Reads s tid a.toNat) % 2 ^ 52) + 2 * o.toInt) % 2 ^ 52).toNat % 2 = 0) ∧
      (storeAny s tid ((Nat.cast (R := Int) (BitVec.toNat (Reads s tid a.toNat) % 2 ^ 52) + 2 * o.toInt) % 2 ^ 52).toNat (toBytes 2 (BitVec.toNat (Reads s tid d.toNat))) = Except.ok s1)) ∧
    (∃ (s : State) (s1 : State) (tid : Nat) (d : BitVec 7) (a : BitVec 7) (o : BitVec 7) (e : BitVec 5) (f : BitVec 5),
      Issuing s tid ∧ (Names s tid [d.toNat, a.toNat, e.toNat, f.toNat, 2]) ∧
      (BitVec.toNat (Reads s tid a.toNat) / 2 ^ 52 % 8 = 0) ∧
      (((Nat.cast (R := Int) (BitVec.toNat (Reads s tid a.toNat) % 2 ^ 52) + 4 * o.toInt) % 2 ^ 52).toNat % 4 = 0) ∧
      (storeAny s tid ((Nat.cast (R := Int) (BitVec.toNat (Reads s tid a.toNat) % 2 ^ 52) + 4 * o.toInt) % 2 ^ 52).toNat (toBytes 4 (BitVec.toNat (Reads s tid d.toNat))) = Except.ok s1)) ∧
    (∃ (s : State) (s1 : State) (tid : Nat) (d : BitVec 7) (a : BitVec 7) (o : BitVec 7) (e : BitVec 5) (f : BitVec 5),
      Issuing s tid ∧ (Names s tid [d.toNat, a.toNat, e.toNat, f.toNat, 2]) ∧
      (BitVec.toNat (Reads s tid a.toNat) / 2 ^ 52 % 8 = 0) ∧
      (((Nat.cast (R := Int) (BitVec.toNat (Reads s tid a.toNat) % 2 ^ 52) + 8 * o.toInt) % 2 ^ 52).toNat % 8 = 0) ∧
      (storeAny s tid ((Nat.cast (R := Int) (BitVec.toNat (Reads s tid a.toNat) % 2 ^ 52) + 8 * o.toInt) % 2 ^ 52).toNat (toBytes 8 (BitVec.toNat (Reads s tid d.toNat))) = Except.ok s1)) ∧
    (∃ (s : State) (s1 : State) (tid : Nat) (d : BitVec 7) (a : BitVec 7) (k : BitVec 32) (e : BitVec 5) (f : BitVec 5),
      Issuing s tid ∧ (Names s tid [d.toNat, a.toNat, e.toNat, f.toNat, 2]) ∧
      (BitVec.toNat (Reads s tid a.toNat) / 2 ^ 52 % 8 = 0) ∧
      (((Nat.cast (R := Int) (BitVec.toNat (Reads s tid a.toNat) % 2 ^ 52) + k.toInt) % 2 ^ 52).toNat % 1 = 0) ∧
      (storeAny s tid ((Nat.cast (R := Int) (BitVec.toNat (Reads s tid a.toNat) % 2 ^ 52) + k.toInt) % 2 ^ 52).toNat (toBytes 1 (BitVec.toNat (Reads s tid d.toNat))) = Except.ok s1)) ∧
    (∃ (s : State) (s1 : State) (tid : Nat) (d : BitVec 7) (a : BitVec 7) (k : BitVec 32) (e : BitVec 5) (f : BitVec 5),
      Issuing s tid ∧ (Names s tid [d.toNat, a.toNat, e.toNat, f.toNat, 2]) ∧
      (BitVec.toNat (Reads s tid a.toNat) / 2 ^ 52 % 8 = 0) ∧
      (((Nat.cast (R := Int) (BitVec.toNat (Reads s tid a.toNat) % 2 ^ 52) + k.toInt) % 2 ^ 52).toNat % 2 = 0) ∧
      (storeAny s tid ((Nat.cast (R := Int) (BitVec.toNat (Reads s tid a.toNat) % 2 ^ 52) + k.toInt) % 2 ^ 52).toNat (toBytes 2 (BitVec.toNat (Reads s tid d.toNat))) = Except.ok s1)) ∧
    (∃ (s : State) (s1 : State) (tid : Nat) (d : BitVec 7) (a : BitVec 7) (k : BitVec 32) (e : BitVec 5) (f : BitVec 5),
      Issuing s tid ∧ (Names s tid [d.toNat, a.toNat, e.toNat, f.toNat, 2]) ∧
      (BitVec.toNat (Reads s tid a.toNat) / 2 ^ 52 % 8 = 0) ∧
      (((Nat.cast (R := Int) (BitVec.toNat (Reads s tid a.toNat) % 2 ^ 52) + k.toInt) % 2 ^ 52).toNat % 4 = 0) ∧
      (storeAny s tid ((Nat.cast (R := Int) (BitVec.toNat (Reads s tid a.toNat) % 2 ^ 52) + k.toInt) % 2 ^ 52).toNat (toBytes 4 (BitVec.toNat (Reads s tid d.toNat))) = Except.ok s1)) ∧
    (∃ (s : State) (s1 : State) (tid : Nat) (d : BitVec 7) (a : BitVec 7) (k : BitVec 32) (e : BitVec 5) (f : BitVec 5),
      Issuing s tid ∧ (Names s tid [d.toNat, a.toNat, e.toNat, f.toNat, 2]) ∧
      (BitVec.toNat (Reads s tid a.toNat) / 2 ^ 52 % 8 = 0) ∧
      (((Nat.cast (R := Int) (BitVec.toNat (Reads s tid a.toNat) % 2 ^ 52) + k.toInt) % 2 ^ 52).toNat % 8 = 0) ∧
      (storeAny s tid ((Nat.cast (R := Int) (BitVec.toNat (Reads s tid a.toNat) % 2 ^ 52) + k.toInt) % 2 ^ 52).toNat (toBytes 8 (BitVec.toNat (Reads s tid d.toNat))) = Except.ok s1)) := by
  refine ⟨?_, ?_, ?_, ?_, ?_, ?_, ?_, ?_, ?_, ?_⟩
  · exact ⟨st, _, 0, _, 5, 10, 5, 10, 0, issuing_of (by decide +kernel), names_of (by decide +kernel), by decide +kernel,
      by decide +kernel, ok_pair (by decide +kernel)⟩
  · exact ⟨st, _, 0, _, 5, 10, 5, 10, 0, issuing_of (by decide +kernel), names_of (by decide +kernel), by decide +kernel,
      by decide +kernel, ok_pair (by decide +kernel)⟩
  · exact ⟨st, _, 0, 5, 10, 3, 5, 10, issuing_of (by decide +kernel), names_of (by decide +kernel), by decide +kernel,
      by decide +kernel, ok_one (by decide +kernel)⟩
  · exact ⟨st, _, 0, 5, 10, 3, 5, 10, issuing_of (by decide +kernel), names_of (by decide +kernel), by decide +kernel,
      by decide +kernel, ok_one (by decide +kernel)⟩
  · exact ⟨st, _, 0, 5, 10, 3, 5, 10, issuing_of (by decide +kernel), names_of (by decide +kernel), by decide +kernel,
      by decide +kernel, ok_one (by decide +kernel)⟩
  · exact ⟨st, _, 0, 5, 10, 3, 5, 10, issuing_of (by decide +kernel), names_of (by decide +kernel), by decide +kernel,
      by decide +kernel, ok_one (by decide +kernel)⟩
  · exact ⟨st, _, 0, 5, 10, 8, 5, 10, issuing_of (by decide +kernel), names_of (by decide +kernel), by decide +kernel,
      by decide +kernel, ok_one (by decide +kernel)⟩
  · exact ⟨st, _, 0, 5, 10, 8, 5, 10, issuing_of (by decide +kernel), names_of (by decide +kernel), by decide +kernel,
      by decide +kernel, ok_one (by decide +kernel)⟩
  · exact ⟨st, _, 0, 5, 10, 8, 5, 10, issuing_of (by decide +kernel), names_of (by decide +kernel), by decide +kernel,
      by decide +kernel, ok_one (by decide +kernel)⟩
  · exact ⟨st, _, 0, 5, 10, 8, 5, 10, issuing_of (by decide +kernel), names_of (by decide +kernel), by decide +kernel,
      by decide +kernel, ok_one (by decide +kernel)⟩

theorem witness_LoadsAndStores_3 :
    (∃ (s : State) (s1 : State) (tid : Nat) (d : BitVec 7) (a : BitVec 7) (e : BitVec 5) (f : BitVec 5), Issuing s tid ∧
      (Names s tid [d.toNat, a.toNat, e.toNat, f.toNat, 2]) ∧ (BitVec.toNat (Reads s tid f.toNat) / 2 ^ 52 % 8 = 0) ∧
      (((Nat.cast (R := Int) (BitVec.toNat (Reads s tid f.toNat) % 2 ^ 52) + 0) % 2 ^ 52).toNat % 8 = 0) ∧
      (storeAny s tid ((Nat.cast (R := Int) (BitVec.toNat (Reads s tid f.toNat) % 2 ^ 52) + 0) % 2 ^ 52).toNat (toBytes 8 (BitVec.toNat (Reads s tid e.toNat))) = Except.ok s1)) ∧
    (∃ (s : State) (s1 : State) (tid : Nat) (d : BitVec 7) (a : BitVec 7) (e : BitVec 5) (f : BitVec 5) (j : BitVec 5),
      Issuing s tid ∧ (Names s tid [d.toNat, a.toNat, e.toNat, f.toNat, 2]) ∧
      (BitVec.toNat (Reads s tid 2) / 2 ^ 52 % 8 = 0) ∧
      (((Nat.cast (R := Int) (BitVec.toNat (Reads s tid 2) % 2 ^ 52) + 8 * Nat.cast (R := Int) (j.toNat)) % 2 ^ 52).toNat % 8 = 0) ∧
      (storeAny s tid ((Nat.cast (R := Int) (BitVec.toNat (Reads s tid 2) % 2 ^ 52) + 8 * Nat.cast (R := Int) (j.toNat)) % 2 ^ 52).toNat (toBytes 8 (BitVec.toNat (Reads s tid e.toNat))) = Except.ok s1)) ∧
    (∃ (s : State) (s1 : State) (tid : Nat) (d : BitVec 7) (a : BitVec 7) (e : BitVec 5) (f : BitVec 5) (j : BitVec 5),
      Issuing s tid ∧ (Names s tid [d.toNat, a.toNat, e.toNat, f.toNat, 2]) ∧
      (BitVec.toNat (Reads s tid 2) / 2 ^ 52 % 8 = 0) ∧
      (((Nat.cast (R := Int) (BitVec.toNat (Reads s tid 2) % 2 ^ 52) + 4 * Nat.cast (R := Int) (j.toNat)) % 2 ^ 52).toNat % 4 = 0) ∧
      (storeAny s tid ((Nat.cast (R := Int) (BitVec.toNat (Reads s tid 2) % 2 ^ 52) + 4 * Nat.cast (R := Int) (j.toNat)) % 2 ^ 52).toNat (toBytes 4 (BitVec.toNat (Reads s tid e.toNat))) = Except.ok s1)) := by
  refine ⟨?_, ?_, ?_⟩
  · exact ⟨st, _, 0, 5, 10, 5, 10, issuing_of (by decide +kernel), names_of (by decide +kernel), by decide +kernel,
      by decide +kernel, ok_one (by decide +kernel)⟩
  · exact ⟨st, _, 0, 5, 10, 5, 10, 0, issuing_of (by decide +kernel), names_of (by decide +kernel), by decide +kernel,
      by decide +kernel, ok_one (by decide +kernel)⟩
  · exact ⟨st, _, 0, 5, 10, 5, 10, 0, issuing_of (by decide +kernel), names_of (by decide +kernel), by decide +kernel,
      by decide +kernel, ok_one (by decide +kernel)⟩

theorem witness_AccessFaults_1 :
    (∃ (s : State) (tid : Nat) (d : BitVec 7) (a : BitVec 7), Issuing s tid ∧ (Names s tid [d.toNat, a.toNat]) ∧
      (BitVec.toNat (Reads s tid a.toNat) / 2 ^ 52 % 8 ≠ 0)) ∧
    (∃ (s : State) (tid : Nat) (d : BitVec 7) (a : BitVec 7), Issuing s tid ∧ (Names s tid [d.toNat, a.toNat]) ∧
      (BitVec.toNat (Reads s tid a.toNat) / 2 ^ 52 % 8 = 0) ∧ (BitVec.toNat (Reads s tid a.toNat) % 2 ^ 52 % 8 ≠ 0)) ∧
    (∃ (s : State) (tid : Nat) (d : BitVec 7) (a : BitVec 7), Issuing s tid ∧ (Names s tid [d.toNat, a.toNat]) ∧
      (BitVec.toNat (Reads s tid a.toNat) / 2 ^ 52 % 8 = 0) ∧ (BitVec.toNat (Reads s tid a.toNat) % 2 ^ 52 % 4 ≠ 0)) ∧
    (∃ (s : State) (tid : Nat) (d : BitVec 7) (a : BitVec 7), Issuing s tid ∧ (Names s tid [d.toNat, a.toNat]) ∧
      (BitVec.toNat (Reads s tid a.toNat) / 2 ^ 52 % 8 = 0) ∧ (BitVec.toNat (Reads s tid a.toNat) % 2 ^ 52 % 2 ≠ 0)) := by
  refine ⟨?_, ?_, ?_, ?_⟩
  · exact ⟨((a14 0x0010000000010000 0)), 0, 5, 14, issuing_of (by decide +kernel), names_of (by decide +kernel),
      by decide +kernel⟩
  · exact ⟨((a14 0x10003 0)), 0, 5, 14, issuing_of (by decide +kernel), names_of (by decide +kernel), by decide +kernel⟩
  · exact ⟨((a14 0x10003 0)), 0, 5, 14, issuing_of (by decide +kernel), names_of (by decide +kernel), by decide +kernel⟩
  · exact ⟨((a14 0x10003 0)), 0, 5, 14, issuing_of (by decide +kernel), names_of (by decide +kernel), by decide +kernel⟩

theorem witness_WindowAccess_1 :
    (∃ (s : State) (tid : Nat) (va : Nat) (n : Nat) (k : Nat) (o : Nat) (q : Machine.Part), ((s.task tid).pair = none) ∧
      (va / 2 ^ 48 % 16 = 15) ∧ (winPlace s ((s.task tid).core / 8) (s.task tid).ctx va n = Except.ok (k, o)) ∧
      (coreAnswers s k va = Except.ok ()) ∧ (partOf (s.core k) (s.task tid).ctx = some q) ∧ (q.mapping o = none) ∧
      (uaPoisonIn s k (s.task tid).ctx o n = none) ∧ (∀ i < n, newest (ownStores (s.task tid)) (Dest.win k (o + i)) = none) ∧
      ((s.task tid).unacked.contains (k, o / 128) = false) ∧ (0 < n)) ∧
    (∃ (s : State) (tid : Nat) (k : Nat) (o : Nat) (q : Machine.Part) (d : BitVec 7) (a : BitVec 7), Issuing s tid ∧
      (Names s tid [d.toNat, a.toNat]) ∧ (BitVec.toNat (Reads s tid a.toNat) % 2 ^ 52 / 2 ^ 48 % 16 = 15) ∧
      (BitVec.toNat (Reads s tid a.toNat) / 2 ^ 52 % 8 = 0) ∧ (BitVec.toNat (Reads s tid a.toNat) % 2 ^ 52 % 8 = 0) ∧
      (winPlace s ((s.task tid).core / 8) (s.task tid).ctx (BitVec.toNat (Reads s tid a.toNat) % 2 ^ 52) 8 = Except.ok (k,
      o)) ∧ (coreAnswers s k (BitVec.toNat (Reads s tid a.toNat) % 2 ^ 52) = Except.ok ()) ∧
      (partOf (s.core k) (s.task tid).ctx = some q) ∧ (q.mapping o = none) ∧ ((s.task tid).fifo.length < 16)) := by
  refine ⟨?_, ?_⟩
  · exact ⟨st, 0, 0xFFE0000000080, 8, ((st.task 0).core / 8 * 8 + 4501400604115072 / 2 ^ 38 % 8), (4501400604115072 % 2 ^ 19),
      part0, by decide +kernel, by decide +kernel, rfl, rfl, by decide +kernel⟩
  · exact ⟨st, 0, ((st.task 0).core / 8 * 8 + BitVec.toNat (Reads st 0 (12)) % 2 ^ 52 / 2 ^ 38 % 8),
      (BitVec.toNat (Reads st 0 (12)) % 2 ^ 52 % 2 ^ 19), part0, 5, 12, issuing_of (by decide +kernel),
      names_of (by decide +kernel), and3 (by decide +kernel) ⟨rfl, rfl, by decide +kernel⟩⟩

theorem witness_MemoryAccess_1 :
    (∃ (s : State) (s1 : State) (tid : Nat) (va : Nat) (dpa : Nat) (n : Nat) (e : Word), ((s.task tid).pair = none) ∧
      (va / 2 ^ 48 % 16 ≠ 15) ∧ (xlThread s tid va Acc.rd = (Xl.hit dpa e, s1)) ∧ (region dpa ≠ 2) ∧ (region dpa ≠ 3) ∧
      (region dpa ≠ 4) ∧ (∀ i < n, newest (s.task tid).fifo (Dest.mem (dpa + i)) = none) ∧ ((s.task tid).early = []) ∧
      (∀ i < n, dieByte (s.die ((s.task tid).core / 896)).order (dpa + i) = none) ∧
      ((s1.tok (dpa / 128) ((s.task tid).core / 896)).mayRead = true) ∧ (0 < n) ∧ (∀ w ∈ wordsOf dpa n,
      poisonGet s.poison w = false) ∧ (∀ x ∈ (s.die ((s.task tid).core / 896)).order, ∀ w ∈ wordsOf dpa n, w ∉ x.bad)) ∧
    (∃ (s : State) (s1 : State) (tid : Nat) (dpa : Nat) (e : Word) (d : BitVec 7) (a : BitVec 7), Issuing s tid ∧
      (Names s tid [d.toNat, a.toNat]) ∧ (BitVec.toNat (Reads s tid a.toNat) % 2 ^ 52 / 2 ^ 48 % 16 ≠ 15) ∧
      (BitVec.toNat (Reads s tid a.toNat) / 2 ^ 52 % 8 = 0) ∧ (BitVec.toNat (Reads s tid a.toNat) % 2 ^ 52 % 8 = 0) ∧
      (xlThread s tid (BitVec.toNat (Reads s tid a.toNat) % 2 ^ 52) Acc.wr = (Xl.hit dpa e, s1)) ∧ (region dpa ≠ 4) ∧
      (deadPlace s1 dpa = false) ∧ ((s.task tid).fifo.length < 16)) := by
  refine ⟨?_, ?_⟩
  · exact ⟨st, _, 0, 0x10000, (bits leaf.word 35 0 * 2 ^ 16 + 65536 % 2 ^ pageBits leaf.word), 8, leaf.word, by decide +kernel,
      by decide +kernel, rfl, by decide +kernel⟩
  · exact ⟨st, _, 0, (bits leaf.word 35 0 * 2 ^ 16 + BitVec.toNat (Reads st 0 (10)) % 2 ^ 52 % 2 ^ pageBits leaf.word), leaf.word,
      5, 10, issuing_of (by decide +kernel), names_of (by decide +kernel), and3 (by decide +kernel) ⟨rfl, by decide +kernel⟩⟩

theorem witness_TypedAccess_1 :
    (∃ (s : State) (s1 : State) (tid : Nat) (v : Nat) (d : BitVec 7) (a : BitVec 7) (b : BitVec 7), Issuing s tid ∧
      (Names s tid [d.toNat, a.toNat, b.toNat]) ∧ (BitVec.toNat (Reads s tid a.toNat) / 2 ^ 52 % 8 = 0) ∧
      (BitVec.toNat (Reads s tid a.toNat) / 2 ^ 58 ≤ 8) ∧
      (elemAddr (Reads s tid a.toNat) (BitVec.toNat (Reads s tid a.toNat) / 2 ^ 58) (BitVec.toNat (Reads s tid b.toNat)) % elemSize (BitVec.toNat (Reads s tid a.toNat) / 2 ^ 58) = 0) ∧
      (loadVa s tid (elemAddr (Reads s tid a.toNat) (BitVec.toNat (Reads s tid a.toNat) / 2 ^ 58) (BitVec.toNat (Reads s tid b.toNat))) (elemSize (BitVec.toNat (Reads s tid a.toNat) / 2 ^ 58)) true = Except.ok (v,
      s1)) ∧ (BitVec.toNat (Reads s tid a.toNat) / 2 ^ 58 = 0)) ∧
    (∃ (s : State) (s1 : State) (tid : Nat) (v : Nat) (d : BitVec 7) (a : BitVec 7) (b : BitVec 7), Issuing s tid ∧
      (Names s tid [d.toNat, a.toNat, b.toNat]) ∧ (BitVec.toNat (Reads s tid a.toNat) / 2 ^ 52 % 8 = 0) ∧
      (BitVec.toNat (Reads s tid a.toNat) / 2 ^ 58 ≤ 8) ∧
      (elemAddr (Reads s tid a.toNat) (BitVec.toNat (Reads s tid a.toNat) / 2 ^ 58) (BitVec.toNat (Reads s tid b.toNat)) % elemSize (BitVec.toNat (Reads s tid a.toNat) / 2 ^ 58) = 0) ∧
      (loadVa s tid (elemAddr (Reads s tid a.toNat) (BitVec.toNat (Reads s tid a.toNat) / 2 ^ 58) (BitVec.toNat (Reads s tid b.toNat))) (elemSize (BitVec.toNat (Reads s tid a.toNat) / 2 ^ 58)) true = Except.ok (v,
      s1)) ∧ (BitVec.toNat (Reads s tid a.toNat) / 2 ^ 58 = 1)) ∧
    (∃ (s : State) (s1 : State) (tid : Nat) (v : Nat) (d : BitVec 7) (a : BitVec 7) (b : BitVec 7), Issuing s tid ∧
      (Names s tid [d.toNat, a.toNat, b.toNat]) ∧ (BitVec.toNat (Reads s tid a.toNat) / 2 ^ 52 % 8 = 0) ∧
      (BitVec.toNat (Reads s tid a.toNat) / 2 ^ 58 ≤ 8) ∧
      (elemAddr (Reads s tid a.toNat) (BitVec.toNat (Reads s tid a.toNat) / 2 ^ 58) (BitVec.toNat (Reads s tid b.toNat)) % elemSize (BitVec.toNat (Reads s tid a.toNat) / 2 ^ 58) = 0) ∧
      (loadVa s tid (elemAddr (Reads s tid a.toNat) (BitVec.toNat (Reads s tid a.toNat) / 2 ^ 58) (BitVec.toNat (Reads s tid b.toNat))) (elemSize (BitVec.toNat (Reads s tid a.toNat) / 2 ^ 58)) true = Except.ok (v,
      s1)) ∧ (BitVec.toNat (Reads s tid a.toNat) / 2 ^ 58 = 2)) ∧
    (∃ (s : State) (s1 : State) (tid : Nat) (v : Nat) (d : BitVec 7) (a : BitVec 7) (b : BitVec 7), Issuing s tid ∧
      (Names s tid [d.toNat, a.toNat, b.toNat]) ∧ (BitVec.toNat (Reads s tid a.toNat) / 2 ^ 52 % 8 = 0) ∧
      (BitVec.toNat (Reads s tid a.toNat) / 2 ^ 58 ≤ 8) ∧
      (elemAddr (Reads s tid a.toNat) (BitVec.toNat (Reads s tid a.toNat) / 2 ^ 58) (BitVec.toNat (Reads s tid b.toNat)) % elemSize (BitVec.toNat (Reads s tid a.toNat) / 2 ^ 58) = 0) ∧
      (loadVa s tid (elemAddr (Reads s tid a.toNat) (BitVec.toNat (Reads s tid a.toNat) / 2 ^ 58) (BitVec.toNat (Reads s tid b.toNat))) (elemSize (BitVec.toNat (Reads s tid a.toNat) / 2 ^ 58)) true = Except.ok (v,
      s1)) ∧ (3 ≤ BitVec.toNat (Reads s tid a.toNat) / 2 ^ 58)) := by
  refine ⟨?_, ?_, ?_, ?_⟩
  · exact ⟨((ptr 0)), _, 0, _, 5, 14, 125, issuing_of (by decide +kernel), names_of (by decide +kernel),
      and3 (by decide +kernel) ⟨ok_pair (by decide +kernel), by decide +kernel⟩⟩
  · exact ⟨((ptr 1)), _, 0, _, 5, 14, 125, issuing_of (by decide +kernel), names_of (by decide +kernel),
      and3 (by decide +kernel) ⟨ok_pair (by decide +kernel), by decide +kernel⟩⟩
  · exact ⟨((ptr 2)), _, 0, _, 5, 14, 125, issuing_of (by decide +kernel), names_of (by decide +kernel),
      and3 (by decide +kernel) ⟨ok_pair (by decide +kernel), by decide +kernel⟩⟩
  · exact ⟨((ptr 3)), _, 0, _, 5, 14, 125, issuing_of (by decide +kernel), names_of (by decide +kernel),
      and3 (by decide +kernel) ⟨ok_pair (by decide +kernel), by decide +kernel⟩⟩

theorem witness_TypedAccess_2 : ∃ (s : State) (s1 : State) (tid : Nat) (d : BitVec 7) (a : BitVec 7) (b : BitVec 7), Issuing s tid ∧
    (Names s tid [d.toNat, a.toNat, b.toNat]) ∧ (BitVec.toNat (Reads s tid a.toNat) / 2 ^ 52 % 8 = 0) ∧
    (BitVec.toNat (Reads s tid a.toNat) / 2 ^ 58 = 0) ∧
    (elemAddr (Reads s tid a.toNat) (BitVec.toNat (Reads s tid a.toNat) / 2 ^ 58) (BitVec.toNat (Reads s tid b.toNat)) % 8 = 0) ∧
    (storeVa s tid (elemAddr (Reads s tid a.toNat) (BitVec.toNat (Reads s tid a.toNat) / 2 ^ 58) (BitVec.toNat (Reads s tid b.toNat))) (toBytes 8 (BitVec.toNat (Reads s tid d.toNat))) = Except.ok s1) := by
  exact ⟨((ptr 0)), _, 0, 5, 14, 125, issuing_of (by decide +kernel), names_of (by decide +kernel),
    and3 (by decide +kernel) (ok_one (by decide +kernel))⟩

theorem witness_AcquireReleaseFence_1 :
    (∃ (s : State) (s1 : State) (tid : Nat) (v : Nat) (d : BitVec 7) (a : BitVec 7) (c : BitVec 3), Issuing s tid ∧
      (Names s tid [d.toNat, a.toNat]) ∧ (BitVec.toNat (Reads s tid a.toNat) / 2 ^ 52 % 8 = 0) ∧
      (BitVec.toNat (Reads s tid a.toNat) % 2 ^ 52 % 8 = 0) ∧
      (loadVa (if c = 0 then s else dropEarly s tid) tid (BitVec.toNat (Reads s tid a.toNat) % 2 ^ 52) 8 (c == 0) = Except.ok (v,
      s1))) ∧
    (∃ (s : State) (s1 : State) (tid : Nat) (pl : Place) (d : BitVec 7) (a : BitVec 7) (c : BitVec 3) (s2 : State),
      Issuing s tid ∧ (Names s tid [d.toNat, a.toNat]) ∧ (BitVec.toNat (Reads s tid a.toNat) / 2 ^ 52 % 8 = 0) ∧
      (BitVec.toNat (Reads s tid a.toNat) % 2 ^ 52 % 8 = 0) ∧
      (placeOf s tid (BitVec.toNat (Reads s tid a.toNat) % 2 ^ 52) 8 Acc.wr = Except.ok (pl, s1)) ∧
      (storePlace s1 tid pl (BitVec.toNat (Reads s tid a.toNat) % 2 ^ 52) (toBytes 8 (BitVec.toNat (Reads s tid d.toNat))) (some c.toNat) = Except.ok s2)) ∧
    (∃ (s : State) (tid : Nat) (d : BitVec 7) (a : BitVec 7) (c : BitVec 3), Issuing s tid ∧ (Names s tid [d.toNat,
      a.toNat]) ∧ (relReady s tid c.toNat = true)) ∧
    (∃ (s : State) (tid : Nat) (d : BitVec 7) (a : BitVec 7), Issuing s tid ∧ (Names s tid [d.toNat, a.toNat]) ∧
      ((s.task tid).fifo = [])) := by
  refine ⟨?_, ?_, ?_, ?_⟩
  · exact ⟨st, _, 0, _, 5, 10, 4, issuing_of (by decide +kernel), names_of (by decide +kernel), by decide +kernel,
      by decide +kernel, ok_pair (by decide +kernel)⟩
  · exact ⟨st, _, 0,
      (Place.mem (bits leaf.word 35 0 * 2 ^ 16 + BitVec.toNat (Reads st 0 (10)) % 2 ^ 52 % 2 ^ pageBits leaf.word) leaf.word),
      5, 10, 4, _, issuing_of (by decide +kernel), names_of (by decide +kernel), by decide +kernel, by decide +kernel,
      ok_pair (by decide +kernel), ok_one (by decide +kernel)⟩
  · exact ⟨st, 0, 5, 10, 4, issuing_of (by decide +kernel), names_of (by decide +kernel), by decide +kernel⟩
  · exact ⟨st, 0, 5, 10, issuing_of (by decide +kernel), names_of (by decide +kernel), by decide +kernel⟩

theorem witness_MemoryReadAfterWrite_1 : ∃ (s : State) (a : Nat) (b : Nat), (Memory.wf s.mem = true) ∧ (mrising s.poison = true) ∧ (b < a) := by
  exact ⟨st, 0x20000, default, by decide +kernel⟩

theorem witness_TransfersAndStash_1 :
    (∃ (s : State) (s1 : State) (s2 : State) (tid : Nat) (d : BitVec 7) (a : BitVec 7) (b : BitVec 7) (e : BitVec 7)
      (f : BitVec 7) (w0 : Word) (w1 : Word) (w2 : Word) (w3 : Word) (h : Word), Issuing s tid ∧ (Names s tid [d.toNat,
      a.toNat, b.toNat, e.toNat, f.toNat]) ∧ (BitVec.toNat (Reads s tid a.toNat) / 2 ^ 52 % 8 = 0) ∧
      (BitVec.toNat (Reads s tid a.toNat) % 8 = 0) ∧
      (loadWords s tid (BitVec.toNat (Reads s tid a.toNat) % 2 ^ 52) 4 = Except.ok ([w0, w1, w2, w3], s1)) ∧
      (xfCheck 0 w0 w1 w2 w3 = Except.ok () ∧ xfRoom s1 ((s.task tid).core / 8) (s.task tid).ctx = true) ∧
      ((fun s_1 => allocFut ({ s_1 with nextId := s_1.nextId + 1 } : State) ((s.task tid).core / 8) (s.task tid).ctx (s.task tid).launch (Prod.xfer ((s.task tid).core / 8) s_1.nextId)) s1 = Alloc.got h s2) ∧
      (relReady s2 tid 2 = true)) ∧
    (∃ (s : State) (s2 : State) (tid : Nat) (d : BitVec 7) (a : BitVec 7) (b : BitVec 7) (e : BitVec 7) (f : BitVec 7)
      (w0 : Word) (w1 : Word) (w2 : Word) (w3 : Word) (h : Word), Issuing s tid ∧ (Names s tid [d.toNat, a.toNat, b.toNat,
      e.toNat, f.toNat]) ∧ ([Reads s tid a.toNat, Reads s tid b.toNat, Reads s tid e.toNat, Reads s tid f.toNat] = [w0, w1,
      w2, w3]) ∧ (xfCheck 0 w0 w1 w2 w3 = Except.ok () ∧ xfRoom s ((s.task tid).core / 8) (s.task tid).ctx = true) ∧
      ((fun s_1 => allocFut ({ s_1 with nextId := s_1.nextId + 1 } : State) ((s.task tid).core / 8) (s.task tid).ctx (s.task tid).launch (Prod.xfer ((s.task tid).core / 8) s_1.nextId)) s = Alloc.got h s2) ∧
      (relReady s2 tid 2 = true)) ∧
    (∃ (s : State) (s1 : State) (s2 : State) (tid : Nat) (d : BitVec 7) (a : BitVec 7) (b : BitVec 7) (e : BitVec 7)
      (f : BitVec 7) (w0 : Word) (w1 : Word) (w2 : Word) (w3 : Word) (h : Word), Issuing s tid ∧ (Names s tid [d.toNat,
      a.toNat, b.toNat, e.toNat, f.toNat]) ∧ (BitVec.toNat (Reads s tid a.toNat) / 2 ^ 52 % 8 = 0) ∧
      (BitVec.toNat (Reads s tid a.toNat) % 8 = 0) ∧
      (loadWords s tid (BitVec.toNat (Reads s tid a.toNat) % 2 ^ 52) 4 = Except.ok ([w0, w1, w2, w3], s1)) ∧
      (xfCheck 1 w0 w1 w2 w3 = Except.ok () ∧ xfRoom s1 ((s.task tid).core / 8) (s.task tid).ctx = true) ∧
      ((fun s_1 => allocFut ({ s_1 with nextId := s_1.nextId + 1 } : State) ((s.task tid).core / 8) (s.task tid).ctx (s.task tid).launch (Prod.xfer ((s.task tid).core / 8) s_1.nextId)) s1 = Alloc.got h s2) ∧
      (relReady s2 tid 2 = true)) ∧
    (∃ (s : State) (s1 : State) (s2 : State) (tid : Nat) (d : BitVec 7) (a : BitVec 7) (b : BitVec 7) (e : BitVec 7)
      (f : BitVec 7) (w0 : Word) (w1 : Word) (w2 : Word) (w3 : Word) (h : Word), Issuing s tid ∧ (Names s tid [d.toNat,
      a.toNat, b.toNat, e.toNat, f.toNat]) ∧ (BitVec.toNat (Reads s tid a.toNat) / 2 ^ 52 % 8 = 0) ∧
      (BitVec.toNat (Reads s tid a.toNat) % 8 = 0) ∧
      (loadWords s tid (BitVec.toNat (Reads s tid a.toNat) % 2 ^ 52) 4 = Except.ok ([w0, w1, w2, w3], s1)) ∧
      (xfCheck 2 w0 w1 w2 w3 = Except.ok () ∧ xfRoom s1 ((s.task tid).core / 8) (s.task tid).ctx = true) ∧
      ((fun s_1 => allocFut ({ s_1 with nextId := s_1.nextId + 1 } : State) ((s.task tid).core / 8) (s.task tid).ctx (s.task tid).launch (Prod.xfer ((s.task tid).core / 8) s_1.nextId)) s1 = Alloc.got h s2) ∧
      (relReady s2 tid 2 = true)) ∧
    (∃ (s : State) (s1 : State) (s2 : State) (tid : Nat) (d : BitVec 7) (a : BitVec 7) (b : BitVec 7) (e : BitVec 7)
      (f : BitVec 7) (w0 : Word) (w1 : Word) (w2 : Word) (w3 : Word) (h : Word), Issuing s tid ∧ (Names s tid [d.toNat,
      a.toNat, b.toNat, e.toNat, f.toNat]) ∧ (BitVec.toNat (Reads s tid a.toNat) / 2 ^ 52 % 8 = 0) ∧
      (BitVec.toNat (Reads s tid a.toNat) % 8 = 0) ∧
      (loadWords s tid (BitVec.toNat (Reads s tid a.toNat) % 2 ^ 52) 4 = Except.ok ([w0, w1, w2, w3], s1)) ∧
      (xfCheck 3 w0 w1 w2 w3 = Except.ok () ∧ xfRoom s1 ((s.task tid).core / 8) (s.task tid).ctx = true) ∧
      ((fun s_1 => allocFut ({ s_1 with nextId := s_1.nextId + 1 } : State) ((s.task tid).core / 8) (s.task tid).ctx (s.task tid).launch (Prod.xfer ((s.task tid).core / 8) s_1.nextId)) s1 = Alloc.got h s2) ∧
      (relReady s2 tid 2 = true)) ∧
    (∃ (s : State) (s2 : State) (tid : Nat) (d : BitVec 7) (a : BitVec 7) (b : BitVec 7) (e : BitVec 7) (f : BitVec 7)
      (w0 : Word) (w1 : Word) (w2 : Word) (w3 : Word) (h : Word), Issuing s tid ∧ (Names s tid [d.toNat, a.toNat, b.toNat,
      e.toNat, f.toNat]) ∧ ([Reads s tid a.toNat, Reads s tid b.toNat, Reads s tid e.toNat, Reads s tid f.toNat] = [w0, w1,
      w2, w3]) ∧ (xfCheck 1 w0 w1 w2 w3 = Except.ok () ∧ xfRoom s ((s.task tid).core / 8) (s.task tid).ctx = true) ∧
      ((fun s_1 => allocFut ({ s_1 with nextId := s_1.nextId + 1 } : State) ((s.task tid).core / 8) (s.task tid).ctx (s.task tid).launch (Prod.xfer ((s.task tid).core / 8) s_1.nextId)) s = Alloc.got h s2) ∧
      (relReady s2 tid 2 = true)) ∧
    (∃ (s : State) (s2 : State) (tid : Nat) (d : BitVec 7) (a : BitVec 7) (b : BitVec 7) (e : BitVec 7) (f : BitVec 7)
      (w0 : Word) (w1 : Word) (w2 : Word) (w3 : Word) (h : Word), Issuing s tid ∧ (Names s tid [d.toNat, a.toNat, b.toNat,
      e.toNat, f.toNat]) ∧ ([Reads s tid a.toNat, Reads s tid b.toNat, Reads s tid e.toNat, Reads s tid f.toNat] = [w0, w1,
      w2, w3]) ∧ (xfCheck 2 w0 w1 w2 w3 = Except.ok () ∧ xfRoom s ((s.task tid).core / 8) (s.task tid).ctx = true) ∧
      ((fun s_1 => allocFut ({ s_1 with nextId := s_1.nextId + 1 } : State) ((s.task tid).core / 8) (s.task tid).ctx (s.task tid).launch (Prod.xfer ((s.task tid).core / 8) s_1.nextId)) s = Alloc.got h s2) ∧
      (relReady s2 tid 2 = true)) ∧
    (∃ (s : State) (s2 : State) (tid : Nat) (d : BitVec 7) (a : BitVec 7) (b : BitVec 7) (e : BitVec 7) (f : BitVec 7)
      (w0 : Word) (w1 : Word) (w2 : Word) (w3 : Word) (h : Word), Issuing s tid ∧ (Names s tid [d.toNat, a.toNat, b.toNat,
      e.toNat, f.toNat]) ∧ ([Reads s tid a.toNat, Reads s tid b.toNat, Reads s tid e.toNat, Reads s tid f.toNat] = [w0, w1,
      w2, w3]) ∧ (xfCheck 3 w0 w1 w2 w3 = Except.ok () ∧ xfRoom s ((s.task tid).core / 8) (s.task tid).ctx = true) ∧
      ((fun s_1 => allocFut ({ s_1 with nextId := s_1.nextId + 1 } : State) ((s.task tid).core / 8) (s.task tid).ctx (s.task tid).launch (Prod.xfer ((s.task tid).core / 8) s_1.nextId)) s = Alloc.got h s2) ∧
      (relReady s2 tid 2 = true)) ∧
    (∃ (s : State) (tid : Nat) (d : BitVec 7) (a : BitVec 7) (b : BitVec 7), Issuing s tid ∧ (Names s tid [d.toNat, a.toNat,
      b.toNat]) ∧ ((s.task tid).fifo = []) ∧
      (stashCode (partOf (s.core (s.task tid).core) (s.task tid).ctx) (Reads s tid a.toNat) (Reads s tid b.toNat) ≠ 0)) ∧
    (∃ (s : State) (tid : Nat) (d : BitVec 7) (a : BitVec 7) (b : BitVec 7), Issuing s tid ∧ (Names s tid [d.toNat, a.toNat,
      b.toNat]) ∧ ((s.task tid).fifo = []) ∧ (∀ (q : Machine.Part),
      partOf (s.core (s.task tid).core) (s.task tid).ctx = some q → List.find? (fun x => x.off == BitVec.toNat (Reads s tid a.toNat) % 2 ^ 19) q.stash = none)) := by
  refine ⟨?_, ?_, ?_, ?_, ?_, ?_, ?_, ?_, ?_, ?_⟩
  · exact ⟨((xs 0)), _, _, 0, 5, 14, 21, 22, 23, _, _, _, _, _, issuing_of (by decide +kernel), names_of (by decide +kernel),
      by decide +kernel, by decide +kernel, rfl, ⟨rfl, by decide +kernel⟩, rfl, by decide +kernel⟩
  · exact ⟨((xs 0)), _, 0, 5, 14, 21, 22, 23, (Reads (xs 0) 0 (14)), (Reads (xs 0) 0 (21)), (Reads (xs 0) 0 (22)),
      (Reads (xs 0) 0 (23)), _, issuing_of (by decide +kernel), names_of (by decide +kernel), by decide +kernel, ⟨rfl,
      by decide +kernel⟩, rfl, by decide +kernel⟩
  · exact ⟨((xs 1)), _, _, 0, 5, 14, 21, 22, 23, _, _, _, _, _, issuing_of (by decide +kernel), names_of (by decide +kernel),
      by decide +kernel, by decide +kernel, rfl, ⟨rfl, by decide +kernel⟩, rfl, by decide +kernel⟩
  · exact ⟨((xs 2)), _, _, 0, 5, 14, 21, 22, 23, _, _, _, _, _, issuing_of (by decide +kernel), names_of (by decide +kernel),
      by decide +kernel, by decide +kernel, rfl, ⟨rfl, by decide +kernel⟩, rfl, by decide +kernel⟩
  · exact ⟨((xs 3)), _, _, 0, 5, 14, 21, 22, 23, _, _, _, _, _, issuing_of (by decide +kernel), names_of (by decide +kernel),
      by decide +kernel, by decide +kernel, rfl, ⟨rfl, by decide +kernel⟩, rfl, by decide +kernel⟩
  · exact ⟨((xs 1)), _, 0, 5, 20, 21, 22, 23, (Reads (xs 1) 0 (20)), (Reads (xs 1) 0 (21)), (Reads (xs 1) 0 (22)),
      (Reads (xs 1) 0 (23)), _, issuing_of (by decide +kernel), names_of (by decide +kernel), by decide +kernel, ⟨rfl,
      by decide +kernel⟩, rfl, by decide +kernel⟩
  · exact ⟨((xs 2)), _, 0, 5, 20, 21, 22, 23, (Reads (xs 2) 0 (20)), (Reads (xs 2) 0 (21)), (Reads (xs 2) 0 (22)),
      (Reads (xs 2) 0 (23)), _, issuing_of (by decide +kernel), names_of (by decide +kernel), by decide +kernel, ⟨rfl,
      by decide +kernel⟩, rfl, by decide +kernel⟩
  · exact ⟨((xs 3)), _, 0, 5, 20, 21, 22, 23, (Reads (xs 3) 0 (20)), (Reads (xs 3) 0 (21)), (Reads (xs 3) 0 (22)),
      (Reads (xs 3) 0 (23)), _, issuing_of (by decide +kernel), names_of (by decide +kernel), by decide +kernel, ⟨rfl,
      by decide +kernel⟩, rfl, by decide +kernel⟩
  · exact ⟨((a14 15 1)), 0, 5, 14, 15, issuing_of (by decide +kernel), names_of (by decide +kernel), by decide +kernel⟩
  · exact ⟨((a14 15 1)), 0, 5, 14, 15, issuing_of (by decide +kernel), names_of (by decide +kernel), by decide +kernel⟩

theorem witness_TransfersAndStash_2 :
    (∃ (s : State) (tid : Nat) (d : BitVec 7) (a : BitVec 7) (b : BitVec 7), Issuing s tid ∧ (Names s tid [d.toNat, a.toNat,
      b.toNat]) ∧ (relReady s tid 4 = true) ∧ (15 < BitVec.toNat (Reads s tid a.toNat))) ∧
    (∃ (s : State) (tid : Nat) (d : BitVec 7) (a : BitVec 7) (b : BitVec 7) (s1 : State) (dpa : Nat) (e : Word),
      Issuing s tid ∧ (Names s tid [d.toNat, a.toNat, b.toNat]) ∧
      (BitVec.toNat (Reads s tid a.toNat) % 2 ^ 52 / 2 ^ 48 % 16 ≠ 15) ∧
      (BitVec.toNat (Reads s tid a.toNat) / 2 ^ 52 % 8 = 0) ∧
      (xlThread s tid (BitVec.toNat (Reads s tid a.toNat) % 2 ^ 52) Acc.wr = (Xl.hit dpa e, s1))) ∧
    (∃ (s : State) (tid : Nat) (d : BitVec 7) (a : BitVec 7) (b : BitVec 7) (q : Machine.Part) (m : Stash), Issuing s tid ∧
      (Names s tid [d.toNat, a.toNat, b.toNat]) ∧ ((s.task tid).fifo = []) ∧
      (partOf (s.core (s.task tid).core) (s.task tid).ctx = some q) ∧
      (List.find? (fun x => x.off == BitVec.toNat (Reads s tid a.toNat) % 2 ^ 19) q.stash = some m) ∧ (∀ e ∈ m.phys,
      lineQueued s ((s.task tid).core / 896) e.2 = false)) ∧
    (∃ (s : State) (tid : Nat) (d : BitVec 7) (a : BitVec 7) (b : BitVec 7), Issuing s tid ∧ (Names s tid [d.toNat, a.toNat,
      b.toNat]) ∧ (relReady s tid 4 = true) ∧ (BitVec.toNat (Reads s tid a.toNat) ≤ 15)) ∧
    (∃ (s : State) (s1 : State) (tid : Nat) (d : BitVec 7) (a : BitVec 7) (b : BitVec 7) (e : BitVec 7) (f : BitVec 7)
      (w0 : Word) (w1 : Word) (w2 : Word) (w3 : Word), Issuing s tid ∧ (Names s tid [d.toNat, a.toNat, b.toNat, e.toNat,
      f.toNat]) ∧ (BitVec.toNat (Reads s tid a.toNat) / 2 ^ 52 % 8 = 0) ∧ (BitVec.toNat (Reads s tid a.toNat) % 8 = 0) ∧
      (loadWords s tid (BitVec.toNat (Reads s tid a.toNat) % 2 ^ 52) 4 = Except.ok ([w0, w1, w2, w3], s1)) ∧
      (xfCheck 0 w0 w1 w2 w3 = Except.ok () ∧ xfRoom s1 ((s.task tid).core / 8) (s.task tid).ctx = true) ∧
      ((fun s_1 => allocFut ({ s_1 with nextId := s_1.nextId + 1 } : State) ((s.task tid).core / 8) (s.task tid).ctx (s.task tid).launch (Prod.xfer ((s.task tid).core / 8) s_1.nextId)) s1 = Alloc.full)) ∧
    (∃ (s : State) (tid : Nat) (d : BitVec 7) (a : BitVec 7) (b : BitVec 7) (e : BitVec 7) (f : BitVec 7) (w0 : Word)
      (w1 : Word) (w2 : Word) (w3 : Word), Issuing s tid ∧ (Names s tid [d.toNat, a.toNat, b.toNat, e.toNat, f.toNat]) ∧
      ([Reads s tid a.toNat, Reads s tid b.toNat, Reads s tid e.toNat, Reads s tid f.toNat] = [w0, w1, w2, w3]) ∧
      (xfCheck 0 w0 w1 w2 w3 = Except.ok () ∧ xfRoom s ((s.task tid).core / 8) (s.task tid).ctx = true) ∧
      ((fun s_1 => allocFut ({ s_1 with nextId := s_1.nextId + 1 } : State) ((s.task tid).core / 8) (s.task tid).ctx (s.task tid).launch (Prod.xfer ((s.task tid).core / 8) s_1.nextId)) s = Alloc.full)) ∧
    (∃ (s : State) (s1 : State) (tid : Nat) (d : BitVec 7) (a : BitVec 7) (b : BitVec 7) (e : BitVec 7) (f : BitVec 7)
      (w0 : Word) (w1 : Word) (w2 : Word) (w3 : Word), Issuing s tid ∧ (Names s tid [d.toNat, a.toNat, b.toNat, e.toNat,
      f.toNat]) ∧ (BitVec.toNat (Reads s tid a.toNat) / 2 ^ 52 % 8 = 0) ∧ (BitVec.toNat (Reads s tid a.toNat) % 8 = 0) ∧
      (loadWords s tid (BitVec.toNat (Reads s tid a.toNat) % 2 ^ 52) 4 = Except.ok ([w0, w1, w2, w3], s1)) ∧
      (xfCheck 1 w0 w1 w2 w3 = Except.ok () ∧ xfRoom s1 ((s.task tid).core / 8) (s.task tid).ctx = true) ∧
      ((fun s_1 => allocFut ({ s_1 with nextId := s_1.nextId + 1 } : State) ((s.task tid).core / 8) (s.task tid).ctx (s.task tid).launch (Prod.xfer ((s.task tid).core / 8) s_1.nextId)) s1 = Alloc.full)) ∧
    (∃ (s : State) (s1 : State) (tid : Nat) (d : BitVec 7) (a : BitVec 7) (b : BitVec 7) (e : BitVec 7) (f : BitVec 7)
      (w0 : Word) (w1 : Word) (w2 : Word) (w3 : Word), Issuing s tid ∧ (Names s tid [d.toNat, a.toNat, b.toNat, e.toNat,
      f.toNat]) ∧ (BitVec.toNat (Reads s tid a.toNat) / 2 ^ 52 % 8 = 0) ∧ (BitVec.toNat (Reads s tid a.toNat) % 8 = 0) ∧
      (loadWords s tid (BitVec.toNat (Reads s tid a.toNat) % 2 ^ 52) 4 = Except.ok ([w0, w1, w2, w3], s1)) ∧
      (xfCheck 2 w0 w1 w2 w3 = Except.ok () ∧ xfRoom s1 ((s.task tid).core / 8) (s.task tid).ctx = true) ∧
      ((fun s_1 => allocFut ({ s_1 with nextId := s_1.nextId + 1 } : State) ((s.task tid).core / 8) (s.task tid).ctx (s.task tid).launch (Prod.xfer ((s.task tid).core / 8) s_1.nextId)) s1 = Alloc.full)) ∧
    (∃ (s : State) (s1 : State) (tid : Nat) (d : BitVec 7) (a : BitVec 7) (b : BitVec 7) (e : BitVec 7) (f : BitVec 7)
      (w0 : Word) (w1 : Word) (w2 : Word) (w3 : Word), Issuing s tid ∧ (Names s tid [d.toNat, a.toNat, b.toNat, e.toNat,
      f.toNat]) ∧ (BitVec.toNat (Reads s tid a.toNat) / 2 ^ 52 % 8 = 0) ∧ (BitVec.toNat (Reads s tid a.toNat) % 8 = 0) ∧
      (loadWords s tid (BitVec.toNat (Reads s tid a.toNat) % 2 ^ 52) 4 = Except.ok ([w0, w1, w2, w3], s1)) ∧
      (xfCheck 3 w0 w1 w2 w3 = Except.ok () ∧ xfRoom s1 ((s.task tid).core / 8) (s.task tid).ctx = true) ∧
      ((fun s_1 => allocFut ({ s_1 with nextId := s_1.nextId + 1 } : State) ((s.task tid).core / 8) (s.task tid).ctx (s.task tid).launch (Prod.xfer ((s.task tid).core / 8) s_1.nextId)) s1 = Alloc.full)) ∧
    (∃ (s : State) (tid : Nat) (d : BitVec 7) (a : BitVec 7) (b : BitVec 7) (e : BitVec 7) (f : BitVec 7) (w0 : Word)
      (w1 : Word) (w2 : Word) (w3 : Word), Issuing s tid ∧ (Names s tid [d.toNat, a.toNat, b.toNat, e.toNat, f.toNat]) ∧
      ([Reads s tid a.toNat, Reads s tid b.toNat, Reads s tid e.toNat, Reads s tid f.toNat] = [w0, w1, w2, w3]) ∧
      (xfCheck 1 w0 w1 w2 w3 = Except.ok () ∧ xfRoom s ((s.task tid).core / 8) (s.task tid).ctx = true) ∧
      ((fun s_1 => allocFut ({ s_1 with nextId := s_1.nextId + 1 } : State) ((s.task tid).core / 8) (s.task tid).ctx (s.task tid).launch (Prod.xfer ((s.task tid).core / 8) s_1.nextId)) s = Alloc.full)) := by
  refine ⟨?_, ?_, ?_, ?_, ?_, ?_, ?_, ?_, ?_, ?_⟩
  · exact ⟨((a14 16 1)), 0, 5, 14, 15, issuing_of (by decide +kernel), names_of (by decide +kernel), by decide +kernel⟩
  · exact ⟨((a14 0x10000 128)), 0, 5, 14, 15, _,
      (bits leaf.word 35 0 * 2 ^ 16 + BitVec.toNat (Reads (a14 65536 128) 0 (14)) % 2 ^ 52 % 2 ^ pageBits leaf.word),
      leaf.word, issuing_of (by decide +kernel), names_of (by decide +kernel), by decide +kernel, by decide +kernel, rfl⟩
  · exact ⟨((stm [{ off := 0x80, va := 0x10000, len := 128 }] 0x80 0)), 0, 5, 14, 15,
      (have __src := part0; { __src with stash := [{ off := 128, va := 65536, len := 128 }] }),
      ({ off := 128, va := 65536, len := 128 }), issuing_of (by decide +kernel), names_of (by decide +kernel),
      by decide +kernel⟩
  · exact ⟨((a14 15 1)), 0, 5, 14, 15, issuing_of (by decide +kernel), names_of (by decide +kernel), by decide +kernel⟩
  · exact ⟨((full (xs 0))), _, 0, 5, 14, 21, 22, 23, _, _, _, _, issuing_of (by decide +kernel), names_of (by decide +kernel),
      by decide +kernel, by decide +kernel, rfl, ⟨rfl, by decide +kernel⟩, full_alloc rfl rfl⟩
  · exact ⟨((full (xs 0))), 0, 5, 14, 21, 22, 23, (Reads (full (xs 0)) 0 (14)), (Reads (full (xs 0)) 0 (21)),
      (Reads (full (xs 0)) 0 (22)), (Reads (full (xs 0)) 0 (23)), issuing_of (by decide +kernel),
      names_of (by decide +kernel), by decide +kernel, ⟨rfl, by decide +kernel⟩, full_alloc rfl rfl⟩
  · exact ⟨((full (xs 1))), _, 0, 5, 14, 21, 22, 23, _, _, _, _, issuing_of (by decide +kernel), names_of (by decide +kernel),
      by decide +kernel, by decide +kernel, rfl, ⟨rfl, by decide +kernel⟩, full_alloc rfl rfl⟩
  · exact ⟨((full (xs 2))), _, 0, 5, 14, 21, 22, 23, _, _, _, _, issuing_of (by decide +kernel), names_of (by decide +kernel),
      by decide +kernel, by decide +kernel, rfl, ⟨rfl, by decide +kernel⟩, full_alloc rfl rfl⟩
  · exact ⟨((full (xs 3))), _, 0, 5, 14, 21, 22, 23, _, _, _, _, issuing_of (by decide +kernel), names_of (by decide +kernel),
      by decide +kernel, by decide +kernel, rfl, ⟨rfl, by decide +kernel⟩, full_alloc rfl rfl⟩
  · exact ⟨((full (xs 1))), 0, 5, 20, 21, 22, 23, (Reads (full (xs 1)) 0 (20)), (Reads (full (xs 1)) 0 (21)),
      (Reads (full (xs 1)) 0 (22)), (Reads (full (xs 1)) 0 (23)), issuing_of (by decide +kernel),
      names_of (by decide +kernel), by decide +kernel, ⟨rfl, by decide +kernel⟩, full_alloc rfl rfl⟩

theorem witness_TransfersAndStash_3 :
    (∃ (s : State) (tid : Nat) (d : BitVec 7) (a : BitVec 7) (b : BitVec 7) (e : BitVec 7) (f : BitVec 7) (w0 : Word)
      (w1 : Word) (w2 : Word) (w3 : Word), Issuing s tid ∧ (Names s tid [d.toNat, a.toNat, b.toNat, e.toNat, f.toNat]) ∧
      ([Reads s tid a.toNat, Reads s tid b.toNat, Reads s tid e.toNat, Reads s tid f.toNat] = [w0, w1, w2, w3]) ∧
      (xfCheck 2 w0 w1 w2 w3 = Except.ok () ∧ xfRoom s ((s.task tid).core / 8) (s.task tid).ctx = true) ∧
      ((fun s_1 => allocFut ({ s_1 with nextId := s_1.nextId + 1 } : State) ((s.task tid).core / 8) (s.task tid).ctx (s.task tid).launch (Prod.xfer ((s.task tid).core / 8) s_1.nextId)) s = Alloc.full)) ∧
    (∃ (s : State) (tid : Nat) (d : BitVec 7) (a : BitVec 7) (b : BitVec 7) (e : BitVec 7) (f : BitVec 7) (w0 : Word)
      (w1 : Word) (w2 : Word) (w3 : Word), Issuing s tid ∧ (Names s tid [d.toNat, a.toNat, b.toNat, e.toNat, f.toNat]) ∧
      ([Reads s tid a.toNat, Reads s tid b.toNat, Reads s tid e.toNat, Reads s tid f.toNat] = [w0, w1, w2, w3]) ∧
      (xfCheck 3 w0 w1 w2 w3 = Except.ok () ∧ xfRoom s ((s.task tid).core / 8) (s.task tid).ctx = true) ∧
      ((fun s_1 => allocFut ({ s_1 with nextId := s_1.nextId + 1 } : State) ((s.task tid).core / 8) (s.task tid).ctx (s.task tid).launch (Prod.xfer ((s.task tid).core / 8) s_1.nextId)) s = Alloc.full)) := by
  refine ⟨?_, ?_⟩
  · exact ⟨((full (xs 2))), 0, 5, 20, 21, 22, 23, (Reads (full (xs 2)) 0 (20)), (Reads (full (xs 2)) 0 (21)),
      (Reads (full (xs 2)) 0 (22)), (Reads (full (xs 2)) 0 (23)), issuing_of (by decide +kernel),
      names_of (by decide +kernel), by decide +kernel, ⟨rfl, by decide +kernel⟩, full_alloc rfl rfl⟩
  · exact ⟨((full (xs 3))), 0, 5, 20, 21, 22, 23, (Reads (full (xs 3)) 0 (20)), (Reads (full (xs 3)) 0 (21)),
      (Reads (full (xs 3)) 0 (22)), (Reads (full (xs 3)) 0 (23)), issuing_of (by decide +kernel),
      names_of (by decide +kernel), by decide +kernel, ⟨rfl, by decide +kernel⟩, full_alloc rfl rfl⟩

theorem witness_SpawnsAndEnds_4 :
    (∃ (s : State) (tid : Nat) (d : BitVec 7) (a : BitVec 7) (c : BitVec 5) (s1 : State), Issuing s tid ∧
      (Names s tid [d.toNat, a.toNat, c.toNat]) ∧ ((s.task tid).handler = false) ∧ (locksHeld s tid = 0) ∧
      ((s.task tid).cancel = false) ∧ (relReady s tid 4 = true) ∧ (yieldNow s tid = some s1)) ∧
    (∃ (s : State) (tid : Nat) (d : BitVec 7) (a : BitVec 7) (c : BitVec 5), Issuing s tid ∧ (Names s tid [d.toNat, a.toNat,
      c.toNat]) ∧ ((s.task tid).handler = false) ∧ (locksHeld s tid = 0) ∧ ((s.task tid).pushes = []) ∧
      (relReady s tid 5 = true) ∧ ((s.task tid).phase = Phase.running)) ∧
    (∃ (s : State) (tid : Nat) (d : BitVec 7) (a : BitVec 7) (c : BitVec 5), Issuing s tid ∧ (Names s tid [d.toNat, a.toNat,
      c.toNat]) ∧ ((s.task tid).handler = true)) := by
  refine ⟨?_, ?_, ?_⟩
  · exact ⟨st, 0, 5, 10, default,
      ((fun s => s.modCore (st.task 0).core fun x => x.addTop (Entry.task 0)) ((freeBoth st 0 st.cycle).modTask 0 fun t => ({ t with phase := Phase.ready } : Task))),
      issuing_of (by decide +kernel), names_of (by decide +kernel), by decide +kernel⟩
  · exact ⟨st, 0, 5, 10, default, issuing_of (by decide +kernel), names_of (by decide +kernel), by decide +kernel⟩
  · exact ⟨((mk { tk with handler := true })), 0, 5, 10, default, issuing_of (by decide +kernel), names_of (by decide +kernel),
      by decide +kernel⟩

theorem witness_MatrixTiles_1 :
    (∃ (s : State) (tid : Nat) (d : BitVec 7) (a : BitVec 7) (b : BitVec 7), Issuing s tid ∧ (Names s tid [d.toNat, a.toNat,
      b.toNat]) ∧ (BitVec.toNat (Reads s tid b.toNat) < 4) ∧
      ((s.tile ((s.task tid).core / 8) (BitVec.toNat (Reads s tid a.toNat) % 16)).owner = none ∨ (s.tile ((s.task tid).core / 8) (BitVec.toNat (Reads s tid a.toNat) % 16)).owner = some (s.task tid).ctx ∧
      queuedOn s ((s.task tid).core / 8) (BitVec.toNat (Reads s tid a.toNat) % 16) = 0)) ∧
    (∃ (s : State) (tid : Nat) (d : BitVec 7) (a : BitVec 7) (b : BitVec 7), Issuing s tid ∧ (Names s tid [d.toNat, a.toNat,
      b.toNat]) ∧ ((s.tile ((s.task tid).core / 8) (BitVec.toNat (Reads s tid a.toNat) % 16)).owner ≠ some (s.task tid).ctx)) ∧
    (∃ (s : State) (tid : Nat) (d : BitVec 7) (a : BitVec 7) (b : BitVec 7) (m : BitVec 16), Issuing s tid ∧
      (Names s tid [d.toNat, a.toNat, b.toNat]) ∧ (BitVec.toNat (Reads s tid b.toNat) < 4) ∧ (∀ j < 16,
      m.getLsbD j = true → (s.tile ((s.task tid).core / 8) j).owner = none ∨ (s.tile ((s.task tid).core / 8) j).owner = some (s.task tid).ctx ∧
      queuedOn s ((s.task tid).core / 8) j = 0)) ∧
    (∃ (s : State) (tid : Nat) (d : BitVec 7) (a : BitVec 7) (b : BitVec 7), Issuing s tid ∧ (Names s tid [d.toNat, a.toNat,
      b.toNat]) ∧ ((s.tile ((s.task tid).core / 8) (BitVec.toNat (Reads s tid a.toNat) % 16)).owner = some (s.task tid).ctx) ∧
      (queuedOn s ((s.task tid).core / 8) (BitVec.toNat (Reads s tid a.toNat) % 16) = 0)) ∧
    (∃ (s : State) (tid : Nat) (d : BitVec 7) (a : BitVec 7) (b : BitVec 7), Issuing s tid ∧ (Names s tid [d.toNat, a.toNat,
      b.toNat]) ∧ (BitVec.toNat (Reads s tid b.toNat) < 4) ∧ (∃ o,
      (s.tile ((s.task tid).core / 8) (BitVec.toNat (Reads s tid a.toNat) % 16)).owner = some o ∧ o ≠ (s.task tid).ctx)) ∧
    (∃ (s : State) (tid : Nat) (d : BitVec 7) (a : BitVec 7) (b : BitVec 7), Issuing s tid ∧ (Names s tid [d.toNat, a.toNat,
      b.toNat]) ∧ (BitVec.toNat (Reads s tid b.toNat) < 4) ∧
      ((s.tile ((s.task tid).core / 8) (BitVec.toNat (Reads s tid a.toNat) % 16)).owner = some (s.task tid).ctx) ∧
      (queuedOn s ((s.task tid).core / 8) (BitVec.toNat (Reads s tid a.toNat) % 16) ≠ 0)) ∧
    (∃ (s : State) (tid : Nat) (d : BitVec 7) (a : BitVec 7) (b : BitVec 7), Issuing s tid ∧ (Names s tid [d.toNat, a.toNat,
      b.toNat]) ∧ (4 ≤ BitVec.toNat (Reads s tid b.toNat))) := by
  refine ⟨?_, ?_, ?_, ?_, ?_, ?_, ?_⟩
  · exact ⟨((tls {} 3 3)), 0, 5, 14, 15, issuing_of (by decide +kernel), names_of (by decide +kernel), by decide +kernel⟩
  · exact ⟨((tls {} 3 3)), 0, 5, 14, 15, issuing_of (by decide +kernel), names_of (by decide +kernel), by decide +kernel⟩
  · exact ⟨((tls {} 3 3)), 0, 5, 14, 15, 0xFFFF, issuing_of (by decide +kernel), names_of (by decide +kernel), by decide +kernel⟩
  · exact ⟨((tls { owner := some 0, ty := true, e := [(0, 5)] } 3 0)), 0, 5, 14, 15, issuing_of (by decide +kernel),
      names_of (by decide +kernel), by decide +kernel⟩
  · exact ⟨((tls { owner := some 1 } 3 3)), 0, 5, 14, 15, issuing_of (by decide +kernel), names_of (by decide +kernel),
      by decide +kernel⟩
  · exact ⟨((mj (tls { owner := some 0, ty := true, e := [(0, 5)] } 3 0))), 0, 5, 14, 15, issuing_of (by decide +kernel),
      names_of (by decide +kernel), by decide +kernel⟩
  · exact ⟨((tls { owner := some 0, ty := true, e := [(0, 5)] } 3 4)), 0, 5, 14, 15, issuing_of (by decide +kernel),
      names_of (by decide +kernel), by decide +kernel⟩

theorem witness_TransposesAndSwaps_3 : ∃ (s : State) (tid : Nat) (d : BitVec 7) (a : BitVec 7) (b : BitVec 7), Issuing s tid ∧ (Names s tid [a.toNat, b.toNat]) ∧
    (d.toNat < 120) ∧ (∀ i < 8, Ready s tid (d.toNat + i)) ∧ (BitVec.toNat (Reads s tid a.toNat) / 2 ^ 52 % 8 ≠ 0) ∧
    (d.toNat + 7 ≤ (s.task tid).limit) := by
  exact ⟨st, default, 0, 5, 10, issuing_of (by decide +kernel), names_of (by decide +kernel), by unfold Ready; decide +kernel⟩

theorem witness_ControlRegisters_1 :
    (∃ (s : State) (tid : Nat) (d : BitVec 7) (a : BitVec 7) (n : BitVec 12), Issuing s tid ∧ (Names s tid [d.toNat,
      a.toNat]) ∧ (n.toNat ∉  have y :=   have y :=    have y := [61, 62, 64, 80, 81,
      82];    56 :: 57 :: 58 :: 59 :: 60 :: y;   have y := 50 :: 51 :: 52 :: 53 :: 54 :: y;   44 :: 45 :: 46 :: 48 :: 49 :: y;  have y :=   have y := 25 :: 32 :: 40 :: 41 :: 42 :: 43 :: y;   17 :: 18 :: 19 :: 20 :: 24 :: y;  have y := 5 :: 6 :: 7 :: 8 :: 16 :: y;  0 :: 1 :: 2 :: 3 :: 4 :: y)) ∧
    (∃ (s : State) (tid : Nat) (d : BitVec 7) (a : BitVec 7), Issuing s tid ∧ (Names s tid [d.toNat, a.toNat]) ∧
      (isFirmware s tid = true)) := by
  refine ⟨?_, ?_⟩
  · exact ⟨st, 0, 5, 3, 119, issuing_of (by decide +kernel), names_of (by decide +kernel), by decide +kernel⟩
  · exact ⟨((fw st)), 0, 5, 3, issuing_of (by decide +kernel), names_of (by decide +kernel), by decide +kernel⟩

theorem witness_Pairs_2 :
    (∃ (s : State) (tid : Nat) (d : BitVec 7) (a : BitVec 7) (b : BitVec 7), Issuing s tid ∧ (Names s tid [d.toNat, a.toNat,
      b.toNat]) ∧ (tid < s.nextId) ∧ ((s.task tid).handler = true)) ∧
    (∃ (s : State) (tid : Nat) (d : BitVec 7) (a : BitVec 7) (b : BitVec 7), Issuing s tid ∧ (Names s tid [d.toNat, a.toNat,
      b.toNat]) ∧ (tid < s.nextId) ∧ ((s.task tid).handler = false) ∧ (pairCode s tid ≠ 0)) ∧
    (∃ (s : State) (s1 : State) (s2 : State) (tid : Nat) (d : BitVec 7) (a : BitVec 7) (b : BitVec 7) (pl : Place)
      (bs : List Byte), Issuing s tid ∧ (Names s tid [d.toNat, a.toNat, b.toNat]) ∧ (tid < s.nextId) ∧
      (8 ≤ BitVec.toNat (Reads s tid b.toNat)) ∧ (BitVec.toNat (Reads s tid b.toNat) ≤ 128) ∧
      (BitVec.toNat (Reads s tid b.toNat) % 8 = 0) ∧ (BitVec.toNat (Reads s tid a.toNat) % 2 ^ 52 % 8 = 0) ∧
      (BitVec.toNat (Reads s tid a.toNat) % 2 ^ 52 / 128 = (BitVec.toNat (Reads s tid a.toNat) % 2 ^ 52 + BitVec.toNat (Reads s tid b.toNat) - 1) / 128) ∧
      (BitVec.toNat (Reads s tid a.toNat) / 2 ^ 52 % 8 = 0) ∧
      (placeOf s tid (BitVec.toNat (Reads s tid a.toNat) % 2 ^ 52) (BitVec.toNat (Reads s tid b.toNat)) Acc.rd = Except.ok (pl,
      s1)) ∧
      (loadPlace s1 tid pl (BitVec.toNat (Reads s tid a.toNat) % 2 ^ 52) (BitVec.toNat (Reads s tid b.toNat)) true = Except.ok (bs,
      s2))) := by
  refine ⟨?_, ?_, ?_⟩
  · exact ⟨((mk { tk with handler := true })), 0, 5, 10, 3, issuing_of (by decide +kernel), names_of (by decide +kernel),
      by decide +kernel⟩
  · exact ⟨st, 0, 5, 14, 15, issuing_of (by decide +kernel), names_of (by decide +kernel), by decide +kernel⟩
  · exact ⟨((a14 0x10000 8)), _, _, 0, 5, 14, 15,
      (Place.mem (bits leaf.word 35 0 * 2 ^ 16 + BitVec.toNat (Reads (a14 65536 8) 0 (14)) % 2 ^ 52 % 2 ^ pageBits leaf.word) leaf.word),
      _, issuing_of (by decide +kernel), names_of (by decide +kernel), and5 (by decide +kernel) ⟨by decide +kernel,
      by decide +kernel, ok_pair (by decide +kernel), ok_pair (by decide +kernel)⟩⟩

end C20

namespace C21

def a14 (v w : Word) : State := mk (rgs [(14, v), (15, w)] tk)

def cla : Claim := { frame := some 0, req := 3, g := 2, vl := 5, v := [(0, 3), (1, 0xFFFFFFF9), (2, 250), (3, 0x40490FDB)], vm := [(0, 0xFE), (1, 0x0B)] }

def vm (p : Word) (c : Claim) : State := mk (rgs [(14, p), (15, 8), (16,0x10000)] { tk with claim := some c })

def fws (x y : Word) : State := fw (mk (rgs [(14, x), (15, y)] tk))

def t2 : Task := { phase := .ready, ctx := 0, cls := 0, r := { pc := 0x3000 } }

def ds (e : List Entry) : State := { st with turn := none, tasks := [(0, tk), (2, t2)], cores := [(0, { core0 with deque := e })] }

def fq (op : FOp) : FutMsg := { tid := 0, ctx := 0, cl := 1, h := 0x9000000000000000 + 5 * 2^18 + 7, op := op }

def frm : State := { ds [] with net := { futReqs := [fq .touch], remaps := [{ unit := 0, isCore := false, copy := true, retire := false, phys := 5 }] } }

def h0 (c : Code) : Halt := { code := c, detail := 0x10003, len := 4, insn := 0, held := true }

def hlw : State := { mk { tk with halt := some (h0 FUT_FULL), series := some 0 } with turn := none, cycle := 10000000 }

def prk : State := { mk { tk with phase := .parked } with turn := none }

def nof : State := { st with clusters := [(0, { cl0 with pageFuts := [{ ctx := 0, vpn := 5, h := none }] })] }

def sp : State := { st with ctxs := [(0, { ctx0 with spill := [(0x5000000, 4096)] })], clusters := [(0, { cl0 with futs := List.replicate 3840 (9, { idx := 9, gen := 7, prod := .empty, ctx := 3, launch := none }) ++ [(5, { idx := 5, gen := 7, prod := .empty, ctx := 0, launch := none })] })] }

theorem witness_RoundingExact_1 :
    (∃ (f : Fmt) (b : Nat) (n : Bool) (m : Nat) (e : ℤ), (f ∈ [FP64, FP32, FP16, BF16, E5M2, E4M3, E2M1]) ∧
      (b < 2 ^ f.width) ∧ (fval f b = FVal.num n m e)) ∧
    (∃ (f : Fmt) (rm : Nat) (m : Nat), (f ∈ [FP64, FP32, FP16, BF16, E5M2, E4M3, E2M1]) ∧ (1 ≤ rm) ∧ (rm ≤ 5) ∧ (0 < m)) ∧
    (∃ (f : Fmt), (f ∈ [FP64, FP32, FP16, BF16, E5M2, E4M3, E2M1]) ∧ (f ≠ E2M1)) ∧
    (∃ (f : Fmt) (a : Nat) (b : Nat), (f ∈ [FP64, FP32, FP16, BF16]) ∧ (a < 2 ^ f.width) ∧ (b < 2 ^ f.width) ∧
      ((fval f a).isNan = false) ∧ ((fval f b).isNan = false)) := by
  refine ⟨?_, ?_, ?_, ?_⟩
  · exact ⟨FP64, default, (default / 2 ^ (FP64.width - 1) % 2 == 1), (default % 2 ^ FP64.fb), (1 - ↑FP64.bias - ↑FP64.fb),
      by decide +kernel⟩
  · exact ⟨FP64, 1, 1, by decide +kernel⟩
  · exact ⟨FP64, by decide +kernel⟩
  · exact ⟨FP64, default, default, by decide +kernel⟩

theorem witness_Operands_2 :
    (∃ (s : State) (s1 : State) (s2 : State) (s3 : State) (tid : Nat) (d : BitVec 7) (a : BitVec 7) (b : BitVec 7) (x : Word)
      (y : Word), Issuing s tid ∧ (checkOperands s tid [Opd.dst d.toNat, Opd.src a.toNat, Opd.src b.toNat] = Except.ok ()) ∧
      (opdsReady s tid [Opd.dst d.toNat, Opd.src a.toNat, Opd.src b.toNat] = Except.ok ()) ∧
      (resultsReady s tid [Opd.dst d.toNat, Opd.src a.toNat, Opd.src b.toNat] = Except.ok ()) ∧
      (readReg s tid a.toNat = Except.ok (x, s1)) ∧ (readReg s1 tid b.toNat = Except.ok (y, s2)) ∧
      (writeReg s2 tid d.toNat (x + y) = Except.ok s3) ∧ ((s3.task tid).pair = none)) ∧
    (∃ (s : State) (s1 : State) (s2 : State) (s3 : State) (tid : Nat) (d : BitVec 7) (a : BitVec 7) (b : BitVec 7) (x : Word)
      (y : Word), Issuing s tid ∧ (checkOperands s tid [Opd.dst d.toNat, Opd.src a.toNat, Opd.src b.toNat] = Except.ok ()) ∧
      (opdsReady s tid [Opd.dst d.toNat, Opd.src a.toNat, Opd.src b.toNat] = Except.ok ()) ∧
      (resultsReady s tid [Opd.dst d.toNat, Opd.src a.toNat, Opd.src b.toNat] = Except.ok ()) ∧
      (readReg s tid a.toNat = Except.ok (x, s1)) ∧ (readReg s1 tid b.toNat = Except.ok (y, s2)) ∧
      (writeReg s2 tid d.toNat (x - y) = Except.ok s3) ∧ ((s3.task tid).pair = none)) ∧
    (∃ (s : State) (s1 : State) (s2 : State) (s3 : State) (tid : Nat) (d : BitVec 7) (a : BitVec 7) (b : BitVec 7) (x : Word)
      (y : Word), Issuing s tid ∧ (checkOperands s tid [Opd.dst d.toNat, Opd.src a.toNat, Opd.src b.toNat] = Except.ok ()) ∧
      (opdsReady s tid [Opd.dst d.toNat, Opd.src a.toNat, Opd.src b.toNat] = Except.ok ()) ∧
      (resultsReady s tid [Opd.dst d.toNat, Opd.src a.toNat, Opd.src b.toNat] = Except.ok ()) ∧
      (readReg s tid a.toNat = Except.ok (x, s1)) ∧ (readReg s1 tid b.toNat = Except.ok (y, s2)) ∧ (isPort d.toNat = false) ∧
      (writeReg s2 tid d.toNat (x * y) = Except.ok s3) ∧ ((s3.task tid).pair = none)) := by
  refine ⟨?_, ?_, ?_⟩
  · exact ⟨st, st, st, st, 0, 125, 63, 10, (st.g 0 (63)), (st.g 0 (10)), issuing_of (by decide +kernel), rfl, rfl, rfl, rfl, rfl,
      rfl, by decide +kernel⟩
  · exact ⟨st, st, st, st, 0, 125, 63, 10, (st.g 0 (63)), (st.g 0 (10)), issuing_of (by decide +kernel), rfl, rfl, rfl, rfl, rfl,
      rfl, by decide +kernel⟩
  · exact ⟨st, st, st, st, 0, 125, 63, 10, (st.g 0 (63)), (st.g 0 (10)), issuing_of (by decide +kernel), rfl, rfl, rfl, rfl, rfl,
      by decide +kernel, rfl, by decide +kernel⟩

theorem witness_TransfersAndStash_4 : ∃ (s : State) (tid : Nat) (d : BitVec 7) (a : BitVec 7) (b : BitVec 7), Issuing s tid ∧ (Names s tid [d.toNat, a.toNat,
    b.toNat]) ∧ ((s.task tid).fifo = []) ∧
    (stashCode (partOf (s.core (s.task tid).core) (s.task tid).ctx) (Reads s tid a.toNat) (Reads s tid b.toNat) = 0) := by
  exact ⟨((a14 0x10000 0x8000000080)), 0, 5, 14, 15, issuing_of (by decide +kernel), names_of (by decide +kernel),
    by decide +kernel⟩

theorem witness_VectorMemory_3 :
    (∃ (s : State) (tid : Nat) (c : Claim) (d : BitVec 4) (x : BitVec 4) (a : BitVec 7) (b : BitVec 7) (m : BitVec 1)
      (k : BitVec 2), Issuing s tid ∧ (Names s tid [a.toNat, b.toNat]) ∧ ((s.task tid).claim = some c) ∧
      (Ready s tid (128 + d.toNat)) ∧ (Ready s tid (128 + x.toNat)) ∧ (Ready s tid (144 + k.toNat)) ∧
      (BitVec.toNat (addrAdd (Reads s tid a.toNat) 0) / 2 ^ 52 % 8 = 0 ∧
      fmtOk (BitVec.toNat (addrAdd (Reads s tid a.toNat) 0) / 2 ^ 58) (BitVec.toNat (addrAdd (Reads s tid a.toNat) 0) / 2 ^ 55 % 8) = true) ∧
      (18 ≤ BitVec.toNat (addrAdd (Reads s tid a.toNat) 0) / 2 ^ 58) ∧
      (c.vl % blockLen (BitVec.toNat (addrAdd (Reads s tid a.toNat) 0) / 2 ^ 58) (BitVec.toNat (addrAdd (Reads s tid a.toNat) 0) / 2 ^ 55 % 8) ≠ 0 ∨ m ≠ 0)) ∧
    (∃ (s : State) (tid : Nat) (c : Claim) (d : BitVec 4) (x : BitVec 4) (a : BitVec 7) (b : BitVec 7) (m : BitVec 1)
      (k : BitVec 2) (i : BitVec 32), Issuing s tid ∧ (Names s tid [a.toNat, b.toNat]) ∧ ((s.task tid).claim = some c) ∧
      (Ready s tid (128 + d.toNat)) ∧ (Ready s tid (128 + x.toNat)) ∧ (Ready s tid (144 + k.toNat)) ∧
      (BitVec.toNat (addrAdd (Reads s tid a.toNat) (BitVec.signExtend 64 i)) / 2 ^ 52 % 8 = 0 ∧
      fmtOk (BitVec.toNat (addrAdd (Reads s tid a.toNat) (BitVec.signExtend 64 i)) / 2 ^ 58) (BitVec.toNat (addrAdd (Reads s tid a.toNat) (BitVec.signExtend 64 i)) / 2 ^ 55 % 8) = true) ∧
      (18 ≤ BitVec.toNat (addrAdd (Reads s tid a.toNat) (BitVec.signExtend 64 i)) / 2 ^ 58) ∧
      (c.vl % blockLen (BitVec.toNat (addrAdd (Reads s tid a.toNat) (BitVec.signExtend 64 i)) / 2 ^ 58) (BitVec.toNat (addrAdd (Reads s tid a.toNat) (BitVec.signExtend 64 i)) / 2 ^ 55 % 8) ≠ 0 ∨ m ≠ 0)) := by
  refine ⟨?_, ?_⟩
  · exact ⟨((vm (0x10000 + 18 * 2^58) cla)), 0, cla, 2, 5, 14, 15, 0, 1, issuing_of (by decide +kernel),
      names_of (by decide +kernel), by decide +kernel, by unfold Ready; decide +kernel, by unfold Ready; decide +kernel,
      by unfold Ready; decide +kernel, ⟨by decide +kernel, by decide +kernel⟩, by decide +kernel⟩
  · exact ⟨((vm (0x10000 + 18 * 2^58) cla)), 0, cla, 2, 5, 14, 15, 0, 1, 0, issuing_of (by decide +kernel),
      names_of (by decide +kernel), by decide +kernel, by unfold Ready; decide +kernel, by unfold Ready; decide +kernel,
      by unfold Ready; decide +kernel, ⟨by decide +kernel, by decide +kernel⟩, by decide +kernel⟩

theorem witness_TransposesAndSwaps_4 : ∃ (s : State) (tid : Nat) (d : BitVec 7) (a : BitVec 7) (b : BitVec 7), Issuing s tid ∧ (Names s tid [a.toNat, b.toNat]) ∧
    (d.toNat < 120) ∧ (∀ i < 8, Ready s tid (d.toNat + i)) ∧ (BitVec.toNat (Reads s tid a.toNat) / 2 ^ 52 % 8 = 0) ∧
    (BitVec.toNat (Reads s tid a.toNat) % 8 ≠ 0) ∧ (d.toNat + 7 ≤ (s.task tid).limit) := by
  exact ⟨((a14 0x10003 8)), 0, 5, 14, 15, issuing_of (by decide +kernel), names_of (by decide +kernel),
    by unfold Ready; decide +kernel⟩

theorem witness_FirmwareInstructions_3 :
    (∃ (s : State) (tid : Nat) (d : BitVec 7) (a : BitVec 7) (b : BitVec 7), Issuing s tid ∧ (isFirmware s tid = true) ∧
      (Names s tid [d.toNat, a.toNat, b.toNat]) ∧ (slotwBad s (Reads s tid a.toNat) (Reads s tid b.toNat) = false) ∧
      (BitVec.toNat (Reads s tid a.toNat) / 2 ^ 60 = 2) ∧
      (stillParking s ((s.task tid).core / 8 * 8 + BitVec.toNat (Reads s tid a.toNat) / 2 ^ 8 % 8) (BitVec.toNat (Reads s tid b.toNat) % 64) = false)) ∧
    (∃ (s : State) (tid : Nat) (d : BitVec 7) (a : BitVec 7) (b : BitVec 7), Issuing s tid ∧ (isFirmware s tid = true) ∧
      (Names s tid [d.toNat, a.toNat, b.toNat]) ∧ (slotwBad s (Reads s tid a.toNat) (Reads s tid b.toNat) = false) ∧
      (BitVec.toNat (Reads s tid a.toNat) / 2 ^ 60 = 4) ∧
      ((s.core ((s.task tid).core / 8 * 8 + BitVec.toNat (Reads s tid a.toNat) / 2 ^ 8 % 8)).frozen.contains (BitVec.toNat (Reads s tid b.toNat) % 64) = false ∨ stillParking s ((s.task tid).core / 8 * 8 + BitVec.toNat (Reads s tid a.toNat) / 2 ^ 8 % 8) (BitVec.toNat (Reads s tid b.toNat) % 64) = false)) ∧
    (∃ (s : State) (tid : Nat) (d : BitVec 7) (a : BitVec 7) (b : BitVec 7), Issuing s tid ∧ (isFirmware s tid = true) ∧
      (Names s tid [d.toNat, a.toNat, b.toNat]) ∧ (∀ r ∈ s.net.remaps, Option.map (fun x => x.1) r.asker ≠ some tid) ∧
      (mapclBad (Reads s tid a.toNat) (Reads s tid b.toNat) = false) ∧ (∀ r ∈ s.net.remaps,
      r.isCore = decide (BitVec.toNat (Reads s tid a.toNat) / 2 ^ 63 = 1) → r.unit ≠ if decide (BitVec.toNat (Reads s tid a.toNat) / 2 ^ 63 = 1) = true then (BitVec.toNat (Reads s tid a.toNat) / 2 ^ 11 % 8 * 112 + BitVec.toNat (Reads s tid a.toNat) / 2 ^ 4 % 128) * 8 + BitVec.toNat (Reads s tid a.toNat) % 8 else BitVec.toNat (Reads s tid a.toNat) / 2 ^ 11 % 8 * 112 + BitVec.toNat (Reads s tid a.toNat) / 2 ^ 4 % 128) ∧
      (isSpare s (decide (BitVec.toNat (Reads s tid a.toNat) / 2 ^ 63 = 1)) (if decide (BitVec.toNat (Reads s tid a.toNat) / 2 ^ 63 = 1) = true then (BitVec.toNat (Reads s tid a.toNat) / 2 ^ 11 % 8 * 112 + BitVec.toNat (Reads s tid a.toNat) / 2 ^ 4 % 128) * 8 + BitVec.toNat (Reads s tid a.toNat) % 8 else BitVec.toNat (Reads s tid a.toNat) / 2 ^ 11 % 8 * 112 + BitVec.toNat (Reads s tid a.toNat) / 2 ^ 4 % 128) (BitVec.toNat (Reads s tid b.toNat)) = true)) := by
  refine ⟨?_, ?_, ?_⟩
  · exact ⟨((fws 0x2000000000000000 0)), 0, 5, 14, 15, issuing_of (by decide +kernel), by decide +kernel,
      names_of (by decide +kernel), by decide +kernel⟩
  · exact ⟨((fws 0x4000000000000000 0)), 0, 5, 14, 15, issuing_of (by decide +kernel), by decide +kernel,
      names_of (by decide +kernel), by decide +kernel⟩
  · exact ⟨((fws 0x8000000000000010 8)), 0, 5, 14, 15, issuing_of (by decide +kernel), by decide +kernel,
      names_of (by decide +kernel), by decide +kernel⟩

theorem witness_FaultService_3 :
    (∃ (s : State) (tid : Nat) (n : Nat) (h : Halt), (liveTask s tid = true) ∧ ((s.task tid).pair = none) ∧
      ((s.task tid).halt = some h) ∧ ((s.task tid).ending = false) ∧ (n ≤ (s.task tid).limit)) ∧
    (∃ (s : State) (tid : Nat) (v : Word) (h : Halt), (liveTask s tid = true) ∧ ((s.task tid).pair = none) ∧
      ((s.task tid).halt = some h) ∧ ((s.task tid).ending = false) ∧ (BitVec.toNat v ≤ 256)) ∧
    (∃ (s : State) (tid : Nat) (h : Halt), (liveTask s tid = true) ∧ ((s.task tid).pair = none) ∧
      ((s.task tid).halt = some h) ∧ ((s.task tid).ending = false) ∧ (h.held = true) ∧ (h.code = FUT_FULL)) ∧
    (∃ (s : State) (tid : Nat) (h : Halt), (liveTask s tid = true) ∧ ((s.task tid).pair = none) ∧
      ((s.task tid).halt = some h) ∧ ((s.task tid).ending = false) ∧ (h.held = true) ∧ (waitOver s tid = true)) ∧
    (∃ (s : State) (tid : Nat), (liveTask s tid = true) ∧ ((s.task tid).pair = none) ∧ ((s.task tid).phase = Phase.parked)) := by
  refine ⟨?_, ?_, ?_, ?_, ?_⟩
  · exact ⟨hlw, 0, 0, ((h0 FUT_FULL)), by decide +kernel⟩
  · exact ⟨hlw, 0, 7, ((h0 FUT_FULL)), by decide +kernel⟩
  · exact ⟨hlw, 0, ((h0 FUT_FULL)), by decide +kernel⟩
  · exact ⟨hlw, 0, ((h0 FUT_FULL)), by decide +kernel⟩
  · exact ⟨prk, 0, by decide +kernel⟩

theorem witness_RegisterAndFillEvents_3 : ∃ (s : State) (cl : Nat) (i : Nat) (p : PageFut), ((s.cluster cl).pageFuts[i]? = some p) ∧ (p.h = none) := by
  exact ⟨nof, 0, 0, ({ ctx := 0, vpn := 5, h := none }), by decide +kernel⟩

theorem witness_SchedulingEvents_4 :
    (∃ (s : State) (i : Nat) (m : FutMsg), (s.net.futReqs[i]? = some m) ∧ (m.retry = false) ∧
      (clusterMoving s (hCl m.h) = true)) ∧
    (∃ (s : State) (cl : Nat) (f : Fut), (maySpill s cl = true) ∧ (spillChoice s cl = some f)) := by
  refine ⟨?_, ?_⟩
  · exact ⟨frm, 0, (fq FOp.touch), by decide +kernel⟩
  · exact ⟨sp, 0, ((fun x => x.2) (5, { idx := 5, gen := 7, prod := Prod.empty, ctx := 0, launch := none })), by decide +kernel⟩

end C21

namespace C30

def tl : Tile := { owner := some 0, ty := true, e := [(0, 5), (129, 6)] }

def jw (op : Nat) : List Word := [match op with | 0 => 0x0310_0020_0000_0000 | 1 => 0x1300_0000_0000_0000 | 2 => 0x2300_0000_0000_0000 | _ => 0x3300_0000_0000_0000,
  match op with | 3 => 0 | _ => 0x040FFE0000000080, match op with | 0 => 0x040FFE0000000080 | _ => 0, 77]

def jb (op : Nat) (b : Word)
  (r : Option Word) : Job := { id := 4, ctx := 0, launch := none, w0 := (jw op).getD 0 0 + b, w1 := (jw op).getD 1 0, w2 := (jw op).getD 2 0, w3 := 77, sink := .ep 0, rm := 1, rng := 1, time := 0, result := r }

def sj (op : Nat) (b : Word) (r : Option Word)
  (f : Core → Core) : State := { st with turn := none, cores := [(0, f core0)], clusters := [(0, { cl0 with tiles := [(3, { tl with owner := some 0, ty := op == 0 })], jobs := [jb op b r] })] }

def started (s : State) (x : Job) : Job := (((startJob s 0 x).cluster 0).jobs.find? fun z => z.id == x.id).getD x

def bd : Word := 2^48

def stp (c : Core) : Core := { c with stopped := true }

def ded (c : Core) : Core := { c with dead := true }

theorem witness_MatrixEvents_2 :
    (∃ (s : State) (cl : Nat) (x : Job) (y : Job), (mxNext s cl = some x) ∧ (x.result = none) ∧ (mayStart s cl x = true) ∧
      (List.find? (fun z => decide (z.id = x.id)) ((startJob s cl x).cluster cl).jobs = some y) ∧ (mxOp x.w0 = 0) ∧
      (mxDescOk ((startJob s cl x).tile cl (mxTile y.w0)).ty y.w0 y.w1 y.w2 y.w3 = false)) ∧
    (∃ (s : State) (cl : Nat) (x : Job) (y : Job), (mxNext s cl = some x) ∧ (x.result = none) ∧ (mayStart s cl x = true) ∧
      (List.find? (fun z => decide (z.id = x.id)) ((startJob s cl x).cluster cl).jobs = some y) ∧ (mxOp x.w0 = 1) ∧
      (mxDescOk ((startJob s cl x).tile cl (mxTile y.w0)).ty y.w0 y.w1 y.w2 y.w3 = false)) ∧
    (∃ (s : State) (cl : Nat) (x : Job) (y : Job), (mxNext s cl = some x) ∧ (x.result = none) ∧ (mayStart s cl x = true) ∧
      (List.find? (fun z => decide (z.id = x.id)) ((startJob s cl x).cluster cl).jobs = some y) ∧ (mxOp x.w0 = 2) ∧
      (mxDescOk ((startJob s cl x).tile cl (mxTile y.w0)).ty y.w0 y.w1 y.w2 y.w3 = false)) ∧
    (∃ (s : State) (cl : Nat) (x : Job) (y : Job), (mxNext s cl = some x) ∧ (x.result = none) ∧ (mayStart s cl x = true) ∧
      (List.find? (fun z => decide (z.id = x.id)) ((startJob s cl x).cluster cl).jobs = some y) ∧ (mxOp x.w0 = 3) ∧
      (mxDescOk ((startJob s cl x).tile cl (mxTile y.w0)).ty y.w0 y.w1 y.w2 y.w3 = false)) ∧
    (∃ (s : State) (cl : Nat) (x : Job) (y : Job) (a : State) (c : Cause), (mxNext s cl = some x) ∧ (x.result = none) ∧
      (mayStart s cl x = true) ∧ (List.find? (fun z => decide (z.id = x.id)) ((startJob s cl x).cluster cl).jobs = some y) ∧
      (mxOp x.w0 = 0) ∧ (mxDescOk ((startJob s cl x).tile cl (mxTile y.w0)).ty y.w0 y.w1 y.w2 y.w3 = true) ∧
      (mmaWork cl (startJob s cl x) y = Eng.wait a c)) ∧
    (∃ (s : State) (cl : Nat) (x : Job) (y : Job) (a : State) (c : Cause), (mxNext s cl = some x) ∧ (x.result = none) ∧
      (mayStart s cl x = true) ∧ (List.find? (fun z => decide (z.id = x.id)) ((startJob s cl x).cluster cl).jobs = some y) ∧
      (mxOp x.w0 = 1) ∧ (mxDescOk ((startJob s cl x).tile cl (mxTile y.w0)).ty y.w0 y.w1 y.w2 y.w3 = true) ∧
      (loadWork cl (startJob s cl x) y = Eng.wait a c)) ∧
    (∃ (s : State) (cl : Nat) (x : Job) (y : Job) (a : State) (c : Cause), (mxNext s cl = some x) ∧ (x.result = none) ∧
      (mayStart s cl x = true) ∧ (List.find? (fun z => decide (z.id = x.id)) ((startJob s cl x).cluster cl).jobs = some y) ∧
      (mxOp x.w0 = 2) ∧ (mxDescOk ((startJob s cl x).tile cl (mxTile y.w0)).ty y.w0 y.w1 y.w2 y.w3 = true) ∧
      (storeWork cl (startJob s cl x) y = Eng.wait a c)) ∧
    (∃ (s : State) (cl : Nat) (x : Job) (y : Job) (c : Code), (mxNext s cl = some x) ∧ (x.result = none) ∧
      (mayStart s cl x = true) ∧ (List.find? (fun z => decide (z.id = x.id)) ((startJob s cl x).cluster cl).jobs = some y) ∧
      (mxOp x.w0 = 0) ∧ (mxDescOk ((startJob s cl x).tile cl (mxTile y.w0)).ty y.w0 y.w1 y.w2 y.w3 = true) ∧
      (mmaWork cl (startJob s cl x) y = Eng.bad c)) ∧
    (∃ (s : State) (cl : Nat) (x : Job) (y : Job) (c : Code), (mxNext s cl = some x) ∧ (x.result = none) ∧
      (mayStart s cl x = true) ∧ (List.find? (fun z => decide (z.id = x.id)) ((startJob s cl x).cluster cl).jobs = some y) ∧
      (mxOp x.w0 = 1) ∧ (mxDescOk ((startJob s cl x).tile cl (mxTile y.w0)).ty y.w0 y.w1 y.w2 y.w3 = true) ∧
      (loadWork cl (startJob s cl x) y = Eng.bad c)) ∧
    (∃ (s : State) (cl : Nat) (x : Job) (y : Job) (c : Code), (mxNext s cl = some x) ∧ (x.result = none) ∧
      (mayStart s cl x = true) ∧ (List.find? (fun z => decide (z.id = x.id)) ((startJob s cl x).cluster cl).jobs = some y) ∧
      (mxOp x.w0 = 2) ∧ (mxDescOk ((startJob s cl x).tile cl (mxTile y.w0)).ty y.w0 y.w1 y.w2 y.w3 = true) ∧
      (storeWork cl (startJob s cl x) y = Eng.bad c)) := by
  refine ⟨?_, ?_, ?_, ?_, ?_, ?_, ?_, ?_, ?_, ?_⟩
  · exact ⟨((sj 0 bd none id)), 0, ((jb 0 bd none)), ((started (sj 0 bd none id) (jb 0 bd none))), by decide +kernel⟩
  · exact ⟨((sj 1 bd none id)), 0, ((jb 1 bd none)), ((started (sj 1 bd none id) (jb 1 bd none))), by decide +kernel⟩
  · exact ⟨((sj 2 bd none id)), 0, ((jb 2 bd none)), ((started (sj 2 bd none id) (jb 2 bd none))), by decide +kernel⟩
  · exact ⟨((sj 3 bd none id)), 0, ((jb 3 bd none)), ((started (sj 3 bd none id) (jb 3 bd none))), by decide +kernel⟩
  · exact ⟨((sj 0 0 none stp)), 0, ((jb 0 0 none)), ((started (sj 0 0 none stp) (jb 0 0 none))),
      (startJob (sj 0 0 none stp) 0 (jb 0 0 none)), Cause.port, and5 (by decide +kernel) ⟨by decide +kernel, rfl⟩⟩
  · exact ⟨((sj 1 0 none stp)), 0, ((jb 1 0 none)), ((started (sj 1 0 none stp) (jb 1 0 none))),
      (startJob (sj 1 0 none stp) 0 (jb 1 0 none)), Cause.port, and5 (by decide +kernel) ⟨by decide +kernel, rfl⟩⟩
  · exact ⟨((sj 2 0 none stp)), 0, ((jb 2 0 none)), ((started (sj 2 0 none stp) (jb 2 0 none))),
      (startJob (sj 2 0 none stp) 0 (jb 2 0 none)), Cause.port, and5 (by decide +kernel) ⟨by decide +kernel, rfl⟩⟩
  · exact ⟨((sj 0 0 none ded)), 0, ((jb 0 0 none)), ((started (sj 0 0 none ded) (jb 0 0 none))), DEAD,
      and5 (by decide +kernel) ⟨by decide +kernel, eng_bad (by decide +kernel)⟩⟩
  · exact ⟨((sj 1 0 none ded)), 0, ((jb 1 0 none)), ((started (sj 1 0 none ded) (jb 1 0 none))), DEAD,
      and5 (by decide +kernel) ⟨by decide +kernel, eng_bad (by decide +kernel)⟩⟩
  · exact ⟨((sj 2 0 none ded)), 0, ((jb 2 0 none)), ((started (sj 2 0 none ded) (jb 2 0 none))), DEAD,
      and5 (by decide +kernel) ⟨by decide +kernel, eng_bad (by decide +kernel)⟩⟩

end C30

namespace C31

def xf (a b : Word) : Xfer := { id := 3, ctx := 0, launch := none, w0 := 2 * 2^60 + 64, w1 := a, w2 := b, w3 := 0, sink := .ep 0, time := 0 }

def sx (x : Xfer)
  (f : Core → Core) : State := { st with turn := none, cores := [(0, f core0)], clusters := [(0, { cl0 with xfers := [x] })] }

def sf (t : Task)
  (f : Core → Core) : State := { mk t with turn := none, cores := [(0, f core0), (1, { core0 with slots := [] })] }

def pm (t : Option Nat) : PortMsg := { ctx := 0, core := 0, off := 128, bytes := [1, 2], kind := 0, src := 1, tid := t }

theorem witness_StoreAndTransferEvents_1 :
    (∃ (s : State) (cl : Nat) (x : Xfer) (n : Nat) (a : Unit) (s1 : State),
      (List.find? (fun y => decide (y.id = n)) (s.cluster cl).xfers = some x) ∧ (mayPiece s cl x = true) ∧
      (x.prefetches = false) ∧ (movePiece s cl x = Eng.ok a s1)) ∧
    (∃ (s : State) (cl : Nat) (x : Xfer) (n : Nat), (List.find? (fun y => decide (y.id = n)) (s.cluster cl).xfers = some x) ∧
      (mayEnd s cl x = false)) ∧
    (∃ (s : State) (tid : Nat) (t : Machine.Task), (mfind s.tasks tid = some t) ∧ (t.fifo = [])) ∧
    (∃ (s : State) (k : Nat), ((s.core k).traceIdx ≤ (s.core k).traceCopied)) ∧
    (∃ (s : State) (cl : Nat) (x : Xfer) (n : Nat) (s1 : State) (c : Cause),
      (List.find? (fun y => decide (y.id = n)) (s.cluster cl).xfers = some x) ∧ (mayPiece s cl x = true) ∧
      (x.prefetches = false) ∧ (movePiece s cl x = Eng.wait s1 c)) ∧
    (∃ (s : State) (cl : Nat) (x : Xfer) (n : Nat) (c : Code),
      (List.find? (fun y => decide (y.id = n)) (s.cluster cl).xfers = some x) ∧ (mayPiece s cl x = true) ∧
      (x.prefetches = false) ∧ (movePiece s cl x = Eng.bad c)) ∧
    (∃ (s : State) (cl : Nat) (x : Xfer) (n : Nat), (List.find? (fun y => decide (y.id = n)) (s.cluster cl).xfers = some x) ∧
      (mayPiece s cl x = false)) ∧
    (∃ (s : State) (cl : Nat) (x : Xfer) (n : Nat) (t : Nat),
      (List.find? (fun y => decide (y.id = n)) (s.cluster cl).xfers = some x) ∧ (mayEnd s cl x = true) ∧
      (x.sink = Sink.ep t) ∧ (liveTask s t = true)) ∧
    (∃ (s : State) (k : Nat) (tid : Nat) (t : Machine.Task) (x : Store) (rest : List Store) (o : Nat),
      (mfind s.tasks tid = some t) ∧ (t.fifo = x :: rest) ∧ (x.rel = none) ∧ (x.dest = Dest.win k o) ∧ (t.unacked.contains (k,
      o / 128) = false) ∧ (k = t.core) ∧ (portRefuses s k 0 x.bytes.length k o = false)) ∧
    (∃ (s : State) (k : Nat) (tid : Nat) (t : Machine.Task) (x : Store) (rest : List Store) (o : Nat),
      (mfind s.tasks tid = some t) ∧ (t.fifo = x :: rest) ∧ (x.rel = none) ∧ (x.dest = Dest.win k o) ∧ (t.unacked.contains (k,
      o / 128) = true)) := by
  refine ⟨?_, ?_, ?_, ?_, ?_, ?_, ?_, ?_, ?_, ?_⟩
  · exact ⟨((sx (xf 0xFFE0000000080 0xFFE0000000180) id)), 0, (xf 4501400604115072 4501400604115328), 3, (()), _,
      and3 (by decide +kernel) (eng_ok (by decide +kernel))⟩
  · exact ⟨((sx (xf 0xFFE0000000080 0xFFE0000000180) id)), 0, (xf 4501400604115072 4501400604115328), 3, by decide +kernel⟩
  · exact ⟨((sf tk id)), 0, tk, by decide +kernel⟩
  · exact ⟨((sf tk id)), 0, by decide +kernel⟩
  · exact ⟨((sx (xf 0xFFE0000000080 0xFFE0000000180) fun c => { c with stopped := true })), 0,
      (xf 4501400604115072 4501400604115328), 3,
      (sx (xf 4501400604115072 4501400604115328) fun c => { c with stopped := true }), Cause.port,
      and3 (by decide +kernel) (rfl)⟩
  · exact ⟨((sx (xf 0xFFE0000000080 0xFFE0000000180) fun c => { c with dead := true })), 0,
      (xf 4501400604115072 4501400604115328), 3, DEAD, and3 (by decide +kernel) (eng_bad (by decide +kernel))⟩
  · exact ⟨((sx { xf 0xFFE0000000080 0xFFE0000000180 with landed := 64, status := 9 } id)), 0,
      (let __src := xf 4501400604115072 4501400604115328; { __src with status := 9, landed := 64 }), 3, by decide +kernel⟩
  · exact ⟨((sx { xf 0xFFE0000000080 0xFFE0000000180 with landed := 64, status := 9 } id)), 0,
      (let __src := xf 4501400604115072 4501400604115328; { __src with status := 9, landed := 64 }), 3, 0, by decide +kernel⟩
  · exact ⟨((sf { tk with fifo := [{ dest := .win 0 128, bytes := [1, 2] }] } id)), 0, 0,
      (let __src := tk; ({ __src with fifo := [{ dest := Dest.win 0 128, bytes := [1, 2] }] } : Task)),
      ({ dest := Dest.win 0 128, bytes := [1, 2] }), ([]), 128, by decide +kernel⟩
  · exact ⟨((sf { tk with fifo := [{ dest := .win 0 128, bytes := [1, 2] }], unacked := [(0, 1)] } id)), 0, 0,
      (let __src := tk; ({ __src with fifo := [{ dest := Dest.win 0 128, bytes := [1, 2] }], unacked := [(0, 1)] } : Task)),
      ({ dest := Dest.win 0 128, bytes := [1, 2] }), ([]), 128, by decide +kernel⟩

theorem witness_StoreAndTransferEvents_2 :
    (∃ (s : State) (k : Nat) (tid : Nat) (t : Machine.Task) (x : Store) (rest : List Store) (o : Nat),
      (mfind s.tasks tid = some t) ∧ (t.fifo = x :: rest) ∧ (x.rel = none) ∧ (x.dest = Dest.win k o) ∧ (t.unacked.contains (k,
      o / 128) = false) ∧ (k ≠ t.core)) ∧
    (∃ (s : State) (tid : Nat) (t : Machine.Task) (x : Store) (rest : List Store) (a : Nat), (mfind s.tasks tid = some t) ∧
      (t.fifo = x :: rest) ∧ (x.rel = none) ∧ (x.dest = Dest.mem a) ∧ (deadPlace s a = false) ∧
      (ubNew s (lineOf a) = false ∨ (s.tok (lineOf a) (t.core / 896)).mayWrite = true)) ∧
    (∃ (s : State) (i : Nat) (m : PortMsg) (t : Nat), (s.net.ports[i]? = some m) ∧ (m.retry = false) ∧
      ((s.core m.core).dead = false) ∧ (silentTo s m.core (m.src / 8) = false) ∧
      (portRefuses s m.core m.kind m.bytes.length m.src m.off = false) ∧ (m.tid = some t)) ∧
    (∃ (s : State) (i : Nat) (t : Nat) (o : Nat) (b : Nat), (s.net.acks[i]? = some (t, o, b)) ∧
      ((mfind s.tasks t).isSome = true)) ∧
    (∃ (s : State) (i : Nat) (m : PortMsg), (s.net.ports[i]? = some m) ∧ (m.retry = false) ∧ ((s.core m.core).dead = false) ∧
      (silentTo s m.core (m.src / 8) = true) ∧ (underRemap s m.core = true)) ∧
    (∃ (s : State) (i : Nat) (m : PortMsg), (s.net.ports[i]? = some m) ∧ (m.retry = false) ∧ ((s.core m.core).dead = true) ∧
      (m.tid = none)) ∧
    (∃ (s : State) (k : Nat), ((s.core k).traceCopied < (s.core k).traceIdx)) := by
  refine ⟨?_, ?_, ?_, ?_, ?_, ?_, ?_⟩
  · exact ⟨((sf { tk with fifo := [{ dest := .win 1 128, bytes := [1, 2] }] } id)), 1, 0,
      (let __src := tk; ({ __src with fifo := [{ dest := Dest.win 1 128, bytes := [1, 2] }] } : Task)),
      ({ dest := Dest.win 1 128, bytes := [1, 2] }), ([]), 128, by decide +kernel⟩
  · exact ⟨((sf { tk with fifo := [{ dest := .mem 0x20000, bytes := [1, 2] }] } id)), 0,
      (let __src := tk; ({ __src with fifo := [{ dest := Dest.mem 131072, bytes := [1, 2] }] } : Task)),
      ({ dest := Dest.mem 131072, bytes := [1, 2] }), ([]), 131072, by decide +kernel⟩
  · exact ⟨({ sf tk id with net := { ports := [pm (some 0)], acks := [(0, 0, 1)] } }), 0, (pm (some 0)), 0, by decide +kernel⟩
  · exact ⟨({ sf tk id with net := { ports := [pm (some 0)], acks := [(0, 0, 1)] } }), 0, 0, 0, 1, by decide +kernel⟩
  · exact ⟨({ sf tk id with net := { ports := [pm (some 0)], remaps := [{ isCore := true, unit := 0, copy := true, retire := false, phys := 5 }] } }),
      0, (pm (some 0)), by decide +kernel⟩
  · exact ⟨({ sf tk (fun c => { c with dead := true }) with net := { ports := [pm none] } }), 0, (pm none), by decide +kernel⟩
  · exact ⟨({ sf tk (fun c => { c with traceIdx := 3, traceCopied := 1 }) with net := { ports := [pm none] } }), 0,
      by decide +kernel⟩

end C31

namespace C32

def co (m : List Coh) : State := { st with turn := none, coh := { st.coh with msgs := m } }

def ou (p : Bool)
  (n : Nat) : Out := { kind := .gets, line := 1024, agent := 1, attempt := n, sentAt := 5, age := 0, persistent := p }

def so (o : Out) (c : Nat) : State := { co [] with coh := { (co []).coh with outs := [o] }, cycle := c }

def ubs (u : Unbacked) : State := { co [] with coh := { (co []).coh with ub := [(5, u)] }, ctxs := [(0, { ctx0 with bkpool := [(0x30000, 16)] })] }

theorem witness_StoreAndTransferEvents_3 : ∃ (s : State) (tid : Nat) (t : Machine.Task) (x : Store) (rest : List Store) (a : Nat), (mfind s.tasks tid = some t) ∧
    (t.fifo = x :: rest) ∧ (x.rel = none) ∧ (x.dest = Dest.mem a) ∧ (deadPlace s a = true) := by
  exact ⟨({ (mk { tk with fifo := [{ dest := .mem (2^49), bytes := [1, 2] }] }) with host := { lost := true } }), 0,
    (let __src := tk; ({ __src with fifo := [{ dest := Dest.mem (2 ^ 49), bytes := [1, 2] }] } : Task)),
    ({ dest := Dest.mem (2 ^ 49), bytes := [1, 2] }), ([]), (2 ^ 49), by decide +kernel⟩

theorem witness_CoherenceEvents_1 :
    (∃ (s : State) (l : Nat) (src : Nat) (t : Tok), (t ≠ { }) ∧ (homeAgent s l ≠ src) ∧ (mrising (s.line l).held = true)) ∧
    (∃ (s : State) (l : Nat) (agent : Nat), (toFrame s l = false) ∧ (mayEvict s agent l = true) ∧ (agent ≠ 24)) ∧
    (∃ (s : State) (link : Nat), (link ∉ s.fabric.failedLinks) ∧ (mget 0 s.fabric.replays link < 4)) ∧
    (∃ (s : State) (die : Nat), ((if die = 24 then s.host.lostAt else (s.die die).lostAt) = none)) ∧
    (∃ (s : State) (i : Nat) (l : Nat) (agent : Nat) (k : Req) (a : Nat), (s.coh.msgs[i]? = some (Coh.request k l agent a)) ∧
      (censusDue s = false) ∧ (homeNeeds s k l agent = none) ∧ (frameWaits s l = none)) ∧
    (∃ (s : State) (l : Nat) (agent : Nat), (toFrame s l = false) ∧ (mayEvict s agent l = false)) ∧
    (∃ (s : State) (i : Nat) (l : Nat) (agent : Nat) (dst : Nat) (k : Req),
      (s.coh.msgs[i]? = some (Coh.forward k l agent dst)) ∧ (dst ≠ 24) ∧ (isLost s dst = false)) ∧
    (∃ (s : State) (i : Nat) (l : Nat) (dst : Nat) (t : Tok) (n : BitVec 16) (u : Option Nat),
      (s.coh.msgs[i]? = some (Coh.tokens l dst t n u)) ∧ (n ≠ (s.line l).tser) ∧ (isLost s dst = false)) ∧
    (∃ (s : State) (i : Nat) (o : Out), (s.coh.outs[i]? = some o) ∧ (Out.met s o = false) ∧
      (o.persistent = true ∨ o.queued = true ∨ s.cycle < o.sentAt + nsCycles 1024)) ∧
    (∃ (s : State) (i : Nat) (o : Out), (s.coh.outs[i]? = some o) ∧ (Out.met s o = false) ∧ (o.persistent = false) ∧
      (o.queued = false) ∧ (o.sentAt + nsCycles 1024 ≤ s.cycle) ∧ (o.attempt < 4)) := by
  refine ⟨?_, ?_, ?_, ?_, ?_, ?_, ?_, ?_, ?_, ?_⟩
  · exact ⟨((co [])), 1024, 0, ({ plain := 3 }), by decide +kernel⟩
  · exact ⟨((co [])), 1024, 0, by decide +kernel⟩
  · exact ⟨((co [])), 0, by decide +kernel⟩
  · exact ⟨((co [])), 0, by decide +kernel⟩
  · exact ⟨((co [.request .gets 1024 1 1])), 0, 1024, 1, .gets, 1, by decide +kernel⟩
  · exact ⟨((so (ou false 3) 6)), 1024, 1, by decide +kernel⟩
  · exact ⟨((co [.forward .gets 1024 1 0])), 0, 1024, 1, 0, .gets, by decide +kernel⟩
  · exact ⟨((co [.tokens 1024 1 { plain := 3 } 5 none])), 0, 1024, 1, ({ plain := 3 }), 5, none, by decide +kernel⟩
  · exact ⟨((so (ou false 3) 6)), 0, (ou false 3), by decide +kernel⟩
  · exact ⟨((so (ou false 1) 100000)), 0, (ou false 1), by decide +kernel⟩

theorem witness_CoherenceEvents_2 :
    (∃ (s : State) (i : Nat) (l : Nat) (agent : Nat) (k : Req) (a : Nat), (s.coh.msgs[i]? = some (Coh.persist k l agent a)) ∧
      (censusDue s = false) ∧ (homeNeeds s k l agent = none) ∧ (frameWaits s l = none) ∧ (agent ≠ homeAgent s l)) ∧
    (∃ (s : State) (i : Nat) (l : Nat) (agent : Nat) (dst : Nat) (n : Nat), (s.coh.msgs[i]? = some (Coh.act n l agent dst)) ∧
      (isLost s dst = false) ∧ (dst ≠ agent) ∧ (s.coh.early.contains (dst, n) = false) ∧ (dst ≠ 24) ∧
      (withheld s l dst (tokAnswer (s.tok l dst) Req.getx true) = false) ∧ (dst ≠ homeAgent s l ∨ frameWaits s l = none)) ∧
    (∃ (s : State) (i : Nat) (l : Nat) (agent : Nat) (dst : Nat) (n : Nat), (s.coh.msgs[i]? = some (Coh.act n l agent dst)) ∧
      (isLost s dst = false) ∧ (dst ≠ agent) ∧ (s.coh.early.contains (dst, n) = true)) ∧
    (∃ (s : State) (i : Nat) (dst : Nat) (n : Nat), (s.coh.msgs[i]? = some (Coh.deact n dst))) ∧
    (∃ (s : State) (name : Nat) (key : Nat) (u : Unbacked), (s.ubPage name = some (key, u)) ∧
      (u.late = false ∨ u.bound.isSome = true ∨ u.pinned = [])) ∧
    (∃ (s : State) (name : Nat) (key : Nat) (u : Unbacked) (f : Nat × Nat), (s.ubPage name = some (key, u)) ∧
      (u.late = true) ∧ (u.bound = none) ∧ (u.pinned ≠ []) ∧ (frameFor s u = some f)) ∧
    (∃ (s : State) (link : Nat), (link ∉ s.fabric.failedLinks) ∧ (4 ≤ mget 0 s.fabric.replays link)) ∧
    (∃ (s : State) (die : Nat) (c : Nat), ((if die = 24 then s.host.lostAt else (s.die die).lostAt) = some c) ∧
      (c + nsCycles 2500 ≤ s.cycle)) := by
  refine ⟨?_, ?_, ?_, ?_, ?_, ?_, ?_, ?_⟩
  · exact ⟨((co [.persist .getx 1024 1 3])), 0, 1024, 1, .getx, 3, by decide +kernel⟩
  · exact ⟨((co [.act 7 1024 1 0])), 0, 1024, 1, 0, 7, by decide +kernel⟩
  · exact ⟨({ co [.act 7 1024 1 0] with coh := { (co [.act 7 1024 1 0]).coh with early := [(0, 7)] } }), 0, 1024, 1, 0, 7,
      by decide +kernel⟩
  · exact ⟨({ co [.deact 7 0] with coh := { (co [.deact 7 0]).coh with acts := [(0, 7, 1024, 1), (1, 7, 1024, 1)] } }), 0, 0, 7,
      by decide +kernel⟩
  · exact ⟨((ubs { home := 0, ctx := 0 })), 5, (5 / 2 ^ (16 - 16) * 2 ^ (16 - 16)), ({ home := 0, ctx := 0 }), by decide +kernel⟩
  · exact ⟨((ubs { home := 0, ctx := 0, late := true, pinned := [2] })), 5, (5 / 2 ^ (16 - 16) * 2 ^ (16 - 16)),
      ({ home := 0, ctx := 0, late := true, pinned := [2] }), ((196608, 16)), by decide +kernel⟩
  · exact ⟨({ co [] with fabric := { replays := [(9, 4)] } }), 9, by decide +kernel⟩
  · exact ⟨({ co [] with dies := [(1, { lostAt := some 3 })], cycle := 100000 }), 1, 3, by decide +kernel⟩

end C32

namespace C33

def ms (m : Msg)
  (f : Core → Core) : State := { st with turn := none, net := { msgs := [m] }, cores := [(0, f core0), (1, core0)], cycle := 1000 }

def m0 (c : Nat) : Msg := { dst := 0, src := 1, ctx := 0, tid := 0, words := [0x2000, 7], fut := 0x9000000000000000 + 5 * 2^18 + 7, code := c, since := 3 }

def fu : FMap Cluster := [(0, { cl0 with futs := [(5, { idx := 5, gen := 7, prod := .empty, ctx := 0, launch := none })] })]

def tb (v : FMap (BitVec 16))
  (p : List (Nat × TableWrite)) : State := { st with turn := none, cores := [(0, { core0 with table := v, pending := p })], cycle := 1000 }

theorem witness_MessageEvents_1 :
    (∃ (s : State) (i : Nat) (m : Msg) (c : Code), (s.net.msgs[i]? = some m) ∧ (m.code = 0) ∧ ((s.core m.dst).dead = false) ∧
      (unitSilent s m.dst = false) ∧ ((s.core m.dst).inQ.length < 16) ∧ (msgReturn s m = some c)) ∧
    (∃ (s : State) (i : Nat) (m : Msg), (s.net.msgs[i]? = some m) ∧ (m.code ≠ 1 ∨ s.cycle < m.since + 256)) ∧
    (∃ (s : State) (i : Nat) (m : Msg), (s.net.msgs[i]? = some m) ∧ (m.code ≤ 1)) ∧
    (∃ (s : State) (die : Nat) (off : ℤ) (delay : Nat),
      (exchangeDue s die = false ∨ delay < (off - (s.die die).offset).natAbs)) ∧
    (∃ (s : State) (i : Nat) (m : Msg), (s.net.msgs[i]? = some m) ∧ (m.code = 0) ∧ ((s.core m.dst).dead = true)) ∧
    (∃ (s : State) (i : Nat) (m : Msg), (s.net.msgs[i]? = some m) ∧ (m.code = 0) ∧ ((s.core m.dst).dead = false) ∧
      (unitSilent s m.dst = true ∨ 16 ≤ (s.core m.dst).inQ.length)) ∧
    (∃ (s : State) (k : Nat) (m : Msg) (slot : Nat), (mayHandle s k = true) ∧ (handlerSlot (s.core k) = some slot) ∧
      (nextMsg s k = some m) ∧ (m.peer = true ∨ recMode s (s.task m.tid).launch = 0)) ∧
    (∃ (s : State) (i : Nat) (m : Msg), (s.net.msgs[i]? = some m) ∧ (m.code ≠ 0)) ∧
    (∃ (s : State) (i : Nat) (m : Msg), (s.net.msgs[i]? = some m) ∧ (m.code = 1) ∧ (m.since + 256 ≤ s.cycle)) ∧
    (∃ (s : State) (i : Nat) (m : Msg), (s.net.msgs[i]? = some m) ∧ (2 ≤ m.code) ∧ (m.peer = false) ∧ (m.fut ≠ 0) ∧
      (isLocal s m.fut = true)) := by
  refine ⟨?_, ?_, ?_, ?_, ?_, ?_, ?_, ?_, ?_, ?_⟩
  · exact ⟨((ms (m0 0) id)), 0, ((m0 0)), MSG_HANDLER, by decide +kernel⟩
  · exact ⟨((ms (m0 0) id)), 0, ((m0 0)), by decide +kernel⟩
  · exact ⟨((ms (m0 0) id)), 0, ((m0 0)), by decide +kernel⟩
  · exact ⟨((ms (m0 0) id)), 3, ((-5)), 7, by decide +kernel⟩
  · exact ⟨((ms (m0 0) fun c => { c with dead := true })), 0, ((m0 0)), by decide +kernel⟩
  · exact ⟨((ms (m0 0) fun c => { c with stopped := true })), 0, ((m0 0)), by decide +kernel⟩
  · exact ⟨((ms (m0 0) fun c => { c with inQ := List.replicate 16 (m0 0) })), 0, ((m0 0)), 60, by decide +kernel⟩
  · exact ⟨((ms (m0 1) id)), 0, ((m0 1)), by decide +kernel⟩
  · exact ⟨((ms (m0 1) id)), 0, ((m0 1)), by decide +kernel⟩
  · exact ⟨({ ms (m0 0x32) id with clusters := fu }), 0, ((m0 0x32)), by decide +kernel⟩

theorem witness_MessageEvents_2 : ∃ (s : State) (k : Nat) (i : Nat), (s.net.acked[i]? = some k) := by
  exact ⟨({ ms (m0 1) id with net := { acked := [1] } }), 1, 0, by decide +kernel⟩

theorem witness_SlotTableEvents_1 :
    (∃ (s : State) (k : Nat) (i : Nat) (v : BitVec 16), (k < 7168) ∧ (i < 64) ∧ ((slotWrite s k i v).1 ≠ 0)) ∧
    (∃ (s : State) (k : Nat) (i : Nat), (k < 7168) ∧ (0 < i) ∧ (i ≤ 64) ∧ (tableOk (pendingTable (s.core k)).1 i = true)) ∧
    (∃ (s : State) (k : Nat) (ctx : Nat), (k < 7168) ∧ ((mfind s.ctxs ctx).isSome = true) ∧ (ctx ∉ (s.core k).frozen)) ∧
    (∃ (s : State) (k : Nat), (k < 7168) ∧ ((s.core k).dead = false)) ∧
    (∃ (s : State) (k : Nat), (k < 7168) ∧ (s.turn = none) ∧ ((s.core k).lastCycle < s.cycle) ∧ (tableDue s k = false) ∧
      (waittWaits s k = false) ∧ ((s.core k).trying = none)) ∧
    (∃ (s : State) (ctx : Nat), (mfind s.ctxs ctx = none)) ∧
    (∃ (k : Nat) (i : Nat), (7168 ≤ k ∨ 64 ≤ i)) ∧
    (∃ (s : State) (k : Nat), (7168 ≤ k ∨ (s.core k).dead = true)) ∧
    (∃ (s : State) (k : Nat),
      (s.turn.isSome = true ∨ s.cycle ≤ (s.core k).lastCycle ∨ tableDue s k = true ∨ waittWaits s k = true)) := by
  refine ⟨?_, ?_, ?_, ?_, ?_, ?_, ?_, ?_, ?_⟩
  · exact ⟨((tb [(0, 0xA000)] [])), 0, 8, 0xA041, by decide +kernel⟩
  · exact ⟨((tb [(0, 0xA000)] [])), 0, 8, by decide +kernel⟩
  · exact ⟨((tb [(0, 0xA000)] [])), 0, 0, by decide +kernel⟩
  · exact ⟨((tb [(0, 0xA000)] [])), 0, by decide +kernel⟩
  · exact ⟨((tb [(0, 0xA000)] [])), 0, by decide +kernel⟩
  · exact ⟨((tb [(0, 0xA000)] [])), 5, by decide +kernel⟩
  · exact ⟨0, 64, by decide +kernel⟩
  · exact ⟨((tb [(0, 0xA000)] [])), 7168, by decide +kernel⟩
  · exact ⟨{ tb [(0, 0xA000)] [] with turn := some { tid := 0 } }, 0, by decide +kernel⟩

end C33

namespace C34

def m0 (c : Nat) : Msg := { dst := 0, src := 1, ctx := 0, tid := 0, words := [0x2000, 7], fut := 0x9000000000000000 + 5 * 2^18 + 7, code := c, since := 3 }

def wctx : FMap Ctx := [(0, { ctx0 with hwin := 0x0010000000002000 })]

def tb (v : FMap (BitVec 16))
  (p : List (Nat × TableWrite)) : State := { st with turn := none, cores := [(0, { core0 with table := v, pending := p })], cycle := 1024 }

def ks (f : Core → Core) : State := { st with turn := none, cores := [(0, f core0)], cycle := 20000 }

def pr (p : Pair) : State := { ks id with tasks := [(0, { tk with pair := some p }), (1, { tk with core := 1, shadow := true, pair := some { leader := false, other := 0, ckpt := tk.r } })] }

def p0 : Pair := { leader := true, other := 1, ckpt := tk.r }

def dn (f : List Nat)
  (g : List Nat) : State := { ks (fun c => { c with stopped := true }) with clusters := [(0, { cl0 with failedCores := f })], dies := [(0, { failed := g })] }

def rm (c cp : Bool)
  (u : Nat) : Remap := { isCore := c, unit := u, copy := cp, retire := true, phys := 3, asker := some (0, 5), ctxs := [(0, 0)] }

def pm : PortMsg := { ctx := 0, core := 0, off := 128, bytes := [1, 2], kind := 0, src := 1, tid := none, retry := true }

def fq : FutMsg := { tid := 0, ctx := 0, cl := 1, h := 0x9000000000000000 + 5 * 2^18 + 7, op := .touch, retry := true }

def cm : CapMsg := { src := 8, job := { id := 4, ctx := 0, launch := none, w0 := 0, w1 := 0, w2 := 0, w3 := 0, sink := .ep 0, rm := 0, rng := 1, time := 0 }, cap := 5, retry := true }

def rt : State := { ks id with net := { ports := [pm], steals := [{ thief := 1, victim := 0, ctx := 0, retry := true }], futReqs := [fq], caps := [cm] } }

theorem witness_MessageEvents_3 : ∃ (s : State) (i : Nat) (m : Msg), (s.net.msgs[i]? = some m) ∧ (m.code = 0) ∧ ((s.core m.dst).dead = false) ∧
    (unitSilent s m.dst = false) ∧ ((s.core m.dst).inQ.length < 16) ∧ (msgReturn s m = none) := by
  exact ⟨({ st with turn := none, net := { msgs := [m0 0] }, cores := [(0, core0), (1, core0)], ctxs := wctx }), 0, ((m0 0)),
    by decide +kernel⟩

theorem witness_SlotTableEvents_2 :
    (∃ (s : State) (k : Nat) (i : Nat) (v : BitVec 16), (k < 7168) ∧ (i < 64) ∧ ((slotWrite s k i v).1 = 0)) ∧
    (∃ (s : State) (k : Nat), (tableDue s k = true)) := by
  refine ⟨?_, ?_⟩
  · exact ⟨((tb [(0, 0xA000)] [])), 0, 8, 0xA001, by decide +kernel⟩
  · exact ⟨((tb [(0, 0xA000)] [(0, .entry 8 0xA001)])), 0, by decide +kernel⟩

theorem witness_ErrorEvents_1 :
    (∃ (s : State) (k : Nat), (k < 7168) ∧ ((s.core k).stopped = false) ∧ ((s.core k).dead = false) ∧
      ((s.core k).missing = false) ∧ ((s.core k).failing = false) ∧ ((s.core k).beatAt + 4096 ≤ s.cycle)) ∧
    (∃ (s : State) (k : Nat), (k < 7168) ∧ ((s.core k).dead = false) ∧ ((s.core k).missing = false) ∧
      ((s.core k).beatAt + (3 * 4096 + 512) < s.cycle)) ∧
    (∃ (s : State) (k : Nat), ((s.cluster k).missing = false) ∧ ((s.cluster k).failing = false) ∧
      ((s.cluster k).beatAt + 4096 ≤ s.cycle)) ∧
    (∃ (s : State) (k : Nat), ((s.cluster k).beatAt + (3 * 4096 + 512) < s.cycle)) ∧
    (∃ (s : State) (tid : Nat), ((s.task tid).pair = none)) ∧
    (∃ (s : State) (cp : Nat), (cp < 4) ∧ (cp ∉ s.hub.outOfService) ∧ (s.mgmt.powered = true)) ∧
    (∃ (s : State), (s.hub.restart = false)) ∧
    (∃ (s : State) (k : Nat),
      ((s.cluster k).missing = true ∨ (s.cluster k).failing = true ∨ s.cycle < (s.cluster k).beatAt + 4096)) ∧
    (∃ (s : State) (cp : Nat), (4 ≤ cp ∨ cp ∈ s.hub.outOfService ∨ s.mgmt.powered = false)) ∧
    (∃ (s : State) (k : Nat), (k < 7168) ∧
      ((s.core k).dead = true ∨ (s.core k).missing = true ∨ s.cycle ≤ (s.core k).beatAt + (3 * 4096 + 512))) := by
  refine ⟨?_, ?_, ?_, ?_, ?_, ?_, ?_, ?_, ?_, ?_⟩
  · exact ⟨((ks id)), 0, by decide +kernel⟩
  · exact ⟨((ks id)), 0, by decide +kernel⟩
  · exact ⟨((ks id)), 0, by decide +kernel⟩
  · exact ⟨((ks id)), 0, by decide +kernel⟩
  · exact ⟨((ks id)), 0, by decide +kernel⟩
  · exact ⟨((ks id)), 0, by decide +kernel⟩
  · exact ⟨((ks id)), by decide +kernel⟩
  · exact ⟨((ks id)), 7168, by decide +kernel⟩
  · exact ⟨((ks id)), 4, by decide +kernel⟩
  · exact ⟨({ ks id with cycle := 4096, hub := { restart := true } }), 0, by decide +kernel⟩

theorem witness_ErrorEvents_2 :
    (∃ (s : State) (b : Nat), (s.hub.restart = true) ∧ (resetInProgress s = false) ∧ (s.mgmt.powered = true) ∧
      ((if s.mgmt.staged = true then bootChoice s.mgmt else s.mgmt.booted) = some b)) ∧
    (∃ (s : State) (tid : Nat) (p : Pair), (liveTask s tid = true) ∧ ((s.task tid).pair = some p) ∧
      (p.leader = false ∨ p.closed = false ∨ p.fwd ≠ [])) ∧
    (∃ (s : State) (tid : Nat) (p : Pair), (liveTask s tid = true) ∧ ((s.task tid).pair = some p) ∧
      (256 ≤ p.retired ∨ 64 ≤ p.held.length)) ∧
    (∃ (s : State) (tid : Nat) (p : Pair), (liveTask s tid = true) ∧ ((s.task tid).pair = some p) ∧ (p.leader = true) ∧
      (p.closed = true) ∧ (p.fwd = [])) := by
  refine ⟨?_, ?_, ?_, ?_⟩
  · exact ⟨({ ks id with cycle := 4096, hub := { restart := true } }), 0, by decide +kernel⟩
  · exact ⟨((pr p0)), 0, p0, by decide +kernel⟩
  · exact ⟨((pr { p0 with retired := 256 })), 0, (let __src := p0; { __src with retired := 256 }), by decide +kernel⟩
  · exact ⟨((pr { p0 with closed := true, fails := 2 })), 0, (let __src := p0; { __src with closed := true, fails := 2 }),
      by decide +kernel⟩

theorem witness_RetirementEvents_1 :
    (∃ (s : State) (k : Nat), (7168 ≤ k ∨ (s.core k).dead = true ∨ (s.core k).stopped = false ∧
      (s.core k).missing = false ∨ (s.die (k / 896)).resetting = true ∨ isLost s (k / 896) = true)) ∧
    (∃ (s : State) (cl : Nat), (896 ≤ cl ∨ clusterMoving s cl = true)) ∧
    (∃ (s : State) (d : Nat), (8 ≤ d ∨ (s.die d).down = true ∨ isLost s d = true)) ∧
    (∃ (s : State) (d : Nat), (8 ≤ d ∨ (s.die d).down = true)) ∧
    (∃ (s : State) (d : Nat), ((s.die d).down = false ∨ (s.die d).lostAt ≠ none)) ∧
    (∃ (s : State) (d : Nat), (d < 8) ∧ ((s.die d).down = false) ∧ (isLost s d = false) ∧ ((s.die d).resetting = false)) ∧
    (∃ (s : State) (k : Nat) (p : Nat), (k < 7168) ∧ ((s.core k).dead = false) ∧
      ((s.core k).stopped = true ∨ (s.core k).missing = true) ∧ ((s.die (k / 896)).resetting = false) ∧
      (isLost s (k / 896) = false) ∧
      (spareOf ((loseCore s k DEAD true).modMgmt fun m => { m with retiredCores := m.retiredCores + 1 }) true k = none) ∧
      (spareOf ((loseCore s k DEAD true).modMgmt fun m => { m with retiredCores := m.retiredCores + 1 }) false (k / 8) = some p)) ∧
    (∃ (s : State) (k : Nat), (k < 7168) ∧ ((s.core k).dead = false) ∧
      ((s.core k).stopped = true ∨ (s.core k).missing = true) ∧ ((s.die (k / 896)).resetting = false) ∧
      (isLost s (k / 896) = false) ∧
      (spareOf ((loseCore s k DEAD true).modMgmt fun m => { m with retiredCores := m.retiredCores + 1 }) true k = none) ∧
      (spareOf ((loseCore s k DEAD true).modMgmt fun m => { m with retiredCores := m.retiredCores + 1 }) false (k / 8) = none)) ∧
    (∃ (s : State) (cl : Nat) (lost : List Nat), (cl < 896) ∧ (clusterMoving s cl = false) ∧
      (spareOf (List.foldl (loseItem cl) s lost) false cl = none)) ∧
    (∃ (s : State) (i : Nat) (r : Remap), (s.net.remaps[i]? = some r) ∧ (quiesced s r = true) ∧ (remapWaits s i r = false) ∧
      (r.isCore = true)) := by
  refine ⟨?_, ?_, ?_, ?_, ?_, ?_, ?_, ?_, ?_, ?_⟩
  · exact ⟨rt, 0, by decide +kernel⟩
  · exact ⟨((ks id)), 896, by decide +kernel⟩
  · exact ⟨((ks id)), 8, by decide +kernel⟩
  · exact ⟨((ks id)), 8, by decide +kernel⟩
  · exact ⟨rt, 0, by decide +kernel⟩
  · exact ⟨rt, 0, by decide +kernel⟩
  · exact ⟨((dn (List.range 9) [])), 0, 112, by decide +kernel⟩
  · exact ⟨((dn (List.range 9) (List.range 116))), 0, by decide +kernel⟩
  · exact ⟨((dn (List.range 9) (List.range 116))), 0, ([5]), by decide +kernel⟩
  · exact ⟨({ dn [] [] with net := { remaps := [rm true true 0] } }), 0, (rm true true 0), by decide +kernel⟩

theorem witness_RetirementEvents_2 :
    (∃ (s : State) (i : Nat) (r : Remap), (s.net.remaps[i]? = some r) ∧ (quiesced s r = true) ∧ (remapWaits s i r = false) ∧
      (r.isCore = false)) ∧
    (∃ (s : State) (i : Nat) (r : Remap), (s.net.remaps[i]? = some r) ∧ (quiesced s r = false ∨ remapWaits s i r = true)) ∧
    (∃ (s : State) (i : Nat) (m : PortMsg), (s.net.ports[i]? = some m) ∧ (m.retry = true) ∧
      (silentTo s m.core (m.src / 8) = false)) ∧
    (∃ (s : State) (m : Steal) (j : Nat), (s.net.steals[j]? = some m) ∧ (m.retry = true) ∧ (underRemap s m.victim = false)) ∧
    (∃ (s : State) (m : FutMsg) (j : Nat), (s.net.futReqs[j]? = some m) ∧ (m.retry = true) ∧
      (clusterMoving s (hCl m.h) = false)) ∧
    (∃ (s : State) (m : CapMsg) (j : Nat), (s.net.caps[j]? = some m) ∧ (m.retry = true) ∧
      (clusterMoving s (capCl m.cap) = false)) ∧
    (∃ (s : State) (i : Nat) (m : PortMsg), (s.net.ports[i]? = some m) ∧ (m.retry = true) ∧
      (silentTo s m.core (m.src / 8) = true)) ∧
    (∃ (s : State) (d : Nat), ((s.die d).down = true) ∧ ((s.die d).lostAt = none)) := by
  refine ⟨?_, ?_, ?_, ?_, ?_, ?_, ?_, ?_⟩
  · exact ⟨({ dn [] [] with net := { remaps := [rm false false 0] } }), 0, (rm false false 0), by decide +kernel⟩
  · exact ⟨({ mk { tk with fifo := [{ dest := .mem 0x20000, bytes := [1] }] } with net := { remaps := [rm true true 0] } }), 0,
      (rm true true 0), by decide +kernel⟩
  · exact ⟨rt, 0, pm, by decide +kernel⟩
  · exact ⟨rt, ({ thief := 1, victim := 0, ctx := 0, retry := true }), 0, by decide +kernel⟩
  · exact ⟨rt, fq, 0, by decide +kernel⟩
  · exact ⟨rt, cm, 0, by decide +kernel⟩
  · exact ⟨({ rt with net := { rt.net with remaps := [rm true true 0] } }), 0, pm, by decide +kernel⟩
  · exact ⟨({ rt with dies := [(0, { down := true })] }), 0, by decide +kernel⟩

end C34

namespace C35

def q0 : Queue := { ctx := 0, prio := 3, vec := none, segs := [(0, 0x30000, 12)], next := 9, kick := 5, kickAt := 7, rp := 2, crp := 2, live := [3] }

def qs (x : Queue) : State := { st with turn := none, queues := [(0, x)], cycle := 500 }

def qm : Queue := { q0 with mapped := true }

def slot (w0 : Word)
  (w1 : Word) : State := { qs qm with mem := (((([w0, w1].map fun w => toBytes 8 w.toNat).flatten.zipIdx.map fun e => (0x30100 + e.2, e.1)).filter fun e => e.2 ≠ 0)) }

def pk (t : Nat) (ws : List Word) (f : Queue → Queue) : State := qs (f { qm with pkt := some (t, ws) })

def px (t : Nat) (ws : List Word) (f : Queue → Queue) : Queue := f { qm with pkt := some (t, ws) }

def lau (h : List Word) : Launch := { ctx := 0, queue := 0, hdr := h }

def gd : List Word := [0x2000, 1, 2, 3, 4, 5, 6, 0x1000000007, 0x0004000000000000, 0x8000000000000000, 0, 7, 0]

def lk (h : List Word) (f : Queue → Queue) : State := { pk 1 [] f with launches := [(3, lau h)] }

def h5 : Word := 0x9000000000000000 + 5 * 2^18 + 7

def wf (f : FState) (h : Word) (w2 : Word)
  (g : Queue → Queue) : State := { pk 2 [h, w2] g with clusters := [(0, { cl0 with futs := [(5, { idx := 5, gen := 7, prod := .empty, ctx := 0, launch := none, st := f, code := 0x33 })] })] }

def sg (ws : List Word) : State := { pk 3 ws id with clusters := [(0, { cl0 with futs := [(5, { idx := 5, gen := 7, prod := .empty, ctx := 0, launch := none })] })], hub := { tlb := [leaf] } }

def cps (c : Copy) : State := { pk 0 [] id with hub := { copies := [c], tlb := [leaf] } }

theorem witness_QueueEvents_1 :
    (∃ (s : State) (q : Nat) (v : BitVec 64) (x : Queue), (mfind s.queues q = some x) ∧ (v.toNat < 2 ^ 32)) ∧
    (∃ (s : State) (q : Nat) (v : BitVec 64) (x : Queue) (f : Nat) (a : Nat) (lg : Nat), (mfind s.queues q = some x) ∧
      (0 < v.toNat) ∧ (v.toNat ≤ 16) ∧ (x.segs.getLast? = some (f, a, lg)) ∧ (v.toNat ≤ f + segSlots lg - 1 - x.next)) ∧
    (∃ (s : State) (q : Nat) (tag : BitVec 32) (x : Queue), (mfind s.queues q = some x) ∧ (∀ e ∈ s.launches,
      e.2.queue = q → e.2.st ≠ LState.retired → BitVec.toNat (e.2.w 12) % 2 ^ 32 ≠ tag.toNat)) ∧
    (∃ (s : State) (q : Nat) (x : Queue), (mfind s.queues q = some x) ∧ (nextMapped s = some q) ∧ (s.hub.restart = false) ∧
      ((mappedQueues s).length < hubThreads s)) ∧
    (∃ (s : State) (q : Nat) (x : Queue), (mfind s.queues q = some x) ∧
      (x.mapped = false ∨ x.kick ≤ x.rp ∨ x.pkt ≠ none ∨ x.st ≠ QState.run ∨ s.hub.restart = true ∨ s.host.lost = true)) ∧
    (∃ (s : State) (q : Nat) (v : BitVec 64) (x : Queue), (mfind s.queues q = some x) ∧ (2 ^ 32 ≤ v.toNat)) ∧
    (∃ (s : State) (q : Nat) (v : BitVec 64) (x : Queue), (mfind s.queues q = some x) ∧ (v.toNat = 0 ∨ 16 < v.toNat)) ∧
    (∃ (s : State) (q : Nat) (v : BitVec 64) (x : Queue), (mfind s.queues q = some x) ∧ (0 < v.toNat) ∧ (v.toNat ≤ 16) ∧
      (∀ (e : Nat × Nat × Nat), x.segs.getLast? = some e → e.1 + segSlots e.2.2 - 1 - x.next < v.toNat) ∧
      ((s.ctx x.ctx).segpool = [])) ∧
    (∃ (s : State) (q : Nat) (x : Queue), (mfind s.queues q = some x) ∧ (nextMapped s = some q) ∧ (s.hub.restart = false) ∧
      (hubThreads s ≤ (mappedQueues s).length) ∧ (unmapChoice s = none)) ∧
    (∃ (s : State) (q : Nat) (x : Queue), (mfind s.queues q = some x) ∧ (nextMapped s ≠ some q ∨ s.hub.restart = true)) := by
  refine ⟨?_, ?_, ?_, ?_, ?_, ?_, ?_, ?_, ?_, ?_⟩
  · exact ⟨((qs q0)), 0, 8, q0, by decide +kernel⟩
  · exact ⟨((qs q0)), 0, 8, q0, 0, 196608, 12, by decide +kernel⟩
  · exact ⟨((qs q0)), 0, 7, q0, by decide +kernel⟩
  · exact ⟨((qs q0)), 0, q0, by decide +kernel⟩
  · exact ⟨((qs q0)), 0, q0, by decide +kernel⟩
  · exact ⟨((qs q0)), 0, 0x100000000, q0, by decide +kernel⟩
  · exact ⟨((qs q0)), 0, 0x100000000, q0, by decide +kernel⟩
  · exact ⟨((qs { q0 with next := 31 })), 0, 1, ({ q0 with next := 31 }), by decide +kernel⟩
  · exact ⟨({ qs q0 with hub := { outOfService := [0, 1, 2, 3] }, launches := [(3, { ctx := 0, queue := 0, hdr := [0,0,0,0,0,0,0,0,0,0,0,7] })] }),
      0, q0, by decide +kernel⟩
  · exact ⟨((slot 0x0000000300000000 0)), 0, qm, by decide +kernel⟩

theorem witness_QueueEvents_2 :
    (∃ (s : State) (q : Nat) (x : Queue) (a : Nat), (mfind s.queues q = some x) ∧ (x.mapped = true) ∧ (x.rp < x.kick) ∧
      (x.pkt = none) ∧ (x.st = QState.run) ∧ (s.hub.restart = false) ∧ (s.host.lost = false) ∧ (slotAddr x x.rp = some a) ∧
      (BitVec.toNat ((slotWords s a).getD 0 0) / 2 ^ 32 ≠ x.rp % 2 ^ 32)) ∧
    (∃ (s : State) (q : Nat) (x : Queue) (a : Nat), (mfind s.queues q = some x) ∧ (x.mapped = true) ∧ (x.rp < x.kick) ∧
      (x.pkt = none) ∧ (x.st = QState.run) ∧ (s.hub.restart = false) ∧ (s.host.lost = false) ∧ (slotAddr x x.rp = some a) ∧
      (BitVec.toNat ((slotWords s a).getD 0 0) / 2 ^ 32 = x.rp % 2 ^ 32) ∧ (poisonIn s.poison a 128 = none) ∧
      (packetBad x (slotWords s a) = false)) ∧
    (∃ (s : State) (q : Nat) (x : Queue) (a : Nat), (mfind s.queues q = some x) ∧ (x.mapped = true) ∧ (x.rp < x.kick) ∧
      (x.pkt = none) ∧ (x.st = QState.run) ∧ (s.hub.restart = false) ∧ (s.host.lost = false) ∧ (slotAddr x x.rp = some a) ∧
      (BitVec.toNat ((slotWords s a).getD 0 0) / 2 ^ 32 = x.rp % 2 ^ 32) ∧
      ((poisonIn s.poison a 128).isSome = true ∨ packetBad x (slotWords s a) = true)) := by
  refine ⟨?_, ?_, ?_⟩
  · exact ⟨((slot 0x0000000300000000 0)), 0, qm, ((fun x =>   match x with   | (f, a, snd) => a + 128 * (qm.rp - f))  (0, 196608,
      12)), by decide +kernel⟩
  · exact ⟨((slot 0x0000000200000000 0)), 0, qm, ((fun x =>   match x with   | (f, a, snd) => a + 128 * (qm.rp - f))  (0, 196608,
      12)), by decide +kernel⟩
  · exact ⟨((slot 0x0000000208000000 0x2000)), 0, qm, ((fun x =>   match x with   | (f, a, snd) => a + 128 * (qm.rp - f))  (0,
      196608, 12)), by decide +kernel⟩

theorem witness_PacketEvents_1 :
    (∃ (s : State) (q : Nat) (x : Queue) (ws : List Word), (packetOf s q 0 = some (x, ws))) ∧
    (∃ (s : State) (q : Nat) (l : Nat) (x : Queue) (ws : List Word) (y : Launch), (packetOf s q 1 = some (x, ws)) ∧
      (placingOf s q = some (l, y)) ∧ (x.st ≠ QState.placing) ∧ (launchReason s y = 0)) ∧
    (∃ (s : State) (q : Nat) (l : Nat) (x : Queue) (ws : List Word) (y : Launch) (a : Unit) (s1 : State),
      (packetOf s q 1 = some (x, ws)) ∧ (placingOf s q = some (l, y)) ∧ (x.st ≠ QState.placing) ∧ (launchReason s y ≠ 0) ∧
      (putRecord s y { status := 3, code := BitVec.ofNat 8 (launchReason s y) } = Eng.ok a s1)) ∧
    (∃ (s : State) (q : Nat) (x : Queue) (ws : List Word), (packetOf s q 2 = some (x, ws)) ∧ (x.st ≠ QState.waiting)) ∧
    (∃ (s : State) (q : Nat) (x : Queue) (ws : List Word) (v : View) (s1 : State), (packetOf s q 2 = some (x, ws)) ∧
      (isHandle ((fun n => ws.getD (n - 1) 0) 1) = true) ∧ (waitView s q x ((fun n => ws.getD (n - 1) 0) 1) = (v, s1)) ∧
      (v.out = 4)) ∧
    (∃ (s : State) (q : Nat) (x : Queue) (ws : List Word), (packetOf s q 2 = some (x, ws)) ∧ (x.st = QState.waiting)) ∧
    (∃ (s : State) (q : Nat) (x : Queue) (ws : List Word) (v : View) (s1 : State), (packetOf s q 2 = some (x, ws)) ∧
      (isHandle ((fun n => ws.getD (n - 1) 0) 1) = true) ∧ (waitView s q x ((fun n => ws.getD (n - 1) 0) 1) = (v, s1)) ∧
      (v.out = 0)) ∧
    (∃ (s : State) (q : Nat) (x : Queue) (ws : List Word) (v : View) (s1 : State), (packetOf s q 2 = some (x, ws)) ∧
      (isHandle ((fun n => ws.getD (n - 1) 0) 1) = true) ∧ (waitView s q x ((fun n => ws.getD (n - 1) 0) 1) = (v, s1)) ∧
      (v.out = 1 ∨ v.out = 2 ∨ v.out = 3)) ∧
    (∃ (s : State) (q : Nat) (x : Queue) (ws : List Word), (packetOf s q 2 = some (x, ws)) ∧
      (isHandle ((fun n => ws.getD (n - 1) 0) 1) = false)) ∧
    (∃ (s : State) (q : Nat) (x : Queue) (ws : List Word) (v : View) (s1 : State), (packetOf s q 3 = some (x, ws)) ∧
      ((fun n => ws.getD (n - 1) 0) 3 = 0) ∧
      (signalResolve s q x ((fun n => ws.getD (n - 1) 0) 1) ((fun n => ws.getD (n - 1) 0) 2) = some (v, s1))) := by
  refine ⟨?_, ?_, ?_, ?_, ?_, ?_, ?_, ?_, ?_, ?_⟩
  · exact ⟨((pk 0 [] id)), 0, ((px 0 [] id)), ([]), by decide +kernel⟩
  · exact ⟨((lk gd id)), 0, 3, ((px 1 [] id)), ([]), (lau gd), by decide +kernel⟩
  · exact ⟨((lk (0x2001 :: gd.tail) id)), 0, 3, ((px 1 [] id)), ([]), (lau (8193 :: gd.tail)), (()), (lk (8193 :: gd.tail) id),
      and4 (by decide +kernel) (eng_ok (by decide +kernel))⟩
  · exact ⟨((wf .pending 7 1 id)), 0, ((px 2 [7, 1] id)), ([7, 1]), by decide +kernel⟩
  · exact ⟨((wf .pending h5 0 id)), 0, ((px 2 [h5, 0] id)), ([h5, 0]),
      ({ (hubMsg (wf FState.pending h5 0 id) 0 (px 2 [h5, 0] id) ((fun n => [h5, 0].getD (n - 1) 0) 1) FOp.touchp true) with view := viewOf { idx := 5, gen := 7, prod := Prod.empty, ctx := 0, launch := none, code := 51 } }.view),
      ((wf FState.pending h5 0 id).modCluster (hCl ((fun n => [h5,
      0].getD (n - 1) 0) 1)) fun c => unspill c { idx := 5, gen := 7, prod := Prod.empty, ctx := 0, launch := none, code := 51 }),
      by decide +kernel, by decide +kernel, rfl, by decide +kernel⟩
  · exact ⟨((wf .resolved h5 0 fun q => { q with st := .waiting })), 0, ((px 2 [h5, 0] fun q => { q with st := .waiting })), ([h5,
      0]), by decide +kernel⟩
  · exact ⟨((wf .resolved h5 0 fun q => { q with st := .waiting })), 0, ((px 2 [h5, 0] fun q => { q with st := .waiting })), ([h5,
      0]), _, ((wf FState.resolved h5 0 fun q => { q with st := QState.waiting }).modCluster (hCl ((fun n => [h5,
      0].getD (n - 1) 0) 1)) fun c => unspill c { idx := 5, gen := 7, prod := Prod.empty, ctx := 0, launch := none, st := FState.resolved, code := 51 }),
      by decide +kernel, by decide +kernel, rfl, by decide +kernel⟩
  · exact ⟨((wf .poisoned h5 1 id)), 0, ((px 2 [h5, 1] id)), ([h5, 1]),
      ({ (hubMsg (wf FState.poisoned h5 1 id) 0 (px 2 [h5, 1] id) ((fun n => [h5, 1].getD (n - 1) 0) 1) FOp.touchp true) with view := viewOf { idx := 5, gen := 7, prod := Prod.empty, ctx := 0, launch := none, st := FState.poisoned, code := 51 } }.view),
      ((wf FState.poisoned h5 1 id).modCluster (hCl ((fun n => [h5,
      1].getD (n - 1) 0) 1)) fun c => unspill c { idx := 5, gen := 7, prod := Prod.empty, ctx := 0, launch := none, st := FState.poisoned, code := 51 }),
      by decide +kernel, by decide +kernel, rfl, by decide +kernel⟩
  · exact ⟨((wf .pending 7 1 id)), 0, ((px 2 [7, 1] id)), ([7, 1]), by decide +kernel⟩
  · exact ⟨((sg [h5, 9, 0, 0])), 0, ((px 3 [h5, 9, 0, 0] id)), ([h5, 9, 0, 0]), ({ out := 0 }), (settle (sg [h5, 9, 0,
      0]) (hCl ((fun n => [h5, 9, 0,
      0].getD (n - 1) 0) 1)) { idx := 5, gen := 7, prod := Prod.empty, ctx := 0, launch := none } FState.resolved ((fun n => [h5,
      9, 0, 0].getD (n - 1) 0) 2)), by decide +kernel⟩

theorem witness_PacketEvents_2 :
    (∃ (s : State) (q : Nat) (x : Queue) (ws : List Word), (packetOf s q 3 = some (x, ws)) ∧
      ((fun n => ws.getD (n - 1) 0) 1 ≠ 0) ∧ (isHandle ((fun n => ws.getD (n - 1) 0) 1) = false)) ∧
    (∃ (s : State) (q : Nat) (x : Queue) (ws : List Word), (packetOf s q 3 = some (x, ws)) ∧
      ((fun n => ws.getD (n - 1) 0) 3 = 0) ∧
      (signalResolve s q x ((fun n => ws.getD (n - 1) 0) 1) ((fun n => ws.getD (n - 1) 0) 2) = none)) ∧
    (∃ (s : State) (q : Nat) (x : Queue) (ws : List Word), (packetOf s q 4 = some (x, ws))) ∧
    (∃ (s : State) (q : Nat) (x : Queue) (ws : List Word) (f : Nat) (a : Nat) (lg : Nat) (rest : List (Nat × Nat × Nat)),
      (packetOf s q 5 = some (x, ws)) ∧ (x.segs = (f, a, lg) :: rest)) ∧
    (∃ (s : State) (q : Nat) (x : Queue) (ws : List Word), (packetOf s q 6 = some (x, ws))) ∧
    (∃ (s : State) (q : Nat) (x : Queue), (mfind s.queues q = some x) ∧ (x.st = QState.timed) ∧
      (BitVec.ult s.hubTime x.timed = true)) ∧
    (∃ (s : State) (q : Nat) (x : Queue), (mfind s.queues q = some x) ∧ (x.st = QState.timed) ∧
      (BitVec.ult s.hubTime x.timed = false)) ∧
    (∃ (s : State) (q : Nat) (x : Queue) (ws : List Word), (packetOf s q 7 = some (x, ws)) ∧
      (((BitVec.getLsbD ((fun n => ws.getD (n - 1) 0) 1) 0 && s.hub.copies.any fun c => c.q == q) || BitVec.getLsbD ((fun n => ws.getD (n - 1) 0) 1) 1 && !x.live.isEmpty) = false) ∧
      (BitVec.getLsbD ((fun n => ws.getD (n - 1) 0) 1) 0 = false ∨ x.copyFault = false)) ∧
    (∃ (s : State) (q : Nat) (x : Queue) (ws : List Word), (packetOf s q 7 = some (x, ws)) ∧
      (((BitVec.getLsbD ((fun n => ws.getD (n - 1) 0) 1) 0 && s.hub.copies.any fun c => c.q == q) || BitVec.getLsbD ((fun n => ws.getD (n - 1) 0) 1) 1 && !x.live.isEmpty) = false) ∧
      (BitVec.getLsbD ((fun n => ws.getD (n - 1) 0) 1) 0 = true) ∧ (x.copyFault = true)) ∧
    (∃ (s : State) (q : Nat) (x : Queue) (ws : List Word), (packetOf s q 7 = some (x, ws)) ∧
      (((BitVec.getLsbD ((fun n => ws.getD (n - 1) 0) 1) 0 && s.hub.copies.any fun c => c.q == q) || BitVec.getLsbD ((fun n => ws.getD (n - 1) 0) 1) 1 && !x.live.isEmpty) = true)) := by
  refine ⟨?_, ?_, ?_, ?_, ?_, ?_, ?_, ?_, ?_, ?_⟩
  · exact ⟨((sg [7, 9, 0, 0x8005])), 0, ((px 3 [7, 9, 0, 0x8005] id)), ([7, 9, 0, 0x8005]), by decide +kernel⟩
  · exact ⟨((sg [7, 9, 0, 0x8005])), 0, ((px 3 [7, 9, 0, 0x8005] id)), ([7, 9, 0, 0x8005]), by decide +kernel⟩
  · exact ⟨((pk 4 [0x10000, 0x10040, 64] id)), 0, ((px 4 [0x10000, 0x10040, 64] id)), ([0x10000, 0x10040, 64]), by decide +kernel⟩
  · exact ⟨((pk 5 [0x40000, 12] id)), 0, ((px 5 [0x40000, 12] id)), ([0x40000, 12]), 0, 196608, 12, ([]), by decide +kernel⟩
  · exact ⟨((pk 6 [0x40000] id)), 0, ((px 6 [0x40000] id)), ([0x40000]), by decide +kernel⟩
  · exact ⟨((pk 6 [0x40000] fun q => { q with st := .timed, timed := 0x40000 })), 0,
      ((px 6 [0x40000] fun q => { q with st := .timed, timed := 0x40000 })), by decide +kernel⟩
  · exact ⟨((pk 6 [0x40000] fun q => { q with st := .timed, timed := 0 })), 0,
      ((px 6 [0x40000] fun q => { q with st := .timed, timed := 0 })), by decide +kernel⟩
  · exact ⟨((pk 7 [1] id)), 0, ((px 7 [1] id)), ([1]), by decide +kernel⟩
  · exact ⟨((pk 7 [1] fun q => { q with copyFault := true })), 0, ((px 7 [1] fun q => { q with copyFault := true })), ([1]),
      by decide +kernel⟩
  · exact ⟨((pk 7 [3] id)), 0, ((px 7 [3] id)), ([3]), by decide +kernel⟩

theorem witness_PacketEvents_3 :
    (∃ (s : State) (i : Nat) (c : Copy), (s.hub.copies[i]? = some c) ∧ (ptrBad c.dst = true ∨ ptrBad c.src = true)) ∧
    (∃ (s : State) (i : Nat) (c : Copy) (c' : Copy) (s1 : State), (s.hub.copies[i]? = some c) ∧ (ptrBad c.dst = false) ∧
      (ptrBad c.src = false) ∧ (copyRun s c.ctx (c.len / 64 + 2) c = (c', s1)) ∧ (c'.fault = false)) := by
  refine ⟨?_, ?_⟩
  · exact ⟨((cps { q := 0, ctx := 0, dst := 0x10000, src := 0x0010000000010040, len := 64 })), 0,
      ({ q := 0, ctx := 0, dst := 65536, src := 4503599627436096, len := 64 }), by decide +kernel⟩
  · exact ⟨((cps { q := 0, ctx := 0, dst := 0x10000, src := 0x10040, len := 64 })), 0,
      ({ q := 0, ctx := 0, dst := 65536, src := 65600, len := 64 }),
      ({ q := 0, ctx := 0, dst := 65536, src := 65600, len := 64 }), _, and3 (by decide +kernel) ⟨rfl, by decide +kernel⟩⟩

end C35

namespace C36

def qp : Queue := { ctx := 0, prio := 3, vec := none, segs := [(0, 0x30000, 12)], next := 9, kick := 5, kickAt := 7, rp := 2, crp := 2, live := [3], mapped := true, st := .placing, pkt := some (1, []) }

def gd : List Word := [0x2000, 1, 2, 3, 4, 5, 6, 0x1000000007, 0x0004000000000000, 0, 0, 7, 0]

def lau (a : Nat) : Launch := { ctx := 0, queue := 0, hdr := gd, arrival := a }

def pl (ls : FMap Launch)
  (f : Core → Core) : State := { st with turn := none, queues := [(0, qp)], launches := ls, cores := [(0, f core0)], cycle := 500 }

theorem witness_PacketEvents_4 :
    (∃ (s : State) (q : Nat) (l : Nat) (x : Queue) (ws : List Word) (y : Launch), (packetOf s q 1 = some (x, ws)) ∧
      (placingOf s q = some (l, y)) ∧ (x.st = QState.placing)) ∧
    (∃ (s : State) (l : Nat) (x : Queue) (y : Launch), (mfind s.launches l = some y) ∧ (y.st = LState.placing) ∧
      (y.abandon = none) ∧ (mfind s.queues y.queue = some x) ∧ (x.st = QState.placing) ∧ (x.mapped = true) ∧
      (s.hub.restart = false) ∧ (servedBefore s y = false) ∧ (placeCore s y = none)) := by
  refine ⟨?_, ?_⟩
  · exact ⟨((pl [(3, lau 5)] id)), 0, 3, qp, ([]), (lau 5), by decide +kernel⟩
  · exact ⟨((pl [(3, lau 5)] id)), 3, qp, (lau 5), by decide +kernel⟩

end C36

namespace C37

def mb (ws : List Word)
  (f : State → State) : State := f { st with turn := none, hub := { bell := true, mailbox := (ws.zipIdx.map fun e => (e.2, e.1)).filter fun e => e.2 ≠ 0 } }

def cr : List Word := [1, 7, 1, 0x40000, 0, 0, 0, 0, 3, 0, 0]

def c64 : FMap Ctx := (List.range 64).map fun i => (i, { ctx0 with asid := i + 8 })

def q0 : Queue := { ctx := 0, prio := 3, vec := none, segs := [(0, 0x30000, 12)], next := 9, kick := 5, kickAt := 7, rp := 2, crp := 2, live := [3] }

def two (s : State) : State := { s with queues := [(0, q0)], ctxs := [(0, ctx0), (1, { ctx0 with asid := 2 })] }

def park1 (s : State) : State := { two s with tasks := [(0, { tk with ctx := 1, park := some { what := .page 0, hs := [], len := 4, insn := 0 } })] }

def hs (f : HostSide → HostSide) (g : State → State) : State := g { st with turn := none, host := f {}, cycle := 500 }

def l2 : Nat := 2^49 / 128

def ss : Session := { number := 9, nextSeq := 4, acked := 2, seen := [4], unacked := [(3, 0, [1], 5)], lastAck := 7 }

def ps (f : State → State) : State := f { st with turn := none, cycle := 500, peers := { sessions := [(6, ss)] } }

def ms (f : Mgmt → Mgmt) (g : State → State) : State := g { st with turn := none, cycle := 50000000, mgmt := f {} }

theorem witness_DriverCommands_1 :
    (∃ (s : State), (s.hub.bell = false ∨ s.hub.restart = true)) ∧
    (∃ (s : State), (s.hub.bell = true ∧ BitVec.toNat (mailWord s 0) % 256 = 1 ∧ s.hub.restart = false) ∧
      (ctxBad s (newCtx s) = true)) ∧
    (∃ (s : State), (s.hub.bell = true ∧ BitVec.toNat (mailWord s 0) % 256 = 1 ∧ s.hub.restart = false) ∧
      (ctxBad s (newCtx s) = false) ∧ (∀ i < 64, (mfind s.ctxs i).isSome = true)) ∧
    (∃ (s : State), (s.hub.bell = true ∧ BitVec.toNat (mailWord s 0) % 256 = 2 ∧ s.hub.restart = false) ∧
      (mfind s.ctxs (BitVec.toNat (mailWord s 1)) = none)) ∧
    (∃ (s : State), (s.hub.bell = true ∧ BitVec.toNat (mailWord s 0) % 256 = 2 ∧ s.hub.restart = false) ∧
      ((mfind s.ctxs (BitVec.toNat (mailWord s 1))).isSome = true) ∧
      (ctxQuiet (clearEntries (endWork s (BitVec.toNat (mailWord s 1))) (BitVec.toNat (mailWord s 1))) (BitVec.toNat (mailWord s 1)) = false)) ∧
    (∃ (s : State), (s.hub.bell = true ∧ BitVec.toNat (mailWord s 0) % 256 = 2 ∧ s.hub.restart = false) ∧
      ((mfind s.ctxs (BitVec.toNat (mailWord s 1))).isSome = true) ∧
      (ctxQuiet (clearEntries (endWork s (BitVec.toNat (mailWord s 1))) (BitVec.toNat (mailWord s 1))) (BitVec.toNat (mailWord s 1)) = true)) ∧
    (∃ (s : State) (i : Nat), (s.hub.bell = true ∧ BitVec.toNat (mailWord s 0) % 256 = 3 ∧ s.hub.restart = false) ∧
      (i < 4096) ∧ ((mfind s.ctxs (BitVec.toNat (mailWord s 1))).isSome = true ∧ BitVec.toNat (mailWord s 2) ≤ 15 ∧
      segOk (BitVec.toNat (mailWord s 3)) (BitVec.toNat (mailWord s 4)) = true) ∧ (mfind s.queues i = none) ∧ (∀ j < i,
      (mfind s.queues j).isSome = true)) ∧
    (∃ (s : State), (s.hub.bell = true ∧ BitVec.toNat (mailWord s 0) % 256 = 3 ∧ s.hub.restart = false) ∧
      (¬((mfind s.ctxs (BitVec.toNat (mailWord s 1))).isSome = true ∧ BitVec.toNat (mailWord s 2) ≤ 15 ∧
      segOk (BitVec.toNat (mailWord s 3)) (BitVec.toNat (mailWord s 4)) = true))) ∧
    (∃ (s : State) (x : Queue), (s.hub.bell = true ∧ BitVec.toNat (mailWord s 0) % 256 = 4 ∧ s.hub.restart = false) ∧
      (mfind s.queues (BitVec.toNat (mailWord s 1)) = some x) ∧ (x.live ≠ [])) ∧
    (∃ (s : State), (s.hub.bell = true ∧ BitVec.toNat (mailWord s 0) % 256 = 4 ∧ s.hub.restart = false) ∧
      (mfind s.queues (BitVec.toNat (mailWord s 1)) = none)) := by
  refine ⟨?_, ?_, ?_, ?_, ?_, ?_, ?_, ?_, ?_, ?_⟩
  · exact ⟨st, by decide +kernel⟩
  · exact ⟨((mb [1, 1, 1] id)), ⟨by decide +kernel, ⟨by decide +kernel, by decide +kernel⟩⟩, by decide +kernel⟩
  · exact ⟨((mb cr fun s => { s with ctxs := c64 })), ⟨by decide +kernel, ⟨by decide +kernel, by decide +kernel⟩⟩,
      by decide +kernel⟩
  · exact ⟨((mb [2, 5] id)), ⟨by decide +kernel, ⟨by decide +kernel, by decide +kernel⟩⟩, by decide +kernel⟩
  · exact ⟨((mb [2, 0] id)), ⟨by decide +kernel, ⟨by decide +kernel, by decide +kernel⟩⟩, by decide +kernel⟩
  · exact ⟨((mb [2, 0] fun s => { s with cores := [], tasks := [] })), ⟨by decide +kernel, ⟨by decide +kernel,
      by decide +kernel⟩⟩, by decide +kernel⟩
  · exact ⟨((mb [3, 0, 15, 0x1000, 12, 0x8005] id)), default, ⟨by decide +kernel, ⟨by decide +kernel, by decide +kernel⟩⟩,
      by decide +kernel, ⟨by decide +kernel, ⟨by decide +kernel, by decide +kernel⟩⟩, by decide +kernel⟩
  · exact ⟨((mb [3, 0, 16, 0x1000, 12, 0x8005] id)), ⟨by decide +kernel, ⟨by decide +kernel, by decide +kernel⟩⟩,
      by decide +kernel⟩
  · exact ⟨((mb [4, 0] fun s => { s with queues := [(0, q0)] })), q0, ⟨by decide +kernel, ⟨by decide +kernel, by decide +kernel⟩⟩,
      by decide +kernel⟩
  · exact ⟨((mb [4, 1] fun s => { s with queues := [(0, q0)] })), ⟨by decide +kernel, ⟨by decide +kernel, by decide +kernel⟩⟩,
      by decide +kernel⟩

theorem witness_DriverCommands_2 :
    (∃ (s : State), (s.hub.bell = true ∧ BitVec.toNat (mailWord s 0) % 256 = 5 ∧ s.hub.restart = false) ∧
      (mfind s.ctxs (BitVec.toNat (mailWord s 1)) = none)) ∧
    (∃ (s : State), (s.hub.bell = true ∧ BitVec.toNat (mailWord s 0) % 256 = 5 ∧ s.hub.restart = false) ∧
      ((mfind s.ctxs (BitVec.toNat (mailWord s 1))).isSome = true) ∧ (3 < BitVec.toNat (mailWord s 2))) ∧
    (∃ (s : State), (s.hub.bell = true ∧ BitVec.toNat (mailWord s 0) % 256 = 5 ∧ s.hub.restart = false) ∧
      ((mfind s.ctxs (BitVec.toNat (mailWord s 1))).isSome = true) ∧ (BitVec.toNat (mailWord s 2) ≤ 1) ∧
      (BitVec.toNat (mailWord s 3) % 4096 ≠ 0 ∨ BitVec.toNat (mailWord s 4) % 4096 ≠ 0)) ∧
    (∃ (s : State), (s.hub.bell = true ∧ BitVec.toNat (mailWord s 0) % 256 = 5 ∧ s.hub.restart = false) ∧
      ((mfind s.ctxs (BitVec.toNat (mailWord s 1))).isSome = true) ∧ (BitVec.toNat (mailWord s 2) = 0) ∧
      (BitVec.toNat (mailWord s 3) % 4096 = 0) ∧ (BitVec.toNat (mailWord s 4) % 4096 = 0)) ∧
    (∃ (s : State), (s.hub.bell = true ∧ BitVec.toNat (mailWord s 0) % 256 = 5 ∧ s.hub.restart = false) ∧
      ((mfind s.ctxs (BitVec.toNat (mailWord s 1))).isSome = true) ∧ (BitVec.toNat (mailWord s 2) = 1) ∧
      (BitVec.toNat (mailWord s 3) % 4096 = 0) ∧ (BitVec.toNat (mailWord s 4) % 4096 = 0)) ∧
    (∃ (s : State) (lg : Nat), (s.hub.bell = true ∧ BitVec.toNat (mailWord s 0) % 256 = 5 ∧ s.hub.restart = false) ∧
      ((mfind s.ctxs (BitVec.toNat (mailWord s 1))).isSome = true) ∧ (powerLog (BitVec.toNat (mailWord s 4)) = some lg) ∧
      (BitVec.toNat (mailWord s 2) = 2) ∧ (segOk (BitVec.toNat (mailWord s 3)) lg = true)) ∧
    (∃ (s : State) (lg : Nat), (s.hub.bell = true ∧ BitVec.toNat (mailWord s 0) % 256 = 5 ∧ s.hub.restart = false) ∧
      ((mfind s.ctxs (BitVec.toNat (mailWord s 1))).isSome = true) ∧ (powerLog (BitVec.toNat (mailWord s 4)) = some lg) ∧
      (BitVec.toNat (mailWord s 2) = 3) ∧ (lg = 16 ∨ lg = 21 ∨ lg = 30) ∧
      (BitVec.toNat (mailWord s 3) % BitVec.toNat (mailWord s 4) = 0) ∧ (region (BitVec.toNat (mailWord s 3)) ≤ 1) ∧
      (BitVec.toNat (mailWord s 3) < 2 ^ 52)) ∧
    (∃ (s : State), (s.hub.bell = true ∧ BitVec.toNat (mailWord s 0) % 256 = 6 ∧ s.hub.restart = false) ∧
      (mfind s.ctxs (BitVec.toNat (mailWord s 1)) = none ∨ 2 ^ 16 ≤ BitVec.toNat (mailWord s 2))) ∧
    (∃ (s : State), (s.hub.bell = true ∧ BitVec.toNat (mailWord s 0) % 256 = 6 ∧ s.hub.restart = false) ∧
      ((mfind s.ctxs (BitVec.toNat (mailWord s 1))).isSome = true) ∧ (BitVec.toNat (mailWord s 2) < 2 ^ 16)) ∧
    (∃ (s : State), (s.hub.bell = true ∧ BitVec.toNat (mailWord s 0) % 256 = 7 ∧ s.hub.restart = false) ∧ (s.ctxs ≠ [])) := by
  refine ⟨?_, ?_, ?_, ?_, ?_, ?_, ?_, ?_, ?_, ?_⟩
  · exact ⟨((mb [5, 9] id)), ⟨by decide +kernel, ⟨by decide +kernel, by decide +kernel⟩⟩, by decide +kernel⟩
  · exact ⟨((mb [5, 0, 4] id)), ⟨by decide +kernel, ⟨by decide +kernel, by decide +kernel⟩⟩, by decide +kernel⟩
  · exact ⟨((mb [5, 0, 0, 0x1000, 0x2001] id)), ⟨by decide +kernel, ⟨by decide +kernel, by decide +kernel⟩⟩, by decide +kernel⟩
  · exact ⟨((mb [5, 0, 0, 0x1000, 0x2000] id)), ⟨by decide +kernel, ⟨by decide +kernel, by decide +kernel⟩⟩, by decide +kernel⟩
  · exact ⟨((mb [5, 0, 1, 0x1000, 0x2000] id)), ⟨by decide +kernel, ⟨by decide +kernel, by decide +kernel⟩⟩, by decide +kernel⟩
  · exact ⟨((mb [5, 0, 2, 0x1000, 0x1000] id)), 12, ⟨by decide +kernel, ⟨by decide +kernel, by decide +kernel⟩⟩,
      by decide +kernel⟩
  · exact ⟨((mb [5, 0, 3, 0x200000, 0x200000] id)), 21, ⟨by decide +kernel, ⟨by decide +kernel, by decide +kernel⟩⟩,
      by decide +kernel⟩
  · exact ⟨((mb [6, 9, 5] id)), ⟨by decide +kernel, ⟨by decide +kernel, by decide +kernel⟩⟩, by decide +kernel⟩
  · exact ⟨((mb [6, 0, 0xFFFF] id)), ⟨by decide +kernel, ⟨by decide +kernel, by decide +kernel⟩⟩, by decide +kernel⟩
  · exact ⟨((mb [7, 9, 5] id)), ⟨by decide +kernel, ⟨by decide +kernel, by decide +kernel⟩⟩, by decide +kernel⟩

theorem witness_DriverCommands_3 :
    (∃ (s : State), (s.hub.bell = true ∧ BitVec.toNat (mailWord s 0) % 256 = 7 ∧ s.hub.restart = false) ∧ (s.ctxs = []) ∧
      (2 ^ 20 ≤ BitVec.toNat (mailWord s 1) ∨ windowOk (BitVec.toNat (mailWord s 3)) (BitVec.toNat (mailWord s 4)) = false)) ∧
    (∃ (s : State), (s.hub.bell = true ∧ BitVec.toNat (mailWord s 0) % 256 = 7 ∧ s.hub.restart = false) ∧ (s.ctxs = []) ∧
      (BitVec.toNat (mailWord s 1) < 2 ^ 20) ∧ (windowOk (BitVec.toNat (mailWord s 3)) (BitVec.toNat (mailWord s 4)) = true)) ∧
    (∃ (s : State), (s.hub.bell = true ∧ BitVec.toNat (mailWord s 0) % 256 = 8 ∧ s.hub.restart = false) ∧
      (mfind s.queues (BitVec.toNat (mailWord s 4)) = none)) ∧
    (∃ (s : State) (x : Queue), (s.hub.bell = true ∧ BitVec.toNat (mailWord s 0) % 256 = 8 ∧ s.hub.restart = false) ∧
      (mfind s.queues (BitVec.toNat (mailWord s 4)) = some x) ∧
      (mfind s.ctxs (BitVec.toNat (mailWord s 1)) = none ∨ 896 ≤ BitVec.toNat (mailWord s 2) ∨ x.ctx = BitVec.toNat (mailWord s 1))) ∧
    (∃ (s : State) (x : Queue), (s.hub.bell = true ∧ BitVec.toNat (mailWord s 0) % 256 = 8 ∧ s.hub.restart = false) ∧
      (mfind s.queues (BitVec.toNat (mailWord s 4)) = some x) ∧ ((mfind s.ctxs (BitVec.toNat (mailWord s 1))).isSome = true) ∧
      (BitVec.toNat (mailWord s 2) < 896) ∧ (x.ctx ≠ BitVec.toNat (mailWord s 1)) ∧
      (((coreSet s).any fun k => preemptWaits s (BitVec.toNat (mailWord s 1)) x.ctx k) = false)) ∧
    (∃ (s : State) (x : Queue), (s.hub.bell = true ∧ BitVec.toNat (mailWord s 0) % 256 = 8 ∧ s.hub.restart = false) ∧
      (mfind s.queues (BitVec.toNat (mailWord s 4)) = some x) ∧ ((mfind s.ctxs (BitVec.toNat (mailWord s 1))).isSome = true) ∧
      (BitVec.toNat (mailWord s 2) < 896) ∧ (x.ctx ≠ BitVec.toNat (mailWord s 1)) ∧
      (((coreSet s).any fun k => preemptWaits s (BitVec.toNat (mailWord s 1)) x.ctx k) = true)) := by
  refine ⟨?_, ?_, ?_, ?_, ?_, ?_⟩
  · exact ⟨((mb [7, 0x100000, 5] fun s => { s with ctxs := [] })), ⟨by decide +kernel, ⟨by decide +kernel, by decide +kernel⟩⟩,
      by decide +kernel⟩
  · exact ⟨((mb [7, 0xFFFFF, 5] fun s => { s with ctxs := [] })), ⟨by decide +kernel, ⟨by decide +kernel, by decide +kernel⟩⟩,
      by decide +kernel⟩
  · exact ⟨((mb [8, 1, 0, 0xFF, 0] id)), ⟨by decide +kernel, ⟨by decide +kernel, by decide +kernel⟩⟩, by decide +kernel⟩
  · exact ⟨((mb [8, 0, 0, 1, 0] two)), q0, ⟨by decide +kernel, ⟨by decide +kernel, by decide +kernel⟩⟩, by decide +kernel⟩
  · exact ⟨((mb [8, 1, 0, 1, 0] two)), q0, ⟨by decide +kernel, ⟨by decide +kernel, by decide +kernel⟩⟩, by decide +kernel⟩
  · exact ⟨((mb [8, 1, 0, 1, 0] park1)), q0, ⟨by decide +kernel, ⟨by decide +kernel, by decide +kernel⟩⟩, by decide +kernel⟩

theorem witness_HostAndPeerEvents_1 :
    (∃ (s : State) (addr : Nat) (size : Nat),
      (hostRange addr size = false ∨ s.host.lost = true ∨ s.mgmt.powered = false ∨ s.mgmt.booted = none)) ∧
    (∃ (s : State) (line : Nat), (region (128 * line) ≠ 2 ∨ mfind s.host.got line = none)) ∧
    (∃ (s : State), (s.host.lost = true ∨ ∀ e ∈ s.host.asked, s.cycle < e.2.2.2 + nsCycles 50000000)) ∧
    (∃ (s : State), (s.host.lostAt = none)) ∧
    (∃ (s : State) (addr : Nat) (size : Nat), (hostRange addr size = true) ∧ (s.host.lost = false ∧ s.mgmt.powered = true ∧
      s.mgmt.booted ≠ none) ∧ ((s.tok (addr / 128) 24).plain ≠ 32 ∨ (s.tok (addr / 128) 24).owner = false)) ∧
    (∃ (s : State) (addr : Nat) (size : Nat), (hostRange addr size = true) ∧ (s.host.lost = false ∧ s.mgmt.powered = true ∧
      s.mgmt.booted ≠ none) ∧ ((s.tok (addr / 128) 24).plain = 0 ∨ (s.tok (addr / 128) 24).data = false)) ∧
    (∃ (s : State) (addr : Nat) (size : Nat), (hostRange addr size = true) ∧ (s.host.lost = false ∧ s.mgmt.powered = true ∧
      s.mgmt.booted ≠ none) ∧ ((s.tok (addr / 128) 24).plain = 32) ∧ ((s.tok (addr / 128) 24).owner = true)) ∧
    (∃ (s : State) (addr : Nat) (size : Nat), (hostRange addr size = true) ∧ (s.host.lost = false ∧ s.mgmt.powered = true ∧
      s.mgmt.booted ≠ none) ∧ (1 ≤ (s.tok (addr / 128) 24).plain) ∧ ((s.tok (addr / 128) 24).data = true)) ∧
    (∃ (s : State) (line : Nat), (region (128 * line) = 2) ∧ ((mfind s.host.got line).isSome = true) ∧
      ((s.tok line 24).mayWrite = true) ∧ (collecting s line 24 = false)) ∧
    (∃ (s : State) (line : Nat), (region (128 * line) = 2) ∧ ((mfind s.host.got line).isSome = true) ∧
      ((s.tok line 24).mayWrite = false ∨ collecting s line 24 = true)) := by
  refine ⟨?_, ?_, ?_, ?_, ?_, ?_, ?_, ?_, ?_, ?_⟩
  · exact ⟨((hs id id)), 0x20001, 0x40, by decide +kernel⟩
  · exact ⟨((hs id id)), 1024, by decide +kernel⟩
  · exact ⟨((hs id id)), by decide +kernel⟩
  · exact ⟨((hs id id)), by decide +kernel⟩
  · exact ⟨((hs id id)), 0x20001, 0x3F, by decide +kernel, ⟨by decide +kernel, ⟨by decide +kernel, by decide +kernel⟩⟩,
      by decide +kernel⟩
  · exact ⟨((hs id id)), 0x20001, 0x3F, by decide +kernel, ⟨by decide +kernel, ⟨by decide +kernel, by decide +kernel⟩⟩,
      by decide +kernel⟩
  · exact ⟨((hs id fun s => { s with coh := { lines := [(1024, { held := [(24, { plain := 32, owner := true, data := true })] })] } })),
      0x20000, 64, by decide +kernel, ⟨by decide +kernel, ⟨by decide +kernel, by decide +kernel⟩⟩, by decide +kernel⟩
  · exact ⟨((hs id fun s => { s with coh := { lines := [(1024, { held := [(24, { plain := 32, owner := true, data := true })] })] } })),
      0x20000, 64, by decide +kernel, ⟨by decide +kernel, ⟨by decide +kernel, by decide +kernel⟩⟩, by decide +kernel⟩
  · exact ⟨((hs (fun h => { h with got := [(l2, true)] }) id)), l2, by decide +kernel⟩
  · exact ⟨((hs (fun h => { h with got := [(l2, true)] }) fun s => { s with coh := { lines := [(l2, { held := [(0, { plain := 32, owner := true, data := true })] })] } })),
      l2, by decide +kernel⟩

theorem witness_HostAndPeerEvents_2 :
    (∃ (s : State) (line : Nat) (i : Nat) (k : Nat) (a : Nat) (n : Nat), (s.host.asked[i]? = some (k, line, a, n)) ∧ (k ≠ 5)) ∧
    (∃ (s : State), (s.host.lost = false) ∧ (∃ e ∈ s.host.asked, e.2.2.2 + nsCycles 50000000 ≤ s.cycle)) ∧
    (∃ (s : State) (chip : Nat), (mfind s.peers.sessions chip = none) ∧ (∀ e ∈ s.peers.waiting, e.1 ≠ chip)) ∧
    (∃ (s : State) (chip : Nat), (mfind s.peers.sessions chip = none) ∧ (∀ (d : Nat),
      mfind s.peers.downAt chip = some d → s.cycle ≤ d + nsCycles 1000000000)) ∧
    (∃ (s : State) (i : Nat) (c : Nat) (q : Nat) (k : Nat) (us : List Word) (a : Nat), ((allUnacked s)[i]? = some (c, q, k,
      us, a)) ∧
      (s.cycle < (Option.map (fun x => mget a x.resent q) (mfind s.peers.sessions c)).getD a + nsCycles 20000 ∨ ∀ e ∈ s.mgmt.ethPorts,
      e.2 = 0)) ∧
    (∃ (n : Nat) (st : Nat), (n < 18) ∧ (st ≤ 2)) ∧
    (∃ (s : State) (chip : Nat) (n : Nat) (x : Session), (mfind s.peers.sessions chip = some x) ∧ (x.number ≠ n)) ∧
    (∃ (s : State) (chip : Nat) (x : Session), (mfind s.peers.sessions chip = some x) ∧
      (s.cycle < x.lastAck + nsCycles 1000000000)) ∧
    (∃ (s : State) (chip : Nat) (n : Nat) (seq : Nat) (x : Session), (mfind s.peers.sessions chip = some x) ∧
      (x.number = n) ∧ (seq ≤ x.acked ∨ x.seen.contains seq = true)) ∧
    (∃ (s : State) (chip : Nat) (n : Nat) (seq : Nat) (kind : Nat) (ws : List (BitVec 64)) (x : Session) (s' : State),
      (mfind s.peers.sessions chip = some x) ∧ (x.number = n) ∧ (x.acked < seq) ∧ (x.seen.contains seq = false) ∧
      (peerTake s chip kind ws = some s') ∧ ((peerWaits s (kind % 256) fun n => ws.getD n 0) = false)) := by
  refine ⟨?_, ?_, ?_, ?_, ?_, ?_, ?_, ?_, ?_, ?_⟩
  · exact ⟨((hs (fun h => { h with asked := [(2, l2, 24, 4)] }) id)), l2, 0, 2, 24, 4, by decide +kernel⟩
  · exact ⟨((hs (fun h => { h with asked := [(4, l2, 24, 4)] }) fun s => { s with cycle := 200000000 })), by decide +kernel⟩
  · exact ⟨((ps id)), 5, by decide +kernel⟩
  · exact ⟨((ps id)), 5, by decide +kernel⟩
  · exact ⟨((ps id)), 0, ((6, ss).1), 3, 0, ([1]), 5, by decide +kernel⟩
  · exact ⟨9, 2, by decide +kernel⟩
  · exact ⟨((ps id)), 6, 8, ss, by decide +kernel⟩
  · exact ⟨((ps id)), 6, ss, by decide +kernel⟩
  · exact ⟨((ps id)), 6, 9, 2, ss, by decide +kernel⟩
  · exact ⟨((ps id)), 6, 9, 3, 0, ([5, 0, 0]), ss, _, and4 (by decide +kernel) ⟨rfl, by decide +kernel⟩⟩

theorem witness_HostAndPeerEvents_3 :
    (∃ (n : Nat) (st : Nat), (18 ≤ n ∨ 2 < st)) ∧
    (∃ (s : State) (chip : Nat) (x : Session), (mfind s.peers.sessions chip = some x) ∧
      (x.lastAck + nsCycles 1000000000 ≤ s.cycle) ∧ (∃ u ∈ x.unacked, u.2.2.2 + nsCycles 1000000000 ≤ s.cycle)) ∧
    (∃ (s : State) (i : Nat) (c : Nat) (q : Nat) (k : Nat) (us : List Word) (a : Nat), ((allUnacked s)[i]? = some (c, q, k,
      us, a)) ∧ ((Option.map (fun x => mget a x.resent q) (mfind s.peers.sessions c)).getD a + nsCycles 20000 ≤ s.cycle) ∧ (∃
      e ∈ s.mgmt.ethPorts, e.2 ≠ 0) ∧ ((mfind s.peers.sessions c).isSome = true)) := by
  refine ⟨?_, ?_, ?_⟩
  · exact ⟨9, 3, by decide +kernel⟩
  · exact ⟨((ps fun s => { s with cycle := 4000000000 })), 6, ss, by decide +kernel⟩
  · exact ⟨((ps fun s => { s with cycle := 4000000000, mgmt := { ethPorts := [(2, 2)] } })), 0, ((6, ss).1), 3, 0, ([1]), 5,
      by decide +kernel⟩

theorem witness_ManagementEvents_1 :
    (∃ (s : State) (v : Nat), (inRecovery s = false) ∧ (1200 ≤ v) ∧ (v ≤ 4800)) ∧
    (∃ (s : State), (s.mgmt.overSince = none)) ∧
    (∃ (s : State) (die : Nat) (temp : Nat), (die < 17) ∧ (115 ≤ temp) ∧ (s.mgmt.powered = true)) ∧
    (∃ (s : State) (id : Nat), (isSensor id = false ∨ s.cycle < s.mgmt.pause)) ∧
    (∃ (id : Nat), (id < 3)) ∧
    (∃ (s : State) (ver : Nat) (b : Nat), (s.mgmt.booted = some b) ∧ ((slotImage s.mgmt b).version ≤ ver) ∧
      (s.mgmt.update = none)) ∧
    (∃ (s : State), (s.mgmt.verified = false)) ∧
    (∃ (s : State), (s.mgmt.staged = false)) ∧
    (∃ (s : State), (s.mgmt.powered = true) ∧ (resetInProgress s = false)) ∧
    (∃ (s : State) (die : Nat) (temp : Nat), (17 ≤ die ∨ temp < 115 ∨ s.mgmt.powered = false)) := by
  refine ⟨?_, ?_, ?_, ?_, ?_, ?_, ?_, ?_, ?_, ?_⟩
  · exact ⟨((ms id id)), 1200, by decide +kernel⟩
  · exact ⟨((ms id id)), by decide +kernel⟩
  · exact ⟨((ms id id)), 3, 115, by decide +kernel⟩
  · exact ⟨((ms id id)), 0, by decide +kernel⟩
  · exact ⟨0, by decide +kernel⟩
  · exact ⟨((ms id id)), 1, 0, by decide +kernel⟩
  · exact ⟨((ms id id)), by decide +kernel⟩
  · exact ⟨((ms id id)), by decide +kernel⟩
  · exact ⟨((ms id id)), by decide +kernel⟩
  · exact ⟨((ms id id)), 17, 114, by decide +kernel⟩

theorem witness_ManagementEvents_2 :
    (∃ (s : State) (id : Nat), (isSensor id = true) ∧ (inRecovery s = false) ∧ (s.mgmt.pause ≤ s.cycle)) ∧
    (∃ (s : State) (v : Nat), (inRecovery s = false) ∧ (70 ≤ v) ∧ (v ≤ 105)) ∧
    (∃ (s : State) (id : Nat), (3 ≤ id) ∧ (inRecovery s = false)) ∧
    (∃ (s : State) (ver : Nat) (b : Nat), (s.mgmt.booted = some b) ∧ (ver < (slotImage s.mgmt b).version)) ∧
    (∃ (s : State) (x : Image), (s.mgmt.update = some x)) ∧
    (∃ (s : State), (s.mgmt.verified = true)) ∧
    (∃ (s : State), (s.mgmt.powered = false)) ∧
    (∃ (s : State), (s.mgmt.powered = true) ∧ (resetInProgress s = true)) := by
  refine ⟨?_, ?_, ?_, ?_, ?_, ?_, ?_, ?_⟩
  · exact ⟨((ms id id)), 1, by decide +kernel⟩
  · exact ⟨((ms id id)), 105, by decide +kernel⟩
  · exact ⟨((ms (fun m => { m with overSince := some 5, slot0 := { digest := 3, version := 4 } }) id)), 4, by decide +kernel⟩
  · exact ⟨((ms (fun m => { m with overSince := some 5, slot0 := { digest := 3, version := 4 } }) id)), 3, 0, by decide +kernel⟩
  · exact ⟨((ms (fun m => { m with verified := true, update := some { digest := 3, version := 4 } }) id)),
      ({ digest := 3, version := 4 }), by decide +kernel⟩
  · exact ⟨((ms (fun m => { m with verified := true, update := some { digest := 3, version := 4 } }) id)), by decide +kernel⟩
  · exact ⟨((ms (fun m => { m with powered := false }) id)), by decide +kernel⟩
  · exact ⟨((ms id fun s => { s with dies := [(0, { down := true })] })), by decide +kernel⟩

end C37

namespace C40

def pt : Task := { phase := .created, ctx := 0, tiles := some 0x10080, r := { pc := 0x3000 } }

def pf (ws : List Word)
  (x : List (Nat × Nat)) : State := withDesc { mk tk with turn := none, tasks := [(0, { tk with extents := x }), (2, pt)], cores := [(0, { core0 with deque := [.task 2] })] } ws

def lau : Launch := { ctx := 0, queue := 0, hdr := [0, 0, 0, 0, 0, 0, 0, 0x1000000007, 32768], st := .running }

def thief : Core := { core0 with slots := [], table := [(0, 0xA000)] }

def stl (x : Steal) (c d : Core) : State := { st with turn := none, launches := [(3, lau)], tasks := [(2, { phase := .created, core := 1, launch := some 3 })], cores := [(0, c), (1, d)], cycle := 100000, net := { steals := [x] } }

def held : Core := { core0 with slots := [], deque := [.task 2] }

def h5 : Word := 0x9000000000000000 + 2^30 + 5 * 2^18 + 7

def asks (w : Pend)
  (v : View) : State := { mk { tk with ask := some { what := w, hs := [h5], len := 4, insn := 0 } } with turn := none, net := { futReps := [{ tid := 0, ctx := 0, cl := 1, h := h5, op := .touchp, view := v }] } }

def rp : Launch := { lau with hdr := [0, 0, 0, 0, 0, 0, 0, 0x1000000007, 2 * 2^58] }

def tl : Tile := { owner := some 0, ty := true, e := [(0, 5), (129, 6)] }

def jb : Job := { id := 4, ctx := 0, launch := none, w0 := 0x3300000000000000, w1 := 0, w2 := 0, w3 := 77, sink := .ep 0, rm := 1, rng := 1, time := 0 }

def moving : Net := { remaps := [{ isCore := false, unit := 0, copy := true, retire := false, phys := 5 }] }

def mj : State := { st with turn := none, clusters := [(0, { cl0 with tiles := [(3, tl)], jobs := [jb] })], net := moving }

def cst (va : Nat)
  (c : List Swap) : Core := { core0 with slots := [], swaps := c, parts := [{ part0 with stash := [{ off := 0, va := va, len := 128 }] }] }

def lnd (c : Nat) : Landing := { id := 50 + c, ctx := 0, core := c, src := c, off := 0, pitch := 16, rowLen := 2, ew := 1, fut := 0x9000000000000000 + 5 * 2^18 + 7, bytes := [1, 2, 3, 4], bad := [] }

def lds (c : Core) : State := { st with turn := none, cores := [(0, c)], net := { landings := [[lnd 0]] } }

def sf (d : Dest) : State := { mk { tk with fifo := [{ dest := d, bytes := [1, 2, 3, 4, 5, 6, 7, 8] }] } with turn := none }

def co (m : List Coh) (o : List Out) : State := { st with turn := none, coh := { st.coh with msgs := m, outs := o } }

def ou (a : Nat) : Out := { kind := .gets, line := 1024, agent := a, attempt := 1, sentAt := 5, age := 0 }

def ms : State := { st with turn := none, cycle := 100000 }

def qm (ws : List Word) : Queue := { ctx := 0, prio := 3, vec := none, segs := [(0, 0x30000, 12)], next := 9, kick := 5, kickAt := 7, rp := 2, crp := 2, live := [3], mapped := true, pkt := some (3, ws) }

def h0 : Word := 0x9000000000000000 + 5 * 2^18 + 7

def peer : Peers := { sessions := [(6, { number := 3, nextSeq := 1, lastAck := 0 })], table := some 64 }

def pm : List Host.Cell := (273, 0x80) :: st.mem

def sg (ws : List Word)
  (c : Nat) : State := { st with turn := none, mem := pm, queues := [(0, qm ws)], clusters := [(0, { cl0 with futs := [(5, { idx := 5, gen := 7, prod := .empty, ctx := c, launch := none })] })], hub := { tlb := [leaf] }, peers := peer }

theorem witness_TouchesAndWaitAny_2 : ∃ (s : State) (tid : Nat) (d : BitVec 7) (a : BitVec 7) (n : BitVec 7), Issuing s tid ∧ (Names s tid [d.toNat]) ∧
    Unrecorded s tid ∧ (a.toNat < 120) ∧ (∀ i < n.toNat, a.toNat + i ≤ (s.task tid).limit ∧ Ready s tid (a.toNat + i)) ∧
    ((s.task tid).cancel = false) ∧ (∀ i < n.toNat, isHandle ((fun i => s.g tid (a.toNat + i)) i) = true) ∧ (∃ i < n.toNat,
    ¬(fun i => isLocal s ((fun i => s.g tid (a.toNat + i)) i) = true ∨ peerReach s (hChip ((fun i => s.g tid (a.toNat + i)) i)) = false) i) := by
  exact ⟨({ mk (rgs [(14, h0 + 6 * 2^40), (15, h0)] tk) with peers := peer, mem := pm }), 0, 5, 14, 2,
    issuing_of (by decide +kernel), names_of (by decide +kernel), unrecorded_of (by decide +kernel),
    by unfold Ready; decide +kernel⟩

theorem witness_SchedulingEvents_5 :
    (∃ (s : State) (k : Nat) (cl : Nat) (pos : Nat) (e : Entry) (t : Nat) (ctx : Nat) (l : Option Nat) (va : Nat) (who : Nat)
      (h : List Word) (es : List (Word × Word)) (s' : State), (k / 8 = cl) ∧ (prefetchable s k pos = true) ∧
      ((dispatchList (s.core k))[pos]? = some e) ∧ (e = Entry.task t) ∧ (listOf s e = some (ctx, l, va, who)) ∧
      (tileList s cl ctx va l who = Eng.ok (h, es) s') ∧ (liveTask s' t = true) ∧ (listBad s' k ctx h es = none) ∧
      (((heldExtents s' k).any fun a => (List.map extentOf es).any (extentsMeet a)) = false)) ∧
    (∃ (s : State) (k : Nat) (cl : Nat) (pos : Nat) (e : Entry) (t : Nat) (ctx : Nat) (l : Option Nat) (va : Nat) (who : Nat)
      (h : List Word) (es : List (Word × Word)) (s' : State), (k / 8 = cl) ∧ (prefetchable s k pos = true) ∧
      ((dispatchList (s.core k))[pos]? = some e) ∧ (e = Entry.task t) ∧ (listOf s e = some (ctx, l, va, who)) ∧
      (tileList s cl ctx va l who = Eng.ok (h, es) s') ∧ (liveTask s' t = true) ∧ (listBad s' k ctx h es = none) ∧
      (((heldExtents s' k).any fun a => (List.map extentOf es).any (extentsMeet a)) = true)) ∧
    (∃ (s : State) (k : Nat) (cl : Nat) (pos : Nat) (e : Entry) (t : Nat) (ctx : Nat) (l : Option Nat) (va : Nat) (who : Nat)
      (h : List Word) (es : List (Word × Word)) (s' : State) (c : Code), (k / 8 = cl) ∧ (prefetchable s k pos = true) ∧
      ((dispatchList (s.core k))[pos]? = some e) ∧ (e = Entry.task t) ∧ (listOf s e = some (ctx, l, va, who)) ∧
      (tileList s cl ctx va l who = Eng.ok (h, es) s') ∧ (liveTask s' t = true) ∧ (listBad s' k ctx h es = some c)) ∧
    (∃ (s : State) (i : Nat) (x : Steal) (e : Entry), (s.net.steals[i]? = some x) ∧ (x.answered = false) ∧
      (x.retry = false) ∧ ((s.core x.victim).dead = false) ∧ (underRemap s x.victim = false) ∧
      (unitSilent s x.victim = false) ∧
      (List.find? (fun e => stealable s x.thief x.victim x.ctx e && stealRecorded s x.thief x.victim e) (s.core x.victim).entries.reverse = some e)) ∧
    (∃ (s : State) (i : Nat) (x : Steal) (t : Nat), (s.net.steals[i]? = some x) ∧ (x.answered = true) ∧
      (underRemap s x.thief = false) ∧ (stealWaits s x = false) ∧ (x.got = some (Entry.task t)) ∧
      ((s.core x.thief).dead = true) ∧ ((s.core x.victim).dead = false) ∧ ((s.core x.victim).deque.length < 256) ∧
      ((s.core x.victim).overflow = []) ∧ (x.thief ≠ x.victim)) ∧
    (∃ (s : State) (i : Nat) (m : FutMsg) (p : Park) (d : BitVec 7), (s.net.futReps[i]? = some m) ∧
      (unitSilent s (s.task m.tid).core = false) ∧ ((s.task m.tid).ask = some p) ∧ (liveTask s m.tid = true) ∧ (m.h ∈ p.hs) ∧
      (p.pops = []) ∧ ((s.task m.tid).pair = none) ∧ Unrecorded s m.tid ∧ Names1 s m.tid d.toNat) := by
  refine ⟨?_, ?_, ?_, ?_, ?_, ?_⟩
  · exact ⟨((pf [1, 0, 0x10040, 128 * 2^32] [])), 0, 0, 0, (Entry.task 2), 2, (((pf [1, 0, 65600, 128 * 2 ^ 32] []).task 2).ctx),
      (((pf [1, 0, 65600, 128 * 2 ^ 32] []).task 2).launch), 65664, 2, _, _, _,
      and5 (by decide +kernel) ⟨eng_ok (by decide +kernel), by decide +kernel⟩⟩
  · exact ⟨((pf [1, 0, 0x10040, 128 * 2^32] [(0, 256)])), 0, 0, 0, (Entry.task 2), 2, (((pf [1, 0, 65600, 128 * 2 ^ 32] [(0,
      256)]).task 2).ctx), (((pf [1, 0, 65600, 128 * 2 ^ 32] [(0, 256)]).task 2).launch), 65664, 2, _, _, _,
      and5 (by decide +kernel) ⟨eng_ok (by decide +kernel), by decide +kernel⟩⟩
  · exact ⟨((pf [0, 0] [])), 0, 0, 0, (Entry.task 2), 2, (((pf [0, 0] []).task 2).ctx), (((pf [0, 0] []).task 2).launch), 65664,
      2, _, (listPairs []), _, FUT_ARG, and5 (by decide +kernel) ⟨eng_ok (by decide +kernel), by decide +kernel⟩⟩
  · exact ⟨((stl { thief := 0, victim := 1, ctx := 0 } thief held)), 0, ({ thief := 0, victim := 1, ctx := 0 }), (Entry.task 2),
      by decide +kernel⟩
  · exact ⟨((stl { thief := 0, victim := 1, ctx := 0, answered := true, got := some (.task 2) } { thief with dead := true } { held with deque := [] })),
      0, ({ thief := 0, victim := 1, ctx := 0, answered := true, got := some (Entry.task 2) }), 2, by decide +kernel⟩
  · exact ⟨((asks (.touch 5 false) { out := 4 })), 0,
      ({ tid := 0, ctx := 0, cl := 1, h := h5, op := FOp.touchp, view := { out := 4 } }),
      ({ what := Pend.touch 5 false, hs := [h5], len := 4, insn := 0 }), default, and5 (by decide +kernel) ⟨by decide +kernel,
      by decide +kernel, unrecorded_of (by decide +kernel), by unfold Names1 Ready; decide +kernel⟩⟩

theorem witness_MatrixEvents_3 :
    (∃ (s : State) (cl : Nat) (x : Job) (c : Nat), (mxCol0 x.w0 + mxN x.w0 ≤ 128) ∧ (c < 128) ∧
      (mrising (s.tile cl (mxTile x.w0)).e = true)) ∧
    (∃ (s : State) (cl : Nat) (x : Job) (n : Nat), (List.find? (fun z => decide (z.id = n)) (s.cluster cl).jobs = some x) ∧
      (x.result = none ∨ engPending s cl n = true)) ∧
    (∃ (s : State) (i : Nat), (s.net.landings[i]? = none)) ∧
    (∃ (s : State) (cl : Nat) (x : Job), (mxNext s cl = some x) ∧ (mayStart s cl x = false)) ∧
    (∃ (s : State) (i : Nat) (xs : List Landing) (a : Landing), (s.net.landings[i]? = some xs) ∧ (∀ z ∈ (landBlocks xs s).1,
      Landing.over (landBlocks xs s).2 z = true ∧ engPending (landBlocks xs s).2 (z.core / 8) z.id = false) ∧
      ((landBlocks xs s).1 = [a])) ∧
    (∃ (s : State) (i : Nat) (xs : List Landing), (s.net.landings[i]? = some xs) ∧ (¬∀ z ∈ (landBlocks xs s).1,
      Landing.over (landBlocks xs s).2 z = true ∧ engPending (landBlocks xs s).2 (z.core / 8) z.id = false)) := by
  refine ⟨?_, ?_, ?_, ?_, ?_, ?_⟩
  · exact ⟨mj, 0, jb, default, by decide +kernel⟩
  · exact ⟨mj, 0, jb, 4, by decide +kernel⟩
  · exact ⟨mj, 0, by decide +kernel⟩
  · exact ⟨mj, 0, jb, by decide +kernel⟩
  · exact ⟨((lds { core0 with slots := [] })), 0, ([lnd 0]), _, by decide +kernel, by decide +kernel, rfl⟩
  · exact ⟨((lds (cst 0x50000 []))), 0, ([lnd 0]), by decide +kernel⟩

theorem witness_StoreAndTransferEvents_4 : ∃ (s : State) (tid : Nat) (t : Machine.Task) (x : Store) (rest : List Store) (a : Nat), (mfind s.tasks tid = some t) ∧
    (t.fifo = x :: rest) ∧ (x.rel = none) ∧ (x.dest = Dest.door a) := by
  exact ⟨((sf (.door (4 * 2^48 + 8)))), 0,
    (have __src := tk; ({ __src with fifo := [{ dest := Dest.door (4 * 2 ^ 48 + 8), bytes := [1, 2, 3, 4, 5, 6, 7, 8] }] } : Task)),
    ({ dest := Dest.door (4 * 2 ^ 48 + 8), bytes := [1, 2, 3, 4, 5, 6, 7, 8] }), ([]), (4 * 2 ^ 48 + 8), by decide +kernel⟩

theorem witness_CoherenceEvents_3 :
    (∃ (s : State) (i : Nat) (l : Nat) (agent : Nat) (name : Nat) (k : Req),
      (s.coh.msgs[i]? = some (Coh.request k l agent name) ∨ s.coh.msgs[i]? = some (Coh.persist k l agent name)) ∧
      (censusDue s = true)) ∧
    (∃ (s : State) (i : Nat) (l : Nat) (dst : Nat) (t : Tok) (n : BitVec 16) (u : Option Nat),
      (s.coh.msgs[i]? = some (Coh.tokens l dst t n u)) ∧ (isLost s dst = true)) ∧
    (∃ (s : State) (i : Nat) (l : Nat) (dst : Nat) (t : Tok) (n : BitVec 16) (u : Option Nat),
      (s.coh.msgs[i]? = some (Coh.tokens l dst t n u)) ∧ (n = (s.line l).tser) ∧ (isLost s dst = false) ∧
      (actFor s l dst = none) ∧ (16 ≤ dst) ∧ (region (128 * l) ≠ 2) ∧ (collecting (takeCoh s i) l dst = true)) ∧
    (∃ (s : State) (i : Nat) (l : Nat) (dst : Nat) (t : Tok) (n : BitVec 16) (u : Option Nat) (s1 : State),
      (s.coh.msgs[i]? = some (Coh.tokens l dst t n u)) ∧ (n = (s.line l).tser) ∧ (isLost s dst = false) ∧
      (actFor s l dst = none) ∧ (dst < 16) ∧ (makeWay (takeCoh s i) dst l = some s1) ∧ (region (128 * l) ≠ 2) ∧
      (collecting (takeCoh s i) l dst = true)) := by
  refine ⟨?_, ?_, ?_, ?_⟩
  · exact ⟨({ co [.request .gets 1024 1 0] [] with dies := [(1, { lostAt := some 3 })] }), 0, 1024, 1, 0, .gets,
      by decide +kernel⟩
  · exact ⟨({ co [.tokens 1024 1 { plain := 3 } 0 none] [] with coh := { (co [.tokens 1024 1 { plain := 3 } 0 none] []).coh with lostAgents := [1] } }),
      0, 1024, 1, ({ plain := 3 }), 0, none, by decide +kernel⟩
  · exact ⟨((co [.tokens 1024 16 { plain := 3 } 0 none] [ou 16])), 0, 1024, 16, ({ plain := 3 }), 0, none, by decide +kernel⟩
  · exact ⟨((co [.tokens 1024 1 { plain := 3 } 0 none] [ou 1])), 0, 1024, 1, ({ plain := 3 }), 0, none,
      (takeCoh (co [Coh.tokens 1024 1 { plain := 3 } 0 none] [ou 1]) 0), by decide +kernel⟩

theorem witness_MessageEvents_4 :
    (∃ (s : State) (k : Nat), (mayHandle s k = false)) ∧
    (∃ (s : State) (die : Nat) (off : ℤ) (delay : Nat), (exchangeDue s die = true) ∧
      ((off - (s.die die).offset).natAbs ≤ delay)) := by
  refine ⟨?_, ?_⟩
  · exact ⟨ms, 3, by decide +kernel⟩
  · exact ⟨ms, 3, ((-5)), 7, by decide +kernel⟩

theorem witness_PacketEvents_5 :
    (∃ (s : State) (q : Nat) (x : Queue) (ws : List Word) (s1 : State) (c : Cause), (packetOf s q 3 = some (x, ws)) ∧
      ((fun n => ws.getD (n - 1) 0) 3 ≠ 0) ∧
      ((fun n => ws.getD (n - 1) 0) 1 = 0 ∨ isHandle ((fun n => ws.getD (n - 1) 0) 1) = true) ∧
      (ptrBad ((fun n => ws.getD (n - 1) 0) 3) = false) ∧
      (hubPlace s x.ctx (BitVec.toNat ((fun n => ws.getD (n - 1) 0) 3) % 2 ^ 52) Acc.wr = Eng.wait s1 c)) ∧
    (∃ (s : State) (q : Nat) (x : Queue) (ws : List Word) (p : Place) (s1 : State), (packetOf s q 3 = some (x, ws)) ∧
      ((fun n => ws.getD (n - 1) 0) 3 ≠ 0) ∧
      ((fun n => ws.getD (n - 1) 0) 1 = 0 ∨ isHandle ((fun n => ws.getD (n - 1) 0) 1) = true) ∧
      (ptrBad ((fun n => ws.getD (n - 1) 0) 3) = false) ∧
      (hubPlace s x.ctx (BitVec.toNat ((fun n => ws.getD (n - 1) 0) 3) % 2 ^ 52) Acc.wr = Eng.ok p s1) ∧
      (signalResolve s1 q x ((fun n => ws.getD (n - 1) 0) 1) ((fun n => ws.getD (n - 1) 0) 2) = none)) := by
  refine ⟨?_, ?_⟩
  · exact ⟨((sg [h0, 9, 0x50000, 0] 0)), 0, ((qm [h0, 9, 0x50000, 0])), ([h0, 9, 0x50000, 0]), (hubAsk (sg [h0, 9, 327680,
      0] 0) (qm [h0, 9, 327680, 0]).ctx (BitVec.toNat ((fun n => [h0, 9, 327680, 0].getD (n - 1) 0) 3) % 2 ^ 52)), Cause.tlb,
      and4 (by decide +kernel) (rfl)⟩
  · exact ⟨((sg [h0, 9, 0x10000, 0] 3)), 0, ((qm [h0, 9, 0x10000, 0])), ([h0, 9, 0x10000, 0]),
      (Place.mem (bits leaf.word 35 0 * 2 ^ 16 + BitVec.toNat ((fun n => [h0, 9, 65536,
      0].getD (n - 1) 0) 3) % 2 ^ 52 % 2 ^ pageBits leaf.word) leaf.word), _,
      and4 (by decide +kernel) ⟨eng_ok (by decide +kernel), by decide +kernel⟩⟩

theorem witness_HostAndPeerEvents_4 : ∃ (s : State) (line : Nat) (i : Nat) (a : Nat) (n : Nat), (s.host.asked[i]? = some (5, line, a, n)) := by
  exact ⟨({ st with turn := none, host := { asked := [(5, 1024, 0, 4)] } }), 1024, 0, 0, 4, by decide +kernel⟩

theorem witness_ManagementEvents_3 :
    (∃ (v : Nat), (v < 70 ∨ 105 < v)) ∧
    (∃ (v : Nat), (v < 1200 ∨ 4800 < v)) ∧
    (∃ (s : State), (inRecovery s = true)) := by
  refine ⟨?_, ?_, ?_⟩
  · exact ⟨5, by decide +kernel⟩
  · exact ⟨5, by decide +kernel⟩
  · exact ⟨({ st with turn := none, mgmt := { booted := none } }), by decide +kernel⟩

end C40

namespace C41

def qp : Queue := { ctx := 0, prio := 3, vec := none, segs := [(0, 0x30000, 12)], next := 9, kick := 5, kickAt := 7, rp := 2, crp := 2, live := [3], mapped := true, st := .placing, pkt := some (1, []) }

def gd : List Word := [0x2000, 1, 2, 3, 4, 5, 6, 0x1000000007, 0x0004000000000000, 0, 0, 7, 0]

def lau (a : Nat) : Launch := { ctx := 0, queue := 0, hdr := gd, arrival := a }

def pl (ls : FMap Launch)
  (f : Core → Core) : State := { st with turn := none, queues := [(0, qp)], launches := ls, cores := [(0, f { core0 with parts := [] })], cycle := 500 }

theorem witness_PacketEvents_6 :
    (∃ (s : State) (l : Nat) (x : Queue) (y : Launch) (k : Nat), (mfind s.launches l = some y) ∧ (y.st = LState.placing) ∧
      (y.abandon = none) ∧ (mfind s.queues y.queue = some x) ∧ (x.st = QState.placing) ∧ (x.mapped = true) ∧
      (s.hub.restart = false) ∧ (servedBefore s y = false) ∧ (placeCore s y = some k) ∧ (qualifies s k y = true)) ∧
    (∃ (s : State) (l : Nat) (x : Queue) (y : Launch) (k : Nat) (es : List (Nat × Nat)) (s1 : State),
      (mfind s.launches l = some y) ∧ (y.st = LState.placing) ∧ (y.abandon = none) ∧ (mfind s.queues y.queue = some x) ∧
      (x.st = QState.placing) ∧ (x.mapped = true) ∧ (s.hub.restart = false) ∧ (servedBefore s y = false) ∧
      (placeCore s y = some k) ∧ (qualifies s k y = false) ∧
      ((y.entries.any fun e => e.1 == k) = false ∨ entriesLacked s k y ≠ 0) ∧ (tryInstall s k y = some (es, s1))) ∧
    (∃ (s : State) (l : Nat) (x : Queue) (y : Launch), (mfind s.launches l = some y) ∧ (y.st = LState.placing) ∧
      (y.abandon = none) ∧ (mfind s.queues y.queue = some x) ∧ (x.st = QState.placing) ∧ (x.mapped = true) ∧
      (s.hub.restart = false) ∧ (servedBefore s y = true)) := by
  refine ⟨?_, ?_, ?_⟩
  · exact ⟨((pl [(3, lau 5)] id)), 3, qp, (lau 5),
      ((bits ((lau 5).w 10) 62 60 * 112 + bits ((lau 5).w 10) 59 53) * 8 + bits ((lau 5).w 10) 52 50), by decide +kernel⟩
  · exact ⟨((pl [(3, lau 5)] fun c => { c with table := [] })), 3, qp, (lau 5),
      ((bits ((lau 5).w 10) 62 60 * 112 + bits ((lau 5).w 10) 59 53) * 8 + bits ((lau 5).w 10) 52 50), _, _,
      and5 (by decide +kernel) (and5 (by decide +kernel) ⟨by decide +kernel, rfl⟩)⟩
  · exact ⟨((pl [(3, lau 5), (4, lau 4)] id)), 3, qp, (lau 5), by decide +kernel⟩

end C41

namespace C50

def a14 (v w : Word) : State := mk (rgs [(14, v), (15, w)] tk)

def ptr (code : Nat) : State := a14 (BitVec.ofNat 64 (code * 2^58 + 0x10000)) 0

def scl (code l : Nat) : State := a14 (BitVec.ofNat 64 (code * 2^58 + l * 2^55 + 0xFFE0000000080)) 0

def noScale (code l : Nat) : State := { scl code l with cores := [(0, { core0 with ua := [(4 * 16384 + 128, 0xFF), (4 * 16384 + 129, 0x22)] })] }

def tw (x w : Word) (s : State) : State := { s with tasks := [(0, (rgs [(14, x), (15, w)] (s.task 0)))] }

def k1 (c : Core) : State := { st with cores := [(1, { core0 with slots := [(0, 0)] }), (8, c)], tasks := [(0, { tk with core := 1 })] }

def pp : Pair := { leader := true, other := 1, ckpt := tk.r, agreed := true }

def pps (p : Pair) : State := { mk { tk with pair := some p } with tasks := [(0, { tk with pair := some p }), (1, { tk with core := 1, shadow := true, pair := some { leader := false, other := 0, ckpt := tk.r } })] }

def wk : Wake := { tid := 2, h := 0x9000000000000000 + 5 * 2^18 + 7, view := { out := 0, value := 77, flags := 2 } }

def wks : State := { st with turn := none, clusters := [(0, { cl0 with wakes := [wk], wakeAt := 5 })] }

def repl : Launch := { ctx := 0, queue := 0, hdr := [0, 0, 0, 0, 0, 0, 0, 0x1000000007, 2 * 2^58, 0, 0, 0, 0x10080], st := .running }

def lst (x : Launch) (n : Nat)
  (ws : List Word) : State := withDesc { st with turn := none, launches := [(3, x)], tasks := [], cycle := n } ws

def one : List Word := [0, 0, 32, 0, 0, 0, 0, 0, 2^56, 5, 0, 0]

def co (m : List Coh) : State := { st with turn := none, coh := { st.coh with msgs := m } }

def ul : Nat := 2^51 / 128

def ubp : Unbacked := { home := 0, ctx := 0, bound := some 0x20000, written := [(0, true)] }

def fr (m : List Coh) (u : Unbacked) : State := { co m with coh := { (co m).coh with ub := [(ubName (2^51), u)] } }

def ks (f : Core → Core) : State := { st with turn := none, cores := [(0, f core0)], cycle := 20000 }

def hs (f : HostSide → HostSide) : State := { st with turn := none, host := f {}, cycle := 500 }

def sh (f : List Fwd) : State := { pps { pp with fwd := f } with turn := some { tid := 1 } }

theorem witness_Operands_3 : ∃ (s : State) (s1 : State) (s2 : State) (s3 : State) (tid : Nat) (d : BitVec 7) (a : BitVec 7) (b : BitVec 7) (x : Word)
    (y : Word), Issuing s tid ∧ (checkOperands s tid [Opd.dst d.toNat, Opd.src a.toNat, Opd.src b.toNat] = Except.ok ()) ∧
    (opdsReady s tid [Opd.dst d.toNat, Opd.src a.toNat, Opd.src b.toNat] = Except.ok ()) ∧
    (resultsReady s tid [Opd.dst d.toNat, Opd.src a.toNat, Opd.src b.toNat] = Except.ok ()) ∧
    (readReg s tid a.toNat = Except.ok (x, s1)) ∧ (readReg s1 tid b.toNat = Except.ok (y, s2)) ∧ (isPort d.toNat = true) ∧
    (writeReg s2 tid d.toNat (x * y) = Except.ok s3) ∧ ((s2.task tid).pair = none) := by
  exact ⟨st, st, st, (st.modTask 0 fun t => ({ t with mpOut := t.mpOut ++ [st.g 0 (3) * st.g 0 (4)] } : Task)), 0, 122, 3, 4,
    (st.g 0 (3)), (st.g 0 (4)), issuing_of (by decide +kernel), rfl, rfl, rfl, rfl, rfl, by decide +kernel, rfl,
    by decide +kernel⟩

theorem witness_TypedAccess_3 :
    (∃ (s : State) (s1 : State) (tid : Nat) (d : BitVec 7) (a : BitVec 7) (b : BitVec 7), Issuing s tid ∧
      (Names s tid [d.toNat, a.toNat, b.toNat]) ∧ (BitVec.toNat (Reads s tid a.toNat) / 2 ^ 52 % 8 = 0) ∧
      (BitVec.toNat (Reads s tid a.toNat) / 2 ^ 58 = 1) ∧
      (storeVa ((fun n => if (fun n => max (-n) (min (n - 1) (BitVec.toInt (Reads s tid d.toNat)))) n = BitVec.toInt (Reads s tid d.toNat) then s else s.flag tid OF) 128) tid (elemAddr (Reads s tid a.toNat) (BitVec.toNat (Reads s tid a.toNat) / 2 ^ 58) (BitVec.toNat (Reads s tid b.toNat))) [BitVec.ofInt 8 ((fun n => max (-n) (min (n - 1) (BitVec.toInt (Reads s tid d.toNat)))) 128)] = Except.ok s1)) ∧
    (∃ (s : State) (s1 : State) (tid : Nat) (v : Nat) (d : BitVec 7) (a : BitVec 7) (b : BitVec 7) (s2 : State)
      (bs : List Byte), Issuing s tid ∧ (Names s tid [d.toNat, a.toNat, b.toNat]) ∧
      (BitVec.toNat (Reads s tid a.toNat) / 2 ^ 52 % 8 = 0) ∧ (18 ≤ BitVec.toNat (Reads s tid a.toNat) / 2 ^ 58 ∧
      BitVec.toNat (Reads s tid a.toNat) / 2 ^ 58 ≤ 24 ∨ 32 ≤ BitVec.toNat (Reads s tid a.toNat) / 2 ^ 58 ∧
      BitVec.toNat (Reads s tid a.toNat) / 2 ^ 58 ≤ 35 ∧ BitVec.toNat (Reads s tid a.toNat) / 2 ^ 55 % 8 = 3) ∧
      (loadVa s tid ((BitVec.toNat (Reads s tid a.toNat) + (BitVec.toNat (Reads s tid b.toNat) / if 32 ≤ BitVec.toNat (Reads s tid a.toNat) / 2 ^ 58 then 32 else 4 * 2 ^ (BitVec.toNat (Reads s tid a.toNat) / 2 ^ 55 % 8)) * (1 + ((if 32 ≤ BitVec.toNat (Reads s tid a.toNat) / 2 ^ 58 then 32 else 4 * 2 ^ (BitVec.toNat (Reads s tid a.toNat) / 2 ^ 55 % 8)) * if BitVec.toNat (Reads s tid a.toNat) / 2 ^ 58 = 32 then 4 else if 32 ≤ BitVec.toNat (Reads s tid a.toNat) / 2 ^ 58 then 8 else BitVec.toNat (Reads s tid a.toNat) / 2 ^ 58 - 16) / 8)) % 2 ^ 52) 1 = Except.ok (v,
      s1)) ∧
      (loadBytes s1 tid (((BitVec.toNat (Reads s tid a.toNat) + (BitVec.toNat (Reads s tid b.toNat) / if 32 ≤ BitVec.toNat (Reads s tid a.toNat) / 2 ^ 58 then 32 else 4 * 2 ^ (BitVec.toNat (Reads s tid a.toNat) / 2 ^ 55 % 8)) * (1 + ((if 32 ≤ BitVec.toNat (Reads s tid a.toNat) / 2 ^ 58 then 32 else 4 * 2 ^ (BitVec.toNat (Reads s tid a.toNat) / 2 ^ 55 % 8)) * if BitVec.toNat (Reads s tid a.toNat) / 2 ^ 58 = 32 then 4 else if 32 ≤ BitVec.toNat (Reads s tid a.toNat) / 2 ^ 58 then 8 else BitVec.toNat (Reads s tid a.toNat) / 2 ^ 58 - 16) / 8)) % 2 ^ 52 + 1 + ((BitVec.toNat (Reads s tid b.toNat) % if 32 ≤ BitVec.toNat (Reads s tid a.toNat) / 2 ^ 58 then 32 else 4 * 2 ^ (BitVec.toNat (Reads s tid a.toNat) / 2 ^ 55 % 8)) * if BitVec.toNat (Reads s tid a.toNat) / 2 ^ 58 = 32 then 4 else if 32 ≤ BitVec.toNat (Reads s tid a.toNat) / 2 ^ 58 then 8 else BitVec.toNat (Reads s tid a.toNat) / 2 ^ 58 - 16) / 8) % 2 ^ 52) (((((BitVec.toNat (Reads s tid b.toNat) % if 32 ≤ BitVec.toNat (Reads s tid a.toNat) / 2 ^ 58 then 32 else 4 * 2 ^ (BitVec.toNat (Reads s tid a.toNat) / 2 ^ 55 % 8)) * if BitVec.toNat (Reads s tid a.toNat) / 2 ^ 58 = 32 then 4 else if 32 ≤ BitVec.toNat (Reads s tid a.toNat) / 2 ^ 58 then 8 else BitVec.toNat (Reads s tid a.toNat) / 2 ^ 58 - 16) % 8 + if BitVec.toNat (Reads s tid a.toNat) / 2 ^ 58 = 32 then 4 else if 32 ≤ BitVec.toNat (Reads s tid a.toNat) / 2 ^ 58 then 8 else BitVec.toNat (Reads s tid a.toNat) / 2 ^ 58 - 16) + 7) / 8) = Except.ok (bs,
      s2)) ∧ (v ≠ 255) ∧ (BitVec.toNat (Reads s tid a.toNat) / 2 ^ 58 ≤ 24)) ∧
    (∃ (s : State) (s1 : State) (tid : Nat) (v : Nat) (d : BitVec 7) (a : BitVec 7) (b : BitVec 7) (s2 : State)
      (bs : List Byte), Issuing s tid ∧ (Names s tid [d.toNat, a.toNat, b.toNat]) ∧
      (BitVec.toNat (Reads s tid a.toNat) / 2 ^ 52 % 8 = 0) ∧ (18 ≤ BitVec.toNat (Reads s tid a.toNat) / 2 ^ 58 ∧
      BitVec.toNat (Reads s tid a.toNat) / 2 ^ 58 ≤ 24 ∨ 32 ≤ BitVec.toNat (Reads s tid a.toNat) / 2 ^ 58 ∧
      BitVec.toNat (Reads s tid a.toNat) / 2 ^ 58 ≤ 35 ∧ BitVec.toNat (Reads s tid a.toNat) / 2 ^ 55 % 8 = 3) ∧
      (loadVa s tid ((BitVec.toNat (Reads s tid a.toNat) + (BitVec.toNat (Reads s tid b.toNat) / if 32 ≤ BitVec.toNat (Reads s tid a.toNat) / 2 ^ 58 then 32 else 4 * 2 ^ (BitVec.toNat (Reads s tid a.toNat) / 2 ^ 55 % 8)) * (1 + ((if 32 ≤ BitVec.toNat (Reads s tid a.toNat) / 2 ^ 58 then 32 else 4 * 2 ^ (BitVec.toNat (Reads s tid a.toNat) / 2 ^ 55 % 8)) * if BitVec.toNat (Reads s tid a.toNat) / 2 ^ 58 = 32 then 4 else if 32 ≤ BitVec.toNat (Reads s tid a.toNat) / 2 ^ 58 then 8 else BitVec.toNat (Reads s tid a.toNat) / 2 ^ 58 - 16) / 8)) % 2 ^ 52) 1 = Except.ok (v,
      s1)) ∧
      (loadBytes s1 tid (((BitVec.toNat (Reads s tid a.toNat) + (BitVec.toNat (Reads s tid b.toNat) / if 32 ≤ BitVec.toNat (Reads s tid a.toNat) / 2 ^ 58 then 32 else 4 * 2 ^ (BitVec.toNat (Reads s tid a.toNat) / 2 ^ 55 % 8)) * (1 + ((if 32 ≤ BitVec.toNat (Reads s tid a.toNat) / 2 ^ 58 then 32 else 4 * 2 ^ (BitVec.toNat (Reads s tid a.toNat) / 2 ^ 55 % 8)) * if BitVec.toNat (Reads s tid a.toNat) / 2 ^ 58 = 32 then 4 else if 32 ≤ BitVec.toNat (Reads s tid a.toNat) / 2 ^ 58 then 8 else BitVec.toNat (Reads s tid a.toNat) / 2 ^ 58 - 16) / 8)) % 2 ^ 52 + 1 + ((BitVec.toNat (Reads s tid b.toNat) % if 32 ≤ BitVec.toNat (Reads s tid a.toNat) / 2 ^ 58 then 32 else 4 * 2 ^ (BitVec.toNat (Reads s tid a.toNat) / 2 ^ 55 % 8)) * if BitVec.toNat (Reads s tid a.toNat) / 2 ^ 58 = 32 then 4 else if 32 ≤ BitVec.toNat (Reads s tid a.toNat) / 2 ^ 58 then 8 else BitVec.toNat (Reads s tid a.toNat) / 2 ^ 58 - 16) / 8) % 2 ^ 52) (((((BitVec.toNat (Reads s tid b.toNat) % if 32 ≤ BitVec.toNat (Reads s tid a.toNat) / 2 ^ 58 then 32 else 4 * 2 ^ (BitVec.toNat (Reads s tid a.toNat) / 2 ^ 55 % 8)) * if BitVec.toNat (Reads s tid a.toNat) / 2 ^ 58 = 32 then 4 else if 32 ≤ BitVec.toNat (Reads s tid a.toNat) / 2 ^ 58 then 8 else BitVec.toNat (Reads s tid a.toNat) / 2 ^ 58 - 16) % 8 + if BitVec.toNat (Reads s tid a.toNat) / 2 ^ 58 = 32 then 4 else if 32 ≤ BitVec.toNat (Reads s tid a.toNat) / 2 ^ 58 then 8 else BitVec.toNat (Reads s tid a.toNat) / 2 ^ 58 - 16) + 7) / 8) = Except.ok (bs,
      s2)) ∧ (v ≠ 255) ∧ (BitVec.toNat (Reads s tid a.toNat) / 2 ^ 58 = 32)) ∧
    (∃ (s : State) (s1 : State) (tid : Nat) (v : Nat) (d : BitVec 7) (a : BitVec 7) (b : BitVec 7) (s2 : State)
      (bs : List Byte), Issuing s tid ∧ (Names s tid [d.toNat, a.toNat, b.toNat]) ∧
      (BitVec.toNat (Reads s tid a.toNat) / 2 ^ 52 % 8 = 0) ∧ (18 ≤ BitVec.toNat (Reads s tid a.toNat) / 2 ^ 58 ∧
      BitVec.toNat (Reads s tid a.toNat) / 2 ^ 58 ≤ 24 ∨ 32 ≤ BitVec.toNat (Reads s tid a.toNat) / 2 ^ 58 ∧
      BitVec.toNat (Reads s tid a.toNat) / 2 ^ 58 ≤ 35 ∧ BitVec.toNat (Reads s tid a.toNat) / 2 ^ 55 % 8 = 3) ∧
      (loadVa s tid ((BitVec.toNat (Reads s tid a.toNat) + (BitVec.toNat (Reads s tid b.toNat) / if 32 ≤ BitVec.toNat (Reads s tid a.toNat) / 2 ^ 58 then 32 else 4 * 2 ^ (BitVec.toNat (Reads s tid a.toNat) / 2 ^ 55 % 8)) * (1 + ((if 32 ≤ BitVec.toNat (Reads s tid a.toNat) / 2 ^ 58 then 32 else 4 * 2 ^ (BitVec.toNat (Reads s tid a.toNat) / 2 ^ 55 % 8)) * if BitVec.toNat (Reads s tid a.toNat) / 2 ^ 58 = 32 then 4 else if 32 ≤ BitVec.toNat (Reads s tid a.toNat) / 2 ^ 58 then 8 else BitVec.toNat (Reads s tid a.toNat) / 2 ^ 58 - 16) / 8)) % 2 ^ 52) 1 = Except.ok (v,
      s1)) ∧
      (loadBytes s1 tid (((BitVec.toNat (Reads s tid a.toNat) + (BitVec.toNat (Reads s tid b.toNat) / if 32 ≤ BitVec.toNat (Reads s tid a.toNat) / 2 ^ 58 then 32 else 4 * 2 ^ (BitVec.toNat (Reads s tid a.toNat) / 2 ^ 55 % 8)) * (1 + ((if 32 ≤ BitVec.toNat (Reads s tid a.toNat) / 2 ^ 58 then 32 else 4 * 2 ^ (BitVec.toNat (Reads s tid a.toNat) / 2 ^ 55 % 8)) * if BitVec.toNat (Reads s tid a.toNat) / 2 ^ 58 = 32 then 4 else if 32 ≤ BitVec.toNat (Reads s tid a.toNat) / 2 ^ 58 then 8 else BitVec.toNat (Reads s tid a.toNat) / 2 ^ 58 - 16) / 8)) % 2 ^ 52 + 1 + ((BitVec.toNat (Reads s tid b.toNat) % if 32 ≤ BitVec.toNat (Reads s tid a.toNat) / 2 ^ 58 then 32 else 4 * 2 ^ (BitVec.toNat (Reads s tid a.toNat) / 2 ^ 55 % 8)) * if BitVec.toNat (Reads s tid a.toNat) / 2 ^ 58 = 32 then 4 else if 32 ≤ BitVec.toNat (Reads s tid a.toNat) / 2 ^ 58 then 8 else BitVec.toNat (Reads s tid a.toNat) / 2 ^ 58 - 16) / 8) % 2 ^ 52) (((((BitVec.toNat (Reads s tid b.toNat) % if 32 ≤ BitVec.toNat (Reads s tid a.toNat) / 2 ^ 58 then 32 else 4 * 2 ^ (BitVec.toNat (Reads s tid a.toNat) / 2 ^ 55 % 8)) * if BitVec.toNat (Reads s tid a.toNat) / 2 ^ 58 = 32 then 4 else if 32 ≤ BitVec.toNat (Reads s tid a.toNat) / 2 ^ 58 then 8 else BitVec.toNat (Reads s tid a.toNat) / 2 ^ 58 - 16) % 8 + if BitVec.toNat (Reads s tid a.toNat) / 2 ^ 58 = 32 then 4 else if 32 ≤ BitVec.toNat (Reads s tid a.toNat) / 2 ^ 58 then 8 else BitVec.toNat (Reads s tid a.toNat) / 2 ^ 58 - 16) + 7) / 8) = Except.ok (bs,
      s2)) ∧ (v ≠ 255) ∧ (BitVec.toNat (Reads s tid a.toNat) / 2 ^ 58 = 33)) := by
  refine ⟨?_, ?_, ?_, ?_⟩
  · exact ⟨((ptr 1)), _, 0, 3, 14, 125, issuing_of (by decide +kernel), names_of (by decide +kernel), by decide +kernel,
      by decide +kernel, rfl⟩
  · exact ⟨((scl 20 1)), (dropEarly (scl 20 1) 0), 0, _, 5, 14, 125, _, _, issuing_of (by decide +kernel),
      names_of (by decide +kernel), by decide +kernel, by decide +kernel, ok_pair (by decide +kernel),
      ok_pair (by decide +kernel), by decide +kernel⟩
  · exact ⟨((scl 32 3)), (dropEarly (scl 32 3) 0), 0, _, 5, 14, 125, _, _, issuing_of (by decide +kernel),
      names_of (by decide +kernel), by decide +kernel, by decide +kernel, ok_pair (by decide +kernel),
      ok_pair (by decide +kernel), by decide +kernel⟩
  · exact ⟨((scl 33 3)), (dropEarly (scl 33 3) 0), 0, _, 5, 14, 125, _, _, issuing_of (by decide +kernel),
      names_of (by decide +kernel), by decide +kernel, by decide +kernel, ok_pair (by decide +kernel),
      ok_pair (by decide +kernel), by decide +kernel⟩

theorem witness_TypedAccess_4 :
    (∃ (s : State) (s1 : State) (tid : Nat) (v : Nat) (d : BitVec 7) (a : BitVec 7) (b : BitVec 7) (s2 : State)
      (bs : List Byte), Issuing s tid ∧ (Names s tid [d.toNat, a.toNat, b.toNat]) ∧
      (BitVec.toNat (Reads s tid a.toNat) / 2 ^ 52 % 8 = 0) ∧ (18 ≤ BitVec.toNat (Reads s tid a.toNat) / 2 ^ 58 ∧
      BitVec.toNat (Reads s tid a.toNat) / 2 ^ 58 ≤ 24 ∨ 32 ≤ BitVec.toNat (Reads s tid a.toNat) / 2 ^ 58 ∧
      BitVec.toNat (Reads s tid a.toNat) / 2 ^ 58 ≤ 35 ∧ BitVec.toNat (Reads s tid a.toNat) / 2 ^ 55 % 8 = 3) ∧
      (loadVa s tid ((BitVec.toNat (Reads s tid a.toNat) + (BitVec.toNat (Reads s tid b.toNat) / if 32 ≤ BitVec.toNat (Reads s tid a.toNat) / 2 ^ 58 then 32 else 4 * 2 ^ (BitVec.toNat (Reads s tid a.toNat) / 2 ^ 55 % 8)) * (1 + ((if 32 ≤ BitVec.toNat (Reads s tid a.toNat) / 2 ^ 58 then 32 else 4 * 2 ^ (BitVec.toNat (Reads s tid a.toNat) / 2 ^ 55 % 8)) * if BitVec.toNat (Reads s tid a.toNat) / 2 ^ 58 = 32 then 4 else if 32 ≤ BitVec.toNat (Reads s tid a.toNat) / 2 ^ 58 then 8 else BitVec.toNat (Reads s tid a.toNat) / 2 ^ 58 - 16) / 8)) % 2 ^ 52) 1 = Except.ok (v,
      s1)) ∧
      (loadBytes s1 tid (((BitVec.toNat (Reads s tid a.toNat) + (BitVec.toNat (Reads s tid b.toNat) / if 32 ≤ BitVec.toNat (Reads s tid a.toNat) / 2 ^ 58 then 32 else 4 * 2 ^ (BitVec.toNat (Reads s tid a.toNat) / 2 ^ 55 % 8)) * (1 + ((if 32 ≤ BitVec.toNat (Reads s tid a.toNat) / 2 ^ 58 then 32 else 4 * 2 ^ (BitVec.toNat (Reads s tid a.toNat) / 2 ^ 55 % 8)) * if BitVec.toNat (Reads s tid a.toNat) / 2 ^ 58 = 32 then 4 else if 32 ≤ BitVec.toNat (Reads s tid a.toNat) / 2 ^ 58 then 8 else BitVec.toNat (Reads s tid a.toNat) / 2 ^ 58 - 16) / 8)) % 2 ^ 52 + 1 + ((BitVec.toNat (Reads s tid b.toNat) % if 32 ≤ BitVec.toNat (Reads s tid a.toNat) / 2 ^ 58 then 32 else 4 * 2 ^ (BitVec.toNat (Reads s tid a.toNat) / 2 ^ 55 % 8)) * if BitVec.toNat (Reads s tid a.toNat) / 2 ^ 58 = 32 then 4 else if 32 ≤ BitVec.toNat (Reads s tid a.toNat) / 2 ^ 58 then 8 else BitVec.toNat (Reads s tid a.toNat) / 2 ^ 58 - 16) / 8) % 2 ^ 52) (((((BitVec.toNat (Reads s tid b.toNat) % if 32 ≤ BitVec.toNat (Reads s tid a.toNat) / 2 ^ 58 then 32 else 4 * 2 ^ (BitVec.toNat (Reads s tid a.toNat) / 2 ^ 55 % 8)) * if BitVec.toNat (Reads s tid a.toNat) / 2 ^ 58 = 32 then 4 else if 32 ≤ BitVec.toNat (Reads s tid a.toNat) / 2 ^ 58 then 8 else BitVec.toNat (Reads s tid a.toNat) / 2 ^ 58 - 16) % 8 + if BitVec.toNat (Reads s tid a.toNat) / 2 ^ 58 = 32 then 4 else if 32 ≤ BitVec.toNat (Reads s tid a.toNat) / 2 ^ 58 then 8 else BitVec.toNat (Reads s tid a.toNat) / 2 ^ 58 - 16) + 7) / 8) = Except.ok (bs,
      s2)) ∧ (v ≠ 255) ∧ (BitVec.toNat (Reads s tid a.toNat) / 2 ^ 58 = 34)) ∧
    (∃ (s : State) (s1 : State) (tid : Nat) (v : Nat) (d : BitVec 7) (a : BitVec 7) (b : BitVec 7) (s2 : State)
      (bs : List Byte), Issuing s tid ∧ (Names s tid [d.toNat, a.toNat, b.toNat]) ∧
      (BitVec.toNat (Reads s tid a.toNat) / 2 ^ 52 % 8 = 0) ∧ (18 ≤ BitVec.toNat (Reads s tid a.toNat) / 2 ^ 58 ∧
      BitVec.toNat (Reads s tid a.toNat) / 2 ^ 58 ≤ 24 ∨ 32 ≤ BitVec.toNat (Reads s tid a.toNat) / 2 ^ 58 ∧
      BitVec.toNat (Reads s tid a.toNat) / 2 ^ 58 ≤ 35 ∧ BitVec.toNat (Reads s tid a.toNat) / 2 ^ 55 % 8 = 3) ∧
      (loadVa s tid ((BitVec.toNat (Reads s tid a.toNat) + (BitVec.toNat (Reads s tid b.toNat) / if 32 ≤ BitVec.toNat (Reads s tid a.toNat) / 2 ^ 58 then 32 else 4 * 2 ^ (BitVec.toNat (Reads s tid a.toNat) / 2 ^ 55 % 8)) * (1 + ((if 32 ≤ BitVec.toNat (Reads s tid a.toNat) / 2 ^ 58 then 32 else 4 * 2 ^ (BitVec.toNat (Reads s tid a.toNat) / 2 ^ 55 % 8)) * if BitVec.toNat (Reads s tid a.toNat) / 2 ^ 58 = 32 then 4 else if 32 ≤ BitVec.toNat (Reads s tid a.toNat) / 2 ^ 58 then 8 else BitVec.toNat (Reads s tid a.toNat) / 2 ^ 58 - 16) / 8)) % 2 ^ 52) 1 = Except.ok (v,
      s1)) ∧
      (loadBytes s1 tid (((BitVec.toNat (Reads s tid a.toNat) + (BitVec.toNat (Reads s tid b.toNat) / if 32 ≤ BitVec.toNat (Reads s tid a.toNat) / 2 ^ 58 then 32 else 4 * 2 ^ (BitVec.toNat (Reads s tid a.toNat) / 2 ^ 55 % 8)) * (1 + ((if 32 ≤ BitVec.toNat (Reads s tid a.toNat) / 2 ^ 58 then 32 else 4 * 2 ^ (BitVec.toNat (Reads s tid a.toNat) / 2 ^ 55 % 8)) * if BitVec.toNat (Reads s tid a.toNat) / 2 ^ 58 = 32 then 4 else if 32 ≤ BitVec.toNat (Reads s tid a.toNat) / 2 ^ 58 then 8 else BitVec.toNat (Reads s tid a.toNat) / 2 ^ 58 - 16) / 8)) % 2 ^ 52 + 1 + ((BitVec.toNat (Reads s tid b.toNat) % if 32 ≤ BitVec.toNat (Reads s tid a.toNat) / 2 ^ 58 then 32 else 4 * 2 ^ (BitVec.toNat (Reads s tid a.toNat) / 2 ^ 55 % 8)) * if BitVec.toNat (Reads s tid a.toNat) / 2 ^ 58 = 32 then 4 else if 32 ≤ BitVec.toNat (Reads s tid a.toNat) / 2 ^ 58 then 8 else BitVec.toNat (Reads s tid a.toNat) / 2 ^ 58 - 16) / 8) % 2 ^ 52) (((((BitVec.toNat (Reads s tid b.toNat) % if 32 ≤ BitVec.toNat (Reads s tid a.toNat) / 2 ^ 58 then 32 else 4 * 2 ^ (BitVec.toNat (Reads s tid a.toNat) / 2 ^ 55 % 8)) * if BitVec.toNat (Reads s tid a.toNat) / 2 ^ 58 = 32 then 4 else if 32 ≤ BitVec.toNat (Reads s tid a.toNat) / 2 ^ 58 then 8 else BitVec.toNat (Reads s tid a.toNat) / 2 ^ 58 - 16) % 8 + if BitVec.toNat (Reads s tid a.toNat) / 2 ^ 58 = 32 then 4 else if 32 ≤ BitVec.toNat (Reads s tid a.toNat) / 2 ^ 58 then 8 else BitVec.toNat (Reads s tid a.toNat) / 2 ^ 58 - 16) + 7) / 8) = Except.ok (bs,
      s2)) ∧ (v ≠ 255) ∧ (BitVec.toNat (Reads s tid a.toNat) / 2 ^ 58 = 35)) ∧
    (∃ (s : State) (s1 : State) (tid : Nat) (v : Nat) (d : BitVec 7) (a : BitVec 7) (b : BitVec 7) (s2 : State)
      (bs : List Byte), Issuing s tid ∧ (Names s tid [d.toNat, a.toNat, b.toNat]) ∧
      (BitVec.toNat (Reads s tid a.toNat) / 2 ^ 52 % 8 = 0) ∧ (18 ≤ BitVec.toNat (Reads s tid a.toNat) / 2 ^ 58 ∧
      BitVec.toNat (Reads s tid a.toNat) / 2 ^ 58 ≤ 24 ∨ 32 ≤ BitVec.toNat (Reads s tid a.toNat) / 2 ^ 58 ∧
      BitVec.toNat (Reads s tid a.toNat) / 2 ^ 58 ≤ 35 ∧ BitVec.toNat (Reads s tid a.toNat) / 2 ^ 55 % 8 = 3) ∧
      (loadVa s tid ((BitVec.toNat (Reads s tid a.toNat) + (BitVec.toNat (Reads s tid b.toNat) / if 32 ≤ BitVec.toNat (Reads s tid a.toNat) / 2 ^ 58 then 32 else 4 * 2 ^ (BitVec.toNat (Reads s tid a.toNat) / 2 ^ 55 % 8)) * (1 + ((if 32 ≤ BitVec.toNat (Reads s tid a.toNat) / 2 ^ 58 then 32 else 4 * 2 ^ (BitVec.toNat (Reads s tid a.toNat) / 2 ^ 55 % 8)) * if BitVec.toNat (Reads s tid a.toNat) / 2 ^ 58 = 32 then 4 else if 32 ≤ BitVec.toNat (Reads s tid a.toNat) / 2 ^ 58 then 8 else BitVec.toNat (Reads s tid a.toNat) / 2 ^ 58 - 16) / 8)) % 2 ^ 52) 1 = Except.ok (v,
      s1)) ∧
      (loadBytes s1 tid (((BitVec.toNat (Reads s tid a.toNat) + (BitVec.toNat (Reads s tid b.toNat) / if 32 ≤ BitVec.toNat (Reads s tid a.toNat) / 2 ^ 58 then 32 else 4 * 2 ^ (BitVec.toNat (Reads s tid a.toNat) / 2 ^ 55 % 8)) * (1 + ((if 32 ≤ BitVec.toNat (Reads s tid a.toNat) / 2 ^ 58 then 32 else 4 * 2 ^ (BitVec.toNat (Reads s tid a.toNat) / 2 ^ 55 % 8)) * if BitVec.toNat (Reads s tid a.toNat) / 2 ^ 58 = 32 then 4 else if 32 ≤ BitVec.toNat (Reads s tid a.toNat) / 2 ^ 58 then 8 else BitVec.toNat (Reads s tid a.toNat) / 2 ^ 58 - 16) / 8)) % 2 ^ 52 + 1 + ((BitVec.toNat (Reads s tid b.toNat) % if 32 ≤ BitVec.toNat (Reads s tid a.toNat) / 2 ^ 58 then 32 else 4 * 2 ^ (BitVec.toNat (Reads s tid a.toNat) / 2 ^ 55 % 8)) * if BitVec.toNat (Reads s tid a.toNat) / 2 ^ 58 = 32 then 4 else if 32 ≤ BitVec.toNat (Reads s tid a.toNat) / 2 ^ 58 then 8 else BitVec.toNat (Reads s tid a.toNat) / 2 ^ 58 - 16) / 8) % 2 ^ 52) (((((BitVec.toNat (Reads s tid b.toNat) % if 32 ≤ BitVec.toNat (Reads s tid a.toNat) / 2 ^ 58 then 32 else 4 * 2 ^ (BitVec.toNat (Reads s tid a.toNat) / 2 ^ 55 % 8)) * if BitVec.toNat (Reads s tid a.toNat) / 2 ^ 58 = 32 then 4 else if 32 ≤ BitVec.toNat (Reads s tid a.toNat) / 2 ^ 58 then 8 else BitVec.toNat (Reads s tid a.toNat) / 2 ^ 58 - 16) % 8 + if BitVec.toNat (Reads s tid a.toNat) / 2 ^ 58 = 32 then 4 else if 32 ≤ BitVec.toNat (Reads s tid a.toNat) / 2 ^ 58 then 8 else BitVec.toNat (Reads s tid a.toNat) / 2 ^ 58 - 16) + 7) / 8) = Except.ok (bs,
      s2)) ∧ (v = 255)) ∧
    (∃ (s : State) (s1 : State) (tid : Nat) (d : BitVec 7) (a : BitVec 7) (b : BitVec 7) (s2 : State) (s3 : State)
      (pl : Place) (old : Byte), Issuing s tid ∧ (Names s tid [d.toNat, a.toNat, b.toNat]) ∧
      (BitVec.toNat (Reads s tid a.toNat) / 2 ^ 52 % 8 = 0) ∧ (BitVec.toNat (Reads s tid a.toNat) / 2 ^ 58 = 2) ∧
      (placeOf ((fun n => if (fun n => max (-n) (min (n - 1) (BitVec.toInt (Reads s tid d.toNat)))) n = BitVec.toInt (Reads s tid d.toNat) then s else s.flag tid OF) 8) tid (elemAddr (Reads s tid a.toNat) (BitVec.toNat (Reads s tid a.toNat) / 2 ^ 58) (BitVec.toNat (Reads s tid b.toNat))) 1 Acc.rw = Except.ok (pl,
      s1)) ∧
      (loadPlace s1 tid pl (elemAddr (Reads s tid a.toNat) (BitVec.toNat (Reads s tid a.toNat) / 2 ^ 58) (BitVec.toNat (Reads s tid b.toNat))) 1 = Except.ok ([old],
      s2)) ∧
      (storePlace s2 tid pl (elemAddr (Reads s tid a.toNat) (BitVec.toNat (Reads s tid a.toNat) / 2 ^ 58) (BitVec.toNat (Reads s tid b.toNat))) [if BitVec.toNat (Reads s tid b.toNat) % 2 = 0 then BitVec.extractLsb' 4 4 old ++ BitVec.ofInt 4 ((fun n => max (-n) (min (n - 1) (BitVec.toInt (Reads s tid d.toNat)))) 8) else BitVec.ofInt 4 ((fun n => max (-n) (min (n - 1) (BitVec.toInt (Reads s tid d.toNat)))) 8) ++ BitVec.extractLsb' 0 4 old] = Except.ok s3)) := by
  refine ⟨?_, ?_, ?_, ?_⟩
  · exact ⟨((scl 34 3)), (dropEarly (scl 34 3) 0), 0, _, 5, 14, 125, _, _, issuing_of (by decide +kernel),
      names_of (by decide +kernel), by decide +kernel, by decide +kernel, ok_pair (by decide +kernel),
      ok_pair (by decide +kernel), by decide +kernel⟩
  · exact ⟨((scl 35 3)), (dropEarly (scl 35 3) 0), 0, _, 5, 14, 125, _, _, issuing_of (by decide +kernel),
      names_of (by decide +kernel), by decide +kernel, by decide +kernel, ok_pair (by decide +kernel),
      ok_pair (by decide +kernel), by decide +kernel⟩
  · exact ⟨((noScale 35 3)), (dropEarly (noScale 35 3) 0), 0, _, 5, 14, 125, _, _, issuing_of (by decide +kernel),
      names_of (by decide +kernel), by decide +kernel, by decide +kernel, ok_pair (by decide +kernel),
      ok_pair (by decide +kernel), by decide +kernel⟩
  · exact ⟨((a14 (BitVec.ofNat 64 (2 * 2^58 + 0xFFE0000000080)) 0)),
      ((fun n => if (fun n => max (-n) (min (n - 1) (BitVec.toInt (Reads (a14 (BitVec.ofNat 64 (2 * 2 ^ 58 + 4501400604115072)) 0) 0 (5))))) n = BitVec.toInt (Reads (a14 (BitVec.ofNat 64 (2 * 2 ^ 58 + 4501400604115072)) 0) 0 (5)) then a14 (BitVec.ofNat 64 (2 * 2 ^ 58 + 4501400604115072)) 0 else (a14 (BitVec.ofNat 64 (2 * 2 ^ 58 + 4501400604115072)) 0).flag 0 OF) 8),
      0, 5, 14, 125,
      (dropEarly ((fun n => if (fun n => max (-n) (min (n - 1) (BitVec.toInt (Reads (a14 (BitVec.ofNat 64 (2 * 2 ^ 58 + 4501400604115072)) 0) 0 (5))))) n = BitVec.toInt (Reads (a14 (BitVec.ofNat 64 (2 * 2 ^ 58 + 4501400604115072)) 0) 0 (5)) then a14 (BitVec.ofNat 64 (2 * 2 ^ 58 + 4501400604115072)) 0 else (a14 (BitVec.ofNat 64 (2 * 2 ^ 58 + 4501400604115072)) 0).flag 0 OF) 8) 0),
      _, _, _, issuing_of (by decide +kernel), names_of (by decide +kernel), by decide +kernel, by decide +kernel, rfl, rfl,
      rfl⟩

theorem witness_TypedAccess_5 :
    (∃ (s : State) (s1 : State) (tid : Nat) (d : BitVec 7) (a : BitVec 7) (b : BitVec 7), Issuing s tid ∧
      (Names s tid [d.toNat, a.toNat, b.toNat]) ∧ (BitVec.toNat (Reads s tid a.toNat) / 2 ^ 52 % 8 = 0) ∧
      (3 ≤ BitVec.toNat (Reads s tid a.toNat) / 2 ^ 58) ∧ (BitVec.toNat (Reads s tid a.toNat) / 2 ^ 58 ≤ 7) ∧
      (elemAddr (Reads s tid a.toNat) (BitVec.toNat (Reads s tid a.toNat) / 2 ^ 58) (BitVec.toNat (Reads s tid b.toNat)) % elemSize (BitVec.toNat (Reads s tid a.toNat) / 2 ^ 58) = 0) ∧
      (storeVa ((if (s.task tid).r.frm.toNat = 5 then (srStep s tid).2 else s).flag tid (fround (codeFmt (BitVec.toNat (Reads s tid a.toNat) / 2 ^ 58)) (fval FP64 (BitVec.toNat (Reads s tid d.toNat))) (s.task tid).r.frm.toNat (if (s.task tid).r.frm.toNat = 5 then (srStep s tid).1 else 0)).2) tid (elemAddr (Reads s tid a.toNat) (BitVec.toNat (Reads s tid a.toNat) / 2 ^ 58) (BitVec.toNat (Reads s tid b.toNat))) (toBytes (elemSize (BitVec.toNat (Reads s tid a.toNat) / 2 ^ 58)) (fround (codeFmt (BitVec.toNat (Reads s tid a.toNat) / 2 ^ 58)) (fval FP64 (BitVec.toNat (Reads s tid d.toNat))) (s.task tid).r.frm.toNat (if (s.task tid).r.frm.toNat = 5 then (srStep s tid).1 else 0)).1) = Except.ok s1)) ∧
    (∃ (s : State) (s1 : State) (tid : Nat) (d : BitVec 7) (a : BitVec 7) (b : BitVec 7), Issuing s tid ∧
      (Names s tid [d.toNat, a.toNat, b.toNat]) ∧ (BitVec.toNat (Reads s tid a.toNat) / 2 ^ 52 % 8 = 0) ∧
      (BitVec.toNat (Reads s tid a.toNat) / 2 ^ 58 = 8) ∧
      (elemAddr (Reads s tid a.toNat) (BitVec.toNat (Reads s tid a.toNat) / 2 ^ 58) (BitVec.toNat (Reads s tid b.toNat)) % 8 = 0) ∧
      (storeVa (if (fval FP64 (BitVec.toNat (Reads s tid d.toNat))).isSNan = true then s.flag tid NV else s) tid (elemAddr (Reads s tid a.toNat) (BitVec.toNat (Reads s tid a.toNat) / 2 ^ 58) (BitVec.toNat (Reads s tid b.toNat))) (toBytes 8 (if (fval FP64 (BitVec.toNat (Reads s tid d.toNat))).isNan = true then 9221120237041090560 else BitVec.toNat (Reads s tid d.toNat))) = Except.ok s1)) ∧
    (∃ (s : State) (tid : Nat) (d : BitVec 7) (a : BitVec 7) (b : BitVec 7), Issuing s tid ∧ (Names s tid [d.toNat, a.toNat,
      b.toNat]) ∧ (BitVec.toNat (Reads s tid a.toNat) / 2 ^ 52 % 8 = 0) ∧ (18 ≤ BitVec.toNat (Reads s tid a.toNat) / 2 ^ 58 ∧
      BitVec.toNat (Reads s tid a.toNat) / 2 ^ 58 ≤ 24 ∨ 32 ≤ BitVec.toNat (Reads s tid a.toNat) / 2 ^ 58 ∧
      BitVec.toNat (Reads s tid a.toNat) / 2 ^ 58 ≤ 35 ∧ BitVec.toNat (Reads s tid a.toNat) / 2 ^ 55 % 8 = 3)) := by
  refine ⟨?_, ?_, ?_⟩
  · exact ⟨((ptr 3)), _, 0, 6, 14, 125, issuing_of (by decide +kernel), names_of (by decide +kernel),
      and4 (by decide +kernel) (ok_one (by decide +kernel))⟩
  · exact ⟨((ptr 8)), _, 0, 7, 14, 125, issuing_of (by decide +kernel), names_of (by decide +kernel),
      and3 (by decide +kernel) (ok_one (by decide +kernel))⟩
  · exact ⟨((scl 20 1)), 0, 6, 14, 125, issuing_of (by decide +kernel), names_of (by decide +kernel), by decide +kernel⟩

theorem witness_TransposesAndSwaps_5 :
    (∃ (s : State) (s0 : State) (s1 : State) (tid : Nat) (d : BitVec 7) (a : BitVec 7) (b : BitVec 7) (rows : List Nat),
      Issuing s tid ∧ (Names s tid [a.toNat, b.toNat]) ∧ (d.toNat < 120) ∧ (∀ i < 8, Ready s tid (d.toNat + i)) ∧
      (d.toNat + 8 / 1 - 1 ≤ (s.task tid).limit) ∧
      (tldtCheck (addrAdd (Reads s tid a.toNat) 0) (Reads s tid b.toNat) (8 / 1) = Except.ok ()) ∧
      (tldtPlaces s tid (addrAdd (Reads s tid a.toNat) 0) (Reads s tid b.toNat) (8 / 1) = Except.ok s0) ∧
      (tldtRows s0 tid (addrAdd (Reads s tid a.toNat) 0) (Reads s tid b.toNat) (8 / 1) = Except.ok (rows, s1))) ∧
    (∃ (s : State) (s0 : State) (s1 : State) (tid : Nat) (d : BitVec 7) (a : BitVec 7) (b : BitVec 7) (k : BitVec 2)
      (o : BitVec 16) (rows : List Nat), Issuing s tid ∧ (Names s tid [a.toNat, b.toNat]) ∧ (d.toNat < 120) ∧ (∀ i < 8,
      Ready s tid (d.toNat + i)) ∧ (d.toNat + 8 / 2 ^ k.toNat - 1 ≤ (s.task tid).limit) ∧
      (tldtCheck (addrAdd (Reads s tid a.toNat) (BitVec.signExtend 64 o)) (Reads s tid b.toNat) (8 / 2 ^ k.toNat) = Except.ok ()) ∧
      (tldtPlaces s tid (addrAdd (Reads s tid a.toNat) (BitVec.signExtend 64 o)) (Reads s tid b.toNat) (8 / 2 ^ k.toNat) = Except.ok s0) ∧
      (tldtRows s0 tid (addrAdd (Reads s tid a.toNat) (BitVec.signExtend 64 o)) (Reads s tid b.toNat) (8 / 2 ^ k.toNat) = Except.ok (rows,
      s1))) ∧
    (∃ (s : State) (s2 : State) (tid : Nat) (d : BitVec 7) (a : BitVec 7) (b : BitVec 7) (h : Word), Issuing s tid ∧
      (Names s tid [d.toNat, a.toNat, b.toNat]) ∧ (swOk (Reads s tid b.toNat) (Reads s tid a.toNat) = true) ∧
      (BitVec.toNat (Reads s tid a.toNat) + swSpan (Reads s tid b.toNat) ≤ (Option.map Part.size (partOf (s.core (s.task tid).core) (s.task tid).ctx)).getD 0) ∧
      (mirrorOf (s.task tid).core = (s.task tid).core ∨ (s.core (s.task tid).core).swaps.length < 4) ∧
      (mirrorOf (s.task tid).core = (s.task tid).core → swTr (Reads s tid b.toNat) = true → portRefuses s (s.task tid).core 4 (min (2 ^ (swCols (Reads s tid b.toNat) * swEw (Reads s tid b.toNat)).log2) 128) (s.task tid).core (BitVec.toNat (Reads s tid a.toNat)) = false) ∧
      (allocFut s ((s.task tid).core / 8) (s.task tid).ctx (s.task tid).launch Machine.Prod.swap = Alloc.got h s2) ∧
      (relReady s2 tid 3 = true) ∧ (mirrorOf (s.task tid).core ≠ (s.task tid).core) ∧
      ((s2.core (mirrorOf (s.task tid).core)).dead = true)) := by
  refine ⟨?_, ?_, ?_⟩
  · exact ⟨st, _, _, 0, 5, 10, 125, _, issuing_of (by decide +kernel), names_of (by decide +kernel), by decide +kernel,
      by unfold Ready; decide +kernel, by decide +kernel, rfl, ok_one (by decide +kernel), ok_pair (by decide +kernel)⟩
  · exact ⟨st, _, _, 0, 5, 10, 125, 0, 0, _, issuing_of (by decide +kernel), names_of (by decide +kernel), by decide +kernel,
      by unfold Ready; decide +kernel, by decide +kernel, rfl, ok_one (by decide +kernel), ok_pair (by decide +kernel)⟩
  · exact ⟨((tw 0 0x100101 (k1 { core0 with dead := true }))), _, 0, 5, 14, 15, _, issuing_of (by decide +kernel),
      names_of (by decide +kernel), and4 (by decide +kernel) ⟨rfl, by decide +kernel⟩⟩

theorem witness_Pairs_3 : ∃ (s : State) (tid : Nat) (u : Turn) (p : Pair) (d : BitVec 7) (a : BitVec 7) (b : BitVec 7), (s.turn = some u) ∧
    (u.tid = tid) ∧ ((s.task tid).pair = some p) ∧ (p.leader = true) ∧ ((s.task tid).shadow = false) ∧ (p.closed = false) ∧
    (p.retired < 256) ∧ (p.held.length < 64) ∧ ((s.task tid).handler = false) ∧ (Names s tid [d.toNat, a.toNat, b.toNat]) ∧
    (d.toNat < 120) ∧ (p.agreed = true) := by
  exact ⟨((pps pp)), 0, ({ tid := 0, insn := 0x1234, len := 4 }), pp, 5, 3, 4,
    and5 (by decide +kernel) (and4 (by decide +kernel) ⟨names_of (by decide +kernel), by decide +kernel⟩)⟩

theorem witness_SchedulingEvents_6 : ∃ (s : State) (cl : Nat) (w : Wake) (rest : List Wake), ((s.cluster cl).wakes = w :: rest) ∧
    (clusterMoving s cl = true ∨ s.cycle < (s.cluster cl).wakeAt) := by
  exact ⟨wks, 0, wk, ([]), by decide +kernel⟩

theorem witness_LaunchEnds_2 :
    (∃ (s : State) (l : Nat) (x : Launch), (launchOf s l = some x) ∧ (recMode s (some l) = 2) ∧ (x.st = LState.running) ∧
      (x.strayed = none) ∧ (stalledTask s l x true = none) ∧ (replayPaused s x = false) ∧ (recOpen s 0 x = true) ∧
      (stalledTask s l x false = none) ∧ (stalledUnit s l x = none)) ∧
    (∃ (s : State) (l : Nat) (x : Launch), (launchOf s l = some x) ∧ (s.hub.restart = true)) ∧
    (∃ (s : State) (l : Nat) (x : Launch), (launchOf s l = some x) ∧ (recMode s (some l) = 2) ∧ (x.st = LState.running) ∧
      (x.strayed = none) ∧ (stalledTask s l x true = none) ∧ (replayPaused s x = true)) ∧
    (∃ (s : State) (l : Nat) (x : Launch) (e : Nat × Nat × Word × Nat), (launchOf s l = some x) ∧ (recMode s (some l) = 2) ∧
      (x.st = LState.running) ∧ (x.strayed = some e)) ∧
    (∃ (s : State) (l : Nat) (x : Launch) (e : Nat × Nat × Word × Nat), (launchOf s l = some x) ∧ (recMode s (some l) = 2) ∧
      (x.st = LState.running) ∧ (x.strayed = none) ∧ (stalledTask s l x true = none) ∧ (replayPaused s x = false) ∧
      (recOpen s 0 x = true) ∧ (stalledTask s l x false = none) ∧ (stalledUnit s l x = some e)) := by
  refine ⟨?_, ?_, ?_, ?_, ?_⟩
  · exact ⟨((lst repl 5 one)), 3, repl, by decide +kernel⟩
  · exact ⟨({ lst repl 5 one with hub := { restart := true } }), 3, repl, by decide +kernel⟩
  · exact ⟨({ lst repl 5 one with hub := { restart := true } }), 3, repl, by decide +kernel⟩
  · exact ⟨((lst { repl with strayed := some (1, 0, 0, 2) } 5 one)), 3, ({ repl with strayed := some (1, 0, 0, 2) }), ((1, 0, 0,
      2)), by decide +kernel⟩
  · exact ⟨((lst repl 100000000 one)), 3, repl, _, and5 (by decide +kernel) (and3 (by decide +kernel) (rfl))⟩

theorem witness_CoherenceEvents_4 :
    (∃ (s : State) (i : Nat) (l : Nat) (agent : Nat) (k : Req) (a : Nat) (lf : Nat),
      (s.coh.msgs[i]? = some (Coh.request k l agent a)) ∧ (censusDue s = false) ∧ (homeNeeds s k l agent = none) ∧
      (frameWaits s l = some lf) ∧ (s.coh.msgs[i]? = some (Coh.request k l agent a))) ∧
    (∃ (s : State) (i : Nat) (l : Nat) (agent : Nat) (k : Req) (a : Nat) (lf : Nat),
      (s.coh.msgs[i]? = some (Coh.persist k l agent a)) ∧ (censusDue s = false) ∧ (homeNeeds s k l agent = none) ∧
      (frameWaits s l = some lf) ∧ (s.coh.msgs[i]? = some (Coh.persist k l agent a))) ∧
    (∃ (s : State) (l : Nat), (toFrame s l = true)) ∧
    (∃ (s : State) (i : Nat) (o : Out), (s.coh.outs[i]? = some o) ∧ (Out.met s o = true)) ∧
    (∃ (s : State) (i : Nat) (l : Nat) (agent : Nat) (k : Req), (s.coh.msgs[i]? = some (Coh.doneMsg k l agent)) ∧
      (List.find? (fun p => p.line == l && p.agent == agent && p.kind == k) s.coh.persist = none)) ∧
    (∃ (s : State) (i : Nat) (l : Nat) (agent : Nat) (k : Req) (p : Persist),
      (s.coh.msgs[i]? = some (Coh.doneMsg k l agent)) ∧
      (List.find? (fun p => p.line == l && p.agent == agent && p.kind == k) s.coh.persist = some p)) := by
  refine ⟨?_, ?_, ?_, ?_, ?_, ?_⟩
  · exact ⟨((fr [.request .gets ul 1 0] ubp)), 0, ul, 1, .gets, 0,
      (lineOf 131072 + ((fun x => x.2) (ubName (128 * ul) / 2 ^ (16 - 16) * 2 ^ (16 - 16), ubp)).index ul), by decide +kernel⟩
  · exact ⟨((fr [.persist .getx ul 1 0] ubp)), 0, ul, 1, .getx, 0,
      (lineOf 131072 + ((fun x => x.2) (ubName (128 * ul) / 2 ^ (16 - 16) * 2 ^ (16 - 16), ubp)).index ul), by decide +kernel⟩
  · exact ⟨((fr [] { ubp with resting := [(0, 0)] })), ul, by decide +kernel⟩
  · exact ⟨({ co [] with coh := { (co []).coh with outs := [{ kind := .gets, line := 1024, agent := 0, attempt := 1, sentAt := 5, age := 0 }] } }),
      0, ({ kind := Req.gets, line := 1024, agent := 0, attempt := 1, sentAt := 5, age := 0 }), by decide +kernel⟩
  · exact ⟨((co [.doneMsg .getx 1024 1])), 0, 1024, 1, .getx, by decide +kernel⟩
  · exact ⟨({ co [.doneMsg .getx 1024 1] with coh := { (co [.doneMsg .getx 1024 1]).coh with persist := [{ kind := .getx, line := 1024, agent := 1, age := 0, ident := 7, active := true }] } }),
      0, 1024, 1, .getx, ({ kind := Req.getx, line := 1024, agent := 1, age := 0, ident := 7, active := true }),
      by decide +kernel⟩

theorem witness_ErrorEvents_3 :
    (∃ (s : State) (k : Nat), (k < 7168) ∧
      ((s.core k).stopped = true ∨ (s.core k).dead = true ∨ (s.core k).missing = true ∨ (s.core k).failing = true ∨ s.cycle < (s.core k).beatAt + 4096)) ∧
    (∃ (s : State) (k : Nat), (k < 7168) ∧ ((s.core k).dead = true)) ∧
    (∃ (s : State), (s.hub.restart = true) ∧ (resetInProgress s = true ∨ s.mgmt.powered = false)) := by
  refine ⟨?_, ?_, ?_⟩
  · exact ⟨((ks fun c => { c with dead := true })), 0, by decide +kernel⟩
  · exact ⟨((ks fun c => { c with dead := true })), 0, by decide +kernel⟩
  · exact ⟨({ ks id with hub := { restart := true }, mgmt := { powered := false } }), by decide +kernel⟩

theorem witness_RetirementEvents_3 :
    (∃ (s : State) (d : Nat), (d < 8) ∧ ((s.die d).down = false) ∧ (isLost s d = false) ∧ ((s.die d).resetting = true) ∧
      (dieDrained s d = false)) ∧
    (∃ (s : State) (d : Nat), (d < 8) ∧ ((s.die d).down = false) ∧ (isLost s d = true ∨ (s.die d).resetting = true ∧
      dieDrained s d = true)) := by
  refine ⟨?_, ?_⟩
  · exact ⟨({ ks id with tasks := [(0, { tk with fifo := [{ dest := .mem 0x20000, bytes := [1] }] })], dies := [(0, { resetting := true })] }),
      0, by decide +kernel⟩
  · exact ⟨({ ks id with dies := [(0, { resetting := true })] }), 0, by decide +kernel⟩

theorem witness_HostAndPeerEvents_5 : ∃ (s : State), (s.host.lostAt ≠ none) := by
  exact ⟨((hs fun h => { h with lostAt := some 3 })), by decide +kernel⟩

theorem witness_ManagementEvents_4 : ∃ (s : State), (s.mgmt.staged = true) := by
  exact ⟨({ st with turn := none, mgmt := { staged := true } }), by decide +kernel⟩

theorem witness_StepRunsDecoded_1 :
    (∃ (s : State) (u : Turn), (s.turn = some u) ∧ ((s.task u.tid).shadow = true) ∧
      ((((s.task u.tid).pair.bind fun p => (s.task p.other).pair).bind fun q => q.fwd.head?) = none)) ∧
    (∃ (s : State) (u : Turn) (n : Nat) (i : Instr) (f : Fwd), (s.turn = some u) ∧ ((s.task u.tid).shadow = true) ∧
      ((((s.task u.tid).pair.bind fun p => (s.task p.other).pair).bind fun q => q.fwd.head?) = some f) ∧
      (decodeWord f.insn = Except.ok (i, n))) := by
  refine ⟨?_, ?_⟩
  · exact ⟨((sh [])), ({ tid := 1 }), by decide +kernel⟩
  · exact ⟨((sh [{ insn := 0x0814C003, len := 4, r := some tk.r }])), ({ tid := 1 }), 4, ((.add 3 4 5)),
      ({ insn := 135577603, len := 4, r := some tk.r }), and3 (by decide +kernel) (rfl)⟩

end C50
namespace H

theorem witness_MemoryReadAfterWrite_2 : ∃ (s : State) (a : Nat) (bs : List Byte) (w : Nat),
    Memory.wf s.mem = true ∧ mrising s.poison = true ∧ a ≤ 8 * w ∧ 8 * w + 8 ≤ a + bs.length :=
  ⟨st, 0x20000, [1, 2, 3, 4, 5, 6, 7, 8], 0x4000, by decide +kernel, by decide +kernel, by decide, by decide⟩

theorem witness_PackedLanes_2 : ∃ (s : State) (tid : Nat) (d a : BitVec 7) (x : BitVec 2) (b : BitVec 5) (n : Nat),
    Issuing s tid ∧ x.toNat ≤ 2 ∧ Names s tid [d.toNat, a.toNat, b.toNat] ∧ n / 2^13 % 8 = 6 ∧
    (n / 2^7 % 64 = 0x0D ∧ 2 ≤ n / 2^16 % 4 ∨ (n / 2^7 % 64 = 0x0C ∨ n / 2^7 % 64 = 0x0D) ∧ n / 2^23 % 4 = 3) :=
  ⟨st, 0, 5, 6, 2, 7, 0x2C680, issuing_of (by decide +kernel), by decide, names_of (by decide +kernel), by decide, by decide⟩

def fn : State := mk (rgs [(14, 0)] tk)

def fnA : Alloc := allocFut fn ((fn.task 0).core / 8) (fn.task 0).ctx (fn.task 0).launch .empty (op := (Reads fn 0 14).toNat == 1)

theorem fnA_got : (allocOut fnA).isSome = true := by decide +kernel

theorem witness_FutureOperations_2 : ∃ (s s2 : State) (tid : Nat) (d a b : BitVec 7) (c e : BitVec 5) (h : Word),
    Issuing s tid ∧ Names s tid [d.toNat, a.toNat, b.toNat, c.toNat, e.toNat] ∧ Unrecorded s tid ∧
    (s.task tid).handler = false ∧ (Reads s tid a.toNat).toNat ≤ 1 ∧
    allocFut s ((s.task tid).core / 8) (s.task tid).ctx (s.task tid).launch .empty
      (op := (Reads s tid a.toNat).toNat == 1) = .got h s2 := by
  exact ⟨fn, ((allocOut fnA).get fnA_got).2, 0, 5, 14, 15, 6, 14, ((allocOut fnA).get fnA_got).1, issuing_of (by decide +kernel),
    names_of (by decide +kernel), unrecorded_of (by decide +kernel), by decide +kernel, by decide +kernel, alloc_got fnA_got⟩

theorem witness_FutureOperations_3 : ∃ (s : State) (tid : Nat) (d a b : BitVec 7) (c e : BitVec 5),
    Issuing s tid ∧ Names s tid [d.toNat, a.toNat, b.toNat, c.toNat, e.toNat] ∧ Unrecorded s tid ∧
    (s.task tid).handler = false ∧ (Reads s tid a.toNat).toNat ≤ 1 ∧
    allocFut s ((s.task tid).core / 8) (s.task tid).ctx (s.task tid).launch .empty
      (op := (Reads s tid a.toNat).toNat == 1) = .full :=
  ⟨full fn, 0, 5, 14, 15, 6, 14, issuing_of (by decide +kernel), names_of (by decide +kernel),
    unrecorded_of (by decide +kernel), by decide +kernel, by decide +kernel, full_alloc (s := full fn) (n := 5) rfl rfl⟩

theorem witness_MatrixSubmission_2 : ∃ (s s2 : State) (tid : Nat) (d a b e f g : BitVec 7),
    Issuing s tid ∧ Names s tid [d.toNat, a.toNat, b.toNat, e.toNat, f.toNat, g.toNat] ∧ Unrecorded s2 tid :=
  ⟨fn, fn, 0, 5, 14, 15, 22, 23, 15, issuing_of (by decide +kernel), names_of (by decide +kernel),
    unrecorded_of (by decide +kernel)⟩

def dp (v w : Word) : State := mk (rgs [(14, v), (15, w)] tk)

/-- The parts of a translation to memory. -/
theorem ok_mem {x : M (Place × State)} {a : Nat} {e : Word} (h : isOk x = true) (g : (got x h).1 = .mem a e) :
    x = .ok (.mem a e, (got x h).2) := by
  rw [← g]; exact ok_pair h

theorem witness_TransfersAndStash_5 : ∃ (s s1 : State) (tid : Nat) (d a b : BitVec 7) (dpa : Nat) (e : Word),
    let p := Reads s tid a.toNat
    let w := Reads s tid b.toNat
    let va := p.toNat % 2^52
    Issuing s tid ∧ Names s tid [d.toNat, a.toNat, b.toNat] ∧ va / 2^48 % 16 ≠ 15 ∧ p.toNat / 2^52 % 8 = 0 ∧ va % 128 = 0 ∧
    w.toNat % 128 = 0 ∧ 128 ≤ w.toNat ∧ w.toNat ≤ 65536 ∧ va / 2^16 = (va + w.toNat - 1) / 2^16 ∧
    placeOf s tid va 8 .wr = .ok (.mem dpa e, s1) ∧ (s.task tid).fifo = [] ∧
    needGatherAll s1 ((List.range (w.toNat / 128)).map (dpa / 128 + ·)) = .ok () :=
  ⟨{ dp 0x10000 0x80 with coh := {} }, _, 0, 5, 14, 15, 0x20000, leaf.word, issuing_of (by decide +kernel), names_of (by decide +kernel), by decide, by decide +kernel,
    by decide +kernel, by decide +kernel, by decide, by decide, by decide +kernel, ok_mem (by decide +kernel) (by decide +kernel),
    by decide +kernel, ok_one (by decide +kernel)⟩

def am : State := mk (rg 5 1 (rg 6 77 tk))

/-- What both forms of an atomic operation ask of a thread, its operands and their place. -/
def Atomic (s s1 : State) (tid dpa : Nat) (e : Word) (d a : BitVec 7) (o : BitVec 4) (r : BitVec 2) (c : BitVec 3) : Prop :=
  let va := (Reads s tid a.toNat).toNat % 2^52
  Issuing s tid ∧ Names s tid [a.toNat] ∧ d.toNat < 120 ∧ ((s.task tid).limit ≥ if o = 9 then d.toNat + 1 else d.toNat) ∧
  Ready s tid d.toNat ∧ (o = 9 → Ready s tid (d.toNat + 1)) ∧
  o.toNat ≤ 9 ∧ (Reads s tid a.toNat).toNat / 2^52 % 8 = 0 ∧ va / 2^48 % 16 ≠ 15 ∧ va % 8 = 0 ∧
  placeOf (dropEarly s tid) tid va 8 .rw true = .ok (.mem dpa e, s1) ∧ region dpa ≤ 2 ∧ (s.task tid).fifo = [] ∧
  (s.task tid).unacked = [] ∧ (2 ≤ r.toNat → relReady s tid c.toNat = true) ∧ poisonIn s.poison dpa 8 = none ∧
  Unrecorded s tid ∧ lineQueued s1 ((s.task tid).core / 896) (dpa / 128) = false

/-- With the line's tokens at its die, and with none there. -/
def amAt (near : Bool) : State := if near then am else { am with coh := {} }

def amPlace (near : Bool) : M (Place × State) := placeOf (dropEarly (amAt near) 0) 0 0x10000 8 .rw true

theorem amPlace_ok (near : Bool) : isOk (amPlace near) = true := by cases near <;> decide +kernel

theorem am_atomic (near : Bool) :
    Atomic (amAt near) (got (amPlace near) (amPlace_ok near)).2 0 0x20000 leaf.word 5 10 0 0 4 := by
  cases near
  all_goals
    refine ⟨issuing_of (by decide +kernel), names_of (by decide +kernel), by decide +kernel, by decide +kernel, ?_, ?_, ?_, ?_⟩
    · unfold Ready; decide +kernel
    · exact fun h => absurd h (by decide)
    · decide
    · refine ⟨by decide +kernel, by decide +kernel, by decide +kernel, ok_mem (amPlace_ok _) (by decide +kernel), ?_⟩
      refine ⟨by decide +kernel, by decide +kernel, by decide +kernel, by decide +kernel, by decide +kernel, ?_⟩
      exact ⟨unrecorded_of (by decide +kernel), by decide +kernel⟩

theorem witness_MemoryAtomics_1 : ∃ (s s1 : State) (tid dpa : Nat) (e : Word) (d a : BitVec 7) (o : BitVec 4) (r : BitVec 2) (c : BitVec 3),
    Atomic s s1 tid dpa e d a o r c ∧ (s1.tok (dpa / 128) ((s.task tid).core / 896)).mayWrite = true :=
  ⟨_, _, _, _, _, _, _, _, _, _, am_atomic true, by decide +kernel⟩

theorem witness_MemoryAtomics_2 : ∃ (s s1 : State) (tid dpa : Nat) (e : Word) (d a : BitVec 7) (o : BitVec 4) (r : BitVec 2) (c : BitVec 3),
    Atomic s s1 tid dpa e d a o r c ∧ needHome s1 (dpa / 128) = .ok () :=
  ⟨_, _, _, _, _, _, _, _, _, _, am_atomic false, ok_one (by decide +kernel)⟩

def lk : State := { mk { tk with lockRetry := some 5 } with turn := none }

theorem witness_FaultService_4 : ∃ (s s' : State) (tid x : Nat),
    (liveTask s tid = true ∧ (s.task tid).pair = none ∧ (s.task tid).lockRetry = some x ∧ s.cycle < x) ∧
    liveTask s' tid = true ∧ (s'.task tid).pair = none ∧ (s'.task tid).lockRetry = some x ∧ x ≤ s'.cycle :=
  ⟨lk, { lk with cycle := 5 }, 0, 5, by decide +kernel, by decide +kernel⟩

def t64 : Task := { tk with rfbase := 1880, slot := some 56 }

def c56 : Core :=
  { core0 with deque := [.task 2], passed := [(2, 5)], table := [(0, 0xA038), (8, 0xA039)], slots := [(56, 0)] }

def lg : State :=
  { mk t64 with turn := none, cycle := 100000, tasks := [(0, t64), (2, { phase := .ready, cls := 4 })], cores := [(0, c56)] }

theorem witness_SchedulingEvents_7 : ∃ (s : State) (k tid : Nat), isLarge s k tid = true := ⟨lg, 0, 2, by decide +kernel⟩

def jz (op : Word) : Job :=
  { id := 4, ctx := 0, launch := none, w0 := op * 2^60 + 3 * 2^56, w1 := 0, w2 := 0, w3 := 77, sink := .ep 0, rm := 1, rng := 1,
    time := 0 }

theorem witness_MatrixEvents_4 : ∃ (x : Job) (r c : Nat) (t : Tile), mxCol0 x.w0 + mxN x.w0 ≤ 128 ∧ c < 128 ∧
    ¬ (mxRow0 x.w0 ≤ r ∧ r < mxRow0 x.w0 + mxM x.w0 ∧ mxCol0 x.w0 ≤ c ∧ c < mxCol0 x.w0 + mxN x.w0) ∧ mrising t.e = true :=
  ⟨jz 3, 63, 127, {}, by decide +kernel, by decide +kernel, by decide +kernel, by decide +kernel⟩

/-- A command for tile 3 of cluster 0 with a capability of context 0 for all tiles and operations. -/
def cb : Nat := 0xF * 2^26 + 0xFFFF * 2^10

def cm : Word := w64 (capMac st (w64 cb) * 2^40 + cb)

def cp (own : Nat) (js : List Job) : State :=
  { st with turn := none, clusters := [(0, { cl0 with tiles := [(3, { owner := some own })], jobs := js })]
            net := { caps := [{ src := 8, job := { jz 3 with sink := .fut 0x9000000000000000 }, cap := cm }] } }

theorem cb_lt : cb < 2^40 := by decide

theorem cm_eq : cm = w64 (capMac st (w64 cb) * 2^40 + cb) := by unfold cm; rfl

theorem cm_low : cm.toNat % 2^40 = cb := (cap_ok (s := st) (b := cb) (c := cm) cb_lt cm_eq).1

theorem cm_mac : bits cm 63 40 = capMac st cm := (cap_ok (s := st) (b := cb) (c := cm) cb_lt cm_eq).2

/-- The fields of a word with those low 40 bits. -/
theorem cb_fields {c : Word} (h : c.toNat % 2^40 = cb) :
    capCl c = 0 ∧ c.toNat / 2^30 % 64 = 0 ∧ bits c 6 0 = 0 ∧ bits c 35 30 = 0 ∧ bits c 39 36 = 0 ∧ bits c 13 13 = 1 ∧
    bits c 29 29 = 1 := by
  simp only [capCl, bits, cb] at *
  omega

theorem cm_ok {s : State} (h : s.mgmt = st.mgmt) (hc : s.ctxs = [(0, ctx0)]) : capOk s cm (jz 3).w0 = true := by
  have hm : capMac s cm = capMac st cm := by unfold capMac; rw [h]
  obtain ⟨-, -, b1, b2, b3, b4, b5⟩ := cb_fields cm_low
  have e1 : mxTile (jz 3).w0 = 3 := by decide +kernel
  have e2 : mxOp (jz 3).w0 = 3 := by decide +kernel
  have e3 : ctx0.capep.toNat = 0 := by decide +kernel
  simp only [capOk, cm_mac, hm, hc, b1, b2, b3, e1, e2, b4, b5, mfind]
  simp [e3]

theorem witness_MatrixEvents_5 : ∃ (s : State) (i : Nat) (m : CapMsg),
    s.net.caps[i]? = some m ∧ m.retry = false ∧ clusterMoving s (capCl m.cap) = false ∧
    capOk (s.modNet fun n => { n with caps := ldel n.caps i }) m.cap m.job.w0 = true ∧
    ((s.modNet fun n => { n with caps := ldel n.caps i }).tile (capCl m.cap) (mxTile m.job.w0)).owner =
      some (m.cap.toNat / 2^30 % 64) ∧
    mxRoom (s.modNet fun n => { n with caps := ldel n.caps i }) (capCl m.cap) (m.cap.toNat / 2^30 % 64) = true ∧
    mxTurn (s.modNet fun n => { n with caps := ldel n.caps i }) (capCl m.cap) m.job.launch 0 = true := by
  refine ⟨cp 0 [], 0, { src := 8, job := { jz 3 with sink := .fut 0x9000000000000000 }, cap := cm }, rfl, rfl, ?_, cm_ok rfl rfl,
    ?_, ?_, ?_⟩ <;> simp only [(cb_fields cm_low).1, (cb_fields cm_low).2.1] <;> decide +kernel

theorem witness_MatrixEvents_6 : ∃ (s : State) (i : Nat) (m : CapMsg),
    s.net.caps[i]? = some m ∧ m.retry = false ∧ clusterMoving s (capCl m.cap) = false ∧
    capOk (s.modNet fun n => { n with caps := ldel n.caps i }) m.cap m.job.w0 = true ∧
    ((s.modNet fun n => { n with caps := ldel n.caps i }).tile (capCl m.cap) (mxTile m.job.w0)).owner =
      some (m.cap.toNat / 2^30 % 64) ∧
    4 * tilesOwned (s.modNet fun n => { n with caps := ldel n.caps i }) (capCl m.cap) (m.cap.toNat / 2^30 % 64) ≤
      jobsOf (s.modNet fun n => { n with caps := ldel n.caps i }) (capCl m.cap) (m.cap.toNat / 2^30 % 64) := by
  refine ⟨cp 0 (List.replicate 4 (jz 3)), 0,
    { src := 8, job := { jz 3 with sink := .fut 0x9000000000000000 }, cap := cm }, rfl, rfl, ?_, cm_ok rfl rfl, ?_, ?_⟩ <;>
    simp only [(cb_fields cm_low).1, (cb_fields cm_low).2.1] <;> decide +kernel

theorem witness_MatrixEvents_7 : ∃ (s : State) (i : Nat) (m : CapMsg),
    s.net.caps[i]? = some m ∧ m.retry = false ∧ clusterMoving s (capCl m.cap) = false ∧
    capOk (s.modNet fun n => { n with caps := ldel n.caps i }) m.cap m.job.w0 = true ∧
    ((s.modNet fun n => { n with caps := ldel n.caps i }).tile (capCl m.cap) (mxTile m.job.w0)).owner ≠
      some (m.cap.toNat / 2^30 % 64) := by
  refine ⟨cp 5 [], 0, { src := 8, job := { jz 3 with sink := .fut 0x9000000000000000 }, cap := cm }, rfl, rfl, ?_, cm_ok rfl rfl,
    ?_⟩ <;> simp only [(cb_fields cm_low).1, (cb_fields cm_low).2.1] <;> decide +kernel

theorem witness_MatrixEvents_8 : ∃ (s : State) (cl : Nat), mxNext s cl = none := ⟨st, 0, by decide +kernel⟩

theorem witness_MatrixEvents_9 : ∃ (s : State) (i : Nat) (m : CapMsg),
    s.net.caps[i]? = some m ∧ m.retry = false ∧ clusterMoving s (capCl m.cap) = false ∧
    capOk (s.modNet fun n => { n with caps := ldel n.caps i }) m.cap m.job.w0 = false :=
  ⟨{ st with turn := none, net := { caps := [{ src := 8, job := jz 3, cap := 127 }] } }, 0,
    { src := 8, job := jz 3, cap := 127 }, rfl, rfl, by decide +kernel, by decide +kernel⟩

def mb (ws : List Word) (s : State) : State :=
  { s with turn := none, hub := { bell := true, mailbox := (ws.zipIdx.map fun e => (e.2, e.1)).filter fun e => e.2 ≠ 0 } }

def q0 : Queue := { ctx := 0, prio := 3, vec := none, segs := [(0, 0x30000, 12)] }

theorem witness_DriverCommands_4 : ∃ (s : State) (i : Nat),
    (s.hub.bell = true ∧ (mailWord s 0).toNat % 256 = 1 ∧ s.hub.restart = false) ∧ i < 64 ∧ ctxBad s (newCtx s) = false ∧
    mfind s.ctxs i = none ∧ ∀ j < i, (mfind s.ctxs j).isSome = true :=
  ⟨mb [1, 7, 1, 0x40000, 0, 0, 0, 0, 3, 0, 0] st, 1, by decide +kernel, by decide, by decide +kernel, by decide +kernel,
    by decide +kernel⟩

theorem witness_DriverCommands_5 : ∃ (s : State),
    (s.hub.bell = true ∧ (mailWord s 0).toNat % 256 = 3 ∧ s.hub.restart = false) ∧
    ((mfind s.ctxs (mailWord s 1).toNat).isSome = true ∧ (mailWord s 2).toNat ≤ 15 ∧
      segOk (mailWord s 3).toNat (mailWord s 4).toNat = true) ∧
    ∀ i < 4096, (mfind s.queues i).isSome = true :=
  ⟨{ mb [3, 0, 15, 0x1000, 12, 0x8005] st with queues := (List.range 4096).map fun i => (i, q0) }, by decide +kernel,
    by decide +kernel, fun _ h => mfind_table (fun _ => q0) h⟩

theorem witness_DriverCommands_6 : ∃ (s : State) (x : Queue),
    (s.hub.bell = true ∧ (mailWord s 0).toNat % 256 = 4 ∧ s.hub.restart = false) ∧
    mfind s.queues (mailWord s 1).toNat = some x ∧ x.live = [] :=
  ⟨{ mb [4, 0] st with queues := [(0, q0)] }, q0, by decide +kernel, by decide +kernel, by decide +kernel⟩

def pe : State :=
  let p : Peers := { sessions := [(7, { number := 3, nextSeq := 1, lastAck := 0 })], window := 0x20000, windowLen := 0x10000 }
  { st with turn := none, peers := p, net := { remaps := [{ isCore := false, unit := 0, copy := true, retire := false, phys := 5 }] } }

theorem witness_HostAndPeerEvents_6 : ∃ (s : State) (chip n seq kind : Nat) (ws : List (BitVec 64)) (x : Session),
    mfind s.peers.sessions chip = some x ∧ x.number = n ∧ x.acked < seq ∧ x.seen.contains seq = false ∧
    peerTake s chip kind ws = none :=
  ⟨pe, 7, 3, 1, 0, [0x9000000000000000 + 5 * 2^18 + 7, 0, 0], _, rfl, by decide +kernel, by decide +kernel, by decide +kernel, by decide +kernel⟩

theorem witness_ResetState_1 : ∃ a, region a ≠ 2 ∧ region a ≠ 3 := ⟨0, by decide⟩

theorem witness_DecodedWords_1 : ∃ w i n, decodeWord w = .ok (i, n) := ⟨0x0814C003, _, _, rfl⟩

theorem witness_EncodeOfDecode_1 : ∃ (i : Instr) (w b : Nat), decodeWord w = .ok (i, b) := ⟨_, 0x0814C003, _, rfl⟩

theorem witness_DecodeOfEncode_1 : ∃ (i : Instr) (b w : Nat), i.wf = true ∧ encode i = some (b, w) :=
  ⟨.add 3 4 5, 4, 0x0814C003, by decide +kernel, by decide +kernel⟩

theorem witness_StepRunsDecoded_2 : ∃ s : State, s.turn = none := ⟨State.reset, rfl⟩

theorem witness_StepRunsDecoded_3 : ∃ (s s1 : State) (u : Turn) (len w n : Nat) (i : Instr),
    s.turn = some u ∧ (s.task u.tid).pend = none ∧ fetchInsn s u.tid = .ok (len, w, s1) ∧ decodeWord w = .ok (i, n) :=
  ⟨State.reset.withFetchWord 32 0x0814C003, State.reset.withFetchWord 32 0x0814C003, { tid := 0 }, 4, 0x0814C003, 4, _, rfl,
    by decide +kernel, rfl, rfl⟩

theorem witness_StepRunsDecoded_4 : ∃ (s s1 : State) (u : Turn) (len w : Nat) (e : DecFault),
    s.turn = some u ∧ (s.task u.tid).pend = none ∧ fetchInsn s u.tid = .ok (len, w, s1) ∧ decodeWord w = .error e :=
  ⟨State.reset.withFetchWord 32 0x0003C183, State.reset.withFetchWord 32 0x0003C183, { tid := 0 }, 4, 0x0003C183, _, rfl,
    by decide +kernel, rfl, rfl⟩

theorem witness_StepRunsDecoded_5 : ∃ (s : State) (u : Turn) (c : Code) (d : Word),
    s.turn = some u ∧ (s.task u.tid).pend = none ∧ fetchInsn s u.tid = .error (.trap c d) :=
  ⟨mk { tk with r := { tk.r with pc := 0xF000000001000 } }, _, _, _, rfl, by decide +kernel, rfl⟩

theorem witness_StepRunsDecoded_6 : ∃ (s : State) (tid p0 : Nat) (ps : List Nat),
    (∀ j p, (p0 :: ps)[j]? = some p → ∃ bs, mfind (s.task tid).fbuf (((s.task tid).r.pc.toNat + 2 * j) % 2^52 / 64) = some bs ∧
      p = (bs.getD (((s.task tid).r.pc.toNat + 2 * j) % 2^52 % 64) 0).toNat +
        256 * (bs.getD (((s.task tid).r.pc.toNat + 2 * j) % 2^52 % 64 + 1) 0).toNat) ∧
    2 * (ps.length + 1) = parcelLen p0 := by
  refine ⟨State.reset.withFetchWord 32 0x0814C003, 0, 0xC003, [0x0814], ?_, by decide⟩
  intro j p h
  match j with
  | 0 => cases h; exact ⟨_, rfl, by decide +kernel⟩
  | 1 => cases h; exact ⟨_, rfl, by decide +kernel⟩
  | n + 2 => simp at h

/-- What an engine's access waits with. -/
def engWaits {A : Type} (x : Eng A) : Option (State × Cause) :=
  match x with
  | .wait s c => some (s, c)
  | _ => none

theorem eng_wait {A : Type} {x : Eng A} (h : (engWaits x).isSome = true) :
    x = .wait ((engWaits x).get h).1 ((engWaits x).get h).2 := by
  revert h
  rcases x with ⟨a, s⟩ | ⟨s, w⟩ | d
  · exact fun h => nomatch h
  · exact fun h => rfl
  · exact fun h => nomatch h

def lau : Launch := { ctx := 0, queue := 0, hdr := [0, 0, 0, 0, 0, 0, 0, 0x1000000007, 32768], st := .running }

/-- A steal whose answer is on its way to core 0. -/
def stolen : Steal := { thief := 0, victim := 1, ctx := 0, answered := true, got := some (.task 2) }

def sta : State :=
  { st with turn := none, launches := [(3, lau)], tasks := [(2, { phase := .created, core := 1, launch := some 3 })]
            cores := [(0, { core0 with slots := [] })], net := { steals := [stolen] } }

theorem witness_SchedulingEvents_8 : ∃ (s : State) (i : Nat) (x : Steal) (e : Entry), s.net.steals[i]? = some x ∧ x.answered = true ∧
    underRemap s x.thief = false ∧ stealWaits s x = false ∧ x.got = some e ∧ (s.core x.thief).dead = false ∧
    (s.core x.thief).deque.length < 256 ∧
    ∃ l y, entryLaunch s e = some l ∧ launchOf s l = some y ∧ landOk s x.thief y = true :=
  ⟨sta, 0, stolen, .task 2, by decide +kernel, rfl, by decide +kernel, by decide +kernel, rfl, by decide +kernel, by decide +kernel,
    3, lau, by decide +kernel⟩

def swp (c : Nat) : Swap := { id := 50 + c, core := c, off := 0, d := 0x100101, ctx := 0, fut := 0 }

/-- Two requests that meet, the first of a block that is mapped to an address. -/
def sws (va : Nat) : State :=
  let p : Part := { part0 with stash := [{ off := 0, va := va, len := 128 }] }
  let l : Tlb := { tag := 0x0001000000006000, word := 0x8000000000000005 }
  { st with turn := none, clusters := [(0, { cl0 with tlb := [leaf, l] })]
            cores := [(1, { core0 with slots := [], swaps := [swp 1], parts := [p] }), (8, { core0 with slots := [], swaps := [swp 8] })] }

/-- Both blocks of `sws`, as they are sent. -/
def both (va : Nat) : Eng (Bytes × Bytes) :=
  (blockOf (sws va) (swp 1)).bind fun x s => (blockOf s (swp 8)).bind fun y s => .ok (x, y) s

/-- Two requests of one TAG and descriptor that may meet. -/
def Meets (s : State) (k i : Nat) (a b : Swap) : Prop :=
  (s.core k).swaps[i]? = some a ∧ unitSilent s k = false ∧ unitSilent s (mirrorOf k) = false ∧ swapMate s a = some b ∧ a.d = b.d

theorem witness_MatrixEvents_10 : ∃ (s : State) (k i : Nat) (a b : Swap) (s' : State) (c : Cause), Meets s k i a b ∧
    ((blockOf s a).bind fun x s => (blockOf s b).bind fun y s => Eng.ok (x, y) s) = .wait s' c :=
  ⟨sws 0x50000, 1, 0, swp 1, swp 8, _, _, by unfold Meets; decide +kernel, eng_wait (x := both 0x50000) (by decide +kernel)⟩

theorem witness_MatrixEvents_11 : ∃ (s : State) (k i : Nat) (a b : Swap) (c : Code), Meets s k i a b ∧
    ((blockOf s a).bind fun x s => (blockOf s b).bind fun y s => Eng.ok (x, y) s) = .bad c :=
  ⟨sws 0x60000, 1, 0, swp 1, swp 8, PAGE_PERM, by unfold Meets; decide +kernel, eng_bad (x := both 0x60000) (by decide +kernel)⟩

/-- A memory die whose set for line `l` is full of line `x`. -/
def crowd (x l : Nat) : State :=
  { st with turn := none, coh := { msgs := [.tokens l 8 { plain := 3 } 0 none], lines := List.replicate 16 (x, { held := [(8, {})] }) } }

/-- Two lines of one set. -/
theorem same_set : ∃ x l, x < 2^17 ∧ l < 2^17 ∧ x ≠ l ∧ Config.cacheSet x % 65536 = Config.cacheSet l % 65536 := by
  have h := Finset.exists_ne_map_eq_of_card_lt_of_maps_to (s := Finset.range (2^17)) (t := Finset.range 65536)
    (f := fun x => Config.cacheSet x % 65536) (by simp) (by intro x _; simp; omega)
  obtain ⟨x, hx, l, hl, n, e⟩ := h
  exact ⟨x, l, by simpa using hx, by simpa using hl, n, e⟩

theorem witness_CoherenceEvents_5 : ∃ (s : State) (i l dst n : Nat) (t : Tok) (u : Option Nat),
    s.coh.msgs[i]? = some (.tokens l dst t n u) ∧ n = (s.line l).tser ∧ isLost s dst = false ∧ actFor s l dst = none ∧ dst < 16 ∧
    makeWay (takeCoh s i) dst l = none ∧ collecting (takeCoh s i) l dst = false := by
  obtain ⟨x, l, hx, hl, ne, same⟩ := same_set
  have rx : region (128 * x) ≠ 8 := by unfold region; omega
  have rl : region (128 * l) ≠ 8 := by unfold region; omega
  have lines : (takeCoh (crowd x l) 0).linesAt 8 = List.replicate 16 x := by rfl
  have attr (y : Nat) (h : region (128 * y) ≠ 8) : lineAttr (takeCoh (crowd x l) 0) y = 0 := by simp only [lineAttr, h, if_false]; rfl
  have rest (y : Nat) (h : region (128 * y) ≠ 8) : restsWith (takeCoh (crowd x l) 0) 8 y = false := by simp [restsWith, h]
  have free (y : Nat) : collecting (takeCoh (crowd x l) 0) y 8 = false := rfl
  have ways : wayLines (takeCoh (crowd x l) 0) 8 = List.replicate 16 x := by
    rw [wayLines, lines, List.filter_eq_self]
    intro y h
    obtain rfl := List.eq_of_mem_replicate h
    simp [free, attr y rx, rest y rx]
  have way : hasWay (takeCoh (crowd x l) 0) 8 l = false := by
    simp [hasWay, ways, attr l rl, rest l rl, cacheSet, same, ne]
  have stay : mayEvict (takeCoh (crowd x l) 0) 8 x = false := by
    have e : (takeCoh (crowd x l) 0).tok x 8 = {} := by simp [takeCoh, State.modCoh, crowd, State.tok, State.line, mfind, mget]
    simp [mayEvict, e]
  refine ⟨crowd x l, 0, l, 8, 0, { plain := 3 }, none, rfl, ?_, rfl, rfl, by decide, ?_, rfl⟩
  · simp [crowd, State.line, mfind, ne.symm]
  · simp [makeWay, way, lines, stay, attr l rl]

/-- Requests for a line of the host's, and what its home must ask for first. -/
theorem witness_CoherenceEvents_6 : ∃ (s s' : State) (i l agent a b n m : Nat),
    (s.coh.msgs[i]? = some (.request .gets l agent a) ∧ censusDue s = false ∧ homeNeeds s .gets l agent = some n) ∧
    s'.coh.msgs[i]? = some (.persist .getx l agent b) ∧ censusDue s' = false ∧ homeNeeds s' .getx l agent = some m :=
  ⟨{ st with turn := none, coh := { msgs := [.request .gets (2^42) 1 0] } },
    { st with turn := none, coh := { msgs := [.persist .getx (2^42) 1 0] } }, 0, 2^42, 1, 0, 0, 2, 3, by decide +kernel,
    by decide +kernel⟩

def qm (ws : List Word) : Queue := { ctx := 0, prio := 3, vec := none, segs := [(0, 0x30000, 12)], mapped := true, pkt := some (3, ws) }

theorem witness_PacketEvents_7 : ∃ (s : State) (q : Nat) (x : Queue) (ws : List Word), packetOf s q 3 = some (x, ws) ∧ ws.getD 2 0 ≠ 0 ∧
    (ws.getD 0 0 = 0 ∨ isHandle (ws.getD 0 0) = true) ∧
    (ptrBad (ws.getD 2 0) = true ∨ ∃ c, hubPlace s x.ctx ((ws.getD 2 0).toNat % 2^52) .wr = .bad c) :=
  ⟨{ st with queues := [(0, qm [0, 0, 2^52])] }, 0, qm [0, 0, 2^52], [0, 0, 2^52], by decide +kernel, by decide +kernel,
    by decide +kernel, .inl (by decide +kernel)⟩

/-- A SIGNAL of another package's future, which its session is asked for. -/
def far : State :=
  { st with turn := none, queues := [(0, qm [0x9000060000000000, 9, 0x10000])], hub := { tlb := [leaf] }
            peers := { sessions := [(6, { number := 3 })], table := some 64 }, mem := (273, 0x80) :: st.mem }

/-- Where its word goes. -/
def farPlace : Eng Place := hubPlace far 0 0x10000 .wr

theorem farPlace_ok : (engOut farPlace).isSome = true := by decide +kernel

/-- What the hub finds of the future. -/
def farAnswer : Option (View × State) :=
  signalResolve ((engOut farPlace).get farPlace_ok).2 0 (qm [0x9000060000000000, 9, 0x10000]) 0x9000060000000000 9

theorem farAnswer_some : farAnswer.isSome = true := by decide +kernel

theorem witness_PacketEvents_8 : ∃ (s s1 s2 : State) (q : Nat) (x : Queue) (ws : List Word) (p : Place) (v : View),
    packetOf s q 3 = some (x, ws) ∧ ws.getD 2 0 ≠ 0 ∧ (ws.getD 0 0 = 0 ∨ isHandle (ws.getD 0 0) = true) ∧
    ptrBad (ws.getD 2 0) = false ∧ hubPlace s x.ctx ((ws.getD 2 0).toNat % 2^52) .wr = .ok p s1 ∧
    signalResolve s1 q x (ws.getD 0 0) (ws.getD 1 0) = some (v, s2) ∧ v.out = 4 :=
  ⟨far, ((engOut farPlace).get farPlace_ok).2, (farAnswer.get farAnswer_some).2, 0, _, [0x9000060000000000, 9, 0x10000],
    ((engOut farPlace).get farPlace_ok).1, (farAnswer.get farAnswer_some).1, rfl, by decide +kernel, by decide +kernel,
    by decide +kernel, eng_ok farPlace_ok, Option.eq_some_of_isSome farAnswer_some, by decide +kernel⟩

/-- Whether a step goes on. -/
def goesOn : Host.Outcome State Fault Refusal → Bool
  | .next _ => true
  | _ => false

theorem goes_on {x : Host.Outcome State Fault Refusal} (h : goesOn x = true) : ∃ t, x = .next t := by
  cases x with
  | next t => exact ⟨t, rfl⟩
  | _ => cases h

theorem witness_MemoryStaysCanonical_1 : ∃ s s' : State, Memory.wf s.mem = true ∧ step s = .next s' := by
  obtain ⟨t, h⟩ := goes_on (x := step (State.reset.withFetchWord 32 0x0814C003)) (by decide +kernel)
  exact ⟨_, t, by decide +kernel, h⟩

theorem witness_StepRunsDecoded_7 : ∃ (s s' : State) (u : Turn) (f : Fwd) (i : Instr) (n : Nat),
    (s.turn = some u ∧ (s.task u.tid).shadow = true ∧
      ((s.task u.tid).pair.bind fun p => (s.task p.other).pair).bind (fun q => q.fwd.head?) = none) ∧
    s'.turn = some u ∧ (s'.task u.tid).shadow = true ∧
    ((s'.task u.tid).pair.bind fun p => (s'.task p.other).pair).bind (fun q => q.fwd.head?) = some f ∧ decodeWord f.insn = .ok (i, n) :=
  let q : Pair := { leader := false, other := 0, ckpt := tk.r }
  let s (l : List Fwd) : State :=
    { mk tk with turn := some { tid := 1 }
                 tasks := [(0, { tk with pair := some { leader := true, other := 1, ckpt := tk.r, fwd := l } }),
                           (1, { tk with core := 1, shadow := true, pair := some q })] }
  ⟨s [], s [{ insn := 0x0814C003, len := 4 }], { tid := 1 }, { insn := 0x0814C003, len := 4 }, _, _, by decide +kernel, rfl,
    by decide +kernel, by decide +kernel, rfl⟩

theorem value_num (n : Bool) (m : Nat) : (FVal.num n m 0).Value (if n then -(m : ℝ) else m) :=
  ⟨n, m, ⟨m, 0, rfl, by simp⟩, rfl⟩

/-- Finite values, the second or both zero, the first negative. -/
theorem RoundingExact_1 : ∀ n m k, n ≤ 1 → m ≤ 1 → k ≤ 1 → ∃ (n1 n2 n3 : Bool) (m1 m2 m3 : Nat) (e1 e2 e3 : ℤ) (x y z : ℝ) (rm : Nat),
    1 ≤ rm ∧ rm ≤ 5 ∧ (FVal.num n1 m1 e1).Value x ∧ (FVal.num n2 m2 e2).Value y ∧ (FVal.num n3 m3 e3).Value z ∧
    m1 = m ∧ m2 = k ∧ n1 = decide (n = 1) :=
  fun n m k _ _ _ => ⟨decide (n = 1), false, true, m, k, 1, 0, 0, 0, _, _, _, 5, by decide, by decide, value_num _ m, value_num _ k,
    value_num _ 1, rfl, rfl, rfl⟩

theorem RoundingExact_2 : (∃ v w u : FVal, (v.isNan = true ∨ w.isNan = true) ∧ ((xmul v w).1.isNan = true ∨ u.isNan = true)) ∧
    (∃ v w u : FVal, (xmul v w).1.isNan = false ∧ u.isNan = false) ∧
    (∃ a b, a < 2^FP64.width ∧ b < 2^FP64.width ∧ ((fval FP64 a).isNan = true ∨ (fval FP64 b).isNan = true)) ∧
    ∃ a b, a < 2^FP64.width ∧ b < 2^FP64.width ∧ (fval FP64 a).isNan = false ∧ (fval FP64 b).isNan = false :=
  ⟨⟨.nan true, .inf false, .num false 1 0, .inl rfl, .inl rfl⟩, ⟨.num false 3 0, .num true 5 1, .inf true, rfl, rfl⟩,
    ⟨0x7FF4000000000001, 0, by decide, by decide, .inl (by decide)⟩, 0x3FF0000000000000, 0, by decide, by decide, by decide, by decide⟩

/-- Conversions of integers, between formats, to integers of a NaN and an infinity, and to the format itself. -/
theorem RoundingExact_3 : (∃ (t u : BitVec 3) (w : BitVec 1), fcvtLegal t u w ∧ 6 ≤ u.toNat) ∧
    (∃ (t u : BitVec 3) (w : BitVec 1), fcvtLegal t u w ∧ u.toNat < 6 ∧ t.toNat < 6 ∧ t ≠ u) ∧
    (∃ (t u : BitVec 3) (w : BitVec 1) (x y : Nat) (g : Bool), fcvtLegal t u w ∧ u.toNat < 6 ∧ 6 ≤ t.toNat ∧
      (fval FP64 x).isNan = true ∧ fval FP64 y = .inf g ∧ u = 0) ∧
    ∃ (t u : BitVec 3) (w : BitVec 1) (x y : Nat) (g s : Bool), fcvtLegal t u w ∧ u.toNat < 6 ∧ t = u ∧
      fval FP64 x = .nan s ∧ fval FP64 y = .inf g ∧ u = 0 :=
  ⟨⟨0, 6, 0, by decide, by decide⟩, ⟨1, 0, 0, by decide, by decide, by decide, by decide⟩,
    ⟨6, 0, 0, 0x7FF8000000000000, 0xFFF0000000000000, _, by decide, by decide, by decide, by decide, rfl, rfl⟩,
    0, 0, 0, 0x7FF8000000000000, 0xFFF0000000000000, _, _, by decide, by decide, rfl, rfl, rfl, rfl⟩

theorem chosen_down {g : Bool} {x : ℝ} {r : BitVec 32} : Chosen g x 0 2 r ⌊x⌋ := by simp [Chosen]

/-- Values to integers under RTZ: 1.0, 1.5, -1.0 without a sign, and 2^63. -/
theorem RoundingExact_4 : (fcvtLegal 6 0 0 ∧ fcvtLegal 7 0 0 ∧ fcvtLegal 0 0 0) ∧
    (∃ m e k, fval FP64 0x3FF0000000000000 = .num false m e ∧ Chosen false (m * 2^e) 0 2 0 k ∧ (k : ℝ) = m * 2^e ∧ k = 1) ∧
    (∃ m e k, fval FP64 0x3FF8000000000000 = .num false m e ∧ Chosen false (m * 2^e) 0 2 0 k ∧ (k : ℝ) ≠ m * 2^e ∧ k = 1) ∧
    (∃ m e k, fval FP64 0xBFF0000000000000 = .num true m e ∧ Chosen true (m * 2^e) 0 2 0 k ∧ -k < 0) ∧
    ∃ m e k, fval FP64 0x43E0000000000000 = .num false m e ∧ Chosen false (m * 2^e) 0 2 0 k ∧ 2^63 - 1 < k := by
  have one : ⌊((2^52 : Nat) : ℝ) * 2^(-52 : ℤ)⌋ = 1 := by norm_num
  have more : ⌊((3 * 2^51 : Nat) : ℝ) * 2^(-52 : ℤ)⌋ = 1 := by rw [Int.floor_eq_iff]; norm_num
  have big : ⌊((2^52 : Nat) : ℝ) * 2^(11 : ℤ)⌋ = 2^63 := by rw [Int.floor_eq_iff]; norm_num
  refine ⟨by decide, ⟨2^52, -52, _, by decide +kernel, chosen_down, ?_, one⟩, ⟨3 * 2^51, -52, _, by decide +kernel, chosen_down, ?_, more⟩,
    ⟨2^52, -52, _, by decide +kernel, chosen_down, by rw [one]; decide⟩, 2^52, 11, _, by decide +kernel, chosen_down, by rw [big]; decide⟩
  · rw [one]; norm_num
  · rw [more]; norm_num

end H

end

end Sys2Proof.Tests
end

section
namespace Sys2Proof.Proofs
open Sys2Proof.Machine Sys2Proof.Laws

/-! ### Bytes and poison after a write (O20) -/

theorem memByte_memPutAll_ge (bs : List Byte) : ∀ (m : List Host.Cell) (a c : Nat), memWf m = true → a + bs.length ≤ c →
    memByte (memPutAll m a bs) c = memByte m c := by
  induction bs with
  | nil => exact fun _ _ _ _ _ => rfl
  | cons b r ih =>
    intro m a c h hc
    rw [List.length_cons] at hc
    rw [memPutAll, ih _ _ _ (memPut_wf a b h) (by omega), memByte_memPut_ne b (memWf_rising h) (by omega)]

theorem memByte_memPutAll (bs : List Byte) : ∀ (m : List Host.Cell) (a i : Nat), memWf m = true → i < bs.length →
    memByte (memPutAll m a bs) (a + i) = bs.getD i 0 := by
  induction bs with
  | nil => exact fun _ _ _ _ h => absurd h (by simp)
  | cons b r ih =>
    intro m a i h hi
    have hw := memPut_wf a b h
    cases i with
    | zero => rw [memPutAll, memByte_memPutAll_lt r _ _ _ hw (by omega)]; exact memByte_memPut a b (memWf_rising h)
    | succ i =>
      have := ih (memPut m a b) (a + 1) i hw (by simpa using hi)
      rw [memPutAll, show a + (i + 1) = a + 1 + i by omega, this]; rfl

theorem poisonGet_merase (p : FMap Bool) (w : Nat) (h : mrising p = true) : poisonGet (merase p w) w = false := by
  rw [poisonGet, mget, mfind_merase p w h]; rfl

/-- A bit cleared stays clear whatever else is cleared. -/
theorem poisonGet_merase_of_clear {p : FMap Bool} {w : Nat} (v : Nat) (h : mrising p = true) (hw : poisonGet p w = false) :
    poisonGet (merase p v) w = false := by
  by_cases e : w = v
  · subst e; exact poisonGet_merase p w h
  · rw [poisonGet, mget, mfind_merase_ne p h e]; exact hw

theorem foldl_merase_clear (ws : List Nat) : ∀ (p : FMap Bool) (w : Nat), mrising p = true →
    poisonGet p w = false ∨ w ∈ ws → poisonGet (ws.foldl (fun p w => merase p w) p) w = false := by
  induction ws with
  | nil => exact fun _ _ _ h => h.resolve_right List.not_mem_nil
  | cons v r ih =>
    intro p w h hw
    refine ih _ w (mrising_merase p v h) ?_
    obtain hc | hm := hw
    · exact .inl (poisonGet_merase_of_clear v h hc)
    · obtain rfl | hr := List.mem_cons.mp hm
      · exact .inl (poisonGet_merase p w h)
      · exact .inr hr

theorem mem_wholeWords {w a n : Nat} (h1 : a ≤ 8 * w) (h2 : 8 * w + 8 ≤ a + n) : w ∈ wholeWords a n := by
  simp only [wholeWords, wordsOf, List.mem_filter, List.mem_map, List.mem_range, Bool.and_eq_true, decide_eq_true_eq]
  exact ⟨⟨w - a / 8, by omega, by omega⟩, h1, h2⟩

/-- Settles O20: each clause is one fact about the bytes or the poison bits of a write. -/
theorem memoryReadAfterWrite : Obligations.MemoryReadAfterWrite := by
  intro s a bs h hp t
  refine ⟨memWrite_mem_wf s a bs h, fun i hi => memByte_memPutAll bs _ a i h hi, ?_, fun w h1 h2 => ?_⟩
  · rintro b (hb | hb)
    · exact memByte_memPutAll_lt bs _ a b h hb
    · exact memByte_memPutAll_ge bs _ a b h hb
  · exact foldl_merase_clear _ _ _ hp (.inr (mem_wholeWords h1 h2))

/-! ### The state after a package reset (O55) -/

theorem reset_time (d : Nat) : State.reset.time d = 0 := rfl

theorem reset_memByte {a : Nat} (h2 : region a ≠ 2) (h3 : region a ≠ 3) : memByte State.reset.mem a = 0 := by
  simp [memByte, mget, mfind, State.reset, memDefault, h2, h3]

theorem reset_tok (l a : Nat) :
    State.reset.tok l a = if a = homeAgent State.reset l then { plain := 32, owner := true, data := true } else {} := by
  have hl : State.reset.line l = { held := [(homeAgent State.reset l, { plain := 32, owner := true, data := true })] } := rfl
  simp only [State.tok, hl, mget, mfind]
  split
  · rfl
  · split <;> rfl

/-- Settles O55: nothing is listed after a reset, so that every read gives its default. -/
theorem resetState : Obligations.ResetState := by
  refine ⟨rfl, rfl, rfl, rfl, rfl, rfl, reset_time, rfl, fun a => reset_memByte, fun _ => rfl, reset_tok,
    fun _ _ => ⟨rfl, rfl, rfl, rfl, rfl, rfl⟩, fun _ _ _ _ => ⟨rfl, rfl, rfl⟩,
    ⟨rfl, fun _ => rfl, rfl, rfl, rfl, rfl, rfl, rfl, rfl, rfl, rfl⟩, rfl, rfl, rfl, rfl, rfl, rfl⟩

/-! ### A fault and its message (O12) -/

theorem cluster_modCluster (s : State) (k : Nat) (f : Cluster → Cluster) : (s.modCluster k f).cluster k = f (s.cluster k) := by
  simp [State.modCluster, State.setCluster, State.cluster]

@[simp] theorem modCluster_task (s : State) (k t : Nat) (f : Cluster → Cluster) : (s.modCluster k f).task t = s.task t := rfl

@[simp] theorem deadTaken_task (s : State) (tid o : Nat) : (deadTaken s tid).task o = s.task o := rfl

theorem haltTask_task (s : State) (tid : Nat) (h : Halt) :
    (haltTask s tid h).task tid = { s.task tid with halt := some h, part := [] } := by
  simp [haltTask]

theorem haltTask_task_ne (s : State) {tid o : Nat} (h : Halt) (ho : o ≠ tid) : (haltTask s tid h).task o = s.task o := by
  simp [haltTask, task_modTask_ne _ _ ho]

theorem haltTask_faults (s : State) (tid : Nat) (h : Halt) :
    ((haltTask s tid h).cluster ((s.task tid).core / 8)).faults =
      (s.cluster ((s.task tid).core / 8)).faults ++ [faultMsg s tid h] := by
  unfold haltTask
  exact congrArg Cluster.faults (cluster_modCluster _ _ _)

/-- The place of a core in a fault message's first word (R50). -/
theorem corePlace_shifted (k : Nat) : corePlace k * 2^11 = k / 896 * 2^21 + k / 8 % 112 * 2^14 + k % 8 * 2^11 := by
  unfold corePlace; omega

theorem turnFault_eq {s : State} {u : Turn} (code : Code) (detail : Word) (len insn : Turn → Nat) (h : s.turn = some u) :
    turnFault code detail len insn s =
      .next (haltTask s u.tid { code := code, detail := detail, len := len u, insn := insn u }).endTurn := by
  simp only [turnFault, h]

theorem exec_brk (c : BitVec 7) (s : State) : exec (.brk c) s = issueRaw 4 .sync [] (fun _ _ => fault BREAK) s := rfl

theorem exec_brkCompact (i : BitVec 5) (s : State) : exec (.brkCompact i) s = issueRaw 2 .sync [] (fun _ _ => fault BREAK) s := rfl

/-- Settles O12: what a halt changes, and the instructions that are faults. -/
theorem faultsAndTheirMessage : Obligations.FaultsAndTheirMessage := by
  refine ⟨fun s tid len u c detail hu => ?_, fun s tid u c i code detail hI hu => ?_⟩
  · have hi : (s.turn.map (·.insn)).getD 0 = u.insn := by rw [hu]; rfl
    simp only [faulted, hi]
    refine ⟨haltTask_task s tid _, fun o ho => haltTask_task_ne s _ ho, rfl, rfl, rfl, rfl, ?_⟩
    refine (haltTask_faults s tid _).trans ?_
    simp only [faultMsg, corePlace_shifted, w64, Nat.add_assoc]
  · have ht : u.tid = tid := by simpa [hu] using hI.1
    have hi : (s.turn.map (·.insn)).getD 0 = u.insn := by rw [hu]; rfl
    have ho : Opens s tid [] := ⟨hI, by simp⟩
    refine ⟨(exec_brk c s).trans (issueRaw_trap ho nofun rfl), (exec_brkCompact i s).trans (issueRaw_trap ho nofun rfl), ?_, ?_⟩
    · refine (turnFault_eq code detail _ _ hu).trans ?_
      simp only [faulted, hi, ht]
    · refine (turnFault_eq code detail _ _ hu).trans ?_
      rw [ht]

/-! ### Registers written from outside (O40) -/

theorem taskEvent_live {s : State} {tid : Nat} (f : State → State) (h : liveTask s tid = true) : taskEvent tid f s = .next (f s) := by
  rw [taskEvent, if_pos h]

theorem exec_srseedWrite {s : State} {tid : Nat} (v : Word) (h : liveTask s tid = true) :
    exec (.srseedWrite tid v) s = .next (putSrseed s tid v) := taskEvent_live (putSrseed · tid v) h

theorem exec_frmWrite {s : State} {tid : Nat} (v : Word) (h : liveTask s tid = true) :
    exec (.frmWrite tid v) s = .next (putFrm s tid v) := taskEvent_live (putFrm · tid v) h

theorem exec_eselWrite {s : State} {tid : Nat} (v : Word) (h : liveTask s tid = true) :
    exec (.eselWrite tid v) s = .next (putEsel s tid v) := taskEvent_live (putEsel · tid v) h

theorem exec_evrdWrite {s : State} {tid : Nat} (v : Word) (h : liveTask s tid = true) :
    exec (.evrdWrite tid v) s = .next (putEvrd s tid v) := taskEvent_live (putEvrd · tid v) h

theorem exec_evfutWrite {s : State} {tid : Nat} (v : Word) (h : liveTask s tid = true) :
    exec (.evfutWrite tid v) s = .next (putEvfut s tid v) := taskEvent_live (putEvfut · tid v) h

theorem exec_trtWrite {s : State} {tid : Nat} (v : Word) (h : liveTask s tid = true) :
    exec (.trtWrite tid v) s = .next (putTrt s tid v) := taskEvent_live (putTrt · tid v) h

theorem putEsel_eq (s : State) (tid : Nat) (v : Word) :
    putEsel s tid v = s.modTask tid fun t => { t with r := { t.r with esel := BitVec.ofNat 2 v.toNat }, epWords := [] } := by
  rw [putEsel, State.modR, modTask_modTask]; rfl

theorem bits_low3 (v : Word) : bits v 2 0 = v.toNat % 8 := by simp [bits]

theorem putFrm_valid {s : State} {tid : Nat} {v : Word} (h1 : 1 ≤ v.toNat % 8) (h5 : v.toNat % 8 ≤ 5) :
    putFrm s tid v = s.modR tid fun r => { r with frm := BitVec.ofNat 3 v.toNat } := by
  have hm : BitVec.ofNat 3 (v.toNat % 8) = BitVec.ofNat 3 v.toNat := BitVec.eq_of_toNat_eq (by simp)
  simp only [putFrm, bits_low3, h1, h5, hm, decide_true, Bool.and_self, if_true]

theorem putFrm_invalid {s : State} {tid : Nat} {v : Word} (h : v.toNat % 8 = 0 ∨ 5 < v.toNat % 8) : putFrm s tid v = s := by
  rw [putFrm, if_neg]
  rw [bits_low3, Bool.and_eq_true, decide_eq_true_eq, decide_eq_true_eq]
  omega

theorem putEvrd_eq (s : State) (tid : Nat) (v : Word) :
    putEvrd s tid v = s.modCtx (s.task tid).ctx fun c => { c with evrd := if c.evidx.toNat < v.toNat then c.evidx else v } := by
  simp only [putEvrd, BitVec.ult, decide_eq_true_eq]

theorem exec_csrWrite (s : State) (tid : Nat) (n : BitVec 12) (v : Word) : exec (.csrWrite tid n v) s = execCsrWrite tid n v s := rfl

/-- A number that the thread may write takes the value that CSRW's write gives. -/
theorem exec_csrWrite_allowed {s : State} {tid : Nat} {n : BitVec 12} (v : Word) (h : liveTask s tid = true)
    (hp : (csrPrivileged n.toNat true && !isFirmware s tid) = false) :
    exec (.csrWrite tid n v) s = .next (csrPut s tid n.toNat v) := by
  rw [exec_csrWrite, execCsrWrite, taskEvent_live _ h, hp]; rfl

/-- A number reserved to firmware keeps its value in another context. -/
theorem exec_csrWrite_reserved {s : State} {tid : Nat} {n : BitVec 12} (v : Word) (h : liveTask s tid = true)
    (hp : (csrPrivileged n.toNat true && !isFirmware s tid) = true) : exec (.csrWrite tid n v) s = .next s := by
  rw [exec_csrWrite, execCsrWrite, taskEvent_live _ h, hp]; rfl

/-! ### Fills (O40) -/

theorem walkFill_some {s : State} {die : Nat} {f : Fill} {t : Tlb} (h : walkLeaf s die f.asid f.vpn = some t) :
    walkFill s die f = (some t, { f with walked := true }) := by
  rw [walkFill, h]

theorem walkFill_none {s : State} {die : Nat} {f : Fill} (h : walkLeaf s die f.asid f.vpn = none) :
    walkFill s die f = (none, { f with walked := true, reply := PAGE_ABSENT.toNat }) := by
  rw [walkFill, h]

theorem exec_tlbFillRequest_found {s : State} {cl i : Nat} {f : Fill} {t : Tlb} (h : (s.cluster cl).fills[i]? = some f)
    (hw : f.walked = false) (ht : walkLeaf s (dieOfCl cl) f.asid f.vpn = some t) :
    exec (.tlbFillRequest cl i) s = .next (tlbWrite
      (s.modCluster cl fun c => { c with fills := lset c.fills i { f with walked := true } }) cl t.tag t.word).2 := by
  show execTlbFillRequest cl i s = _
  simp only [execTlbFillRequest, h, hw, walkFill_some ht, Bool.false_eq_true, if_false]

theorem exec_tlbFillRequest_absent {s : State} {cl i : Nat} {f : Fill} (h : (s.cluster cl).fills[i]? = some f)
    (hw : f.walked = false) (ht : walkLeaf s (dieOfCl cl) f.asid f.vpn = none) :
    exec (.tlbFillRequest cl i) s = .next (s.modCluster cl fun c =>
      { c with fills := lset c.fills i { f with walked := true, reply := PAGE_ABSENT.toNat } }) := by
  show execTlbFillRequest cl i s = _
  simp only [execTlbFillRequest, h, hw, walkFill_none ht, Bool.false_eq_true, if_false]

/-- An entry written is the latest of its cluster's TLB; what else the cluster holds is as before. -/
theorem cluster_tlbWrite (s : State) (cl : Nat) (tag e : Word) :
    ∃ made, (tlbWrite s cl tag e).2.cluster cl = { s.cluster cl with tlb := { tag := tag, word := e } :: made } := by
  unfold tlbWrite
  exact ⟨_, cluster_modCluster s cl fun c => { c with tlb := { tag := tag, word := e } :: _ }⟩

@[simp] theorem tlbWrite_mem (s : State) (cl : Nat) (tag e : Word) : (tlbWrite s cl tag e).2.mem = s.mem := rfl

theorem accessFault_running {s : State} {tid : Nat} (x : Halt) (hl : liveTask s tid = true) (hh : (s.task tid).halt = none)
    (hs : (s.task tid).slot.isSome = true) (hf : isFrozen s tid = false) : accessFault s tid x = haltTask s tid x := by
  simp [accessFault, hl, hh, hs, hf]

theorem exec_tlbFillReply_filled {s : State} {cl i : Nat} {f : Fill} (h : (s.cluster cl).fills[i]? = some f)
    (hw : f.walked = true) (hr : f.reply = 0) :
    exec (.tlbFillReply cl i) s = .next (s.modCluster cl fun c => { c with fills := ldel c.fills i }) := by
  show execTlbFillReply cl i s = _
  simp only [execTlbFillReply, h, hw, hr, Bool.not_true, Bool.false_eq_true, if_false, if_true]

/-- A fill that is answered with a code ends the accesses of the threads that wait for it, and the engines'. -/
theorem exec_tlbFillReply_refused {s : State} {cl i : Nat} {f : Fill} (h : (s.cluster cl).fills[i]? = some f)
    (hw : f.walked = true) (hr : f.reply ≠ 0) :
    exec (.tlbFillReply cl i) s = .next (f.xfers.foldl (fun s x => engineFault s cl x (BitVec.ofNat 8 f.reply))
      (f.threads.foldl (fun s e => accessFault s e.1 { e.2 with code := BitVec.ofNat 8 f.reply })
        (s.modCluster cl fun c => { c with fills := ldel c.fills i }))) := by
  show execTlbFillReply cl i s = _
  simp only [execTlbFillReply, h, hw, hr, Bool.not_true, Bool.false_eq_true, if_false]

theorem exec_hubTlbFill_found {s : State} {i : Nat} {f : Fill} {t : Tlb} (h : s.hub.fills[i]? = some f)
    (hw : f.walked = false) (ht : walkLeaf s (dieOfCl (hubCl s)) f.asid f.vpn = some t) :
    exec (.hubTlbFill i) s = .next (s.modHub fun h =>
      { h with fills := ldel h.fills i
               tlb := t :: (h.tlb.filter fun x => !x.overlaps t.asid t.base (2^pageBits t.word)).take 511 }) := by
  show execHubTlbFill i s = _
  simp only [execHubTlbFill, h, hw, walkFill_some ht, Bool.false_eq_true, if_false]

theorem exec_hubTlbFill_absent {s : State} {i : Nat} {f : Fill} (h : s.hub.fills[i]? = some f)
    (hw : f.walked = false) (ht : walkLeaf s (dieOfCl (hubCl s)) f.asid f.vpn = none) :
    exec (.hubTlbFill i) s = .next (s.modHub fun h =>
      { h with fills := lset h.fills i { f with walked := true, reply := PAGE_ABSENT.toNat } }) := by
  show execHubTlbFill i s = _
  simp only [execHubTlbFill, h, hw, walkFill_none ht, Bool.false_eq_true, if_false]

/-! ### Page futures (O40) -/

theorem exec_pageFutureSettle_noFuture {s : State} {cl i : Nat} {p : PageFut} (code : BitVec 8) (word : Word)
    (h : (s.cluster cl).pageFuts[i]? = some p) (hh : p.h = none) : exec (.pageFutureSettle cl i code word) s = .next s := by
  show execPageFutureSettle cl i code word s = _
  simp only [execPageFutureSettle, h, hh]

theorem exec_pageFutureSettle_invalid {s : State} {cl i : Nat} {p : PageFut} {w : Word} (word : Word)
    (h : (s.cluster cl).pageFuts[i]? = some p) (hh : p.h = some w) (hv : bit word 63 = false) :
    exec (.pageFutureSettle cl i 0 word) s = .next s := by
  show execPageFutureSettle cl i 0 word s = _
  simp [execPageFutureSettle, h, hh, hv]

theorem exec_pageFutureSettle_present {s : State} {cl i : Nat} {p : PageFut} {w word : Word}
    (h : (s.cluster cl).pageFuts[i]? = some p) (hh : p.h = some w) (hv : bit word 63 = true)
    (ht : tlbOk (pageTag s p.ctx p.vpn) word = true) :
    exec (.pageFutureSettle cl i 0 word) s = .next (settlePage (tlbWrite
      (putLeaf (s.modCluster cl fun c => { c with pageFuts := ldel c.pageFuts i }) p.ctx
        { tag := pageTag s p.ctx p.vpn, word := word }) cl (pageTag s p.ctx p.vpn) word).2 w 0) := by
  show execPageFutureSettle cl i 0 word s = _
  simp [execPageFutureSettle, h, hh, hv, ht]

theorem exec_pageFutureSettle_lost {s : State} {cl i : Nat} {p : PageFut} {w : Word} {code : BitVec 8} (word : Word)
    (h : (s.cluster cl).pageFuts[i]? = some p) (hh : p.h = some w) (hc : code ≠ 0) :
    exec (.pageFutureSettle cl i code word) s =
      .next (losePage (settlePage (s.modCluster cl fun c => { c with pageFuts := ldel c.pageFuts i }) w code) cl p) := by
  show execPageFutureSettle cl i code word s = _
  simp [execPageFutureSettle, h, hh, show ¬ code = 0#8 from hc]

theorem losePage_idle (s : State) (cl : Nat) {p : PageFut} (ht : p.threads = []) (hx : p.xfers = []) (hb : p.hub = false) :
    losePage s cl p = s := by
  simp [losePage, ht, hx, hb]

@[simp] theorem settleH_mem (s : State) (h : Word) (st : FState) (v : Word) (c : Code) (fl : BitVec 6) :
    (settleH s h st v c fl).mem = s.mem := by
  unfold settleH
  split
  · split <;> rfl
  · rfl

theorem settleH_ctxs (s : State) (h : Word) (st : FState) (v : Word) (c : Code) (fl : BitVec 6) :
    (settleH s h st v c fl).ctxs = s.ctxs := by
  unfold settleH
  split
  · split <;> rfl
  · rfl

@[simp] theorem settlePage_mem (s : State) (h : Word) (c : Code) : (settlePage s h c).mem = s.mem := by
  have hs (t : State) (ht : t.mem = s.mem) : (if c = 0 then resolveH t h (w64 s.free.1) else poisonH t h c).mem = s.mem := by
    split
    · exact (settleH_mem ..).trans ht
    · exact (settleH_mem ..).trans ht
  unfold settlePage
  dsimp only
  split
  · split <;> exact hs s.free.2 rfl
  · exact hs s.free.2 rfl

theorem settlePage_ctxs (s : State) (h : Word) (c : Code) : (settlePage s h c).ctxs = s.ctxs := by
  have hs (t : State) (ht : t.ctxs = s.ctxs) : (if c = 0 then resolveH t h (w64 s.free.1) else poisonH t h c).ctxs = s.ctxs := by
    split
    · exact (settleH_ctxs ..).trans ht
    · exact (settleH_ctxs ..).trans ht
  unfold settlePage
  dsimp only
  split
  · split <;> exact hs s.free.2 rfl
  · exact hs s.free.2 rfl

theorem settlePage_ctx (s : State) (h : Word) (c : Code) (x : Nat) : (settlePage s h c).ctx x = s.ctx x := by
  rw [State.ctx, settlePage_ctxs]; rfl

@[simp] theorem putLeaf_mem (s : State) (ctx : Nat) (t : Tlb) : (putLeaf s ctx t).mem = s.mem := modCtx_mem _ _ _

theorem putLeaf_pages {s : State} {ctx : Nat} (t : Tlb) (h : (mfind s.ctxs ctx).isSome = true) :
    ((putLeaf s ctx t).ctx ctx).pages.head? = some t := by
  obtain ⟨x, hx⟩ := Option.isSome_iff_exists.mp h
  simp [putLeaf, State.modCtx, State.ctx, hx]

/-- Settles O40: each event's outcome is one of the lemmas above. -/
theorem registerAndFillEvents : Obligations.RegisterAndFillEvents := by
  refine ⟨fun s tid v hl => ⟨?_, fun h1 h5 => ?_, fun h => ?_, ?_, ?_, ?_, ?_, ?_, ?_, ?_, fun hf => ?_, fun hf => ?_⟩,
    fun s cl i f t code word p h => ⟨fun hf _ _ => ⟨fun hw ht => ?_, fun hw ht => ?_, fun hw hr => ?_, fun hw hr hx tid d hd hl hh hs hz => ?_⟩,
      fun hf hw => ⟨fun ht => ?_, fun ht => ?_⟩, fun hp => ⟨fun hn => ?_, fun hn => ⟨fun hc hv => ?_, fun hc hv hok hctx => ?_, fun hc ht hx hb => ?_⟩⟩⟩⟩
  · exact exec_srseedWrite v hl
  · exact (exec_frmWrite v hl).trans (congrArg _ (putFrm_valid h1 h5))
  · exact (exec_frmWrite v hl).trans (congrArg _ (putFrm_invalid h))
  · exact (exec_eselWrite v hl).trans (congrArg _ (putEsel_eq s tid v))
  · exact (exec_evrdWrite v hl).trans (congrArg _ (putEvrd_eq s tid v))
  · exact exec_evfutWrite v hl
  · exact exec_trtWrite v hl
  · exact exec_csrWrite_allowed v hl rfl
  · exact exec_csrWrite_allowed v hl rfl
  · exact exec_csrWrite_allowed v hl rfl
  · exact exec_csrWrite_allowed v hl (by rw [hf]; rfl)
  · exact exec_csrWrite_reserved v hl (by rw [hf]; rfl)
  · obtain ⟨made, hm⟩ := cluster_tlbWrite (s.modCluster cl fun c => { c with fills := lset c.fills i { f with walked := true } })
      cl t.tag t.word
    refine ⟨_, exec_tlbFillRequest_found hf hw ht, rfl, ?_, ?_⟩
    · rw [hm]; rfl
    · rw [hm, cluster_modCluster]
  · exact exec_tlbFillRequest_absent hf hw ht
  · exact exec_tlbFillReply_filled hf hw hr
  · refine ⟨_, exec_tlbFillReply_refused hf hw hr, ?_⟩
    rw [hx, hd]
    simp only [List.foldl_cons, List.foldl_nil]
    rw [accessFault_running (s := s.modCluster cl _) _ hl hh hs hz, haltTask_task]
    exact ⟨rfl, rfl⟩
  · refine ⟨_, _, exec_hubTlbFill_found hf hw ht, rfl, ?_, rfl, fun x hx => ?_⟩
    · rw [List.length_take]; omega
    · simpa using (List.mem_filter.mp (List.mem_of_mem_take hx)).2
  · exact exec_hubTlbFill_absent hf hw ht
  · exact exec_pageFutureSettle_noFuture code word hp hn
  · subst hc
    exact exec_pageFutureSettle_invalid word hp hn (by rw [bit, hv]; rfl)
  · subst hc
    refine ⟨_, exec_pageFutureSettle_present hp hn (by rw [bit, hv]; rfl) hok, ?_, ?_⟩
    · exact (settlePage_mem ..).trans ((tlbWrite_mem ..).trans (putLeaf_mem ..))
    · rw [settlePage_ctx]
      exact putLeaf_pages _ hctx
  · rw [exec_pageFutureSettle_lost word hp hn hc, losePage_idle _ _ ht hx hb]

end Sys2Proof.Proofs
end

section
namespace Sys2Proof.Proofs
open Sys2Proof.Machine Sys2Proof.Laws

/- One proof after another: every worker waiting in a proof holds a stack of its own, and this many at once exceed the
check's memory. -/
set_option Elab.async false

/-! O60: what a step leaves of the canonical form of memory. The rules for the shapes a model function is built of
come first, then one lemma per function in the model's order: `f_mem` where it writes no memory, `f_canon` (or `_sat`,
`_eng`, `_res` by what it returns) where it does. -/

/-- Memory is in canonical form (R1, R214): what every step keeps. -/
def Canon (s : State) : Prop := memWf s.mem = true

@[simp] theorem canon_iff (s : State) : Canon s ↔ memWf s.mem = true := Iff.rfl

theorem Canon.of_mem {s t : State} (h : Canon s) (e : t.mem = s.mem) : Canon t := by
  rw [canon_iff, e]; exact h

theorem Canon.ite {c : Prop} [Decidable c] {s t : State} (hs : c → Canon s) (ht : ¬c → Canon t) :
    Canon (if c then s else t) :=
  iteInduction hs ht

theorem Canon.of_snd {A : Type} {x : A × State} {a : A} {t : State} (e : x = (a, t)) (h : Canon x.2) : Canon t := by
  rw [e] at h; exact h

theorem Canon.of_fst {B : Type} {x : State × B} {b : B} {t : State} (e : x = (t, b)) (h : Canon x.1) : Canon t := by
  rw [e] at h; exact h

theorem Canon.getD {o : Option State} {s : State} (ho : ∀ t, o = some t → Canon t) (h : Canon s) :
    Canon (o.getD s) := by
  cases o with
  | none => exact h
  | some t => exact ho t rfl

/-- The change of state that comes with a wait or a leave keeps the form. -/
def StopOk : Stop → Prop
  | .trap _ _ => True
  | .wait _ f => ∀ s, Canon s → Canon (f s)
  | .gone f => ∀ s, Canon s → Canon (f s)

@[simp] theorem stopOk_trap (c : Code) (d : Word) : StopOk (.trap c d) := trivial

@[simp] theorem stopOk_wait (c : Cause) (f : State → State) : StopOk (.wait c f) ↔ ∀ s, Canon s → Canon (f s) := Iff.rfl

@[simp] theorem stopOk_gone (f : State → State) : StopOk (.gone f) ↔ ∀ s, Canon s → Canon (f s) := Iff.rfl

/-- What an instruction computes has `Q`, and whatever stops it keeps the form of memory. -/
def Sat {A : Type} (x : M A) (Q : A → Prop) : Prop :=
  match x with
  | .ok a => Q a
  | .error e => StopOk e

@[simp] theorem sat_ok {A : Type} (a : A) (Q : A → Prop) : Sat (.ok a) Q ↔ Q a := Iff.rfl

@[simp] theorem sat_error {A : Type} (e : Stop) (Q : A → Prop) : Sat (.error e) Q ↔ StopOk e := Iff.rfl

@[simp] theorem sat_fault {A : Type} (c : Code) (Q : A → Prop) : Sat (fault c) Q := trivial

@[simp] theorem sat_faultAt {A : Type} (c : Code) (d : Nat) (Q : A → Prop) : Sat (faultAt c d) Q := trivial

@[simp] theorem sat_hold {A : Type} (c : Cause) (Q : A → Prop) : Sat (hold c) Q := fun _ h => h

theorem Sat.of_ok {A : Type} {x : M A} {Q : A → Prop} {a : A} (h : Sat x Q) (e : x = .ok a) : Q a := by
  rw [e] at h; exact h

theorem Sat.of_error {A : Type} {x : M A} {Q : A → Prop} {e : Stop} (h : Sat x Q) (he : x = .error e) : StopOk e := by
  rw [he] at h; exact h

theorem Sat.mono {A : Type} {x : M A} {P Q : A → Prop} (h : Sat x P) (hq : ∀ a, P a → Q a) : Sat x Q := by
  cases x with
  | ok a => exact hq a h
  | error e => exact h

theorem Sat.bind {A B : Type} {x : M A} {k : A → M B} {P : A → Prop} {Q : B → Prop} (h : Sat x P)
    (hk : ∀ a, P a → Sat (k a) Q) : Sat (x >>= k) Q := by
  cases x with
  | ok a => exact hk a h
  | error e => exact h

theorem Sat.bind_ok {A B : Type} {a : A} {k : A → M B} {Q : B → Prop} (h : Sat (k a) Q) : Sat (.ok a >>= k) Q := h

theorem Sat.map {A B : Type} {x : M A} {f : A → B} {Q : B → Prop} (h : Sat x fun a => Q (f a)) : Sat (x.map f) Q := by
  cases x with
  | ok a => exact h
  | error e => exact h

theorem Sat.ite {A : Type} {c : Prop} [Decidable c] {x y : M A} {Q : A → Prop} (hx : c → Sat x Q) (hy : ¬c → Sat y Q) :
    Sat (if c then x else y) Q := iteInduction (motive := (Sat · Q)) hx hy

/-- A check that stops the instruction, and what comes after it. -/
theorem Sat.guard {A B : Type} {c : Prop} [Decidable c] {x : M A} {k : A → M B} {y : M B} {Q : B → Prop}
    (hy : ¬c → Sat y Q) (hx : Sat x fun _ => False := by simp) : Sat (if c then x >>= k else y) Q := by
  split
  · exact hx.bind fun _ h => h.elim
  · next hc => exact hy hc

/-- A step that never goes on. -/
theorem Sat.stop {A B : Type} {x : M A} {k : A → M B} {Q : B → Prop} (hx : Sat x fun _ => False := by simp) :
    Sat (x >>= k) Q :=
  hx.bind fun _ h => h.elim

/-- What an engine's access leaves, done or waiting. -/
def EngOk {A : Type} : Eng A → Prop
  | .ok _ s => Canon s
  | .wait s _ => Canon s
  | .bad _ => True

@[simp] theorem engOk_ok {A : Type} (a : A) (s : State) : EngOk (.ok a s) ↔ Canon s := Iff.rfl

@[simp] theorem engOk_wait {A : Type} (s : State) (c : Cause) : EngOk (.wait s c : Eng A) ↔ Canon s := Iff.rfl

@[simp] theorem engOk_bad {A : Type} (c : Code) : EngOk (.bad c : Eng A) := trivial

theorem EngOk.of_ok {A : Type} {x : Eng A} {a : A} {s : State} (h : EngOk x) (e : x = .ok a s) : Canon s := by
  rw [e] at h; exact h

theorem EngOk.of_wait {A : Type} {x : Eng A} {s : State} {c : Cause} (h : EngOk x) (e : x = .wait s c) : Canon s := by
  rw [e] at h; exact h

theorem EngOk.bind {A B : Type} {x : Eng A} {f : A → State → Eng B} (h : EngOk x)
    (hf : ∀ a s, Canon s → EngOk (f a s)) :
    EngOk (x.bind f) := by
  cases x with
  | ok a s => exact hf a s h
  | wait s c => exact h
  | bad c => trivial

theorem EngOk.ite {A : Type} {c : Prop} [Decidable c] {x y : Eng A} (hx : c → EngOk x) (hy : ¬c → EngOk y) :
    EngOk (if c then x else y) := iteInduction hx hy

/-- As `EngOk`, for a work that hands on the state after it as its value. -/
def WorkOk : Eng State → Prop
  | .ok t _ => Canon t
  | .wait s _ => Canon s
  | .bad _ => True

theorem WorkOk.bind {A : Type} {x : Eng A} {f : A → State → Eng State} (h : EngOk x)
    (hf : ∀ a s, Canon s → WorkOk (f a s)) :
    WorkOk (x.bind f) := by
  cases x with
  | ok a s => exact hf a s h
  | wait s c => exact h
  | bad c => trivial

/-- An outcome's next state, if there is one. -/
def ResOk (r : Res) : Prop := ∀ s', r = .next s' → Canon s'

@[simp] theorem resOk_next (s : State) : ResOk (.next s) ↔ Canon s :=
  ⟨fun h => h s rfl, fun h s' e => by cases e; exact h⟩

@[simp] theorem resOk_fault (f : Fault) : ResOk (.fault f) := fun _ e => by simp at e

/-- A fold keeps what each of its steps keeps. -/
theorem foldl_keeps {A B C : Type} {g : B → A → B} (f : B → C) (l : List A) (b : B) (h : ∀ b a, f (g b a) = f b) :
    f (l.foldl g b) = f b := by
  induction l generalizing b with
  | nil => rfl
  | cons a r ih => exact (ih _).trans (h b a)

theorem ResOk.ite {c : Prop} [Decidable c] {x y : Res} (hx : c → ResOk x) (hy : ¬c → ResOk y) :
    ResOk (if c then x else y) :=
  iteInduction hx hy

@[simp] theorem foldl_mem {A : Type} {g : State → A → State} (l : List A) (s : State) (h : ∀ s a, (g s a).mem = s.mem) :
    (l.foldl g s).mem = s.mem := foldl_keeps State.mem l s h

@[simp] theorem ite_mem (c : Prop) [Decidable c] (s t : State) :
    (if c then s else t).mem = if c then s.mem else t.mem :=
  apply_ite State.mem c s t

@[simp] theorem ite_snd_mem {A : Type} (c : Prop) [Decidable c] (x y : A × State) :
    (if c then x else y).2.mem = if c then x.2.mem else y.2.mem := apply_ite (fun z : A × State => z.2.mem) c x y

theorem foldl_canon {A : Type} {g : State → A → State} (l : List A) (hg : ∀ s a, Canon s → Canon (g s a)) {s : State}
    (h : Canon s) : Canon (l.foldl g s) := by
  induction l generalizing s with
  | nil => exact h
  | cons a r ih => exact ih (hg s a h)

/-! ### The functions of `Machine/Ops.lean` -/

theorem need_sat {b c d} : Sat (need b c d) fun _ => True := by
  unfold need; split <;> trivial

@[simp] theorem fresh_mem (s : State) : (State.fresh s).2.mem = s.mem := rfl

@[simp] theorem free_mem (s : State) : (State.free s).2.mem = s.mem := rfl

@[simp] theorem deadTaken_mem (s : State) (tid : Nat) : (deadTaken s tid).mem = s.mem := rfl

@[simp] theorem haltTask_mem (s : State) (tid : Nat) (hd : Halt) : (haltTask s tid hd).mem = s.mem := rfl

@[simp] theorem trapEntry_mem (s : State) (tid len : Nat) (code : BitVec 7) :
    (trapEntry s tid len code).mem = s.mem := rfl

@[simp] theorem trapReturn_mem (s : State) (tid : Nat) : (trapReturn s tid).mem = s.mem := rfl

@[simp] theorem raiseVector_mem (s : State) (v : Nat) : (raiseVector s v).mem = s.mem := rfl

@[simp] theorem maskVector_mem (s : State) (v : Nat) (mask : Bool) : (maskVector s v mask).mem = s.mem := by
  simp [maskVector]

/-! ### The functions of `Machine/Tokens.lean` -/

@[simp] theorem mapCores_mem (s : State) (die : Nat) (f : Core → Core) : (State.mapCores s die f).mem = s.mem := rfl

theorem waitTok_sat {A : Type} {s r l k} {Q : A → Prop} : Sat (waitTok s r l k) Q := by
  unfold waitTok
  split
  · exact sat_hold _ _
  · exact fun s h => by simpa using h

@[simp] theorem askHome_mem (s : State) (k : Req) (l : Nat) (snoop : Bool) :
    (State.askHome s k l snoop).mem = s.mem := by
  simp [State.askHome]

@[simp] theorem putAccs_mem (s : State) (l : FMap PeerAcc) : (putAccs s l).mem = s.mem := rfl

theorem peerTaken_canon {s who kind dpa len} (h : Canon s) : ∀ t, peerTaken s who kind dpa len = some t → Canon t := by
  intro t e
  unfold peerTaken at e
  split at e
  · cases e
    split
    · exact h
    · exact memWrite_mem_wf _ _ _ h
  · cases e

theorem performSent_canon {s : State} {die seq : Nat} (h : Canon s) : Canon (performSent s die seq) := by
  unfold performSent
  exact performDie_mem_wf _ _ h

@[simp] theorem markRel_mem (s : State) (tid : Nat) : (markRel s tid).mem = s.mem := by simp [markRel]

theorem needRel_sat {s tid scope} : Sat (needRel s tid scope) fun _ => True := by
  unfold needRel
  split
  · trivial
  · exact fun s h => by simpa using h

theorem needFifo_sat {s tid} : Sat (needFifo s tid) fun _ => True := by
  unfold needFifo; split <;> simp

/-! ### The functions of `Machine/Addr.lean` -/

@[simp] theorem uaWrite_mem (s : State) (k ctx o : Nat) (bs : List Byte) : (uaWrite s k ctx o bs).mem = s.mem := rfl

@[simp] theorem uaPutWord_mem (s : State) (k ctx o : Nat) (v : Word) : (uaPutWord s k ctx o v).mem = s.mem := rfl

@[simp] theorem uaSetPoison_mem (s : State) (k ctx : Nat) (ws : List Nat) : (uaSetPoison s k ctx ws).mem = s.mem := rfl

@[simp] theorem lookupCore_mem (s : State) (k ctx va : Nat) : (lookupCore s k ctx va).2.mem = s.mem := by
  unfold lookupCore
  dsimp only
  repeat' split
  all_goals simp

@[simp] theorem lookupCluster_mem (s : State) (cl ctx va : Nat) : (lookupCluster s cl ctx va).2.mem = s.mem := by
  unfold lookupCluster
  split <;> simp

@[simp] theorem noteLeaf_mem (s : State) (ctx : Nat) (x : Xl) : (noteLeaf s ctx x).mem = s.mem := by
  unfold noteLeaf
  split <;> simp

@[simp] theorem xlThread_mem (s : State) (tid va : Nat) (a : Acc) : (xlThread s tid va a).2.mem = s.mem := by
  grind [xlThread, lookupCore_mem, noteLeaf_mem]

@[simp] theorem xlEngine_mem (s : State) (cl ctx va : Nat) (a : Acc) : (xlEngine s cl ctx va a).2.mem = s.mem := by
  grind [xlEngine, lookupCluster_mem, noteLeaf_mem]

@[simp] theorem askFill_mem (s : State) (cl ctx va : Nat) (who : Option (Nat × Halt)) (x : Option Nat) :
    (askFill s cl ctx va who x).mem = s.mem := rfl

/-! ### The functions of `Machine/Futures.lean` -/

theorem checkHandle_sat {hd : Word} : Sat (checkHandle hd) fun _ => True := need_sat

@[simp] theorem settle_mem (s : State) (cl : Nat) (f : Fut) (st : FState) (v : Word) (code : Code) (flags : BitVec 6) :
    (settle s cl f st v code flags).mem = s.mem := rfl

@[simp] theorem resolveH_mem (s : State) (hd v : Word) (flags : BitVec 6) : (resolveH s hd v flags).mem = s.mem := by
  simp [resolveH]

@[simp] theorem poisonH_mem (s : State) (hd : Word) (c : Code) : (poisonH s hd c).mem = s.mem := by simp [poisonH]

@[simp] theorem cancelH_mem (s : State) (hd : Word) : (cancelH s hd).mem = s.mem := by simp [cancelH]

@[simp] theorem spillFut_mem (s : State) (cl : Nat) (f : Fut) : (spillFut s cl f).mem = s.mem := rfl

theorem allocFut_mem {s cl ctx launch prod op rel left w t} (e : allocFut s cl ctx launch prod op rel left = .got w t) :
    t.mem = s.mem := by
  unfold allocFut at e
  dsimp only at e
  split at e
  · split at e <;> cases e
  · cases e; rfl

theorem allocM_sat {s cl ctx launch prod op rel left} (h : Canon s) :
    Sat (allocM (allocFut s cl ctx launch prod op rel left)) fun o => ∀ p ∈ o, Canon p.2 := by
  unfold allocM
  split
  · next w t e =>
    rintro _ ⟨⟩
    exact h.of_mem (allocFut_mem e)
  · simp
  · simp

@[simp] theorem pageFuture_mem (s cl ctx vpn launch) : (pageFuture s cl ctx vpn launch).2.mem = s.mem := by
  have hf : (match allocFut s cl ctx launch .page with
      | .got w s => (some w, s)
      | _ => (none, s) : Option Word × State).2.mem = s.mem := by
    split
    · next e => exact allocFut_mem e
    · rfl
  unfold pageFuture
  dsimp only
  split
  · exact hf
  · split
    · rfl
    · exact hf

@[simp] theorem notePage_mem (s : State) (cl ctx vpn : Nat) (w : Option Word) (add : PageFut → PageFut) :
    (notePage s cl ctx vpn w add).mem = s.mem := rfl

@[simp] theorem noteSeries_mem (s : State) (tid : Nat) (w : Option Word) : (State.noteSeries s tid w).mem = s.mem := rfl

/-! ### The functions of `Machine/Tasks.lean` -/

@[simp] theorem dropEntry_mem (s : State) (tid : Nat) : (dropEntry s tid).mem = s.mem := rfl

theorem makeRoom_mem {s k ctx s'} (e : makeRoom s k ctx = some s') : s'.mem = s.mem := by
  unfold makeRoom at e
  dsimp only at e
  split at e
  · cases e; rfl
  · split at e <;> cases e
    rfl

theorem pushBottom_mem {s k ctx x s'} (e : pushBottom s k ctx x = some s') : s'.mem = s.mem := by
  obtain ⟨t, ht, rfl⟩ := Option.map_eq_some_iff.mp e
  exact (makeRoom_mem ht :)

theorem pushTop_mem {s k ctx x s'} (e : pushTop s k ctx x = some s') : s'.mem = s.mem := by
  obtain ⟨t, ht, rfl⟩ := Option.map_eq_some_iff.mp e
  split at ht
  · exact (makeRoom_mem ht :)
  · cases ht; rfl

@[simp] theorem placeTask_mem (s : State) (tid k slot base : Nat) : (placeTask s tid k slot base).mem = s.mem := rfl

@[simp] theorem freeSlot_mem (s : State) (tid : Nat) : (freeSlot s tid).mem = s.mem := by
  unfold freeSlot
  split <;> simp

@[simp] theorem holdSlot_mem (s : State) (tid till : Nat) : (holdSlot s tid till).mem = s.mem := by
  unfold holdSlot
  split <;> simp

@[simp] theorem spillSlot_mem (s : State) (tid since : Nat) : (spillSlot s tid since).mem = s.mem := by simp [spillSlot]

@[simp] theorem endLeaving_mem (s : State) (k : Nat) : (endLeaving s k).mem = s.mem := rfl

@[simp] theorem dropLockReqs_mem (s : State) (tid : Nat) : (dropLockReqs s tid).mem = s.mem := rfl

@[simp] theorem clearLocks_mem (s : State) (tid : Nat) : (clearLocks s tid).mem = s.mem := rfl

@[simp] theorem unrecord_mem (s : State) (cl : Nat) (hd : Word) : (unrecord s cl hd).mem = s.mem := by simp [unrecord]

@[simp] theorem withdraw_mem (s : State) (tid : Nat) : (withdraw s tid).mem = s.mem := foldl_mem _ _ fun _ _ => by simp

@[simp] theorem freeBoth_mem (s : State) (tid since : Nat) : (freeBoth s tid since).mem = s.mem := by
  unfold freeBoth
  split <;> simp

@[simp] theorem tryPark_mem (s : State) (tid : Nat) : (tryPark s tid).mem = s.mem := by
  unfold tryPark
  dsimp only
  split <;> simp

@[simp] theorem parkTask_mem (s : State) (tid : Nat) (p : Park) : (parkTask s tid p).mem = s.mem := by simp [parkTask]

theorem pushReady_mem {s tid s'} (e : pushReady s tid = some s') : s'.mem = s.mem := (pushBottom_mem e :)

theorem backInHandlerSlot_mem {s tid s'} (e : backInHandlerSlot s tid = some s') : s'.mem = s.mem := by
  obtain ⟨i, hi, rfl⟩ := Option.map_eq_some_iff.mp e
  rfl

theorem getD_mem {o : Option State} {s : State} {m : List Host.Cell} (h : ∀ t, o = some t → t.mem = m)
    (hs : s.mem = m) :
    (o.getD s).mem = m := by
  cases o with
  | none => exact hs
  | some t => exact h t rfl

@[simp] theorem pushSaved_mem (s k) : (pushSaved s k).mem = s.mem := by
  refine foldl_mem _ _ fun s t => getD_mem (fun u e => ?_) rfl
  split at e
  · exact backInHandlerSlot_mem e
  · exact (pushReady_mem e :)

theorem makeReady_mem {s : State} {tid : Nat} {s'} (e : makeReady s tid = some s') : s'.mem = s.mem := by
  grind [makeReady, pushReady_mem]

@[simp] theorem rangePut_mem (s : State) (hd : Word) (f : Fut) : (rangePut s hd f).mem = s.mem := by simp [rangePut]

@[simp] theorem onRange_mem (s : State) (hd : Word) (g : Fut → Fut) : (onRange s hd g).mem = s.mem := by
  unfold onRange
  split <;> simp

@[simp] theorem rangeCount_mem (s : State) (hd : Word) (e : End) (flags : BitVec 6) :
    (rangeCount s hd e flags).mem = s.mem := by
  simp [rangeCount]

@[simp] theorem rangeLost_mem (s : State) (r : Range) : (rangeLost s r).mem = s.mem := by simp [rangeLost]

@[simp] theorem settleEnd_mem (s : State) (tid : Nat) (e : End) : (settleEnd s tid e).mem = s.mem := by
  unfold settleEnd
  dsimp only
  repeat' split
  all_goals simp

@[simp] theorem closeLink_mem (s : State) (tid : Nat) : (closeLink s tid).mem = s.mem := by
  unfold closeLink
  split <;> simp

@[simp] theorem finishTask_mem (s : State) (tid : Nat) (p : Phase) : (finishTask s tid p).mem = s.mem := by
  simp [finishTask]

@[simp] theorem endTask_mem (s : State) (tid : Nat) (e : End) : (endTask s tid e).mem = s.mem := by simp [endTask]

@[simp] theorem scrubSlot_mem (s : State) (tid : Nat) : (scrubSlot s tid).mem = s.mem := by simp [scrubSlot]

@[simp] theorem endShadow_mem (s : State) (tid : Nat) : (endShadow s tid).mem = s.mem := by
  unfold endShadow
  split <;> simp

@[simp] theorem endNow_mem (s : State) (tid : Nat) (e : End) : (endNow s tid e).mem = s.mem := by simp [endNow]

@[simp] theorem tryEnd_mem (s : State) (tid : Nat) : (tryEnd s tid).mem = s.mem := by simp [tryEnd]

@[simp] theorem cancelHere_mem (s : State) (tid : Nat) : (cancelHere s tid).mem = s.mem := by simp [cancelHere]

@[simp] theorem killTask_mem (s : State) (tid : Nat) (c : Code) : (killTask s tid c).mem = s.mem := by
  unfold killTask
  repeat' split
  all_goals simp

@[simp] theorem unpairAt_mem (s : State) (tid : Nat) : (unpairAt s tid).mem = s.mem := by
  unfold unpairAt
  split <;> simp

@[simp] theorem dropHeld_mem (s : State) (tid : Nat) : (dropHeld s tid).mem = s.mem := by simp [dropHeld]

@[simp] theorem breakPair_mem (s : State) (lost : Nat) : (breakPair s lost).mem = s.mem := by
  unfold breakPair
  dsimp only
  repeat' split
  all_goals simp

@[simp] theorem killThread_mem (s : State) (tid : Nat) (c : Code) : (killThread s tid c).mem = s.mem := by
  simp [killThread]

/-! ### The functions of `Machine/FutOps.lean` -/

@[simp] theorem clearBound_mem (s : State) (k ctx off : Nat) : (clearBound s k ctx off).mem = s.mem := rfl

@[simp] theorem dropRange_mem (s : State) (hd : Word) : (dropRange s hd).mem = s.mem := rfl

@[simp] theorem removeTask_mem (s : State) (t : Nat) : (removeTask s t).mem = s.mem := by simp [removeTask]

@[simp] theorem cancelRange_mem (s cl f) : (cancelRange s cl f).2.mem = s.mem := by
  unfold cancelRange
  dsimp only
  split <;> simp -implicitDefEqProofs

@[simp] theorem cancelFut_mem (s : State) (cl : Nat) (f : Fut) : (cancelFut s cl f).2.mem = s.mem := by
  unfold cancelFut
  split <;> simp

@[simp] theorem touchAt_mem (s : State) (cl : Nat) (f : Fut) (origin : Nat) (waiter : Option Nat) :
    (touchAt s cl f origin waiter).2.mem = s.mem := by
  unfold touchAt
  split <;> simp

@[simp] theorem fopAt_mem (s : State) (cl : Nat) (m : FutMsg) : (fopAt s cl m).2.mem = s.mem := by
  unfold fopAt
  dsimp only
  repeat' split
  all_goals simp

/-! ### The functions of `Machine/Record.lean` -/

@[simp] theorem cscPush_mem (s : State) (cl : Nat) (w : CscWork) : (cscPush s cl w).mem = s.mem := rfl

@[simp] theorem recStop_mem (s : State) (cl l st : Nat) : (recStop s cl l st).mem = s.mem := by simp [recStop]

@[simp] theorem recordAt_mem (s : State) (l : Option Nat) (die : Nat) (time : Word) (kind ord : Nat) (w2 w3 : Word) :
    (recordAt s l die time kind ord w2 w3).mem = s.mem := by
  unfold recordAt
  split <;> simp

@[simp] theorem recordEv_mem (s : State) (l : Option Nat) (die kind ord : Nat) (w2 w3 : Word) :
    (recordEv s l die kind ord w2 w3).mem = s.mem := by
  simp [recordEv]

@[simp] theorem takeTurn_mem (s : State) (l : Option Nat) (die kind : Nat) (w ident : Word) (place : Nat) :
    (takeTurn s l die kind w ident place).mem = s.mem := by
  unfold takeTurn
  split <;> simp

@[simp] theorem diverge_mem (s : State) (l kind tid ord : Nat) : (diverge s l kind tid ord).mem = s.mem := by
  unfold diverge
  split <;> simp

@[simp] theorem noteReplay_mem (s : State) (tid l : Nat) : (noteReplay s tid l).mem = s.mem := by simp [noteReplay]

theorem noteTask_sat {s : State} {tid kind : Nat} {v : Word} {wait : Bool} (h : Canon s) :
    Sat (noteTask s tid kind v wait) Canon := by
  unfold noteTask
  dsimp only
  repeat' split
  all_goals simp [(canon_iff s).1 h]

theorem takeTask_sat {s : State} {tid kind : Nat} {v : Word} (h : Canon s) :
    Sat (takeTask s tid kind v) fun p => Canon p.2 := by
  unfold takeTask
  dsimp only
  repeat' split
  all_goals simp [(canon_iff s).1 h]

theorem noteAmo_sat {s : State} {tid va : Nat} (h : Canon s) : Sat (noteAmo s tid va) Canon := by
  unfold noteAmo
  dsimp only
  split
  · simpa using h
  · refine Sat.ite (fun _ => ?_) fun _ => ?_
    · simpa using h
    · split
      · next e4 =>
          have h4 := (noteTask_sat h).of_error e4
          simpa using h4
      · next e4 =>
          have h4 := (noteTask_sat h).of_ok e4
          simpa using h4

@[simp] theorem hostData_mem (s : State) (launch : Option Nat) (die : Nat) (bs : List Byte) :
    (hostData s launch die bs).2.mem = s.mem := by
  unfold hostData
  repeat' split
  all_goals simp

/-! ### The functions of `Machine/Access.lean` -/

@[simp] theorem pageWait_mem (s : State) (tid va pb : Nat) (hd : Halt) : (pageWait s tid va pb hd).mem = s.mem := by
  unfold pageWait
  dsimp only
  split <;> simp

theorem xlPlaceAt_sat {s : State} {tid va det : Nat} {a : Acc} (h : Canon s) :
    Sat (xlPlaceAt s tid va det a) fun p => Canon p.2 := by
  unfold xlPlaceAt
  dsimp only
  split
  · next e2 =>
      have h2 := Canon.of_snd e2 (by simpa using h)
      simpa using h2
  · next e2 =>
      have h2 := Canon.of_snd e2 (by simpa using h)
      simpa using h2
  · next e2 =>
      have h2 := Canon.of_snd e2 (by simpa using h)
      simpa using h2
  · next e2 =>
      have h2 := Canon.of_snd e2 (by simpa using h)
      simp
  · next e2 =>
      have h2 := Canon.of_snd e2 (by simpa using h)
      simp
  · next e2 =>
      have h2 := Canon.of_snd e2 (by simpa using h)
      simp

theorem xlPlace_sat {s : State} {tid va : Nat} {a : Acc} (h : Canon s) : Sat (xlPlace s tid va a) fun p => Canon p.2 :=
  xlPlaceAt_sat h

@[simp] theorem noteStash_mem (s : State) (tid va dpa : Nat) (load : Bool) :
    (noteStash s tid va dpa load).mem = s.mem := by
  unfold noteStash
  split <;> simp

theorem coreAnswers_sat {s : State} {k va : Nat} : Sat (coreAnswers s k va) fun _ => True := by
  unfold coreAnswers
  repeat' split
  all_goals simp

theorem placeOf_sat {s : State} {tid va n : Nat} {a : Acc} {door : Bool} (h : Canon s) :
    Sat (placeOf s tid va n a door) fun p => Canon p.2 := by
  unfold placeOf
  dsimp only
  refine Sat.ite (fun _ => ?_) fun _ => ?_
  · split
    · split
      · exact coreAnswers_sat.bind fun _ _ => Sat.stop
      · exact Sat.stop
    · refine coreAnswers_sat.bind fun _ _ => ?_
      split
      · refine (xlPlace_sat h).bind fun _ h6 => ?_
        split
        · refine Sat.ite (fun _ => ?_) fun _ => ?_
          · simp
          · refine Sat.ite (fun _ => ?_) fun _ => ?_
            · simp
            · simpa using h6
        · simpa using h6
      · exact h
  · refine (xlPlace_sat h).bind fun _ h3 => ?_
    split
    · refine Sat.ite (fun _ => ?_) fun _ => ?_
      · simp
      · refine Sat.ite (fun _ => ?_) fun _ => ?_
        · simp
        · simpa using h3
    · simpa using h3

@[simp] theorem l1Fill_mem (s : State) (k dpa : Nat) (e : Word) : (l1Fill s k dpa e).mem = s.mem := by simp [l1Fill]

@[simp] theorem performEarly_mem (s : State) (tid : Nat) : (performEarly s tid).mem = s.mem := by simp [performEarly]

@[simp] theorem loadedNow_mem (s : State) (tid dpa n : Nat) : (loadedNow s tid dpa n).mem = s.mem := by simp [loadedNow]

@[simp] theorem dropEarly_mem (s : State) (tid : Nat) : (dropEarly s tid).mem = s.mem := by simp [dropEarly]

@[simp] theorem closeInterval_mem (s : State) (tid : Nat) : (closeInterval s tid).mem = s.mem := rfl

theorem waitOwn_sat {A : Type} {tid c} {Q : A → Prop} : Sat (waitOwn tid c) Q := fun s h => by simpa using h

theorem peerTaken_or_self {s t : State} {c : Prop} [Decidable c] {who : Nat × Nat} {kind dpa n : Nat} (h : Canon s)
    (e : (if c then peerTaken s who kind dpa n else some s) = some t) : Canon t := by
  split at e
  · exact peerTaken_canon h _ e
  · cases e; exact h

theorem loadMem_sat {s : State} {tid dpa n : Nat} {e : Word} {plain : Bool} (h : Canon s) :
    Sat (loadMem s tid dpa n e plain) fun p => Canon p.2 := by
  unfold loadMem
  dsimp only
  split
  · exact h
  split
  · exact waitOwn_sat
  split
  · exact (canon_iff _).2 (by simpa using h)
  split
  · exact (canon_iff _).2 (by simpa using h)
  split
  · split
    · next e =>
      have hw {r l k} : Sat (waitTok s r l k) fun p : List Byte × State => Canon p.2 := waitTok_sat
      have hf := hw.of_error e
      intro s hs
      split
      · exact (canon_iff _).2 (by simpa using hf s hs)
      · exact hf s hs
    · exact waitTok_sat
  split
  · exact fun s hs => by simpa using hs
  · next e =>
    have ht := peerTaken_or_self h e
    exact (canon_iff _).2 (by split <;> simpa using ht)

theorem loadWin_sat {s : State} {tid k o n : Nat} (h : Canon s) : Sat (loadWin s tid k o n) fun p => Canon p.2 := by
  unfold loadWin
  dsimp only
  refine Sat.ite (fun _ => ?_) fun _ => ?_
  · simpa using h
  · refine Sat.ite (fun _ => ?_) fun _ => ?_
    · exact waitOwn_sat
    · simpa using h

theorem loadPlace_sat {s : State} {tid : Nat} {p : Place} {va n : Nat} {poisonOk plain : Bool} (h : Canon s) :
    Sat (loadPlace s tid p va n poisonOk plain) fun p => Canon p.2 := by
  unfold loadPlace
  split
  · exact h
  · split
    · exact h
    · trivial
  · split
    · trivial
    split
    · next e => exact (loadMem_sat (by simpa using h)).of_error e
    · next e =>
      have ht := (loadMem_sat (by simpa using h)).of_ok e
      split
      · split
        · exact ht
        · trivial
      · exact ht
  · split
    · next e => exact (loadWin_sat h).of_error e
    · next e =>
      have ht := (loadWin_sat h).of_ok e
      split
      · split
        · exact ht
        · trivial
      · exact ht

theorem loadOnce_sat {s : State} {tid va n : Nat} {plain : Bool} (h : Canon s) :
    Sat (loadOnce s tid va n plain) fun p => Canon p.2 := by
  unfold loadOnce
  refine (placeOf_sat h).bind fun _ h1 => (loadPlace_sat h1).bind fun _ h2 => ?_
  split
  split
  · refine Sat.ite (fun _ => ?_) fun _ => ?_
    · exact (takeTask_sat h2).bind fun _ h6 => by simpa using h6
    · simpa using h2
  · simpa using h2

@[simp] theorem took_mem (s : State) (v : Word) : (State.took s v).mem = s.mem := rfl

@[simp] theorem fed_mem (s : State) : (fed s).2.mem = s.mem := rfl

theorem outside_sat {s tid m} (h : Canon s) (hm : Sat m fun p => Canon p.2) :
    Sat (outside s tid m) fun p => Canon p.2 := by
  unfold outside
  split
  · exact hm
  · split
    · exact hm.bind fun _ h => h
    · exact h

theorem outsideNat_sat {s tid m} (h : Canon s) (hm : Sat m fun p => Canon p.2) :
    Sat (outsideNat s tid m) fun p => Canon p.2 := by
  have hw : Sat (m.map fun x => (w64 x.1, x.2)) fun p => Canon p.2 := by
    cases m with
    | ok a => exact hm
    | error e => exact hm
  unfold outsideNat
  split
  · next e =>
    have := (outside_sat (tid := tid) h hw).of_ok e
    split
    · exact hm
    · exact this
  · next e => exact (outside_sat (tid := tid) h hw).of_error e

theorem loadVa_sat {s : State} {tid va n : Nat} {plain : Bool} (h : Canon s) :
    Sat (loadVa s tid va n plain) fun p => Canon p.2 := by
  unfold loadVa
  refine Sat.ite (fun _ => ?_) fun _ => ?_
  · exact loadOnce_sat h
  · exact outsideNat_sat h (loadOnce_sat h)

@[simp] theorem storedAt_mem (s : State) (va : Nat) (bs : List Byte) : (State.storedAt s va bs).mem = s.mem := rfl

@[simp] theorem dropMet_mem (s : State) (tid : Nat) (x : Store) : (dropMet s tid x).mem = s.mem := by
  unfold dropMet
  split <;> simp

theorem pushStore_sat {s : State} {tid va : Nat} {x : Store} (h : Canon s) : Sat (pushStore s tid va x) Canon := by
  unfold pushStore
  dsimp only
  repeat' split
  all_goals simp [(canon_iff s).1 h]

theorem storePlace_sat {s : State} {tid : Nat} {p : Place} {va : Nat} {bs : List Byte} {rel : Option Nat}
    (h : Canon s) :
    Sat (storePlace s tid p va bs rel) Canon := by
  unfold storePlace
  split
  · exact pushStore_sat (by simpa using h)
  · exact pushStore_sat h
  · simp

theorem storeVa_sat {s : State} {tid va : Nat} {bs : List Byte} (h : Canon s) : Sat (storeVa s tid va bs) Canon := by
  unfold storeVa
  refine Sat.ite (fun _ => ?_) fun _ => ?_
  · simpa using h
  · exact (placeOf_sat h).bind fun _ h2 => storePlace_sat h2

@[simp] theorem traceWrite_mem (s : State) (k kind size src off : Nat) :
    (traceWrite s k kind size src off).mem = s.mem := by
  simp [traceWrite]

@[simp] theorem countLocal_mem (s : State) (k : Nat) : (countLocal s k).mem = s.mem := by simp [countLocal]

@[simp] theorem portWrote_mem (s : State) (k kind size src off : Nat) :
    (portWrote s k kind size src off).mem = s.mem := by
  simp [portWrote]

@[simp] theorem portWroteAll_mem (s : State) (k kind n src off : Nat) : (portWroteAll s k kind n src off).mem = s.mem :=
  foldl_keeps (fun x : State × Nat => x.1.mem) _ _ fun _ _ => portWrote_mem ..

theorem portPlace_sat {s : State} {tid va n kind : Nat} : Sat (portPlace s tid va n kind) fun _ => True := by
  unfold portPlace
  dsimp only
  split
  · split
    · exact coreAnswers_sat.bind fun _ _ => by simp
    · simp
  · refine coreAnswers_sat.bind fun _ _ => ?_
    refine Sat.ite (fun _ => ?_) fun _ => ?_
    · simp
    · refine Sat.ite (fun _ => ?_) fun _ => ?_
      · simp
      · simp

theorem needWrite_sat {s : State} {l k : Nat} : Sat (needWrite s l k) fun _ => True := by
  unfold needWrite
  refine Sat.ite (fun _ => ?_) fun _ => ?_
  · simp
  · exact waitTok_sat

theorem needHome_sat {s : State} {l : Nat} : Sat (needHome s l) fun _ => True := by
  unfold needHome
  dsimp only
  refine Sat.ite (fun _ => ?_) fun _ => ?_
  · refine Sat.ite (fun _ => ?_) fun _ => ?_
    · simp
    · simp
  · simp

/-! ### The functions of `Machine/Engines.lean` -/

@[simp] theorem setTile_mem (s : State) (cl t : Nat) (x : Tile) : (State.setTile s cl t x).mem = s.mem := rfl

theorem mxCheckDesc_sat {int : Bool} {w0 w1 w2 w3 : Word} : Sat (mxCheckDesc int w0 w1 w2 w3) fun _ => True := by
  unfold mxCheckDesc
  dsimp only
  exact Sat.guard fun _ => Sat.guard fun _ => Sat.guard fun _ => Sat.guard fun _ => need_sat

theorem mxCheck_sat {s : State} {cl ctx : Nat} {w0 w1 w2 w3 : Word} :
    Sat (mxCheck s cl ctx w0 w1 w2 w3) fun _ => True :=
  mxCheckDesc_sat.bind fun _ _ => need_sat

@[simp] theorem takeAtset_mem (s : State) (tid : Nat) : (takeAtset s tid).2.mem = s.mem := rfl

@[simp] theorem srStep_mem (s : State) (tid : Nat) : (srStep s tid).2.mem = s.mem := rfl

@[simp] theorem mxAccept_mem (s : State) (cl : Nat) (j : Job) (ident : Word) : (mxAccept s cl j ident).mem = s.mem := by
  simp [mxAccept]

@[simp] theorem mxSubmit_mem (s : State) (tid id : Nat) (sink : Sink) (w0 w1 w2 w3 : Word) :
    (mxSubmit s tid id sink w0 w1 w2 w3).mem = s.mem := by
  simp [mxSubmit]

theorem xfCheck_sat {op : Nat} {w0 w1 w2 w3 : Word} : Sat (xfCheck op w0 w1 w2 w3) fun _ => True := by
  unfold xfCheck
  dsimp only
  exact Sat.guard fun _ => Sat.guard fun _ => need_sat

@[simp] theorem xfSubmit_mem (s : State) (tid id : Nat) (sink : Sink) (w0 w1 w2 w3 : Word) :
    (xfSubmit s tid id sink w0 w1 w2 w3).mem = s.mem := rfl

theorem epSubmit_sat {s : State} {tid : Nat} {w3 : Word} (h : Canon s) : Sat (epSubmit s tid w3) Canon := by
  unfold epSubmit
  dsimp only
  refine Sat.ite (fun _ => ?_) fun _ => ?_
  · exact mxCheck_sat.bind fun _ _ => Sat.guard fun _ => needRel_sat.bind fun _ _ => by simpa using h
  · exact xfCheck_sat.bind fun _ _ => Sat.guard fun _ => needRel_sat.bind fun _ _ => by simpa using h

theorem epPush_sat {s : State} {tid : Nat} {v : Word} (h : Canon s) : Sat (epPush s tid v) Canon := by
  unfold epPush
  refine Sat.ite (fun _ => ?_) fun _ => ?_
  · simpa using h
  · exact epSubmit_sat h

@[simp] theorem epPop_mem (s : State) (tid : Nat) : (epPop s tid).2.mem = s.mem := by simp [epPop]

/-! ### The functions of `Machine/Operands.lean` -/

@[simp] theorem setLinkQ_mem (s : State) (tid port : Nat) (f : List Word → List Word) :
    (setLinkQ s tid port f).mem = s.mem := by
  unfold setLinkQ
  split <;> simp

theorem checkOperands_sat {s : State} {tid : Nat} {ops : List Opd} : Sat (checkOperands s tid ops) fun _ => True := by
  unfold checkOperands
  repeat' split
  all_goals trivial

theorem sourceReady_sat {s : State} {tid n : Nat} : Sat (sourceReady s tid n) fun _ => True := by
  unfold sourceReady
  dsimp only
  refine Sat.ite (fun _ => ?_) fun _ => ?_
  · split
    · refine Sat.ite (fun _ => ?_) fun _ => ?_
      · simp
      · refine Sat.ite (fun _ => ?_) fun _ => ?_
        · simp
        · simp
    · simp
  · refine Sat.ite (fun _ => ?_) fun _ => ?_
    · refine Sat.ite (fun _ => ?_) fun _ => ?_
      · refine Sat.ite (fun _ => ?_) fun _ => ?_
        · simp
        · simp
      · refine Sat.ite (fun _ => ?_) fun _ => ?_
        · simp
        · simp
    · simp

theorem destReady_sat {s : State} {tid n : Nat} : Sat (destReady s tid n) fun _ => True := by
  unfold destReady
  refine Sat.ite (fun _ => ?_) fun _ => ?_
  · split
    · refine Sat.ite (fun _ => ?_) fun _ => ?_
      · simp
      · refine Sat.ite (fun _ => ?_) fun _ => ?_
        · simp
        · refine Sat.ite (fun _ => ?_) fun _ => ?_
          · simp
          · simp
    · simp
  · refine Sat.ite (fun _ => ?_) fun _ => ?_
    · refine Sat.ite (fun _ => ?_) fun _ => ?_
      · simp
      · simp
    · refine Sat.ite (fun _ => ?_) fun _ => ?_
      · dsimp only
        refine Sat.ite (fun _ => ?_) fun _ => ?_
        · simp
        · refine Sat.ite (fun _ => ?_) fun _ => ?_
          · simp
          · refine Sat.ite (fun _ => ?_) fun _ => ?_
            · simp
            · simp
      · simp

theorem resultsReady_sat {s : State} {tid : Nat} {ops : List Opd} : Sat (resultsReady s tid ops) fun _ => True := by
  unfold resultsReady
  split <;> simp

theorem opdReady_sat {s : State} {tid : Nat} {x : Opd} : Sat (opdReady s tid x) fun _ => True := by
  unfold opdReady
  split
  · exact sourceReady_sat
  · exact destReady_sat
  · simp

theorem opdsReady_sat {s : State} {tid : Nat} {ops : List Opd} : Sat (opdsReady s tid ops) fun _ => True := by
  induction ops with
  | nil => trivial
  | cons o r ih => exact opdReady_sat.bind fun _ _ => ih

@[simp] theorem notePopped_mem (s : State) (tid n : Nat) (v : Word) : (notePopped s tid n v).mem = s.mem := rfl

@[simp] theorem popPort_mem (s : State) (tid n : Nat) : (popPort s tid n).2.mem = s.mem := by
  unfold popPort
  repeat' split
  all_goals simp

theorem readPort_sat {s : State} {tid n : Nat} (h : Canon s) : Sat (readPort s tid n) fun p => Canon p.2 := by
  unfold readPort
  dsimp only
  repeat' split
  all_goals simpa using h

theorem readyNow_sat {s : State} {tid : Nat} {ops : List Opd} : Sat (readyNow s tid ops) fun _ => True := by
  unfold readyNow
  split
  · exact opdsReady_sat
  · next e => exact opdsReady_sat.of_error e
  · next e _ => exact resultsReady_sat.of_error e

theorem readReg_sat {s : State} {tid n : Nat} (h : Canon s) : Sat (readReg s tid n) fun p => Canon p.2 := by
  unfold readReg
  refine Sat.ite (fun _ => ?_) fun _ => ?_
  · simpa using h
  · refine Sat.ite (fun _ => ?_) fun _ => ?_
    · exact readPort_sat h
    · refine Sat.ite (fun _ => ?_) fun _ => ?_
      · exact outside_sat h (takeTask_sat h)
      · simpa using h

theorem writeReg_sat {s : State} {tid n : Nat} {v : Word} (h : Canon s) : Sat (writeReg s tid n v) Canon := by
  unfold writeReg
  refine Sat.ite (fun _ => ?_) fun _ => ?_
  · simpa using h
  · refine Sat.ite (fun _ => ?_) fun _ => ?_
    · simpa using h
    · refine Sat.ite (fun _ => ?_) fun _ => ?_
      · simpa using h
      · refine Sat.ite (fun _ => ?_) fun _ => ?_
        · exact epPush_sat h
        · simpa using h

@[simp] theorem later_mem (s : State) (tid d n : Nat) : (State.later s tid d n).mem = s.mem := by simp [State.later]

@[simp] theorem bubble_mem (s : State) (tid : Nat) : (State.bubble s tid).mem = s.mem := rfl

theorem writeLate_sat {s : State} {tid d n : Nat} {v : Word} (h : Canon s) : Sat (writeLate s tid d n v) Canon := by
  unfold writeLate
  refine (writeReg_sat h).bind fun _ h1 => ?_
  refine Sat.ite (fun _ => ?_) fun _ => ?_
  · simpa using h
  · simpa using h1

theorem pushNow_canon {tid : Nat} {s : State} {x : Nat × Nat × BitVec 2 × Word} (h : Canon s) :
    Canon (pushNow tid s x) := by
  unfold pushNow
  dsimp only
  split
  · next e => simpa using (writeReg_sat (by simpa using h)).of_ok e
  · exact h

theorem pushDue_canon {s : State} {tid : Nat} (h : Canon s) : Canon (pushDue s tid) := by
  unfold pushDue
  dsimp only
  refine foldl_canon _ (fun s _ h2 => ?_) ?_
  · exact pushNow_canon h2
  · simpa using h

theorem needPushed_sat {s : State} {tid : Nat} : Sat (needPushed s tid) fun _ => True := by
  unfold needPushed
  split <;> simp

@[simp] theorem pairRetire_mem (s : State) (tid : Nat) (k : Kind) (ops : List Opd) (pc : Addr) (own : Bool) :
    (pairRetire s tid k ops pc own).mem = s.mem := by
  unfold pairRetire
  split <;> simp

@[simp] theorem shadowDone_mem (s : State) (tid : Nat) (r : Regs) (c : Word) (bad : Bool) :
    (shadowDone s tid r c bad).mem = s.mem := by
  unfold shadowDone
  split <;> simp

@[simp] theorem shadowRun_mem (s tid body) : (shadowRun s tid body).mem = s.mem := by
  unfold shadowRun
  dsimp only
  split <;> simp

@[simp] theorem retire_mem (s : State) (tid : Nat) (k : Kind) (ops : List Opd) (pc : Addr) :
    (retire s tid k ops pc).mem = s.mem := by
  simp [retire]

theorem finishesFirst_sat {body : Nat → State → M State} {tid s} (h : Sat (body tid s) Canon) :
    Sat (finishesFirst body tid s) Canon := by
  unfold finishesFirst
  split
  · next e => exact fun s hs => by simpa using h.of_error e s hs
  · exact h

theorem issueRaw_res {len k ops body s} (h : Canon s) (hb : ∀ tid, Sat (body tid s) Canon) :
    ResOk (issueRaw len k ops body s) := by
  unfold issueRaw
  split
  · exact resOk_fault _
  next u _ =>
  dsimp only
  have hr : Sat (do
      checkOperands s u.tid ops
      if k = .priv && !isFirmware s u.tid then fault PRIV
      if pairWaits s u.tid k ops then .error (.wait .opnd fun s => closeInterval s u.tid)
      readyNow s u.tid ops
      body u.tid s : M State) Canon :=
    checkOperands_sat.bind fun _ _ => Sat.guard fun _ => Sat.guard (fun _ => readyNow_sat.bind fun _ _ => hb u.tid)
      fun s h => by simpa using h
  split
  · exact (resOk_next _).2 (by simpa using h)
  split
  · next e => exact (resOk_next _).2 (by simpa using hr.of_ok e)
  · exact (resOk_next _).2 (by simpa using h)
  · next e => exact (resOk_next _).2 (by simpa using hr.of_error e s h)
  · next e =>
    refine (resOk_next _).2 ?_
    split
    · simpa using h
    · simpa using hr.of_error e s h

theorem issue_res {len k ops body s} (h : Canon s) (hb : ∀ tid, Sat (body tid s) Canon) :
    ResOk (issue len k ops body s) :=
  issueRaw_res h fun tid => (hb tid).bind fun _ h => by simpa using h

/-! ### The functions of `Machine/Flags.lean` -/

@[simp] theorem drawFor_mem (s : State) (tid rm : Nat) : (drawFor s tid rm).2.mem = s.mem := by simp [drawFor]

@[simp] theorem roundScalar_mem (f : Fmt) (x : Exact) (s : State) (tid : Nat) :
    (roundScalar f x s tid).2.mem = s.mem := by
  simp [roundScalar]

/-! ### The functions of `Machine/Notices.lean` -/

@[simp] theorem postEvent_mem (s : State) (ctx ty detail place addr die : Nat) :
    (postEvent s ctx ty detail place addr die).mem = s.mem := by
  simp [postEvent]

@[simp] theorem postEvict_mem (s : State) (ctx detail die l : Nat) : (postEvict s ctx detail die l).mem = s.mem := by
  simp [postEvict]

@[simp] theorem poisonLine_mem (s : State) (l : Nat) : (poisonLine s l).mem = s.mem := rfl

theorem copyLine_canon {s : State} {src dst : Nat} (h : Canon s) :
    Canon (copyLine s src dst) := homeWrite_mem_wf s _ _ h

theorem bindLine_canon {s : State} {l : Nat} (h : Canon s) : Canon (bindLine s l) := by
  unfold bindLine
  split
  · exact h
  · split
    · exact h
    · dsimp only
      refine Canon.ite (fun _ => ?_) fun _ => ?_
      · simpa using h
      · simpa using copyLine_canon h

theorem readFrame_canon {s : State} {l : Nat} (h : Canon s) : Canon (readFrame s l) := by
  unfold readFrame
  split
  · exact copyLine_canon h
  · exact h

theorem needFrame_sat {s : State} {l : Nat} (h : Canon s) : Sat (needFrame s l) Canon := by
  unfold needFrame
  split
  · simp
  · show Canon _
    exact readFrame_canon h

@[simp] theorem bindPage_mem (s : State) (key : Nat) (u : Unbacked) (f : Nat × Nat) :
    (bindPage s key u f).mem = s.mem := by
  simp [bindPage]

@[simp] theorem noRoom_mem (s : State) (l : Nat) (u : Unbacked) : (noRoom s l u).mem = s.mem := by
  unfold noRoom
  split <;> simp

@[simp] theorem comeToRest_mem (s : State) (l : Nat) : (comeToRest s l).mem = s.mem := by
  unfold comeToRest
  split <;> simp

@[simp] theorem restHome_mem (s : State) (l : Nat) : (restHome s l).mem = s.mem := by
  unfold restHome
  split <;> simp

/-! ### The functions of `Machine/Queues.lean` -/

theorem nopSlots_canon {s : State} {q : Queue} {seq n : Nat} (h : Canon s) : Canon (nopSlots s q seq n) := by
  induction n generalizing s seq with
  | zero => exact h
  | succ n ih =>
    refine ih ?_
    split
    · exact homeWrite_mem_wf _ _ _ h
    · exact h

theorem reserveSlots_canon {s : State} {qi : Nat} {n : Word} (h : Canon s) : Canon (reserveSlots s qi n).2 := by
  unfold reserveSlots
  split
  · exact h
  split
  · exact h
  dsimp only
  refine iteInduction (motive := fun x : Word × State => Canon x.2) (fun _ => by simpa using h) fun _ => ?_
  split
  · exact h
  · have hn {q seq u l} : Canon (nopSlots (s.modCtx q.ctx fun c => { c with segpool := l }) q seq u) :=
      nopSlots_canon (by simpa using h)
    refine Canon.of_mem ?_ (modQueue_mem ..)
    split
    · exact homeWrite_mem_wf _ _ _ hn
    · exact hn

@[simp] theorem kickQueue_mem (s : State) (qi k : Nat) : (kickQueue s qi k).mem = s.mem := by simp [kickQueue]

@[simp] theorem resumeQueue_mem (s : State) (qi : Nat) : (resumeQueue s qi).mem = s.mem := by simp [resumeQueue]

@[simp] theorem dropLaunchRanges_mem (s : State) (l : Nat) : (dropLaunchRanges s l).mem = s.mem :=
  foldl_mem _ _ fun _ _ => by simp

@[simp] theorem cancelSink_mem (s : State) (x : Sink) : (cancelSink s x).mem = s.mem := by
  unfold cancelSink
  split <;> simp

@[simp] theorem abandonCluster_mem (s : State) (l cl : Nat) : (abandonCluster s l cl).mem = s.mem := by
  simp [abandonCluster]

@[simp] theorem abandonLaunch_mem (s : State) (l status : Nat) : (abandonLaunch s l status).mem = s.mem := by
  unfold abandonLaunch
  split <;> simp

@[simp] theorem abandonTag_mem (s : State) (qi tag : Nat) : (abandonTag s qi tag).mem = s.mem :=
  foldl_mem _ _ fun _ _ => by simp

@[simp] theorem writeQctl_mem (s : State) (qi : Nat) (v : Word) : (writeQctl s qi v).mem = s.mem := by simp [writeQctl]

@[simp] theorem doorStore_mem (s : State) (dpa : Nat) (v : Word) : (doorStore s dpa v).mem = s.mem := by
  unfold doorStore
  split <;> simp

/-! ### The functions of `Machine/Memory.lean` -/

theorem checkPtr_sat {p : Word} {va n : Nat} : Sat (checkPtr p va n) fun _ => True := by
  unfold checkPtr
  repeat' split
  all_goals trivial

theorem plainAddr_sat {s : State} {tid a : Nat} {off : Word} {n : Nat} (h : Canon s) :
    Sat (plainAddr s tid a off n) fun p => Canon p.2 :=
  (readReg_sat h).bind fun _ h1 => checkPtr_sat.bind fun _ _ => by simpa using h1

theorem loadDoor_sat {s : State} {tid va dpa : Nat} (h : Canon s) : Sat (loadDoor s tid va dpa) fun p => Canon p.2 := by
  unfold loadDoor
  dsimp only
  split
  · refine Sat.ite (fun _ => ?_) fun _ => ?_
    · refine Sat.ite (fun _ => ?_) fun _ => ?_
      · exact waitOwn_sat
      · simpa using h
    · simp
  · simp

theorem loadAny_sat {s : State} {tid va n : Nat} (h : Canon s) : Sat (loadAny s tid va n) fun p => Canon p.2 := by
  unfold loadAny
  refine Sat.ite (fun _ => ?_) fun _ => ?_
  · exact loadVa_sat h
  · split
    · next e2 =>
        have h2 := (xlPlace_sat h).of_ok e2
        refine Sat.ite (fun _ => ?_) fun _ => ?_
        · exact outsideNat_sat h (loadDoor_sat h2)
        · exact loadVa_sat h
    · next e2 =>
        have h2 := (xlPlace_sat h).of_ok e2
        exact loadVa_sat h
    · next e2 =>
        have h2 := (xlPlace_sat h).of_error e2
        simpa using h2

theorem storeAny_sat {s : State} {tid va : Nat} {bs : List Byte} (h : Canon s) : Sat (storeAny s tid va bs) Canon := by
  unfold storeAny
  refine Sat.ite (fun _ => ?_) fun _ => ?_
  · exact storeVa_sat h
  · split
    · next e2 =>
        have h2 := (xlPlace_sat h).of_ok e2
        refine Sat.ite (fun _ => ?_) fun _ => ?_
        · split
          · exact storePlace_sat h2
          · exact storePlace_sat h2
          · simp
        · exact storeVa_sat h
    · next e2 =>
        have h2 := (xlPlace_sat h).of_ok e2
        exact storeVa_sat h
    · next e2 =>
        have h2 := (xlPlace_sat h).of_error e2
        simpa using h2

theorem loadOp_res {len d a : Nat} {off : Word} {n : Nat} {ext : Nat → Word} {s : State} (h : Canon s) :
    ResOk (loadOp len d a off n ext s) :=
  issue_res h fun _ => (plainAddr_sat h).bind fun _ h2 => (loadAny_sat h2).bind fun _ h3 => writeReg_sat h3

theorem storeOp_res {len d a : Nat} {off : Word} {n : Nat} {s : State} (h : Canon s) :
    ResOk (storeOp len d a off n s) :=
  issue_res h fun _ => (readReg_sat h).bind fun _ h2 => (plainAddr_sat h2).bind fun _ h3 => storeAny_sat h3

theorem execLdb_res {d a : BitVec 7} {o : BitVec 6} {s : State} (h : Canon s) : ResOk (execLdb d a o s) := loadOp_res h

theorem execLdbu_res {d a : BitVec 7} {o : BitVec 6} {s : State} (h : Canon s) : ResOk (execLdbu d a o s) :=
  loadOp_res h

theorem execLdh_res {d a : BitVec 7} {o : BitVec 6} {s : State} (h : Canon s) : ResOk (execLdh d a o s) := loadOp_res h

theorem execLdhu_res {d a : BitVec 7} {o : BitVec 6} {s : State} (h : Canon s) : ResOk (execLdhu d a o s) :=
  loadOp_res h

theorem execLdw_res {d a : BitVec 7} {o : BitVec 6} {s : State} (h : Canon s) : ResOk (execLdw d a o s) := loadOp_res h

theorem execLdwu_res {d a : BitVec 7} {o : BitVec 6} {s : State} (h : Canon s) : ResOk (execLdwu d a o s) :=
  loadOp_res h

theorem execLdd_res {d a : BitVec 7} {o : BitVec 6} {s : State} (h : Canon s) : ResOk (execLdd d a o s) := loadOp_res h

theorem execStb_res {d a o : BitVec 7} {s : State} (h : Canon s) : ResOk (execStb d a o s) := storeOp_res h

theorem execSth_res {d a o : BitVec 7} {s : State} (h : Canon s) : ResOk (execSth d a o s) := storeOp_res h

theorem execStw_res {d a o : BitVec 7} {s : State} (h : Canon s) : ResOk (execStw d a o s) := storeOp_res h

theorem execStd_res {d a o : BitVec 7} {s : State} (h : Canon s) : ResOk (execStd d a o s) := storeOp_res h

theorem execLdbLong_res {d a : BitVec 7} {i : BitVec 32} {s : State} (h : Canon s) : ResOk (execLdbLong d a i s) :=
  loadOp_res h

theorem execLdbuLong_res {d a : BitVec 7} {i : BitVec 32} {s : State} (h : Canon s) : ResOk (execLdbuLong d a i s) :=
  loadOp_res h

theorem execLdhLong_res {d a : BitVec 7} {i : BitVec 32} {s : State} (h : Canon s) : ResOk (execLdhLong d a i s) :=
  loadOp_res h

theorem execLdhuLong_res {d a : BitVec 7} {i : BitVec 32} {s : State} (h : Canon s) : ResOk (execLdhuLong d a i s) :=
  loadOp_res h

theorem execLdwLong_res {d a : BitVec 7} {i : BitVec 32} {s : State} (h : Canon s) : ResOk (execLdwLong d a i s) :=
  loadOp_res h

theorem execLdwuLong_res {d a : BitVec 7} {i : BitVec 32} {s : State} (h : Canon s) : ResOk (execLdwuLong d a i s) :=
  loadOp_res h

theorem execLddLong_res {d a : BitVec 7} {i : BitVec 32} {s : State} (h : Canon s) : ResOk (execLddLong d a i s) :=
  loadOp_res h

theorem execStbLong_res {d a : BitVec 7} {i : BitVec 32} {s : State} (h : Canon s) : ResOk (execStbLong d a i s) :=
  storeOp_res h

theorem execSthLong_res {d a : BitVec 7} {i : BitVec 32} {s : State} (h : Canon s) : ResOk (execSthLong d a i s) :=
  storeOp_res h

theorem execStwLong_res {d a : BitVec 7} {i : BitVec 32} {s : State} (h : Canon s) : ResOk (execStwLong d a i s) :=
  storeOp_res h

theorem execStdLong_res {d a : BitVec 7} {i : BitVec 32} {s : State} (h : Canon s) : ResOk (execStdLong d a i s) :=
  storeOp_res h

theorem execLddCompact_res {a b : BitVec 5} {s : State} (h : Canon s) : ResOk (execLddCompact a b s) := loadOp_res h

theorem execStdCompact_res {a b : BitVec 5} {s : State} (h : Canon s) : ResOk (execStdCompact a b s) := storeOp_res h

theorem execLdwCompact_res {a b : BitVec 5} {s : State} (h : Canon s) : ResOk (execLdwCompact a b s) := loadOp_res h

theorem execLddG2Compact_res {a i : BitVec 5} {s : State} (h : Canon s) : ResOk (execLddG2Compact a i s) := loadOp_res h

theorem execStdG2Compact_res {a i : BitVec 5} {s : State} (h : Canon s) : ResOk (execStdG2Compact a i s) :=
  storeOp_res h

theorem execLdwG2Compact_res {a i : BitVec 5} {s : State} (h : Canon s) : ResOk (execLdwG2Compact a i s) := loadOp_res h

theorem execStwG2Compact_res {a i : BitVec 5} {s : State} (h : Canon s) : ResOk (execStwG2Compact a i s) :=
  storeOp_res h

theorem checkTyped_sat {p : Word} {va : Nat} : Sat (checkTyped p va) fun _ => True := by
  unfold checkTyped
  repeat' split
  all_goals trivial

@[simp] theorem keepPart_mem (tid now s) : (keepPart tid now s).mem = s.mem := rfl

theorem loadByteOnce_sat {s : State} {tid va : Nat} (h : Canon s) : Sat (loadByteOnce s tid va) fun p => Canon p.2 := by
  unfold loadByteOnce
  split
  · simpa using h
  · split
    next e2 =>
      have h2 := Canon.of_snd e2 (by simpa using h)
      refine Sat.ite (fun _ => ?_) fun _ => ?_
      · simp
      · split
        · next e4 =>
            have h4 := (loadOnce_sat h2).of_ok e4
            simpa using h4
        · next e4 =>
            have h4 := (loadOnce_sat h2).of_error e4
            exact fun s hs => h4 _ (by simpa using hs)
        · next e4 =>
            have h4 := (loadOnce_sat h2).of_error e4
            simpa using h4

theorem loadByte_sat {s : State} {tid va : Nat} (h : Canon s) : Sat (loadByte s tid va) fun p => Canon p.2 := by
  unfold loadByte
  refine Sat.bind (outside_sat h ?_) fun _ h1 => ?_
  · exact Sat.map (loadByteOnce_sat h)
  · simpa using h1

theorem loadBytes_sat {s : State} {tid va n : Nat} (h : Canon s) : Sat (loadBytes s tid va n) fun p => Canon p.2 := by
  induction n generalizing s va with
  | zero => exact h
  | succ n ih => exact (loadByte_sat h).bind fun _ h => (ih h).bind fun _ h => h

theorem loadScaled_sat {s : State} {tid : Nat} {p : Word} {i : Nat} (h : Canon s) :
    Sat (loadScaled s tid p i) fun p => Canon p.2 :=
  (loadVa_sat h).bind fun _ h1 => (loadBytes_sat h1).bind fun _ h2 => by simpa using h2

@[simp] theorem typedFloat_mem (s : State) (tid : Nat) (x : FVal) : (typedFloat s tid x).2.mem = s.mem := by
  simp [typedFloat]

@[simp] theorem ldtWord_mem (s : State) (tid code i v : Nat) : (ldtWord s tid code i v).2.mem = s.mem := by
  unfold ldtWord
  split <;> simp

theorem execLdt_res {d a b : BitVec 7} {s : State} (h : Canon s) : ResOk (execLdt d a b s) := by
  unfold execLdt
  refine issue_res h fun _ => (readReg_sat h).bind fun _ h2 => (readReg_sat h2).bind fun _ h3 =>
    checkTyped_sat.bind fun _ _ => ?_
  refine Sat.ite (fun _ => ?_) fun _ => ?_
  · exact (loadScaled_sat h3).bind fun _ h6 => writeReg_sat (by simpa using h6)
  · refine checkPtr_sat.bind fun _ _ => (loadVa_sat h3).bind fun _ h7 => writeReg_sat ?_
    split
    · exact h7
    · exact h7
    · exact h7
    · simpa using h7

@[simp] theorem sttBits_mem (s : State) (tid code : Nat) (v : Word) : (sttBits s tid code v).2.mem = s.mem := by
  unfold sttBits
  split <;> simp

theorem sttNibble_sat {s : State} {tid va hi w : Nat} (h : Canon s) : Sat (sttNibble s tid va hi w) Canon := by
  have hload {t pl} (ht : Canon t) :
      Sat (outsideNat s tid ((loadPlace t tid pl va 1).map fun x => (leVal x.1, x.2))) fun p => Canon p.2 :=
    outsideNat_sat h (Sat.map (loadPlace_sat ht))
  have hput {t : State} {pl w} (ht : Canon t) :
      Sat (if (t.task tid).shadow then .ok (t.storedAt va w) else storePlace t tid pl va w) Canon := by
    split
    · exact (canon_iff _).2 (by simpa using ht)
    · exact storePlace_sat ht
  unfold sttNibble
  dsimp only
  split
  · exact (hload h).bind fun _ h => hput h
  · exact (placeOf_sat h).bind fun _ h => (hload h).bind fun _ h => hput h

theorem execStt_res {d a b : BitVec 7} {s : State} (h : Canon s) : ResOk (execStt d a b s) := by
  unfold execStt
  refine issue_res h fun _ => (readReg_sat h).bind fun _ h2 => (readReg_sat h2).bind fun _ h3 =>
    (readReg_sat h3).bind fun _ h4 => checkTyped_sat.bind fun _ _ => ?_
  dsimp only
  refine Sat.guard fun _ => checkPtr_sat.bind fun _ _ => ?_
  refine Sat.ite (fun _ => ?_) fun _ => ?_
  · exact sttNibble_sat (by simpa using h4)
  · exact storeVa_sat (by simpa using h4)

theorem execLda_res {d a : BitVec 7} {c : BitVec 3} {s : State} (h : Canon s) : ResOk (execLda d a c s) :=
  issue_res h fun _ => (plainAddr_sat h).bind fun _ h2 => (loadVa_sat (by simpa using h2)).bind fun _ h3 =>
    writeReg_sat h3

theorem execStrel_res {d a : BitVec 7} {c : BitVec 3} {s : State} (h : Canon s) : ResOk (execStrel d a c s) :=
  issue_res h fun _ => (readReg_sat h).bind fun _ h2 => (plainAddr_sat h2).bind fun _ h3 =>
    (placeOf_sat h3).bind fun _ h4 => storePlace_sat h4

theorem execFence_res {c : BitVec 3} {s : State} (h : Canon s) : ResOk (execFence c s) :=
  issue_res h fun _ => needRel_sat.bind fun _ _ => by simpa using h

theorem execIfence_res {s : State} (h : Canon s) : ResOk (execIfence s) :=
  issue_res h fun _ => needFifo_sat.bind fun _ _ => by simpa using h

@[simp] theorem prefetchMsc_mem (s : State) (r : Req) (l : Nat) : (prefetchMsc s r l).mem = s.mem := by
  simp [prefetchMsc]

@[simp] theorem prefetchL1_mem (s : State) (k dpa : Nat) (e : Word) (lvl : Nat) (ready : Bool) :
    (prefetchL1 s k dpa e lvl ready).mem = s.mem := by
  simp [prefetchL1]

@[simp] theorem prefetch_mem (s : State) (tid : Nat) (p : Word) (va lvl : Nat) (x : Bool) :
    (prefetch s tid p va lvl x).mem = s.mem := by
  unfold prefetch
  dsimp only
  split
  · rfl
  split
  · next t e =>
    have hm : t.mem = s.mem := by simpa [e] using xlThread_mem s tid va (if x then .wr else .rd)
    simp [hm]
  · rfl

theorem prefOp_res {len : Nat} {k : Kind} {a : Nat} {off : Word} {lvl x : Nat} {s : State} (h : Canon s) :
    ResOk (prefOp len k a off lvl x s) :=
  issue_res h fun _ => (readReg_sat h).bind fun _ h2 => by simpa using h2

theorem execPref_res {a : BitVec 7} {l : BitVec 2} {x : BitVec 1} {s : State} (h : Canon s) : ResOk (execPref a l x s)
    :=
  prefOp_res h

theorem execPrefLong_res {a : BitVec 7} {l : BitVec 2} {x : BitVec 1} {i : BitVec 32} {s : State} (h : Canon s) :
    ResOk (execPrefLong a l x i s) :=
  prefOp_res h

/-! ### The functions of `Machine/Atomic.lean` -/

theorem amoAt_sat {s : State} {tid agent va dpa op d : Nat} (h : Canon s) :
    Sat (amoAt s tid agent va dpa op d) fun p => Canon p.2 := by
  unfold amoAt
  split
  · simp
  · split
    · next e2 =>
        have h2 := (noteAmo_sat h).of_error e2
        simpa using h2
    · next e2 =>
        have h2 := (noteAmo_sat h).of_ok e2
        show Canon _
        simpa using commit_mem_wf _ _ _ _ h2

theorem atPeer_sat {s : State} {tid va dpa op : Nat} {v next : Word} (h : Canon s) :
    Sat (atPeer s tid va dpa op v next) Canon := by
  unfold atPeer
  refine Sat.ite (fun _ => ?_) fun _ => ?_
  · simpa using h
  · refine Sat.ite (fun _ => ?_) fun _ => ?_
    · simp
    · split
      · next e3 =>
          have h3 := peerTaken_canon h _ e3
          simpa using h3
      · simp

theorem amoMem_sat {s : State} {tid va dpa op d : Nat} {far uncached : Bool} (h : Canon s) :
    Sat (amoMem s tid va dpa op d far uncached) fun p => Canon p.2 := by
  unfold amoMem
  dsimp only
  refine Sat.guard (fun _ => ?_) fun _ h2 => ?_
  · refine Sat.ite (fun _ => ?_) fun _ => ?_
    · refine needHome_sat.bind fun _ _ => ?_
      refine Sat.bind (needFrame_sat ?_) fun _ h5 => ?_
      · exact settleOuts_mem_wf _ _ _ h
      · exact (atPeer_sat h5).bind fun _ h6 => (amoAt_sat h6).bind fun _ h7 => by simpa using h7
    · exact needWrite_sat.bind fun _ _ => (amoAt_sat h).bind fun _ h5 => by simpa using h5
  · exact performDie_mem_wf _ _ h2

theorem amoOp_res {d a op ord scope : Nat} {far : Bool} {s : State} (h : Canon s) :
    ResOk (amoOp d a op ord scope far s) := by
  unfold amoOp
  refine issue_res h fun _ => (readReg_sat (by simpa using h)).bind fun _ h2 => Sat.guard fun _ => ?_
  dsimp only
  refine Sat.guard fun _ => (placeOf_sat h2).bind fun _ h6 => ?_
  split
  · refine Sat.ite (fun _ => ?_) fun _ => ?_
    · split
      · refine needFifo_sat.bind fun _ _ => ?_
        refine Sat.ite (fun _ => ?_) fun _ => ?_
        · exact needRel_sat.bind fun _ _ => writeReg_sat (reserveSlots_canon h6)
        · exact writeReg_sat (reserveSlots_canon h6)
      · simp
    · refine needFifo_sat.bind fun _ _ => ?_
      refine Sat.ite (fun _ => ?_) fun _ => ?_
      · exact needRel_sat.bind fun _ _ => (amoMem_sat h6).bind fun _ h12 => writeReg_sat h12
      · exact (amoMem_sat h6).bind fun _ h11 => writeReg_sat h11
  · simp

theorem execAmo_res {d a : BitVec 7} {o : BitVec 4} {r : BitVec 2} {c : BitVec 3} {s : State} (h : Canon s) :
    ResOk (execAmo d a o r c s) :=
  amoOp_res h

theorem execAmof_res {d a : BitVec 7} {o : BitVec 4} {r : BitVec 2} {c : BitVec 3} {s : State} (h : Canon s) :
    ResOk (execAmof d a o r c s) :=
  amoOp_res h

theorem portWord_sat {s : State} {tid : Nat} {p : Word} {kind : Nat} : Sat (portWord s tid p kind) fun _ => True := by
  unfold portWord
  dsimp only
  exact Sat.guard fun _ => Sat.guard fun _ => portPlace_sat

theorem portPoison_sat {s : State} {tid k o va : Nat} : Sat (portPoison s tid k o va) fun _ => True := by
  unfold portPoison
  split <;> trivial

theorem execSpamo_res {d a : BitVec 7} {o : BitVec 3} {s : State} (h : Canon s) : ResOk (execSpamo d a o s) :=
  issue_res h fun _ => (readReg_sat h).bind fun _ h2 => portWord_sat.bind fun _ _ =>
    portPoison_sat.bind fun _ _ => writeReg_sat (by simpa using h2)

@[simp] theorem queueLock_mem (s : State) (tid k key : Nat) : (queueLock s tid k key).mem = s.mem := by simp [queueLock]

theorem execLdlk_res {d a : BitVec 7} {s : State} (h : Canon s) : ResOk (execLdlk d a s) := by
  unfold execLdlk
  refine issue_res h fun _ => (readReg_sat h).bind fun _ h2 => portWord_sat.bind fun _ _ => Sat.guard fun _ => ?_
  dsimp only
  refine Sat.guard fun _ => ?_
  split
  · refine Sat.guard fun _ => ?_
    refine Sat.ite (fun _ => ?_) fun _ => ?_
    · refine Sat.bind_ok ?_
      exact portPoison_sat.bind fun _ _ => writeReg_sat (by simpa using h2)
    · exact Sat.stop
  · refine Sat.bind_ok ?_
    exact portPoison_sat.bind fun _ _ => writeReg_sat (by simpa using h2)

theorem execStul_res {d a : BitVec 7} {s : State} (h : Canon s) : ResOk (execStul d a s) :=
  issue_res h fun _ => (readReg_sat h).bind fun _ h2 => (readReg_sat h2).bind fun _ h3 =>
    portWord_sat.bind fun _ _ => Sat.guard fun _ => needRel_sat.bind fun _ _ => by simpa using h3

theorem execStash_res {d a b : BitVec 7} {s : State} (h : Canon s) : ResOk (execStash d a b s) := by
  unfold execStash
  refine issue_res h fun _ => finishesFirst_sat ?_
  exact needFifo_sat.bind fun _ _ => (readReg_sat h).bind fun _ h4 => (readReg_sat h4).bind fun _ h5 =>
    writeReg_sat (by simpa using h5)

@[simp] theorem unstashLine_mem (s : State) (k ctx : Nat) (m : Stash) (i : Nat) :
    (unstashLine s k ctx m i).mem = s.mem := by
  unfold unstashLine
  split <;> simp

@[simp] theorem dropMapping_mem (s : State) (k ctx : Nat) (m : Stash) : (dropMapping s k ctx m).mem = s.mem :=
  foldl_mem _ _ fun _ _ => by simp

theorem execUnstash_res {d a : BitVec 7} {s : State} (h : Canon s) : ResOk (execUnstash d a s) := by
  unfold execUnstash
  refine issue_res h fun _ => finishesFirst_sat ?_
  refine needFifo_sat.bind fun _ _ => (readReg_sat h).bind fun _ h4 => ?_
  split
  dsimp only
  split
  · refine Sat.guard (fun _ => ?_) fun _ h8 => ?_
    · exact writeReg_sat (by simpa using h4)
    · exact performDie_mem_wf _ _ h8
  · exact writeReg_sat h4

theorem execWbk_res {a b : BitVec 7} {s : State} (h : Canon s) : ResOk (execWbk a b s) := by
  unfold execWbk
  refine issue_res h fun _ => finishesFirst_sat ?_
  exact (readReg_sat h).bind fun _ h3 => (readReg_sat h3).bind fun _ h4 => Sat.guard fun _ => by simpa using h4

theorem needGather_sat {s : State} {l : Nat} : Sat (needGather s l) fun _ => True := by
  unfold needGather
  dsimp only
  refine Sat.ite (fun _ => ?_) fun _ => ?_
  · simp
  · simp

theorem needGatherAll_sat {s : State} {ls : List Nat} : Sat (needGatherAll s ls) fun _ => True := by
  induction ls with
  | nil => trivial
  | cons l r ih => exact needGather_sat.bind fun _ _ => ih

theorem discardLine_canon {s : State} {l : Nat} (h : Canon s) : Canon (discardLine s l) := by
  have hd : Canon ((List.range 8).foldl (fun s d => dropCopies s d l) s) := h.of_mem (foldl_mem _ _ fun _ _ => rfl)
  unfold discardLine
  dsimp only
  split
  · split
    · exact memWrite_mem_wf _ _ _ hd
    · exact (canon_iff _).2 (by simpa only [unpin_mem, modUb_mem] using memWrite_mem_wf _ _ _ hd)
  · split
    · exact hd
    · exact memWrite_mem_wf _ _ _ hd

theorem execDisc_res {a b : BitVec 7} {s : State} (h : Canon s) : ResOk (execDisc a b s) := by
  unfold execDisc
  refine issue_res h fun _ => finishesFirst_sat ?_
  refine (readReg_sat h).bind fun _ h3 => (readReg_sat h3).bind fun _ h4 => Sat.guard fun _ => ?_
  dsimp only
  refine Sat.guard fun _ => (placeOf_sat h4).bind fun _ h8 => needFifo_sat.bind fun _ _ => ?_
  split
  · refine Sat.guard (fun _ => ?_) fun _ h11 => ?_
    · refine needGatherAll_sat.bind fun _ _ => ?_
      show Canon _
      refine foldl_canon _ (fun s _ h14 => ?_) ?_
      · refine settleOuts_mem_wf _ _ _ ?_
        show Canon _
        exact discardLine_canon h14
      · exact h8
    · exact performDie_mem_wf _ _ h11
  · simp

theorem execUbresv_res {d a b : BitVec 7} {s : State} (h : Canon s) : ResOk (execUbresv d a b s) := by
  unfold execUbresv
  refine issue_res h fun _ => finishesFirst_sat ?_
  refine (readReg_sat h).bind fun _ h3 => (readReg_sat h3).bind fun _ h4 => needRel_sat.bind fun _ _ => ?_
  dsimp only
  refine Sat.ite (fun _ => ?_) fun _ => ?_
  · exact writeReg_sat h4
  · exact writeReg_sat (by simpa using h4)

@[simp] theorem moveHome_mem (s : State) (key old new : Nat) : (moveHome s key old new).mem = s.mem := by
  simp [moveHome]

@[simp] theorem migrate_mem (s : State) (e : Word) (dpa : Nat) (dest : Word) :
    (migrate s e dpa dest).2.mem = s.mem := by
  unfold migrate
  repeat' split
  all_goals simp

theorem execUbmigr_res {d a b : BitVec 7} {s : State} (h : Canon s) : ResOk (execUbmigr d a b s) := by
  unfold execUbmigr
  refine issue_res h fun _ => finishesFirst_sat ?_
  refine (readReg_sat h).bind fun _ h3 => (readReg_sat h3).bind fun _ h4 => Sat.guard fun _ => ?_
  dsimp only
  split
  · next e7 =>
      have h7 := Canon.of_snd e7 (by simpa using h4)
      exact writeReg_sat (by simpa using h7)
  · next e7 =>
      have h7 := Canon.of_snd e7 (by simpa using h4)
      simp
  · next e7 =>
      have h7 := Canon.of_snd e7 (by simpa using h4)
      simp
  · next e7 =>
      have h7 := Canon.of_snd e7 (by simpa using h4)
      simp

/-! ### The functions of `Machine/Integer.lean` -/

theorem alu2_res {len d a b : Nat} {f : Word → Word → Word} {s : State} (h : Canon s) : ResOk (alu2 len d a b f s) :=
  issue_res h fun _ => (readReg_sat h).bind fun _ h2 => (readReg_sat h2).bind fun _ h3 => writeReg_sat h3

theorem alu1_res {len d a : Nat} {f : Word → Word} {s : State} (h : Canon s) : ResOk (alu1 len d a f s) :=
  issue_res h fun _ => (readReg_sat h).bind fun _ h2 => writeReg_sat h2

theorem alu3_res {len d a b : Nat} {f : Word → Word → Word → Word} {s : State} (h : Canon s) :
    ResOk (alu3 len d a b f s) :=
  issue_res h fun _ => (readReg_sat h).bind fun _ h2 => (readReg_sat h2).bind fun _ h3 =>
    (readReg_sat h3).bind fun _ h4 => writeReg_sat h4

theorem aluRd_res {len d : Nat} {f : Word → Word} {s : State} (h : Canon s) : ResOk (aluRd len d f s) :=
  issue_res h fun _ => (readReg_sat h).bind fun _ h2 => writeReg_sat h2

theorem aluConst_res {len d : Nat} {v : Word} {s : State} (h : Canon s) : ResOk (aluConst len d v s) :=
  issue_res h fun _ => writeReg_sat h

theorem aluDiv_res {len d a b : Nat} {signed : Bool} {f : Word → Word → Word} {s : State} (h : Canon s) :
    ResOk (aluDiv len d a b signed f s) :=
  issue_res h fun _ => (readReg_sat h).bind fun _ h2 => (readReg_sat h2).bind fun _ h3 =>
    writeLate_sat (by simpa using h3)

theorem mul2_res {len d a b : Nat} {f : Word → Word → Word} {s : State} (h : Canon s) : ResOk (mul2 len d a b f s) :=
  issue_res h fun _ => (readReg_sat h).bind fun _ h2 => (readReg_sat h2).bind fun _ h3 => writeLate_sat h3

theorem execAdd_res {d a b : BitVec 7} {s : State} (h : Canon s) : ResOk (execAdd d a b s) := alu2_res h

theorem execSub_res {d a b : BitVec 7} {s : State} (h : Canon s) : ResOk (execSub d a b s) := alu2_res h

theorem execSlt_res {d a b : BitVec 7} {s : State} (h : Canon s) : ResOk (execSlt d a b s) := alu2_res h

theorem execSltu_res {d a b : BitVec 7} {s : State} (h : Canon s) : ResOk (execSltu d a b s) := alu2_res h

theorem execAnd_res {d a b : BitVec 7} {s : State} (h : Canon s) : ResOk (execAnd d a b s) := alu2_res h

theorem execOr_res {d a b : BitVec 7} {s : State} (h : Canon s) : ResOk (execOr d a b s) := alu2_res h

theorem execXor_res {d a b : BitVec 7} {s : State} (h : Canon s) : ResOk (execXor d a b s) := alu2_res h

theorem execSel_res {d a b : BitVec 7} {s : State} (h : Canon s) : ResOk (execSel d a b s) := alu3_res h

theorem execSll_res {d a b : BitVec 7} {s : State} (h : Canon s) : ResOk (execSll d a b s) := alu2_res h

theorem execSrl_res {d a b : BitVec 7} {s : State} (h : Canon s) : ResOk (execSrl d a b s) := alu2_res h

theorem execSra_res {d a b : BitVec 7} {s : State} (h : Canon s) : ResOk (execSra d a b s) := alu2_res h

theorem execClz_res {d a : BitVec 7} {s : State} (h : Canon s) : ResOk (execClz d a s) := alu1_res h

theorem execCtz_res {d a : BitVec 7} {s : State} (h : Canon s) : ResOk (execCtz d a s) := alu1_res h

theorem execPopc_res {d a : BitVec 7} {s : State} (h : Canon s) : ResOk (execPopc d a s) := alu1_res h

theorem execMul_res {d a b : BitVec 7} {s : State} (h : Canon s) : ResOk (execMul d a b s) := mul2_res h

theorem execMulh_res {d a b : BitVec 7} {s : State} (h : Canon s) : ResOk (execMulh d a b s) := mul2_res h

theorem execMulhu_res {d a b : BitVec 7} {s : State} (h : Canon s) : ResOk (execMulhu d a b s) := mul2_res h

theorem execDiv_res {d a b : BitVec 7} {s : State} (h : Canon s) : ResOk (execDiv d a b s) := aluDiv_res h

theorem execDivu_res {d a b : BitVec 7} {s : State} (h : Canon s) : ResOk (execDivu d a b s) := aluDiv_res h

theorem execRem_res {d a b : BitVec 7} {s : State} (h : Canon s) : ResOk (execRem d a b s) := aluDiv_res h

theorem execRemu_res {d a b : BitVec 7} {s : State} (h : Canon s) : ResOk (execRemu d a b s) := aluDiv_res h

theorem execMin_res {d a b : BitVec 7} {s : State} (h : Canon s) : ResOk (execMin d a b s) := alu2_res h

theorem execMax_res {d a b : BitVec 7} {s : State} (h : Canon s) : ResOk (execMax d a b s) := alu2_res h

theorem execMinu_res {d a b : BitVec 7} {s : State} (h : Canon s) : ResOk (execMinu d a b s) := alu2_res h

theorem execMaxu_res {d a b : BitVec 7} {s : State} (h : Canon s) : ResOk (execMaxu d a b s) := alu2_res h

theorem execLih_res {d : BitVec 7} {i : BitVec 16} {s : State} (h : Canon s) : ResOk (execLih d i s) := aluRd_res h

theorem execAddi_res {d a : BitVec 7} {i : BitVec 9} {s : State} (h : Canon s) : ResOk (execAddi d a i s) := alu1_res h

theorem execAadd_res {d a b : BitVec 7} {s : State} (h : Canon s) : ResOk (execAadd d a b s) := alu2_res h

theorem execPget_res {d a sel : BitVec 7} {s : State} (h : Canon s) : ResOk (execPget d a sel s) := alu1_res h

theorem execBfx_res {d a b : BitVec 7} {s : State} (h : Canon s) : ResOk (execBfx d a b s) := alu2_res h

theorem execBfi_res {d a b : BitVec 7} {s : State} (h : Canon s) : ResOk (execBfi d a b s) := alu3_res h

theorem execAaddi_res {d a : BitVec 7} {i : BitVec 9} {s : State} (h : Canon s) : ResOk (execAaddi d a i s) :=
  alu1_res h

theorem execPfmt_res {d a : BitVec 7} {f : BitVec 6} {l : BitVec 3} {s : State} (h : Canon s) :
    ResOk (execPfmt d a f l s) :=
  alu1_res h

theorem execSlli_res {d a : BitVec 7} {i : BitVec 6} {s : State} (h : Canon s) : ResOk (execSlli d a i s) := alu1_res h

theorem execSrli_res {d a : BitVec 7} {i : BitVec 6} {s : State} (h : Canon s) : ResOk (execSrli d a i s) := alu1_res h

theorem execSrai_res {d a : BitVec 7} {i : BitVec 6} {s : State} (h : Canon s) : ResOk (execSrai d a i s) := alu1_res h

theorem execAndi_res {d a : BitVec 7} {i : BitVec 6} {s : State} (h : Canon s) : ResOk (execAndi d a i s) := alu1_res h

theorem execOri_res {d a : BitVec 7} {i : BitVec 6} {s : State} (h : Canon s) : ResOk (execOri d a i s) := alu1_res h

theorem execXori_res {d a : BitVec 7} {i : BitVec 6} {s : State} (h : Canon s) : ResOk (execXori d a i s) := alu1_res h

theorem execSlti_res {d a : BitVec 7} {i : BitVec 6} {s : State} (h : Canon s) : ResOk (execSlti d a i s) := alu1_res h

theorem execXadd_res {d a : BitVec 7} {x : BitVec 2} {b : BitVec 5} {s : State} (h : Canon s) :
    ResOk (execXadd d a x b s) :=
  alu2_res h

theorem execXsub_res {d a : BitVec 7} {x : BitVec 2} {b : BitVec 5} {s : State} (h : Canon s) :
    ResOk (execXsub d a x b s) :=
  alu2_res h

theorem execXmul_res {d a : BitVec 7} {x : BitVec 2} {b : BitVec 5} {s : State} (h : Canon s) :
    ResOk (execXmul d a x b s) :=
  mul2_res h

theorem execXmax_res {d a : BitVec 7} {x : BitVec 2} {b : BitVec 5} {s : State} (h : Canon s) :
    ResOk (execXmax d a x b s) :=
  alu2_res h

theorem execXmin_res {d a : BitVec 7} {x : BitVec 2} {b : BitVec 5} {s : State} (h : Canon s) :
    ResOk (execXmin d a x b s) :=
  alu2_res h

theorem execXdotB_res {d a : BitVec 7} {b : BitVec 5} {s : State} (h : Canon s) : ResOk (execXdotB d a b s) :=
  issue_res h fun _ => (readReg_sat h).bind fun _ h2 => (readReg_sat h2).bind fun _ h3 =>
    (readReg_sat h3).bind fun _ h4 => writeLate_sat h4

theorem execLi64_res {d : BitVec 7} {i : BitVec 32} {s : State} (h : Canon s) : ResOk (execLi64 d i s) := aluConst_res h

theorem execLi64U_res {d : BitVec 7} {i : BitVec 32} {s : State} (h : Canon s) : ResOk (execLi64U d i s) :=
  aluConst_res h

theorem execLi64Hi_res {d : BitVec 7} {i : BitVec 32} {s : State} (h : Canon s) : ResOk (execLi64Hi d i s) :=
  aluRd_res h

theorem execAddiLong_res {d a : BitVec 7} {i : BitVec 32} {s : State} (h : Canon s) : ResOk (execAddiLong d a i s) :=
  alu1_res h

theorem execAndiLong_res {d a : BitVec 7} {i : BitVec 32} {s : State} (h : Canon s) : ResOk (execAndiLong d a i s) :=
  alu1_res h

theorem execOriLong_res {d a : BitVec 7} {i : BitVec 32} {s : State} (h : Canon s) : ResOk (execOriLong d a i s) :=
  alu1_res h

theorem execXoriLong_res {d a : BitVec 7} {i : BitVec 32} {s : State} (h : Canon s) : ResOk (execXoriLong d a i s) :=
  alu1_res h

theorem execAaddiLong_res {d a : BitVec 7} {i : BitVec 32} {s : State} (h : Canon s) : ResOk (execAaddiLong d a i s) :=
  alu1_res h

theorem execSltiLong_res {d a : BitVec 7} {i : BitVec 32} {s : State} (h : Canon s) : ResOk (execSltiLong d a i s) :=
  alu1_res h

theorem execMovCompact_res {a b : BitVec 5} {s : State} (h : Canon s) : ResOk (execMovCompact a b s) := alu1_res h

theorem execAddCompact_res {a b : BitVec 5} {s : State} (h : Canon s) : ResOk (execAddCompact a b s) := alu2_res h

theorem execSubCompact_res {a b : BitVec 5} {s : State} (h : Canon s) : ResOk (execSubCompact a b s) := alu2_res h

theorem execAndCompact_res {a b : BitVec 5} {s : State} (h : Canon s) : ResOk (execAndCompact a b s) := alu2_res h

theorem execOrCompact_res {a b : BitVec 5} {s : State} (h : Canon s) : ResOk (execOrCompact a b s) := alu2_res h

theorem execXorCompact_res {a b : BitVec 5} {s : State} (h : Canon s) : ResOk (execXorCompact a b s) := alu2_res h

theorem execSllCompact_res {a b : BitVec 5} {s : State} (h : Canon s) : ResOk (execSllCompact a b s) := alu2_res h

theorem execSrlCompact_res {a b : BitVec 5} {s : State} (h : Canon s) : ResOk (execSrlCompact a b s) := alu2_res h

theorem execSraCompact_res {a b : BitVec 5} {s : State} (h : Canon s) : ResOk (execSraCompact a b s) := alu2_res h

theorem execMulCompact_res {a b : BitVec 5} {s : State} (h : Canon s) : ResOk (execMulCompact a b s) := mul2_res h

theorem execAaddCompact_res {a b : BitVec 5} {s : State} (h : Canon s) : ResOk (execAaddCompact a b s) := alu2_res h

theorem execSltCompact_res {a b : BitVec 5} {s : State} (h : Canon s) : ResOk (execSltCompact a b s) := alu2_res h

theorem execLiCompact_res {a i : BitVec 5} {s : State} (h : Canon s) : ResOk (execLiCompact a i s) := alu1_res h

theorem execAddiCompact_res {a i : BitVec 5} {s : State} (h : Canon s) : ResOk (execAddiCompact a i s) := alu1_res h

theorem execAaddiCompact_res {a i : BitVec 5} {s : State} (h : Canon s) : ResOk (execAaddiCompact a i s) := alu1_res h

theorem execSlliCompact_res {a i : BitVec 5} {s : State} (h : Canon s) : ResOk (execSlliCompact a i s) := alu1_res h

theorem execSrliCompact_res {a i : BitVec 5} {s : State} (h : Canon s) : ResOk (execSrliCompact a i s) := alu1_res h

theorem execSraiCompact_res {a i : BitVec 5} {s : State} (h : Canon s) : ResOk (execSraiCompact a i s) := alu1_res h

theorem execAndiCompact_res {a i : BitVec 5} {s : State} (h : Canon s) : ResOk (execAndiCompact a i s) := alu1_res h

theorem execOriCompact_res {a i : BitVec 5} {s : State} (h : Canon s) : ResOk (execOriCompact a i s) := alu1_res h

theorem execXoriCompact_res {a i : BitVec 5} {s : State} (h : Canon s) : ResOk (execXoriCompact a i s) := alu1_res h

theorem execSltiCompact_res {a i : BitVec 5} {s : State} (h : Canon s) : ResOk (execSltiCompact a i s) := alu1_res h

theorem execMovFromEpCompact_res {a : BitVec 5} {s : State} (h : Canon s) : ResOk (execMovFromEpCompact a s) :=
  alu1_res h

theorem execMovToEpCompact_res {b : BitVec 5} {s : State} (h : Canon s) : ResOk (execMovToEpCompact b s) := alu1_res h

theorem execMovFromMpCompact_res {a : BitVec 5} {s : State} (h : Canon s) : ResOk (execMovFromMpCompact a s) :=
  alu1_res h

theorem execMovToMpCompact_res {b : BitVec 5} {s : State} (h : Canon s) : ResOk (execMovToMpCompact b s) := alu1_res h

theorem execNop_res {s : State} (h : Canon s) : ResOk (execNop s) := issue_res h (by simpa using h)

theorem execNopCompact_res {s : State} (h : Canon s) : ResOk (execNopCompact s) := issue_res h (by simpa using h)

/-! ### The functions of `Machine/Control.lean` -/

@[simp] theorem goTo_mem (s : State) (tid : Nat) (a : Addr) : (goTo s tid a).mem = s.mem := rfl

theorem branch2_res {len a b : Nat} {o : Int} {cond : Word → Word → Bool} {s : State} (h : Canon s) :
    ResOk (branch2 len a b o cond s) :=
  issueRaw_res h fun _ => (readReg_sat h).bind fun _ h2 => (readReg_sat h2).bind fun _ h3 => by simpa using h3

theorem branch1_res {len a : Nat} {o : Int} {cond : Word → Bool} {s : State} (h : Canon s) :
    ResOk (branch1 len a o cond s) :=
  issueRaw_res h fun _ => (readReg_sat h).bind fun _ h2 => by simpa using h2

theorem jumpTo_res {len d : Nat} {o : Int} {s : State} (h : Canon s) : ResOk (jumpTo len d o s) :=
  issueRaw_res h fun _ => (writeReg_sat h).bind fun _ h2 => by simpa using h2

theorem jumpReg_res {len d b : Nat} {off : Int} {s : State} (h : Canon s) : ResOk (jumpReg len d b off s) :=
  issueRaw_res h fun _ => (readReg_sat h).bind fun _ h2 => Sat.guard fun _ =>
    (writeReg_sat h2).bind fun _ h4 => by simpa using h4

theorem execBeq_res {a : BitVec 7} {b : BitVec 4} {o : BitVec 9} {s : State} (h : Canon s) : ResOk (execBeq a b o s) :=
  branch2_res h

theorem execBne_res {a : BitVec 7} {b : BitVec 4} {o : BitVec 9} {s : State} (h : Canon s) : ResOk (execBne a b o s) :=
  branch2_res h

theorem execBlt_res {a : BitVec 7} {b : BitVec 4} {o : BitVec 9} {s : State} (h : Canon s) : ResOk (execBlt a b o s) :=
  branch2_res h

theorem execBge_res {a : BitVec 7} {b : BitVec 4} {o : BitVec 9} {s : State} (h : Canon s) : ResOk (execBge a b o s) :=
  branch2_res h

theorem execBltu_res {a : BitVec 7} {b : BitVec 4} {o : BitVec 9} {s : State} (h : Canon s) : ResOk (execBltu a b o s)
    :=
  branch2_res h

theorem execBgeu_res {a : BitVec 7} {b : BitVec 4} {o : BitVec 9} {s : State} (h : Canon s) : ResOk (execBgeu a b o s)
    :=
  branch2_res h

theorem execJalr_res {d : BitVec 7} {b : BitVec 4} {o : BitVec 9} {s : State} (h : Canon s) : ResOk (execJalr d b o s)
    :=
  jumpReg_res h

theorem execBeqz_res {a : BitVec 7} {o : BitVec 16} {s : State} (h : Canon s) : ResOk (execBeqz a o s) := branch1_res h

theorem execBnez_res {a : BitVec 7} {o : BitVec 16} {s : State} (h : Canon s) : ResOk (execBnez a o s) := branch1_res h

theorem execJal_res {d : BitVec 7} {o : BitVec 16} {s : State} (h : Canon s) : ResOk (execJal d o s) := jumpTo_res h

theorem execJalLong_res {d : BitVec 7} {o : BitVec 32} {s : State} (h : Canon s) : ResOk (execJalLong d o s) :=
  jumpTo_res h

theorem execJalrLong_res {d a : BitVec 7} {o : BitVec 32} {s : State} (h : Canon s) : ResOk (execJalrLong d a o s) :=
  jumpReg_res h

theorem execBeqzLong_res {a : BitVec 7} {o : BitVec 32} {s : State} (h : Canon s) : ResOk (execBeqzLong a o s) :=
  branch1_res h

theorem execBnezLong_res {a : BitVec 7} {o : BitVec 32} {s : State} (h : Canon s) : ResOk (execBnezLong a o s) :=
  branch1_res h

theorem execBeqLong_res {a b : BitVec 7} {o : BitVec 32} {s : State} (h : Canon s) : ResOk (execBeqLong a b o s) :=
  branch2_res h

theorem execBneLong_res {a b : BitVec 7} {o : BitVec 32} {s : State} (h : Canon s) : ResOk (execBneLong a b o s) :=
  branch2_res h

theorem execBltLong_res {a b : BitVec 7} {o : BitVec 32} {s : State} (h : Canon s) : ResOk (execBltLong a b o s) :=
  branch2_res h

theorem execBgeLong_res {a b : BitVec 7} {o : BitVec 32} {s : State} (h : Canon s) : ResOk (execBgeLong a b o s) :=
  branch2_res h

theorem execBltuLong_res {a b : BitVec 7} {o : BitVec 32} {s : State} (h : Canon s) : ResOk (execBltuLong a b o s) :=
  branch2_res h

theorem execBgeuLong_res {a b : BitVec 7} {o : BitVec 32} {s : State} (h : Canon s) : ResOk (execBgeuLong a b o s) :=
  branch2_res h

theorem execJalrCompact_res {a : BitVec 5} {b : BitVec 4} {s : State} (h : Canon s) : ResOk (execJalrCompact a b s) :=
  jumpReg_res h

theorem execBeqzCompact_res {a o : BitVec 5} {s : State} (h : Canon s) : ResOk (execBeqzCompact a o s) := branch1_res h

theorem execBnezCompact_res {a o : BitVec 5} {s : State} (h : Canon s) : ResOk (execBnezCompact a o s) := branch1_res h

/-! ### The functions of `Machine/FutSend.lean` -/

theorem fopNow_mem {s m m' t} (e : fopNow s m = some (m', t)) : t.mem = s.mem := by
  unfold fopNow at e
  split at e
  · split at e
    · have ht := congrArg (fun x : FutMsg × State => x.2.mem) (Option.some.inj e)
      exact ht.symm.trans (fopAt_mem ..)
    · cases e
  · split at e
    · cases e
    · cases e; rfl

@[simp] theorem fopSend_mem (s : State) (m : FutMsg) : (fopSend s m).mem = s.mem := by simp [fopSend]

theorem askReply_ok {s tid m what len pops} (h : Canon s) :
    StopOk (askReply s tid m what len pops) := fun _ _ => by simpa using h

theorem peekReg_sat {s : State} {tid n : Nat} (h : Canon s) : Sat (peekReg s tid n) fun p => Canon p.2.2 := by
  unfold peekReg
  split
  · next e1 =>
      have h1 := (readReg_sat h).of_error e1
      simpa using h1
  · next e1 =>
      have h1 := (readReg_sat h).of_ok e1
      show Canon _
      split
      · exact h
      · exact h1

theorem popAll_canon {s : State} {tid : Nat} {ports : List Nat} (h : Canon s) : Canon (popAll s tid ports) := by
  refine foldl_canon _ (fun s n h => ?_) h
  split
  · next e => exact (readReg_sat h).of_ok e
  · exact h

@[simp] theorem setFsts_mem (s : State) (tid : Nat) (out : BitVec 3) (code : Code) :
    (State.setFsts s tid out code).mem = s.mem := rfl

theorem touchDone_sat {s : State} {tid rd : Nat} {trap : Bool} {v : View} (h : Canon s) :
    Sat (touchDone s tid rd trap v) Canon := by
  unfold touchDone
  split
  · exact writeReg_sat h
  · refine Sat.ite (fun _ => ?_) fun _ => ?_
    · simp
    · exact writeReg_sat h
  · refine Sat.ite (fun _ => ?_) fun _ => ?_
    · simp
    · exact writeReg_sat h
  · refine Sat.ite (fun _ => ?_) fun _ => ?_
    · simp
    · exact writeReg_sat h
  · exact writeReg_sat h
  · simp

theorem touchpDone_sat {s : State} {tid rd : Nat} {v : View} (h : Canon s) : Sat (touchpDone s tid rd v) Canon := by
  unfold touchpDone
  refine Sat.ite (fun _ => ?_) fun _ => ?_
  · simp
  · split
    · next e2 =>
        have h2 := (noteTask_sat h).of_error e2
        simpa using h2
    · next e2 =>
        have h2 := (noteTask_sat h).of_ok e2
        exact touchDone_sat h2

theorem outcomeDone_sat {s : State} {tid rd : Nat} {m : FutMsg} {rec : Word} (h : Canon s) :
    Sat (outcomeDone s tid rd m rec) Canon := by
  unfold outcomeDone
  refine Sat.ite (fun _ => ?_) fun _ => ?_
  · simp
  · split
    · next e2 =>
        have h2 := (noteTask_sat h).of_error e2
        simpa using h2
    · next e2 =>
        have h2 := (noteTask_sat h).of_ok e2
        exact writeReg_sat h2

theorem wanyDone_sat {s : State} {tid rd : Nat} {hs : List Word} {hd : Word} {v : View} (h : Canon s) :
    Sat (wanyDone s tid rd hs hd v) Canon := by
  unfold wanyDone
  refine Sat.ite (fun _ => ?_) fun _ => ?_
  · simp
  · dsimp only
    split
    · next e3 =>
        have h3 := (noteTask_sat h).of_error e3
        simpa using h3
    · next e3 =>
        have h3 := (noteTask_sat h).of_ok e3
        exact writeReg_sat h3

/-! ### The functions of `Machine/Touch.lean` -/

theorem observeCancel_sat {s : State} {tid : Nat} : Sat (observeCancel s tid) fun _ => True := by
  unfold observeCancel
  refine Sat.ite (fun _ => ?_) fun _ => ?_
  · exact needRel_sat.bind fun _ _ => by simp
  · simp

theorem mayPark_sat {s : State} {tid : Nat} : Sat (mayPark s tid) fun _ => True := by
  unfold mayPark
  repeat' split
  all_goals trivial

theorem parkNow_sat {A : Type} {s : State} {tid : Nat} {what : Pend} {hs : List Word} {len : Nat} {pops : List Nat}
    {Q : A → Prop} (h : Canon s) : Sat (parkNow s tid what hs len pops) Q := fun _ _ => by simpa using h

theorem touchOp_res {len d a : Nat} {trap : Bool} {s : State} (h : Canon s) : ResOk (touchOp len d a trap s) := by
  unfold touchOp
  refine issue_res h fun _ => (peekReg_sat h).bind fun _ h2 => checkHandle_sat.bind fun _ _ =>
    observeCancel_sat.bind fun _ _ => ?_
  dsimp only
  split
  · exact askReply_ok h2
  · next e6 =>
      have h6 := h2.of_mem (fopNow_mem e6)
      refine Sat.ite (fun _ => ?_) fun _ => ?_
      · exact mayPark_sat.bind fun _ _ => parkNow_sat h6
      · exact touchDone_sat (popAll_canon h6)

theorem touchpOp_res {len d a : Nat} {s : State} (h : Canon s) : ResOk (touchpOp len d a s) := by
  unfold touchpOp
  refine issue_res h fun _ => (peekReg_sat h).bind fun _ h2 => checkHandle_sat.bind fun _ _ =>
    observeCancel_sat.bind fun _ _ => ?_
  dsimp only
  split
  · exact askReply_ok h2
  · next e6 =>
      have h6 := h2.of_mem (fopNow_mem e6)
      exact touchpDone_sat (popAll_canon h6)

theorem execTouch_res {d a : BitVec 7} {s : State} (h : Canon s) : ResOk (execTouch d a s) := touchOp_res h

theorem execTouchT_res {d a : BitVec 7} {s : State} (h : Canon s) : ResOk (execTouchT d a s) := touchOp_res h

theorem execTouchp_res {d a : BitVec 7} {s : State} (h : Canon s) : ResOk (execTouchp d a s) := touchpOp_res h

theorem execTouchCompact_res {a b : BitVec 5} {s : State} (h : Canon s) : ResOk (execTouchCompact a b s) :=
  touchOp_res h

theorem execTouchTCompact_res {a b : BitVec 5} {s : State} (h : Canon s) : ResOk (execTouchTCompact a b s) :=
  touchOp_res h

theorem execTouchpCompact_res {a b : BitVec 5} {s : State} (h : Canon s) : ResOk (execTouchpCompact a b s) :=
  touchpOp_res h

@[simp] theorem wanyRecord_mem (s : State) (tid : Nat) (hs : List Word) : (wanyRecord s tid hs).mem = s.mem := by
  induction hs generalizing s with
  | nil => rfl
  | cons h r ih =>
    refine (ih _).trans ?_
    split
    · split <;> simp
    · simp

theorem checkHandles_sat {hs : List Word} : Sat (checkHandles hs) fun _ => True := by
  induction hs with
  | nil => trivial
  | cons h r ih => exact checkHandle_sat.bind fun _ _ => ih

theorem wanyBody_sat {tid : Nat} {d : BitVec 7} {hs : List Word} {found : List (Word × View)} {s : State}
    (h : Canon s) :
    Sat (wanyBody tid d hs found s) Canon := by
  unfold wanyBody
  dsimp only
  refine Sat.guard fun _ => ?_
  split
  · exact wanyDone_sat (by simpa using h)
  · exact mayPark_sat.bind fun _ _ => parkNow_sat (by simpa using h)

@[simp] theorem wanyAsk_mem (s : State) (tid : Nat) (d : BitVec 7) (hs peers : List Word) :
    (wanyAsk s tid d hs peers).mem = s.mem :=
  foldl_mem _ _ fun _ _ => by simp

theorem execWany_res {d a n : BitVec 7} {s : State} (h : Canon s) : ResOk (execWany d a n s) := by
  unfold execWany
  refine issue_res h fun _ => checkHandles_sat.bind fun _ _ => observeCancel_sat.bind fun _ _ => ?_
  dsimp only
  exact Sat.guard fun _ => wanyBody_sat h

theorem notHandler_sat {s : State} {tid : Nat} : Sat (notHandler s tid) fun _ => True := need_sat

theorem execFnew_res {d a : BitVec 7} {s : State} (h : Canon s) : ResOk (execFnew d a s) := by
  unfold execFnew
  refine issue_res h fun _ => notHandler_sat.bind fun _ _ => (readReg_sat h).bind fun _ h3 =>
    need_sat.bind fun _ _ => ?_
  refine Sat.bind (allocM_sat h3) fun _ h5 => ?_
  split
  · exact writeLate_sat h3
  · exact writeLate_sat (h5 _ rfl)

theorem outcomeOp_sat {tid d : Nat} {hd : Word} {op : FOp} {ports : List Nat} {s : State} (h : Canon s) :
    Sat (outcomeOp tid d hd op ports s) Canon := by
  unfold outcomeOp
  refine needRel_sat.bind fun _ _ => ?_
  dsimp only
  split
  · exact askReply_ok h
  · next e3 =>
      have h3 := h.of_mem (fopNow_mem e3)
      exact outcomeDone_sat (popAll_canon h3)

theorem execResolve_res {d a b : BitVec 7} {s : State} (h : Canon s) : ResOk (execResolve d a b s) :=
  issue_res h fun _ => (peekReg_sat h).bind fun _ h2 => (peekReg_sat h2).bind fun _ h3 =>
    checkHandle_sat.bind fun _ _ => outcomeOp_sat h3

theorem execFpois_res {d a b : BitVec 7} {s : State} (h : Canon s) : ResOk (execFpois d a b s) :=
  issue_res h fun _ => (peekReg_sat h).bind fun _ h2 => (peekReg_sat h2).bind fun _ h3 =>
    checkHandle_sat.bind fun _ _ => need_sat.bind fun _ _ => outcomeOp_sat h3

theorem execCancel_res {d a : BitVec 7} {s : State} (h : Canon s) : ResOk (execCancel d a s) :=
  issue_res h fun _ => (peekReg_sat h).bind fun _ h2 => checkHandle_sat.bind fun _ _ => outcomeOp_sat h2

theorem frelOp_res {len a : Nat} {s : State} (h : Canon s) : ResOk (frelOp len a s) := by
  unfold frelOp
  refine issue_res h fun _ => (readReg_sat h).bind fun _ h2 => checkHandle_sat.bind fun _ _ => ?_
  dsimp only
  split
  · simpa using h2
  · next e5 =>
      have h5 := h2.of_mem (fopNow_mem e5)
      simpa using h5

theorem execFrel_res {a : BitVec 7} {s : State} (h : Canon s) : ResOk (execFrel a s) := frelOp_res h

theorem execFrelCompact_res {b : BitVec 5} {s : State} (h : Canon s) : ResOk (execFrelCompact b s) := frelOp_res h

theorem fstatOp_res {len d a : Nat} {s : State} (h : Canon s) : ResOk (fstatOp len d a s) := by
  unfold fstatOp
  refine issue_res h fun _ => (peekReg_sat h).bind fun _ h2 => checkHandle_sat.bind fun _ _ => ?_
  dsimp only
  split
  · exact askReply_ok h2
  · next e5 =>
      have h5 := h2.of_mem (fopNow_mem e5)
      exact outcomeDone_sat (popAll_canon h5)

theorem execFstat_res {d a : BitVec 7} {s : State} (h : Canon s) : ResOk (execFstat d a s) := fstatOp_res h

theorem execFstatCompact_res {a b : BitVec 5} {s : State} (h : Canon s) : ResOk (execFstatCompact a b s) :=
  fstatOp_res h

/-! ### The functions of `Machine/Csr.lean` -/

@[simp] theorem putSrseed_mem (s : State) (tid : Nat) (v : Word) : (putSrseed s tid v).mem = s.mem := rfl

@[simp] theorem putFrm_mem (s : State) (tid : Nat) (v : Word) : (putFrm s tid v).mem = s.mem := by simp [putFrm]

@[simp] theorem putEsel_mem (s : State) (tid : Nat) (v : Word) : (putEsel s tid v).mem = s.mem := rfl

@[simp] theorem putEvrd_mem (s : State) (tid : Nat) (v : Word) : (putEvrd s tid v).mem = s.mem := by simp [putEvrd]

@[simp] theorem putEvfut_mem (s : State) (tid : Nat) (v : Word) : (putEvfut s tid v).mem = s.mem := by simp [putEvfut]

@[simp] theorem putTrt_mem (s : State) (tid : Nat) (v : Word) : (putTrt s tid v).mem = s.mem := rfl

@[simp] theorem csrPut_mem (s : State) (tid n : Nat) (v : Word) : (csrPut s tid n v).mem = s.mem := by
  unfold csrPut
  split <;> simp

theorem execCsrr_res {d : BitVec 7} {c : BitVec 12} {s : State} (h : Canon s) : ResOk (execCsrr d c s) := by
  unfold execCsrr
  refine issue_res h fun _ => ?_
  split
  · refine Sat.bind (outside_sat h ?_) fun _ h3 => ?_
    · simpa using h
    · exact writeReg_sat h3
  · simp

theorem csrWriteOp_res {a c : Nat} {f : Word → Word → Word} {s : State} (h : Canon s) : ResOk (csrWriteOp a c f s)
    := by
  unfold csrWriteOp
  refine issue_res h fun _ => ?_
  split
  · simp
  · exact (readReg_sat h).bind fun _ h3 => by simpa using h3

theorem execCsrw_res {a : BitVec 7} {c : BitVec 12} {s : State} (h : Canon s) : ResOk (execCsrw a c s) :=
  csrWriteOp_res h

theorem execCsrs_res {a : BitVec 7} {c : BitVec 12} {s : State} (h : Canon s) : ResOk (execCsrs a c s) :=
  csrWriteOp_res h

theorem execCsrc_res {a : BitVec 7} {c : BitVec 12} {s : State} (h : Canon s) : ResOk (execCsrc a c s) :=
  csrWriteOp_res h

theorem taskEvent_res {tid f s} (h : Canon s) (hf : Canon (f s)) : ResOk (taskEvent tid f s) := by
  unfold taskEvent
  split
  · exact (resOk_next _).2 hf
  · exact (resOk_next _).2 h

theorem execSrseedWrite_res {tid : Nat} {v : BitVec 64} {s : State} (h : Canon s) : ResOk (execSrseedWrite tid v s) :=
  taskEvent_res h (by simpa using h)

theorem execFrmWrite_res {tid : Nat} {v : BitVec 64} {s : State} (h : Canon s) : ResOk (execFrmWrite tid v s) :=
  taskEvent_res h (by simpa using h)

theorem execEselWrite_res {tid : Nat} {v : BitVec 64} {s : State} (h : Canon s) : ResOk (execEselWrite tid v s) :=
  taskEvent_res h (by simpa using h)

theorem execEvrdWrite_res {tid : Nat} {v : BitVec 64} {s : State} (h : Canon s) : ResOk (execEvrdWrite tid v s) :=
  taskEvent_res h (by simpa using h)

theorem execEvfutWrite_res {tid : Nat} {v : BitVec 64} {s : State} (h : Canon s) : ResOk (execEvfutWrite tid v s) :=
  taskEvent_res h (by simpa using h)

theorem execTrtWrite_res {tid : Nat} {v : BitVec 64} {s : State} (h : Canon s) : ResOk (execTrtWrite tid v s) :=
  taskEvent_res h (by simpa using h)

theorem execCsrWrite_res {tid : Nat} {num : BitVec 12} {v : BitVec 64} {s : State} (h : Canon s) :
    ResOk (execCsrWrite tid num v s) :=
  taskEvent_res h (by simpa using h)

/-! ### The functions of `Machine/Transfer.lean` -/

theorem loadWords_sat {s : State} {tid va n : Nat} (h : Canon s) : Sat (loadWords s tid va n) fun p => Canon p.2 := by
  induction n generalizing s va with
  | zero => exact h
  | succ n ih => exact (loadAny_sat h).bind fun _ h => (ih h).bind fun _ h => h

theorem descAt_sat {s : State} {tid a : Nat} (h : Canon s) : Sat (descAt s tid a) fun p => Canon p.2 :=
  (plainAddr_sat h).bind fun _ h1 => loadWords_sat h1

theorem readRegs_sat {s : State} {tid : Nat} {ns : List Nat} (h : Canon s) :
    Sat (readRegs s tid ns) fun p => Canon p.2 := by
  induction ns generalizing s with
  | nil => exact h
  | cons n r ih => exact (readReg_sat h).bind fun _ h => (ih h).bind fun _ h => h

theorem submitXf_sat {op d : Nat} {ws : List Word} {tid : Nat} {s : State} (h : Canon s) :
    Sat (submitXf op d ws tid s) Canon := by
  unfold submitXf
  refine xfCheck_sat.bind fun _ _ => ?_
  dsimp only
  refine Sat.guard fun _ => ?_
  refine Sat.bind (allocM_sat h) fun _ h4 => ?_
  split
  · exact writeReg_sat h
  · exact needRel_sat.bind fun _ _ => writeReg_sat (h4 _ rfl)

theorem xfMem_res {op d a : Nat} {s : State} (h : Canon s) : ResOk (xfMem op d a s) :=
  issue_res h fun _ => (descAt_sat h).bind fun _ h2 => submitXf_sat h2

theorem xfRegs_res {op d a b e f : Nat} {s : State} (h : Canon s) : ResOk (xfRegs op d a b e f s) :=
  issue_res h fun _ => (readRegs_sat h).bind fun _ h2 => submitXf_sat h2

theorem execGet_res {d a : BitVec 7} {s : State} (h : Canon s) : ResOk (execGet d a s) := xfMem_res h

theorem execPut_res {d a : BitVec 7} {s : State} (h : Canon s) : ResOk (execPut d a s) := xfMem_res h

theorem execXcpy_res {d a : BitVec 7} {s : State} (h : Canon s) : ResOk (execXcpy d a s) := xfMem_res h

theorem execXcpy2_res {d a : BitVec 7} {s : State} (h : Canon s) : ResOk (execXcpy2 d a s) := xfMem_res h

theorem execGetLong_res {d a b e f : BitVec 7} {s : State} (h : Canon s) : ResOk (execGetLong d a b e f s) :=
  xfRegs_res h

theorem execPutLong_res {d a b e f : BitVec 7} {s : State} (h : Canon s) : ResOk (execPutLong d a b e f s) :=
  xfRegs_res h

theorem execXcpyLong_res {d a b e f : BitVec 7} {s : State} (h : Canon s) : ResOk (execXcpyLong d a b e f s) :=
  xfRegs_res h

theorem execXcpy2Long_res {d a b e f : BitVec 7} {s : State} (h : Canon s) : ResOk (execXcpy2Long d a b e f s) :=
  xfRegs_res h

theorem checkSync_sat {p : Word} : Sat (checkSync p) fun _ => True := by
  unfold checkSync
  dsimp only
  refine Sat.guard fun _ => ?_
  refine Sat.ite (fun _ => ?_) fun _ => ?_
  · simp
  · exact trivial

theorem execSwinit_res {d a b : BitVec 7} {s : State} (h : Canon s) : ResOk (execSwinit d a b s) := by
  unfold execSwinit
  refine issue_res h fun _ => finishesFirst_sat ?_
  exact (readReg_sat h).bind fun _ h3 => (readReg_sat h3).bind fun _ h4 => checkSync_sat.bind fun _ _ =>
    portPlace_sat.bind fun _ _ => writeReg_sat (by simpa using h4)

theorem execSwfut_res {d a b : BitVec 7} {s : State} (h : Canon s) : ResOk (execSwfut d a b s) := by
  unfold execSwfut
  refine issue_res h fun _ => finishesFirst_sat ?_
  refine (readReg_sat h).bind fun _ h3 => (readReg_sat h3).bind fun _ h4 => checkSync_sat.bind fun _ _ => ?_
  dsimp only
  split
  · exact Sat.stop
  · refine Sat.guard fun _ => portPlace_sat.bind fun _ _ => ?_
    refine Sat.ite (fun _ => ?_) fun _ => ?_
    · refine Sat.bind (allocM_sat h4) fun _ h11 => ?_
      split
      · exact writeReg_sat h4
      · exact writeReg_sat (by simpa using h11 _ rfl)
    · refine Sat.ite (fun _ => ?_) fun _ => ?_
      · exact writeReg_sat h4
      · refine Sat.bind (allocM_sat h4) fun _ h12 => ?_
        split
        · exact writeReg_sat h4
        · exact writeReg_sat (by simpa using h12 _ rfl)

@[simp] theorem syncAdvance_mem (s : State) (k ctx o count target n : Nat) :
    (syncAdvance s k ctx o count target n).mem = s.mem := by
  induction n generalizing s count with
  | zero => rfl
  | succ n ih =>
    unfold syncAdvance
    split
    · simp
    · simp [ih]

@[simp] theorem syncCount_mem (s : State) (k ctx o n : Nat) : (syncCount s k ctx o n).mem = s.mem := by simp [syncCount]

/-! ### The functions of `Machine/Matrix.lean` -/

theorem cfgTiles_sat {s : State} {cl ctx : Nat} {ts : List Nat} {c : Word} (h : Canon s) :
    Sat (cfgTiles s cl ctx ts c) Canon := by
  unfold cfgTiles
  refine need_sat.bind fun _ _ => ?_
  dsimp only
  refine Sat.guard fun _ => ?_
  refine Sat.ite (fun _ => ?_) fun _ => ?_
  · simpa using h
  · show Canon _
    refine foldl_canon _ (fun s _ h6 => ?_) ?_
    · simpa using h6
    · exact h

theorem execMxcfg_res {d a b : BitVec 7} {s : State} (h : Canon s) : ResOk (execMxcfg d a b s) :=
  issue_res h fun _ => (readReg_sat h).bind fun _ h2 => (readReg_sat h2).bind fun _ h3 =>
    (cfgTiles_sat h3).bind fun _ h4 => writeReg_sat h4

theorem execMxcfgLong_res {d b : BitVec 7} {m : BitVec 16} {s : State} (h : Canon s) : ResOk (execMxcfgLong d b m s) :=
  issue_res h fun _ => (readReg_sat h).bind fun _ h2 => (cfgTiles_sat h2).bind fun _ h3 => writeReg_sat h3

theorem execTrel_res {d a : BitVec 7} {s : State} (h : Canon s) : ResOk (execTrel d a s) :=
  issue_res h fun _ => (readReg_sat h).bind fun _ h2 => Sat.guard fun _ => writeReg_sat (by simpa using h2)

theorem execMxstat_res {d a sel : BitVec 7} {s : State} (h : Canon s) : ResOk (execMxstat d a sel s) :=
  issue_res h fun _ => (readReg_sat h).bind fun _ h2 => writeReg_sat h2

theorem submitMx_sat {d : Nat} {ws : List Word} {tid : Nat} {s : State} (h : Canon s) :
    Sat (submitMx d ws tid s) Canon := by
  unfold submitMx
  refine mxCheck_sat.bind fun _ _ => ?_
  dsimp only
  refine Sat.guard fun _ => ?_
  refine Sat.bind (allocM_sat h) fun _ h4 => ?_
  split
  · exact writeReg_sat h
  · exact needRel_sat.bind fun _ _ => writeReg_sat (by simpa using h4 _ rfl)

theorem execMxsub_res {d a : BitVec 7} {s : State} (h : Canon s) : ResOk (execMxsub d a s) :=
  issue_res h fun _ => (descAt_sat h).bind fun _ h2 => submitMx_sat h2

theorem execMxsubLong_res {d a b e f : BitVec 7} {s : State} (h : Canon s) : ResOk (execMxsubLong d a b e f s) :=
  issue_res h fun _ => (readRegs_sat h).bind fun _ h2 => submitMx_sat h2

theorem sendMx_sat {d : Nat} {ws : List Word} {cap : Word} {tid : Nat} {s : State} (h : Canon s) :
    Sat (sendMx d ws cap tid s) Canon := by
  refine Sat.bind mxCheckDesc_sat fun _ _ => ?_
  refine Sat.bind (allocM_sat h) fun _ ha => ?_
  split
  · exact writeReg_sat h
  · refine Sat.bind needRel_sat fun _ _ => ?_
    dsimp only
    refine writeReg_sat ?_
    have hs := ha _ rfl
    refine Canon.of_mem ?_ (modNet_mem ..)
    refine (canon_iff _).2 ?_
    simpa using hs

theorem execMxsubc_res {d a b : BitVec 7} {s : State} (h : Canon s) : ResOk (execMxsubc d a b s) :=
  issue_res h fun _ => (descAt_sat h).bind fun _ h2 => (readReg_sat h2).bind fun _ h3 => sendMx_sat h3

theorem execMxsubcLong_res {d a b e f g : BitVec 7} {s : State} (h : Canon s) : ResOk (execMxsubcLong d a b e f g s)
    :=
  issue_res h fun _ => (readRegs_sat h).bind fun _ h2 => sendMx_sat h2

theorem tldtCheck_sat {b stride : Word} {n : Nat} : Sat (tldtCheck b stride n) fun _ => True := by
  induction n generalizing b with
  | zero => trivial
  | succ n ih => exact checkPtr_sat.bind fun _ _ => ih

theorem tldtRows_sat {s : State} {tid : Nat} {b stride : Word} {n : Nat} (h : Canon s) :
    Sat (tldtRows s tid b stride n) fun p => Canon p.2 := by
  induction n generalizing s b with
  | zero => exact h
  | succ n ih => exact (loadVa_sat h).bind fun _ h => (ih h).bind fun _ h => h

theorem tldtPlaces_sat {s : State} {tid : Nat} {b stride : Word} {n : Nat} (h : Canon s) :
    Sat (tldtPlaces s tid b stride n) Canon := by
  induction n generalizing s b with
  | zero => exact h
  | succ n ih => exact (placeOf_sat h).bind fun _ h => ih h

theorem writeRun_sat {s : State} {tid d : Nat} {vs : List Word} (h : Canon s) : Sat (writeRun s tid d vs) Canon := by
  induction vs generalizing s d with
  | nil => exact h
  | cons v r ih => exact (writeReg_sat h).bind fun _ h => ih h

theorem tldtOp_res {len d a b w : Nat} {off : Word} {s : State} (h : Canon s) : ResOk (tldtOp len d a b w off s)
    := by
  unfold tldtOp
  refine issue_res h fun _ => (readReg_sat h).bind fun _ h2 => (readReg_sat h2).bind fun _ h3 =>
    tldtCheck_sat.bind fun _ _ => ?_
  dsimp only
  refine Sat.ite (fun _ => ?_) fun _ => ?_
  · refine Sat.bind_ok ?_
    exact (tldtRows_sat h3).bind fun _ h8 => writeRun_sat h8
  · exact (tldtPlaces_sat h3).bind fun _ h7 => (tldtRows_sat h7).bind fun _ h8 => writeRun_sat h8

theorem execTldt_res {d a b : BitVec 7} {s : State} (h : Canon s) : ResOk (execTldt d a b s) := tldtOp_res h

theorem execTldtLong_res {d a b : BitVec 7} {w : BitVec 2} {o : BitVec 16} {s : State} (h : Canon s) :
    ResOk (execTldtLong d a b w o s) :=
  tldtOp_res h

@[simp] theorem blockWrite_mem (s : State) (k ctx src off pitch rowLen : Nat) (bs : List Byte) (bad : List Bool)
    (n : Nat) :
    (blockWrite s k ctx src off pitch rowLen bs bad n).mem = s.mem := by
  induction n generalizing s off bs bad with
  | zero => rfl
  | succ n ih => exact (ih ..).trans (by simp)

@[simp] theorem swapResolve_mem (s : State) (hd : Word) : (swapResolve s hd).mem = s.mem := by simp [swapResolve]

theorem execTswap_res {d a b : BitVec 7} {s : State} (h : Canon s) : ResOk (execTswap d a b s) := by
  unfold execTswap
  refine issue_res h fun _ => (readReg_sat h).bind fun _ h2 => (readReg_sat h2).bind fun _ h3 =>
    need_sat.bind fun _ _ => need_sat.bind fun _ _ => ?_
  dsimp only
  refine Sat.guard fun _ => Sat.guard fun _ => ?_
  refine Sat.bind (allocM_sat h3) fun _ h9 => ?_
  split
  · exact writeReg_sat h3
  · exact needRel_sat.bind fun _ _ => writeReg_sat (by simpa using h9 _ rfl)

/-! ### The functions of `Machine/Spawn.lean` -/

@[simp] theorem spawnIdent_mem (s : State) (k : Nat) (l : Option Nat) : (spawnIdent s k l).2.mem = s.mem := rfl

theorem spawnChecks_sat {s : State} {tid : Nat} {q : SpawnReq} : Sat (spawnChecks s tid q) fun _ => True := by
  unfold spawnChecks
  refine notHandler_sat.bind fun _ _ => ?_
  dsimp only
  refine Sat.guard fun _ => Sat.guard fun _ => Sat.guard fun _ => ?_
  split
  · exact need_sat
  · simp

theorem spawnPush_sat {s : State} {tid d : Nat} {q : SpawnReq} {child : Nat} {hd : Word} (h : Canon s) :
    Sat (spawnPush s tid d q child hd) Canon := by
  refine needRel_sat.bind fun _ _ => ?_
  dsimp only
  split
  · next e =>
    refine writeLate_sat (h.of_mem ?_)
    split at e
    · exact (pushBottom_mem e).trans (by simp)
    · exact (pushBottom_mem e).trans (by simp)
  · trivial

theorem spawnBody_sat {tid d : Nat} {q : SpawnReq} {s : State} (h : Canon s) : Sat (spawnBody tid d q s) Canon := by
  unfold spawnBody
  refine spawnChecks_sat.bind fun _ _ => ?_
  refine Sat.bind (allocM_sat h) fun _ h2 => ?_
  split
  · refine Sat.ite (fun _ => ?_) fun _ => ?_
    · exact writeLate_sat (by simpa using h2 _ rfl)
    · exact spawnPush_sat (h2 _ rfl)
  · refine Sat.ite (fun _ => ?_) fun _ => ?_
    · simp
    · exact writeLate_sat h

theorem spawnJ_res {d : Nat} {o : Int} {trap : Bool} {s : State} (h : Canon s) : ResOk (spawnJ d o trap s) :=
  issue_res h fun _ => spawnBody_sat h

theorem execSpawn_res {d : BitVec 7} {o : BitVec 16} {s : State} (h : Canon s) : ResOk (execSpawn d o s) := spawnJ_res h

theorem execSpawnT_res {d : BitVec 7} {o : BitVec 16} {s : State} (h : Canon s) : ResOk (execSpawnT d o s) :=
  spawnJ_res h

theorem execSpawnr_res {d a b : BitVec 7} {s : State} (h : Canon s) : ResOk (execSpawnr d a b s) :=
  issue_res h fun _ => (readReg_sat h).bind fun _ h2 => (readReg_sat h2).bind fun _ h3 => spawnBody_sat h3

theorem spawnX_res {d a b e c n : Nat} {range : Option Nat} {trap : Bool} {s : State} (h : Canon s) :
    ResOk (spawnX d a b e c n range trap s) := by
  unfold spawnX
  refine issue_res h fun _ => (readReg_sat h).bind fun _ h2 => (readReg_sat h2).bind fun _ h3 => ?_
  split
  dsimp only
  split
  · exact (readReg_sat h3).bind fun _ h7 => Sat.bind_ok (spawnBody_sat h7)
  · exact Sat.bind_ok (spawnBody_sat h3)

theorem execSpawnLong_res {d a b e : BitVec 7} {c n : BitVec 3} {s : State} (h : Canon s) :
    ResOk (execSpawnLong d a b e c n s) :=
  spawnX_res h

theorem execSpawnTLong_res {d a b e : BitVec 7} {c n : BitVec 3} {s : State} (h : Canon s) :
    ResOk (execSpawnTLong d a b e c n s) :=
  spawnX_res h

theorem execSpawnrLong_res {d a b e f : BitVec 7} {c n : BitVec 3} {s : State} (h : Canon s) :
    ResOk (execSpawnrLong d a b e f c n s) :=
  spawnX_res h

theorem execSpawnrTLong_res {d a b e f : BitVec 7} {c n : BitVec 3} {s : State} (h : Canon s) :
    ResOk (execSpawnrTLong d a b e f c n s) :=
  spawnX_res h

theorem yieldNow_mem {s : State} {tid : Nat} {s'} (e : yieldNow s tid = some s') : s'.mem = s.mem :=
  (pushTop_mem e).trans (by simp)

theorem yieldOp_res {len : Nat} {s : State} (h : Canon s) : ResOk (yieldOp len s) := by
  unfold yieldOp
  refine issue_res h fun _ => ?_
  dsimp only
  refine Sat.guard fun _ => Sat.guard fun _ => observeCancel_sat.bind fun _ _ => needRel_sat.bind fun _ _ => ?_
  split
  · next e7 =>
      have h7 := h.of_mem (yieldNow_mem e7)
      simpa using h7
  · simp

theorem execYield_res {s : State} (h : Canon s) : ResOk (execYield s) := yieldOp_res h

theorem execYieldCompact_res {s : State} (h : Canon s) : ResOk (execYieldCompact s) := yieldOp_res h

theorem tendOp_res {len a : Nat} {s : State} (h : Canon s) : ResOk (tendOp len a s) := by
  unfold tendOp
  refine issueRaw_res h fun _ => notHandler_sat.bind fun _ _ => ?_
  dsimp only
  exact Sat.guard fun _ => needPushed_sat.bind fun _ _ => needRel_sat.bind fun _ _ =>
    (readReg_sat h).bind fun _ h7 => by simpa using h7

theorem execTend_res {a : BitVec 7} {s : State} (h : Canon s) : ResOk (execTend a s) := tendOp_res h

theorem execTendCompact_res {b : BitVec 5} {s : State} (h : Canon s) : ResOk (execTendCompact b s) := tendOp_res h

theorem widOp_res {len d : Nat} {s : State} (h : Canon s) : ResOk (widOp len d s) :=
  issue_res h fun _ => writeReg_sat h

theorem execWid_res {d : BitVec 7} {s : State} (h : Canon s) : ResOk (execWid d s) := widOp_res h

theorem execWidCompact_res {a : BitVec 5} {s : State} (h : Canon s) : ResOk (execWidCompact a s) := widOp_res h

theorem execWfld_res {d n : BitVec 7} {s : State} (h : Canon s) : ResOk (execWfld d n s) :=
  issue_res h fun _ => writeReg_sat h

/-! ### The functions of `Machine/Sync.lean` -/

theorem barPlace_sat {s : State} {tid : Nat} {p : Word} : Sat (barPlace s tid p) fun _ => True :=
  checkSync_sat.bind fun _ _ => portPlace_sat

theorem execBari_res {d a b : BitVec 7} {s : State} (h : Canon s) : ResOk (execBari d a b s) :=
  issue_res h fun _ => (readReg_sat h).bind fun _ h2 => (readReg_sat h2).bind fun _ h3 =>
    barPlace_sat.bind fun _ _ => need_sat.bind fun _ _ => writeReg_sat (by simpa using h3)

theorem barOp_res {d a b : Nat} {drop : Bool} {s : State} (h : Canon s) : ResOk (barOp d a b drop s) := by
  unfold barOp
  refine issue_res h fun _ => (readReg_sat h).bind fun _ h2 => (readReg_sat h2).bind fun _ h3 =>
    barPlace_sat.bind fun _ _ => need_sat.bind fun _ _ => needRel_sat.bind fun _ _ => need_sat.bind fun _ _ =>
    writeReg_sat ?_
  split
  · simpa using h3
  · simpa using h3

theorem execBara_res {d a b : BitVec 7} {s : State} (h : Canon s) : ResOk (execBara d a b s) := barOp_res h

theorem execBarad_res {d a b : BitVec 7} {s : State} (h : Canon s) : ResOk (execBarad d a b s) := barOp_res h

@[simp] theorem recordWaiter_mem (s : State) (tid : Nat) (hd : Word) : (recordWaiter s tid hd).mem = s.mem := by
  simp [recordWaiter]

theorem barFuture_sat {s : State} {tid k o : Nat} {w1 : Word} (h : Canon s) :
    Sat (barFuture s tid k o w1) fun p => Canon p.2 := by
  unfold barFuture
  dsimp only
  refine Sat.ite (fun _ => ?_) fun _ => ?_
  · simpa using h
  · refine Sat.bind (allocM_sat h) fun _ h3 => ?_
    split
    · simp
    · simpa using h3 _ rfl

theorem execBarw_res {d a b : BitVec 7} {s : State} (h : Canon s) : ResOk (execBarw d a b s) := by
  unfold execBarw
  refine issue_res h fun _ => (peekReg_sat h).bind fun _ h2 => (peekReg_sat h2).bind fun _ h3 =>
    barPlace_sat.bind fun _ _ => need_sat.bind fun _ _ => ?_
  dsimp only
  refine Sat.ite (fun _ => ?_) fun _ => ?_
  · exact writeReg_sat (popAll_canon h3)
  · exact need_sat.bind fun _ _ => mayPark_sat.bind fun _ _ => (barFuture_sat h3).bind fun _ h10 =>
      parkNow_sat (by simpa using h10)

@[simp] theorem sendMsg_mem (s : State) (tid : Nat) (dst fut : Word) : (sendMsg s tid dst fut).mem = s.mem := by
  unfold sendMsg
  dsimp only
  split <;> simp

theorem execMsend_res {a b : BitVec 7} {s : State} (h : Canon s) : ResOk (execMsend a b s) := by
  unfold execMsend
  refine issue_res h fun _ => (readReg_sat h).bind fun _ h2 => (readReg_sat h2).bind fun _ h3 =>
    need_sat.bind fun _ _ => ?_
  dsimp only
  refine Sat.ite (fun _ => ?_) fun _ => ?_
  · exact checkHandle_sat.bind fun _ _ => needPushed_sat.bind fun _ _ => need_sat.bind fun _ _ =>
      Sat.guard fun _ => needRel_sat.bind fun _ _ => by simpa using h3
  · exact needPushed_sat.bind fun _ _ => need_sat.bind fun _ _ => Sat.guard fun _ => needRel_sat.bind fun _ _ =>
      by simpa using h3

theorem execMdone_res {s : State} (h : Canon s) : ResOk (execMdone s) :=
  issueRaw_res h fun _ => need_sat.bind fun _ _ => needPushed_sat.bind fun _ _ => by simpa using h

theorem waittDone_sat {s : State} {tid d : Nat} (h : Canon s) : Sat (waittDone s tid d) Canon :=
  (takeTask_sat h).bind fun _ h1 => writeReg_sat h1

theorem execWaitt_res {d a : BitVec 7} {s : State} (h : Canon s) : ResOk (execWaitt d a s) :=
  issue_res h fun _ => (peekReg_sat h).bind fun _ h2 => Sat.guard fun _ => waittDone_sat (popAll_canon h)

theorem execAtset_res {a : BitVec 7} {s : State} (h : Canon s) : ResOk (execAtset a s) :=
  issue_res h fun _ => (readReg_sat h).bind fun _ h2 => by simpa using h2

theorem streamPlace_sat {s : State} {tid d entry : Nat} {dir : Bool} {hd : Word} {child : Nat} (h : Canon s) :
    Sat (streamPlace s tid d entry dir hd child) Canon :=
  needRel_sat.bind fun _ _ => writeReg_sat h

theorem execStream_res {d a b : BitVec 7} {s : State} (h : Canon s) : ResOk (execStream d a b s) := by
  unfold execStream
  refine issue_res h fun _ => notHandler_sat.bind fun _ _ => need_sat.bind fun _ _ =>
    (readReg_sat h).bind fun _ h4 => (readReg_sat h4).bind fun _ h5 => Sat.guard fun _ => need_sat.bind fun _ _ =>
    need_sat.bind fun _ _ => ?_
  refine Sat.bind (allocM_sat h5) fun _ h9 => ?_
  split
  · exact writeReg_sat h5
  · exact streamPlace_sat (h9 _ rfl)

/-! ### The functions of `Machine/Pool.lean` -/

@[simp] theorem modClaim_mem (s : State) (tid : Nat) (f : Claim → Claim) : (State.modClaim s tid f).mem = s.mem := rfl

@[simp] theorem settleMark_mem (s : State) (cl : Nat) : (settleMark s cl).mem = s.mem := by
  unfold settleMark
  split <;> simp

@[simp] theorem grantGroups_mem (s : State) (tid n : Nat) : (grantGroups s tid n).mem = s.mem := by
  unfold grantGroups
  dsimp only
  repeat' split
  all_goals simp

@[simp] theorem makeFrame_mem (s : State) (cl : Nat) : (makeFrame s cl).mem = s.mem := by
  unfold makeFrame
  repeat' split
  all_goals simp

@[simp] theorem frameClaim_mem (s : State) (tid : Nat) (c : Claim) (n : Nat) : (frameClaim s tid c n).mem = s.mem := by
  simp [frameClaim]

@[simp] theorem resumeClaim_mem (s : State) (tid : Nat) : (resumeClaim s tid).mem = s.mem := by
  unfold resumeClaim
  split <;> simp

@[simp] theorem regainClaim_mem (s : State) (tid : Nat) : (regainClaim s tid).mem = s.mem := by
  unfold regainClaim
  split <;> simp

@[simp] theorem freezeClaims_mem (s : State) (k ctx : Nat) : (freezeClaims s k ctx).mem = s.mem :=
  (settleMark_mem ..).trans (foldl_mem _ _ fun _ _ => modClaim_mem ..)

theorem execVclaim_res {d a : BitVec 7} {s : State} (h : Canon s) : ResOk (execVclaim d a s) := by
  unfold execVclaim
  refine issue_res h fun _ => notHandler_sat.bind fun _ _ => need_sat.bind fun _ _ =>
    (readReg_sat h).bind fun _ h4 => ?_
  split
  dsimp only
  split
  · exact writeReg_sat (by simpa using h4)
  · exact Sat.guard fun _ => writeReg_sat (by simpa using h4)

theorem execVrel_res {s : State} (h : Canon s) : ResOk (execVrel s) := issue_res h (by simpa using h)

/-! ### The functions of `Machine/System.lean` -/

theorem execTrap_res {c : BitVec 7} {s : State} (h : Canon s) : ResOk (execTrap c s) := by
  unfold execTrap
  refine issueRaw_res h fun _ => ?_
  refine Sat.ite (fun _ => ?_) fun _ => ?_
  · simpa using h
  · simp

theorem execEret_res {s : State} (h : Canon s) : ResOk (execEret s) := by
  unfold execEret
  refine issueRaw_res h fun _ => ?_
  dsimp only
  exact Sat.guard fun _ => by simpa using h

theorem execBrk_res {_c : BitVec 7} {s : State} (h : Canon s) : ResOk (execBrk _c s) :=
  issueRaw_res h (by simp)

theorem execBrkCompact_res {_i : BitVec 5} {s : State} (h : Canon s) : ResOk (execBrkCompact _i s) :=
  issueRaw_res h (by simp)

@[simp] theorem dropFirst_mem (s : State) (on : Nat → Bool) (asid va n : Nat) :
    (dropFirst s on asid va n).mem = s.mem := rfl

theorem execTlbw_res {d a b : BitVec 7} {s : State} (h : Canon s) : ResOk (execTlbw d a b s) :=
  issue_res h fun _ => (readReg_sat h).bind fun _ h2 => (readReg_sat h2).bind fun _ h3 =>
    need_sat.bind fun _ _ => writeReg_sat h3

@[simp] theorem tlbDrop_mem (s : State) (cl scope asid va n : Nat) :
    (tlbDrop s cl scope asid va n).2.2.mem = s.mem := by
  simp [tlbDrop]

theorem execTlbinv_res {d a b : BitVec 7} {s : State} (h : Canon s) : ResOk (execTlbinv d a b s) := by
  unfold execTlbinv
  refine issue_res h fun _ => (readReg_sat h).bind fun _ h2 => (readReg_sat h2).bind fun _ h3 =>
    need_sat.bind fun _ _ => ?_
  dsimp only
  exact Sat.guard fun _ => writeReg_sat (by simpa using h3)

@[simp] theorem slotWrite_mem (s : State) (k idx : Nat) (v : BitVec 16) : (slotWrite s k idx v).2.mem = s.mem := by
  simp [slotWrite]

@[simp] theorem slotLength_mem (s : State) (k p : Nat) : (slotLength s k p).2.mem = s.mem := by simp [slotLength]

@[simp] theorem abandonWait_mem (s : State) (tid : Nat) : (abandonWait s tid).mem = s.mem := by simp [abandonWait]

@[simp] theorem freezeCtx_mem (s : State) (k ctx : Nat) : (freezeCtx s k ctx).mem = s.mem := by simp [freezeCtx]

@[simp] theorem thawCtx_mem (s : State) (k ctx : Nat) : (thawCtx s k ctx).2.mem = s.mem := by simp [thawCtx]

@[simp] theorem saveThread_mem (s : State) (t : Nat) : (saveThread s t).mem = s.mem := by simp [saveThread]

@[simp] theorem saveCtx_mem (s : State) (k ctx : Nat) : (saveCtx s k ctx).2.mem = s.mem := by simp [saveCtx]

theorem execSlotw_res {d a b : BitVec 7} {s : State} (h : Canon s) : ResOk (execSlotw d a b s) := by
  unfold execSlotw
  refine issue_res h fun _ => (readReg_sat h).bind fun _ h2 => (readReg_sat h2).bind fun _ h3 => ?_
  split
  dsimp only
  refine Sat.ite (fun _ => ?_) fun _ => ?_
  · exact writeReg_sat h3
  · split
    · exact writeReg_sat (by simpa using h3)
    · exact writeReg_sat (by simpa using h3)
    · exact Sat.guard fun _ => writeReg_sat (by simpa using h3)
    · exact writeReg_sat (by simpa using h3)
    · exact Sat.guard fun _ => writeReg_sat (by simpa using h3)

@[simp] theorem beginRemap_mem (s : State) (r : Remap) : (beginRemap s r).mem = s.mem := rfl

theorem execMapcl_res {d a b : BitVec 7} {s : State} (h : Canon s) : ResOk (execMapcl d a b s) := by
  unfold execMapcl
  refine issue_res h fun _ => ?_
  dsimp only
  refine Sat.guard fun _ => (peekReg_sat h).bind fun _ h4 => (peekReg_sat h4).bind fun _ h5 => ?_
  refine Sat.ite (fun _ => ?_) fun _ => ?_
  · exact writeReg_sat (popAll_canon h5)
  · refine Sat.guard fun _ => ?_
    refine Sat.ite (fun _ => ?_) fun _ => ?_
    · exact writeReg_sat (popAll_canon h5)
    · exact fun _ _ => by simpa using h5

theorem execCapmk_res {d a b : BitVec 7} {s : State} (h : Canon s) : ResOk (execCapmk d a b s) :=
  issue_res h fun _ => (readReg_sat h).bind fun _ h2 => (readReg_sat h2).bind fun _ h3 =>
    need_sat.bind fun _ _ => writeLate_sat h3

/-! ### The functions of `Machine/Pair.lean` -/

@[simp] theorem makePair_mem (s : State) (tid : Nat) : (makePair s tid).mem = s.mem := rfl

theorem execPair_res {d : BitVec 7} {s : State} (h : Canon s) : ResOk (execPair d s) :=
  issue_res h fun _ => notHandler_sat.bind fun _ _ => writeReg_sat (by simpa using h)

theorem execUnpair_res {d : BitVec 7} {s : State} (h : Canon s) : ResOk (execUnpair d s) := by
  unfold execUnpair
  refine issue_res h fun _ => notHandler_sat.bind fun _ _ => ?_
  split
  · exact writeReg_sat h
  · exact writeReg_sat (by simpa using h)

theorem execCkpt_res {d : BitVec 7} {s : State} (h : Canon s) : ResOk (execCkpt d s) :=
  issue_res h fun _ => notHandler_sat.bind fun _ _ => writeReg_sat h

theorem checkPoison_sat {s : State} {tid va n : Nat} (h : Canon s) : Sat (checkPoison s tid va n) fun p => Canon p.2 :=
  (placeOf_sat h).bind fun _ h1 => (loadPlace_sat h1).bind fun _ h2 => by simpa using h2

theorem execPchk_res {d a b : BitVec 7} {s : State} (h : Canon s) : ResOk (execPchk d a b s) := by
  unfold execPchk
  refine issue_res h fun _ => (readReg_sat h).bind fun _ h2 => (readReg_sat h2).bind fun _ h3 => Sat.guard fun _ => ?_
  dsimp only
  refine Sat.guard fun _ => ?_
  refine Sat.bind (outside_sat h3 ?_) fun _ h7 => ?_
  · exact checkPoison_sat h3
  · exact writeReg_sat h7

/-! ### The functions of `Machine/Vector.lean` -/

theorem claimOf_sat {s : State} {tid : Nat} : Sat (claimOf s tid) fun _ => True := by
  unfold claimOf
  split <;> trivial

@[simp] theorem vecWrite_mem (tid d : Nat) (els : List Nat) (op : ElOp) (s : State) :
    (vecWrite tid d els op s).mem = s.mem := rfl

@[simp] theorem beat_mem (s : State) (tid n lat : Nat) (keys : List Nat) :
    (State.beat s tid n lat keys).mem = s.mem := rfl

theorem vecOp_res {len d m k : Nat} {w : Pace} {rs : List Nat} {op : Claim → State → Nat → ElOp} {s : State}
    (h : Canon s) :
    ResOk (vecOp len d m k w rs op s) :=
  issue_res h fun _ => claimOf_sat.bind fun _ _ => (canon_iff _).2 (by simpa using h)

theorem execVadd_res {d : BitVec 4} {t : BitVec 3} {a : BitVec 4} {x : BitVec 3} {b : BitVec 4} {m : BitVec 1}
    {k : BitVec 2} {s : State} (h : Canon s) : ResOk (execVadd d t a x b m k s) :=
  vecOp_res h

theorem execVsub_res {d : BitVec 4} {t : BitVec 3} {a : BitVec 4} {x : BitVec 3} {b : BitVec 4} {m : BitVec 1}
    {k : BitVec 2} {s : State} (h : Canon s) : ResOk (execVsub d t a x b m k s) :=
  vecOp_res h

theorem execVmul_res {d : BitVec 4} {t : BitVec 3} {a : BitVec 4} {x : BitVec 3} {b : BitVec 4} {m : BitVec 1}
    {k : BitVec 2} {s : State} (h : Canon s) : ResOk (execVmul d t a x b m k s) :=
  vecOp_res h

theorem execVfma_res {d : BitVec 4} {t : BitVec 3} {a : BitVec 4} {x : BitVec 3} {b : BitVec 4} {m : BitVec 1}
    {k : BitVec 2} {s : State} (h : Canon s) : ResOk (execVfma d t a x b m k s) :=
  vecOp_res h

theorem execVfmaLong_res {d : BitVec 4} {t : BitVec 3} {a : BitVec 4} {x : BitVec 3} {b : BitVec 4} {m : BitVec 1}
    {k : BitVec 2} {e : BitVec 4} {s : State} (h : Canon s) : ResOk (execVfmaLong d t a x b m k e s) :=
  vecOp_res h

theorem execVmin_res {d : BitVec 4} {t : BitVec 3} {a b : BitVec 4} {m : BitVec 1} {k : BitVec 2} {s : State}
    (h : Canon s) : ResOk (execVmin d t a b m k s) :=
  vecOp_res h

theorem execVmax_res {d : BitVec 4} {t : BitVec 3} {a b : BitVec 4} {m : BitVec 1} {k : BitVec 2} {s : State}
    (h : Canon s) : ResOk (execVmax d t a b m k s) :=
  vecOp_res h

theorem execVdiv_res {d : BitVec 4} {t : BitVec 3} {a : BitVec 4} {x : BitVec 3} {b : BitVec 4} {m : BitVec 1}
    {k : BitVec 2} {s : State} (h : Canon s) : ResOk (execVdiv d t a x b m k s) :=
  vecOp_res h

theorem execVand_res {d : BitVec 4} {t : BitVec 3} {a b : BitVec 4} {m : BitVec 1} {k : BitVec 2} {s : State}
    (h : Canon s) : ResOk (execVand d t a b m k s) :=
  vecOp_res h

theorem execVor_res {d : BitVec 4} {t : BitVec 3} {a b : BitVec 4} {m : BitVec 1} {k : BitVec 2} {s : State}
    (h : Canon s) : ResOk (execVor d t a b m k s) :=
  vecOp_res h

theorem execVxor_res {d : BitVec 4} {t : BitVec 3} {a b : BitVec 4} {m : BitVec 1} {k : BitVec 2} {s : State}
    (h : Canon s) : ResOk (execVxor d t a b m k s) :=
  vecOp_res h

theorem execVshl_res {d : BitVec 4} {t : BitVec 3} {a : BitVec 4} {x : BitVec 3} {b : BitVec 4} {m : BitVec 1}
    {k : BitVec 2} {s : State} (h : Canon s) : ResOk (execVshl d t a x b m k s) :=
  vecOp_res h

theorem execVshr_res {d : BitVec 4} {t : BitVec 3} {a : BitVec 4} {x : BitVec 3} {b : BitVec 4} {m : BitVec 1}
    {k : BitVec 2} {s : State} (h : Canon s) : ResOk (execVshr d t a x b m k s) :=
  vecOp_res h

theorem execVsqrt_res {d : BitVec 4} {t : BitVec 3} {a : BitVec 4} {x : BitVec 3} {m : BitVec 1} {k : BitVec 2}
    {s : State} (h : Canon s) : ResOk (execVsqrt d t a x m k s) :=
  vecOp_res h

theorem execVrsqrt_res {d : BitVec 4} {t : BitVec 3} {a : BitVec 4} {x : BitVec 3} {m : BitVec 1} {k : BitVec 2}
    {s : State} (h : Canon s) : ResOk (execVrsqrt d t a x m k s) :=
  vecOp_res h

theorem execVrcp_res {d : BitVec 4} {t : BitVec 3} {a : BitVec 4} {x : BitVec 3} {m : BitVec 1} {k : BitVec 2}
    {s : State} (h : Canon s) : ResOk (execVrcp d t a x m k s) :=
  vecOp_res h

theorem execVexp2_res {d : BitVec 4} {t : BitVec 3} {a : BitVec 4} {x : BitVec 3} {m : BitVec 1} {k : BitVec 2}
    {s : State} (h : Canon s) : ResOk (execVexp2 d t a x m k s) :=
  vecOp_res h

theorem execVlog2_res {d : BitVec 4} {t : BitVec 3} {a : BitVec 4} {x : BitVec 3} {m : BitVec 1} {k : BitVec 2}
    {s : State} (h : Canon s) : ResOk (execVlog2 d t a x m k s) :=
  vecOp_res h

theorem execVsin_res {d : BitVec 4} {t : BitVec 3} {a : BitVec 4} {x : BitVec 3} {m : BitVec 1} {k : BitVec 2}
    {s : State} (h : Canon s) : ResOk (execVsin d t a x m k s) :=
  vecOp_res h

theorem execVtanh_res {d : BitVec 4} {t : BitVec 3} {a : BitVec 4} {x : BitVec 3} {m : BitVec 1} {k : BitVec 2}
    {s : State} (h : Canon s) : ResOk (execVtanh d t a x m k s) :=
  vecOp_res h

theorem execVcmp_res {v : BitVec 2} {t : BitVec 3} {a : BitVec 4} {p : BitVec 3} {b : BitVec 4} {m : BitVec 1}
    {k : BitVec 2} {s : State} (h : Canon s) : ResOk (execVcmp v t a p b m k s) :=
  issue_res h fun _ => claimOf_sat.bind fun _ _ => by simpa using h

theorem execVsel_res {d : BitVec 4} {t : BitVec 3} {a b : BitVec 4} {k : BitVec 2} {s : State} (h : Canon s) :
    ResOk (execVsel d t a b k s) :=
  issue_res h fun _ => claimOf_sat.bind fun _ _ => by simpa using h

theorem execVperm_res {d : BitVec 4} {t : BitVec 3} {a b : BitVec 4} {m : BitVec 1} {k : BitVec 2} {s : State}
    (h : Canon s) : ResOk (execVperm d t a b m k s) :=
  vecOp_res h

theorem execVcvt_res {d : BitVec 4} {t : BitVec 3} {a : BitVec 4} {x : BitVec 3} {y : BitVec 1} {dt : BitVec 3}
    {m : BitVec 1} {k : BitVec 2} {s : State} (h : Canon s) : ResOk (execVcvt d t a x y dt m k s) :=
  vecOp_res h

theorem execVred_res {d : BitVec 4} {t : BitVec 3} {a : BitVec 4} {x : BitVec 3} {o : BitVec 4} {m : BitVec 1}
    {k : BitVec 2} {s : State} (h : Canon s) : ResOk (execVred d t a x o m k s) :=
  issue_res h fun _ => claimOf_sat.bind fun _ _ => by simpa using h

theorem execVscan_res {d : BitVec 4} {t : BitVec 3} {a : BitVec 4} {x : BitVec 3} {o : BitVec 4} {m : BitVec 1}
    {k : BitVec 2} {s : State} (h : Canon s) : ResOk (execVscan d t a x o m k s) :=
  issue_res h fun _ => claimOf_sat.bind fun _ _ => by simpa using h

theorem execVquant_res {d : BitVec 4} {t : BitVec 3} {a : BitVec 4} {x : BitVec 3} {q : BitVec 4} {m : BitVec 1}
    {_k : BitVec 2} {s : State} (h : Canon s) : ResOk (execVquant d t a x q m _k s) :=
  issue_res h fun _ => claimOf_sat.bind fun _ _ => need_sat.bind fun _ _ => by simpa using h

theorem execVdeq_res {d : BitVec 4} {t : BitVec 3} {a : BitVec 4} {x : BitVec 3} {q : BitVec 4} {m : BitVec 1}
    {_k : BitVec 2} {s : State} (h : Canon s) : ResOk (execVdeq d t a x q m _k s) :=
  issue_res h fun _ => claimOf_sat.bind fun _ _ => need_sat.bind fun _ _ => by simpa using h

theorem execVsetvl_res {d a : BitVec 7} {s : State} (h : Canon s) : ResOk (execVsetvl d a s) :=
  issue_res h fun _ => claimOf_sat.bind fun _ _ => (readReg_sat h).bind fun _ h3 => writeReg_sat h3

theorem execVbcast_res {d : BitVec 4} {a : BitVec 7} {m : BitVec 1} {k : BitVec 2} {s : State} (h : Canon s) :
    ResOk (execVbcast d a m k s) :=
  issue_res h fun _ => claimOf_sat.bind fun _ _ => (readReg_sat h).bind fun _ h3 => by simpa using h3

theorem execVbcastLong_res {d : BitVec 4} {m : BitVec 1} {k : BitVec 2} {i : BitVec 32} {s : State} (h : Canon s) :
    ResOk (execVbcastLong d m k i s) :=
  vecOp_res h

theorem execVext_res {d : BitVec 7} {t : BitVec 3} {a : BitVec 4} {b : BitVec 7} {s : State} (h : Canon s) :
    ResOk (execVext d t a b s) :=
  issue_res h fun _ => claimOf_sat.bind fun _ _ => (readReg_sat h).bind fun _ h3 => writeReg_sat h3

/-! ### The functions of `Machine/VecMem.lean` -/

theorem atElem_sat {A : Type} {va} {x : M A} {Q} (h : Sat x Q) : Sat (atElem va x) Q := by
  unfold atElem
  split
  · split <;> trivial
  · exact h

theorem checkBytes_sat {s : State} {tid va : Nat} {a : Machine.Acc} {n : Nat} (h : Canon s) :
    Sat (checkBytes s tid va a n) Canon := by
  induction n generalizing s va with
  | zero => exact h
  | succ n ih => exact (placeOf_sat h).bind fun _ h => ih h

theorem checkEls_sat {s : State} {tid : Nat} {a : Machine.Acc} {aligned : Bool} {els : List (Nat × Nat)} (h : Canon s) :
    Sat (checkEls s tid a aligned els) Canon := by
  induction els generalizing s with
  | nil => exact h
  | cons e r ih => exact Sat.guard fun _ => (atElem_sat (checkBytes_sat h)).bind fun _ h => ih h

theorem loadElem_sat {s : State} {tid va n : Nat} (h : Canon s) : Sat (loadElem s tid va n) fun p => Canon p.2 := by
  unfold loadElem
  refine Sat.ite (fun _ => ?_) fun _ => ?_
  · exact loadVa_sat h
  · exact (loadBytes_sat h).bind fun _ h2 => by simpa using h2

theorem loadEls_sat {s : State} {tid : Nat} {els : List (Nat × Nat × Nat)} (h : Canon s) :
    Sat (loadEls s tid els) fun p => Canon p.2 := by
  induction els generalizing s with
  | nil => exact h
  | cons e r ih => exact (loadElem_sat h).bind fun _ h => (ih h).bind fun _ h => h

@[simp] theorem vLoadWrite_mem (tid d : Nat) (p : Word) (vs : List (Nat × Nat)) (s : State) :
    (vLoadWrite tid d p vs s).mem = s.mem := rfl

theorem vldOp_res {len d a m k : Nat} {off : Word} {s : State} (h : Canon s) : ResOk (vldOp len d a m k off s) :=
  issue_res h fun _ => claimOf_sat.bind fun _ _ => (readReg_sat h).bind fun _ h3 =>
    checkTyped_sat.bind fun _ _ => (checkEls_sat h3).bind fun _ h5 => (loadEls_sat h5).bind fun _ h6 =>
    by simpa using h6

theorem execVld_res {d : BitVec 4} {a : BitVec 7} {m : BitVec 1} {k : BitVec 2} {s : State} (h : Canon s) :
    ResOk (execVld d a m k s) :=
  vldOp_res h

theorem execVldLong_res {d : BitVec 4} {a : BitVec 7} {m : BitVec 1} {k : BitVec 2} {i : BitVec 32} {s : State}
    (h : Canon s) : ResOk (execVldLong d a m k i s) :=
  vldOp_res h

theorem checkGather_sat {p : Word} : Sat (checkGather p) fun _ => True := by
  unfold checkGather
  refine checkTyped_sat.bind fun _ _ => ?_
  refine Sat.ite (fun _ => ?_) fun _ => ?_
  · simp
  · exact trivial

theorem vgatherOp_sat {tid d : Nat} {c : Claim} {p : Word} {els : List Nat} {dist : Nat → Int} {s : State}
    (h : Canon s) : Sat (vgatherOp tid d c p els dist s) Canon :=
  checkGather_sat.bind fun _ _ => (checkEls_sat h).bind fun _ h2 => (loadEls_sat h2).bind fun _ h3 =>
    by simpa using h3

theorem execVlds_res {d : BitVec 4} {a b : BitVec 7} {m : BitVec 1} {k : BitVec 2} {s : State} (h : Canon s) :
    ResOk (execVlds d a b m k s) :=
  issue_res h fun _ => claimOf_sat.bind fun _ _ => (readReg_sat h).bind fun _ h3 =>
    (readReg_sat h3).bind fun _ h4 => vgatherOp_sat h4

theorem execVgath_res {d : BitVec 4} {a : BitVec 7} {x : BitVec 4} {m : BitVec 1} {k : BitVec 2} {s : State}
    (h : Canon s) : ResOk (execVgath d a x m k s) :=
  issue_res h fun _ => claimOf_sat.bind fun _ _ => (readReg_sat h).bind fun _ h3 => vgatherOp_sat h3

theorem vStore_sat {s : State} {tid va : Nat} {bs : List Byte} (h : Canon s) :
    Sat (vStore s tid va bs) fun p => Canon p.2 := by
  unfold vStore
  refine (placeOf_sat h).bind fun _ h1 => ?_
  split
  split
  · simpa using h1
  · simpa using h1
  · simp

theorem vStores_sat {s : State} {tid : Nat} {xs : List (Nat × List Byte)} (h : Canon s) :
    Sat (vStores s tid xs) fun p => Canon p.2 := by
  induction xs generalizing s with
  | nil => exact h
  | cons x r ih => exact (vStore_sat h).bind fun _ h => (ih h).bind fun _ h => h

theorem vPush_sat {s : State} {tid n : Nat} {parts : List (Nat × List Byte)} (h : Canon s) :
    Sat (vPush s tid n parts) Canon := by
  unfold vPush
  dsimp only
  exact Sat.guard fun _ => (vStores_sat h).bind fun _ h3 => by simpa using h3

theorem nibbleBytes_sat {s : State} {tid : Nat} {p : Word} {vs : List (Nat × Nat)} {bs : List Nat} (h : Canon s) :
    Sat (nibbleBytes s tid p vs bs) fun p => Canon p.2 := by
  induction bs generalizing s with
  | nil => exact h
  | cons b r ih =>
    unfold nibbleBytes
    dsimp only
    split
    · exact (ih h).bind fun _ h => h
    · exact (loadVa_sat h).bind fun _ h => (ih h).bind fun _ h => h

@[simp] theorem setAcc_mem (s : State) (tid : Nat) (acc : VAcc) : (setAcc s tid acc).mem = s.mem := rfl

theorem Canon.setAcc {s : State} {tid : Nat} {acc : VAcc} (h : Canon s) : Canon (setAcc s tid acc) := h

theorem vStoreAll_sat {tid beats : Nat} {c : Claim} {r code : Nat} {els : List (Nat × Nat)} {s : State} (h : Canon s) :
    Sat (vStoreAll tid beats c r code els s) Canon :=
  (vPush_sat h).bind fun _ h1 => by simpa using h1

theorem vstOp_res {len r a m k : Nat} {off : Word} {s : State} (h : Canon s) : ResOk (vstOp len r a m k off s) := by
  -- the records stand as a variable, or the kernel computes them to match them against a pair
  obtain ⟨recs, hr⟩ : ∃ f, f = vRecords := ⟨_, rfl⟩
  unfold vstOp
  rw [← hr]
  clear hr
  refine issue_res h fun _ => claimOf_sat.bind fun _ _ => (readReg_sat h).bind fun _ hs =>
    checkTyped_sat.bind fun _ _ => ?_
  dsimp only
  split
  · exact need_sat.bind fun _ _ => (checkEls_sat hs).bind fun _ hc => (vPush_sat hc).bind fun _ hp => hp.setAcc
  · refine (checkEls_sat hs).bind fun _ hc => ?_
    split
    · exact (nibbleBytes_sat hc).bind fun _ hn => vPush_sat hn
    · exact vStoreAll_sat hc

theorem execVst_res {r : BitVec 4} {a : BitVec 7} {m : BitVec 1} {k : BitVec 2} {s : State} (h : Canon s) :
    ResOk (execVst r a m k s) :=
  vstOp_res h

theorem execVstLong_res {r : BitVec 4} {a : BitVec 7} {m : BitVec 1} {k : BitVec 2} {i : BitVec 32} {s : State}
    (h : Canon s) : ResOk (execVstLong r a m k i s) :=
  vstOp_res h

theorem execVscat_res {r : BitVec 4} {a : BitVec 7} {x : BitVec 4} {m : BitVec 1} {k : BitVec 2} {s : State}
    (h : Canon s) : ResOk (execVscat r a x m k s) :=
  issue_res h fun _ => claimOf_sat.bind fun _ _ => (readReg_sat h).bind fun _ h3 =>
    checkGather_sat.bind fun _ _ => (checkEls_sat h3).bind fun _ h5 => vStoreAll_sat h5

/-! ### The functions of `Machine/EvFaults.lean` -/

theorem turnFault_res {code : BitVec 8} {detail : Word} {len insn : Turn → Nat} {s : State} (h : Canon s) :
    ResOk (turnFault code detail len insn s) := by
  unfold turnFault
  split
  · simp
  · simpa using h

theorem execIllegalEncoding_res {code : BitVec 8} {detail : BitVec 64} {s : State} (h : Canon s) :
    ResOk (execIllegalEncoding code detail s) :=
  turnFault_res h

theorem execInstructionFetchFault_res {code : BitVec 8} {detail : BitVec 64} {s : State} (h : Canon s) :
    ResOk (execInstructionFetchFault code detail s) :=
  turnFault_res h

@[simp] theorem resumeAt_mem (s : State) (tid : Nat) (pc : Addr) : (resumeAt s tid pc).mem = s.mem := rfl

@[simp] theorem dropFault_mem (s : State) (tid : Nat) : (dropFault s tid).mem = s.mem := rfl

theorem haltedEvent_res {tid f s} (h : Canon s) (hf : Canon (f s)) : ResOk (haltedEvent tid f s) := by
  unfold haltedEvent
  split
  · exact (resOk_next _).2 hf
  · exact (resOk_next _).2 h

theorem execCscResume_res {tid : Nat} {pc : BitVec 52} {s : State} (h : Canon s) : ResOk (execCscResume tid pc s) :=
  haltedEvent_res h (by simpa using h)

theorem execCscKill_res {tid : Nat} {code : BitVec 8} {s : State} (h : Canon s) : ResOk (execCscKill tid code s) :=
  haltedEvent_res h (by simpa using h)

theorem windowPush_canon {s : State} {tid n : Nat} {v : Word} (h : Canon s) : Canon (windowPush s tid n v) := by
  unfold windowPush
  split
  · exact h
  split
  · exact h
  split
  · next e => exact (writeReg_sat h).of_ok e
  · exact h

theorem windowPop_canon {s : State} {tid n : Nat} (h : Canon s) : Canon (windowPop s tid n) := by
  unfold windowPop
  split
  · exact h
  split
  · exact h
  split
  · next e => exact (readReg_sat h).of_ok e
  · exact h

theorem windowWrite_canon {s : State} {tid sel idx : Nat} {v : Word} (h : Canon s) :
    Canon (windowWrite s tid sel idx v) := by
  unfold windowWrite
  split
  · simpa using h
  · simpa using h
  · simpa using h
  · simpa using h
  · simpa using h
  · simpa using h
  · simpa using h
  · simpa using h
  · exact windowPush_canon h
  · exact h

theorem execCscWindowAccess_res {tid sel idx : Nat} {wr : Bool} {v : BitVec 64} {s : State} (h : Canon s) :
    ResOk (execCscWindowAccess tid sel idx wr v s) :=
  haltedEvent_res h (Canon.ite (fun _ => windowWrite_canon h) fun _ =>
    Canon.ite (fun _ => windowPop_canon h) fun _ => h)

theorem emuCheck_sat {s : State} {tid va : Nat} {a : Machine.Acc} {n : Nat} (h : Canon s) :
    Sat (emuCheck s tid va a n) Canon := by
  induction n generalizing s va with
  | zero => exact h
  | succ n ih => exact (placeOf_sat h).bind fun _ h => ih h

theorem storeBytes_sat {s : State} {tid va : Nat} {bs : List Byte} (h : Canon s) :
    Sat (storeBytes s tid va bs) Canon := by
  induction bs generalizing s va with
  | nil => exact h
  | cons b r ih => exact (storeVa_sat h).bind fun _ h => ih h

theorem emuLoad_sat {s : State} {tid va n : Nat} (h : Canon s) : Sat (emuLoad s tid va n) fun p => Canon p.2 :=
  (emuCheck_sat h).bind fun _ h1 => (loadBytes_sat h1).bind fun _ h2 => by simpa using h2

theorem emuStore_sat {s : State} {tid va : Nat} {bs : List Byte} (h : Canon s) : Sat (emuStore s tid va bs) Canon :=
  (emuCheck_sat h).bind fun _ h1 => storeBytes_sat h1

theorem emulate_sat {s : State} {tid : Nat} {m : Mis} (h : Canon s) : Sat (emulate s tid m) Canon := by
  unfold emulate
  dsimp only
  refine Sat.ite (fun _ => ?_) fun _ => ?_
  · refine (readReg_sat h).bind fun _ h3 => (readReg_sat h3).bind fun _ h4 => ?_
    split
    · refine (readReg_sat h4).bind fun _ h6 => ?_
      refine Sat.ite (fun _ => ?_) fun _ => ?_
      · exact emuStore_sat (by simpa using h6)
      · exact (emuLoad_sat h6).bind fun _ h8 => writeReg_sat (by simpa using h8)
    · refine Sat.ite (fun _ => ?_) fun _ => ?_
      · exact emuStore_sat h4
      · exact (emuLoad_sat h4).bind fun _ h7 => writeReg_sat h7
  · refine Sat.bind_ok ?_
    refine (readReg_sat h).bind fun _ h4 => ?_
    split
    · refine (readReg_sat h4).bind fun _ h6 => ?_
      refine Sat.ite (fun _ => ?_) fun _ => ?_
      · exact emuStore_sat (by simpa using h6)
      · exact (emuLoad_sat h6).bind fun _ h8 => writeReg_sat (by simpa using h8)
    · refine Sat.ite (fun _ => ?_) fun _ => ?_
      · exact emuStore_sat h4
      · exact (emuLoad_sat h4).bind fun _ h7 => writeReg_sat h7

@[simp] theorem asThread_mem (s : State) (tid : Nat) (hd : Halt) : (asThread s tid hd).mem = s.mem := rfl

theorem serveMisalign_canon {s : State} {tid : Nat} {hd : Halt} (h : Canon s) : Canon (serveMisalign s tid hd) := by
  have ht : Canon (asThread s tid hd) := by simpa using h
  unfold serveMisalign
  split
  · simpa using h
  split
  · next e => simpa using (emulate_sat ht).of_ok e
  · simpa using h
  · next e => exact (emulate_sat ht).of_error e _ h
  · next e => simpa using (emulate_sat ht).of_error e _ (by simpa using h)

@[simp] theorem trapTo_mem (s : State) (tid : Nat) (hd : Halt) (v : Word) : (trapTo s tid hd v).mem = s.mem := by
  simp [trapTo]

@[simp] theorem trapPage_mem (s : State) (tid va pb : Nat) : (trapPage s tid va pb).mem = s.mem := by simp [trapPage]

theorem serveTrap_canon {s : State} {tid : Nat} {hd : Halt} (h : Canon s) : Canon (serveTrap s tid hd) := by
  have ht : Canon (asThread s tid hd) := by simpa using h
  unfold serveTrap
  dsimp only
  split
  · simpa using h
  split
  · simpa using h
  split
  · next e => simpa using (loadVa_sat ht).of_ok e
  · simpa using h
  · next e => exact (loadVa_sat ht).of_error e _ h
  · next e => exact (loadVa_sat ht).of_error e _ h

@[simp] theorem holdThread_mem (s : State) (tid : Nat) (hd : Halt) : (holdThread s tid hd).mem = s.mem := rfl

theorem serveFault_canon {s : State} {tid : Nat} {hd : Halt} (h : Canon s) : Canon (serveFault s tid hd) := by
  unfold serveFault
  refine Canon.ite (fun _ => ?_) fun _ => ?_
  · exact serveMisalign_canon h
  · refine Canon.ite (fun _ => ?_) fun _ => ?_
    · exact serveTrap_canon h
    · simpa using h

theorem execFaultMessage_res {cl i : Nat} {s : State} (h : Canon s) : ResOk (execFaultMessage cl i s) := by
  unfold execFaultMessage
  refine (resOk_next _).2 ?_
  split
  · exact h
  · split
    · refine Canon.ite (fun _ => ?_) fun _ => ?_
      · exact serveFault_canon h
      · simpa using h
    · simpa using h

@[simp] theorem resumeHeld_mem (s : State) (tid : Nat) : (resumeHeld s tid).mem = s.mem := rfl

theorem execFutFullReport_res {cl : Nat} {s : State} (h : Canon s) : ResOk (execFutFullReport cl s) :=
  (resOk_next _).2 (h.of_mem (foldl_mem _ _ fun _ _ => rfl))

theorem execStrmSlotReport_res {core : Nat} {s : State} (h : Canon s) : ResOk (execStrmSlotReport core s) := by
  unfold execStrmSlotReport
  simpa using h

theorem execWaitlimExpiry_res {tid : Nat} {s : State} (h : Canon s) : ResOk (execWaitlimExpiry tid s) := by
  refine taskEvent_res h ?_
  refine Canon.ite (fun _ => h) fun _ => ?_
  split
  · simpa using h
  · simpa using h

/-! ### The functions of `Machine/EngMem.lean` -/

@[simp] theorem engPark_mem (s : State) (cl ctx va : Nat) (launch : Option Nat) (who : Nat) :
    (engPark s cl ctx va launch who).mem = s.mem := by
  simp [engPark]

theorem engXl_eng {s : State} {cl ctx va : Nat} {launch : Option Nat} {who : Nat} {a : Acc} (h : Canon s) :
    EngOk (engXl s cl ctx va launch who a) := by
  unfold engXl
  split
  · next e1 =>
      have h1 := Canon.of_snd e1 (by simpa using h)
      refine EngOk.ite (fun _ => ?_) fun _ => ?_
      · simp
      · refine EngOk.ite (fun _ => ?_) fun _ => ?_
        · simp
        · simpa using h1
  · next e1 =>
      have h1 := Canon.of_snd e1 (by simpa using h)
      simpa using h1
  · next e1 =>
      have h1 := Canon.of_snd e1 (by simpa using h)
      simpa using h1
  · next e1 =>
      have h1 := Canon.of_snd e1 (by simpa using h)
      simp
  · next e1 =>
      have h1 := Canon.of_snd e1 (by simpa using h)
      simpa using h1
  · next e1 =>
      have h1 := Canon.of_snd e1 (by simpa using h)
      simpa using h1

theorem engPlace_eng {s : State} {cl ctx va n : Nat} {launch : Option Nat} {who : Nat} {a : Acc} (h : Canon s) :
    EngOk (engPlace s cl ctx va n launch who a) := by
  unfold engPlace
  refine EngOk.ite (fun _ => ?_) fun _ => ?_
  · exact engXl_eng h
  · split
    · simp
    · refine EngOk.ite (fun _ => ?_) fun _ => ?_
      · simp
      · refine EngOk.ite (fun _ => ?_) fun _ => ?_
        · simpa using h
        · split
          · simp
          · split
            · exact engXl_eng h
            · simpa using h

theorem engRead_eng {s : State} {cl ctx va n : Nat} {launch : Option Nat} {who : Nat} (h : Canon s) :
    EngOk (engRead s cl ctx va n launch who) := by
  refine EngOk.bind (engPlace_eng h) fun p t ht => ?_
  dsimp only
  split
  · exact ht
  · exact ht
  · exact ht
  · refine EngOk.ite (fun _ => by simpa using ht) fun _ => EngOk.ite (fun _ => trivial) fun _ => ?_
    split
    · simpa using ht
    · next e =>
      have hu := peerTaken_or_self ht e
      exact Canon.ite (fun _ => by simpa using hu) fun _ => hu

theorem engWrite_eng {s : State} {cl ctx va : Nat} {launch : Option Nat} {who kind : Nat} {bs : List Byte}
    {bad : List Bool}
    {src : Nat} (h : Canon s) : EngOk (engWrite s cl ctx va launch who kind bs bad src) := by
  refine EngOk.bind (engPlace_eng h) fun p t ht => ?_
  dsimp only
  split
  · exact EngOk.ite (fun _ => ht) fun _ => by simpa using ht
  · refine EngOk.ite (fun _ => by simpa using ht) fun _ => EngOk.ite (fun _ => acceptStore_mem_wf _ _ _ ht) fun _ => ?_
    have hp : Canon (performDie t (dieOfCl cl)) := performDie_mem_wf _ _ ht
    have hc {l a n} :
        Canon (noteVisible (takeBack (performDie t (dieOfCl cl)) (dieOfCl cl) l none) (dieOfCl cl) a n) := by
      simpa using hp
    exact Canon.ite (fun _ => Canon.of_mem (commit_mem_wf _ _ _ _ hc) (returnHome_mem ..)) fun _ =>
      commit_mem_wf _ _ _ _ hc
  · trivial

/-! ### The functions of `Machine/Hub.lean` -/

@[simp] theorem hubAsk_mem (s : State) (ctx va : Nat) : (hubAsk s ctx va).mem = s.mem := rfl

@[simp] theorem hubTake_mem (s : State) (ctx va : Nat) : (hubTake s ctx va).mem = s.mem := rfl

@[simp] theorem hubPark_mem (s : State) (ctx va : Nat) (e : Word) : (hubPark s ctx va e).mem = s.mem := by
  simp [hubPark]

theorem hubPlace_eng {s : State} {ctx va : Nat} {a : Acc} (h : Canon s) : EngOk (hubPlace s ctx va a) := by
  unfold hubPlace
  refine EngOk.ite (fun _ => ?_) fun _ => ?_
  · simp
  · split
    · simp
    · split
      · refine EngOk.ite (fun _ => ?_) fun _ => ?_
        · simpa using h
        · simpa using h
      · dsimp only
        split
        · refine EngOk.ite (fun _ => ?_) fun _ => ?_
          · simp
          · refine EngOk.ite (fun _ => ?_) fun _ => ?_
            · simp
            · simpa using h
        · simpa using h
        · simpa using h
        · simp
        · simpa using h
        · simpa using h

theorem homeStore_eng {s : State} {who ctx dpa : Nat} {bs : List Byte} {bad : List Nat} (h : Canon s) :
    EngOk (homeStore s who ctx dpa bs bad) := by
  unfold homeStore
  dsimp only
  refine EngOk.ite (fun _ => by simpa using h) fun _ => EngOk.ite (fun _ => by simpa using h) fun _ =>
    EngOk.ite (fun _ => trivial) fun _ => ?_
  split
  · simpa using h
  split
  · simpa using h
  · next e =>
    have hu := peerTaken_or_self h e
    refine Canon.of_mem ?_ (giveHost_mem ..)
    refine Canon.of_mem ?_ (restHome_mem ..)
    exact homeWrite_mem_wf _ dpa bs (readFrame_canon (settleOuts_mem_wf _ _ _ hu))

theorem hubWrite_eng {s : State} {who ctx va : Nat} {bs : List Byte} (h : Canon s) : EngOk (hubWrite s who ctx va bs)
    := by
  unfold hubWrite
  refine EngOk.bind (hubPlace_eng h) fun _ _ h1 => ?_
  split
  · exact homeStore_eng h1
  · simp

/-! ### The functions of `Machine/Writes.lean` -/

theorem writeWords_eng {s : State} {x : CscWrite} {ctx va : Nat} {ws : List Word} (h : Canon s) :
    EngOk (writeWords s x ctx va ws) := by
  induction ws generalizing s va with
  | nil => exact h
  | cons w r ih =>
    unfold writeWords
    dsimp only
    split
    · trivial
    · refine EngOk.bind ?_ fun _ _ h => ih h
      split
      · exact hubWrite_eng h
      · exact engWrite_eng h

@[simp] theorem dropWrite_mem (s : State) (id : Nat) : (dropWrite s id).mem = s.mem := rfl

@[simp] theorem tellEvent_mem (s : State) (ctx : Nat) (hd v : Word) : (tellEvent s ctx hd v).mem = s.mem := by
  simp [tellEvent]

@[simp] theorem eventOver_mem (s : State) (ctx : Nat) : (eventOver s ctx).mem = s.mem := by
  unfold eventOver
  split <;> simp

@[simp] theorem writeOver_mem (s : State) (x : CscWrite) (bad : Bool) : (writeOver s x bad).mem = s.mem := by
  unfold writeOver
  split <;> simp

theorem foldl_eng {A B : Type} {g : Eng A → B → Eng A} (l : List B) (hg : ∀ x b, EngOk x → EngOk (g x b)) {x : Eng A}
    (h : EngOk x) : EngOk (l.foldl g x) := by
  induction l generalizing x with
  | nil => exact h
  | cons b r ih => exact ih (hg x b h)

theorem writeStores_eng {s : State} {x : CscWrite} (h : Canon s) : EngOk (writeStores s x) := by
  unfold writeStores
  split
  · split
    · trivial
    · exact writeWords_eng h
  · split
    · trivial
    · exact (engRead_eng h).bind fun _ _ h => EngOk.ite (fun _ => trivial) fun _ =>
        (writeWords_eng h).bind fun _ _ h => writeWords_eng h
  · split
    · trivial
    · exact foldl_eng _ (fun _ _ h => h.bind fun _ _ h => writeWords_eng h) h

@[simp] theorem takeFaults_mem (s : State) (x : CscWrite) : (takeFaults s x).mem = s.mem := by
  unfold takeFaults
  split
  · split
    · rfl
    · split
      · exact foldl_mem _ _ fun _ _ => hubTake_mem ..
      · rfl
  · rfl

theorem tryWrite_canon {s : State} {x : CscWrite} (h : Canon s) : Canon (tryWrite s x) := by
  have hw : EngOk (if x.sent then .ok () s else writeStores s x) := EngOk.ite (fun _ => h) fun _ => writeStores_eng h
  unfold tryWrite
  refine Canon.ite (fun _ => ?_) fun _ => ?_
  · split
    · simpa using h
    · exact h
  · split
    · next e =>
      have ht := hw.of_ok e
      exact Canon.ite (fun _ => by simpa using ht) fun _ => by simpa using ht
    · next e => exact hw.of_wait e
    · simpa using h

theorem tryWrites_canon {s : State} (h : Canon s) : Canon (tryWrites s) := by
  refine List.foldlRecOn (motive := fun a : State × List Nat => Canon a.1) _ _ h fun a ha x _ => ?_
  split
  · exact ha
  · dsimp only
    split
    · exact tryWrite_canon ha
    · exact tryWrite_canon ha

@[simp] theorem faultWrite_mem (s : State) (id : Nat) : (faultWrite s id).mem = s.mem := by
  unfold faultWrite
  split <;> simp

/-! ### The functions of `Machine/Launches.lean` -/

@[simp] theorem landPart_mem (s : State) (k l : Nat) : (landPart s k l).mem = s.mem := by
  unfold landPart
  split <;> simp

@[simp] theorem leaveParts_mem (s : State) (l : Nat) : (leaveParts s l).mem = s.mem := rfl

theorem execTerminationSweep_res {l : Nat} {s : State} (h : Canon s) : ResOk (execTerminationSweep l s) := by
  unfold execTerminationSweep
  refine (resOk_next _).2 ?_
  split
  · exact h
  · simpa using h

theorem putRecord_eng {s : State} {x : Launch} {r : RootEnd} (h : Canon s) : EngOk (putRecord s x r) := by
  have hw {who va bs} : EngOk (if ptrBad (x.w 11) then Eng.bad BAD_POINTER else hubWrite s who x.ctx va bs) :=
    EngOk.ite (fun _ => trivial) fun _ => hubWrite_eng h
  unfold putRecord
  refine EngOk.ite (fun _ => h) fun _ => ?_
  split
  · next e => exact hw.of_ok e
  · next e => exact hw.of_wait e
  · simpa using h

@[simp] theorem raiseQueue_mem (s : State) (q : Nat) : (raiseQueue s q).mem = s.mem := by
  unfold raiseQueue
  split <;> simp

@[simp] theorem freeFuts_mem (s : State) (l : Nat) : (freeFuts s l).mem = s.mem := rfl

@[simp] theorem removeEntries_mem (s : State) (l : Nat) (x : Launch) : (removeEntries s l x).mem = s.mem :=
  foldl_mem _ _ fun _ _ => by split <;> simp

@[simp] theorem endPreempt_mem (s : State) (p : Preempt) : (endPreempt s p).mem = s.mem := by simp [endPreempt]

@[simp] theorem endPreempts_mem (s : State) (q : Nat) : (endPreempts s q).mem = s.mem := by simp [endPreempts]

@[simp] theorem endLaunch_mem (s : State) (l : Nat) (x : Launch) : (endLaunch s l x).mem = s.mem := by simp [endLaunch]

@[simp] theorem passPacket_mem (s : State) (q : Nat) : (passPacket s q).mem = s.mem := by simp [passPacket]

theorem execLaunchRetirement_res {l : Nat} {s : State} (h : Canon s) : ResOk (execLaunchRetirement l s) := by
  unfold execLaunchRetirement
  refine (resOk_next _).2 ?_
  split
  · exact h
  · dsimp only
    refine Canon.ite (fun _ => ?_) fun _ => ?_
    · exact h
    · refine Canon.ite (fun _ => ?_) fun _ => ?_
      · simpa using h
      · refine Canon.ite (fun _ => ?_) fun _ => ?_
        · exact h
        · split
          · next e7 =>
              have h7 := (putRecord_eng h).of_ok e7
              simpa using h7
          · next e7 =>
              have h7 := (putRecord_eng h).of_wait e7
              exact h7
          · exact h

/-! ### The functions of `Machine/EvSched.lean` -/

@[simp] theorem takeSlot_mem (s : State) (tid k key : Nat) : (takeSlot s tid k key).mem = s.mem := by
  unfold takeSlot
  dsimp only
  repeat' split
  all_goals simp

@[simp] theorem dispatchEntry_mem (s : State) (k : Nat) (x : Entry) : (dispatchEntry s k x).mem = s.mem := by
  unfold dispatchEntry
  split <;> simp

theorem execTaskDispatch_res {core : Nat} {s : State} (h : Canon s) : ResOk (execTaskDispatch core s) := by
  unfold execTaskDispatch
  refine (resOk_next _).2 ?_
  refine Canon.ite (fun _ => ?_) fun _ => ?_
  · exact h
  · split
    · simpa using h
    · exact h

theorem execFrameMove_res {tid base : Nat} {s : State} (h : Canon s) : ResOk (execFrameMove tid base s) :=
  taskEvent_res h (by simpa using h)

@[simp] theorem notePassed_mem (s : State) (k : Nat) : (notePassed s k).mem = s.mem := rfl

theorem execWaitingLargeTask_res {core tid : Nat} {s : State} (h : Canon s) : ResOk (execWaitingLargeTask core tid s)
    := by
  unfold execWaitingLargeTask
  simpa using h

theorem listWords_eng {s : State} {cl ctx va : Nat} {l : Option Nat} {who n : Nat} (h : Canon s) :
    EngOk (listWords s cl ctx va l who n) := by
  induction n generalizing s va with
  | zero => exact h
  | succ n ih =>
    exact (engRead_eng h).bind fun _ _ h => EngOk.ite (fun _ => trivial) fun _ => (ih h).bind fun _ _ h => h

@[simp] theorem tileXfers_mem (s : State) (k : Nat) (t : Task) (tid : Nat) (es : List (Word × Word)) :
    (tileXfers s k t tid es).2.mem = s.mem := by
  induction es generalizing s with
  | nil => rfl
  | cons e r ih => exact (ih _).trans (fresh_mem s)

@[simp] theorem startPrefetch_mem (s : State) (k tid : Nat) (es : List (Word × Word)) :
    (startPrefetch s k tid es).mem = s.mem := by
  simp [startPrefetch]

@[simp] theorem killPrefetch_mem (s : State) (tid : Nat) (c : Code) : (killPrefetch s tid c).mem = s.mem := by
  simp [killPrefetch]

theorem splitRange_mem {s : State} {k : Nat} {r : Range} {t : Nat} {s' : State} (e : splitRange s k r = some (t, s')) :
    s'.mem = s.mem := by
  obtain ⟨u, hu, e⟩ := Option.map_eq_some_iff.mp e
  have hs := congrArg (fun x : Nat × State => x.2.mem) e
  split at hu
  · have hm := makeRoom_mem hu
    exact hs.symm.trans hm
  · cases hu; exact hs.symm

theorem single_mem {s : State} {k : Nat} {x : Entry} {t : Nat} {s' : State} (e : single s k x = some (t, s')) :
    s'.mem = s.mem := by
  cases x with
  | task u => cases e; rfl
  | range r => exact splitRange_mem e

theorem tileList_eng {s : State} {cl ctx va : Nat} {l : Option Nat} {who : Nat} (h : Canon s) :
    EngOk (tileList s cl ctx va l who) :=
  EngOk.bind (listWords_eng h) fun _ _ h1 => EngOk.bind (listWords_eng h1) fun _ _ h2 => by simpa using h2

theorem killSingle_canon {s : State} {k : Nat} {e : Entry} {c : Code} (h : Canon s) :
    Canon (match single s k e with
      | some (t, s) => killPrefetch s t c
      | none => s) := by
  split
  · next hs => simpa using h.of_mem (single_mem hs)
  · exact h

theorem readList_canon {s : State} {k : Nat} {y : Entry} (h : Canon s) : Canon (readList s k y) := by
  unfold readList
  split
  · exact h
  dsimp only
  split
  · next e => exact (tileList_eng h).of_wait e
  · exact killSingle_canon h
  · next e =>
    have ht := (tileList_eng h).of_ok e
    split
    · exact killSingle_canon ht
    · refine Canon.ite (fun _ => ht) fun _ => ?_
      split
      · next hs => simpa using ht.of_mem (single_mem hs)
      · exact ht

theorem execPrefetchStart_res {cl core pos : Nat} {s : State} (h : Canon s) : ResOk (execPrefetchStart cl core pos s)
    := by
  unfold execPrefetchStart
  refine (resOk_next _).2 ?_
  refine Canon.ite (fun _ => ?_) fun _ => ?_
  · exact h
  · split
    · exact readList_canon h
    · exact h

theorem execStealSweep_res {core : Nat} {s : State} (h : Canon s) : ResOk (execStealSweep core s) := by
  unfold execStealSweep
  refine (resOk_next _).2 ?_
  refine Canon.ite (fun _ => ?_) fun _ => ?_
  · exact h
  · dsimp only
    split
    · simpa using h
    · simpa using h

@[simp] theorem setSteal_mem (s : State) (i : Nat) (f : Steal → Steal) : (setSteal s i f).mem = s.mem := rfl

theorem execStealRequest_res {i : Nat} {s : State} (h : Canon s) : ResOk (execStealRequest i s) := by
  unfold execStealRequest
  refine (resOk_next _).2 ?_
  split
  · exact h
  · refine Canon.ite (fun _ => ?_) fun _ => ?_
    · exact h
    · refine Canon.ite (fun _ => ?_) fun _ => ?_
      · simpa using h
      · refine Canon.ite (fun _ => ?_) fun _ => ?_
        · simpa using h
        · refine Canon.ite (fun _ => ?_) fun _ => ?_
          · exact h
          · split
            · simpa using h
            · simpa using h

@[simp] theorem killEntry_mem (s : State) (k : Nat) (e : Entry) : (killEntry s k e).mem = s.mem := by
  unfold killEntry
  split <;> simp

theorem giveBack_mem {s : State} {x : Steal} {e0 : Entry} {s'} (e : giveBack s x e0 = some s') : s'.mem = s.mem := by
  grind [giveBack, killEntry_mem, pushTop_mem]

theorem landStolen_mem {s : State} {x : Steal} {y : Entry} {s' : State} (e : landStolen s x y = some s') :
    s'.mem = s.mem := by
  unfold landStolen at e
  dsimp only at e
  split at e
  · cases e
  · obtain ⟨u, hu, rfl⟩ := Option.map_eq_some_iff.mp e
    refine Eq.trans ?_ (pushBottom_mem hu)
    repeat' split
    all_goals simp

theorem execStealAnswer_res {i : Nat} {s : State} (h : Canon s) : ResOk (execStealAnswer i s) := by
  unfold execStealAnswer
  refine (resOk_next _).2 ?_
  split
  · exact h
  refine Canon.ite (fun _ => h) fun _ => ?_
  extract_lets back
  have hb : Canon back := h.of_mem rfl
  split
  · exact hb
  · refine Canon.getD (fun t ht => ?_) h
    rw [Option.orElse_eq_or] at ht
    obtain hl | hg := Option.or_eq_some_iff.mp ht
    · exact hb.of_mem (landStolen_mem hl)
    · exact hb.of_mem (giveBack_mem hg.2)

/-! ### The functions of `Machine/EvFutures.lean` -/

theorem execFutureSpill_res {cl : Nat} {s : State} (h : Canon s) : ResOk (execFutureSpill cl s) := by
  unfold execFutureSpill
  refine (resOk_next _).2 ?_
  refine Canon.ite (fun _ => ?_) fun _ => ?_
  · split
    · simpa using h
    · exact h
  · exact h

@[simp] theorem inTurn_mem (s : State) (tid : Nat) (p : Park) : (inTurn s tid p).mem = s.mem := rfl

@[simp] theorem finishWait_mem (s : State) (tid : Nat) (p : Park) : (finishWait s tid p).mem = s.mem := by
  simp [finishWait]

theorem replyBody_sat {tid : Nat} {p : Park} {m : FutMsg} {found : List (Word × View)} {s : State} (h : Canon s) :
    Sat (replyBody tid p m found s) Canon := by
  unfold replyBody
  split
  · dsimp only
    refine Sat.ite (fun _ => ?_) fun _ => ?_
    · exact mayPark_sat.bind fun _ _ => touchDone_sat h
    · exact touchDone_sat h
  · exact touchpDone_sat h
  · exact outcomeDone_sat h
  · exact outcomeDone_sat h
  · exact wanyBody_sat h
  · simpa using h

@[simp] theorem replyPark_mem (s : State) (tid : Nat) (p : Park) (m : FutMsg) : (replyPark s tid p m).mem = s.mem := by
  simp [replyPark]

theorem answerThread_canon {s : State} {m : FutMsg} (h : Canon s) : Canon (answerThread s m).1 := by
  have hd : Canon (if m.view.out = 4 && isLocal s m.h then unrecord s m.cl m.h else s) := by simpa using h
  unfold answerThread
  dsimp only
  split
  · exact hd
  split
  · exact hd
  split
  · simpa using h
  split
  · simpa using h
  split
  · next e => simpa using (replyBody_sat (popAll_canon (by simpa using h))).of_ok e
  · simpa using h
  · exact h
  · next e => simpa using (replyBody_sat (popAll_canon (by simpa using h))).of_error e _ (by simpa using h)

theorem execFutureRequest_res {i : Nat} {s : State} (h : Canon s) : ResOk (execFutureRequest i s) := by
  unfold execFutureRequest
  refine (resOk_next _).2 ?_
  split
  · exact h
  · simpa using h

theorem execFutureReply_res {i : Nat} {s : State} (h : Canon s) : ResOk (execFutureReply i s) := by
  unfold execFutureReply
  refine (resOk_next _).2 ?_
  split
  · exact h
  refine Canon.ite (fun _ => h) fun _ => ?_
  split
  · next e => exact (answerThread_canon (by simpa using h)).of_fst e
  · exact h

theorem execWakeMessage_res {i : Nat} {s : State} (h : Canon s) : ResOk (execWakeMessage i s) := by
  unfold execWakeMessage
  refine (resOk_next _).2 ?_
  split
  · exact h
  · simpa using h

theorem wakeBody_sat {tid : Nat} {p : Park} {hd : Word} {v : View} {s : State} (h : Canon s) :
    Sat (wakeBody tid p hd v s) Canon := by
  unfold wakeBody
  split
  · exact touchDone_sat h
  · exact wanyDone_sat h
  · refine Sat.ite (fun _ => ?_) fun _ => ?_
    · exact writeReg_sat h
    · exact touchDone_sat h
  · simpa using h

theorem wakeUp_mem {s : State} {tid : Nat} {pend : Option Halt} {s' : State} (e : wakeUp s tid pend = some s') :
    s'.mem = s.mem :=
  (makeReady_mem e).trans (by simp)

theorem wakeWith_canon {s s' : State} {tid : Nat} {pend : Option Halt} (h : Canon s) (h' : Canon s') :
    Canon (wakeWith s s' tid pend).1 := by
  unfold wakeWith
  split
  · next e => exact h'.of_mem (wakeUp_mem e)
  · exact h

theorem wakeTask_canon {s : State} {w : Wake} (h : Canon s) : Canon (wakeTask s w).1 := by
  unfold wakeTask
  dsimp only
  split
  · exact h
  split
  · exact h
  split
  · exact h
  split
  · exact wakeWith_canon h h
  split
  · next e => exact wakeWith_canon h (by simpa using (wakeBody_sat (popAll_canon (by simpa using h))).of_ok e)
  · exact wakeWith_canon h (by simpa using h)
  · exact h
  · next e => simpa using (wakeBody_sat (popAll_canon (by simpa using h))).of_error e _ h

theorem execWaiterWake_res {cl : Nat} {s : State} (h : Canon s) : ResOk (execWaiterWake cl s) := by
  unfold execWaiterWake
  refine (resOk_next _).2 ?_
  split
  · exact h
  refine Canon.ite (fun _ => h) fun _ => ?_
  split
  · next e => exact (wakeTask_canon (by simpa using h)).of_fst e
  · next e => simpa using (wakeTask_canon (by simpa using h)).of_fst e

/-! ### The functions of `Machine/EvMatrix.lean` -/

@[simp] theorem modJob_mem (s : State) (cl id : Nat) (f : Job → Job) : (State.modJob s cl id f).mem = s.mem := rfl

@[simp] theorem startJob_mem (s : State) (cl : Nat) (j : Job) : (startJob s cl j).mem = s.mem := by simp [startJob]

@[simp] theorem jobOver_mem (s : State) (cl id status : Nat) (fl : Flags) :
    (jobOver s cl id status fl).mem = s.mem := rfl

theorem gather_eng {s : State} {cl ctx : Nat} {l : Option Nat} {who : Nat} {segs : List (Nat × Nat)} (h : Canon s) :
    EngOk (gather s cl ctx l who segs) := by
  unfold gather
  dsimp only
  split
  · next hstop =>
    obtain ⟨p, _, hp⟩ := List.exists_of_findSome?_eq_some hstop
    clear hstop
    split at hp
    · cases hp
    · next e => cases hp; exact (engRead_eng h).of_wait e
    · cases hp; trivial
  · refine foldl_canon _ (fun s p h => ?_) h
    split
    · next e => exact (engRead_eng h).of_ok e
    · exact h

theorem readOpnd_eng {s : State} {cl : Nat} {j : Job} {o : Opnd} (h : Canon s) : EngOk (readOpnd s cl j o) := by
  unfold readOpnd
  dsimp only
  refine EngOk.ite (fun _ => ?_) fun _ => ?_
  · split
    · simp
    · exact EngOk.bind (gather_eng h) fun _ _ h4 => by simpa using h4
  · split
    · simp
    · refine EngOk.bind (gather_eng h) fun _ _ h4 => ?_
      split
      · simp
      · refine EngOk.bind (gather_eng h4) fun _ _ h6 => ?_
        split
        · simp
        · exact EngOk.bind (gather_eng h6) fun _ _ h8 => EngOk.bind (gather_eng h8) fun _ _ h9 => by simpa using h9

@[simp] theorem tileOver_mem (s : State) (cl : Nat) (j : Job) (x : TAcc) : (tileOver s cl j x).mem = s.mem := rfl

theorem runJob_canon {cl j op : Nat} {work : State → Job → Eng State} {s : State} (h : Canon s)
    (hw : ∀ t y, Canon t → WorkOk (work t y)) : Canon (runJob cl j op work s) := by
  unfold runJob
  split
  · exact h
  refine Canon.ite (fun _ => h) fun _ => ?_
  have hs {x} : Canon (startJob s cl x) := by simpa using h
  refine Canon.ite (fun _ => by simpa using h) fun _ => ?_
  generalize hr : work _ _ = r
  have hok : WorkOk r := hr ▸ hw _ _ hs
  split
  · exact hok
  · exact hok
  · simpa using h

theorem mmaWork_work {cl : Nat} {s : State} {j : Job} (h : Canon s) : WorkOk (mmaWork cl s j) :=
  WorkOk.bind (readOpnd_eng h) fun _ _ h => WorkOk.bind (readOpnd_eng h) fun _ _ h => (canon_iff _).2 (by simpa using h)

theorem execMxeMma_res {cl j : Nat} {s : State} (h : Canon s) : ResOk (execMxeMma cl j s) :=
  (resOk_next _).2 (runJob_canon h fun _ _ h => mmaWork_work h)

theorem loadWork_work {cl : Nat} {s : State} {j : Job} (h : Canon s) : WorkOk (loadWork cl s j) :=
  WorkOk.bind (readOpnd_eng h) fun _ _ h => (canon_iff _).2 (by simpa using h)

theorem execMxeLoad_res {cl j : Nat} {s : State} (h : Canon s) : ResOk (execMxeLoad cl j s) :=
  (resOk_next _).2 (runJob_canon h fun _ _ h => loadWork_work h)

theorem zeroWork_work {cl : Nat} {s : State} {j : Job} (h : Canon s) : WorkOk (zeroWork cl s j) :=
  (canon_iff _).2 (by simpa using h)

theorem execMxeZero_res {cl j : Nat} {s : State} (h : Canon s) : ResOk (execMxeZero cl j s) :=
  (resOk_next _).2 (runJob_canon h fun _ _ h => zeroWork_work h)

theorem storeOne_eng {s : State} {cl : Nat} {j : Job} {w : Nat × List Byte × List Bool × Bool} (h : Canon s) :
    EngOk (storeOne s cl j w) := by
  unfold storeOne
  split
  refine EngOk.ite (fun _ => ?_) fun _ => ?_
  · exact engWrite_eng h
  · exact EngOk.bind (engRead_eng h) fun _ _ h3 => engWrite_eng h3

theorem storeAll_work {cl : Nat} {j : Job} {fl : Flags} {ws : List (Nat × List Byte × List Bool × Bool)} {s : State}
    (h : Canon s) : WorkOk (storeAll cl j fl ws s) := by
  induction ws generalizing s with
  | nil => exact (canon_iff _).2 (by simpa using h)
  | cons w r ih =>
    unfold storeAll
    split
    · next e => exact ih (by simpa using (storeOne_eng h).of_ok e)
    · next e => exact (storeOne_eng h).of_wait e
    · exact (canon_iff _).2 (by simpa using h)

theorem storeWork_work {cl : Nat} {s : State} {j : Job} (h : Canon s) : WorkOk (storeWork cl s j) := by
  unfold storeWork
  dsimp only
  split
  · trivial
  split
  · exact h
  · exact storeAll_work h

theorem execMxeStore_res {cl j : Nat} {s : State} (h : Canon s) : ResOk (execMxeStore cl j s) :=
  (resOk_next _).2 (runJob_canon h fun _ _ h => storeWork_work h)

@[simp] theorem postElem_mem (s : State) (j : Job) (e : Word) : (postElem s j e).mem = s.mem := by
  unfold postElem
  split <;> simp

theorem execMxeJobComplete_res {cl j : Nat} {s : State} (h : Canon s) : ResOk (execMxeJobComplete cl j s) := by
  unfold execMxeJobComplete
  refine (resOk_next _).2 ?_
  split
  · exact h
  · split
    · exact h
    · simpa using h

@[simp] theorem capRefuse_mem (s : State) (j : Job) (c : Code) : (capRefuse s j c).mem = s.mem := by
  unfold capRefuse
  split <;> simp

theorem capServe_mem {s : State} {m : CapMsg} {s'} (e : capServe s m = some s') : s'.mem = s.mem := by
  grind [capServe, capRefuse_mem, mxAccept_mem]

theorem execMxsubcCommand_res {i : Nat} {s : State} (h : Canon s) : ResOk (execMxsubcCommand i s) := by
  unfold execMxsubcCommand
  refine (resOk_next _).2 ?_
  split
  · exact h
  · refine Canon.ite (fun _ => ?_) fun _ => ?_
    · exact h
    · refine Canon.ite (fun _ => ?_) fun _ => ?_
      · simpa using h
      · split
        · next e5 =>
            have h5 := Canon.of_mem (by simpa using h) (capServe_mem e5)
            exact h5
        · exact h

theorem blockOf_eng {s : State} {x : Swap} (h : Canon s) : EngOk (blockOf s x) :=
  EngOk.bind (gather_eng h) fun _ _ h1 => by simpa using h1

@[simp] theorem dropSwaps_mem (s : State) (xs : List Swap) : (dropSwaps s xs).mem = s.mem :=
  foldl_mem _ _ fun _ _ => rfl

theorem execTswapMatch_res {core i : Nat} {s : State} (h : Canon s) : ResOk (execTswapMatch core i s) := by
  have hp {xs ys : List Swap} {c : Code} : Canon (ys.foldl (fun s z => poisonH s z.fut c) (dropSwaps s xs)) :=
    h.of_mem ((foldl_mem _ _ fun _ _ => poisonH_mem ..).trans (dropSwaps_mem ..))
  have hb {x y : Swap} : EngOk ((blockOf s x).bind fun bx s => (blockOf s y).bind fun b s => .ok (bx, b) s) :=
    (blockOf_eng h).bind fun _ _ h => (blockOf_eng h).bind fun _ _ h => h
  unfold execTswapMatch
  refine (resOk_next _).2 ?_
  split
  · exact h
  refine Canon.ite (fun _ => h) fun _ => ?_
  split
  · exact h
  refine Canon.ite (fun _ => hp) fun _ => ?_
  split
  · next e => simpa using hb.of_ok e
  · next e => exact hb.of_wait e
  · exact hp

theorem landPieces_canon {x : Landing} {ps : List (Nat × List Byte × List Bool)} {s : State} (h : Canon s) :
    Canon (landPieces x ps s).2 := by
  induction ps generalizing x s with
  | nil => exact h
  | cons p r ih =>
    unfold landPieces
    split
    · next e => exact ih ((engWrite_eng h).of_ok e)
    · next e => exact (engWrite_eng h).of_wait e
    · exact h

theorem landOne_canon {s : State} {x : Landing} (h : Canon s) : Canon (landOne s x).2 := by
  unfold landOne
  split
  · exact h
  · split
    · exact h
    · split
      · exact h
      · exact landPieces_canon h

theorem landBlocks_canon {xs : List Landing} {s : State} (h : Canon s) : Canon (landBlocks xs s).2 := by
  induction xs generalizing s with
  | nil => exact h
  | cons x r ih => exact ih (landOne_canon h)

@[simp] theorem landedFut_mem (s : State) (x : Landing) : (landedFut s x).mem = s.mem := by simp [landedFut]

theorem execTswapComplete_res {i : Nat} {s : State} (h : Canon s) : ResOk (execTswapComplete i s) := by
  unfold execTswapComplete
  refine (resOk_next _).2 ?_
  split
  · simpa using landBlocks_canon h
  · exact h

/-! ### The functions of `Machine/EvTransfer.lean` -/

@[simp] theorem modXfer_mem (s : State) (cl id : Nat) (f : Xfer → Xfer) : (State.modXfer s cl id f).mem = s.mem := rfl

@[simp] theorem hostBytes_mem (s : State) (cl : Nat) (x : Xfer) (bs : List Byte) :
    (hostBytes s cl x bs).2.mem = s.mem := by
  simp [hostBytes]

theorem readTile_eng {s : State} {cl : Nat} {x : Xfer} (h : Canon s) : EngOk (readTile s cl x) := by
  unfold readTile
  refine EngOk.ite (fun _ => ?_) fun _ => ?_
  · simpa using h
  · dsimp only
    exact EngOk.bind (engRead_eng h) fun _ _ h3 => by simpa using h3

theorem moveTile_eng {s : State} {cl : Nat} {x : Xfer} (h : Canon s) : EngOk (moveTile s cl x) :=
  EngOk.bind (readTile_eng h) fun _ _ h1 => engWrite_eng h1

theorem movePiece_eng {s : State} {cl : Nat} {x : Xfer} (h : Canon s) : EngOk (movePiece s cl x) := by
  unfold movePiece
  refine EngOk.ite (fun _ => ?_) fun _ => ?_
  · exact moveTile_eng h
  · split
    · simp
    · refine EngOk.ite (fun _ => ?_) fun _ => ?_
      · simpa using h
      · dsimp only
        refine EngOk.bind (engRead_eng h) fun _ _ h5 => EngOk.bind (engWrite_eng h5) fun _ _ h6 => ?_
        show Canon _
        split
        · simpa using h6
        · simpa using h6

@[simp] theorem prefetchDone_mem (s : State) (cl tid : Nat) : (prefetchDone s cl tid).mem = s.mem := by
  simp [prefetchDone]

@[simp] theorem endXfer_mem (s : State) (cl : Nat) (x : Xfer) (c : Code) : (endXfer s cl x c).mem = s.mem := by
  unfold endXfer
  split <;> simp

theorem pieceStep_canon {s : State} {cl : Nat} {x : Xfer} (h : Canon s) : Canon (pieceStep s cl x) := by
  unfold pieceStep
  dsimp only
  split
  · next e2 =>
      have h2 := (movePiece_eng h).of_ok e2
      split
      · simpa using h2
      · simpa using h2
  · next e2 =>
      have h2 := (movePiece_eng h).of_wait e2
      simpa using h2
  · simpa using h

theorem execXfePiece_res {cl x : Nat} {s : State} (h : Canon s) : ResOk (execXfePiece cl x s) := by
  unfold execXfePiece
  refine (resOk_next _).2 ?_
  split
  · exact h
  · refine Canon.ite (fun _ => ?_) fun _ => ?_
    · exact pieceStep_canon h
    · exact h

@[simp] theorem postXfer_mem (s : State) (x : Xfer) : (postXfer s x).mem = s.mem := by
  unfold postXfer
  split <;> simp

theorem execTransferComplete_res {cl x : Nat} {s : State} (h : Canon s) : ResOk (execTransferComplete cl x s) := by
  unfold execTransferComplete
  refine (resOk_next _).2 ?_
  split
  · exact h
  · simpa using h

/-! ### The functions of `Machine/EvPorts.lean` -/

@[simp] theorem popStore_mem (s : State) (tid : Nat) : (popStore s tid).mem = s.mem := rfl

@[simp] theorem markHead_mem (s : State) (tid : Nat) : (markHead s tid).mem = s.mem := by simp [markHead]

@[simp] theorem deadLater_mem (s : State) (t va : Nat) : (deadLater s t va).mem = s.mem := by simp [deadLater]

@[simp] theorem lostStore_mem (s : State) (t : Nat) : (lostStore s t).mem = s.mem := by simp [lostStore]

theorem drainMem_canon {s : State} {tid dpa : Nat} {x : Store} (h : Canon s) : Canon (drainMem s tid dpa x) := by
  unfold drainMem
  dsimp only
  refine Canon.ite (fun _ => ?_) fun _ => ?_
  · simpa using h
  · refine Canon.ite (fun _ => ?_) fun _ => ?_
    · simpa using h
    · exact acceptStore_mem_wf _ _ _ h

@[simp] theorem drainWin_mem (s : State) (tid k o : Nat) (x : Store) : (drainWin s tid k o x).mem = s.mem := by
  simp [drainWin]

theorem execStoreFifoDrain_res {tid : Nat} {s : State} (h : Canon s) : ResOk (execStoreFifoDrain tid s) := by
  unfold execStoreFifoDrain
  refine (resOk_next _).2 ?_
  split
  · exact h
  · split
    · exact h
    · dsimp only
      refine Canon.ite (fun _ => ?_) fun _ => ?_
      · simpa using h
      · split
        · exact drainMem_canon (by simpa using h)
        · simpa using h
        · simpa using h

@[simp] theorem storeDead_mem (s : State) (m : PortMsg) : (storeDead s m).mem = s.mem := by
  unfold storeDead
  split <;> simp

@[simp] theorem ackPort_mem (s : State) (m : PortMsg) : (ackPort s m).mem = s.mem := by
  unfold ackPort
  split <;> simp

theorem execPortAccessArrival_res {i : Nat} {s : State} (h : Canon s) : ResOk (execPortAccessArrival i s) := by
  unfold execPortAccessArrival
  refine (resOk_next _).2 ?_
  split
  · exact h
  · simpa using h

theorem execPortReply_res {i : Nat} {s : State} (h : Canon s) : ResOk (execPortReply i s) := by
  unfold execPortReply
  refine (resOk_next _).2 ?_
  split
  · exact h
  · dsimp only
    refine Canon.ite (fun _ => ?_) fun _ => ?_
    · simpa using h
    · simpa using h

theorem execPortTraceCopy_res {core : Nat} {s : State} (h : Canon s) : ResOk (execPortTraceCopy core s) := by
  unfold execPortTraceCopy
  simpa using h

theorem execLdlkRetry_res {tid : Nat} {s : State} (h : Canon s) : ResOk (execLdlkRetry tid s) := by
  refine taskEvent_res h ?_
  split
  · exact Canon.ite (fun _ => by simpa using h) fun _ => h
  · exact h

/-! ### The functions of `Machine/EvCoherence.lean` -/

theorem sendTok_canon {s : State} {l src dst : Nat} {t : Tok} {unasked : Bool} (h : Canon s) :
    Canon (sendTok s l src dst t unasked) := by
  unfold sendTok
  refine Canon.ite (fun _ => ?_) fun _ => ?_
  · exact h
  · dsimp only
    split
    · split
      · simpa using readFrame_canon h
      · simpa using h
    · split
      · simpa using readFrame_canon h
      · simpa using h

theorem homeWaits_mem {s : State} {kind : Req} {l agent : Nat} {s' : State} (e : homeWaits s kind l agent = some s') :
    s'.mem = s.mem := by
  unfold homeWaits at e
  split at e
  · cases e; simp
  · obtain ⟨lf, hl, rfl⟩ := Option.map_eq_some_iff.mp e
    simp

@[simp] theorem takeCoh_mem (s : State) (i : Nat) : (takeCoh s i).mem = s.mem := rfl

theorem homeAnswer_canon {s : State} {kind : Req} {l agent attempt : Nat} (h : Canon s) :
    Canon (homeAnswer s kind l agent attempt) := by
  unfold homeAnswer
  dsimp only
  refine Canon.ite (fun _ => ?_) fun _ => ?_
  · refine Canon.ite (fun _ => ?_) fun _ => ?_
    · split
      · simpa using h
      · exact h
    · exact h
  · exact sendTok_canon h

theorem execTransientRequest_res {i : Nat} {s : State} (h : Canon s) : ResOk (execTransientRequest i s) := by
  unfold execTransientRequest
  refine (resOk_next _).2 ?_
  split
  · refine Canon.ite (fun _ => ?_) fun _ => ?_
    · exact h
    · split
      · next e4 =>
          have h4 := h.of_mem (homeWaits_mem e4)
          exact h4
      · simpa using homeAnswer_canon (by simpa using h)
  · exact h

theorem execRequestForward_res {i : Nat} {s : State} (h : Canon s) : ResOk (execRequestForward i s) := by
  unfold execRequestForward
  refine (resOk_next _).2 ?_
  split
  · dsimp only
    split
    · simpa using h
    · refine Canon.ite (fun _ => ?_) fun _ => ?_
      · simpa using h
      · exact sendTok_canon h
  · exact h

theorem evictLine_canon {s : State} {agent l : Nat} (h : Canon s) : Canon (evictLine s agent l) := by
  unfold evictLine
  dsimp only
  refine Canon.ite (fun _ => ?_) fun _ => ?_
  · simpa using h
  · exact sendTok_canon h

theorem makeWay_canon {s : State} {agent l : Nat} (h : Canon s) : ∀ t, makeWay s agent l = some t → Canon t := by
  intro t e
  unfold makeWay at e
  split at e
  · cases e; exact h
  · dsimp only at e
    split at e
    · split at e
      · cases e; exact evictLine_canon (by simpa using h)
      · cases e
    · cases e

@[simp] theorem atRest_mem (s : State) (l dst : Nat) (t : Tok) : (atRest s l dst t).mem = s.mem := by simp [atRest]

theorem keepTok_canon {s : State} {l dst : Nat} {t : Tok} (h : Canon s) :
    ∀ u, keepTok s l dst t = some u → Canon u := by
  intro u e
  unfold keepTok at e
  dsimp only at e
  split at e
  · split at e
    · cases e; simpa using h
    · split at e
      · cases e
      · cases e; simpa using h
  · next v hv =>
    have hp : Canon (v.putTok l dst t) := by simpa using makeWay_canon h _ hv
    have hs : Canon (settleOuts (v.putTok l dst t) l dst) := settleOuts_mem_wf _ _ _ hp
    cases e
    simpa using hs

theorem execTokenMessage_res {i : Nat} {s : State} (h : Canon s) : ResOk (execTokenMessage i s) := by
  unfold execTokenMessage
  refine (resOk_next _).2 ?_
  split
  · refine Canon.ite (fun _ => h) fun _ => Canon.ite (fun _ => by simpa using h) fun _ => ?_
    split
    · simpa using h
    · exact Canon.getD (keepTok_canon (by simpa using h)) h
  · exact h

theorem execAttemptTimeout_res {i : Nat} {s : State} (h : Canon s) : ResOk (execAttemptTimeout i s) := by
  unfold execAttemptTimeout
  refine (resOk_next _).2 ?_
  split
  · exact h
  refine Canon.ite (fun _ => Canon.getD (fun t e => ?_) h) fun _ => Canon.ite (fun _ => h) fun _ => ?_
  · obtain ⟨u, hu, rfl⟩ := Option.map_eq_some_iff.mp e
    exact settleOuts_mem_wf _ _ _ (makeWay_canon h _ hu)
  · exact Canon.ite (fun _ => by simpa using h) fun _ => by simpa using h

@[simp] theorem activate_mem (s : State) (l : Nat) : (activate s l).mem = s.mem := by
  unfold activate
  repeat' split
  all_goals simp

theorem execPersistentRequest_res {i : Nat} {s : State} (h : Canon s) : ResOk (execPersistentRequest i s) := by
  unfold execPersistentRequest
  refine (resOk_next _).2 ?_
  split
  · refine Canon.ite (fun _ => ?_) fun _ => ?_
    · exact h
    · split
      · next e4 =>
          have h4 := h.of_mem (homeWaits_mem e4)
          exact h4
      · dsimp only
        split
        · split
          · simpa using h
          · simpa using h
        · simpa using h
  · exact h

theorem execActMessage_res {i : Nat} {s : State} (h : Canon s) : ResOk (execActMessage i s) := by
  unfold execActMessage
  refine (resOk_next _).2 ?_
  split
  · refine Canon.ite (fun _ => settleOuts_mem_wf _ _ _ (by simpa using h)) fun _ =>
      Canon.ite (fun _ => by simpa using h) fun _ =>
      Canon.ite (fun _ => h) fun _ => Canon.ite (fun _ => Canon.getD (fun t e => ?_) h) fun _ => ?_
    · obtain ⟨lf, hl, rfl⟩ := Option.map_eq_some_iff.mp e
      simpa using h
    · split
      · simpa using h
      · exact sendTok_canon (by simpa using h)
  · exact h

theorem execDeactMessage_res {i : Nat} {s : State} (h : Canon s) : ResOk (execDeactMessage i s) := by
  unfold execDeactMessage
  refine (resOk_next _).2 ?_
  split
  · simpa using h
  · exact h

@[simp] theorem freeEntry_mem (s : State) (p : Persist) : (freeEntry s p).mem = s.mem := by simp [freeEntry]

theorem execDoneMessage_res {i : Nat} {s : State} (h : Canon s) : ResOk (execDoneMessage i s) := by
  unfold execDoneMessage
  refine (resOk_next _).2 ?_
  split
  · dsimp only
    split
    · simpa using h
    · simpa using h
  · exact h

theorem execEviction_res {agent line : Nat} {s : State} (h : Canon s) : ResOk (execEviction agent line s) := by
  unfold execEviction
  refine (resOk_next _).2 ?_
  refine Canon.ite (fun _ => ?_) fun _ => ?_
  · exact bindLine_canon h
  · refine Canon.ite (fun _ => ?_) fun _ => ?_
    · exact h
    · split
      · simpa using h
      · exact evictLine_canon h

theorem execPageBind_res {name : Nat} {s : State} (h : Canon s) : ResOk (execPageBind name s) := by
  unfold execPageBind
  refine (resOk_next _).2 ?_
  split
  · exact h
  · split
    · exact h
    · simpa using h

@[simp] theorem censusLine_mem (agent : Nat) (s : State) (l : Nat) : (censusLine agent s l).mem = s.mem := by
  simp [censusLine]

@[simp] theorem dropAgent_mem (s : State) (agent : Nat) : (dropAgent s agent).mem = s.mem :=
  foldl_mem _ _ fun _ _ => by simp -implicitDefEqProofs

@[simp] theorem census_mem (s : State) (agent : Nat) : (census s agent).mem = s.mem := by
  simp -implicitDefEqProofs [census]

theorem execDieCensus_res {die : Nat} {s : State} (h : Canon s) : ResOk (execDieCensus die s) := by
  unfold execDieCensus
  refine (resOk_next _).2 ?_
  split
  · exact h
  · simpa using h

/-! ### The functions of `Machine/EvMessages.lean` -/

@[simp] theorem setMsg_mem (s : State) (i : Nat) (m : Msg) : (setMsg s i m).mem = s.mem := rfl

@[simp] theorem msgAck_mem (s : State) (m : Msg) : (msgAck s m).mem = s.mem := by simp [msgAck]

theorem execMessageArrival_res {i : Nat} {s : State} (h : Canon s) : ResOk (execMessageArrival i s) := by
  unfold execMessageArrival
  refine (resOk_next _).2 ?_
  split
  · exact h
  · dsimp only
    refine Canon.ite (fun _ => ?_) fun _ => ?_
    · exact h
    · refine Canon.ite (fun _ => ?_) fun _ => ?_
      · simpa using h
      · refine Canon.ite (fun _ => ?_) fun _ => ?_
        · simpa using h
        · split
          · simpa using h
          · simpa using h

theorem execMessageResend_res {i : Nat} {s : State} (h : Canon s) : ResOk (execMessageResend i s) := by
  unfold execMessageResend
  refine (resOk_next _).2 ?_
  split
  · exact h
  · simpa using h

@[simp] theorem returnMsg_mem (s : State) (m : Msg) (c : Code) : (returnMsg s m c).mem = s.mem := by simp [returnMsg]

@[simp] theorem peerReturn_mem (s : State) (m : Msg) (c : Code) : (peerReturn s m c).mem = s.mem := by simp [peerReturn]

theorem execMessageReturn_res {i : Nat} {s : State} (h : Canon s) : ResOk (execMessageReturn i s) := by
  unfold execMessageReturn
  refine (resOk_next _).2 ?_
  split
  · exact h
  · simpa using h

theorem execSendAck_res {i : Nat} {s : State} (h : Canon s) : ResOk (execSendAck i s) := by
  unfold execSendAck
  refine (resOk_next _).2 ?_
  split
  · exact h
  · simpa using h

theorem execHandlerStart_res {core : Nat} {s : State} (h : Canon s) : ResOk (execHandlerStart core s) := by
  unfold execHandlerStart
  refine (resOk_next _).2 ?_
  refine Canon.ite (fun _ => ?_) fun _ => ?_
  · exact h
  · split
    · simpa using h
    · exact h

theorem execHandlerTimeout_res {tid : Nat} {s : State} (h : Canon s) : ResOk (execHandlerTimeout tid s) :=
  taskEvent_res h (by simpa using h)

theorem execWaittExpiry_res {tid : Nat} {s : State} (h : Canon s) : ResOk (execWaittExpiry tid s) := by
  refine taskEvent_res h ?_
  split
  · refine Canon.ite (fun _ => h) fun _ => ?_
    dsimp only
    split
    · split
      · next e => simpa using (waittDone_sat (popAll_canon (by simpa using h))).of_ok e
      · simpa using h
      · simpa using h
      · next e => simpa using (waittDone_sat (popAll_canon (by simpa using h))).of_error e _ (by simpa using h)
    · simpa using h
  · exact h

@[simp] theorem putSkew_mem (s : State) (now : Bool) : (putSkew s now).mem = s.mem := by simp [putSkew]

theorem execTimeExchange_res {die : Nat} {offset : Int} {delay : Nat} {s : State} (h : Canon s) :
    ResOk (execTimeExchange die offset delay s) := by
  unfold execTimeExchange
  simpa using h

@[simp] theorem slewDie_mem (s : State) (d : Nat) : (slewDie s d).mem = s.mem := by simp [slewDie]

/-! ### The functions of `Machine/EvTables.lean` -/

theorem slotEvent_res {k ctx f s} (h : Canon s) (hf : Canon (f s)) : ResOk (slotEvent k ctx f s) := by
  unfold slotEvent
  split
  · exact (resOk_next _).2 hf
  · exact (resOk_next _).2 h

theorem execSlotwWrite_res {core idx : Nat} {v : BitVec 16} {s : State} (h : Canon s) :
    ResOk (execSlotwWrite core idx v s) := by
  unfold execSlotwWrite
  simpa using h

theorem execSlotwLength_res {core len : Nat} {s : State} (h : Canon s) : ResOk (execSlotwLength core len s) := by
  unfold execSlotwLength
  simpa using h

theorem execSlotwFreeze_res {core ctx : Nat} {s : State} (h : Canon s) : ResOk (execSlotwFreeze core ctx s) :=
  slotEvent_res h (by simpa using h)

theorem execSlotwThaw_res {core ctx : Nat} {s : State} (h : Canon s) : ResOk (execSlotwThaw core ctx s) :=
  slotEvent_res h (by simpa using h)

theorem execSlotwSave_res {core ctx : Nat} {s : State} (h : Canon s) : ResOk (execSlotwSave core ctx s) :=
  slotEvent_res h (by simpa using h)

@[simp] theorem reportPeriods_mem (s : State) (k : Nat) (old : Core) : (reportPeriods s k old).mem = s.mem :=
  foldl_mem _ _ fun _ _ => by simp -implicitDefEqProofs

theorem execSlotTableChange_res {core : Nat} {s : State} (h : Canon s) : ResOk (execSlotTableChange core s) := by
  unfold execSlotTableChange
  simpa using h

@[simp] theorem copyExtents_mem (s : State) (ctx src dst : Nat) (es : List (Nat × Nat)) :
    (copyExtents s ctx src dst es).mem = s.mem :=
  foldl_mem _ _ fun _ _ => by simp -implicitDefEqProofs

@[simp] theorem moveTo_mem (s : State) (tid k : Nat) : (moveTo s tid k).mem = s.mem := by
  unfold moveTo
  dsimp only
  split
  all_goals
    split
    · exact getD_mem (fun t e => (pushReady_mem e).trans (by simp)) (by simp)
    · simp

@[simp] theorem tryDisplace_mem (s : State) (tid : Nat) : (tryDisplace s tid).mem = s.mem := by
  unfold tryDisplace
  repeat' split
  all_goals simp

@[simp] theorem displaceSlot_mem (s : State) (k slot : Nat) : (displaceSlot s k slot).mem = s.mem := by
  unfold displaceSlot
  repeat' split
  all_goals simp

@[simp] theorem shedGroup_mem (s : State) (cl : Nat) : (shedGroup s cl).mem = s.mem := by
  unfold shedGroup
  dsimp only
  repeat' split
  all_goals simp

@[simp] theorem restoreGroup_mem (s : State) (cl : Nat) : (restoreGroup s cl).mem = s.mem := by simp [restoreGroup]

@[simp] theorem shedStep_mem (s : State) (k : Nat) : (shedStep s k).mem = s.mem := by
  unfold shedStep
  dsimp only
  split <;> simp

@[simp] theorem unshedStep_mem (s : State) (k : Nat) : (unshedStep s k).mem = s.mem := by
  unfold unshedStep
  dsimp only
  split <;> simp

theorem execThermalReading_res {core temp : Nat} {s : State} (h : Canon s) : ResOk (execThermalReading core temp s)
    := by
  unfold execThermalReading
  simpa using h

/-! ### The functions of `Machine/EvTlb.lean` -/

theorem execTlbFillRequest_res {cl i : Nat} {s : State} (h : Canon s) : ResOk (execTlbFillRequest cl i s) := by
  unfold execTlbFillRequest
  refine (resOk_next _).2 ?_
  split
  · exact h
  · refine Canon.ite (fun _ => ?_) fun _ => ?_
    · exact h
    · split
      dsimp only
      split
      · simpa using h
      · simpa using h

@[simp] theorem accessFault_mem (s : State) (tid : Nat) (hd : Halt) : (accessFault s tid hd).mem = s.mem := by
  unfold accessFault
  dsimp only
  repeat' split
  all_goals simp

@[simp] theorem loseSwap_mem (s : State) (who : Nat) (c : Code) : (loseSwap s who c).mem = s.mem := by
  unfold loseSwap
  split <;> simp -implicitDefEqProofs

theorem killSingle_mem (s : State) (k : Nat) (e : Entry) (c : Code) :
    (match single s k e with
      | some (t, s) => killPrefetch s t c
      | none => s).mem = s.mem := by
  split
  · next hs => exact (killPrefetch_mem ..).trans (single_mem hs)
  · rfl

@[simp] theorem engineFault_mem (s : State) (cl who : Nat) (c : Code) : (engineFault s cl who c).mem = s.mem := by
  unfold engineFault
  split
  · simp
  · split
    · simp
    split
    · simp
    split
    · rfl
    split
    · simp
    split
    · exact killSingle_mem ..
    · simp

theorem execTlbFillReply_res {cl i : Nat} {s : State} (h : Canon s) : ResOk (execTlbFillReply cl i s) := by
  unfold execTlbFillReply
  refine (resOk_next _).2 ?_
  split
  · exact h
  · simpa using h

theorem execHubTlbFill_res {i : Nat} {s : State} (h : Canon s) : ResOk (execHubTlbFill i s) := by
  unfold execHubTlbFill
  refine (resOk_next _).2 ?_
  split
  · exact h
  · refine Canon.ite (fun _ => ?_) fun _ => ?_
    · exact h
    · split
      · simpa using h
      · simpa using h

@[simp] theorem losePage_mem (s : State) (cl : Nat) (p : PageFut) : (losePage s cl p).mem = s.mem := by
  simp -implicitDefEqProofs [losePage]

theorem execPageFutureSettle_res {cl i : Nat} {code : BitVec 8} {word : BitVec 64} {s : State} (h : Canon s) :
    ResOk (execPageFutureSettle cl i code word s) := by
  unfold execPageFutureSettle
  refine (resOk_next _).2 ?_
  split
  · exact h
  · split
    · exact h
    · simpa using h

/-! ### The functions of `Machine/EvRecovery.lean` -/

theorem execCorrectedError_res {n : Nat} {s : State} (h : Canon s) : ResOk (execCorrectedError n s) := by
  unfold execCorrectedError
  simpa using h

@[simp] theorem poisonTile_mem (s : State) (cl addr : Nat) : (poisonTile s cl addr).mem = s.mem := rfl

theorem execWordError_res {place addr : Nat} {s : State} (h : Canon s) : ResOk (execWordError place addr s) := by
  unfold execWordError
  simpa using h

theorem execThreadError_res {tid : Nat} {s : State} (h : Canon s) : ResOk (execThreadError tid s) :=
  taskEvent_res h (by simpa using h)

@[simp] theorem noteStop_mem (s : State) (core : Nat) : (noteStop s core).mem = s.mem := rfl

theorem execCoreError_res {core : Nat} {s : State} (h : Canon s) : ResOk (execCoreError core s) := by
  unfold execCoreError
  simpa using h

@[simp] theorem noteChecks_mem (s : State) (unit : Nat) (fail : Bool) : (noteChecks s unit fail).mem = s.mem := by
  simp [noteChecks]

theorem execHeartbeat_res {core : Nat} {s : State} (h : Canon s) : ResOk (execHeartbeat core s) := by
  unfold execHeartbeat
  simpa using h

theorem execHeartbeatMissing_res {core : Nat} {s : State} (h : Canon s) : ResOk (execHeartbeatMissing core s) := by
  unfold execHeartbeatMissing
  simpa using h

@[simp] theorem loseTask_mem (s : State) (c : Code) (t : Nat) : (loseTask s c t).mem = s.mem := by simp [loseTask]

@[simp] theorem loseRanges_mem (s : State) (k : Nat) : (loseRanges s k).mem = s.mem :=
  foldl_mem _ _ fun _ _ => by split <;> simp

@[simp] theorem returnQueued_mem (s : State) (c : Code) (m : Msg) : (returnQueued s c m).mem = s.mem := by
  simp [returnQueued]

@[simp] theorem loseSwaps_mem (s : State) (k : Nat) (code : Code) : (loseSwaps s k code).mem = s.mem :=
  foldl_mem _ _ fun _ _ => by simp -implicitDefEqProofs

@[simp] theorem loseSyncs_mem (s : State) (k : Nat) (c : Code) : (loseSyncs s k c).mem = s.mem :=
  foldl_mem _ _ fun _ _ => by simp -implicitDefEqProofs

@[simp] theorem endKeptPair_mem (s : State) (t : Nat) : (endKeptPair s t).mem = s.mem := by simp [endKeptPair]

@[simp] theorem loseCore_mem (s : State) (k : Nat) (code : Code) (keep : Bool) :
    (loseCore s k code keep).mem = s.mem := by
  simp -implicitDefEqProofs [loseCore]

@[simp] theorem csrRemap_mem (s : State) (r : Remap) : (csrRemap s r).mem = s.mem := rfl

theorem execCoreRetirement_res {core : Nat} {s : State} (h : Canon s) : ResOk (execCoreRetirement core s) := by
  unfold execCoreRetirement
  refine (resOk_next _).2 ?_
  dsimp only
  refine Canon.ite (fun _ => ?_) fun _ => ?_
  · exact h
  · split
    · simpa using h
    · simpa using h
    · simpa using h

@[simp] theorem wakeLost_mem (s : State) (cl idx : Nat) (code : Code) : (wakeLost s cl idx code).mem = s.mem := rfl

@[simp] theorem loseIndex_mem (s : State) (cl : Nat) (code : Code) (idx : Nat) :
    (loseIndex s cl code idx).mem = s.mem := rfl

@[simp] theorem loseEntry_mem (s : State) (cl idx : Nat) : (loseEntry s cl idx).mem = s.mem := by
  unfold loseEntry
  split <;> simp

@[simp] theorem endJob_mem (s : State) (cl : Nat) (c : Code) (j : Job) : (endJob s cl c j).mem = s.mem := by
  simp [endJob]

@[simp] theorem endTransfer_mem (s : State) (cl : Nat) (c : Code) (x : Xfer) : (endTransfer s cl c x).mem = s.mem := by
  unfold endTransfer
  split <;> simp

@[simp] theorem loseItem_mem (cl : Nat) (s : State) (n : Nat) : (loseItem cl s n).mem = s.mem := by
  simp -implicitDefEqProofs [loseItem]

theorem execClusterError_res {cl : Nat} {lost : List Nat} {s : State} (h : Canon s) :
    ResOk (execClusterError cl lost s) := by
  unfold execClusterError
  refine (resOk_next _).2 ?_
  refine Canon.ite (fun _ => ?_) fun _ => ?_
  · exact h
  · dsimp only
    split
    · simpa using h
    · simpa using h

@[simp] theorem loseCluster_mem (s : State) (cl : Nat) (c : Code) : (loseCluster s cl c).mem = s.mem := by
  unfold loseCluster
  generalize List.range 4096 = is
  refine (modCluster_mem ..).trans ((foldl_mem _ _ fun _ _ => loseIndex_mem ..).trans ?_)
  exact (foldl_mem _ _ fun _ _ => endTransfer_mem ..).trans (foldl_mem _ _ fun _ _ => endJob_mem ..)

@[simp] theorem loseUnit_mem (s : State) (r : Remap) : (loseUnit s r).mem = s.mem := by
  simp -implicitDefEqProofs [loseUnit]

@[simp] theorem mapCore_mem (s : State) (r : Remap) : (mapCore s r).mem = s.mem := by simp [mapCore]

@[simp] theorem mapCluster_mem (s : State) (r : Remap) : (mapCluster s r).mem = s.mem := by
  refine (foldl_mem _ _ fun s j => ?_).trans rfl
  split <;> simp

theorem answerMapcl_canon {s : State} {r : Remap} (h : Canon s) : Canon (answerMapcl s r) := by
  unfold answerMapcl
  split
  · exact h
  refine Canon.ite (fun _ => h) fun _ => ?_
  dsimp only
  split
  · next e => simpa using (writeReg_sat (popAll_canon (by simpa using h))).of_ok e
  · exact h

theorem execRemapComplete_res {i : Nat} {s : State} (h : Canon s) : ResOk (execRemapComplete i s) := by
  unfold execRemapComplete
  refine (resOk_next _).2 ?_
  split
  · exact h
  · refine Canon.ite (fun _ => ?_) fun _ => ?_
    · exact h
    · exact answerMapcl_canon (by simpa using h)

theorem execRetryReissue_res {i : Nat} {s : State} (h : Canon s) : ResOk (execRetryReissue i s) := by
  unfold execRetryReissue
  refine (resOk_next _).2 ?_
  dsimp only
  refine Canon.ite (fun _ => ?_) fun _ => ?_
  · split
    · simpa using h
    · exact h
  · refine Canon.ite (fun _ => ?_) fun _ => ?_
    · split
      · simpa using h
      · exact h
    · refine Canon.ite (fun _ => ?_) fun _ => ?_
      · split
        · simpa using h
        · exact h
      · split
        · simpa using h
        · exact h

theorem execPairIntervalClose_res {tid : Nat} {s : State} (h : Canon s) : ResOk (execPairIntervalClose tid s) :=
  taskEvent_res h (by simpa using h)

@[simp] theorem putBack_mem (tid : Nat) (s : State) (x : Nat × Nat × Word) : (putBack tid s x).mem = s.mem := by
  simp [putBack]

@[simp] theorem upsetReg_mem (s : State) (tid n : Nat) (bits : Word) : (upsetReg s tid n bits).mem = s.mem := by
  simp [upsetReg]

theorem execPairCompare_res {tid : Nat} {s : State} (h : Canon s) : ResOk (execPairCompare tid s) := by
  have hb (xs : List (Nat × Nat × Word)) : (xs.foldl (putBack tid) (s.modTask tid pairBack)).mem = s.mem :=
    foldl_mem _ _ fun _ _ => putBack_mem ..
  refine taskEvent_res h ?_
  dsimp only
  split
  · exact h
  refine Canon.ite (fun _ => h) fun _ =>
    Canon.ite (fun _ => by simpa using h) fun _ => Canon.ite (fun _ => by simpa using h)
    fun _ => h.of_mem (hb _)

@[simp] theorem divergeAt_mem (s : State) (l : Nat) (e : Nat × Nat × Word × Nat) : (divergeAt s l e).mem = s.mem := by
  unfold divergeAt
  dsimp only
  split <;> simp

theorem execReplayStallTimeout_res {l : Nat} {s : State} (h : Canon s) : ResOk (execReplayStallTimeout l s) := by
  unfold execReplayStallTimeout
  refine (resOk_next _).2 ?_
  split
  · exact h
  · refine Canon.ite (fun _ => ?_) fun _ => ?_
    · exact h
    · split
      · simpa using h
      · simpa using h
      · refine Canon.ite (fun _ => ?_) fun _ => ?_
        · exact h
        · split
          · simpa using h
          · simpa using h
          · exact h

/-! ### The functions of `Machine/EvDie.lean` -/

@[simp] theorem loseDie_mem (s : State) (d : Nat) : (loseDie s d).mem = s.mem := rfl

theorem execDieError_res {die : Nat} {s : State} (h : Canon s) : ResOk (execDieError die s) := by
  unfold execDieError
  simpa using h

theorem execLinkReplay_res {link : Nat} {s : State} (h : Canon s) : ResOk (execLinkReplay link s) := by
  unfold execLinkReplay
  simpa using h

theorem execLinkFailed_res {link : Nat} {s : State} (h : Canon s) : ResOk (execLinkFailed link s) := by
  unfold execLinkFailed
  simpa -implicitDefEqProofs using h

@[simp] theorem cleanDie_mem (s : State) (d : Nat) : (cleanDie s d).mem = s.mem := rfl

@[simp] theorem evacuatePage_mem (d : Nat) (s : State) (e : Nat × Unbacked) : (evacuatePage d s e).mem = s.mem := by
  simp [evacuatePage]

theorem returnLine_canon {d : Nat} {s : State} {l : Nat} (h : Canon s) : Canon (returnLine d s l) := by
  have hland {p : Nat × State} {t : Tok} {c : Prop} [Decidable c] (hp : Canon p.2) :
      Canon (if t.owner && ((landTok p.2 l p.1 t).tok l p.1).owner then
          (if c then comeToRest (landTok p.2 l p.1 t) l else giveHost (landTok p.2 l p.1 t) l)
        else landTok p.2 l p.1 t) := by
    simpa using hp
  have hway {t : State} {a : Nat} (ht : Canon t) (u : State)
      (e : (if region (128 * l) = 8 then some t else makeWay t a l) = some u) : Canon u := by
    split at e
    · cases e; exact ht
    · exact makeWay_canon ht _ e
  unfold returnLine
  refine Canon.ite (fun _ => h) fun _ => hland ?_
  split
  · next e => exact hway (by simpa using h) _ e
  · exact (canon_iff _).2 (by simpa using h)

@[simp] theorem gatherTok_mem (s : State) (d : Nat) : (gatherTok s d).mem = s.mem :=
  foldl_mem _ _ fun _ _ => by simp -implicitDefEqProofs

theorem evacuate_canon {s : State} {d : Nat} (h : Canon s) : Canon (evacuate s d) := by
  unfold evacuate
  dsimp only
  refine foldl_canon _ (fun s _ h2 => ?_) ?_
  · exact returnLine_canon h2
  · simpa using h

@[simp] theorem reschedule_mem (d : Nat) (s : State) (t : Nat) : (reschedule d s t).mem = s.mem := by
  unfold reschedule
  dsimp only
  split
  · simp
  · refine getD_mem (fun u e => (pushReady_mem e).trans ?_) ?_
    all_goals
      split
      · split <;> simp
      · split <;> simp

@[simp] theorem loseCaps_mem (s : State) (d : Nat) : (loseCaps s d).mem = s.mem :=
  foldl_mem _ _ fun _ _ => by simp -implicitDefEqProofs

@[simp] theorem spillAll_mem (s : State) (cl : Nat) : (spillAll s cl).mem = s.mem := by
  simp -implicitDefEqProofs [spillAll]

@[simp] theorem resetCluster_mem (planned : Bool) (s : State) (cl : Nat) : (resetCluster planned s cl).mem = s.mem := by
  simp -implicitDefEqProofs [resetCluster]

@[simp] theorem resetCore_mem (s : State) (k : Nat) : (resetCore s k).mem = s.mem := by simp [resetCore]

theorem endClusterWork_mem (s : State) (cl : Nat) (c : Code) :
    (((s.cluster cl).jobs.foldl (endJob · cl c) s).cluster cl |>.xfers.foldl (endTransfer · cl c)
      ((s.cluster cl).jobs.foldl (endJob · cl c) s)).mem = s.mem :=
  (foldl_mem _ _ fun _ _ => endTransfer_mem ..).trans (foldl_mem _ _ fun _ _ => endJob_mem ..)

@[simp] theorem beginReset_mem (s : State) (die : Nat) : (beginReset s die).mem = s.mem := by
  unfold beginReset
  generalize List.range 112 = js
  refine (foldl_mem _ _ fun _ _ => endClusterWork_mem ..).trans ((foldl_mem _ _ fun _ _ => killTask_mem ..).trans ?_)
  exact foldl_mem _ _ fun _ _ => reschedule_mem ..

theorem execDieReset_res {die : Nat} {planned : Bool} {s : State} (h : Canon s) : ResOk (execDieReset die planned s)
    := by
  unfold execDieReset
  refine (resOk_next _).2 ?_
  refine Canon.ite (fun _ => ?_) fun _ => ?_
  · exact h
  · refine Canon.ite (fun _ => ?_) fun _ => ?_
    · simpa using h
    · refine Canon.ite (fun _ => ?_) fun _ => ?_
      · exact h
      · dsimp only
        split
        · simpa using evacuate_canon (by simpa using h)
        · simpa using h

theorem execDieResetComplete_res {die : Nat} {s : State} (h : Canon s) : ResOk (execDieResetComplete die s) := by
  unfold execDieResetComplete
  simpa using h

/-! ### The functions of `Machine/EvQueues.lean` -/

theorem execKick_res {q : Nat} {v : BitVec 64} {s : State} (h : Canon s) : ResOk (execKick q v s) := by
  unfold execKick
  simpa using h

@[simp] theorem hostReply_mem (s : State) (q off : Nat) (v : Word) : (hostReply s q off v).mem = s.mem := rfl

theorem execReserve_res {q : Nat} {n : BitVec 64} {s : State} (h : Canon s) : ResOk (execReserve q n s) :=
  (resOk_next _).2 (reserveSlots_canon h)

theorem execQctlResume_res {q : Nat} {s : State} (h : Canon s) : ResOk (execQctlResume q s) := by
  unfold execQctlResume
  simpa using h

theorem execQctlAbandon_res {q : Nat} {tag : BitVec 32} {s : State} (h : Canon s) : ResOk (execQctlAbandon q tag s)
    := by
  unfold execQctlAbandon
  simpa using h

@[simp] theorem unmapQueue_mem (s : State) (q : Nat) : (unmapQueue s q).mem = s.mem := by simp [unmapQueue]

theorem execQueueMap_res {q : Nat} {s : State} (h : Canon s) : ResOk (execQueueMap q s) := by
  unfold execQueueMap
  refine (resOk_next _).2 ?_
  refine Canon.ite (fun _ => ?_) fun _ => ?_
  · exact h
  · refine Canon.ite (fun _ => ?_) fun _ => ?_
    · simpa using h
    · split
      · simpa using h
      · exact h

@[simp] theorem stopQueue_mem (s : State) (qi err : Nat) : (stopQueue s qi err).mem = s.mem := by simp [stopQueue]

@[simp] theorem newLaunch_mem (s : State) (qi : Nat) (q : Queue) (ws : List Word) :
    (newLaunch s qi q ws).mem = s.mem := by
  simp [newLaunch]

theorem execPacketRead_res {q : Nat} {s : State} (h : Canon s) : ResOk (execPacketRead q s) := by
  unfold execPacketRead
  refine (resOk_next _).2 ?_
  split
  · exact h
  · refine Canon.ite (fun _ => ?_) fun _ => ?_
    · exact h
    · split
      · exact h
      · simpa using h

theorem packetEvent_res {qi ty f s} (h : Canon s) (hf : ∀ q ws, Canon (f q ws s)) : ResOk (packetEvent qi ty f s) := by
  unfold packetEvent
  refine (resOk_next _).2 ?_
  split
  · exact hf _ _
  · exact h

theorem execNopPacket_res {q : Nat} {s : State} (h : Canon s) : ResOk (execNopPacket q s) :=
  packetEvent_res h fun _ => by simpa using h

theorem execLinkPacket_res {q : Nat} {s : State} (h : Canon s) : ResOk (execLinkPacket q s) := by
  refine packetEvent_res h fun x ws => Canon.of_mem ?_ ((passPacket_mem ..).trans (modQueue_mem ..))
  split
  · simpa using h
  · exact h

theorem execTimedPacket_res {q : Nat} {s : State} (h : Canon s) : ResOk (execTimedPacket q s) :=
  packetEvent_res h fun _ => by simpa using h

theorem execTimedExpiry_res {q : Nat} {s : State} (h : Canon s) : ResOk (execTimedExpiry q s) := by
  unfold execTimedExpiry
  refine (resOk_next _).2 ?_
  split
  · simpa using h
  · exact h

theorem execFencePacket_res {q : Nat} {s : State} (h : Canon s) : ResOk (execFencePacket q s) :=
  packetEvent_res h fun _ => by simpa using h

@[simp] theorem waitView_mem (s : State) (qi : Nat) (x : Queue) (hd : Word) : (waitView s qi x hd).2.mem = s.mem := by
  unfold waitView
  dsimp only
  repeat' split
  all_goals simp

@[simp] theorem evalWait_mem (qi : Nat) (x : Queue) (w : Nat → Word) (s : State) : (evalWait qi x w s).mem = s.mem := by
  simp [evalWait]

theorem execWaitPacket_res {q : Nat} {s : State} (h : Canon s) : ResOk (execWaitPacket q s) :=
  packetEvent_res h fun _ => by simpa using h

theorem execWaitEnd_res {q : Nat} {s : State} (h : Canon s) : ResOk (execWaitEnd q s) :=
  packetEvent_res h fun _ => by simpa using h

theorem signalResolve_mem {s : State} {qi : Nat} {x : Queue} {hd v : Word} {w : View} {s' : State}
    (e : signalResolve s qi x hd v = some (w, s')) : s'.mem = s.mem := by
  unfold signalResolve at e
  dsimp only at e
  repeat' split at e
  all_goals cases e
  all_goals simp

theorem execSignalPacket_res {q : Nat} {s : State} (h : Canon s) : ResOk (execSignalPacket q s) := by
  refine packetEvent_res h fun x w => ?_
  have hplace : EngOk (if w 3 = 0 then .ok () s else if ptrBad (w 3) then .bad BAD_POINTER
      else (hubPlace s x.ctx (vaOf (w 3)) .wr).bind fun _ s => .ok () s) :=
    EngOk.ite (fun _ => h) fun _ => EngOk.ite (fun _ => trivial) fun _ => (hubPlace_eng h).bind fun _ _ h => h
  dsimp only
  refine Canon.ite (fun _ => by simpa using h) fun _ => ?_
  split
  · next e => exact hplace.of_wait e
  · exact Canon.ite (fun _ => by simpa using h) fun _ => by simpa using h
  · next t e =>
    have ht := hplace.of_ok e
    split
    · simpa using ht
    · next v u e =>
      have hu := ht.of_mem (signalResolve_mem e)
      have hput : EngOk (if w 3 = 0 then Eng.ok () u
          else hubWrite u (2^20 + q) x.ctx (vaOf (w 3)) (toBytes 8 (w 2).toNat)) :=
        EngOk.ite (fun _ => hu) fun _ => hubWrite_eng hu
      refine Canon.ite (fun _ => hu) fun _ => ?_
      split
      · next e =>
        refine Canon.ite (fun _ => ?_) fun _ => hput.of_wait e
        split
        · next e => exact (hubWrite_eng ht).of_wait e
        · exact ht
      · simpa using ht
      · next e => simpa using hput.of_ok e

theorem execCopyPacket_res {q : Nat} {s : State} (h : Canon s) : ResOk (execCopyPacket q s) :=
  packetEvent_res h fun _ => by simpa using h

theorem hubWin_eng {s : State} {ctx va n : Nat} (h : Canon s) : EngOk (hubWin s ctx va n) := by
  unfold hubWin
  refine EngOk.ite (fun _ => ?_) fun _ => ?_
  · simp
  · split
    · simp
    · refine EngOk.ite (fun _ => ?_) fun _ => ?_
      · simp
      · refine EngOk.ite (fun _ => ?_) fun _ => ?_
        · simpa using h
        · simpa using h

theorem copyPlace_eng {s : State} {ctx va n : Nat} {a : Acc} (h : Canon s) : EngOk (copyPlace s ctx va n a) := by
  unfold copyPlace
  refine EngOk.ite (fun _ => ?_) fun _ => ?_
  · exact hubPlace_eng h
  · refine EngOk.bind (hubWin_eng h) fun _ _ h2 => ?_
    split
    · exact hubPlace_eng h2
    · simpa using h2

theorem hubRead_eng {s : State} {who ctx va n : Nat} (h : Canon s) : EngOk (hubRead s who ctx va n) := by
  refine (copyPlace_eng h).bind fun p t ht => ?_
  split
  · exact ht
  · exact ht
  · refine EngOk.ite (fun _ => by simpa using ht) fun _ => EngOk.ite (fun _ => by simpa using ht) fun _ =>
      EngOk.ite (fun _ => ?_) fun _ => EngOk.ite (fun _ => trivial) fun _ => ?_
    · show Canon _
      cases frameWaits t _ with
      | none => exact ht
      | some lf => exact (canon_iff _).2 (by simpa using ht)
    · split
      · simpa using ht
      · next e => exact readFrame_canon (settleOuts_mem_wf _ _ _ (peerTaken_or_self ht e))
  · exact ht

theorem hubPut_eng {s : State} {who ctx va : Nat} {b : Bytes} (h : Canon s) : EngOk (hubPut s who ctx va b) := by
  unfold hubPut
  dsimp only
  refine EngOk.bind (copyPlace_eng h) fun _ _ h2 => ?_
  split
  · exact homeStore_eng h2
  · refine EngOk.ite (fun _ => ?_) fun _ => ?_
    · simpa using h2
    · simpa using h2
  · simp

@[simp] theorem copyData_mem (s : State) (q : Nat) (b : Bytes) : (copyData s q b).2.mem = s.mem :=
  foldl_keeps (fun x : List Byte × State => x.2.mem) _ _ fun _ _ => hostData_mem ..

theorem copyRun_canon {s : State} {ctx n : Nat} {c : Copy} (h : Canon s) : Canon (copyRun s ctx n c).2 := by
  induction n generalizing s c with
  | zero => exact h
  | succ n ih =>
    have hc {sa da k : Nat} {p : Prop} [Decidable p] : EngOk ((hubRead s c.q ctx sa k).bind fun b s =>
        (hubPut s c.q ctx da (if p then (copyData s c.q b).1 else b)).bind fun _ s =>
          .ok () (if p then (copyData s c.q b).2 else s)) :=
      (hubRead_eng h).bind fun _ _ h => (hubPut_eng h).bind fun _ _ h => (canon_iff _).2 (by simpa using h)
    unfold copyRun
    split
    · exact h
    dsimp only
    split
    · next e => exact ih (hc.of_ok e)
    · next e => exact hc.of_wait e
    · exact h

@[simp] theorem copyTake_mem (s : State) (ctx : Nat) (c : Copy) : (copyTake s ctx c).mem = s.mem := rfl

theorem execCopyComplete_res {i : Nat} {s : State} (h : Canon s) : ResOk (execCopyComplete i s) := by
  unfold execCopyComplete
  refine (resOk_next _).2 ?_
  split
  · exact h
  · dsimp only
    refine Canon.ite (fun _ => ?_) fun _ => ?_
    · split
      · simpa using h
      · simpa using copyRun_canon h
    · refine Canon.ite (fun _ => ?_) fun _ => ?_
      · split
        · simpa using h
        · simpa using copyRun_canon h
      · split
        · simpa using h
        · simpa using copyRun_canon h

theorem execLaunchPacket_res {q : Nat} {s : State} (h : Canon s) : ResOk (execLaunchPacket q s) := by
  refine packetEvent_res h fun x ws => ?_
  split
  · exact h
  refine Canon.ite (fun _ => h) fun _ => ?_
  split
  · simpa using h
  split
  · next e => simpa using (putRecord_eng h).of_ok e
  · next e => exact (putRecord_eng h).of_wait e
  · exact h

theorem installOne_mem {s : State} {k : Nat} {x : Launch} {idx : Nat} {slots : List Nat} {s' : State}
    (e : installOne s k x idx slots = some s') : s'.mem = s.mem := by
  induction slots with
  | nil => cases e
  | cons i r ih =>
    unfold installOne at e
    split at e
    · next hw =>
      cases e
      exact (congrArg (fun y : Nat × State => y.2.mem) hw).symm.trans (slotWrite_mem ..)
    · exact ih e

theorem installEntries_mem {x : Launch} {k : Nat} {slots idxs : List Nat} {n : Nat} {s : State} {es : List (Nat × Nat)}
    {s' : State} (e : installEntries x k slots idxs n s = some (es, s')) : s'.mem = s.mem := by
  induction idxs generalizing s n es with
  | nil =>
    cases n with
    | zero => cases e; rfl
    | succ n => cases e
  | cons i r ih =>
    cases n with
    | zero => cases e; rfl
    | succ n =>
      unfold installEntries at e
      split at e
      · next hi =>
        obtain ⟨y, hy, e⟩ := Option.map_eq_some_iff.mp e
        cases e
        exact (ih hy).trans (installOne_mem hi)
      · exact ih e

theorem tryInstall_mem {s : State} {k : Nat} {x : Launch} {es : List (Nat × Nat)} {s' : State}
    (e : tryInstall s k x = some (es, s')) : s'.mem = s.mem := by
  unfold tryInstall at e
  dsimp only at e
  split at e
  · cases e
  · exact installEntries_mem e

@[simp] theorem openRecord_mem (s : State) (l : Nat) (x : Launch) : (openRecord s l x).mem = s.mem := by
  simp [openRecord]

@[simp] theorem acceptRoot_mem (s : State) (l k : Nat) (x : Launch) : (acceptRoot s l k x).mem = s.mem := by
  simp [acceptRoot]

theorem execLaunchPlacement_res {l : Nat} {s : State} (h : Canon s) : ResOk (execLaunchPlacement l s) := by
  unfold execLaunchPlacement
  refine (resOk_next _).2 ?_
  split
  · exact h
  · dsimp only
    refine Canon.ite (fun _ => ?_) fun _ => ?_
    · exact h
    · split
      · exact h
      · refine Canon.ite (fun _ => ?_) fun _ => ?_
        · simpa using h
        · refine Canon.ite (fun _ => ?_) fun _ => ?_
          · exact h
          · split
            · next e8 =>
                have h8 := h.of_mem (tryInstall_mem e8)
                simpa using h8
            · exact h

theorem execLaunchTimeout_res {l : Nat} {s : State} (h : Canon s) : ResOk (execLaunchTimeout l s) := by
  unfold execLaunchTimeout
  refine (resOk_next _).2 ?_
  split
  · exact h
  · simpa using h

/-! ### The functions of `Machine/EvDriver.lean` -/

@[simp] theorem mailDone_mem (s : State) (status : Nat) (result : Option Nat) :
    (mailDone s status result).mem = s.mem := rfl

theorem mailEvent_res {cmd f s} (h : Canon s) (hf : Canon (f s)) : ResOk (mailEvent cmd f s) := by
  unfold mailEvent
  split
  · exact (resOk_next _).2 hf
  · exact (resOk_next _).2 h

@[simp] theorem takeMail_mem (s : State) (n : Nat) (w : Word) : (takeMail s n w).mem = s.mem := by simp [takeMail]

theorem execCtxCreate_res {s : State} (h : Canon s) : ResOk (execCtxCreate s) := by
  refine mailEvent_res h ?_
  dsimp only
  refine Canon.ite (fun _ => h) fun _ => ?_
  split
  · exact h
  · exact h

theorem execQueueCreate_res {s : State} (h : Canon s) : ResOk (execQueueCreate s) := by
  refine mailEvent_res h ?_
  dsimp only
  refine Canon.ite (fun _ => h) fun _ => ?_
  split
  · exact h
  · exact h

@[simp] theorem dropQueue_mem (s : State) (i : Nat) : (dropQueue s i).mem = s.mem := by
  unfold dropQueue
  split <;> simp

theorem execQueueDestroy_res {s : State} (h : Canon s) : ResOk (execQueueDestroy s) := by
  refine mailEvent_res h ?_
  dsimp only
  split
  · exact h
  · exact Canon.ite (fun _ => h.of_mem (dropQueue_mem ..)) fun _ => h

theorem poolAdd_mem {s : State} {c pool a n : Nat} {t} (e : poolAdd s c pool a n = some t) : t.mem = s.mem := by
  have hite : ∀ (b : Bool) (f : Ctx → Ctx), (if b then some (s.modCtx c f) else none) = some t → t.mem = s.mem :=
    fun b f hu => by
      cases b with
      | false => cases hu
      | true => cases hu; exact modCtx_mem ..
  unfold poolAdd at e
  split at e
  · exact hite _ _ e
  · exact hite _ _ e
  · exact hite _ _ e
  · exact hite _ _ e
  · cases e

theorem execPoolAdd_res {s : State} (h : Canon s) : ResOk (execPoolAdd s) := by
  refine mailEvent_res h ?_
  dsimp only
  refine Canon.ite (fun _ => h) fun _ => ?_
  split
  · next e =>
    have := poolAdd_mem e
    exact h.of_mem this
  · exact h

theorem execPeerBind_res {s : State} (h : Canon s) : ResOk (execPeerBind s) := mailEvent_res h (by simpa using h)

theorem execChipSet_res {s : State} (h : Canon s) : ResOk (execChipSet s) := mailEvent_res h (by simpa using h)

@[simp] theorem endWork_mem (s : State) (c : Nat) : (endWork s c).mem = s.mem := by simp -implicitDefEqProofs [endWork]

@[simp] theorem clearEntries_mem (s : State) (c : Nat) : (clearEntries s c).mem = s.mem :=
  foldl_mem _ _ fun _ _ => by simp -implicitDefEqProofs

theorem discardPage_canon {s : State} {e : Nat × Unbacked} (h : Canon s) : Canon (discardPage s e) := by
  have hdrop : ∀ ds ls : List Nat, (ls.foldl (fun s l => ds.foldl (fun s d => dropCopies s d l) s) s).mem = s.mem :=
    fun _ _ => foldl_mem _ _ fun _ _ => foldl_mem _ _ fun _ _ => dropCopies_mem ..
  unfold discardPage
  generalize List.range 8 = ds
  exact memWf_filter _ (h.of_mem (hdrop ..))

theorem freeCtx_canon {s : State} {c : Nat} (h : Canon s) : Canon (freeCtx s c) := by
  have hpages : ∀ l : List (Nat × Unbacked), Canon (l.foldl discardPage s) :=
    fun l => foldl_canon l (fun _ _ => discardPage_canon) h
  unfold freeCtx
  simp only [canon_iff, modNet_mem, modHub_mem, tlbDrop_mem, modCoh_mem]
  exact hpages _

theorem execCtxEnd_res {s : State} (h : Canon s) : ResOk (execCtxEnd s) := by
  refine mailEvent_res h ?_
  have hc : Canon (clearEntries (endWork s (mailWord s 1).toNat) (mailWord s 1).toNat) := by simpa using h
  dsimp only
  generalize clearEntries _ _ = u at hc
  refine Canon.ite (fun _ => h.of_mem (mailDone_mem ..)) fun _ => Canon.ite (fun _ => ?_) fun _ => hc
  exact (freeCtx_canon hc).of_mem (mailDone_mem ..)

@[simp] theorem preemptFreeze_mem (x y : Nat) (s : State) (k : Nat) : (preemptFreeze x y s k).mem = s.mem :=
  foldl_mem _ _ fun _ _ => by simp -implicitDefEqProofs

theorem slotWrite_some_mem {s t : State} {k i : Nat} {v : BitVec 16}
    (e : (match slotWrite s k i v with
      | (0, s) => some s
      | _ => none) = some t) : t.mem = s.mem := by
  split at e
  · next e' =>
    cases e
    exact (congrArg (fun y : Nat × State => y.2.mem) e').symm.trans (slotWrite_mem ..)
  · cases e

@[simp] theorem plinthEntry_mem (k y : Nat) (s : State) (i : Nat) : (plinthEntry k y s i).mem = s.mem := by
  have hfold : ∀ (f : Nat → BitVec 16) (l : List Nat) (r : Option State), (∀ t, r = some t → t.mem = s.mem) → ∀ t,
      l.foldl (fun r slot => match r with
        | some s => some s
        | none => match slotWrite s k i (f slot) with
          | (0, s) => some s
          | _ => none) r = some t → t.mem = s.mem := by
    intro f l
    induction l with
    | nil => exact fun r hr => hr
    | cons a l ih =>
      refine fun r hr => ih _ fun t e => ?_
      cases r with
      | some u => exact hr t e
      | none => exact slotWrite_some_mem e
  exact getD_mem (hfold _ _ none fun _ e => nomatch e) rfl

@[simp] theorem preemptCore_mem (x y q k : Nat) (s : State) : (preemptCore x y q k s).mem = s.mem := by
  simp -implicitDefEqProofs [preemptCore]

theorem execPreempt_res {s : State} (h : Canon s) : ResOk (execPreempt s) := by
  refine mailEvent_res h ?_
  generalize coreSet s = ks
  dsimp only
  split
  · exact h
  · refine Canon.ite (fun _ => h) fun _ => Canon.ite (fun _ => ?_) fun _ => ?_
    · exact h.of_mem (foldl_mem _ _ fun _ _ => preemptFreeze_mem ..)
    · exact h.of_mem (foldl_mem _ _ fun _ _ => preemptCore_mem ..)

/-! ### The functions of `Machine/EvHost.lean` -/

@[simp] theorem hostHolds_mem (s : State) (l : Nat) (m : Bool) : (hostHolds s l m).mem = s.mem := rfl

theorem execHostMemAccess_res {addr size : Nat} {wr : Bool} {v : BitVec 64} {s : State} (h : Canon s) :
    ResOk (execHostMemAccess addr size wr v s) := by
  unfold execHostMemAccess
  dsimp only
  refine (resOk_next _).2 ?_
  refine Canon.ite (fun _ => ?_) fun _ => ?_
  · exact h
  · refine Canon.ite (fun _ => ?_) fun _ => ?_
    · refine Canon.ite (fun _ => ?_) fun _ => ?_
      · simpa using commit_mem_wf _ _ _ _ h
      · simpa using h
    · simpa using h

theorem hostAnswer_canon {s : State} {kind l : Nat} (h : Canon s) : Canon (hostAnswer s kind l) := by
  unfold hostAnswer
  dsimp only
  split
  · simpa using h
  · simpa using h
  · split
    · simpa using h
    · simpa using freshLine_mem_wf _ _ h
  · split
    · simpa using h
    · simpa using freshLine_mem_wf _ _ h
  · simpa using h
  · exact h

theorem hostAck_canon {s : State} {l die : Nat} (h : Canon s) : Canon (hostAck s l die) := by
  unfold hostAck
  split
  · exact performSent_canon h
  · exact h

theorem execHostResponse_res {i : Nat} {s : State} (h : Canon s) : ResOk (execHostResponse i s) := by
  unfold execHostResponse
  refine (resOk_next _).2 ?_
  split
  · exact h
  · dsimp only
    refine Canon.ite (fun _ => ?_) fun _ => ?_
    · exact hostAck_canon h
    · exact hostAnswer_canon h

theorem execHostSnoop_res {line : Nat} {s : State} (h : Canon s) : ResOk (execHostSnoop line s) := by
  unfold execHostSnoop
  simpa using h

@[simp] theorem endEngine_mem (s : State) (die id : Nat) (c : Code) : (endEngine s die id c).mem = s.mem := by
  unfold endEngine
  generalize List.range 112 = js
  refine foldl_mem _ _ fun _ _ => (foldl_mem _ _ fun _ _ => endTransfer_mem ..).trans ?_
  exact foldl_mem _ _ fun _ _ => endJob_mem ..

theorem storeLost_canon {s : State} {die seq : Nat} (h : Canon s) : Canon (storeLost s die seq) := by
  unfold storeLost
  split
  · exact h
  · dsimp only
    split
    · simpa using performDie_mem_wf _ _ (by simpa using h)
    · simpa using performDie_mem_wf _ _ (by simpa using h)
    · exact performDie_mem_wf _ _ h

theorem dropHostStores_canon {s : State} (h : Canon s) : Canon (dropHostStores s) := by
  unfold dropHostStores
  dsimp only
  refine foldl_canon _ (fun s _ h2 => ?_) ?_
  · exact storeLost_canon h2
  · exact h

theorem dropHostLines_canon {s : State} (h : Canon s) : Canon (dropHostLines s) := by
  unfold dropHostLines
  dsimp only
  refine dropHostStores_canon ?_
  refine Canon.of_mem ?_ (modCoh_mem ..)
  refine foldl_canon _ (fun s _ h4 => ?_) ?_
  · refine foldl_canon _ (fun s _ h5 => ?_) ?_
    · simpa using h5
    · exact h4
  · exact h

theorem loseHost_canon {s : State} (h : Canon s) : Canon (loseHost s) := by
  unfold loseHost
  exact dropHostLines_canon h

theorem execHostLost_res {s : State} (h : Canon s) : ResOk (execHostLost s) := by
  unfold execHostLost
  refine (resOk_next _).2 ?_
  refine Canon.ite (fun _ => ?_) fun _ => ?_
  · exact loseHost_canon h
  · exact h

theorem dropLink_canon {s : State} (h : Canon s) : Canon (dropLink s) := by
  unfold dropLink
  refine Canon.ite (fun _ => ?_) fun _ => ?_
  · exact h
  · exact loseHost_canon h

theorem execLinkRetrain_res {s : State} (h : Canon s) : ResOk (execLinkRetrain s) := by
  unfold execLinkRetrain
  simpa using h

/-! ### The functions of `Machine/EvPeers.lean` -/

theorem peerRequest_mem {s : State} {chip kind tag : Nat} {w : Nat → Word} {t}
    (e : peerRequest s chip kind tag w = some t) :
    t.mem = s.mem := by
  unfold peerRequest at e
  dsimp only at e
  split at e
  · cases e; rfl
  split at e
  · cases e
  · cases e
    split
    · exact fopAt_mem ..
    · exact (peerSend_mem ..).trans (fopAt_mem ..)

@[simp] theorem peerWake_mem (s : State) (hd : Word) (v : View) : (peerWake s hd v).mem = s.mem := rfl

theorem peerReply_canon {s : State} {hd place : Word} {v : View} {ret : Word} (h : Canon s) :
    ∀ t, peerReply s hd place v ret = some t → Canon t := by
  intro t e
  unfold peerReply at e
  dsimp only at e
  split at e
  · cases e; exact h.of_mem (modQueue_mem ..)
  split at e
  · cases e; exact h
  split at e
  · split at e
    · cases e
    · split at e
      · next e' => cases e; exact Canon.of_fst e' (answerThread_canon h)
      · cases e
  · split at e
    · cases e; exact h
    · cases e; exact h

@[simp] theorem peerMsg_mem (s : State) (tag : Nat) (ws : List Word) : (peerMsg s tag ws).mem = s.mem := by
  simp [peerMsg]

@[simp] theorem msgBack_mem (s : State) (desc fut tag : Word) (code : Code) :
    (msgBack s desc fut tag code).mem = s.mem := by
  simp [msgBack]

theorem homeWrites_canon {s : State} {a : Nat} {bs : List Byte} (h : Canon s) : Canon (homeWrites s a bs) := by
  unfold homeWrites
  dsimp only
  refine Canon.ite (fun _ => ?_) fun _ => ?_
  · exact homeWrite_mem_wf _ _ _ h
  · refine homeWrite_mem_wf _ _ _ ?_
    show Canon _
    exact homeWrite_mem_wf _ _ _ h

theorem peerAccess_canon {s : State} {chip kind : Nat} {ws : List Word} (h : Canon s) :
    ∀ t, peerAccess s chip kind ws = some t → Canon t := by
  intro t e
  unfold peerAccess at e
  dsimp only at e
  split at e
  · cases e; exact h.of_mem (peerSend_mem ..)
  split at e
  · cases e; exact h.of_mem (askHome_mem ..)
  · next e' =>
    clear e'
    generalize [_, _] = ls at e
    have hs : Canon (ls.foldl (fun s l => settleOuts s l (homeAgent s l)) s) :=
      foldl_canon _ (fun _ _ h => settleOuts_mem_wf _ _ _ h) h
    generalize ls.foldl _ s = u at e hs
    split at e
    · cases e; exact hs.of_mem (peerSend_mem ..)
    · cases e; exact Canon.of_mem (homeWrites_canon hs) (peerSend_mem ..)
    · cases e
      refine Canon.of_mem ?_ (peerSend_mem ..)
      exact Canon.ite (fun _ => hs) fun _ => homeWrites_canon hs

theorem peerAnswer_canon {s : State} {id : Nat} {a : Bool × List Word} (h : Canon s) : Canon (peerAnswer s id a) := by
  unfold peerAnswer
  split
  · exact h
  · refine Canon.ite (fun _ => ?_) fun _ => ?_
    · dsimp only
      refine Canon.ite (fun _ => ?_) fun _ => ?_
      · exact storeLost_canon h
      · exact performSent_canon h
    · simpa using h

@[simp] theorem putSession_mem (s : State) (chip : Nat) (x : Session) : (putSession s chip x).mem = s.mem := rfl

@[simp] theorem putWaiting_mem (s : State) (ws : List (Nat × Nat × List Word)) : (putWaiting s ws).mem = s.mem := rfl

theorem peerTake_canon {s : State} {chip kind : Nat} {ws : List Word} (h : Canon s) :
    ∀ t, peerTake s chip kind ws = some t → Canon t := by
  intro t e
  unfold peerTake at e
  dsimp only at e
  split at e
  · exact h.of_mem (peerRequest_mem e)
  split at e
  · cases e; exact h
  · exact peerReply_canon h t e
  · cases e; exact h.of_mem (peerMsg_mem ..)
  · cases e; exact h.of_mem (msgBack_mem ..)
  · exact peerAccess_canon h t e
  · exact peerAccess_canon h t e
  · exact peerAccess_canon h t e
  · cases e; exact peerAnswer_canon h
  · cases e; exact h

@[simp] theorem sendGram_mem (s : State) (d : Datagram) : (sendGram s d).mem = s.mem := rfl

@[simp] theorem sendPeerAck_mem (s : State) (chip n : Nat) : (sendPeerAck s chip n).mem = s.mem := rfl

@[simp] theorem noteSeen_mem (s : State) (chip seq : Nat) : (noteSeen s chip seq).mem = s.mem := by
  unfold noteSeen
  split <;> simp

theorem execPeerData_res {chip session seq kind : Nat} {ws : List (BitVec 64)} {s : State} (h : Canon s) :
    ResOk (execPeerData chip session seq kind ws s) := by
  unfold execPeerData
  refine (resOk_next _).2 ?_
  split
  · exact h
  · refine Canon.ite (fun _ => ?_) fun _ => ?_
    · exact h
    · refine Canon.ite (fun _ => ?_) fun _ => ?_
      · simpa using h
      · split
        · exact h
        · next e5 =>
            have h5 := peerTake_canon h _ e5
            simpa using h5

@[simp] theorem freeBuffers_mem (s : State) (us : List (Nat × Nat × List Word × Nat)) :
    (freeBuffers s us).mem = s.mem :=
  foldl_mem _ _ fun _ _ => rfl

theorem execPeerAck_res {chip seq : Nat} {s : State} (h : Canon s) : ResOk (execPeerAck chip seq s) := by
  unfold execPeerAck
  refine (resOk_next _).2 ?_
  split
  · exact h
  · simpa using h

theorem endData_canon {chip : Nat} {s : State} {u : Nat × Nat × List Word × Nat} (h : Canon s) :
    Canon (endData chip s u) := by
  unfold endData
  dsimp only
  refine Canon.ite (fun _ => ?_) fun _ => ?_
  · simpa using h
  · refine Canon.ite (fun _ => ?_) fun _ => ?_
    · exact peerAnswer_canon h
    · simpa using h

theorem endSession_canon {s : State} {chip : Nat} (h : Canon s) : Canon (endSession s chip) := by
  unfold endSession
  split
  · exact h
  · dsimp only
    refine foldl_canon _ (fun s _ h3 => ?_) ?_
    · exact endData_canon h3
    · simpa using h

theorem execSessionOpen_res {chip session : Nat} {s : State} (h : Canon s) : ResOk (execSessionOpen chip session s)
    := by
  unfold execSessionOpen
  refine (resOk_next _).2 ?_
  refine Canon.ite (fun _ => ?_) fun _ => ?_
  · exact h
  · simpa using endSession_canon h

theorem execSessionClose_res {chip : Nat} {s : State} (h : Canon s) : ResOk (execSessionClose chip s) :=
  (resOk_next _).2 (endSession_canon h)

theorem dropWaiting_canon {s : State} {e : Nat × Nat × List Word} (h : Canon s) : Canon (dropWaiting s e) := by
  unfold dropWaiting
  dsimp only
  refine Canon.ite (fun _ => Canon.getD (peerReply_canon h) h) fun _ => Canon.ite (fun _ => ?_) fun _ => ?_
  · exact h.of_mem (msgBack_mem ..)
  · exact Canon.ite (fun _ => peerAnswer_canon h) fun _ => h

theorem closeSession_canon {s : State} {chip : Nat} (h : Canon s) : Canon (closeSession s chip) := by
  unfold closeSession
  split
  · exact h
  · exact endSession_canon h

theorem execSessionTimeout_res {chip : Nat} {s : State} (h : Canon s) : ResOk (execSessionTimeout chip s) := by
  unfold execSessionTimeout
  dsimp only
  refine (resOk_next _).2 ?_
  split
  · refine Canon.ite (fun _ => ?_) fun _ => ?_
    · exact closeSession_canon h
    · exact h
  · split
    · exact h
    · refine Canon.ite (fun _ => ?_) fun _ => ?_
      · exact h
      · refine foldl_canon _ (fun s _ h6 => ?_) ?_
        · simpa using h6
        · refine foldl_canon _ (fun s _ h7 => ?_) ?_
          · exact dropWaiting_canon h7
          · simpa using h

theorem execPeerResend_res {i : Nat} {s : State} (h : Canon s) : ResOk (execPeerResend i s) := by
  unfold execPeerResend
  refine (resOk_next _).2 ?_
  split
  · exact h
  · dsimp only
    refine Canon.ite (fun _ => ?_) fun _ => ?_
    · exact h
    · split
      · exact h
      · simpa using h

theorem execEthernetPortChange_res {port st : Nat} {s : State} (h : Canon s) : ResOk (execEthernetPortChange port st s)
    := by
  unfold execEthernetPortChange
  simpa using h

/-! ### The functions of `Machine/EvMgmt.lean` -/

@[simp] theorem refuseWrite_mem (s : State) (id : Nat) : (refuseWrite s id).mem = s.mem := rfl

@[simp] theorem notePower_mem (s : State) (v : Nat) : (notePower s v).mem = s.mem := rfl

theorem execPowerLimitWrite_res {v : Nat} {s : State} (h : Canon s) : ResOk (execPowerLimitWrite v s) := by
  unfold execPowerLimitWrite
  simpa using h

theorem execShedThresholdWrite_res {v : Nat} {s : State} (h : Canon s) : ResOk (execShedThresholdWrite v s) := by
  unfold execShedThresholdWrite
  simpa using h

theorem execTelemetryUpdate_res {id v : Nat} {s : State} (h : Canon s) : ResOk (execTelemetryUpdate id v s) := by
  unfold execTelemetryUpdate
  simpa using h

theorem execPowerLimitShed_res {s : State} (h : Canon s) : ResOk (execPowerLimitShed s) := by
  unfold execPowerLimitShed
  refine (resOk_next _).2 ?_
  split
  · simpa using h
  · exact h

@[simp] theorem keepUnits_mem (s t) : (keepUnits s t).mem = t.mem := rfl

theorem bootPackage_canon {s : State} {m : Mgmt} : Canon (bootPackage s m) := rfl

theorem execPackageReset_res {s : State} (h : Canon s) : ResOk (execPackageReset s) :=
  (resOk_next _).2 (Canon.ite (fun _ => h) fun _ => Canon.ite (fun _ => h) fun _ => bootPackage_canon)

theorem darkPackage_canon {s : State} {m : Mgmt} : Canon (darkPackage s m) := rfl

theorem execOvertempPowerOff_res {die temp : Nat} {s : State} (h : Canon s) : ResOk (execOvertempPowerOff die temp s) :=
  (resOk_next _).2 (Canon.ite (fun _ => darkPackage_canon) fun _ => h)

theorem execPowerLoss_res {s : State} (_ : Canon s) : ResOk (execPowerLoss s) := (resOk_next _).2 darkPackage_canon

theorem execPowerOn_res {s : State} (h : Canon s) : ResOk (execPowerOn s) :=
  (resOk_next _).2 (Canon.ite (fun _ => h) fun _ => bootPackage_canon)

@[simp] theorem spdmReply_mem (s : State) (code arg : Nat) : (spdmReply s code arg).mem = s.mem := by simp [spdmReply]

theorem execGetVersion_res {s : State} (h : Canon s) : ResOk (execGetVersion s) := by
  unfold execGetVersion
  simpa using h

theorem execGetCapabilities_res {s : State} (h : Canon s) : ResOk (execGetCapabilities s) := by
  unfold execGetCapabilities
  simpa using h

theorem execNegotiateAlgorithms_res {s : State} (h : Canon s) : ResOk (execNegotiateAlgorithms s) := by
  unfold execNegotiateAlgorithms
  simpa using h

theorem execGetDigests_res {s : State} (h : Canon s) : ResOk (execGetDigests s) := by
  unfold execGetDigests
  simpa using h

theorem execGetCertificate_res {slot : Nat} {s : State} (h : Canon s) : ResOk (execGetCertificate slot s) := by
  unfold execGetCertificate
  simpa using h

theorem execChallenge_res {nonce : Nat} {s : State} (h : Canon s) : ResOk (execChallenge nonce s) := by
  unfold execChallenge
  simpa using h

theorem execGetMeasurements_res {nonce : Nat} {s : State} (h : Canon s) : ResOk (execGetMeasurements nonce s) := by
  unfold execGetMeasurements
  simpa using h

@[simp] theorem takePldm_mem (s : State) (cmd arg : Nat) : (takePldm s cmd arg).mem = s.mem := by
  unfold takePldm
  repeat' split
  all_goals simp

theorem execRequestUpdate_res {ver image : Nat} {s : State} (h : Canon s) : ResOk (execRequestUpdate ver image s) := by
  unfold execRequestUpdate
  simpa using h

theorem execVerifyComplete_res {s : State} (h : Canon s) : ResOk (execVerifyComplete s) := by
  unfold execVerifyComplete
  refine (resOk_next _).2 ?_
  split
  · exact h
  · simpa using h

theorem execApplyComplete_res {s : State} (h : Canon s) : ResOk (execApplyComplete s) := by
  unfold execApplyComplete
  simpa using h

theorem execActivateFirmware_res {s : State} (h : Canon s) : ResOk (execActivateFirmware s) := by
  unfold execActivateFirmware
  simpa using h

theorem execLockstepMismatch_res {cp : Nat} {s : State} (h : Canon s) : ResOk (execLockstepMismatch cp s) := by
  unfold execLockstepMismatch
  simpa using h

@[simp] theorem resendFaults_mem (s : State) : (resendFaults s).mem = s.mem := by
  refine foldl_mem _ _ fun s e => ?_
  dsimp only
  split
  · split <;> rfl
  · rfl

theorem execFirmwareRestart_res {s : State} (h : Canon s) : ResOk (execFirmwareRestart s) := by
  unfold execFirmwareRestart
  simpa using h

/-! ### The functions of `Machine/EvCycle.lean` -/

@[simp] theorem charge_mem (s : State) (tid : Nat) (c : Cause) : (charge s tid c).mem = s.mem := rfl

@[simp] theorem finishCycle_mem (s : State) (k : Nat) : (finishCycle s k).mem = s.mem := rfl

@[simp] theorem stepShadow_mem (s : State) (k tid : Nat) : (stepShadow s k tid).mem = s.mem := by
  unfold stepShadow
  repeat' split
  all_goals simp

@[simp] theorem takeBeat_mem (s : State) (tid : Nat) : (takeBeat s tid).mem = s.mem := by simp [takeBeat]

@[simp] theorem tryThreads_mem (s : State) (k : Nat) (us : List Nat) : (tryThreads s k us).mem = s.mem := by
  induction us with
  | nil => exact finishCycle_mem ..
  | cons u r ih =>
    unfold tryThreads
    dsimp only
    refine (apply_ite State.mem _ _ _).trans ((ite_eq_left_iff.2 fun _ => ?_).trans ih)
    split
    · exact ih.symm ▸ (finishCycle_mem ..).trans (takeBeat_mem ..)
    · rw [ih]
      split <;> simp

@[simp] theorem fillPrefetched_mem (s : State) (k : Nat) : (fillPrefetched s k).mem = s.mem := by
  simp -implicitDefEqProofs [fillPrefetched]

theorem upkeep_canon {s : State} {k : Nat} (h : Canon s) : Canon (upkeep s k) := by
  unfold upkeep
  dsimp only
  split
  · refine Canon.of_mem ?_ (modCore_mem ..)
    refine Canon.of_mem ?_ (free_mem ..)
    refine foldl_canon _ (fun s _ h5 => ?_) ?_
    · simpa using h5
    · refine foldl_canon _ (fun s _ h6 => ?_) ?_
      · exact pushDue_canon h6
      · simpa using h
  · refine Canon.of_mem ?_ (modCore_mem ..)
    refine Canon.of_mem ?_ (free_mem ..)
    refine foldl_canon _ (fun s _ h5 => ?_) ?_
    · simpa using h5
    · refine foldl_canon _ (fun s _ h6 => ?_) ?_
      · exact pushDue_canon h6
      · simpa using h

@[simp] theorem giveCycle_mem (s : State) (k : Nat) (e : BitVec 16) : (giveCycle s k e).mem = s.mem := by
  simp [giveCycle]

@[simp] theorem startCycle_mem (s : State) (k : Nat) : (startCycle s k).mem = s.mem := by
  unfold startCycle
  dsimp only
  repeat' split
  all_goals simp

@[simp] theorem resumeCycle_mem (s : State) (k u : Nat) : (resumeCycle s k u).mem = s.mem := by
  unfold resumeCycle
  split <;> simp

theorem execCoreCycle_res {core : Nat} {s : State} (h : Canon s) : ResOk (execCoreCycle core s) := by
  unfold execCoreCycle
  dsimp only
  refine (resOk_next _).2 ?_
  refine Canon.ite (fun _ => ?_) fun _ => ?_
  · exact h
  · split
    · simpa using upkeep_canon h
    · simpa using h

@[simp] theorem moveFlit_mem (s : State) (r p : Nat) (x : Flit) : (moveFlit s r p x).mem = s.mem := rfl

@[simp] theorem reassemble_mem (s : State) (x : Flit) : (reassemble s x).mem = s.mem := by simp [reassemble]

@[simp] theorem deliverFlit_mem (s : State) (x : Flit) : (deliverFlit s x).mem = s.mem := by simp [deliverFlit]

@[simp] theorem routeFlits_mem (s : State) (r : Nat) (outs : List Nat) (xs : List Flit) :
    (routeFlits s r outs xs).mem = s.mem := by
  induction xs generalizing s outs with
  | nil => rfl
  | cons x rest ih =>
    unfold routeFlits
    dsimp only
    split
    · exact (ih ..).trans (deliverFlit_mem ..)
    · exact (ih ..).trans (moveFlit_mem ..)

@[simp] theorem offerFlits_mem (s : State) (r : Nat) : (offerFlits s r).mem = s.mem := by simp [offerFlits]

@[simp] theorem injectFlit_mem (s : State) (r : Nat) : (injectFlit s r).mem = s.mem := by
  unfold injectFlit
  split <;> simp

@[simp] theorem ejectFlit_mem (s : State) (r : Nat) (fs : List Flit) : (ejectFlit s r fs).1.mem = s.mem := by
  unfold ejectFlit
  split <;> simp

@[simp] theorem inBound_mem (s : State) (r : Nat) : (inBound s r).mem = s.mem :=
  foldl_mem _ _ fun _ _ => by simp -implicitDefEqProofs

@[simp] theorem noteGrant_mem (s : State) (r : Nat) : (noteGrant s r).mem = s.mem := by simp [noteGrant]

theorem execRouterCycle_res {router : Nat} {s : State} (h : Canon s) : ResOk (execRouterCycle router s) := by
  unfold execRouterCycle
  simpa using h

/-! ### The functions of `Machine/Scalar.lean` -/

theorem fp2_res {len n : Nat} {f : Fmt} {d a b : Nat} {op : FVal → FVal → Nat → Exact} {s : State} (h : Canon s) :
    ResOk (fp2 len n f d a b op s) :=
  issue_res h fun _ => (readReg_sat h).bind fun _ h => (readReg_sat h).bind fun _ h =>
    writeLate_sat (h.of_mem (roundScalar_mem ..))

theorem fp3_res {len : Nat} {f : Fmt} {d a b : Nat} {s : State} (h : Canon s) : ResOk (fp3 len f d a b s) :=
  issue_res h fun _ => (readReg_sat h).bind fun _ h => (readReg_sat h).bind fun _ h => (readReg_sat h).bind fun _ h =>
    writeLate_sat (h.of_mem (roundScalar_mem ..))

theorem fp1_res {len n : Nat} {f : Fmt} {d a : Nat} {op : FVal → Exact} {s : State} (h : Canon s) :
    ResOk (fp1 len n f d a op s) :=
  issue_res h fun _ => (readReg_sat h).bind fun _ h => writeLate_sat (h.of_mem (roundScalar_mem ..))

theorem fpPick_res {len : Nat} {f : Fmt} {d a b : Nat} {op : Nat → Nat → Nat × Flags} {s : State} (h : Canon s) :
    ResOk (fpPick len f d a b op s) :=
  issue_res h fun _ => (readReg_sat h).bind fun _ h2 => (readReg_sat h2).bind fun _ h3 => writeLate_sat h3

theorem execFadd_res {d a : BitVec 7} {p : BitVec 2} {b : BitVec 5} {s : State} (h : Canon s) :
    ResOk (execFadd d a p b s) :=
  fp2_res h

theorem execFsub_res {d a : BitVec 7} {p : BitVec 2} {b : BitVec 5} {s : State} (h : Canon s) :
    ResOk (execFsub d a p b s) :=
  fp2_res h

theorem execFmul_res {d a : BitVec 7} {p : BitVec 2} {b : BitVec 5} {s : State} (h : Canon s) :
    ResOk (execFmul d a p b s) :=
  fp2_res h

theorem execFfma_res {d a : BitVec 7} {p : BitVec 2} {b : BitVec 5} {s : State} (h : Canon s) :
    ResOk (execFfma d a p b s) :=
  fp3_res h

theorem execFdiv_res {d a : BitVec 7} {p : BitVec 2} {b : BitVec 5} {s : State} (h : Canon s) :
    ResOk (execFdiv d a p b s) :=
  fp2_res h

theorem execFsqrt_res {d a : BitVec 7} {p : BitVec 2} {s : State} (h : Canon s) : ResOk (execFsqrt d a p s) := fp1_res h

theorem execFmin_res {d a : BitVec 7} {p : BitVec 2} {b : BitVec 5} {s : State} (h : Canon s) :
    ResOk (execFmin d a p b s) :=
  fpPick_res h

theorem execFmax_res {d a : BitVec 7} {p : BitVec 2} {b : BitVec 5} {s : State} (h : Canon s) :
    ResOk (execFmax d a p b s) :=
  fpPick_res h

theorem execFcmpEq_res {d a : BitVec 7} {p : BitVec 2} {b : BitVec 5} {s : State} (h : Canon s) :
    ResOk (execFcmpEq d a p b s) :=
  fpPick_res h

theorem execFcmpLt_res {d a : BitVec 7} {p : BitVec 2} {b : BitVec 5} {s : State} (h : Canon s) :
    ResOk (execFcmpLt d a p b s) :=
  fpPick_res h

theorem execFcmpLe_res {d a : BitVec 7} {p : BitVec 2} {b : BitVec 5} {s : State} (h : Canon s) :
    ResOk (execFcmpLe d a p b s) :=
  fpPick_res h

theorem execFcmpUn_res {d a : BitVec 7} {p : BitVec 2} {b : BitVec 5} {s : State} (h : Canon s) :
    ResOk (execFcmpUn d a p b s) :=
  fpPick_res h

theorem execFclass_res {d a : BitVec 7} {p : BitVec 2} {s : State} (h : Canon s) : ResOk (execFclass d a p s) :=
  issue_res h fun _ => (readReg_sat h).bind fun _ h2 => writeLate_sat h2

theorem execFaddSCompact_res {a b : BitVec 5} {s : State} (h : Canon s) : ResOk (execFaddSCompact a b s) := fp2_res h

theorem execFmulSCompact_res {a b : BitVec 5} {s : State} (h : Canon s) : ResOk (execFmulSCompact a b s) := fp2_res h

theorem fcvtOp_res {d a dst src w rm : Nat} {s : State} (h : Canon s) : ResOk (fcvtOp d a dst src w rm s) :=
  issue_res h fun _ => (readReg_sat h).bind fun _ h =>
    writeLate_sat (Canon.of_mem (h.of_mem (drawFor_mem ..)) (flag_mem ..))

theorem execFcvt_res {d a : BitVec 7} {t u : BitVec 3} {w : BitVec 1} {s : State} (h : Canon s) :
    ResOk (execFcvt d a t u w s) :=
  fcvtOp_res h

theorem execFcvtRtz_res {d a : BitVec 7} {t u : BitVec 3} {w : BitVec 1} {s : State} (h : Canon s) :
    ResOk (execFcvtRtz d a t u w s) :=
  fcvtOp_res h

theorem execFcvtSr_res {d a : BitVec 7} {t u : BitVec 3} {w : BitVec 1} {s : State} (h : Canon s) :
    ResOk (execFcvtSr d a t u w s) :=
  fcvtOp_res h

/-! ### The functions of `Machine/Fetch.lean` -/

theorem fetchPlace_sat {s : State} {tid va : Nat} (h : Canon s) : Sat (fetchPlace s tid va) fun p => Canon p.2.2 := by
  unfold fetchPlace
  refine Sat.ite (fun _ => ?_) fun _ => ?_
  · simp
  · split
    · next e2 =>
        have h2 := (xlPlaceAt_sat h).of_error e2
        simpa using h2
    · next e2 =>
        have h2 := (xlPlaceAt_sat h).of_ok e2
        refine Sat.ite (fun _ => ?_) fun _ => ?_
        · simp
        · refine Sat.ite (fun _ => ?_) fun _ => ?_
          · simp
          · simpa using h2
    · next e2 =>
        have h2 := (xlPlaceAt_sat h).of_ok e2
        simp

theorem fillBlock_sat {s : State} {tid va : Nat} (h : Canon s) : Sat (fillBlock s tid va) fun p => Canon p.2 := by
  unfold fillBlock
  refine (fetchPlace_sat h).bind fun _ h1 => ?_
  split
  dsimp only
  split
  · simpa using h1
  · refine Sat.ite (fun _ => ?_) fun _ => ?_
    · exact waitTok_sat
    · refine Sat.ite (fun _ => ?_) fun _ => ?_
      · simp
      · split
        · simp
        · next e7 =>
            have h7 := peerTaken_or_self h1 e7
            split
            · simp
            · refine Sat.ite (fun _ => ?_) fun _ => ?_
              · simpa using h7
              · refine Sat.ite (fun _ => ?_) fun _ => ?_
                · simpa using h7
                · simpa using h7

theorem fetchBlock_sat {s : State} {tid va : Nat} (h : Canon s) : Sat (fetchBlock s tid va) fun p => Canon p.2 := by
  unfold fetchBlock
  split
  · simpa using h
  · exact fillBlock_sat h

theorem fetchParcel_sat {s : State} {tid va : Nat} (h : Canon s) : Sat (fetchParcel s tid va) fun p => Canon p.2 :=
  (fetchBlock_sat h).bind fun _ h1 => by simpa using h1

theorem fetchParcels_sat {s : State} {tid va n : Nat} (h : Canon s) :
    Sat (fetchParcels s tid va n) fun p => Canon p.2 := by
  induction n generalizing s va with
  | zero => exact h
  | succ n ih => exact (fetchParcel_sat h).bind fun _ h => (ih h).bind fun _ h => h

theorem fetchInsn_sat {s : State} {tid : Nat} (h : Canon s) : Sat (fetchInsn s tid) fun p => Canon p.2.2 :=
  (fetchParcel_sat h).bind fun _ h1 => (fetchParcels_sat h1).bind fun _ h2 => by simpa using h2

/-! ### The functions of `Machine/Riscv.lean` -/

@[simp] theorem runPair_mem (s : State) (cp : Nat) : (runPair s cp).mem = s.mem := by
  unfold runPair
  dsimp only
  repeat' split
  all_goals simp

@[simp] theorem runPairs_mem (s : State) : (runPairs s).mem = s.mem :=
  foldl_mem _ _ fun _ _ => by simp -implicitDefEqProofs

/-! ### The functions of `Machine/Sched.lean` -/

@[simp] theorem stallCluster_mem (s : State) (cl : Nat) : (stallCluster s cl).mem = s.mem := by
  unfold stallCluster
  dsimp only
  repeat' split
  all_goals simp -implicitDefEqProofs

theorem tick_canon {s : State} (h : Canon s) : Canon (tick s) := by
  unfold tick
  simpa using tryWrites_canon (by simpa using h)

/-- What the dispatch of a step hands on: an instruction with the state to run it from, or the next state. -/
def HandsOn : (Instr × State) ⊕ State → Prop
  | .inl p => Canon p.2
  | .inr t => Canon t

theorem HandsOn.of_inl {x : (Instr × State) ⊕ State} {i : Instr} {t : State} (h : HandsOn x) (e : x = .inl (i, t)) :
    Canon t := by
  rw [e] at h; exact h

theorem HandsOn.of_inr {x : (Instr × State) ⊕ State} {t : State} (h : HandsOn x) (e : x = .inr t) : Canon t := by
  rw [e] at h; exact h

theorem endTurn_canon {s : State} (h : Canon s) : Canon s.endTurn := h

theorem noteStall_canon {s : State} {tid : Nat} {c : Cause} (h : Canon s) : Canon (s.noteStall tid c) := h

/-! ### The functions of `Machine/Fetch.lean` -/

theorem shadowInstr_handsOn {s : State} {u : Turn} (h : Canon s) : HandsOn (shadowInstr s u) := by
  unfold shadowInstr
  split
  · exact endTurn_canon h
  · split
    · exact h
    · exact endTurn_canon (h.of_mem (shadowDone_mem ..))

theorem turnInstr_handsOn {s : State} {u : Turn} (h : Canon s) : HandsOn (turnInstr s u) := by
  unfold turnInstr
  dsimp only
  split
  · exact shadowInstr_handsOn h
  split
  · exact endTurn_canon (h.of_mem (haltTask_mem ..))
  · split
    · exact h
    · next e => exact endTurn_canon (noteStall_canon ((fetchInsn_sat h).of_error e s h))
    · next e => exact endTurn_canon ((fetchInsn_sat h).of_error e s h)
    · next e =>
      have ht := (fetchInsn_sat h).of_ok e
      split
      · exact ht
      · exact ht

/-! ### The functions of `Machine/Sched.lean` -/

theorem takeInput_handsOn {s : State} (h : Canon s) : HandsOn (takeInput s) := by
  unfold takeInput
  split
  case h_8 => exact dropLink_canon h
  case h_12 => split <;> exact h
  all_goals simpa [HandsOn] using h

theorem nextEvent_handsOn {s : State} (h : Canon s) : HandsOn (nextEvent s) := by
  have hfree : Canon s.free.2.free.2 := h
  unfold nextEvent
  dsimp only
  split
  · exact hfree
  · split
    · exact takeInput_handsOn hfree
    · exact tick_canon hfree
    · exact hfree

/-! ### The functions of `Machine/Dispatch.lean` -/

/-- Every instruction and every event keeps the form: one lemma per arm of `exec`. -/
theorem exec_res {i : Instr} {s : State} (h : Canon s) : ResOk (exec i s) :=
  match i with
  | .add .. => execAdd_res h
  | .sub .. => execSub_res h
  | .slt .. => execSlt_res h
  | .sltu .. => execSltu_res h
  | .and .. => execAnd_res h
  | .or .. => execOr_res h
  | .xor .. => execXor_res h
  | .sel .. => execSel_res h
  | .sll .. => execSll_res h
  | .srl .. => execSrl_res h
  | .sra .. => execSra_res h
  | .clz .. => execClz_res h
  | .ctz .. => execCtz_res h
  | .popc .. => execPopc_res h
  | .mul .. => execMul_res h
  | .mulh .. => execMulh_res h
  | .mulhu .. => execMulhu_res h
  | .div .. => execDiv_res h
  | .divu .. => execDivu_res h
  | .rem .. => execRem_res h
  | .remu .. => execRemu_res h
  | .min .. => execMin_res h
  | .max .. => execMax_res h
  | .minu .. => execMinu_res h
  | .maxu .. => execMaxu_res h
  | .lih .. => execLih_res h
  | .addi .. => execAddi_res h
  | .aadd .. => execAadd_res h
  | .pget .. => execPget_res h
  | .bfx .. => execBfx_res h
  | .bfi .. => execBfi_res h
  | .aaddi .. => execAaddi_res h
  | .pfmt .. => execPfmt_res h
  | .slli .. => execSlli_res h
  | .srli .. => execSrli_res h
  | .srai .. => execSrai_res h
  | .andi .. => execAndi_res h
  | .ori .. => execOri_res h
  | .xori .. => execXori_res h
  | .slti .. => execSlti_res h
  | .xadd .. => execXadd_res h
  | .xsub .. => execXsub_res h
  | .xmul .. => execXmul_res h
  | .xmax .. => execXmax_res h
  | .xmin .. => execXmin_res h
  | .xdotB .. => execXdotB_res h
  | .fadd .. => execFadd_res h
  | .fsub .. => execFsub_res h
  | .fmul .. => execFmul_res h
  | .ffma .. => execFfma_res h
  | .fdiv .. => execFdiv_res h
  | .fsqrt .. => execFsqrt_res h
  | .fmin .. => execFmin_res h
  | .fmax .. => execFmax_res h
  | .fcmpEq .. => execFcmpEq_res h
  | .fcmpLt .. => execFcmpLt_res h
  | .fcmpLe .. => execFcmpLe_res h
  | .fcmpUn .. => execFcmpUn_res h
  | .fclass .. => execFclass_res h
  | .fcvt .. => execFcvt_res h
  | .fcvtRtz .. => execFcvtRtz_res h
  | .fcvtSr .. => execFcvtSr_res h
  | .beq .. => execBeq_res h
  | .bne .. => execBne_res h
  | .blt .. => execBlt_res h
  | .bge .. => execBge_res h
  | .bltu .. => execBltu_res h
  | .bgeu .. => execBgeu_res h
  | .jalr .. => execJalr_res h
  | .beqz .. => execBeqz_res h
  | .bnez .. => execBnez_res h
  | .jal .. => execJal_res h
  | .ldb .. => execLdb_res h
  | .ldbu .. => execLdbu_res h
  | .ldh .. => execLdh_res h
  | .ldhu .. => execLdhu_res h
  | .ldw .. => execLdw_res h
  | .ldwu .. => execLdwu_res h
  | .ldd .. => execLdd_res h
  | .stb .. => execStb_res h
  | .sth .. => execSth_res h
  | .stw .. => execStw_res h
  | .std .. => execStd_res h
  | .ldt .. => execLdt_res h
  | .stt .. => execStt_res h
  | .lda .. => execLda_res h
  | .strel .. => execStrel_res h
  | .fence .. => execFence_res h
  | .ifence => execIfence_res h
  | .pref .. => execPref_res h
  | .spamo .. => execSpamo_res h
  | .stash .. => execStash_res h
  | .unstash .. => execUnstash_res h
  | .wbk .. => execWbk_res h
  | .disc .. => execDisc_res h
  | .ubresv .. => execUbresv_res h
  | .ubmigr .. => execUbmigr_res h
  | .ldlk .. => execLdlk_res h
  | .stul .. => execStul_res h
  | .amo .. => execAmo_res h
  | .amof .. => execAmof_res h
  | .get .. => execGet_res h
  | .put .. => execPut_res h
  | .xcpy .. => execXcpy_res h
  | .xcpy2 .. => execXcpy2_res h
  | .swinit .. => execSwinit_res h
  | .swfut .. => execSwfut_res h
  | .spawn .. => execSpawn_res h
  | .spawnT .. => execSpawnT_res h
  | .spawnr .. => execSpawnr_res h
  | .touch .. => execTouch_res h
  | .touchT .. => execTouchT_res h
  | .touchp .. => execTouchp_res h
  | .wany .. => execWany_res h
  | .fnew .. => execFnew_res h
  | .resolve .. => execResolve_res h
  | .fpois .. => execFpois_res h
  | .cancel .. => execCancel_res h
  | .frel .. => execFrel_res h
  | .fstat .. => execFstat_res h
  | .yield => execYield_res h
  | .tend .. => execTend_res h
  | .wid .. => execWid_res h
  | .wfld .. => execWfld_res h
  | .bari .. => execBari_res h
  | .bara .. => execBara_res h
  | .barad .. => execBarad_res h
  | .barw .. => execBarw_res h
  | .msend .. => execMsend_res h
  | .mdone => execMdone_res h
  | .waitt .. => execWaitt_res h
  | .atset .. => execAtset_res h
  | .stream .. => execStream_res h
  | .vclaim .. => execVclaim_res h
  | .vrel => execVrel_res h
  | .vsetvl .. => execVsetvl_res h
  | .vld .. => execVld_res h
  | .vst .. => execVst_res h
  | .vlds .. => execVlds_res h
  | .vgath .. => execVgath_res h
  | .vscat .. => execVscat_res h
  | .vbcast .. => execVbcast_res h
  | .vext .. => execVext_res h
  | .vadd .. => execVadd_res h
  | .vsub .. => execVsub_res h
  | .vmul .. => execVmul_res h
  | .vfma .. => execVfma_res h
  | .vmin .. => execVmin_res h
  | .vmax .. => execVmax_res h
  | .vdiv .. => execVdiv_res h
  | .vsqrt .. => execVsqrt_res h
  | .vrsqrt .. => execVrsqrt_res h
  | .vrcp .. => execVrcp_res h
  | .vexp2 .. => execVexp2_res h
  | .vlog2 .. => execVlog2_res h
  | .vsin .. => execVsin_res h
  | .vtanh .. => execVtanh_res h
  | .vand .. => execVand_res h
  | .vor .. => execVor_res h
  | .vxor .. => execVxor_res h
  | .vshl .. => execVshl_res h
  | .vshr .. => execVshr_res h
  | .vcmp .. => execVcmp_res h
  | .vsel .. => execVsel_res h
  | .vcvt .. => execVcvt_res h
  | .vred .. => execVred_res h
  | .vscan .. => execVscan_res h
  | .vperm .. => execVperm_res h
  | .vquant d t a x q m k => @execVquant_res d t a x q m k s h
  | .vdeq d t a x q m k => @execVdeq_res d t a x q m k s h
  | .mxcfg .. => execMxcfg_res h
  | .trel .. => execTrel_res h
  | .mxstat .. => execMxstat_res h
  | .mxsub .. => execMxsub_res h
  | .mxsubc .. => execMxsubc_res h
  | .tldt .. => execTldt_res h
  | .tswap .. => execTswap_res h
  | .csrr .. => execCsrr_res h
  | .csrw .. => execCsrw_res h
  | .csrs .. => execCsrs_res h
  | .csrc .. => execCsrc_res h
  | .trap .. => execTrap_res h
  | .eret => execEret_res h
  | .brk c => @execBrk_res c s h
  | .nop => execNop_res h
  | .tlbw .. => execTlbw_res h
  | .tlbinv .. => execTlbinv_res h
  | .slotw .. => execSlotw_res h
  | .mapcl .. => execMapcl_res h
  | .capmk .. => execCapmk_res h
  | .pair .. => execPair_res h
  | .unpair .. => execUnpair_res h
  | .ckpt .. => execCkpt_res h
  | .pchk .. => execPchk_res h
  | .movCompact .. => execMovCompact_res h
  | .addCompact .. => execAddCompact_res h
  | .subCompact .. => execSubCompact_res h
  | .andCompact .. => execAndCompact_res h
  | .orCompact .. => execOrCompact_res h
  | .xorCompact .. => execXorCompact_res h
  | .sllCompact .. => execSllCompact_res h
  | .srlCompact .. => execSrlCompact_res h
  | .sraCompact .. => execSraCompact_res h
  | .mulCompact .. => execMulCompact_res h
  | .aaddCompact .. => execAaddCompact_res h
  | .sltCompact .. => execSltCompact_res h
  | .lddCompact .. => execLddCompact_res h
  | .stdCompact .. => execStdCompact_res h
  | .ldwCompact .. => execLdwCompact_res h
  | .jalrCompact .. => execJalrCompact_res h
  | .liCompact .. => execLiCompact_res h
  | .addiCompact .. => execAddiCompact_res h
  | .aaddiCompact .. => execAaddiCompact_res h
  | .slliCompact .. => execSlliCompact_res h
  | .srliCompact .. => execSrliCompact_res h
  | .sraiCompact .. => execSraiCompact_res h
  | .andiCompact .. => execAndiCompact_res h
  | .oriCompact .. => execOriCompact_res h
  | .xoriCompact .. => execXoriCompact_res h
  | .sltiCompact .. => execSltiCompact_res h
  | .lddG2Compact .. => execLddG2Compact_res h
  | .stdG2Compact .. => execStdG2Compact_res h
  | .ldwG2Compact .. => execLdwG2Compact_res h
  | .stwG2Compact .. => execStwG2Compact_res h
  | .beqzCompact .. => execBeqzCompact_res h
  | .bnezCompact .. => execBnezCompact_res h
  | .touchCompact .. => execTouchCompact_res h
  | .touchTCompact .. => execTouchTCompact_res h
  | .touchpCompact .. => execTouchpCompact_res h
  | .fstatCompact .. => execFstatCompact_res h
  | .frelCompact .. => execFrelCompact_res h
  | .tendCompact .. => execTendCompact_res h
  | .yieldCompact => execYieldCompact_res h
  | .widCompact .. => execWidCompact_res h
  | .movFromEpCompact .. => execMovFromEpCompact_res h
  | .movToEpCompact .. => execMovToEpCompact_res h
  | .movFromMpCompact .. => execMovFromMpCompact_res h
  | .movToMpCompact .. => execMovToMpCompact_res h
  | .faddSCompact .. => execFaddSCompact_res h
  | .fmulSCompact .. => execFmulSCompact_res h
  | .nopCompact => execNopCompact_res h
  | .brkCompact j => @execBrkCompact_res j s h
  | .li64 .. => execLi64_res h
  | .li64U .. => execLi64U_res h
  | .li64Hi .. => execLi64Hi_res h
  | .addiLong .. => execAddiLong_res h
  | .andiLong .. => execAndiLong_res h
  | .oriLong .. => execOriLong_res h
  | .xoriLong .. => execXoriLong_res h
  | .aaddiLong .. => execAaddiLong_res h
  | .sltiLong .. => execSltiLong_res h
  | .ldbLong .. => execLdbLong_res h
  | .ldbuLong .. => execLdbuLong_res h
  | .ldhLong .. => execLdhLong_res h
  | .ldhuLong .. => execLdhuLong_res h
  | .ldwLong .. => execLdwLong_res h
  | .ldwuLong .. => execLdwuLong_res h
  | .lddLong .. => execLddLong_res h
  | .stbLong .. => execStbLong_res h
  | .sthLong .. => execSthLong_res h
  | .stwLong .. => execStwLong_res h
  | .stdLong .. => execStdLong_res h
  | .prefLong .. => execPrefLong_res h
  | .jalLong .. => execJalLong_res h
  | .jalrLong .. => execJalrLong_res h
  | .beqzLong .. => execBeqzLong_res h
  | .bnezLong .. => execBnezLong_res h
  | .beqLong .. => execBeqLong_res h
  | .bneLong .. => execBneLong_res h
  | .bltLong .. => execBltLong_res h
  | .bgeLong .. => execBgeLong_res h
  | .bltuLong .. => execBltuLong_res h
  | .bgeuLong .. => execBgeuLong_res h
  | .mxsubLong .. => execMxsubLong_res h
  | .mxsubcLong .. => execMxsubcLong_res h
  | .mxcfgLong .. => execMxcfgLong_res h
  | .tldtLong .. => execTldtLong_res h
  | .getLong .. => execGetLong_res h
  | .putLong .. => execPutLong_res h
  | .xcpyLong .. => execXcpyLong_res h
  | .xcpy2Long .. => execXcpy2Long_res h
  | .spawnLong .. => execSpawnLong_res h
  | .spawnTLong .. => execSpawnTLong_res h
  | .spawnrLong .. => execSpawnrLong_res h
  | .spawnrTLong .. => execSpawnrTLong_res h
  | .vldLong .. => execVldLong_res h
  | .vstLong .. => execVstLong_res h
  | .vbcastLong .. => execVbcastLong_res h
  | .vfmaLong .. => execVfmaLong_res h
  | .illegalEncoding .. => execIllegalEncoding_res h
  | .instructionFetchFault .. => execInstructionFetchFault_res h
  | .faultMessage .. => execFaultMessage_res h
  | .cscWindowAccess .. => execCscWindowAccess_res h
  | .cscResume .. => execCscResume_res h
  | .cscKill .. => execCscKill_res h
  | .futFullReport .. => execFutFullReport_res h
  | .strmSlotReport .. => execStrmSlotReport_res h
  | .waitlimExpiry .. => execWaitlimExpiry_res h
  | .taskDispatch .. => execTaskDispatch_res h
  | .frameMove .. => execFrameMove_res h
  | .waitingLargeTask .. => execWaitingLargeTask_res h
  | .prefetchStart .. => execPrefetchStart_res h
  | .stealSweep .. => execStealSweep_res h
  | .stealRequest .. => execStealRequest_res h
  | .stealAnswer .. => execStealAnswer_res h
  | .terminationSweep .. => execTerminationSweep_res h
  | .launchRetirement .. => execLaunchRetirement_res h
  | .futureSpill .. => execFutureSpill_res h
  | .futureRequest .. => execFutureRequest_res h
  | .futureReply .. => execFutureReply_res h
  | .wakeMessage .. => execWakeMessage_res h
  | .waiterWake .. => execWaiterWake_res h
  | .mxeMma .. => execMxeMma_res h
  | .mxeLoad .. => execMxeLoad_res h
  | .mxeStore .. => execMxeStore_res h
  | .mxeZero .. => execMxeZero_res h
  | .mxeJobComplete .. => execMxeJobComplete_res h
  | .mxsubcCommand .. => execMxsubcCommand_res h
  | .tswapMatch .. => execTswapMatch_res h
  | .tswapComplete .. => execTswapComplete_res h
  | .xfePiece .. => execXfePiece_res h
  | .transferComplete .. => execTransferComplete_res h
  | .ldlkRetry .. => execLdlkRetry_res h
  | .transientRequest .. => execTransientRequest_res h
  | .requestForward .. => execRequestForward_res h
  | .tokenMessage .. => execTokenMessage_res h
  | .attemptTimeout .. => execAttemptTimeout_res h
  | .persistentRequest .. => execPersistentRequest_res h
  | .actMessage .. => execActMessage_res h
  | .deactMessage .. => execDeactMessage_res h
  | .doneMessage .. => execDoneMessage_res h
  | .eviction .. => execEviction_res h
  | .pageBind .. => execPageBind_res h
  | .linkReplay .. => execLinkReplay_res h
  | .linkFailed .. => execLinkFailed_res h
  | .dieCensus .. => execDieCensus_res h
  | .thermalReading .. => execThermalReading_res h
  | .messageArrival .. => execMessageArrival_res h
  | .messageResend .. => execMessageResend_res h
  | .messageReturn .. => execMessageReturn_res h
  | .sendAck .. => execSendAck_res h
  | .handlerStart .. => execHandlerStart_res h
  | .handlerTimeout .. => execHandlerTimeout_res h
  | .timeExchange .. => execTimeExchange_res h
  | .waittExpiry .. => execWaittExpiry_res h
  | .slotwWrite .. => execSlotwWrite_res h
  | .slotwLength .. => execSlotwLength_res h
  | .slotwFreeze .. => execSlotwFreeze_res h
  | .slotwThaw .. => execSlotwThaw_res h
  | .slotwSave .. => execSlotwSave_res h
  | .slotTableChange .. => execSlotTableChange_res h
  | .tlbFillRequest .. => execTlbFillRequest_res h
  | .tlbFillReply .. => execTlbFillReply_res h
  | .hubTlbFill .. => execHubTlbFill_res h
  | .remapComplete .. => execRemapComplete_res h
  | .retryReissue .. => execRetryReissue_res h
  | .correctedError .. => execCorrectedError_res h
  | .wordError .. => execWordError_res h
  | .threadError .. => execThreadError_res h
  | .coreError .. => execCoreError_res h
  | .clusterError .. => execClusterError_res h
  | .dieError .. => execDieError_res h
  | .heartbeat .. => execHeartbeat_res h
  | .heartbeatMissing .. => execHeartbeatMissing_res h
  | .coreRetirement .. => execCoreRetirement_res h
  | .dieReset .. => execDieReset_res h
  | .pairIntervalClose .. => execPairIntervalClose_res h
  | .pairCompare .. => execPairCompare_res h
  | .replayStallTimeout .. => execReplayStallTimeout_res h
  | .lockstepMismatch .. => execLockstepMismatch_res h
  | .firmwareRestart => execFirmwareRestart_res h
  | .kick .. => execKick_res h
  | .reserve .. => execReserve_res h
  | .qctlResume .. => execQctlResume_res h
  | .qctlAbandon .. => execQctlAbandon_res h
  | .queueMap .. => execQueueMap_res h
  | .packetRead .. => execPacketRead_res h
  | .nopPacket .. => execNopPacket_res h
  | .launchPacket .. => execLaunchPacket_res h
  | .launchPlacement .. => execLaunchPlacement_res h
  | .launchTimeout .. => execLaunchTimeout_res h
  | .waitPacket .. => execWaitPacket_res h
  | .waitEnd .. => execWaitEnd_res h
  | .signalPacket .. => execSignalPacket_res h
  | .copyPacket .. => execCopyPacket_res h
  | .copyComplete .. => execCopyComplete_res h
  | .linkPacket .. => execLinkPacket_res h
  | .timedPacket .. => execTimedPacket_res h
  | .timedExpiry .. => execTimedExpiry_res h
  | .fencePacket .. => execFencePacket_res h
  | .ctxCreate => execCtxCreate_res h
  | .ctxEnd => execCtxEnd_res h
  | .queueCreate => execQueueCreate_res h
  | .queueDestroy => execQueueDestroy_res h
  | .poolAdd => execPoolAdd_res h
  | .peerBind => execPeerBind_res h
  | .chipSet => execChipSet_res h
  | .preempt => execPreempt_res h
  | .srseedWrite .. => execSrseedWrite_res h
  | .frmWrite .. => execFrmWrite_res h
  | .eselWrite .. => execEselWrite_res h
  | .evrdWrite .. => execEvrdWrite_res h
  | .evfutWrite .. => execEvfutWrite_res h
  | .trtWrite .. => execTrtWrite_res h
  | .csrWrite .. => execCsrWrite_res h
  | .hostSnoop .. => execHostSnoop_res h
  | .hostMemAccess .. => execHostMemAccess_res h
  | .hostResponse .. => execHostResponse_res h
  | .hostLost => execHostLost_res h
  | .linkRetrain => execLinkRetrain_res h
  | .peerData .. => execPeerData_res h
  | .peerAck .. => execPeerAck_res h
  | .sessionOpen .. => execSessionOpen_res h
  | .sessionClose .. => execSessionClose_res h
  | .peerResend .. => execPeerResend_res h
  | .sessionTimeout .. => execSessionTimeout_res h
  | .powerLimitWrite .. => execPowerLimitWrite_res h
  | .shedThresholdWrite .. => execShedThresholdWrite_res h
  | .powerLimitShed => execPowerLimitShed_res h
  | .overtempPowerOff .. => execOvertempPowerOff_res h
  | .telemetryUpdate .. => execTelemetryUpdate_res h
  | .getVersion => execGetVersion_res h
  | .getCapabilities => execGetCapabilities_res h
  | .negotiateAlgorithms => execNegotiateAlgorithms_res h
  | .getDigests => execGetDigests_res h
  | .getCertificate .. => execGetCertificate_res h
  | .challenge .. => execChallenge_res h
  | .getMeasurements .. => execGetMeasurements_res h
  | .requestUpdate .. => execRequestUpdate_res h
  | .verifyComplete => execVerifyComplete_res h
  | .applyComplete => execApplyComplete_res h
  | .activateFirmware => execActivateFirmware_res h
  | .packageReset => execPackageReset_res h
  | .powerLoss => execPowerLoss_res h
  | .coreCycle .. => execCoreCycle_res h
  | .routerCycle .. => execRouterCycle_res h
  | .storeFifoDrain .. => execStoreFifoDrain_res h
  | .portAccessArrival .. => execPortAccessArrival_res h
  | .portReply .. => execPortReply_res h
  | .portTraceCopy .. => execPortTraceCopy_res h
  | .pageFutureSettle .. => execPageFutureSettle_res h
  | .ethernetPortChange .. => execEthernetPortChange_res h
  | .powerOn => execPowerOn_res h
  | .dieResetComplete .. => execDieResetComplete_res h

/-! ### The functions of `Machine/Step.lean` -/

theorem step_res {s : State} (h : Canon s) : ResOk (step s) := by
  unfold step
  split
  · next e =>
    split at e
    · exact exec_res ((turnInstr_handsOn h).of_inl e)
    · exact exec_res ((nextEvent_handsOn h).of_inl e)
  · next e =>
    split at e
    · exact (resOk_next _).2 ((turnInstr_handsOn h).of_inr e)
    · exact (resOk_next _).2 ((nextEvent_handsOn h).of_inr e)

/-- Settles O60: `step_res`, from the frame lemmas of the functions that write no memory and the lemmas that those
that do write it keep its form. -/
theorem memoryStaysCanonical : Obligations.MemoryStaysCanonical := by
  unfold Obligations.MemoryStaysCanonical
  exact fun s s' h e => step_res h s' e

end Sys2Proof.Proofs
end


section
namespace Sys2Proof.Proofs
open Sys2Proof.Machine Sys2Proof.Laws

/-! ### Plain accesses of the on-chip window (O16) -/

theorem length_toBytes (n : Nat) : ∀ w : Nat, (toBytes n w).length = n := by
  induction n with
  | zero => exact fun _ => rfl
  | succ n ih => exact fun w => congrArg (· + 1) (ih _)

theorem isWin_of_region {va : Nat} (h : va / 2^48 % 16 = 15) : isWin va = true := by
  rw [isWin, region, h]; rfl

/-- A window address that a plain part of the context's partition answers is that place (R25, R178). -/
theorem placeOf_window {s : State} {tid va n k o : Nat} {q : Part} (a : Acc) (hw : isWin va = true)
    (hp : winPlace s (clOfCore (s.task tid).core) (s.task tid).ctx va n = .ok (k, o)) (hc : coreAnswers s k va = .ok ())
    (hq : partOf (s.core k) (s.task tid).ctx = some q) (hm : q.mapping o = none) :
    placeOf s tid va n a = .ok (.win k o, s) := by
  simp only [placeOf, hw, hp, hc, hq, hm, Option.bind_some, bind, Except.bind, if_true]

/-- A window load that meets no store of its thread reads the partition (R217, R219). -/
theorem loadWin_clear {s : State} {tid k o n : Nat} (hn : 0 < n)
    (hs : ∀ i < n, newest (ownStores (s.task tid)) (.win k (o + i)) = none)
    (hu : (s.task tid).unacked.contains (k, o / 128) = false) :
    loadWin s tid k o n = .ok (uaBytes s k (s.task tid).ctx o n, dropEarly s tid) := by
  have hall : ((List.range n).map fun i => newest (ownStores (s.task tid)) (.win k (o + i))).all Option.isSome = false := by
    rw [List.all_eq_false]
    exact ⟨_, List.mem_map.mpr ⟨0, List.mem_range.mpr hn, rfl⟩, by rw [hs 0 hn]; exact Bool.false_ne_true⟩
  have hany : ((List.range n).map fun i => newest (ownStores (s.task tid)) (.win k (o + i))).any Option.isSome = false := by
    rw [List.any_eq_false]
    intro x hx
    obtain ⟨i, hi, rfl⟩ := List.mem_map.mp hx
    simp [hs i (List.mem_range.mp hi)]
  simp only [loadWin, hall, hany, hu, Bool.or_self, Bool.false_eq_true, if_false]

/-- Where no word of a range is poisoned, none of its words is found poisoned by itself. -/
theorem uaPoisonIn_word {s : State} {k ctx o n w : Nat} (h : uaPoisonIn s k ctx o n = none) (hw : w ∈ wordsOf o n) :
    uaPoisonIn s k ctx (8 * w) 1 = none := by
  have hone : wordsOf (8 * w) 1 = [w] := by simp [wordsOf]
  unfold uaPoisonIn at h ⊢
  split at h
  · simp only [Option.map_eq_none_iff, List.find?_eq_none] at h ⊢
    rw [hone]
    simpa using h w hw
  · rfl

theorem loadPlace_window {s s' : State} {tid k o va n : Nat} {bs : List Byte} (plain : Bool)
    (hl : loadWin s tid k o n = .ok (bs, s')) (hp : uaPoisonIn s k (s.task tid).ctx o n = none) :
    loadPlace s tid (.win k o) va n (plain := plain) = .ok (bs, s') := by
  have hf : ((wordsOf o n).find? fun w =>
      (uaPoisonIn s k (s.task tid).ctx (8 * w) 1).isSome && !winPending s tid k w) = none := by
    rw [List.find?_eq_none]
    intro w hw
    simp [uaPoisonIn_word hp hw]
  simp only [loadPlace, hl, hf]

theorem loadAny_window {s : State} {tid va : Nat} (n : Nat) (hw : isWin va = true) (hn : (s.task tid).pair = none) :
    loadAny s tid va n = loadOnce s tid va n true := by
  simp only [loadAny, hw, Bool.or_true, Bool.true_or, if_true, loadVa, hn, Option.isNone_none]

theorem uaBytes_part {s : State} {k ctx : Nat} {q : Part} (hq : partOf (s.core k) ctx = some q) (o n : Nat) :
    uaBytes s k ctx o n = (List.range n).map fun i => mget 0 (s.core k).ua (q.ua (o + i)) := by
  simp only [uaBytes, uaByte, hq]

/-- A window store of an unpaired thread enters its FIFO (R214, R245). -/
theorem pushStore_window {s : State} {tid va k o : Nat} {bs : List Byte} (hn : (s.task tid).pair = none)
    (hf : (s.task tid).fifo.length < 16) :
    pushStore s tid va { dest := .win k o, bytes := bs } =
      .ok ((s.storedAt va bs).modTask tid fun t => { t with fifo := t.fifo ++ [{ dest := .win k o, bytes := bs }] }) := by
  simp only [pushStore, hn, dropMet, if_neg (Nat.not_le.mpr hf)]

theorem storeAny_window {s : State} {tid va k o : Nat} {bs : List Byte} (hw : isWin va = true)
    (hh : (s.task tid).shadow = false) (hp : placeOf s tid va bs.length .wr = .ok (.win k o, s)) :
    storeAny s tid va bs = pushStore s tid va { dest := .win k o, bytes := bs } := by
  simp only [storeAny, hw, Bool.or_true, Bool.true_or, if_true, storeVa, hh, Bool.false_eq_true, if_false, hp, bind, Except.bind,
    storePlace]

theorem eaOf_zero (p : Word) : eaOf p 0 = p.toNat % 2^52 := by
  simp [eaOf, vaOf, bits]

theorem checkPtr_aligned {p : Word} {va n : Nat} (hp : p.toNat / 2^52 % 8 = 0) (ha : va % n = 0) : checkPtr p va n = .ok () := by
  have hb : ptrBad p = false := by
    show (p.toNat / 2^52 % 8 != 0) = false
    rw [hp]; rfl
  simp [checkPtr, hb, ha, pure, Except.pure]

/-- The address of a plain access without an offset, through a register that is there (R240-R242). -/
theorem plainAddr_zero {s : State} {tid a n : Nat} (h : Names1 s tid a) (hp : (Reads s tid a).toNat / 2^52 % 8 = 0)
    (ha : (Reads s tid a).toNat % 2^52 % n = 0) : plainAddr s tid a 0 n = .ok ((Reads s tid a).toNat % 2^52, s) := by
  simp only [plainAddr, readReg_names h, bind, Except.bind, eaOf_zero, checkPtr_aligned hp ha]

theorem exec_std (d a o : BitVec 7) (s : State) : exec (.std d a o) s = storeOp 4 d.toNat a.toNat (scaledOff o 8) 8 s := rfl

@[simp] theorem storedAt_task (s : State) (va : Nat) (bs : List Byte) (o : Nat) : (s.storedAt va bs).task o = s.task o := rfl

/-- The note of a stored value, which a pair's fingerprint takes, is over with the turn (R402). -/
theorem done_storedAt (s : State) (va : Nat) (bs : List Byte) (tid : Nat) (g : Task → Task) (y : Bool) (f : Regs → Regs) :
    done ((s.storedAt va bs).modTask tid g) tid y f = done (s.modTask tid g) tid y f := rfl

/-- Settles O16: the address is its place in the partition; a load reads the partition's bytes there, and a store is
appended to the FIFO. -/
theorem windowAccess : Obligations.WindowAccess := by
  refine ⟨?_, ?_⟩
  · intro s tid va n k o q hn hr
    dsimp only
    intro hp hc hq hm hd hs hu h0
    have hw := isWin_of_region hr
    have hl := loadPlace_window (va := va) true (loadWin_clear h0 hs hu) hd
    rw [loadAny_window n hw hn]
    simp only [loadOnce, placeOf_window .rd hw hp hc hq hm, hl, bind, Except.bind, uaBytes_part hq]
  · intro s tid k o q d a hI hN t p va bytes hr hb ha hp hc hq hm hf
    have ⟨_, hpair, hshadow⟩ := hI
    have hD := hN d.toNat (by simp)
    have hA := hN a.toNat (by simp)
    have hw := isWin_of_region hr
    have hplace : placeOf s tid va bytes.length .wr = .ok (.win k o, s) :=
      placeOf_window .wr hw (by rw [length_toBytes]; exact hp) hc hq hm
    have hstore := (storeAny_window hw hshadow hplace).trans (pushStore_window hpair hf)
    have hO : Opens s tid [.src d.toNat, .src a.toNat] := ⟨hI, by simp [Fits, hD, hA]⟩
    rw [exec_std, storeOp, issue_ok (k := .plain) (s' := (s.storedAt va bytes).modTask tid _) hO nofun ?_ ?_, done_storedAt]
    · rfl
    · simp only [readReg_names hD, bind, Except.bind]
      rw [show scaledOff (0 : BitVec 7) 8 = 0 from rfl, plainAddr_zero hA hb ha]
      exact hstore
    · rw [task_modTask, storedAt_task]
      exact hpair

end Sys2Proof.Proofs
end

section
namespace Sys2Proof.Proofs
open Sys2Proof.Machine Sys2Proof.Laws

/-! ### Launches and queues under a change of one of them -/

theorem launchOf_modLaunch (s : State) (l : Nat) (f : Launch → Launch) :
    launchOf (s.modLaunch l f) l = (launchOf s l).map f := by
  unfold launchOf State.modLaunch
  split
  · next x hx => rw [hx]; exact mfind_mset _ _ _
  · next hx => rw [hx]; rfl

theorem launchOf_modLaunch_ne (s : State) {l m : Nat} (f : Launch → Launch) (h : m ≠ l) :
    launchOf (s.modLaunch l f) m = launchOf s m := by
  unfold launchOf State.modLaunch
  split
  · exact mfind_mset_ne _ _ h
  · rfl

theorem mfind_modQueue (s : State) (q : Nat) (f : Queue → Queue) :
    mfind (s.modQueue q f).queues q = (mfind s.queues q).map f := by
  unfold State.modQueue
  split
  · next x hx => rw [hx]; exact mfind_mset _ _ _
  · next hx => rw [hx]; rfl

/-- A map changed at every entry by its key finds the changed entry. -/
theorem mfind_map_entries {V W : Type} (g : Nat × V → W) (m : FMap V) (k : Nat) :
    mfind (m.map fun e => (e.1, g e)) k = (mfind m k).map fun v => g (k, v) := by
  induction m with
  | nil => rfl
  | cons e r ih =>
    obtain ⟨j, v⟩ := e
    simp only [List.map_cons, mfind]
    split
    · next h => subst h; rfl
    · split
      · rfl
      · exact ih

/-! ### The fate of launches: what tasks that end, and contexts that thaw, leave alone -/

/-- How far each launch has come and whether it was abandoned, and the queues. -/
def fate (s : State) : (Nat → Option (LState × Option Nat)) × FMap Queue :=
  (fun l => (launchOf s l).map fun x => (x.st, x.abandon), s.queues)

theorem fate_launch {s t : State} (h : fate s = fate t) (l : Nat) :
    (launchOf s l).map (fun x => (x.st, x.abandon)) = (launchOf t l).map fun x => (x.st, x.abandon) :=
  congrFun (congrArg Prod.fst h) l

theorem fate_queues {s t : State} (h : fate s = fate t) : s.queues = t.queues := congrArg Prod.snd h

/-- A change of a launch that keeps its state and its abandonment. -/
theorem fate_modLaunch {s : State} {l : Nat} {f : Launch → Launch} (h : ∀ x, ((f x).st, (f x).abandon) = (x.st, x.abandon)) :
    fate (s.modLaunch l f) = fate s := by
  refine Prod.ext (funext fun m => ?_) (modLaunch_queues s l f)
  show (launchOf (s.modLaunch l f) m).map _ = (launchOf s m).map _
  by_cases hm : m = l
  · subst hm
    rw [launchOf_modLaunch, Option.map_map]
    exact congrFun (congrArg Option.map (funext h)) _
  · rw [launchOf_modLaunch_ne _ _ hm]

/-- A change of every launch that keeps their states and abandonments. -/
theorem fate_mapLaunches {s : State} {g : Nat × Launch → Launch}
    (h : ∀ e, ((g e).st, (g e).abandon) = (e.2.st, e.2.abandon)) :
    fate { s with launches := s.launches.map fun e => (e.1, g e) } = fate s := by
  refine Prod.ext (funext fun m => ?_) rfl
  show (mfind (s.launches.map fun e => (e.1, g e)) m).map _ = (mfind s.launches m).map _
  rw [mfind_map_entries, Option.map_map]
  exact congrFun (congrArg Option.map (funext fun x => h (m, x))) _

@[simp] theorem fate_setCore (s : State) (k : Nat) (c : Core) : fate (s.setCore k c) = fate s := rfl
@[simp] theorem fate_modCore (s : State) (k : Nat) (f : Core → Core) : fate (s.modCore k f) = fate s := rfl
@[simp] theorem fate_modCluster (s : State) (k : Nat) (f : Cluster → Cluster) : fate (s.modCluster k f) = fate s := rfl
@[simp] theorem fate_modTask (s : State) (t : Nat) (f : Task → Task) : fate (s.modTask t f) = fate s := rfl
@[simp] theorem fate_modNet (s : State) (f : Net → Net) : fate (s.modNet f) = fate s := rfl
@[simp] theorem fate_modHub (s : State) (f : Hub → Hub) : fate (s.modHub f) = fate s := rfl

@[simp] theorem fate_foldl {A : Type} {g : State → A → State} (l : List A) (s : State) (h : ∀ s a, fate (g s a) = fate s) :
    fate (l.foldl g s) = fate s := foldl_keeps fate l s h

@[simp] theorem fate_ite (c : Prop) [Decidable c] (s t : State) : fate (if c then s else t) = if c then fate s else fate t :=
  apply_ite fate c s t

/-! ### A task that ends (R297, R308, R392) -/

@[simp] theorem fate_settle (s : State) (cl : Nat) (f : Fut) (st : FState) (v : Word) (code : Code) (flags : BitVec 6) :
    fate (settle s cl f st v code flags) = fate s := rfl

@[simp] theorem fate_settleH (s : State) (h : Word) (st : FState) (v : Word) (code : Code) (flags : BitVec 6) :
    fate (settleH s h st v code flags) = fate s := by
  unfold settleH
  split <;> simp

@[simp] theorem fate_resolveH (s : State) (h v : Word) (flags : BitVec 6) : fate (resolveH s h v flags) = fate s :=
  fate_settleH ..

@[simp] theorem fate_poisonH (s : State) (h : Word) (c : Code) : fate (poisonH s h c) = fate s := fate_settleH ..

@[simp] theorem fate_cancelH (s : State) (h : Word) : fate (cancelH s h) = fate s := fate_settleH ..

@[simp] theorem fate_onRange (s : State) (h : Word) (g : Fut → Fut) : fate (onRange s h g) = fate s := by
  unfold onRange
  split <;> simp [rangePut]

@[simp] theorem fate_rangeCount (s : State) (h : Word) (e : End) (flags : BitVec 6) :
    fate (rangeCount s h e flags) = fate s := fate_onRange ..

/-- The root's end is noted in its launch, and nothing else of the launch changes. -/
@[simp] theorem fate_settleEnd (s : State) (tid : Nat) (e : End) : fate (settleEnd s tid e) = fate s := by
  unfold settleEnd
  extract_lets t u
  have hu : fate u = fate s := by
    unfold u
    cases t.ends with
    | none => rfl
    | range h => exact fate_rangeCount ..
    | fut h => cases e <;> simp
  split
  · exact (fate_modLaunch fun x => by split <;> rfl).trans hu
  · exact hu

@[simp] theorem fate_holdSlot (s : State) (tid till : Nat) : fate (holdSlot s tid till) = fate s := by
  unfold holdSlot
  split <;> simp

@[simp] theorem fate_scrubSlot (s : State) (tid : Nat) : fate (scrubSlot s tid) = fate s := fate_holdSlot ..

@[simp] theorem fate_freeSlot (s : State) (tid : Nat) : fate (freeSlot s tid) = fate s := by
  unfold freeSlot
  split <;> simp

@[simp] theorem fate_closeLink (s : State) (tid : Nat) : fate (closeLink s tid) = fate s := by
  unfold closeLink
  split <;> simp

@[simp] theorem fate_finishTask (s : State) (tid : Nat) (p : Phase) : fate (finishTask s tid p) = fate s := by
  simp [finishTask]

@[simp] theorem fate_unrecord (s : State) (cl : Nat) (h : Word) : fate (unrecord s cl h) = fate s := by simp [unrecord]

@[simp] theorem fate_withdraw (s : State) (tid : Nat) : fate (withdraw s tid) = fate s :=
  fate_foldl _ _ fun _ _ => fate_unrecord ..

@[simp] theorem fate_dropEntry (s : State) (tid : Nat) : fate (dropEntry s tid) = fate s := rfl

@[simp] theorem fate_clearLocks (s : State) (tid : Nat) : fate (clearLocks s tid) = fate s := rfl

@[simp] theorem fate_endTask (s : State) (tid : Nat) (e : End) : fate (endTask s tid e) = fate s := by simp [endTask]

@[simp] theorem fate_endShadow (s : State) (tid : Nat) : fate (endShadow s tid) = fate s := by
  unfold endShadow
  split <;> simp

@[simp] theorem fate_killTask (s : State) (tid : Nat) (c : Code) : fate (killTask s tid c) = fate s := by
  unfold killTask
  split
  · rfl
  · split <;> simp

/-! ### A launch that is abandoned (R361) -/

@[simp] theorem fate_dropLaunchRanges (s : State) (l : Nat) : fate (dropLaunchRanges s l) = fate s :=
  fate_foldl _ _ fun _ _ => fate_onRange ..

@[simp] theorem fate_cancelSink (s : State) (x : Sink) : fate (cancelSink s x) = fate s := by
  cases x <;> simp [cancelSink]

@[simp] theorem fate_abandonCluster (s : State) (l cl : Nat) : fate (abandonCluster s l cl) = fate s := by
  simp [abandonCluster]

/-- All that abandoning a launch does to launches' fates is to note its status in that one. -/
theorem fate_abandonLaunch {s : State} {l : Nat} {x : Launch} (status : Nat) (hx : launchOf s l = some x)
    (ha : x.abandon = none) (hr : x.st ≠ .retired) :
    fate (abandonLaunch s l status) = fate (s.modLaunch l fun x => { x with abandon := some status }) := by
  have hf : mfind s.launches l = some x := hx
  simp [abandonLaunch, hf, ha, hr]

theorem abandonLaunch_abandon {s : State} {l : Nat} {x : Launch} (status : Nat) (hx : launchOf s l = some x)
    (ha : x.abandon = none) (hr : x.st ≠ .retired) :
    ∃ y, launchOf (abandonLaunch s l status) l = some y ∧ y.abandon = some status := by
  have hf := fate_launch (fate_abandonLaunch status hx ha hr) l
  rw [launchOf_modLaunch, hx] at hf
  obtain ⟨y, hy, he⟩ := Option.map_eq_some_iff.mp hf
  exact ⟨y, hy, congrArg Prod.snd he⟩

/-! ### A pre-emption that ends (R382) -/

@[simp] theorem fate_slotWrite (s : State) (k idx : Nat) (v : BitVec 16) : fate (slotWrite s k idx v).2 = fate s := by
  unfold slotWrite
  dsimp only
  repeat' split
  all_goals rfl

theorem fate_makeRoom {s t : State} {k ctx : Nat} (e : makeRoom s k ctx = some t) : fate t = fate s := by
  unfold makeRoom at e
  dsimp only at e
  split at e
  · cases e; rfl
  · split at e <;> cases e
    rfl

theorem fate_pushReady {s t : State} {tid : Nat} (e : pushReady s tid = some t) : fate t = fate s := by
  obtain ⟨u, hu, rfl⟩ := Option.map_eq_some_iff.mp e
  exact (fate_makeRoom hu :)

theorem fate_backInHandlerSlot {s t : State} {tid : Nat} (e : backInHandlerSlot s tid = some t) : fate t = fate s := by
  obtain ⟨i, _, rfl⟩ := Option.map_eq_some_iff.mp e
  rfl

@[simp] theorem fate_pushSaved (s : State) (k : Nat) : fate (pushSaved s k) = fate s := by
  refine fate_foldl _ _ fun s t => ?_
  split
  · cases e : backInHandlerSlot s t with
    | none => rfl
    | some u => exact fate_backInHandlerSlot e
  · cases e : pushReady (s.modTask t fun x => { x with saved := false }) t with
    | none => rfl
    | some u => exact (fate_pushReady e :)

@[simp] theorem fate_modClaim (s : State) (tid : Nat) (f : Claim → Claim) : fate (s.modClaim tid f) = fate s := rfl

@[simp] theorem fate_settleMark (s : State) (cl : Nat) : fate (settleMark s cl) = fate s := by
  unfold settleMark
  split <;> simp

@[simp] theorem fate_grantGroups (s : State) (tid n : Nat) : fate (grantGroups s tid n) = fate s := by
  unfold grantGroups
  dsimp only
  split
  · rfl
  · split <;> rfl

@[simp] theorem fate_makeFrame (s : State) (cl : Nat) : fate (makeFrame s cl) = fate s := by
  unfold makeFrame
  split
  · rfl
  · split <;> rfl

@[simp] theorem fate_free (s : State) : fate s.free.2 = fate s := rfl

@[simp] theorem fate_frameClaim (s : State) (tid : Nat) (c : Claim) (n : Nat) : fate (frameClaim s tid c n) = fate s := by
  simp [frameClaim]

@[simp] theorem fate_regainClaim (s : State) (tid : Nat) : fate (regainClaim s tid) = fate s := by
  unfold regainClaim resumeClaim
  split
  · split
    · split <;> simp
    · rfl
  · rfl

/-- Launches in replay count their time from the thaw; nothing else of them changes (R413). -/
@[simp] theorem fate_thawCtx (s : State) (k ctx : Nat) : fate (thawCtx s k ctx).2 = fate s := by
  unfold thawCtx
  split
  · rfl
  · exact (fate_foldl _ _ fun _ _ => fate_regainClaim ..).trans
      ((fate_mapLaunches fun e => by split <;> rfl).trans (fate_pushSaved _ k))

@[simp] theorem fate_endPreempt (s : State) (p : Preempt) : fate (endPreempt s p) = fate s := by simp [endPreempt]

@[simp] theorem fate_endPreempts (s : State) (q : Nat) : fate (endPreempts s q) = fate s := by simp [endPreempts]

/-! ### Retirement (R20, R360) -/

@[simp] theorem launchOf_modQueue (s : State) (q l : Nat) (f : Queue → Queue) : launchOf (s.modQueue q f) l = launchOf s l :=
  congrArg (mfind · l) (modQueue_launches s q f)

/-- The end of a launch leaves its launch retired and off its queue's list, whatever came before. -/
theorem fate_endLaunch (s : State) (l : Nat) (x : Launch) :
    ∃ t : State, fate (endLaunch s l x) = fate ((t.modLaunch l fun x => { x with st := .retired }).modQueue x.queue
      fun q => { q with live := q.live.filter (· ≠ l) }) :=
  ⟨_, fate_endPreempts _ _⟩

theorem endLaunch_st {s : State} {l : Nat} {x y : Launch} (h : launchOf (endLaunch s l x) l = some y) : y.st = .retired := by
  obtain ⟨t, ht⟩ := fate_endLaunch s l x
  have hf := fate_launch ht l
  rw [h, launchOf_modQueue, launchOf_modLaunch, Option.map_map] at hf
  obtain ⟨z, _, hz⟩ := Option.map_eq_some_iff.mp hf.symm
  exact (congrArg Prod.fst hz).symm

theorem endLaunch_live {s : State} {l : Nat} {x : Launch} {q : Queue} (h : mfind (endLaunch s l x).queues x.queue = some q) :
    l ∉ q.live := by
  obtain ⟨t, ht⟩ := fate_endLaunch s l x
  rw [fate_queues ht, mfind_modQueue] at h
  obtain ⟨r, _, rfl⟩ := Option.map_eq_some_iff.mp h
  simp

theorem exec_launchRetirement (l : Nat) (s : State) : exec (.launchRetirement l) s = execLaunchRetirement l s := rfl

/-- A complete launch, its release done, that asks for no record ends at once. -/
theorem execLaunchRetirement_ready {s : State} {l : Nat} {x : Launch} (hx : launchOf s l = some x) (hst : x.st = .running)
    (hc : x.complete = true) (hi : launchIdle s l x = true) (hr : launchReleased s x = true) (ht : tracesCopied s l = true)
    (hw : x.w 11 = 0) (hm : recMode s (some l) ≠ 1) (hh : s.hub.restart = false) (ha : retiresAfter s x = false)
    (hs : strays s l x = false) (hcsc : ∀ y ∈ s.net.csc, y.ofLaunch l = false) :
    execLaunchRetirement l s = .next (endLaunch (raiseQueue s x.queue) l x) := by
  have hany : (s.net.csc.any fun y => y.ofLaunch l) = false := List.any_eq_false.mpr fun y hy => by simp [hcsc y hy]
  simp [execLaunchRetirement, hx, hst, hc, hi, hr, ht, hm, hh, ha, hs, hany, putRecord, hw]

theorem execLaunchRetirement_incomplete {s : State} {l : Nat} {x : Launch} (hx : launchOf s l = some x) (hst : x.st = .running)
    (hc : x.complete = false) : execLaunchRetirement l s = .next s := by
  simp [execLaunchRetirement, hx, hst, hc]

theorem execLaunchRetirement_restart {s : State} {l : Nat} {x : Launch} (hx : launchOf s l = some x)
    (hh : s.hub.restart = true) : execLaunchRetirement l s = .next s := by
  simp [execLaunchRetirement, hx, hh]

/-! ### The sweep of the termination tree (R20) -/

section
variable {V A : Type} [DecidableEq V] (d : V) (key : A → Nat) (val : FMap V → A → V)

theorem mrising_foldl_mput (as : List A) : ∀ m : FMap V, mrising m = true →
    mrising (as.foldl (fun t a => mput d t (key a) (val t a)) m) = true := by
  induction as with
  | nil => exact fun _ h => h
  | cons a as ih => exact fun m h => ih _ (mrising_mput d m _ _ h)

/-- Writes to other keys leave an entry as it is. -/
theorem mget_foldl_mput_ne {k : Nat} (as : List A) (hk : ∀ a ∈ as, key a ≠ k) : ∀ m : FMap V, mrising m = true →
    mget d (as.foldl (fun t a => mput d t (key a) (val t a)) m) k = mget d m k := by
  induction as with
  | nil => exact fun _ _ => rfl
  | cons a as ih =>
    obtain ⟨ha, hr⟩ := List.forall_mem_cons.mp hk
    exact fun m h => (ih hr _ (mrising_mput d m _ _ h)).trans (mget_mput_ne d d m _ h ha.symm)

/-- Values written under keys of their own, which do not depend on the map, are there at the end. -/
theorem mget_foldl_mput (v : A → V) (hinj : ∀ a b, key a = key b → a = b) (as : List A) (a : A) (ha : a ∈ as) :
    ∀ m : FMap V, mrising m = true → mget d (as.foldl (fun t a => mput d t (key a) (v a)) m) (key a) = v a := by
  induction as using List.reverseRecOn with
  | nil => exact absurd ha List.not_mem_nil
  | append_singleton as b ih =>
    intro m h
    have hr := mrising_foldl_mput d key (fun _ a => v a) as m h
    rw [List.foldl_append, List.foldl_cons, List.foldl_nil]
    by_cases e : a = b
    · subst e; exact mget_mput d _ _ _ hr
    · rw [mget_mput_ne d d _ _ hr fun hk => e (hinj a b hk)]
      exact ih ((List.mem_append.mp ha).resolve_right fun hb => e (List.mem_singleton.mp hb)) m h

end

/-- What the clusters report in a sweep. -/
def clusterSweep (s : State) (l : Nat) (x : Launch) : FMap Sweep :=
  (usedClusters s).foldl (fun t c =>
    mput {} t (9 + c) ((mget {} x.tree (9 + c)).next (clusterIdle s l x c) (clusterCount s l c))) []

/-- What the dies then report. -/
def dieSweep (s : State) (l : Nat) (x : Launch) : FMap Sweep :=
  (List.range 8).foldl (fun t d =>
    let mine := (usedClusters s).filter fun c => dieOfCl c = d
    mput {} t (1 + d) ((mget {} x.tree (1 + d)).next (mine.all fun c => (mget ({} : Sweep) t (9 + c)).runs == 2)
      (mine.map fun c => (mget ({} : Sweep) t (9 + c)).count).sum)) (clusterSweep s l x)

/-- What the package finds. -/
def rootSweep (s : State) (l : Nat) (x : Launch) : Sweep :=
  (mget {} x.tree 0).next (x.rootEnd.isSome && (List.range 8).all fun d => (mget ({} : Sweep) (dieSweep s l x) (1 + d)).runs == 2)
    ((List.range 8).map fun d => (mget ({} : Sweep) (dieSweep s l x) (1 + d)).count).sum

theorem sweepTree_eq (s : State) (l : Nat) (x : Launch) :
    sweepTree s l x = mput {} (dieSweep s l x) 0 (rootSweep s l x) := rfl

theorem mrising_clusterSweep (s : State) (l : Nat) (x : Launch) : mrising (clusterSweep s l x) = true :=
  mrising_foldl_mput ({} : Sweep) (9 + ·) _ _ _ rfl

theorem mrising_dieSweep (s : State) (l : Nat) (x : Launch) : mrising (dieSweep s l x) = true :=
  mrising_foldl_mput ({} : Sweep) (1 + ·) _ _ _ (mrising_clusterSweep s l x)

theorem sweepTree_root (s : State) (l : Nat) (x : Launch) : mget {} (sweepTree s l x) 0 = rootSweep s l x :=
  mget_mput _ _ _ _ (mrising_dieSweep s l x)

theorem sweepTree_ne_root (s : State) (l : Nat) (x : Launch) {i : Nat} (h : i ≠ 0) :
    mget {} (sweepTree s l x) i = mget {} (dieSweep s l x) i :=
  mget_mput_ne _ _ _ _ (mrising_dieSweep s l x) h

theorem sweepTree_die (s : State) (l : Nat) (x : Launch) (d : Nat) :
    mget {} (sweepTree s l x) (1 + d) = mget {} (dieSweep s l x) (1 + d) := sweepTree_ne_root s l x (by omega)

/-- The dies' sweeps leave what the clusters have reported. -/
theorem dieSweep_cluster {s : State} {l : Nat} {x : Launch} {cl : Nat} (h : cl ∈ usedClusters s) :
    mget {} (dieSweep s l x) (9 + cl) = (mget {} x.tree (9 + cl)).next (clusterIdle s l x cl) (clusterCount s l cl) := by
  have hd : mget {} (dieSweep s l x) (9 + cl) = mget {} (clusterSweep s l x) (9 + cl) :=
    mget_foldl_mput_ne ({} : Sweep) (1 + ·) _ _ (fun d hd => by have := List.mem_range.mp hd; omega) _
      (mrising_clusterSweep s l x)
  exact hd.trans (mget_foldl_mput ({} : Sweep) (9 + ·) _ (fun a b h => by simpa using h) _ cl h [] rfl)

/-- Two sweeps in a row have found a node's children idle: so has this one, with the count of the one before. -/
theorem sweepNext_runs_two {x : Sweep} {idle : Bool} {count : Nat} (h : (x.next idle count).runs = 2) :
    idle = true ∧ x.count = count := by
  unfold Sweep.next at h
  cases idle with
  | false => simp at h
  | true =>
    refine ⟨rfl, ?_⟩
    by_contra hne
    by_cases h0 : x.runs = 0 <;> simp [h0, hne] at h

theorem rootSweep_two {s : State} {l : Nat} {x : Launch} (h : (rootSweep s l x).runs = 2) :
    x.rootEnd.isSome = true ∧ (∀ d < 8, (mget ({} : Sweep) (dieSweep s l x) (1 + d)).runs = 2) ∧
      (mget {} x.tree 0).count = (rootSweep s l x).count := by
  obtain ⟨hi, hc⟩ := sweepNext_runs_two h
  rw [Bool.and_eq_true, List.all_eq_true] at hi
  exact ⟨hi.1, fun d hd => by simpa using hi.2 d (List.mem_range.mpr hd), hc⟩

theorem launchIdle_modLaunch (s : State) (k l : Nat) (f : Launch → Launch) (x : Launch) :
    launchIdle (s.modLaunch k f) l x = launchIdle s l x := by
  unfold State.modLaunch
  split <;> rfl

theorem launchDrained_modLaunch (s : State) (k l : Nat) (f : Launch → Launch) :
    launchDrained (s.modLaunch k f) l = launchDrained s l := by
  rw [launchDrained, modLaunch_tasks]; rfl

/-- The state with a launch's tree as a sweep leaves it. -/
def swept (s : State) (l : Nat) (t : FMap Sweep) : State := s.modLaunch l fun y => { y with tree := t }

/-- Completion is reported: the launch's stores are those that each die has accepted. -/
def reported (s : State) (l : Nat) : State :=
  s.fresh.2.modLaunch l fun x =>
    { x with complete := true, marks := s.dies.map fun e => (e.1, e.2.accepted)
             late := if s.hub.restart then some s.fresh.1 else none }

theorem exec_terminationSweep (l : Nat) (s : State) : exec (.terminationSweep l) s = execTerminationSweep l s := rfl

theorem execTerminationSweep_running {s : State} {l : Nat} {x : Launch} (hx : launchOf s l = some x) (hst : x.st = .running)
    (hc : x.complete = false) :
    execTerminationSweep l s = .next
      (if (rootSweep s l x).runs = 2 ∧ launchIdle s l x = true ∧ launchDrained s l = true then
        reported (swept s l (sweepTree s l x)) l
       else swept s l (sweepTree s l x)) := by
  have hgo : ¬(decide (x.st ≠ .running) || x.complete) = true := by simp [hst, hc]
  simp only [execTerminationSweep, hx, if_neg hgo, launchIdle_modLaunch, launchDrained_modLaunch, sweepTree_root,
    Bool.and_eq_true, decide_eq_true_eq, and_assoc]
  rfl

theorem execTerminationSweep_over {s : State} {l : Nat} {x : Launch} (hx : launchOf s l = some x)
    (h : ¬(x.st = .running ∧ x.complete = false)) : execTerminationSweep l s = .next s := by
  have hb : (decide (x.st ≠ .running) || x.complete) = true := by
    by_cases hst : x.st = .running <;> simp_all
  simp only [execTerminationSweep, hx, hb, if_true]

theorem launchOf_swept {s : State} {l : Nat} {x : Launch} (t : FMap Sweep) (hx : launchOf s l = some x) :
    ∃ y, launchOf (swept s l t) l = some y ∧ y.tree = t ∧ y.st = x.st ∧ y.complete = x.complete := by
  refine ⟨{ x with tree := t }, ?_, rfl, rfl, rfl⟩
  rw [swept, launchOf_modLaunch, hx]; rfl

theorem launchOf_reported {s : State} {l : Nat} {x : Launch} (hx : launchOf s l = some x) :
    ∃ y, launchOf (reported s l) l = some y ∧ y.tree = x.tree ∧ y.st = x.st ∧ y.complete = true ∧
      y.marks = s.dies.map fun e => (e.1, e.2.accepted) := by
  have hf : launchOf s.fresh.2 l = some x := hx
  refine ⟨{ x with complete := true, marks := s.dies.map fun e => (e.1, e.2.accepted)
                   late := if s.hub.restart then some s.fresh.1 else none }, ?_, rfl, rfl, rfl, rfl⟩
  rw [reported, launchOf_modLaunch, hf]; rfl

/-! ### Timeouts and replay (R361, R412, R413) -/

theorem exec_launchTimeout (l : Nat) (s : State) : exec (.launchTimeout l) s = execLaunchTimeout l s := rfl

theorem bits_high32 (v : Word) : bits v 63 32 = v.toNat / 2^32 := by
  have := v.isLt
  simp only [bits]
  omega

theorem execLaunchTimeout_past {s : State} {l : Nat} {x : Launch} (hx : launchOf s l = some x)
    (hu : (x.w 12).toNat / 2^32 ≠ 0) (hst : x.st ≠ .retired)
    (ht : x.readAt + nsCycles (1000 * ((x.w 12).toNat / 2^32)) ≤ s.cycle) :
    execLaunchTimeout l s = .next (abandonLaunch s l 5) := by
  simp only [execLaunchTimeout, hx, bits_high32]
  generalize (x.w 12).toNat / 2^32 = us at *
  simp [hu, hst, ht]

theorem execLaunchTimeout_before {s : State} {l : Nat} {x : Launch} (hx : launchOf s l = some x)
    (h : (x.w 12).toNat / 2^32 = 0 ∨ s.cycle < x.readAt + nsCycles (1000 * ((x.w 12).toNat / 2^32))) :
    execLaunchTimeout l s = .next s := by
  simp only [execLaunchTimeout, hx, bits_high32]
  generalize (x.w 12).toNat / 2^32 = us at *
  obtain h | h := h
  · simp [h]
  · simp [Nat.not_le.mpr h]

theorem exec_replayStallTimeout (l : Nat) (s : State) : exec (.replayStallTimeout l) s = execReplayStallTimeout l s := rfl

section
variable {s : State} {l : Nat} {x : Launch}

theorem execReplayStallTimeout_free (hx : launchOf s l = some x) (hm : recMode s (some l) ≠ 2) :
    execReplayStallTimeout l s = .next s := by
  simp [execReplayStallTimeout, hx, hm]

theorem execReplayStallTimeout_strayed {e : Nat × Nat × Word × Nat} (hx : launchOf s l = some x) (hm : recMode s (some l) = 2)
    (hst : x.st = .running) (he : x.strayed = some e) : execReplayStallTimeout l s = .next (divergeAt s l e) := by
  simp [execReplayStallTimeout, hx, hm, hst, he]

theorem execReplayStallTimeout_paused (hx : launchOf s l = some x) (hm : recMode s (some l) = 2) (hst : x.st = .running)
    (he : x.strayed = none) (hk : stalledTask s l x true = none) (hp : replayPaused s x = true) :
    execReplayStallTimeout l s = .next s := by
  simp [execReplayStallTimeout, hx, hm, hst, he, hk, hp]

/-- With no task to blame, the order that is overdue, if any, decides. -/
theorem execReplayStallTimeout_unit (hx : launchOf s l = some x) (hm : recMode s (some l) = 2) (hst : x.st = .running)
    (he : x.strayed = none) (hk : stalledTask s l x true = none) (hp : replayPaused s x = false) (ho : recOpen s 0 x = true)
    (ht : stalledTask s l x false = none) :
    execReplayStallTimeout l s = .next ((stalledUnit s l x).elim s (divergeAt s l)) := by
  cases hu : stalledUnit s l x <;> simp [execReplayStallTimeout, hx, hm, hst, he, hk, hp, ho, ht, hu]

theorem overdue_before {key : Nat} (h : s.cycle < x.recAt + nsCycles 10000000) : overdue s x key = false := by
  have := Nat.le_max_left x.recAt (mget 0 x.turnAt key)
  exact decide_eq_false (by omega)

end

/-- What a sweep of a launch that is not complete does: its tree is swept, and the package level may report completion. -/
theorem exec_terminationSweep_running {s : State} {l : Nat} {x : Launch} (hx : launchOf s l = some x) (hst : x.st = .running)
    (hc : x.complete = false) :
    ∃ s', exec (.terminationSweep l) s = .next s' ∧ s'.mem = s.mem ∧ s'.tasks = s.tasks ∧
      ∃ y, launchOf s' l = some y ∧ y.tree = sweepTree s l x ∧ y.st = .running ∧
        (y.complete = true ↔ (mget {} (sweepTree s l x) 0).runs = 2 ∧ launchIdle s l x = true ∧ launchDrained s l = true) ∧
        (y.complete = true → y.marks = s.dies.map fun e => (e.1, e.2.accepted)) := by
  rw [exec_terminationSweep, execTerminationSweep_running hx hst hc, sweepTree_root]
  obtain ⟨w, hw, hwt, hws, hwc⟩ := launchOf_swept (sweepTree s l x) hx
  refine ⟨_, rfl, ?_⟩
  split
  · next h =>
    obtain ⟨y, hy, hyt, hys, hyc, hym⟩ := launchOf_reported hw
    exact ⟨(modLaunch_mem ..).trans (modLaunch_mem ..), (modLaunch_tasks ..).trans (modLaunch_tasks ..), y, hy, hyt.trans hwt,
      hys.trans (hws.trans hst), iff_of_true hyc h, fun _ => by rw [hym, swept, modLaunch_dies]⟩
  · next h =>
    have hn : ¬ w.complete = true := by simp [hwc, hc]
    exact ⟨modLaunch_mem .., modLaunch_tasks .., w, hw, hwt, hws.trans hst, iff_of_false hn h, fun e => absurd e hn⟩

/-- Settles O42: a sweep by what `sweepTree` leaves at the root and the clusters, a retirement and an abandonment by the
fate that ending tasks and thawing contexts leave alone, and a replay by the order of its checks. -/
theorem launchEnds : Obligations.LaunchEnds := by
  intro s l x hx
  simp only [exec_launchRetirement, exec_launchTimeout, exec_replayStallTimeout]
  refine ⟨⟨fun ⟨hst, hc⟩ => exec_terminationSweep_running hx hst hc, fun cl hcl => ?_, fun h => ?_,
      fun h => execTerminationSweep_over hx h⟩,
    fun hst hc hi hr ht hw hm hh ha hs hcsc => ?_, execLaunchRetirement_incomplete hx, execLaunchRetirement_restart hx,
    ⟨fun hu hst ha ht => ?_, execLaunchTimeout_before hx⟩, execReplayStallTimeout_free hx, fun hm hst he hk => ?_,
    fun hm hst e he => execReplayStallTimeout_strayed hx hm hst he, fun key h => overdue_before h⟩
  · exact (sweepTree_ne_root s l x (by omega)).trans (dieSweep_cluster hcl)
  · simp only [sweepTree_root, sweepTree_die] at h ⊢
    exact rootSweep_two h
  · exact ⟨_, execLaunchRetirement_ready hx hst hc hi hr ht hw hm hh ha hs hcsc, fun y hy => endLaunch_st hy,
      fun q hq => endLaunch_live hq⟩
  · exact ⟨_, execLaunchTimeout_past hx hu hst ht, abandonLaunch_abandon 5 hx ha hst⟩
  · refine ⟨execReplayStallTimeout_paused hx hm hst he hk, fun hp ho ht => ?_⟩
    rw [execReplayStallTimeout_unit hx hm hst he hk hp ho ht]
    exact ⟨fun hu => by rw [hu]; rfl, fun e hu => by rw [hu]; rfl⟩

end Sys2Proof.Proofs
end

section
namespace Sys2Proof.Proofs
open Sys2Proof.Machine Sys2Proof.Laws

/-! ### Fields of a word (O58, O59) -/

theorem toNat_fld (w lo n : Nat) : (fld w lo n).toNat = w / 2^lo % 2^n := BitVec.toNat_ofNat ..

/-- What the decoder matches on, as fields: one line for each width that it uses. -/
theorem mod_eq_fld (w lo : Nat) :
    w / 2^lo % 2 = (fld w lo 1).toNat ∧
    w / 2^lo % 4 = (fld w lo 2).toNat ∧
    w / 2^lo % 8 = (fld w lo 3).toNat ∧
    w / 2^lo % 16 = (fld w lo 4).toNat ∧
    w / 2^lo % 32 = (fld w lo 5).toNat ∧
    w / 2^lo % 64 = (fld w lo 6).toNat ∧
    w / 2^lo % 128 = (fld w lo 7).toNat ∧
    w / 2^lo % 1024 = (fld w lo 10).toNat ∧
    w / 2^lo % 2048 = (fld w lo 11).toNat ∧
    w / 2^lo % 4096 = (fld w lo 12).toNat ∧
    w / 2^lo % 16384 = (fld w lo 14).toNat ∧
    w / 2^lo % 262144 = (fld w lo 18).toNat ∧
    w / 2^lo % 268435456 = (fld w lo 28).toNat := by
  simp only [toNat_fld]
  exact ⟨rfl, rfl, rfl, rfl, rfl, rfl, rfl, rfl, rfl, rfl, rfl, rfl, rfl⟩

/-! A word is its opcode bits and its fields at places that do not overlap, so a sum of them is their bitwise or, from which each
field is read back on its own. -/

theorem fld_or (a b lo n : Nat) : fld (a ||| b) lo n = fld a lo n ||| fld b lo n := by
  simp only [fld, ← Nat.shiftRight_eq_div_pow, Nat.shiftRight_or_distrib, BitVec.ofNat_or]

theorem fld_ofNat (m lo n : Nat) : fld (no_index (OfNat.ofNat m)) lo n = BitVec.ofNat n (OfNat.ofNat m >>> lo) := by
  rw [Nat.shiftRight_eq_div_pow]
  rfl

theorem fld_put_same {k : Nat} (x : BitVec k) (p : Nat) : fld (put x p) p k = x := by
  rw [fld, put, Nat.mul_div_cancel _ (Nat.two_pow_pos p), BitVec.ofNat_toNat, BitVec.setWidth_eq]

theorem fld_put_above {k lo n p : Nat} (x : BitVec k) (h : lo + n ≤ p) : fld (put x p) lo n = 0 := by
  obtain ⟨q, rfl⟩ := Nat.exists_eq_add_of_le h
  apply BitVec.eq_of_toNat_eq
  rw [toNat_fld, put, show x.toNat * 2^(lo + n + q) = x.toNat * 2^q * 2^n * 2^lo by ring,
    Nat.mul_div_cancel _ (Nat.two_pow_pos lo), Nat.mul_mod_left]
  rfl

theorem put_lt {k n p : Nat} (x : BitVec k) (h : p + k ≤ n) : put x p < 2^n :=
  calc x.toNat * 2^p < 2^k * 2^p := Nat.mul_lt_mul_of_pos_right x.isLt (Nat.two_pow_pos p)
    _ = 2^(p + k) := by rw [← pow_add, Nat.add_comm]
    _ ≤ 2^n := Nat.pow_le_pow_right (by decide) h

theorem fld_put_below {k lo n p : Nat} (x : BitVec k) (h : p + k ≤ lo) : fld (put x p) lo n = 0 := by
  rw [fld, Nat.div_eq_of_lt (put_lt x h)]
  rfl

/-- Adding a field where a word has zeros sets its bits: nothing is carried. -/
theorem add_put {w p k : Nat} (x : BitVec k) (h : fld w p k = 0) : w + put x p = w ||| put x p := by
  obtain ⟨y, hy⟩ : 2^k ∣ w / 2^p := Nat.dvd_of_mod_eq_zero ((toNat_fld w p k).symm.trans (congrArg BitVec.toNat h))
  have hw : w = 2^p * (2^k * y) + w % 2^p := by rw [← hy, Nat.div_add_mod]
  have hr := Nat.mod_lt w (Nat.two_pow_pos p)
  generalize w % 2^p = r at hw hr
  subst hw
  rw [put, Nat.mul_comm x.toNat, show 2^p * (2^k * y) + r + 2^p * x.toNat = 2^p * (2^k * y + x.toNat) + r by ring,
    Nat.two_pow_add_eq_or_of_lt hr, Nat.two_pow_add_eq_or_of_lt hr, Nat.two_pow_add_eq_or_of_lt x.isLt,
    Nat.mul_comm, ← Nat.shiftLeft_eq, Nat.shiftLeft_or_distrib, Nat.shiftLeft_eq, Nat.shiftLeft_eq,
    Nat.mul_comm _ (2^p), Nat.mul_comm _ (2^p), Nat.or_right_comm]

theorem or_lt_two_pow (a b n : Nat) : a ||| b < 2^n ↔ a < 2^n ∧ b < 2^n :=
  ⟨fun h => ⟨Nat.left_le_or.trans_lt h, Nat.right_le_or.trans_lt h⟩, fun h => Nat.or_lt_two_pow h.1 h.2⟩

theorem ofNat_lt_two_pow (m n : Nat) : (no_index (OfNat.ofNat m) < 2^n) = (OfNat.ofNat m >>> n = 0) := by
  rw [Nat.shiftRight_eq_div_pow, Nat.div_eq_zero_iff]
  simp [OfNat.ofNat]

/-! ### The rows of the opcode map -/

/-- What a row that decodes has checked. -/
theorem row_eq_ok {op rsv : Bool} {i j : Instr} :
    row op rsv i = .ok j ↔ op = true ∧ rsv = true ∧ i = j ∧ i.wf = true := by
  unfold row Instr.wf
  cases op <;> cases rsv <;> cases i.opLegal <;> cases i.rsvLegal <;> simp

theorem opLegal_of_wf {i : Instr} (h : i.wf = true) : i.opLegal = true := (Bool.and_eq_true_iff.mp h).1

theorem xLegal_zero {t : BitVec 3} (h : tLegal t = true) : xLegal t 0 = true := by
  simp [xLegal, h]

/-- The majors of the 32-bit forms in order (spec/02 R45): a table from which the row of a given major is found without trying
those before it. -/
def majors32 : List (Nat → Except DecFault Instr) :=
  [decode32x00, decode32x01, decode32x02, decode32x03, decode32x04, decode32x05,
   fun w => row true true (.lih (fld w 0 7) (fld w 16 16)), fun w => row true true (.addi (fld w 0 7) (fld w 25 7) (fld w 16 9)),
   decode32x08, fun w => row true true (.aaddi (fld w 0 7) (fld w 25 7) (fld w 16 9)),
   fun w => row true true (.pfmt (fld w 0 7) (fld w 25 7) (fld w 19 6) (fld w 16 3)), decode32x0b, decode32x0c, decode32x0d,
   decode32x0e, decode32x0f, decode32x10, decode32x11, decode32x12, fun w => row true true (.beqz (fld w 0 7) (fld w 16 16)),
   fun w => row true true (.bnez (fld w 0 7) (fld w 16 16)), fun w => row true true (.jal (fld w 0 7) (fld w 16 16)),
   decode32x16, decode32x17, decode32x18, decode32x19, decode32x1a, decode32x1b,
   fun w => row true true (.amo (fld w 0 7) (fld w 25 7) (fld w 21 4) (fld w 19 2) (fld w 16 3)),
   fun w => row true true (.amof (fld w 0 7) (fld w 25 7) (fld w 21 4) (fld w 19 2) (fld w 16 3)), decode32x1e, decode32x1f,
   fun _ => .error .illOp, fun _ => .error .illOp, fun w => row true true (.spawn (fld w 0 7) (fld w 16 16)),
   fun w => row true true (.spawnT (fld w 0 7) (fld w 16 16)), decode32x24, decode32x25, decode32x26, decode32x27, decode32x28,
   decode32x29, decode32x2a, decode32x2b, decode32x2c, decode32x2d, decode32x2e, decode32x2f, decode32x30, decode32x31,
   decode32x32, decode32x33, decode32x34, decode32x35, decode32x36, fun _ => .error .illOp, decode32x38, decode32x39,
   decode32x3a, decode32x3b, decode32x3c, fun _ => .error .illOp, fun _ => .error .illOp, fun _ => .error .illOp]

theorem decode32_eq_majors32 (w : Nat) : decode32 w = majors32.getD (w / 2^7 % 64) (fun _ => .error .illOp) w := by
  have h : w / 2^7 % 64 < 64 := Nat.mod_lt _ (by decide)
  rw [decode32]
  generalize w / 2^7 % 64 = m at h
  interval_cases m <;> rfl

/-! ### Decoding what encode gives (O58)

One lemma for each table of `encode`: the constructors that the table has are those for which it answers, and for each the
decoder's selectors, zero fields and operands are read from the word field by field. -/

theorem decode16_of_encode16 {i : Instr} {w : Nat} (hwf : i.wf = true) (h : encode16 i = some w) :
    w < 2^16 ∧ w / 2^13 % 8 < 6 ∧ decode16 w = .ok i := by
  cases i
  all_goals try contradiction
  all_goals
    obtain rfl := Option.some.inj h
    simp only [decode16, decode16x0, decode16x1, decode16x2, pack_cons, pack_nil, add_put, mod_eq_fld, fld_or,
      fld_ofNat, fld_put_same, fld_put_above, fld_put_below, or_lt_two_pow, put_lt, ofNat_lt_two_pow, row_eq_ok, hwf,
      Nat.reduceAdd, Nat.reduceLeDiff, Nat.reduceShiftRight, BitVec.reduceOfNat, BitVec.reduceToNat, BitVec.ofNat_eq_ofNat,
      BitVec.or_zero, BitVec.zero_or, beq_self_eq_true, and_self, Nat.reduceLT]

theorem decode32_of_encode32a {i : Instr} {w : Nat} (hwf : i.wf = true) (h : encode32a i = some w) :
    w < 2^32 ∧ w / 2^13 % 8 = 6 ∧ decode32 w = .ok i := by
  cases i
  all_goals try contradiction
  all_goals
    obtain rfl := Option.some.inj h
    simp only [decode32_eq_majors32, majors32, List.getD_cons_succ, List.getD_cons_zero, decode32x00, decode32x01,
      decode32x02, decode32x03, decode32x04, decode32x05, decode32x08, decode32x0b, decode32x0c, decode32x0d, decode32x0e,
      decode32x0f, decode32x10, decode32x11, decode32x12, decode32x16, decode32x17, decode32x18, decode32x19, decode32x1a,
      decode32x1b, decode32x1e, decode32x1f, pack_cons, pack_nil, add_put, mod_eq_fld, fld_or, fld_ofNat, fld_put_same,
      fld_put_above, fld_put_below, or_lt_two_pow, put_lt, ofNat_lt_two_pow, row_eq_ok, hwf, Nat.reduceAdd, Nat.reduceLeDiff,
      Nat.reduceShiftRight, BitVec.reduceOfNat, BitVec.reduceToNat, BitVec.ofNat_eq_ofNat, BitVec.or_zero, BitVec.zero_or,
      beq_self_eq_true, and_self, Bool.and_self]

theorem decode32_of_encode32b {i : Instr} {w : Nat} (hwf : i.wf = true) (h : encode32b i = some w) :
    w < 2^32 ∧ w / 2^13 % 8 = 6 ∧ decode32 w = .ok i := by
  cases i
  all_goals try contradiction
  all_goals
    obtain rfl := Option.some.inj h
    simp only [decode32_eq_majors32, majors32, List.getD_cons_succ, List.getD_cons_zero, decode32x24, decode32x25,
      decode32x26, decode32x27, decode32x28, decode32x29, decode32x2a, decode32x2b, decode32x2c, decode32x2d, decode32x2e,
      decode32x2f, decode32x30, decode32x31, decode32x32, decode32x33, decode32x34, decode32x35, decode32x36, decode32x38,
      decode32x39, decode32x3a, decode32x3b, decode32x3c, pack_cons, pack_nil, add_put, mod_eq_fld, fld_or, fld_ofNat,
      fld_put_same, fld_put_above, fld_put_below, or_lt_two_pow, put_lt, ofNat_lt_two_pow, row_eq_ok, hwf, Nat.reduceAdd,
      Nat.reduceLeDiff, Nat.reduceShiftRight, BitVec.reduceOfNat, BitVec.reduceToNat, BitVec.ofNat_eq_ofNat, BitVec.or_zero,
      BitVec.zero_or, beq_self_eq_true, and_self, Bool.and_self, true_and, and_true]
  -- The vector rows whose X field is zero ask that zero is legal for their T.
  all_goals exact xLegal_zero (opLegal_of_wf hwf)

theorem decode64_of_encode64 {i : Instr} {w : Nat} (hwf : i.wf = true) (h : encode64 i = some w) :
    w < 2^64 ∧ w / 2^13 % 8 = 7 ∧ decode64 w = .ok i := by
  cases i
  all_goals try contradiction
  all_goals
    obtain rfl := Option.some.inj h
    simp only [decode64, decode64x00, decode64x01, decode64x02, decode64x03, decode64x04, decode64x05, decode64x06,
      decode64x08, decode64x09, decode64x0a, decode64x10, decode64x11, decode64x18, decode64x19, decode64x1a, pack_cons,
      pack_nil, add_put, mod_eq_fld, fld_or, fld_ofNat, fld_put_same, fld_put_above, fld_put_below, or_lt_two_pow, put_lt,
      ofNat_lt_two_pow, row_eq_ok, hwf, Nat.reduceAdd, Nat.reduceLeDiff, Nat.reduceShiftRight, BitVec.reduceOfNat,
      BitVec.reduceToNat, BitVec.ofNat_eq_ofNat, BitVec.or_zero, BitVec.zero_or, beq_self_eq_true, and_self, Bool.and_self]

theorem decodeWord_of_decode16 {i : Instr} {w : Nat} (h : w < 2^16 ∧ w / 2^13 % 8 < 6 ∧ decode16 w = .ok i) :
    w < 256^2 ∧ decodeWord w = .ok (i, 2) := by
  obtain ⟨hlt, hlen, hd⟩ := h
  refine ⟨hlt, ?_⟩
  rw [decodeWord, if_pos hlen, Nat.mod_eq_of_lt hlt, hd]
  rfl

theorem decodeWord_of_decode32 {i : Instr} {w : Nat} (h : w < 2^32 ∧ w / 2^13 % 8 = 6 ∧ decode32 w = .ok i) :
    w < 256^4 ∧ decodeWord w = .ok (i, 4) := by
  obtain ⟨hlt, hlen, hd⟩ := h
  refine ⟨hlt, ?_⟩
  rw [decodeWord, if_neg (by omega), if_pos hlen, Nat.mod_eq_of_lt hlt, hd]
  rfl

theorem decodeWord_of_decode64 {i : Instr} {w : Nat} (h : w < 2^64 ∧ w / 2^13 % 8 = 7 ∧ decode64 w = .ok i) :
    w < 256^8 ∧ decodeWord w = .ok (i, 8) := by
  obtain ⟨hlt, hlen, hd⟩ := h
  refine ⟨hlt, ?_⟩
  rw [decodeWord, if_neg (by omega), if_neg (by omega), Nat.mod_eq_of_lt hlt, hd]
  rfl

theorem decodeWord_of_encode {i : Instr} {b w : Nat} (hwf : i.wf = true) (h : encode i = some (b, w)) :
    (b = 2 ∨ b = 4 ∨ b = 8) ∧ w < 256^b ∧ decodeWord w = .ok (i, b) := by
  unfold encode at h
  split at h
  case h_1 v h16 =>
    cases h
    exact ⟨.inl rfl, decodeWord_of_decode16 (decode16_of_encode16 hwf h16)⟩
  case h_2 =>
    split at h
    case h_1 v h32a =>
      cases h
      exact ⟨.inr (.inl rfl), decodeWord_of_decode32 (decode32_of_encode32a hwf h32a)⟩
    case h_2 =>
      split at h
      case h_1 v h32b =>
        cases h
        exact ⟨.inr (.inl rfl), decodeWord_of_decode32 (decode32_of_encode32b hwf h32b)⟩
      case h_2 =>
        obtain ⟨v, h64, rfl, rfl⟩ : ∃ v, encode64 i = some v ∧ 8 = b ∧ v = w := by simpa using h
        exact ⟨.inr (.inr rfl), decodeWord_of_decode64 (decode64_of_encode64 hwf h64)⟩

theorem leNat_leBytes (n w : Nat) : leNat (leBytes n w) = w % 256^n := by
  induction n generalizing w with
  | zero => simp [leBytes, leNat, Nat.mod_one]
  | succ n ih =>
    have hsplit : w % 256^(n + 1) = w % 256 + 256 * (w / 256 % 256^n) := by rw [Nat.pow_succ', Nat.mod_mul]
    rw [leBytes, leNat, ih, BitVec.toNat_ofNat, hsplit]

/-- Settles O58: `encode` gives a word whose selectors lead the decoder to the instruction's row, and whose fields are its operands. -/
theorem decodeOfEncode : Obligations.DecodeOfEncode := by
  intro i b w hwf h
  obtain ⟨hb, hlt, hd⟩ := decodeWord_of_encode hwf h
  have hlt8 : w < 256^8 := hlt.trans_le (Nat.pow_le_pow_right (by decide) (by omega))
  have hlt' : w < 2^(8 * b) := by rwa [Nat.pow_mul]
  refine ⟨hlt, hd, ?_, ?_⟩
  · rw [decodeBytes, leNat_leBytes, Nat.mod_eq_of_lt hlt, hd]
  · rw [decodeTableWord, decodeBytes, leNat_leBytes, Nat.mod_eq_of_lt hlt', Nat.mod_eq_of_lt hlt8, hd]

/-! ### Encoding what decodes (O59)

With the bits of a word below some place cleared, a field is the difference of two such words. A row's selectors, zero fields and
operands fill its word, so the differences telescope to the word itself. -/

/-- The word with its bits below `lo` cleared. -/
def above (w lo : Nat) : Int := (w / 2^lo * 2^lo : Nat)

theorem above_zero (w : Nat) : above w 0 = w := by simp [above]

theorem above_of_lt {w lo : Nat} (h : w < 2^lo) : above w lo = 0 := by simp [above, Nat.div_eq_of_lt h]

theorem put_fld (w lo n : Nat) : (put (fld w lo n) lo : Int) = above w lo - above w (lo + n) := by
  have h := Nat.div_add_mod (w / 2^lo) (2^n)
  rw [Nat.div_div_eq_div_mul, ← pow_add] at h
  have : w / 2^lo * 2^lo = w / 2^(lo + n) * 2^(lo + n) + put (fld w lo n) lo := by
    rw [put, toNat_fld]
    nth_rw 1 [← h]
    ring
  simp [above, this]

theorem toNat_fld_eq_iff (w lo n c : Nat) : (fld w lo n).toNat = c ↔ above w lo - above w (lo + n) = c * 2^lo := by
  rw [← put_fld, put]
  norm_cast
  exact (Nat.mul_left_inj (Nat.two_pow_pos lo).ne').symm

theorem encode_of_value {i : Instr} {b v w : Nat} (h : encode i = some (b, v)) (hv : v = w) : encode i = some (b, w) := hv ▸ h

theorem encode_of_decode16 {w : Nat} {i : Instr} (hw : w < 2^16) (h : decode16 w = .ok i) :
    i.wf = true ∧ encode i = some (2, w) := by
  have hbot := above_zero w
  have htop := above_of_lt hw
  simp only [decode16, decode16x0, decode16x1, decode16x2] at h
  repeat' split at h
  all_goals try contradiction
  all_goals
    obtain ⟨hop, hrsv, rfl, hwf⟩ := row_eq_ok.mp h
    refine ⟨hwf, encode_of_value rfl (Int.natCast_inj.mp ?_)⟩
    simp only [beq_iff_eq, mod_eq_fld, toNat_fld_eq_iff, pack_cons, pack_nil, Nat.cast_add, put_fld,
      Nat.cast_ofNat, Nat.reduceAdd] at *
    omega

theorem encode_of_decode32 {w : Nat} {i : Instr} (hw : w < 2^32) (hlen : w / 2^13 % 8 = 6) (h : decode32 w = .ok i) :
    i.wf = true ∧ encode i = some (4, w) := by
  have hbot := above_zero w
  have htop := above_of_lt hw
  unfold decode32 at h
  split at h
  all_goals try simp only [decode32x00, decode32x01, decode32x02, decode32x03, decode32x04, decode32x05, decode32x08,
    decode32x0b, decode32x0c, decode32x0d, decode32x0e, decode32x0f, decode32x10, decode32x11, decode32x12, decode32x16,
    decode32x17, decode32x18, decode32x19, decode32x1a, decode32x1b, decode32x1e, decode32x1f, decode32x24, decode32x25,
    decode32x26, decode32x27, decode32x28, decode32x29, decode32x2a, decode32x2b, decode32x2c, decode32x2d, decode32x2e,
    decode32x2f, decode32x30, decode32x31, decode32x32, decode32x33, decode32x34, decode32x35, decode32x36, decode32x38,
    decode32x39, decode32x3a, decode32x3b, decode32x3c] at h
  all_goals repeat' split at h
  all_goals try contradiction
  all_goals
    obtain ⟨hop, hrsv, rfl, hwf⟩ := row_eq_ok.mp h
    refine ⟨hwf, encode_of_value rfl (Int.natCast_inj.mp ?_)⟩
    simp only [Bool.and_eq_true, beq_iff_eq, mod_eq_fld, toNat_fld_eq_iff, pack_cons, pack_nil, Nat.cast_add, put_fld,
      Nat.cast_ofNat, Nat.reduceAdd] at *
    omega

theorem encode_of_decode64 {w : Nat} {i : Instr} (hw : w < 2^64) (hlen : w / 2^13 % 8 = 7) (h : decode64 w = .ok i) :
    i.wf = true ∧ encode i = some (8, w) := by
  have hbot := above_zero w
  have htop := above_of_lt hw
  unfold decode64 at h
  split at h
  all_goals try simp only [decode64x00, decode64x01, decode64x02, decode64x03, decode64x04, decode64x05, decode64x06,
    decode64x08, decode64x09, decode64x0a, decode64x10, decode64x11, decode64x18, decode64x19, decode64x1a] at h
  all_goals repeat' split at h
  all_goals try contradiction
  all_goals
    obtain ⟨hop, hrsv, rfl, hwf⟩ := row_eq_ok.mp h
    refine ⟨hwf, encode_of_value rfl (Int.natCast_inj.mp ?_)⟩
    simp only [Bool.and_eq_true, beq_iff_eq, mod_eq_fld, toNat_fld_eq_iff, pack_cons, pack_nil, Nat.cast_add, put_fld,
      Nat.cast_ofNat, Nat.reduceAdd] at *
    omega

/-- What a decoded word's table and length are (R28). -/
theorem decodeWord_cases {w b : Nat} {i : Instr} (h : decodeWord w = .ok (i, b)) :
    w / 2^13 % 8 < 6 ∧ b = 2 ∧ decode16 (w % 2^16) = .ok i ∨
    w / 2^13 % 8 = 6 ∧ b = 4 ∧ decode32 (w % 2^32) = .ok i ∨
    w / 2^13 % 8 = 7 ∧ b = 8 ∧ decode64 (w % 2^64) = .ok i := by
  have hmap {r : Except DecFault Instr} {n : Nat} (h : r.map (·, n) = .ok (i, b)) : b = n ∧ r = .ok i := by
    cases r with
    | error e => cases h
    | ok j => cases h; exact ⟨rfl, rfl⟩
  unfold decodeWord at h
  split at h
  next h6 => exact .inl ⟨h6, hmap h⟩
  next h6 =>
    split at h
    next h7 => exact .inr (.inl ⟨h7, hmap h⟩)
    next h7 => exact .inr (.inr ⟨by omega, hmap h⟩)

/-- Settles O59: each row of the decoder is the row of `encode` for the instruction that it gives, bit for bit. -/
theorem encodeOfDecode : Obligations.EncodeOfDecode := by
  intro i w b h
  obtain ⟨-, rfl, hd⟩ | ⟨hlen, rfl, hd⟩ | ⟨hlen, rfl, hd⟩ := decodeWord_cases h
  · exact encode_of_decode16 (Nat.mod_lt _ (by decide)) hd
  · exact encode_of_decode32 (Nat.mod_lt _ (by decide)) (by omega) hd
  · exact encode_of_decode64 (Nat.mod_lt _ (by decide)) (by omega) hd

/-! ### Lengths and worked words (O56) -/

theorem length_of_decodeWord {w b : Nat} {i : Instr} (h : decodeWord w = .ok (i, b)) : b = parcelLen w := by
  obtain ⟨hlen, rfl, -⟩ | ⟨hlen, rfl, -⟩ | ⟨hlen, rfl, -⟩ := decodeWord_cases h
  · rw [parcelLen, if_pos hlen]
  · rw [parcelLen, if_neg (by omega), if_pos hlen]
  · rw [parcelLen, if_neg (by omega), if_neg (by omega)]

/-- A word that `encode` gives, read as the opcode table numbers it. -/
theorem decodeTableWord_of_encode {i : Instr} {b w : Nat} (hwf : i.wf = true) (h : encode i = some (b, w)) :
    decodeTableWord (8 * b) w = some i := (decodeOfEncode i b w hwf h).2.2.2

/-- Settles O56: the lengths by the cases of `decodeWord`, the worked words as what `encode` gives for their instructions. -/
theorem decodedWords : Obligations.DecodedWords := by
  refine ⟨fun w => ?_, fun w i n h => length_of_decodeWord h, decodeTableWord_of_encode (b := 4) rfl rfl,
    decodeTableWord_of_encode (b := 2) rfl rfl, decodeTableWord_of_encode (b := 4) rfl rfl,
    decodeTableWord_of_encode (b := 2) rfl rfl, decodeTableWord_of_encode (b := 4) rfl rfl,
    decodeTableWord_of_encode (b := 8) rfl rfl, ?_, ?_⟩
  · simp only [parcelLen, Nat.lt_succ_iff]
  · rfl
  · rfl

end Sys2Proof.Proofs
end

section
namespace Sys2Proof.Proofs
open Sys2Proof.Machine Sys2Proof.Laws

/-! ### Integer instructions whose fields name registers or zr (O5) -/

theorem reads_zr (s : State) (tid : Nat) : Reads s tid ZR = 0 := by simp [Reads, ZR]

theorem reads_zr_add (s : State) (tid : Nat) (v : Word) : Reads s tid ZR + v = v := by
  rw [reads_zr]
  exact BitVec.zero_add v

section
variable {s : State} {tid len d a b : Nat} {v : Word}

theorem alu1_names (f : Word → Word) (hs : Issuing s tid) (hd : Names1 s tid d) (ha : Names1 s tid a)
    (hv : f (Reads s tid a) = v) : alu1 len d a f s = .next (written s tid d len v) := by
  subst hv
  exact issue_written ⟨hs, by simp [Fits, hd, ha]⟩ hd (by simp only [readReg_names ha, bind, Except.bind])

theorem alu2_names (f : Word → Word → Word) (hs : Issuing s tid) (hd : Names1 s tid d) (ha : Names1 s tid a)
    (hb : Names1 s tid b) (hv : f (Reads s tid a) (Reads s tid b) = v) :
    alu2 len d a b f s = .next (written s tid d len v) := by
  subst hv
  exact issue_written ⟨hs, by simp [Fits, hd, ha, hb]⟩ hd
    (by simp only [readReg_names ha, readReg_names hb, bind, Except.bind])

theorem mul2_names (f : Word → Word → Word) (hs : Issuing s tid) (hd : Names1 s tid d) (ha : Names1 s tid a)
    (hb : Names1 s tid b) (hv : f (Reads s tid a) (Reads s tid b) = v) :
    mul2 len d a b f s = .next (writtenLate s tid d len 3 v) := by
  subst hv
  exact issue_writtenLate ⟨hs, by simp [Fits, hd, ha, hb]⟩ hd
    (by simp only [readReg_names ha, readReg_names hb, bind, Except.bind])

end

/-! ### Operations on words as arithmetic (R93, R101) -/

theorem shiftLeft_eq_ofNat (x : Word) (n : Nat) : x <<< n = BitVec.ofNat 64 (x.toNat * 2^n) := by
  apply BitVec.eq_of_toNat_eq
  rw [BitVec.toNat_shiftLeft, BitVec.toNat_ofNat, Nat.shiftLeft_eq]

theorem ushiftRight_eq_ofNat (x : Word) (n : Nat) : x >>> n = BitVec.ofNat 64 (x.toNat / 2^n) := by
  apply BitVec.eq_of_toNat_eq
  rw [BitVec.toNat_ushiftRight, BitVec.toNat_ofNat, Nat.shiftRight_eq_div_pow,
    Nat.mod_eq_of_lt ((Nat.div_le_self _ _).trans_lt x.isLt)]

theorem sshiftRight_eq_ofInt (x : Word) (n : Nat) : x.sshiftRight n = BitVec.ofInt 64 (x.toInt / 2^n) := by
  rw [BitVec.sshiftRight_eq, Int.shiftRight_eq_div_pow]
  norm_cast

theorem wSlt_eq (x y : Word) : wSlt x y = if x.toInt < y.toInt then 1 else 0 := by
  simp [wSlt, b2w, BitVec.slt]

/-- R101: an offset is added to the low 52 bits only, and what counts of it is its value there. -/
theorem addrAdd_eq_ofInt (x y : Word) (o : Int) (h : (y.toNat : Int) % 2^52 = o % 2^52) :
    addrAdd x y = BitVec.ofInt 64 (x.toNat / 2^52 * 2^52 + ((x.toNat % 2^52 : Nat) + o) % 2^52) := by
  rw [addrAdd, w64, ← BitVec.ofInt_natCast]
  congr 1
  omega

theorem toInt_signExtend (b : BitVec 5) : (b.signExtend 64).toInt = b.toInt := BitVec.toInt_signExtend_of_le (by decide)

theorem signExtend_mod (b : BitVec 5) : ((b.signExtend 64).toNat : Int) % 2^52 = b.toInt % 2^52 := by
  have h := toInt_signExtend b
  have := BitVec.toInt_eq_toNat_cond (b.signExtend 64)
  omega

/-- Settles O5: each compact form has the shape of its long counterpart on the same registers. -/
theorem compactIntegersAndNop : Obligations.CompactIntegersAndNop := by
  refine ⟨fun s tid a b hs hn => ?_, fun s tid hs => ?_⟩
  · have ha : Names1 s tid a.toNat := hn _ (by simp)
    have hb : Names1 s tid b.toNat := hn _ (by simp)
    exact ⟨alu1_names id hs ha hb rfl, alu2_names (· + ·) hs ha ha hb rfl, alu2_names (· - ·) hs ha ha hb rfl,
      alu2_names (· &&& ·) hs ha ha hb rfl, alu2_names (· ||| ·) hs ha ha hb rfl, alu2_names (· ^^^ ·) hs ha ha hb rfl,
      alu2_names wSll hs ha ha hb (shiftLeft_eq_ofNat _ _), alu2_names wSrl hs ha ha hb (ushiftRight_eq_ofNat _ _),
      alu2_names wSra hs ha ha hb (sshiftRight_eq_ofInt _ _), mul2_names (· * ·) hs ha ha hb rfl,
      alu2_names addrAdd hs ha ha hb (addrAdd_eq_ofInt _ _ _ (by omega)), alu2_names wSlt hs ha ha hb (wSlt_eq _ _),
      alu1_names (· + b.signExtend 64) hs ha (.inr rfl) (reads_zr_add s tid _),
      alu1_names (· + b.signExtend 64) hs ha ha rfl,
      alu1_names (addrAdd · (b.signExtend 64)) hs ha ha (addrAdd_eq_ofInt _ _ _ (signExtend_mod b)),
      alu1_names (· <<< b.toNat) hs ha ha (shiftLeft_eq_ofNat _ _),
      alu1_names (· >>> b.toNat) hs ha ha (ushiftRight_eq_ofNat _ _),
      alu1_names (·.sshiftRight b.toNat) hs ha ha (sshiftRight_eq_ofInt _ _),
      alu1_names (· &&& b.signExtend 64) hs ha ha rfl, alu1_names (· ||| b.signExtend 64) hs ha ha rfl,
      alu1_names (· ^^^ b.signExtend 64) hs ha ha rfl,
      alu1_names (wSlt · (b.signExtend 64)) hs ha ha (by rw [wSlt_eq, toInt_signExtend])⟩
  · have hopen : Opens s tid [] := ⟨hs, nofun⟩
    have hpair : (s.task tid).pair = none := hs.2.1
    exact ⟨issue_ok (k := .point) (body := fun _ s => .ok s) hopen nofun rfl hpair,
      issue_ok (k := .point) (body := fun _ s => .ok s) hopen nofun rfl hpair⟩

/-! ### Fetching from the buffer, and the step (O57) -/

/-- The parcel at an address of a block's bytes (R27). -/
def parcelAt (bs : List Byte) (va : Nat) : Nat := (bs.getD (va % 64) 0).toNat + 256 * (bs.getD (va % 64 + 1) 0).toNat

theorem fetchParcel_buffered {s : State} {tid va : Nat} {bs : List Byte} (h : mfind (s.task tid).fbuf (va / 64) = some bs) :
    fetchParcel s tid va = .ok (parcelAt bs va, s) := by
  simp only [fetchParcel, fetchBlock, h, bind, Except.bind, parcelAt]

/-- Parcels that the buffer holds are read in ascending order, and the state stays as it was. -/
theorem fetchParcels_buffered {s : State} {tid : Nat} (ps : List Nat) {va : Nat} (hva : va < 2^52)
    (h : ∀ j p, ps[j]? = some p → ∃ bs, mfind (s.task tid).fbuf ((va + 2 * j) % 2^52 / 64) = some bs ∧
      p = parcelAt bs ((va + 2 * j) % 2^52)) :
    fetchParcels s tid va ps.length = .ok (ps.foldr (fun p r => p + 65536 * r) 0, s) := by
  induction ps generalizing va with
  | nil => rfl
  | cons p ps ih =>
    obtain ⟨bs, hbs, rfl⟩ := h 0 p rfl
    rw [Nat.mul_zero, Nat.add_zero, Nat.mod_eq_of_lt hva] at hbs ⊢
    have hrest := ih (va := (va + 2) % 2^52) (Nat.mod_lt _ (by decide)) fun j q hq => by
      rw [Nat.mod_add_mod, Nat.add_assoc, show 2 + 2 * j = 2 * (j + 1) by ring]
      exact h (j + 1) q hq
    simp only [List.length_cons, fetchParcels, fetchParcel_buffered hbs, hrest, bind, Except.bind, List.foldr_cons]

theorem fetchInsn_buffered {s : State} {tid p0 : Nat} {ps : List Nat}
    (h : ∀ j p, (p0 :: ps)[j]? = some p → ∃ bs, mfind (s.task tid).fbuf (((s.task tid).r.pc.toNat + 2 * j) % 2^52 / 64) = some bs ∧
      p = parcelAt bs (((s.task tid).r.pc.toNat + 2 * j) % 2^52)) (hlen : 2 * (ps.length + 1) = parcelLen p0) :
    fetchInsn s tid = .ok (parcelLen p0, (p0 :: ps).foldr (fun p r => p + 65536 * r) 0, s) := by
  obtain ⟨bs, hbs, hp⟩ := h 0 p0 rfl
  rw [Nat.mul_zero, Nat.add_zero, Nat.mod_eq_of_lt (s.task tid).r.pc.isLt] at hbs hp
  have hrest := fetchParcels_buffered ps (va := ((s.task tid).r.pc.toNat + 2) % 2^52) (Nat.mod_lt _ (by decide)) fun j q hq => by
    rw [Nat.mod_add_mod, Nat.add_assoc, show 2 + 2 * j = 2 * (j + 1) by ring]
    exact h (j + 1) q hq
  have hn : parcelLen p0 / 2 - 1 = ps.length := by omega
  simp only [fetchInsn, fetchParcel_buffered hbs, ← hp, hn, hrest, bind, Except.bind, List.foldr_cons]

/-- A step with no turn is what happens next. -/
theorem step_of_no_turn {s : State} (h : s.turn = none) :
    step s = match nextEvent s with
      | .inl (j, t) => exec j t
      | .inr t => .next t := by
  simp only [step, h] <;> rfl

theorem step_of_inl {s s' : State} {u : Turn} {i : Instr} (h : s.turn = some u) (ht : turnInstr s u = .inl (i, s')) :
    step s = exec i s' := by simp only [step, h, ht]

theorem step_of_inr {s s' : State} {u : Turn} (h : s.turn = some u) (ht : turnInstr s u = .inr s') :
    step s = .next s' := by simp only [step, h, ht]

/-- Settles O57: by what `turnInstr` gives for a shadow, for each end of a fetch, and for a buffered fetch. -/
theorem stepRunsDecoded : Obligations.StepRunsDecoded := by
  intro s s1 u len w n i e
  refine ⟨step_of_no_turn, fun hu hsh => ⟨fun hnext => ?_, fun f hnext hd => ?_⟩, fun hu hp hsh => ⟨fun hf hd => ?_, fun hf hd => ?_,
    fun c d hf => ?_⟩, fun tid p0 ps h hlen => fetchInsn_buffered h hlen⟩
  · exact step_of_inr hu (by simp only [turnInstr, hsh, if_true, shadowInstr, hnext])
  · exact step_of_inl hu (by simp only [turnInstr, hsh, if_true, shadowInstr, hnext, hd])
  · exact step_of_inl hu (by simp only [turnInstr, hsh, hp, hf, hd, Bool.false_eq_true, if_false])
  · exact step_of_inl hu (by simp only [turnInstr, hsh, hp, hf, hd, Bool.false_eq_true, if_false])
  · exact step_of_inl hu (by simp only [turnInstr, hsh, hp, hf, Bool.false_eq_true, if_false, w64])

end Sys2Proof.Proofs
end

section
namespace Sys2Proof.Proofs
open Sys2Proof.Machine Sys2Proof.Laws

/-! ### Issue where operands may be ports (R41-R48)

`Laws.issue_ok` and its companions are about operands that name registers; here an instruction's checks and its readiness are
hypotheses of their own. -/

theorem retire_unpaired {s : State} {tid : Nat} (k : Kind) (ops : List Opd) (pc : Addr) (h : (s.task tid).pair = none) :
    retire s tid k ops pc = done s tid ((k ≠ .plain && k ≠ .point) || ops.any isSrcPort) id := by
  simp [retire, done, pairRetire, h, State.endTurn]

section
variable {s s' : State} {tid len d : Nat} {ops : List Opd} {k : Kind} {body : Nat → State → M State} {c : Code} {v w : Word}

/-- An unpaired thread's instruction that passes its checks and is ready completes as its body does. -/
theorem issue_completes (hs : Issuing s tid) (hc : checkOperands s tid ops = .ok ()) (hp : k ≠ .priv)
    (hy : readyNow s tid ops = .ok ()) (hb : body tid s = .ok s') (hn : (s'.task tid).pair = none) :
    issue len k ops body s =
      .next (done s' tid ((k ≠ .plain && k ≠ .point) || ops.any isSrcPort) fun r => r.skip len) := by
  obtain ⟨u, hu, rfl⟩ := issuing_turn hs
  obtain ⟨-, hpair, hsh⟩ := hs
  have hn' : ((s'.advance u.tid len).task u.tid).pair = none := by simp [State.advance, hn]
  simp only [issue, issueRaw, hu, hsh, hc, hy, hb, pairWaits_none k ops hpair, decide_eq_false hp, bind, Except.bind,
    retire_unpaired k ops _ hn', Bool.false_and, Bool.false_eq_true, if_false]
  simp only [done, State.advance, State.modR, Task.modR, modTask_modTask, Regs.skip, id]

/-- A write of the destination last. -/
theorem issue_completes_put (hs : Issuing s tid) (hc : checkOperands s tid ops = .ok ()) (hp : k ≠ .priv)
    (hy : readyNow s tid ops = .ok ()) (hd : Names1 s tid d) (hb : body tid s = writeReg s' tid d v)
    (hn : (s'.task tid).pair = none) :
    issue len k ops body s =
      .next (done s' tid ((k ≠ .plain && k ≠ .point) || ops.any isSrcPort) fun r => (r.write d v).skip len) := by
  rw [writeReg_names v hd] at hb
  rw [issue_completes hs hc hp hy hb (by split <;> simp [hn])]
  split
  · simp
  · next h => simp only [Regs.write, if_neg h]

/-- Operands that R48's checks refuse: the fault comes before anything else. -/
theorem issue_refused (hs : Issuing s tid) (hc : checkOperands s tid ops = .error (.trap c w)) :
    issue len k ops body s = .next (faulted s tid len c w) := by
  obtain ⟨u, hu, rfl⟩ := issuing_turn hs
  obtain ⟨-, -, hsh⟩ := hs
  simp only [issue, issueRaw, hu, hsh, hc, bind, Except.bind, faulted, Option.map_some, Option.getD_some, Bool.false_eq_true,
    if_false]

/-- A port that faults when its readiness is asked (R335). -/
theorem issue_closed (hs : Issuing s tid) (hc : checkOperands s tid ops = .ok ()) (hp : k ≠ .priv)
    (hy : readyNow s tid ops = .error (.trap c w)) : issue len k ops body s = .next (faulted s tid len c w) := by
  obtain ⟨u, hu, rfl⟩ := issuing_turn hs
  obtain ⟨-, hpair, hsh⟩ := hs
  simp only [issue, issueRaw, hu, hsh, hc, hy, pairWaits_none k ops hpair, decide_eq_false hp, bind, Except.bind, faulted,
    Option.map_some, Option.getD_some, Bool.false_and, Bool.false_eq_true, if_false]

end

theorem readyNow_of_results {s : State} {tid : Nat} {ops : List Opd} (h : resultsReady s tid ops = .ok ()) :
    readyNow s tid ops = opdsReady s tid ops := by simp only [readyNow, h]

/-! ### Operands that are refused (R41-R43, R48) -/

/-- An operand that takes no part in R43's rules of ports: neither a port nor misused. -/
def Portless (s : State) (tid : Nat) (o : Opd) : Prop :=
  misuses s tid [] false o = none ∧ portNamed o = [] ∧ isSrcPort o = false

theorem portless_of_fits {s : State} {tid : Nat} {o : Opd} (h : Fits s tid o) : Portless s tid o :=
  ⟨misuses_fits h [] false (by simp), portNamed_fits h, isSrcPort_fits h⟩

theorem isPort_of_lt {n : Nat} (h : n < 120) : isPort n = false := by simp [isPort]; omega

theorem portless_src {s : State} {tid n : Nat} (h : n < 120) : Portless s tid (.src n) := by
  simp [Portless, misuses, portNamed, isSrcPort, isPort_of_lt h, Nat.not_le.mpr h]

theorem portless_dst {s : State} {tid n : Nat} (h : n < 120) : Portless s tid (.dst n) := by
  simp [Portless, misuses, portNamed, isSrcPort, isPort_of_lt h, Nat.not_le.mpr h]

theorem portless_rw {s : State} {tid n : Nat} (h : n < 120) : Portless s tid (.rw n) := by
  simp [Portless, misuses, portNamed, isSrcPort, Nat.not_le.mpr h]

/-- Portless operands before others change nothing of the search for a misused one. -/
theorem firstMisuse_append {s : State} {tid : Nat} {pre : List Opd} (h : ∀ o ∈ pre, Portless s tid o) (l : List Opd) :
    firstMisuse s tid [] false (pre ++ l) = firstMisuse s tid [] false l := by
  induction pre with
  | nil => rfl
  | cons o r ih =>
    obtain ⟨hm, hp, hsrc⟩ := h o (by simp)
    simp only [List.cons_append, firstMisuse, hm, hp, hsrc, List.nil_append, Bool.or_false]
    exact ih fun q hq => h q (by simp [hq])

theorem firstMisuse_portless {s : State} {tid : Nat} {ops : List Opd} (h : ∀ o ∈ ops, Portless s tid o) :
    firstMisuse s tid [] false ops = none := by
  have hl := firstMisuse_append h []
  rw [List.append_nil] at hl
  rw [hl]; rfl

/-- After operands that fit, the first misused one is reported (R48 step 4). -/
theorem checkOperands_misuse {s : State} {tid n : Nat} {pre post : List Opd} {o : Opd} (hpre : ∀ o ∈ pre, Fits s tid o)
    (h : misuses s tid [] false o = some n) (hn : n < 128) :
    checkOperands s tid (pre ++ o :: post) = faultAt PORT_MISUSE n := by
  have : firstMisuse s tid [] false (o :: post) = some n := by simp only [firstMisuse, h]
  simp only [checkOperands, firstMisuse_append (fun q hq => portless_of_fits (hpre q hq)), this, Nat.mod_eq_of_lt hn]

/-- And where none is misused, the first one above the limit (R48 step 5). -/
theorem checkOperands_limit {s : State} {tid n : Nat} {pre post : List Opd} {o : Opd} (hpre : ∀ o ∈ pre, Fits s tid o)
    (hpost : ∀ o ∈ post, Fits s tid o) (ho : Portless s tid o) (h : overLimit (s.task tid).limit o = some n) (hn : n < 128) :
    checkOperands s tid (pre ++ o :: post) = faultAt REG_LIMIT n := by
  have hm : firstMisuse s tid [] false (pre ++ o :: post) = none := firstMisuse_portless fun q hq => by
    rw [List.mem_append, List.mem_cons] at hq
    obtain hq | rfl | hq := hq
    · exact portless_of_fits (hpre q hq)
    · exact ho
    · exact portless_of_fits (hpost q hq)
  have hl : (pre ++ o :: post).findSome? (overLimit (s.task tid).limit) = some n := by
    rw [List.findSome?_append, List.findSome?_eq_none_iff.mpr fun q hq => overLimit_fits (hpre q hq), Option.none_or,
      List.findSome?_cons, h]
  simp only [checkOperands, hm, hl, Nat.mod_eq_of_lt hn]

section
variable {s : State} {tid n : Nat}

theorem overLimit_of_lt (h : n < 120) (hl : (s.task tid).limit < n) :
    overLimit (s.task tid).limit (.src n) = some n ∧ overLimit (s.task tid).limit (.dst n) = some n ∧
      overLimit (s.task tid).limit (.rw n) = some n := by
  simp [overLimit, h, hl]

theorem portAllowed_reserved (h : n = 126 ∨ n = 127) (dest : Bool) : portAllowed s tid n dest = false := by
  obtain rfl | rfl := h <;> simp [portAllowed, QA, QB, MP, EP, CT, ZR]

theorem misuses_src_of_refused (h : 120 ≤ n) (hp : portAllowed s tid n false = false) : misuses s tid [] false (.src n) = some n := by
  simp [misuses, h, hp]

theorem misuses_dst_of_refused (h : 120 ≤ n) (hp : portAllowed s tid n true = false) : misuses s tid [] false (.dst n) = some n := by
  simp [misuses, h, hp]

theorem misuses_rw_of_port (h : 120 ≤ n) (hz : n ≠ ZR) : misuses s tid [] false (.rw n) = some n := by
  simp [misuses, h, hz]

end
end Sys2Proof.Proofs
end

section
namespace Sys2Proof.Proofs
open Sys2Proof.Machine Sys2Proof.Laws

/-! ### Operand fields (O11) -/

section
variable {s s1 s2 s3 : State} {tid len d a b n : Nat} {x y : Word} {c : Code}

/-- R41, R44: the sources in order, then the destination. -/
theorem alu2_completes (f : Word → Word → Word) (hs : Issuing s tid)
    (hc : checkOperands s tid [.dst d, .src a, .src b] = .ok ()) (hy : readyNow s tid [.dst d, .src a, .src b] = .ok ())
    (ha : readReg s tid a = .ok (x, s1)) (hb : readReg s1 tid b = .ok (y, s2)) (hd : writeReg s2 tid d (f x y) = .ok s3)
    (hn : (s3.task tid).pair = none) :
    alu2 len d a b f s = .next (done s3 tid ([Opd.src a, .src b].any isSrcPort) (·.skip len)) :=
  issue_completes hs hc (by decide) hy (by simp only [ha, hb, hd, bind, Except.bind]) hn

theorem mul2_completes (f : Word → Word → Word) (hs : Issuing s tid)
    (hc : checkOperands s tid [.dst d, .src a, .src b] = .ok ()) (hy : readyNow s tid [.dst d, .src a, .src b] = .ok ())
    (ha : readReg s tid a = .ok (x, s1)) (hb : readReg s1 tid b = .ok (y, s2)) (hd : writeLate s2 tid d 3 (f x y) = .ok s3)
    (hn : (s3.task tid).pair = none) :
    mul2 len d a b f s = .next (done s3 tid ([Opd.src a, .src b].any isSrcPort) (·.skip len)) :=
  issue_completes hs hc (by decide) hy (by simp only [ha, hb, hd, bind, Except.bind]) hn

/-- R89: a product in a register is ready three cycles after issue. -/
theorem writeLate_register {m : Nat} {v : Word} (hp : isPort d = false) (hw : writeReg s tid d v = .ok s1) :
    writeLate s tid d m v = .ok (s1.later tid d m) := by
  simp only [writeLate, hw, hp, bind, Except.bind, Bool.false_eq_true, if_false]

/-- R44, R90: one for a port waits to be pushed. -/
theorem writeLate_port {m : Nat} {v : Word} (hp : isPort d = true) (hw : writeReg s tid d v = .ok s1) :
    writeLate s tid d m v =
      .ok (s.modTask tid fun t => { t with pushes := t.pushes ++ [(s.cycle + m, d, t.r.esel, v)] }) := by
  simp only [writeLate, hw, hp, bind, Except.bind, if_true]

theorem alu2_refused (f : Word → Word → Word) (hs : Issuing s tid)
    (hc : checkOperands s tid [.dst d, .src a, .src b] = faultAt c n) :
    alu2 len d a b f s = .next (faulted s tid len c (w64 n)) := issue_refused hs hc

theorem alu3_refused (f : Word → Word → Word → Word) (hs : Issuing s tid)
    (hc : checkOperands s tid [.rw d, .src a, .src b] = faultAt c n) :
    alu3 len d a b f s = .next (faulted s tid len c (w64 n)) := issue_refused hs hc

theorem aluRd_refused (f : Word → Word) (hs : Issuing s tid) (hc : checkOperands s tid [.rw d] = faultAt c n) :
    aluRd len d f s = .next (faulted s tid len c (w64 n)) := issue_refused hs hc

theorem touchOp_refused {trap : Bool} (hs : Issuing s tid) (hc : checkOperands s tid [.dst d, .src a] = faultAt c n) :
    touchOp len d a trap s = .next (faulted s tid len c (w64 n)) := issue_refused hs hc

theorem storeOp_refused {off : Word} {m : Nat} (hs : Issuing s tid)
    (hc : checkOperands s tid [.src d, .src a] = faultAt c n) :
    storeOp len d a off m s = .next (faulted s tid len c (w64 n)) := issue_refused hs hc

theorem execCsrr_refused {d : BitVec 7} {k : BitVec 12} (hs : Issuing s tid)
    (hc : checkOperands s tid [.dst d.toNat] = faultAt c n) :
    execCsrr d k s = .next (faulted s tid 4 c (w64 n)) := issue_refused hs hc

end

/-- Settles O11: what completes reads and writes as `alu2` and `mul2` say, and what a field must not name is refused by the checks
of R48 before anything else. -/
theorem operands : Obligations.Operands := by
  refine ⟨fun s s1 s2 s3 tid d a b x y hs hc hy hr ha hb => ?_, fun s tid d a b n hs hn => ?_⟩
  · have hy := (readyNow_of_results hr).trans hy
    refine ⟨fun hd hp => alu2_completes (· + ·) hs hc hy ha hb hd hp, fun hd hp => alu2_completes (· - ·) hs hc hy ha hb hd hp,
      fun hi hd hp => ?_, fun hi hd hp => ?_⟩
    · exact mul2_completes (· * ·) hs hc hy ha hb (writeLate_register hi hd) (by rw [pair_later, hp])
    · exact mul2_completes (· * ·) hs hc hy ha hb (writeLate_port hi hd) (by simp [hp])
  · have hd : Fits s tid (.dst d.toNat) := hn _ (by simp)
    have ha : Fits s tid (.src a.toNat) := hn _ (by simp)
    have hb : Fits s tid (.src b.toNat) := hn _ (by simp)
    have none_fit : ∀ o ∈ ([] : List Opd), Fits s tid o := by simp
    have sources : ∀ o ∈ [Opd.src a.toNat, .src b.toNat], Fits s tid o := by simp [ha, hb]
    have one_dst : ∀ o ∈ [Opd.dst d.toNat], Fits s tid o := by simp [hd]
    have dst_src : ∀ o ∈ [Opd.dst d.toNat, .src a.toNat], Fits s tid o := by simp [hd, ha]
    have one_a : ∀ o ∈ [Opd.src a.toNat], Fits s tid o := by simp [ha]
    have one_b : ∀ o ∈ [Opd.src b.toNat], Fits s tid o := by simp [hb]
    refine ⟨fun h hl => ?_, fun h => ?_, fun h => ?_, fun h hz => ?_⟩
    · obtain ⟨hsrc, hdst, hrw⟩ := overLimit_of_lt h hl
      exact ⟨alu2_refused (· + ·) hs (checkOperands_limit none_fit sources (portless_dst h) hdst n.isLt),
        alu2_refused (· + ·) hs (checkOperands_limit one_dst one_b (portless_src h) hsrc n.isLt),
        alu2_refused (· + ·) hs (checkOperands_limit dst_src none_fit (portless_src h) hsrc n.isLt),
        alu3_refused wSel hs (checkOperands_limit none_fit sources (portless_rw h) hrw n.isLt),
        touchOp_refused hs (checkOperands_limit one_dst none_fit (portless_src h) hsrc n.isLt),
        execCsrr_refused hs (checkOperands_limit none_fit none_fit (portless_dst h) hdst n.isLt)⟩
    · have hv : n.toNat = 126 ∨ n.toNat = 127 := by obtain rfl | rfl := h <;> simp
      have hsrc := misuses_src_of_refused (s := s) (tid := tid) (by omega) (portAllowed_reserved hv false)
      have hdst := misuses_dst_of_refused (s := s) (tid := tid) (by omega) (portAllowed_reserved hv true)
      exact ⟨alu2_refused (· + ·) hs (checkOperands_misuse none_fit hdst n.isLt),
        alu2_refused (· + ·) hs (checkOperands_misuse one_dst hsrc n.isLt),
        alu2_refused (· + ·) hs (checkOperands_misuse dst_src hsrc n.isLt),
        storeOp_refused hs (checkOperands_misuse none_fit hsrc n.isLt),
        touchOp_refused hs (checkOperands_misuse one_dst hsrc n.isLt)⟩
    · subst h
      exact alu2_refused (· + ·) hs
        (checkOperands_misuse none_fit (misuses_dst_of_refused (by decide) (by simp [portAllowed, QA, QB, MP, EP, CT])) (by decide))
    · have hrw := misuses_rw_of_port (s := s) (tid := tid) h fun e => hz (BitVec.eq_of_toNat_eq e)
      exact ⟨alu3_refused wSel hs (checkOperands_misuse none_fit hrw n.isLt),
        aluRd_refused (wLih · 0) hs (checkOperands_misuse none_fit hrw n.isLt)⟩
end Sys2Proof.Proofs
end

section
namespace Sys2Proof.Proofs
open Sys2Proof.Machine Sys2Proof.Laws

/-! ### One port as a source or as a destination (R41, R44) -/

/-- What a task becomes is all that counts of a change of it. -/
theorem modTask_congr {s : State} {tid : Nat} {f g : Task → Task} (h : f (s.task tid) = g (s.task tid)) :
    s.modTask tid f = s.modTask tid g := by simp only [State.modTask, h]

theorem pending_port {s : State} {tid n : Nat} (h : 120 ≤ n) (h' : n < 125) : pending s tid n = false := by
  simp [pending, Nat.not_lt.mpr h, show ¬128 ≤ n by omega]

theorem isPort_of_mem {n : Nat} (h : 120 ≤ n) (h' : n < 125) : isPort n = true := by
  simp [isPort, ZR, h, show n ≠ 125 by omega]

section
variable {s s' : State} {tid len d a n : Nat} {v : Word} {c : Code}

/-! A register or zr as the destination, a port as the source. -/

theorem checkOperands_from_port (hd : Names1 s tid d) (hn : 120 ≤ n) (hp : portAllowed s tid n false = true) :
    checkOperands s tid [.dst d, .src n] = .ok () := by
  have hd : Fits s tid (.dst d) := hd
  have hm : misuses s tid [] false (.src n) = none := by simp [misuses, hp]
  have hl : overLimit (s.task tid).limit (.src n) = none := by simp [overLimit, Nat.not_lt.mpr hn]
  simp only [checkOperands, firstMisuse, misuses_fits hd [] false (by simp), portNamed_fits hd, isSrcPort_fits hd, hm,
    List.append_nil, Bool.or_false, List.findSome?, overLimit_fits hd, hl]

theorem readyNow_from_port (hd : Names1 s tid d) (hn : 120 ≤ n) (hn' : n < 125) :
    readyNow s tid [.dst d, .src n] = sourceReady s tid n := by
  have hr : resultsReady s tid [.dst d, .src n] = .ok () := by
    simp [resultsReady, Opd.keys, show pending s tid d = false from ready_names hd, pending_port hn hn']
  rw [readyNow_of_results hr]
  cases h : sourceReady s tid n <;> simp [opdsReady, opdReady, destReady_names hd, h, bind, Except.bind]

theorem alu1_from_port (f : Word → Word) (hs : Issuing s tid) (hd : Names1 s tid d) (hn : 120 ≤ n) (hn' : n < 125)
    (hp : portAllowed s tid n false = true) (hy : sourceReady s tid n = .ok ()) (hr : readReg s tid n = .ok (v, s'))
    (hu : (s'.task tid).pair = none) :
    alu1 len d n f s = .next (afterSync s' tid fun r => (r.write d (f v)).skip len) := by
  have hb : (readReg s tid n >>= fun p => writeReg p.2 tid d (f p.1)) = writeReg s' tid d (f v) := by
    simp only [hr, bind, Except.bind]
  refine (issue_completes_put hs (checkOperands_from_port hd hn hp) (by decide) ((readyNow_from_port hd hn hn').trans hy) hd hb
    hu).trans ?_
  simp [afterSync, isSrcPort, isPort_of_mem hn hn']

/-- R335: a queue that holds nothing and whose other end has ended. -/
theorem alu1_from_closed (f : Word → Word) (hs : Issuing s tid) (hd : Names1 s tid d) (hn : 120 ≤ n) (hn' : n < 125)
    (hp : portAllowed s tid n false = true) (hy : sourceReady s tid n = fault c) :
    alu1 len d n f s = .next (faulted s tid len c 0) :=
  issue_closed hs (checkOperands_from_port hd hn hp) (by decide) ((readyNow_from_port hd hn hn').trans hy)

theorem alu1_from_misused (f : Word → Word) (hs : Issuing s tid) (hd : Names1 s tid d) (hn : 120 ≤ n) (hn' : n < 125)
    (hp : portAllowed s tid n false = false) : alu1 len d n f s = .next (faulted s tid len PORT_MISUSE (w64 n)) :=
  issue_refused hs (checkOperands_misuse (pre := [.dst d]) (by simpa [Fits] using hd) (misuses_src_of_refused hn hp) (by omega))

/-! A port as the destination, a register or zr as the source. -/

theorem checkOperands_to_port (ha : Names1 s tid a) (hn : 120 ≤ n) (hn' : n < 125) (hp : portAllowed s tid n true = true) :
    checkOperands s tid [.dst n, .src a] = .ok () := by
  have ha : Fits s tid (.src a) := ha
  have hm : misuses s tid [] false (.dst n) = none := by simp [misuses, hp]
  have hm' : misuses s tid [n] false (.src a) = none := misuses_fits ha [n] false (by simp; omega)
  have hs : portNamed (.dst n) = [n] := by simp [portNamed, isPort_of_mem hn hn']
  have hl : overLimit (s.task tid).limit (.dst n) = none := by simp [overLimit, Nat.not_lt.mpr hn]
  simp only [checkOperands, firstMisuse, hm, hs, hm', isSrcPort, List.append_nil, Bool.or_false, List.findSome?, overLimit_fits ha,
    hl]

theorem readyNow_to_port (ha : Names1 s tid a) (hn : 120 ≤ n) (hn' : n < 125) :
    readyNow s tid [.dst n, .src a] = destReady s tid n := by
  have hr : resultsReady s tid [.dst n, .src a] = .ok () := by
    simp [resultsReady, Opd.keys, show pending s tid a = false from ready_names ha, pending_port hn hn']
  rw [readyNow_of_results hr]
  cases h : destReady s tid n <;> simp [opdsReady, opdReady, sourceReady_names ha, h, bind, Except.bind]

theorem alu1_to_port (f : Word → Word) (hs : Issuing s tid) (ha : Names1 s tid a) (hn : 120 ≤ n) (hn' : n < 125)
    (hp : portAllowed s tid n true = true) (hy : destReady s tid n = .ok ())
    (hw : writeReg s tid n (f (Reads s tid a)) = .ok s') (hu : (s'.task tid).pair = none) :
    alu1 len n a f s = .next (after s' tid (·.skip len)) := by
  have hb : (readReg s tid a >>= fun p => writeReg p.2 tid n (f p.1)) = .ok s' := by
    simp only [readReg_names ha, hw, bind, Except.bind]
  have hz : isPort a = false := isPort_names ha
  refine (issue_completes hs (checkOperands_to_port ha hn hn' hp) (by decide) ((readyNow_to_port ha hn hn').trans hy) hb
    hu).trans ?_
  simp only [after, List.any_cons, List.any_nil, hz, isSrcPort, decide_false, Bool.and_false, Bool.false_and, Bool.or_false, ne_eq,
    not_true_eq_false]

theorem alu1_to_closed (f : Word → Word) (hs : Issuing s tid) (ha : Names1 s tid a) (hn : 120 ≤ n) (hn' : n < 125)
    (hp : portAllowed s tid n true = true) (hy : destReady s tid n = fault c) :
    alu1 len n a f s = .next (faulted s tid len c 0) :=
  issue_closed hs (checkOperands_to_port ha hn hn' hp) (by decide) ((readyNow_to_port ha hn hn').trans hy)

theorem alu1_to_misused (f : Word → Word) (hs : Issuing s tid) (hn : 120 ≤ n) (hn' : n < 125)
    (hp : portAllowed s tid n true = false) : alu1 len n a f s = .next (faulted s tid len PORT_MISUSE (w64 n)) :=
  issue_refused hs (checkOperands_misuse (pre := []) (by simp) (misuses_dst_of_refused hn hp) (by omega))

end

/-! ### What each port gives and takes (R41, R44, R166, R334, R335) -/

section
variable {s : State} {tid n : Nat} {v : Word} {x : Link} {isA : Bool}

theorem elemFlags_eq (v : Word) : elemFlags v = BitVec.ofNat 6 (v.toNat / 2^50) := by
  apply BitVec.eq_of_toNat_eq
  simp [elemFlags, bits]

theorem readReg_mp (hn : (s.task tid).pair = none) {r : List Word} (h : (s.task tid).mpIn = v :: r) :
    readReg s tid MP = .ok (v, s.modTask tid fun t => { t with mpIn := r }) := by
  have e : s.modTask tid (fun t => { t with mpIn := t.mpIn.tail }) = s.modTask tid fun t => { t with mpIn := r } :=
    modTask_congr (by simp only [h, List.tail_cons])
  simp [readReg, readPort, hn, popPort, MP, EP, QA, QB, h, e]

/-- R81, R161: the flags of a matrix completion element come with it. -/
theorem readReg_ep_matrix (hn : (s.task tid).pair = none) {r : List Word} (he : (s.task tid).r.esel = 1)
    (h : (s.task tid).mxDone = v :: r) :
    readReg s tid EP = .ok (v, s.modTask tid fun t =>
      { t with mxDone := r, mxOut := t.mxOut - 1, r := { t.r with fflags := t.r.fflags ||| elemFlags v } }) := by
  have hp : epPop s tid = (v, s.modTask tid fun t =>
      { t with mxDone := r, mxOut := t.mxOut - 1, r := { t.r with fflags := t.r.fflags ||| elemFlags v } }) := by
    simp only [epPop, he, h, List.headD_cons, if_true]
    exact congrArg (Prod.mk v) (modTask_congr (by simp only [h, List.tail_cons]))
  simp [readReg, readPort, hn, MP, EP, QA, QB, hp]

theorem readReg_ep_transfer (hn : (s.task tid).pair = none) {r : List Word} (he : (s.task tid).r.esel = 2)
    (h : (s.task tid).xfDone = v :: r) :
    readReg s tid EP = .ok (v, s.modTask tid fun t => { t with xfDone := r, xfOut := t.xfOut - 1 }) := by
  have e : s.modTask tid (fun t => { t with xfDone := t.xfDone.tail, xfOut := t.xfOut - 1 }) =
      s.modTask tid fun t => { t with xfDone := r, xfOut := t.xfOut - 1 } :=
    modTask_congr (by simp only [h, List.tail_cons])
  simp [readReg, readPort, hn, epPop, MP, EP, QA, QB, he, h, e]

theorem readReg_queue (hn : (s.task tid).pair = none) (hq : n = QA ∨ n = QB) (hl : linkOf s tid = some (x, isA)) {r : List Word}
    (h : x.q n = v :: r) : readReg s tid n = .ok (v, setLinkQ s tid n List.tail) := by
  have hz : ¬n < 120 ∧ n ≠ MP ∧ n ≠ EP := by obtain rfl | rfl := hq <;> decide
  obtain ⟨h120, hmp, hep⟩ := hz
  simp [readReg, h120, hq, readPort, hn, hep, popPort, hmp, hl, h]

/-- A value that no record keeps is taken as it is (R411). -/
theorem takeTask_unrecorded {kind : Nat} (h : Unrecorded s tid) : takeTask s tid kind v = .ok (v, s) := by
  unfold Unrecorded at h
  unfold takeTask
  cases hl : (s.task tid).launch with
  | none => simp [hl]
  | some l => simp only [hl] at h ⊢; simp only [h]

/-- R41: ct reads armature time. -/
theorem readReg_ct (hn : (s.task tid).pair = none) (h : Unrecorded s tid) :
    readReg s tid CT = .ok (s.time (dieOfCore (s.task tid).core), s) := by
  simp [readReg, CT, QA, QB, MP, EP, outside, hn, takeTask_unrecorded h]

theorem writeReg_queue (hq : n = QA ∨ n = QB) : writeReg s tid n v = .ok (setLinkQ s tid n (· ++ [v])) := by
  have hz : ¬n < 120 := by obtain rfl | rfl := hq <;> decide
  simp [writeReg, hz, hq]

theorem portAllowed_queue (hq : n = QA ∨ n = QB) (hl : linkOf s tid = some (x, isA)) (dest : Bool) :
    portAllowed s tid n dest = (readsQueue x isA n != dest) := by
  simp [portAllowed, hq, hl]

theorem sourceReady_queue (hq : n = QA ∨ n = QB) (hl : linkOf s tid = some (x, isA)) {r : List Word} (h : x.q n = v :: r) :
    sourceReady s tid n = .ok () := by
  simp [sourceReady, hq, hl, h]

theorem sourceReady_closed (hq : n = QA ∨ n = QB) (hl : linkOf s tid = some (x, isA)) (h : x.q n = [])
    (he : x.otherEnded isA = true) : sourceReady s tid n = fault STRM_CLOSED := by
  simp [sourceReady, hq, hl, h, he]

/-- A port that no pending result is to go to. -/
theorem no_push {t : Task} (h : ∀ p ∈ t.pushes, p.2.1 ≠ n) : (t.pushes.any fun p => p.2.1 == n) = false := by
  simpa using fun a b c d hp => h (a, b, c, d) hp

theorem destReady_queue (hq : n = QA ∨ n = QB) (hl : linkOf s tid = some (x, isA)) (he : x.otherEnded isA = false)
    (hp : ∀ p ∈ (s.task tid).pushes, p.2.1 ≠ n) (h : (x.q n).length < 8) : destReady s tid n = .ok () := by
  simp only [destReady, hl, he, no_push hp, h, if_true, Bool.false_eq_true, if_false]
  exact if_pos (by simpa using hq)

theorem destReady_closed (hq : n = QA ∨ n = QB) (hl : linkOf s tid = some (x, isA)) (he : x.otherEnded isA = true) :
    destReady s tid n = fault STRM_CLOSED := by
  simp [destReady, hq, hl, he]

theorem setLinkQ_task (k : List Word → List Word) : (setLinkQ s tid n k).task tid = s.task tid := by
  simp only [setLinkQ]
  split <;> rfl

end

/-! ### MOV from and to ports (O6) -/

theorem add_offset_zero (v : Word) : v + (0 : BitVec 9).signExtend 64 = v := BitVec.add_zero v

/-- Settles O6: each form is `alu1` with a port as its source or destination. -/
theorem ports : Obligations.Ports := by
  refine ⟨fun s tid a hs ha => ?_, fun s tid d a x isA hs hn => ⟨fun hr => ?_, fun n hq hl => ?_⟩⟩
  · have ha : Names1 s tid a.toNat := ha _ (by simp)
    have hu : (s.task tid).pair = none := hs.2.1
    refine ⟨fun v r hh hm => ?_, fun hm hp => ?_, fun v r he hm => ?_, fun v r he hm => ?_, fun he hw hp => ?_⟩
    · exact alu1_from_port id hs ha (by decide) (by decide) (by simp [portAllowed, QA, QB, MP, hh, hm])
        (by simp [sourceReady, QA, QB, MP, EP]) (readReg_mp hu hm) (by simpa using hu)
    · exact alu1_to_port id hs ha (by decide) (by decide) (by simp [portAllowed, QA, QB, MP, hm])
        (by simp [destReady, QA, QB, MP, no_push hp]) (by simp only [writeReg, QA, QB, MP, id]; rfl) (by simpa using hu)
    · refine (alu1_from_port id hs ha (by decide) (by decide) (by simp [portAllowed, QA, QB, MP, EP, he])
        (by simp [sourceReady, QA, QB, EP, he, hm]) (readReg_ep_matrix hu he hm) (by simpa using hu)).trans ?_
      simp only [afterSync, done, modTask_modTask, elemFlags_eq, id]
    · exact alu1_from_port id hs ha (by decide) (by decide) (by simp [portAllowed, QA, QB, MP, EP, he])
        (by simp [sourceReady, QA, QB, EP, he, hm]) (readReg_ep_transfer hu he hm) (by simpa using hu)
    · exact alu1_to_port id hs ha (by decide) (by decide) (by simpa [portAllowed, QA, QB, MP, EP] using he)
        (by simp [destReady, QA, QB, MP, EP, no_push hp, hw]) (by simp [writeReg, QA, QB, MP, EP, epPush, hw])
        (by simpa using hu)
  · refine (alu1_from_port (· + (0 : BitVec 9).signExtend 64) hs (hn _ (by simp)) (by decide) (by decide)
      (by simp [portAllowed, QA, QB, MP, EP, CT]) (by simp [sourceReady, QA, QB, EP, CT]) (readReg_ct hs.2.1 hr) hs.2.1).trans ?_
    simp only [add_offset_zero]
    rfl
  · have hd : Names1 s tid d.toNat := hn _ (by simp)
    have ha : Names1 s tid a.toNat := hn _ (by simp)
    have hu : (s.task tid).pair = none := hs.2.1
    have hv : n.toNat = QA ∨ n.toNat = QB := by obtain rfl | rfl := hq <;> decide
    have h120 : 120 ≤ n.toNat := by simp only [QA, QB] at hv; omega
    have h125 : n.toNat < 125 := by simp only [QA, QB] at hv; omega
    have allowed : ∀ {dest}, readsQueue x isA n.toNat ≠ dest → portAllowed s tid n.toNat dest = true := fun h => by
      rw [portAllowed_queue hv hl, bne_iff_ne]; exact h
    have misused : ∀ {dest}, readsQueue x isA n.toNat = dest → portAllowed s tid n.toNat dest = false := fun h => by
      rw [portAllowed_queue hv hl, h, bne_self_eq_false]
    have hset : ∀ k : List Word → List Word, ((setLinkQ s tid n.toNat k).task tid).pair = none := fun k => by
      rw [setLinkQ_task, hu]
    refine ⟨fun v r hr hx => ?_, fun hr hx he => ?_, fun hr he hx hp => ?_, fun hr he => ?_, fun hr => ?_, fun hr => ?_⟩
    · refine (alu1_from_port (· + (0 : BitVec 9).signExtend 64) hs hd h120 h125 (allowed (by simp [hr]))
        (sourceReady_queue hv hl hx) (readReg_queue hu hv hl hx) (hset _)).trans ?_
      simp only [add_offset_zero]
      rfl
    · exact alu1_from_closed (· + (0 : BitVec 9).signExtend 64) hs hd h120 h125 (allowed (by simp [hr]))
        (sourceReady_closed hv hl hx he)
    · refine alu1_to_port (· + (0 : BitVec 9).signExtend 64) hs ha h120 h125 (allowed (by simp [hr]))
        (destReady_queue hv hl he hp hx) ?_ (hset _)
      rw [add_offset_zero, writeReg_queue hv]
    · exact alu1_to_closed (· + (0 : BitVec 9).signExtend 64) hs ha h120 h125 (allowed (by simp [hr])) (destReady_closed hv hl he)
    · exact alu1_to_misused (· + (0 : BitVec 9).signExtend 64) hs h120 h125 (misused hr)
    · exact alu1_from_misused (· + (0 : BitVec 9).signExtend 64) hs hd h120 h125 (misused hr)

end Sys2Proof.Proofs
end

section
namespace Sys2Proof.Proofs
open Sys2Proof.Machine Sys2Proof.Laws

/-! ### What translation and the tracking of tokens leave alone (O21) -/

/-- What an atomic rests on: memory with its poison, the threads, the launches and the dies' orders. -/
def work (s : State) : List Host.Cell × FMap Bool × FMap Task × FMap Launch × FMap Die :=
  (s.mem, s.poison, s.tasks, s.launches, s.dies)

section
variable {s t : State}

theorem work_mem (h : work t = work s) : t.mem = s.mem := (Prod.mk.inj h).1

theorem work_poison (h : work t = work s) : t.poison = s.poison := congrArg (·.2.1) h

theorem work_tasks (h : work t = work s) : t.tasks = s.tasks := congrArg (·.2.2.1) h

theorem work_launches (h : work t = work s) : t.launches = s.launches := congrArg (·.2.2.2.1) h

theorem work_dies (h : work t = work s) : t.dies = s.dies := congrArg (·.2.2.2.2) h

theorem work_task (h : work t = work s) (k : Nat) : t.task k = s.task k := by simp only [State.task, work_tasks h]

end

@[simp] theorem work_modCoh (s : State) (f : Coherence → Coherence) : work (s.modCoh f) = work s := rfl

@[simp] theorem work_lookupCore (s : State) (k ctx va : Nat) : work (lookupCore s k ctx va).2 = work s := by
  simp only [lookupCore]
  split
  · rfl
  · split <;> rfl

@[simp] theorem work_noteLeaf (s : State) (ctx : Nat) (x : Xl) : work (noteLeaf s ctx x) = work s := by
  cases x with
  | hit dpa e =>
    simp only [noteLeaf]
    split
    · split <;> simp
    · split <;> simp
  | _ => rfl

@[simp] theorem work_xlThread (s : State) (tid va : Nat) (a : Acc) : work (xlThread s tid va a).2 = work s := by
  have h := work_lookupCore s (s.task tid).core (s.task tid).ctx va
  simp only [xlThread]
  split <;> next e => simpa [e] using h

/-- A place in translated memory is a hit. -/
theorem placeOf_mem {s s1 : State} {tid va n dpa : Nat} {a : Acc} {door : Bool} {e : Word} (hw : isWin va = false)
    (h : placeOf s tid va n a door = .ok (.mem dpa e, s1)) : xlThread s tid va a = (.hit dpa e, s1) := by
  rcases hx : xlThread s tid va a with ⟨x, t⟩
  cases x with
  | hit b f =>
    simp only [placeOf, hw, hx, Bool.false_eq_true, if_false, xlPlace, xlPlaceAt, bind, Except.bind] at h
    split at h
    · cases h
    · split at h
      · cases h
      · cases h; rfl
  | _ => simp [placeOf, hw, hx, xlPlace, xlPlaceAt, bind, Except.bind, faultAt] at h

@[simp] theorem work_sendQueued (agent slice : Nat) (s : State) : work (sendQueued agent slice s) = work s := by
  simp only [sendQueued]
  split <;> simp

/-- Requests that end at a home, whose agent is no die's, start no store. -/
theorem work_settleOuts (s : State) {l agent : Nat} (h : ¬agent < 8) : work (settleOuts s l agent) = work s := by
  simp only [settleOuts, if_neg h]
  split
  · rfl
  · simp only [pushCoh, work_modCoh]
    exact (foldl_keeps work _ _ fun s _ => work_sendQueued agent _ s).trans (work_modCoh _ _)

@[simp] theorem work_takeTok (s : State) (l agent : Nat) (t : Tok) : work (s.takeTok l agent t) = work s := by
  simp only [State.takeTok]
  split
  · rfl
  · split
    · split <;> rfl
    · rfl

@[simp] theorem work_landTok (s : State) (l agent : Nat) (t : Tok) : work (landTok s l agent t) = work s := by
  simp only [landTok]
  split
  · rfl
  · split
    · rfl
    · simp only [State.putTok]
      split
      · rfl
      · split <;> rfl

@[simp] theorem work_askHost (s : State) (kind line agent : Nat) : work (askHost s kind line agent) = work s := by
  simp only [askHost]
  split <;> rfl

@[simp] theorem work_giveHost (s : State) (l : Nat) : work (giveHost s l) = work s := by
  simp only [giveHost]
  split
  · split
    · rfl
    · exact work_askHost _ _ _ _
  · rfl

@[simp] theorem work_returnHome (s : State) (l agent : Nat) : work (returnHome s l agent) = work s := by
  simp [returnHome]

@[simp] theorem work_takeBack (s : State) (die l : Nat) (but : Option Nat) : work (takeBack s die l but) = work s := rfl

end Sys2Proof.Proofs
end

section
namespace Sys2Proof.Proofs
open Sys2Proof.Machine Sys2Proof.Laws

/-! ### Changes of threads that only early loads notice (R216) -/

/-- Threads are as they were, but for what their loads have read early. -/
def SameButEarly (s t : State) : Prop := ∀ k, { t.task k with early := (s.task k).early } = s.task k

section
variable {s t u : State}

theorem sameButEarly_of_tasks (h : t.tasks = s.tasks) : SameButEarly s t := fun k => by simp only [State.task, h]

theorem SameButEarly.trans (h : SameButEarly s t) (k : SameButEarly t u) : SameButEarly s u := fun i => by
  rw [← h i, ← k i]

theorem SameButEarly.task_eq (h : SameButEarly s t) (k : Nat) : t.task k = { s.task k with early := (t.task k).early } := by
  rw [← h k]

end

theorem dropEarly_task (s : State) (tid : Nat) : (dropEarly s tid).task tid = { s.task tid with early := [] } := by
  unfold dropEarly
  split
  · next h => rw [← List.isEmpty_iff.mp h]
  · simp

theorem dropEarly_task_ne (s : State) {tid k : Nat} (h : k ≠ tid) : (dropEarly s tid).task k = s.task k := by
  unfold dropEarly
  split
  · rfl
  · exact task_modTask_ne s _ h

theorem dropEarly_sameButEarly (s : State) (tid : Nat) : SameButEarly s (dropEarly s tid) := fun k => by
  by_cases h : k = tid
  · subst h; rw [dropEarly_task]
  · rw [dropEarly_task_ne s h]

theorem dropEarly_rest (s : State) (tid : Nat) : (dropEarly s tid).poison = s.poison ∧ (dropEarly s tid).launches = s.launches ∧
    (dropEarly s tid).dies = s.dies := by
  unfold dropEarly
  split <;> exact ⟨rfl, rfl, rfl⟩

/-- What a store that becomes visible marks of a thread: early values that it has overtaken. -/
theorem noteVisible_sameButEarly (s : State) (die dpa n : Nat) : SameButEarly s (noteVisible s die dpa n) := fun k => by
  have e : (noteVisible s die dpa n).tasks = s.tasks.map fun e => (e.1, if e.2.early.isEmpty || dieOfCore e.2.core ≠ die then e.2
      else { e.2 with early := e.2.early.map fun x =>
        if x.dpa < dpa + n && dpa < x.dpa + x.bytes.length then { x with hit := true } else x }) := by
    simp only [noteVisible]
    refine List.map_congr_left fun x _ => ?_
    split <;> rfl
  simp only [State.task, e, mfind_map_entries]
  cases mfind s.tasks k with
  | none => rfl
  | some t => simp only [Option.map_some, Option.getD_some]; split <;> rfl

/-! ### An atomic on translated memory (R223, R252, R253) -/

/-- A line has its first address' region. -/
theorem region_line (dpa : Nat) : region (128 * lineOf dpa) = region dpa := by
  simp only [region, lineOf]; omega

theorem ubOwned_backed (s : State) {l : Nat} (h : region (128 * l) ≠ 8) : ubOwned s l = s := by
  simp only [ubOwned, if_neg h]

theorem restHome_backed (s : State) {l : Nat} (h : region (128 * l) ≠ 8) : restHome s l = s := by
  simp only [restHome, if_neg h]

theorem needFrame_backed (s : State) {l : Nat} (h : region (128 * l) ≠ 8) : needFrame s l = .ok s := by
  have hf : frameOf s l = none := by simp [frameOf, h]
  simp only [needFrame, frameWaits, hf, Option.bind_none, readFrame]

theorem homeAgent_not_die (s : State) (l : Nat) : ¬homeAgent s l < 8 := by
  simp only [homeAgent]
  split
  · omega
  · omega
  · split <;> omega
  · omega

theorem commit_backed (s : State) (agent : Nat) {a : Nat} (bs : List Byte) (h : region a ≠ 8) :
    (commit s agent a bs).mem = memPutAll s.mem a bs ∧ (commit s agent a bs).tasks = s.tasks := by
  simp only [commit, ubOwned_backed _ ((region_line a).trans_ne h)]
  split <;> exact ⟨rfl, rfl⟩

section
variable {s s1 s2 : State} {tid agent va dpa op d die l : Nat} {v : Word} {uncached : Bool}

/-- What an atomic returns, and the bytes that it stores. -/
def amoOld (s : State) (dpa : Nat) : Word := w64 (leVal (memBytes s.mem dpa 8))

def amoBytes (s : State) (tid dpa op d : Nat) : List Byte :=
  toBytes 8 (amoNew op (amoOld s dpa) (s.g tid d) (s.g tid (d + 1))).toNat

theorem amoOld_work (h : work s1 = work s) : amoOld s1 dpa = amoOld s dpa := by simp only [amoOld, work_mem h]

theorem amoBytes_work (h : work s1 = work s) : amoBytes s1 tid dpa op d = amoBytes s tid dpa op d := by
  simp only [amoBytes, amoOld_work h, State.g, work_task h]

theorem unrecorded_congr (ht : (s1.task tid).launch = (s.task tid).launch) (hl : s1.launches = s.launches)
    (h : Unrecorded s tid) : Unrecorded s1 tid := by
  unfold Unrecorded recMode launchOf at h ⊢
  rw [ht, hl]
  exact h

theorem unrecorded_of_work (hw : work s1 = work s) (h : Unrecorded s tid) : Unrecorded s1 tid :=
  unrecorded_congr (by rw [work_task hw]) (work_launches hw) h

theorem noteAmo_unrecorded (h : Unrecorded s tid) : noteAmo s tid dpa = .ok s := by
  unfold Unrecorded at h
  unfold noteAmo
  cases hl : (s.task tid).launch with
  | none => simp [hl]
  | some l => simp only [hl] at h ⊢; simp only [h, if_true]

/-- The operation itself: the old value, and the new one in memory. -/
theorem amoAt_ok (agent va op d : Nat) (hp : poisonIn s.poison dpa 8 = none) (hu : Unrecorded s tid) (h : region dpa ≠ 8) :
    ∃ t, amoAt s tid agent va dpa op d = .ok (amoOld s dpa, t) ∧ t.mem = memPutAll s.mem dpa (amoBytes s tid dpa op d) ∧
      t.tasks = s.tasks := by
  obtain ⟨hm, ht⟩ := commit_backed s agent (amoBytes s tid dpa op d) h
  refine ⟨(commit s agent dpa (amoBytes s tid dpa op d)).storedAt va (amoBytes s tid dpa op d), ?_, hm, ht⟩
  simp only [amoAt, hp, noteAmo_unrecorded hu]
  rfl

/-- Near: in the second-level cache of the thread's die (R253). -/
theorem amoMem_near (hp : poisonIn s.poison dpa 8 = none) (hu : Unrecorded s tid) (h : region dpa ≤ 2)
    (hq : lineQueued s (dieOfCore (s.task tid).core) (lineOf dpa) = false)
    (hw : (s.tok (lineOf dpa) (dieOfCore (s.task tid).core)).mayWrite = true) :
    ∃ t, amoMem s tid va dpa op d false uncached = .ok (amoOld s dpa, t) ∧
      t.mem = memPutAll s.mem dpa (amoBytes s tid dpa op d) ∧ SameButEarly s t := by
  obtain ⟨u, hu, hm, ht⟩ := amoAt_ok (dieOfCore (s.task tid).core) va op d hp hu (by omega : region dpa ≠ 8)
  let v := takeBack (noteVisible u (dieOfCore (s.task tid).core) dpa 8) (dieOfCore (s.task tid).core) (lineOf dpa) none
  have hv : v.mem = u.mem ∧ SameButEarly u v := ⟨rfl, noteVisible_sameButEarly u _ _ _⟩
  let t := if uncached then returnHome v (lineOf dpa) (dieOfCore (s.task tid).core) else v
  have hvt : work t = work v := by simp only [t]; split <;> simp
  refine ⟨t, ?_, (work_mem hvt).trans (hv.1.trans hm),
    (sameButEarly_of_tasks ht).trans (hv.2.trans (sameButEarly_of_tasks (work_tasks hvt)))⟩
  have h3 : (region dpa == 3) = false := by simp; omega
  simp only [amoMem, hq, h3, needWrite, hw, hu, bind, Except.bind, Bool.or_self, Bool.false_eq_true, if_false, if_true]
  rfl

/-- Far: at the line's home (R253). -/
theorem amoMem_far (hp : poisonIn s.poison dpa 8 = none) (hu : Unrecorded s tid) (h : region dpa ≤ 2)
    (hq : lineQueued s (dieOfCore (s.task tid).core) (lineOf dpa) = false) (hn : needHome s (lineOf dpa) = .ok ()) :
    ∃ t, amoMem s tid va dpa op d true uncached = .ok (amoOld s dpa, t) ∧
      t.mem = memPutAll s.mem dpa (amoBytes s tid dpa op d) ∧ SameButEarly s t := by
  have h8 : region (128 * lineOf dpa) ≠ 8 := by rw [region_line]; omega
  have hk : work (settleOuts s (lineOf dpa) (homeAgent s (lineOf dpa))) = work s := work_settleOuts s (homeAgent_not_die s _)
  obtain ⟨u, hu, hm, ht⟩ := amoAt_ok (homeAgent (settleOuts s (lineOf dpa) (homeAgent s (lineOf dpa))) (lineOf dpa)) va op d
    (by rw [work_poison hk]; exact hp) (unrecorded_of_work hk hu) (by omega : region dpa ≠ 8)
  rw [amoOld_work hk] at hu
  rw [amoBytes_work hk, work_mem hk] at hm
  refine ⟨noteVisible u (dieOfCore (s.task tid).core) dpa 8, ?_, hm,
    (sameButEarly_of_tasks (ht.trans (work_tasks hk))).trans (noteVisible_sameButEarly u _ _ _)⟩
  have h3 : region dpa ≠ 3 := by omega
  simp only [amoMem, hq, hn, needFrame_backed _ h8, atPeer, h3, hu, restHome_backed _ h8, bind, Except.bind, Bool.true_or,
    Bool.false_eq_true, if_false, if_true, ne_eq, not_false_eq_true]

end

end Sys2Proof.Proofs
end

section
namespace Sys2Proof.Proofs
open Sys2Proof.Machine Sys2Proof.Laws

/-! ### AMO and AMOF (O21) -/

section
variable {s s1 s2 : State} {tid d a op ord scope dpa va : Nat} {far : Bool} {e v : Word}

/-- Once its place is known and nothing before it is waited for, an atomic is what it does to memory. -/
theorem amoOp_completes (hs : Opens s tid (amoOpds (op == 9) d a)) (ha : Names1 s tid a) (hd : Names1 s tid d)
    (hva : va = vaOf (Reads s tid a)) (hb : ptrBad (Reads s tid a) = false) (hw : isWin va = false) (h8 : va % 8 = 0)
    (hp : placeOf (dropEarly s tid) tid va 8 .rw true = .ok (.mem dpa e, s1)) (h4 : region dpa ≠ 4)
    (hf : needFifo s1 tid = .ok ()) (hr : amoReleases ord = true → needRel s1 tid scope = .ok ())
    (hm : amoMem s1 tid va dpa op d far (isUncached e dpa) = .ok (v, s2)) (hn : (s2.task tid).pair = none) :
    amoOp d a op ord scope far s = .next (afterSync s2 tid fun r => (r.write d v).skip 4) := by
  subst hva
  have hread : readReg (dropEarly s tid) tid a = .ok (Reads s tid a, dropEarly s tid) := by
    obtain ⟨h, -⟩ | rfl := ha
    · simp [readReg, Reads, h, State.g, dropEarly_task]
    · simp [readReg, Reads, QA, QB, MP, EP, CT]
  refine issue_put hs nofun hd ?_ hn
  cases ho : amoReleases ord with
  | false =>
    simp only [hread, hb, hw, h8, hp, h4, hf, hm, bind, Except.bind, Bool.or_self, Bool.false_eq_true, if_false, ne_eq,
      not_true_eq_false]
  | true =>
    simp only [hread, hb, hw, h8, hp, h4, hf, hm, hr ho, bind, Except.bind, Bool.or_self, Bool.false_eq_true, if_false, if_true,
      ne_eq, not_true_eq_false]

theorem done_task (s : State) (tid : Nat) (y : Bool) (f : Regs → Regs) :
    (done s tid y f).task tid = { s.task tid with
      r := f (s.task tid).r, series := none, mark := none, stall := none, part := [], busy := false,
      early := if y then [] else (s.task tid).early } := by
  have h : ∀ g, ({ s.modTask tid g with turn := none } : State).task tid = g (s.task tid) := task_modTask s tid
  rw [done, h]

theorem done_task_ne (s : State) {tid k : Nat} (y : Bool) (f : Regs → Regs) (h : k ≠ tid) :
    (done s tid y f).task k = s.task k := by
  have e : ∀ g, ({ s.modTask tid g with turn := none } : State).task k = s.task k := fun g => task_modTask_ne s g h
  rw [done, e]

/-- What an atomic's place leaves of the state before it. -/
theorem placed_work (hw : isWin va = false) (h : placeOf (dropEarly s tid) tid va 8 .rw true = .ok (.mem dpa e, s1)) :
    work s1 = work (dropEarly s tid) := by
  have hx := work_xlThread (dropEarly s tid) tid va .rw
  rwa [placeOf_mem hw h] at hx

theorem relReady_congr (hd : s1.dies = s.dies) (ht : s1.task tid = { s.task tid with early := [] }) :
    relReady s1 tid scope = relReady s tid scope := by
  have hdie : ∀ k, s1.die k = s.die k := fun k => by simp only [State.die, hd]
  unfold relReady
  rw [ht]
  simp only [orderClear, hdie]

end

/-- R252: the new value, by the sign of the operands. -/
theorem amoNew_eq (n : Nat) (old x y : Word) :
    amoNew n old x y = match n with
      | 0 => old + x
      | 1 => old &&& x
      | 2 => old ||| x
      | 3 => old ^^^ x
      | 4 => if old.toInt < x.toInt then old else x
      | 5 => if old.toInt < x.toInt then x else old
      | 6 => if old.toNat < x.toNat then old else x
      | 7 => if old.toNat < x.toNat then x else old
      | 8 => x
      | _ => if old = x then y else old := by
  simp only [amoNew, BitVec.slt_eq_decide, BitVec.ult_eq_decide, decide_eq_true_eq] <;> rfl

/-- Settles O21: what the atomic's place and its home's or die's tokens leave alone makes it the one step of `amoAt`. -/
theorem memoryAtomics : Obligations.MemoryAtomics := by
  intro s s1 tid dpa e d a o r c hs hn hd hlim hrd hrd' t p va x old new ho hb hwin h8 hp hreg hfifo hun hrel hpoison hrec hq same
  have ha : Names1 s tid a.toNat := hn _ (by simp)
  have hva : va = vaOf p := by simp [va, vaOf, bits]
  have hw : isWin va = false := by simpa [isWin, region] using hwin
  have hk := placed_work hw hp
  obtain ⟨hpo, hla, hdi⟩ := dropEarly_rest s tid
  have ht : s1.task tid = { t with early := [] } := (work_task hk tid).trans (dropEarly_task s tid)
  have hmem : s1.mem = s.mem := (work_mem hk).trans (dropEarly_mem s tid)
  have hsame : SameButEarly s s1 := (dropEarly_sameButEarly s tid).trans (sameButEarly_of_tasks (work_tasks hk))
  have hold : amoOld s1 dpa = old := by simp only [amoOld, hmem]; rfl
  have hnew : amoBytes s1 tid dpa o.toNat d.toNat = toBytes 8 new.toNat := by
    simp only [amoBytes, hold, State.g, ht]
    exact congrArg (fun w : Word => toBytes 8 w.toNat) (amoNew_eq o.toNat old x (s.g tid (d.toNat + 1)))
  have hd' : Names1 s tid d.toNat := .inl ⟨hd, by split at hlim <;> omega, hrd⟩
  have hops : Opens s tid (amoOpds (o.toNat == 9) d.toNat a.toNat) := by
    refine ⟨hs, ?_⟩
    by_cases h9 : o = 9
    · subst h9
      have hlim : d.toNat < (s.task tid).limit := hlim
      simp [amoOpds, Fits, ha, hd, hlim, hrd, hrd' rfl]
    · have hz : (o.toNat == 9) = false := by simpa using fun h => h9 (BitVec.eq_of_toNat_eq h)
      rw [if_neg h9] at hlim
      simp [amoOpds, hz, Fits, ha, hd, hlim, hrd]
  have hcore : dieOfCore (s1.task tid).core = t.core / 896 := by rw [ht]; rfl
  have finish : ∀ (far : Bool) (s2 : State),
      amoMem s1 tid va dpa o.toNat d.toNat far (isUncached e dpa) = .ok (old, s2) →
      s2.mem = memPutAll s1.mem dpa (toBytes 8 new.toNat) → SameButEarly s1 s2 →
      ∃ s', amoOp d.toNat a.toNat o.toNat r.toNat c.toNat far s = .next s' ∧ s'.mem = memPutAll s.mem dpa (toBytes 8 new.toNat) ∧
        (s'.task tid).r = (t.r.write d.toNat old).skip 4 ∧ same s' := by
    intro far s2 hm hmem2 hs2
    have h2 := hsame.trans hs2
    have htask := h2.task_eq tid
    refine ⟨_, amoOp_completes hops ha hd' hva ?_ hw h8 hp (by omega) ?_ (fun hr => ?_) hm (by rw [htask]; exact hs.2.1), ?_, ?_, ?_⟩
    · simpa [ptrBad, bits] using hb
    · simp [needFifo, ht, t, hfifo]
    · simp [needRel, relReady_congr (hdi ▸ work_dies hk) ht, hrel (by simpa [amoReleases] using hr)]
    · exact hmem2.trans (by rw [hmem])
    · rw [afterSync, done_task, htask]
    · exact fun k hk => by rw [afterSync, done_task_ne _ _ _ hk]; exact h2 k
  have hrec1 : Unrecorded s1 tid := unrecorded_congr (by rw [ht]) ((work_launches hk).trans hla) hrec
  have hpoison1 : poisonIn s1.poison dpa 8 = none := by rw [work_poison hk, hpo]; exact hpoison
  refine ⟨fun hwr => ?_, fun hhome => ?_⟩
  · obtain ⟨s2, hm, hmem2, hs2⟩ := amoMem_near (va := va) (op := o.toNat) (d := d.toNat) (uncached := isUncached e dpa) hpoison1 hrec1
      hreg (by rw [hcore]; exact hq) (by rw [hcore]; exact hwr)
    rw [hold] at hm
    rw [hnew] at hmem2
    exact finish false s2 hm hmem2 hs2
  · obtain ⟨s2, hm, hmem2, hs2⟩ := amoMem_far (va := va) (op := o.toNat) (d := d.toNat) (uncached := isUncached e dpa) hpoison1 hrec1
      hreg (by rw [hcore]; exact hq) hhome
    rw [hold] at hm
    rw [hnew] at hmem2
    exact finish true s2 hm hmem2 hs2

end Sys2Proof.Proofs
end

section
namespace Sys2Proof.Proofs
open Sys2Proof.Machine Sys2Proof.Laws

/-! ### Events about a task (O39) -/

section
variable {s : State} {tid : Nat} {h : Halt}

theorem ended_of_live (hl : liveTask s tid = true) : ended (s.task tid) = false := by
  simp only [liveTask, Bool.and_eq_true, Bool.not_eq_true'] at hl
  exact hl.2

theorem taskEvent_of_live (f : State → State) (hl : liveTask s tid = true) : taskEvent tid f s = .next (f s) := by
  simp only [taskEvent, hl, if_true]

theorem haltedEvent_of_halted (f : State → State) (hl : liveTask s tid = true) (hh : (s.task tid).halt = some h)
    (he : (s.task tid).ending = false) : haltedEvent tid f s = .next (f s) := by
  simp [haltedEvent, hl, hh, he]

theorem haltedEvent_of_running (f : State → State) (hh : (s.task tid).halt = none) : haltedEvent tid f s = .next s := by
  simp [haltedEvent, hh]

end

/-! ### A kill (R308, R392) -/

theorem scrubSlot_task (s : State) (tid k : Nat) : (scrubSlot s tid).task k = s.task k := by
  simp only [scrubSlot, holdSlot]
  split
  · rfl
  · split <;> rfl

theorem finishTask_phase (s : State) (tid : Nat) (p : Phase) : ((finishTask s tid p).task tid).phase = p := by
  simp [finishTask]

theorem endTask_phase {s : State} {tid : Nat} (e : End) (h : ended (s.task tid) = false) :
    ((endTask s tid e).task tid).phase = endPhase e := by
  rw [endTask, if_neg (by simp [h])]
  exact finishTask_phase _ _ _

theorem killTask_phase {s : State} {tid : Nat} (c : Code) (h : ended (s.task tid) = false) (hn : (s.task tid).pair = none) :
    ((killTask s tid c).task tid).phase = .killed := by
  have ht : (clearLocks (scrubSlot s tid) tid).task tid = s.task tid := scrubSlot_task s tid tid
  have hs : endShadow (clearLocks (scrubSlot s tid) tid) tid = clearLocks (scrubSlot s tid) tid := by
    simp only [endShadow, ht, hn]
  simp only [killTask, h, hn, hs, Bool.false_eq_true, if_false]
  exact endTask_phase (.killed c) (by simpa [ht, ended] using h)

/-! ### Fault messages and the firmware (R51, R241, R291, R298, R333, R385) -/

@[simp] theorem dropFault_task (s : State) (tid k : Nat) : (dropFault s tid).task k = s.task k := rfl

theorem dropFault_faults (s : State) (tid : Nat) :
    ∀ m ∈ ((dropFault s tid).cluster ((s.task tid).core / 8)).faults, m.tid ≠ tid := by
  have e : (dropFault s tid).cluster ((s.task tid).core / 8) = _ := cluster_modCluster s _ _
  rw [e]
  simp

section
variable {s : State} {tid : Nat} {h : Halt}

theorem execFaultMessage_of_halted {cl i : Nat} {m : FaultMsg} (hm : (s.cluster cl).faults[i]? = some m) (ht : m.tid = tid)
    (hl : liveTask s tid = true) (hh : (s.task tid).halt = some h) : execFaultMessage cl i s = .next (serveFault s tid h) := by
  subst ht
  simp only [execFaultMessage, hm, hh, hl, if_true]

theorem serveFault_other (hc : h.code ∉ [MISALIGN, TRAP, FUT_POISON, FUT_CANCEL, FUT_FULL, STRM_SLOT]) :
    serveFault s tid h = killTask s tid h.code := by
  simp only [List.mem_cons, List.not_mem_nil, or_false, not_or] at hc
  obtain ⟨h1, h2, h3, h4, h5, h6⟩ := hc
  simp only [serveFault, h1, h2, h3, h4, h5, h6, if_false, decide_false, Bool.or_self, Bool.false_eq_true]

theorem serveFault_misalign (hc : h.code = MISALIGN) (hm : misOf h.len h.insn = none) :
    serveFault s tid h = killTask s tid MISALIGN := by
  simp only [serveFault, hc, serveMisalign, hm, if_true]

theorem serveFault_trap (hc : h.code = TRAP) (ht : (s.ctx (s.task tid).ctx).traptab = 0) :
    serveFault s tid h = killTask s tid TRAP := by
  have hn : ¬TRAP = MISALIGN := by decide
  simp only [serveFault, hc, hn, serveTrap, ht, decide_true, Bool.true_or, if_true, if_false]

theorem serveFault_cancel (hc : h.code = FUT_CANCEL) : serveFault s tid h = cancelHere (dropFault s tid) tid := by
  have hn : ¬FUT_CANCEL = MISALIGN ∧ ¬FUT_CANCEL = TRAP ∧ ¬FUT_CANCEL = FUT_POISON := by decide
  simp only [serveFault, hc, hn, if_true, if_false]

theorem serveFault_held (hc : h.code = FUT_FULL ∨ h.code = STRM_SLOT) : serveFault s tid h = holdThread s tid h := by
  obtain hc | hc := hc
  · have hn : ¬FUT_FULL = MISALIGN ∧ ¬FUT_FULL = TRAP ∧ ¬FUT_FULL = FUT_POISON ∧ ¬FUT_FULL = FUT_CANCEL := by decide
    simp only [serveFault, hc, hn, decide_true, Bool.true_or, if_true, if_false]
  · have hn : ¬STRM_SLOT = MISALIGN ∧ ¬STRM_SLOT = TRAP ∧ ¬STRM_SLOT = FUT_POISON ∧ ¬STRM_SLOT = FUT_CANCEL := by decide
    simp only [serveFault, hc, hn, decide_true, Bool.or_true, if_true, if_false]

end

/-! ### Held threads (R291, R333) -/

/-- An entry that is found stands in the map. -/
theorem mem_of_mfind {V : Type} {m : FMap V} {k : Nat} {v : V} (h : mfind m k = some v) : (k, v) ∈ m := by
  induction m with
  | nil => cases h
  | cons e r ih =>
    obtain ⟨j, w⟩ := e
    simp only [mfind] at h
    split at h
    · next hk => cases h; subst hk; exact List.mem_cons_self
    · split at h
      · cases h
      · exact List.mem_cons_of_mem _ (ih h)

theorem mem_heldFor {s : State} {tid : Nat} {h : Halt} {c : Code} {on : Nat → Bool} (hl : liveTask s tid = true)
    (hh : (s.task tid).halt = some h) (hd : h.held = true) (hc : h.code = c) (ho : on (s.task tid).core = true) :
    tid ∈ heldFor s c on := by
  have hm : mfind s.tasks tid = some (s.task tid) := by
    simp only [liveTask, Bool.and_eq_true] at hl
    obtain ⟨t, ht⟩ := Option.isSome_iff_exists.mp hl.1
    simp only [State.task, ht, Option.getD_some]
  have he := ended_of_live hl
  refine List.mem_map.mpr ⟨(tid, s.task tid), List.mem_filter.mpr ⟨mem_of_mfind hm, ?_⟩, rfl⟩
  simp [ho, he, hh, hd, hc]

/-- A thread that executes again keeps all but its halt. -/
theorem resumeHeld_task (s : State) (u k : Nat) :
    ((resumeHeld s u).task k = { s.task k with halt := none }) ∨ (k ≠ u ∧ (resumeHeld s u).task k = s.task k) := by
  by_cases h : k = u
  · subst h; exact .inl (task_modTask s k _)
  · exact .inr ⟨h, task_modTask_ne s _ h⟩

theorem slotRuns_resumeHeld (s : State) (u k ctx n : Nat) : slotRuns (resumeHeld s u) k ctx n = slotRuns s k ctx n := by
  have hr : runsOf (resumeHeld s u) k = runsOf s k := by
    have ht : ∀ j, ((resumeHeld s u).task j).rfbase = (s.task j).rfbase ∧ ((resumeHeld s u).task j).cls = (s.task j).cls :=
      fun j => by obtain e | ⟨-, e⟩ := resumeHeld_task s u j <;> simp [e]
    simp only [runsOf, ht]
    rfl
  simp only [slotRuns, allRuns, freeRuns, hr]
  rfl

/-- Once a fold over threads meets this one in a state where it resumes it, its halt is over. -/
theorem foldl_halt_none {g : State → Nat → State} {tid : Nat} {P : State → Prop}
    (hkeep : ∀ s u, (s.task tid).halt = none → ((g s u).task tid).halt = none)
    (hP : ∀ s u, P s → P (g s u)) (hend : ∀ s, P s → ((g s tid).task tid).halt = none) {l : List Nat} {s : State} (hs : P s)
    (h : tid ∈ l) : ((l.foldl g s).task tid).halt = none := by
  have stays : ∀ (r : List Nat) (s : State), (s.task tid).halt = none → ((r.foldl g s).task tid).halt = none := fun r => by
    induction r with
    | nil => exact fun s h => h
    | cons u r ih => exact fun s h => ih _ (hkeep s u h)
  induction l generalizing s with
  | nil => cases h
  | cons u r ih =>
    obtain rfl | h := List.mem_cons.mp h
    · exact stays r _ (hend s hs)
    · exact ih (hP s u hs) h

theorem resumeHeld_halt_none {s : State} {tid : Nat} (u : Nat) (h : (s.task tid).halt = none) :
    ((resumeHeld s u).task tid).halt = none := by
  obtain e | ⟨-, e⟩ := resumeHeld_task s u tid <;> simp [e, h]

theorem resumeHeld_same (s : State) (tid : Nat) : ((resumeHeld s tid).task tid).halt = none := by
  simp [resumeHeld]

theorem futFullReport_halt_none {s : State} {tid : Nat} {h : Halt} (hl : liveTask s tid = true)
    (hh : (s.task tid).halt = some h) (hd : h.held = true) (hc : h.code = FUT_FULL) :
    (((heldFor s FUT_FULL fun k => clOfCore k == (s.task tid).core / 8).foldl resumeHeld s).task tid).halt = none :=
  foldl_halt_none (P := fun _ => True) (fun _ u => resumeHeld_halt_none u) (fun _ _ h => h) (fun s _ => resumeHeld_same s tid)
    trivial (mem_heldFor hl hh hd hc (by simp [clOfCore]))

/-- What STRM_SLOT_REPORT does to a held thread. -/
def resumeServed (core : Nat) (s : State) (t : Nat) : State :=
  if (slotRuns s core (s.task t).ctx (classRegs (s.task t).cls)).isEmpty then s else resumeHeld s t

theorem execStrmSlotReport_eq (core : Nat) (s : State) :
    execStrmSlotReport core s = .next ((heldFor s STRM_SLOT (· == core)).foldl (resumeServed core) s) := rfl

/-- A slot and a run that serve a thread still do after others have been resumed. -/
theorem resumeServed_slotRuns {s : State} {core tid : Nat} (u : Nat)
    (h : slotRuns s core (s.task tid).ctx (classRegs (s.task tid).cls) ≠ []) :
    slotRuns (resumeServed core s u) core ((resumeServed core s u).task tid).ctx
      (classRegs ((resumeServed core s u).task tid).cls) ≠ [] := by
  unfold resumeServed
  split
  · exact h
  · rw [slotRuns_resumeHeld]
    obtain e | ⟨-, e⟩ := resumeHeld_task s u tid <;> simpa only [e] using h

theorem strmSlotReport_halt_none {s : State} {tid core : Nat} {h : Halt} (hl : liveTask s tid = true)
    (hh : (s.task tid).halt = some h) (hd : h.held = true) (hc : h.code = STRM_SLOT) (hk : (s.task tid).core = core)
    (hr : slotRuns s core (s.task tid).ctx (classRegs (s.task tid).cls) ≠ []) :
    (((heldFor s STRM_SLOT (· == core)).foldl (resumeServed core) s).task tid).halt = none := by
  refine foldl_halt_none (P := fun s => slotRuns s core (s.task tid).ctx (classRegs (s.task tid).cls) ≠ [])
    (fun s u hn => ?_) (fun s u => resumeServed_slotRuns u) (fun s hs => ?_) hr
    (mem_heldFor hl hh hd hc (beq_iff_eq.mpr hk))
  · unfold resumeServed
    split
    · exact hn
    · exact resumeHeld_halt_none u hn
  · rw [resumeServed, if_neg (by simpa using hs)]
    exact resumeHeld_same s tid

theorem waitlimExpiry_kills {s : State} {tid : Nat} {h : Halt} (hl : liveTask s tid = true)
    (hh : (s.task tid).halt = some h) (hd : h.held = true) (hw : waitOver s tid = true) :
    execWaitlimExpiry tid s = .next (killTask s tid h.code) := by
  rw [execWaitlimExpiry, taskEvent_of_live _ hl]
  simp only [hw, hh, hd, Bool.not_true, Bool.false_eq_true, if_false, if_true]

theorem waitlimExpiry_early {s : State} {tid : Nat} (hl : liveTask s tid = true) (hw : waitOver s tid = false) :
    execWaitlimExpiry tid s = .next s := by
  rw [execWaitlimExpiry, taskEvent_of_live _ hl]
  simp only [hw, Bool.not_false, if_true]

/-! ### The register window (R51) -/

section
variable {s : State} {tid : Nat} {h : Halt}

theorem windowAccess_read {sel idx : Nat} (v : Word) (hl : liveTask s tid = true) (hh : (s.task tid).halt = some h)
    (he : (s.task tid).ending = false) (hs : sel ≠ 8) : execCscWindowAccess tid sel idx false v s = .next s := by
  rw [execCscWindowAccess, haltedEvent_of_halted _ hl hh he, if_neg (by decide), if_neg hs]

theorem windowAccess_write {sel idx : Nat} {v : Word} {f : Task → Task} (hl : liveTask s tid = true)
    (hh : (s.task tid).halt = some h) (he : (s.task tid).ending = false)
    (hw : windowWrite s tid sel idx v = s.modTask tid f) :
    execCscWindowAccess tid sel idx true v s = .next (s.modTask tid f) := by
  rw [execCscWindowAccess, haltedEvent_of_halted _ hl hh he, if_pos rfl, hw]

theorem windowWrite_register {n : Nat} (v : Word) (hi : n ≤ (s.task tid).limit) :
    windowWrite s tid 0 n v = s.modTask tid fun t => { t with r := t.r.put n v } := if_pos hi

theorem windowWrite_vl {n : Nat} {v : Word} (hv : v.toNat ≤ 256) :
    windowWrite s tid 7 n v = s.modTask tid fun t => { t with claim := t.claim.map fun c => { c with vl := v.toNat } } :=
  if_pos hv

end

/-! ### A thread's resumption and its hold (R51, R291, R333) -/

theorem resumeAt_task (s : State) (tid : Nat) (pc : Addr) :
    (resumeAt (dropFault s tid) tid pc).task tid =
      { s.task tid with halt := none, r := { (s.task tid).r with pc := pc &&& ~~~(1 : Addr) } } := by
  simp [resumeAt, State.modR, Task.modR]

theorem holdThread_task (s : State) (tid : Nat) (h : Halt) :
    (holdThread s tid h).task tid =
      { s.task tid with halt := some { h with held := true }, series := some ((s.task tid).series.getD s.cycle) } := by
  simp [holdThread]

/-! ### Timeouts, retries and moves of frames (R278, R331) -/

section
variable {s : State} {tid : Nat}

theorem handlerTimeout_kills (hl : liveTask s tid = true) (hh : (s.task tid).handler = true)
    (hs : (s.task tid).slot.isSome = true) (ht : (s.task tid).startedAt + 2^20 ≤ s.cycle) :
    execHandlerTimeout tid s = .next (killTask s tid HANDLER_TIME) := by
  rw [execHandlerTimeout, taskEvent_of_live _ hl]
  simp only [hh, hs, ge_iff_le, decide_eq_true ht, Bool.and_self, if_true]

theorem handlerTimeout_early (hl : liveTask s tid = true) (ht : s.cycle < (s.task tid).startedAt + 2^20) :
    execHandlerTimeout tid s = .next s := by
  rw [execHandlerTimeout, taskEvent_of_live _ hl]
  simp only [ge_iff_le, decide_eq_false (Nat.not_le.mpr ht), Bool.and_false, Bool.false_eq_true, if_false]

theorem threadError_kills (hl : liveTask s tid = true) (hn : (s.task tid).pair = none)
    (hs : (s.task tid).slot.isSome = true) : execThreadError tid s = .next (killTask s tid ECC_UNCORR) := by
  rw [execThreadError, taskEvent_of_live _ hl]
  simp only [hs, killThread, hn, Option.isSome_none, Bool.false_and, Bool.false_eq_true, if_false, if_true]

theorem ldlkRetry_again {x : Nat} (hl : liveTask s tid = true) (hx : (s.task tid).lockRetry = some x) (hc : x ≤ s.cycle) :
    execLdlkRetry tid s = .next (s.modTask tid fun t => { t with lockRetry := none }) := by
  rw [execLdlkRetry, taskEvent_of_live _ hl]
  simp only [hx, ge_iff_le, hc, if_true]

theorem ldlkRetry_early {x : Nat} (hl : liveTask s tid = true) (hx : (s.task tid).lockRetry = some x) (hc : s.cycle < x) :
    execLdlkRetry tid s = .next s := by
  rw [execLdlkRetry, taskEvent_of_live _ hl]
  simp only [hx, ge_iff_le, Nat.not_le.mpr hc, if_false]

theorem frameMove_parked {base : Nat} (hl : liveTask s tid = true) (hp : (s.task tid).phase = .parked) :
    execFrameMove tid base s = .next (s.modTask tid fun t => { t with rfbase := base }) := by
  rw [execFrameMove, taskEvent_of_live _ hl]
  simp only [hp, if_true]

end

/-! ### A wait that ends (R340) -/

theorem waittDue_eq {s : State} {t : Task} {x : Word} {p : Park} (h : t.waitUntil = some (x, p)) :
    waittDue s t = decide (x.toNat ≤ (s.time (t.core / 896)).toNat) := by
  simp only [waittDue, h, Option.any_some, BitVec.ult_eq_decide, ← decide_not, Nat.not_lt]
  rfl

theorem finishWait_unpaired {s : State} {tid : Nat} (p : Park) (hn : (s.task tid).pair = none) :
    finishWait s tid p = done s tid true fun r => r.skip p.len := by
  rw [finishWait, retire_unpaired .sync [] _ (by simp [State.advance, hn])]
  simp only [done, State.advance, State.modR, Task.modR, modTask_modTask, Regs.skip, id]
  rfl

/-- A destination's write changes its thread's registers only. -/
theorem written_task (s : State) (tid d : Nat) (v : Word) :
    (if d < 120 then (s.modR tid fun r => r.write d v).wrote v else s).task tid =
      { s.task tid with r := (s.task tid).r.write d v } := by
  split
  · exact task_modTask s tid fun t => t.modR fun r => r.write d v
  · next h => simp only [Regs.write, if_neg h]

/-- WAITT's time has come: it writes the time to its destination and its thread goes on. -/
theorem waittExpiry_completes {s : State} {tid : Nat} {x : Word} {p : Park} {d : BitVec 7} (hl : liveTask s tid = true)
    (hn : (s.task tid).pair = none) (hw : (s.task tid).waitUntil = some (x, p)) (hp : p.what = .waitt d) (hpops : p.pops = [])
    (hx : x.toNat ≤ (s.time ((s.task tid).core / 896)).toNat) (hd : Names1 s tid d.toNat) (hu : Unrecorded s tid) :
    ∃ s', execWaittExpiry tid s = .next s' ∧ s'.mem = s.mem ∧ (s'.task tid).waitUntil = none ∧
      (s'.task tid).r = ((s.task tid).r.write d.toNat (s.time ((s.task tid).core / 896))).skip p.len := by
  let s1 := inTurn (s.modTask tid fun t => { t with waitUntil := none }) tid p
  let ct := s.time ((s.task tid).core / 896)
  let s2 := if d.toNat < 120 then (s1.modR tid fun r => r.write d.toNat ct).wrote ct else s1
  have ht : s1.task tid = { s.task tid with waitUntil := none } := by
    have e : ∀ g, (inTurn (s.modTask tid g) tid p).task tid = g (s.task tid) := task_modTask s tid
    exact e _
  have hu1 : Unrecorded s1 tid := unrecorded_congr (s := s) (by rw [ht]) rfl hu
  have htime : s1.time (dieOfCore (s1.task tid).core) = ct := by rw [ht]; rfl
  have hdone : waittDone s1 tid d.toNat = .ok s2 := by
    simp only [waittDone, takeTask_unrecorded hu1, htime, writeReg_names _ hd, bind, Except.bind]
    rfl
  have ht2 : s2.task tid = { s.task tid with waitUntil := none, r := (s.task tid).r.write d.toNat ct } :=
    (written_task s1 tid d.toNat ct).trans (by rw [ht])
  have hm2 : s2.mem = s.mem := by simp only [s2]; split <;> rfl
  have hfin := finishWait_unpaired p (show (s2.task tid).pair = none by rw [ht2]; exact hn)
  refine ⟨done s2 tid true fun r => r.skip p.len, ?_, hm2, by rw [done_task, ht2], by rw [done_task, ht2]⟩
  rw [execWaittExpiry, taskEvent_of_live _ hl]
  simp only [hw, waittDue_eq hw, hx, decide_true, Bool.not_true, Bool.false_eq_true, if_false, hp, hpops, popAll, List.foldl_nil]
  simp only [show waittDone (inTurn (s.modTask tid fun t => { t with waitUntil := none }) tid p) tid d.toNat = .ok s2 from hdone,
    hfin]

theorem waittExpiry_early {s : State} {tid : Nat} {x : Word} {p : Park} (hl : liveTask s tid = true)
    (hw : (s.task tid).waitUntil = some (x, p)) (hx : (s.time ((s.task tid).core / 896)).toNat < x.toNat) :
    execWaittExpiry tid s = .next s := by
  rw [execWaittExpiry, taskEvent_of_live _ hl]
  simp only [hw, waittDue_eq hw, decide_eq_false (Nat.not_le.mpr hx), Bool.not_false, if_true]

/-- Settles O39: each event of the CSC and its firmware, by what it finds of the thread. -/
theorem faultService : Obligations.FaultService := by
  intro s tid n i pc c v h hl hn t cl set ends
  have ends_of : ∀ {ev : Instr} {c : Code}, exec ev s = .next (killTask s tid c) → ends ev c := fun he =>
    ⟨he, killTask_phase _ (ended_of_live hl) hn⟩
  refine ⟨fun hh => ⟨?_, ?_, ?_⟩, fun hh he => ⟨⟨resumeAt (dropFault s tid) tid pc, ?_, rfl, resumeAt_task s tid pc,
      dropFault_faults s tid⟩, ends_of ?_, ?_, fun hi => ?_, ?_, ?_, fun hv => ?_, fun m hm ht => ?_, fun hd hc => ?_, fun hd hc hr => ?_,
      fun hd hw => ends_of (waitlimExpiry_kills hl hh hd hw)⟩,
    waitlimExpiry_early hl, fun hd hs ht => ends_of (handlerTimeout_kills hl hd hs ht), handlerTimeout_early hl,
    fun hs => ends_of (threadError_kills hl hn hs),
    fun x p hw => ⟨fun d hp hpops hx hd hu => waittExpiry_completes hl hn hw hp hpops hx hd hu, waittExpiry_early hl hw⟩,
    fun x hx => ⟨ldlkRetry_again hl hx, ldlkRetry_early hl hx⟩, frameMove_parked hl⟩
  · show execCscResume tid pc s = _
    exact haltedEvent_of_running _ hh
  · show execCscKill tid c s = _
    exact haltedEvent_of_running _ hh
  · show execCscWindowAccess tid n i true v s = _
    exact haltedEvent_of_running _ hh
  · show execCscResume tid pc s = _
    exact haltedEvent_of_halted _ hl hh he
  · show execCscKill tid c s = _
    exact haltedEvent_of_halted _ hl hh he
  · exact windowAccess_read v hl hh he (by decide)
  · exact windowAccess_write hl hh he (windowWrite_register v hi)
  · exact windowAccess_write hl hh he rfl
  · exact windowAccess_write hl hh he rfl
  · exact windowAccess_write hl hh he (windowWrite_vl hv)
  · have hev : exec (.faultMessage n i) s = _ := execFaultMessage_of_halted hm ht hl hh
    refine ⟨fun hc => ends_of (hev.trans (by rw [serveFault_other hc])),
      fun hc hmis => ends_of (hev.trans (by rw [serveFault_misalign hc hmis])),
      fun hc htab => ends_of (hev.trans (by rw [serveFault_trap hc htab])),
      fun hc => hev.trans (by rw [serveFault_cancel hc]),
      fun hc => ⟨holdThread s tid h, hev.trans (by rw [serveFault_held hc]), ?_, ?_, dropFault_faults s tid⟩⟩
    · rw [holdThread_task]
    · rw [holdThread_task]
  · exact ⟨_, rfl, futFullReport_halt_none hl hh hd hc, congrArg Cluster.freed (cluster_modCluster _ _ _)⟩
  · exact ⟨_, execStrmSlotReport_eq _ s, strmSlotReport_halt_none hl hh hd hc rfl hr⟩

end Sys2Proof.Proofs
end

section
namespace Sys2Proof.Proofs
open Sys2Proof.Machine

/-! ### Magnitudes that every mode rounds alike (R72) -/

/-- Two magnitudes have the same neighbours among the multiples of 2^-32: no mode of R72, SR with its 32-bit draw included, tells
them apart when it rounds them to an integer. -/
def Alike (y z : ℝ) : Prop := ⌊y * 2^32⌋ = ⌊z * 2^32⌋ ∧ ⌈y * 2^32⌉ = ⌈z * 2^32⌉

theorem Alike.refl (y : ℝ) : Alike y y := ⟨rfl, rfl⟩

theorem Alike.le_iff {y z : ℝ} (h : Alike y z) (c : ℤ) : (c : ℝ) ≤ y * 2^32 ↔ (c : ℝ) ≤ z * 2^32 := by
  rw [← Int.le_floor, ← Int.le_floor, h.1]

theorem Alike.lt_iff {y z : ℝ} (h : Alike y z) (c : ℤ) : (c : ℝ) < y * 2^32 ↔ (c : ℝ) < z * 2^32 := by
  rw [← Int.lt_ceil, ← Int.lt_ceil, h.2]

theorem Alike.eq_iff {y z : ℝ} (h : Alike y z) (c : ℤ) : y * 2^32 = c ↔ z * 2^32 = c := by
  have hle := h.le_iff c
  have hlt := h.lt_iff c
  rw [← not_lt] at hle
  constructor <;> intro e <;> apply le_antisymm <;> grind

theorem Alike.int_iff {y z : ℝ} (h : Alike y z) (c : ℤ) : y = c ↔ z = c := by
  have hc := h.eq_iff (c * 2^32)
  simpa only [Int.cast_mul, Int.cast_pow, Int.cast_ofNat, mul_left_inj' (pow_ne_zero 32 (two_ne_zero' ℝ))] using hc

theorem Alike.floor_eq {y z : ℝ} (h : Alike y z) : ⌊y⌋ = ⌊z⌋ := by
  refine eq_of_forall_le_iff fun c => ?_
  have hc := h.le_iff (c * 2^32)
  simpa only [Int.cast_mul, Int.cast_pow, Int.cast_ofNat, mul_le_mul_iff_left₀ (pow_pos (two_pos (α := ℝ)) 32), ← Int.le_floor] using hc

/-- Positive magnitudes below 2^-32 are alike. -/
theorem alike_of_small {y z : ℝ} (hy : 0 < y) (hy' : y * 2^32 < 1) (hz : 0 < z) (hz' : z * 2^32 < 1) : Alike y z := by
  have floor_zero {u : ℝ} (h : 0 < u) (h' : u * 2^32 < 1) : ⌊u * 2^32⌋ = 0 := Int.floor_eq_iff.2 (by push_cast; constructor <;> linarith)
  have ceil_one {u : ℝ} (h : 0 < u) (h' : u * 2^32 < 1) : ⌈u * 2^32⌉ = 1 := Int.ceil_eq_iff.2 (by push_cast; constructor <;> linarith)
  exact ⟨by rw [floor_zero hy hy', floor_zero hz hz'], by rw [ceil_one hy hy', ceil_one hz hz']⟩

/-- R72's table: whether a mode goes from the lower neighbour lo up, at the fraction t above it. -/
def GoesUp (neg : Bool) (rm : Nat) (draw : BitVec 32) (lo : ℤ) (t : ℝ) : Prop :=
  match rm with
  | 1 => 1 / 2 < t ∨ t = 1 / 2 ∧ lo % 2 = 1
  | 2 => False
  | 3 => neg = true ∧ t ≠ 0
  | 4 => neg = false ∧ t ≠ 0
  | _ => (draw.toNat : ℤ) < ⌊t * 2^32⌋

theorem chosen_iff {n : Bool} {x : ℝ} {q : ℤ} {rm : Nat} {r : BitVec 32} {k : ℤ} : Chosen n x q rm r k ↔
    (GoesUp n rm r ⌊x / 2^q⌋ (x / 2^q - ⌊x / 2^q⌋) → k = ⌊x / 2^q⌋ + 1) ∧
    (¬ GoesUp n rm r ⌊x / 2^q⌋ (x / 2^q - ⌊x / 2^q⌋) → k = ⌊x / 2^q⌋) := Iff.rfl

theorem chosen_unique {n : Bool} {x : ℝ} {q : ℤ} {rm : Nat} {r : BitVec 32} {k l : ℤ} (hk : Chosen n x q rm r k)
    (hl : Chosen n x q rm r l) : k = l := by
  rw [chosen_iff] at hk hl
  by_cases up : GoesUp n rm r ⌊x / 2^q⌋ (x / 2^q - ⌊x / 2^q⌋)
  · rw [hk.1 up, hl.1 up]
  · rw [hk.2 up, hl.2 up]

theorem not_goesUp_zero (n : Bool) (rm : Nat) (r : BitVec 32) (lo : ℤ) : ¬ GoesUp n rm r lo 0 := by
  unfold GoesUp
  split <;> norm_num

/-- A mode chooses a neighbour of the magnitude. -/
theorem chosen_bounds {n : Bool} {x : ℝ} {q : ℤ} {rm : Nat} {r : BitVec 32} {k : ℤ} (h : Chosen n x q rm r k) :
    ⌊x / 2^q⌋ ≤ k ∧ k ≤ ⌊x / 2^q⌋ + 1 := by
  rw [chosen_iff] at h
  by_cases up : GoesUp n rm r ⌊x / 2^q⌋ (x / 2^q - ⌊x / 2^q⌋)
  · have := h.1 up; omega
  · have := h.2 up; omega

/-- A magnitude on the grid is chosen itself. -/
theorem chosen_of_int {n : Bool} {x : ℝ} {q : ℤ} {rm : Nat} {r : BitVec 32} {k c : ℤ} (h : Chosen n x q rm r k)
    (hc : x / 2^q = c) : k = c := by
  rw [chosen_iff, hc, Int.floor_intCast, sub_self] at h
  exact h.2 (not_goesUp_zero n rm r c)

theorem chosen_exact_iff {n : Bool} {x : ℝ} {q : ℤ} {rm : Nat} {r : BitVec 32} {k : ℤ} (h : Chosen n x q rm r k) :
    (k : ℝ) * 2^q = x ↔ ∃ c : ℤ, x / 2^q = c := by
  rw [← eq_div_iff (by positivity)]
  exact ⟨fun e => ⟨k, e.symm⟩, fun ⟨c, e⟩ => by rw [chosen_of_int h e, e]⟩

theorem Alike.goesUp_iff {y z : ℝ} (h : Alike y z) (n : Bool) (rm : Nat) (r : BitVec 32) :
    GoesUp n rm r ⌊y⌋ (y - ⌊y⌋) ↔ GoesUp n rm r ⌊z⌋ (z - ⌊z⌋) := by
  have half_lt := h.lt_iff ((2 * ⌊z⌋ + 1) * 2^31)
  have half_eq := h.eq_iff ((2 * ⌊z⌋ + 1) * 2^31)
  have exact_iff := h.int_iff ⌊z⌋
  have draws (u : ℝ) (c : ℤ) : ⌊(u - c) * 2^32⌋ = ⌊u * 2^32⌋ - c * 2^32 := by
    rw [← Int.floor_sub_intCast]; push_cast; ring_nf
  simp only [Int.cast_mul, Int.cast_add, Int.cast_one, Int.cast_pow, Int.cast_ofNat] at half_lt half_eq
  rw [h.floor_eq]
  unfold GoesUp
  split
  · have above (u : ℝ) : 1 / 2 < u - ⌊z⌋ ↔ (2 * (⌊z⌋ : ℝ) + 1) * 2^31 < u * 2^32 := by constructor <;> intro <;> linarith
    have tie (u : ℝ) : u - ⌊z⌋ = 1 / 2 ↔ u * 2^32 = (2 * (⌊z⌋ : ℝ) + 1) * 2^31 := by constructor <;> intro <;> linarith
    rw [above, above, tie, tie, half_lt, half_eq]
  · rfl
  · rw [sub_ne_zero, sub_ne_zero, ne_eq, ne_eq, exact_iff]
  · rw [sub_ne_zero, sub_ne_zero, ne_eq, ne_eq, exact_iff]
  · rw [draws, draws, h.1]

theorem chosen_congr {x x' : ℝ} {q : ℤ} (h : Alike (x / 2^q) (x' / 2^q)) {n : Bool} {rm : Nat} {r : BitVec 32} {k : ℤ} :
    Chosen n x q rm r k ↔ Chosen n x' q rm r k := by
  rw [chosen_iff, chosen_iff, h.goesUp_iff n rm r, h.floor_eq]

/-! ### The grid of a magnitude (R72) -/

theorem onGrid_fine {m : Nat} {e q : ℤ} (h : q ≤ e) : onGrid m e q = (m * 2^(e - q).toNat, 0, 1) := if_pos h

theorem onGrid_coarse {m : Nat} {e q : ℤ} (h : e < q) : onGrid m e q =
    (m / 2^(min (q - e).toNat (m.log2 + 64)), m % 2^(min (q - e).toNat (m.log2 + 64)), 2^(min (q - e).toNat (m.log2 + 64))) :=
  if_neg (not_le.2 h)

/-- The model's whole part, remainder and denominator are those of a fraction that every mode rounds as it rounds the magnitude. -/
theorem onGrid_alike (m : Nat) (e q : ℤ) : ∃ M D : Nat, 0 < D ∧ onGrid m e q = (M / D, M % D, D) ∧
    Alike ((m : ℝ) * 2^e / 2^q) ((M : ℝ) / D) := by
  have shifted : (m : ℝ) * 2^e / 2^q = m * 2^(e - q) := by rw [zpow_sub₀ two_ne_zero]; ring
  rw [shifted]
  rcases le_or_gt q e with h | h
  · refine ⟨m * 2^(e - q).toNat, 1, one_pos, by rw [onGrid_fine h]; simp [Nat.mod_one], ?_⟩
    have : (2 : ℝ)^(e - q) = 2^(e - q).toNat := by rw [← zpow_natCast, Int.toNat_of_nonneg (by omega)]
    rw [this]; push_cast; rw [div_one]; exact .refl _
  · refine ⟨m, 2^(min (q - e).toNat (m.log2 + 64)), by positivity, onGrid_coarse h, ?_⟩
    have inverse : (2 : ℝ)^(e - q) = (2^(q - e).toNat)⁻¹ := by
      rw [← zpow_natCast, Int.toNat_of_nonneg (by omega), ← zpow_neg, neg_sub]
    rw [inverse, ← div_eq_mul_inv]; push_cast
    rcases le_total (q - e).toNat (m.log2 + 64) with hd | hd
    · rw [min_eq_left hd]; exact .refl _
    rw [min_eq_right hd]
    rcases Nat.eq_zero_or_pos m with rfl | hm
    · simpa using Alike.refl 0
    have small {d : Nat} (hd : m.log2 + 64 ≤ d) : 0 < (m : ℝ) / 2^d ∧ (m : ℝ) / 2^d * 2^32 < 1 := by
      refine ⟨by positivity, ?_⟩
      rw [div_mul_eq_mul_div, div_lt_one (by positivity)]
      have : m * 2^32 < 2^d := calc
        m * 2^32 < 2^(m.log2 + 1) * 2^32 := by have := Nat.lt_log2_self (n := m); gcongr
        _ = 2^(m.log2 + 33) := by rw [← pow_add]
        _ ≤ 2^d := Nat.pow_le_pow_right two_pos (by omega)
      exact_mod_cast this
    exact alike_of_small (small hd).1 (small hd).2 (small le_rfl).1 (small le_rfl).2

theorem floor_ratio (M D : Nat) : ⌊(M : ℝ) / D⌋ = (M / D : Nat) := by
  rw [← Int.natCast_floor_eq_floor (by positivity), Nat.floor_div_eq_div]

theorem roundsUp_iff {rem D : Nat} (hD : 0 < D) (rm : Nat) (n : Bool) (k : Nat) (r : BitVec 32) :
    roundsUp rm n k rem D r = true ↔ GoesUp n rm r k ((rem : ℝ) / D) := by
  have hD' : (0 : ℝ) < D := by exact_mod_cast hD
  have above : (1 : ℝ) / 2 < rem / D ↔ D < 2 * rem := by
    rw [div_lt_div_iff₀ two_pos hD', ← Nat.cast_lt (α := ℝ)]; push_cast; constructor <;> intro <;> linarith
  have tie : (rem : ℝ) / D = 1 / 2 ↔ 2 * rem = D := by
    rw [div_eq_div_iff hD'.ne' two_ne_zero, ← Nat.cast_inj (R := ℝ)]; push_cast; constructor <;> intro <;> linarith
  have zero : (rem : ℝ) / D ≠ 0 ↔ rem ≠ 0 := by rw [div_ne_zero_iff]; simp [hD.ne']
  have draws : ⌊(rem : ℝ) / D * 2^32⌋ = (rem * 2^32 / D : Nat) := by
    rw [div_mul_eq_mul_div, ← floor_ratio, Nat.cast_mul, Nat.cast_pow, Nat.cast_ofNat]
  unfold roundsUp GoesUp
  split
  · simp only [above, tie, Bool.or_eq_true, Bool.and_eq_true, decide_eq_true_iff, beq_iff_eq]; omega
  · simp
  · simp [zero]
  · simp [zero]
  · simp only [draws, decide_eq_true_iff, Nat.cast_lt]

/-- The multiple of 2^q that the model takes for the magnitude m · 2^e: the whole part, or one more. -/
def magnitude (n : Bool) (m : Nat) (e q : ℤ) (rm : Nat) (r : BitVec 32) : Nat :=
  let g := onGrid m e q
  if g.2.1 != 0 && roundsUp rm n g.1 g.2.1 g.2.2 r then g.1 + 1 else g.1

/-- The model's magnitude is the one that R72 chooses. -/
theorem chosen_magnitude (n : Bool) (m : Nat) (e q : ℤ) (rm : Nat) (r : BitVec 32) :
    Chosen n ((m : ℝ) * 2^e) q rm r (magnitude n m e q rm r) := by
  obtain ⟨M, D, hD, hg, ha⟩ := onGrid_alike m e q
  have fraction : (M : ℝ) / D - (M / D : Nat) = (M % D : Nat) / D := by
    have := Nat.div_add_mod M D
    rw [← @Nat.cast_inj ℝ] at this
    push_cast at this ⊢
    field_simp
    linarith
  have up : GoesUp n rm r (M / D : Nat) ((M % D : Nat) / D) ↔ (M % D != 0 && roundsUp rm n (M / D) (M % D) D r) = true := by
    rw [Bool.and_eq_true, roundsUp_iff hD]
    refine ⟨fun h => ⟨?_, h⟩, And.right⟩
    rw [bne_iff_ne]
    rintro h0
    rw [h0, Nat.cast_zero, zero_div] at h
    exact not_goesUp_zero _ _ _ _ h
  rw [chosen_iff, ha.goesUp_iff n rm r, ha.floor_eq, floor_ratio, Int.cast_natCast, fraction, up]
  simp only [magnitude, hg]
  constructor <;> intro h <;> simp [h]

theorem onGrid_exact_iff (m : Nat) (e q : ℤ) : (onGrid m e q).2.1 = 0 ↔ ∃ c : ℤ, (m : ℝ) * 2^e / 2^q = c := by
  obtain ⟨M, D, hD, hg, ha⟩ := onGrid_alike m e q
  have hD' : (D : ℝ) ≠ 0 := by exact_mod_cast hD.ne'
  simp only [hg, ha.int_iff, div_eq_iff hD']
  rw [← Nat.dvd_iff_mod_eq_zero, ← Int.natCast_dvd_natCast]
  constructor
  · rintro ⟨c, hc⟩; exact ⟨c, by rw [mul_comm]; exact_mod_cast hc⟩
  · rintro ⟨c, hc⟩; exact ⟨c, by rw [mul_comm]; exact_mod_cast hc⟩

/-! ### Encodings as numbers of units (R65, R66) -/

/-- What R65 and R73 say of a format: its fields, where its finite encodings end, and that 2^fb, from which every finite value is an
integer, is one of its values. -/
structure IsFormat (f : Fmt) : Prop where
  width : f.width = 1 + f.eb + f.fb
  fb_le : f.fb ≤ 52
  bias_pos : 1 ≤ f.bias
  max_lt : f.maxBits < 2^f.eb * 2^f.fb
  infinite : f.hasInf = true → f.maxBits + 1 = (2^f.eb - 1) * 2^f.fb
  oneNaN : f.hasInf = false → f.nan ≠ 0 → f.maxBits + 2 = 2^f.eb * 2^f.fb
  noNaN : f.hasInf = false → f.nan = 0 → f.maxBits + 1 = 2^f.eb * 2^f.fb
  saturates : f.sat = false → f.hasInf = true
  integers : (f.fb + f.bias) * 2^f.fb ≤ f.maxBits

theorem isFormat_of_mem {f : Fmt} (h : f ∈ [FP64, FP32, FP16, BF16, E5M2, E4M3, E2M1]) : IsFormat f := by
  fin_cases h <;> constructor <;> decide

/-- The magnitude of the encoding i, in units of the smallest subnormal; for an i above the format's exponents it goes on as R72's G
does. -/
def units (fb i : Nat) : Nat := if i / 2^fb = 0 then i else (2^fb + i % 2^fb) * 2^(i / 2^fb - 1)

@[simp] theorem units_zero (fb : Nat) : units fb 0 = 0 := by simp [units]

theorem units_subnormal {fb x : Nat} (h : x < 2^fb) : units fb x = x := if_pos (Nat.div_eq_of_lt h)

theorem units_normal {fb x : Nat} (E : Nat) (h : x < 2^fb) : units fb ((E + 1) * 2^fb + x) = (2^fb + x) * 2^E := by
  have hdiv : ((E + 1) * 2^fb + x) / 2^fb = E + 1 := by
    rw [mul_comm, Nat.mul_add_div (by positivity), Nat.div_eq_of_lt h, add_zero]
  have hmod : ((E + 1) * 2^fb + x) % 2^fb = x := by rw [mul_comm, Nat.mul_add_mod, Nat.mod_eq_of_lt h]
  rw [units, hdiv, hmod, if_neg (by omega), Nat.add_sub_cancel]

/-- A significand k at the j-th exponent of the grid is the encoding j · 2^fb + k, also where it has carried. -/
theorem units_significand {fb j k : Nat} (hk : k ≤ 2^(fb + 1)) (h : j = 0 ∨ 2^fb ≤ k) : units fb (j * 2^fb + k) = k * 2^j := by
  rw [pow_succ] at hk
  rcases lt_or_ge k (2^fb) with hlt | hge
  · obtain rfl : j = 0 := h.resolve_right (by omega)
    rw [zero_mul, zero_add, units_subnormal hlt, pow_zero, mul_one]
  rcases Nat.lt_or_ge k (2^fb * 2) with hlt | hge'
  · obtain ⟨x, rfl⟩ := Nat.exists_eq_add_of_le hge
    rw [← add_assoc, ← Nat.succ_mul, units_normal j (by omega)]
  · obtain rfl : k = 2^fb * 2 := le_antisymm hk hge'
    have : j * 2^fb + 2^fb * 2 = (j + 1 + 1) * 2^fb + 0 := by ring
    rw [this, units_normal (j + 1) (by positivity)]
    ring

theorem units_strictMono (fb : Nat) : StrictMono (units fb) := by
  refine strictMono_nat_of_lt_succ fun i => ?_
  have hx : i % 2^fb < 2^fb := Nat.mod_lt _ (by positivity)
  have hi : i = i / 2^fb * 2^fb + i % 2^fb := (Nat.div_add_mod' i (2^fb)).symm
  generalize i / 2^fb = E at hi
  generalize i % 2^fb = x at hi hx
  subst hi
  cases E with
  | zero =>
    have := units_significand (fb := fb) (j := 0) (k := x + 1) (by rw [pow_succ]; omega) (.inl rfl)
    rw [zero_mul, zero_add, pow_zero, mul_one] at this
    rw [zero_mul, zero_add, units_subnormal hx, this]
    omega
  | succ E =>
    have next := units_significand (fb := fb) (j := E) (k := 2^fb + x + 1) (by rw [pow_succ]; omega) (.inr (by omega))
    have shifted : (E + 1) * 2^fb + x + 1 = E * 2^fb + (2^fb + x + 1) := by ring
    rw [units_normal E hx, shifted, next]
    exact Nat.mul_lt_mul_of_pos_right (by omega) (by positivity)

/-- A format's unit: its smallest subnormal. -/
noncomputable def unitOf (f : Fmt) : ℝ := 2^(1 - f.bias - f.fb : ℤ)

theorem unitOf_pos (f : Fmt) : 0 < unitOf f := by unfold unitOf; positivity

theorem unitsValue_strictMono (f : Fmt) : StrictMono fun i => (units f.fb i : ℝ) * unitOf f :=
  fun _ _ h => mul_lt_mul_of_pos_right (Nat.cast_lt.2 (units_strictMono f.fb h)) (unitOf_pos f)

theorem IsFormat.signBit_eq {f : Fmt} (hf : IsFormat f) (s : Bool) : signBit f s = if s then 2^f.eb * 2^f.fb else 0 := by
  rw [signBit, hf.width, ← pow_add]; congr 2; omega

theorem IsFormat.two_pow_width {f : Fmt} (hf : IsFormat f) : 2^f.width = 2 * (2^f.eb * 2^f.fb) := by
  rw [hf.width, ← pow_add, ← pow_succ']; congr 1; omega

/-- Every encoding is a sign bit and the rest. -/
theorem IsFormat.exists_sign {f : Fmt} (hf : IsFormat f) {b : Nat} (hb : b < 2^f.width) :
    ∃ s i, i < 2^f.eb * 2^f.fb ∧ b = signBit f s + i := by
  rw [hf.two_pow_width] at hb
  rcases Nat.lt_or_ge b (2^f.eb * 2^f.fb) with h | h
  · exact ⟨false, b, h, by simp [hf.signBit_eq]⟩
  · exact ⟨true, b - 2^f.eb * 2^f.fb, by omega, by simp [hf.signBit_eq]; omega⟩

theorem IsFormat.signBit_add_lt {f : Fmt} (hf : IsFormat f) (s : Bool) {i : Nat} (hi : i < 2^f.eb * 2^f.fb) :
    signBit f s + i < 2^f.width := by
  rw [hf.two_pow_width, hf.signBit_eq]; split <;> omega

theorem IsFormat.signBit_add_div {f : Fmt} (hf : IsFormat f) (s : Bool) {i : Nat} (hi : i < 2^f.eb * 2^f.fb) :
    ((signBit f s + i) / 2^(f.width - 1) % 2 == 1) = s := by
  have : f.width - 1 = f.eb + f.fb := by rw [hf.width]; omega
  rw [this, pow_add, hf.signBit_eq]
  cases s
  · rw [if_neg (by simp), zero_add, Nat.div_eq_of_lt hi]; rfl
  · rw [if_pos rfl, Nat.add_div_left _ (by positivity), Nat.div_eq_of_lt hi]; rfl

/-- Val(F, bits) by the sign, the exponent field and the fraction (R66, R67). -/
theorem IsFormat.fval_eq {f : Fmt} (hf : IsFormat f) (s : Bool) {i : Nat} (hi : i < 2^f.eb * 2^f.fb) : fval f (signBit f s + i) =
    if f.hasInf && i / 2^f.fb == 2^f.eb - 1 then
      (if i % 2^f.fb == 0 then .inf s else .nan (i % 2^f.fb / 2^(f.fb - 1) % 2 == 0))
    else if !f.hasInf && f.nan != 0 && i / 2^f.fb == 2^f.eb - 1 && i % 2^f.fb == 2^f.fb - 1 then .nan false
    else if i / 2^f.fb == 0 then .num s (i % 2^f.fb) (1 - f.bias - f.fb)
    else .num s (2^f.fb + i % 2^f.fb) ((i / 2^f.fb : Nat) - f.bias - f.fb) := by
  have hexp : (signBit f s + i) / 2^f.fb % 2^f.eb = i / 2^f.fb := by
    have hlt : i / 2^f.fb < 2^f.eb := Nat.div_lt_of_lt_mul (by rwa [mul_comm])
    rw [hf.signBit_eq]; split
    · rw [add_comm, Nat.add_mul_div_right _ _ (by positivity), Nat.add_mod_right, Nat.mod_eq_of_lt hlt]
    · rw [zero_add, Nat.mod_eq_of_lt hlt]
  have hfrac : (signBit f s + i) % 2^f.fb = i % 2^f.fb := by
    rw [hf.signBit_eq]; split
    · rw [Nat.mul_add_mod_self_right]
    · rw [zero_add]
  simp only [fval, hf.signBit_add_div s hi, hexp, hfrac]

/-- Encodings up to the largest finite one are finite. -/
theorem IsFormat.fval_finite {f : Fmt} (hf : IsFormat f) (s : Bool) {i : Nat} (hi : i ≤ f.maxBits) :
    (fval f (signBit f s + i)).Is s (units f.fb i * unitOf f) := by
  have hx : i % 2^f.fb < 2^f.fb := Nat.mod_lt _ (by positivity)
  have hsum : i = i / 2^f.fb * 2^f.fb + i % 2^f.fb := (Nat.div_add_mod' i (2^f.fb)).symm
  have noInf : (f.hasInf && i / 2^f.fb == 2^f.eb - 1) = false := by
    rw [Bool.eq_false_iff, ne_eq, Bool.and_eq_true, beq_iff_eq]
    rintro ⟨h, e⟩
    have := hf.infinite h
    rw [e] at hsum
    omega
  have noNaN : (!f.hasInf && f.nan != 0 && i / 2^f.fb == 2^f.eb - 1 && i % 2^f.fb == 2^f.fb - 1) = false := by
    rw [Bool.eq_false_iff]
    simp only [ne_eq, Bool.and_eq_true, beq_iff_eq, bne_iff_ne, Bool.not_eq_true', not_and]
    rintro ⟨⟨h, hn⟩, e⟩ ex
    have := hf.oneNaN h hn
    have : 2^f.eb * 2^f.fb = (2^f.eb - 1) * 2^f.fb + 2^f.fb := by
      rw [← Nat.succ_mul, Nat.succ_eq_add_one, Nat.sub_add_cancel Nat.one_le_two_pow]
    rw [e, ex] at hsum
    omega
  rw [hf.fval_eq s (hi.trans_lt hf.max_lt), noInf, noNaN, if_neg Bool.false_ne_true, if_neg Bool.false_ne_true]
  rcases Nat.eq_zero_or_pos (i / 2^f.fb) with h | h
  · rw [if_pos (by simpa using h)]
    rw [h, zero_mul, zero_add] at hsum
    exact ⟨_, _, rfl, by rw [← hsum, units_subnormal (hsum ▸ hx), unitOf]⟩
  · rw [if_neg (by simpa using h.ne')]
    refine ⟨_, _, rfl, ?_⟩
    obtain ⟨E, hE⟩ : ∃ E, i / 2^f.fb = E + 1 := ⟨i / 2^f.fb - 1, by omega⟩
    have split : ((E + 1 : Nat) : ℤ) - f.bias - f.fb = E + (1 - f.bias - f.fb) := by push_cast; ring
    rw [hE] at hsum ⊢
    conv_rhs => rw [hsum, units_normal E hx]
    rw [split, zpow_add₀ two_ne_zero, zpow_natCast, unitOf]
    push_cast
    ring

/-- The first encoding above the finite ones is the infinity. -/
theorem IsFormat.fval_inf {f : Fmt} (hf : IsFormat f) (h : f.hasInf = true) (s : Bool) : fval f (signBit f s + (f.maxBits + 1)) = .inf s := by
  have hpos : 0 < 2^f.fb := by positivity
  rw [hf.infinite h, hf.fval_eq s (Nat.mul_lt_mul_of_pos_right (by have := Nat.one_le_two_pow (n := f.eb); omega) hpos),
    Nat.mul_div_cancel _ hpos, Nat.mul_mod_left, h]
  simp

/-- The encodings above are NaNs. -/
theorem IsFormat.fval_nan {f : Fmt} (hf : IsFormat f) (s : Bool) {i : Nat} (hi : i < 2^f.eb * 2^f.fb) (hm : f.maxBits < i)
    (hinf : f.hasInf = true → i ≠ f.maxBits + 1) : (fval f (signBit f s + i)).isNan = true := by
  have hpos : 0 < 2^f.fb := by positivity
  have hone : 2^f.eb * 2^f.fb = (2^f.eb - 1) * 2^f.fb + 2^f.fb := by
    rw [← Nat.succ_mul, Nat.succ_eq_add_one, Nat.sub_add_cancel Nat.one_le_two_pow]
  have top {x : Nat} (hx : x < 2^f.fb) (e : i = (2^f.eb - 1) * 2^f.fb + x) : i / 2^f.fb = 2^f.eb - 1 ∧ i % 2^f.fb = x := by
    rw [e, mul_comm, Nat.mul_add_div hpos, Nat.mul_add_mod, Nat.div_eq_of_lt hx, Nat.mod_eq_of_lt hx]; simp
  rw [hf.fval_eq s hi]
  cases h : f.hasInf with
  | true =>
    have := hf.infinite h
    have := hinf h
    obtain ⟨hd, hm⟩ := top (x := i - (2^f.eb - 1) * 2^f.fb) (by omega) (by omega)
    rw [hd, hm, if_pos (by simp), if_neg (by simp; omega)]
    rfl
  | false =>
    have hn : f.nan ≠ 0 := fun h0 => by have := hf.noNaN h h0; omega
    have := hf.oneNaN h hn
    obtain ⟨hd, hm⟩ := top (x := 2^f.fb - 1) (by omega) (by omega)
    rw [hd, hm, if_neg (by simp), if_pos (by simp [hn])]
    rfl

/-- An encoding that has a finite value is not above the largest finite one. -/
theorem IsFormat.le_max_of_num {f : Fmt} (hf : IsFormat f) {s n : Bool} {i m : Nat} {e : ℤ} (hi : i < 2^f.eb * 2^f.fb)
    (h : fval f (signBit f s + i) = .num n m e) : i ≤ f.maxBits := by
  by_contra hc
  by_cases hinf : f.hasInf = true ∧ i = f.maxBits + 1
  · rw [hinf.2, hf.fval_inf hinf.1] at h; cases h
  · have := hf.fval_nan s hi (by omega) (by tauto)
    rw [h] at this; cases this

theorem is_num_iff {n s : Bool} {m : Nat} {e : ℤ} {x : ℝ} : (FVal.num n m e).Is s x ↔ n = s ∧ (m : ℝ) * 2^e = x := by
  constructor
  · rintro ⟨m', e', h, hx⟩; cases h; exact ⟨rfl, hx⟩
  · rintro ⟨rfl, h⟩; exact ⟨m, e, rfl, h⟩

/-- A finite value has one sign and one magnitude. -/
theorem is_unique {v : FVal} {n s : Bool} {x y : ℝ} (h : v.Is n x) (h' : v.Is s y) : n = s ∧ x = y := by
  obtain ⟨m, e, rfl, rfl⟩ := h
  exact is_num_iff.1 h'

/-- An encoding with a finite value, by its place among the format's encodings. -/
theorem IsFormat.exists_of_num {f : Fmt} (hf : IsFormat f) {b : Nat} (hb : b < 2^f.width) {n : Bool} {x : ℝ} (h : (fval f b).Is n x) :
    ∃ i ≤ f.maxBits, b = signBit f n + i ∧ x = units f.fb i * unitOf f := by
  obtain ⟨s, i, hi, rfl⟩ := hf.exists_sign hb
  obtain ⟨m, e, hnum, -⟩ := id h
  have hmax := hf.le_max_of_num hi hnum
  obtain ⟨rfl, hx⟩ := is_unique h (hf.fval_finite s hmax)
  exact ⟨i, hmax, rfl, hx⟩

/-- Two encodings of one finite value are the same. -/
theorem IsFormat.fval_injective {f : Fmt} (hf : IsFormat f) {b c : Nat} (hb : b < 2^f.width) (hc : c < 2^f.width) {n : Bool} {x : ℝ}
    (h : (fval f b).Is n x) (h' : (fval f c).Is n x) : b = c := by
  obtain ⟨i, -, rfl, hi⟩ := hf.exists_of_num hb h
  obtain ⟨j, -, rfl, hj⟩ := hf.exists_of_num hc h'
  rw [(unitsValue_strictMono f).injective (hi.symm.trans hj)]

/-- A finite value has a significand of fb + 1 bits and no unit below the format's. -/
theorem fval_num_bounds {f : Fmt} {b m : Nat} {n : Bool} {e : ℤ} (h : fval f b = .num n m e) :
    m < 2^(f.fb + 1) ∧ 1 - (f.bias : ℤ) - f.fb ≤ e := by
  have hx : b % 2^f.fb < 2^f.fb := Nat.mod_lt _ (by positivity)
  rw [pow_succ]
  simp only [fval] at h
  split at h
  · split at h <;> cases h
  split at h
  · cases h
  split at h
  · cases h; omega
  · next hne =>
    rw [beq_iff_eq] at hne
    cases h; omega

/-! ### Rounding to a format (R72-R74) -/

/-- A magnitude between two neighbouring multiples of 2^p has the logarithm of the lower one. -/
theorem log_of_between {c : Nat} {p : ℤ} {x : ℝ} (hc : 0 < c) (h : (c : ℝ) * 2^p ≤ x) (h' : x < (c + 1) * 2^p) :
    Int.log 2 x = c.log2 + p := by
  have hx : 0 < x := lt_of_lt_of_le (by positivity) h
  have low : (2 : ℝ)^(c.log2 : ℤ) ≤ c := by rw [zpow_natCast]; exact_mod_cast Nat.log2_self_le hc.ne'
  have high : (c : ℝ) + 1 ≤ 2^(c.log2 + 1 : ℤ) := by exact_mod_cast Nat.lt_log2_self (n := c)
  apply le_antisymm
  · rw [← Int.lt_add_one_iff, ← Int.lt_zpow_iff_log_lt one_lt_two hx, Nat.cast_ofNat, add_right_comm, zpow_add₀ two_ne_zero]
    exact h'.trans_le (by gcongr)
  · rw [← Int.zpow_le_iff_le_log one_lt_two hx, Nat.cast_ofNat, zpow_add₀ two_ne_zero]
    exact le_trans (by gcongr) h

theorem log_num {m : Nat} (e : ℤ) (hm : 0 < m) : Int.log 2 ((m : ℝ) * 2^e) = m.log2 + e :=
  log_of_between hm le_rfl (by gcongr; linarith)

/-- The exponent of the grid that a magnitude with this leading exponent is rounded on. -/
def gridOf (f : Fmt) (top : ℤ) : ℤ := max top (1 - f.bias) - f.fb

/-- The exponent field, less one, of what is on this grid. -/
def gridField (f : Fmt) (q : ℤ) : Nat := (q + f.bias + f.fb - 1).toNat

theorem gridField_cast (f : Fmt) (top : ℤ) : (gridField f (gridOf f top) : ℤ) = gridOf f top + f.bias + f.fb - 1 := by
  unfold gridField gridOf
  omega

/-- Rounding of a finite value, by the magnitude on its grid. -/
theorem fround_num {f : Fmt} {n : Bool} {m : Nat} {e : ℤ} {rm : Nat} {r : BitVec 32} (hm : 0 < m) :
    let top : ℤ := m.log2 + e
    let q := gridOf f top
    let enc := gridField f q * 2^f.fb + magnitude n m e q rm r
    let inexact := (onGrid m e q).2.1 != 0
    fround f (.num n m e) rm r =
      if f.maxBits < enc then (overflow f n rm, OF ||| NX)
      else (signBit f n + enc, (if inexact then NX else 0) ||| (if inexact && top < 1 - f.bias then UF else 0)) := by
  have grid : max ((m.log2 : ℤ) + e - f.fb) (1 - f.bias - f.fb) = gridOf f (m.log2 + e) := max_sub_sub_right _ _ _
  simp only [fround, if_neg (by simpa using hm.ne' : ¬ (m == 0) = true), grid]
  rfl

theorem IsFormat.overflow_eq {f : Fmt} (hf : IsFormat f) (n : Bool) (rm : Nat) : overflow f n rm =
    signBit f n + (if f.sat ∨ rm = 2 ∨ rm = 3 ∧ n = false ∨ rm = 4 ∧ n = true then f.maxBits else (2^f.eb - 1) * 2^f.fb) := by
  have toMax : (f.sat || rm == 2 || (rm == 3 && !n) || (rm == 4 && n)) = true ↔
      f.sat ∨ rm = 2 ∨ rm = 3 ∧ n = false ∨ rm = 4 ∧ n = true := by simp [or_assoc]
  simp only [overflow, toMax]
  split_ifs with h
  · rfl
  · rw [hf.infinite (hf.saturates (Bool.eq_false_iff.2 fun hs => h (.inl hs)))]

theorem div_grid_lt {x : ℝ} (f : Fmt) (hx : 0 < x) : x / 2^gridOf f (Int.log 2 x) < 2^(f.fb + 1) := by
  rw [div_lt_iff₀ (by positivity), ← zpow_natCast, ← zpow_add₀ two_ne_zero]
  refine ((Int.lt_zpow_iff_log_lt one_lt_two hx).2 (lt_add_one _)).trans_le ?_
  rw [Nat.cast_ofNat]
  exact zpow_le_zpow_right₀ one_le_two (by unfold gridOf; push_cast; omega)

theorem le_div_grid {x : ℝ} {f : Fmt} (hx : 0 < x) (h : 1 - (f.bias : ℤ) ≤ Int.log 2 x) :
    (2 : ℝ)^f.fb ≤ x / 2^gridOf f (Int.log 2 x) := by
  rw [le_div_iff₀ (by positivity), ← zpow_natCast, ← zpow_add₀ two_ne_zero]
  refine le_trans ?_ ((Int.zpow_le_iff_le_log one_lt_two hx).2 le_rfl)
  rw [Nat.cast_ofNat]
  exact zpow_le_zpow_right₀ one_le_two (by unfold gridOf; omega)

/-- What is chosen for a magnitude is a significand of the format, or the one after its last. -/
theorem chosen_le {f : Fmt} {n : Bool} {x : ℝ} {rm : Nat} {r : BitVec 32} {k : Nat} (hx : 0 < x)
    (h : Chosen n x (gridOf f (Int.log 2 x)) rm r k) : k ≤ 2^(f.fb + 1) := by
  have hlt : ⌊x / 2^gridOf f (Int.log 2 x)⌋ < (2^(f.fb + 1) : Nat) := Int.floor_lt.2 (by exact_mod_cast div_grid_lt f hx)
  have := (chosen_bounds h).2
  omega

/-- Above the subnormals it has the implicit bit. -/
theorem le_chosen {f : Fmt} {n : Bool} {x : ℝ} {rm : Nat} {r : BitVec 32} {k : Nat} (hx : 0 < x)
    (h : Chosen n x (gridOf f (Int.log 2 x)) rm r k) : gridField f (gridOf f (Int.log 2 x)) = 0 ∨ 2^f.fb ≤ k := by
  rcases lt_or_ge (Int.log 2 x) (1 - (f.bias : ℤ)) with hlt | hge
  · left; unfold gridField gridOf; omega
  · right
    have : ((2^f.fb : Nat) : ℤ) ≤ ⌊x / 2^gridOf f (Int.log 2 x)⌋ := Int.le_floor.2 (by exact_mod_cast le_div_grid hx hge)
    have := (chosen_bounds h).1
    omega

/-- What is chosen is, in units, the encoding that the model makes of it. -/
theorem chosen_units {f : Fmt} {n : Bool} {x : ℝ} {rm : Nat} {r : BitVec 32} {k : Nat} (hx : 0 < x)
    (h : Chosen n x (gridOf f (Int.log 2 x)) rm r k) :
    (k : ℝ) * 2^gridOf f (Int.log 2 x) = units f.fb (gridField f (gridOf f (Int.log 2 x)) * 2^f.fb + k) * unitOf f := by
  have hfield := gridField_cast f (Int.log 2 x)
  rw [units_significand (chosen_le hx h) (le_chosen hx h), unitOf, Nat.cast_mul, Nat.cast_pow, Nat.cast_ofNat, mul_assoc, ← zpow_natCast,
    ← zpow_add₀ two_ne_zero, hfield]
  congr 2
  ring

/-- The rounding of the model is the one of R72 to R74, for every mode's number. -/
theorem fround_rounded {f : Fmt} (hf : IsFormat f) (n : Bool) {m : Nat} (e : ℤ) (rm : Nat) (r : BitVec 32) (hm : 0 < m) :
    Rounded f n (m * 2^e) rm r (fround f (.num n m e) rm r) := by
  have hx : (0 : ℝ) < m * 2^e := by positivity
  have hlog : Int.log 2 ((m : ℝ) * 2^e) = m.log2 + e := log_num e hm
  have hk := chosen_magnitude n m e (gridOf f (m.log2 + e)) rm r
  have hunits := chosen_units (f := f) hx (hlog ▸ hk)
  have exact_iff := (onGrid_exact_iff m e (gridOf f (m.log2 + e))).trans (chosen_exact_iff hk).symm
  rw [hlog] at hunits
  have normal_iff : (2 : ℝ)^(1 - f.bias : ℤ) ≤ m * 2^e ↔ 1 - (f.bias : ℤ) ≤ m.log2 + e := by
    rw [← hlog, ← Int.zpow_le_iff_le_log one_lt_two hx, Nat.cast_ofNat]
  have hround := fround_num (f := f) (n := n) (e := e) (rm := rm) (r := r) hm
  dsimp only at hround
  unfold Rounded
  dsimp only
  rw [hlog, hround, show max ((m.log2 : ℤ) + e) (1 - f.bias) - f.fb = gridOf f (m.log2 + e) from rfl]
  generalize gridField f (gridOf f (m.log2 + e)) * 2^f.fb + magnitude n m e (gridOf f (m.log2 + e)) rm r = enc at hunits ⊢
  have max_lt_iff : (units f.fb f.maxBits * unitOf f < units f.fb enc * unitOf f) ↔ f.maxBits < enc :=
    (unitsValue_strictMono f).lt_iff_lt
  refine ⟨_, units f.fb f.maxBits * unitOf f, hk, ?_, fun h => ?_, fun h => ?_⟩
  · simpa [hf.signBit_eq] using hf.fval_finite false le_rfl
  · rw [Int.cast_natCast, hunits, max_lt_iff] at h
    rw [if_pos h, hf.overflow_eq]
  · rw [Int.cast_natCast, hunits, ← not_lt, max_lt_iff] at h
    have hmax : enc ≤ f.maxBits := not_lt.1 h
    rw [if_neg h]
    refine ⟨hf.signBit_add_lt n (hmax.trans_lt hf.max_lt), ?_, fun hexact => ?_, fun hne => ⟨fun hn => ?_, fun ht => ?_⟩⟩
    · rw [Int.cast_natCast, hunits]; exact hf.fval_finite n hmax
    · simp [exact_iff.2 hexact]
    · rw [normal_iff] at hn
      simp [mt exact_iff.1 hne, hn.not_gt]
    · rw [← not_le, normal_iff, not_le] at ht
      simp [mt exact_iff.1 hne, ht]

theorem rounded_iff {f : Fmt} {n : Bool} {x : ℝ} {rm : Nat} {r : BitVec 32} {v : Nat × Flags} : Rounded f n x rm r v ↔
    ∃ (k : ℤ) (top : ℝ), Chosen n x (gridOf f (Int.log 2 x)) rm r k ∧ (fval f f.maxBits).Is false top ∧
      (top < k * 2^gridOf f (Int.log 2 x) →
        v = (signBit f n + (if f.sat ∨ rm = 2 ∨ rm = 3 ∧ n = false ∨ rm = 4 ∧ n = true then f.maxBits
          else (2^f.eb - 1) * 2^f.fb), OF ||| NX)) ∧
      (k * 2^gridOf f (Int.log 2 x) ≤ top →
        v.1 < 2^f.width ∧ (fval f v.1).Is n (k * 2^gridOf f (Int.log 2 x)) ∧
        ((k : ℝ) * 2^gridOf f (Int.log 2 x) = x → v.2 = 0) ∧
        ((k : ℝ) * 2^gridOf f (Int.log 2 x) ≠ x →
          ((2 : ℝ)^(1 - f.bias : ℤ) ≤ x → v.2 = NX) ∧ (x < (2 : ℝ)^(1 - f.bias : ℤ) → v.2 = NX ||| UF))) := Iff.rfl

/-- Magnitudes with one leading exponent that are alike on its grid are rounded alike. -/
theorem rounded_congr {f : Fmt} {n : Bool} {x x' : ℝ} {rm : Nat} {r : BitVec 32} {v : Nat × Flags} (hx : 0 < x) (hx' : 0 < x')
    (hlog : Int.log 2 x = Int.log 2 x') (h : Alike (x / 2^gridOf f (Int.log 2 x)) (x' / 2^gridOf f (Int.log 2 x))) :
    Rounded f n x rm r v → Rounded f n x' rm r v := by
  rw [rounded_iff, rounded_iff, ← hlog]
  rintro ⟨k, top, hk, htop, hover, hfin⟩
  have exact_iff : (k : ℝ) * 2^gridOf f (Int.log 2 x) = x ↔ (k : ℝ) * 2^gridOf f (Int.log 2 x) = x' := by
    rw [← eq_div_iff (by positivity), ← eq_div_iff (by positivity), eq_comm, h.int_iff, eq_comm]
  have normal_iff : (2 : ℝ)^(1 - f.bias : ℤ) ≤ x ↔ (2 : ℝ)^(1 - f.bias : ℤ) ≤ x' := by
    have low (y : ℝ) (hy : 0 < y) := Int.zpow_le_iff_le_log (b := 2) one_lt_two (x := 1 - f.bias) hy
    rw [Nat.cast_ofNat] at low
    rw [low x hx, low x' hx', hlog]
  have tiny_iff : x < (2 : ℝ)^(1 - f.bias : ℤ) ↔ x' < (2 : ℝ)^(1 - f.bias : ℤ) := by rw [← not_le, normal_iff, not_le]
  simp only [ne_eq, exact_iff, normal_iff, tiny_iff] at hfin
  exact ⟨k, top, (chosen_congr h).1 hk, htop, hover, hfin⟩

/-- A magnitude of the format is rounded to itself, without a flag. -/
theorem rounded_representable {f : Fmt} (hf : IsFormat f) {n : Bool} {x : ℝ} {M : Nat} {E : ℤ} {rm : Nat} {r : BitVec 32} {v : Nat × Flags}
    (hM : 0 < M) (hM' : M < 2^(f.fb + 1)) (hE : 1 - (f.bias : ℤ) - f.fb ≤ E) (hx : x = M * 2^E)
    (hmax : x ≤ units f.fb f.maxBits * unitOf f) (h : Rounded f n x rm r v) : v.1 < 2^f.width ∧ (fval f v.1).Is n x ∧ v.2 = 0 := by
  obtain ⟨k, top, hk, htop, -, hfin⟩ := rounded_iff.1 h
  have hgrid : gridOf f (Int.log 2 x) ≤ E := by
    have := (Nat.log2_lt hM.ne').2 hM'
    rw [hx, log_num E hM]; unfold gridOf; omega
  have hexact : (k : ℝ) * 2^gridOf f (Int.log 2 x) = x := by
    refine (chosen_exact_iff hk).2 ⟨M * 2^(E - gridOf f (Int.log 2 x)).toNat, ?_⟩
    rw [div_eq_iff (by positivity)]
    push_cast
    rw [mul_assoc, ← zpow_natCast, ← zpow_add₀ two_ne_zero, Int.toNat_of_nonneg (by omega), sub_add_cancel, ← hx]
  have hfinite := hf.fval_finite false le_rfl
  rw [show signBit f false + f.maxBits = f.maxBits by simp [signBit]] at hfinite
  rw [hexact, (is_unique htop hfinite).2] at hfin
  obtain ⟨hw, hv, hflags, -⟩ := hfin hmax
  exact ⟨hw, hv, hflags rfl⟩

@[simp] theorem fround_zero (f : Fmt) (n : Bool) (e : ℤ) (rm : Nat) (r : BitVec 32) : fround f (.num n 0 e) rm r = (signBit f n, 0) := rfl

/-- An encoding is what its value rounds to. -/
theorem IsFormat.fround_fval {f : Fmt} (hf : IsFormat f) {b : Nat} (hb : b < 2^f.width) {n : Bool} {m : Nat} {e : ℤ}
    (h : fval f b = .num n m e) (rm : Nat) (r : BitVec 32) : fround f (.num n m e) rm r = (b, 0) := by
  have hval : (fval f b).Is n (m * 2^e) := ⟨m, e, h, rfl⟩
  obtain ⟨hm, he⟩ := fval_num_bounds h
  obtain ⟨i, hi, hbi, hx⟩ := hf.exists_of_num hb hval
  rcases Nat.eq_zero_or_pos m with rfl | hpos
  · have hi0 : i = 0 := (unitsValue_strictMono f).injective (by simpa using hx.symm)
    rw [fround_zero, hbi, hi0, add_zero]
  · have hle : (m : ℝ) * 2^e ≤ units f.fb f.maxBits * unitOf f := by
      rw [hx]
      exact (unitsValue_strictMono f).monotone hi
    obtain ⟨hw, hv, hflags⟩ := rounded_representable hf hpos hm he rfl hle (fround_rounded hf n e rm r hpos)
    exact Prod.ext (hf.fval_injective hw hb hv hval) hflags

theorem fround_nan (f : Fmt) (q : Bool) (rm : Nat) (r : BitVec 32) : fround f (.nan q) rm r = (f.nan, if q then NV else 0) := rfl

/-- An infinity rounds to the infinity, in E4M3 to its NaN (R73). -/
theorem fround_inf {f : Fmt} (hf : f ∈ [FP64, FP32, FP16, BF16, E5M2, E4M3, E2M1]) (h : f ≠ E2M1) (q : Bool) (rm : Nat) (r : BitVec 32) :
    fround f (.inf q) rm r = if f = E4M3 then (f.nan, NV) else (signBit f q + (2^f.eb - 1) * 2^f.fb, 0) := by
  have hasInf_iff : f.hasInf = true ↔ ¬ f = E4M3 := by revert f; decide
  by_cases he : f = E4M3
  · rw [if_pos he, fround, if_neg (mt hasInf_iff.1 (not_not.2 he))]
  · rw [if_neg he, fround, if_pos (hasInf_iff.2 he)]

/-! ### Exact results (R71, R74, R75) -/

/-- The real number with this sign and magnitude. -/
noncomputable def withSign (n : Bool) (y : ℝ) : ℝ := if n then -y else y

theorem value_num_iff {n : Bool} {m : Nat} {e : ℤ} {x : ℝ} : (FVal.num n m e).Value x ↔ x = withSign n (m * 2^e) := by
  constructor
  · rintro ⟨s, y, h, rfl⟩
    obtain ⟨rfl, rfl⟩ := is_num_iff.1 h
    rfl
  · rintro rfl; exact ⟨n, _, ⟨m, e, rfl, rfl⟩, rfl⟩

@[simp] theorem abs_withSign (n : Bool) (y : ℝ) : |withSign n y| = |y| := by cases n <;> simp [withSign]

@[simp] theorem withSign_eq_zero (n : Bool) {y : ℝ} : withSign n y = 0 ↔ y = 0 := by cases n <;> simp [withSign]

theorem withSign_mul (n s : Bool) (y z : ℝ) : withSign n y * withSign s z = withSign (n != s) (y * z) := by
  cases n <;> cases s <;> simp [withSign]

theorem withSign_natAbs (z : ℤ) (y : ℝ) : withSign (decide (z < 0)) (z.natAbs * y) = z * y := by
  rw [Nat.cast_natAbs, Int.cast_abs]
  rcases lt_or_ge z 0 with h | h
  · simp [withSign, h, abs_of_neg (Int.cast_lt_zero.2 h : (z : ℝ) < 0)]
  · simp [withSign, h.not_gt, abs_of_nonneg (Int.cast_nonneg h : (0 : ℝ) ≤ z)]

theorem num_zero_iff {m : Nat} (e : ℤ) : (m : ℝ) * 2^e = 0 ↔ m = 0 := by
  rw [mul_eq_zero, or_iff_left (by positivity), Nat.cast_eq_zero]

/-- An exact value over a unit at most its own. -/
theorem scaled_mul {n : Bool} {m : Nat} {e u : ℤ} (h : u ≤ e) : (scaled n m e u : ℝ) * 2^u = withSign n (m * 2^e) := by
  have : (2 : ℝ)^e = 2^(e - u).toNat * 2^u := by
    rw [← zpow_natCast, ← zpow_add₀ two_ne_zero, Int.toNat_of_nonneg (by omega), sub_add_cancel]
  rw [this]
  cases n <;> simp [scaled, withSign, mul_assoc]

theorem flt_num_iff {n s : Bool} {m k : Nat} {e d : ℤ} :
    flt (.num n m e) (.num s k d) = true ↔ withSign n (m * 2^e) < withSign s (k * 2^d) := by
  rw [← scaled_mul (min_le_left e d), ← scaled_mul (min_le_right e d), mul_lt_mul_iff_left₀ (by positivity), Int.cast_lt]
  exact decide_eq_true_iff

theorem feq_num_iff {n s : Bool} {m k : Nat} {e d : ℤ} :
    feq (.num n m e) (.num s k d) = true ↔ withSign n (m * 2^e) = withSign s (k * 2^d) := by
  rw [← scaled_mul (min_le_left e d), ← scaled_mul (min_le_right e d), mul_left_inj' (by positivity), Int.cast_inj]
  exact beq_iff_eq

/-- The sum of finite values is exact, and a zero has R74's sign. -/
theorem exactAdd_eq (n1 n2 : Bool) (m1 m2 : Nat) (e1 e2 : ℤ) (rm : Nat) : ∃ n m e, exactAdd n1 m1 e1 n2 m2 e2 rm = .num n m e ∧
    withSign n1 (m1 * 2^e1) + withSign n2 (m2 * 2^e2) = withSign n (m * 2^e) ∧
    (m = 0 → n = if n1 = n2 then n1 else rm == 3) := by
  unfold exactAdd
  split
  · next h =>
    obtain ⟨rfl, rfl⟩ : m1 = 0 ∧ m2 = 0 := by simpa using h
    exact ⟨_, _, _, rfl, by simp [withSign], fun _ => by simp⟩
  next h =>
  split
  · next h1 =>
    obtain rfl : m1 = 0 := by simpa using h1
    exact ⟨_, _, _, rfl, by simp [withSign], fun h2 => by simp [h2] at h⟩
  next h1 =>
  split
  · next h2 =>
    obtain rfl : m2 = 0 := by simpa using h2
    exact ⟨_, _, _, rfl, by simp [withSign], fun h0 => by simp [h0] at h1⟩
  next h2 =>
  have sum : withSign n1 (m1 * 2^e1) + withSign n2 (m2 * 2^e2) =
      ((scaled n1 m1 e1 (min e1 e2) + scaled n2 m2 e2 (min e1 e2) : ℤ) : ℝ) * 2^min e1 e2 := by
    rw [← scaled_mul (min_le_left e1 e2), ← scaled_mul (min_le_right e1 e2)]; push_cast; ring
  rw [sum]
  dsimp only
  generalize scaled n1 m1 e1 (min e1 e2) + scaled n2 m2 e2 (min e1 e2) = z at sum ⊢
  have positive (m : Nat) (e : ℤ) (h : ¬ (m == 0) = true) : (0 : ℝ) < m * 2^e := by
    have : 0 < m := Nat.pos_of_ne_zero (by simpa using h)
    positivity
  have p1 := positive m1 e1 h1
  have p2 := positive m2 e2 h2
  split
  · next hz =>
    subst hz
    refine ⟨_, _, _, rfl, by simp [withSign], fun _ => ?_⟩
    rw [if_neg]
    rintro rfl
    cases n1 <;> simp [withSign] at sum <;> linarith
  · next hz => exact ⟨_, _, _, rfl, (withSign_natAbs _ _).symm, fun h0 => absurd (Int.natAbs_eq_zero.1 h0) hz⟩

theorem xadd_num (n1 n2 : Bool) (m1 m2 : Nat) (e1 e2 : ℤ) (rm : Nat) :
    xadd (.num n1 m1 e1) (.num n2 m2 e2) rm = (exactAdd n1 m1 e1 n2 m2 e2 rm, 0) := rfl

theorem xmul_num (n1 n2 : Bool) (m1 m2 : Nat) (e1 e2 : ℤ) :
    xmul (.num n1 m1 e1) (.num n2 m2 e2) = (.num (n1 != n2) (m1 * m2) (e1 + e2), 0) := rfl

/-- The addition clause: an exact result, and the sign of a zero. -/
theorem xadd_exact (n1 n2 : Bool) (m1 m2 : Nat) (e1 e2 : ℤ) (rm : Nat) :
    ∃ v n w, xadd (.num n1 m1 e1) (.num n2 m2 e2) rm = (v, 0) ∧ v.Is n w ∧
      v.Value (withSign n1 (m1 * 2^e1) + withSign n2 (m2 * 2^e2)) ∧
      (withSign n1 (m1 * 2^e1) + withSign n2 (m2 * 2^e2) = 0 → n = if n1 = n2 then n1 else rm == 3) := by
  obtain ⟨n, m, e, hadd, hsum, hzero⟩ := exactAdd_eq n1 n2 m1 m2 e1 e2 rm
  refine ⟨_, n, _, by rw [xadd_num, hadd], ⟨m, e, rfl, rfl⟩, value_num_iff.2 hsum, fun h => hzero ?_⟩
  rwa [hsum, withSign_eq_zero, num_zero_iff] at h

theorem num_mul (m1 m2 : Nat) (e1 e2 : ℤ) : ((m1 * m2 : Nat) : ℝ) * 2^(e1 + e2) = m1 * 2^e1 * (m2 * 2^e2) := by
  rw [zpow_add₀ two_ne_zero]; push_cast; ring

theorem xmul_exact (n1 n2 : Bool) (m1 m2 : Nat) (e1 e2 : ℤ) : ∃ v, xmul (.num n1 m1 e1) (.num n2 m2 e2) = (v, 0) ∧
    v.Is (n1 != n2) |withSign n1 (m1 * 2^e1) * withSign n2 (m2 * 2^e2)| := by
  refine ⟨_, xmul_num .., _, _, rfl, ?_⟩
  rw [withSign_mul, abs_withSign, num_mul, abs_of_nonneg (by positivity)]

/-- A fused form adds to the exact product (R108). -/
theorem xfma_finite {v w u : FVal} (h : (xmul v w).1.isNan = false) (hu : u.isNan = false) (rm : Nat) :
    xfma v w u rm = xadd (xmul v w).1 u rm := by
  unfold xfma
  simp [h, hu]

theorem xfma_nan {v w u : FVal} (h : (xmul v w).1.isNan = true ∨ u.isNan = true) (rm : Nat) :
    xfma v w u rm = (.nan false, (xmul v w).2 ||| (if u.isSNan then NV else 0)) := by
  unfold xfma
  simp [h, sNanFlag]

theorem xfma_exact (n1 n2 n3 : Bool) (m1 m2 m3 : Nat) (e1 e2 e3 : ℤ) (rm : Nat) :
    ∃ v n w, xfma (.num n1 m1 e1) (.num n2 m2 e2) (.num n3 m3 e3) rm = (v, 0) ∧ v.Is n w ∧
      v.Value (withSign n1 (m1 * 2^e1) * withSign n2 (m2 * 2^e2) + withSign n3 (m3 * 2^e3)) ∧
      (withSign n1 (m1 * 2^e1) * withSign n2 (m2 * 2^e2) + withSign n3 (m3 * 2^e3) = 0 →
        n = if (n1 != n2) = n3 then n3 else rm == 3) := by
  rw [xfma_finite (by rfl) rfl, withSign_mul, ← num_mul, xmul_num]
  obtain ⟨v, n, w, hadd, his, hval, hzero⟩ := xadd_exact (n1 != n2) n3 (m1 * m2) m3 (e1 + e2) e3 rm
  exact ⟨v, n, w, hadd, his, hval, fun h => (hzero h).trans (by split_ifs with hn <;> simp [hn])⟩

/-! ### Quotients and roots (R71, R72) -/

/-- Magnitudes strictly between the same two neighbours on a grid that is 2^32 times as fine are alike. -/
theorem alike_of_between {c : Nat} {p q : ℤ} {z z' : ℝ} (hq : p + 32 ≤ q) (h : c < z ∧ z < c + 1) (h' : c < z' ∧ z' < c + 1) :
    Alike (z * 2^p / 2^q) (z' * 2^p / 2^q) := by
  obtain ⟨d, rfl⟩ : ∃ d : Nat, q = p + 32 + d := ⟨(q - p - 32).toNat, by omega⟩
  have scale (u : ℝ) : u * 2^p / 2^(p + 32 + d) * 2^32 = u / (2^d : Nat) := by
    rw [zpow_add₀ two_ne_zero, zpow_add₀ two_ne_zero, zpow_natCast]
    push_cast
    field_simp
  have floor {u : ℝ} (h : (c : ℝ) < u ∧ u < c + 1) : ⌊u / (2^d : Nat)⌋ = (c / 2^d : Nat) := by
    have : ⌊u⌋ = c := Int.floor_eq_iff.2 ⟨by exact_mod_cast h.1.le, by exact_mod_cast h.2⟩
    rw [Int.floor_div_natCast, this]; rfl
  have ceil {u : ℝ} (h : (c : ℝ) < u ∧ u < c + 1) : ⌈u / (2^d : Nat)⌉ = (c / 2^d : Nat) + 1 := by
    refine Int.ceil_eq_iff.2 ⟨?_, ?_⟩
    · have : (c / 2^d : Nat) * 2^d ≤ c := Nat.div_mul_le_self c (2^d)
      rw [lt_div_iff₀ (by positivity)]
      refine lt_of_le_of_lt ?_ h.1
      push_cast
      rw [add_sub_cancel_right]
      exact_mod_cast this
    · have next : c < c / 2^d * 2^d + 2^d := Nat.lt_div_mul_add (Nat.two_pow_pos d)
      have : c + 1 ≤ (c / 2^d + 1) * 2^d := by rw [add_one_mul]; exact next
      rw [div_le_iff₀ (by positivity)]
      exact h.2.le.trans (by exact_mod_cast this)
  exact ⟨by rw [scale, scale, floor h, floor h'], by rw [scale, scale, ceil h, ceil h']⟩

/-- A sticky value of 85 bits or more rounds as the magnitude that it stands for, which is c units or lies strictly between c and
c + 1 of them. -/
theorem sticky_rounded {f : Fmt} (hf : IsFormat f) (n : Bool) {c : Nat} {exact : Bool} {p : ℤ} {z : ℝ} (rm : Nat) (r : BitVec 32)
    (hc : 2^84 ≤ c) (hexact : exact = true → z = c) (hsticky : exact = false → c < z ∧ z < c + 1) :
    Rounded f n (z * 2^p) rm r (fround f (.num n (sticky c exact p).1 (sticky c exact p).2) rm r) := by
  have hpos : 0 < c := lt_of_lt_of_le (by positivity) hc
  cases exact with
  | true =>
    rw [hexact rfl]
    exact fround_rounded hf n p rm r hpos
  | false =>
    have hz := hsticky rfl
    have hhalf : (c : ℝ) < c + 1 / 2 ∧ (c : ℝ) + 1 / 2 < c + 1 := by constructor <;> linarith
    have log_eq {u : ℝ} (h : (c : ℝ) < u ∧ u < c + 1) : Int.log 2 (u * 2^p) = c.log2 + p :=
      log_of_between hpos (by gcongr; exact h.1.le) (by gcongr; exact h.2)
    have hbits : 84 ≤ c.log2 := (Nat.le_log2 hpos.ne').2 hc
    have hgrid : p + 32 ≤ gridOf f (c.log2 + p) := by have := hf.fb_le; unfold gridOf; omega
    have middle : ((2 * c + 1 : Nat) : ℝ) * 2^(p - 1) = (c + 1 / 2) * 2^p := by
      rw [zpow_sub₀ two_ne_zero]; push_cast; ring
    have h := fround_rounded hf n (p - 1) rm r (Nat.succ_pos (2 * c))
    rw [Nat.succ_eq_add_one, middle] at h
    refine rounded_congr (by positivity) (mul_pos (by linarith [hz.1, hhalf.1, (Nat.cast_pos.2 hpos : (0 : ℝ) < c)]) (by positivity)) ?_ ?_ h
    · rw [log_eq hhalf, log_eq hz]
    · rw [log_eq hhalf]; exact alike_of_between hgrid hhalf hz

theorem xdiv_num {n1 n2 : Bool} {m1 m2 : Nat} {e1 e2 : ℤ} (h1 : 0 < m1) (h2 : 0 < m2) :
    let x := m1 * 2^(guardBits + m2.log2)
    let v := sticky (x / m2) (x % m2 == 0) (e1 - e2 - (guardBits + m2.log2 : Nat))
    xdiv (.num n1 m1 e1) (.num n2 m2 e2) = (.num (n1 != n2) v.1 v.2, 0) := by
  have hm1 : ¬ (m1 == 0) = true := by simpa using h1.ne'
  have hm2 : ¬ (m2 == 0) = true := by simpa using h2.ne'
  simp only [xdiv, if_neg hm1, if_neg hm2]
  rfl

/-- A quotient rounds as the real one. -/
theorem xdiv_rounded {f : Fmt} (hf : IsFormat f) (n1 n2 : Bool) {m1 m2 : Nat} (e1 e2 : ℤ) (rm : Nat) (r : BitVec 32) (h1 : 0 < m1)
    (h2 : 0 < m2) : Rounded f (n1 != n2) (|withSign n1 (m1 * 2^e1)| / |withSign n2 (m2 * 2^e2)|) rm r
      (fround f (xdiv (.num n1 m1 e1) (.num n2 m2 e2)).1 rm r) := by
  have hm2 : (0 : ℝ) < m2 := by exact_mod_cast h2
  rw [xdiv_num h1 h2, abs_withSign, abs_withSign, abs_of_nonneg (by positivity), abs_of_nonneg (by positivity)]
  have quotient : (m1 : ℝ) * 2^e1 / (m2 * 2^e2) =
      ((m1 * 2^(guardBits + m2.log2) : Nat) : ℝ) / m2 * 2^(e1 - e2 - (guardBits + m2.log2 : Nat)) := by
    rw [zpow_sub₀ two_ne_zero, zpow_sub₀ two_ne_zero, zpow_natCast]
    push_cast
    field_simp
  have hbits : 2^84 ≤ m1 * 2^(guardBits + m2.log2) / m2 := by
    rw [Nat.le_div_iff_mul_le h2]
    calc 2^84 * m2 ≤ 2^84 * 2^(m2.log2 + 1) := by have := (Nat.lt_log2_self (n := m2)).le; gcongr
      _ = 2^(85 + m2.log2) := by rw [← pow_add]; congr 1; omega
      _ ≤ 2^(guardBits + m2.log2) := Nat.pow_le_pow_right two_pos (by unfold guardBits; omega)
      _ ≤ m1 * 2^(guardBits + m2.log2) := Nat.le_mul_of_pos_left _ h1
  rw [quotient]
  generalize m1 * 2^(guardBits + m2.log2) = x at hbits ⊢
  have hfloor : ((x / m2 : Nat) : ℝ) * m2 + (x % m2 : Nat) = x := by exact_mod_cast Nat.div_add_mod' x m2
  refine sticky_rounded hf _ rm r hbits (fun h => ?_) (fun h => ?_)
  · rw [beq_iff_eq] at h
    rw [h, Nat.cast_zero, add_zero] at hfloor
    rw [div_eq_iff hm2.ne', hfloor]
  · have hrem : 0 < x % m2 := Nat.pos_of_ne_zero (beq_eq_false_iff_ne.1 h)
    have hrem' : (0 : ℝ) < (x % m2 : Nat) := by exact_mod_cast hrem
    have hlt : ((x % m2 : Nat) : ℝ) < m2 := by exact_mod_cast Nat.mod_lt x h2
    rw [lt_div_iff₀ hm2, div_lt_iff₀ hm2, add_one_mul]
    constructor <;> linarith

/-- The bits below bit n complete a root whose upper bits are r. -/
theorem isqrtFrom_eq (x n : Nat) : ∀ r, r * r ≤ x → x < (r + 2^n) * (r + 2^n) → isqrtFrom x n r = x.sqrt := by
  induction n with
  | zero => exact fun r h h' => Nat.eq_sqrt.2 ⟨h, h'⟩
  | succ n ih =>
    intro r h h'
    rw [isqrtFrom]
    split
    · next ht => exact ih _ ht (by rwa [add_assoc, ← two_mul, ← pow_succ'])
    · next ht => exact ih _ h (not_le.1 ht)

theorem isqrt_eq (x : Nat) : isqrt x = x.sqrt := by
  refine isqrtFrom_eq x _ 0 (by simp) ?_
  rw [zero_add, ← pow_add]
  exact (Nat.lt_log2_self (n := x)).trans_le (Nat.pow_le_pow_right two_pos (by omega))

/-- The radicand, with guard bits and an even exponent, of which the model takes the integer root. -/
def radicand (m : Nat) (e : ℤ) : Nat := m * 2^(2 * guardBits + (if e % 2 == 1 then 1 else 0))

/-- The exponent of that root. -/
def rootExponent (e : ℤ) : ℤ := (if e % 2 == 1 then e - 1 else e) / 2 - guardBits

theorem xsqrt_num {m : Nat} {e : ℤ} (h : 0 < m) :
    let q := (radicand m e).sqrt
    let v := sticky q (q * q == radicand m e) (rootExponent e)
    xsqrt (.num false m e) = (.num false v.1 v.2, 0) := by
  have hm : ¬ (m == 0) = true := by simpa using h.ne'
  simp only [xsqrt, if_neg hm, isqrt_eq]
  rfl

theorem sqrt_num (m : Nat) (e : ℤ) : √((m : ℝ) * 2^e) = √(radicand m e : ℝ) * 2^rootExponent e := by
  have hexp : e = (2 * guardBits + (if e % 2 == 1 then 1 else 0) : Nat) + (rootExponent e + rootExponent e) := by
    unfold rootExponent
    split
    · next h => rw [beq_iff_eq] at h; push_cast; omega
    · next h => rw [beq_iff_eq] at h; push_cast; omega
  have : (m : ℝ) * 2^e = radicand m e * (2^rootExponent e)^2 := by
    conv_lhs => rw [hexp]
    rw [zpow_add₀ two_ne_zero, zpow_add₀ two_ne_zero, zpow_natCast, radicand]
    push_cast
    ring
  rw [this, Real.sqrt_mul (Nat.cast_nonneg _), Real.sqrt_sq (by positivity)]

/-- A root rounds as the real one. -/
theorem xsqrt_rounded {f : Fmt} (hf : IsFormat f) {m : Nat} (e : ℤ) (rm : Nat) (r : BitVec 32) (h : 0 < m) :
    Rounded f false √((m : ℝ) * 2^e) rm r (fround f (xsqrt (.num false m e)).1 rm r) := by
  rw [xsqrt_num h, sqrt_num]
  have hbits : 2^84 ≤ (radicand m e).sqrt := by
    rw [Nat.le_sqrt, ← pow_add, radicand]
    refine le_trans ?_ (Nat.le_mul_of_pos_left _ h)
    exact Nat.pow_le_pow_right two_pos (by unfold guardBits; omega)
  generalize radicand m e = x at hbits ⊢
  have hle : x.sqrt * x.sqrt ≤ x := Nat.sqrt_le x
  refine sticky_rounded hf _ rm r hbits (fun hq => ?_) (fun hq => ⟨?_, ?_⟩)
  · rw [beq_iff_eq] at hq
    conv_lhs => rw [← hq]
    rw [Nat.cast_mul, Real.sqrt_mul_self (Nat.cast_nonneg _)]
  · have : x.sqrt * x.sqrt < x := lt_of_le_of_ne hle (beq_eq_false_iff_ne.1 hq)
    rw [Real.lt_sqrt (Nat.cast_nonneg _), sq]
    exact_mod_cast this
  · rw [Real.sqrt_lt' (by positivity), sq]
    exact_mod_cast Nat.lt_succ_sqrt x

/-! ### Infinities, NaNs and zeros (R74, R75) -/

theorem xadd_inf (p q n : Bool) (m : Nat) (e : ℤ) (rm : Nat) :
    xadd (.inf p) (.inf q) rm = (if p = q then (.inf p, 0) else (.nan false, NV)) ∧
    xadd (.inf p) (.num n m e) rm = (.inf p, 0) ∧ xadd (.num n m e) (.inf p) rm = (.inf p, 0) :=
  ⟨by cases p <;> cases q <;> rfl, rfl, rfl⟩

theorem xmul_inf (p q n : Bool) (m : Nat) (e : ℤ) :
    xmul (.inf p) (.inf q) = (.inf (p != q), 0) ∧
    xmul (.inf p) (.num n m e) = (if m = 0 then (.nan false, NV) else (.inf (p != n), 0)) ∧
    xmul (.num n m e) (.inf p) = (if m = 0 then (.nan false, NV) else (.inf (n != p), 0)) := by
  refine ⟨rfl, ?_, ?_⟩
  · simp [xmul, FVal.isNan]
  · simp [xmul, FVal.isNan, Bool.xor_comm]

theorem xdiv_inf (p q n : Bool) (m : Nat) (e : ℤ) : xdiv (.inf p) (.inf q) = (.nan false, NV) ∧
    xdiv (.inf p) (.num n m e) = (.inf (p != n), 0) ∧ xdiv (.num n m e) (.inf p) = (.num (n != p) 0 0, 0) := ⟨rfl, rfl, rfl⟩

theorem xdiv_zero {n s : Bool} {m k : Nat} (e d : ℤ) : (0 < k → xdiv (.num n 0 e) (.num s k d) = (.num (n != s) 0 0, 0)) ∧
    (0 < m → xdiv (.num n m e) (.num s 0 d) = (.inf (n != s), DZ)) ∧ xdiv (.num n 0 e) (.num s 0 d) = (.nan false, NV) := by
  refine ⟨fun h => ?_, fun h => ?_, rfl⟩ <;> simp [xdiv, FVal.isNan, h.ne']

theorem xsqrt_inf (p : Bool) : xsqrt (.inf p) = if p then (.nan false, NV) else (.inf false, 0) := rfl

theorem xsqrt_nan (s : Bool) : xsqrt (.nan s) = (.nan false, if s then NV else 0) := rfl

theorem xsqrt_zero (n : Bool) (e : ℤ) : xsqrt (.num n 0 e) = (.num n 0 0, 0) := rfl

theorem xsqrt_neg {m : Nat} (e : ℤ) (h : 0 < m) : xsqrt (.num true m e) = (.nan false, NV) := by
  simp [xsqrt, h.ne']

theorem nanFlag_eq (v w : FVal) : sNanFlag [v, w] = if v.isSNan ∨ w.isSNan then NV else 0 := by
  simp [sNanFlag]

/-- A NaN operand gives the canonical NaN, a signalling one sets NV. -/
theorem arith_nan {v w : FVal} (h : v.isNan = true ∨ w.isNan = true) (rm : Nat) :
    let fl : Flags := if v.isSNan ∨ w.isSNan then NV else 0
    xadd v w rm = (.nan false, fl) ∧ xmul v w = (.nan false, fl) ∧ xdiv v w = (.nan false, fl) := by
  have hnan : (v.isNan || w.isNan) = true := by rwa [Bool.or_eq_true]
  refine ⟨?_, ?_, ?_⟩
  · rw [xadd.eq_def, if_pos hnan, nanFlag_eq]
  · rw [xmul.eq_def, if_pos hnan, nanFlag_eq]
  · rw [xdiv.eq_def, if_pos hnan, nanFlag_eq]

/-! ### FMIN and FMAX (R109) -/

/-- A place among the encodings, with its sign. -/
def signedPlace (s : Bool) (i : Nat) : ℤ := if s then -(i : ℤ) else i

/-- Encodings up to the infinity are finite or the infinity. -/
theorem IsFormat.finite_or_inf {f : Fmt} (hf : IsFormat f) (hinf : f.hasInf = true) (s : Bool) {i : Nat} (hi : i ≤ f.maxBits + 1) :
    (∃ m e, fval f (signBit f s + i) = .num s m e ∧ (m : ℝ) * 2^e = units f.fb i * unitOf f ∧ i ≤ f.maxBits) ∨
    (fval f (signBit f s + i) = .inf s ∧ i = f.maxBits + 1) := by
  rcases Nat.lt_or_ge f.maxBits i with h | h
  · obtain rfl : i = f.maxBits + 1 := by omega
    exact .inr ⟨hf.fval_inf hinf s, rfl⟩
  · obtain ⟨m, e, hnum, hval⟩ := hf.fval_finite s h
    exact .inl ⟨m, e, hnum, hval, h⟩

theorem withSign_lt_iff {g : Nat → ℝ} (hg : StrictMono g) (h0 : g 0 = 0) (s t : Bool) (i j : Nat) :
    withSign s (g i) < withSign t (g j) ↔ signedPlace s i < signedPlace t j := by
  have nonneg (k : Nat) : 0 ≤ g k := h0 ▸ hg.monotone (Nat.zero_le k)
  have pos_iff (k : Nat) : 0 < g k ↔ 0 < k := by rw [← h0, hg.lt_iff_lt]
  have := nonneg i
  have := nonneg j
  cases s <;> cases t <;> simp only [withSign, signedPlace, if_true, if_false, Bool.false_eq_true]
  · rw [hg.lt_iff_lt, Nat.cast_lt]
  · constructor <;> intro <;> [linarith; omega]
  · have hi := pos_iff i
    have hj := pos_iff j
    constructor
    · intro h
      by_contra hc
      have : ¬ 0 < i ∧ ¬ 0 < j := by omega
      rw [← hi, ← hj] at this
      linarith
    · intro h
      rcases (by omega : 0 < i ∨ 0 < j) with h | h
      · linarith [hi.2 h]
      · linarith [hj.2 h]
  · rw [neg_lt_neg_iff, neg_lt_neg_iff, hg.lt_iff_lt, Nat.cast_lt]

/-- Values are ordered as the encodings are, with their signs. -/
theorem IsFormat.flt_iff {f : Fmt} (hf : IsFormat f) (hinf : f.hasInf = true) (s t : Bool) {i j : Nat} (hi : i ≤ f.maxBits + 1)
    (hj : j ≤ f.maxBits + 1) :
    flt (fval f (signBit f s + i)) (fval f (signBit f t + j)) = true ↔ signedPlace s i < signedPlace t j := by
  rcases hf.finite_or_inf hinf s hi with ⟨m, e, hx, hm, hi⟩ | ⟨hx, rfl⟩ <;>
    rcases hf.finite_or_inf hinf t hj with ⟨k, d, hy, hk, hj⟩ | ⟨hy, rfl⟩ <;> rw [hx, hy]
  · rw [flt_num_iff, hm, hk]
    exact withSign_lt_iff (unitsValue_strictMono f) (by simp) s t i j
  · cases s <;> cases t <;> simp [flt, signedPlace] <;> omega
  · cases s <;> cases t <;> simp [flt, signedPlace] <;> omega
  · cases s <;> cases t <;> simp [flt, signedPlace] <;> omega

theorem IsFormat.feq_iff {f : Fmt} (hf : IsFormat f) (hinf : f.hasInf = true) (s t : Bool) {i j : Nat} (hi : i ≤ f.maxBits + 1)
    (hj : j ≤ f.maxBits + 1) :
    feq (fval f (signBit f s + i)) (fval f (signBit f t + j)) = true ↔ signedPlace s i = signedPlace t j := by
  rcases hf.finite_or_inf hinf s hi with ⟨m, e, hx, hm, hi⟩ | ⟨hx, rfl⟩ <;>
    rcases hf.finite_or_inf hinf t hj with ⟨k, d, hy, hk, hj⟩ | ⟨hy, rfl⟩ <;> rw [hx, hy]
  · have lt_iff := withSign_lt_iff (unitsValue_strictMono f) (by simp)
    rw [feq_num_iff, hm, hk, le_antisymm_iff, le_antisymm_iff, ← not_lt, ← not_lt, ← not_lt, ← not_lt, lt_iff s t i j, lt_iff t s j i]
  · cases s <;> cases t <;> simp [feq, signedPlace] <;> omega
  · cases s <;> cases t <;> simp [feq, signedPlace] <;> omega
  · cases s <;> cases t <;> simp [feq, signedPlace] <;> omega

/-- The place of an encoding in the order of R109, where −0 comes below +0. -/
def orderKey (f : Fmt) (b : Nat) : ℤ := if 2^(f.width - 1) ≤ b then -((b - 2^(f.width - 1) : Nat) : ℤ) - 1 else b

theorem IsFormat.orderKey_eq {f : Fmt} (hf : IsFormat f) (s : Bool) {i : Nat} (hi : i < 2^f.eb * 2^f.fb) :
    orderKey f (signBit f s + i) = if s then -(i : ℤ) - 1 else i := by
  have : 2^(f.width - 1) = 2^f.eb * 2^f.fb := by rw [hf.width, ← pow_add]; congr 1; omega
  rw [orderKey, this, hf.signBit_eq]
  cases s
  · rw [if_neg Bool.false_ne_true, zero_add, if_neg (not_le.2 hi), if_neg Bool.false_ne_true]
  · rw [if_pos rfl, if_pos (Nat.le_add_right _ _), Nat.add_sub_cancel_left, if_pos rfl]

/-- Whether FMIN and FMAX find the first operand below the second. -/
def below (f : Fmt) (a b : Nat) : Bool :=
  flt (fval f a) (fval f b) || (feq (fval f a) (fval f b) && a / 2^(f.width - 1) % 2 == 1 && !(b / 2^(f.width - 1) % 2 == 1))

theorem feq_comm (v w : FVal) : feq v w = feq w v := by
  cases v <;> cases w <;> simp only [feq]
  · exact Bool.beq_comm
  · rw [min_comm]; exact Bool.beq_comm

theorem fminmax_of_not_nan {f : Fmt} {a b : Nat} (hx : (fval f a).isNan = false) (hy : (fval f b).isNan = false) (g : Bool) :
    fminmax f g a b = (if g then (if below f a b then b else a) else (if below f b a then b else a), sNanFlag [fval f a, fval f b]) := by
  unfold fminmax below
  simp only [hx, hy, feq_comm (fval f b)]

theorem IsFormat.below_iff {f : Fmt} (hf : IsFormat f) (hinf : f.hasInf = true) (s t : Bool) {i j : Nat} (hi : i ≤ f.maxBits + 1)
    (hj : j ≤ f.maxBits + 1) :
    below f (signBit f s + i) (signBit f t + j) = true ↔ orderKey f (signBit f s + i) < orderKey f (signBit f t + j) := by
  have hlt : f.maxBits + 1 < 2^f.eb * 2^f.fb := by
    rw [hf.infinite hinf]
    exact Nat.mul_lt_mul_of_pos_right (by have := Nat.one_le_two_pow (n := f.eb); omega) (by positivity)
  have hi' := hi.trans_lt hlt
  have hj' := hj.trans_lt hlt
  rw [below, hf.signBit_add_div s hi', hf.signBit_add_div t hj', hf.orderKey_eq s hi', hf.orderKey_eq t hj', Bool.or_eq_true, Bool.and_eq_true,
    Bool.and_eq_true, hf.flt_iff hinf s t hi hj, hf.feq_iff hinf s t hi hj]
  cases s <;> cases t <;> simp [signedPlace] <;> omega

theorem IsFormat.orderKey_injective {f : Fmt} (hf : IsFormat f) {a b : Nat} (ha : a < 2^f.width) (hb : b < 2^f.width)
    (h : orderKey f a = orderKey f b) : a = b := by
  obtain ⟨s, i, hi, rfl⟩ := hf.exists_sign ha
  obtain ⟨t, j, hj, rfl⟩ := hf.exists_sign hb
  rw [hf.orderKey_eq s hi, hf.orderKey_eq t hj] at h
  have hij : s = t ∧ i = j := by cases s <;> cases t <;> simp at h ⊢ <;> omega
  rw [hij.1, hij.2]

theorem IsFormat.below_iff_of_not_nan {f : Fmt} (hf : IsFormat f) (hinf : f.hasInf = true) {a b : Nat} (ha : a < 2^f.width)
    (hb : b < 2^f.width) (hx : (fval f a).isNan = false) (hy : (fval f b).isNan = false) :
    below f a b = true ↔ orderKey f a < orderKey f b := by
  have bound {s : Bool} {i : Nat} (hi : i < 2^f.eb * 2^f.fb) (h : (fval f (signBit f s + i)).isNan = false) : i ≤ f.maxBits + 1 := by
    by_contra hc
    rw [hf.fval_nan s hi (by omega) (by omega)] at h
    cases h
  obtain ⟨s, i, hi, rfl⟩ := hf.exists_sign ha
  obtain ⟨t, j, hj, rfl⟩ := hf.exists_sign hb
  exact hf.below_iff hinf s t (bound hi hx) (bound hj hy)

theorem isSNan_of_not_nan {v : FVal} (h : v.isNan = false) : v.isSNan = false := by
  cases v with
  | nan s => cases h
  | _ => rfl

/-- FMIN and FMAX of operands that are no NaN, by the operands' keys. -/
theorem IsFormat.fminmax_ordered {f : Fmt} (hf : IsFormat f) (hinf : f.hasInf = true) {a b : Nat} (ha : a < 2^f.width)
    (hb : b < 2^f.width) (hx : (fval f a).isNan = false) (hy : (fval f b).isNan = false) :
    fminmax f false a b = (if orderKey f a ≤ orderKey f b then a else b, 0) ∧
    fminmax f true a b = (if orderKey f a ≤ orderKey f b then b else a, 0) := by
  have less := hf.below_iff_of_not_nan hinf ha hb hx hy
  have more := hf.below_iff_of_not_nan hinf hb ha hy hx
  have flags : sNanFlag [fval f a, fval f b] = 0 := by simp [nanFlag_eq, isSNan_of_not_nan hx, isSNan_of_not_nan hy]
  have hinj := hf.orderKey_injective ha hb
  rw [fminmax_of_not_nan hx hy, fminmax_of_not_nan hx hy, flags, if_neg Bool.false_ne_true, if_pos rfl]
  simp only [less, more]
  rcases lt_trichotomy (orderKey f a) (orderKey f b) with h | h | h
  · simp [h, h.le, h.not_gt]
  · simp [hinj h]
  · simp [h, h.not_ge, h.not_gt]

theorem fminmax_nan {f : Fmt} {a b : Nat} (g : Bool) (h : (fval f a).isNan = true ∨ (fval f b).isNan = true) : fminmax f g a b =
    (if (fval f a).isNan = false then a else if (fval f b).isNan = false then b else f.nan,
      if (fval f a).isSNan ∨ (fval f b).isSNan then NV else 0) := by
  unfold fminmax
  rw [← nanFlag_eq]
  cases hx : (fval f a).isNan <;> cases hy : (fval f b).isNan <;> simp_all

/-! ### Conversions (R76, R113) -/

/-- The formats that a conversion's type codes 0 to 5 name. -/
theorem cvtFmt_eq {c : Nat} (h : c < 6) : cvtFmt c = [FP64, FP32, FP16, BF16, E4M3, E5M2].getD c FP64 := by
  interval_cases c <;> rfl

theorem isFormat_cvtFmt (c : Nat) : IsFormat (cvtFmt c) := by
  apply isFormat_of_mem
  unfold cvtFmt
  split <;> decide

theorem toSigned_eq {n x : Nat} (h : x < 2^(n + 1)) : toSigned (n + 1) x = if 2^n ≤ x then (x : ℤ) - (2^(n + 1) : Nat) else x := by
  rw [toSigned, BitVec.toInt_eq_toNat_cond, BitVec.toNat_ofNat, Nat.mod_eq_of_lt h, pow_succ']
  split_ifs <;> omega

/-- The integer that a source register holds (R113). -/
theorem cvtSrcInt_eq (u : BitVec 3) (w : BitVec 1) (x : Word) :
    let n : Nat := if w = 1 then 32 else 64
    let low : Nat := x.toNat % 2^n
    cvtSrcInt u.toNat (w == 1) x = if u = 6 ∧ 2^(n - 1) ≤ low then (low : ℤ) - (2^n : Nat) else low := by
  have code : u.toNat = 6 ↔ u = 6 := by rw [← BitVec.toNat_inj]; rfl
  have signed (n : Nat) := toSigned_eq (n := n) (Nat.mod_lt x.toNat (Nat.two_pow_pos (n + 1)))
  by_cases hw : w = 1
  · simp only [cvtSrcInt, code, hw, beq_self_eq_true, if_true, signed 31, ite_and]
  · simp only [cvtSrcInt, code, hw, beq_eq_false_iff_ne.2 hw, if_false, Bool.false_eq_true, signed 63, ite_and]

theorem cvt_of_integer {t u : Nat} (hu : 6 ≤ u) (w : Bool) (x : Word) (rm : Nat) (r : BitVec 32) : cvt t u w x rm r =
    (BitVec.ofNat 64 (fround (cvtFmt t) (ival (cvtSrcInt u w x)) rm r).1, (fround (cvtFmt t) (ival (cvtSrcInt u w x)) rm r).2) := by
  rw [cvt, if_pos hu]; rfl

theorem cvt_to_integer {t u : Nat} (hu : u < 6) (ht : 6 ≤ t) (w : Bool) (x : Word) (rm : Nat) (r : BitVec 32) :
    let c := cvtInt (fval (cvtFmt u) (x.toNat % 2^(cvtFmt u).width)) (if w then 32 else 64) (t == 6) rm r
    cvt t u w x rm r = (BitVec.ofInt 64 c.1, c.2) := by
  rw [cvt, if_neg (not_le.2 hu)]
  simp only [if_pos ht]

theorem cvt_same {u : Nat} (hu : u < 6) (w : Bool) (x : Word) (rm : Nat) (r : BitVec 32) :
    let c := fintegral (cvtFmt u) (x.toNat % 2^(cvtFmt u).width) rm r
    cvt u u w x rm r = (BitVec.ofNat 64 c.1, c.2) := by
  rw [cvt, if_neg (not_le.2 hu)]
  simp only [if_neg (not_le.2 hu), if_true]
  rfl

theorem cvt_between {t u : Nat} (hu : u < 6) (ht : t < 6) (h : t ≠ u) (w : Bool) (x : Word) (rm : Nat) (r : BitVec 32) :
    let c := fround (cvtFmt t) (fval (cvtFmt u) (x.toNat % 2^(cvtFmt u).width)) rm r
    cvt t u w x rm r = (BitVec.ofNat 64 c.1, c.2) := by
  rw [cvt, if_neg (not_le.2 hu)]
  simp only [if_neg (not_le.2 ht), if_neg h]
  rfl

/-- RoundInt takes the magnitude on the grid of the integers. -/
theorem roundInt_eq (n : Bool) (m : Nat) (e : ℤ) (rm : Nat) (r : BitVec 32) : roundInt n m e rm r =
    (if n then -(magnitude n m e 0 rm r : ℤ) else magnitude n m e 0 rm r, (onGrid m e 0).2.1 != 0) := rfl

/-- RoundInt of a value for which an integer is chosen. -/
theorem roundInt_chosen {n : Bool} {m : Nat} {e : ℤ} {rm : Nat} {r : BitVec 32} {k : ℤ} (h : Chosen n (m * 2^e) 0 rm r k) :
    ∃ K : Nat, k = K ∧ roundInt n m e rm r = (if n then -(K : ℤ) else K, decide ((K : ℝ) ≠ m * 2^e)) := by
  have hK := chosen_magnitude n m e 0 rm r
  have exact_iff := (onGrid_exact_iff m e 0).trans (chosen_exact_iff hK).symm
  refine ⟨_, chosen_unique h hK, ?_⟩
  rw [roundInt_eq, zpow_zero, mul_one, Int.cast_natCast] at *
  rw [Prod.mk.injEq]
  refine ⟨rfl, ?_⟩
  rw [Bool.eq_iff_iff, bne_iff_ne, decide_eq_true_iff, ne_eq, exact_iff]

/-- An integer in range is converted with NX where it is not the value; one out of range is clamped with NV (R76). -/
theorem cvtInt_num {g : Bool} {m : Nat} {e : ℤ} {rm : Nat} {r : BitVec 32} {k : ℤ} (n : Nat) (signed : Bool)
    (h : Chosen g (m * 2^e) 0 rm r k) :
    let z := if g then -k else k
    let c := cvtInt (.num g m e) n signed rm r
    (intLo n signed ≤ z → z ≤ intHi n signed → (k : ℝ) = m * 2^e → c = (z, 0)) ∧
    (intLo n signed ≤ z → z ≤ intHi n signed → (k : ℝ) ≠ m * 2^e → c = (z, NX)) ∧
    (z < intLo n signed → c = (intLo n signed, NV)) ∧
    (intHi n signed < z → c = (intHi n signed, NV)) := by
  obtain ⟨K, rfl, hround⟩ := roundInt_chosen h
  have bounds : intLo n signed ≤ intHi n signed := by
    have := Nat.two_pow_pos (n - 1)
    have := Nat.two_pow_pos n
    unfold intLo intHi
    split <;> omega
  dsimp only
  unfold cvtInt sat
  simp only [hround, Int.cast_natCast]
  generalize (if g then -(K : ℤ) else K) = z
  refine ⟨fun h1 h2 he => ?_, fun h1 h2 he => ?_, fun h1 => ?_, fun h1 => ?_⟩
  · simp [h1.not_gt, h2.not_gt, he]
  · simp [h1.not_gt, h2.not_gt, he]
  · simp [h1, h1.ne']
  · simp [h1, h1.ne, (bounds.trans h1.le).not_gt]

/-- From 2^fb on every value of a format is an integer. -/
theorem IsFormat.two_pow_le_max {f : Fmt} (hf : IsFormat f) : (2 : ℝ)^f.fb ≤ units f.fb f.maxBits * unitOf f := by
  obtain ⟨E, hE⟩ : ∃ E, f.fb + f.bias = E + 1 := ⟨f.fb + f.bias - 1, by have := hf.bias_pos; omega⟩
  have place : units f.fb ((f.fb + f.bias) * 2^f.fb) = 2^f.fb * 2^E := by
    rw [hE]; exact units_normal E (x := 0) (Nat.two_pow_pos f.fb)
  have value : (units f.fb ((f.fb + f.bias) * 2^f.fb) : ℝ) * unitOf f = 2^f.fb := by
    have hsum : (E : ℤ) + (1 - f.bias - f.fb) = 0 := by omega
    rw [place, unitOf, Nat.cast_mul, Nat.cast_pow, Nat.cast_pow, Nat.cast_ofNat, mul_assoc, ← zpow_natCast 2 E, ← zpow_add₀ two_ne_zero,
      hsum, zpow_zero, mul_one]
  exact value.symm.trans_le ((unitsValue_strictMono f).monotone hf.integers)

/-- The integer chosen for a value of a format is a value of the format. -/
theorem IsFormat.chosen_representable {f : Fmt} (hf : IsFormat f) {b : Nat} (hb : b < 2^f.width) {g : Bool} {m : Nat} {e : ℤ} {rm : Nat}
    {r : BitVec 32} {K : Nat} (hval : fval f b = .num g m e) (hK : 0 < K) (h : Chosen g (m * 2^e) 0 rm r K) :
    ∃ (M : Nat) (E : ℤ), 0 < M ∧ M < 2^(f.fb + 1) ∧ 1 - (f.bias : ℤ) - f.fb ≤ E ∧ (K : ℝ) = M * 2^E ∧
      (K : ℝ) ≤ units f.fb f.maxBits * unitOf f := by
  obtain ⟨hm, he⟩ := fval_num_bounds hval
  by_cases hexact : (K : ℝ) = m * 2^e
  · obtain ⟨i, hi, -, hx⟩ := hf.exists_of_num hb ⟨m, e, hval, rfl⟩
    have hpos : 0 < m := by
      rw [Nat.pos_iff_ne_zero]
      rintro rfl
      rw [Nat.cast_zero, zero_mul, Nat.cast_eq_zero] at hexact
      omega
    refine ⟨m, e, hpos, hm, he, hexact, ?_⟩
    rw [hexact, hx]
    exact (unitsValue_strictMono f).monotone hi
  · have fine : e < 0 := by
      by_contra hc
      refine hexact ?_
      have hint : (m : ℝ) * 2^e / 2^(0 : ℤ) = ((m * 2^e.toNat : Nat) : ℤ) := by
        rw [zpow_zero, div_one, ← Int.toNat_of_nonneg (not_lt.1 hc), zpow_natCast]; push_cast; rfl
      simpa using (chosen_exact_iff h).2 ⟨_, hint⟩
    have hlt : ⌊(m : ℝ) * 2^e / 2^(0 : ℤ)⌋ < (2^f.fb : Nat) := by
      rw [Int.floor_lt, zpow_zero, div_one, Int.cast_natCast]
      calc (m : ℝ) * 2^e ≤ m * 2^(-1 : ℤ) := mul_le_mul_of_nonneg_left (zpow_le_zpow_right₀ one_le_two (by omega)) (Nat.cast_nonneg m)
        _ < (2^(f.fb + 1) : Nat) * 2^(-1 : ℤ) := by gcongr
        _ = (2^f.fb : Nat) := by rw [pow_succ]; push_cast; rw [zpow_neg_one]; ring
    have hK' : K ≤ 2^f.fb := by have := (chosen_bounds h).2; omega
    refine ⟨K, 0, hK, by rw [pow_succ]; have := Nat.two_pow_pos f.fb; omega, by omega, by simp, ?_⟩
    exact le_trans (by exact_mod_cast hK') hf.two_pow_le_max

/-- FCVT to the source's own format makes it integral, with NX where that changes it (R113). -/
theorem IsFormat.fintegral_num {f : Fmt} (hf : IsFormat f) {b : Nat} (hb : b < 2^f.width) {g : Bool} {m : Nat} {e : ℤ} {rm : Nat}
    {r : BitVec 32} {k : ℤ} (hval : fval f b = .num g m e) (h : Chosen g (m * 2^e) 0 rm r k) :
    ∃ c, (fval f c).Is g k ∧ c < 2^f.width ∧ ((k : ℝ) = m * 2^e → fintegral f b rm r = (c, 0)) ∧
      ((k : ℝ) ≠ m * 2^e → fintegral f b rm r = (c, NX)) := by
  obtain ⟨K, rfl, hround⟩ := roundInt_chosen h
  rw [Int.cast_natCast]
  rcases Nat.eq_zero_or_pos m with rfl | hm
  · have hK : (K : ℝ) = 0 := by
      have := (chosen_exact_iff h).2 ⟨0, by simp⟩
      simpa using this
    refine ⟨b, ?_, hb, fun _ => by simp [fintegral, hval], fun hne => absurd (by simpa using hK) hne⟩
    rw [hval, is_num_iff, hK]
    simp
  have result : fintegral f b rm r = ((fround f (.num g K 0) 2 0).1, if decide ((K : ℝ) ≠ m * 2^e) then NX else 0) := by
    have hnat : (if g then -(K : ℤ) else K).natAbs = K := by split <;> simp
    unfold fintegral
    simp only [hval, if_neg (by simpa using hm.ne' : ¬ (m == 0) = true), hround, hnat]
  have value : (fval f (fround f (.num g K 0) 2 0).1).Is g K ∧ (fround f (.num g K 0) 2 0).1 < 2^f.width := by
    rcases Nat.eq_zero_or_pos K with rfl | hK
    · rw [fround_zero]
      exact ⟨by simpa using hf.fval_finite g (Nat.zero_le _), hf.signBit_add_lt g (i := 0) (by positivity)⟩
    · obtain ⟨M, E, hM, hM', hE, hx, hmax⟩ := hf.chosen_representable hb hval hK h
      have hrounded := fround_rounded hf g 0 2 0 hK
      rw [zpow_zero, mul_one] at hrounded
      obtain ⟨hw, hv, -⟩ := rounded_representable hf hM hM' hE hx hmax hrounded
      exact ⟨hv, hw⟩
  exact ⟨_, value.1, value.2, fun he => by rw [result]; simp [he], fun he => by rw [result]; simp [he]⟩

/-! ### The statement of rounding (O7) -/

/-- FCVT to an integer, in the words of R76 and R113. -/
theorem cvt_integer {t u : BitVec 3} (w : BitVec 1) (x : Word) (rm : Nat) (r : BitVec 32) (hu : u.toNat < 6) (ht : 6 ≤ t.toNat) :
    let n : Nat := if w = 1 then 32 else 64
    let v := cvt t.toNat u.toNat (w == 1) x rm r
    let lo : ℤ := if t = 6 then -(2^(n - 1) : Nat) else 0
    let hi : ℤ := if t = 6 then (2^(n - 1) : Nat) - 1 else (2^n : Nat) - 1
    let src := fval (cvtFmt u.toNat) (x.toNat % 2^(cvtFmt u.toNat).width)
    (src.isNan = true → v = (0, NV)) ∧
    (∀ g, src = .inf g → v = (BitVec.ofInt 64 (if g then lo else hi), NV)) ∧
    (∀ g m e k, src = .num g m e → Chosen g (m * 2^e) 0 rm r k →
      let z := if g then -k else k
      (lo ≤ z → z ≤ hi → (k : ℝ) = m * 2^e → v = (BitVec.ofInt 64 z, 0)) ∧
      (lo ≤ z → z ≤ hi → (k : ℝ) ≠ m * 2^e → v = (BitVec.ofInt 64 z, NX)) ∧
      (z < lo → v = (BitVec.ofInt 64 lo, NV)) ∧ (hi < z → v = (BitVec.ofInt 64 hi, NV))) := by
  have code : (t.toNat == 6) = decide (t = 6) := by
    rw [Bool.eq_iff_iff, beq_iff_eq, decide_eq_true_iff, ← BitVec.toNat_inj]; rfl
  have wide : (if (w == 1) = true then 32 else 64) = if w = 1 then 32 else 64 := by simp only [beq_iff_eq]
  dsimp only
  rw [cvt_to_integer hu ht, code, wide]
  generalize (if w = 1 then 32 else 64 : Nat) = n
  have hlo : (if t = 6 then -((2^(n - 1) : Nat) : ℤ) else 0) = intLo n (decide (t = 6)) := by simp [intLo]
  have hhi : (if t = 6 then ((2^(n - 1) : Nat) : ℤ) - 1 else (2^n : Nat) - 1) = intHi n (decide (t = 6)) := by simp [intHi]
  rw [hlo, hhi]
  generalize fval (cvtFmt u.toNat) (x.toNat % 2^(cvtFmt u.toNat).width) = src
  refine ⟨fun h => ?_, fun g h => ?_, fun g m e k h hk => ?_⟩
  · cases src with
    | nan s => rfl
    | _ => cases h
  · rw [h]; rfl
  · obtain ⟨hexact, hinexact, hunder, hover⟩ := cvtInt_num n (decide (t = 6)) hk
    rw [h]
    exact ⟨fun h1 h2 he => by rw [hexact h1 h2 he], fun h1 h2 he => by rw [hinexact h1 h2 he], fun h1 => by rw [hunder h1],
      fun h1 => by rw [hover h1]⟩

/-- FCVT to the source's format, in the words of R113. -/
theorem cvt_integral {u : BitVec 3} (w : BitVec 1) (x : Word) (rm : Nat) (r : BitVec 32) (hu : u.toNat < 6) :
    let f := cvtFmt u.toNat
    let out (z : Nat × Flags) : Prop := cvt u.toNat u.toNat (w == 1) x rm r = (BitVec.ofNat 64 z.1, z.2)
    let src := fval f (x.toNat % 2^f.width)
    (∀ s, src = .nan s → out (f.nan, if s then NV else 0)) ∧
    (∀ g, src = .inf g → out (x.toNat % 2^f.width, 0)) ∧
    (∀ g m e k, src = .num g m e → Chosen g (m * 2^e) 0 rm r k →
      ∃ b, (fval f b).Is g k ∧ b < 2^f.width ∧ ((k : ℝ) = m * 2^e → out (b, 0)) ∧ ((k : ℝ) ≠ m * 2^e → out (b, NX))) := by
  dsimp only
  rw [cvt_same hu]
  have hf := isFormat_cvtFmt u.toNat
  refine ⟨fun s h => ?_, fun g h => ?_, fun g m e k h hk => ?_⟩
  · rw [fintegral, h]
  · rw [fintegral, h]
  · obtain ⟨b, his, hb, hexact, hinexact⟩ := hf.fintegral_num (Nat.mod_lt _ (Nat.two_pow_pos _)) h hk
    exact ⟨b, his, hb, fun he => by rw [hexact he], fun he => by rw [hinexact he]⟩

/-- Settles O7: each clause is one fact about the exact operations, the rounding of a magnitude on its grid, or the order of the
encodings. -/
theorem roundingExact : Obligations.RoundingExact := by
  unfold Obligations.RoundingExact
  intro fmts wide
  have wide_fmts {f : Fmt} (h : f ∈ wide) : f ∈ fmts ∧ f.hasInf = true := by revert f; decide
  refine ⟨?exact, ?rounded, ?special, ?finite, ?invalid, ?fused, ?minmax, ?convert⟩
  case exact =>
    intro f hf b rm r hb n m e h
    rw [h]
    exact (isFormat_of_mem hf).fround_fval hb h rm r
  case rounded => exact fun f hf rm r n m e _ _ => ⟨fround_rounded (isFormat_of_mem hf) n e rm r, fround_zero f n e rm r⟩
  case special => exact fun f hf h rm r q => ⟨fround_nan f q rm r, fround_inf hf h q rm r⟩
  case finite =>
    intro n1 n2 n3 m1 m2 m3 e1 e2 e3 x y z rm r _ _ a b c hx hy hz
    obtain rfl := value_num_iff.1 hx
    obtain rfl := value_num_iff.1 hy
    obtain rfl := value_num_iff.1 hz
    refine ⟨xadd_exact .., xmul_exact .., xfma_exact .., fun h1 h2 => ⟨?_, fun f hf => ?_⟩, ?_, ?_, ?_, fun h1 hn => ⟨?_, fun f hf => ?_⟩, ?_,
      ?_, flt_num_iff, feq_num_iff⟩
    · rw [xdiv_num h1 h2]
    · exact xdiv_rounded (isFormat_of_mem hf) n1 n2 e1 e2 rm r h1 h2
    · rintro rfl h2; exact (xdiv_zero e1 e2 (m := 0)).1 h2
    · rintro h1 rfl; exact (xdiv_zero e1 e2 (k := 0)).2.1 h1
    · rintro rfl rfl; exact (xdiv_zero e1 e2 (m := 0) (k := 0)).2.2
    · subst hn; rw [xsqrt_num h1]
    · subst hn; exact xsqrt_rounded (isFormat_of_mem hf) e1 rm r h1
    · rintro h1 rfl; exact xsqrt_neg e1 h1
    · rintro rfl; exact xsqrt_zero n1 e1
  case invalid =>
    intro p q n m e v w s rm a
    obtain ⟨add_inf, inf_add, add_inf'⟩ := xadd_inf p q n m e rm
    obtain ⟨inf_mul_inf, inf_mul, mul_inf⟩ := xmul_inf p q n m e
    obtain ⟨inf_div_inf, inf_div, div_inf⟩ := xdiv_inf p q n m e
    exact ⟨add_inf, inf_add, add_inf', inf_mul_inf, inf_mul, mul_inf, inf_div_inf, inf_div, div_inf, xsqrt_inf p, xsqrt_nan s,
      fun h => arith_nan h rm⟩
  case fused => exact fun v w u rm => ⟨fun h => xfma_nan h rm, fun h hu => xfma_finite h hu rm⟩
  case minmax =>
    intro f hf a b ha hb half key x y
    obtain ⟨hmem, hinf⟩ := wide_fmts hf
    exact ⟨(isFormat_of_mem hmem).fminmax_ordered hinf ha hb, fun g h => fminmax_nan g h⟩
  case convert =>
    intro t u w x rm r hlegal _ _ fmt n v out low int lo hi src
    have fmt_eq {c : BitVec 3} (h : c.toNat < 6) : fmt c = cvtFmt c.toNat := (cvtFmt_eq h).symm
    refine ⟨fun hu => ?_, fun hu ht hne => ?_, fun hu ht => ?_, fun hu htu => ?_⟩
    · have ht : t.toNat < 6 := by
        by_contra hc
        simp [fcvtLegal, hu, not_lt.1 hc] at hlegal
      show cvt t.toNat u.toNat (w == 1) x rm r = _
      rw [cvt_of_integer hu, cvtSrcInt_eq, fmt_eq ht]
      rfl
    · show cvt t.toNat u.toNat (w == 1) x rm r = _
      rw [cvt_between hu ht (mt BitVec.toNat_inj.1 hne), fmt_eq ht, ← fmt_eq hu]
    · have h := cvt_integer w x rm r hu ht
      rw [← fmt_eq hu] at h
      exact h
    · subst htu
      have h := cvt_integral w x rm r hu
      rw [← fmt_eq hu] at h
      exact h

end Sys2Proof.Proofs
end

section
namespace Sys2Proof.Proofs
open Sys2Proof.Machine Sys2Proof.Laws

/-! ### Results of two sources (O1) -/

theorem wSltu_eq (x y : Word) : wSltu x y = if x.toNat < y.toNat then 1 else 0 := by
  simp [wSltu, b2w, BitVec.ult]

theorem sub_eq_ofInt (x y : Word) : x - y = BitVec.ofInt 64 (x.toNat - y.toNat) := by
  apply BitVec.eq_of_toNat_eq
  rw [BitVec.toNat_sub, BitVec.toNat_ofInt]
  omega

/-- Of two things whose keys are equal only where they are, a choice by `<` is one by `≤`. -/
theorem ite_lt_eq_ite_le {A B : Type} [LinearOrder B] {key : A → B} (hkey : Function.Injective key) (x y : A) :
    (if key x < key y then x else y) = (if key x ≤ key y then x else y) ∧
    (if key x < key y then y else x) = (if key x ≤ key y then y else x) := by
  rcases lt_trichotomy (key x) (key y) with h | h | h
  · simp [h, h.le]
  · simp [hkey h]
  · simp [h.not_gt, h.not_ge]

theorem toInt_injective : Function.Injective (BitVec.toInt : Word → Int) := fun _ _ => BitVec.eq_of_toInt_eq

theorem wMin_eq (x y : Word) : wMin x y = if x.toInt ≤ y.toInt then x else y := by
  simp only [wMin, BitVec.slt, decide_eq_true_eq, (ite_lt_eq_ite_le toInt_injective x y).1]

theorem wMax_eq (x y : Word) : wMax x y = if x.toInt ≤ y.toInt then y else x := by
  simp only [wMax, BitVec.slt, decide_eq_true_eq, (ite_lt_eq_ite_le toInt_injective x y).2]

theorem wMinu_eq (x y : Word) : wMinu x y = if x.toNat ≤ y.toNat then x else y := by
  simp only [wMinu, BitVec.ult, decide_eq_true_eq, (ite_lt_eq_ite_le BitVec.toNat_injective x y).1]

theorem wMaxu_eq (x y : Word) : wMaxu x y = if x.toNat ≤ y.toNat then y else x := by
  simp only [wMaxu, BitVec.ult, decide_eq_true_eq, (ite_lt_eq_ite_le BitVec.toNat_injective x y).2]

theorem addrAdd_eq_ofNat (x y : Word) :
    addrAdd x y = BitVec.ofNat 64 (x.toNat / 2^52 * 2^52 + (x.toNat % 2^52 + y.toNat % 2^52) % 2^52) := by
  rw [addrAdd, w64, Nat.add_mod x.toNat]

theorem bits_zero_lo (x : Word) (hi : Nat) : bits x hi 0 = x.toNat % 2^(hi + 1) := by
  rw [bits, Nat.pow_zero, Nat.div_one, Nat.sub_zero]

/-- R100: the width of the field that a descriptor names. -/
theorem bfWidth_eq (d : Word) : bfWidth d = min (d.toNat / 2^6 % 64 + 1) (64 - d.toNat % 64) := by
  rw [bfWidth, bits_zero_lo]
  rfl

theorem wBfx_eq (x d : Word) :
    wBfx x d =
      (let lo := d.toNat % 64
       let w := min (d.toNat / 2^6 % 64 + 1) (64 - lo)
       let f := x.toNat / 2^lo % 2^w
       if d.toNat / 2^12 % 2 = 1 then (BitVec.ofNat w f).signExtend 64 else BitVec.ofNat 64 f) := by
  simp only [wBfx, bfWidth_eq, bits_zero_lo, bit, beq_iff_eq]
  rfl

/-- Settles O1: each instruction is its shape, `alu2` or `mul2`, of an operation on words. -/
theorem integerTwoSource : Obligations.IntegerTwoSource := by
  intro s tid d a b hs hn
  have hd : Names1 s tid d.toNat := hn _ (by simp)
  have ha : Names1 s tid a.toNat := hn _ (by simp)
  have hb : Names1 s tid b.toNat := hn _ (by simp)
  exact ⟨alu2_names (· + ·) hs hd ha hb rfl, alu2_names (· - ·) hs hd ha hb (sub_eq_ofInt _ _),
    alu2_names wSlt hs hd ha hb (wSlt_eq _ _), alu2_names wSltu hs hd ha hb (wSltu_eq _ _),
    alu2_names (· &&& ·) hs hd ha hb rfl, alu2_names (· ||| ·) hs hd ha hb rfl, alu2_names (· ^^^ ·) hs hd ha hb rfl,
    alu2_names wSll hs hd ha hb (shiftLeft_eq_ofNat _ _), alu2_names wSrl hs hd ha hb (ushiftRight_eq_ofNat _ _),
    alu2_names wSra hs hd ha hb (sshiftRight_eq_ofInt _ _), alu2_names wMin hs hd ha hb (wMin_eq _ _),
    alu2_names wMax hs hd ha hb (wMax_eq _ _), alu2_names wMinu hs hd ha hb (wMinu_eq _ _),
    alu2_names wMaxu hs hd ha hb (wMaxu_eq _ _), mul2_names (· * ·) hs hd ha hb rfl, mul2_names wMulh hs hd ha hb rfl,
    mul2_names wMulhu hs hd ha hb rfl, alu2_names addrAdd hs hd ha hb (addrAdd_eq_ofNat _ _),
    alu2_names wBfx hs hd ha hb (wBfx_eq _ _)⟩

end Sys2Proof.Proofs
end

section
namespace Sys2Proof.Proofs
open Sys2Proof.Machine Sys2Proof.Laws

/-! ### Results that come late after other changes of the registers (R81, R89, R97) -/

theorem pair_of_issuing {s : State} {tid : Nat} (h : Issuing s tid) : (s.task tid).pair = none := h.2.1

/-- Completion depends on what becomes of the registers that the thread has. -/
theorem done_congr {s : State} {tid : Nat} {f g : Regs → Regs} (y : Bool) (h : f (s.task tid).r = g (s.task tid).r) :
    done s tid y f = done s tid y g := by
  simp only [done, State.modTask, h]

section
variable {s s' : State} {tid len d a b n : Nat} {ops : List Opd} {v : Word} {body : Nat → State → M State}

/-- A plain instruction whose body ends with a write of a late result completes with the register written and its result pending. -/
theorem issue_putLate (h : Opens s tid ops) (hd : Names1 s tid d) (hb : body tid s = writeLate s' tid d n v)
    (hn : (s'.task tid).pair = none) :
    issue len .plain ops body s = .next ((after s' tid fun r => (r.write d v).skip len).later tid d n) := by
  have hw : body tid s = .ok ((if d < 120 then (s'.modR tid fun r => r.write d v).wrote v else s').later tid d n) := by
    rw [hb, writeLate, writeReg_names v hd]
    simp only [bind, Except.bind, isPort_names hd]; rfl
  rw [issue_ok (k := .plain) h nofun hw (by rw [pair_later]; split <;> simp [hn]), done_later]
  unfold after
  congr 1
  split
  · simp
  · next hz => simp only [Regs.write, if_neg hz]; rfl

end

/-! ### Division (O2) -/

section
variable {s : State} {tid len d a b n : Nat} {v : Word}

theorem aluDiv_names (signed : Bool) (f : Word → Word → Word) (hs : Issuing s tid) (hd : Names1 s tid d) (ha : Names1 s tid a)
    (hb : Names1 s tid b) (hv : f (Reads s tid a) (Reads s tid b) = v)
    (hc : divCycles (Machine.magnitude signed (Reads s tid a)) (Machine.magnitude signed (Reads s tid b)) = n) :
    aluDiv len d a b signed f s =
      .next ((after s tid fun r =>
        ({ r with fflags := if Reads s tid b = 0 then r.fflags ||| IDZ else r.fflags }.write d v).skip len).later tid d n) := by
  subst hv hc
  rw [aluDiv, issue_putLate (s' := if Reads s tid b = 0 then s.flag tid IDZ else s) ⟨hs, by simp [Fits, hd, ha, hb]⟩ hd
    (by simp only [readReg_names ha, readReg_names hb, bind, Except.bind]; rfl) (by split <;> simp [State.flag, pair_of_issuing hs])]
  split <;> simp [State.flag, after]

end

theorem wDiv_eq (x y : Word) :
    wDiv x y = if y = 0 then 0xFFFFFFFFFFFFFFFF else if x = 0x8000000000000000 ∧ y = 0xFFFFFFFFFFFFFFFF then 0x8000000000000000
      else BitVec.ofInt 64 (x.toInt.tdiv y.toInt) := by
  rw [wDiv]
  split
  · rfl
  · split
    · next h =>
      obtain ⟨rfl, rfl⟩ := h
      rfl
    · rfl

theorem wRem_eq (x y : Word) :
    wRem x y = if y = 0 then x else if x = 0x8000000000000000 ∧ y = 0xFFFFFFFFFFFFFFFF then 0
      else x - BitVec.ofInt 64 (x.toInt.tdiv y.toInt) * y := by
  rw [wRem]
  split
  · rfl
  · split
    · next h =>
      obtain ⟨rfl, rfl⟩ := h
      rfl
    · rw [Int.tmod_def, Int.sub_eq_add_neg, BitVec.ofInt_add, BitVec.ofInt_neg, BitVec.ofInt_mul, BitVec.ofInt_toInt,
        BitVec.ofInt_toInt, BitVec.mul_comm, BitVec.sub_eq_add_neg]

theorem wRemu_eq (x y : Word) :
    wRemu x y = if y = 0 then x else BitVec.ofNat 64 (x.toNat - x.toNat / y.toNat * y.toNat) := by
  rw [wRemu, Nat.mod_eq_sub_div_mul]
  rfl

/-- Settles O2: each instruction is `aluDiv` of its operation, whose special cases R97 names. -/
theorem integerDivision : Obligations.IntegerDivision := by
  intro s tid d a b hs hn
  have hd : Names1 s tid d.toNat := hn _ (by simp)
  have ha : Names1 s tid a.toNat := hn _ (by simp)
  have hb : Names1 s tid b.toNat := hn _ (by simp)
  refine ⟨aluDiv_names true wDiv hs hd ha hb (wDiv_eq _ _) rfl, aluDiv_names true wRem hs hd ha hb (wRem_eq _ _) rfl,
    aluDiv_names false wDivu hs hd ha hb rfl rfl, aluDiv_names false wRemu hs hd ha hb (wRemu_eq _ _) rfl, ?_⟩
  refine ⟨encode_of_value (encode_of_encode32a rfl rfl) ?_, encode_of_value (encode_of_encode32a rfl rfl) ?_,
    encode_of_value (encode_of_encode32a rfl rfl) ?_, encode_of_value (encode_of_encode32a rfl rfl) ?_⟩
  all_goals simp only [pack_cons, pack_nil, put_eq]; omega

end Sys2Proof.Proofs
end

section
namespace Sys2Proof.Proofs
open Sys2Proof.Machine Sys2Proof.Laws

/-! ### Integer instructions that read their destination, and constants (O3) -/

section
variable {s : State} {tid len d a b : Nat} {v : Word}

theorem alu3_names (f : Word → Word → Word → Word) (hs : Issuing s tid) (hd : Names1 s tid d) (ha : Names1 s tid a)
    (hb : Names1 s tid b) (hv : f (Reads s tid d) (Reads s tid a) (Reads s tid b) = v) :
    alu3 len d a b f s = .next (written s tid d len v) := by
  subst hv
  exact issue_written ⟨hs, by simp [Fits, hd, ha, hb]⟩ hd
    (by simp only [readReg_names hd, readReg_names ha, readReg_names hb, bind, Except.bind])

theorem aluRd_names (f : Word → Word) (hs : Issuing s tid) (hd : Names1 s tid d) (hv : f (Reads s tid d) = v) :
    aluRd len d f s = .next (written s tid d len v) := by
  subst hv
  exact issue_written ⟨hs, by simp [Fits, hd]⟩ hd (by simp only [readReg_names hd, bind, Except.bind])

theorem aluConst_names {c : Word} (hs : Issuing s tid) (hd : Names1 s tid d) (hv : c = v) :
    aluConst len d c s = .next (written s tid d len v) := by
  subst hv
  exact issue_written ⟨hs, by simp [Fits, hd]⟩ hd rfl

end

theorem xdotB_names {s : State} {tid : Nat} {d a : BitVec 7} {b : BitVec 5} {v : Word} (hs : Issuing s tid)
    (hd : Names1 s tid d.toNat) (ha : Names1 s tid a.toNat) (hb : Names1 s tid b.toNat)
    (hv : wXdot (Reads s tid d.toNat) (Reads s tid a.toNat) (Reads s tid b.toNat) = v) :
    execXdotB d a b s = .next (writtenLate s tid d.toNat 4 3 v) := by
  subst hv
  exact issue_writtenLate ⟨hs, by simp [Fits, hd, ha, hb]⟩ hd
    (by simp only [readReg_names hd, readReg_names ha, readReg_names hb, bind, Except.bind])

/-! ### Immediates and pointer fields (R98, R101-R103) -/

/-- A sign-extended offset is the offset, modulo 2^52. -/
theorem signExtend_mod_addr {n : Nat} (i : BitVec n) (h : n ≤ 64) : ((i.signExtend 64).toNat : Int) % 2^52 = i.toInt % 2^52 := by
  have hi := BitVec.toInt_signExtend_of_le h (x := i)
  have := BitVec.toInt_eq_toNat_cond (i.signExtend 64)
  omega

theorem wSlt_signExtend {n : Nat} (x : Word) (i : BitVec n) (h : n ≤ 64) :
    wSlt x (i.signExtend 64) = if x.toInt < i.toInt then 1 else 0 := by
  rw [wSlt_eq, BitVec.toInt_signExtend_of_le h]

theorem addrAdd_signExtend {n : Nat} (x : Word) (i : BitVec n) (h : n ≤ 64) :
    addrAdd x (i.signExtend 64) = BitVec.ofInt 64 (x.toNat / 2^52 * 2^52 + ((x.toNat % 2^52 : Nat) + i.toInt) % 2^52) :=
  addrAdd_eq_ofInt _ _ _ (signExtend_mod_addr i h)

theorem vaOf_eq (x : Word) : vaOf x = x.toNat % 2^52 := bits_zero_lo x 51

theorem wPfmt_eq (x : Word) (f : BitVec 6) (l : BitVec 3) :
    wPfmt x f l = BitVec.ofNat 64 (f.toNat * 2^58 + l.toNat * 2^55 + x.toNat % 2^52) := by
  rw [wPfmt, vaOf_eq]
  rfl

theorem ptrFmt_eq (x : Word) : ptrFmt x = x.toNat / 2^58 := Nat.mod_eq_of_lt (by omega)

/-! ### Counts of bits (R94) -/

theorem bit_eq_getLsbD (x : Word) (n : Nat) : bit x n = x.getLsbD n := by
  rw [bit, BitVec.getLsbD, Nat.testBit_eq_decide_div_mod_eq]
  rfl

theorem wPopc_eq (x : Word) : wPopc x = BitVec.ofNat 64 ((List.range 64).filter fun n => x.getLsbD n).length := by
  rw [wPopc, w64, funext (bit_eq_getLsbD x)]

theorem wClz_eq (x : Word) :
    ∃ n : Nat, n ≤ 64 ∧ x.toNat < 2^(64 - n) ∧ (n < 64 → 2^(63 - n) ≤ x.toNat) ∧ wClz x = BitVec.ofNat 64 n := by
  by_cases hx : x = 0
  · exact ⟨64, by simp [hx, wClz]⟩
  · have hpos : x.toNat ≠ 0 := fun h => hx (BitVec.eq_of_toNat_eq h)
    have hlog : x.toNat.log2 < 64 := (Nat.log2_lt hpos).2 x.isLt
    refine ⟨63 - x.toNat.log2, by omega, ?_, fun _ => ?_, by rw [wClz, if_neg hx]; rfl⟩
    · rw [show 64 - (63 - x.toNat.log2) = x.toNat.log2 + 1 by omega]
      exact Nat.lt_log2_self
    · rw [show 63 - (63 - x.toNat.log2) = x.toNat.log2 by omega]
      exact Nat.log2_self_le hpos

theorem bit_iff_of_dvd {x : Word} {i : Nat} (h : 2^i ∣ x.toNat) : bit x i = true ↔ ¬ 2^(i + 1) ∣ x.toNat := by
  obtain ⟨k, hk⟩ := h
  rw [bit, hk, Nat.mul_div_cancel_left _ (Nat.two_pow_pos i), pow_succ, Nat.mul_dvd_mul_iff_left (Nat.two_pow_pos i), beq_iff_eq]
  omega

/-- From a bit below which all are zero, the count stops at the lowest one bit. -/
theorem ctzFrom_spec (x : Word) (n : Nat) {i : Nat} (h : 2^i ∣ x.toNat) :
    ctzFrom x i n ≤ i + n ∧ 2^ctzFrom x i n ∣ x.toNat ∧ (ctzFrom x i n < i + n → ¬ 2^(ctzFrom x i n + 1) ∣ x.toNat) := by
  induction n generalizing i with
  | zero => exact ⟨le_rfl, h, fun hlt => absurd hlt (lt_irrefl i)⟩
  | succ n ih =>
    rw [ctzFrom]
    split
    next hbit => exact ⟨by omega, h, fun _ => (bit_iff_of_dvd h).1 hbit⟩
    next hbit =>
      rw [Nat.add_comm n, ← Nat.add_assoc]
      exact ih (not_not.1 (mt (bit_iff_of_dvd h).2 hbit))

theorem wCtz_eq (x : Word) :
    ∃ n : Nat, n ≤ 64 ∧ 2^n ∣ x.toNat ∧ (n < 64 → ¬ 2^(n + 1) ∣ x.toNat) ∧ wCtz x = BitVec.ofNat 64 n := by
  obtain ⟨hle, hdvd, hlow⟩ := ctzFrom_spec x 64 (i := 0) (one_dvd _)
  rw [Nat.zero_add] at hle hlow
  exact ⟨ctzFrom x 0 64, hle, hdvd, hlow, rfl⟩

/-! ### Fields and dot products (R99, R100, R106) -/

theorem wLih_eq (z : Word) (i : BitVec 16) : wLih z i = BitVec.ofNat 64 (z.toNat * 2^16 + i.toNat) := by
  apply BitVec.eq_of_toNat_eq
  have hz : z.toNat * 2^16 % 2^64 = 2^16 * (z.toNat % 2^48) := by omega
  rw [wLih, BitVec.toNat_or, BitVec.toNat_shiftLeft, Nat.shiftLeft_eq, hz, BitVec.zeroExtend_eq_setWidth, BitVec.toNat_setWidth,
    Nat.mod_eq_of_lt (i.isLt.trans (by decide)), ← Nat.two_pow_add_eq_or_of_lt i.isLt, BitVec.toNat_ofNat]
  have := i.isLt
  omega

theorem wBfi_eq (z x d : Word) :
    wBfi z x d =
      (let lo := d.toNat % 64
       let w := min (d.toNat / 2^6 % 64 + 1) (64 - lo)
       let m : Word := BitVec.ofNat 64 ((2^w - 1) * 2^lo)
       (z &&& ~~~m) ||| (BitVec.ofNat 64 (x.toNat * 2^lo) &&& m)) := by
  simp only [wBfi, bfWidth_eq, bits_zero_lo, shiftLeft_eq_ofNat]
  rfl

theorem toSigned_lane (w : Nat) (x : Word) (i : Nat) : toSigned w (lane w x i) = (BitVec.ofNat w (x.toNat / 2^(w * i))).toInt := by
  rw [toSigned, lane]
  congr 1
  exact BitVec.eq_of_toNat_eq (by simp)

theorem wXdot_eq (z x y : Word) :
    wXdot z x y =
      (let byte (w : Word) (i : Nat) : Int := (BitVec.ofNat 8 (w.toNat / 2^(8 * i))).toInt
       let dot (j : Nat) : Int := byte x (4 * j) * byte y (4 * j) + byte x (4 * j + 1) * byte y (4 * j + 1) +
         byte x (4 * j + 2) * byte y (4 * j + 2) + byte x (4 * j + 3) * byte y (4 * j + 3)
       BitVec.ofInt 64 (((z.toNat % 2^32 : Nat) + dot 0) % 2^32 + ((z.toNat / 2^32 : Nat) + dot 1) % 2^32 * 2^32)) := by
  have hlow : lane 32 z 0 = z.toNat % 2^32 := by rw [lane, Nat.mul_zero, Nat.pow_zero, Nat.div_one]
  have hhigh : lane 32 z 1 = z.toNat / 2^32 := Nat.mod_eq_of_lt (by omega)
  have hsum (f : Nat → Int) : ((List.range 4).map f).sum = f 0 + f 1 + f 2 + f 3 := by
    simp [List.range_succ, add_assoc]
  simp only [wXdot, hsum, toSigned_lane, hlow, hhigh, Nat.add_zero]
  rw [w64, ← BitVec.ofInt_natCast]
  congr 1
  omega

/-- Settles O3: each instruction is its shape of an operation on words, which for CLZ and CTZ is determined by what they count. -/
theorem integerOneSource : Obligations.IntegerOneSource := by
  refine ⟨fun s tid d a i j f l k hs hn => ?_, fun s tid d a b e h k hs hn => ?_⟩
  · have hd : Names1 s tid d.toNat := hn _ (by simp)
    have ha : Names1 s tid a.toNat := hn _ (by simp)
    intro x go go8 addr
    obtain ⟨z, hz, hlt, hle, hclz⟩ := wClz_eq x
    obtain ⟨t, ht, hdvd, hlow, hctz⟩ := wCtz_eq x
    exact ⟨alu1_names (· + i.signExtend 64) hs hd ha rfl, alu1_names (· <<< j.toNat) hs hd ha (shiftLeft_eq_ofNat _ _),
      alu1_names (· >>> j.toNat) hs hd ha (ushiftRight_eq_ofNat _ _),
      alu1_names (·.sshiftRight j.toNat) hs hd ha (sshiftRight_eq_ofInt _ _), alu1_names (· &&& j.signExtend 64) hs hd ha rfl,
      alu1_names (· ||| j.signExtend 64) hs hd ha rfl, alu1_names (· ^^^ j.signExtend 64) hs hd ha rfl,
      alu1_names (wSlt · (j.signExtend 64)) hs hd ha (wSlt_signExtend _ _ (by decide)),
      alu1_names (addrAdd · (i.signExtend 64)) hs hd ha (addrAdd_signExtend _ _ (by decide)),
      alu1_names (wPfmt · f l) hs hd ha (wPfmt_eq _ _ _),
      alu1_names (wPget · 0) hs hd ha (congrArg w64 (ptrFmt_eq _)), alu1_names (wPget · 1) hs hd ha rfl,
      alu1_names (wPget · 2) hs hd ha (congrArg w64 (vaOf_eq _)), alu1_names wPopc hs hd ha (wPopc_eq _),
      ⟨z, hz, hlt, hle, alu1_names wClz hs hd ha hclz⟩, ⟨t, ht, hdvd, hlow, alu1_names wCtz hs hd ha hctz⟩,
      alu1_names (· + k.signExtend 64) hs hd ha rfl, alu1_names (· &&& k.signExtend 64) hs hd ha rfl,
      alu1_names (· ||| k.signExtend 64) hs hd ha rfl, alu1_names (· ^^^ k.signExtend 64) hs hd ha rfl,
      alu1_names (wSlt · (k.signExtend 64)) hs hd ha (wSlt_signExtend _ _ (by decide)),
      alu1_names (addrAdd · (k.signExtend 64)) hs hd ha (addrAdd_signExtend _ _ (by decide))⟩
  · have hd : Names1 s tid d.toNat := hn _ (by simp)
    have ha : Names1 s tid a.toNat := hn _ (by simp)
    have hb : Names1 s tid b.toNat := hn _ (by simp)
    have he : Names1 s tid e.toNat := hn _ (by simp)
    exact ⟨alu3_names wSel hs hd ha hb rfl, aluRd_names (wLih · h) hs hd (wLih_eq _ _),
      alu3_names wBfi hs hd ha hb (wBfi_eq _ _ _), xdotB_names hs hd ha he (wXdot_eq _ _ _),
      aluConst_names hs hd rfl, aluConst_names hs hd (BitVec.ofNat_toNat ..).symm,
      aluRd_names (fun z => w64 (k.toNat * 2^32 + z.toNat % 2^32)) hs hd rfl⟩

end Sys2Proof.Proofs
end

section
namespace Sys2Proof.Proofs
open Sys2Proof.Machine Sys2Proof.Laws

/-! ### Packed lanes (O4)

The lanes of a word are its digits in base 2^w. -/

theorem ofDigits_div_mod {b : Nat} {l : List Nat} {n : Nat} (hl : ∀ x ∈ l, x < b) (hn : n < l.length) :
    Nat.ofDigits b l / b^n % b = l[n] := by
  have hpos : 0 < b := (Nat.zero_le _).trans_lt (hl _ (List.getElem_mem hn))
  rw [Nat.ofDigits_div_pow_eq_ofDigits_drop n hpos l hl, List.drop_eq_getElem_cons hn, Nat.ofDigits_cons,
    Nat.add_mul_mod_self_left, Nat.mod_eq_of_lt (hl _ (List.getElem_mem hn))]

/-- What `lanes` makes of two words, lane by lane. -/
def laneDigits (w : Nat) (f : Nat → Nat → Nat) (x y : Word) : List Nat :=
  (List.range (64 / w)).map fun i => f (lane w x i) (lane w y i) % 2^w

theorem lanes_eq_ofDigits (w : Nat) (f : Nat → Nat → Nat) (x y : Word) :
    lanes w f x y = w64 (Nat.ofDigits (2^w) (laneDigits w f x y)) := by
  rw [lanes, Nat.ofDigits_eq_sum_mapIdx]
  congr 2
  exact List.ext_getElem (by simp [laneDigits]) fun i _ _ => by simp [laneDigits, pow_mul]

theorem lane_lanes {w : Nat} (hw : w ∣ 64) (f : Nat → Nat → Nat) (x y : Word) {n : Nat} (hn : n < 64 / w) :
    (lanes w f x y).toNat / 2^(w * n) % 2^w = f (lane w x n) (lane w y n) % 2^w := by
  have hw0 : w ≠ 0 := by rintro rfl; simp at hw
  have hdigit : ∀ d ∈ laneDigits w f x y, d < 2^w := by
    simp [laneDigits, Nat.mod_lt]
  have hlen : (laneDigits w f x y).length = 64 / w := by simp [laneDigits]
  have hlt : Nat.ofDigits (2^w) (laneDigits w f x y) < 2^64 := by
    have := Nat.ofDigits_lt_base_pow_length (Nat.one_lt_two_pow hw0) hdigit
    rwa [hlen, ← pow_mul, Nat.mul_div_cancel' hw] at this
  rw [lanes_eq_ofDigits, w64, BitVec.toNat_ofNat, Nat.mod_eq_of_lt hlt, pow_mul, ofDigits_div_mod hdigit (by omega)]
  simp [laneDigits]

/-- R104: the width that x selects. -/
theorem laneWidth_eq {x : BitVec 2} (hx : x.toNat ≤ 2) : laneWidth x = 8 * 2^x.toNat := by
  rw [laneWidth]
  generalize x.toNat = k at hx
  interval_cases k <;> rfl

theorem laneWidth_dvd (x : BitVec 2) : laneWidth x ∣ 64 := by
  rw [laneWidth]
  split <;> decide

theorem lane_lt (w : Nat) (x : Word) (n : Nat) : lane w x n < 2^w := Nat.mod_lt _ (Nat.two_pow_pos w)

section
variable {w n : Nat} (hw : w ∣ 64) (x y : Word) (hn : n < 64 / w)
include hw hn

theorem lane_lanesSub :
    (lanes w (fun p q => p + (2^w - q)) x y).toNat / 2^(w * n) % 2^w = (lane w x n + 2^w - lane w y n) % 2^w := by
  rw [lane_lanes hw _ x y hn, Nat.add_sub_assoc (lane_lt w y n).le]

theorem lane_lanesMax :
    (toSigned w (lane w x n) < toSigned w (lane w y n) → (lanes w (laneMax w) x y).toNat / 2^(w * n) % 2^w = lane w y n) ∧
    (¬ toSigned w (lane w x n) < toSigned w (lane w y n) → (lanes w (laneMax w) x y).toNat / 2^(w * n) % 2^w = lane w x n) := by
  rw [lane_lanes hw _ x y hn, laneMax]
  exact ⟨fun h => by rw [if_pos h, Nat.mod_eq_of_lt (lane_lt w y n)], fun h => by rw [if_neg h, Nat.mod_eq_of_lt (lane_lt w x n)]⟩

theorem lane_lanesMin :
    (toSigned w (lane w x n) < toSigned w (lane w y n) → (lanes w (laneMin w) x y).toNat / 2^(w * n) % 2^w = lane w x n) ∧
    (¬ toSigned w (lane w x n) < toSigned w (lane w y n) → (lanes w (laneMin w) x y).toNat / 2^(w * n) % 2^w = lane w y n) := by
  rw [lane_lanes hw _ x y hn, laneMin]
  exact ⟨fun h => by rw [if_pos h, Nat.mod_eq_of_lt (lane_lt w x n)], fun h => by rw [if_neg h, Nat.mod_eq_of_lt (lane_lt w y n)]⟩

end

/-! ### Packed forms that decode as no instruction (R105) -/

theorem row_illOp {op rsv : Bool} {i : Instr} (h : op = false ∨ i.opLegal = false) : row op rsv i = .error .illOp := by
  rw [row, if_neg]
  rcases h with h | h <;> simp [h]

theorem decode32x0c_illOp {w : Nat} (h : w / 2^23 % 4 = 3) : decode32x0c w = .error .illOp := by
  have hx : (fld w 23 2).toNat = 3 := (toNat_fld w 23 2).trans h
  rw [decode32x0c]
  split
  case h_5 => rfl
  all_goals exact row_illOp (.inr (by simp [Instr.opLegal, hx]))

theorem decode32x0d_illOp {w : Nat} (h : w / 2^23 % 4 = 3 ∨ 2 ≤ w / 2^16 % 4) : decode32x0d w = .error .illOp := by
  rw [decode32x0d]
  split
  case h_1 h0 =>
    have hx : (fld w 23 2).toNat = 3 := (toNat_fld w 23 2).trans (h.resolve_right (by omega))
    exact row_illOp (.inr (by simp [Instr.opLegal, hx]))
  case h_2 h1 => exact row_illOp (.inl (beq_false_of_ne (by omega)))
  case h_3 => rfl

theorem decode32_of_major {w m : Nat} (h : w / 2^7 % 64 = m) :
    decode32 w = majors32.getD m (fun _ => .error .illOp) w := by rw [decode32_eq_majors32, h]

theorem decodeWord_packed_illOp {n : Nat} (hlen : n / 2^13 % 8 = 6)
    (h : n / 2^7 % 64 = 0x0D ∧ 2 ≤ n / 2^16 % 4 ∨ (n / 2^7 % 64 = 0x0C ∨ n / 2^7 % 64 = 0x0D) ∧ n / 2^23 % 4 = 3) :
    decodeWord n = .error .illOp := by
  have hill : decode32 (n % 2^32) = .error .illOp := by
    rcases h with ⟨hmajor, hminor⟩ | ⟨hmajor | hmajor, hx⟩
    · rw [decode32_of_major (m := 0x0D) (by omega)]
      exact decode32x0d_illOp (.inr (by omega))
    · rw [decode32_of_major (m := 0x0C) (by omega)]
      exact decode32x0c_illOp (by omega)
    · rw [decode32_of_major (m := 0x0D) (by omega)]
      exact decode32x0d_illOp (.inl (by omega))
  rw [decodeWord, if_neg (by omega), if_pos hlen, hill]
  rfl

/-- Settles O4: the lanes of a result are the digits that the operation gives, and the decoder's rows refuse the rest. -/
theorem packedLanes : Obligations.PackedLanes := by
  intro s tid d a x b hs hx hn
  have hd : Names1 s tid d.toNat := hn _ (by simp)
  have ha : Names1 s tid a.toNat := hn _ (by simp)
  have hb : Names1 s tid b.toNat := hn _ (by simp)
  have hw := laneWidth_eq hx
  have hdvd : 8 * 2^x.toNat ∣ 64 := hw ▸ laneWidth_dvd x
  refine ⟨⟨_, alu2_names (lanes (laneWidth x) (· + ·)) hs hd ha hb rfl, fun n hn => ?add⟩,
    ⟨_, alu2_names (lanes (laneWidth x) fun p q => p + (2^laneWidth x - q)) hs hd ha hb rfl, fun n hn => ?sub⟩,
    ⟨_, mul2_names (lanes (laneWidth x) (· * ·)) hs hd ha hb rfl, fun n hn => ?mul⟩,
    ⟨_, alu2_names (lanes (laneWidth x) (laneMax (laneWidth x))) hs hd ha hb rfl, fun n hn => ?max⟩,
    ⟨_, alu2_names (lanes (laneWidth x) (laneMin (laneWidth x))) hs hd ha hb rfl, fun n hn => ?min⟩, ?encodings,
    fun n hlen h => decodeWord_packed_illOp hlen h⟩
  case add => rw [hw]; exact lane_lanes hdvd _ _ _ hn
  case sub => rw [hw]; exact lane_lanesSub hdvd _ _ hn
  case mul => rw [hw]; exact lane_lanes hdvd _ _ _ hn
  case max => rw [hw]; exact lane_lanesMax hdvd _ _ hn
  case min => rw [hw]; exact lane_lanesMin hdvd _ _ hn
  case encodings =>
    refine ⟨encode_of_value (encode_of_encode32a rfl rfl) ?_, encode_of_value (encode_of_encode32a rfl rfl) ?_,
      encode_of_value (encode_of_encode32a rfl rfl) ?_, encode_of_value (encode_of_encode32a rfl rfl) ?_,
      encode_of_value (encode_of_encode32a rfl rfl) ?_⟩
    all_goals simp only [pack_cons, pack_nil, put_eq]; omega

end Sys2Proof.Proofs
end

section
namespace Sys2Proof.Proofs
open Sys2Proof.Machine Sys2Proof.Laws

/-! ### Results that are rounded (R77, R78, R81, R107, R108) -/

/-- The state after an instruction of `len` bytes that has drawn once where its mode is SR, gathered its flags, and writes `v` through
its field `d`, ready after `n` cycles. -/
def roundedInto (s : State) (tid len d n rm : Nat) (v : Word) (fl : Flags) : State :=
  (after s tid fun r =>
    ({ r with srseed := if rm = 5 then srNext r.srseed else r.srseed, fflags := r.fflags ||| fl }.write d v).skip len).later tid d n

theorem drawFor_fst (s : State) (tid rm : Nat) : (drawFor s tid rm).1 = if rm = 5 then srNext (s.task tid).r.srseed else 0 := by
  rw [drawFor]
  split <;> rfl

theorem pair_drawFor_flag (s : State) (tid rm : Nat) (fl : Flags) :
    (((drawFor s tid rm).2.flag tid fl).task tid).pair = (s.task tid).pair := by
  rw [drawFor]
  split <;> simp [State.flag, srStep]

theorem after_drawFor_flag (s : State) (tid rm : Nat) (fl : Flags) (f : Regs → Regs) :
    after ((drawFor s tid rm).2.flag tid fl) tid f =
      after s tid fun r => f { r with srseed := if rm = 5 then srNext r.srseed else r.srseed, fflags := r.fflags ||| fl } := by
  rw [drawFor]
  by_cases h : rm = 5
  · simp only [h, if_true, srStep, State.flag, after, done_modR]
    exact done_congr _ rfl
  · simp only [h, if_false, State.flag, after, done_modR]

section
variable {s : State} {tid len d a b n rm : Nat} {ops : List Opd} {v : Word} {fl : Flags} {body : Nat → State → M State}

theorem issue_rounded (h : Opens s tid ops) (hd : Names1 s tid d)
    (hb : body tid s = writeLate ((drawFor s tid rm).2.flag tid fl) tid d n v) :
    issue len .plain ops body s = .next (roundedInto s tid len d n rm v fl) := by
  rw [issue_putLate h hd hb (by rw [pair_drawFor_flag, pair_of_issuing h.1]), after_drawFor_flag]
  rfl

end

/-- The state after such an instruction whose result is an exact value rounded once to a format, in FRM's mode. -/
def roundedExact (s : State) (tid len d n : Nat) (f : Fmt) (x : Exact) : State :=
  let rm := (s.task tid).r.frm.toNat
  let v := fround f x.1 rm (if rm = 5 then srNext (s.task tid).r.srseed else 0)
  roundedInto s tid len d n rm (w64 v.1) (x.2 ||| v.2)

theorem roundScalar_eq (f : Fmt) (x : Exact) (s : State) (tid : Nat) :
    roundScalar f x s tid =
      (let rm := (s.task tid).r.frm.toNat
       let v := fround f x.1 rm (if rm = 5 then srNext (s.task tid).r.srseed else 0)
       (w64 v.1, (drawFor s tid rm).2.flag tid (x.2 ||| v.2))) := by
  simp only [← drawFor_fst]
  rfl

section
variable {s : State} {tid len d a b n : Nat} {f : Fmt}

theorem fp2_names (op : FVal → FVal → Nat → Exact) (hs : Issuing s tid) (hd : Names1 s tid d) (ha : Names1 s tid a)
    (hb : Names1 s tid b) :
    fp2 len n f d a b op s = .next (roundedExact s tid len d n f
      (op (regVal f (Reads s tid a)) (regVal f (Reads s tid b)) (s.task tid).r.frm.toNat)) :=
  issue_rounded ⟨hs, by simp [Fits, hd, ha, hb]⟩ hd
    (by simp only [readReg_names ha, readReg_names hb, roundScalar_eq, bind, Except.bind]; rfl)

theorem fp3_names (hs : Issuing s tid) (hd : Names1 s tid d) (ha : Names1 s tid a) (hb : Names1 s tid b) :
    fp3 len f d a b s = .next (roundedExact s tid len d 4 f
      (xfma (regVal f (Reads s tid a)) (regVal f (Reads s tid b)) (regVal f (Reads s tid d)) (s.task tid).r.frm.toNat)) :=
  issue_rounded ⟨hs, by simp [Fits, hd, ha, hb]⟩ hd
    (by simp only [readReg_names hd, readReg_names ha, readReg_names hb, roundScalar_eq, bind, Except.bind]; rfl)

theorem fp1_names (op : FVal → Exact) (hs : Issuing s tid) (hd : Names1 s tid d) (ha : Names1 s tid a) :
    fp1 len n f d a op s = .next (roundedExact s tid len d n f (op (regVal f (Reads s tid a)))) :=
  issue_rounded ⟨hs, by simp [Fits, hd, ha]⟩ hd
    (by simp only [readReg_names ha, roundScalar_eq, bind, Except.bind])

end

theorem prec_eq_zero_iff (p : BitVec 2) : p.toNat = 0 ↔ p = 0 := BitVec.toNat_inj (y := 0)

theorem precOf_eq (p : BitVec 2) : precOf p = if p = 0 then FP32 else FP64 := by simp only [precOf, prec_eq_zero_iff]

theorem longFp_eq (p : BitVec 2) : longFp p = if p = 0 then 12 else 24 := by simp only [longFp, prec_eq_zero_iff]

/-- Settles O8: each instruction is its shape, `fp1`, `fp2` or `fp3`, of an exact operation. -/
theorem floatArithmetic : Obligations.FloatArithmetic := by
  intro s tid d a p b c e hs _ hn
  have hd : Names1 s tid d.toNat := hn _ (by simp)
  have ha : Names1 s tid a.toNat := hn _ (by simp)
  have hb : Names1 s tid b.toNat := hn _ (by simp)
  have hc : Names1 s tid c.toNat := hn _ (by simp)
  have he : Names1 s tid e.toNat := hn _ (by simp)
  rw [← precOf_eq, ← longFp_eq]
  exact ⟨fp2_names xadd hs hd ha hb, fp2_names xsub hs hd ha hb, fp2_names (fun x y _ => xmul x y) hs hd ha hb,
    fp2_names (fun x y _ => xdiv x y) hs hd ha hb, fp3_names hs hd ha hb, fp1_names xsqrt hs hd ha, fp2_names xadd hs hc hc he,
    fp2_names (fun x y _ => xmul x y) hs hc hc he⟩

/-! ### Comparisons and classes (O9) -/

section
variable {s : State} {tid len d a b : Nat} {f : Fmt}

theorem after_flag (s : State) (tid : Nat) (fl : Flags) (g : Regs → Regs) :
    after (s.flag tid fl) tid g = after s tid fun r => g { r with fflags := r.fflags ||| fl } := done_modR ..

theorem fpPick_names {op : Nat → Nat → Nat × Flags} {v : Nat} {fl : Flags} (hs : Issuing s tid) (hd : Names1 s tid d)
    (ha : Names1 s tid a) (hb : Names1 s tid b)
    (hv : op ((Reads s tid a).toNat % 2^f.width) ((Reads s tid b).toNat % 2^f.width) = (v, fl)) :
    fpPick len f d a b op s =
      .next ((after s tid fun r => ({ r with fflags := r.fflags ||| fl }.write d (w64 v)).skip len).later tid d 4) := by
  rw [fpPick, issue_putLate (s' := s.flag tid fl) (n := 4) (v := w64 v) ⟨hs, by simp [Fits, hd, ha, hb]⟩ hd
    (by simp only [readReg_names ha, readReg_names hb, hv, bind, Except.bind]) (by simp [State.flag, pair_of_issuing hs]), after_flag]

theorem fclass_names {d a : BitVec 7} (p : BitVec 2) (hs : Issuing s tid) (hd : Names1 s tid d.toNat) (ha : Names1 s tid a.toNat) :
    execFclass d a p s = .next (writtenLate s tid d.toNat 4 4
      (w64 (fclassOf (precOf p) ((Reads s tid a.toNat).toNat % 2^(precOf p).width)))) :=
  issue_writtenLate ⟨hs, by simp [Fits, hd, ha]⟩ hd (by simp only [readReg_names ha, bind, Except.bind])

end

/-- R110, with the predicates as the entry words them. -/
theorem fcmp_eq (f : Fmt) (i j : Nat) :
    let x := fval f i
    let y := fval f j
    let nan := x.isNan ∨ y.isNan
    let quiet : Flags := if x.isSNan ∨ y.isSNan then NV else 0
    fcmp f 0 i j = (if ¬ nan ∧ feq x y then 1 else 0, quiet) ∧
    fcmp f 1 i j = (if ¬ nan ∧ flt x y then 1 else 0, if nan then NV else 0) ∧
    fcmp f 2 i j = (if ¬ nan ∧ (flt x y ∨ feq x y) then 1 else 0, if nan then NV else 0) ∧
    fcmp f 3 i j = (if nan then 1 else 0, quiet) := by
  simp [fcmp, nanFlag_eq]

theorem fminmax_flags (f : Fmt) (g : Bool) (i j : Nat) :
    (fminmax f g i j).2 = if (fval f i).isSNan ∨ (fval f j).isSNan then NV else 0 := by
  rw [← nanFlag_eq, fminmax]
  split <;> rfl

/-- Every form of FCVT, by the mode it converts in. -/
theorem fcvtOp_names {s : State} {tid d a t u w x rm : Nat} (hs : Issuing s tid) (hd : Names1 s tid d) (ha : Names1 s tid a)
    (hrm : rmOf s tid x = rm) :
    fcvtOp d a t u w x s =
      .next (let v := cvt t u (w == 1) (Reads s tid a) rm (if rm = 5 then srNext (s.task tid).r.srseed else 0)
             roundedInto s tid 4 d 4 rm v.1 v.2) := by
  rw [← drawFor_fst]
  exact issue_rounded ⟨hs, by simp [Fits, hd, ha]⟩ hd (by simp only [readReg_names ha, hrm, bind, Except.bind])

theorem toNat_beq_one (w : BitVec 1) : (w.toNat == 1) = (w == 1) := by revert w; decide

/-- Settles O9: each instruction is its shape, `fpPick` or `fcvtOp`, of a predicate, a choice or a conversion. -/
theorem floatCompareAndConvert : Obligations.FloatCompareAndConvert := by
  refine ⟨fun s tid d a p b hs _ hn => ?_, fun s tid d a t u w hs _ hn => ?_⟩
  · have hd : Names1 s tid d.toNat := hn _ (by simp)
    have ha : Names1 s tid a.toNat := hn _ (by simp)
    have hb : Names1 s tid b.toNat := hn _ (by simp)
    rw [← precOf_eq]
    intro f i j x y nan quiet go
    obtain ⟨eq, lt, le, un⟩ := fcmp_eq f i j
    exact ⟨fpPick_names (op := fcmp f 0) hs hd ha hb eq, fpPick_names (op := fcmp f 1) hs hd ha hb lt,
      fpPick_names (op := fcmp f 2) hs hd ha hb le, fpPick_names (op := fcmp f 3) hs hd ha hb un,
      fpPick_names (op := fminmax f false) hs hd ha hb (Prod.ext rfl (fminmax_flags f false i j)),
      fpPick_names (op := fminmax f true) hs hd ha hb (Prod.ext rfl (fminmax_flags f true i j)), fclass_names p hs hd ha⟩
  · have hd : Names1 s tid d.toNat := hn _ (by simp)
    have ha : Names1 s tid a.toNat := hn _ (by simp)
    rw [← toNat_beq_one]
    exact ⟨fcvtOp_names hs hd ha rfl, fcvtOp_names hs hd ha rfl, fcvtOp_names hs hd ha rfl⟩

end Sys2Proof.Proofs
end

section
namespace Sys2Proof.Proofs
open Sys2Proof.Machine Sys2Proof.Laws

/-! ### Branches and jumps (O10) -/

/-- The state after a branch of `len` bytes: at its target, with the bubble of R116, where it is taken, else past it. -/
def branched (s : State) (tid len : Nat) (o : Int) (taken : Prop) [Decidable taken] : State :=
  after (if taken then s.bubble tid else s) tid fun r =>
    { r with pc := if taken then branchTo r.pc o else r.pc + BitVec.ofNat 52 len }

/-- The state after a jump of `len` bytes: at its target, with the bubble, its link written (R115). -/
def jumped (s : State) (tid len d : Nat) (target : Addr) : State :=
  after (s.bubble tid) tid fun r => { r.write d (linkValue (s.task tid).r.pc len) with pc := target }

theorem done_goTo (s : State) (tid : Nat) (y : Bool) (a : Addr) :
    done (goTo s tid a) tid y id = done (s.bubble tid) tid y fun r => { r with pc := a } := by
  simp only [done, goTo, State.bubble, State.modR, Task.modR, modTask_modTask, id]
  rfl

theorem bubble_wrote (s : State) (v : Word) (tid : Nat) : (s.wrote v).bubble tid = (s.bubble tid).wrote v := rfl

theorem bubble_modR (s : State) (tid : Nat) (f : Regs → Regs) : (s.modR tid f).bubble tid = (s.bubble tid).modR tid f := by
  simp only [State.bubble, State.modR, modTask_modTask]
  rfl

theorem task_bubble (s : State) (tid : Nat) : (s.bubble tid).task tid = { s.task tid with nextAt := s.cycle + 2 } := task_modTask ..

section
variable {s : State} {tid len a b d : Nat} {ops : List Opd} {body : Nat → State → M State} {o : Int} {taken : Prop}

theorem pair_goTo (s : State) (tid : Nat) (x : Addr) : ((goTo s tid x).task tid).pair = (s.task tid).pair := by
  simp [goTo, task_bubble]

theorem branch_completes [Decidable taken] (h : Opens s tid ops)
    (hb : body tid s = .ok (if taken then goTo s tid (branchTo (s.task tid).r.pc o) else s.advance tid len)) :
    issueRaw len .plain ops body s = .next (branched s tid len o taken) := by
  have hpair := pair_of_issuing h.1
  unfold branched
  by_cases ht : taken
  · simp only [if_pos ht] at hb ⊢
    rw [issueRaw_ok (k := .plain) h nofun hb (by rw [pair_goTo, hpair])]
    exact congrArg _ ((done_goTo ..).trans (done_congr _ (by rw [task_bubble])))
  · simp only [if_neg ht] at hb ⊢
    rw [issueRaw_ok (k := .plain) h nofun hb (by simp [State.advance, hpair]), State.advance, done_modR]
    rfl

theorem branch2_names (cond : Word → Word → Bool) [Decidable taken] (hs : Issuing s tid) (ha : Names1 s tid a)
    (hb : Names1 s tid b) (hc : cond (Reads s tid a) (Reads s tid b) = true ↔ taken) :
    branch2 len a b o cond s = .next (branched s tid len o taken) :=
  branch_completes ⟨hs, by simp [Fits, ha, hb]⟩
    (by simp only [readReg_names ha, readReg_names hb, hc, bind, Except.bind])

theorem branch1_names (cond : Word → Bool) [Decidable taken] (hs : Issuing s tid) (ha : Names1 s tid a)
    (hc : cond (Reads s tid a) = true ↔ taken) :
    branch1 len a o cond s = .next (branched s tid len o taken) :=
  branch_completes ⟨hs, by simp [Fits, ha]⟩ (by simp only [readReg_names ha, hc, bind, Except.bind])

theorem jump_completes {target : Addr} (h : Opens s tid ops) (hd : Names1 s tid d)
    (hb : body tid s = (writeReg s tid d (linkValue (s.task tid).r.pc len)).map fun s => goTo s tid target) :
    issueRaw len .plain ops body s = .next (jumped s tid len d target) := by
  rw [writeReg_names _ hd] at hb
  rw [issueRaw_ok (k := .plain) h nofun hb (by rw [pair_goTo]; split <;> simp [pair_of_issuing h.1]), done_goTo]
  split
  · rw [bubble_wrote, bubble_modR, done_wrote, done_modR]
    rfl
  · next hz => simp only [jumped, Regs.write, if_neg hz]; rfl

theorem jumpTo_names (hs : Issuing s tid) (hd : Names1 s tid d) :
    jumpTo len d o s = .next (jumped s tid len d (branchTo (s.task tid).r.pc o)) :=
  jump_completes ⟨hs, by simp [Fits, hd]⟩ hd rfl

theorem jumpReg_names (hs : Issuing s tid) (hd : Names1 s tid d) (hb : Names1 s tid b) :
    jumpReg len d b o s =
      (let target : Addr := BitVec.ofInt 52 ((Reads s tid b).toNat + o)
       if target.toNat % 2 = 1 then .next (faulted s tid len PC_ALIGN 0) else .next (jumped s tid len d target)) := by
  have hopen : Opens s tid [.dst d, .src b] := ⟨hs, by simp [Fits, hd, hb]⟩
  have htarget : BitVec.ofNat 52 (Reads s tid b).toNat + BitVec.ofInt 52 o = BitVec.ofInt 52 ((Reads s tid b).toNat + o) := by
    rw [BitVec.ofInt_add, BitVec.ofInt_natCast]
  dsimp only
  split
  next hodd =>
    exact issueRaw_trap hopen nofun (by simp only [readReg_names hb, htarget, if_pos hodd, fault, bind, Except.bind])
  next heven =>
    exact jump_completes hopen hd (by simp only [readReg_names hb, htarget, if_neg heven, bind, Except.bind]; rfl)

end

/-- The conditions of R114. -/
theorem cond_iff (x y : Word) :
    (cEq x y = true ↔ x = y) ∧ (cNe x y = true ↔ x ≠ y) ∧ (cLt x y = true ↔ x.toInt < y.toInt) ∧
    (cGe x y = true ↔ y.toInt ≤ x.toInt) ∧ (cLtu x y = true ↔ x.toNat < y.toNat) ∧ (cGeu x y = true ↔ y.toNat ≤ x.toNat) := by
  simp [cEq, cNe, cLt, cGe, cLtu, cGeu, BitVec.slt, BitVec.ult]

/-- Settles O10: each instruction is its shape, `branch1`, `branch2`, `jumpTo` or `jumpReg`. -/
theorem branchesAndJumps : Obligations.BranchesAndJumps := by
  refine ⟨fun s tid a b c o h k e g hs hn => ?_, fun s tid d a c e g o h k hs hn => ?_⟩
  · have ha : Names1 s tid a.toNat := hn _ (by simp)
    have hb : Names1 s tid b.toNat := hn _ (by simp)
    have hc : Names1 s tid c.toNat := hn _ (by simp)
    have he : Names1 s tid e.toNat := hn _ (by simp)
    intro x y z go
    obtain ⟨eq, ne, lt, ge, ltu, geu⟩ := cond_iff x z
    obtain ⟨eq', ne', lt', ge', ltu', geu'⟩ := cond_iff x y
    exact ⟨branch2_names cEq hs ha hc eq, branch2_names cNe hs ha hc ne, branch2_names cLt hs ha hc lt,
      branch2_names cGe hs ha hc ge, branch2_names cLtu hs ha hc ltu, branch2_names cGeu hs ha hc geu,
      branch1_names (· == 0) hs ha beq_iff_eq, branch1_names (· != 0) hs ha bne_iff_ne, branch2_names cEq hs ha hb eq',
      branch2_names cNe hs ha hb ne', branch2_names cLt hs ha hb lt', branch2_names cGe hs ha hb ge',
      branch2_names cLtu hs ha hb ltu', branch2_names cGeu hs ha hb geu', branch1_names (· == 0) hs ha beq_iff_eq,
      branch1_names (· != 0) hs ha bne_iff_ne, branch1_names (· == 0) hs he beq_iff_eq,
      branch1_names (· != 0) hs he bne_iff_ne⟩
  · have hd : Names1 s tid d.toNat := hn _ (by simp)
    have ha : Names1 s tid a.toNat := hn _ (by simp)
    have hc : Names1 s tid c.toNat := hn _ (by simp)
    have he : Names1 s tid e.toNat := hn _ (by simp)
    have hg : Names1 s tid g.toNat := hn _ (by simp)
    exact ⟨jumpTo_names hs hd, jumpTo_names hs hd, jumpReg_names hs hd hc, jumpReg_names hs hd ha, jumpReg_names hs hg he⟩

end Sys2Proof.Proofs
end

section
namespace Sys2Proof.Proofs
open Sys2Proof.Machine Sys2Proof.Laws

/-! ### The issue of a vector instruction (R122-R128) -/

section
variable {s s' : State} {tid len d n lat k : Nat} {m : Nat} {ops : List Opd} {c : Claim}

theorem claimOf_some (h : (s.task tid).claim = some c) : claimOf s tid = .ok c := by simp only [claimOf, h]

theorem claimOf_none (h : (s.task tid).claim = none) : claimOf s tid = fault VEC_NOCLAIM := by simp only [claimOf, h]

theorem modClaim_some (f : Claim → Claim) (h : (s.task tid).claim = some c) :
    s.modClaim tid f = s.modTask tid fun t => { t with claim := some (f c) } :=
  modTask_congr (by simp only [h, Option.map_some])

theorem fits_vOpds {rs : List Nat} (hr : ∀ q ∈ rs, Ready s tid (128 + q)) (hk : Ready s tid (144 + k)) :
    ∀ o ∈ vOpds rs m k, Fits s tid o := by
  intro o ho
  rw [vOpds, List.mem_append, List.mem_map] at ho
  obtain ⟨q, hq, rfl⟩ | ho := ho
  · exact hr q hq
  · split at ho
    · cases ho
    · obtain rfl := List.mem_singleton.mp ho
      exact hk

end

/-! ### Claims (R119-R121, R342, R343) -/

/-- Threads are as they were, but for the groups that their claims hold. -/
def SameButGroups (s t : State) : Prop :=
  ∀ k, ∃ g : Claim → Nat, t.task k = { s.task k with claim := (s.task k).claim.map fun c => { c with g := g c } }

section
variable {s t u : State} {tid cl n : Nat} {c : Claim}

theorem SameButGroups.refl (s : State) : SameButGroups s s := fun k => ⟨(·.g), by simp⟩

theorem SameButGroups.trans (h : SameButGroups s t) (h' : SameButGroups t u) : SameButGroups s u := fun k => by
  obtain ⟨g, hg⟩ := h k
  obtain ⟨g', hg'⟩ := h' k
  exact ⟨fun c => g' { c with g := g c }, by rw [hg', hg]; simp [Function.comp_def]⟩

theorem sameButGroups_modClaim (s : State) (tid : Nat) (g : Claim → Nat) :
    SameButGroups s (s.modClaim tid fun c => { c with g := g c }) := fun k => by
  by_cases h : k = tid
  · subst h
    exact ⟨g, task_modTask ..⟩
  · rw [State.modClaim, task_modTask_ne _ _ h]
    exact SameButGroups.refl s k

theorem sameButGroups_settleMark (s : State) (cl : Nat) : SameButGroups s (settleMark s cl) := by
  unfold settleMark
  dsimp only
  split
  · exact .refl s
  · split
    · exact .refl s
    · split
      · exact .refl s
      · exact sameButGroups_modClaim s _ _

theorem sameButGroups_grantGroups (s : State) (tid n : Nat) : SameButGroups s (grantGroups s tid n) := by
  unfold grantGroups
  dsimp only
  have hkeep := sameButGroups_modClaim s tid fun _ => min (((s.task tid).claim.map (·.g)).getD 0) n
  split
  · exact hkeep.trans (sameButGroups_modClaim _ tid fun _ => _)
  · split
    · exact hkeep
    · exact hkeep.trans ((sameButGroups_modClaim _ _ _).trans (sameButGroups_modClaim _ tid fun _ => 1))

/-- A thread without a claim is untouched. -/
theorem SameButGroups.task_unclaimed (h : SameButGroups s t) (hc : (s.task tid).claim = none) : t.task tid = s.task tid := by
  obtain ⟨g, hg⟩ := h tid
  rw [hg, hc, Option.map_none, ← hc]

theorem SameButGroups.claim_eq (h : SameButGroups s t) (hc : (s.task tid).claim = some c) :
    ∃ g, (t.task tid).claim = some { c with g := g } := by
  obtain ⟨g, hg⟩ := h tid
  exact ⟨g c, by rw [hg, hc, Option.map_some]⟩

theorem SameButGroups.pair_eq (h : SameButGroups s t) (k : Nat) : (t.task k).pair = (s.task k).pair := by
  obtain ⟨g, hg⟩ := h k
  rw [hg]

theorem makeFrame_task_unclaimed (hc : (s.task tid).claim = none) : (makeFrame s cl).task tid = s.task tid := by
  unfold makeFrame
  split
  · rfl
  · split
    · next k _ =>
      by_cases h : tid = k
      · subst h
        rw [State.modClaim, task_modTask, hc, Option.map_none, ← hc]
      · exact task_modTask_ne s _ h
    · rfl

/-- A thread whose claim takes a frame has that claim, with some groups (R119, R121). -/
theorem frameClaim_claim (c : Claim) (n : Nat) (hc : (s.task tid).claim = none) :
    (∃ f g, ((frameClaim s tid c n).task tid).claim = some { c with frame := some f, g := g }) ∧
      ((frameClaim s tid c n).task tid).pair = (s.task tid).pair := by
  unfold frameClaim
  generalize clOfCore (s.task tid).core = cl
  have hset := (sameButGroups_settleMark s cl).task_unclaimed hc
  have hmake : (makeFrame (settleMark s cl) cl).free.2.task tid = s.task tid :=
    (makeFrame_task_unclaimed (hset ▸ hc)).trans hset
  have hgrant (s : State) : SameButGroups s (settleMark (grantGroups s tid n) cl) :=
    (sameButGroups_grantGroups s tid n).trans (sameButGroups_settleMark _ cl)
  refine ⟨⟨_, (hgrant _).claim_eq (c := { c with frame := some _, g := 0 }) (congrArg Task.claim (task_modTask ..))⟩, ?_⟩
  rw [(hgrant _).pair_eq, task_modTask]
  exact (congrArg Task.pair hmake :)

end

section
variable {s : State} {tid cl n : Nat} {d a : BitVec 7} {c : Claim}

theorem notHandler_ok (h : (s.task tid).handler = false) : notHandler s tid = .ok () := by
  simp only [notHandler, h, need, Bool.not_false, if_true]

theorem notHandler_handler (h : (s.task tid).handler = true) : notHandler s tid = .error (.trap HANDLER_OP 0) := by
  simp only [notHandler, h, need, Bool.not_true, Bool.false_eq_true, if_false]

theorem opens_dst_src (hs : Issuing s tid) (hd : Names1 s tid d.toNat) (ha : Names1 s tid a.toNat) :
    Opens s tid [.dst d.toNat, .src a.toNat] := ⟨hs, by simp [Fits, hd, ha]⟩

/-- VCLAIM of a thread without a claim that may have a frame (R119, R121, R342). -/
theorem vclaim_unclaimed (hs : Issuing s tid) (hd : Names1 s tid d.toNat) (ha : Names1 s tid a.toNat)
    (hn : max 1 (min 16 (Reads s tid a.toNat).toNat) = n) (hcl : (s.task tid).core / 8 = cl) (hh : (s.task tid).handler = false)
    (hc : (s.task tid).claim = none) (hm : mayFrame (settleMark s cl) cl (s.task tid).ctx false = true)
    (hp : poolRoom (settleMark s cl) (s.task tid).ctx 17408 = true) :
    let s1 := frameClaim (settleMark s cl) tid { frame := none, req := n, g := 0 } n
    ∃ c, (s1.task tid).claim = some c ∧ c.req = n ∧ c.vl = 256 ∧
      execVclaim d a s = .next (writtenSync s1 tid d.toNat 4 (BitVec.ofNat 64 c.g)) := by
  have hset := (sameButGroups_settleMark s cl).task_unclaimed hc
  obtain ⟨⟨f, g, hclaim⟩, hpair⟩ := frameClaim_claim { frame := none, req := n, g := 0 } n (hset ▸ hc)
  rw [hset, pair_of_issuing hs] at hpair
  refine ⟨_, hclaim, rfl, rfl, issue_put (k := .sync) (opens_dst_src hs hd ha) nofun hd ?_ hpair⟩
  simp only [notHandler_ok hh, pair_of_issuing hs, readReg_names ha, hn, clOfCore, hcl, hset, hc, hm, hp, hclaim, need, bind, Except.bind,
    Option.isNone_none, Bool.not_true, Bool.or_self, Bool.false_eq_true, if_false, if_true]
  rfl

/-- VCLAIM of a thread with a claim asks for groups anew (R119, R342). -/
theorem vclaim_claimed (hs : Issuing s tid) (hd : Names1 s tid d.toNat) (ha : Names1 s tid a.toNat)
    (hn : max 1 (min 16 (Reads s tid a.toNat).toNat) = n) (hcl : (s.task tid).core / 8 = cl) (hh : (s.task tid).handler = false)
    (hc : (s.task tid).claim = some c) :
    let s1 := (settleMark (grantGroups (settleMark s cl) tid n) cl).modClaim tid fun c => { c with req := n }
    ∃ c', (s1.task tid).claim = some c' ∧ c' = { c with req := n, g := c'.g } ∧
      execVclaim d a s = .next (writtenSync s1 tid d.toNat 4 (BitVec.ofNat 64 c'.g)) := by
  obtain ⟨g0, hset⟩ := (sameButGroups_settleMark s cl).claim_eq hc
  have hgrant : SameButGroups s (settleMark (grantGroups (settleMark s cl) tid n) cl) :=
    (sameButGroups_settleMark s cl).trans ((sameButGroups_grantGroups _ tid n).trans (sameButGroups_settleMark _ cl))
  obtain ⟨g, hg⟩ := hgrant.claim_eq hc
  generalize hs1 : settleMark (grantGroups (settleMark s cl) tid n) cl = s1 at hgrant hg
  have hclaim : ((s1.modClaim tid fun c => { c with req := n }).task tid).claim = some { c with req := n, g := g } := by
    rw [State.modClaim, task_modTask]
    exact congrArg (Option.map _) hg
  refine ⟨_, hclaim, rfl, issue_put (k := .sync) (opens_dst_src hs hd ha) nofun hd ?_ ?_⟩
  · simp only [notHandler_ok hh, pair_of_issuing hs, readReg_names ha, hn, clOfCore, hcl, hset, hs1, hclaim, need, bind, Except.bind,
      Option.isNone_none, if_true]
    rfl
  · rw [State.modClaim, task_modTask]
    exact (hgrant.pair_eq tid).trans (pair_of_issuing hs)

theorem vclaim_handler (hs : Issuing s tid) (hd : Names1 s tid d.toNat) (ha : Names1 s tid a.toNat)
    (hh : (s.task tid).handler = true) : execVclaim d a s = .next (faulted s tid 4 HANDLER_OP 0) :=
  issue_trap (opens_dst_src hs hd ha) nofun (by simp only [notHandler_handler hh, bind, Except.bind])

theorem vrel_releases (hs : Issuing s tid) :
    execVrel s = .next (afterSync (settleMark (s.modTask tid fun t => { t with claim := none }) ((s.task tid).core / 8)) tid
      (·.skip 4)) :=
  issue_ok (k := .sync) ⟨hs, by simp⟩ nofun rfl (by
    rw [(sameButGroups_settleMark _ _).pair_eq, task_modTask]
    exact pair_of_issuing hs)

theorem vsetvl_claimed (hs : Issuing s tid) (hd : Names1 s tid d.toNat) (ha : Names1 s tid a.toNat)
    (hc : (s.task tid).claim = some c) :
    let n := min (Reads s tid a.toNat).toNat 256
    execVsetvl d a s = .next (written (s.modTask tid fun t => { t with claim := some { c with vl := n } }) tid d.toNat 4
      (BitVec.ofNat 64 n)) := by
  intro n
  refine issue_put (k := .plain) (opens_dst_src hs hd ha) nofun hd ?_ (by rw [task_modTask]; exact pair_of_issuing hs)
  simp only [claimOf_some hc, readReg_names ha, modClaim_some _ hc, bind, Except.bind]
  rfl

/-- VEXT: zero beyond VL, the bits of a floating element, the value of an integer one (R129). -/
theorem vext_claimed {t : BitVec 3} {v : BitVec 4} (hs : Issuing s tid) (hd : Names1 s tid d.toNat) (ha : Names1 s tid a.toNat)
    (hv : Ready s tid (128 + v.toNat)) (hk : Ready s tid 144) (hc : (s.task tid).claim = some c) :
    execVext d t v a s = .next (written s tid d.toNat 4 (if c.vl ≤ (Reads s tid a.toNat).toNat then 0 else
      let e := (c.el v.toNat (Reads s tid a.toNat).toNat).toNat % 2^tBits t.toNat
      if t.toNat ≤ 2 then BitVec.ofNat 64 e else BitVec.ofInt 64 (toSigned (tBits t.toNat) e))) := by
  have hops : Opens s tid (.dst d.toNat :: .src a.toNat :: vOpds [v.toNat] 0 0) :=
    ⟨hs, List.forall_mem_cons.mpr ⟨hd, List.forall_mem_cons.mpr ⟨ha, fits_vOpds (by simpa using hv) hk⟩⟩⟩
  refine issue_written hops hd ?_
  simp only [claimOf_some hc, readReg_names ha, bind, Except.bind, tFloat, decide_eq_true_eq, ← Nat.not_lt, ite_not]
  rfl

end

/-! ### What a vector write leaves alone (R124) -/

section
variable {c : Claim} {d r i q j : Nat} {x : BitVec 32}

theorem el_setEl_ne (hc : mrising c.v = true) (h : 256 * q + j ≠ 256 * r + i) : (c.setEl r i x).el q j = c.el q j :=
  mget_mput_ne 0 0 c.v x hc h

/-- Elements that are set in turn: the others, and all that is not an element, are as they were. -/
theorem foldl_setEl (xs : List (Nat × BitVec 32)) (hc : mrising c.v = true) :
    let c' := xs.foldl (fun c e => c.setEl d e.1 e.2) c
    c' = { c with v := c'.v } ∧ ∀ q j, (∀ e ∈ xs, 256 * q + j ≠ 256 * d + e.1) → c'.el q j = c.el q j := by
  induction xs generalizing c with
  | nil => exact ⟨rfl, fun _ _ _ => rfl⟩
  | cons e xs ih =>
    obtain ⟨hrest, hel⟩ := ih (c := c.setEl d e.1 e.2) (mrising_mput 0 c.v _ e.2 hc)
    refine ⟨hrest, fun q j h => ?_⟩
    rw [List.forall_mem_cons] at h
    exact (hel q j h.2).trans (el_setEl_ne hc h.1)

theorem map_fst_mapEls (op : ElOp) (els : List Nat) (acc : VAcc) : (mapEls op els acc).1.map (·.1) = els := by
  induction els generalizing acc with
  | nil => rfl
  | cons i r ih => exact congrArg (i :: ·) (ih _)

theorem vecWrite_claim {s : State} {tid : Nat} (d : Nat) (els : List Nat) (op : ElOp) (h : (s.task tid).claim = some c) :
    ((vecWrite tid d els op s).task tid).claim =
      some ((mapEls op els { fl := 0, seed := (s.task tid).r.srseed }).1.foldl (fun c e => c.setEl d e.1 e.2) c) := by
  simp only [vecWrite, State.flag, State.modClaim, task_modR, task_modTask, h, Option.map_some]

theorem vecWrite_task_ne {tid o : Nat} (d : Nat) (els : List Nat) (op : ElOp) (s : State) (h : o ≠ tid) :
    (vecWrite tid d els op s).task o = s.task o := by
  simp only [vecWrite, State.flag, State.modClaim, State.modR, task_modTask_ne _ _ h]

end

/-- The instructions of the statement that need a claim fault without one (R121). -/
theorem vector_unclaimed {s : State} {tid : Nat} {d a : BitVec 7} {v : BitVec 4} {t : BitVec 3} (hs : Issuing s tid)
    (hd : Names1 s tid d.toNat) (ha : Names1 s tid a.toNat) (hv : Ready s tid (128 + v.toNat)) (hk : Ready s tid 144)
    (hc : (s.task tid).claim = none) :
    ∀ i ∈ [Instr.vsetvl d a, .vext d t v a, .vadd v t v 0 v 0 0, .vfma v t v 0 v 0 0, .vsel v t v v 0, .vred v t v 0 0 0 0,
      .vld v a 0 0, .vst v a 0 0], exec i s = .next (faulted s tid 4 VEC_NOCLAIM 0) := by
  have hvs (rs : List Nat) (m : Nat) (h : ∀ q ∈ rs, q = v.toNat) : ∀ o ∈ vOpds rs m 0, Fits s tid o :=
    fits_vOpds (fun q hq => h q hq ▸ hv) hk
  have hbody {f : Claim → M State} : (claimOf s tid >>= f) = .error (.trap VEC_NOCLAIM 0) := by
    rw [claimOf_none hc]; rfl
  have vec (rs : List Nat) (op : Claim → State → Nat → ElOp) (h : ∀ q ∈ rs, q = v.toNat) :
      vecOp 4 v.toNat 0 0 simple rs op s = .next (faulted s tid 4 VEC_NOCLAIM 0) :=
    issue_trap (k := .plain) ⟨hs, hvs (v.toNat :: rs) 0 (by simpa using h)⟩ nofun hbody
  have trap {ops : List Opd} {body : Nat → State → M State} (ho : ∀ o ∈ ops, Fits s tid o)
      (hb : body tid s = .error (.trap VEC_NOCLAIM 0)) : issue 4 .plain ops body s = .next (faulted s tid 4 VEC_NOCLAIM 0) :=
    issue_trap (k := .plain) ⟨hs, ho⟩ nofun hb
  have hsrc {ops : List Opd} (ho : ∀ o ∈ ops, Fits s tid o) : ∀ o ∈ .src a.toNat :: ops, Fits s tid o :=
    List.forall_mem_cons.mpr ⟨ha, ho⟩
  simp only [List.forall_mem_cons]
  exact ⟨(trap (opens_dst_src hs hd ha).2 hbody : execVsetvl d a s = _),
    (trap (List.forall_mem_cons.mpr ⟨hd, hsrc (hvs [v.toNat] 0 (by simp))⟩) hbody : execVext d t v a s = _),
    vec [v.toNat, v.toNat] (arith2 t.toNat v.toNat 0 v.toNat xadd (· + ·)) (by simp),
    vec [v.toNat, v.toNat] (arith3 t.toNat v.toNat 0 v.toNat v.toNat) (by simp),
    (trap (hvs [v.toNat, v.toNat, v.toNat] 1 (by simp)) hbody : execVsel v t v v 0 s = _),
    (trap (hvs [v.toNat, v.toNat] 0 (by simp)) hbody : execVred v t v 0 0 0 0 s = _),
    (trap (hsrc (hvs [v.toNat] 0 (by simp))) hbody : vldOp 4 v.toNat a.toNat 0 0 0 s = _),
    (trap (hsrc (hvs [v.toNat] 0 (by simp))) hbody : vstOp 4 v.toNat a.toNat 0 0 0 s = _), by simp⟩

/-- Settles O29: by what VCLAIM's grant keeps of a thread, and by what an element that is set keeps of a claim. -/
theorem vectorClaims : Obligations.VectorClaims := by
  refine ⟨fun s tid d a v t3 hs hn _ hv hk => ?_, fun s tid d els op c hc hr hels => ?_⟩
  · have hd : Names1 s tid d.toNat := hn _ (by simp)
    have ha : Names1 s tid a.toNat := hn _ (by simp)
    exact ⟨vclaim_unclaimed hs hd ha rfl rfl, fun c => vclaim_claimed hs hd ha rfl rfl, vclaim_handler hs hd ha,
      vrel_releases hs, fun c hc => ⟨vsetvl_claimed hs hd ha hc, vext_claimed hs hd ha hv hk hc⟩, vector_unclaimed hs hd ha hv hk⟩
  · let z := mapEls op els { fl := 0, seed := (s.task tid).r.srseed }
    obtain ⟨hrest, hel⟩ := foldl_setEl (d := d) z.1 hr
    have hz : ∀ e ∈ z.1, e.1 ∈ els := fun e he =>
      map_fst_mapEls op els { fl := 0, seed := (s.task tid).r.srseed } ▸ List.mem_map_of_mem he
    refine ⟨_, vecWrite_claim d els op hc, (congrArg Claim.vl hrest :), (congrArg Claim.frame hrest :),
      (congrArg Claim.vm hrest :), (congrArg Claim.g hrest :), fun j hj hne => hel d j fun e he => ?_, fun q j hq hj => hel q j fun e he => ?_, vecWrite_mem .., ?_⟩
    · have : j ≠ e.1 := fun h => hne (h ▸ hz e he)
      omega
    · have := hels _ (hz e he)
      omega
    · exact fun o ho => vecWrite_task_ne d els op s ho

end Sys2Proof.Proofs
end

section
namespace Sys2Proof.Proofs
open Sys2Proof.Machine Sys2Proof.Laws

/-! ### Beats and results of vector instructions (R124-R128) -/

section
variable {s s' : State} {tid d len n lat m k : Nat} {els keys : List Nat} {ops : List Opd} {op op' : ElOp} {c : Claim}

theorem pair_beat (s : State) (tid n lat : Nat) (keys : List Nat) : ((s.beat tid n lat keys).task tid).pair = (s.task tid).pair := by
  rw [State.beat, task_modTask, Task.beat]
  split <;> rfl

theorem pair_vecWrite (s : State) (tid d : Nat) (els : List Nat) (op : ElOp) :
    ((vecWrite tid d els op s).task tid).pair = (s.task tid).pair := by
  simp only [vecWrite, State.flag, State.modClaim, task_modR, task_modTask]

/-- A vector instruction whose body ends with a write of elements and its beats. -/
theorem issue_vecWrite {body : Nat → State → M State} (h : Opens s tid ops) (hn : (s'.task tid).pair = none)
    (hb : body tid s = .ok ((vecWrite tid d els op s').beat tid n lat keys)) :
    issue len .plain ops body s = .next (after ((vecWrite tid d els op s').beat tid n lat keys) tid (·.skip len)) :=
  issue_ok (k := .plain) h nofun hb (by rw [pair_beat, pair_vecWrite, hn])

/-- An elementwise instruction whose operation is `op'` on the registers as they are. -/
theorem vecOp_claimed {w : Pace} {rs : List Nat} {op : Claim → State → Nat → ElOp} (hs : Issuing s tid)
    (hc : (s.task tid).claim = some c) (hr : ∀ q ∈ d :: rs, Ready s tid (128 + q)) (hk : Ready s tid (144 + k))
    (hop : op c s tid = op') :
    vecOp len d m k w rs op s =
      .next (after ((vecWrite tid d (c.active m k) op' s).beat tid (w.mult * c.passes) w.lat [128 + d]) tid (·.skip len)) := by
  subst hop
  exact issue_vecWrite ⟨hs, fits_vOpds hr hk⟩ (pair_of_issuing hs) (by simp only [claimOf_some hc, bind, Except.bind]; rfl)

end

theorem rmOf_eq (s : State) (tid : Nat) (x : BitVec 3) :
    rmOf s tid x.toNat = if x = 0 then (s.task tid).r.frm.toNat else x.toNat := by
  simp only [rmOf, ← BitVec.toNat_inj]; rfl

/-! ### Operations on elements (R128, R135-R143) -/

section
variable {s : State} {tid t a b e x rm : Nat} {c : Claim}

section
variable (ht : t ≤ 2)
include ht

theorem tFloat_float : tFloat t = true := decide_eq_true ht

theorem arith2_float (f : FVal → FVal → Nat → Exact) (g : Int → Int → Int) (hrm : rmOf s tid x = rm) :
    arith2 t a x b f g c s tid = fun i => roundEl (tFmt t) rm (f (c.fval t a i) (c.fval t b i) rm) := by
  subst hrm
  funext i acc
  simp only [arith2, tFloat_float ht, if_true]

theorem arith3_float (hrm : rmOf s tid x = rm) :
    arith3 t a x b e c s tid = fun i => roundEl (tFmt t) rm (xfma (c.fval t a i) (c.fval t b i) (c.fval t e i) rm) := by
  subst hrm
  funext i acc
  simp only [arith3, tFloat_float ht, if_true]

theorem divOp_float (hrm : rmOf s tid x = rm) :
    divOp t a x b c s tid = fun i => roundEl (tFmt t) rm (xdiv (c.fval t a i) (c.fval t b i)) := by
  simp only [divOp, tFloat_float ht, if_true, arith2_float ht _ _ hrm]

theorem minMax_float (isMax : Bool) :
    minMax isMax t a b c s tid = fun i acc =>
      let z := fminmax (tFmt t) isMax (c.raw t a i) (c.raw t b i)
      (BitVec.ofNat 32 z.1, { acc with fl := acc.fl ||| z.2 }) := by
  funext i acc
  simp only [minMax, tFloat_float ht, if_true]

end

section
variable (ht : 3 ≤ t)
include ht

theorem tFloat_integer : tFloat t = false := decide_eq_false (by omega)

theorem arith2_integer (f : FVal → FVal → Nat → Exact) (g : Int → Int → Int) :
    arith2 t a x b f g c s tid = fun i acc => (intEl t x (g (c.int t a i) (c.int t b i)), acc) := by
  funext i acc
  simp only [arith2, tFloat_integer ht, Bool.false_eq_true, if_false]

theorem arith3_integer :
    arith3 t a x b e c s tid = fun i acc => (intEl t x (c.int t a i * c.int t b i + c.int t e i), acc) := by
  funext i acc
  simp only [arith3, tFloat_integer ht, Bool.false_eq_true, if_false]

theorem divOp_integer :
    divOp t a x b c s tid = fun i acc =>
      if c.int t b i = 0 then (intEl t 0 (-1), { acc with fl := acc.fl ||| IDZ })
      else (intEl t x ((c.int t a i).tdiv (c.int t b i)), acc) := by
  funext i acc
  simp only [divOp, intDiv, tFloat_integer ht, Bool.false_eq_true, if_false]

theorem minMax_integer (isMax : Bool) :
    minMax isMax t a b c s tid = fun i acc =>
      (intEl t 0 (if isMax then max (c.int t a i) (c.int t b i) else min (c.int t a i) (c.int t b i)), acc) := by
  funext i acc
  simp only [minMax, tFloat_integer ht, Bool.false_eq_true, if_false]

end

theorem func1_rounds (f : FVal → Exact) (hrm : rmOf s tid x = rm) :
    func1 t a x f c s tid = fun i => roundEl (tFmt t) rm (f (c.fval t a i)) := by
  subst hrm
  rfl

theorem shlEl_wraps :
    shlEl t a 0 b c s tid = fun i acc =>
      (BitVec.ofNat 32 (if tBits t ≤ c.raw t b i then 0 else c.raw t a i * 2^c.raw t b i % 2^tBits t), acc) := by
  funext i acc
  simp only [shlEl, pureEl, zero_ne_one, if_false, ge_iff_le, apply_ite (BitVec.ofNat 32)]
  rfl

theorem shrEl_logical :
    shrEl t a 0 b c s tid = fun i acc =>
      (BitVec.ofNat 32 (if tBits t ≤ c.raw t b i then 0 else c.raw t a i / 2^c.raw t b i), acc) := by
  funext i acc
  simp only [shrEl, pureEl, zero_ne_one, if_false, ge_iff_le, apply_ite (BitVec.ofNat 32)]
  rfl

theorem permEl_eq (c : Claim) (t a b : Nat) :
    (pureEl fun i => if (c.el b i).toNat < c.vl then BitVec.ofNat 32 (c.raw t a (c.el b i).toNat) else 0) =
      fun i acc => (BitVec.ofNat 32 (if (c.el b i).toNat < c.vl then c.raw t a (c.el b i).toNat else 0), acc) := by
  funext i acc
  simp only [pureEl, apply_ite (BitVec.ofNat 32)]
  rfl

end

/-- Settles O30: each instruction is `vecOp`, or a body of the same shape, of an operation on its elements. -/
theorem vectorElementwise : Obligations.VectorElementwise := by
  intro s tid c d a b e ty dt x m y k r i hs hn hc hready hk act rm p go f val int raw fl least ints bitwise
  have hr : Names1 s tid r.toNat := hn _ (by simp)
  have hrm : rmOf s tid x.toNat = rm := rmOf_eq s tid x
  have hvs {rs : List (BitVec 4)} (h : rs ⊆ [d, a, b, e]) : ∀ q ∈ rs.map BitVec.toNat, Ready s tid (128 + q) :=
    List.forall_mem_map.mpr fun q hq => hready q (h hq)
  have vec (len : Nat) (w : Pace) (rs : List (BitVec 4)) {op : Claim → State → Nat → ElOp} {op' : ElOp}
      (h : rs ⊆ [d, a, b, e]) (hop : op c s tid = op') :
      vecOp len d.toNat m.toNat k.toNat w (rs.map BitVec.toNat) op s = go len op' w.mult w.lat :=
    vecOp_claimed hs hc (hvs (rs := d :: rs) (List.cons_subset.mpr ⟨by simp, h⟩)) hk hop
  have hab : [a, b] ⊆ [d, a, b, e] := by simp
  have habe : [a, b, e] ⊆ [d, a, b, e] := by simp
  have ha : [a] ⊆ [d, a, b, e] := by simp
  refine ⟨fun ht => ?float, fun ht => ?integer, ?rest⟩
  case float =>
    exact ⟨vec 4 simple [a, b] hab (arith2_float ht xadd (· + ·) hrm),
      vec 4 simple [a, b] hab (arith2_float ht (fun p q rm => xadd p q.neg rm) (· - ·) hrm),
      vec 4 simple [a, b] hab (arith2_float ht (fun p q _ => xmul p q) (· * ·) hrm),
      vec 4 simple [a, b] hab (minMax_float ht false), vec 4 simple [a, b] hab (minMax_float ht true),
      vec 4 ⟨4, 8⟩ [a, b] hab (divOp_float ht hrm), vec 4 simple [a, b] hab (arith3_float ht hrm),
      vec 8 simple [a, b, e] habe (arith3_float ht hrm), vec 4 ⟨4, 8⟩ [a] ha (func1_rounds xsqrt hrm),
      vec 4 ⟨2, 8⟩ [a] ha (func1_rounds xrsqrt hrm), vec 4 ⟨2, 8⟩ [a] ha (func1_rounds xrcp hrm),
      vec 4 ⟨2, 8⟩ [a] ha (func1_rounds xexp2 hrm), vec 4 ⟨2, 8⟩ [a] ha (func1_rounds xlog2 hrm),
      vec 4 ⟨4, 8⟩ [a] ha (func1_rounds xsin hrm), vec 4 ⟨4, 8⟩ [a] ha (func1_rounds xtanh hrm)⟩
  case integer =>
    refine ⟨vec 4 simple [a, b] hab (arith2_integer ht xadd (· + ·)),
      vec 4 simple [a, b] hab (arith2_integer ht (fun p q rm => xadd p q.neg rm) (· - ·)),
      vec 4 simple [a, b] hab (arith2_integer ht (fun p q _ => xmul p q) (· * ·)),
      vec 4 simple [a, b] hab (arith3_integer ht), vec 8 simple [a, b, e] habe (arith3_integer ht),
      vec 4 simple [a, b] hab (minMax_integer ht false), vec 4 simple [a, b] hab (minMax_integer ht true),
      vec 4 ⟨4, 8⟩ [a, b] hab (divOp_integer ht), fun hx => ?_, fun hx => ?_⟩
    · subst hx
      exact ⟨vec 4 simple [a, b] hab shlEl_wraps, vec 4 simple [a, b] hab shrEl_logical⟩
    · subst hx
      exact ⟨vec 4 simple [a, b] hab rfl, vec 4 simple [a, b] hab rfl⟩
  case rest =>
    have hsel : Opens s tid (vOpds ([d, a, b].map BitVec.toNat) 1 k.toNat) := ⟨hs, fits_vOpds (hvs (by simp)) hk⟩
    have hbcast : Opens s tid (.src r.toNat :: vOpds ([d].map BitVec.toNat) m.toNat k.toNat) :=
      ⟨hs, List.forall_mem_cons.mpr ⟨hr, fits_vOpds (hvs (by simp)) hk⟩⟩
    refine ⟨vec 4 simple [a, b] hab rfl, vec 4 simple [a, b] hab rfl, vec 4 simple [a, b] hab rfl,
      ?vperm, ?vsel, vec 4 simple [a] ha rfl, ?vbcast,
      ?vbcastLong⟩
    case vperm =>
      show execVperm d ty a b m k s = _
      unfold execVperm
      exact vec 4 ⟨2, 6⟩ [a, b] hab (permEl_eq c ty.toNat a.toNat b.toNat)
    case vsel =>
      show execVsel d ty a b k s = _
      exact issue_vecWrite hsel (pair_of_issuing hs) (by simp only [claimOf_some hc, bind, Except.bind]; rfl)
    case vbcast =>
      show execVbcast d r m k s = _
      refine issue_vecWrite hbcast (pair_of_issuing hs) ?_
      simp only [claimOf_some hc, readReg_names hr, Nat.one_mul, bind, Except.bind]
      rfl
    case vbcastLong =>
      show execVbcastLong d m k i s = _
      unfold execVbcastLong
      exact vec 8 simple [] (by simp) rfl

end Sys2Proof.Proofs
end

section
namespace Sys2Proof.Proofs
open Sys2Proof.Machine Sys2Proof.Laws

/-! ### Vector instructions that change the claim as a whole (R139, R144, R145) -/

section
variable {s : State} {tid n lat d k m : Nat} {keys : List Nat} {ops : List Opd} {c c' : Claim}

/-- The beats of an instruction and a change of its thread's registers commute. -/
theorem beat_modR (s : State) (tid n lat : Nat) (keys : List Nat) (g : Regs → Regs) :
    (s.modR tid g).beat tid n lat keys = (s.beat tid n lat keys).modR tid g := by
  simp only [State.beat, State.modR, modTask_modTask]
  refine congrArg (s.modTask tid) (funext fun t => ?_)
  simp only [Task.beat]
  split <;> rfl

theorem modR_flag (s : State) (tid : Nat) (fl : Flags) (g : Regs → Regs) :
    (s.modR tid g).flag tid fl = s.modR tid fun r => { g r with fflags := (g r).fflags ||| fl } := by
  simp only [State.flag, State.modR, modTask_modTask]
  rfl

/-- A vector instruction that leaves the claim `c`, and what it has gathered. -/
theorem issue_claimed {body : Nat → State → M State} {acc : VAcc} (h : Opens s tid ops)
    (hb : body tid s = .ok ((((s.modTask tid fun t => { t with claim := some c }).modR tid fun r =>
      { r with srseed := acc.seed }).flag tid acc.fl).beat tid n lat keys)) :
    issue 4 .plain ops body s =
      .next (after ((s.modTask tid fun t => { t with claim := some c }).beat tid n lat keys) tid fun r =>
        { r with srseed := acc.seed, fflags := r.fflags ||| acc.fl }.skip 4) := by
  rw [modR_flag, beat_modR] at hb
  rw [issue_ok (k := .plain) h nofun hb (by rw [task_modR, pair_beat, task_modTask]; exact pair_of_issuing h.1), done_modR]
  rfl

/-- What draws nothing leaves the generator as it was. -/
theorem flag_eq_modR_flag {seed : BitVec 32} (fl : Flags) (h : (s.task tid).r.srseed = seed) :
    s.flag tid fl = (s.modR tid fun r => { r with srseed := seed }).flag tid fl := by
  subst h
  rw [modR_flag, State.flag, State.modR, State.modR]
  exact modTask_congr rfl

theorem fits_vOpds_unmasked {rs : List Nat} (hr : ∀ q ∈ rs, Ready s tid (128 + q)) : ∀ o ∈ vOpds rs 0 0, Fits s tid o := by
  rw [vOpds, if_pos rfl, List.append_nil]
  exact List.forall_mem_map.mpr hr

theorem need_ok {b : Bool} {code : Code} {w : Word} (h : b = true) : need b code w = .ok () := by rw [need, h]; rfl

theorem need_fault {b : Bool} {code : Code} {w : Word} (h : b = false) : need b code w = .error (.trap code w) := by rw [need, h]; rfl

/-- R145: whole blocks and no mask. -/
theorem blocks_iff (c : Claim) (m : BitVec 1) (n : Nat) : (c.vl % n == 0 && m == 0) = true ↔ c.vl % n = 0 ∧ m = 0 := by
  rw [Bool.and_eq_true, beq_iff_eq, beq_iff_eq]

end

/-- Settles O31: VDEQ is a write of elements, the others leave a claim of their own. -/
theorem vectorReduceAndCompare : Obligations.VectorReduceAndCompare := by
  intro s tid c d a b o q ty x p m k v hs hc hready hk hv act p1 rm acc0 go cmp
  have hrm : rmOf s tid x.toNat = rm := rmOf_eq s tid x
  have hda : ∀ q ∈ [d.toNat, a.toNat], Ready s tid (128 + q) := by simpa using ⟨hready d (by simp), hready a (by simp)⟩
  have hab : ∀ q ∈ [a.toNat, b.toNat], Ready s tid (128 + q) := by simpa using ⟨hready a (by simp), hready b (by simp)⟩
  have hcmp : Opens s tid (.late (144 + v.toNat) :: vOpds [a.toNat, b.toNat] m.toNat k.toNat) :=
    ⟨hs, List.forall_mem_cons.mpr ⟨hv, fits_vOpds hab hk⟩⟩
  have hred : Opens s tid (vOpds [d.toNat, a.toNat] m.toNat k.toNat) := ⟨hs, fits_vOpds hda hk⟩
  have hblock : Opens s tid (vOpds [d.toNat, a.toNat] 0 0) := ⟨hs, fits_vOpds_unmasked hda⟩
  refine ⟨?vcmp, ?vred, ?vscan, fun hvl hm => ⟨?vquant, ?vdeq⟩, fun hb => ?broken⟩
  case vcmp =>
    show execVcmp v ty a p b m k s = _
    refine issue_claimed (acc := { acc0 with fl := act.foldl (fun f j => f ||| (cmp j).2) 0 }) hcmp ?_
    simp only [claimOf_some hc, modClaim_some _ hc, bind, Except.bind, List.foldl_map]
    rw [flag_eq_modR_flag (seed := acc0.seed) _ (by rw [task_modTask])]
    rfl
  case vred =>
    show execVred d ty a x o m k s = _
    refine issue_claimed hred ?_
    simp only [claimOf_some hc, modClaim_some _ hc, bind, Except.bind, hrm]
    rfl
  case vscan =>
    show execVscan d ty a x o m k s = _
    refine issue_claimed hred ?_
    simp only [claimOf_some hc, modClaim_some _ hc, bind, Except.bind, hrm]
    rfl
  case vquant =>
    show execVquant d ty a x q m k s = _
    refine issue_claimed hblock ?_
    simp only [claimOf_some hc, modClaim_some _ hc, bind, Except.bind, hrm,
      need_ok ((blocks_iff c m 32).mpr ⟨hvl, hm⟩)]
    rfl
  case vdeq =>
    show execVdeq d ty a x q m k s = _
    refine issue_vecWrite hblock (pair_of_issuing hs) ?_
    simp only [claimOf_some hc, need_ok ((blocks_iff c m 32).mpr ⟨hvl, hm⟩), bind, Except.bind, hrm]
    rfl
  case broken =>
    have hbad : (c.vl % 32 == 0 && m == 0) = false := by
      rw [← Bool.not_eq_true, blocks_iff]
      tauto
    have trap {body : Nat → State → M State} (h : body tid s = .error (.trap VEC_BLOCK 0)) :
        issue 4 .plain (vOpds [d.toNat, a.toNat] 0 0) body s = .next (faulted s tid 4 VEC_BLOCK 0) :=
      issue_trap (k := .plain) hblock nofun h
    exact ⟨(trap (by simp only [claimOf_some hc, need_fault hbad, bind, Except.bind]) : execVquant d ty a x q m k s = _),
      (trap (by simp only [claimOf_some hc, need_fault hbad, bind, Except.bind]) : execVdeq d ty a x q m k s = _)⟩

end Sys2Proof.Proofs
end

section
namespace Sys2Proof.Proofs
open Sys2Proof.Machine Sys2Proof.Laws

/-! ### What a thread's accesses leave of pairs (R401)

An unpaired thread's instruction that reads memory is still unpaired when it completes. -/

/-- Every thread is paired as it was. -/
def SamePairs (s t : State) : Prop := ∀ k, (t.task k).pair = (s.task k).pair

section
variable {s t u : State}

theorem SamePairs.refl (s : State) : SamePairs s s := fun _ => rfl

theorem SamePairs.trans (h : SamePairs s t) (h' : SamePairs t u) : SamePairs s u := fun k => (h' k).trans (h k)

theorem SamePairs.ite {c : Prop} [Decidable c] (h : SamePairs s t) (h' : SamePairs s u) : SamePairs s (if c then t else u) :=
  iteInduction (fun _ => h) (fun _ => h')

theorem samePairs_of_tasks (h : t.tasks = s.tasks) : SamePairs s t := fun k => by simp only [State.task, h]

theorem samePairs_of_work (h : work t = work s) : SamePairs s t := samePairs_of_tasks (work_tasks h)

theorem samePairs_modTask (s : State) (tid : Nat) {f : Task → Task}
    (h : ∀ x, (f x).pair = x.pair := by exact fun _ => rfl) :
    SamePairs s (s.modTask tid f) := fun k => by
  by_cases e : k = tid
  · rw [e, task_modTask, h]
  · rw [task_modTask_ne s f e]

end

/-- What an operation gives when it completes has `Q`. -/
def Gives {A : Type} (x : M A) (Q : A → Prop) : Prop := ∀ a, x = .ok a → Q a

section
variable {A B : Type} {x y : M A} {P : A → Prop}

theorem gives_ok {a : A} (h : P a) : Gives (.ok a) P := fun _ e => by cases e; exact h

theorem gives_error (e : Stop) : Gives (.error e) P := nofun

theorem Gives.bind {k : A → M B} {Q : B → Prop} (h : Gives x P) (hk : ∀ a, P a → Gives (k a) Q) : Gives (x >>= k) Q := by
  cases x with
  | ok a => exact hk a (h a rfl)
  | error e => exact gives_error e

/-- What comes after a step of which nothing is kept. -/
theorem Gives.bind_any {k : A → M B} {Q : B → Prop} (hk : ∀ a, Gives (k a) Q) : Gives (x >>= k) Q := by
  cases x with
  | ok a => exact hk a
  | error e => exact gives_error e

theorem Gives.ite {c : Prop} [Decidable c] (hx : c → Gives x P) (hy : ¬c → Gives y P) : Gives (if c then x else y) P :=
  iteInduction (motive := (Gives · P)) hx hy

end

section
variable {s : State} {tid va dpa n k : Nat} {a : Machine.Acc}

/-- Translation leaves the threads alone. -/
theorem xlPlace_samePairs (s : State) (tid va : Nat) (a : Machine.Acc) :
    Gives (xlPlace s tid va a) fun p => SamePairs s p.2 := by
  have h := samePairs_of_work (work_xlThread s tid va a)
  unfold xlPlace xlPlaceAt
  dsimp only
  split
  case h_1 e | h_2 e | h_3 e => exact gives_ok (by rwa [e] at h)
  all_goals exact gives_error _

theorem placeOf_samePairs (s : State) (tid va n : Nat) (a : Machine.Acc) (door : Bool) :
    Gives (placeOf s tid va n a door) fun p => SamePairs s p.2 := by
  unfold placeOf
  extract_lets t cl last
  have hlast : ∀ p : Place × State, SamePairs s p.2 → Gives (last p) fun q => SamePairs s q.2 := fun p hp => by
    simp only [last]
    split
    · exact .ite (fun _ => gives_error _) fun _ => .ite (fun _ => gives_error _) fun _ => gives_ok hp
    · exact gives_ok hp
  refine .ite (fun _ => ?_) fun _ => (xlPlace_samePairs s tid va a).bind hlast
  split
  · split
    · exact .bind_any fun _ => gives_error _
    · exact gives_error _
  · refine .bind_any fun _ => ?_
    split
    · exact (xlPlace_samePairs s tid _ a).bind hlast
    · exact Gives.bind (P := fun p => SamePairs s p.2) (gives_ok (.refl s)) hlast

theorem noteStash_samePairs (s : State) (tid va dpa : Nat) (load : Bool) : SamePairs s (noteStash s tid va dpa load) :=
  samePairs_of_tasks (by unfold noteStash; split <;> rfl)

theorem dropEarly_samePairs (s : State) (tid : Nat) : SamePairs s (dropEarly s tid) := .ite (.refl s) (samePairs_modTask s tid)

theorem loadedNow_samePairs (s : State) (tid dpa n : Nat) : SamePairs s (loadedNow s tid dpa n) :=
  .ite (.refl s) (samePairs_modTask s tid)

theorem l1Fill_samePairs (s : State) (k dpa : Nat) (e : Word) : SamePairs s (l1Fill s k dpa e) := .ite (.refl s) (samePairs_of_tasks rfl)

theorem peerTaken_samePairs {t : State} {who : Nat × Nat} {kind dpa len : Nat} (h : peerTaken s who kind dpa len = some t) :
    SamePairs s t := by
  unfold peerTaken at h
  split at h
  · obtain rfl := Option.some.inj h
    exact .ite (samePairs_of_tasks rfl) (samePairs_of_tasks rfl)
  · cases h

/-- A recorded value leaves the threads alone but for its task's count of events (R409, R411). -/
theorem takeTask_samePairs (s : State) (tid kind : Nat) (v : Word) : Gives (takeTask s tid kind v) fun p => SamePairs s p.2 := by
  have hrecord (l : Option Nat) (die ord : Nat) (w w' : Word) : SamePairs s (recordEv s l die kind ord w w') :=
    samePairs_of_tasks (by
      unfold recordEv recordAt
      split
      · rfl
      · exact iteInduction (motive := fun t : State => t.tasks = s.tasks) (fun _ => rfl) fun _ => rfl)
  have hreplay (l : Nat) : SamePairs s (noteReplay s tid l) :=
    (samePairs_modTask s tid (f := fun t => { t with ordinal := t.ordinal + 1 })).trans (samePairs_of_tasks (modLaunch_tasks ..))
  unfold takeTask
  dsimp only
  split
  · exact gives_ok (.refl s)
  · split
    · exact gives_ok ((hrecord _ _ _ _ _).trans (samePairs_modTask _ tid))
    · refine .ite (fun _ => gives_error _) fun _ => ?_
      split
      · exact gives_error _
      · exact gives_ok (hreplay _)
    · exact gives_ok (.refl s)

theorem waitTok_gives {A : Type} {P : A → Prop} (s : State) (r : Req) (l k : Nat) : Gives (waitTok s r l k) P :=
  .ite (fun _ => gives_error _) fun _ => gives_error _

/-- A load of translated memory takes early values and tokens (R191, R215, R216). -/
theorem loadMem_samePairs (s : State) (tid dpa n : Nat) (e : Word) (plain : Bool) :
    Gives (loadMem s tid dpa n e plain) fun p => SamePairs s p.2 := by
  unfold loadMem
  dsimp only
  refine .ite (fun _ => gives_ok (.refl s)) fun _ => .ite (fun _ => gives_error _) fun _ => ?_
  split
  · exact gives_ok (samePairs_modTask s tid)
  refine .ite (fun _ => gives_ok (loadedNow_samePairs s tid dpa n)) fun _ => .ite (fun _ => ?_) fun _ => ?_
  · split
    · split <;> exact gives_error _
    · exact waitTok_gives s _ _ _
  · split
    · exact gives_error _
    · next t h =>
      have ht : SamePairs s t := by
        split at h
        · exact peerTaken_samePairs h
        · obtain rfl := Option.some.inj h
          exact .refl s
      refine gives_ok (ht.trans (.trans ?_ (loadedNow_samePairs _ tid dpa n)))
      exact .ite (samePairs_of_work (work_returnHome ..)) (l1Fill_samePairs t _ dpa e)

theorem loadWin_samePairs (s : State) (tid k o n : Nat) : Gives (loadWin s tid k o n) fun p => SamePairs s p.2 :=
  .ite (fun _ => gives_ok (.refl s)) fun _ => .ite (fun _ => gives_error _) fun _ => gives_ok (dropEarly_samePairs s tid)

theorem loadPlace_samePairs (s : State) (tid : Nat) (p : Place) (va n : Nat) (poisonOk plain : Bool) :
    Gives (loadPlace s tid p va n poisonOk plain) fun q => SamePairs s q.2 := by
  unfold loadPlace
  split
  · exact gives_ok (.refl s)
  · exact .ite (fun _ => gives_ok (.refl s)) fun _ => gives_error _
  · refine .ite (fun _ => gives_error _) fun _ => ?_
    split
    · exact gives_error _
    · next h =>
      have ht := (noteStash_samePairs s tid va _ true).trans (loadMem_samePairs _ _ _ _ _ _ _ h)
      split
      · exact .ite (fun _ => gives_ok ht) fun _ => gives_error _
      · exact gives_ok ht
  · split
    · exact gives_error _
    · next h =>
      have ht := loadWin_samePairs _ _ _ _ _ _ h
      split
      · exact .ite (fun _ => gives_ok ht) fun _ => gives_error _
      · exact gives_ok ht

theorem loadOnce_samePairs (s : State) (tid va n : Nat) (plain : Bool) :
    Gives (loadOnce s tid va n plain) fun p => SamePairs s p.2 := by
  unfold loadOnce
  refine (placeOf_samePairs s tid va n .rd false).bind ?_
  rintro ⟨p, t⟩ hp
  refine (loadPlace_samePairs t tid p va n false plain).bind ?_
  rintro ⟨bs, u⟩ hq
  have hs := hp.trans hq
  dsimp only
  split
  · exact .ite (fun _ => (takeTask_samePairs u tid 5 _).bind fun _ hr => gives_ok (hs.trans hr)) fun _ => gives_ok hs
  · exact gives_ok hs

/-- A value from outside: what a leader or a shadow notes of it is in the turn (R403). -/
theorem outside_samePairs {m : M (Word × State)} (h : Gives m fun p => SamePairs s p.2) :
    Gives (outside s tid m) fun p => SamePairs s p.2 := by
  unfold outside
  split
  · exact h
  · exact .ite (fun _ => h.bind fun _ hp => gives_ok hp) fun _ => gives_ok (.refl s)

theorem gives_map {A B : Type} {m : M A} {f : A → B} {P : B → Prop} (h : Gives m fun a => P (f a)) : Gives (m.map f) P := by
  cases m with
  | ok a => exact gives_ok (h a rfl)
  | error e => exact gives_error e

theorem loadVa_samePairs (s : State) (tid va n : Nat) (plain : Bool) :
    Gives (loadVa s tid va n plain) fun p => SamePairs s p.2 := by
  have h := loadOnce_samePairs s tid va n plain
  refine .ite (fun _ => h) fun _ => ?_
  unfold outsideNat
  split
  · next e => exact .ite (fun _ => h) fun _ => gives_ok (outside_samePairs (gives_map h) _ e)
  · exact gives_error _

theorem loadByte_samePairs (s : State) (tid va : Nat) : Gives (loadByte s tid va) fun p => SamePairs s p.2 := by
  refine (outside_samePairs (gives_map ?_)).bind fun _ hp => gives_ok hp
  unfold loadByteOnce
  split
  · exact gives_ok (.refl s)
  · refine .ite (fun _ => gives_error _) fun _ => ?_
    split
    · next h => exact gives_ok ((loadOnce_samePairs _ _ _ _ _ _ h).trans (samePairs_modTask _ tid))
    · exact gives_error _
    · exact gives_error _

theorem loadBytes_samePairs (s : State) (tid va n : Nat) : Gives (loadBytes s tid va n) fun p => SamePairs s p.2 := by
  induction n generalizing s va with
  | zero => exact gives_ok (.refl s)
  | succ n ih => exact (loadByte_samePairs s tid va).bind fun _ hp => (ih _ _).bind fun _ hq => gives_ok (hp.trans hq)

/-! ### And the accesses of vector instructions (R131-R134) -/

theorem checkBytes_samePairs (s : State) (tid va : Nat) (a : Machine.Acc) (n : Nat) : Gives (checkBytes s tid va a n) (SamePairs s) := by
  induction n generalizing s va with
  | zero => exact gives_ok (.refl s)
  | succ n ih => exact (placeOf_samePairs s tid va 1 a false).bind fun _ hp => fun t ht => hp.trans (ih _ _ t ht)

theorem gives_atElem {A : Type} {x : M A} {P : A → Prop} (h : Gives x P) : Gives (atElem va x) P := by
  unfold atElem
  split
  · exact .ite (fun _ => gives_error _) fun _ => gives_error _
  · exact h

theorem checkEls_samePairs (s : State) (tid : Nat) (a : Machine.Acc) (aligned : Bool) (els : List (Nat × Nat)) :
    Gives (checkEls s tid a aligned els) (SamePairs s) := by
  induction els generalizing s with
  | nil => exact gives_ok (.refl s)
  | cons e r ih =>
    refine .ite (fun _ => gives_error _) fun _ => ?_
    exact (gives_atElem (checkBytes_samePairs s tid e.1 a e.2)).bind fun _ hp => fun t ht => hp.trans (ih _ t ht)

theorem loadElem_samePairs (s : State) (tid va n : Nat) : Gives (loadElem s tid va n) fun p => SamePairs s p.2 :=
  .ite (fun _ => loadVa_samePairs s tid va n false) fun _ => (loadBytes_samePairs s tid va n).bind fun _ hp => gives_ok hp

theorem loadEls_samePairs (s : State) (tid : Nat) (els : List (Nat × Nat × Nat)) :
    Gives (loadEls s tid els) fun p => SamePairs s p.2 := by
  induction els generalizing s with
  | nil => exact gives_ok (.refl s)
  | cons e r ih =>
    exact (loadElem_samePairs s tid e.2.1 e.2.2).bind fun _ hp => (ih _).bind fun _ hq => gives_ok (hp.trans hq)

theorem vStore_samePairs (s : State) (tid va : Nat) (bs : List Byte) : Gives (vStore s tid va bs) fun p => SamePairs s p.2 := by
  unfold vStore
  refine (placeOf_samePairs s tid va bs.length .wr false).bind ?_
  rintro ⟨p, t⟩ hp
  dsimp only
  split
  · exact gives_ok (hp.trans (noteStash_samePairs t tid va _ false))
  · exact gives_ok hp
  · exact gives_error _

theorem vStores_samePairs (s : State) (tid : Nat) (parts : List (Nat × List Byte)) :
    Gives (vStores s tid parts) fun p => SamePairs s p.2 := by
  induction parts generalizing s with
  | nil => exact gives_ok (.refl s)
  | cons x r ih => exact (vStore_samePairs s tid x.1 x.2).bind fun _ hp => (ih _).bind fun _ hq => gives_ok (hp.trans hq)

theorem beat_pair (t : Task) (now n : Nat) (l : Late) : (t.beat now n l).pair = t.pair := by
  rw [Task.beat]
  split <;> rfl

theorem vPush_samePairs (s : State) (tid n : Nat) (parts : List (Nat × List Byte)) :
    Gives (vPush s tid n parts) (SamePairs s) := by
  refine .ite (fun _ => gives_error _) fun _ => (vStores_samePairs s tid parts).bind fun p hp => gives_ok ?_
  exact hp.trans ((dropEarly_samePairs p.2 tid).trans (samePairs_modTask _ tid fun _ => beat_pair ..))

theorem setAcc_samePairs (s : State) (tid : Nat) (acc : VAcc) : SamePairs s (setAcc s tid acc) :=
  (samePairs_modTask s tid (f := (·.modR _))).trans (samePairs_modTask _ tid (f := (·.modR _)))

theorem nibbleBytes_samePairs (s : State) (tid : Nat) (p : Word) (vs : List (Nat × Nat)) (bs : List Nat) :
    Gives (nibbleBytes s tid p vs bs) fun p => SamePairs s p.2 := by
  induction bs generalizing s with
  | nil => exact gives_ok (.refl s)
  | cons b r ih =>
    have hold : Gives (loadVa s tid ((vaOf p + b) % 2^52) 1) fun p => SamePairs s p.2 :=
      loadVa_samePairs s tid _ 1 false
    unfold nibbleBytes
    dsimp only
    split
    · exact (ih s).bind fun _ hq => gives_ok hq
    · exact hold.bind fun _ hp => (ih _).bind fun _ hq => gives_ok (hp.trans hq)

theorem vStoreAll_samePairs (tid beats : Nat) (c : Claim) (r code : Nat) (els : List (Nat × Nat)) (s : State) :
    Gives (vStoreAll tid beats c r code els s) (SamePairs s) :=
  (vPush_samePairs s tid beats _).bind fun _ hp => gives_ok (hp.trans (setAcc_samePairs _ tid _))

end

end Sys2Proof.Proofs
end

section
namespace Sys2Proof.Proofs
open Sys2Proof.Machine Sys2Proof.Laws

/-! ### The pointers of vector loads and stores (R23, R131, R133) -/

/-- A pointer that a typed access takes: bits [54:52] are zero, and its format code names a format (R22, R23). -/
def PtrOk (p : Word) : Prop := p.toNat / 2^52 % 8 = 0 ∧ fmtOk (p.toNat / 2^58) (p.toNat / 2^55 % 8) = true

/-- And one whose elements lie alone in whole bytes (R133). -/
def PtrFlat (p : Word) : Prop := PtrOk p ∧ p.toNat / 2^58 ≤ 8 ∧ p.toNat / 2^58 ≠ 2

section
variable {p : Word}

theorem ptrL_eq (p : Word) : ptrL p = p.toNat / 2^55 % 8 := rfl

theorem checkTyped_ok (h : PtrOk p) (va : Nat) : checkTyped p va = .ok () := by
  obtain ⟨hbits, hfmt⟩ := h
  have hbad : ptrBad p = false := bne_eq_false_iff_eq.mpr hbits
  simp only [checkTyped, fmtBad, hbad, ptrFmt_eq, ptrL_eq, hfmt, bind, Except.bind, Bool.not_true, Bool.false_eq_true, if_false]
  rfl

theorem isScaled_flat (h : PtrFlat p) : isScaled (p.toNat / 2^58) = false := by
  obtain ⟨-, hle, -⟩ := h
  exact decide_eq_false (by omega)

theorem checkGather_ok (h : PtrFlat p) : checkGather p = .ok () := by
  simp only [checkGather, checkTyped_ok h.1, ptrFmt_eq, isScaled_flat h, h.2.2, bind, Except.bind, decide_false, Bool.or_self,
    Bool.false_eq_true, if_false]
  rfl

/-- The address at a distance from a pointer, modulo 2^52 (R101). -/
theorem vaOf_addrAdd_ofInt (p : Word) (o : Int) :
    vaOf (addrAdd p (BitVec.ofInt 64 o)) = (((p.toNat % 2^52 : Nat) + o) % 2^52).toNat := by
  rw [vaOf_eq, addrAdd_eq_ofNat, BitVec.toNat_ofNat, BitVec.toNat_ofInt]
  omega

end

/-- What comes after a step that gives `x`. -/
theorem bind_of_ok {A B : Type} {x : M A} {k : A → M B} {a : A} (h : x = .ok a) : (x >>= k) = k a := by
  rw [h]; rfl

/-- And after one that stops. -/
theorem bind_of_error {A B : Type} {x : M A} {k : A → M B} {e : Stop} (h : x = .error e) : (x >>= k) = .error e := by
  rw [h]; rfl

/-! ### Loads (R131-R133) -/

section
variable {s s1 s2 s3 : State} {tid len d a b m k : Nat} {c : Claim} {off p : Word} {vs : List (Nat × Nat)}

theorem opens_src_vec {rs : List Nat} (hs : Issuing s tid) (ha : Names1 s tid a) (hr : ∀ q ∈ rs, Ready s tid (128 + q))
    (hk : Ready s tid (144 + k)) : Opens s tid (.src a :: vOpds rs m k) :=
  ⟨hs, List.forall_mem_cons.mpr ⟨ha, fits_vOpds hr hk⟩⟩

theorem pair_vLoadWrite (tid d : Nat) (p : Word) (vs : List (Nat × Nat)) (s : State) :
    ((vLoadWrite tid d p vs s).task tid).pair = (s.task tid).pair := pair_vecWrite ..

/-- Elements that pass their checks and are read leave the thread unpaired. -/
theorem pair_loadEls {acc : Machine.Acc} {aligned : Bool} {cs : List (Nat × Nat)} {els : List (Nat × Nat × Nat)} (hs : Issuing s tid)
    (hch : checkEls s tid acc aligned cs = .ok s1) (hl : loadEls s1 tid els = .ok (vs, s2)) : (s2.task tid).pair = none :=
  ((checkEls_samePairs s tid acc aligned cs _ hch).trans (loadEls_samePairs s1 tid els _ hl) tid).trans (pair_of_issuing hs)

theorem issue_loaded {ops : List Opd} {body : Nat → State → M State} {n : Nat} (h : Opens s tid ops)
    (hn : (s2.task tid).pair = none)
    (hb : body tid s = .ok ((vLoadWrite tid d p vs s2.free.2).beat tid n s2.free.1 [128 + d])) :
    issue len .plain ops body s =
      .next (after ((vLoadWrite tid d p vs s2.free.2).beat tid n s2.free.1 [128 + d]) tid (·.skip len)) :=
  issue_ok (k := .plain) h nofun hb (by rw [pair_beat, pair_vLoadWrite]; exact hn)

theorem vldOp_loads {els : List (Nat × Nat × Nat)} (hs : Issuing s tid) (ha : Names1 s tid a) (hc : (s.task tid).claim = some c)
    (hd : Ready s tid (128 + d)) (hk : Ready s tid (144 + k)) (hp : addrAdd (Reads s tid a) off = p) (hok : PtrOk p)
    (hels : (c.active m k).map (fun j => (j, vAddr p j, vSpan p)) = els)
    (hch : checkEls s tid .rd false (els.map (·.2)) = .ok s1) (hl : loadEls s1 tid els = .ok (vs, s2)) :
    vldOp len d a m k off s = .next (after ((vLoadWrite tid d p vs s2.free.2).beat tid
      (lineBeats c ((c.active m k).map (vPlace p))) s2.free.1 [128 + d]) tid (·.skip len)) := by
  refine issue_loaded (opens_src_vec hs ha (by simpa using hd) hk) (pair_loadEls hs hch hl) ?_
  subst hp hels
  exact (bind_of_ok (claimOf_some hc)).trans <| (bind_of_ok (readReg_names ha)).trans <| (bind_of_ok (checkTyped_ok hok _)).trans <|
    (bind_of_ok hch).trans (bind_of_ok hl)

/-- Elements at distances from a pointer, with their numbers (R133). -/
def atDist (p : Word) (act : List Nat) (dist : Nat → Int) : List (Nat × Nat) :=
  act.map fun j => (j, (((p.toNat % 2^52 : Nat) + dist j) % 2^52).toNat)

theorem atDist_eq (p : Word) (act : List Nat) (dist : Nat → Int) :
    (act.map fun i => (i, vaOf (addrAdd p (BitVec.ofInt 64 (dist i))))) = atDist p act dist := by
  simp only [vaOf_addrAdd_ofInt, atDist]

theorem length_atDist (p : Word) (act : List Nat) (dist : Nat → Int) : (atDist p act dist).length = act.length := List.length_map ..

theorem vgatherOp_loads {act : List Nat} {dist : Nat → Int} {els : List (Nat × Nat × Nat)} (hok : PtrFlat p)
    (hels : (atDist p act dist).map (fun e => (e.1, e.2, vElemSize (p.toNat / 2^58))) = els)
    (hch : checkEls s tid .rd true (els.map (·.2)) = .ok s1) (hl : loadEls s1 tid els = .ok (vs, s2)) :
    vgatherOp tid d c p act dist s =
      .ok ((vLoadWrite tid d p vs s2.free.2).beat tid (elemBeats c act.length) s2.free.1 [128 + d]) := by
  have hmodel : (act.map fun i => (i, vaOf (addrAdd p (BitVec.ofInt 64 (dist i))), vElemSize (ptrFmt p))) = els := by
    rw [← hels, ← atDist_eq, List.map_map, ptrFmt_eq]
    rfl
  have hlen : els.length = act.length := by rw [← hmodel, List.length_map]
  refine (bind_of_ok (checkGather_ok hok)).trans ?_
  rw [← hlen]
  subst hmodel
  exact (bind_of_ok hch).trans (bind_of_ok hl)

section
variable {d x : BitVec 4} {a b : BitVec 7} {m : BitVec 1} {k : BitVec 2} {els : List (Nat × Nat × Nat)}

theorem vlds_loads (hs : Issuing s tid) (ha : Names1 s tid a.toNat) (hb : Names1 s tid b.toNat) (hc : (s.task tid).claim = some c)
    (hd : Ready s tid (128 + d.toNat)) (hk : Ready s tid (144 + k.toNat)) (hok : PtrFlat (Reads s tid a.toNat))
    (hels : (atDist (Reads s tid a.toNat) (c.active m.toNat k.toNat) fun j => j * (Reads s tid b.toNat).toInt).map
      (fun e => (e.1, e.2, vElemSize ((Reads s tid a.toNat).toNat / 2^58))) = els)
    (hch : checkEls s tid .rd true (els.map (·.2)) = .ok s1) (hl : loadEls s1 tid els = .ok (vs, s2)) :
    execVlds d a b m k s = .next (after ((vLoadWrite tid d.toNat (Reads s tid a.toNat) vs s2.free.2).beat tid
      (elemBeats c (c.active m.toNat k.toNat).length) s2.free.1 [128 + d.toNat]) tid (·.skip 4)) := by
  have hops : Opens s tid (.src a.toNat :: .src b.toNat :: vOpds [d.toNat] m.toNat k.toNat) :=
    ⟨hs, List.forall_mem_cons.mpr ⟨ha, (opens_src_vec hs hb (by simpa using hd) hk).2⟩⟩
  exact issue_loaded hops (pair_loadEls hs hch hl) <| (bind_of_ok (claimOf_some hc)).trans <|
    (bind_of_ok (readReg_names ha)).trans <| (bind_of_ok (readReg_names hb)).trans (vgatherOp_loads hok hels hch hl)

theorem vgath_loads (hs : Issuing s tid) (ha : Names1 s tid a.toNat) (hc : (s.task tid).claim = some c)
    (hd : Ready s tid (128 + d.toNat)) (hx : Ready s tid (128 + x.toNat)) (hk : Ready s tid (144 + k.toNat))
    (hok : PtrFlat (Reads s tid a.toNat))
    (hels : (atDist (Reads s tid a.toNat) (c.active m.toNat k.toNat) fun j =>
      (c.el x.toNat j).toInt * vElemSize ((Reads s tid a.toNat).toNat / 2^58)).map
      (fun e => (e.1, e.2, vElemSize ((Reads s tid a.toNat).toNat / 2^58))) = els)
    (hch : checkEls s tid .rd true (els.map (·.2)) = .ok s1) (hl : loadEls s1 tid els = .ok (vs, s2)) :
    execVgath d a x m k s = .next (after ((vLoadWrite tid d.toNat (Reads s tid a.toNat) vs s2.free.2).beat tid
      (elemBeats c (c.active m.toNat k.toNat).length) s2.free.1 [128 + d.toNat]) tid (·.skip 4)) := by
  refine issue_loaded (opens_src_vec (rs := [d.toNat, x.toNat]) hs ha (by simpa using ⟨hd, hx⟩) hk) (pair_loadEls hs hch hl) <|
    (bind_of_ok (claimOf_some hc)).trans <| (bind_of_ok (readReg_names ha)).trans ?_
  dsimp only
  rw [ptrFmt_eq]
  exact vgatherOp_loads hok hels hch hl

end

end

/-! ### Stores (R131-R134) -/

section
variable {s s1 s2 s3 : State} {tid len n r a m k code : Nat} {c : Claim} {off p : Word} {els : List (Nat × Nat)}

theorem issue_stored {ops : List Opd} {body : Nat → State → M State} (h : Opens s tid ops) (hsame : SamePairs s s2)
    (hb : body tid s = .ok s2) : issue len .plain ops body s = .next (after s2 tid (·.skip len)) :=
  issue_ok (k := .plain) h nofun hb ((hsame tid).trans (pair_of_issuing h.1))

/-- VST of elements that lie alone in whole bytes. -/
theorem vstOp_flat (hs : Issuing s tid) (ha : Names1 s tid a) (hc : (s.task tid).claim = some c) (hr : Ready s tid (128 + r))
    (hk : Ready s tid (144 + k)) (hp : addrAdd (Reads s tid a) off = p) (hok : PtrFlat p) (hcode : p.toNat / 2^58 = code)
    (hels : (c.active m k).map (fun i => (i, vAddr p i)) = els)
    (hn : lineBeats c ((c.active m k).map fun j => (vAddr p j, vElemSize code)) = n)
    (hch : checkEls s tid .wr false (els.map fun e => (e.2, vElemSize code)) = .ok s1)
    (hst : vStoreAll tid n c r code els s1 = .ok s2) :
    vstOp len r a m k off s = .next (after s2 tid (·.skip len)) := by
  have hsame := (checkEls_samePairs _ _ _ _ _ _ hch).trans (vStoreAll_samePairs _ _ _ _ _ _ _ _ hst)
  have hscaled : ¬ isScaled (ptrFmt p) = true := by rw [ptrFmt_eq, isScaled_flat hok]; exact Bool.false_ne_true
  have htwo : ¬ ptrFmt p = 2 := by rw [ptrFmt_eq]; exact hok.2.2
  have hn' : lineBeats c (els.map fun e => (e.2, vElemSize code)) = n := by
    rw [← hn, ← hels, List.map_map]
    rfl
  rw [← ptrFmt_eq] at hcode
  subst hp hcode hels hn'
  refine issue_stored (opens_src_vec hs ha (by simpa using hr) hk) hsame <| (bind_of_ok (claimOf_some hc)).trans <|
    (bind_of_ok (readReg_names ha)).trans <| (bind_of_ok (checkTyped_ok hok.1 _)).trans <| (if_neg hscaled).trans ?_
  rw [if_neg htwo]
  exact (bind_of_ok hch).trans ((if_neg htwo).trans hst)

/-- VST of nibbles: bytes of an INT4 array are read and written back whole (R131). -/
theorem vstOp_packed {parts : List (Nat × List Byte)} (hs : Issuing s tid) (ha : Names1 s tid a) (hc : (s.task tid).claim = some c)
    (hr : Ready s tid (128 + r)) (hk : Ready s tid (144 + k)) (hp : addrAdd (Reads s tid a) off = p) (hok : PtrOk p)
    (hcode : p.toNat / 2^58 = 2) (hch : checkEls s tid .rw false ((c.active m k).map fun j => (vAddr p j, 1)) = .ok s1)
    (hnib : nibbleBytes s1 tid p ((c.active m k).map fun j => (j, (c.el r j).toNat % 16)) (((c.active m k).map (· / 2)).eraseDups) =
      .ok (parts, s2))
    (hpush : vPush s2 tid (lineBeats c ((c.active m k).map fun j => (vAddr p j, 1))) parts = .ok s3) :
    vstOp len r a m k off s = .next (after s3 tid (·.skip len)) := by
  have hsame := (checkEls_samePairs _ _ _ _ _ _ hch).trans
    ((nibbleBytes_samePairs _ _ _ _ _ _ hnib).trans (vPush_samePairs _ _ _ _ _ hpush))
  rw [← ptrFmt_eq] at hcode
  have hscaled : ¬ isScaled (ptrFmt p) = true := by rw [hcode]; exact Bool.false_ne_true
  have hmap : ((c.active m k).map fun i => (i, vAddr p i)).map (fun e => (e.2, vElemSize (ptrFmt p))) =
      (c.active m k).map fun j => (vAddr p j, 1) := by
    rw [hcode, List.map_map]
    rfl
  rw [← hmap] at hch hpush
  subst hp
  refine issue_stored (opens_src_vec hs ha (by simpa using hr) hk) hsame <| (bind_of_ok (claimOf_some hc)).trans <|
    (bind_of_ok (readReg_names ha)).trans <| (bind_of_ok (checkTyped_ok hok _)).trans <| (if_neg hscaled).trans ?_
  rw [if_pos hcode]
  exact (bind_of_ok hch).trans <| (if_pos hcode).trans <| (bind_of_ok hnib).trans hpush

theorem isScaled_of_le (h : 18 ≤ p.toNat / 2^58) : isScaled (ptrFmt p) = true := by
  rw [ptrFmt_eq]
  exact decide_eq_true h

/-- VST of whole records (R132). -/
theorem vstOp_scaled {l rm : Nat} {z : List (Nat × List Byte) × VAcc} (hs : Issuing s tid) (ha : Names1 s tid a)
    (hc : (s.task tid).claim = some c) (hr : Ready s tid (128 + r)) (hk : Ready s tid (144 + k))
    (hp : addrAdd (Reads s tid a) off = p) (hok : PtrOk p) (h18 : 18 ≤ p.toNat / 2^58) (hcode : p.toNat / 2^58 = code)
    (hl : p.toNat / 2^55 % 8 = l) (hrm : rmOf s tid 0 = rm) (hn : blockLen code l = n) (hvl : c.vl % n = 0) (hm : m = 0)
    (hrecs : vRecords c r code l rm (List.range (c.vl / n)) { fl := 0, seed := (s.task tid).r.srseed } = z)
    (hch : checkEls s tid .wr false ((List.range (c.vl / n)).map fun b => (vAddr p (n * b), vSpan p)) = .ok s1)
    (hpush : vPush s1 tid (lineBeats c ((c.active m k).map (vPlace p))) (z.1.flatMap fun e => splitBytes (vAddr p (n * e.1)) e.2) =
      .ok s2) :
    vstOp len r a m k off s = .next (after (setAcc s2 tid z.2) tid (·.skip len)) := by
  have hsame := (checkEls_samePairs _ _ _ _ _ _ hch).trans
    ((vPush_samePairs _ _ _ _ _ hpush).trans (setAcc_samePairs _ tid z.2))
  have hwhole : (c.vl % n == 0 && m == 0) = true := by rw [hvl, hm]; rfl
  have hscaled := isScaled_of_le h18
  rw [← ptrFmt_eq] at hcode
  rw [← ptrL_eq] at hl
  obtain ⟨recs, acc⟩ := z
  subst hp hcode hl hrm hn
  refine issue_stored (opens_src_vec hs ha (by simpa using hr) hk) hsame <| (bind_of_ok (claimOf_some hc)).trans <|
    (bind_of_ok (readReg_names ha)).trans <| (bind_of_ok (checkTyped_ok hok _)).trans <| (if_pos hscaled).trans <|
    (bind_of_ok (need_ok hwhole)).trans ?_
  -- the arm of the match stays as it is: the kernel compares two arms by computing what is matched
  conv_lhs => extract_lets -descend blocks
  rw [hrecs]
  exact (bind_of_ok hch).trans (bind_of_ok hpush)

/-- VST under a mask, or of a block in part, faults (R132). -/
theorem vstOp_broken {l : Nat} (hs : Issuing s tid) (ha : Names1 s tid a) (hc : (s.task tid).claim = some c)
    (hr : Ready s tid (128 + r)) (hk : Ready s tid (144 + k)) (hp : addrAdd (Reads s tid a) off = p) (hok : PtrOk p)
    (h18 : 18 ≤ p.toNat / 2^58) (hcode : p.toNat / 2^58 = code) (hl : p.toNat / 2^55 % 8 = l)
    (hb : c.vl % blockLen code l ≠ 0 ∨ m ≠ 0) :
    vstOp len r a m k off s = .next (faulted s tid len VEC_BLOCK 0) := by
  have hbroken : (c.vl % blockLen code l == 0 && m == 0) = false := by
    rwa [Bool.and_eq_false_iff, beq_eq_false_iff_ne, beq_eq_false_iff_ne]
  rw [← ptrFmt_eq] at hcode
  rw [← ptrL_eq] at hl
  subst hp hcode hl
  exact issue_trap (k := .plain) (opens_src_vec hs ha (by simpa using hr) hk) nofun <| (bind_of_ok (claimOf_some hc)).trans <|
    (bind_of_ok (readReg_names ha)).trans <| (bind_of_ok (checkTyped_ok hok _)).trans <| (if_pos (isScaled_of_le h18)).trans
    (bind_of_error (need_fault hbroken))

theorem vscat_flat {r x : BitVec 4} {a : BitVec 7} {m : BitVec 1} {k : BitVec 2} (hs : Issuing s tid) (ha : Names1 s tid a.toNat)
    (hc : (s.task tid).claim = some c) (hr : Ready s tid (128 + r.toNat)) (hx : Ready s tid (128 + x.toNat))
    (hk : Ready s tid (144 + k.toNat)) (hp : Reads s tid a.toNat = p) (hok : PtrFlat p) (hcode : p.toNat / 2^58 = code)
    (hels : (atDist p (c.active m.toNat k.toNat) fun j => (c.el x.toNat j).toInt * vElemSize code) = els)
    (hch : checkEls s tid .wr true (els.map fun e => (e.2, vElemSize code)) = .ok s1)
    (hst : vStoreAll tid (elemBeats c (c.active m.toNat k.toNat).length) c r.toNat code els s1 = .ok s2) :
    execVscat r a x m k s = .next (after s2 tid (·.skip 4)) := by
  have hsame := (checkEls_samePairs _ _ _ _ _ _ hch).trans (vStoreAll_samePairs _ _ _ _ _ _ _ _ hst)
  rw [← ptrFmt_eq] at hcode
  rw [← length_atDist p _ fun j => (c.el x.toNat j).toInt * vElemSize code, hels] at hst
  rw [← atDist_eq] at hels
  subst hp hcode hels
  exact issue_stored (opens_src_vec (rs := [r.toNat, x.toNat]) hs ha (by simpa using ⟨hr, hx⟩) hk) hsame <|
    (bind_of_ok (claimOf_some hc)).trans <| (bind_of_ok (readReg_names ha)).trans <| (bind_of_ok (checkGather_ok hok)).trans <|
    (bind_of_ok hch).trans hst

end

/-- Settles O32: loads by `issue_loaded`, stores by `issue_stored`, with what their elements' accesses give. -/
theorem vectorMemory : Obligations.VectorMemory := by
  intro s s1 s2 tid c d x a b m k i vs hs hn hc hd hx hk act r rm base ok flat lines each load store packed plain at1 at2 far near
  have ha : Names1 s tid a.toNat := hn _ (by simp)
  have hb : Names1 s tid b.toNat := hn _ (by simp)
  have hloads {len : Nat} {off : Word} (hok : PtrOk (addrAdd base off)) hch hl :=
    vldOp_loads (len := len) (s1 := s1) (s2 := s2) (vs := vs) (m := m.toNat) hs ha hc hd hk (off := off) rfl hok rfl hch hl
  have hstores {len : Nat} {off : Word} (hok : PtrFlat (addrAdd base off)) hch hst :=
    vstOp_flat (len := len) (s1 := s1) (s2 := s2) (m := m.toNat) hs ha hc hd hk (off := off) rfl hok rfl rfl rfl hch hst
  have hpacked {ins : Instr} {len : Nat} {off : Word} (hins : exec ins s = vstOp len d.toNat a.toNat m.toNat k.toNat off s) :
      packed ins len (addrAdd base off) := by
    refine ⟨fun hok hcode parts s3 hch hnib hpush => hins.trans (vstOp_packed hs ha hc hd hk rfl hok hcode hch hnib hpush), ?_⟩
    intro hok h18 n z
    refine ⟨fun hvl hm hch hpush => hins.trans (vstOp_scaled hs ha hc hd hk rfl hok h18 rfl rfl rfl rfl hvl ?_ rfl hch hpush),
      fun hb => hins.trans (vstOp_broken hs ha hc hd hk rfl hok h18 rfl rfl (hb.imp_right ?_))⟩
    · rw [hm]
      rfl
    · exact fun hne h0 => hne (BitVec.eq_of_toNat_eq h0)
  exact ⟨fun hok => hloads hok, fun hok => hloads hok,
    fun hok => ⟨vlds_loads hs ha hb hc hd hk hok rfl, vgath_loads hs ha hc hd hx hk hok rfl,
      vscat_flat hs ha hc hd hx hk rfl hok rfl rfl⟩,
    fun hok => hstores hok, fun hok => hstores hok, hpacked rfl, hpacked rfl⟩

end Sys2Proof.Proofs
end

section
namespace Sys2Proof.Proofs
open Sys2Proof.Machine Sys2Proof.Laws

/-! ### Tiles (R148, R168-R170) -/

section
variable {s : State} {cl ctx i j : Nat}

theorem tile_setTile (s : State) (cl i : Nat) (x : Tile) : (s.setTile cl i x).tile cl i = x := by
  simp only [State.tile, State.setTile, cluster_modCluster, mfind_mset, Option.getD_some]

theorem tile_setTile_ne (s : State) (cl : Nat) (x : Tile) (h : j ≠ i) : (s.setTile cl i x).tile cl j = s.tile cl j := by
  simp only [State.tile, State.setTile, cluster_modCluster, mfind_mset_ne _ _ h]

/-- A tile's change leaves the jobs alone. -/
theorem queuedOn_setTile (s : State) (cl i j : Nat) (x : Tile) : queuedOn (s.setTile cl i x) cl j = queuedOn s cl j := by
  simp only [queuedOn, State.setTile, cluster_modCluster]

theorem tileWord_free (h : (s.tile cl i).owner = none) : tileWord s cl ctx i = if (s.tile cl i).ty then 8 else 0 := by
  simp only [tileWord, h]
  split <;> rfl

theorem tileWord_own (h : (s.tile cl i).owner = some ctx) :
    tileWord s cl ctx i = BitVec.ofNat 64 (queuedOn s cl i * 2^8 + (if queuedOn s cl i = 0 then 0 else 16) +
      (if (s.tile cl i).ty then 8 else 0) + 1) := by
  simp only [tileWord, h, if_true]
  rfl

theorem tileWord_other {o : Nat} (h : (s.tile cl i).owner = some o) (ho : o ≠ ctx) : tileWord s cl ctx i = 2 := by
  simp only [tileWord, h, ho, if_false]

end

/-! ### The configuration of tiles (R168) -/

/-- A tile as MXCFG leaves it for a context: zero where it was free or INIT is set. -/
def configured (ctx : Nat) (c : Word) (x : Tile) : Tile :=
  { (if x.owner = none ∨ c.toNat / 2 % 2 = 1 then {} else x) with owner := some ctx, ty := decide (c.toNat % 2 = 1) }

/-- Tiles configured in turn. -/
def configuredAll (cl ctx : Nat) (c : Word) (ts : List Nat) (s : State) : State :=
  ts.foldl (fun s t => s.setTile cl t (configured ctx c (s.tile cl t))) s

section
variable {s : State} {cl ctx i : Nat} {ts : List Nat} {c : Word}

/-- A tile that MXCFG may give a context or leave with it. -/
def Configurable (s : State) (cl ctx t : Nat) : Prop :=
  (s.tile cl t).owner = none ∨ ((s.tile cl t).owner = some ctx ∧ queuedOn s cl t = 0)

theorem bits_reserved_iff (c : Word) : (bits c 63 2 == 0) = true ↔ c.toNat < 4 := by
  have := c.isLt
  rw [beq_iff_eq, bits]
  omega

theorem cfgTiles_reserved (h : 4 ≤ c.toNat) : cfgTiles s cl ctx ts c = .error (.trap MX_DESC 0) :=
  bind_of_error (need_fault (Bool.eq_false_iff.mpr fun hb => by have := (bits_reserved_iff c).mp hb; omega))

theorem cfgTiles_busy (hc : c.toNat < 4) (hi : i ∈ ts) (ho : (s.tile cl i).owner = some ctx) (hq : queuedOn s cl i ≠ 0) :
    cfgTiles s cl ctx ts c = .error (.trap TILE_BUSY 0) := by
  have hbusy : (ts.any fun t => (s.tile cl t).owner == some ctx && queuedOn s cl t != 0) = true :=
    List.any_eq_true.mpr ⟨i, hi, by simp [ho, hq]⟩
  refine (bind_of_ok (need_ok ((bits_reserved_iff c).mpr hc))).trans ?_
  simp only [hbusy, if_true]
  rfl

theorem cfgTiles_free (hc : c.toNat < 4) (h : ∀ t ∈ ts, Configurable s cl ctx t) :
    cfgTiles s cl ctx ts c = .ok (configuredAll cl ctx c ts s) := by
  have hbusy : (ts.any fun t => (s.tile cl t).owner == some ctx && queuedOn s cl t != 0) = false := by
    refine List.any_eq_false.mpr fun t ht => ?_
    obtain hn | ⟨-, hq⟩ := h t ht <;> simp [*]
  have hother : (ts.any fun t => !(s.tile cl t).owner == some ctx && (s.tile cl t).owner.isSome) = false := by
    refine List.any_eq_false.mpr fun t ht => ?_
    obtain hn | ⟨ho, -⟩ := h t ht <;> simp [*]
  refine (bind_of_ok (need_ok ((bits_reserved_iff c).mpr hc))).trans ?_
  simp only [hbusy, hother, configuredAll, configured, Option.isNone_iff_eq_none, bit, Bool.or_eq_true, beq_iff_eq,
    Bool.false_eq_true, if_false, pow_zero, pow_one, Nat.div_one]
  rfl

/-- Another context's tile stays as it is, and so do the rest. -/
theorem cfgTiles_other {o : Nat} (hc : c.toNat < 4) (ho : (s.tile cl i).owner = some o) (hne : o ≠ ctx) :
    cfgTiles s cl ctx [i] c = .ok s := by
  refine (bind_of_ok (need_ok ((bits_reserved_iff c).mpr hc))).trans ?_
  simp [ho, hne]

theorem configuredAll_cons (t : Nat) : configuredAll cl ctx c (t :: ts) s =
    configuredAll cl ctx c ts (s.setTile cl t (configured ctx c (s.tile cl t))) := rfl

theorem tile_configuredAll (hn : ts.Nodup) (s : State) : (configuredAll cl ctx c ts s).tile cl i =
    if i ∈ ts then configured ctx c (s.tile cl i) else s.tile cl i := by
  induction ts generalizing s with
  | nil => rfl
  | cons t ts ih =>
    obtain ⟨ht, hn⟩ := List.nodup_cons.mp hn
    rw [configuredAll_cons, ih hn]
    by_cases e : i = t
    · subst e
      simp [ht, tile_setTile]
    · simp [e, tile_setTile_ne]

theorem configuredAll_mem (ts : List Nat) (s : State) : (configuredAll cl ctx c ts s).mem = s.mem := by
  induction ts generalizing s with
  | nil => rfl
  | cons t ts ih => exact ih _

theorem configuredAll_tasks (ts : List Nat) (s : State) : (configuredAll cl ctx c ts s).tasks = s.tasks := by
  induction ts generalizing s with
  | nil => rfl
  | cons t ts ih => exact ih _

end

/-! ### Synchronisation points that write a destination (R41, R403) -/

section
variable {s s1 : State} {tid len d : Nat} {as : List Nat} {body : Nat → State → M State} {code : Code} {v : Word}

theorem opens_dst_srcs (hs : Issuing s tid) (hn : Names s tid (d :: as)) : Opens s tid (.dst d :: as.map .src) := by
  obtain ⟨hd, has⟩ := List.forall_mem_cons.mp hn
  exact ⟨hs, List.forall_mem_cons.mpr ⟨hd, List.forall_mem_map.mpr has⟩⟩

theorem issue_writtenSync (hs : Issuing s tid) (hn : Names s tid (d :: as)) (hp : SamePairs s s1)
    (hb : body tid s = writeReg s1 tid d v) :
    issue len .sync (.dst d :: as.map .src) body s = .next (writtenSync s1 tid d len v) :=
  issue_put (k := .sync) (opens_dst_srcs hs hn) nofun (hn d (List.mem_cons_self ..)) hb ((hp tid).trans (pair_of_issuing hs))

theorem issue_faultedSync (hs : Issuing s tid) (hn : Names s tid (d :: as)) (hb : body tid s = .error (.trap code v)) :
    issue len .sync (.dst d :: as.map .src) body s = .next (faulted s tid len code v) :=
  issue_trap (k := .sync) (opens_dst_srcs hs hn) nofun hb

end

/-! ### MXCFG, TREL and MXSTAT -/

section
variable {s s1 : State} {tid cl ctx i : Nat} {d a b : BitVec 7} {m : BitVec 16} {code : Code} {v : Word}
variable (hs : Issuing s tid) (hcl : (s.task tid).core / 8 = cl) (hctx : (s.task tid).ctx = ctx)
include hs hcl hctx

section
variable (hn : Names s tid [d.toNat, a.toNat, b.toNat]) (hi : bits (Reads s tid a.toNat) 3 0 = i)
include hn hi

theorem mxcfg_configures (ht : s1.tasks = s.tasks) (h : cfgTiles s cl ctx [i] (Reads s tid b.toNat) = .ok s1) :
    execMxcfg d a b s = .next (writtenSync s1 tid d.toNat 4 (tileWord s1 cl ctx i)) := by
  subst hi hcl hctx
  exact issue_writtenSync hs hn (samePairs_of_tasks ht) <| (bind_of_ok (readReg_names (hn _ (by simp)))).trans <|
    (bind_of_ok (readReg_names (hn _ (by simp)))).trans (bind_of_ok h)

theorem mxcfg_faults (h : cfgTiles s cl ctx [i] (Reads s tid b.toNat) = .error (.trap code v)) :
    execMxcfg d a b s = .next (faulted s tid 4 code v) := by
  subst hi hcl hctx
  exact issue_faultedSync hs hn <| (bind_of_ok (readReg_names (hn _ (by simp)))).trans <|
    (bind_of_ok (readReg_names (hn _ (by simp)))).trans (bind_of_error h)

end

section
variable (hn : Names s tid [d.toNat, b.toNat])
include hn

theorem mxcfgLong_configures (ht : s1.tasks = s.tasks)
    (h : cfgTiles s cl ctx ((List.range 16).filter fun i => m.getLsbD i) (Reads s tid b.toNat) = .ok s1) :
    execMxcfgLong d b m s = .next (writtenSync s1 tid d.toNat 8 (BitVec.ofNat 64 (ownMask s1 cl ctx))) := by
  subst hcl hctx
  exact issue_writtenSync hs hn (samePairs_of_tasks ht) ((bind_of_ok (readReg_names (hn _ (by simp)))).trans (bind_of_ok h))

theorem mxcfgLong_faults
    (h : cfgTiles s cl ctx ((List.range 16).filter fun i => m.getLsbD i) (Reads s tid b.toNat) = .error (.trap code v)) :
    execMxcfgLong d b m s = .next (faulted s tid 8 code v) := by
  subst hcl hctx
  exact issue_faultedSync hs hn ((bind_of_ok (readReg_names (hn _ (by simp)))).trans (bind_of_error h))

end

section
variable (hn : Names s tid [d.toNat, a.toNat]) (hi : bits (Reads s tid a.toNat) 3 0 = i)
include hn hi

theorem trel_releases (ho : (s.tile cl i).owner = some ctx) (hq : queuedOn s cl i = 0) :
    execTrel d a s = .next (writtenSync (s.setTile cl i {}) tid d.toNat 4 0) := by
  have hfree : tileWord (s.setTile cl i {}) cl ctx i = 0 := by rw [tileWord_free (by rw [tile_setTile]), tile_setTile]; rfl
  subst hi hcl hctx
  refine issue_writtenSync hs hn (.refl s) ((bind_of_ok (readReg_names (hn _ (by simp)))).trans ?_)
  simp [clOfCore, ho, hq, hfree]

theorem trel_busy (ho : (s.tile cl i).owner = some ctx) (hq : queuedOn s cl i ≠ 0) :
    execTrel d a s = .next (faulted s tid 4 TILE_BUSY 0) := by
  subst hi hcl hctx
  refine issue_faultedSync hs hn ((bind_of_ok (readReg_names (hn _ (by simp)))).trans ?_)
  simp [clOfCore, ho, hq, fault]
  rfl

theorem trel_other (ho : (s.tile cl i).owner ≠ some ctx) :
    execTrel d a s = .next (writtenSync s tid d.toNat 4 (tileWord s cl ctx i)) := by
  subst hi hcl hctx
  refine issue_writtenSync hs hn (.refl s) ((bind_of_ok (readReg_names (hn _ (by simp)))).trans ?_)
  simp [clOfCore, ho]

end

/-- MXSTAT changes nothing but its destination. -/
theorem mxstat_reads (hn : Names s tid [d.toNat, a.toNat]) (sel : BitVec 7) : execMxstat d a sel s =
    .next (writtenSync s tid d.toNat 4 (mxstatWord s cl ctx sel.toNat (Reads s tid a.toNat))) := by
  subst hcl hctx
  exact issue_writtenSync hs hn (.refl s) (bind_of_ok (readReg_names (hn _ (by simp))))

end

/-- Settles O33: `cfgTiles`'s outcomes decide MXCFG, and the tile state word is read from what they leave. -/
theorem matrixTiles : Obligations.MatrixTiles := by
  intro s tid d a b m hs hn ctx cl c i tile q own word made stall
  have hda : Names s tid [d.toNat, a.toNat] := fun n h => hn n (by simp only [List.mem_cons] at h ⊢; tauto)
  have hdb : Names s tid [d.toNat, b.toNat] := fun n h => hn n (by simp only [List.mem_cons] at h ⊢; tauto)
  have hi : bits (Reads s tid a.toNat) 3 0 = i := bits_zero_lo _ 3
  have hword : tileWord s cl ctx i = word := by
    rcases ho : tile.owner with _ | o
    · exact (tileWord_free ho).trans (by simp only [word, ho]; rfl)
    · by_cases e : o = ctx
      · subst e
        exact (tileWord_own ho).trans (by simp only [word, ho, if_true]; rfl)
      · exact (tileWord_other ho e).trans (by simp only [word, ho, if_neg e])
  have hfault {code : Code} := mxcfg_faults (code := code) (v := 0) hs rfl rfl hn hi
  have hstat := mxstat_reads hs rfl rfl hda
  refine ⟨fun hc ho => ?_, fun hc ⟨o, ho, hne⟩ => ?_,
    fun hc => ⟨hfault (cfgTiles_reserved hc), mxcfgLong_faults hs rfl rfl hdb (cfgTiles_reserved hc)⟩,
    fun hc ho hq => ⟨hfault (cfgTiles_busy hc (List.mem_singleton_self i) ho hq), trel_busy hs rfl rfl hda hi ho hq⟩,
    trel_releases hs rfl rfl hda hi, fun ho => ?_, fun hc hall => ?_, ?_, hstat 1, hstat 2, hstat 3, hstat 4⟩
  · have hmade : (s.setTile cl i (made tile)).tile cl i = made tile := tile_setTile ..
    have hw : tileWord (s.setTile cl i (made tile)) cl ctx i = own (made tile).ty := by
      rw [tileWord_own (by rw [hmade]), queuedOn_setTile, hmade]
    have hcfg := cfgTiles_free hc (List.forall_mem_singleton.mpr ho)
    refine (mxcfg_configures hs rfl rfl hn hi (configuredAll_tasks _ _) hcfg).trans ?_
    exact congrArg (fun v => Host.Outcome.next (writtenSync (s.setTile cl i (made tile)) tid d.toNat 4 v)) hw
  · refine (mxcfg_configures hs rfl rfl hn hi rfl (cfgTiles_other hc ho hne)).trans ?_
    rw [tileWord_other ho hne]
  · rw [← hword]
    exact trel_other hs rfl rfl hda hi ho
  · refine ⟨_, mxcfgLong_configures hs rfl rfl hdb (configuredAll_tasks _ _) (cfgTiles_free hc ?_), configuredAll_mem _ _,
      fun k => by simp only [State.task, configuredAll_tasks], fun j hj => ?_⟩
    · intro t ht
      rw [List.mem_filter, List.mem_range] at ht
      exact hall t ht.1 ht.2
    · rw [tile_configuredAll (List.nodup_range.filter _)]
      simp only [List.mem_filter, List.mem_range, hj, true_and]
      rfl
  · rw [← hword, ← hi]
    exact hstat 0

end Sys2Proof.Proofs
end

section
namespace Sys2Proof.Proofs
open Sys2Proof.Machine Sys2Proof.Laws

/-! ### What a thread's plain loads leave of the threads (R216, R242, R409)

`SamePairs` says it of pairs alone; an instruction that reads its operands from memory goes on with the registers, the core and
the context that its thread had. -/

/-- A thread but for what loads note of themselves: values read early, and its count of recorded events. -/
def unnoted (t : Task) : Task := { t with early := [], ordinal := 0 }

/-- Every thread is as it was but for such notes. -/
def SameButNotes (s t : State) : Prop := ∀ k, unnoted (t.task k) = unnoted (s.task k)

section
variable {s t u : State}

theorem SameButNotes.refl (s : State) : SameButNotes s s := fun _ => rfl

theorem SameButNotes.trans (h : SameButNotes s t) (h' : SameButNotes t u) : SameButNotes s u := fun k => (h' k).trans (h k)

theorem SameButNotes.ite {c : Prop} [Decidable c] (h : SameButNotes s t) (h' : SameButNotes s u) :
    SameButNotes s (if c then t else u) :=
  iteInduction (fun _ => h) (fun _ => h')

theorem sameButNotes_of_tasks (h : t.tasks = s.tasks) : SameButNotes s t := fun k => by simp only [State.task, h]

theorem sameButNotes_modTask (s : State) (tid : Nat) {f : Task → Task}
    (h : ∀ x, unnoted (f x) = unnoted x := by exact fun _ => rfl) : SameButNotes s (s.modTask tid f) := fun k => by
  by_cases e : k = tid
  · rw [e, task_modTask, h]
  · rw [task_modTask_ne s f e]

/-- What is no such note is as it was. -/
theorem SameButNotes.field (h : SameButNotes s t) {A : Type} (f : Task → A) (k : Nat)
    (hf : ∀ x, f (unnoted x) = f x := by exact fun _ => rfl) : f (t.task k) = f (s.task k) := by
  rw [← hf, h k, hf]

theorem SameButNotes.pairs (h : SameButNotes s t) : SamePairs s t := h.field Task.pair

end

-- One proof after another: side by side they wait for each other on threads of their own, whose stacks are more memory than the
-- whole text in one process has left.
section
set_option Elab.async false
variable {s : State} {tid va dpa n k : Nat} {a : Machine.Acc}

theorem xlPlace_tasks (s : State) (tid va : Nat) (a : Machine.Acc) : Gives (xlPlace s tid va a) fun p => p.2.tasks = s.tasks := by
  have h := work_tasks (work_xlThread s tid va a)
  unfold xlPlace xlPlaceAt
  dsimp only
  split
  case h_1 e | h_2 e | h_3 e => exact gives_ok (by rwa [e] at h)
  all_goals exact gives_error _

theorem placeOf_tasks (s : State) (tid va n : Nat) (a : Machine.Acc) (door : Bool) :
    Gives (placeOf s tid va n a door) fun p => p.2.tasks = s.tasks := by
  unfold placeOf
  extract_lets t cl last
  have hlast : ∀ p : Place × State, p.2.tasks = s.tasks → Gives (last p) fun q => q.2.tasks = s.tasks := fun p hp => by
    simp only [last]
    split
    · exact .ite (fun _ => gives_error _) fun _ => .ite (fun _ => gives_error _) fun _ => gives_ok hp
    · exact gives_ok hp
  refine .ite (fun _ => ?_) fun _ => (xlPlace_tasks s tid va a).bind hlast
  split
  · split
    · exact .bind_any fun _ => gives_error _
    · exact gives_error _
  · refine .bind_any fun _ => ?_
    split
    · exact (xlPlace_tasks s tid _ a).bind hlast
    · exact Gives.bind (P := fun p => p.2.tasks = s.tasks) (gives_ok rfl) hlast

theorem noteStash_tasks (s : State) (tid va dpa : Nat) (load : Bool) : (noteStash s tid va dpa load).tasks = s.tasks := by
  unfold noteStash
  split <;> rfl

theorem l1Fill_tasks (s : State) (k dpa : Nat) (e : Word) : (l1Fill s k dpa e).tasks = s.tasks := by
  unfold l1Fill
  split <;> rfl

theorem peerTaken_tasks {t : State} {who : Nat × Nat} {kind dpa len : Nat} (h : peerTaken s who kind dpa len = some t) :
    t.tasks = s.tasks := by
  unfold peerTaken at h
  split at h
  · obtain rfl := Option.some.inj h
    dsimp only
    split <;> rfl
  · cases h

theorem recordEv_tasks (s : State) (l : Option Nat) (die kind ord : Nat) (w w' : Word) :
    (recordEv s l die kind ord w w').tasks = s.tasks := by
  unfold recordEv recordAt
  split
  · rfl
  · split <;> rfl

theorem takeTask_sameButNotes (s : State) (tid kind : Nat) (v : Word) :
    Gives (takeTask s tid kind v) fun p => SameButNotes s p.2 := by
  unfold takeTask
  dsimp only
  split
  · exact gives_ok (.refl s)
  · split
    · exact gives_ok ((sameButNotes_of_tasks (recordEv_tasks ..)).trans (sameButNotes_modTask _ tid))
    · refine .ite (fun _ => gives_error _) fun _ => ?_
      split
      · exact gives_error _
      · exact gives_ok ((sameButNotes_modTask s tid (f := fun t => { t with ordinal := t.ordinal + 1 })).trans
          (sameButNotes_of_tasks (modLaunch_tasks ..)))
    · exact gives_ok (.refl s)

theorem dropEarly_sameButNotes (s : State) (tid : Nat) : SameButNotes s (dropEarly s tid) :=
  .ite (.refl s) (sameButNotes_modTask s tid)

theorem loadedNow_sameButNotes (s : State) (tid dpa n : Nat) : SameButNotes s (loadedNow s tid dpa n) :=
  .ite (.refl s) (sameButNotes_modTask s tid)

theorem loadMem_sameButNotes (s : State) (tid dpa n : Nat) (e : Word) (plain : Bool) :
    Gives (loadMem s tid dpa n e plain) fun p => SameButNotes s p.2 := by
  unfold loadMem
  dsimp only
  refine .ite (fun _ => gives_ok (.refl s)) fun _ => .ite (fun _ => gives_error _) fun _ => ?_
  split
  · exact gives_ok (sameButNotes_modTask s tid)
  refine .ite (fun _ => gives_ok (loadedNow_sameButNotes s tid dpa n)) fun _ => .ite (fun _ => ?_) fun _ => ?_
  · split
    · split <;> exact gives_error _
    · exact waitTok_gives s _ _ _
  · split
    · exact gives_error _
    · next t h =>
      have ht : t.tasks = s.tasks := by
        split at h
        · exact peerTaken_tasks h
        · obtain rfl := Option.some.inj h
          rfl
      refine gives_ok (.trans (sameButNotes_of_tasks ?_) (loadedNow_sameButNotes _ tid dpa n))
      split
      · exact (work_tasks (work_returnHome ..)).trans ht
      · exact (l1Fill_tasks t _ dpa e).trans ht

theorem loadWin_sameButNotes (s : State) (tid k o n : Nat) : Gives (loadWin s tid k o n) fun p => SameButNotes s p.2 :=
  .ite (fun _ => gives_ok (.refl s)) fun _ => .ite (fun _ => gives_error _) fun _ => gives_ok (dropEarly_sameButNotes s tid)

theorem loadPlace_sameButNotes (s : State) (tid : Nat) (p : Place) (va n : Nat) (poisonOk plain : Bool) :
    Gives (loadPlace s tid p va n poisonOk plain) fun q => SameButNotes s q.2 := by
  unfold loadPlace
  split
  · exact gives_ok (.refl s)
  · exact .ite (fun _ => gives_ok (.refl s)) fun _ => gives_error _
  · refine .ite (fun _ => gives_error _) fun _ => ?_
    split
    · exact gives_error _
    · next h =>
      have ht := (sameButNotes_of_tasks (noteStash_tasks s tid va _ true)).trans (loadMem_sameButNotes _ _ _ _ _ _ _ h)
      split
      · exact .ite (fun _ => gives_ok ht) fun _ => gives_error _
      · exact gives_ok ht
  · split
    · exact gives_error _
    · next h =>
      have ht := loadWin_sameButNotes _ _ _ _ _ _ h
      split
      · exact .ite (fun _ => gives_ok ht) fun _ => gives_error _
      · exact gives_ok ht

/-- An unpaired thread's load is its own (R403). -/
theorem loadVa_sameButNotes (h : (s.task tid).pair = none) (va n : Nat) (plain : Bool) :
    Gives (loadVa s tid va n plain) fun p => SameButNotes s p.2 := by
  have hown : loadVa s tid va n plain = loadOnce s tid va n plain := if_pos (by rw [h]; rfl)
  rw [hown, loadOnce]
  refine (placeOf_tasks s tid va n .rd false).bind ?_
  rintro ⟨p, t⟩ hp
  refine (loadPlace_sameButNotes t tid p va n false plain).bind ?_
  rintro ⟨bs, u⟩ hq
  have hs := (sameButNotes_of_tasks hp).trans hq
  dsimp only
  split
  · exact .ite (fun _ => (takeTask_sameButNotes u tid 5 _).bind fun _ hr => gives_ok (hs.trans hr)) fun _ => gives_ok hs
  · exact gives_ok hs

theorem outsideNat_unpaired (h : (s.task tid).pair = none) (m : M (Nat × State)) : outsideNat s tid m = m := by
  simp only [outsideNat, outside, h]
  cases m <;> rfl

theorem loadDoor_tasks (s : State) (tid va dpa : Nat) : Gives (loadDoor s tid va dpa) fun p => p.2.tasks = s.tasks := by
  unfold loadDoor
  dsimp only
  split
  · exact .ite (fun _ => .ite (fun _ => gives_error _) fun _ => gives_ok rfl) fun _ => gives_error _
  · exact gives_error _

theorem loadAny_sameButNotes (h : (s.task tid).pair = none) (va n : Nat) :
    Gives (loadAny s tid va n) fun p => SameButNotes s p.2 := by
  have hva := loadVa_sameButNotes h va n true
  refine .ite (fun _ => hva) fun _ => ?_
  split
  · next s' e =>
    refine .ite (fun _ => ?_) fun _ => hva
    rw [outsideNat_unpaired h]
    exact fun p hp => sameButNotes_of_tasks ((loadDoor_tasks s' tid va _ p hp).trans (xlPlace_tasks s tid va .rd _ e))
  · exact hva
  · exact gives_error _

/-- The words of a descriptor (R264). -/
theorem loadWords_sameButNotes (h : (s.task tid).pair = none) (va n : Nat) :
    Gives (loadWords s tid va n) fun p => SameButNotes s p.2 := by
  induction n generalizing s va with
  | zero => exact gives_ok (.refl s)
  | succ n ih =>
    exact (loadAny_sameButNotes h va 8).bind fun p hp =>
      (ih ((hp.pairs tid).trans h) _).bind fun _ hq => gives_ok (hp.trans hq)

end

/-! ### Descriptors (R164) -/

section
variable {s s1 : State} {tid : Nat} {ws : List Word}

theorem descAt_loads {a : Nat} (ha : Names1 s tid a) (hp : (Reads s tid a).toNat / 2^52 % 8 = 0)
    (h8 : (Reads s tid a).toNat % 8 = 0)
    (hl : loadWords s tid ((Reads s tid a).toNat % 2^52) 4 = .ok (ws, s1)) : descAt s tid a = .ok (ws, s1) :=
  (bind_of_ok (plainAddr_zero ha hp (by omega))).trans hl

theorem readRegs_names {ns : List Nat} (h : Names s tid ns) : readRegs s tid ns = .ok (ns.map (Reads s tid), s) := by
  induction ns with
  | nil => rfl
  | cons n ns ih =>
    obtain ⟨hn, hns⟩ := List.forall_mem_cons.mp h
    exact (bind_of_ok (readReg_names hn)).trans (bind_of_ok (ih hns))

/-- Fields read as before where loads have come between. -/
theorem reads_sameButNotes (h : SameButNotes s s1) (n : Nat) : Reads s1 tid n = Reads s tid n := by
  simp only [Reads, State.g, h.field Task.r tid]

/-- What names a register or zr in one state does so in another. -/
theorem readReg_names_of {n : Nat} (h : Names1 s tid n) (s1 : State) : readReg s1 tid n = .ok (Reads s1 tid n, s1) := by
  obtain ⟨h, -⟩ | rfl := h
  · simp [readReg, Reads, h]
  · simp [readReg, Reads, QA, QB, MP, EP, CT]

end

/-! ### What accepting a job leaves alone (R149, R292) -/

section
variable {s t : State} {l : Option Nat} {cl : Nat}

theorem allocFut_tasks {ctx : Nat} {prod : Prod} {h : Word} (e : allocFut s.fresh.2 cl ctx l prod = .got h t) :
    t.tasks = s.tasks := by
  unfold allocFut at e
  dsimp only at e
  split at e
  · split at e <;> cases e
  · cases e
    rfl

theorem recordEv_cluster (s : State) (l : Option Nat) (die kind ord : Nat) (w w' : Word) (k : Nat) :
    (recordEv s l die kind ord w w').cluster k = s.cluster k := by
  unfold recordEv recordAt
  split
  · rfl
  · split <;> rfl

theorem takeTurn_tasks (s : State) (l : Option Nat) (die kind : Nat) (w ident : Word) (place : Nat) :
    (takeTurn s l die kind w ident place).tasks = s.tasks := by
  unfold takeTurn
  split
  · rfl
  · split
    · rfl
    · exact modLaunch_tasks ..

theorem takeTurn_cluster (s : State) (l : Option Nat) (die kind : Nat) (w ident : Word) (place k : Nat) :
    (takeTurn s l die kind w ident place).cluster k = s.cluster k := by
  unfold takeTurn
  split
  · rfl
  · split
    · rfl
    · simp only [State.cluster, modLaunch_clusters, modLaunch_cycle]

theorem mxAccept_tasks (s : State) (cl : Nat) (j : Job) (ident : Word) : (mxAccept s cl j ident).tasks = s.tasks :=
  (takeTurn_tasks ..).trans (recordEv_tasks ..)

/-- An accepted job stands last in its MXE's queue. -/
theorem mxAccept_jobs (s : State) (cl : Nat) (j : Job) (ident : Word) :
    ∃ n, ((mxAccept s cl j ident).cluster cl).jobs = (s.cluster cl).jobs ++ [{ j with acc := n }] := by
  simp only [mxAccept, cluster_modCluster, takeTurn_cluster, recordEv_cluster]
  exact ⟨_, rfl⟩

end

/-! ### A thread's submission (R157, R163-R165) -/

/-- The state once a thread's submission has used its launch time and, under SR, a step of its generator. -/
def submitted (s : State) (tid : Nat) (draws : Bool) : State := (takeAtset (if draws then srStep s tid else (0, s)).2 tid).2

section
variable {s s2 : State} {tid cl ctx d : Nat} {l : Option Nat} {w0 w1 w2 w3 h cap : Word}

theorem submitted_r (s : State) (tid : Nat) (draws : Bool) : ((submitted s tid draws).task tid).r = { (s.task tid).r with
    srseed := if draws then srNext (s.task tid).r.srseed else (s.task tid).r.srseed, atset := 0 } := by
  cases draws <;> simp [submitted, takeAtset, srStep]

theorem submitted_samePairs (s : State) (tid : Nat) (draws : Bool) : SamePairs s (submitted s tid draws) := by
  cases draws
  · exact samePairs_modTask s tid
  · exact (samePairs_modTask s tid (f := (·.modR _))).trans (samePairs_modTask _ tid (f := (·.modR _)))

theorem submitted_cluster (s : State) (tid : Nat) (draws : Bool) (k : Nat) :
    (submitted s tid draws).cluster k = s.cluster k := by
  cases draws <;> rfl

theorem submitted_net (s : State) (tid : Nat) (draws : Bool) : (submitted s tid draws).net = s.net := by
  cases draws <;> rfl

/-- The launch time that a submission uses is the thread's, whether or not it draws. -/
theorem takeAtset_time (s : State) (tid : Nat) (draws : Bool) :
    (takeAtset (if draws then srStep s tid else (0, s)).2 tid).1 = (s.task tid).r.atset := by
  cases draws <;> simp [takeAtset, srStep]

theorem mxSubmit_samePairs (s : State) (tid id : Nat) (sink : Sink) (w0 w1 w2 w3 : Word) :
    SamePairs s (mxSubmit s tid id sink w0 w1 w2 w3) :=
  (submitted_samePairs s tid _).trans (samePairs_of_tasks (mxAccept_tasks ..))

theorem mxSubmit_jobs (s : State) (tid id : Nat) (sink : Sink) (w0 w1 w2 w3 : Word) :
    ∃ j : Job, ((mxSubmit s tid id sink w0 w1 w2 w3).cluster ((s.task tid).core / 8)).jobs =
      (s.cluster ((s.task tid).core / 8)).jobs ++ [j] ∧ j.w0 = w0 ∧ j.w1 = w1 ∧ j.w2 = w2 ∧ j.w3 = w3 ∧
      j.sink = sink ∧ j.time = (s.task tid).r.atset := by
  obtain ⟨n, e⟩ := mxAccept_jobs (submitted s tid _) ((s.task tid).core / 8) _ _
  rw [submitted_cluster] at e
  exact ⟨_, e, rfl, rfl, rfl, rfl, rfl, takeAtset_time ..⟩

theorem allocM_got {a : Alloc} (ha : a = .got h s2) : allocM a = .ok (some (h, s2)) := by rw [ha]; rfl

theorem allocM_full {a : Alloc} (ha : a = .full) : allocM a = .ok none := by rw [ha]; rfl

theorem needRel_ready {scope : Nat} (h : relReady s tid scope = true) : needRel s tid scope = .ok () := if_pos h

section
variable (hcl : (s.task tid).core / 8 = cl) (hctx : (s.task tid).ctx = ctx) (hl : (s.task tid).launch = l)
include hcl hctx

theorem submitMx_faults {code : Code} {v : Word} (hc : mxCheck s cl ctx w0 w1 w2 w3 = .error (.trap code v)) :
    submitMx d [w0, w1, w2, w3] tid s = .error (.trap code v) := by
  subst hcl hctx
  exact bind_of_error hc

include hl

section
variable (hc : mxCheck s cl ctx w0 w1 w2 w3 = .ok ()) (hroom : mxRoom s cl ctx = true)
  (hturn : mxTurn s cl l (s.task tid).ident = true)
include hc hroom hturn

theorem submitMx_accepts (ha : allocFut s.fresh.2 cl ctx l (.job cl s.nextId) = .got h s2)
    (hr : relReady s2 tid 2 = true) :
    submitMx d [w0, w1, w2, w3] tid s = writeReg (mxSubmit s2 tid s.nextId (.fut h) w0 w1 w2 w3) tid d h := by
  subst hcl hctx hl
  exact (bind_of_ok hc).trans <| (if_neg (by simp [clOfCore, hroom, hturn])).trans <|
    (bind_of_ok (allocM_got ha)).trans (bind_of_ok (needRel_ready hr))

theorem submitMx_full (ha : allocFut s.fresh.2 cl ctx l (.job cl s.nextId) = .full) :
    submitMx d [w0, w1, w2, w3] tid s = writeReg s tid d futFullStatus := by
  subst hcl hctx hl
  exact (bind_of_ok hc).trans <| (if_neg (by simp [clOfCore, hroom, hturn])).trans (bind_of_ok (allocM_full ha))

end

/-- MXSUBC's command carries the job to the capability's cluster (R165). -/
theorem sendMx_sends (hc : mxCheckDesc (capInt s cap w0) w0 w1 w2 w3 = .ok ())
    (ha : allocFut s.fresh.2 cl ctx l (.job (capCl cap) s.nextId) = .got h s2)
    (hr : relReady s2 tid 4 = true) : ∃ x : CapMsg, sendMx d [w0, w1, w2, w3] cap tid s =
      writeReg ((submitted s2 tid (mxDraws (capInt s cap w0) w0 (s.task tid).r.frm)).modNet fun n =>
        { n with caps := n.caps ++ [x] }) tid d h ∧ x.src = (s.task tid).core ∧ x.cap = cap ∧ x.job.w0 = w0 ∧
      x.job.w1 = w1 ∧ x.job.w2 = w2 ∧ x.job.w3 = w3 ∧ x.job.sink = .fut h ∧ x.job.ctx = ctx ∧
      x.job.time = (s2.task tid).r.atset := by
  subst hcl hctx hl
  refine ⟨_, (bind_of_ok hc).trans <| (bind_of_ok (allocM_got ha)).trans <| (bind_of_ok (needRel_ready hr)).trans rfl,
    rfl, rfl, rfl, rfl, rfl, rfl, rfl, rfl, takeAtset_time ..⟩

end

end

/-! ### MXSUB and MXSUBC once their words are read (R164, R165) -/

theorem writtenSync_net (s : State) (tid d len : Nat) (v : Word) : (writtenSync s tid d len v).net = s.net := rfl

theorem writtenSync_r (s : State) (tid d len : Nat) (v : Word) :
    ((writtenSync s tid d len v).task tid).r = ((s.task tid).r.write d v).skip len := by
  rw [writtenSync, afterSync, done_task]

theorem modNet_net (s : State) (f : Net → Net) : (s.modNet f).net = f s.net := rfl

theorem task_modNet (s : State) (f : Net → Net) (k : Nat) : (s.modNet f).task k = s.task k := rfl

section
variable {s s1 s2 : State} {tid d len : Nat} {as : List Nat} {body : Nat → State → M State} {w0 w1 w2 w3 h cap : Word}
variable (hs : Issuing s tid) (hn : Names s tid (d :: as)) (hsame : SameButNotes s s1)
include hs hn hsame

section
variable (hb : body tid s = submitMx d [w0, w1, w2, w3] tid s1)
  (hc : mxCheck s1 ((s.task tid).core / 8) (s.task tid).ctx w0 w1 w2 w3 = .ok ())
  (hroom : mxRoom s1 ((s.task tid).core / 8) (s.task tid).ctx = true)
  (hturn : mxTurn s1 ((s.task tid).core / 8) (s.task tid).launch (s.task tid).ident = true)
include hb hc hroom hturn

theorem issue_submits (ha : allocFut s1.fresh.2 ((s.task tid).core / 8) (s.task tid).ctx (s.task tid).launch
      (.job ((s.task tid).core / 8) s1.nextId) = .got h s2) (hr : relReady s2 tid 2 = true) :
    issue len .sync (.dst d :: as.map .src) body s =
      .next (writtenSync (mxSubmit s2 tid s1.nextId (.fut h) w0 w1 w2 w3) tid d len h) := by
  rw [← hsame.field Task.ident tid] at hturn
  have hp : SamePairs s s2 := hsame.pairs.trans (samePairs_of_tasks (allocFut_tasks ha))
  exact issue_writtenSync hs hn (hp.trans (mxSubmit_samePairs s2 tid s1.nextId (.fut h) w0 w1 w2 w3)) <| hb.trans <|
    submitMx_accepts (hsame.field (·.core / 8) tid) (hsame.field Task.ctx tid) (hsame.field Task.launch tid) hc hroom hturn ha hr

theorem issue_futFull (ha : allocFut s1.fresh.2 ((s.task tid).core / 8) (s.task tid).ctx (s.task tid).launch
      (.job ((s.task tid).core / 8) s1.nextId) = .full) :
    issue len .sync (.dst d :: as.map .src) body s = .next (writtenSync s1 tid d len futFullStatus) := by
  rw [← hsame.field Task.ident tid] at hturn
  exact issue_writtenSync hs hn hsame.pairs <| hb.trans <|
    submitMx_full (hsame.field (·.core / 8) tid) (hsame.field Task.ctx tid) (hsame.field Task.launch tid) hc hroom hturn ha

end

theorem issue_sends (hb : body tid s = sendMx d [w0, w1, w2, w3] cap tid s1)
    (hc : mxCheckDesc (capInt s1 cap w0) w0 w1 w2 w3 = .ok ())
    (ha : allocFut s1.fresh.2 ((s.task tid).core / 8) (s.task tid).ctx (s.task tid).launch
      (.job (capCl cap) s1.nextId) = .got h s2) (hr : relReady s2 tid 4 = true) :
    ∃ (s' : State) (x : CapMsg), issue len .sync (.dst d :: as.map .src) body s = .next s' ∧
      s'.net.caps = s2.net.caps ++ [x] ∧ x.src = (s.task tid).core ∧ x.cap = cap ∧ x.job.w0 = w0 ∧
      x.job.w1 = w1 ∧ x.job.w2 = w2 ∧ x.job.w3 = w3 ∧ x.job.sink = .fut h ∧ x.job.ctx = (s.task tid).ctx ∧
      x.job.time = (s.task tid).r.atset ∧ (s'.task tid).r = ({ (s.task tid).r with
        srseed := if mxDraws (capInt s1 cap w0) w0 (s.task tid).r.frm then srNext (s.task tid).r.srseed else (s.task tid).r.srseed
        atset := 0 }.write d h).skip len := by
  have h2 : SameButNotes s s2 := hsame.trans (sameButNotes_of_tasks (allocFut_tasks ha))
  obtain ⟨x, hsend, hsrc, hcap, h0, h1, hw2, h3, hsink, hctx, htime⟩ := sendMx_sends (d := d)
    (hsame.field (·.core / 8) tid) (hsame.field Task.ctx tid) (hsame.field Task.launch tid) hc ha hr
  rw [hsame.field Task.r tid] at hsend
  have hp : SamePairs s _ := h2.pairs.trans (submitted_samePairs s2 tid (mxDraws (capInt s1 cap w0) w0 (s.task tid).r.frm))
  refine ⟨_, x, issue_writtenSync hs hn (fun k => ?_) (hb.trans hsend), ?_, hsrc.trans (hsame.field Task.core tid), hcap,
    h0, h1, hw2, h3, hsink, hctx, htime.trans (congrArg Regs.atset (h2.field Task.r tid)), ?_⟩
  · rw [task_modNet, hp]
  · rw [writtenSync_net, modNet_net, submitted_net]
  · rw [writtenSync_r, task_modNet, submitted_r, h2.field Task.r tid]

end

theorem exec_mxsub (d a : BitVec 7) (s : State) : exec (.mxsub d a) s = issue 4 .sync (.dst d.toNat :: [a.toNat].map .src)
    (fun tid s => descAt s tid a.toNat >>= fun p => submitMx d.toNat p.1 tid p.2) s := rfl

theorem exec_mxsubLong (d a b e f : BitVec 7) (s : State) : exec (.mxsubLong d a b e f) s =
    issue 8 .sync (.dst d.toNat :: [a.toNat, b.toNat, e.toNat, f.toNat].map .src)
      (fun tid s => readRegs s tid [a.toNat, b.toNat, e.toNat, f.toNat] >>= fun p => submitMx d.toNat p.1 tid p.2) s := rfl

theorem exec_mxsubc (d a b : BitVec 7) (s : State) : exec (.mxsubc d a b) s =
    issue 4 .sync (.dst d.toNat :: [a.toNat, b.toNat].map .src) (fun tid s => descAt s tid a.toNat >>= fun p =>
      readReg p.2 tid b.toNat >>= fun q => sendMx d.toNat p.1 q.1 tid q.2) s := rfl

theorem exec_mxsubcLong (d a b e f g : BitVec 7) (s : State) : exec (.mxsubcLong d a b e f g) s =
    issue 8 .sync (.dst d.toNat :: [a.toNat, b.toNat, e.toNat, f.toNat, g.toNat].map .src)
      (fun tid s => readRegs s tid [a.toNat, b.toNat, e.toNat, f.toNat, g.toNat] >>= fun p =>
        sendMx d.toNat (p.1.take 4) (p.1.getD 4 0) tid p.2) s := rfl

/-- Settles O34: a descriptor's words, read from memory or from registers, go to `submitMx` or to `sendMx`, with the thread as it
was but for what its loads noted. -/
theorem matrixSubmission : Obligations.MatrixSubmission := by
  intro s s1 s2 tid d a b e f g w0 w1 w2 w3 h hs hn t cl p ready alloc mem regs near far
  have hnear {i : Instr} {len : Nat} {as : List Nat} {body : Nat → State → M State}
      (hi : exec i s = issue len .sync (.dst d.toNat :: as.map .src) body s) (has : Names s tid (d.toNat :: as))
      (hsame : SameButNotes s s1) (hb : body tid s = submitMx d.toNat [w0, w1, w2, w3] tid s1) : near i len :=
    fun ⟨hc, hroom, hturn⟩ => ⟨fun ha hr => hi.trans (issue_submits hs has hsame hb hc hroom hturn ha hr),
      fun ha => hi.trans (issue_futFull hs has hsame hb hc hroom hturn ha)⟩
  have hfar {i : Instr} {len : Nat} {cap : Word} {as : List Nat} {body : Nat → State → M State}
      (hi : exec i s = issue len .sync (.dst d.toNat :: as.map .src) body s) (has : Names s tid (d.toNat :: as))
      (hsame : SameButNotes s s1) (hb : body tid s = sendMx d.toNat [w0, w1, w2, w3] cap tid s1) : far i len cap := by
    intro hc ha hr
    rw [hi]
    exact issue_sends hs has hsame hb hc ha hr
  have hnames (ns : List Nat) (h : ns ⊆ [d.toNat, a.toNat, b.toNat, e.toNat, f.toNat, g.toNat]) : Names s tid ns :=
    fun n hm => hn n (h hm)
  have ha : Names1 s tid a.toNat := hn _ (by simp)
  have hb : Names1 s tid b.toNat := hn _ (by simp)
  have hread4 (hr : regs 8) : readRegs s tid [a.toNat, b.toNat, e.toNat, f.toNat] = .ok ([w0, w1, w2, w3], s) :=
    (readRegs_names (hnames _ (by simp))).trans (congrArg (fun ws => Except.ok (ws, s)) hr.2.2)
  have hread5 (hr : regs 8) : readRegs s tid [a.toNat, b.toNat, e.toNat, f.toNat, g.toNat] =
      .ok ([w0, w1, w2, w3] ++ [Reads s tid g.toNat], s) :=
    (readRegs_names (hnames _ (by simp))).trans (congrArg (fun ws => Except.ok (ws ++ [Reads s tid g.toNat], s)) hr.2.2)
  refine ⟨?_, fun hr => ?_, fun hr c v hc => ?_, fun _ id => mxSubmit_jobs ..⟩
  · rintro ⟨hp, h8, hl, -⟩
    have hsame : SameButNotes s s1 := loadWords_sameButNotes (pair_of_issuing hs) _ _ _ hl
    have hdesc := descAt_loads ha hp h8 hl
    constructor
    · exact hnear (exec_mxsub d a s) (hnames _ (by simp)) hsame ((bind_of_ok hdesc).trans rfl)
    · refine hfar (exec_mxsubc d a b s) (hnames _ (by simp)) hsame ?_
      rw [← reads_sameButNotes hsame]
      exact (bind_of_ok hdesc).trans ((bind_of_ok (readReg_names_of hb s1)).trans rfl)
  · have hsame : SameButNotes s s1 := hr.1 ▸ .refl s
    constructor
    · refine hnear (exec_mxsubLong d a b e f s) (hnames _ (by simp)) hsame ?_
      rw [hr.1]
      exact (bind_of_ok (hread4 hr)).trans rfl
    · refine hfar (exec_mxsubcLong d a b e f g s) (hnames _ (by simp)) hsame ?_
      rw [hr.1]
      exact (bind_of_ok (hread5 hr)).trans rfl
  · rw [exec_mxsubLong]
    exact issue_faultedSync hs (hnames _ (by simp)) ((bind_of_ok (hread4 hr)).trans (submitMx_faults rfl rfl hc))

end Sys2Proof.Proofs
end

section
namespace Sys2Proof.Proofs
open Sys2Proof.Machine Sys2Proof.Laws

/-! ### A tile's elements under a job's work (R155-R157) -/

section
variable {t : Tile} {r c i j : Nat}

theorem el_put (v : BitVec 32) (bad : Bool) (h : mrising t.e = true) :
    (t.put i j v bad).el r c = if 128 * r + c = 128 * i + j then v else t.el r c := by
  split
  · next e => exact (congrArg _ e).trans (mget_mput 0 t.e _ v h)
  · next e => exact mget_mput_ne 0 0 t.e v h e

theorem mrising_put (v : BitVec 32) (bad : Bool) (h : mrising t.e = true) : mrising (t.put i j v bad).e = true :=
  mrising_mput 0 t.e _ v h

theorem mem_region2 {w0 : Word} {p : Nat × Nat} : p ∈ region2 w0 ↔ p.1 < mxM w0 ∧ p.2 < mxN w0 := by
  obtain ⟨i, j⟩ := p
  simp [region2]

/-- Work that puts one element at each position of a region, whatever else it carries, leaves every other element. -/
theorem el_foldl_put_ne {A : Type} {tile : A → Tile} {f : A → Nat × Nat → A} {i j : Nat}
    (hf : ∀ x p, ∃ v bad, tile (f x p) = (tile x).put (i + p.1) (j + p.2) v bad) (ps : List (Nat × Nat))
    (hps : ∀ p ∈ ps, 128 * r + c ≠ 128 * (i + p.1) + (j + p.2)) (x : A) (hx : mrising (tile x).e = true) :
    (tile (ps.foldl f x)).el r c = (tile x).el r c := by
  induction ps generalizing x with
  | nil => rfl
  | cons p ps ih =>
    obtain ⟨hp, hps⟩ := List.forall_mem_cons.mp hps
    obtain ⟨v, bad, e⟩ := hf x p
    rw [List.foldl_cons, ih hps _ (by rw [e]; exact mrising_put v bad hx), e, el_put v bad hx, if_neg hp]

theorem mmaAt_puts (w0 w1 w2 : Word) (as bs : List (List (Nat × Nat × Bool))) (x : TAcc) (p : Nat × Nat) :
    ∃ v bad, (mmaAt w0 w1 w2 as bs x p).1 = x.1.put (mxRow0 w0 + p.1) (mxCol0 w0 + p.2) v bad := by
  unfold mmaAt
  dsimp only
  split <;> exact ⟨_, _, rfl⟩

theorem loadAt_puts (j : Job) (rows : List Bytes) (x : LAcc) (p : Nat × Nat) :
    ∃ v bad, (loadAt j rows x p).1.1 = x.1.1.put (mxRow0 j.w0 + p.1) (mxCol0 j.w0 + p.2) v bad := by
  unfold loadAt
  dsimp only
  split
  · exact ⟨_, _, rfl⟩
  · split <;> exact ⟨_, _, rfl⟩

/-- Zeros put in turn. -/
theorem el_foldl_zero (ps : List (Nat × Nat)) (h : mrising t.e = true) :
    (ps.foldl (fun t p => t.put (i + p.1) (j + p.2) 0 false) t).el r c =
      if ∃ p ∈ ps, 128 * r + c = 128 * (i + p.1) + (j + p.2) then 0 else t.el r c := by
  induction ps generalizing t with
  | nil => simp
  | cons p ps ih =>
    rw [List.foldl_cons, ih (mrising_put 0 false h), el_put 0 false h]
    simp only [List.exists_mem_cons_iff]
    by_cases hp : 128 * r + c = 128 * (i + p.1) + (j + p.2)
    · simp only [hp, true_or, if_true, ite_self]
    · simp only [hp, false_or, if_false]

/-- The positions of a region are its elements' places, each in its own row of 128 (R148). -/
theorem place_iff {w0 : Word} (hw : mxCol0 w0 + mxN w0 ≤ 128) (hc : c < 128) :
    (∃ p ∈ region2 w0, 128 * r + c = 128 * (mxRow0 w0 + p.1) + (mxCol0 w0 + p.2)) ↔
      mxRow0 w0 ≤ r ∧ r < mxRow0 w0 + mxM w0 ∧ mxCol0 w0 ≤ c ∧ c < mxCol0 w0 + mxN w0 := by
  constructor
  · rintro ⟨p, hp, e⟩
    obtain ⟨h1, h2⟩ := mem_region2.mp hp
    omega
  · rintro ⟨h1, h2, h3, h4⟩
    exact ⟨(r - mxRow0 w0, c - mxCol0 w0), mem_region2.mpr (by dsimp only; omega), by dsimp only; omega⟩

end

/-- A job's change leaves every tile. -/
theorem tile_modJob (s : State) (cl id k : Nat) (f : Job → Job) : (s.modJob cl id f).tile cl k = s.tile cl k := by
  simp only [State.tile, State.modJob, cluster_modCluster]

/-! ### The job that an MXE runs (R149, R163) -/

section
variable {s : State} {cl op n : Nat} {x y : Job} {work : State → Job → Eng State}

theorem runJob_idle (h : mxNext s cl = none) : runJob cl n op work s = s := by
  simp only [runJob, h]

theorem runJob_notYet (hx : mxNext s cl = some x) (hm : mayStart s cl x = false) : runJob cl n op work s = s := by
  simp only [runJob, hx, hm, Bool.not_false, Bool.or_true, if_true]

/-- The four operations are one job's step. -/
theorem mxe_idle (h : ∀ op work, runJob cl n op work s = s) : exec (.mxeMma cl n) s = .next s ∧
    exec (.mxeLoad cl n) s = .next s ∧ exec (.mxeStore cl n) s = .next s ∧ exec (.mxeZero cl n) s = .next s :=
  ⟨congrArg _ (h ..), congrArg _ (h ..), congrArg _ (h ..), congrArg _ (h ..)⟩

section
variable (hx : mxNext s cl = some x) (hr : x.result = none) (hm : mayStart s cl x = true) (hop : mxOp x.w0 = op)
  (hy : ((startJob s cl x).cluster cl).jobs.find? (fun z => z.id = x.id) = some y)
include hx hr hm hop hy

theorem runJob_unsuited (hd : mxDescOk ((startJob s cl x).tile cl (mxTile y.w0)).ty y.w0 y.w1 y.w2 y.w3 = false) :
    runJob cl x.id op work s = jobOver (startJob s cl x) cl x.id MX_DESC.toNat 0 := by
  simp [runJob, hx, hr, hm, hop, hy, hd]

variable (hd : mxDescOk ((startJob s cl x).tile cl (mxTile y.w0)).ty y.w0 y.w1 y.w2 y.w3 = true)
include hd

theorem runJob_works {a b : State} (hw : work (startJob s cl x) y = .ok a b) :
    runJob cl x.id op work s = a.modJob cl x.id fun z => { z with why := none } := by
  simp [runJob, hx, hr, hm, hop, hy, hd, hw]

theorem runJob_waits {a : State} {c : Cause} (hw : work (startJob s cl x) y = .wait a c) :
    runJob cl x.id op work s = a.modJob cl x.id fun z => { z with why := some c } := by
  simp [runJob, hx, hr, hm, hop, hy, hd, hw]

theorem runJob_fails {c : Code} (hw : work (startJob s cl x) y = .bad c) :
    runJob cl x.id op work s = jobOver (startJob s cl x) cl x.id c.toNat 0 := by
  simp [runJob, hx, hr, hm, hop, hy, hd, hw]

end

/-- A ZERO zeroes its region and changes nothing else of its tile (R157). -/
theorem zeroWork_el {r c : Nat} (hw : mxCol0 x.w0 + mxN x.w0 ≤ 128) (hc : c < 128)
    (h : mrising (s.tile cl (mxTile x.w0)).e = true) : ∃ s', zeroWork cl s x = .ok s' s ∧
      (s'.tile cl (mxTile x.w0)).el r c =
        if mxRow0 x.w0 ≤ r ∧ r < mxRow0 x.w0 + mxM x.w0 ∧ mxCol0 x.w0 ≤ c ∧ c < mxCol0 x.w0 + mxN x.w0 then 0
        else (s.tile cl (mxTile x.w0)).el r c := by
  refine ⟨_, rfl, ?_⟩
  rw [jobOver, tile_modJob, tile_setTile, el_foldl_zero _ h]
  simp only [place_iff hw hc]

/-! ### Completion (R161) -/

theorem mxeJobComplete_posts {e : Word} (hx : ((s.cluster cl).jobs.find? fun z => z.id = n) = some x) (he : x.result = some e)
    (hp : engPending s cl n = false) : execMxeJobComplete cl n s = .next (postElem (s.modCluster cl fun c =>
      { c with jobs := c.jobs.filter (fun z => z.id ≠ n), mxFree := s.cycle }) x e) := by
  simp [execMxeJobComplete, hx, he, hp]

theorem mxeJobComplete_early (hx : ((s.cluster cl).jobs.find? fun z => z.id = n) = some x)
    (h : x.result = none ∨ engPending s cl n = true) : execMxeJobComplete cl n s = .next s := by
  unfold execMxeJobComplete
  rw [hx]
  obtain h | h := h
  · simp [h]
  · cases he : x.result <;> simp [he, h]

theorem postElem_queued {t : Nat} {e : Word} (hs : x.sink = .ep t) (hl : liveTask s t = true) :
    ((postElem s x e).task t).mxDone = (s.task t).mxDone ++ [e] := by
  simp only [postElem, hs, hl, if_true, task_modTask]

end

/-! ### A command at its target (R165, R376, R377) -/

section
variable {s : State} {i : Nat} {m : CapMsg}

theorem mxsubcCommand_served {s' : State} (hm : s.net.caps[i]? = some m) (hr : m.retry = false)
    (hc : clusterMoving s (capCl m.cap) = false) (h : capServe (s.modNet fun n => { n with caps := ldel n.caps i }) m = some s') :
    execMxsubcCommand i s = .next s' := by
  simp [execMxsubcCommand, hm, hr, hc, h]

theorem capServe_denied (hk : capOk s m.cap m.job.w0 = false) : capServe s m = some (capRefuse s m.job CAP_DENIED) := by
  simp [capServe, hk]

variable (hk : capOk s m.cap m.job.w0 = true)
include hk

theorem capServe_tile (ho : (s.tile (capCl m.cap) (mxTile m.job.w0)).owner ≠ some (bits m.cap 35 30)) :
    capServe s m = some (capRefuse s m.job MX_TILE) := by
  simp [capServe, hk, ho]

variable (ho : (s.tile (capCl m.cap) (mxTile m.job.w0)).owner = some (bits m.cap 35 30))
include ho

theorem capServe_quota (hq : 4 * tilesOwned s (capCl m.cap) (bits m.cap 35 30) ≤ jobsOf s (capCl m.cap) (bits m.cap 35 30)) :
    capServe s m = some (capRefuse s m.job MX_QUOTA) := by
  simp [capServe, hk, ho, hq]

theorem capServe_accepts (hq : mxRoom s (capCl m.cap) (bits m.cap 35 30) = true)
    (ht : mxTurn s (capCl m.cap) m.job.launch 0 = true) :
    capServe s m = some (mxAccept s (capCl m.cap) { m.job with ctx := bits m.cap 35 30 } 0) := by
  have hlt : ¬ 4 * tilesOwned s (capCl m.cap) (bits m.cap 35 30) ≤ jobsOf s (capCl m.cap) (bits m.cap 35 30) := by
    simp only [mxRoom, Bool.and_eq_true, decide_eq_true_eq] at hq
    omega
  simp only [capServe, hk, ho, hlt, hq, ht, Bool.not_true, Bool.or_self, ne_eq, not_true_eq_false, if_false,
    Bool.false_eq_true]

end

/-! ### Two swaps of one TAG (R173, R174) -/

/-- Both blocks of a pair that has met, read one after the other. -/
def bothBlocks (s : State) (a b : Swap) : Eng (Bytes × Bytes) :=
  (blockOf s a).bind fun x s => (blockOf s b).bind fun y s => .ok (x, y) s

/-- A pair's requests leave, and the futures of its sides are poisoned. -/
def swapsEnd (s : State) (a b : Swap) (c : Code) : State :=
  (swapSides a b).foldl (fun s z => poisonH s z.fut c) (dropSwaps s [a, b])

section
variable {s : State} {k i : Nat} {a b : Swap} (ha : (s.core k).swaps[i]? = some a) (hk : unitSilent s k = false)
  (hm : unitSilent s (mirrorOf k) = false)
include ha hk hm

theorem tswapMatch_alone (h : swapMate s a = none) : execTswapMatch k i s = .next s := by
  simp [execTswapMatch, ha, hk, hm, h]

variable (hb : swapMate s a = some b)
include hb

theorem tswapMatch_mismatch (hd : a.d ≠ b.d) : execTswapMatch k i s = .next (swapsEnd s a b SWAP_MISMATCH) := by
  simp [execTswapMatch, ha, hk, hm, hb, hd, swapsEnd]

variable (hd : a.d = b.d)
include hd

theorem tswapMatch_lands {x y : Bytes} {s' : State} (h : bothBlocks s a b = .ok (x, y) s') :
    execTswapMatch k i s = .next ((dropSwaps s' [a, b]).modNet fun n =>
      { n with landings := n.landings ++ [if a.id = b.id then [landingOf a a x] else [landingOf a b y, landingOf b a x]] }) := by
  unfold bothBlocks at h
  simp [execTswapMatch, ha, hk, hm, hb, hd, h]

theorem tswapMatch_waits {s' : State} {c : Cause} (h : bothBlocks s a b = .wait s' c) : execTswapMatch k i s = .next s' := by
  unfold bothBlocks at h
  simp [execTswapMatch, ha, hk, hm, hb, hd, h]

theorem tswapMatch_fails {c : Code} (h : bothBlocks s a b = .bad c) : execTswapMatch k i s = .next (swapsEnd s a b c) := by
  unfold bothBlocks at h
  simp [execTswapMatch, ha, hk, hm, hb, hd, h, swapsEnd]

end

/-! ### Landings (R173, R229) -/

/-- A landing is over, and no write of it is under way. -/
def Landed (s : State) (z : Landing) : Prop := z.over s = true ∧ engPending s (z.core / 8) z.id = false

section
variable {s : State} {i : Nat} {xs : List Landing}

theorem all_landed_iff (ls : List Landing) : (ls.all fun z => z.over s && !engPending s (clOfCore z.core) z.id) = true ↔
    ∀ z ∈ ls, Landed s z := by
  simp only [List.all_eq_true, Bool.and_eq_true, Bool.not_eq_true']
  rfl

variable (hx : s.net.landings[i]? = some xs)
include hx

theorem tswapComplete_resolves (h : ∀ z ∈ (landBlocks xs s).1, Landed (landBlocks xs s).2 z) :
    execTswapComplete i s = .next ((landBlocks xs s).1.foldl landedFut
      ((landBlocks xs s).2.modNet fun n => { n with landings := ldel n.landings i })) := by
  simp only [execTswapComplete, hx, (all_landed_iff _).mpr h, if_true]

theorem tswapComplete_goesOn (h : ¬ ∀ z ∈ (landBlocks xs s).1, Landed (landBlocks xs s).2 z) :
    execTswapComplete i s = .next ((landBlocks xs s).2.modNet fun n =>
      { n with landings := lset n.landings i (landBlocks xs s).1 }) := by
  simp only [execTswapComplete, hx, mt (all_landed_iff _).mp h, if_false, Bool.false_eq_true]

end

theorem landedFut_whole {s : State} {z : Landing} (h : z.code = 0) : landedFut s z = swapResolve s z.fut := if_pos h

/-- Settles O43: what an MXE's job, a command, two swaps and their landings do, each by the lemma of its case. -/
theorem matrixEvents : Obligations.MatrixEvents := by
  intro s cl i x y
  refine ⟨fun hx hr hm => ?_, fun hx hm _ => mxe_idle fun _ _ => runJob_notYet hx hm,
    fun hx _ => mxe_idle fun _ _ => runJob_idle hx, fun hw r c hc => ?_, fun n e hx he hp => ?_,
    fun n hx h => mxeJobComplete_early hx h, fun m hm hr hc => ?_, fun k a ha hk hm => ?_, fun xs hx => ?_, fun hx => ?_⟩
  · intro s0 hy does
    have hdoes {ev op work} (hev : exec ev s = .next (runJob cl x.id op work s)) : does ev op work := fun hop =>
      ⟨fun hd => hev.trans (congrArg _ (runJob_unsuited hx hr hm hop hy hd)), fun hd =>
        ⟨fun a b hw => hev.trans (congrArg _ (runJob_works hx hr hm hop hy hd hw)),
          fun a c hw => hev.trans (congrArg _ (runJob_waits hx hr hm hop hy hd hw)),
          fun c hw => hev.trans (congrArg _ (runJob_fails hx hr hm hop hy hd hw))⟩⟩
    have hzero : does (.mxeZero cl x.id) 3 (zeroWork cl) := hdoes rfl
    exact ⟨hdoes rfl, hdoes rfl, hdoes rfl, fun hop => (hzero hop).1, fun hop hd => ((hzero hop).2 hd).1⟩
  · intro inside
    refine ⟨fun hout as bs rows t fl bad seed ht => ?_, zeroWork_el hw hc⟩
    have hps p (hp : p ∈ region2 x.w0) : 128 * r + c ≠ 128 * (mxRow0 x.w0 + p.1) + (mxCol0 x.w0 + p.2) := fun e =>
      hout ((place_iff hw hc).mp ⟨p, hp, e⟩)
    exact ⟨el_foldl_put_ne (tile := fun a : TAcc => a.1) (mmaAt_puts x.w0 x.w1 x.w2 as bs) _ hps _ ht,
      el_foldl_put_ne (tile := fun a : LAcc => a.1.1) (loadAt_puts x rows) _ hps _ ht⟩
  · have hpost := mxeJobComplete_posts hx he hp
    exact ⟨hpost, fun t hs hl => ⟨_, hpost, postElem_queued hs hl⟩⟩
  · intro s0 ctx refused
    exact ⟨fun hk => mxsubcCommand_served hm hr hc (capServe_denied hk),
      fun hk ho => mxsubcCommand_served hm hr hc (capServe_tile hk ho),
      fun hk ho hq => mxsubcCommand_served hm hr hc (capServe_quota hk ho hq),
      fun hk ho hq ht => mxsubcCommand_served hm hr hc (capServe_accepts hk ho hq ht)⟩
  · refine ⟨tswapMatch_alone ha hk hm, fun b hb => ?_⟩
    exact ⟨tswapMatch_mismatch ha hk hm hb, fun hd => ⟨fun _ _ _ => tswapMatch_lands ha hk hm hb hd,
      fun _ _ => tswapMatch_waits ha hk hm hb hd, fun _ => tswapMatch_fails ha hk hm hb hd⟩⟩
  · refine ⟨fun h a b he hca hcb => (tswapComplete_resolves hx h).trans ?_,
      fun h a he => (tswapComplete_resolves hx h).trans ?_, tswapComplete_goesOn hx⟩
    · rw [he, List.foldl_cons, List.foldl_cons, List.foldl_nil, landedFut_whole hca, landedFut_whole hcb]
    · rw [he, List.foldl_cons, List.foldl_nil]
  · show execTswapComplete i s = .next s
    simp only [execTswapComplete, hx]

end Sys2Proof.Proofs
end
